-- ==== Sys2Proof/Word.lean ====
section
/-! DEFINITION. The word types of the registers the host sees (R10) and of memory. -/

namespace Sys2Proof

/-- A hardware register: 32 bits wide, bit 0 least significant (R10). -/
abbrev Word := BitVec 32

/-- One octet of memory. -/
abbrev Byte := BitVec 8

end Sys2Proof
end

