-- ==== Sys2Proof/Syntax.lean ====
section
/-! DEFINITION. The commands the block takes: the operand types, and `Instr`, one constructor per row of
spec/opcode_table.json. -/

namespace Sys2Proof

/-- A request channel (R35, R44 to R48): a mailbox pair, a DTP session, a fabric peer, or the bridge's own firmware. -/
inductive Chan
  | mbx (n : Nat)
  | dtp (session : Nat)
  | peer (fdev : Nat)
  | fw
deriving DecidableEq, Repr

/-- The header fields of a dictionary request (Table 2.5). -/
structure Req where
  op : Nat
  words : Nat
  flags : Nat
  tag : Nat
  index : Nat
  sub : Nat
  count : Nat
  group : Nat
  element : Nat
  length : Nat
deriving DecidableEq, Repr

/-- The octets of a signed image as it is offered: header, body, LMS signature (R400). -/
structure Image where
  octs : List Nat
deriving DecidableEq, Repr

/-- The octets of a token body (Table 18.7). -/
structure Token where
  octs : List Nat
deriving DecidableEq, Repr

/-- The octets of a TokenSignature (R408): an LMS public key and an LMS signature. -/
structure TokenSig where
  octs : List Nat
deriving DecidableEq, Repr

/-- The octets of an RFC 3394 wrap of key material (R143). -/
structure Wrapped where
  octs : List Nat
deriving DecidableEq, Repr

/-- An operator image of Table 10.5: its frame, its pixels' octets and their check values are facts the bridge computes. -/
structure OpImage where
  formatOk : Bool
  width : Nat
  height : Nat
  alpha : Bool
  pixels : List Nat
deriving DecidableEq, Repr

/-- The data a request carries: octets as a little-endian number, or a value whose octets the model keeps in the form the
checks of its object read. -/
inductive Payload
  | num (v : Nat)
  | image (i : Image)
  | opImage (i : OpImage)
  | token (t : Token)
  | sig (g : TokenSig)
  | wrapped (w : Wrapped)
  | persist (recs : List (Nat × Nat)) (classifier : Option Image) (digest : Nat)
deriving DecidableEq, Repr

/-- The protection of a packet: the suite and the session keys it was protected under (encryption, authentication, salt), its
initialisation vector, the rollover counter (RTP) or SRTCP index (RTCP) its tag covers, the E flag of SRTCP, whether it carries an MKI,
and whether it arrived unaltered. -/
structure Prot where
  suite : Nat
  enc : List Nat
  auth : List Nat
  salt : List Nat
  iv : List Nat
  index : Nat
  eflag : Bool
  mki : Bool
  intact : Bool
deriving DecidableEq, Repr

/-- The layer information that an extension or the headers of a video packet give (Table 12.4). -/
structure LayerInfo where
  known : Bool
  spatial : Nat
  temporal : Nat
  switching : Bool
  independent : Bool
  targetSwitch : Bool
  endOfFrame : Bool
deriving DecidableEq, Repr

/-- What an RTP header extension of RFC 8285 holds: frame marking, an AV1 dependency descriptor, the transport-wide sequence number, or
anything else (Table 12.4). -/
inductive ExtBody
  | frameMark (l : LayerInfo)
  | depDesc (l : LayerInfo)
  | twcc (n : Nat)
  | other
deriving DecidableEq, Repr

/-- A header extension: its id, the octets of its data. -/
structure HdrExt where
  id : Nat
  octets : Nat
  body : ExtBody
deriving DecidableEq, Repr

/-- The audio a payload carries: its octets, and per channel the 48 kHz samples (24-bit) the codec decodes it to, at the
bandwidth of the class. -/
structure AudioData where
  octets : Nat
  chans : List (List Int)
  silent : Bool
deriving DecidableEq, Repr

/-- What a video access unit's bits say to the pipe that decodes it (R222, R223, R227 to R233). The sequence: size, depth,
rate limits as coded, whether Table 9.1 supports it. The picture: its order count, whether it begins with a key picture, is
disposable, a RASL picture, a point where a higher temporal layer may start; its layer ids. References by order count: those
it names, those that stay short- and long-term references after it, itself among them when it is one. `bumped` are the order
counts whose pictures it lets out, `header` says that it holds a sequence header. `badSyntax` says that the pipe meets a syntax
error, `damaged` is the number of its damaged 16 x 16 regions, and `colour` the header's four colour octets. `spatials` are the spatial layers
of an AV1 temporal unit with their sizes, the lowest first; empty where it has one only. -/
structure PicFacts where
  supported : Bool
  width : Nat
  height : Nat
  depth : Nat
  profile : Nat
  level : Nat
  order : Nat
  key : Bool
  disposable : Bool
  rasl : Bool
  upSwitch : Bool
  spatial : Nat
  temporal : Nat
  header : Bool
  refs : List Nat
  short : List Nat
  long : List Nat
  bumped : List Nat
  badSyntax : Bool
  damaged : Nat
  colour : Nat
  spatials : List (Nat × Nat × Nat)
deriving DecidableEq, Repr

/-- An RTP packet. `osn` is the original sequence number of an RTX packet, `octets` the payload length, `key` whether it
begins a key picture, `layer` what its NAL or OBU headers say, `exts` its header extensions, `video` what the access unit it begins
holds. -/
structure Rtp where
  pt : Nat
  marker : Bool
  seq : Nat
  ts : Nat
  ssrc : Nat
  octets : Nat
  osn : Option Nat
  layer : LayerInfo
  key : Bool
  audio : Option AudioData
  video : Option PicFacts
  prot : Option Prot
  exts : List HdrExt := []
deriving DecidableEq, Repr

/-- A report block of RFC 3550. -/
structure ReportBlock where
  ssrc : Nat
  fraction : Nat
  lost : Nat
  highest : Nat
  jitter : Nat
  lsr : Nat
  dlsr : Nat
deriving DecidableEq, Repr

/-- One packet of an RTCP compound (R122, R123). -/
inductive RtcpPart
  | sr (ssrc ntp rtp packets octets : Nat) (blocks : List ReportBlock)
  | rr (ssrc : Nat) (blocks : List ReportBlock)
  | sdes (ssrc : Nat) (cname : Nat)
  | bye (ssrcs : List Nat)
  | nack (sender media : Nat) (seqs : List Nat)
  | pli (sender media : Nat)
  | fir (sender media seq : Nat)
  | remb (sender rate : Nat)
  | twcc (sender : Nat) (arrivals : List (Nat × Nat))
  | badLength
deriving DecidableEq, Repr

/-- An RTCP compound or feedback packet. -/
structure Rtcp where
  sender : Nat
  parts : List RtcpPart
  octets : Nat
  prot : Option Prot
deriving DecidableEq, Repr

/-- What a UDP datagram carries, as steps 5 and 6 of Table 4.6 tell it apart; of a frame of EtherType 0x88F7, the first octets of the
PTP message, whose low 4 bits are its messageType (R370). -/
inductive UdpData
  | raw (first second : Nat)
  | rtp (p : Rtp)
  | rtcp (p : Rtcp)
deriving DecidableEq, Repr

/-- An Ethernet frame with the fields the parser of Table 4.6 reads: its tags (TPID, VID), the EtherType after them, the IP
header's facts (address family, header valid, fragment or routing header present, extension headers), UDP's facts. -/
structure Frame where
  octets : Nat
  tags : List (Nat × Nat)
  etherType : Nat
  ipHeaderOk : Bool
  ihl : Nat
  optionHeaders : Nat
  fragment : Bool
  isUdp : Bool
  udpLengthOk : Bool
  udpSumZero : Bool
  udpSumOk : Bool
  srcAddr : Nat
  dstAddr : Nat
  srcPort : Nat
  dstPort : Nat
  data : UdpData
deriving DecidableEq, Repr

/-- The result of a classifier program other than the shipped one on a frame (R114). -/
inductive Verdict | drop | exception (reason : Nat) | leg (leg entry : Nat)
deriving DecidableEq, Repr

/-- The headers a frame is sent under (R127): destination and source MAC, the leg's Vlan value, address family, DSCP, addresses and
UDP ports, in the direction of sending; the UDP checksum is computed over the whole. -/
structure FrameHdr where
  dstMac : Nat
  srcMac : Nat
  vlan : Nat
  family : Nat
  dscp : Nat
  srcAddr : Nat
  dstAddr : Nat
  srcPort : Nat
  dstPort : Nat
deriving DecidableEq, Repr

/-- Headers of a packet that is not formed yet. -/
def FrameHdr.blank : FrameHdr := ⟨0, 0, 0, 4, 0, 0, 0, 0, 0⟩

/-- A packet a leg sends: its stream entry, RTP fields or RTCP parts, frame length (destination address to payload end,
tags included, epoch tag not), the protection it left under, for audio the samples it codes, its headers and header extensions. -/
structure OutPkt where
  leg : Nat
  entry : Nat
  rtcp : List RtcpPart
  pt : Nat
  marker : Bool
  seq : Nat
  ts : Nat
  ssrc : Nat
  octets : Nat
  frameLen : Nat
  index : Nat
  twcc : Option Nat
  prot : Option Prot
  audio : List Int
  padding : Bool
  srcLeg : Nat
  srcEntry : Nat
  srcSeq : Nat
  resent : Nat
  hdr : FrameHdr := FrameHdr.blank
  exts : List HdrExt := []
  stereo : Bool := false
deriving DecidableEq, Repr

/-- An access unit for a decode context (R120, R223). -/
structure AccessUnit where
  leg : Nat
  entry : Nat
  ts : Nat
  octets : Nat
  key : Bool
  missing : Bool
  facts : PicFacts
  at_ : Nat
deriving DecidableEq, Repr

/-- How a block is coded (R270, R278): in an intra mode of its codec, predicted with a vector in quarter samples from the picture of a
number, or skipped, copied from it. -/
inductive BlockMode | intra (mode : Nat) | inter (ref : Nat) (vx vy : Int) | skip (ref : Nat)
deriving DecidableEq, Repr

/-- A coded block (R270): its layer's rung, its place and size in that layer's samples, its mode, whether it carries a residual. -/
structure CodedBlock where
  rung : Nat
  x : Nat
  y : Nat
  size : Nat
  mode : BlockMode
  residual : Bool
deriving DecidableEq, Repr

/-- What the bitstream of a picture signals and how it is cut (R270, R279): sample depth, full-range flag and colour description (H.273
codes), the pictures it references, whether its upper layers also predict from the layer below, whether each 64-row band is a
slice or tile row with intra prediction constrained to intra blocks. -/
structure PicSignal where
  depth : Nat
  fullRange : Bool
  primaries : Nat
  transfer : Nat
  matrix : Nat
  refs : List Nat
  fromBelow : Bool
  bandSlices : Bool
deriving DecidableEq, Repr

/-- A coded access unit in a bitstream queue (R271, Table 11.3): the tick is an instant of TimeOfDay, `bits` its length, `layerBits` its
layers' bits, lowest first; what it signals and its coded blocks. -/
structure BitPic where
  rctx : Nat
  number : Nat
  tick : Nat
  key : Bool
  ltr : Bool
  recovery : Bool
  minimal : Bool
  fallback : Bool
  temporal : Nat
  spatial : Nat
  bits : Nat
  layerBits : List Nat
  signal : PicSignal
  blocks : List CodedBlock
deriving DecidableEq, Repr

/-- An event record (Table 19.1). -/
structure EventRec where
  seq : Nat
  time : Nat
  code : Nat
  severity : Nat
  nested : Bool
  aonClock : Bool
  arg0 : Nat
  arg1 : Nat
deriving DecidableEq, Repr

/-- A speaker event record (Table 8.6). -/
structure SpeakerRec where
  conf : Nat
  frame : Nat
  active : Nat
  speakerChanged : Bool
  setChanged : Bool
  entries : List Nat
deriving DecidableEq, Repr

/-- A recording sector (R126, R149, R212, R432): its tap, number, the generation of the key it is encrypted under, the header's time and
flags, the 960 samples, whether it overwrites a recorded sector, and, once it has left the cipher complex, its 4,096 encrypted
octets. -/
structure Sector where
  isLeg : Bool
  id : Nat
  number : Nat
  cipher : List Nat
  overwrites : Bool
  gen : Nat
  time : Nat
  firstAbsent : Bool
  secondAbsent : Bool
  clipped : Bool
  samples : List Int
deriving DecidableEq, Repr

/-- A timestamp record (Table 16.1). -/
structure StampRec where
  source : Nat
  seq : Nat
  ts : Nat
deriving DecidableEq, Repr

/-- A prompt item (Table 4.10) with the 48 kHz samples its payload decodes to. -/
structure PromptItem where
  isConf : Bool
  target : Nat
  format : Nat
  loops : Nat
  gain : Nat
  clip : Nat
  startSec : Nat
  startNs : Nat
  last : Bool
  stop : Bool
  samples : List Int
deriving DecidableEq, Repr

/-- A work item descriptor as a source posts it (Table 6.2); the port sets SRC. -/
structure Descriptor where
  flow : Nat
  prio : Nat
  program : Nat
  timeout : Nat
  arg0 : Nat
  arg1 : Nat
  data : Nat
  cq : Nat
  dataLen : Nat
  wgroup : Nat
  wseq : Nat
deriving DecidableEq, Repr

/-- The interrupt sources of Table 7.11, with the causes that arise outside an instruction (Table 7.12). -/
inductive IntSource | fault | dbg | tmr | bus | dma | ecc
deriving DecidableEq, Repr

/-- Address modes of Table 7.6: a pointer, and what is done with it. -/
inductive AddrMode
  | indirect (p : Nat)
  | offset (p : Nat) (k : Int)
  | postInc (p : Nat)
  | postDec (p : Nat)
  | postMod (p m : Nat)
  | bitRev (p m : Nat)
deriving DecidableEq, Repr

/-- Registers that a MOV of the memory slot writes or reads (Table 7.1): the control registers, a data register or pair, a register of the
pointer banks and of the loop banks. -/
inductive MovReg
  | status | mode | tcmp | dr | ira | istat
  | d (n : Nat) | pair (n : Nat) | p (n : Nat) | b (n : Nat) | l (n : Nat) | m (n : Nat) | lc (n : Nat) | ls (n : Nat) | le (n : Nat)
deriving DecidableEq, Repr

/-- What a MOV moves: an immediate, a register, or CYC, which is read only. -/
inductive MovSrc | imm (v : BitVec 24) | reg (r : MovReg) | cyc
deriving DecidableEq, Repr

/-- Forms of the accumulator move and store row: a move to D (24 bits, rounded), a store of 24 bits, a store of the 48-bit
pair, the reads and writes of ACn.G, ACn.H and ACn.L of R179, the accumulator loads of R178 from D and from a pair, and the MOV of the
memory slot to the other registers, STATUS and MODE among them (Table 7.7), which has no row of its own. -/
inductive StaForm
  | movaD (d : Nat)
  | staH (a : AddrMode)
  | staP (a : AddrMode)
  | pairD (d : Nat)
  | fieldG (d : Nat)
  | fieldH (d : Nat)
  | fieldL (d : Nat)
  | setG (d : Nat)
  | setH (d : Nat)
  | setL (d : Nat)
  | loadD (d : Nat)
  | loadPair (d : Nat)
  | mov (r : MovReg) (x : MovSrc)
deriving DecidableEq, Repr

/-- Forms of the load row: one word, a 48-bit pair, two loads in one bundle. -/
inductive LdForm
  | ld (d : Nat) (a : AddrMode)
  | ldp (d : Nat) (a : AddrMode)
  | ld2 (d : Nat) (a : AddrMode) (e : Nat) (b : AddrMode)
deriving DecidableEq, Repr

/-- Forms of the store row. -/
inductive StForm
  | st (d : Nat) (a : AddrMode)
  | stp (d : Nat) (a : AddrMode)
deriving DecidableEq, Repr

/-- Forms of the branch row. -/
inductive BranchForm | always | cond (taken : Bool) | call | ret
deriving DecidableEq, Repr

/-- The block a request to HBM comes from: with the region it fixes the class (R18), and for a read the effect of a poisoned unit
(Table 13.3). -/
inductive Reader
  | core (c : Nat)
  | jitter (leg entry seq : Nat)
  | egress (leg : Nat)
  | pipe (p : Nat)
  | layer (canv slot : Nat)
  | check (image : Nat)
  | analysis (actx : Nat)
  | backEnd (b : Nat)
  | host
  | other
deriving DecidableEq, Repr

/-- A request to a pseudo-channel controller (R307, R308): its source's number for it, octet address of its 32-octet unit, the mask
of octets it touches, for a write their values, and the block it comes from. -/
structure MemOp where
  src : Nat
  addr : Nat
  mask : Nat
  data : Nat
  write : Bool
  reader : Reader
deriving DecidableEq, Repr

/-- How an access to the stack ended (R311): without error, corrected by the controller, corrected inside the stack,
uncorrectable, or uncorrectable with a second granule of the stripe unreadable too (R318). -/
inductive EccResult | clean | corrected | onDie | uncorrectable | stripeLost
deriving DecidableEq, Repr

/-- What a training found (R315): data lanes without a working setting by pseudo-channel (number of lanes), channels whose command
and address lane had none (once or more), pseudo-channels without a working setting after repair. -/
structure TrainEnd where
  lanes : List (Nat × Nat)
  ca : List Nat
  dead : List Nat
deriving DecidableEq, Repr

/-- The content of a journal or snapshot entry (Table 15.7); a value longer than one payload continues in CONT entries,
which the model keeps with it. -/
inductive JBody
  | write (req : Req) (data : Payload)
  | apply (instant principal first : Nat)
  | key (kslot suite gen : Nat) (w : Wrapped)
  | window (leg : Nat) (send : Bool) (entry window : Nat)
  | learn (leg entry ssrc : Nat)
  | snapBegin (j0 : Nat)
  | snapEnd (j0 digest : Nat)
deriving DecidableEq, Repr

/-- A journal entry with its sequence number (Table 15.6), the entries it takes, and whether its CRC is right. -/
structure JEntry where
  jseq : Nat
  span : Nat
  body : JBody
  crcOk : Bool
deriving DecidableEq, Repr

/-- A TWIN_HB (Table 15.4) with its arrival by the TW port's clock. -/
structure Heartbeat where
  serial : Nat
  role : Nat
  protectedBit : Bool
  fail : Bool
  planned : Bool
  takeover : Bool
  epoch : Nat
  firmware : Nat
  thb : Nat
  jseq : Nat
  digest : Nat
  digestJseq : Nat
  hbSeq : Nat
  prevTx : Nat
  rxSeq : Nat
  rxTime : Nat
  sizesOk : Bool
deriving DecidableEq, Repr

/-- What a TWIN_CTRL frame says (Table 15.3): DETACH, DISARM, the KEK proof, a request to resend the journal from an entry on, or,
with none named, to send a snapshot. -/
inductive TwinCtrl
  | detach
  | disarm
  | kekProof (w : Wrapped)
  | resend (first : Option Nat)
deriving DecidableEq, Repr

/-- The payloads of frames on TW by KIND (Table 15.3). -/
inductive TwinMsg
  | hb (h : Heartbeat)
  | journal (es : List JEntry)
  | ack (jseq : Nat)
  | snapshot (es : List JEntry)
  | ctrl (c : TwinCtrl)
deriving DecidableEq, Repr

/-- A partial mix (Table 8.9): report entries of Table 8.8, 480 samples. -/
structure PartialMix where
  conf : Nat
  fdev : Nat
  frame : Nat
  reports : List Nat
  samples : List Int
deriving DecidableEq, Repr

/-- A return (Table 8.9): n, the members of the receiving device selected from the next frame, S and P. -/
structure ReturnMix where
  conf : Nat
  anchor : Nat
  frame : Nat
  n : Nat
  own : Bool
  selected : List Nat
  s : List Int
  p : List Int
deriving DecidableEq, Repr

/-- A link-state advertisement (R334): origin, serial, sequence number, adjacencies (neighbour, cost). -/
structure Lsa where
  origin : Nat
  serial : Nat
  seq : Nat
  links : List (Nat × Nat)
deriving DecidableEq, Repr

/-- A packet copied into a MEDIA frame (R344): a packet of a source leg's receive entry, or of a rendition's item. -/
inductive MediaPkt
  | fromLeg (leg entry : Nat) (p : Rtp)
  | fromRctx (rctx : Nat) (p : Rtp)
deriving DecidableEq, Repr

/-- The payloads of fabric frames by KIND (Table 14.2). The SUBSCRIBE payload names the receiving leg, the kind (1 LEG,
2 RCTX), identifier and entry of the source, and what it says: 0 subscribe, 1 unsubscribe, 2 accepted, 3 refused. -/
inductive FabMsg
  | hello (serial fdev port heardSerial heardPort : Nat)
  | lsa (a : Lsa)
  | lsack (origin seq : Nat)
  | dict (req : Req) (data : Payload)
  | dictResp (words : List Nat)
  | ack (vc seq : Nat)
  | join (anchorConf conf : Nat)
  | joinReply (anchorConf conf result : Nat)
  | leave (anchorConf conf : Nat)
  | partialMix (p : PartialMix)
  | returnMix (r : ReturnMix)
  | subscribe (what leg kind id entry : Nat)
  | media (leg : Nat) (m : MediaPkt)
  | bulk (tag : Nat)
  | twin (m : TwinMsg)
deriving DecidableEq, Repr

/-- A fabric frame (Table 14.2) with its payload. -/
structure FabFrame where
  vc : Nat
  dst : Nat
  src : Nat
  ttl : Nat
  length : Nat
  kind : Nat
  flow : Nat
  seq : Nat
  msg : FabMsg
deriving DecidableEq, Repr

/-- What a lane's receiver sees (R321 to R326): the signal falls below or rises above the threshold; the CDR loses or gains lock;
`n` codewords in a row decode with `corrected` symbols corrected; a codeword does not decode; `n` valid block headers in a row;
an invalid one; a control block of a reserved type; at a place a marker may stand, a block that differs from the pattern in
`differs` bits and carries a lane number, 4,096 blocks after the marker before it or not; no marker at the expected place; or the 544
symbols of a codeword as they arrive, from which all this follows. And of a port: the skew between its earliest and its latest lane, in nanoseconds. -/
inductive PhyEvent
  | signal (lane : Nat) (below : Bool)
  | cdr (lane : Nat) (out : Bool)
  | codewords (lane n corrected : Nat)
  | badCodeword (lane : Nat)
  | headers (lane n : Nat)
  | badHeader (lane : Nat)
  | reservedBlock (lane : Nat)
  | marker (lane differs number : Nat) (spaced : Bool)
  | noMarker (lane : Nat)
  | word (lane : Nat) (symbols : List Nat)
  | skew (port ns : Nat)
deriving DecidableEq, Repr

/-- What an item of a hardware queue carries. -/
inductive Item
  | blank
  | egress (p : OutPkt) (enq : Nat)
  | unit (u : AccessUnit)
  | stream (b : BitPic)
  | analysis (cset tick buf : Nat) (canvs : List Nat)
  | exception (port stamp reason : Nat) (f : Frame)
  | event (e : EventRec)
  | speaker (r : SpeakerRec)
  | sector (r : Sector)
  | stamp (r : StampRec)
  | prompt (p : PromptItem)
  | fabric (f : FabFrame)
  | record (w0 w1 cycles result : Nat)
deriving DecidableEq, Repr

/-- A PTP message as the time unit takes it (R370): the Ethernet port and domain it came on, its sender's port identity, its
sequence number. -/
structure PtpMsg where
  port : Nat
  domain : Nat
  identity : Nat
  seq : Nat
deriving DecidableEq, Repr

/-- A request datagram of the Dictionary Transport Protocol (Table 2.8): its header, the key its integrity tag was made under, and
whether it arrived unaltered. -/
structure Datagram where
  session : Nat
  seq : Nat
  datalen : Nat
  flags : Nat
  magic : Nat
  version : Nat
  key : Nat
  intact : Bool
  req : Req
  data : Payload
deriving DecidableEq, Repr

/-- A datagram to the DTP port (R45, R409): OPEN; a SIGFRAG with its numbers and its octets; a request. `intact` of the first two says that the tag under 32 zero octets is right. -/
inductive DtpIn
  | hello (intact : Bool)
  | frag (intact : Bool) (session fragment fragments : Nat) (octs : List Nat)
  | request (d : Datagram)
deriving DecidableEq, Repr

/-- Registers of the function's configuration space (Table 3.1): identity, Command and Status, class code and revision, the BARs, MSI-X's
Message Control, table and PBA places, AER's Uncorrectable Error Status, Mask and Severity and Header Log, the Device Serial Number, the
power state; any other register the model holds nothing of. -/
inductive CfgReg
  | id | command | classRev | bar (n : Nat) | msixControl | msixTable | msixPba | aerStatus | aerMask | aerSeverity
  | aerHeader (i : Nat) | serial (hi : Bool) | power | absent
deriving DecidableEq, Repr

/-- A register of the host interface (R67, R68): in BAR0, by its offset, or in the configuration space. -/
inductive HostReg
  | bar0 (off : Nat)
  | cfg (r : CfgReg)
deriving DecidableEq, Repr

/-- The firmware's part in a reservation in a queue of the general pool (R23, R98): nothing, its allocation with the kind and the capacity
in granules, or its release. -/
inductive PoolAct
  | none
  | allocate (overwrite : Bool) (cap : Nat)
  | release
deriving DecidableEq, Repr

/-- A reservation (R85, R93): the octets the item needs, and the firmware's part. -/
structure Reservation where
  len : Nat
  pool : PoolAct
deriving DecidableEq, Repr

/-- The commands of the block: one constructor per row of spec/opcode_table.json, in its order. -/
inductive Instr
  /-- DICT_READ (R42). A READ request returns the active value of an object, or its shadow, default, minimum or maximum as SHADOW and VIEW select. -/
  | dictRead (ch : Chan) (r : Req) (addr : Nat)
  /-- DICT_WRITE (R49). A WRITE request runs the checks of R37 and writes a value, a record or a run of elements, or stages it in an open group; this row covers writes to objects that have no row of their own. -/
  | dictWrite (ch : Chan) (r : Req) (d : Payload)
  /-- DESCRIBE (R34). A DESCRIBE request returns the 16-octet attribute record of an object. -/
  | describe (ch : Chan) (r : Req)
  /-- GROUP_OPEN (R51). Returns the group number that has been free longest, or refuses with NO_GROUP when 64 groups are open. -/
  | groupOpen (ch : Chan) (tag : Nat)
  /-- GROUP_COMMIT (R52). Checks every staged write against the state at the commit point and applies all of them together, or none of them. -/
  | groupCommit (ch : Chan) (tag g : Nat)
  /-- GROUP_DISCARD (R42). Discards the staged writes of a group. -/
  | groupDiscard (ch : Chan) (tag g : Nat)
  /-- GROUP_TIMEOUT_EXPIRY (R51). A group that has received no request for GroupTimeout is discarded. -/
  | groupTimeoutExpiry (g : Nat)
  /-- PERSIST_IMAGE_WRITE (R65). A persistent image is applied as one group, only in SPRING with no media-active leg and only when its trailing digest matches. -/
  | persistImageWrite (ch : Chan) (tag : Nat) (d : Payload)
  /-- OPERATOR_SESSION_OPEN (R38). A valid token written to OperatorSession opens an OPERATOR session on the channel, or renews the session it already holds. -/
  | operatorSessionOpen (ch : Chan) (tag : Nat) (t : Token)
  /-- OPERATOR_SESSION_CLOSE (R38). A write of 0 to OperatorSession closes the session and discards its groups. -/
  | operatorSessionClose (ch : Chan) (tag : Nat)
  /-- INDIRECT_TRANSFER_DONE (R43). An INDIRECT DMA transfer in class C3 finishes, and the request completes and sends its response. -/
  | indirectTransferDone (n : Nat) (d : Payload)
  /-- HOST_READ_COMPLETION_TIMEOUT (R70). A host memory read of the bridge finds no completion within 50 ms, and the ring or INDIRECT transfer concerned stops with DMA_FAULT. -/
  | hostReadCompletionTimeout (isRing : Bool) (n addr : Nat)
  /-- HOST_READ_ERROR_COMPLETION (R70). A host memory read returns an error completion, and the ring or transfer concerned stops with DMA_FAULT. -/
  | hostReadErrorCompletion (isRing : Bool) (n addr : Nat)
  /-- DTP_DATAGRAM_RX (R45). A DTP datagram on MG0 is checked for tag, MAGIC, VERSION and SESSION; a kept response is resent, an old one is dropped, and otherwise the request executes or receives BUSY. -/
  | dtpDatagramRx (d : Datagram)
  /-- DTP_OPEN (R409). An OPEN on SESSION 0 is answered with CHALLENGE, with a new session number and nonce, or with REFUSE. -/
  | dtpOpen (intact : Bool)
  /-- DTP_SIGFRAG (R409). A SIGFRAG datagram stores one fragment of the session's TokenSignature and is answered by SIGACK. -/
  | dtpSigfrag (intact : Bool) (session fragment fragments len : Nat) (g : TokenSig)
  /-- DTP_SESSION_OPEN_TIMEOUT (R409). A DTP session that is not opened within 10 s is dropped. -/
  | dtpSessionOpenTimeout (session : Nat)
  /-- PEER_DICT_MESSAGE (R47). A DICT frame from a fabric peer is processed as a dictionary request under the PEER principal. -/
  | peerDictMessage
  /-- MIX_FRAME_BOUNDARY (R375). A 10 ms mix-frame boundary of PTP time applies deferred writes and leg transitions, and posts the LEG_AUDIO decode items of the frame. -/
  | mixFrameBoundary
  /-- FUNCTION_LEVEL_RESET (R69). A Function Level Reset or a hot reset clears mailboxes, rings, IRQ registers and MSI-X state, aborts DMA and closes mailbox OPERATOR sessions. -/
  | functionLevelReset
  /-- REGISTER_WRITE (R68). A host write to a BAR0 register that has no row of its own is written, or discarded when it is forbidden or unmapped, with DEV_UNMAPPED counting unmapped writes. -/
  | registerWrite (r : HostReg) (isRead : Bool) (v : Word)
  /-- BAR2_READ (R75). A host read of HBM through BAR2 is served, or is refused with Completer Abort by the page gate. -/
  | bar2Read (a n : Nat)
  /-- BAR2_WRITE (R75). A host write of HBM through BAR2 is applied, or is discarded by the page gate and recorded as a Completer Abort. -/
  | bar2Write (a : Nat) (octets : List Byte)
  /-- MBX_MSG_WRITE (R79). A host write to a host-to-device mailbox register is accepted, or is rejected while GO is 1, with MBX_DROP counting it and AER recording it. -/
  | mbxMsgWrite (n j : Nat) (v : Word)
  /-- MBX_GO_SET (R82). A host write of 1 to a host-to-device GO posts the message and is a wake event for the control cluster. -/
  | mbxGoSet (n : Nat) (v : Word)
  /-- MBX_TAKE (R78). The bridge, having seen GO, copies all 16 message registers and clears GO. -/
  | mbxTake (n : Nat)
  /-- MBX_RESPONSE_TAKEN (R82). The host clears a device-to-host GO, which wakes the control cluster so that it posts any waiting response or queued NOTIFY. -/
  | mbxResponseTaken (n : Nat)
  /-- MBX_DROP_READ (R77). A read of MBX_DROP returns the count of rejected writes and clears it. -/
  | mbxDropRead (isD2h : Bool) (n : Nat)
  /-- DEV_UNMAPPED_READ (R72). A read of DEV_UNMAPPED returns the count of writes to unmapped offsets and clears it. -/
  | devUnmappedRead
  /-- DEV_BAR2_DENIED_READ (R72). A read of DEV_BAR2_DENIED returns the count of accesses to closed BAR2 pages and clears it. -/
  | devBar2DeniedRead
  /-- IRQ_CAUSE_CLEAR (R84). Writing 1 to IRQ_CAUSE bits clears sticky interrupt causes, which can end their vector conditions. -/
  | irqCauseClear (v : Word)
  /-- DMA_ERR_CAUSE_CLEAR (R72). Writing 1 to DMA_ERR_CAUSE bits clears the DMA fault causes. -/
  | dmaErrCauseClear (v : Word)
  /-- MSIX_VECTOR_UNMASK (R84). Unmasking an MSI-X vector sends its message if its PBA bit is still set. -/
  | msixVectorUnmask (v : Nat)
  /-- RING_ENABLE (R89). Setting RING_CTRL.ENABLE checks DIR, MODE, LOG2_SIZE and VECTOR, and starts the ring with both pointers and GEN at 0, or sets ERROR. -/
  | ringEnable (r : Nat) (ctrl : Word)
  /-- RING_DISABLE (R89). A RING_CTRL write that clears ENABLE stops the ring and takes its other fields whole. -/
  | ringDisable (r : Nat) (ctrl : Word)
  /-- DOORBELL_H2D (R90). A doorbell write on a host-to-device ring gives the new write pointer, or is latched in WINTER as a wake event. -/
  | doorbellH2d (r v : Nat)
  /-- DOORBELL_D2H (R90). A doorbell write on a device-to-host ring gives the host's read pointer, with the malformation rules of its mode. -/
  | doorbellD2h (r v : Nat)
  /-- RING_FLUSH (R96). Writing FLUSH to RING_FLUSH flushes a host ring at one instant. -/
  | ringFlush (r : Nat)
  /-- RING_WMCNT_READ (R97). A read of RING_WMCNT returns the count of upward watermark crossings and clears it. -/
  | ringWmcntRead (r : Nat)
  /-- WM_CROSSED_CLEAR (R97). Writing 1 to CROSSED clears the sticky watermark bit, even while ABOVE is 1. -/
  | wmCrossedClear (n : Nat)
  /-- RING_ITEM_FETCH (R90). The consuming engine fetches the next item of a host-to-device ring, advancing DEV_PTR, or finds it malformed and stops the ring. -/
  | ringItemFetch (r : Nat) (w : Word)
  /-- QUEUE_RESERVE (R93). A producer reserves an item in a hardware queue, which returns FULL, TOO_LONG or FLUSHED, or drops the oldest items on an overwrite-oldest queue. -/
  | queueReserve (n : Nat) (a : Reservation)
  /-- QUEUE_CLOSE (R86). A producer closes an item by writing its final length word, so that a consumer may take it. -/
  | queueClose (n : Nat) (body : Item)
  /-- QUEUE_FLUSH (R96). A write of QueueState.Flush flushes a queue at one instant, or is refused with QUEUE_OWNED. -/
  | queueFlush (ch : Chan) (tag g q : Nat)
  /-- LEG_REGISTER (R100). Writing LegState REGISTERED on a FREE leg validates its configuration and reserves inactive classifier entries. -/
  | legRegister (ch : Chan) (tag g l : Nat)
  /-- LEG_ACTIVATE (R101). Writing LegState ACTIVE checks relations, limits, cycles and partition room, and allocates jitter memory and the egress queue. -/
  | legActivate (ch : Chan) (tag g l : Nat)
  /-- LEG_DEACTIVATE (R100). Writing LegState REGISTERED on an ACTIVE leg makes its entries inactive at the boundary and sends BYE unless NO_BYE is set. -/
  | legDeactivate (ch : Chan) (tag g l : Nat)
  /-- LEG_FREE (R100). Writing LegState FREE on a REGISTERED leg removes its classifier entries, and the leg enters RELEASING. -/
  | legFree (ch : Chan) (tag g l : Nat)
  /-- LEG_QUIESCENT (R24). A RELEASING leg that no work item, queue entry or cipher operation still refers to returns to FREE with its descriptor at defaults. -/
  | legQuiescent (l : Nat)
  /-- EGRESS_QUEUE_RELEASE (R22). The egress queue of a deactivated leg returns to the free pool once it is empty. -/
  | egressQueueRelease (l : Nat)
  /-- LEG_RX_TIMEOUT (R100). RxTimeout passes with no RTP received on an ACTIVE leg, and LEG_RX_TIMEOUT is raised. -/
  | legRxTimeout (l : Nat)
  /-- CONF_ACTIVATE (R108). Writing ConfState ACTIVE creates a conference, and a REMOTE conference then sends JOIN to its anchor. -/
  | confActivate (ch : Chan) (tag g c : Nat)
  /-- CONF_FREE (R108). Writing ConfState FREE releases a conference, or is refused with RELATION while Members is not 0. -/
  | confFree (ch : Chan) (tag g c : Nat)
  /-- ANCHOR_REPOINT (R465). A write of AnchorFdev or AnchorConf on an ACTIVE remote conference sends LEAVE to the old anchor and JOIN to the new one. -/
  | anchorRepoint (ch : Chan) (tag g c : Nat) (isConf : Bool) (v : Nat)
  /-- ETH_FRAME_RX (R109). A frame arrives on ETH0 or ETH1 and is timestamped into the port's ingress FIFO, or is dropped and counted in InOverflow when the FIFO is full. -/
  | ethFrameRx (port : Nat) (f : Frame)
  /-- FRAME_CLASSIFY (R110). A classifier thread takes a frame from an ingress FIFO and runs the classifier program, which drops it, sends it to the exception ring or classifies it to a leg. -/
  | frameClassify (v : Verdict) (overrun : Bool)
  /-- CLASSIFIER_IMAGE_WRITE (R114). A classifier program image is verified and takes effect between frames. -/
  | classifierImageWrite (ch : Chan) (tag g : Nat) (im : Image)
  /-- CIPHER_DISPATCH (R142). The scheduler dispatches an RX, TX or BULK request to a core, which copies the slot's material and Gen and increments InFlight. -/
  | cipherDispatch (k : Nat)
  /-- CIPHER_RESULT_RELEASE (R133). A core's result is released in request order for its crypto context, or is withheld on a fault-check mismatch, and InFlight decrements. -/
  | cipherResultRelease (k : Nat) (mismatch : Bool)
  /-- JITTER_DEPTH_ADJUST (R119). Every 500 ms in ADAPTIVE mode the jitter target is recomputed from the interarrival jitter. -/
  | jitterDepthAdjust (l : Nat)
  /-- VIDEO_WAIT_EXPIRY (R120). VideoWait passes on an incomplete access unit while a later one is complete, and it is posted with MISSING set. -/
  | videoWaitExpiry (l e : Nat)
  /-- NACK_SEND (R121). 5 ms after a video sequence gap is seen, a generic NACK requests the missing packet. -/
  | nackSend (l e : Nat)
  /-- NACK_RETRY (R121). After the measured round-trip time the missing packet is requested once more. -/
  | nackRetry (l e : Nat)
  /-- RTCP_REPORT_TIMER (R122). The randomised report interval expires and the leg sends a compound SR or RR with SDES. -/
  | rtcpReportTimer (l : Nat)
  /-- PROMPT_ITEM_FETCH (R125). A prompt item is fetched from a prompt ring, concatenated into its clip, or discarded and counted. -/
  | promptItemFetch (j : Nat) (w : Word) (p : PromptItem)
  /-- TAP_ENABLE (R150). Enabling a recording tap checks its suite-7 slot, its sector ranges and the tap limit. -/
  | tapEnable (ch : Chan) (tag g : Nat) (isLeg : Bool) (id : Nat)
  /-- TAP_SECTOR_WRITE (R212). Every 20 ms a tap's sector is encrypted under XTS and written to its ring, or is dropped while k still advances. -/
  | tapSectorWrite (isLeg : Bool) (id : Nat)
  /-- KEY_SUITE_WRITE (R141). A write of Suite records the suite of an empty slot, or is refused on a LOADED or PENDING slot. -/
  | keySuiteWrite (ch : Chan) (tag g k v : Nat)
  /-- KEY_LOAD (R141). A plain Key write stores or replaces a slot's material and increments Gen. -/
  | keyLoad (ch : Chan) (tag g k len m : Nat)
  /-- KEY_WRAPPED_LOAD (R143). A KeyWrapped write unwraps material under the slot's KEK and stores it, or fails with UNWRAP_FAILED. -/
  | keyWrappedLoad (ch : Chan) (tag g k len : Nat) (w : Wrapped)
  /-- KEY_ERASE (R141). Erase zeroises a slot with no operation in flight, or makes it PENDING. -/
  | keyErase (ch : Chan) (tag g k : Nat)
  /-- KEY_ERASE_COMPLETE (R142). When InFlight reaches 0 on a PENDING slot, its material is zeroised and it becomes EMPTY. -/
  | keyEraseComplete (k : Nat)
  /-- WINDOW_COMMIT_RELEASE (R147). The journal entry of a window reservation is committed and the held packet is sent. -/
  | windowCommitRelease (l e : Nat)
  /-- WORK_ITEM_POST (R156). A source posts a work item, which is accepted with a handle, returns FULL, or is refused. -/
  | workItemPost (src : Nat) (ws : List Word)
  /-- WORK_ITEM_START (R192). A core starts a staged item, sets its registers under the item contract, and records LAST_CORE. -/
  | workItemStart (c : Nat)
  /-- WORK_ITEM_COMPLETE (R168). An item ends and its completion record is written, and the next item of its flow becomes head. -/
  | workItemComplete (c cycles result : Nat)
  /-- COMPLETION_RECORD_ROOM (R168). A completion record waiting for room in its CQ is written and the handle is freed. -/
  | completionRecordRoom (wi : Nat)
  /-- WAIT_LIMIT_EXPIRY (R165). An item reaches its wait limit before entering service and ends with TIMEOUT. -/
  | waitLimitExpiry (wi : Nat)
  /-- RUN_LIMIT_EXPIRY (R164). A running item reaches RunLimit, and the core traps it with OVERRUN. -/
  | runLimitExpiry (c : Nat)
  /-- CORE_ONLINE_CLEAR (R169). Writing 0 to a CoreOnline bit stops staging on the core and returns its staged items to READY. -/
  | coreOnlineClear (ch : Chan) (tag g j v : Nat)
  /-- COUNTER_LATCH (R427). At each second of TimeOfDay the latched counters, histograms and load figures are updated. -/
  | counterLatch
  /-- MPY (R186). Multiplies and starts the accumulator with the product, in one or two lanes. -/
  | mpy (c : Nat) (w : Word)
  /-- MAC (R186). Adds the signed product to the accumulator under SAT or WRAP. -/
  | mac (c : Nat) (w : Word)
  /-- MACSH (R186). Shifts the accumulator right by 24 and adds the product. -/
  | macsh (c : Nat) (w : Word)
  /-- RNDA (R186). Rounds the accumulator at bit 23 by MODE.RND and clears bits 23 to 0. -/
  | rnda (c : Nat) (w : Word)
  /-- CLR (R186). Clears and starts the accumulator. -/
  | clr (c : Nat) (w : Word)
  /-- ACS (R187). Add-compare-select on path and branch metrics, shifting decisions into DR, with 24-bit or 48-bit metrics and an optional butterfly. -/
  | acs (c : Nat) (w : Word)
  /-- LOOP (R188). Starts a zero-overhead loop level with its start, end and count. -/
  | loopOp (c : Nat) (p : Bool) (lvl : Nat) (count : BitVec 24) (stop : BitVec 20)
  /-- BREAK (R188). Decrements LL without a branch. -/
  | breakOp (c : Nat) (p : Bool)
  /-- RETI (R190). Returns from an interrupt handler, restoring IE, LL and the flags from ISTAT. -/
  | reti (c : Nat)
  /-- END (R193). Ends the item with RESULT from D1:D0 after its DMA writes are acknowledged. -/
  | endOp (c : Nat)
  /-- DMAR (R184). Starts a DMA read from HBM into local memory. -/
  | dmar (c : Nat) (p : Bool) (loc r words : Nat)
  /-- DMAW (R184). Starts a DMA write from local memory to HBM. -/
  | dmaw (c : Nat) (p : Bool) (loc r words : Nat)
  /-- DMAWAIT (R184). Stalls until at most k DMA transfers remain outstanding. -/
  | dmawait (c : Nat) (p : Bool) (n : Nat)
  /-- DMA_TRANSFER_COMPLETE (R184). A core DMA transfer completes, which can release a stalled DMA instruction or DMAWAIT. -/
  | dmaTransferComplete (c ix : Nat)
  /-- INTERRUPT_ENTRY (R189). A core takes FAULT, DBG or TMR, saves IRA and ISTAT, clears LL and IE, and branches to the vector. -/
  | interruptEntry (c : Nat) (src : IntSource)
  /-- TMR_MATCH (R189). CYC reaches TCMP while MODE.TIE is 1, which raises the TMR interrupt. -/
  | tmrMatch (c : Nat)
  /-- MATEN_LOAD (R194). A Maten program image is verified and loaded, taking effect for items that start after the response. -/
  | matenLoad (ch : Chan) (tag g : Nat) (im : Image)
  /-- MATEN_UNLOAD (R194). A program is unloaded, or is refused with PROGRAM_IN_USE. -/
  | matenUnload (ch : Chan) (tag g n : Nat)
  /-- PROGRAM_RETIRE_COMPLETE (R194). No core runs the old code of a replaced program any more, and its space is freed. -/
  | programRetireComplete (n : Nat)
  /-- LEG_AUDIO_DECODE (R199). A decode item decodes or conceals frame n, resamples it, measures its level and writes the input slot with the frame number last. -/
  | legAudioDecode (c : Nat)
  /-- MIX_PHASE_TIMER (R27). At T + MixPhase one CONF_MIX item per conference is posted, with the withdrawal of the previous frame's waiting encode items. -/
  | mixPhaseTimer (c : Nat)
  /-- CONF_MIX (R204). A CONF_MIX item selects the talkers and writes the common mix and the N−1 mixes, and publishes the speaker event. -/
  | confMix (c : Nat)
  /-- LEG_AUDIO_ENCODE (R209). An encode item crossfades the leg's paths, applies the gains and prompts, encodes the result and forms the RTP payload. -/
  | legAudioEncode (c : Nat)
  /-- PARTIAL_RX (R214). A PARTIAL frame reaches the anchor, and it is used in its frame or discarded as late. -/
  | partialRx
  /-- RETURN_RX (R215). A RETURN frame reaches a remote conference, which forms its outputs from it. -/
  | returnRx
  /-- RETURN_WAIT_EXPIRY (R215). ReturnWait passes without a return, and the remote mixes frame n locally and counts ReturnLate. -/
  | returnWaitExpiry (c : Nat)
  /-- DCTX_ENABLE (R226). Enabling a decode context admits its charge, allocates its pool and sends a key request. -/
  | dctxEnable (ch : Chan) (tag g d : Nat)
  /-- DCTX_DISABLE (R226). Disabling a decode context flushes its queue and releases its charge. -/
  | dctxDisable (ch : Chan) (tag g d : Nat)
  /-- DCTX_QUIESCENT (R226). A disabled context becomes quiescent, and its pool and outputs are freed. -/
  | dctxQuiescent (d : Nat)
  /-- PIPE_PICTURE_START (R220). A free pipe sheds disposable units and starts the next picture of the chosen context. -/
  | pipePictureStart (p : Nat)
  /-- PICTURE_DECODE_COMPLETE (R219). A pipe finishes a picture, conceals damaged regions and sets the completion flags of its outputs. -/
  | pictureDecodeComplete (p : Nat)
  /-- KEY_REQUEST_PACING (R229). A 200 ms pacing period ends, and a pending or persisting key request is sent as FIR or PLI. -/
  | keyRequestPacing (d : Nat)
  /-- DECODE_PIPE_ECC_ERROR (R232). An uncorrectable error ends the picture in decode and retires the pipe. -/
  | decodePipeEccError (p : Nat)
  /-- CANVAS_SET_COMMIT (R254). A canvas-set commit is validated, copies its images and targets the first tick at least 500 µs later. -/
  | canvasSetCommit (ch : Chan) (tag g c : Nat)
  /-- OPERATOR_COMMIT (R258). OPERATOR commits protected-layer shadow settings for the next eligible tick. -/
  | operatorCommit (ch : Chan) (tag g v : Nat)
  /-- OPERATOR_IMAGE_WRITE (R259). An operator image is stored in locked memory with its reference CRC-32C. -/
  | operatorImageWrite (ch : Chan) (tag g ix : Nat) (img : OpImage)
  /-- SOLSTICE_TICK (R255). At each Solstice tick the commits due become active, layer pictures are selected and stale rules applied, and the due sets are composed. -/
  | solsticeTick
  /-- OPLAYER_CHECK_START (R260). At t − 2 ms the CRC checks of operator images for the due sets begin. -/
  | oplayerCheckStart
  /-- OPLAYER_CHECK_DONE (R260). An operator image check completes, and a mismatch makes the sets due show FillColour. -/
  | oplayerCheckDone (ix : Nat)
  /-- COMPOSE_BAND_DONE (R31). A composer finishes a 64-row band of a canvas, which analysis may then start, and Late counts a canvas finished after the next tick. -/
  | composeBandDone (m : Nat)
  /-- LAYOUT_RUN (R261). A layout program runs on a speaker record of its conference. -/
  | layoutRun (c : Nat)
  /-- LAYOUT_RUN_END (R261). A run's writes and its commit are applied as one group, or are refused and counted. -/
  | layoutRunEnd (c : Nat) (writes : List (Nat × Nat × Nat × Nat)) (doCommit : Bool)
  /-- LAYOUT_RUN_LIMIT (R261). A run reaches 200,000 sequencer cycles, and its writes are discarded. -/
  | layoutRunLimit (c : Nat)
  /-- LAYOUT_LOAD (R261). A layout program image is verified and loaded. -/
  | layoutLoad (ch : Chan) (tag g : Nat) (im : Image)
  /-- LAYOUT_UNLOAD (R261). A layout program is unloaded, or is refused while a binding names it. -/
  | layoutUnload (ch : Chan) (tag g n : Nat)
  /-- ACTX_ENABLE (R264). Enabling an analysis context binds it to a front-end and allocates its analysis memory. -/
  | actxEnable (ch : Chan) (tag g a : Nat)
  /-- ACTX_DISABLE (R264). Disabling an analysis context, refused while an enabled RCTX names it. -/
  | actxDisable (ch : Chan) (tag g a : Nat)
  /-- ANALYSIS_BAND_DONE (R265). A front-end finishes analysing a band of a base canvas or variant, and renditions may start that band. -/
  | analysisBandDone (f : Nat)
  /-- RCTX_ENABLE (R268). Enabling a rendition admits its charges and pools, and owes a key picture. -/
  | rctxEnable (ch : Chan) (tag g r : Nat)
  /-- RCTX_DISABLE (R275). Disabling a rendition completes its picture in progress and releases its charges. -/
  | rctxDisable (ch : Chan) (tag g r : Nat)
  /-- RENDITION_PICTURE_START (R269). A free back-end takes the ready picture of the earliest tick. -/
  | renditionPictureStart (b : Nat)
  /-- RENDITION_BAND_CODE (R278). A back-end codes one band, with recodes at MaxQp or minimal coding to keep the HRD model. -/
  | renditionBandCode (b program maxQp minimal : Nat)
  /-- RENDITION_PICTURE_DONE (R271). A coded access unit is queued as a bitstream item, and F and Debt are updated. -/
  | renditionPictureDone (b : Nat)
  /-- RC_PICTURE_START (R277). The rate-control program returns the target bits and the QP of band 0. -/
  | rcPictureStart (b t qp : Nat)
  /-- RC_BAND_END (R277). The rate-control program returns the QP of the next band. -/
  | rcBandEnd (b qp : Nat)
  /-- RC_CALL_LIMIT (R277). A rate-control call exceeds its cycle limit and is abandoned. -/
  | rcCallLimit (b : Nat)
  /-- RC_LOAD (R277). A rate-control program image is verified and loaded. -/
  | rcLoad (ch : Chan) (tag g : Nat) (im : Image)
  /-- RC_UNLOAD (R277). A rate-control program is unloaded, or is refused while an enabled RCTX names it. -/
  | rcUnload (ch : Chan) (tag g n : Nat)
  /-- RCTX_KEY_REQUEST (R273). A host write of KeyRequest asks a rendition for a key picture under its pacing. -/
  | rctxKeyRequest (ch : Chan) (tag g r : Nat)
  /-- PERIODIC_KEY_EXPIRY (R273). PeriodicKey passes since the last key picture, which raises a key request. -/
  | periodicKeyExpiry (r : Nat)
  /-- LTR_INTERVAL_EXPIRY (R274). Every LtrInterval, the current TL0 picture is marked LONG. -/
  | ltrIntervalExpiry (r : Nat)
  /-- TRELLIS_RESULT (R280). A TRELLIS_ROW completion returns levels for a band, or a status other than DONE makes the band fall back. -/
  | trellisResult (b status : Nat)
  /-- TRELLIS_WAIT_EXPIRY (R280). TrellisWait passes, and the band is withdrawn and quantized by the back-end. -/
  | trellisWaitExpiry (b : Nat)
  /-- ENCODE_UNIT_ECC_ERROR (R282). An uncorrectable error retires a front-end or back-end until reset. -/
  | encodeUnitEccError (front : Bool) (n : Nat)
  /-- FEED_MODE_WRITE (R285). A write of a feed's Mode checks its candidates and limits, starts the feed with no current candidate, or stops it. -/
  | feedModeWrite (ch : Chan) (tag g l f v : Nat)
  /-- FEED_FIXED_SELECT (R285). A FixedIndex write in FIXED mode is a selection. -/
  | feedFixedSelect (ch : Chan) (tag g l f v : Nat)
  /-- ADAPT_FEEDBACK_CALL (R292). The adaptation program runs on RTCP feedback for the leg. -/
  | adaptFeedbackCall (l f : Nat)
  /-- ADAPT_TICK (R292). Every 100 ms the feed's program sets A, the selection and the probe rate. -/
  | adaptTick (l f a sel probe : Nat)
  /-- ADAPT_CALL_LIMIT (R292). An adaptation call exceeds its cycle limit and is abandoned. -/
  | adaptCallLimit (l f : Nat) (tick : Bool)
  /-- ADAPT_LOAD (R292). An adaptation program image is verified and loaded. -/
  | adaptLoad (ch : Chan) (tag g : Nat) (im : Image)
  /-- ADAPT_UNLOAD (R292). An adaptation program is unloaded, or is refused while a feed names it. -/
  | adaptUnload (ch : Chan) (tag g n : Nat)
  /-- FORWARD_PACKET (R291). The adaptation unit keeps or drops a forwarded packet by layer, switches at a decodable point, rewrites it and encrypts it per receiver. -/
  | forwardPacket
  /-- SWITCH_KEY_WAIT_EXPIRY (R289). 500 ms without a decodable point of a pending selection send a key request. -/
  | switchKeyWaitExpiry (l f : Nat)
  /-- SHAPER_RELEASE (R300). A head packet is released when the leg, group and port buckets all hold L'. -/
  | shaperRelease (port : Nat)
  /-- SHAPER_AGE_OUT (R296). A head packet held longer than MaxHold is dropped and counted. -/
  | shaperAgeOut (l : Nat)
  /-- LEG_SHAPER_WRITE (R297). A leg shaper write takes effect at once and resets both buckets by ResetMode. -/
  | legShaperWrite (ch : Chan) (tag g l sub v : Nat)
  /-- GROUP_SHAPER_WRITE (R299). A write to a shaping group or port shaper resets its bucket to full. -/
  | groupShaperWrite (ch : Chan) (tag g : Nat) (isPort : Bool) (k sub v : Nat)
  /-- PART_APPLY (R305). A PartApply write applies the new partition sizes, moving the protected partitions and zeroing the others, or is refused. -/
  | partApply (ch : Chan) (tag g : Nat)
  /-- MEM_REQUEST_ACCEPT (R308). A pseudo-channel controller accepts a request into its read or write queue, merging a write into a queued one. -/
  | memRequestAccept (op : MemOp)
  /-- MEM_REQUEST_SERVE (R307). A controller serves the next request by rank and age, correcting, reconstructing or poisoning on error. -/
  | memRequestServe (p : Nat) (r : EccResult)
  /-- AGE_PROMOTION (R307). A request waits beyond its class AgeLimit and is promoted to rank with C0. -/
  | agePromotion (p : Nat)
  /-- ROW_IDLE_CLOSE (R309). A row left open for 2 µs without an access is closed. -/
  | rowIdleClose (p b : Nat)
  /-- STACK_TEMP_SAMPLE (R310). Every 1 ms the stack temperatures are read, which doubles or restores refresh and may raise HBM_HOT. -/
  | stackTempSample (t0 t1 : Int)
  /-- PATROL_SCRUB (R313). The patrol scrub reads a unit and writes back a corrected unit unless a write is queued for it. -/
  | patrolScrub (r : EccResult)
  /-- UPDATE_RETRAIN (R314). A 10 °C drift from TrainTemp starts update retraining of a channel. -/
  | updateRetrain (ch : Nat)
  /-- FULL_RETRAIN (R314). Corrected or uncorrectable errors reach their threshold and start full retraining of a channel. -/
  | fullRetrain (ch : Nat)
  /-- TRAINING_COMPLETE (R315). Training of a channel ends, with lanes repaired, or the pseudo-channel quarantined when no setting works. -/
  | trainingComplete (ch : Nat) (t : TrainEnd)
  /-- QUARANTINE_RESUME (R316). Service resumes after a quarantine with queues flushed and contexts restarted. -/
  | quarantineResume
  /-- HOST_READ_WINDOWS_WRITE (R319). HostReadWindows opens or closes the pages of the named partitions within 1 ms. -/
  | hostReadWindowsWrite (ch : Chan) (tag g v : Nat)
  /-- FABRIC_FRAME_RX (R328). A frame is received whole on an NQ or TW port and is checked by CRC, or discarded and counted. -/
  | fabricFrameRx (p : Nat) (f : FabFrame) (good : Bool) (idle : Nat)
  /-- FRAME_RELAY (R332). A frame for another device is relayed with TTL decremented, or is dropped. -/
  | frameRelay
  /-- CREDIT_BLOCK_RX (R329). A CREDIT block updates the credits available per VC and the far end's RDI. -/
  | creditBlockRx (p : Nat) (counts : List Nat) (rdi : Bool)
  /-- CREDIT_BLOCK_TX (R329). A CREDIT block is sent at least every 1 µs, or after 16 credits freed. -/
  | creditBlockTx (p : Nat)
  /-- FABRIC_FRAME_TX (R330). A port starts a frame by VC priority once its credits cover the whole frame. -/
  | fabricFrameTx (p : Nat)
  /-- ACK_RX (R331). An ACK acknowledges a reliable frame by SEQ. -/
  | ackRx
  /-- CTRL_RETRANSMIT_EXPIRY (R331). An unacknowledged CTRL or BULK frame is resent, or is abandoned after 8 resends. -/
  | ctrlRetransmitExpiry
  /-- HELLO_TX (R333). A port in LINKED or ADJACENT sends a HELLO every HelloInterval. -/
  | helloTx (p : Nat)
  /-- HELLO_RX (R333). A HELLO brings an adjacency up or takes it down. -/
  | helloRx
  /-- DEAD_INTERVAL_EXPIRY (R333). DeadInterval passes without a HELLO and the adjacency goes down. -/
  | deadIntervalExpiry (p : Nat)
  /-- LSA_REFRESH (R334). Every LsaRefresh, the device floods its link-state advertisement. -/
  | lsaRefresh
  /-- LSA_RX (R334). An advertisement is acknowledged, stored if newer, and flooded onward, or raises FDEV conflict. -/
  | lsaRx
  /-- LSACK_RX (R334). An LSACK stops the resending of an advertisement on a hop. -/
  | lsackRx
  /-- LSA_EXPIRY (R334). An advertisement not refreshed within 3 × LsaRefresh is removed. -/
  | lsaExpiry
  /-- SPF_RUN (R336). SpfHold after the last database change, the device recomputes shortest paths and installs up to 4 next hops. -/
  | spfRun
  /-- NQ_PORT_ENABLE (R338). Enabling an NQ port powers its lanes and starts alignment. -/
  | nqPortEnable (ch : Chan) (tag g p : Nat)
  /-- NQ_PORT_DISABLE (R338). Disabling an NQ port turns its lanes off. -/
  | nqPortDisable (ch : Chan) (tag g p : Nat)
  /-- LANE_DEFECT_CHANGE (R339). A lane or port defect begins or ends, changing the reported defect and the port state. -/
  | laneDefectChange (e : PhyEvent)
  /-- DEFECT_HOLD_EXPIRY (R338). DefectHold passes without a defect from LOS to LOA, and the port becomes LINKED. -/
  | defectHoldExpiry (p : Nat)
  /-- FDEV_WRITE (R345). A write of Fdev, refused with FABRIC_BUSY while any port is ADJACENT. -/
  | fdevWrite (ch : Chan) (tag g v : Nat)
  /-- JOIN_RX (R342). The anchor answers a JOIN with JOIN_REPLY accepted, LIMIT or RELATION. -/
  | joinRx
  /-- JOIN_REPLY_RX (R342). A remote conference becomes JOINED or PENDING. -/
  | joinReplyRx
  /-- JOIN_RETRY_EXPIRY (R342). A PENDING remote repeats its JOIN every 1 s. -/
  | joinRetryExpiry (c : Nat)
  /-- LEAVE_RX (R343). The anchor removes the remote and decrements Devices. -/
  | leaveRx
  /-- REMOTE_PARTIAL_TIMEOUT (R343). The anchor removes a remote from which no partial has arrived for 1 s. -/
  | remotePartialTimeout (c fdev : Nat)
  /-- SUBSCRIBE_RX (R344). A source starts sending a stream in MEDIA frames, or refuses a 65th subscription. -/
  | subscribeRx
  /-- MEDIA_RX (R344). A MEDIA frame places its packet in the fabric-fed leg as R120 states. -/
  | mediaRx
  /-- PM_BIN_ROLLOVER (R341). A 15-minute or daily performance bin of a privileged port ends and a new one starts. -/
  | pmBinRollover (p : Nat) (day : Bool)
  /-- TWIN_MODE_PAIR (R349). Writing Mode PAIR enables TW and starts heartbeats. -/
  | twinModePair (ch : Chan) (tag g : Nat)
  /-- TWIN_MODE_SOLO (R349). Writing Mode SOLO sends DETACH, and a STANDBY or COLD device resets to SOLO. -/
  | twinModeSolo (ch : Chan) (tag g : Nat)
  /-- TWIN_HANDOVER (R349). A Handover write on a protected ACTIVE fences it and sends a PLANNED failure report. -/
  | twinHandover (ch : Chan) (tag g : Nat)
  /-- TWIN_RESYNC (R363). A Resync write on a COLD device asks for a snapshot. -/
  | twinResync (ch : Chan) (tag g : Nat)
  /-- TWIN_HB_TX (R350). Every 100 µs a TWIN_HB is sent on TW with a liveness pulse to the always-on domain. -/
  | twinHbTx
  /-- TWIN_HB_RX (R350). A peer heartbeat updates the time offset and path liveness, and may start a role contest. -/
  | twinHbRx
  /-- HB_SYMBOL_TX (R351). Every 250 µs the always-on domain sends ALIVE, FAIL, TAKEOVER or DISARM on HB_TX. -/
  | hbSymbolTx
  /-- HB_SYMBOL_RX (R352). A valid symbol on HB_RX keeps the out-of-band path alive or carries a failure report. -/
  | hbSymbolRx (code : Nat) (act armed parityOk : Bool)
  /-- LIVENESS_TIMEOUT (R351). No liveness pulse for Thb: the always-on domain fences the device and sends FAIL. -/
  | livenessTimeout
  /-- PEER_SILENCE_TIMEOUT (R352). A heartbeat path stays silent for Thb, which raises path loss or, on a STANDBY with both paths silent, declares the active failed. -/
  | peerSilenceTimeout
  /-- JOURNAL_RX (R355). The standby checks and stores journal entries and acknowledges them cumulatively. -/
  | journalRx
  /-- JOURNAL_ACK_RX (R354). An acknowledgement commits entries, and the active applies their requests and sends their responses. -/
  | journalAckRx
  /-- JOURNAL_RESEND_EXPIRY (R355). An entry unacknowledged 200 µs after it was sent is resent. -/
  | journalResendExpiry
  /-- STANDBY_LOST_EXPIRY (R355). An entry unacknowledged 200 µs after its resend sends DISARM and leaves the active unprotected. -/
  | standbyLostExpiry
  /-- TWIN_CTRL_DETACH (R349). A received DETACH returns the device to SOLO. -/
  | twinCtrlDetach
  /-- TWIN_CTRL_DISARM (R355). A received DISARM makes the peer COLD with ColdReason DISARMED. -/
  | twinCtrlDisarm
  /-- TWIN_CTRL_KEK_PROOF (R362). A received KEK proof is unwrapped under TwinKek for the key arming check. -/
  | twinCtrlKekProof
  /-- TWIN_CTRL_RESEND_REQUEST (R355). The active resends the journal entries that the standby asks for. -/
  | twinCtrlResendRequest
  /-- SNAPSHOT_RX (R361). A COLD device receives and stores snapshot entries, or discards them on overflow. -/
  | snapshotRx
  /-- SNAPSHOT_APPLIED (R362). Snapshot and stored entries are applied, and the arming checks decide STANDBY or COLD. -/
  | snapshotApplied
  /-- TIME_RECHECK_EXPIRY (R362). Every 1 s a device COLD for TIME re-checks its offset. -/
  | timeRecheckExpiry
  /-- PTP_ANNOUNCE_RX (R372). An Announce feeds the BMCA and master qualification. -/
  | ptpAnnounceRx (m : PtpMsg) (rank utc : Nat)
  /-- PTP_SYNC_RX (R372). A Sync, with its Follow_Up when two-step, gives an offset measurement to the servo. -/
  | ptpSyncRx (m : PtpMsg) (origin : Nat) (corr : Int) (twoStep : Bool)
  /-- PTP_DELAY_RESP_RX (R370). A Delay_Resp completes an end-to-end delay measurement. -/
  | ptpDelayRespRx (m : PtpMsg) (received : Nat) (corr : Int)
  /-- PTP_DELAY_REQ_TX (R370). A one-step Delay_Req is sent 16 times per second. -/
  | ptpDelayReqTx
  /-- ANNOUNCE_TIMEOUT (R372). No Announce for 3 intervals, or no Sync for 1 s, puts the servo in HOLDOVER. -/
  | announceTimeout
  /-- PPS_EDGE (R377). A PPS_IN rising edge is captured to the timestamp ring and steers the servo when Source is PPS. -/
  | ppsEdge
  /-- PPS_MISSING_EXPIRY (R372). With Source PPS, 1.5 s without an edge puts the servo in HOLDOVER. -/
  | ppsMissingExpiry
  /-- PULSE_EDGE (R376). A programmed TP edge is emitted and reported when Report is set. -/
  | pulseEdge (n : Nat)
  /-- PULSE_WRITE (R377). A Pulse write takes effect for edges at least 1 ms later, or is refused with TIME_PAST. -/
  | pulseWrite (ch : Chan) (tag g n sub v : Nat)
  /-- HOST_TOD_WRITE (R377). HostTod gives the seconds of the next PPS edge. -/
  | hostTodWrite (ch : Chan) (tag g v : Nat)
  /-- TIMESTAMP_HOLD_EXPIRY (R368). A held item that cannot be written within 1 s of its event is discarded and counted. -/
  | timestampHoldExpiry
  /-- SYNC_IN_LOSS (R448). 1 µs without SYNC_IN switches the time unit to REFCLK_SYS, and 1 s of its return switches it back. -/
  | syncInLoss (back : Bool)
  /-- TARGET_WRITE (R385). A write of Target, refused with SEASON_BLOCKED in the cases of R385, starts AUTUMN, a fall toward WINTER or a rise. -/
  | targetWrite (ch : Chan) (tag g v : Nat)
  /-- SUMMER_REACHED (R384). The SPRING_SUMMER script completes, and waiting responses are sent. -/
  | summerReached
  /-- SUMMER_HOLD_EXPIRY (R382). SummerHold passes without demand, and the engines are drained and gated into SPRING. -/
  | summerHoldExpiry
  /-- AUTUMN_DRAINED (R382). No leg media-active and no context or set enabled, so AUTUMN proceeds to SPRING and WINTER. -/
  | autumnDrained
  /-- AUTUMN_LIMIT_EXPIRY (R382). AutumnLimit passes, and every leg, context and set is forced down. -/
  | autumnLimitExpiry
  /-- WINTER_ENTRY (R386). The device flushes state, takes down ports, puts HBM in self-refresh and powers down the main engines. -/
  | winterEntry
  /-- PME_TURN_OFF (R387). The host's PME_Turn_Off is acknowledged and the link enters L2/L3 Ready. -/
  | pmeTurnOff
  /-- MIDWINTER_ENTRY (R387). The always-on domain drives MAIN_PWR_EN low and the device enters MIDWINTER. -/
  | midwinterEntry
  /-- WAKE_EVENT (R388). A wake event of Table 17.3 sets AON_WAKE_CAUSE and starts a thaw. -/
  | wakeEvent (b p : Nat)
  /-- THAW_COMPLETE (R389). The thaw ends when the control cluster serves the dictionary in SPRING. -/
  | thawComplete
  /-- PERST_ASSERT (R391). PERST_N resets everything but the always-on domain, or in MIDWINTER acts on the PCIe controller only. -/
  | perstAssert
  /-- PERST_RELEASE (R391). The rising edge of PERST_N is a wake event in MIDWINTER, or releases the link during a thaw. -/
  | perstRelease (fuses : Bool)
  /-- SYS_RESET (R443). SYS_RST_N low in two consecutive AON samples resets the whole device. -/
  | sysReset
  /-- JUNCTION_SAMPLE (R393). Every 100 µs the junction sensors are read, and 120 °C records THERMAL_SHUTDOWN. -/
  | junctionSample (t : Int)
  /-- THROTTLE_STEP (R393). Each 1 ms hot raises the throttle level, and each 10 ms cool lowers it. -/
  | throttleStep (up : Bool)
  /-- THERMAL_HOLD_EXPIRY (R394). After 10 s of AON time wake events act again. -/
  | thermalHoldExpiry
  /-- SEASON_SCRIPTS_WRITE (R395). A scripts image is verified and takes effect for later transitions. -/
  | seasonScriptsWrite (ch : Chan) (tag g : Nat) (im : Image)
  /-- SCRIPT_TIMEOUT (R395). A script runs longer than twice its maximum and is abandoned. -/
  | scriptTimeout
  /-- BOOT_OFFER (R403). The host offers an image for a BOOT_NEED, and the boot ROM fetches and verifies it. -/
  | bootOffer (im : Image)
  /-- BOOT_IMAGE_VERIFIED (R402). A fetched image passes verification, or is rejected and asked for again. -/
  | bootImageVerified
  /-- LIFECYCLE_ADVANCE (R405). Blows lifecycle fuses and resets the device. -/
  | lifecycleAdvance (ch : Chan) (tag g v : Nat) (blown : Bool)
  /-- IDENTITY_GENERATE (R405). Draws and blows DEVICE_SEED in MANUFACTURE. -/
  | identityGenerate (ch : Chan) (tag g : Nat) (blown : Bool)
  /-- OWNER_HASH_WRITE (R406). Blows an owner root hash into a blank slot. -/
  | ownerHashWrite (ch : Chan) (tag g slot v : Nat) (blown : Bool)
  /-- OWNER_KEK_WRITE (R406). Blows the owner key-encryption key once, in FIELD. -/
  | ownerKekWrite (ch : Chan) (tag g v : Nat) (blown : Bool)
  /-- OWNER_REVOKE_WRITE (R406). Blows the revoke bit of an owner slot. -/
  | ownerRevokeWrite (ch : Chan) (tag g v : Nat) (blown : Bool)
  /-- BOOT_POLICY_WRITE (R419). Blows BOOT_POLICY bits. -/
  | bootPolicyWrite (ch : Chan) (tag g v : Nat) (blown : Bool)
  /-- MIN_VERSION_COMMIT (R404). Blows minimum-version bits, and root revoke bits for firmware. -/
  | minVersionCommit (ch : Chan) (tag g v : Nat) (blown : Bool)
  /-- FROST_WRITE (R412). Sets frost bits, which lock their objects until reset. -/
  | frostWrite (ch : Chan) (tag g v : Nat)
  /-- CHALLENGE_READ (R407). Returns a fresh nonce, held for 60 s. -/
  | challengeRead (ch : Chan) (tag : Nat)
  /-- NONCE_EXPIRY (R407). An outstanding nonce expires after 60 s. -/
  | nonceExpiry
  /-- TOKEN_SIGNATURE_WRITE (R408). Holds the channel's last LMS public key and signature for the next token. -/
  | tokenSignatureWrite (ch : Chan) (tag g : Nat) (sig : TokenSig)
  /-- DEBUG_UNLOCK (R410). A DEBUG token opens the granted levels, zeroising keys and closing sessions for HALT, CONTROL or MEMORY. -/
  | debugUnlock (ch : Chan) (tag g : Nat) (t : Token)
  /-- DEBUG_CLOSE (R410). Four zero octets written to DebugUnlock close every debug level. -/
  | debugClose (ch : Chan) (tag g : Nat)
  /-- JTAG_DBGCHAL (R410). The DBGCHAL instruction shifts out a nonce on the IEEE 1149.1 port. -/
  | jtagDbgchal
  /-- JTAG_DBGAUTH (R410). The DBGAUTH instruction shifts in a signature and a token to open debug levels. -/
  | jtagDbgauth (g : TokenSig) (t : Token)
  /-- ATTEST_REQUEST (R416). A verifier nonce produces a report signed with the next identity leaf, reserving a leaf block if needed. -/
  | attestRequest (ch : Chan) (tag g nonce : Nat) (blown : Bool)
  /-- ATTEST_REPORT_READ (R416). Returns the signed attestation report by INDIRECT. -/
  | attestReportRead (ch : Chan) (tag addr : Nat)
  /-- HANDLER_RUN (R424). The next event handler by severity runs, preempting lower handlers or running when they end. -/
  | handlerRun
  /-- FATAL_RESET (R423). Within 100 µs of a FATAL event, the device fences, writes the cause record and resets outside the always-on domain. -/
  | fatalReset (fuses : Bool)
  /-- LOG_SELECT_WRITE (R422). Selects the record that LogEntry returns. -/
  | logSelectWrite (ch : Chan) (tag g v : Nat)
  /-- WATCHDOG_KICK (R426). Firmware restarts the always-on watchdog counter. -/
  | watchdogKick
  /-- WATCHDOG_WARN_EXPIRY (R426). The counter reaches WatchdogPeriod and the recovery handler runs. -/
  | watchdogWarnExpiry
  /-- WATCHDOG_RESET_EXPIRY (R426). The counter reaches twice WatchdogPeriod and WATCHDOG_RESET is raised. -/
  | watchdogResetExpiry
  /-- SCAN_GO (R433). Starts a host CRC scan, or refuses it with RELATION, BUSY or INCONSISTENT. -/
  | scanGo (ch : Chan) (tag g : Nat)
  /-- SCAN_DONE (R433). A scan completes and Result becomes valid. -/
  | scanDone
  /-- IMAGE_SCRUB_CHECK (R431). Each ScrubPeriod the loaded images are checked against their load-time CRCs. -/
  | imageScrubCheck (bad : List (Nat × Nat))
  /-- AON_POWER_ON (R441). The always-on rails come into range and the sequencer starts the power-up. -/
  | aonPowerOn
  /-- PWR_OK_RISE (R460). PWR_OK rises and the straps are sampled before step 1 of the boot flow. -/
  | pwrOkRise (sample : Nat)
  /-- STRAP_RESAMPLE (R460). Every 8 AON cycles the straps are sampled again until two samples agree. -/
  | strapResample (sample : Nat) (fuses : Bool)
  /-- PWR_OK_FALL (R442). PWR_OK falls with MAIN_PWR_EN high, and the main domain is reset and powered off. -/
  | pwrOkFall
  /-- POWER_LOSS_RESTART (R442). 100 ms after PWR_OK fell, MAIN_PWR_EN rises again and the device boots. -/
  | powerLossRestart
  /-- REFCLK_LOSS (R448). 10 µs without REFCLK_SYS is handled as a fall of PWR_OK. -/
  | refclkLoss
  /-- XTAL_LOSS (R448). The 32.768 kHz crystal stops and the always-on domain runs from its internal oscillator. -/
  | xtalLoss
  /-- LANE_SIGNAL_CHANGE (R450). A lane's input falls below or rises above the detection threshold, which asserts or clears LOS. -/
  | laneSignalChange (l : Nat) (above : Bool)
  /-- STA (R179). An accumulator move or store (MOVA, STA.H, STA.P) writes ACn to 24 or 48 bits, rounding and saturating and setting SV. -/
  | sta (c : Nat) (p : Bool) (ac : Nat) (form : StaForm)
  /-- LD (R183). A local or cluster-memory load (LD, LDP, LD2) reads through the address modes, with circular and bit-reversed pointer update and bank rules. -/
  | ld (c : Nat) (p : Bool) (form : LdForm)
  /-- ST (R181). A local or cluster-memory store (ST, STP) writes a sign-extended value through the address modes, or faults ADDR or AGU_RANGE. -/
  | st (c : Nat) (p : Bool) (form : StForm)
  /-- B (R188). A branch (B, BCC, CALL, RET) changes the bundle address, and a taken branch at a loop end overrides the loop-end evaluation. -/
  | b (c : Nat) (p : Bool) (form : BranchForm) (target : BitVec 20)
  /-- REFCLK_RETURN (R448). REFCLK_SYS returns after a loss, and the boot held at step 1 proceeds. -/
  | refclkReturn (fuses : Bool)
  /-- AON_POWER_LOSS (R441). VDD_AON or VDDIO_AON leaves its range, and the always-on domain loses the event log, cause record, attestation block and AON objects. -/
  | aonPowerLoss
  /-- TRANSMITTER_PRESET_TIMEOUT (R449). On ETH0 or ETH1, when the partner runs no Clause 136 training, the transmitter falls back to preset 1 after 500 ms. -/
  | transmitterPresetTimeout (p : Nat)
deriving DecidableEq, Repr

end Sys2Proof
end

