-- ==== Sys2Proof/Machine/Bits.lean ====
section
/-! DEFINITION. Bit fields, two's complement and little-endian octets on natural numbers (R10, R13), used wherever the
manual packs fields into a value. -/

namespace Sys2Proof.Machine

/-- Field [lo+n-1:lo] of a value. -/
def bits (v lo n : Nat) : Nat := v / 2 ^ lo % 2 ^ n

/-- One bit of a value. -/
def bit (v i : Nat) : Bool := decide (v / 2 ^ i % 2 = 1)

/-- A value with one bit set. -/
def setBit (v i : Nat) : Nat := v ||| 2 ^ i

/-- A value with one bit cleared. -/
def clrBit (v i : Nat) : Nat := if bit v i then v - 2 ^ i else v

/-- A value with one bit given. -/
def putBit (v i : Nat) (b : Bool) : Nat := if b then setBit v i else clrBit v i

/-- Number of bits set below bit `n`. -/
def popCount (v : Nat) : Nat → Nat
  | 0 => 0
  | n + 1 => popCount v n + v / 2 ^ n % 2

/-- Reading of `w` bits as two's complement. -/
def sgn (w v : Nat) : Int := if v % 2 ^ w < 2 ^ (w - 1) then (v % 2 ^ w : Nat) else ((v % 2 ^ w : Nat) : Int) - (2 ^ w : Nat)

/-- Two's complement of an integer in `w` bits. -/
def uns (w : Nat) (i : Int) : Nat := (i % ((2 ^ w : Nat) : Int)).toNat

/-- Octet `i` of a little-endian value. -/
def octet (v i : Nat) : Nat := v / 256 ^ i % 256

/-- The first `n` octets of a little-endian value, lowest first. -/
def octets (n v : Nat) : List Nat := (List.range n).map (octet v)

/-- The value of a little-endian string of octets. -/
def ofOctets : List Nat → Nat
  | [] => 0
  | b :: r => b % 256 + 256 * ofOctets r

/-- Saturating increment at a maximum. -/
def satAdd (v n mx : Nat) : Nat := if mx ≤ v + n then mx else v + n

/-- Clip of an integer to a range. -/
def clip (lo hi i : Int) : Int := if i < lo then lo else if hi < i then hi else i

/-- Division rounded up. -/
def ceilDiv (a b : Nat) : Nat := if b = 0 then 0 else (a + b - 1) / b

/-- Division of integers rounded to nearest, halves away from zero. -/
def roundDiv (a : Int) (b : Nat) : Int :=
  if 0 ≤ a then (2 * a + (b : Int)) / (2 * (b : Int)) else -((2 * (-a) + (b : Int)) / (2 * (b : Int)))

/-- A truth value as a number. -/
def b2n (b : Bool) : Nat := if b then 1 else 0

/-- Insertion into a list kept in an order. -/
def insertBy {α : Type} (le : α → α → Bool) (x : α) : List α → List α
  | [] => [x]
  | y :: r => if le x y then x :: y :: r else y :: insertBy le x r

/-- A list in an order, equal elements keeping their places. -/
def sortBy {α : Type} (le : α → α → Bool) : List α → List α
  | [] => []
  | x :: r => insertBy le x (sortBy le r)

end Sys2Proof.Machine
end

