-- ==== Sys2Proof/Machine/Crc.lean ====
section
/-! DEFINITION. The cyclic redundancy checks of the manual: the fixed ones of Table 19.4, the wide ones of a scan (R429)
and the configuration digest's CRC-64 (R63). -/

namespace Sys2Proof.Machine

/-- Reversal of the low `w` bits of a value. -/
def revBits : Nat → Nat → Nat
  | 0, _ => 0
  | w + 1, v => v % 2 * 2 ^ w + revBits w (v / 2)

/-- The parameters of one CRC, as Table 19.4 and R429 list them. -/
structure CrcSpec where
  width : Nat
  poly : Nat
  init : Nat
  refIn : Bool
  refOut : Bool
  xorOut : Nat
deriving DecidableEq, Repr

/-- One register shift of a CRC. -/
def crcShift (c : CrcSpec) (r : Nat) : Nat :=
  if 2 ^ (c.width - 1) ≤ r then (r * 2 % 2 ^ c.width) ^^^ c.poly else r * 2 % 2 ^ c.width

/-- The shifts of the bits of one octet, most significant first, `n` of them left. -/
def crcBits (c : CrcSpec) : Nat → Nat → Nat → Nat
  | 0, _, r => r
  | n + 1, b, r =>
    crcBits c n b (if bit b n then crcShift c (r ^^^ 2 ^ (c.width - 1)) else crcShift c r)

/-- A CRC register after one more octet. -/
def crcOctet (c : CrcSpec) (r b : Nat) : Nat := crcBits c 8 (if c.refIn then revBits 8 b else b) r

/-- The check value of a string of octets. -/
def crc (c : CrcSpec) (bs : List Nat) : Nat :=
  let r := bs.foldl (crcOctet c) (c.init % 2 ^ c.width)
  (if c.refOut then revBits c.width r else r) ^^^ c.xorOut

/-- CRC-32C, kind 0 of Table 19.4. -/
def crc32c : CrcSpec := ⟨32, 0x1EDC6F41, 0xFFFFFFFF, true, true, 0xFFFFFFFF⟩

/-- CRC-32/ISO-HDLC, kind 1. -/
def crc32 : CrcSpec := ⟨32, 0x04C11DB7, 0xFFFFFFFF, true, true, 0xFFFFFFFF⟩

/-- CRC-16/CCITT-FALSE, kind 2. -/
def crc16 : CrcSpec := ⟨16, 0x1021, 0xFFFF, false, false, 0⟩

/-- CRC-8/SMBUS, kind 3. -/
def crc8 : CrcSpec := ⟨8, 0x07, 0, false, false, 0⟩

/-- The configuration digest's CRC-64 (R63). -/
def crc64 : CrcSpec := ⟨64, 0x42F0E1EBA9EA3693, 0xFFFFFFFFFFFFFFFF, true, true, 0xFFFFFFFFFFFFFFFF⟩

end Sys2Proof.Machine
end

