-- ==== Sys2Proof/Config.lean ====
section
/-! DEFINITION. What the manual leaves open and an implementation or the outside world fixes: constants without a body, so
that nothing can be proved of their values. Each is applied to a counter the step advances, or to the operands it depends
on. -/

namespace Sys2Proof.Config

/-- The n-th number drawn from the true random number generator (R111, R122, R407). -/
opaque trng : Nat → Nat

/-- The n-th choice the manual leaves to the bridge (which free queue of R22, which eligible core, ...). -/
opaque choice : Nat → Nat

/-- The two bucket functions of the classifier hash, of a seed and a key (R111). -/
opaque hash1 : Nat → Nat → Nat
opaque hash2 : Nat → Nat → Nat

/-- Whether an intermediate value of a linear ramp that is not exact in 20 fractional bits is taken above or below it, from
the ramp's start, end, position and length (R208 states no rounding). -/
opaque rampUp : Nat → Nat → Nat → Nat → Bool

/-- Whether a value that does not fit its places exactly is taken above or below: a mixed sample of a value and the places it
loses (R206, R209 do not state the rounding mode), a level of a frame's energy (R202 states none). -/
opaque roundUp : Int → Nat → Bool
opaque levelUp : Nat → Bool

/-- Sample i of the n-th concealed frame (R199 leaves concealment to the codec). -/
opaque concealed : Nat → Nat → Nat

/-- A sample of a decoded picture, of its context, its decode count, its component and its place (the codecs' own standards; the coded
octets are facts of the world). -/
opaque decoded : Nat → Nat → Nat → Nat → Nat

/-- Units of 256 octets that a tile's samples take when they are stored losslessly (R244 states the bounds and no method). -/
opaque tileUnits : List Nat → Nat

/-- The costs that decide a block's search and modes (R266 names no cost of an intra class or a merge, and no metric of the CAMERA
search): number n of what is open for a pass of a context (pass number × 1,024 + context), canvas and block. -/
opaque decision : Nat → Nat → Nat → Nat → Nat

/-- The codec's mode nearest to an intra class (R270), of the codec, the block size and the class; an offset of a refinement and the
decision taken where a coded block holds several, of a rendition, its picture, the block and a number. -/
opaque nearestMode : Nat → Nat → Nat → Nat
opaque refinement : Nat → Nat → Nat → Nat → Nat

/-- A sample that a rendition predicts from its own reconstructed references (the codecs' own standards), of the rendition, its picture,
the component and the place. -/
opaque predicted : Nat → Nat → Nat → Nat → Int

/-- The rate-distortion multiplier beside a band's QP in ARG0 (R279 states no place or value), of the rendition and the QP. -/
opaque rateMultiplier : Nat → Nat → Nat

/-- The scrambler register of a lane's transmitter at power-up, and octet i of the payload of the n-th fabric frame sent, of a kind for
which the manual gives no layout. -/
opaque scrambler : Nat → Nat
opaque frameOctet : Nat → Nat → Nat

/-- Cycles a core waits at the n-th access, for an instruction cache miss (kind 0) or for cluster memory (kind 1): the manual gives 12 as
typical and 40 as the most. -/
opaque coreWait : Nat → Nat → Nat

/-- The program number of the engines' items that no object names: of kind 0 decode and 1 encode by codec, 2 mix, 3 decode assist, 4
analysis assist, 5 rendition assist. The programs are Pyward's and are loaded with MatenLoad, but their numbers are not stated. -/
opaque itemProgram : Nat → Nat → Nat

/-- A result of an instruction the manual calls unspecified, of a counter. -/
opaque value : Nat → Nat

/-- Fuse contents fixed at test (Table 18.1): serial number, repair data, VID, the four Pyward root hashes. -/
opaque serial : Nat
opaque vid : Nat
opaque rootHash : Nat → Nat

/-- The MAC address of an Ethernet port (R127 names it and no object holds it). -/
opaque portMac : Nat → Nat

/-- The dictionary version carried in a firmware image (R66), of that image's version. -/
opaque dictionaryVersion : Nat → Nat

/-- An octet of the header of the SCRIPTS image embedded in the firmware of a version (Table 18.4 names it, not where it lies). -/
opaque embeddedScripts : Nat → Nat → Nat

/-- The LMS identifier I of the identity key of a device seed, and the randomiser C of the signature with a leaf: R414 names the method
that derives the leaves and no rule says how these are chosen. -/
opaque identityId : Nat → Nat
opaque identityRandom : Nat → Nat → Nat

/-- The bank and the row of a pseudo-channel in which a granule lies (HBM command timing and placement inside a pseudo-channel are
not described). -/
opaque bankOf : Nat → Nat
opaque rowOf : Nat → Nat

end Sys2Proof.Config
end

