-- ==== Sys2Proof/Machine/Crypto.lean ====
section
/-! DEFINITION. The ciphers and hashes of the cipher complex and the boot ROM, as their standards define them (R8, R135 to R137, R143,
R149, R401): AES (FIPS 197), the key derivation of RFC 3711 with RFC 6188 and RFC 7714, key wrap (RFC 3394), XTS (IEEE 1619), SHA-256
(FIPS 180-4), LMS verification (RFC 8554). Octet strings are lists of numbers below 256, first octet first. -/

namespace Sys2Proof.Machine

/-! ### Octet strings -/

/-- Octets of two strings combined by exclusive or; the shorter one ends the result. -/
def xorOct (a b : List Nat) : List Nat := (a.zip b).map (fun x => x.1 ^^^ x.2)

/-- A number as `n` octets, highest first. -/
def beOct (n v : Nat) : List Nat := (octets n v).reverse

/-- The number a string of octets is, highest first. -/
def ofBe (x : List Nat) : Nat := x.foldl (fun a b => a * 256 + b % 256) 0

/-- A list cut into parts of `k`; `fuel` bounds their number. -/
def chunks {α : Type} (k : Nat) : Nat → List α → List (List α)
  | 0, _ => []
  | n + 1, x => if x.isEmpty then [] else x.take k :: chunks k n (x.drop k)

/-! ### AES -/

/-- The S-box. -/
def sboxTable : List Nat :=
  [0x63, 0x7C, 0x77, 0x7B, 0xF2, 0x6B, 0x6F, 0xC5, 0x30, 0x01, 0x67, 0x2B, 0xFE, 0xD7, 0xAB, 0x76] ++
  [0xCA, 0x82, 0xC9, 0x7D, 0xFA, 0x59, 0x47, 0xF0, 0xAD, 0xD4, 0xA2, 0xAF, 0x9C, 0xA4, 0x72, 0xC0] ++
  [0xB7, 0xFD, 0x93, 0x26, 0x36, 0x3F, 0xF7, 0xCC, 0x34, 0xA5, 0xE5, 0xF1, 0x71, 0xD8, 0x31, 0x15] ++
  [0x04, 0xC7, 0x23, 0xC3, 0x18, 0x96, 0x05, 0x9A, 0x07, 0x12, 0x80, 0xE2, 0xEB, 0x27, 0xB2, 0x75] ++
  [0x09, 0x83, 0x2C, 0x1A, 0x1B, 0x6E, 0x5A, 0xA0, 0x52, 0x3B, 0xD6, 0xB3, 0x29, 0xE3, 0x2F, 0x84] ++
  [0x53, 0xD1, 0x00, 0xED, 0x20, 0xFC, 0xB1, 0x5B, 0x6A, 0xCB, 0xBE, 0x39, 0x4A, 0x4C, 0x58, 0xCF] ++
  [0xD0, 0xEF, 0xAA, 0xFB, 0x43, 0x4D, 0x33, 0x85, 0x45, 0xF9, 0x02, 0x7F, 0x50, 0x3C, 0x9F, 0xA8] ++
  [0x51, 0xA3, 0x40, 0x8F, 0x92, 0x9D, 0x38, 0xF5, 0xBC, 0xB6, 0xDA, 0x21, 0x10, 0xFF, 0xF3, 0xD2] ++
  [0xCD, 0x0C, 0x13, 0xEC, 0x5F, 0x97, 0x44, 0x17, 0xC4, 0xA7, 0x7E, 0x3D, 0x64, 0x5D, 0x19, 0x73] ++
  [0x60, 0x81, 0x4F, 0xDC, 0x22, 0x2A, 0x90, 0x88, 0x46, 0xEE, 0xB8, 0x14, 0xDE, 0x5E, 0x0B, 0xDB] ++
  [0xE0, 0x32, 0x3A, 0x0A, 0x49, 0x06, 0x24, 0x5C, 0xC2, 0xD3, 0xAC, 0x62, 0x91, 0x95, 0xE4, 0x79] ++
  [0xE7, 0xC8, 0x37, 0x6D, 0x8D, 0xD5, 0x4E, 0xA9, 0x6C, 0x56, 0xF4, 0xEA, 0x65, 0x7A, 0xAE, 0x08] ++
  [0xBA, 0x78, 0x25, 0x2E, 0x1C, 0xA6, 0xB4, 0xC6, 0xE8, 0xDD, 0x74, 0x1F, 0x4B, 0xBD, 0x8B, 0x8A] ++
  [0x70, 0x3E, 0xB5, 0x66, 0x48, 0x03, 0xF6, 0x0E, 0x61, 0x35, 0x57, 0xB9, 0x86, 0xC1, 0x1D, 0x9E] ++
  [0xE1, 0xF8, 0x98, 0x11, 0x69, 0xD9, 0x8E, 0x94, 0x9B, 0x1E, 0x87, 0xE9, 0xCE, 0x55, 0x28, 0xDF] ++
  [0x8C, 0xA1, 0x89, 0x0D, 0xBF, 0xE6, 0x42, 0x68, 0x41, 0x99, 0x2D, 0x0F, 0xB0, 0x54, 0xBB, 0x16]

def sbox (x : Nat) : Nat := sboxTable.getD x 0

/-- The inverse S-box. -/
def invSbox (x : Nat) : Nat := sboxTable.idxOf x

/-- Multiplication by x in GF(2^8). -/
def xtime (a : Nat) : Nat := if a < 128 then 2 * a else (2 * a) ^^^ 0x11B

/-- Multiplication in GF(2^8) by a factor below 16. -/
def gmul (a k : Nat) : Nat :=
  let a2 := xtime a
  let a4 := xtime a2
  let a8 := xtime a4
  (if bit k 0 then a else 0) ^^^ (if bit k 1 then a2 else 0) ^^^ (if bit k 2 then a4 else 0) ^^^ (if bit k 3 then a8 else 0)

/-- One column times the circulant matrix whose first row is `m`. -/
def mixColumn (m c : List Nat) : List Nat :=
  (List.range 4).map (fun i => (List.range 4).foldl (fun acc j => acc ^^^ gmul (c.getD j 0) (m.getD ((j + 4 - i) % 4) 0)) 0)

/-- MixColumns, or its inverse, on the 16 octets of a state in column order. -/
def mixColumns (m s : List Nat) : List Nat := (chunks 4 4 s).flatMap (mixColumn m)

/-- ShiftRows and its inverse. -/
def shiftRows (s : List Nat) : List Nat := (List.range 16).map (fun i => s.getD ((i + 4 * (i % 4)) % 16) 0)
def invShiftRows (s : List Nat) : List Nat := (List.range 16).map (fun i => s.getD ((i + 12 * (i % 4)) % 16) 0)

/-- The round constants, by their number from 1. -/
def rcon : Nat → Nat
  | 0 => 0
  | 1 => 1
  | n + 1 => xtime (rcon n)

/-- The word that follows in a key schedule of `nk` words: `i` its number, `w` the words so far, newest first. -/
def nextWord (nk i : Nat) (w : List (List Nat)) : List Nat :=
  let t := w.headD []
  let u :=
    if i % nk = 0 then xorOct ((t.drop 1 ++ t.take 1).map sbox) [rcon (i / nk), 0, 0, 0]
    else if 6 < nk ∧ i % nk = 4 then t.map sbox else t
  xorOct (w.getD (nk - 1) []) u

/-- The key schedule of a key of 16 or 32 octets: its round keys. -/
def roundKeys (key : List Nat) : List (List Nat) :=
  let nk := key.length / 4
  let first := (chunks 4 nk key).reverse
  let words := ((List.range (4 * (nk + 7) - nk)).foldl (fun w j => nextWord nk (nk + j) w :: w) first).reverse
  (chunks 4 (nk + 7) words).map List.flatten

/-- AES on one block under round keys. -/
def aesBlock (rk : List (List Nat)) (b : List Nat) : List Nat :=
  let n := rk.length - 1
  let s0 := xorOct b (rk.getD 0 [])
  let s := (List.range (n - 1)).foldl (fun s i => xorOct (mixColumns [2, 3, 1, 1] (shiftRows (s.map sbox))) (rk.getD (i + 1) [])) s0
  xorOct (shiftRows (s.map sbox)) (rk.getD n [])

/-- The inverse of AES on one block. -/
def aesInvBlock (rk : List (List Nat)) (b : List Nat) : List Nat :=
  let n := rk.length - 1
  let s0 := (invShiftRows (xorOct b (rk.getD n []))).map invSbox
  let s := (List.range (n - 1)).foldl (fun s i =>
    (invShiftRows (mixColumns [14, 11, 13, 9] (xorOct s (rk.getD (n - 1 - i) [])))).map invSbox) s0
  xorOct s (rk.getD 0 [])

/-! ### SRTP keys and initialisation vectors (R136, R137) -/

/-- Session keys of one protocol under one master key: encryption, authentication, salt. -/
structure SessionKeys where
  enc : List Nat
  auth : List Nat
  salt : List Nat
deriving DecidableEq, Repr

/-- The AES-CM key stream of RFC 3711 from a counter block, `n` octets. -/
def cmStream (key iv : List Nat) (n : Nat) : List Nat :=
  let rk := roundKeys key
  ((List.range (ceilDiv n 16)).flatMap (fun j => aesBlock rk (beOct 16 ((ofBe iv + j) % 2 ^ 128)))).take n

/-- The pseudo-random function of RFC 3711 under a label at key derivation rate 0: the label stands 7 octets from the end of the 14 octets
of the master salt, which one of 12 octets fills from the left (RFC 7714). -/
def deriveKey (master salt : List Nat) (label n : Nat) : List Nat :=
  let x := xorOct (salt ++ List.replicate (14 - salt.length) 0) (beOct 14 (label * 2 ^ 48))
  cmStream master (x ++ [0, 0]) n

/-- Octets of a suite's master key (Table 5.2). -/
def suiteKey (suite : Nat) : Nat := [0, 16, 16, 32, 32, 16, 32, 32, 32].getD suite 0

/-- The session keys of SRTP (labels 0 to 2) or SRTCP (labels 3 to 5) under a slot's material; the GCM suites have no authentication
key. -/
def sessionKeys (suite : Nat) (material : List Nat) (rtcp : Bool) : SessionKeys :=
  let k := material.take (suiteKey suite)
  let salt := material.drop (suiteKey suite)
  let base := if rtcp then 3 else 0
  ⟨deriveKey k salt base (suiteKey suite), if suite ≤ 4 then deriveKey k salt (base + 1) 20 else [], deriveKey k salt (base + 2) salt.length⟩

/-- The initialisation vector of a packet: the counter block of AES-CM (RFC 3711), or the 12 octets of R137. `i` is the SRTP index, or the
SRTCP index. -/
def packetIv (suite : Nat) (salt : List Nat) (rtcp : Bool) (ssrc i : Nat) : List Nat :=
  if suite ≤ 4 then xorOct (salt ++ [0, 0]) (beOct 16 (ssrc % 2 ^ 32 * 2 ^ 64 + i * 2 ^ 16))
  else if rtcp then xorOct ([0, 0] ++ beOct 4 ssrc ++ [0, 0] ++ beOct 4 i) salt
  else xorOct ([0, 0] ++ beOct 4 ssrc ++ beOct 6 i) salt

/-! ### Key wrap (RFC 3394) -/

/-- One step of the wrap: the register A, the blocks, block `i` (from 0) in step `t`. -/
def wrapStep (rk : List (List Nat)) (acc : List Nat × List (List Nat)) (i t : Nat) : List Nat × List (List Nat) :=
  let b := aesBlock rk (acc.1 ++ acc.2.getD i [])
  (xorOct (b.take 8) (beOct 8 t), acc.2.set i (b.drop 8))

/-- One step back. -/
def unwrapStep (rk : List (List Nat)) (acc : List Nat × List (List Nat)) (i t : Nat) : List Nat × List (List Nat) :=
  let b := aesInvBlock rk (xorOct acc.1 (beOct 8 t) ++ acc.2.getD i [])
  (b.take 8, acc.2.set i (b.drop 8))

/-- The wrap of a string of whole 8-octet blocks under a key. -/
def keyWrap (kek p : List Nat) : List Nat :=
  let n := p.length / 8
  let rk := roundKeys kek
  let (a, r) := (List.range (6 * n)).foldl (fun acc j => wrapStep rk acc (j % n) (j + 1)) (List.replicate 8 0xA6, chunks 8 n p)
  a ++ r.flatten

/-- What a wrap holds, none where its integrity check fails. -/
def keyUnwrap (kek c : List Nat) : Option (List Nat) :=
  let n := c.length / 8 - 1
  let rk := roundKeys kek
  let (a, r) := (List.range (6 * n)).foldl (fun acc j => unwrapStep rk acc ((6 * n - 1 - j) % n) (6 * n - j)) (c.take 8, chunks 8 n (c.drop 8))
  if a = List.replicate 8 0xA6 then some r.flatten else none

/-! ### XTS (IEEE 1619, R149) -/

/-- The next tweak: multiplied by x in GF(2^128), little-endian. -/
def nextTweak (t : List Nat) : List Nat :=
  let v := ofOctets t
  octets 16 (if v < 2 ^ 127 then 2 * v else (2 * v - 2 ^ 128) ^^^ 0x87)

/-- One data unit of whole blocks under two keys; the tweak is the sector number as 16 octets, lowest first. -/
def xtsUnit (key1 key2 : List Nat) (sector : Nat) (data : List Nat) : List Nat :=
  let r1 := roundKeys key1
  let t0 := aesBlock (roundKeys key2) (octets 16 sector)
  ((chunks 16 (data.length / 16) data).foldl (fun (acc : List Nat × List Nat) b =>
    (nextTweak acc.1, acc.2 ++ xorOct (aesBlock r1 (xorOct b acc.1)) acc.1)) (t0, [])).2

/-! ### SHA-256 (FIPS 180-4) -/

/-- The round constants of SHA-256. -/
def shaK : List Nat :=
  [0x428A2F98, 0x71374491, 0xB5C0FBCF, 0xE9B5DBA5, 0x3956C25B, 0x59F111F1, 0x923F82A4, 0xAB1C5ED5] ++
  [0xD807AA98, 0x12835B01, 0x243185BE, 0x550C7DC3, 0x72BE5D74, 0x80DEB1FE, 0x9BDC06A7, 0xC19BF174] ++
  [0xE49B69C1, 0xEFBE4786, 0x0FC19DC6, 0x240CA1CC, 0x2DE92C6F, 0x4A7484AA, 0x5CB0A9DC, 0x76F988DA] ++
  [0x983E5152, 0xA831C66D, 0xB00327C8, 0xBF597FC7, 0xC6E00BF3, 0xD5A79147, 0x06CA6351, 0x14292967] ++
  [0x27B70A85, 0x2E1B2138, 0x4D2C6DFC, 0x53380D13, 0x650A7354, 0x766A0ABB, 0x81C2C92E, 0x92722C85] ++
  [0xA2BFE8A1, 0xA81A664B, 0xC24B8B70, 0xC76C51A3, 0xD192E819, 0xD6990624, 0xF40E3585, 0x106AA070] ++
  [0x19A4C116, 0x1E376C08, 0x2748774C, 0x34B0BCB5, 0x391C0CB3, 0x4ED8AA4A, 0x5B9CCA4F, 0x682E6FF3] ++
  [0x748F82EE, 0x78A5636F, 0x84C87814, 0x8CC70208, 0x90BEFFFA, 0xA4506CEB, 0xBEF9A3F7, 0xC67178F2]

/-- A 32-bit word rotated right. -/
def rotr (n x : Nat) : Nat := x / 2 ^ n + x % 2 ^ n * 2 ^ (32 - n)

/-- The message schedule of a block: 64 words, newest first while it grows. -/
def shaSchedule (b : List Nat) : List Nat :=
  ((List.range 48).foldl (fun (w : List Nat) _ =>
    let s1 := let x := w.getD 1 0; rotr 17 x ^^^ rotr 19 x ^^^ (x / 2 ^ 10)
    let s0 := let x := w.getD 14 0; rotr 7 x ^^^ rotr 18 x ^^^ (x / 2 ^ 3)
    ((s1 + w.getD 6 0 + s0 + w.getD 15 0) % 2 ^ 32) :: w) ((chunks 4 16 b).map ofBe).reverse).reverse

/-- The eight working variables of a compression. -/
structure ShaVars where
  a : Nat
  b : Nat
  c : Nat
  d : Nat
  e : Nat
  f : Nat
  g : Nat
  h : Nat
deriving DecidableEq, Repr

/-- One round with its constant plus word. -/
def shaRound (v : ShaVars) (kw : Nat) : ShaVars :=
  let s1 := rotr 6 v.e ^^^ rotr 11 v.e ^^^ rotr 25 v.e
  let ch := (v.e &&& v.f) ^^^ ((2 ^ 32 - 1 - v.e) &&& v.g)
  let t1 := v.h + s1 + ch + kw
  let s0 := rotr 2 v.a ^^^ rotr 13 v.a ^^^ rotr 22 v.a
  let mj := (v.a &&& v.b) ^^^ (v.a &&& v.c) ^^^ (v.b &&& v.c)
  ⟨(t1 + s0 + mj) % 2 ^ 32, v.a, v.b, v.c, (v.d + t1) % 2 ^ 32, v.e, v.f, v.g⟩

/-- One block compressed into the hash value. -/
def shaBlock (v : ShaVars) (b : List Nat) : ShaVars :=
  let u := ((shaSchedule b).zip shaK).foldl (fun u x => shaRound u (x.1 + x.2)) v
  ⟨(v.a + u.a) % 2 ^ 32, (v.b + u.b) % 2 ^ 32, (v.c + u.c) % 2 ^ 32, (v.d + u.d) % 2 ^ 32, (v.e + u.e) % 2 ^ 32,
    (v.f + u.f) % 2 ^ 32, (v.g + u.g) % 2 ^ 32, (v.h + u.h) % 2 ^ 32⟩

/-- A message padded to whole blocks. -/
def shaPad (m : List Nat) : List Nat :=
  m ++ [0x80] ++ List.replicate ((119 - m.length % 64) % 64) 0 ++ beOct 8 (8 * m.length)

/-- The initial hash value. -/
def shaInit : ShaVars := ⟨0x6A09E667, 0xBB67AE85, 0x3C6EF372, 0xA54FF53A, 0x510E527F, 0x9B05688C, 0x1F83D9AB, 0x5BE0CD19⟩

/-- SHA-256 of a string: 32 octets. -/
def sha256 (m : List Nat) : List Nat :=
  let p := shaPad m
  let v := (chunks 64 (p.length / 64) p).foldl shaBlock shaInit
  [v.a, v.b, v.c, v.d, v.e, v.f, v.g, v.h].flatMap (beOct 4)

/-! ### LMS (RFC 8554, R401) -/

/-- Height of an LMS type with SHA-256 and 32-octet nodes. -/
def lmsHeight (t : Nat) : Option Nat :=
  match t with
  | 5 => some 5 | 6 => some 10 | 7 => some 15 | 8 => some 20 | 9 => some 25
  | _ => none

/-- The 67 digits of LMOTS_SHA256_N32_W4: the hash in 4-bit digits and their checksum, shifted left by 4 bits. -/
def otsDigits (q : List Nat) : List Nat :=
  let ds := q.flatMap (fun b => [b / 16, b % 16])
  let sum := (ds.map (fun d => 15 - d)).sum * 16
  ds ++ [sum / 4096 % 16, sum / 256 % 16, sum / 16 % 16]

/-- A chain of LM-OTS from step `j`, `n` steps on. -/
def otsChain (id : List Nat) (leaf i : Nat) : Nat → Nat → List Nat → List Nat
  | 0, _, x => x
  | n + 1, j, x => otsChain id leaf i n (j + 1) (sha256 (id ++ beOct 4 leaf ++ beOct 2 i ++ [j] ++ x))

/-- The candidate public key of an LM-OTS signature (type, C, 67 chains) over a message. -/
def otsCandidate (id : List Nat) (leaf : Nat) (sig m : List Nat) : List Nat :=
  let q := sha256 (id ++ beOct 4 leaf ++ [0x81, 0x81] ++ (sig.drop 4).take 32 ++ m)
  let ends := (otsDigits q).zipIdx.flatMap (fun x =>
    otsChain id leaf x.2 (15 - x.1) x.1 ((sig.drop (36 + 32 * x.2)).take 32))
  sha256 (id ++ beOct 4 leaf ++ [0x80, 0x80] ++ ends)

/-- The root an authentication path leads to from a node's hash. -/
def lmsRoot (id : List Nat) : Nat → Nat → List Nat → List (List Nat) → List Nat
  | 0, _, x, _ => x
  | n + 1, node, x, path =>
    let y := path.headD []
    let pair := if node % 2 = 1 then y ++ x else x ++ y
    lmsRoot id n (node / 2) (sha256 (id ++ beOct 4 (node / 2) ++ [0x83, 0x83] ++ pair)) (path.drop 1)

/-- LMS verification of a signature over a message: public key of 56 octets (type, LM-OTS type, I, root), LM-OTS type
LMOTS_SHA256_N32_W4. -/
def lmsVerify (pub sig m : List Nat) : Bool :=
  let ty := ofBe (pub.take 4)
  match lmsHeight ty with
  | none => false
  | some h =>
    let id := (pub.drop 8).take 16
    let q := ofBe (sig.take 4)
    let ots := (sig.drop 4).take 2180
    let leaf := sha256 (id ++ beOct 4 (2 ^ h + q) ++ [0x82, 0x82] ++ otsCandidate id q ots m)
    decide (pub.length = 56) && decide (sig.length = 2188 + 32 * h) && decide (ofBe ((pub.drop 4).take 4) = 3) && decide (ofBe (ots.take 4) = 3) &&
      decide (ofBe ((sig.drop 2184).take 4) = ty) && decide (q < 2 ^ h) &&
      decide (lmsRoot id h (2 ^ h + q) leaf (chunks 32 h (sig.drop 2188)) = pub.drop 24)

/-! ### The identity key (R414, R415): LMS_SHA256_M32_H15 with LMOTS_SHA256_N32_W4, its leaves derived from the device seed -/

/-- The start of a chain of a leaf, by the pseudo-random method of NIST SP 800-208. -/
def otsSecret (id seed : List Nat) (leaf i : Nat) : List Nat := sha256 (id ++ beOct 4 leaf ++ beOct 2 i ++ [0xFF] ++ seed)

/-- The hash of a leaf of the tree: of its LM-OTS public key. -/
def lmsLeaf (id seed : List Nat) (h leaf : Nat) : List Nat :=
  let ends := (List.range 67).flatMap (fun i => otsChain id leaf i 15 0 (otsSecret id seed leaf i))
  sha256 (id ++ beOct 4 (2 ^ h + leaf) ++ [0x82, 0x82] ++ sha256 (id ++ beOct 4 leaf ++ [0x80, 0x80] ++ ends))

/-- The hash of the node `r` that stands `n` levels above the leaves of a tree of height `h`. -/
def lmsNode (id seed : List Nat) (h : Nat) : Nat → Nat → List Nat
  | 0, r => lmsLeaf id seed h (r - 2 ^ h)
  | n + 1, r => sha256 (id ++ beOct 4 r ++ [0x83, 0x83] ++ lmsNode id seed h n (2 * r) ++ lmsNode id seed h n (2 * r + 1))

/-- The public key of a device seed: LMS type 7, LM-OTS type 3, I, the root. -/
@[irreducible] def identityPublic (seed : Nat) : List Nat :=
  let id := octets 16 (Config.identityId seed)
  beOct 4 7 ++ beOct 4 3 ++ id ++ lmsNode id (octets 32 seed) 15 15 1

/-- The signature of a message with a leaf: the leaf, its LM-OTS signature, the LMS type, the path to the root. -/
@[irreducible] def identitySign (seed leaf : Nat) (m : List Nat) : List Nat :=
  let id := octets 16 (Config.identityId seed)
  let sd := octets 32 seed
  let c := octets 32 (Config.identityRandom seed leaf)
  let q := sha256 (id ++ beOct 4 leaf ++ [0x81, 0x81] ++ c ++ m)
  let chains := (otsDigits q).zipIdx.flatMap (fun x => otsChain id leaf x.2 x.1 0 (otsSecret id sd leaf x.2))
  let path := (List.range 15).flatMap (fun n => lmsNode id sd 15 n (((2 ^ 15 + leaf) / 2 ^ n) ^^^ 1))
  beOct 4 leaf ++ beOct 4 3 ++ c ++ chains ++ beOct 4 7 ++ path

end Sys2Proof.Machine
end

