-- ==== Sys2Proof/Machine/Abort.lean ====
section
/-! DEFINITION. The abort codes (R61, Table 2.11 and the chapters' own tables) and the event catalogue (Table 19.6). -/

namespace Sys2Proof.Machine

namespace Abort

def ok : Nat := 0
def noObject : Nat := 0x01010001
def noSubindex : Nat := 0x01010002
def elementAddressing : Nat := 0x01010003
def readDenied : Nat := 0x01010004
def writeDenied : Nat := 0x01010005
def frosted : Nat := 0x01010006
def operatorOnly : Nat := 0x01010007
def badOpcode : Nat := 0x01010008
def badMessage : Nat := 0x01010009
def lengthMismatch : Nat := 0x01020001
def aboveRange : Nat := 0x01020002
def belowRange : Nat := 0x01020003
def badEnum : Nat := 0x01020004
def reservedBits : Nat := 0x01020005
def elementRange : Nat := 0x01020006
def inconsistent : Nat := 0x01020007
def badValue : Nat := 0x01020008
def notQuiescent : Nat := 0x01030001
def relation : Nat := 0x01030002
def groupUnknown : Nat := 0x01030003
def needsShadow : Nat := 0x01030004
def notShadowed : Nat := 0x01030005
def notGroupable : Nat := 0x01030006
def draining : Nat := 0x02030010
def standby : Nat := 0x02030011
def keyPending : Nat := 0x02030012
def queueOwned : Nat := 0x02030013
def limit : Nat := 0x01040001
def groupFull : Nat := 0x01040002
def noGroup : Nat := 0x01040003
def busy : Nat := 0x01040004
def partition : Nat := 0x02040010
def linebuf : Nat := 0x02040011
def throughput : Nat := 0x02040012
def dmaFault : Nat := 0x02040013
def noSession : Nat := 0x01050001
def tokenInvalid : Nat := 0x01050002
def tokenStale : Nat := 0x01050003
def sessionsFull : Nat := 0x01050004
def lifecycle : Nat := 0x01050005
def signature : Nat := 0x02050010
def rollback : Nat := 0x02050011
def attestExhausted : Nat := 0x02050012
/-- Table 4.13. -/
def legActive : Nat := 0x02030020
def legState : Nat := 0x02030021
def classifyDuplicate : Nat := 0x02030022
def hashFull : Nat := 0x02040020
/-- Table 5.6. -/
def wrapRequired : Nat := 0x02050020
def unwrapFailed : Nat := 0x02050021
def xtsReuse : Nat := 0x02050022
def overwriteDenied : Nat := 0x02050023
def xtsRanges : Nat := 0x02040024
/-- Table 8.12. -/
def pinLimit : Nat := 0x02030040
/-- Table 12.9. -/
def feedActive : Nat := 0x02030080
/-- Table 7.14. -/
def programInUse : Nat := 0x02030030
def programSpace : Nat := 0x02040030
/-- Tables 9.7, 10.7, 11.10. -/
def dctxEnabled : Nat := 0x02030050
def scaleRatio : Nat := 0x02040050
def imageFormat : Nat := 0x02020060
def oplayerFit : Nat := 0x02030060
def imageInUse : Nat := 0x02030061
def hrdInfeasible : Nat := 0x02020070
def rctxEnabled : Nat := 0x02030070
def actxEnabled : Nat := 0x02030071
/-- R305, R317, R332, R357. -/
def memBusy : Nat := 0x02030090
def fabricBusy : Nat := 0x020300A0
def twinState : Nat := 0x020300B0
/-- R397. -/
def seasonBlocked : Nat := 0x020300D0
/-- Table 18.14. -/
def alreadyFused : Nat := 0x020300E0
def debugDisabled : Nat := 0x02050030
def fuseFail : Nat := 0x02050031
def seedBlank : Nat := 0x020300E1

end Abort

/-- The severity of an event CODE (Table 19.6): 0 INFO, 1 MINOR, 2 MAJOR, 3 CRITICAL, 4 FATAL. -/
def severityOf (code : Nat) : Nat :=
  if code ∈ [0x0402, 0x0506, 0x0801, 0x0A06, 0x0B02, 0x0C03, 0x0D07, 0x0D08, 0x0E09, 0x0F0A, 0x1004, 0x1005, 0x1105,
      0x1106, 0x1208] then 0
  else if code ∈ [0x0303, 0x0401, 0x0502, 0x0602, 0x0604, 0x0701, 0x0802, 0x0901, 0x0902, 0x0903, 0x0A02, 0x0A03,
      0x0A04, 0x0A05, 0x0B01, 0x0C01, 0x0C02, 0x0D06, 0x0E06, 0x0E07, 0x0E08, 0x0F07, 0x0F08, 0x0F09, 0x1003, 0x1104,
      0x1206, 0x1207] then 1
  else if code ∈ [0x0505, 0x0905, 0x0B05, 0x0D02, 0x0E01, 0x0F01, 0x1102, 0x1202, 0x1303, 0x1304] then 3
  else if code ∈ [0x0D01, 0x1101, 0x1201, 0x1301, 0x1302] then 4
  else 2

namespace Ev

def dmaFault : Nat := 0x0301
def ringMalformed : Nat := 0x0302
def notifyOverflow : Nat := 0x0303
def legRxTimeout : Nat := 0x0401
def ssrcLearned : Nat := 0x0402
def srtpExhausted : Nat := 0x0501
def legKeyMissing : Nat := 0x0502
def xtsSectorReuse : Nat := 0x0503
def cipherCoreRetired : Nat := 0x0504
def cipherUnavailable : Nat := 0x0505
def srtpAuthFail : Nat := 0x0506
def matenRunOverrun : Nat := 0x0601
def dispatchTimeout : Nat := 0x0602
def dispatchNoCore : Nat := 0x0603
def dispatchBacklog : Nat := 0x0604
def matenFault : Nat := 0x0701
def matenCoreRetired : Nat := 0x0702
def audioClipping : Nat := 0x0801
def mixPartialLate : Nat := 0x0802
def mixReturnLost : Nat := 0x0803
def decodeUnsupported : Nat := 0x0901
def decodeOversize : Nat := 0x0902
def scalerStrip : Nat := 0x0903
def decodePipeRetired : Nat := 0x0904
def decodeUnavailable : Nat := 0x0905
def oplayerCheckFail : Nat := 0x0A01
def canvasSkipped : Nat := 0x0A02
def composeLate : Nat := 0x0A03
def layoutOverrun : Nat := 0x0A04
def layoutCommitRefused : Nat := 0x0A05
def layerFallback : Nat := 0x0A06
def rcOverrun : Nat := 0x0B01
def encodeMinimal : Nat := 0x0B02
def encodeFeRetired : Nat := 0x0B03
def encodeBeRetired : Nat := 0x0B04
def encodeUnavailable : Nat := 0x0B05
def adaptOverrun : Nat := 0x0C01
def adaptBacklog : Nat := 0x0C02
def shaperAged : Nat := 0x0C03
def hbmProtectedLost : Nat := 0x0D01
def hbmPcQuarantine : Nat := 0x0D02
def hbmUe : Nat := 0x0D03
def hbmHot : Nat := 0x0D04
def hbmCapacityCut : Nat := 0x0D05
def hbmLaneRepair : Nat := 0x0D06
def hbmRetrain : Nat := 0x0D07
def hbmRefreshDouble : Nat := 0x0D08
def fabricFdevConflict : Nat := 0x0E01
def nqLinkDown : Nat := 0x0E02
def nqDefect : Nat := 0x0E03
def fabricDeliveryFail : Nat := 0x0E04
def fabricAnchorLost : Nat := 0x0E05
def nqDegraded : Nat := 0x0E06
def nqRdi : Nat := 0x0E07
def confJoinRefused : Nat := 0x0E08
def nqLinkUp : Nat := 0x0E09
def twinDualActive : Nat := 0x0F01
def twinEquinox : Nat := 0x0F02
def twinFenced : Nat := 0x0F03
def twinUnprotected : Nat := 0x0F04
def twinPeerLost : Nat := 0x0F05
def twinDiverged : Nat := 0x0F06
def twinCold : Nat := 0x0F07
def twinHbPathLost : Nat := 0x0F08
def twinPeerMismatch : Nat := 0x0F09
def twinArmed : Nat := 0x0F0A
def timeStep : Nat := 0x1001
def timeHoldover : Nat := 0x1002
def timePpsMissing : Nat := 0x1003
def timeLocked : Nat := 0x1004
def timeMasterChange : Nat := 0x1005
def thermalShutdown : Nat := 0x1101
def seasonScriptFail : Nat := 0x1102
def thermalThrottle : Nat := 0x1103
def seasonAutumnForced : Nat := 0x1104
def seasonChange : Nat := 0x1105
def thermalNormal : Nat := 0x1106
def fuseFault : Nat := 0x1201
def bootImageRejected : Nat := 0x1202
def debugOpened : Nat := 0x1203
def lifecycleChanged : Nat := 0x1204
def attestExhausted : Nat := 0x1205
def attestLow : Nat := 0x1206
def tokenRejected : Nat := 0x1207
def operatorSession : Nat := 0x1208
def watchdogReset : Nat := 0x1301
def firmwareCorrupt : Nat := 0x1302
def watchdogWarn : Nat := 0x1303
def imageCorrupt : Nat := 0x1304

end Ev

end Sys2Proof.Machine
end

