-- ==== Sys2Proof/Machine/AMap.lean ====
section
/-! DEFINITION. Sparse maps in one canonical form: a list of key and value pairs with strictly rising keys and no entry
equal to what an unlisted key reads as. State holds the dictionary, the per-unit records and memory in this form. -/

namespace Sys2Proof.Machine

/-- The value at a key; `d` where the key is not listed. -/
def AMap.get {α : Type} (d : α) (k : Nat) : List (Nat × α) → α
  | [] => d
  | (i, v) :: r => if k < i then d else if i = k then v else AMap.get d k r

/-- The map with a key's entry set, keeping the keys in order. -/
def AMap.ins {α : Type} (k : Nat) (v : α) : List (Nat × α) → List (Nat × α)
  | [] => [(k, v)]
  | (i, w) :: r =>
    if k < i then (k, v) :: (i, w) :: r else if i = k then (k, v) :: r else (i, w) :: AMap.ins k v r

/-- The map without a key's entry. -/
def AMap.del {α : Type} (k : Nat) : List (Nat × α) → List (Nat × α)
  | [] => []
  | (i, w) :: r =>
    if k < i then (i, w) :: r else if i = k then r.dropWhile (fun e => decide (e.1 ≤ k)) else (i, w) :: AMap.del k r

/-- The map with a key's value set: writing the default removes the entry. -/
def AMap.put {α : Type} [DecidableEq α] (d : α) (k : Nat) (v : α) (m : List (Nat × α)) : List (Nat × α) :=
  if v = d then AMap.del k m else AMap.ins k v m

/-- The canonical form: keys strictly rising from `lo`, no entry equal to its key's default. -/
def AMap.wfFrom {α : Type} [DecidableEq α] (dflt : Nat → α) (lo : Nat) : List (Nat × α) → Bool
  | [] => true
  | (i, v) :: r => decide (lo ≤ i) && decide (v ≠ dflt i) && AMap.wfFrom dflt (i + 1) r

/-- The canonical form of a whole map. -/
def AMap.wf {α : Type} [DecidableEq α] (dflt : Nat → α) (m : List (Nat × α)) : Bool := AMap.wfFrom dflt 0 m

/-- A map restricted to the entries a test keeps. -/
def AMap.keep {α : Type} (p : Nat → α → Bool) (m : List (Nat × α)) : List (Nat × α) := m.filter (fun e => p e.1 e.2)

end Sys2Proof.Machine
end

