-- ==== Sys2Proof/Machine/Objects.lean ====
section
/-! DEFINITION. The Saloth Object Dictionary's object list: every object of the tables of spec/02 to spec/19 with the
attributes R34 says an object declares (type, access, default, range, persistence, effect class, LOCAL, table element
count, frost bit), and one named key per object (`Obj.*`). -/

namespace Sys2Proof.Machine

/-- The types of R13 (REC objects are given by their fields). `oct` has its exact length, `octv` a length up to one. -/
inductive ObjType | bool | u8 | u16 | u32 | u64 | i16 | i32 | enum8 | bits32 | time80 | oct | octv
deriving DecidableEq, Repr

/-- Access codes of Table 0.7; `rwsw` is the manual's "RWS, write only" (OPERATOR writes, nobody reads). -/
inductive Access | ro | rw | wo | rwl | rws | rwsw
deriving DecidableEq, Repr

/-- What the range column adds to minimum and maximum: a step, or powers of two. -/
inductive StepKind | all | step (n : Nat) | pow2
deriving DecidableEq, Repr

/-- The legal values of an object (R37, type and range). -/
inductive Legal
  | any
  | free
  | enum (vs : List Nat)
  | list (vs : List Nat)
  | bits (mask : Nat)
  | span (lo hi : Int) (k : StepKind) (also : List Nat)
deriving DecidableEq, Repr

/-- Persistence classes of R14. -/
inductive Persist | volatile | persist | fused
deriving DecidableEq, Repr

/-- Effect classes of R34. -/
inductive EffectClass | immediate | mixFrame | tick
deriving DecidableEq, Repr

/-- One row of an object table: a run of indexes and of sub-indexes with common attributes. -/
structure Attr where
  ixLo : Nat
  ixHi : Nat
  subLo : Nat
  subHi : Nat
  subStep : Nat
  type : ObjType
  len : Nat
  access : Access
  dflt : Nat
  lo : Int
  hi : Int
  legal : Legal
  persist : Persist
  effect : EffectClass
  loc : Bool
  elems : Nat
  frost : Nat
  counter : Bool
  amark : Bool
deriving DecidableEq, Repr

/-- The key under which State's dictionary holds an object's element: INDEX, SUB and ELEMENT of R32. -/
def key (ix sub el : Nat) : Nat := ix * 0x100000000 + sub * 0x1000000 + el

/-- Objects of the area 0x1xxx (identity and communication). -/
def objects1 : List Attr := [
  ⟨0x1000, 0x1000, 0x1, 0x1, 1, .oct, 16, .ro, 0, 0, 0, .free, .fused, .immediate, false, 0, 255, false, false⟩,
  ⟨0x1000, 0x1000, 0x2, 0x2, 1, .u64, 8, .ro, 0, 0, 18446744073709551615, .span 0 18446744073709551615 .all [], .fused, .immediate, false, 0, 255, false, false⟩,
  ⟨0x1000, 0x1000, 0x3, 0x3, 1, .u32, 4, .ro, 0, 0, 4294967295, .span 0 4294967295 .all [], .volatile, .immediate, false, 0, 255, false, false⟩,
  ⟨0x1010, 0x1010, 0x0, 0x0, 1, .u32, 4, .ro, 0, 0, 4294967295, .span 0 4294967295 .all [], .volatile, .immediate, false, 0, 255, false, false⟩,
  ⟨0x1020, 0x1020, 0x0, 0x0, 1, .u64, 8, .ro, 0, 0, 18446744073709551615, .span 0 18446744073709551615 .all [], .volatile, .immediate, false, 0, 255, false, false⟩,
  ⟨0x1030, 0x1030, 0x0, 0x0, 1, .octv, 4294967295, .rw, 0, 0, 0, .free, .volatile, .immediate, false, 0, 255, false, false⟩,
  ⟨0x1040, 0x1040, 0x0, 0x0, 1, .u32, 4, .rw, 1000, 10, 60000, .span 10 60000 .all [], .persist, .immediate, false, 0, 255, false, false⟩,
  ⟨0x1041, 0x1041, 0x0, 0x0, 1, .u8, 1, .ro, 0, 0, 64, .span 0 64 .all [], .volatile, .immediate, false, 0, 255, false, false⟩,
  ⟨0x1050, 0x1050, 0x1, 0x1, 1, .bool, 1, .rwl, 0, 0, 1, .span 0 1 .all [], .persist, .immediate, true, 0, 5, false, false⟩,
  ⟨0x1050, 0x1050, 0x2, 0x2, 1, .u8, 1, .rwl, 4, 1, 8, .span 1 8 .all [], .persist, .immediate, true, 0, 5, false, false⟩,
  ⟨0x1060, 0x1060, 0x0, 0x0, 1, .octv, 128, .wo, 0, 0, 0, .free, .volatile, .immediate, false, 0, 255, false, false⟩,
  ⟨0x1070, 0x1070, 0x0, 0x0, 1, .u8, 1, .ro, 0, 0, 3, .span 0 3 .all [], .volatile, .immediate, false, 0, 255, false, false⟩]

/-- Objects of the area 0x2xxx (legs and conferences), part 1. -/
def objects2_1 : List Attr := [
  ⟨0x2030, 0x2030, 0x0, 0x0, 1, .octv, 4294967295, .rw, 0, 0, 0, .free, .persist, .immediate, false, 0, 255, false, false⟩,
  ⟨0x2040, 0x2040, 0x1, 0x4, 1, .u16, 2, .rw, 65535, 0, 65535, .span 0 2047 .all [65535], .volatile, .immediate, false, 0, 255, false, false⟩,
  ⟨0x2040, 0x2040, 0x5, 0x8, 1, .u32, 4, .rw, 0, 0, 4294967295, .span 0 4294967295 .all [], .volatile, .immediate, false, 0, 255, true, false⟩,
  ⟨0x2041, 0x2041, 0x0, 0x0, 1, .u16, 2, .rw, 65535, 0, 65535, .span 0 2047 .all [65535], .volatile, .immediate, false, 0, 255, false, false⟩,
  ⟨0x2042, 0x2042, 0x0, 0x0, 1, .u32, 4, .rw, 10000, 100, 1000000, .span 100 1000000 .all [], .volatile, .immediate, false, 0, 255, false, false⟩,
  ⟨0x2100, 0x2100, 0x1, 0x1, 1, .u16, 2, .rw, 65535, 0, 65535, .span 0 16383 .all [65535], .volatile, .immediate, false, 131072, 255, false, true⟩,
  ⟨0x2100, 0x2100, 0x2, 0x2, 1, .enum8, 1, .rw, 0, 0, 1, .enum [0, 1], .volatile, .immediate, false, 131072, 255, false, true⟩,
  ⟨0x2100, 0x2100, 0x3, 0x3, 1, .enum8, 1, .rw, 4, 4, 6, .enum [4, 6], .volatile, .immediate, false, 131072, 255, false, true⟩,
  ⟨0x2100, 0x2100, 0x4, 0x4, 1, .oct, 16, .rw, 0, 0, 0, .free, .volatile, .immediate, false, 131072, 255, false, true⟩,
  ⟨0x2100, 0x2100, 0x5, 0x5, 1, .oct, 16, .rw, 0, 0, 0, .free, .volatile, .immediate, false, 131072, 255, false, true⟩,
  ⟨0x2100, 0x2100, 0x6, 0x6, 1, .u16, 2, .rw, 0, 1, 65535, .span 1 65535 .all [], .volatile, .immediate, false, 131072, 255, false, true⟩,
  ⟨0x2100, 0x2100, 0x7, 0x7, 1, .u16, 2, .rw, 0, 1, 65535, .span 1 65535 .all [], .volatile, .immediate, false, 131072, 255, false, true⟩,
  ⟨0x2100, 0x2100, 0x8, 0x8, 1, .u32, 4, .rw, 0, 0, 2684329983, .bits 2684329983, .volatile, .immediate, false, 131072, 255, false, true⟩,
  ⟨0x2100, 0x2100, 0x9, 0x9, 1, .oct, 6, .rw, 0, 0, 0, .free, .volatile, .immediate, false, 131072, 255, false, true⟩,
  ⟨0x2100, 0x2100, 0xA, 0xA, 1, .u8, 1, .rw, 46, 0, 63, .span 0 63 .all [], .volatile, .immediate, false, 131072, 255, false, false⟩,
  ⟨0x2100, 0x2100, 0xB, 0xB, 1, .u16, 2, .rw, 1200, 576, 1500, .span 576 1500 .all [], .volatile, .immediate, false, 131072, 255, false, false⟩,
  ⟨0x2100, 0x2100, 0xC, 0xC, 1, .u32, 4, .rw, 4294967295, 0, 4294967295, .span 0 65535 .all [4294967295], .volatile, .immediate, false, 131072, 255, false, true⟩,
  ⟨0x2100, 0x2100, 0xD, 0xD, 1, .u32, 4, .rw, 4294967295, 0, 4294967295, .span 0 65535 .all [4294967295], .volatile, .immediate, false, 131072, 255, false, true⟩,
  ⟨0x2100, 0x2100, 0xE, 0xE, 1, .oct, 32, .rw, 0, 0, 0, .free, .volatile, .immediate, false, 131072, 255, false, true⟩,
  ⟨0x2100, 0x2100, 0xF, 0xF, 1, .u16, 2, .rw, 0, 0, 60000, .span 100 60000 .all [0], .volatile, .immediate, false, 131072, 255, false, false⟩,
  ⟨0x2100, 0x2100, 0x10, 0x10, 1, .bits32, 4, .rw, 1, 0, 31, .bits 31, .volatile, .immediate, false, 131072, 255, false, true⟩,
  ⟨0x2100, 0x2100, 0x11, 0x11, 1, .u16, 2, .rw, 512, 64, 4096, .span 64 4096 .pow2 [], .volatile, .immediate, false, 131072, 255, false, true⟩,
  ⟨0x2101, 0x2101, 0x0, 0x0, 1, .enum8, 1, .rw, 0, 0, 2, .enum [0, 1, 2], .volatile, .mixFrame, false, 131072, 255, false, false⟩,
  ⟨0x2110, 0x2117, 0x1, 0x1, 1, .u32, 4, .rw, 0, 0, 4294967295, .span 0 4294967295 .all [], .volatile, .immediate, false, 131072, 255, false, true⟩,
  ⟨0x2110, 0x2117, 0x2, 0x2, 1, .enum8, 1, .rw, 0, 0, 5, .enum [0, 1, 2, 3, 4, 5], .volatile, .immediate, false, 131072, 255, false, true⟩,
  ⟨0x2110, 0x2117, 0x3, 0x3, 1, .u8, 1, .rw, 0, 0, 127, .span 0 127 .all [], .volatile, .immediate, false, 131072, 255, false, true⟩,
  ⟨0x2110, 0x2117, 0x4, 0x4, 1, .u8, 1, .rw, 0, 0, 7, .span 0 7 .all [], .volatile, .immediate, false, 131072, 255, false, true⟩,
  ⟨0x2110, 0x2117, 0x5, 0x5, 1, .u32, 4, .rw, 4294967295, 0, 4294967295, .span 0 4095 .all [4294967295], .volatile, .immediate, false, 131072, 255, false, true⟩,
  ⟨0x2110, 0x2117, 0x6, 0x6, 1, .bool, 1, .rw, 0, 0, 1, .span 0 1 .all [], .volatile, .immediate, false, 131072, 255, false, true⟩,
  ⟨0x2120, 0x2123, 0x1, 0x1, 1, .u32, 4, .rw, 0, 0, 4294967295, .span 0 4294967295 .all [], .volatile, .immediate, false, 131072, 255, false, true⟩,
  ⟨0x2120, 0x2123, 0x2, 0x2, 1, .enum8, 1, .rw, 0, 0, 5, .enum [0, 1, 2, 3, 4, 5], .volatile, .immediate, false, 131072, 255, false, true⟩,
  ⟨0x2120, 0x2123, 0x3, 0x3, 1, .u8, 1, .rw, 0, 0, 127, .span 0 127 .all [], .volatile, .immediate, false, 131072, 255, false, true⟩,
  ⟨0x2120, 0x2123, 0x4, 0x4, 1, .u8, 1, .rw, 0, 0, 3, .span 0 3 .all [], .volatile, .immediate, false, 131072, 255, false, true⟩,
  ⟨0x2120, 0x2123, 0x5, 0x5, 1, .u32, 4, .rw, 4294967295, 0, 4294967295, .span 0 4095 .all [4294967295], .volatile, .immediate, false, 131072, 255, false, true⟩,
  ⟨0x2120, 0x2123, 0x6, 0x6, 1, .bool, 1, .rw, 0, 0, 1, .span 0 1 .all [], .volatile, .immediate, false, 131072, 255, false, true⟩,
  ⟨0x2130, 0x2130, 0x1, 0x1, 1, .enum8, 1, .rw, 1, 0, 1, .enum [0, 1], .volatile, .immediate, false, 131072, 255, false, false⟩,
  ⟨0x2130, 0x2130, 0x2, 0x2, 1, .u16, 2, .rw, 20, 0, 500, .span 0 500 (.step 10) [], .volatile, .immediate, false, 131072, 255, false, false⟩,
  ⟨0x2130, 0x2130, 0x3, 0x3, 1, .u16, 2, .rw, 200, 10, 1000, .span 10 1000 (.step 10) [], .volatile, .immediate, false, 131072, 255, false, false⟩,
  ⟨0x2130, 0x2130, 0x4, 0x4, 1, .u16, 2, .rw, 32, 8, 256, .span 8 256 .pow2 [], .volatile, .immediate, false, 131072, 255, false, true⟩,
  ⟨0x2130, 0x2130, 0x5, 0x5, 1, .enum8, 1, .rw, 0, 0, 3, .enum [0, 1, 2, 3], .volatile, .immediate, false, 131072, 255, false, true⟩]

/-- Objects of the area 0x2xxx (legs and conferences), part 2. -/
def objects2_2 : List Attr := [
  ⟨0x2130, 0x2130, 0x6, 0x6, 1, .u8, 1, .rw, 12, 4, 64, .span 4 64 .all [], .volatile, .immediate, false, 131072, 255, false, false⟩,
  ⟨0x2130, 0x2130, 0x7, 0x7, 1, .u32, 4, .rw, 262144, 65536, 16777216, .span 65536 16777216 (.step 65536) [], .volatile, .immediate, false, 131072, 255, false, true⟩,
  ⟨0x2130, 0x2130, 0x8, 0x8, 1, .u16, 2, .rw, 100, 10, 1000, .span 10 1000 .all [], .volatile, .immediate, false, 131072, 255, false, false⟩,
  ⟨0x2130, 0x2130, 0x9, 0x9, 1, .u16, 2, .ro, 0, 0, 1000, .span 0 1000 .all [], .volatile, .immediate, false, 131072, 255, false, false⟩,
  ⟨0x2140, 0x2140, 0x1, 0x1, 1, .u16, 2, .rw, 1000, 100, 10000, .span 100 10000 .all [], .volatile, .immediate, false, 131072, 255, false, false⟩,
  ⟨0x2140, 0x2140, 0x2, 0x2, 1, .bits32, 4, .rw, 31, 0, 31, .bits 31, .volatile, .immediate, false, 131072, 255, false, false⟩,
  ⟨0x2140, 0x2140, 0x3, 0x3, 1, .u32, 4, .ro, 0, 0, 4294967295, .span 0 4294967295 .all [], .volatile, .immediate, false, 131072, 255, false, false⟩,
  ⟨0x2180, 0x2180, 0x1, 0x1, 1, .u32, 4, .rw, 0, 0, 4294967295, .span 0 4294967295 .all [], .volatile, .immediate, false, 131072, 255, true, false⟩,
  ⟨0x2180, 0x2180, 0x2, 0x2, 1, .u64, 8, .rw, 0, 0, 18446744073709551615, .span 0 18446744073709551615 .all [], .volatile, .immediate, false, 131072, 255, true, false⟩,
  ⟨0x2180, 0x2180, 0x3, 0x3, 1, .u32, 4, .rw, 0, 0, 4294967295, .span 0 4294967295 .all [], .volatile, .immediate, false, 131072, 255, true, false⟩,
  ⟨0x2180, 0x2180, 0x4, 0x4, 1, .u32, 4, .rw, 0, 0, 4294967295, .span 0 4294967295 .all [], .volatile, .immediate, false, 131072, 255, true, false⟩,
  ⟨0x2180, 0x2180, 0x5, 0x5, 1, .u32, 4, .rw, 0, 0, 4294967295, .span 0 4294967295 .all [], .volatile, .immediate, false, 131072, 255, true, false⟩,
  ⟨0x2180, 0x2180, 0x6, 0x6, 1, .u32, 4, .rw, 0, 0, 4294967295, .span 0 4294967295 .all [], .volatile, .immediate, false, 131072, 255, true, false⟩,
  ⟨0x2180, 0x2180, 0x7, 0x7, 1, .u32, 4, .rw, 0, 0, 4294967295, .span 0 4294967295 .all [], .volatile, .immediate, false, 131072, 255, true, false⟩,
  ⟨0x2180, 0x2180, 0x8, 0x8, 1, .u32, 4, .rw, 0, 0, 4294967295, .span 0 4294967295 .all [], .volatile, .immediate, false, 131072, 255, true, false⟩,
  ⟨0x2180, 0x2180, 0x9, 0x9, 1, .u32, 4, .rw, 0, 0, 4294967295, .span 0 4294967295 .all [], .volatile, .immediate, false, 131072, 255, true, false⟩,
  ⟨0x2180, 0x2180, 0xA, 0xA, 1, .u32, 4, .rw, 0, 0, 4294967295, .span 0 4294967295 .all [], .volatile, .immediate, false, 131072, 255, true, false⟩,
  ⟨0x2180, 0x2180, 0xB, 0xB, 1, .u64, 8, .rw, 0, 0, 18446744073709551615, .span 0 18446744073709551615 .all [], .volatile, .immediate, false, 131072, 255, true, false⟩,
  ⟨0x2180, 0x2180, 0xC, 0xC, 1, .u32, 4, .rw, 0, 0, 4294967295, .span 0 4294967295 .all [], .volatile, .immediate, false, 131072, 255, true, false⟩,
  ⟨0x2180, 0x2180, 0xD, 0xD, 1, .u32, 4, .rw, 0, 0, 4294967295, .span 0 4294967295 .all [], .volatile, .immediate, false, 131072, 255, true, false⟩,
  ⟨0x2180, 0x2180, 0xE, 0xE, 1, .u32, 4, .rw, 0, 0, 4294967295, .span 0 4294967295 .all [], .volatile, .immediate, false, 131072, 255, true, false⟩,
  ⟨0x2180, 0x2180, 0xF, 0xF, 1, .u32, 4, .rw, 0, 0, 4294967295, .span 0 4294967295 .all [], .volatile, .immediate, false, 131072, 255, true, false⟩,
  ⟨0x2190, 0x2191, 0x1, 0x1, 1, .u32, 4, .rw, 0, 0, 4294967295, .span 0 4294967295 .all [], .volatile, .immediate, false, 0, 255, true, false⟩,
  ⟨0x2190, 0x2191, 0x2, 0x2, 1, .u32, 4, .rw, 0, 0, 4294967295, .span 0 4294967295 .all [], .volatile, .immediate, false, 0, 255, true, false⟩,
  ⟨0x2190, 0x2191, 0x3, 0x3, 1, .u32, 4, .rw, 0, 0, 4294967295, .span 0 4294967295 .all [], .volatile, .immediate, false, 0, 255, true, false⟩,
  ⟨0x2190, 0x2191, 0x4, 0x4, 1, .u32, 4, .rw, 0, 0, 4294967295, .span 0 4294967295 .all [], .volatile, .immediate, false, 0, 255, true, false⟩,
  ⟨0x2190, 0x2191, 0x5, 0x5, 1, .u32, 4, .rw, 0, 0, 4294967295, .span 0 4294967295 .all [], .volatile, .immediate, false, 0, 255, true, false⟩,
  ⟨0x2190, 0x2191, 0x6, 0x6, 1, .u32, 4, .rw, 0, 0, 4294967295, .span 0 4294967295 .all [], .volatile, .immediate, false, 0, 255, true, false⟩,
  ⟨0x2190, 0x2191, 0x7, 0x7, 1, .u32, 4, .rw, 0, 0, 4294967295, .span 0 4294967295 .all [], .volatile, .immediate, false, 0, 255, true, false⟩,
  ⟨0x2190, 0x2191, 0x8, 0x8, 1, .u32, 4, .rw, 0, 0, 4294967295, .span 0 4294967295 .all [], .volatile, .immediate, false, 0, 255, true, false⟩,
  ⟨0x2190, 0x2191, 0x9, 0x9, 1, .u32, 4, .rw, 0, 0, 4294967295, .span 0 4294967295 .all [], .volatile, .immediate, false, 0, 255, true, false⟩,
  ⟨0x2190, 0x2191, 0xA, 0xA, 1, .u32, 4, .rw, 0, 0, 4294967295, .span 0 4294967295 .all [], .volatile, .immediate, false, 0, 255, true, false⟩,
  ⟨0x2200, 0x2200, 0x1, 0x1, 1, .enum8, 1, .rw, 0, 0, 1, .enum [0, 1], .volatile, .immediate, false, 16384, 255, false, false⟩,
  ⟨0x2200, 0x2200, 0x2, 0x2, 1, .enum8, 1, .rw, 0, 0, 2, .enum [0, 1, 2], .volatile, .immediate, false, 16384, 255, false, false⟩,
  ⟨0x2200, 0x2200, 0x3, 0x3, 1, .u16, 2, .rw, 65535, 0, 65535, .span 0 511 .all [65535], .volatile, .immediate, false, 16384, 255, false, false⟩,
  ⟨0x2200, 0x2200, 0x4, 0x4, 1, .u16, 2, .rw, 65535, 0, 65535, .span 0 16383 .all [65535], .volatile, .immediate, false, 16384, 255, false, false⟩,
  ⟨0x2200, 0x2200, 0x5, 0x5, 1, .u32, 4, .ro, 0, 0, 4294967295, .span 0 4294967295 .all [], .volatile, .immediate, false, 16384, 255, false, false⟩,
  ⟨0x2200, 0x2200, 0x6, 0x6, 1, .u32, 4, .ro, 0, 0, 32768, .span 0 32768 .all [], .volatile, .immediate, false, 16384, 255, false, false⟩,
  ⟨0x2200, 0x2200, 0x7, 0x7, 1, .u8, 1, .ro, 1, 1, 64, .span 1 64 .all [], .volatile, .immediate, false, 16384, 255, false, false⟩,
  ⟨0x2310, 0x2310, 0x1, 0x1, 1, .bool, 1, .rw, 0, 0, 1, .span 0 1 .all [], .volatile, .immediate, false, 16384, 255, false, false⟩]

/-- Objects of the area 0x2xxx (legs and conferences), part 3. -/
def objects2_3 : List Attr := [
  ⟨0x2310, 0x2310, 0x2, 0x2, 1, .u16, 2, .rw, 65535, 0, 65535, .span 0 2047 .all [65535], .volatile, .immediate, false, 16384, 255, false, false⟩,
  ⟨0x2310, 0x2310, 0x3, 0x3, 1, .u32, 4, .rw, 4294967295, 0, 4294967295, .span 0 65535 .all [4294967295], .volatile, .immediate, false, 16384, 255, false, false⟩,
  ⟨0x2310, 0x2310, 0x4, 0x4, 1, .u64, 8, .rw, 0, 0, 18446744073709551615, .span 0 18446744073709551615 .all [], .volatile, .immediate, false, 16384, 255, false, false⟩,
  ⟨0x2311, 0x2311, 0x1, 0x1, 1, .bool, 1, .rw, 0, 0, 1, .span 0 1 .all [], .volatile, .immediate, false, 131072, 255, false, false⟩,
  ⟨0x2311, 0x2311, 0x2, 0x2, 1, .u16, 2, .rw, 65535, 0, 65535, .span 0 2047 .all [65535], .volatile, .immediate, false, 131072, 255, false, false⟩,
  ⟨0x2311, 0x2311, 0x3, 0x3, 1, .u32, 4, .rw, 4294967295, 0, 4294967295, .span 0 65535 .all [4294967295], .volatile, .immediate, false, 131072, 255, false, false⟩,
  ⟨0x2311, 0x2311, 0x4, 0x4, 1, .u64, 8, .rw, 0, 0, 18446744073709551615, .span 0 18446744073709551615 .all [], .volatile, .immediate, false, 131072, 255, false, false⟩,
  ⟨0x2311, 0x2311, 0x5, 0x5, 1, .enum8, 1, .rw, 0, 0, 1, .enum [0, 1], .volatile, .immediate, false, 131072, 255, false, false⟩]

/-- Objects of the area 0x3xxx (audio), part 1. -/
def objects3_1 : List Attr := [
  ⟨0x3010, 0x3010, 0x1, 0x1, 1, .u32, 4, .ro, 0, 0, 4294967295, .span 0 4294967295 .all [], .volatile, .immediate, false, 0, 255, false, false⟩,
  ⟨0x3010, 0x3010, 0x2, 0x2, 1, .u16, 2, .ro, 0, 0, 1024, .span 0 1024 .all [], .volatile, .immediate, false, 0, 255, false, false⟩,
  ⟨0x3010, 0x3010, 0x3, 0x3, 1, .u32, 4, .ro, 0, 0, 4294967295, .span 0 4294967295 .all [], .volatile, .immediate, false, 0, 255, false, false⟩,
  ⟨0x3040, 0x3040, 0x0, 0x0, 1, .octv, 4294967295, .wo, 0, 0, 0, .free, .volatile, .immediate, false, 0, 255, false, false⟩,
  ⟨0x3041, 0x3041, 0x0, 0x0, 1, .u16, 2, .wo, 0, 0, 1023, .span 0 1023 .all [], .volatile, .immediate, false, 0, 255, false, false⟩,
  ⟨0x3042, 0x3042, 0x1, 0x1, 1, .u16, 2, .ro, 0, 0, 1024, .span 0 1024 .all [], .volatile, .immediate, false, 0, 255, false, false⟩,
  ⟨0x3042, 0x3042, 0x2, 0x2, 1, .u32, 4, .ro, 131072, 0, 4294967295, .span 0 4294967295 .all [], .volatile, .immediate, false, 0, 255, false, false⟩,
  ⟨0x3043, 0x3043, 0x0, 0x0, 1, .u16, 2, .rw, 0, 0, 1023, .span 0 1023 .all [], .volatile, .immediate, false, 0, 255, false, false⟩,
  ⟨0x3044, 0x3044, 0x1, 0x1, 1, .u32, 4, .ro, 0, 0, 4294967295, .span 0 4294967295 .all [], .volatile, .immediate, false, 0, 255, false, false⟩,
  ⟨0x3044, 0x3044, 0x2, 0x2, 1, .u32, 4, .ro, 0, 0, 4294967295, .span 0 4294967295 .all [], .volatile, .immediate, false, 0, 255, false, false⟩,
  ⟨0x3044, 0x3044, 0x3, 0x3, 1, .u32, 4, .ro, 0, 0, 4294967295, .span 0 4294967295 .all [], .volatile, .immediate, false, 0, 255, false, false⟩,
  ⟨0x3044, 0x3044, 0x4, 0x4, 1, .enum8, 1, .ro, 0, 0, 2, .enum [0, 1, 2], .volatile, .immediate, false, 0, 255, false, false⟩,
  ⟨0x3050, 0x3050, 0x1, 0x80, 1, .u32, 4, .rw, 0, 0, 4294967295, .span 0 4294967295 .all [], .volatile, .immediate, false, 0, 255, true, false⟩,
  ⟨0x3051, 0x3051, 0x1, 0x80, 1, .u32, 4, .rw, 0, 0, 4294967295, .span 0 4294967295 .all [], .volatile, .immediate, false, 0, 255, true, false⟩,
  ⟨0x3100, 0x3100, 0x0, 0x0, 1, .u32, 4, .rw, 192000000, 0, 192000000, .span 0 192000000 .all [], .persist, .immediate, true, 0, 255, false, false⟩,
  ⟨0x3200, 0x3200, 0x1, 0x1, 1, .u16, 2, .rw, 5000, 2000, 8000, .span 2000 8000 (.step 100) [], .volatile, .mixFrame, false, 16384, 255, false, false⟩,
  ⟨0x3200, 0x3200, 0x2, 0x2, 1, .u8, 1, .rw, 8, 1, 16, .span 1 16 .all [], .volatile, .mixFrame, false, 16384, 255, false, false⟩,
  ⟨0x3200, 0x3200, 0x3, 0x3, 1, .u16, 2, .rw, 10, 1, 500, .span 1 500 .all [], .volatile, .mixFrame, false, 16384, 255, false, false⟩,
  ⟨0x3200, 0x3200, 0x4, 0x4, 1, .bool, 1, .rw, 1, 0, 1, .span 0 1 .all [], .volatile, .mixFrame, false, 16384, 255, false, false⟩,
  ⟨0x3200, 0x3200, 0x5, 0x5, 1, .u16, 2, .rw, 1024, 0, 4096, .span 0 4096 .all [], .volatile, .mixFrame, false, 16384, 255, false, false⟩,
  ⟨0x3200, 0x3200, 0x6, 0x6, 1, .i16, 2, .rw, 65036, (-700), (-200), .span (-700) (-200) .all [], .volatile, .mixFrame, false, 16384, 255, false, false⟩,
  ⟨0x3200, 0x3200, 0x7, 0x7, 1, .u16, 2, .rw, 200, 0, 2000, .span 0 2000 .all [], .volatile, .mixFrame, false, 16384, 255, false, false⟩,
  ⟨0x3200, 0x3200, 0x8, 0x8, 1, .u8, 1, .rw, 30, 0, 120, .span 0 120 .all [], .volatile, .mixFrame, false, 16384, 255, false, false⟩,
  ⟨0x3200, 0x3200, 0x9, 0x9, 1, .u16, 2, .rw, 600, 100, 5000, .span 100 5000 .all [], .volatile, .mixFrame, false, 16384, 255, false, false⟩,
  ⟨0x3200, 0x3200, 0xA, 0xA, 1, .u16, 2, .rw, 9000, 1000, 9800, .span 1000 9800 .all [], .volatile, .mixFrame, false, 16384, 255, false, false⟩,
  ⟨0x3210, 0x3210, 0x1, 0x1, 1, .u32, 4, .ro, 4294967295, 0, 4294967295, .span 0 4294967295 .all [], .volatile, .immediate, false, 16384, 255, false, false⟩,
  ⟨0x3210, 0x3210, 0x2, 0x2, 1, .u8, 1, .ro, 0, 0, 16, .span 0 16 .all [], .volatile, .immediate, false, 16384, 255, false, false⟩,
  ⟨0x3210, 0x3210, 0x3, 0x3, 1, .u8, 1, .ro, 0, 0, 16, .span 0 16 .all [], .volatile, .immediate, false, 16384, 255, false, false⟩,
  ⟨0x3210, 0x3210, 0x4, 0x4, 1, .u8, 1, .ro, 0, 0, 32, .span 0 32 .all [], .volatile, .immediate, false, 16384, 255, false, false⟩,
  ⟨0x3210, 0x3210, 0x5, 0x5, 1, .u32, 4, .rw, 0, 0, 4294967295, .span 0 4294967295 .all [], .volatile, .mixFrame, false, 16384, 255, true, false⟩,
  ⟨0x3210, 0x3210, 0x6, 0x6, 1, .u32, 4, .rw, 0, 0, 4294967295, .span 0 4294967295 .all [], .volatile, .mixFrame, false, 16384, 255, true, false⟩,
  ⟨0x3210, 0x3210, 0x7, 0x7, 1, .u32, 4, .rw, 0, 0, 4294967295, .span 0 4294967295 .all [], .volatile, .mixFrame, false, 16384, 255, true, false⟩,
  ⟨0x3210, 0x3210, 0x8, 0x8, 1, .u32, 4, .rw, 0, 0, 4294967295, .span 0 4294967295 .all [], .volatile, .mixFrame, false, 16384, 255, true, false⟩,
  ⟨0x3300, 0x3300, 0x1, 0x1, 1, .enum8, 1, .rw, 0, 0, 8, .enum [0, 1, 2, 3, 4, 5, 6, 7, 8], .volatile, .immediate, false, 131072, 255, false, true⟩,
  ⟨0x3300, 0x3300, 0x2, 0x2, 1, .enum8, 1, .rw, 0, 0, 8, .enum [0, 1, 2, 3, 4, 5, 6, 7, 8], .volatile, .immediate, false, 131072, 255, false, true⟩,
  ⟨0x3300, 0x3300, 0x3, 0x3, 1, .enum8, 1, .rw, 1, 0, 1, .enum [0, 1], .volatile, .immediate, false, 131072, 255, false, true⟩,
  ⟨0x3300, 0x3300, 0x4, 0x4, 1, .u32, 4, .rw, 0, 0, 256000, .span 5900 256000 .all [0], .volatile, .immediate, false, 131072, 255, false, true⟩,
  ⟨0x3300, 0x3300, 0x5, 0x5, 1, .bool, 1, .rw, 0, 0, 1, .span 0 1 .all [], .volatile, .immediate, false, 131072, 255, false, true⟩,
  ⟨0x3300, 0x3300, 0x6, 0x6, 1, .enum8, 1, .rw, 0, 0, 2, .enum [0, 1, 2], .volatile, .mixFrame, false, 131072, 255, false, false⟩,
  ⟨0x3300, 0x3300, 0x7, 0x7, 1, .enum8, 1, .rw, 0, 0, 2, .enum [0, 1, 2], .volatile, .mixFrame, false, 131072, 255, false, false⟩]

/-- Objects of the area 0x3xxx (audio), part 2. -/
def objects3_2 : List Attr := [
  ⟨0x3300, 0x3300, 0x8, 0x8, 1, .u16, 2, .rw, 65535, 0, 65535, .span 0 16383 .all [65535], .volatile, .mixFrame, false, 131072, 255, false, false⟩,
  ⟨0x3300, 0x3300, 0x9, 0x9, 1, .u16, 2, .rw, 1024, 0, 4096, .span 0 4096 .all [], .volatile, .mixFrame, false, 131072, 255, false, false⟩,
  ⟨0x3300, 0x3300, 0xA, 0xA, 1, .u16, 2, .rw, 1024, 0, 4096, .span 0 4096 .all [], .volatile, .mixFrame, false, 131072, 255, false, false⟩,
  ⟨0x3300, 0x3300, 0xB, 0xB, 1, .u16, 2, .rw, 1024, 0, 1024, .span 0 1024 .all [], .volatile, .mixFrame, false, 131072, 255, false, false⟩,
  ⟨0x3310, 0x3310, 0x1, 0x1, 1, .i16, 2, .ro, 64266, (-1270), 0, .span (-1270) 0 .all [], .volatile, .immediate, false, 131072, 255, false, false⟩,
  ⟨0x3310, 0x3310, 0x2, 0x2, 1, .bool, 1, .ro, 0, 0, 1, .span 0 1 .all [], .volatile, .immediate, false, 131072, 255, false, false⟩,
  ⟨0x3310, 0x3310, 0x3, 0x3, 1, .bool, 1, .ro, 0, 0, 1, .span 0 1 .all [], .volatile, .immediate, false, 131072, 255, false, false⟩,
  ⟨0x3310, 0x3310, 0x4, 0x4, 1, .u32, 4, .ro, 0, 0, 4294967295, .span 0 4294967295 .all [], .volatile, .immediate, false, 131072, 255, false, false⟩,
  ⟨0x3320, 0x3320, 0x1, 0x1, 1, .u32, 4, .rw, 0, 0, 4294967295, .span 0 4294967295 .all [], .volatile, .mixFrame, false, 131072, 255, true, false⟩,
  ⟨0x3320, 0x3320, 0x2, 0x2, 1, .u32, 4, .rw, 0, 0, 4294967295, .span 0 4294967295 .all [], .volatile, .mixFrame, false, 131072, 255, true, false⟩,
  ⟨0x3320, 0x3320, 0x3, 0x3, 1, .u32, 4, .rw, 0, 0, 4294967295, .span 0 4294967295 .all [], .volatile, .mixFrame, false, 131072, 255, true, false⟩,
  ⟨0x3320, 0x3320, 0x4, 0x4, 1, .u32, 4, .rw, 0, 0, 4294967295, .span 0 4294967295 .all [], .volatile, .mixFrame, false, 131072, 255, true, false⟩,
  ⟨0x3400, 0x3400, 0x0, 0x0, 1, .u16, 2, .rw, 65535, 0, 65535, .span 0 2047 .all [65535], .volatile, .immediate, false, 0, 255, false, false⟩]

/-- Objects of the area 0x4xxx (decode), part 1. -/
def objects4_1 : List Attr := [
  ⟨0x4010, 0x4010, 0x1, 0x1, 1, .u32, 4, .ro, 0, 0, 4294967295, .span 0 4294967295 .all [], .volatile, .immediate, false, 0, 255, false, false⟩,
  ⟨0x4010, 0x4010, 0x2, 0x2, 1, .u16, 2, .ro, 0, 0, 4096, .span 0 4096 .all [], .volatile, .immediate, false, 0, 255, false, false⟩,
  ⟨0x4010, 0x4010, 0x3, 0x3, 1, .bits32, 4, .ro, 255, 0, 255, .bits 255, .volatile, .immediate, false, 0, 255, false, false⟩,
  ⟨0x4010, 0x4010, 0x4, 0x4, 1, .u16, 2, .ro, 0, 0, 65535, .span 0 65535 .all [], .volatile, .immediate, false, 0, 255, false, false⟩,
  ⟨0x4100, 0x4100, 0x0, 0x0, 1, .u32, 4, .rw, 16000000, 0, 16000000, .span 0 16000000 .all [], .persist, .immediate, true, 0, 255, false, false⟩,
  ⟨0x4200, 0x4200, 0x1, 0x1, 1, .enum8, 1, .rw, 0, 0, 1, .enum [0, 1], .volatile, .immediate, false, 4096, 255, false, false⟩,
  ⟨0x4200, 0x4200, 0x2, 0x2, 1, .enum8, 1, .rw, 0, 0, 3, .enum [0, 1, 2, 3], .volatile, .immediate, false, 4096, 255, false, true⟩,
  ⟨0x4200, 0x4200, 0x3, 0x3, 1, .u16, 2, .rw, 1920, 16, 8192, .span 16 8192 (.step 2) [], .volatile, .immediate, false, 4096, 255, false, true⟩,
  ⟨0x4200, 0x4200, 0x4, 0x4, 1, .u16, 2, .rw, 1080, 16, 8192, .span 16 8192 (.step 2) [], .volatile, .immediate, false, 4096, 255, false, true⟩,
  ⟨0x4200, 0x4200, 0x5, 0x5, 1, .u8, 1, .rw, 8, 8, 10, .list [8, 10], .volatile, .immediate, false, 4096, 255, false, true⟩,
  ⟨0x4200, 0x4200, 0x6, 0x6, 1, .u8, 1, .rw, 30, 1, 120, .span 1 120 .all [], .volatile, .immediate, false, 4096, 255, false, true⟩,
  ⟨0x4200, 0x4200, 0x7, 0x7, 1, .u8, 1, .rw, 6, 2, 17, .span 2 17 .all [], .volatile, .immediate, false, 4096, 255, false, true⟩,
  ⟨0x4200, 0x4200, 0x8, 0x8, 1, .u8, 1, .rw, 1, 0, 3, .span 0 3 .all [], .volatile, .immediate, false, 4096, 255, false, false⟩,
  ⟨0x4200, 0x4200, 0x9, 0x9, 1, .u8, 1, .rw, 2, 0, 2, .span 0 2 .all [], .volatile, .immediate, false, 4096, 255, false, false⟩,
  ⟨0x4200, 0x4200, 0xA, 0xA, 1, .u8, 1, .rw, 7, 0, 7, .span 0 7 .all [], .volatile, .immediate, false, 4096, 255, false, false⟩,
  ⟨0x4200, 0x4200, 0xB, 0xB, 1, .u16, 2, .rw, 0, 0, 1000, .span 0 1000 .all [], .volatile, .immediate, false, 4096, 255, false, false⟩,
  ⟨0x4200, 0x4200, 0xC, 0xC, 1, .u8, 1, .rw, 4, 2, 16, .span 2 16 .all [], .volatile, .immediate, false, 4096, 255, false, false⟩,
  ⟨0x4300, 0x4300, 0x1, 0xD, 4, .u16, 2, .rw, 0, 0, 4096, .span 16 4096 (.step 2) [0], .volatile, .tick, false, 4096, 255, false, false⟩,
  ⟨0x4300, 0x4300, 0x2, 0xE, 4, .u16, 2, .rw, 0, 0, 4096, .span 16 4096 (.step 2) [0], .volatile, .tick, false, 4096, 255, false, false⟩,
  ⟨0x4300, 0x4300, 0x3, 0xF, 4, .u8, 1, .rw, 3, 3, 8, .span 3 8 .all [], .volatile, .tick, false, 4096, 255, false, false⟩,
  ⟨0x4300, 0x4300, 0x4, 0x10, 4, .u64, 8, .rw, 0, 0, 18446744073709551615, .span 0 18446744073709551615 .all [], .volatile, .tick, false, 4096, 255, false, false⟩,
  ⟨0x4400, 0x4400, 0x1, 0x1, 1, .u32, 4, .ro, 4294967295, 0, 4294967295, .span 0 4294967295 .all [], .volatile, .immediate, false, 4096, 255, false, false⟩,
  ⟨0x4400, 0x4400, 0x2, 0x2, 1, .u32, 4, .ro, 4294967295, 0, 4294967295, .span 0 4294967295 .all [], .volatile, .immediate, false, 4096, 255, false, false⟩,
  ⟨0x4400, 0x4400, 0x3, 0x3, 1, .u16, 2, .ro, 0, 0, 65535, .span 0 65535 .all [], .volatile, .immediate, false, 4096, 255, false, false⟩,
  ⟨0x4400, 0x4400, 0x4, 0x4, 1, .u16, 2, .ro, 0, 0, 65535, .span 0 65535 .all [], .volatile, .immediate, false, 4096, 255, false, false⟩,
  ⟨0x4400, 0x4400, 0x5, 0x5, 1, .u8, 1, .ro, 0, 0, 255, .span 0 255 .all [], .volatile, .immediate, false, 4096, 255, false, false⟩,
  ⟨0x4400, 0x4400, 0x6, 0x6, 1, .u8, 1, .ro, 0, 0, 255, .span 0 255 .all [], .volatile, .immediate, false, 4096, 255, false, false⟩,
  ⟨0x4400, 0x4400, 0x7, 0x7, 1, .u8, 1, .ro, 0, 0, 255, .span 0 255 .all [], .volatile, .immediate, false, 4096, 255, false, false⟩,
  ⟨0x4400, 0x4400, 0x8, 0x8, 1, .u8, 1, .ro, 0, 0, 15, .span 0 15 .all [], .volatile, .immediate, false, 4096, 255, false, false⟩,
  ⟨0x4400, 0x4400, 0x9, 0x9, 1, .u32, 4, .ro, 0, 0, 4294967295, .span 0 4294967295 .all [], .volatile, .immediate, false, 4096, 255, false, false⟩,
  ⟨0x4400, 0x4400, 0xA, 0xA, 1, .time80, 10, .ro, 0, 0, 0, .free, .volatile, .immediate, false, 4096, 255, false, false⟩,
  ⟨0x4500, 0x4500, 0x1, 0x1, 1, .u32, 4, .rw, 0, 0, 4294967295, .span 0 4294967295 .all [], .volatile, .immediate, false, 4096, 255, true, false⟩,
  ⟨0x4500, 0x4500, 0x2, 0x2, 1, .u32, 4, .rw, 0, 0, 4294967295, .span 0 4294967295 .all [], .volatile, .immediate, false, 4096, 255, true, false⟩,
  ⟨0x4500, 0x4500, 0x3, 0x3, 1, .u32, 4, .rw, 0, 0, 4294967295, .span 0 4294967295 .all [], .volatile, .immediate, false, 4096, 255, true, false⟩,
  ⟨0x4500, 0x4500, 0x4, 0x4, 1, .u32, 4, .rw, 0, 0, 4294967295, .span 0 4294967295 .all [], .volatile, .immediate, false, 4096, 255, true, false⟩,
  ⟨0x4500, 0x4500, 0x5, 0x5, 1, .u32, 4, .rw, 0, 0, 4294967295, .span 0 4294967295 .all [], .volatile, .immediate, false, 4096, 255, true, false⟩,
  ⟨0x4500, 0x4500, 0x6, 0x6, 1, .u32, 4, .rw, 0, 0, 4294967295, .span 0 4294967295 .all [], .volatile, .immediate, false, 4096, 255, true, false⟩,
  ⟨0x4500, 0x4500, 0x7, 0x7, 1, .u32, 4, .rw, 0, 0, 4294967295, .span 0 4294967295 .all [], .volatile, .immediate, false, 4096, 255, true, false⟩,
  ⟨0x4500, 0x4500, 0x8, 0x8, 1, .u32, 4, .rw, 0, 0, 4294967295, .span 0 4294967295 .all [], .volatile, .immediate, false, 4096, 255, true, false⟩,
  ⟨0x4500, 0x4500, 0x9, 0x9, 1, .u32, 4, .rw, 0, 0, 4294967295, .span 0 4294967295 .all [], .volatile, .immediate, false, 4096, 255, true, false⟩]

/-- Objects of the area 0x4xxx (decode), part 2. -/
def objects4_2 : List Attr := [
  ⟨0x4500, 0x4500, 0xA, 0xA, 1, .u32, 4, .rw, 0, 0, 4294967295, .span 0 4294967295 .all [], .volatile, .immediate, false, 4096, 255, true, false⟩,
  ⟨0x4500, 0x4500, 0xB, 0xB, 1, .u32, 4, .rw, 0, 0, 4294967295, .span 0 4294967295 .all [], .volatile, .immediate, false, 4096, 255, true, false⟩,
  ⟨0x4500, 0x4500, 0xC, 0xC, 1, .u32, 4, .rw, 0, 0, 4294967295, .span 0 4294967295 .all [], .volatile, .immediate, false, 4096, 255, true, false⟩,
  ⟨0x4500, 0x4500, 0xD, 0xD, 1, .u32, 4, .rw, 0, 0, 4294967295, .span 0 4294967295 .all [], .volatile, .immediate, false, 4096, 255, true, false⟩,
  ⟨0x4500, 0x4500, 0xE, 0xE, 1, .u32, 4, .rw, 0, 0, 4294967295, .span 0 4294967295 .all [], .volatile, .immediate, false, 4096, 255, true, false⟩]

/-- Objects of the area 0x5xxx (composition), part 1. -/
def objects5_1 : List Attr := [
  ⟨0x5100, 0x5100, 0x0, 0x0, 1, .u32, 4, .rw, 32000000, 0, 33333333, .span 0 33333333 .all [], .persist, .immediate, true, 0, 255, false, false⟩,
  ⟨0x5110, 0x5110, 0x1, 0x1, 1, .u16, 2, .rw, 0, 0, 4096, .span 128 4096 (.step 2) [0], .volatile, .tick, false, 2048, 255, false, false⟩,
  ⟨0x5110, 0x5110, 0x2, 0x2, 1, .u16, 2, .rw, 0, 0, 2304, .span 96 2304 (.step 2) [0], .volatile, .tick, false, 2048, 255, false, false⟩,
  ⟨0x5110, 0x5110, 0x3, 0x3, 1, .u64, 8, .rw, 275012132864, 0, 4398046511103, .bits 4398046511103, .volatile, .tick, false, 2048, 255, false, false⟩,
  ⟨0x5110, 0x5110, 0x4, 0x4, 1, .bool, 1, .rw, 0, 0, 1, .span 0 1 .all [], .volatile, .tick, false, 2048, 255, false, false⟩,
  ⟨0x5110, 0x5110, 0x5, 0x5, 1, .u8, 1, .rw, 2, 2, 4, .span 2 4 .all [], .volatile, .tick, false, 2048, 255, false, false⟩,
  ⟨0x5110, 0x5110, 0x6, 0x9, 1, .u32, 4, .rw, 0, 0, 4294967295, .span 0 4294967295 .all [], .volatile, .tick, false, 2048, 255, false, false⟩,
  ⟨0x5120, 0x5120, 0x1, 0x1, 1, .u16, 2, .ro, 65535, 0, 65535, .span 0 65535 .all [], .volatile, .immediate, false, 2048, 255, false, false⟩,
  ⟨0x5120, 0x5120, 0x2, 0x2, 1, .enum8, 1, .ro, 0, 0, 2, .enum [0, 1, 2], .volatile, .immediate, false, 2048, 255, false, false⟩,
  ⟨0x5120, 0x5120, 0x3, 0x3, 1, .u32, 4, .rw, 0, 0, 4294967295, .span 0 4294967295 .all [], .volatile, .immediate, false, 2048, 255, true, false⟩,
  ⟨0x5120, 0x5120, 0x4, 0x4, 1, .u32, 4, .rw, 0, 0, 4294967295, .span 0 4294967295 .all [], .volatile, .immediate, false, 2048, 255, true, false⟩,
  ⟨0x5120, 0x5120, 0x5, 0x5, 1, .u32, 4, .rw, 0, 0, 4294967295, .span 0 4294967295 .all [], .volatile, .immediate, false, 2048, 255, true, false⟩,
  ⟨0x5120, 0x5120, 0x6, 0x6, 1, .u32, 4, .rw, 0, 0, 4294967295, .span 0 4294967295 .all [], .volatile, .immediate, false, 2048, 255, true, false⟩,
  ⟨0x5120, 0x5120, 0x7, 0x7, 1, .u32, 4, .ro, 0, 0, 4294967295, .span 0 4294967295 .all [], .volatile, .immediate, false, 2048, 255, false, false⟩,
  ⟨0x5120, 0x5120, 0x8, 0x8, 1, .u32, 4, .ro, 0, 0, 4294967295, .span 0 4294967295 .all [], .volatile, .immediate, false, 2048, 255, false, false⟩,
  ⟨0x5200, 0x5200, 0x1, 0x1, 1, .bool, 1, .rw, 0, 0, 1, .span 0 1 .all [], .volatile, .tick, false, 1024, 255, false, false⟩,
  ⟨0x5200, 0x5200, 0x2, 0x2, 1, .u16, 2, .rw, 65535, 0, 65535, .span 0 2047 .all [65535], .volatile, .tick, false, 1024, 255, false, false⟩,
  ⟨0x5200, 0x5200, 0x3, 0x3, 1, .u8, 1, .rw, 1, 1, 4, .span 1 4 .all [], .volatile, .tick, false, 1024, 255, false, false⟩,
  ⟨0x5200, 0x5200, 0x4, 0x4, 1, .u8, 1, .rw, 0, 0, 3, .span 0 3 .all [], .volatile, .tick, false, 1024, 255, false, false⟩,
  ⟨0x5200, 0x5200, 0x5, 0x24, 1, .u16, 2, .rw, 65535, 0, 65535, .span 0 2047 .all [65535], .volatile, .tick, false, 1024, 255, false, false⟩,
  ⟨0x5210, 0x5210, 0x0, 0x0, 1, .bool, 1, .wo, 0, 1, 1, .list [1], .volatile, .immediate, false, 1024, 255, false, false⟩,
  ⟨0x5220, 0x5220, 0x1, 0x1, 1, .u8, 1, .ro, 255, 0, 255, .span 0 255 .all [], .volatile, .immediate, false, 1024, 255, false, false⟩,
  ⟨0x5220, 0x5220, 0x2, 0x2, 1, .u32, 4, .ro, 0, 0, 4294967295, .span 0 4294967295 .all [], .volatile, .immediate, false, 1024, 255, false, false⟩,
  ⟨0x5220, 0x5220, 0x3, 0x3, 1, .time80, 10, .ro, 0, 0, 0, .free, .volatile, .immediate, false, 1024, 255, false, false⟩,
  ⟨0x5220, 0x5220, 0x4, 0x4, 1, .u32, 4, .rw, 0, 0, 4294967295, .span 0 4294967295 .all [], .volatile, .immediate, false, 1024, 255, true, false⟩,
  ⟨0x5220, 0x5220, 0x5, 0x5, 1, .u32, 4, .rw, 0, 0, 4294967295, .span 0 4294967295 .all [], .volatile, .immediate, false, 1024, 255, true, false⟩,
  ⟨0x5230, 0x5230, 0x1, 0x1, 1, .u16, 2, .rw, 65535, 0, 65535, .span 0 63 .all [65535], .volatile, .immediate, false, 1024, 255, false, false⟩,
  ⟨0x5230, 0x5230, 0x2, 0x2, 1, .u16, 2, .rw, 65535, 0, 65535, .span 0 16383 .all [65535], .volatile, .immediate, false, 1024, 255, false, false⟩,
  ⟨0x5230, 0x5230, 0x3, 0x3, 1, .oct, 512, .rw, 0, 0, 0, .free, .volatile, .immediate, false, 1024, 255, false, false⟩,
  ⟨0x5300, 0x533E, 0x1, 0x1, 1, .enum8, 1, .rw, 0, 0, 4, .enum [0, 1, 2, 3, 4], .volatile, .tick, false, 2048, 255, false, false⟩,
  ⟨0x5300, 0x533E, 0x2, 0x2, 1, .i16, 2, .rw, 0, (-4096), 4094, .span (-4096) 4094 (.step 2) [], .volatile, .tick, false, 2048, 255, false, false⟩,
  ⟨0x5300, 0x533E, 0x3, 0x3, 1, .i16, 2, .rw, 0, (-2304), 2302, .span (-2304) 2302 (.step 2) [], .volatile, .tick, false, 2048, 255, false, false⟩,
  ⟨0x5300, 0x533E, 0x4, 0x4, 1, .u16, 2, .rw, 0, 0, 4096, .span 2 4096 (.step 2) [0], .volatile, .tick, false, 2048, 255, false, false⟩,
  ⟨0x5300, 0x533E, 0x5, 0x5, 1, .u16, 2, .rw, 0, 0, 2304, .span 2 2304 (.step 2) [0], .volatile, .tick, false, 2048, 255, false, false⟩,
  ⟨0x5300, 0x533E, 0x6, 0x6, 1, .u64, 8, .rw, 0, 0, 18446744073709551615, .span 0 18446744073709551615 .all [], .volatile, .tick, false, 2048, 255, false, false⟩,
  ⟨0x5300, 0x533E, 0x7, 0x7, 1, .u16, 2, .rw, 0, 0, 65534, .span 0 65534 (.step 2) [], .volatile, .tick, false, 2048, 255, false, false⟩,
  ⟨0x5300, 0x533E, 0x8, 0x8, 1, .u16, 2, .rw, 0, 0, 65534, .span 0 65534 (.step 2) [], .volatile, .tick, false, 2048, 255, false, false⟩,
  ⟨0x5300, 0x533E, 0x9, 0x9, 1, .u16, 2, .rw, 1024, 0, 1024, .span 0 1024 .all [], .volatile, .tick, false, 2048, 255, false, false⟩,
  ⟨0x5300, 0x533E, 0xA, 0xA, 1, .enum8, 1, .rw, 0, 0, 2, .enum [0, 1, 2], .volatile, .tick, false, 2048, 255, false, false⟩,
  ⟨0x5300, 0x533E, 0xB, 0xB, 1, .u64, 8, .rw, 0, 0, 18446744073709551615, .span 0 18446744073709551615 .all [], .volatile, .tick, false, 2048, 255, false, false⟩]

/-- Objects of the area 0x5xxx (composition), part 2. -/
def objects5_2 : List Attr := [
  ⟨0x5300, 0x533E, 0xC, 0xC, 1, .u8, 1, .rw, 6, 1, 255, .span 1 255 .all [], .volatile, .tick, false, 2048, 255, false, false⟩,
  ⟨0x5340, 0x537E, 0x1, 0x1, 1, .enum8, 1, .ro, 0, 0, 3, .enum [0, 1, 2, 3], .volatile, .immediate, false, 2048, 255, false, false⟩,
  ⟨0x5340, 0x537E, 0x2, 0x2, 1, .u8, 1, .ro, 0, 0, 255, .span 0 255 .all [], .volatile, .immediate, false, 2048, 255, false, false⟩,
  ⟨0x5340, 0x537E, 0x3, 0x3, 1, .u32, 4, .rw, 0, 0, 4294967295, .span 0 4294967295 .all [], .volatile, .immediate, false, 2048, 255, true, false⟩,
  ⟨0x5340, 0x537E, 0x4, 0x4, 1, .u32, 4, .rw, 0, 0, 4294967295, .span 0 4294967295 .all [], .volatile, .immediate, false, 2048, 255, true, false⟩,
  ⟨0x5600, 0x5600, 0x1, 0x10, 1, .octv, 4294967295, .rwsw, 0, 0, 0, .free, .volatile, .immediate, false, 0, 3, false, false⟩,
  ⟨0x5601, 0x5601, 0x1, 0x10, 1, .u32, 4, .ro, 0, 0, 4294967295, .span 0 4294967295 .all [], .volatile, .immediate, false, 0, 255, false, false⟩,
  ⟨0x5610, 0x5610, 0x1, 0x1, 1, .bool, 1, .rws, 0, 0, 1, .span 0 1 .all [], .volatile, .tick, false, 2048, 3, false, false⟩,
  ⟨0x5610, 0x5610, 0x2, 0x2, 1, .u8, 1, .rws, 1, 1, 16, .span 1 16 .all [], .volatile, .tick, false, 2048, 3, false, false⟩,
  ⟨0x5610, 0x5610, 0x3, 0x3, 1, .enum8, 1, .rws, 0, 0, 3, .enum [0, 1, 2, 3], .volatile, .tick, false, 2048, 3, false, false⟩,
  ⟨0x5610, 0x5610, 0x4, 0x4, 1, .u16, 2, .rws, 0, 0, 65534, .span 0 65534 (.step 2) [], .volatile, .tick, false, 2048, 3, false, false⟩,
  ⟨0x5610, 0x5610, 0x5, 0x5, 1, .u16, 2, .rws, 0, 0, 65534, .span 0 65534 (.step 2) [], .volatile, .tick, false, 2048, 3, false, false⟩,
  ⟨0x5610, 0x5610, 0x6, 0x6, 1, .u64, 8, .rws, 275012132864, 0, 4398046511103, .bits 4398046511103, .volatile, .tick, false, 2048, 3, false, false⟩,
  ⟨0x5620, 0x5620, 0x0, 0x0, 1, .bool, 1, .rwsw, 0, 1, 1, .list [1], .volatile, .immediate, false, 2048, 3, false, false⟩,
  ⟨0x5700, 0x5700, 0x0, 0x0, 1, .octv, 4294967295, .wo, 0, 0, 0, .free, .volatile, .immediate, false, 0, 255, false, false⟩,
  ⟨0x5701, 0x5701, 0x0, 0x0, 1, .u16, 2, .wo, 0, 0, 63, .span 0 63 .all [], .volatile, .immediate, false, 0, 255, false, false⟩]

/-- Objects of the area 0x6xxx (encode), part 1. -/
def objects6_1 : List Attr := [
  ⟨0x6010, 0x6010, 0x1, 0x1, 1, .u32, 4, .ro, 0, 0, 4294967295, .span 0 4294967295 .all [], .volatile, .immediate, false, 0, 255, false, false⟩,
  ⟨0x6010, 0x6010, 0x2, 0x2, 1, .u32, 4, .ro, 0, 0, 4294967295, .span 0 4294967295 .all [], .volatile, .immediate, false, 0, 255, false, false⟩,
  ⟨0x6010, 0x6010, 0x3, 0x3, 1, .bits32, 4, .ro, 63, 0, 63, .bits 63, .volatile, .immediate, false, 0, 255, false, false⟩,
  ⟨0x6010, 0x6010, 0x4, 0x4, 1, .bits32, 4, .ro, 65535, 0, 65535, .bits 65535, .volatile, .immediate, false, 0, 255, false, false⟩,
  ⟨0x6050, 0x6050, 0x0, 0x0, 1, .octv, 4294967295, .wo, 0, 0, 0, .free, .volatile, .immediate, false, 0, 255, false, false⟩,
  ⟨0x6051, 0x6051, 0x0, 0x0, 1, .u16, 2, .wo, 0, 0, 63, .span 0 63 .all [], .volatile, .immediate, false, 0, 255, false, false⟩,
  ⟨0x6100, 0x6100, 0x0, 0x0, 1, .u32, 4, .rw, 32000000, 0, 33333333, .span 0 33333333 .all [], .persist, .immediate, true, 0, 255, false, false⟩,
  ⟨0x6101, 0x6101, 0x0, 0x0, 1, .u32, 4, .rw, 32000000, 0, 32000000, .span 0 32000000 .all [], .persist, .immediate, true, 0, 255, false, false⟩,
  ⟨0x6102, 0x6102, 0x0, 0x0, 1, .u32, 4, .rw, 0, 0, 192000000, .span 0 192000000 .all [], .persist, .immediate, true, 0, 255, false, false⟩,
  ⟨0x6103, 0x6103, 0x0, 0x0, 1, .u16, 2, .rw, 65535, 0, 65535, .span 0 1023 .all [65535], .volatile, .immediate, false, 0, 255, false, false⟩,
  ⟨0x6200, 0x6200, 0x1, 0x1, 1, .enum8, 1, .rw, 0, 0, 1, .enum [0, 1], .volatile, .immediate, false, 1024, 255, false, false⟩,
  ⟨0x6200, 0x6200, 0x2, 0x2, 1, .u16, 2, .rw, 65535, 0, 65535, .span 0 1023 .all [65535], .volatile, .immediate, false, 1024, 255, false, true⟩,
  ⟨0x6200, 0x6200, 0x3, 0x3, 1, .enum8, 1, .rw, 0, 0, 1, .enum [0, 1], .volatile, .immediate, false, 1024, 255, false, false⟩,
  ⟨0x6200, 0x6200, 0x4, 0x4, 1, .u16, 2, .rw, 128, 32, 512, .span 32 512 (.step 32) [], .volatile, .immediate, false, 1024, 255, false, false⟩,
  ⟨0x6200, 0x6200, 0x5, 0x5, 1, .u8, 1, .ro, 255, 0, 255, .span 0 255 .all [], .volatile, .immediate, false, 1024, 255, false, false⟩,
  ⟨0x6200, 0x6200, 0x6, 0x6, 1, .u32, 4, .ro, 0, 0, 4294967295, .span 0 4294967295 .all [], .volatile, .immediate, false, 1024, 255, false, false⟩,
  ⟨0x6200, 0x6200, 0x7, 0x7, 1, .u32, 4, .rw, 0, 0, 4294967295, .span 0 4294967295 .all [], .volatile, .immediate, false, 1024, 255, true, false⟩,
  ⟨0x6300, 0x6300, 0x1, 0x1, 1, .enum8, 1, .rw, 0, 0, 1, .enum [0, 1], .volatile, .immediate, false, 4096, 255, false, false⟩,
  ⟨0x6300, 0x6300, 0x2, 0x2, 1, .u16, 2, .rw, 65535, 0, 65535, .span 0 1023 .all [65535], .volatile, .immediate, false, 4096, 255, false, true⟩,
  ⟨0x6300, 0x6300, 0x3, 0x3, 1, .u16, 2, .rw, 65535, 0, 65535, .span 0 2047 .all [65535], .volatile, .immediate, false, 4096, 255, false, true⟩,
  ⟨0x6300, 0x6300, 0x4, 0x4, 1, .enum8, 1, .rw, 0, 0, 3, .enum [0, 1, 2, 3], .volatile, .immediate, false, 4096, 255, false, true⟩,
  ⟨0x6300, 0x6300, 0x5, 0x5, 1, .enum8, 1, .rw, 0, 0, 2, .enum [0, 1, 2], .volatile, .immediate, false, 4096, 255, false, true⟩,
  ⟨0x6300, 0x6300, 0x6, 0x6, 1, .u8, 1, .rw, 8, 8, 10, .list [8, 10], .volatile, .immediate, false, 4096, 255, false, true⟩,
  ⟨0x6300, 0x6300, 0x7, 0x7, 1, .u8, 1, .rw, 0, 0, 2, .span 0 2 .all [], .volatile, .immediate, false, 4096, 255, false, true⟩,
  ⟨0x6300, 0x6300, 0x8, 0x8, 1, .u8, 1, .rw, 17, 17, 51, .list [17, 18, 19, 33, 34, 35, 49, 50, 51], .volatile, .immediate, false, 4096, 255, false, true⟩,
  ⟨0x6300, 0x6300, 0x9, 0x9, 1, .enum8, 1, .rw, 0, 0, 1, .enum [0, 1], .volatile, .immediate, false, 4096, 255, false, true⟩,
  ⟨0x6300, 0x6300, 0xA, 0xA, 1, .enum8, 1, .rw, 0, 0, 1, .enum [0, 1], .volatile, .immediate, false, 4096, 255, false, true⟩,
  ⟨0x6300, 0x6300, 0xB, 0xB, 1, .u32, 4, .rw, 2000000, 32000, 100000000, .span 32000 100000000 .all [], .volatile, .immediate, false, 4096, 255, false, true⟩,
  ⟨0x6300, 0x6300, 0xC, 0xC, 1, .u32, 4, .rw, 1000000, 16000, 200000000, .span 16000 200000000 .all [], .volatile, .immediate, false, 4096, 255, false, true⟩,
  ⟨0x6300, 0x6300, 0xD, 0xD, 1, .u32, 4, .rw, 1500000, 16000, 100000000, .span 16000 100000000 .all [], .volatile, .immediate, false, 4096, 255, false, false⟩,
  ⟨0x6300, 0x6300, 0xE, 0xE, 1, .u8, 1, .rw, 255, 0, 255, .span 0 255 .all [], .volatile, .immediate, false, 4096, 255, false, false⟩,
  ⟨0x6300, 0x6300, 0xF, 0xF, 1, .u8, 1, .rw, 255, 0, 255, .span 0 255 .all [], .volatile, .immediate, false, 4096, 255, false, false⟩,
  ⟨0x6300, 0x6300, 0x10, 0x10, 1, .u16, 2, .rw, 0, 0, 63, .span 0 63 .all [], .volatile, .immediate, false, 4096, 255, false, true⟩,
  ⟨0x6300, 0x6300, 0x11, 0x11, 1, .oct, 64, .rw, 0, 0, 0, .free, .volatile, .immediate, false, 4096, 255, false, false⟩,
  ⟨0x6300, 0x6300, 0x12, 0x12, 1, .u8, 1, .rw, 4, 2, 8, .span 2 8 .all [], .volatile, .immediate, false, 4096, 255, false, true⟩,
  ⟨0x6300, 0x6300, 0x13, 0x13, 1, .enum8, 1, .rw, 0, 0, 1, .enum [0, 1], .volatile, .immediate, false, 4096, 255, false, false⟩,
  ⟨0x6300, 0x6300, 0x14, 0x14, 1, .u16, 2, .rw, 1000, 100, 10000, .span 100 10000 .all [], .volatile, .immediate, false, 4096, 255, false, false⟩,
  ⟨0x6300, 0x6300, 0x15, 0x15, 1, .u16, 2, .rw, 200, 100, 5000, .span 100 5000 .all [], .volatile, .immediate, false, 4096, 255, false, false⟩,
  ⟨0x6300, 0x6300, 0x16, 0x16, 1, .u32, 4, .rw, 0, 0, 600000, .span 1000 600000 .all [0], .volatile, .immediate, false, 4096, 255, false, false⟩,
  ⟨0x6300, 0x6300, 0x17, 0x17, 1, .u16, 2, .rw, 2000, 200, 8000, .span 200 8000 .all [], .volatile, .immediate, false, 4096, 255, false, false⟩]

/-- Objects of the area 0x6xxx (encode), part 2. -/
def objects6_2 : List Attr := [
  ⟨0x6300, 0x6300, 0x18, 0x18, 1, .u16, 2, .rw, 4096, 256, 32768, .span 256 32768 .pow2 [], .volatile, .immediate, false, 4096, 255, false, true⟩,
  ⟨0x6300, 0x6300, 0x19, 0x19, 1, .bool, 1, .wo, 0, 1, 1, .list [1], .volatile, .immediate, false, 4096, 255, false, false⟩,
  ⟨0x6400, 0x6400, 0x1, 0x1, 1, .u16, 2, .ro, 0, 0, 65535, .span 0 65535 .all [], .volatile, .immediate, false, 4096, 255, false, false⟩,
  ⟨0x6400, 0x6400, 0x2, 0x2, 1, .u16, 2, .ro, 0, 0, 65535, .span 0 65535 .all [], .volatile, .immediate, false, 4096, 255, false, false⟩,
  ⟨0x6400, 0x6400, 0x3, 0x3, 1, .u32, 4, .ro, 0, 0, 4294967295, .span 0 4294967295 .all [], .volatile, .immediate, false, 4096, 255, false, false⟩,
  ⟨0x6400, 0x6400, 0x4, 0x4, 1, .u32, 4, .ro, 0, 0, 4294967295, .span 0 4294967295 .all [], .volatile, .immediate, false, 4096, 255, false, false⟩,
  ⟨0x6400, 0x6400, 0x5, 0x5, 1, .u8, 1, .ro, 0, 0, 255, .span 0 255 .all [], .volatile, .immediate, false, 4096, 255, false, false⟩,
  ⟨0x6400, 0x6400, 0x6, 0x6, 1, .u8, 1, .ro, 0, 0, 255, .span 0 255 .all [], .volatile, .immediate, false, 4096, 255, false, false⟩,
  ⟨0x6400, 0x6400, 0x7, 0x7, 1, .u32, 4, .ro, 4294967295, 0, 4294967295, .span 0 4294967295 .all [], .volatile, .immediate, false, 4096, 255, false, false⟩,
  ⟨0x6400, 0x6400, 0x8, 0x8, 1, .u32, 4, .ro, 0, 0, 4294967295, .span 0 4294967295 .all [], .volatile, .immediate, false, 4096, 255, false, false⟩,
  ⟨0x6500, 0x6500, 0x1, 0x1, 1, .u32, 4, .rw, 0, 0, 4294967295, .span 0 4294967295 .all [], .volatile, .immediate, false, 4096, 255, true, false⟩,
  ⟨0x6500, 0x6500, 0x2, 0x2, 1, .u32, 4, .rw, 0, 0, 4294967295, .span 0 4294967295 .all [], .volatile, .immediate, false, 4096, 255, true, false⟩,
  ⟨0x6500, 0x6500, 0x3, 0x3, 1, .u32, 4, .rw, 0, 0, 4294967295, .span 0 4294967295 .all [], .volatile, .immediate, false, 4096, 255, true, false⟩,
  ⟨0x6500, 0x6500, 0x4, 0x4, 1, .u32, 4, .rw, 0, 0, 4294967295, .span 0 4294967295 .all [], .volatile, .immediate, false, 4096, 255, true, false⟩,
  ⟨0x6500, 0x6500, 0x5, 0x5, 1, .u32, 4, .rw, 0, 0, 4294967295, .span 0 4294967295 .all [], .volatile, .immediate, false, 4096, 255, true, false⟩,
  ⟨0x6500, 0x6500, 0x6, 0x6, 1, .u32, 4, .rw, 0, 0, 4294967295, .span 0 4294967295 .all [], .volatile, .immediate, false, 4096, 255, true, false⟩,
  ⟨0x6500, 0x6500, 0x7, 0x7, 1, .u32, 4, .rw, 0, 0, 4294967295, .span 0 4294967295 .all [], .volatile, .immediate, false, 4096, 255, true, false⟩,
  ⟨0x6500, 0x6500, 0x8, 0x8, 1, .u32, 4, .rw, 0, 0, 4294967295, .span 0 4294967295 .all [], .volatile, .immediate, false, 4096, 255, true, false⟩,
  ⟨0x6500, 0x6500, 0x9, 0x9, 1, .u32, 4, .rw, 0, 0, 4294967295, .span 0 4294967295 .all [], .volatile, .immediate, false, 4096, 255, true, false⟩,
  ⟨0x6500, 0x6500, 0xA, 0xA, 1, .u32, 4, .rw, 0, 0, 4294967295, .span 0 4294967295 .all [], .volatile, .immediate, false, 4096, 255, true, false⟩,
  ⟨0x6500, 0x6500, 0xB, 0xB, 1, .u32, 4, .rw, 0, 0, 4294967295, .span 0 4294967295 .all [], .volatile, .immediate, false, 4096, 255, true, false⟩]

/-- Objects of the area 0x7xxx (adaptation, queues, shaping, ports), part 1. -/
def objects7_1 : List Attr := [
  ⟨0x7400, 0x7400, 0x1, 0x1, 1, .enum8, 1, .ro, 0, 0, 1, .enum [0, 1], .volatile, .immediate, false, 65536, 255, false, false⟩,
  ⟨0x7400, 0x7400, 0x2, 0x2, 1, .bool, 1, .ro, 0, 0, 1, .span 0 1 .all [], .volatile, .immediate, false, 65536, 255, false, false⟩,
  ⟨0x7400, 0x7400, 0x3, 0x3, 1, .u32, 4, .ro, 0, 0, 4294967295, .span 0 4294967295 .all [], .volatile, .immediate, false, 65536, 255, false, false⟩,
  ⟨0x7400, 0x7400, 0x4, 0x4, 1, .u32, 4, .ro, 0, 0, 4294967295, .span 0 4294967295 .all [], .volatile, .immediate, false, 65536, 255, false, false⟩,
  ⟨0x7400, 0x7400, 0x5, 0x5, 1, .u32, 4, .ro, 0, 0, 4294967295, .span 0 4294967295 .all [], .volatile, .immediate, false, 65536, 255, false, false⟩,
  ⟨0x7400, 0x7400, 0x6, 0x6, 1, .u32, 4, .ro, 0, 0, 4294967295, .span 0 4294967295 .all [], .volatile, .immediate, false, 65536, 255, false, false⟩,
  ⟨0x7400, 0x7400, 0x7, 0x7, 1, .u32, 4, .rw, 0, 0, 65536, .span 0 65536 .all [], .volatile, .immediate, false, 65536, 255, false, false⟩,
  ⟨0x7400, 0x7400, 0x8, 0x8, 1, .bits32, 4, .rw, 0, 0, 3, .bits 3, .volatile, .immediate, false, 65536, 255, false, false⟩,
  ⟨0x7400, 0x7400, 0x9, 0x9, 1, .u8, 1, .rw, 0, 0, 255, .span 0 255 .all [], .volatile, .immediate, false, 65536, 255, true, false⟩,
  ⟨0x7400, 0x7400, 0xA, 0xA, 1, .bool, 1, .wo, 0, 1, 1, .list [1], .volatile, .immediate, false, 65536, 255, false, false⟩,
  ⟨0x7010, 0x7010, 0x1, 0x1, 1, .u32, 4, .ro, 0, 0, 32768, .span 0 32768 .all [], .volatile, .immediate, false, 0, 255, false, false⟩,
  ⟨0x7010, 0x7010, 0x2, 0x2, 1, .u16, 2, .ro, 0, 0, 1000, .span 0 1000 .all [], .volatile, .immediate, false, 0, 255, false, false⟩,
  ⟨0x7020, 0x7020, 0x0, 0x0, 1, .octv, 4294967295, .wo, 0, 0, 0, .free, .volatile, .immediate, false, 0, 255, false, false⟩,
  ⟨0x7021, 0x7021, 0x0, 0x0, 1, .u16, 2, .wo, 0, 0, 63, .span 0 63 .all [], .volatile, .immediate, false, 0, 255, false, false⟩,
  ⟨0x7100, 0x7100, 0x1, 0x1, 1, .u8, 1, .rw, 0, 0, 14, .span 0 14 .all [], .volatile, .immediate, false, 131072, 255, false, false⟩,
  ⟨0x7100, 0x7100, 0x2, 0x2, 1, .u8, 1, .rw, 0, 0, 14, .span 0 14 .all [], .volatile, .immediate, false, 131072, 255, false, false⟩,
  ⟨0x7100, 0x7100, 0x3, 0x3, 1, .u8, 1, .rw, 0, 0, 14, .span 0 14 .all [], .volatile, .immediate, false, 131072, 255, false, false⟩,
  ⟨0x7100, 0x7100, 0x4, 0x4, 1, .u8, 1, .rw, 0, 0, 14, .span 0 14 .all [], .volatile, .immediate, false, 131072, 255, false, false⟩,
  ⟨0x7100, 0x7100, 0x5, 0x5, 1, .u8, 1, .rw, 0, 0, 14, .span 0 14 .all [], .volatile, .immediate, false, 131072, 255, false, false⟩,
  ⟨0x7100, 0x7100, 0x6, 0x6, 1, .u32, 4, .rw, 1000000, 32000, 100000000, .span 32000 100000000 .all [], .volatile, .immediate, false, 131072, 255, false, false⟩,
  ⟨0x7100, 0x7100, 0x7, 0x7, 1, .u32, 4, .rw, 32000, 32000, 100000000, .span 32000 100000000 .all [], .volatile, .immediate, false, 131072, 255, false, false⟩,
  ⟨0x7100, 0x7100, 0x8, 0x8, 1, .u32, 4, .rw, 2500000, 32000, 100000000, .span 32000 100000000 .all [], .volatile, .immediate, false, 131072, 255, false, false⟩,
  ⟨0x7100, 0x7100, 0x9, 0x9, 1, .u32, 4, .ro, 0, 0, 4294967295, .span 0 4294967295 .all [], .volatile, .immediate, false, 131072, 255, false, false⟩,
  ⟨0x7200, 0x7203, 0x1, 0x1, 1, .enum8, 1, .rw, 0, 0, 2, .enum [0, 1, 2], .volatile, .immediate, false, 131072, 255, false, false⟩,
  ⟨0x7200, 0x7203, 0x2, 0x2, 1, .u8, 1, .rw, 0, 0, 3, .span 0 3 .all [], .volatile, .immediate, false, 131072, 255, false, true⟩,
  ⟨0x7200, 0x7203, 0x3, 0x3, 1, .enum8, 1, .rw, 0, 0, 3, .enum [0, 1, 2, 3], .volatile, .immediate, false, 131072, 255, false, true⟩,
  ⟨0x7200, 0x7203, 0x4, 0x4, 1, .u16, 2, .rw, 0, 0, 63, .span 0 63 .all [], .volatile, .immediate, false, 131072, 255, false, true⟩,
  ⟨0x7200, 0x7203, 0x5, 0x5, 1, .oct, 64, .rw, 0, 0, 0, .free, .volatile, .immediate, false, 131072, 255, false, true⟩,
  ⟨0x7200, 0x7203, 0x6, 0x6, 1, .oct, 64, .rw, 0, 0, 0, .free, .volatile, .immediate, false, 131072, 255, false, false⟩,
  ⟨0x7200, 0x7203, 0x7, 0x7, 1, .u16, 2, .rw, 1000, 1, 1000, .span 1 1000 .all [], .volatile, .immediate, false, 131072, 255, false, false⟩,
  ⟨0x7200, 0x7203, 0x8, 0x8, 1, .u8, 1, .rw, 0, 0, 7, .span 0 7 .all [], .volatile, .immediate, false, 131072, 255, false, false⟩,
  ⟨0x7200, 0x7203, 0x9, 0x9, 1, .u8, 1, .ro, 255, 0, 255, .span 0 255 .all [], .volatile, .immediate, false, 131072, 255, false, false⟩,
  ⟨0x7200, 0x7203, 0xA, 0xA, 1, .u8, 1, .ro, 255, 0, 255, .span 0 255 .all [], .volatile, .immediate, false, 131072, 255, false, false⟩,
  ⟨0x7200, 0x7203, 0xB, 0xB, 1, .u32, 4, .rw, 0, 0, 4294967295, .span 0 4294967295 .all [], .volatile, .immediate, false, 131072, 255, true, false⟩,
  ⟨0x7200, 0x7203, 0xC, 0xC, 1, .u32, 4, .rw, 0, 0, 4294967295, .span 0 4294967295 .all [], .volatile, .immediate, false, 131072, 255, true, false⟩,
  ⟨0x7200, 0x7203, 0xD, 0xD, 1, .u32, 4, .rw, 0, 0, 4294967295, .span 0 4294967295 .all [], .volatile, .immediate, false, 131072, 255, true, false⟩,
  ⟨0x7200, 0x7203, 0xE, 0xE, 1, .u32, 4, .rw, 0, 0, 4294967295, .span 0 4294967295 .all [], .volatile, .immediate, false, 131072, 255, true, false⟩,
  ⟨0x7200, 0x7203, 0xF, 0xF, 1, .u32, 4, .rw, 0, 0, 4294967295, .span 0 4294967295 .all [], .volatile, .immediate, false, 131072, 255, true, false⟩,
  ⟨0x7300, 0x7300, 0x1, 0x1, 1, .bool, 1, .rw, 0, 0, 1, .span 0 1 .all [], .volatile, .immediate, false, 131072, 255, false, false⟩,
  ⟨0x7300, 0x7300, 0x2, 0x2, 1, .u32, 4, .rw, 2000, 8, 200000000, .span 8 200000000 .all [], .volatile, .immediate, false, 131072, 255, false, false⟩]

/-- Objects of the area 0x7xxx (adaptation, queues, shaping, ports), part 2. -/
def objects7_2 : List Attr := [
  ⟨0x7300, 0x7300, 0x3, 0x3, 1, .u32, 4, .rw, 62500, 3000, 16777216, .span 3000 16777216 .all [], .volatile, .immediate, false, 131072, 255, false, false⟩,
  ⟨0x7300, 0x7300, 0x4, 0x4, 1, .u32, 4, .rw, 4000, 8, 200000000, .span 8 200000000 .all [], .volatile, .immediate, false, 131072, 255, false, false⟩,
  ⟨0x7300, 0x7300, 0x5, 0x5, 1, .u32, 4, .rw, 3000, 3000, 16777216, .span 3000 16777216 .all [], .volatile, .immediate, false, 131072, 255, false, false⟩,
  ⟨0x7300, 0x7300, 0x6, 0x6, 1, .u8, 1, .rw, 24, 0, 255, .span 0 255 .all [], .volatile, .immediate, false, 131072, 255, false, false⟩,
  ⟨0x7300, 0x7300, 0x7, 0x7, 1, .enum8, 1, .rw, 0, 0, 1, .enum [0, 1], .volatile, .immediate, false, 131072, 255, false, false⟩,
  ⟨0x7300, 0x7300, 0x8, 0x8, 1, .u8, 1, .rw, 255, 0, 255, .span 0 63 .all [255], .volatile, .immediate, false, 131072, 255, false, false⟩,
  ⟨0x7300, 0x7300, 0x9, 0x9, 1, .u8, 1, .rw, 16, 1, 255, .span 1 255 .all [], .volatile, .immediate, false, 131072, 255, false, false⟩,
  ⟨0x7300, 0x7300, 0xA, 0xA, 1, .u16, 2, .rw, 200, 0, 1000, .span 10 1000 .all [0], .volatile, .immediate, false, 131072, 255, false, false⟩,
  ⟨0x7300, 0x7300, 0xB, 0xB, 1, .u32, 4, .ro, 0, 0, 4294967295, .span 0 4294967295 .all [], .volatile, .immediate, false, 131072, 255, false, false⟩,
  ⟨0x7300, 0x7300, 0xC, 0xC, 1, .u32, 4, .ro, 0, 0, 4294967295, .span 0 4294967295 .all [], .volatile, .immediate, false, 131072, 255, false, false⟩,
  ⟨0x7300, 0x7300, 0xD, 0xD, 1, .u32, 4, .rw, 0, 0, 4294967295, .span 0 4294967295 .all [], .volatile, .immediate, false, 131072, 255, true, false⟩,
  ⟨0x7300, 0x7300, 0xE, 0xE, 1, .u32, 4, .rw, 0, 0, 4294967295, .span 0 4294967295 .all [], .volatile, .immediate, false, 131072, 255, true, false⟩,
  ⟨0x7500, 0x7500, 0x1, 0x1, 1, .u8, 1, .rw, 48, 0, 63, .span 0 63 .all [], .persist, .immediate, false, 0, 255, false, false⟩,
  ⟨0x7501, 0x7501, 0x1, 0x1, 1, .u8, 1, .rw, 52, 0, 63, .span 0 63 .all [], .persist, .immediate, false, 0, 255, false, false⟩,
  ⟨0x7502, 0x7502, 0x1, 0x1, 1, .u8, 1, .rw, 16, 0, 63, .span 0 63 .all [], .persist, .immediate, false, 0, 255, false, false⟩,
  ⟨0x7503, 0x7503, 0x1, 0x1, 1, .u8, 1, .rw, 40, 0, 63, .span 0 63 .all [], .persist, .immediate, false, 0, 255, false, false⟩,
  ⟨0x7504, 0x7504, 0x1, 0x1, 1, .u8, 1, .rw, 36, 0, 63, .span 0 63 .all [], .persist, .immediate, false, 0, 255, false, false⟩,
  ⟨0x7505, 0x7505, 0x1, 0x1, 1, .u8, 1, .rw, 36, 0, 63, .span 0 63 .all [], .persist, .immediate, false, 0, 255, false, false⟩,
  ⟨0x7506, 0x7506, 0x1, 0x1, 1, .u8, 1, .rw, 8, 0, 63, .span 0 63 .all [], .persist, .immediate, false, 0, 255, false, false⟩,
  ⟨0x7500, 0x7500, 0x2, 0x2, 1, .u32, 4, .rw, 10000, 0, 1000000, .span 50 1000000 .all [0], .persist, .immediate, false, 0, 255, false, false⟩,
  ⟨0x7501, 0x7501, 0x2, 0x2, 1, .u32, 4, .rw, 5000, 0, 1000000, .span 50 1000000 .all [0], .persist, .immediate, false, 0, 255, false, false⟩,
  ⟨0x7502, 0x7502, 0x2, 0x2, 1, .u32, 4, .rw, 4000, 0, 1000000, .span 50 1000000 .all [0], .persist, .immediate, false, 0, 255, false, false⟩,
  ⟨0x7503, 0x7503, 0x2, 0x2, 1, .u32, 4, .rw, 8000, 0, 1000000, .span 50 1000000 .all [0], .persist, .immediate, false, 0, 255, false, false⟩,
  ⟨0x7504, 0x7504, 0x2, 0x2, 1, .u32, 4, .rw, 8000, 0, 1000000, .span 50 1000000 .all [0], .persist, .immediate, false, 0, 255, false, false⟩,
  ⟨0x7505, 0x7505, 0x2, 0x2, 1, .u32, 4, .rw, 8000, 0, 1000000, .span 50 1000000 .all [0], .persist, .immediate, false, 0, 255, false, false⟩,
  ⟨0x7506, 0x7506, 0x2, 0x2, 1, .u32, 4, .rw, 0, 0, 1000000, .span 50 1000000 .all [0], .persist, .immediate, false, 0, 255, false, false⟩,
  ⟨0x7500, 0x7500, 0x3, 0x3, 1, .u32, 4, .rw, 1500000, 10000, 150000000, .span 10000 150000000 .all [], .persist, .immediate, false, 0, 255, false, false⟩,
  ⟨0x7501, 0x7501, 0x3, 0x3, 1, .u32, 4, .rw, 3000000, 10000, 150000000, .span 10000 150000000 .all [], .persist, .immediate, false, 0, 255, false, false⟩,
  ⟨0x7502, 0x7502, 0x3, 0x3, 1, .u32, 4, .rw, 1500000, 10000, 150000000, .span 10000 150000000 .all [], .persist, .immediate, false, 0, 255, false, false⟩,
  ⟨0x7503, 0x7503, 0x3, 0x3, 1, .u32, 4, .rw, 750000, 10000, 150000000, .span 10000 150000000 .all [], .persist, .immediate, false, 0, 255, false, false⟩,
  ⟨0x7504, 0x7504, 0x3, 0x3, 1, .u32, 4, .rw, 750000, 10000, 150000000, .span 10000 150000000 .all [], .persist, .immediate, false, 0, 255, false, false⟩,
  ⟨0x7505, 0x7505, 0x3, 0x3, 1, .u32, 4, .rw, 750000, 10000, 150000000, .span 10000 150000000 .all [], .persist, .immediate, false, 0, 255, false, false⟩,
  ⟨0x7506, 0x7506, 0x3, 0x3, 1, .u32, 4, .rw, 15000000, 10000, 150000000, .span 10000 150000000 .all [], .persist, .immediate, false, 0, 255, false, false⟩,
  ⟨0x7500, 0x7500, 0x4, 0x4, 1, .bits32, 4, .rw, 65535, 0, 65535, .bits 65535, .persist, .immediate, false, 0, 255, false, false⟩,
  ⟨0x7501, 0x7501, 0x4, 0x4, 1, .bits32, 4, .rw, 65535, 0, 65535, .bits 65535, .persist, .immediate, false, 0, 255, false, false⟩,
  ⟨0x7502, 0x7502, 0x4, 0x4, 1, .bits32, 4, .rw, 65535, 0, 65535, .bits 65535, .persist, .immediate, false, 0, 255, false, false⟩,
  ⟨0x7503, 0x7503, 0x4, 0x4, 1, .bits32, 4, .rw, 65535, 0, 65535, .bits 65535, .persist, .immediate, false, 0, 255, false, false⟩,
  ⟨0x7504, 0x7504, 0x4, 0x4, 1, .bits32, 4, .rw, 65535, 0, 65535, .bits 65535, .persist, .immediate, false, 0, 255, false, false⟩,
  ⟨0x7505, 0x7505, 0x4, 0x4, 1, .bits32, 4, .rw, 65535, 0, 65535, .bits 65535, .persist, .immediate, false, 0, 255, false, false⟩,
  ⟨0x7506, 0x7506, 0x4, 0x4, 1, .bits32, 4, .rw, 65535, 0, 65535, .bits 65535, .persist, .immediate, false, 0, 255, false, false⟩]

/-- Objects of the area 0x7xxx (adaptation, queues, shaping, ports), part 3. -/
def objects7_3 : List Attr := [
  ⟨0x7500, 0x7500, 0x5, 0x5, 1, .u16, 2, .rw, 4096, 0, 8192, .span 0 8192 (.step 64) [], .persist, .immediate, false, 0, 255, false, false⟩,
  ⟨0x7501, 0x7501, 0x5, 0x5, 1, .u16, 2, .rw, 8192, 0, 8192, .span 0 8192 (.step 64) [], .persist, .immediate, false, 0, 255, false, false⟩,
  ⟨0x7502, 0x7502, 0x5, 0x5, 1, .u16, 2, .rw, 8192, 0, 8192, .span 0 8192 (.step 64) [], .persist, .immediate, false, 0, 255, false, false⟩,
  ⟨0x7503, 0x7503, 0x5, 0x5, 1, .u16, 2, .rw, 2048, 0, 8192, .span 0 8192 (.step 64) [], .persist, .immediate, false, 0, 255, false, false⟩,
  ⟨0x7504, 0x7504, 0x5, 0x5, 1, .u16, 2, .rw, 2048, 0, 8192, .span 0 8192 (.step 64) [], .persist, .immediate, false, 0, 255, false, false⟩,
  ⟨0x7505, 0x7505, 0x5, 0x5, 1, .u16, 2, .rw, 2048, 0, 8192, .span 0 8192 (.step 64) [], .persist, .immediate, false, 0, 255, false, false⟩,
  ⟨0x7506, 0x7506, 0x5, 0x5, 1, .u16, 2, .rw, 1024, 0, 8192, .span 0 8192 (.step 64) [], .persist, .immediate, false, 0, 255, false, false⟩,
  ⟨0x7510, 0x7510, 0x1, 0x1, 1, .u32, 4, .rw, 45056, 0, 65536, .span 0 65536 .all [], .persist, .immediate, false, 0, 255, false, false⟩,
  ⟨0x7510, 0x7510, 0x2, 0x2, 1, .u32, 4, .rw, 8192, 0, 65536, .span 0 65536 .all [], .persist, .immediate, false, 0, 255, false, false⟩,
  ⟨0x7510, 0x7510, 0x3, 0x3, 1, .u32, 4, .rw, 8192, 0, 65536, .span 0 65536 .all [], .persist, .immediate, false, 0, 255, false, false⟩,
  ⟨0x7510, 0x7510, 0x4, 0x4, 1, .u32, 4, .rw, 4096, 0, 65536, .span 0 65536 .all [], .persist, .immediate, false, 0, 255, false, false⟩,
  ⟨0x7520, 0x7520, 0x1, 0x1, 1, .u32, 4, .ro, 0, 0, 65536, .span 0 65536 .all [], .volatile, .immediate, false, 0, 255, false, false⟩,
  ⟨0x7520, 0x7520, 0x2, 0x5, 1, .u32, 4, .ro, 0, 0, 65536, .span 0 65536 .all [], .volatile, .immediate, false, 0, 255, false, false⟩,
  ⟨0x7520, 0x7520, 0x6, 0x6, 1, .u32, 4, .ro, 0, 0, 65536, .span 0 65536 .all [], .volatile, .immediate, false, 0, 255, false, false⟩,
  ⟨0x7520, 0x7520, 0x7, 0x7, 1, .u32, 4, .ro, 0, 0, 65536, .span 0 65536 .all [], .volatile, .immediate, false, 0, 255, false, false⟩,
  ⟨0x7520, 0x7520, 0x8, 0x8, 1, .u32, 4, .ro, 0, 0, 65536, .span 0 65536 .all [], .volatile, .immediate, false, 0, 255, false, false⟩,
  ⟨0x7530, 0x7530, 0x1, 0x1, 1, .u32, 4, .rw, 0, 0, 4294967295, .span 0 4294967295 .all [], .volatile, .immediate, false, 0, 255, false, false⟩,
  ⟨0x7530, 0x7530, 0x2, 0x2, 1, .bits32, 4, .rw, 0, 0, 3, .bits 3, .volatile, .immediate, false, 0, 255, false, false⟩,
  ⟨0x7530, 0x7530, 0x3, 0x3, 1, .u8, 1, .rw, 0, 0, 255, .span 0 255 .all [], .volatile, .immediate, false, 0, 255, true, false⟩,
  ⟨0x7540, 0x7546, 0x1, 0x10, 1, .u32, 4, .ro, 0, 0, 4294967295, .span 0 4294967295 .all [], .volatile, .immediate, false, 0, 255, false, false⟩,
  ⟨0x7580, 0x7580, 0x1, 0x80, 1, .u16, 2, .ro, 0, 0, 1000, .span 0 1000 .all [], .volatile, .immediate, false, 0, 255, false, false⟩,
  ⟨0x7590, 0x7590, 0x1, 0x4, 1, .bits32, 4, .rw, 4294967295, 0, 4294967295, .bits 4294967295, .persist, .immediate, false, 0, 255, false, false⟩,
  ⟨0x75A0, 0x75A0, 0x1, 0x7, 1, .u32, 4, .rw, 0, 0, 4294967295, .span 0 4294967295 .all [], .volatile, .immediate, false, 0, 255, true, false⟩,
  ⟨0x7610, 0x7610, 0x1, 0x1, 1, .bool, 1, .rwl, 0, 0, 1, .span 0 1 .all [], .persist, .immediate, true, 0, 4, false, false⟩,
  ⟨0x7610, 0x7610, 0x2, 0x2, 1, .u32, 4, .ro, 0, 0, 4294967295, .span 0 4294967295 .all [], .volatile, .immediate, false, 0, 255, false, false⟩,
  ⟨0x7700, 0x7701, 0x1, 0x1, 1, .u32, 4, .rw, 200000000, 1000, 200000000, .span 1000 200000000 .all [], .persist, .immediate, true, 0, 255, false, false⟩,
  ⟨0x7700, 0x7701, 0x2, 0x2, 1, .u32, 4, .rw, 262144, 3000, 16777216, .span 3000 16777216 .all [], .persist, .immediate, true, 0, 255, false, false⟩,
  ⟨0x7700, 0x7701, 0x3, 0x3, 1, .u8, 1, .rw, 24, 0, 255, .span 0 255 .all [], .persist, .immediate, true, 0, 255, false, false⟩,
  ⟨0x7710, 0x774F, 0x1, 0x1, 1, .enum8, 1, .rw, 0, 0, 1, .enum [0, 1], .persist, .immediate, true, 0, 255, false, false⟩,
  ⟨0x7710, 0x774F, 0x2, 0x2, 1, .u32, 4, .rw, 200000000, 8, 200000000, .span 8 200000000 .all [], .persist, .immediate, true, 0, 255, false, false⟩,
  ⟨0x7710, 0x774F, 0x3, 0x3, 1, .u32, 4, .rw, 262144, 3000, 16777216, .span 3000 16777216 .all [], .persist, .immediate, true, 0, 255, false, false⟩,
  ⟨0x7710, 0x774F, 0x4, 0x4, 1, .u8, 1, .rw, 16, 1, 255, .span 1 255 .all [], .persist, .immediate, true, 0, 255, false, false⟩,
  ⟨0x7710, 0x774F, 0x5, 0x5, 1, .u8, 1, .rw, 0, 0, 1, .span 0 1 .all [], .persist, .immediate, true, 0, 255, false, false⟩]

/-- Objects of the area 0x8xxx (cipher and security), part 1. -/
def objects8_1 : List Attr := [
  ⟨0x8010, 0x8010, 0x1, 0x1, 1, .u8, 1, .ro, 8, 0, 8, .span 0 8 .all [], .volatile, .immediate, false, 0, 255, false, false⟩,
  ⟨0x8010, 0x8010, 0x2, 0x2, 1, .bits32, 4, .ro, 0, 0, 255, .bits 255, .volatile, .immediate, false, 0, 255, false, false⟩,
  ⟨0x8010, 0x8010, 0x3, 0x3, 1, .u32, 4, .ro, 0, 0, 4294967295, .span 0 4294967295 .all [], .volatile, .immediate, false, 0, 255, false, false⟩,
  ⟨0x8010, 0x8010, 0x4, 0x4, 1, .u32, 4, .rw, 0, 0, 4294967295, .span 0 4294967295 .all [], .volatile, .immediate, false, 0, 255, true, false⟩,
  ⟨0x8020, 0x8020, 0x1, 0x1, 1, .enum8, 1, .rwl, 0, 0, 1, .enum [0, 1], .persist, .immediate, true, 0, 1, false, false⟩,
  ⟨0x8020, 0x8020, 0x2, 0x2, 1, .enum8, 1, .rwl, 0, 0, 1, .enum [0, 1], .persist, .immediate, true, 0, 1, false, false⟩,
  ⟨0x8020, 0x8020, 0x3, 0x3, 1, .enum8, 1, .rwl, 1, 0, 1, .enum [0, 1], .persist, .immediate, true, 0, 1, false, false⟩,
  ⟨0x8020, 0x8020, 0x4, 0x4, 1, .enum8, 1, .rwl, 0, 0, 0, .enum [0], .persist, .immediate, true, 0, 1, false, false⟩,
  ⟨0x8030, 0x8030, 0x0, 0x0, 1, .bits32, 4, .rwl, 0, 0, 3, .bits 3, .persist, .immediate, true, 0, 1, false, false⟩,
  ⟨0x8100, 0x8100, 0x1, 0x1, 1, .enum8, 1, .rw, 0, 0, 8, .enum [0, 1, 2, 3, 4, 5, 6, 7, 8], .volatile, .immediate, false, 65536, 255, false, false⟩,
  ⟨0x8100, 0x8100, 0x2, 0x2, 1, .octv, 64, .wo, 0, 0, 0, .free, .volatile, .immediate, false, 65536, 255, false, false⟩,
  ⟨0x8100, 0x8100, 0x3, 0x3, 1, .octv, 72, .wo, 0, 0, 0, .free, .volatile, .immediate, false, 65536, 255, false, false⟩,
  ⟨0x8100, 0x8100, 0x4, 0x4, 1, .u32, 4, .rw, 4294967295, 0, 4294967295, .span 0 65535 .all [4294967295], .volatile, .immediate, false, 65536, 255, false, false⟩,
  ⟨0x8100, 0x8100, 0x5, 0x5, 1, .bool, 1, .wo, 0, 1, 1, .list [1], .volatile, .immediate, false, 65536, 255, false, false⟩,
  ⟨0x8100, 0x8100, 0x6, 0x6, 1, .bool, 1, .rw, 0, 0, 1, .span 0 1 .all [], .volatile, .immediate, false, 65536, 255, false, false⟩,
  ⟨0x8100, 0x8100, 0x7, 0x7, 1, .u16, 2, .ro, 0, 0, 65535, .span 0 65535 .all [], .volatile, .immediate, false, 65536, 255, false, false⟩,
  ⟨0x8100, 0x8100, 0x8, 0x8, 1, .enum8, 1, .ro, 0, 0, 2, .enum [0, 1, 2], .volatile, .immediate, false, 65536, 255, false, false⟩,
  ⟨0x8100, 0x8100, 0x9, 0x9, 1, .u16, 2, .ro, 0, 0, 65535, .span 0 65535 .all [], .volatile, .immediate, false, 65536, 255, false, false⟩,
  ⟨0x8200, 0x8200, 0x1, 0x1, 1, .u32, 4, .rw, 0, 0, 4294967295, .span 0 4294967295 .all [], .volatile, .immediate, false, 131072, 255, false, true⟩,
  ⟨0x8200, 0x8200, 0x2, 0x2, 1, .u32, 4, .rw, 0, 0, 4294967295, .span 0 4294967295 .all [], .volatile, .immediate, false, 131072, 255, false, true⟩,
  ⟨0x8200, 0x8200, 0x3, 0x3, 1, .u16, 2, .rw, 128, 64, 1024, .span 64 1024 (.step 64) [], .volatile, .immediate, false, 131072, 255, false, true⟩,
  ⟨0x8200, 0x8200, 0x4, 0x4, 1, .u32, 4, .rw, 4294967295, 0, 4294967295, .span 0 65535 .all [4294967295], .volatile, .immediate, false, 131072, 255, false, false⟩,
  ⟨0x8200, 0x8200, 0x5, 0x5, 1, .bits32, 4, .ro, 0, 0, 15, .bits 15, .volatile, .immediate, false, 131072, 255, false, false⟩,
  ⟨0x8200, 0x8200, 0x6, 0x6, 1, .u32, 4, .rw, 0, 0, 4294967295, .span 0 4294967295 .all [], .volatile, .immediate, false, 131072, 255, true, false⟩,
  ⟨0x8200, 0x8200, 0x7, 0x7, 1, .u32, 4, .rw, 0, 0, 4294967295, .span 0 4294967295 .all [], .volatile, .immediate, false, 131072, 255, true, false⟩,
  ⟨0x8200, 0x8200, 0x8, 0x8, 1, .u32, 4, .rw, 0, 0, 4294967295, .span 0 4294967295 .all [], .volatile, .immediate, false, 131072, 255, true, false⟩,
  ⟨0x8200, 0x8200, 0x9, 0x9, 1, .u32, 4, .rw, 0, 0, 4294967295, .span 0 4294967295 .all [], .volatile, .immediate, false, 131072, 255, true, false⟩,
  ⟨0x8200, 0x8200, 0xA, 0xA, 1, .u32, 4, .rw, 0, 0, 4294967295, .span 0 4294967295 .all [], .volatile, .immediate, false, 131072, 255, true, false⟩,
  ⟨0x8300, 0x8300, 0x1, 0x1, 1, .enum8, 1, .ro, 0, 0, 3, .enum [0, 1, 2, 3], .fused, .immediate, false, 0, 255, false, false⟩,
  ⟨0x8300, 0x8300, 0x2, 0x2, 1, .bits32, 4, .ro, 0, 0, 15, .bits 15, .volatile, .immediate, false, 0, 255, false, false⟩,
  ⟨0x8300, 0x8300, 0x3, 0x3, 1, .u32, 4, .ro, 0, 0, 4294967295, .span 0 4294967295 .all [], .fused, .immediate, false, 0, 255, false, false⟩,
  ⟨0x8300, 0x8300, 0x4, 0x4, 1, .u8, 1, .ro, 0, 0, 255, .span 0 255 .all [], .fused, .immediate, false, 0, 255, false, false⟩,
  ⟨0x8300, 0x8300, 0x5, 0x5, 1, .bits32, 4, .rws, 0, 0, 65408, .bits 65408, .fused, .immediate, false, 0, 0, false, false⟩,
  ⟨0x8310, 0x8310, 0x0, 0x0, 1, .bits32, 4, .rw, 0, 0, 63, .bits 63, .volatile, .immediate, false, 0, 255, false, false⟩,
  ⟨0x8320, 0x8320, 0x0, 0x0, 1, .enum8, 1, .wo, 0, 1, 3, .enum [1, 2, 3], .fused, .immediate, false, 0, 0, false, false⟩,
  ⟨0x8321, 0x8321, 0x0, 0x0, 1, .u8, 1, .wo, 0, 0, 2, .span 0 2 .all [], .fused, .immediate, false, 0, 0, false, false⟩,
  ⟨0x8330, 0x8330, 0x1, 0x2, 1, .oct, 32, .wo, 0, 0, 0, .free, .fused, .immediate, false, 0, 5, false, false⟩,
  ⟨0x8330, 0x8330, 0x3, 0x3, 1, .bits32, 4, .rws, 0, 0, 3, .bits 3, .fused, .immediate, false, 0, 5, false, false⟩,
  ⟨0x8331, 0x8331, 0x0, 0x0, 1, .oct, 32, .wo, 0, 0, 0, .free, .fused, .immediate, false, 0, 1, false, false⟩,
  ⟨0x8350, 0x8350, 0x0, 0x0, 1, .oct, 56, .ro, 0, 0, 0, .free, .fused, .immediate, false, 0, 255, false, false⟩]

/-- Objects of the area 0x8xxx (cipher and security), part 2. -/
def objects8_2 : List Attr := [
  ⟨0x8351, 0x8351, 0x0, 0x0, 1, .bool, 1, .wo, 0, 1, 1, .list [1], .volatile, .immediate, false, 0, 255, false, false⟩,
  ⟨0x8360, 0x8360, 0x0, 0x0, 1, .oct, 32, .wo, 0, 0, 0, .free, .volatile, .immediate, false, 0, 255, false, false⟩,
  ⟨0x8361, 0x8361, 0x0, 0x0, 1, .oct, 2860, .ro, 0, 0, 0, .free, .volatile, .immediate, false, 0, 255, false, false⟩,
  ⟨0x8362, 0x8362, 0x1, 0x1, 1, .u16, 2, .ro, 0, 0, 512, .span 0 512 .all [], .fused, .immediate, false, 0, 255, false, false⟩,
  ⟨0x8362, 0x8362, 0x2, 0x2, 1, .u32, 4, .ro, 32768, 0, 32768, .span 0 32768 .all [], .volatile, .immediate, false, 0, 255, false, false⟩,
  ⟨0x8400, 0x8400, 0x0, 0x0, 1, .oct, 32, .ro, 0, 0, 0, .free, .volatile, .immediate, false, 0, 255, false, false⟩,
  ⟨0x8410, 0x8410, 0x0, 0x0, 1, .octv, 2884, .wo, 0, 0, 0, .free, .volatile, .immediate, false, 0, 255, false, false⟩,
  ⟨0x8420, 0x8420, 0x0, 0x0, 1, .octv, 128, .wo, 0, 0, 0, .free, .volatile, .immediate, false, 0, 2, false, false⟩]

/-- Objects of the area 0x9xxx (memory). -/
def objects9 : List Attr := [
  ⟨0x9010, 0x9010, 0x1, 0x1, 1, .u32, 4, .ro, 49152, 0, 49152, .span 0 49152 .all [], .volatile, .immediate, false, 0, 255, false, false⟩,
  ⟨0x9010, 0x9010, 0x2, 0x2, 1, .bits32, 4, .ro, 4294967295, 0, 4294967295, .bits 4294967295, .volatile, .immediate, false, 0, 255, false, false⟩,
  ⟨0x9010, 0x9010, 0x3, 0x3, 1, .bits32, 4, .ro, 4294967295, 0, 4294967295, .bits 4294967295, .volatile, .immediate, false, 0, 255, false, false⟩,
  ⟨0x9010, 0x9010, 0x4, 0x4, 1, .u32, 4, .ro, 0, 0, 49152, .span 0 49152 .all [], .volatile, .immediate, false, 0, 255, false, false⟩,
  ⟨0x9010, 0x9010, 0x5, 0x6, 1, .i16, 2, .ro, 0, (-128), 127, .span (-128) 127 .all [], .volatile, .immediate, false, 0, 255, false, false⟩,
  ⟨0x9010, 0x9010, 0x7, 0x7, 1, .bits32, 4, .ro, 0, 0, 3, .bits 3, .volatile, .immediate, false, 0, 255, false, false⟩,
  ⟨0x9010, 0x9010, 0x8, 0x8, 1, .bool, 1, .ro, 0, 0, 1, .span 0 1 .all [], .volatile, .immediate, false, 0, 255, false, false⟩,
  ⟨0x9020, 0x9020, 0x1, 0x1, 1, .u32, 4, .rw, 4096, 512, 16384, .span 512 16384 (.step 64) [], .persist, .immediate, true, 0, 255, false, false⟩,
  ⟨0x9020, 0x9020, 0x2, 0x2, 1, .u32, 4, .rw, 1024, 512, 2048, .span 512 2048 (.step 64) [], .persist, .immediate, true, 0, 255, false, false⟩,
  ⟨0x9020, 0x9020, 0x3, 0x3, 1, .u32, 4, .rw, 2048, 1024, 4096, .span 1024 4096 (.step 64) [], .persist, .immediate, true, 0, 255, false, false⟩,
  ⟨0x9020, 0x9020, 0x4, 0x4, 1, .u32, 4, .rw, 14336, 0, 40960, .span 0 40960 (.step 64) [], .persist, .immediate, true, 0, 255, false, false⟩,
  ⟨0x9020, 0x9020, 0x5, 0x5, 1, .u32, 4, .rw, 16384, 0, 40960, .span 0 40960 (.step 64) [], .persist, .immediate, true, 0, 255, false, false⟩,
  ⟨0x9020, 0x9020, 0x6, 0x6, 1, .u32, 4, .rw, 6144, 0, 40960, .span 0 40960 (.step 64) [], .persist, .immediate, true, 0, 255, false, false⟩,
  ⟨0x9020, 0x9020, 0x7, 0x7, 1, .u32, 4, .rw, 5120, 0, 40960, .span 0 40960 (.step 64) [], .persist, .immediate, true, 0, 255, false, false⟩,
  ⟨0x9020, 0x9020, 0x8, 0x8, 1, .bool, 1, .wo, 0, 1, 1, .list [1], .volatile, .immediate, false, 0, 255, false, false⟩,
  ⟨0x9021, 0x9021, 0x1, 0x7, 1, .u64, 8, .ro, 0, 0, 18446744073709551615, .span 0 18446744073709551615 .all [], .volatile, .immediate, false, 0, 255, false, false⟩,
  ⟨0x9022, 0x9022, 0x1, 0x7, 1, .u32, 4, .ro, 0, 0, 49152, .span 0 49152 .all [], .volatile, .immediate, false, 0, 255, false, false⟩,
  ⟨0x9100, 0x9100, 0x1, 0x1, 1, .u32, 4, .rw, 6000, 0, 100000, .span 500 100000 .all [0], .persist, .immediate, true, 0, 255, false, false⟩,
  ⟨0x9100, 0x9100, 0x2, 0x2, 1, .u32, 4, .rw, 4000, 0, 100000, .span 500 100000 .all [0], .persist, .immediate, true, 0, 255, false, false⟩,
  ⟨0x9100, 0x9100, 0x3, 0x3, 1, .u32, 4, .rw, 2000, 0, 100000, .span 500 100000 .all [0], .persist, .immediate, true, 0, 255, false, false⟩,
  ⟨0x9110, 0x9110, 0x1, 0x1, 1, .u32, 4, .rw, 1000, 10, 100000, .span 10 100000 .all [], .persist, .immediate, true, 0, 255, false, false⟩,
  ⟨0x9110, 0x9110, 0x2, 0x2, 1, .u8, 1, .rw, 2, 1, 16, .span 1 16 .all [], .persist, .immediate, true, 0, 255, false, false⟩,
  ⟨0x9110, 0x9110, 0x3, 0x3, 1, .u16, 2, .rw, 24, 0, 168, .span 0 168 .all [], .persist, .immediate, true, 0, 255, false, false⟩,
  ⟨0x9120, 0x9120, 0x0, 0x0, 1, .bits32, 4, .rws, 0, 0, 7, .bits 7, .volatile, .immediate, false, 0, 255, false, false⟩,
  ⟨0x9200, 0x923F, 0x1, 0x1, 1, .enum8, 1, .ro, 0, 0, 2, .enum [0, 1, 2], .volatile, .immediate, false, 0, 255, false, false⟩,
  ⟨0x9200, 0x923F, 0x2, 0x2, 1, .u8, 1, .ro, 0, 0, 2, .span 0 2 .all [], .volatile, .immediate, false, 0, 255, false, false⟩,
  ⟨0x9200, 0x923F, 0x3, 0x3, 1, .bool, 1, .ro, 0, 0, 1, .span 0 1 .all [], .volatile, .immediate, false, 0, 255, false, false⟩,
  ⟨0x9200, 0x923F, 0x4, 0x4, 1, .u32, 4, .rw, 0, 0, 4294967295, .span 0 4294967295 .all [], .volatile, .immediate, false, 0, 255, true, false⟩,
  ⟨0x9200, 0x923F, 0x5, 0x5, 1, .u32, 4, .rw, 0, 0, 4294967295, .span 0 4294967295 .all [], .volatile, .immediate, false, 0, 255, true, false⟩,
  ⟨0x9200, 0x923F, 0x6, 0x6, 1, .u32, 4, .rw, 0, 0, 4294967295, .span 0 4294967295 .all [], .volatile, .immediate, false, 0, 255, true, false⟩,
  ⟨0x9200, 0x923F, 0x7, 0x7, 1, .u32, 4, .rw, 0, 0, 4294967295, .span 0 4294967295 .all [], .volatile, .immediate, false, 0, 255, true, false⟩,
  ⟨0x9200, 0x923F, 0x8, 0x8, 1, .u16, 2, .ro, 0, 0, 1000, .span 0 1000 .all [], .volatile, .immediate, false, 0, 255, false, false⟩,
  ⟨0x9200, 0x923F, 0x9, 0x9, 1, .i16, 2, .ro, 0, (-128), 127, .span (-128) 127 .all [], .volatile, .immediate, false, 0, 255, false, false⟩,
  ⟨0x9300, 0x9300, 0x1, 0x4, 1, .u32, 4, .ro, 0, 0, 4294967295, .span 0 4294967295 .all [], .volatile, .immediate, false, 0, 255, false, false⟩,
  ⟨0x9300, 0x9300, 0x5, 0x7, 1, .u32, 4, .rw, 0, 0, 4294967295, .span 0 4294967295 .all [], .volatile, .immediate, false, 0, 255, true, false⟩]

/-- Objects of the area 0xAxxx (fabric), part 1. -/
def objectsA_1 : List Attr := [
  ⟨0xA010, 0xA010, 0x1, 0x1, 1, .u16, 2, .rw, 65535, 0, 65535, .span 0 511 .all [65535], .persist, .immediate, true, 0, 255, false, false⟩,
  ⟨0xA010, 0xA010, 0x2, 0x2, 1, .u8, 1, .rw, 255, 0, 255, .span 0 5 .all [255], .persist, .immediate, true, 0, 255, false, false⟩,
  ⟨0xA010, 0xA010, 0x3, 0x3, 1, .u8, 1, .rw, 255, 0, 255, .span 0 5 .all [255], .persist, .immediate, true, 0, 255, false, false⟩,
  ⟨0xA020, 0xA020, 0x1, 0x1, 1, .u32, 4, .rw, 1000, 100, 10000, .span 100 10000 .all [], .persist, .immediate, false, 0, 255, false, false⟩,
  ⟨0xA020, 0xA020, 0x2, 0x2, 1, .u32, 4, .rw, 4000, 300, 100000, .span 300 100000 .all [], .persist, .immediate, false, 0, 255, false, false⟩,
  ⟨0xA020, 0xA020, 0x3, 0x3, 1, .u32, 4, .rw, 1000, 100, 100000, .span 100 100000 .all [], .persist, .immediate, false, 0, 255, false, false⟩,
  ⟨0xA020, 0xA020, 0x4, 0x4, 1, .u16, 2, .rw, 30, 10, 3600, .span 10 3600 .all [], .persist, .immediate, false, 0, 255, false, false⟩,
  ⟨0xA020, 0xA020, 0x5, 0x5, 1, .u32, 4, .rw, 1000, 200, 10000, .span 200 10000 .all [], .persist, .immediate, false, 0, 255, false, false⟩,
  ⟨0xA020, 0xA020, 0x6, 0x6, 1, .u16, 2, .rw, 10, 0, 1000, .span 0 1000 .all [], .persist, .immediate, false, 0, 255, false, false⟩,
  ⟨0xA020, 0xA020, 0x7, 0x7, 1, .u32, 4, .rw, 2000000, 1000, 1000000000, .span 1000 1000000000 .all [], .persist, .immediate, false, 0, 255, false, false⟩,
  ⟨0xA020, 0xA020, 0x8, 0x8, 1, .u8, 1, .rw, 3, 1, 60, .span 1 60 .all [], .persist, .immediate, false, 0, 255, false, false⟩,
  ⟨0xA100, 0xA105, 0x1, 0x1, 1, .bool, 1, .rw, 0, 0, 1, .span 0 1 .all [], .persist, .immediate, true, 0, 255, false, false⟩,
  ⟨0xA100, 0xA105, 0x2, 0x2, 1, .u16, 2, .rw, 10, 1, 65535, .span 1 65535 .all [], .persist, .immediate, true, 0, 255, false, false⟩,
  ⟨0xA100, 0xA105, 0x3, 0x3, 1, .enum8, 1, .ro, 0, 0, 3, .enum [0, 1, 2, 3], .volatile, .immediate, false, 0, 255, false, false⟩,
  ⟨0xA100, 0xA105, 0x4, 0x4, 1, .bits32, 4, .ro, 0, 0, 127, .bits 127, .volatile, .immediate, false, 0, 255, false, false⟩,
  ⟨0xA100, 0xA105, 0x5, 0x5, 1, .u16, 2, .ro, 65535, 0, 65535, .span 0 65535 .all [], .volatile, .immediate, false, 0, 255, false, false⟩,
  ⟨0xA100, 0xA105, 0x6, 0x6, 1, .u8, 1, .ro, 255, 0, 255, .span 0 255 .all [], .volatile, .immediate, false, 0, 255, false, false⟩,
  ⟨0xA100, 0xA105, 0x7, 0x7, 1, .u16, 2, .ro, 0, 0, 65535, .span 0 65535 .all [], .volatile, .immediate, false, 0, 255, false, false⟩,
  ⟨0xA200, 0xA219, 0x1, 0x1, 1, .u64, 8, .rw, 0, 0, 18446744073709551615, .span 0 18446744073709551615 .all [], .volatile, .immediate, false, 0, 255, true, false⟩,
  ⟨0xA200, 0xA219, 0x2, 0x2, 1, .u32, 4, .rw, 0, 0, 4294967295, .span 0 4294967295 .all [], .volatile, .immediate, false, 0, 255, true, false⟩,
  ⟨0xA200, 0xA219, 0x3, 0x3, 1, .u32, 4, .rw, 0, 0, 4294967295, .span 0 4294967295 .all [], .volatile, .immediate, false, 0, 255, true, false⟩,
  ⟨0xA200, 0xA219, 0x4, 0x4, 1, .u32, 4, .rw, 0, 0, 4294967295, .span 0 4294967295 .all [], .volatile, .immediate, false, 0, 255, true, false⟩,
  ⟨0xA200, 0xA219, 0x5, 0x5, 1, .bits32, 4, .ro, 0, 0, 120, .bits 120, .volatile, .immediate, false, 0, 255, false, false⟩,
  ⟨0xA220, 0xA226, 0x1, 0x1, 1, .u64, 8, .rw, 0, 0, 18446744073709551615, .span 0 18446744073709551615 .all [], .volatile, .immediate, false, 0, 255, true, false⟩,
  ⟨0xA220, 0xA226, 0x2, 0x2, 1, .u64, 8, .rw, 0, 0, 18446744073709551615, .span 0 18446744073709551615 .all [], .volatile, .immediate, false, 0, 255, true, false⟩,
  ⟨0xA220, 0xA226, 0x3, 0x3, 1, .u32, 4, .rw, 0, 0, 4294967295, .span 0 4294967295 .all [], .volatile, .immediate, false, 0, 255, true, false⟩,
  ⟨0xA220, 0xA226, 0x4, 0x4, 1, .u32, 4, .rw, 0, 0, 4294967295, .span 0 4294967295 .all [], .volatile, .immediate, false, 0, 255, true, false⟩,
  ⟨0xA220, 0xA226, 0x5, 0x8, 1, .u32, 4, .rw, 0, 0, 4294967295, .span 0 4294967295 .all [], .volatile, .immediate, false, 0, 255, true, false⟩,
  ⟨0xA220, 0xA226, 0x9, 0x9, 1, .u32, 4, .rw, 0, 0, 4294967295, .span 0 4294967295 .all [], .volatile, .immediate, false, 0, 255, true, false⟩,
  ⟨0xA220, 0xA226, 0xA, 0xA, 1, .u32, 4, .rw, 0, 0, 4294967295, .span 0 4294967295 .all [], .volatile, .immediate, false, 0, 255, true, false⟩,
  ⟨0xA220, 0xA226, 0xB, 0xB, 1, .u32, 4, .rw, 0, 0, 4294967295, .span 0 4294967295 .all [], .volatile, .immediate, false, 0, 255, true, false⟩,
  ⟨0xA300, 0xA308, 0x1, 0x1, 1, .time80, 10, .ro, 0, 0, 0, .free, .volatile, .immediate, false, 0, 255, false, false⟩,
  ⟨0xA300, 0xA308, 0x2, 0x2, 1, .u32, 4, .ro, 0, 0, 4294967295, .span 0 4294967295 .all [], .volatile, .immediate, false, 0, 255, false, false⟩,
  ⟨0xA300, 0xA308, 0x3, 0x3, 1, .u32, 4, .ro, 0, 0, 4294967295, .span 0 4294967295 .all [], .volatile, .immediate, false, 0, 255, false, false⟩,
  ⟨0xA300, 0xA308, 0x4, 0x4, 1, .u32, 4, .ro, 0, 0, 4294967295, .span 0 4294967295 .all [], .volatile, .immediate, false, 0, 255, false, false⟩,
  ⟨0xA300, 0xA308, 0x5, 0x5, 1, .u64, 8, .ro, 0, 0, 18446744073709551615, .span 0 18446744073709551615 .all [], .volatile, .immediate, false, 0, 255, false, false⟩,
  ⟨0xA300, 0xA308, 0x6, 0x6, 1, .u32, 4, .ro, 0, 0, 4294967295, .span 0 4294967295 .all [], .volatile, .immediate, false, 0, 255, false, false⟩,
  ⟨0xA300, 0xA308, 0x7, 0x7, 1, .u32, 4, .ro, 0, 0, 4294967295, .span 0 4294967295 .all [], .volatile, .immediate, false, 0, 255, false, false⟩,
  ⟨0xA300, 0xA308, 0x8, 0x8, 1, .bool, 1, .ro, 0, 0, 1, .span 0 1 .all [], .volatile, .immediate, false, 0, 255, false, false⟩,
  ⟨0xA340, 0xA39F, 0x1, 0x1, 1, .time80, 10, .ro, 0, 0, 0, .free, .volatile, .immediate, false, 0, 255, false, false⟩]

/-- Objects of the area 0xAxxx (fabric), part 2. -/
def objectsA_2 : List Attr := [
  ⟨0xA340, 0xA39F, 0x2, 0x2, 1, .u32, 4, .ro, 0, 0, 4294967295, .span 0 4294967295 .all [], .volatile, .immediate, false, 0, 255, false, false⟩,
  ⟨0xA340, 0xA39F, 0x3, 0x3, 1, .u32, 4, .ro, 0, 0, 4294967295, .span 0 4294967295 .all [], .volatile, .immediate, false, 0, 255, false, false⟩,
  ⟨0xA340, 0xA39F, 0x4, 0x4, 1, .u32, 4, .ro, 0, 0, 4294967295, .span 0 4294967295 .all [], .volatile, .immediate, false, 0, 255, false, false⟩,
  ⟨0xA340, 0xA39F, 0x5, 0x5, 1, .u64, 8, .ro, 0, 0, 18446744073709551615, .span 0 18446744073709551615 .all [], .volatile, .immediate, false, 0, 255, false, false⟩,
  ⟨0xA340, 0xA39F, 0x6, 0x6, 1, .u32, 4, .ro, 0, 0, 4294967295, .span 0 4294967295 .all [], .volatile, .immediate, false, 0, 255, false, false⟩,
  ⟨0xA340, 0xA39F, 0x7, 0x7, 1, .u32, 4, .ro, 0, 0, 4294967295, .span 0 4294967295 .all [], .volatile, .immediate, false, 0, 255, false, false⟩,
  ⟨0xA340, 0xA39F, 0x8, 0x8, 1, .bool, 1, .ro, 0, 0, 1, .span 0 1 .all [], .volatile, .immediate, false, 0, 255, false, false⟩,
  ⟨0xA500, 0xA500, 0x1, 0x1, 1, .enum8, 1, .ro, 0, 0, 2, .enum [0, 1, 2], .volatile, .immediate, false, 512, 255, false, false⟩,
  ⟨0xA500, 0xA500, 0x2, 0x2, 1, .u32, 4, .ro, 0, 0, 4294967295, .span 0 4294967295 .all [], .volatile, .immediate, false, 512, 255, false, false⟩,
  ⟨0xA500, 0xA500, 0x3, 0x3, 1, .bits32, 4, .ro, 0, 0, 63, .bits 63, .volatile, .immediate, false, 512, 255, false, false⟩,
  ⟨0xA500, 0xA500, 0x4, 0x4, 1, .u8, 1, .ro, 0, 0, 4, .span 0 4 .all [], .volatile, .immediate, false, 512, 255, false, false⟩,
  ⟨0xA510, 0xA510, 0x1, 0x1, 1, .u16, 2, .ro, 1, 1, 512, .span 1 512 .all [], .volatile, .immediate, false, 0, 255, false, false⟩,
  ⟨0xA510, 0xA510, 0x2, 0x2, 1, .u32, 4, .rw, 0, 0, 4294967295, .span 0 4294967295 .all [], .volatile, .immediate, false, 0, 255, true, false⟩,
  ⟨0xA600, 0xA600, 0x1, 0x1, 1, .u16, 2, .rw, 65535, 0, 65535, .span 0 511 .all [65535], .volatile, .immediate, false, 131072, 255, false, true⟩,
  ⟨0xA600, 0xA600, 0x2, 0x2, 1, .enum8, 1, .rw, 0, 0, 2, .enum [0, 1, 2], .volatile, .immediate, false, 131072, 255, false, true⟩,
  ⟨0xA600, 0xA600, 0x3, 0x3, 1, .u32, 4, .rw, 0, 0, 131071, .span 0 131071 .all [], .volatile, .immediate, false, 131072, 255, false, true⟩,
  ⟨0xA600, 0xA600, 0x4, 0x4, 1, .u8, 1, .rw, 0, 0, 7, .span 0 7 .all [], .volatile, .immediate, false, 131072, 255, false, true⟩,
  ⟨0xA600, 0xA600, 0x5, 0x5, 1, .enum8, 1, .ro, 0, 0, 4, .enum [0, 1, 2, 3, 4], .volatile, .immediate, false, 131072, 255, false, false⟩,
  ⟨0xA700, 0xA700, 0x1, 0x1, 1, .enum8, 1, .ro, 0, 0, 3, .enum [0, 1, 2, 3], .volatile, .immediate, false, 16384, 255, false, false⟩,
  ⟨0xA700, 0xA700, 0x2, 0x2, 1, .u32, 4, .rw, 0, 0, 4294967295, .span 0 4294967295 .all [], .volatile, .immediate, false, 16384, 255, true, false⟩]

/-- Objects of the area 0xBxxx (twin). -/
def objectsB : List Attr := [
  ⟨0xB010, 0xB010, 0x1, 0x1, 1, .enum8, 1, .rwl, 0, 0, 1, .enum [0, 1], .persist, .immediate, true, 0, 4, false, false⟩,
  ⟨0xB010, 0xB010, 0x2, 0x2, 1, .enum8, 1, .rwl, 0, 0, 1, .enum [0, 1], .persist, .immediate, true, 0, 4, false, false⟩,
  ⟨0xB010, 0xB010, 0x3, 0x3, 1, .u64, 8, .rwl, 0, 0, 18446744073709551615, .span 0 18446744073709551615 .all [], .persist, .immediate, true, 0, 4, false, false⟩,
  ⟨0xB010, 0xB010, 0x4, 0x4, 1, .u32, 4, .rwl, 2000, 500, 50000, .span 500 50000 .all [], .persist, .immediate, true, 0, 4, false, false⟩,
  ⟨0xB010, 0xB010, 0x5, 0x5, 1, .u32, 4, .rwl, 4294967295, 0, 4294967295, .span 0 65535 .all [4294967295], .persist, .immediate, true, 0, 4, false, false⟩,
  ⟨0xB020, 0xB020, 0x1, 0x1, 1, .enum8, 1, .ro, 0, 0, 3, .enum [0, 1, 2, 3], .volatile, .immediate, false, 0, 255, false, false⟩,
  ⟨0xB020, 0xB020, 0x2, 0x2, 1, .bool, 1, .ro, 0, 0, 1, .span 0 1 .all [], .volatile, .immediate, false, 0, 255, false, false⟩,
  ⟨0xB020, 0xB020, 0x3, 0x3, 1, .u32, 4, .ro, 0, 0, 4294967295, .span 0 4294967295 .all [], .volatile, .immediate, false, 0, 255, false, false⟩,
  ⟨0xB020, 0xB020, 0x4, 0x4, 1, .u64, 8, .ro, 0, 0, 18446744073709551615, .span 0 18446744073709551615 .all [], .volatile, .immediate, false, 0, 255, false, false⟩,
  ⟨0xB020, 0xB020, 0x5, 0x5, 1, .enum8, 1, .ro, 0, 0, 9, .enum [0, 1, 2, 3, 4, 5, 6, 7, 8, 9], .volatile, .immediate, false, 0, 255, false, false⟩,
  ⟨0xB020, 0xB020, 0x6, 0x6, 1, .i32, 4, .ro, 0, (-2147483648), 2147483647, .span (-2147483648) 2147483647 .all [], .volatile, .immediate, false, 0, 255, false, false⟩,
  ⟨0xB020, 0xB020, 0x7, 0x7, 1, .u32, 4, .ro, 0, 0, 4294967295, .span 0 4294967295 .all [], .volatile, .immediate, false, 0, 255, false, false⟩,
  ⟨0xB020, 0xB020, 0x8, 0x8, 1, .u16, 2, .ro, 0, 0, 1000, .span 0 1000 .all [], .volatile, .immediate, false, 0, 255, false, false⟩,
  ⟨0xB020, 0xB020, 0x9, 0x9, 1, .time80, 10, .ro, 0, 0, 0, .free, .volatile, .immediate, false, 0, 255, false, false⟩,
  ⟨0xB030, 0xB030, 0x1, 0x1, 1, .bool, 1, .wo, 0, 1, 1, .list [1], .volatile, .immediate, false, 0, 255, false, false⟩,
  ⟨0xB030, 0xB030, 0x2, 0x2, 1, .bool, 1, .wo, 0, 1, 1, .list [1], .volatile, .immediate, false, 0, 255, false, false⟩,
  ⟨0xB040, 0xB040, 0x1, 0x1, 1, .u32, 4, .rw, 0, 0, 4294967295, .span 0 4294967295 .all [], .volatile, .immediate, false, 0, 255, true, false⟩,
  ⟨0xB040, 0xB040, 0x2, 0x2, 1, .u32, 4, .rw, 0, 0, 4294967295, .span 0 4294967295 .all [], .volatile, .immediate, false, 0, 255, true, false⟩,
  ⟨0xB040, 0xB040, 0x3, 0x3, 1, .u64, 8, .rw, 0, 0, 18446744073709551615, .span 0 18446744073709551615 .all [], .volatile, .immediate, false, 0, 255, true, false⟩,
  ⟨0xB040, 0xB040, 0x4, 0x4, 1, .u32, 4, .rw, 0, 0, 4294967295, .span 0 4294967295 .all [], .volatile, .immediate, false, 0, 255, true, false⟩,
  ⟨0xB040, 0xB040, 0x5, 0x5, 1, .u32, 4, .rw, 0, 0, 4294967295, .span 0 4294967295 .all [], .volatile, .immediate, false, 0, 255, true, false⟩,
  ⟨0xB040, 0xB040, 0x6, 0x6, 1, .u32, 4, .rw, 0, 0, 4294967295, .span 0 4294967295 .all [], .volatile, .immediate, false, 0, 255, true, false⟩]

/-- Objects of the area 0xCxxx (time). -/
def objectsC : List Attr := [
  ⟨0xC010, 0xC010, 0x1, 0x1, 1, .time80, 10, .ro, 0, 0, 0, .free, .volatile, .immediate, false, 0, 255, false, false⟩,
  ⟨0xC010, 0xC010, 0x2, 0x2, 1, .enum8, 1, .ro, 0, 0, 4, .enum [0, 1, 2, 3, 4], .volatile, .immediate, false, 0, 255, false, false⟩,
  ⟨0xC010, 0xC010, 0x3, 0x3, 1, .i32, 4, .ro, 0, (-2147483648), 2147483647, .span (-2147483648) 2147483647 .all [], .volatile, .immediate, false, 0, 255, false, false⟩,
  ⟨0xC010, 0xC010, 0x4, 0x4, 1, .i32, 4, .ro, 0, (-2147483648), 2147483647, .span (-2147483648) 2147483647 .all [], .volatile, .immediate, false, 0, 255, false, false⟩,
  ⟨0xC010, 0xC010, 0x5, 0x5, 1, .oct, 10, .ro, 0, 0, 0, .free, .volatile, .immediate, false, 0, 255, false, false⟩,
  ⟨0xC010, 0xC010, 0x6, 0x6, 1, .i16, 2, .ro, 37, (-32768), 32767, .span (-32768) 32767 .all [], .volatile, .immediate, false, 0, 255, false, false⟩,
  ⟨0xC020, 0xC020, 0x1, 0x1, 1, .bool, 1, .rw, 0, 0, 1, .span 0 1 .all [], .persist, .immediate, true, 0, 255, false, false⟩,
  ⟨0xC020, 0xC020, 0x2, 0x2, 1, .enum8, 1, .rw, 0, 0, 1, .enum [0, 1], .persist, .immediate, true, 0, 255, false, false⟩,
  ⟨0xC020, 0xC020, 0x3, 0x3, 1, .u8, 1, .rw, 24, 24, 43, .span 24 43 .all [], .persist, .immediate, true, 0, 255, false, false⟩,
  ⟨0xC020, 0xC020, 0x4, 0x4, 1, .enum8, 1, .rw, 0, 0, 1, .enum [0, 1], .persist, .immediate, true, 0, 255, false, false⟩,
  ⟨0xC020, 0xC020, 0x5, 0x5, 1, .u8, 1, .rw, 128, 1, 255, .span 1 255 .all [], .persist, .immediate, true, 0, 255, false, false⟩,
  ⟨0xC020, 0xC020, 0x6, 0x6, 1, .u32, 4, .rw, 1000000, 0, 100000000, .span 0 100000000 .all [], .persist, .immediate, true, 0, 255, false, false⟩,
  ⟨0xC020, 0xC020, 0x7, 0x7, 1, .u16, 2, .rw, 100, 1, 500, .span 1 500 .all [], .persist, .immediate, true, 0, 255, false, false⟩,
  ⟨0xC020, 0xC020, 0x8, 0x8, 1, .bool, 1, .rw, 0, 0, 1, .span 0 1 .all [], .persist, .immediate, true, 0, 255, false, false⟩,
  ⟨0xC020, 0xC020, 0x9, 0x9, 1, .bool, 1, .rw, 0, 0, 1, .span 0 1 .all [], .persist, .immediate, true, 0, 255, false, false⟩,
  ⟨0xC020, 0xC020, 0xA, 0xA, 1, .enum8, 1, .rw, 0, 0, 1, .enum [0, 1], .persist, .immediate, true, 0, 255, false, false⟩,
  ⟨0xC030, 0xC030, 0x1, 0x9, 1, .i32, 4, .rw, 0, (-100000), 100000, .span (-100000) 100000 .all [], .persist, .immediate, true, 0, 255, false, false⟩,
  ⟨0xC040, 0xC040, 0x0, 0x0, 1, .u16, 2, .rw, 65535, 0, 65535, .span 0 2047 .all [65535], .volatile, .immediate, false, 0, 255, false, false⟩,
  ⟨0xC050, 0xC050, 0x0, 0x0, 1, .time80, 10, .wo, 0, 0, 0, .free, .volatile, .immediate, false, 0, 255, false, false⟩,
  ⟨0xC100, 0xC103, 0x1, 0x1, 1, .enum8, 1, .rw, 0, 0, 2, .enum [0, 1, 2], .persist, .immediate, true, 0, 255, false, false⟩,
  ⟨0xC100, 0xC103, 0x2, 0x2, 1, .time80, 10, .rw, 0, 0, 0, .free, .persist, .immediate, true, 0, 255, false, false⟩,
  ⟨0xC100, 0xC103, 0x3, 0x3, 1, .u64, 8, .rw, 1000000000, 1000, 1000000000000, .span 1000 1000000000000 .all [], .persist, .immediate, true, 0, 255, false, false⟩,
  ⟨0xC100, 0xC103, 0x4, 0x4, 1, .u32, 4, .rw, 100000, 8, 4294967295, .span 8 4294967295 .all [], .persist, .immediate, true, 0, 255, false, false⟩,
  ⟨0xC100, 0xC103, 0x5, 0x5, 1, .enum8, 1, .rw, 0, 0, 1, .enum [0, 1], .persist, .immediate, true, 0, 255, false, false⟩,
  ⟨0xC100, 0xC103, 0x6, 0x6, 1, .bool, 1, .rw, 0, 0, 1, .span 0 1 .all [], .persist, .immediate, true, 0, 255, false, false⟩,
  ⟨0xC100, 0xC103, 0x7, 0x7, 1, .u32, 4, .rw, 0, 0, 4294967295, .span 0 4294967295 .all [], .volatile, .immediate, false, 0, 255, true, false⟩,
  ⟨0xC100, 0xC103, 0x8, 0x8, 1, .u32, 4, .rw, 0, 0, 4294967295, .span 0 4294967295 .all [], .volatile, .immediate, false, 0, 255, true, false⟩,
  ⟨0xC200, 0xC200, 0x1, 0x6, 1, .u32, 4, .rw, 0, 0, 4294967295, .span 0 4294967295 .all [], .volatile, .immediate, false, 0, 255, true, false⟩]

/-- Objects of the area 0xDxxx (power and always-on). -/
def objectsD : List Attr := [
  ⟨0xD010, 0xD010, 0x1, 0x1, 1, .enum8, 1, .ro, 2, 0, 4, .enum [0, 1, 2, 3, 4], .volatile, .immediate, false, 0, 255, false, false⟩,
  ⟨0xD010, 0xD010, 0x2, 0x2, 1, .bits32, 4, .ro, 0, 0, 255, .bits 255, .volatile, .immediate, false, 0, 255, false, false⟩,
  ⟨0xD010, 0xD010, 0x3, 0x3, 1, .u32, 4, .ro, 0, 0, 4294967295, .span 0 4294967295 .all [], .volatile, .immediate, false, 0, 255, false, false⟩,
  ⟨0xD010, 0xD010, 0x4, 0x4, 1, .i16, 2, .ro, 0, (-128), 255, .span (-128) 255 .all [], .volatile, .immediate, false, 0, 255, false, false⟩,
  ⟨0xD010, 0xD010, 0x5, 0x5, 1, .u8, 1, .ro, 0, 0, 12, .span 0 12 .all [], .volatile, .immediate, false, 0, 255, false, false⟩,
  ⟨0xD010, 0xD010, 0x6, 0x6, 1, .u32, 4, .rw, 0, 0, 4294967295, .span 0 4294967295 .all [], .volatile, .immediate, false, 0, 255, true, false⟩,
  ⟨0xD020, 0xD020, 0x1, 0x1, 1, .enum8, 1, .rw, 2, 0, 3, .enum [0, 1, 2, 3], .volatile, .immediate, false, 0, 255, false, false⟩,
  ⟨0xD020, 0xD020, 0x2, 0x2, 1, .u32, 4, .rw, 10000, 0, 3600000, .span 100 3600000 .all [0], .persist, .immediate, true, 0, 255, false, false⟩,
  ⟨0xD020, 0xD020, 0x3, 0x3, 1, .bits32, 4, .rw, 8, 0, 60, .bits 60, .persist, .immediate, true, 0, 255, false, false⟩,
  ⟨0xD020, 0xD020, 0x4, 0x4, 1, .u32, 4, .rw, 0, 0, 604800, .span 0 604800 .all [], .persist, .immediate, true, 0, 255, false, false⟩,
  ⟨0xD020, 0xD020, 0x5, 0x5, 1, .u32, 4, .rw, 0, 0, 86400, .span 0 86400 .all [], .persist, .immediate, true, 0, 255, false, false⟩,
  ⟨0xD030, 0xD030, 0x1, 0x1, 1, .i16, 2, .rw, 105, 85, 105, .span 85 105 .all [], .persist, .immediate, true, 0, 255, false, false⟩,
  ⟨0xD030, 0xD030, 0x2, 0x2, 1, .i16, 2, .rw, 100, 80, 103, .span 80 103 .all [], .persist, .immediate, true, 0, 255, false, false⟩,
  ⟨0xD030, 0xD030, 0x3, 0x3, 1, .i16, 2, .rw, 0, (-40), 125, .span (-40) 125 .all [], .volatile, .immediate, false, 0, 255, false, false⟩,
  ⟨0xD040, 0xD040, 0x0, 0x0, 1, .octv, 4294967295, .wo, 0, 0, 0, .free, .volatile, .immediate, false, 0, 255, false, false⟩,
  ⟨0xD041, 0xD041, 0x0, 0x0, 1, .u32, 4, .ro, 0, 0, 4294967295, .span 0 4294967295 .all [], .volatile, .immediate, false, 0, 255, false, false⟩]

/-- Objects of the area 0xExxx (events, counters, performance monitoring, check value). -/
def objectsE : List Attr := [
  ⟨0xE010, 0xE010, 0x1, 0x1, 1, .u32, 4, .ro, 0, 0, 4294967295, .span 0 4294967295 .all [], .volatile, .immediate, false, 0, 255, false, false⟩,
  ⟨0xE010, 0xE010, 0x2, 0x2, 1, .u16, 2, .ro, 0, 0, 256, .span 0 256 .all [], .volatile, .immediate, false, 0, 255, false, false⟩,
  ⟨0xE010, 0xE010, 0x3, 0x7, 1, .u32, 4, .rw, 0, 0, 4294967295, .span 0 4294967295 .all [], .volatile, .immediate, false, 0, 255, true, false⟩,
  ⟨0xE010, 0xE010, 0x8, 0x8, 1, .u32, 4, .rw, 0, 0, 4294967295, .span 0 4294967295 .all [], .volatile, .immediate, false, 0, 255, true, false⟩,
  ⟨0xE010, 0xE010, 0x9, 0x9, 1, .enum8, 1, .rw, 1, 0, 4, .enum [0, 1, 2, 3, 4], .persist, .immediate, true, 0, 255, false, false⟩,
  ⟨0xE010, 0xE010, 0xA, 0xA, 1, .u16, 2, .rw, 65535, 0, 65535, .span 0 2047 .all [65535], .persist, .immediate, true, 0, 255, false, false⟩,
  ⟨0xE020, 0xE020, 0x1, 0x1, 1, .u32, 4, .rw, 0, 0, 4294967295, .span 0 4294967295 .all [], .volatile, .immediate, false, 0, 255, false, false⟩,
  ⟨0xE020, 0xE020, 0x2, 0x2, 1, .oct, 32, .ro, 0, 0, 0, .free, .volatile, .immediate, false, 0, 255, false, false⟩,
  ⟨0xE030, 0xE030, 0x1, 0x1, 1, .enum8, 1, .ro, 0, 0, 5, .enum [0, 1, 2, 3, 4, 5], .volatile, .immediate, false, 0, 255, false, false⟩,
  ⟨0xE030, 0xE030, 0x2, 0x2, 1, .u16, 2, .ro, 0, 0, 65535, .span 0 65535 .all [], .volatile, .immediate, false, 0, 255, false, false⟩,
  ⟨0xE030, 0xE030, 0x3, 0x3, 1, .u16, 2, .ro, 0, 0, 65535, .span 0 65535 .all [], .volatile, .immediate, false, 0, 255, false, false⟩,
  ⟨0xE030, 0xE030, 0x4, 0x4, 1, .time80, 10, .ro, 0, 0, 0, .free, .volatile, .immediate, false, 0, 255, false, false⟩,
  ⟨0xE040, 0xE040, 0x1, 0x1, 1, .u32, 4, .rw, 0, 0, 4294967295, .span 0 4294967295 .all [], .volatile, .immediate, false, 0, 255, true, false⟩,
  ⟨0xE040, 0xE040, 0x2, 0x2, 1, .u32, 4, .rw, 0, 0, 4294967295, .span 0 4294967295 .all [], .volatile, .immediate, false, 0, 255, true, false⟩,
  ⟨0xE040, 0xE040, 0x3, 0x3, 1, .u32, 4, .rw, 0, 0, 4294967295, .span 0 4294967295 .all [], .volatile, .immediate, false, 0, 255, true, false⟩,
  ⟨0xE040, 0xE040, 0x4, 0x4, 1, .u32, 4, .rw, 0, 0, 4294967295, .span 0 4294967295 .all [], .volatile, .immediate, false, 0, 255, true, false⟩,
  ⟨0xE050, 0xE050, 0x1, 0x1, 1, .u32, 4, .rw, 1000, 100, 10000, .span 100 10000 .all [], .persist, .immediate, true, 0, 255, false, false⟩,
  ⟨0xE050, 0xE050, 0x2, 0x2, 1, .u32, 4, .rw, 0, 0, 4294967295, .span 0 4294967295 .all [], .volatile, .immediate, false, 0, 255, true, false⟩,
  ⟨0xE060, 0xE060, 0x1, 0x1, 1, .enum8, 1, .rw, 0, 0, 4, .enum [0, 1, 2, 3, 4], .volatile, .immediate, false, 0, 255, false, false⟩,
  ⟨0xE060, 0xE060, 0x2, 0x2, 1, .u64, 8, .rw, 0, 0, 18446744073709551615, .span 0 18446744073709551615 .all [], .volatile, .immediate, false, 0, 255, false, false⟩,
  ⟨0xE060, 0xE060, 0x3, 0x3, 1, .u64, 8, .rw, 0, 1, 1099511627776, .span 1 1099511627776 .all [], .volatile, .immediate, false, 0, 255, false, false⟩,
  ⟨0xE060, 0xE060, 0x4, 0x4, 1, .enum8, 1, .rw, 0, 0, 1, .enum [0, 1], .volatile, .immediate, false, 0, 255, false, false⟩,
  ⟨0xE060, 0xE060, 0x5, 0x5, 1, .u64, 8, .rw, 0, 0, 18446744073709551615, .span 0 18446744073709551615 .all [], .volatile, .immediate, false, 0, 255, false, false⟩,
  ⟨0xE060, 0xE060, 0x6, 0x6, 1, .u8, 1, .rw, 32, 8, 64, .span 8 64 .all [], .volatile, .immediate, false, 0, 255, false, false⟩,
  ⟨0xE060, 0xE060, 0x7, 0x8, 1, .u64, 8, .rw, 0, 0, 18446744073709551615, .span 0 18446744073709551615 .all [], .volatile, .immediate, false, 0, 255, false, false⟩,
  ⟨0xE060, 0xE060, 0x9, 0x9, 1, .bits32, 4, .rw, 0, 0, 3, .bits 3, .volatile, .immediate, false, 0, 255, false, false⟩,
  ⟨0xE060, 0xE060, 0xA, 0xA, 1, .bool, 1, .wo, 0, 1, 1, .list [1], .volatile, .immediate, false, 0, 255, false, false⟩,
  ⟨0xE060, 0xE060, 0xB, 0xB, 1, .enum8, 1, .ro, 0, 0, 2, .enum [0, 1, 2], .volatile, .immediate, false, 0, 255, false, false⟩,
  ⟨0xE060, 0xE060, 0xC, 0xC, 1, .u64, 8, .ro, 0, 0, 18446744073709551615, .span 0 18446744073709551615 .all [], .volatile, .immediate, false, 0, 255, false, false⟩,
  ⟨0xE060, 0xE060, 0xD, 0xD, 1, .u32, 4, .rw, 0, 0, 4294967295, .span 0 4294967295 .all [], .volatile, .immediate, false, 0, 255, true, false⟩]

/-- The objects of the area an index belongs to (Table 2.4). -/
def areaObjects (area : Nat) : List Attr :=
  match area with
  | 1 => objects1
  | 2 => objects2_1 ++ objects2_2 ++ objects2_3
  | 3 => objects3_1 ++ objects3_2
  | 4 => objects4_1 ++ objects4_2
  | 5 => objects5_1 ++ objects5_2
  | 6 => objects6_1 ++ objects6_2
  | 7 => objects7_1 ++ objects7_2 ++ objects7_3
  | 8 => objects8_1 ++ objects8_2
  | 9 => objects9
  | 10 => objectsA_1 ++ objectsA_2
  | 11 => objectsB
  | 12 => objectsC
  | 13 => objectsD
  | 14 => objectsE
  | _ => []

/-- All objects of the dictionary, in ascending index order. -/
def allObjects : List Attr :=
  areaObjects 1 ++ areaObjects 2 ++ areaObjects 3 ++ areaObjects 4 ++ areaObjects 5 ++ areaObjects 6 ++ areaObjects 7 ++ areaObjects 8 ++ areaObjects 9 ++ areaObjects 10 ++ areaObjects 11 ++ areaObjects 12 ++ areaObjects 13 ++ areaObjects 14

/-- Whether a row holds an index and sub-index. -/
def Attr.holds (a : Attr) (ix sub : Nat) : Bool :=
  decide (a.ixLo ≤ ix) && decide (ix ≤ a.ixHi) && decide (a.subLo ≤ sub) && decide (sub ≤ a.subHi) &&
    decide ((sub - a.subLo) % a.subStep = 0)

/-- The attributes of an object field; `none` where the dictionary has none. -/
def attrOf (ix sub : Nat) : Option Attr := (areaObjects (ix / 4096)).find? (fun a => a.holds ix sub)

/-- The rows of an index. -/
def rowsOf (ix : Nat) : List Attr := (areaObjects (ix / 4096)).filter (fun a => decide (a.ixLo ≤ ix) && decide (ix ≤ a.ixHi))

/-- The default of an object key: its value after reset or element creation (Table 2.1). -/
def dfltOf (k : Nat) : Nat :=
  match attrOf (k / 0x100000000) (k / 0x1000000 % 256) with
  | some a => a.dflt
  | none => 0

namespace Obj

/-- 0x1000.01 PartCode. -/
def partCode : Nat := key 0x1000 0x1 0
/-- 0x1000.02 Serial. -/
def serial : Nat := key 0x1000 0x2 0
/-- 0x1000.03 FirmwareVersion. -/
def firmwareVersion : Nat := key 0x1000 0x3 0
/-- 0x1010.00 DictionaryVersion. -/
def dictionaryVersion : Nat := key 0x1010 0x0 0
/-- 0x1020.00 ConfigDigest. -/
def configDigest : Nat := key 0x1020 0x0 0
/-- 0x1030.00 PersistImage. -/
def persistImage : Nat := key 0x1030 0x0 0
/-- 0x1040.00 GroupTimeout. -/
def groupTimeout : Nat := key 0x1040 0x0 0
/-- 0x1041.00 GroupsOpen. -/
def groupsOpen : Nat := key 0x1041 0x0 0
/-- 0x1050.01 DtpEnable. -/
def dtpEnable : Nat := key 0x1050 0x1 0
/-- 0x1050.02 DtpSessionsMax. -/
def dtpSessionsMax : Nat := key 0x1050 0x2 0
/-- 0x1060.00 OperatorSession. -/
def operatorSession : Nat := key 0x1060 0x0 0
/-- 0x1070.00 Straps. -/
def straps : Nat := key 0x1070 0x0 0
/-- 0x7400.01 QKind. -/
def qKind (e : Nat) : Nat := key 0x7400 0x1 e
/-- 0x7400.02 QCrossDomain. -/
def qCrossDomain (e : Nat) : Nat := key 0x7400 0x2 e
/-- 0x7400.03 QDepth. -/
def qDepth (e : Nat) : Nat := key 0x7400 0x3 e
/-- 0x7400.04 QLost. -/
def qLost (e : Nat) : Nat := key 0x7400 0x4 e
/-- 0x7400.05 QFlushed. -/
def qFlushed (e : Nat) : Nat := key 0x7400 0x5 e
/-- 0x7400.06 QTorn. -/
def qTorn (e : Nat) : Nat := key 0x7400 0x6 e
/-- 0x7400.07 QWmLevel. -/
def qWmLevel (e : Nat) : Nat := key 0x7400 0x7 e
/-- 0x7400.08 QWmState. -/
def qWmState (e : Nat) : Nat := key 0x7400 0x8 e
/-- 0x7400.09 QWmCount. -/
def qWmCount (e : Nat) : Nat := key 0x7400 0x9 e
/-- 0x7400.0A QFlush. -/
def qFlush (e : Nat) : Nat := key 0x7400 0xA e
/-- 0x2030.00 ClassifierImage. -/
def classifierImage : Nat := key 0x2030 0x0 0
/-- 0x2040.01 PromptRing. -/
def promptRing (j : Nat) : Nat := key 0x2040 (0x1 + j) 0
/-- 0x2040.05 PromptDropped. -/
def promptDropped (j : Nat) : Nat := key 0x2040 (0x5 + j) 0
/-- 0x2041.00 ExceptionRing. -/
def exceptionRing : Nat := key 0x2041 0x0 0
/-- 0x2042.00 ExceptionRate. -/
def exceptionRate : Nat := key 0x2042 0x0 0
/-- 0x2100.01 LegConf. -/
def legConf (e : Nat) : Nat := key 0x2100 0x1 e
/-- 0x2100.02 LegPort. -/
def legPort (e : Nat) : Nat := key 0x2100 0x2 e
/-- 0x2100.03 AddrFamily. -/
def addrFamily (e : Nat) : Nat := key 0x2100 0x3 e
/-- 0x2100.04 LocalAddr. -/
def localAddr (e : Nat) : Nat := key 0x2100 0x4 e
/-- 0x2100.05 RemoteAddr. -/
def remoteAddr (e : Nat) : Nat := key 0x2100 0x5 e
/-- 0x2100.06 LocalPort. -/
def localPort (e : Nat) : Nat := key 0x2100 0x6 e
/-- 0x2100.07 RemotePort. -/
def remotePort (e : Nat) : Nat := key 0x2100 0x7 e
/-- 0x2100.08 LegVlan. -/
def legVlan (e : Nat) : Nat := key 0x2100 0x8 e
/-- 0x2100.09 NextHopMac. -/
def nextHopMac (e : Nat) : Nat := key 0x2100 0x9 e
/-- 0x2100.0A Dscp. -/
def dscp (e : Nat) : Nat := key 0x2100 0xA e
/-- 0x2100.0B Mtu. -/
def mtu (e : Nat) : Nat := key 0x2100 0xB e
/-- 0x2100.0C RxKslot. -/
def rxKslot (e : Nat) : Nat := key 0x2100 0xC e
/-- 0x2100.0D TxKslot. -/
def txKslot (e : Nat) : Nat := key 0x2100 0xD e
/-- 0x2100.0E Cname. -/
def cname (e : Nat) : Nat := key 0x2100 0xE e
/-- 0x2100.0F RxTimeout. -/
def rxTimeout (e : Nat) : Nat := key 0x2100 0xF e
/-- 0x2100.10 LegFlags. -/
def legFlags (e : Nat) : Nat := key 0x2100 0x10 e
/-- 0x2100.11 EgressGranules. -/
def egressGranules (e : Nat) : Nat := key 0x2100 0x11 e
/-- 0x2101.00 LegState. -/
def legState (e : Nat) : Nat := key 0x2101 0x0 e
/-- 0x2110.01 RxSsrc. -/
def rxSsrc (i : Nat) (e : Nat) : Nat := key (0x2110 + i) 0x1 e
/-- 0x2110.02 RxKind. -/
def rxKind (i : Nat) (e : Nat) : Nat := key (0x2110 + i) 0x2 e
/-- 0x2110.03 RxPt. -/
def rxPt (i : Nat) (e : Nat) : Nat := key (0x2110 + i) 0x3 e
/-- 0x2110.04 RxRepairs. -/
def rxRepairs (i : Nat) (e : Nat) : Nat := key (0x2110 + i) 0x4 e
/-- 0x2110.05 RxDctx. -/
def rxDctx (i : Nat) (e : Nat) : Nat := key (0x2110 + i) 0x5 e
/-- 0x2110.06 RxLearn. -/
def rxLearn (i : Nat) (e : Nat) : Nat := key (0x2110 + i) 0x6 e
/-- 0x2120.01 TxSsrc. -/
def txSsrc (i : Nat) (e : Nat) : Nat := key (0x2120 + i) 0x1 e
/-- 0x2120.02 TxKind. -/
def txKind (i : Nat) (e : Nat) : Nat := key (0x2120 + i) 0x2 e
/-- 0x2120.03 TxPt. -/
def txPt (i : Nat) (e : Nat) : Nat := key (0x2120 + i) 0x3 e
/-- 0x2120.04 TxRepairs. -/
def txRepairs (i : Nat) (e : Nat) : Nat := key (0x2120 + i) 0x4 e
/-- 0x2120.05 TxDctx. -/
def txDctx (i : Nat) (e : Nat) : Nat := key (0x2120 + i) 0x5 e
/-- 0x2120.06 TxLearn. -/
def txLearn (i : Nat) (e : Nat) : Nat := key (0x2120 + i) 0x6 e
/-- 0x2130.01 JbMode. -/
def jbMode (e : Nat) : Nat := key 0x2130 0x1 e
/-- 0x2130.02 JbMinDepth. -/
def jbMinDepth (e : Nat) : Nat := key 0x2130 0x2 e
/-- 0x2130.03 JbMaxDepth. -/
def jbMaxDepth (e : Nat) : Nat := key 0x2130 0x3 e
/-- 0x2130.04 JbSlots. -/
def jbSlots (e : Nat) : Nat := key 0x2130 0x4 e
/-- 0x2130.05 JbSlotSize. -/
def jbSlotSize (e : Nat) : Nat := key 0x2130 0x5 e
/-- 0x2130.06 JbFactor. -/
def jbFactor (e : Nat) : Nat := key 0x2130 0x6 e
/-- 0x2130.07 VideoBytes. -/
def videoBytes (e : Nat) : Nat := key 0x2130 0x7 e
/-- 0x2130.08 VideoWait. -/
def videoWait (e : Nat) : Nat := key 0x2130 0x8 e
/-- 0x2130.09 JbDepth. -/
def jbDepth (e : Nat) : Nat := key 0x2130 0x9 e
/-- 0x2140.01 RtcpInterval. -/
def rtcpInterval (e : Nat) : Nat := key 0x2140 0x1 e
/-- 0x2140.02 FeedbackAccepted. -/
def feedbackAccepted (e : Nat) : Nat := key 0x2140 0x2 e
/-- 0x2140.03 Rtt. -/
def rtt (e : Nat) : Nat := key 0x2140 0x3 e
/-- 0x2180.01 RxPackets. -/
def rxPackets (e : Nat) : Nat := key 0x2180 0x1 e
/-- 0x2180.02 RxOctets. -/
def rxOctets (e : Nat) : Nat := key 0x2180 0x2 e
/-- 0x2180.03 RxLate. -/
def rxLate (e : Nat) : Nat := key 0x2180 0x3 e
/-- 0x2180.04 RxDuplicate. -/
def rxDuplicate (e : Nat) : Nat := key 0x2180 0x4 e
/-- 0x2180.05 RxEarly. -/
def rxEarly (e : Nat) : Nat := key 0x2180 0x5 e
/-- 0x2180.06 RxLost. -/
def rxLost (e : Nat) : Nat := key 0x2180 0x6 e
/-- 0x2180.07 RxOverflow. -/
def rxOverflow (e : Nat) : Nat := key 0x2180 0x7 e
/-- 0x2180.08 LateInput. -/
def lateInput (e : Nat) : Nat := key 0x2180 0x8 e
/-- 0x2180.09 EncWithdrawn. -/
def encWithdrawn (e : Nat) : Nat := key 0x2180 0x9 e
/-- 0x2180.0A TxPackets. -/
def txPackets (e : Nat) : Nat := key 0x2180 0xA e
/-- 0x2180.0B TxOctets. -/
def txOctets (e : Nat) : Nat := key 0x2180 0xB e
/-- 0x2180.0C RtcpRx. -/
def rtcpRx (e : Nat) : Nat := key 0x2180 0xC e
/-- 0x2180.0D RtcpTx. -/
def rtcpTx (e : Nat) : Nat := key 0x2180 0xD e
/-- 0x2180.0E RtcpBad. -/
def rtcpBad (e : Nat) : Nat := key 0x2180 0xE e
/-- 0x2180.0F PromptUnderrun. -/
def promptUnderrun (e : Nat) : Nat := key 0x2180 0xF e
/-- 0x2190.01 InFrames. -/
def inFrames (i : Nat) : Nat := key (0x2190 + i) 0x1 0
/-- 0x2190.02 InOverflow. -/
def inOverflow (i : Nat) : Nat := key (0x2190 + i) 0x2 0
/-- 0x2190.03 BadL2. -/
def badL2 (i : Nat) : Nat := key (0x2190 + i) 0x3 0
/-- 0x2190.04 BadL3. -/
def badL3 (i : Nat) : Nat := key (0x2190 + i) 0x4 0
/-- 0x2190.05 Fragment. -/
def fragment (i : Nat) : Nat := key (0x2190 + i) 0x5 0
/-- 0x2190.06 BadL4. -/
def badL4 (i : Nat) : Nat := key (0x2190 + i) 0x6 0
/-- 0x2190.07 BadRtp. -/
def badRtp (i : Nat) : Nat := key (0x2190 + i) 0x7 0
/-- 0x2190.08 Unknown. -/
def unknown (i : Nat) : Nat := key (0x2190 + i) 0x8 0
/-- 0x2190.09 ClsOverrun. -/
def clsOverrun (i : Nat) : Nat := key (0x2190 + i) 0x9 0
/-- 0x2190.0A ExceptionDropped. -/
def exceptionDropped (i : Nat) : Nat := key (0x2190 + i) 0xA 0
/-- 0x2200.01 ConfState. -/
def confState (e : Nat) : Nat := key 0x2200 0x1 e
/-- 0x2200.02 ConfRole. -/
def confRole (e : Nat) : Nat := key 0x2200 0x2 e
/-- 0x2200.03 AnchorFdev. -/
def anchorFdev (e : Nat) : Nat := key 0x2200 0x3 e
/-- 0x2200.04 AnchorConf. -/
def anchorConf (e : Nat) : Nat := key 0x2200 0x4 e
/-- 0x2200.05 Members. -/
def members (e : Nat) : Nat := key 0x2200 0x5 e
/-- 0x2200.06 ActiveMembers. -/
def activeMembers (e : Nat) : Nat := key 0x2200 0x6 e
/-- 0x2200.07 Devices. -/
def devices (e : Nat) : Nat := key 0x2200 0x7 e
/-- 0x2310.01 CrEnable. -/
def crEnable (e : Nat) : Nat := key 0x2310 0x1 e
/-- 0x2310.02 CrRing. -/
def crRing (e : Nat) : Nat := key 0x2310 0x2 e
/-- 0x2310.03 CrKslot. -/
def crKslot (e : Nat) : Nat := key 0x2310 0x3 e
/-- 0x2310.04 CrSectorBase. -/
def crSectorBase (e : Nat) : Nat := key 0x2310 0x4 e
/-- 0x2311.01 LrEnable. -/
def lrEnable (e : Nat) : Nat := key 0x2311 0x1 e
/-- 0x2311.02 LrRing. -/
def lrRing (e : Nat) : Nat := key 0x2311 0x2 e
/-- 0x2311.03 LrKslot. -/
def lrKslot (e : Nat) : Nat := key 0x2311 0x3 e
/-- 0x2311.04 LrSectorBase. -/
def lrSectorBase (e : Nat) : Nat := key 0x2311 0x4 e
/-- 0x2311.05 LrSource. -/
def lrSource (e : Nat) : Nat := key 0x2311 0x5 e
/-- 0x3010.01 CyclesCommitted. -/
def cyclesCommitted : Nat := key 0x3010 0x1 0
/-- 0x3010.02 TapsEnabled. -/
def tapsEnabled : Nat := key 0x3010 0x2 0
/-- 0x3010.03 TapSectorsDropped. -/
def tapSectorsDropped : Nat := key 0x3010 0x3 0
/-- 0x3040.00 MatenLoad. -/
def matenLoad : Nat := key 0x3040 0x0 0
/-- 0x3041.00 MatenUnload. -/
def matenUnload : Nat := key 0x3041 0x0 0
/-- 0x3042.01 ProgramsLoaded. -/
def programsLoaded : Nat := key 0x3042 0x1 0
/-- 0x3042.02 ProgramWordsFree. -/
def programWordsFree : Nat := key 0x3042 0x2 0
/-- 0x3043.00 MatenSelect. -/
def matenSelect : Nat := key 0x3043 0x0 0
/-- 0x3044.01 MatenVersion. -/
def matenVersion : Nat := key 0x3044 0x1 0
/-- 0x3044.02 MatenCodeWords. -/
def matenCodeWords : Nat := key 0x3044 0x2 0
/-- 0x3044.03 MatenConstWords. -/
def matenConstWords : Nat := key 0x3044 0x3 0
/-- 0x3044.04 MatenProgramState. -/
def matenProgramState : Nat := key 0x3044 0x4 0
/-- 0x3050.01 FlaggedItems. -/
def flaggedItems (j : Nat) : Nat := key 0x3050 (0x1 + j) 0
/-- 0x3051.01 CoreFaults. -/
def coreFaults (j : Nat) : Nat := key 0x3051 (0x1 + j) 0
/-- 0x3100.00 AudioBudget. -/
def audioBudget : Nat := key 0x3100 0x0 0
/-- 0x3200.01 MixPhase. -/
def mixPhase (e : Nat) : Nat := key 0x3200 0x1 e
/-- 0x3200.02 MixK. -/
def mixK (e : Nat) : Nat := key 0x3200 0x2 e
/-- 0x3200.03 RampTime. -/
def rampTime (e : Nat) : Nat := key 0x3200 0x3 e
/-- 0x3200.04 Scaling. -/
def scaling (e : Nat) : Nat := key 0x3200 0x4 e
/-- 0x3200.05 MasterGain. -/
def masterGain (e : Nat) : Nat := key 0x3200 0x5 e
/-- 0x3200.06 VadThreshold. -/
def vadThreshold (e : Nat) : Nat := key 0x3200 0x6 e
/-- 0x3200.07 Hangover. -/
def hangover (e : Nat) : Nat := key 0x3200 0x7 e
/-- 0x3200.08 Hysteresis. -/
def hysteresis (e : Nat) : Nat := key 0x3200 0x8 e
/-- 0x3200.09 SpeakerHold. -/
def speakerHold (e : Nat) : Nat := key 0x3200 0x9 e
/-- 0x3200.0A ReturnWait. -/
def returnWait (e : Nat) : Nat := key 0x3200 0xA e
/-- 0x3210.01 ActiveSpeaker. -/
def activeSpeaker (e : Nat) : Nat := key 0x3210 0x1 e
/-- 0x3210.02 SelectedCount. -/
def selectedCount (e : Nat) : Nat := key 0x3210 0x2 e
/-- 0x3210.03 MixN. -/
def mixN (e : Nat) : Nat := key 0x3210 0x3 e
/-- 0x3210.04 Contributors. -/
def contributors (e : Nat) : Nat := key 0x3210 0x4 e
/-- 0x3210.05 CmClipped. -/
def cmClipped (e : Nat) : Nat := key 0x3210 0x5 e
/-- 0x3210.06 PartialLate. -/
def partialLate (e : Nat) : Nat := key 0x3210 0x6 e
/-- 0x3210.07 ReturnLate. -/
def returnLate (e : Nat) : Nat := key 0x3210 0x7 e
/-- 0x3210.08 RampCuts. -/
def rampCuts (e : Nat) : Nat := key 0x3210 0x8 e
/-- 0x3300.01 RxCodec. -/
def rxCodec (e : Nat) : Nat := key 0x3300 0x1 e
/-- 0x3300.02 TxCodec. -/
def txCodec (e : Nat) : Nat := key 0x3300 0x2 e
/-- 0x3300.03 Ptime. -/
def ptime (e : Nat) : Nat := key 0x3300 0x3 e
/-- 0x3300.04 TxBitrate. -/
def txBitrate (e : Nat) : Nat := key 0x3300 0x4 e
/-- 0x3300.05 Dtx. -/
def dtx (e : Nat) : Nat := key 0x3300 0x5 e
/-- 0x3300.06 Talk. -/
def talk (e : Nat) : Nat := key 0x3300 0x6 e
/-- 0x3300.07 Listen. -/
def listen (e : Nat) : Nat := key 0x3300 0x7 e
/-- 0x3300.08 ListenConf. -/
def listenConf (e : Nat) : Nat := key 0x3300 0x8 e
/-- 0x3300.09 InputGain. -/
def inputGain (e : Nat) : Nat := key 0x3300 0x9 e
/-- 0x3300.0A OutputGain. -/
def outputGain (e : Nat) : Nat := key 0x3300 0xA e
/-- 0x3300.0B DuckGain. -/
def duckGain (e : Nat) : Nat := key 0x3300 0xB e
/-- 0x3310.01 Level. -/
def level (e : Nat) : Nat := key 0x3310 0x1 e
/-- 0x3310.02 Vad. -/
def vad (e : Nat) : Nat := key 0x3310 0x2 e
/-- 0x3310.03 Selected. -/
def selected (e : Nat) : Nat := key 0x3310 0x3 e
/-- 0x3310.04 LegCost. -/
def legCost (e : Nat) : Nat := key 0x3310 0x4 e
/-- 0x3320.01 Concealed. -/
def concealed (e : Nat) : Nat := key 0x3320 0x1 e
/-- 0x3320.02 RxBadPt. -/
def rxBadPt (e : Nat) : Nat := key 0x3320 0x2 e
/-- 0x3320.03 LegClipped. -/
def legClipped (e : Nat) : Nat := key 0x3320 0x3 e
/-- 0x3320.04 RouteCuts. -/
def routeCuts (e : Nat) : Nat := key 0x3320 0x4 e
/-- 0x3400.00 SpeakerRing. -/
def speakerRing : Nat := key 0x3400 0x0 0
/-- 0x4010.01 PixelRateCommitted. -/
def pixelRateCommitted : Nat := key 0x4010 0x1 0
/-- 0x4010.02 ContextsEnabled. -/
def contextsEnabled : Nat := key 0x4010 0x2 0
/-- 0x4010.03 PipesOnline. -/
def pipesOnline : Nat := key 0x4010 0x3 0
/-- 0x4010.04 StripOutputs. -/
def stripOutputs : Nat := key 0x4010 0x4 0
/-- 0x4100.00 DecodeBudget. -/
def decodeBudget : Nat := key 0x4100 0x0 0
/-- 0x4200.01 DctxState. -/
def dctxState (e : Nat) : Nat := key 0x4200 0x1 e
/-- 0x4200.02 DctxCodec. -/
def dctxCodec (e : Nat) : Nat := key 0x4200 0x2 e
/-- 0x4200.03 MaxWidth. -/
def maxWidth (e : Nat) : Nat := key 0x4200 0x3 e
/-- 0x4200.04 MaxHeight. -/
def maxHeight (e : Nat) : Nat := key 0x4200 0x4 e
/-- 0x4200.05 MaxBitDepth. -/
def maxBitDepth (e : Nat) : Nat := key 0x4200 0x5 e
/-- 0x4200.06 MaxFps. -/
def maxFps (e : Nat) : Nat := key 0x4200 0x6 e
/-- 0x4200.07 DpbSize. -/
def dpbSize (e : Nat) : Nat := key 0x4200 0x7 e
/-- 0x4200.08 DctxPriority. -/
def dctxPriority (e : Nat) : Nat := key 0x4200 0x8 e
/-- 0x4200.09 TargetSpatial. -/
def targetSpatial (e : Nat) : Nat := key 0x4200 0x9 e
/-- 0x4200.0A TargetTemporal. -/
def targetTemporal (e : Nat) : Nat := key 0x4200 0xA e
/-- 0x4200.0B KeyReqArea. -/
def keyReqArea (e : Nat) : Nat := key 0x4200 0xB e
/-- 0x4200.0C ShedDepth. -/
def shedDepth (e : Nat) : Nat := key 0x4200 0xC e
/-- 0x4300.01 OutWidth. -/
def outWidth (j : Nat) (e : Nat) : Nat := key 0x4300 (0x1 + 4 * j) e
/-- 0x4300.02 OutHeight. -/
def outHeight (j : Nat) (e : Nat) : Nat := key 0x4300 (0x2 + 4 * j) e
/-- 0x4300.03 OutBuffers. -/
def outBuffers (j : Nat) (e : Nat) : Nat := key 0x4300 (0x3 + 4 * j) e
/-- 0x4300.04 OutCrop. -/
def outCrop (j : Nat) (e : Nat) : Nat := key 0x4300 (0x4 + 4 * j) e
/-- 0x4400.01 DsLeg. -/
def dsLeg (e : Nat) : Nat := key 0x4400 0x1 e
/-- 0x4400.02 DsEntry. -/
def dsEntry (e : Nat) : Nat := key 0x4400 0x2 e
/-- 0x4400.03 DsWidth. -/
def dsWidth (e : Nat) : Nat := key 0x4400 0x3 e
/-- 0x4400.04 DsHeight. -/
def dsHeight (e : Nat) : Nat := key 0x4400 0x4 e
/-- 0x4400.05 DsBitDepth. -/
def dsBitDepth (e : Nat) : Nat := key 0x4400 0x5 e
/-- 0x4400.06 DsProfile. -/
def dsProfile (e : Nat) : Nat := key 0x4400 0x6 e
/-- 0x4400.07 DsLevel. -/
def dsLevel (e : Nat) : Nat := key 0x4400 0x7 e
/-- 0x4400.08 DsStripMask. -/
def dsStripMask (e : Nat) : Nat := key 0x4400 0x8 e
/-- 0x4400.09 DsQueued. -/
def dsQueued (e : Nat) : Nat := key 0x4400 0x9 e
/-- 0x4400.0A DsLastKey. -/
def dsLastKey (e : Nat) : Nat := key 0x4400 0xA e
/-- 0x4500.01 DcPictures. -/
def dcPictures (e : Nat) : Nat := key 0x4500 0x1 e
/-- 0x4500.02 DcSyntaxErrors. -/
def dcSyntaxErrors (e : Nat) : Nat := key 0x4500 0x2 e
/-- 0x4500.03 DcConcealed. -/
def dcConcealed (e : Nat) : Nat := key 0x4500 0x3 e
/-- 0x4500.04 DcMissingRef. -/
def dcMissingRef (e : Nat) : Nat := key 0x4500 0x4 e
/-- 0x4500.05 DcEvicted. -/
def dcEvicted (e : Nat) : Nat := key 0x4500 0x5 e
/-- 0x4500.06 DcKeyRequests. -/
def dcKeyRequests (e : Nat) : Nat := key 0x4500 0x6 e
/-- 0x4500.07 DcKeyReqSuppressed. -/
def dcKeyReqSuppressed (e : Nat) : Nat := key 0x4500 0x7 e
/-- 0x4500.08 DcShed. -/
def dcShed (e : Nat) : Nat := key 0x4500 0x8 e
/-- 0x4500.09 DcOutSkipped. -/
def dcOutSkipped (e : Nat) : Nat := key 0x4500 0x9 e
/-- 0x4500.0A DcStripPictures. -/
def dcStripPictures (e : Nat) : Nat := key 0x4500 0xA e
/-- 0x4500.0B DcOversize. -/
def dcOversize (e : Nat) : Nat := key 0x4500 0xB e
/-- 0x4500.0C DcUnsupported. -/
def dcUnsupported (e : Nat) : Nat := key 0x4500 0xC e
/-- 0x4500.0D DcRateExceeded. -/
def dcRateExceeded (e : Nat) : Nat := key 0x4500 0xD e
/-- 0x4500.0E DcWaitDiscard. -/
def dcWaitDiscard (e : Nat) : Nat := key 0x4500 0xE e
/-- 0x5100.00 ComposerTickBudget. -/
def composerTickBudget : Nat := key 0x5100 0x0 0
/-- 0x5110.01 CanvWidth. -/
def canvWidth (e : Nat) : Nat := key 0x5110 0x1 e
/-- 0x5110.02 CanvHeight. -/
def canvHeight (e : Nat) : Nat := key 0x5110 0x2 e
/-- 0x5110.03 Background. -/
def background (e : Nat) : Nat := key 0x5110 0x3 e
/-- 0x5110.04 Compression. -/
def compression (e : Nat) : Nat := key 0x5110 0x4 e
/-- 0x5110.05 CanvBuffers. -/
def canvBuffers (e : Nat) : Nat := key 0x5110 0x5 e
/-- 0x5110.06 Delta. -/
def delta (j : Nat) (e : Nat) : Nat := key 0x5110 (0x6 + j) e
/-- 0x5120.01 CanvSet. -/
def canvSet (e : Nat) : Nat := key 0x5120 0x1 e
/-- 0x5120.02 CanvRole. -/
def canvRole (e : Nat) : Nat := key 0x5120 0x2 e
/-- 0x5120.03 Composed. -/
def composed (e : Nat) : Nat := key 0x5120 0x3 e
/-- 0x5120.04 CanvSkipped. -/
def canvSkipped (e : Nat) : Nat := key 0x5120 0x4 e
/-- 0x5120.05 CanvLate. -/
def canvLate (e : Nat) : Nat := key 0x5120 0x5 e
/-- 0x5120.06 OpCheckFail. -/
def opCheckFail (e : Nat) : Nat := key 0x5120 0x6 e
/-- 0x5120.07 TilesFetched. -/
def tilesFetched (e : Nat) : Nat := key 0x5120 0x7 e
/-- 0x5120.08 TilesHidden. -/
def tilesHidden (e : Nat) : Nat := key 0x5120 0x8 e
/-- 0x5200.01 CsetEnable. -/
def csetEnable (e : Nat) : Nat := key 0x5200 0x1 e
/-- 0x5200.02 CsetBase. -/
def csetBase (e : Nat) : Nat := key 0x5200 0x2 e
/-- 0x5200.03 CsetDivider. -/
def csetDivider (e : Nat) : Nat := key 0x5200 0x3 e
/-- 0x5200.04 CsetPhase. -/
def csetPhase (e : Nat) : Nat := key 0x5200 0x4 e
/-- 0x5200.05 CsetVariant. -/
def csetVariant (j : Nat) (e : Nat) : Nat := key 0x5200 (0x5 + j) e
/-- 0x5210.00 CanvasSetCommit. -/
def canvasSetCommit (e : Nat) : Nat := key 0x5210 0x0 e
/-- 0x5220.01 CsetComposer. -/
def csetComposer (e : Nat) : Nat := key 0x5220 0x1 e
/-- 0x5220.02 CsetCharge. -/
def csetCharge (e : Nat) : Nat := key 0x5220 0x2 e
/-- 0x5220.03 CsetActiveTick. -/
def csetActiveTick (e : Nat) : Nat := key 0x5220 0x3 e
/-- 0x5220.04 LayoutRuns. -/
def layoutRuns (e : Nat) : Nat := key 0x5220 0x4 e
/-- 0x5220.05 LayoutRefused. -/
def layoutRefused (e : Nat) : Nat := key 0x5220 0x5 e
/-- 0x5230.01 LbProgram. -/
def lbProgram (e : Nat) : Nat := key 0x5230 0x1 e
/-- 0x5230.02 LbConf. -/
def lbConf (e : Nat) : Nat := key 0x5230 0x2 e
/-- 0x5230.03 LbParams. -/
def lbParams (e : Nat) : Nat := key 0x5230 0x3 e
/-- 0x5300.01 LayType. -/
def layType (i : Nat) (e : Nat) : Nat := key (0x5300 + i) 0x1 e
/-- 0x5300.02 LayX. -/
def layX (i : Nat) (e : Nat) : Nat := key (0x5300 + i) 0x2 e
/-- 0x5300.03 LayY. -/
def layY (i : Nat) (e : Nat) : Nat := key (0x5300 + i) 0x3 e
/-- 0x5300.04 LayWidth. -/
def layWidth (i : Nat) (e : Nat) : Nat := key (0x5300 + i) 0x4 e
/-- 0x5300.05 LayHeight. -/
def layHeight (i : Nat) (e : Nat) : Nat := key (0x5300 + i) 0x5 e
/-- 0x5300.06 LaySource. -/
def laySource (i : Nat) (e : Nat) : Nat := key (0x5300 + i) 0x6 e
/-- 0x5300.07 LaySrcX. -/
def laySrcX (i : Nat) (e : Nat) : Nat := key (0x5300 + i) 0x7 e
/-- 0x5300.08 LaySrcY. -/
def laySrcY (i : Nat) (e : Nat) : Nat := key (0x5300 + i) 0x8 e
/-- 0x5300.09 LayOpacity. -/
def layOpacity (i : Nat) (e : Nat) : Nat := key (0x5300 + i) 0x9 e
/-- 0x5300.0A LayFallback. -/
def layFallback (i : Nat) (e : Nat) : Nat := key (0x5300 + i) 0xA e
/-- 0x5300.0B LayFallbackSource. -/
def layFallbackSource (i : Nat) (e : Nat) : Nat := key (0x5300 + i) 0xB e
/-- 0x5300.0C LayStaleLimit. -/
def layStaleLimit (i : Nat) (e : Nat) : Nat := key (0x5300 + i) 0xC e
/-- 0x5340.01 LsShown. -/
def lsShown (i : Nat) (e : Nat) : Nat := key (0x5340 + i) 0x1 e
/-- 0x5340.02 LsStale. -/
def lsStale (i : Nat) (e : Nat) : Nat := key (0x5340 + i) 0x2 e
/-- 0x5340.03 LsStaleTicks. -/
def lsStaleTicks (i : Nat) (e : Nat) : Nat := key (0x5340 + i) 0x3 e
/-- 0x5340.04 LsFallbackTicks. -/
def lsFallbackTicks (i : Nat) (e : Nat) : Nat := key (0x5340 + i) 0x4 e
/-- 0x5600.01 OperatorImage. -/
def operatorImage (j : Nat) : Nat := key 0x5600 (0x1 + j) 0
/-- 0x5601.01 OperatorImageCrc. -/
def operatorImageCrc (j : Nat) : Nat := key 0x5601 (0x1 + j) 0
/-- 0x5610.01 OlEnable. -/
def olEnable (e : Nat) : Nat := key 0x5610 0x1 e
/-- 0x5610.02 OlImage. -/
def olImage (e : Nat) : Nat := key 0x5610 0x2 e
/-- 0x5610.03 OlAnchor. -/
def olAnchor (e : Nat) : Nat := key 0x5610 0x3 e
/-- 0x5610.04 OlOffsetX. -/
def olOffsetX (e : Nat) : Nat := key 0x5610 0x4 e
/-- 0x5610.05 OlOffsetY. -/
def olOffsetY (e : Nat) : Nat := key 0x5610 0x5 e
/-- 0x5610.06 OlFillColour. -/
def olFillColour (e : Nat) : Nat := key 0x5610 0x6 e
/-- 0x5620.00 OperatorCommit. -/
def operatorCommit (e : Nat) : Nat := key 0x5620 0x0 e
/-- 0x5700.00 LayoutLoad. -/
def layoutLoad : Nat := key 0x5700 0x0 0
/-- 0x5701.00 LayoutUnload. -/
def layoutUnload : Nat := key 0x5701 0x0 0
/-- 0x6010.01 RenditionRateCommitted. -/
def renditionRateCommitted : Nat := key 0x6010 0x1 0
/-- 0x6010.02 TrellisCommitted. -/
def trellisCommitted : Nat := key 0x6010 0x2 0
/-- 0x6010.03 FrontEndsOnline. -/
def frontEndsOnline : Nat := key 0x6010 0x3 0
/-- 0x6010.04 BackEndsOnline. -/
def backEndsOnline : Nat := key 0x6010 0x4 0
/-- 0x6050.00 RcLoad. -/
def rcLoad : Nat := key 0x6050 0x0 0
/-- 0x6051.00 RcUnload. -/
def rcUnload : Nat := key 0x6051 0x0 0
/-- 0x6100.00 FrontEndTickBudget. -/
def frontEndTickBudget : Nat := key 0x6100 0x0 0
/-- 0x6101.00 RenditionBudget. -/
def renditionBudget : Nat := key 0x6101 0x0 0
/-- 0x6102.00 TrellisBudget. -/
def trellisBudget : Nat := key 0x6102 0x0 0
/-- 0x6103.00 TrellisProgram. -/
def trellisProgram : Nat := key 0x6103 0x0 0
/-- 0x6200.01 ActxState. -/
def actxState (e : Nat) : Nat := key 0x6200 0x1 e
/-- 0x6200.02 ActxCset. -/
def actxCset (e : Nat) : Nat := key 0x6200 0x2 e
/-- 0x6200.03 SearchClass. -/
def searchClass (e : Nat) : Nat := key 0x6200 0x3 e
/-- 0x6200.04 SearchRange. -/
def searchRange (e : Nat) : Nat := key 0x6200 0x4 e
/-- 0x6200.05 ActxFrontEnd. -/
def actxFrontEnd (e : Nat) : Nat := key 0x6200 0x5 e
/-- 0x6200.06 ActxArea. -/
def actxArea (e : Nat) : Nat := key 0x6200 0x6 e
/-- 0x6200.07 ActxPasses. -/
def actxPasses (e : Nat) : Nat := key 0x6200 0x7 e
/-- 0x6300.01 RctxState. -/
def rctxState (e : Nat) : Nat := key 0x6300 0x1 e
/-- 0x6300.02 RctxActx. -/
def rctxActx (e : Nat) : Nat := key 0x6300 0x2 e
/-- 0x6300.03 RctxCanvas. -/
def rctxCanvas (e : Nat) : Nat := key 0x6300 0x3 e
/-- 0x6300.04 RctxCodec. -/
def rctxCodec (e : Nat) : Nat := key 0x6300 0x4 e
/-- 0x6300.05 RctxProfile. -/
def rctxProfile (e : Nat) : Nat := key 0x6300 0x5 e
/-- 0x6300.06 RctxBitDepth. -/
def rctxBitDepth (e : Nat) : Nat := key 0x6300 0x6 e
/-- 0x6300.07 RctxRung. -/
def rctxRung (e : Nat) : Nat := key 0x6300 0x7 e
/-- 0x6300.08 RctxScalability. -/
def rctxScalability (e : Nat) : Nat := key 0x6300 0x8 e
/-- 0x6300.09 RctxTier. -/
def rctxTier (e : Nat) : Nat := key 0x6300 0x9 e
/-- 0x6300.0A RctxRcMode. -/
def rctxRcMode (e : Nat) : Nat := key 0x6300 0xA e
/-- 0x6300.0B MaxBitrate. -/
def maxBitrate (e : Nat) : Nat := key 0x6300 0xB e
/-- 0x6300.0C HrdBuffer. -/
def hrdBuffer (e : Nat) : Nat := key 0x6300 0xC e
/-- 0x6300.0D TargetBitrate. -/
def targetBitrate (e : Nat) : Nat := key 0x6300 0xD e
/-- 0x6300.0E MinQp. -/
def minQp (e : Nat) : Nat := key 0x6300 0xE e
/-- 0x6300.0F MaxQp. -/
def maxQp (e : Nat) : Nat := key 0x6300 0xF e
/-- 0x6300.10 RcProgram. -/
def rcProgram (e : Nat) : Nat := key 0x6300 0x10 e
/-- 0x6300.11 RcParams. -/
def rcParams (e : Nat) : Nat := key 0x6300 0x11 e
/-- 0x6300.12 RefBuffers. -/
def refBuffers (e : Nat) : Nat := key 0x6300 0x12 e
/-- 0x6300.13 Recovery. -/
def recovery (e : Nat) : Nat := key 0x6300 0x13 e
/-- 0x6300.14 LtrInterval. -/
def ltrInterval (e : Nat) : Nat := key 0x6300 0x14 e
/-- 0x6300.15 KeyMinInterval. -/
def keyMinInterval (e : Nat) : Nat := key 0x6300 0x15 e
/-- 0x6300.16 PeriodicKey. -/
def periodicKey (e : Nat) : Nat := key 0x6300 0x16 e
/-- 0x6300.17 TrellisWait. -/
def trellisWait (e : Nat) : Nat := key 0x6300 0x17 e
/-- 0x6300.18 OutputGranules. -/
def outputGranules (e : Nat) : Nat := key 0x6300 0x18 e
/-- 0x6300.19 RctxKeyRequest. -/
def rctxKeyRequest (e : Nat) : Nat := key 0x6300 0x19 e
/-- 0x6400.01 RsWidth. -/
def rsWidth (e : Nat) : Nat := key 0x6400 0x1 e
/-- 0x6400.02 RsHeight. -/
def rsHeight (e : Nat) : Nat := key 0x6400 0x2 e
/-- 0x6400.03 RsFullness. -/
def rsFullness (e : Nat) : Nat := key 0x6400 0x3 e
/-- 0x6400.04 RsDebt. -/
def rsDebt (e : Nat) : Nat := key 0x6400 0x4 e
/-- 0x6400.05 RsLastQp. -/
def rsLastQp (e : Nat) : Nat := key 0x6400 0x5 e
/-- 0x6400.06 RsLevel. -/
def rsLevel (e : Nat) : Nat := key 0x6400 0x6 e
/-- 0x6400.07 RsLtrAcked. -/
def rsLtrAcked (e : Nat) : Nat := key 0x6400 0x7 e
/-- 0x6400.08 RsCharge. -/
def rsCharge (e : Nat) : Nat := key 0x6400 0x8 e
/-- 0x6500.01 RcPictures. -/
def rcPictures (e : Nat) : Nat := key 0x6500 0x1 e
/-- 0x6500.02 RcKeyPictures. -/
def rcKeyPictures (e : Nat) : Nat := key 0x6500 0x2 e
/-- 0x6500.03 RcRecoveries. -/
def rcRecoveries (e : Nat) : Nat := key 0x6500 0x3 e
/-- 0x6500.04 RcKeyRequests. -/
def rcKeyRequests (e : Nat) : Nat := key 0x6500 0x4 e
/-- 0x6500.05 RcKeyDeferred. -/
def rcKeyDeferred (e : Nat) : Nat := key 0x6500 0x5 e
/-- 0x6500.06 RcMaxQpBands. -/
def rcMaxQpBands (e : Nat) : Nat := key 0x6500 0x6 e
/-- 0x6500.07 RcMinimalBands. -/
def rcMinimalBands (e : Nat) : Nat := key 0x6500 0x7 e
/-- 0x6500.08 RcRecodes. -/
def rcRecodes (e : Nat) : Nat := key 0x6500 0x8 e
/-- 0x6500.09 RcTrellisFallback. -/
def rcTrellisFallback (e : Nat) : Nat := key 0x6500 0x9 e
/-- 0x6500.0A RcOverrun. -/
def rcOverrun (e : Nat) : Nat := key 0x6500 0xA e
/-- 0x6500.0B RcNoPicture. -/
def rcNoPicture (e : Nat) : Nat := key 0x6500 0xB e
/-- 0x7010.01 FeedsAdaptive. -/
def feedsAdaptive : Nat := key 0x7010 0x1 0
/-- 0x7010.02 UnitLoad. -/
def unitLoad : Nat := key 0x7010 0x2 0
/-- 0x7020.00 AdaptLoad. -/
def adaptLoad : Nat := key 0x7020 0x0 0
/-- 0x7021.00 AdaptUnload. -/
def adaptUnload : Nat := key 0x7021 0x0 0
/-- 0x7100.01 TxTwccId. -/
def txTwccId (e : Nat) : Nat := key 0x7100 0x1 e
/-- 0x7100.02 RxFrameMarkId. -/
def rxFrameMarkId (e : Nat) : Nat := key 0x7100 0x2 e
/-- 0x7100.03 RxDepDescId. -/
def rxDepDescId (e : Nat) : Nat := key 0x7100 0x3 e
/-- 0x7100.04 TxFrameMarkId. -/
def txFrameMarkId (e : Nat) : Nat := key 0x7100 0x4 e
/-- 0x7100.05 TxDepDescId. -/
def txDepDescId (e : Nat) : Nat := key 0x7100 0x5 e
/-- 0x7100.06 StartRate. -/
def startRate (e : Nat) : Nat := key 0x7100 0x6 e
/-- 0x7100.07 MinRate. -/
def minRate (e : Nat) : Nat := key 0x7100 0x7 e
/-- 0x7100.08 MaxRate. -/
def maxRate (e : Nat) : Nat := key 0x7100 0x8 e
/-- 0x7100.09 Estimate. -/
def estimate (e : Nat) : Nat := key 0x7100 0x9 e
/-- 0x7200.01 FeedMode. -/
def feedMode (i : Nat) (e : Nat) : Nat := key (0x7200 + i) 0x1 e
/-- 0x7200.02 FeedTxEntry. -/
def feedTxEntry (i : Nat) (e : Nat) : Nat := key (0x7200 + i) 0x2 e
/-- 0x7200.03 FeedCodec. -/
def feedCodec (i : Nat) (e : Nat) : Nat := key (0x7200 + i) 0x3 e
/-- 0x7200.04 FeedProgram. -/
def feedProgram (i : Nat) (e : Nat) : Nat := key (0x7200 + i) 0x4 e
/-- 0x7200.05 FeedCandidates. -/
def feedCandidates (i : Nat) (e : Nat) : Nat := key (0x7200 + i) 0x5 e
/-- 0x7200.06 FeedParams. -/
def feedParams (i : Nat) (e : Nat) : Nat := key (0x7200 + i) 0x6 e
/-- 0x7200.07 FeedShare. -/
def feedShare (i : Nat) (e : Nat) : Nat := key (0x7200 + i) 0x7 e
/-- 0x7200.08 FeedFixedIndex. -/
def feedFixedIndex (i : Nat) (e : Nat) : Nat := key (0x7200 + i) 0x8 e
/-- 0x7200.09 FeedCurrent. -/
def feedCurrent (i : Nat) (e : Nat) : Nat := key (0x7200 + i) 0x9 e
/-- 0x7200.0A FeedPending. -/
def feedPending (i : Nat) (e : Nat) : Nat := key (0x7200 + i) 0xA e
/-- 0x7200.0B FeedSwitches. -/
def feedSwitches (i : Nat) (e : Nat) : Nat := key (0x7200 + i) 0xB e
/-- 0x7200.0C FeedKeyWait. -/
def feedKeyWait (i : Nat) (e : Nat) : Nat := key (0x7200 + i) 0xC e
/-- 0x7200.0D FeedAdaptOverrun. -/
def feedAdaptOverrun (i : Nat) (e : Nat) : Nat := key (0x7200 + i) 0xD e
/-- 0x7200.0E FeedNackResent. -/
def feedNackResent (i : Nat) (e : Nat) : Nat := key (0x7200 + i) 0xE e
/-- 0x7200.0F FeedNackMiss. -/
def feedNackMiss (i : Nat) (e : Nat) : Nat := key (0x7200 + i) 0xF e
/-- 0x7300.01 ShEnable. -/
def shEnable (e : Nat) : Nat := key 0x7300 0x1 e
/-- 0x7300.02 ShCir. -/
def shCir (e : Nat) : Nat := key 0x7300 0x2 e
/-- 0x7300.03 ShCbs. -/
def shCbs (e : Nat) : Nat := key 0x7300 0x3 e
/-- 0x7300.04 ShPir. -/
def shPir (e : Nat) : Nat := key 0x7300 0x4 e
/-- 0x7300.05 ShPbs. -/
def shPbs (e : Nat) : Nat := key 0x7300 0x5 e
/-- 0x7300.06 ShOverhead. -/
def shOverhead (e : Nat) : Nat := key 0x7300 0x6 e
/-- 0x7300.07 ShResetMode. -/
def shResetMode (e : Nat) : Nat := key 0x7300 0x7 e
/-- 0x7300.08 ShGroup. -/
def shGroup (e : Nat) : Nat := key 0x7300 0x8 e
/-- 0x7300.09 ShWeight. -/
def shWeight (e : Nat) : Nat := key 0x7300 0x9 e
/-- 0x7300.0A ShMaxHold. -/
def shMaxHold (e : Nat) : Nat := key 0x7300 0xA e
/-- 0x7300.0B ShTc. -/
def shTc (e : Nat) : Nat := key 0x7300 0xB e
/-- 0x7300.0C ShTp. -/
def shTp (e : Nat) : Nat := key 0x7300 0xC e
/-- 0x7300.0D ShHeld. -/
def shHeld (e : Nat) : Nat := key 0x7300 0xD e
/-- 0x7300.0E ShAgedOut. -/
def shAgedOut (e : Nat) : Nat := key 0x7300 0xE e
/-- 0x7500.01 DcPriority. -/
def dcPriority (i : Nat) : Nat := key (0x7500 + i) 0x1 0
/-- 0x7500.02 DcWaitTimeout. -/
def dcWaitTimeout (i : Nat) : Nat := key (0x7500 + i) 0x2 0
/-- 0x7500.03 DcRunLimit. -/
def dcRunLimit (i : Nat) : Nat := key (0x7500 + i) 0x3 0
/-- 0x7500.04 DcClusterMask. -/
def dcClusterMask (i : Nat) : Nat := key (0x7500 + i) 0x4 0
/-- 0x7500.05 DcPrefetchBytes. -/
def dcPrefetchBytes (i : Nat) : Nat := key (0x7500 + i) 0x5 0
/-- 0x7510.01 HandleQuota. -/
def handleQuota (j : Nat) : Nat := key 0x7510 (0x1 + j) 0
/-- 0x7520.01 HandlesInUse. -/
def handlesInUse : Nat := key 0x7520 0x1 0
/-- 0x7520.02 SourceInUse. -/
def sourceInUse (j : Nat) : Nat := key 0x7520 (0x2 + j) 0
/-- 0x7520.06 ReadyDepth. -/
def readyDepth : Nat := key 0x7520 0x6 0
/-- 0x7520.07 ParkedDepth. -/
def parkedDepth : Nat := key 0x7520 0x7 0
/-- 0x7520.08 FlowsActive. -/
def flowsActive : Nat := key 0x7520 0x8 0
/-- 0x7530.01 BacklogLevel. -/
def backlogLevel : Nat := key 0x7530 0x1 0
/-- 0x7530.02 BacklogState. -/
def backlogState : Nat := key 0x7530 0x2 0
/-- 0x7530.03 BacklogCount. -/
def backlogCount : Nat := key 0x7530 0x3 0
/-- 0x7540.01 WaitHist. -/
def waitHist (i : Nat) (j : Nat) : Nat := key (0x7540 + i) (0x1 + j) 0
/-- 0x7580.01 CoreLoad. -/
def coreLoad (j : Nat) : Nat := key 0x7580 (0x1 + j) 0
/-- 0x7590.01 CoreOnline. -/
def coreOnline (j : Nat) : Nat := key 0x7590 (0x1 + j) 0
/-- 0x75A0.01 DispatchCounter. -/
def dispatchCounter (j : Nat) : Nat := key 0x75A0 (0x1 + j) 0
/-- 0x7610.01 EpochTagEnable. -/
def epochTagEnable : Nat := key 0x7610 0x1 0
/-- 0x7610.02 EpochTagEpoch. -/
def epochTagEpoch : Nat := key 0x7610 0x2 0
/-- 0x7700.01 PsRate. -/
def psRate (i : Nat) : Nat := key (0x7700 + i) 0x1 0
/-- 0x7700.02 PsBurst. -/
def psBurst (i : Nat) : Nat := key (0x7700 + i) 0x2 0
/-- 0x7700.03 PsOverhead. -/
def psOverhead (i : Nat) : Nat := key (0x7700 + i) 0x3 0
/-- 0x7710.01 SgPort. -/
def sgPort (i : Nat) : Nat := key (0x7710 + i) 0x1 0
/-- 0x7710.02 SgRate. -/
def sgRate (i : Nat) : Nat := key (0x7710 + i) 0x2 0
/-- 0x7710.03 SgBurst. -/
def sgBurst (i : Nat) : Nat := key (0x7710 + i) 0x3 0
/-- 0x7710.04 SgWeight. -/
def sgWeight (i : Nat) : Nat := key (0x7710 + i) 0x4 0
/-- 0x7710.05 SgPriority. -/
def sgPriority (i : Nat) : Nat := key (0x7710 + i) 0x5 0
/-- 0x8010.01 CoresActive. -/
def coresActive : Nat := key 0x8010 0x1 0
/-- 0x8010.02 CoresRetired. -/
def coresRetired : Nat := key 0x8010 0x2 0
/-- 0x8010.03 SchedDepth. -/
def schedDepth : Nat := key 0x8010 0x3 0
/-- 0x8010.04 XtsOverwrites. -/
def xtsOverwrites : Nat := key 0x8010 0x4 0
/-- 0x8020.01 FcSrtpCm. -/
def fcSrtpCm : Nat := key 0x8020 0x1 0
/-- 0x8020.02 FcSrtpGcm. -/
def fcSrtpGcm : Nat := key 0x8020 0x2 0
/-- 0x8020.03 FcXts. -/
def fcXts : Nat := key 0x8020 0x3 0
/-- 0x8020.04 FcHash. -/
def fcHash : Nat := key 0x8020 0x4 0
/-- 0x8030.00 KeyPolicy. -/
def keyPolicy : Nat := key 0x8030 0x0 0
/-- 0x8100.01 KSuite. -/
def kSuite (e : Nat) : Nat := key 0x8100 0x1 e
/-- 0x8100.02 KMaterial. -/
def kMaterial (e : Nat) : Nat := key 0x8100 0x2 e
/-- 0x8100.03 KWrapped. -/
def kWrapped (e : Nat) : Nat := key 0x8100 0x3 e
/-- 0x8100.04 KKek. -/
def kKek (e : Nat) : Nat := key 0x8100 0x4 e
/-- 0x8100.05 KErase. -/
def kErase (e : Nat) : Nat := key 0x8100 0x5 e
/-- 0x8100.06 KOverwrite. -/
def kOverwrite (e : Nat) : Nat := key 0x8100 0x6 e
/-- 0x8100.07 KGen. -/
def kGen (e : Nat) : Nat := key 0x8100 0x7 e
/-- 0x8100.08 KState. -/
def kState (e : Nat) : Nat := key 0x8100 0x8 e
/-- 0x8100.09 KInFlight. -/
def kInFlight (e : Nat) : Nat := key 0x8100 0x9 e
/-- 0x8200.01 TxRoc. -/
def txRoc (e : Nat) : Nat := key 0x8200 0x1 e
/-- 0x8200.02 RxRoc. -/
def rxRoc (e : Nat) : Nat := key 0x8200 0x2 e
/-- 0x8200.03 ReplayWindow. -/
def replayWindow (e : Nat) : Nat := key 0x8200 0x3 e
/-- 0x8200.04 RxKslotAlt. -/
def rxKslotAlt (e : Nat) : Nat := key 0x8200 0x4 e
/-- 0x8200.05 Exhausted. -/
def exhausted (e : Nat) : Nat := key 0x8200 0x5 e
/-- 0x8200.06 AuthFail. -/
def authFail (e : Nat) : Nat := key 0x8200 0x6 e
/-- 0x8200.07 ReplayFail. -/
def replayFail (e : Nat) : Nat := key 0x8200 0x7 e
/-- 0x8200.08 KeyFail. -/
def keyFail (e : Nat) : Nat := key 0x8200 0x8 e
/-- 0x8200.09 AltUsed. -/
def altUsed (e : Nat) : Nat := key 0x8200 0x9 e
/-- 0x8200.0A FaultDrop. -/
def faultDrop (e : Nat) : Nat := key 0x8200 0xA e
/-- 0x8300.01 Lifecycle. -/
def lifecycle : Nat := key 0x8300 0x1 0
/-- 0x8300.02 DebugOpen. -/
def debugOpen : Nat := key 0x8300 0x2 0
/-- 0x8300.03 MinVersion. -/
def minVersion : Nat := key 0x8300 0x3 0
/-- 0x8300.04 Vid. -/
def vid : Nat := key 0x8300 0x4 0
/-- 0x8300.05 BootPolicy. -/
def bootPolicy : Nat := key 0x8300 0x5 0
/-- 0x8310.00 Frost. -/
def frost : Nat := key 0x8310 0x0 0
/-- 0x8320.00 LifecycleAdvance. -/
def lifecycleAdvance : Nat := key 0x8320 0x0 0
/-- 0x8321.00 MinVersionCommit. -/
def minVersionCommit : Nat := key 0x8321 0x0 0
/-- 0x8330.01 OwnerHash. -/
def ownerHash (j : Nat) : Nat := key 0x8330 (0x1 + j) 0
/-- 0x8330.03 OwnerRevoke. -/
def ownerRevoke : Nat := key 0x8330 0x3 0
/-- 0x8331.00 OwnerKek. -/
def ownerKek : Nat := key 0x8331 0x0 0
/-- 0x8350.00 IdentityPublic. -/
def identityPublic : Nat := key 0x8350 0x0 0
/-- 0x8351.00 IdentityGenerate. -/
def identityGenerate : Nat := key 0x8351 0x0 0
/-- 0x8360.00 AttestRequest. -/
def attestRequest : Nat := key 0x8360 0x0 0
/-- 0x8361.00 AttestReport. -/
def attestReport : Nat := key 0x8361 0x0 0
/-- 0x8362.01 BlocksBlown. -/
def blocksBlown : Nat := key 0x8362 0x1 0
/-- 0x8362.02 LeavesRemaining. -/
def leavesRemaining : Nat := key 0x8362 0x2 0
/-- 0x8400.00 Challenge. -/
def challenge : Nat := key 0x8400 0x0 0
/-- 0x8410.00 TokenSignature. -/
def tokenSignature : Nat := key 0x8410 0x0 0
/-- 0x8420.00 DebugUnlock. -/
def debugUnlock : Nat := key 0x8420 0x0 0
/-- 0x9010.01 Capacity. -/
def capacity : Nat := key 0x9010 0x1 0
/-- 0x9010.02 PcOnline0. -/
def pcOnline0 : Nat := key 0x9010 0x2 0
/-- 0x9010.03 PcOnline1. -/
def pcOnline1 : Nat := key 0x9010 0x3 0
/-- 0x9010.04 Unassigned. -/
def unassigned : Nat := key 0x9010 0x4 0
/-- 0x9010.05 StackTemp. -/
def stackTemp (j : Nat) : Nat := key 0x9010 (0x5 + j) 0
/-- 0x9010.07 RefreshDouble. -/
def refreshDouble : Nat := key 0x9010 0x7 0
/-- 0x9010.08 Paused. -/
def paused : Nat := key 0x9010 0x8 0
/-- 0x9020.01 PartSize1. -/
def partSize1 : Nat := key 0x9020 0x1 0
/-- 0x9020.02 PartSize2. -/
def partSize2 : Nat := key 0x9020 0x2 0
/-- 0x9020.03 PartSize3. -/
def partSize3 : Nat := key 0x9020 0x3 0
/-- 0x9020.04 PartSize4. -/
def partSize4 : Nat := key 0x9020 0x4 0
/-- 0x9020.05 PartSize5. -/
def partSize5 : Nat := key 0x9020 0x5 0
/-- 0x9020.06 PartSize6. -/
def partSize6 : Nat := key 0x9020 0x6 0
/-- 0x9020.07 PartSize7. -/
def partSize7 : Nat := key 0x9020 0x7 0
/-- 0x9020.08 PartApply. -/
def partApply : Nat := key 0x9020 0x8 0
/-- 0x9021.01 PartBase. -/
def partBase (j : Nat) : Nat := key 0x9021 (0x1 + j) 0
/-- 0x9022.01 PartFree. -/
def partFree (j : Nat) : Nat := key 0x9022 (0x1 + j) 0
/-- 0x9100.01 AgeLimitC1. -/
def ageLimitC1 : Nat := key 0x9100 0x1 0
/-- 0x9100.02 AgeLimitC2. -/
def ageLimitC2 : Nat := key 0x9100 0x2 0
/-- 0x9100.03 AgeLimitC3. -/
def ageLimitC3 : Nat := key 0x9100 0x3 0
/-- 0x9110.01 CeRetrain. -/
def ceRetrain : Nat := key 0x9110 0x1 0
/-- 0x9110.02 UeRetrain. -/
def ueRetrain : Nat := key 0x9110 0x2 0
/-- 0x9110.03 ScrubPeriod. -/
def scrubPeriod : Nat := key 0x9110 0x3 0
/-- 0x9120.00 HostReadWindows. -/
def hostReadWindows : Nat := key 0x9120 0x0 0
/-- 0x9200.01 PcState. -/
def pcState (i : Nat) : Nat := key (0x9200 + i) 0x1 0
/-- 0x9200.02 PcDataSpares. -/
def pcDataSpares (i : Nat) : Nat := key (0x9200 + i) 0x2 0
/-- 0x9200.03 PcCaSpare. -/
def pcCaSpare (i : Nat) : Nat := key (0x9200 + i) 0x3 0
/-- 0x9200.04 PcCorrected. -/
def pcCorrected (i : Nat) : Nat := key (0x9200 + i) 0x4 0
/-- 0x9200.05 PcUncorrected. -/
def pcUncorrected (i : Nat) : Nat := key (0x9200 + i) 0x5 0
/-- 0x9200.06 PcOnDieCorrected. -/
def pcOnDieCorrected (i : Nat) : Nat := key (0x9200 + i) 0x6 0
/-- 0x9200.07 PcRetrains. -/
def pcRetrains (i : Nat) : Nat := key (0x9200 + i) 0x7 0
/-- 0x9200.08 PcPageHits. -/
def pcPageHits (i : Nat) : Nat := key (0x9200 + i) 0x8 0
/-- 0x9200.09 PcTrainTemp. -/
def pcTrainTemp (i : Nat) : Nat := key (0x9200 + i) 0x9 0
/-- 0x9300.01 ClassTraffic. -/
def classTraffic (j : Nat) : Nat := key 0x9300 (0x1 + j) 0
/-- 0x9300.05 Promoted. -/
def promoted (j : Nat) : Nat := key 0x9300 (0x5 + j) 0
/-- 0xA010.01 Fdev. -/
def fdev : Nat := key 0xA010 0x1 0
/-- 0xA010.02 Trunk0. -/
def trunk0 : Nat := key 0xA010 0x2 0
/-- 0xA010.03 Trunk1. -/
def trunk1 : Nat := key 0xA010 0x3 0
/-- 0xA020.01 HelloInterval. -/
def helloInterval : Nat := key 0xA020 0x1 0
/-- 0xA020.02 DeadInterval. -/
def deadInterval : Nat := key 0xA020 0x2 0
/-- 0xA020.03 SpfHold. -/
def spfHold : Nat := key 0xA020 0x3 0
/-- 0xA020.04 LsaRefresh. -/
def lsaRefresh : Nat := key 0xA020 0x4 0
/-- 0xA020.05 CtrlRetransmit. -/
def ctrlRetransmit : Nat := key 0xA020 0x5 0
/-- 0xA020.06 DefectHold. -/
def defectHold : Nat := key 0xA020 0x6 0
/-- 0xA020.07 DegThreshold. -/
def degThreshold : Nat := key 0xA020 0x7 0
/-- 0xA020.08 DegSeconds. -/
def degSeconds : Nat := key 0xA020 0x8 0
/-- 0xA100.01 NqEnable. -/
def nqEnable (i : Nat) : Nat := key (0xA100 + i) 0x1 0
/-- 0xA100.02 NqCost. -/
def nqCost (i : Nat) : Nat := key (0xA100 + i) 0x2 0
/-- 0xA100.03 NqState. -/
def nqState (i : Nat) : Nat := key (0xA100 + i) 0x3 0
/-- 0xA100.04 NqDefects. -/
def nqDefects (i : Nat) : Nat := key (0xA100 + i) 0x4 0
/-- 0xA100.05 NqNeighbour. -/
def nqNeighbour (i : Nat) : Nat := key (0xA100 + i) 0x5 0
/-- 0xA100.06 NqNeighbourPort. -/
def nqNeighbourPort (i : Nat) : Nat := key (0xA100 + i) 0x6 0
/-- 0xA100.07 NqSkew. -/
def nqSkew (i : Nat) : Nat := key (0xA100 + i) 0x7 0
/-- 0xA200.01 LnCorrected. -/
def lnCorrected (i : Nat) : Nat := key (0xA200 + i) 0x1 0
/-- 0xA200.02 LnUncorrectable. -/
def lnUncorrectable (i : Nat) : Nat := key (0xA200 + i) 0x2 0
/-- 0xA200.03 LnBadHeaders. -/
def lnBadHeaders (i : Nat) : Nat := key (0xA200 + i) 0x3 0
/-- 0xA200.04 LnMarkerErrors. -/
def lnMarkerErrors (i : Nat) : Nat := key (0xA200 + i) 0x4 0
/-- 0xA200.05 LnDefects. -/
def lnDefects (i : Nat) : Nat := key (0xA200 + i) 0x5 0
/-- 0xA220.01 FpFramesTx. -/
def fpFramesTx (i : Nat) : Nat := key (0xA220 + i) 0x1 0
/-- 0xA220.02 FpFramesRx. -/
def fpFramesRx (i : Nat) : Nat := key (0xA220 + i) 0x2 0
/-- 0xA220.03 FpCrcErrors. -/
def fpCrcErrors (i : Nat) : Nat := key (0xA220 + i) 0x3 0
/-- 0xA220.04 FpIdleDeleted. -/
def fpIdleDeleted (i : Nat) : Nat := key (0xA220 + i) 0x4 0
/-- 0xA220.05 FpCreditStall. -/
def fpCreditStall (i : Nat) (j : Nat) : Nat := key (0xA220 + i) (0x5 + j) 0
/-- 0xA220.09 FpTransitDrop. -/
def fpTransitDrop (i : Nat) : Nat := key (0xA220 + i) 0x9 0
/-- 0xA220.0A FpTtlExpired. -/
def fpTtlExpired (i : Nat) : Nat := key (0xA220 + i) 0xA 0
/-- 0xA220.0B FpNoRoute. -/
def fpNoRoute (i : Nat) : Nat := key (0xA220 + i) 0xB 0
/-- 0xA300.01 PmStart. -/
def pmStart (i : Nat) : Nat := key (0xA300 + i) 0x1 0
/-- 0xA300.02 PmEs. -/
def pmEs (i : Nat) : Nat := key (0xA300 + i) 0x2 0
/-- 0xA300.03 PmSes. -/
def pmSes (i : Nat) : Nat := key (0xA300 + i) 0x3 0
/-- 0xA300.04 PmUas. -/
def pmUas (i : Nat) : Nat := key (0xA300 + i) 0x4 0
/-- 0xA300.05 PmCorrected. -/
def pmCorrected (i : Nat) : Nat := key (0xA300 + i) 0x5 0
/-- 0xA300.06 PmUncorrectable. -/
def pmUncorrectable (i : Nat) : Nat := key (0xA300 + i) 0x6 0
/-- 0xA300.07 PmDefectSeconds. -/
def pmDefectSeconds (i : Nat) : Nat := key (0xA300 + i) 0x7 0
/-- 0xA300.08 PmSuspect. -/
def pmSuspect (i : Nat) : Nat := key (0xA300 + i) 0x8 0
/-- 0xA340.01 PrStart. -/
def prStart (i : Nat) : Nat := key (0xA340 + i) 0x1 0
/-- 0xA340.02 PrEs. -/
def prEs (i : Nat) : Nat := key (0xA340 + i) 0x2 0
/-- 0xA340.03 PrSes. -/
def prSes (i : Nat) : Nat := key (0xA340 + i) 0x3 0
/-- 0xA340.04 PrUas. -/
def prUas (i : Nat) : Nat := key (0xA340 + i) 0x4 0
/-- 0xA340.05 PrCorrected. -/
def prCorrected (i : Nat) : Nat := key (0xA340 + i) 0x5 0
/-- 0xA340.06 PrUncorrectable. -/
def prUncorrectable (i : Nat) : Nat := key (0xA340 + i) 0x6 0
/-- 0xA340.07 PrDefectSeconds. -/
def prDefectSeconds (i : Nat) : Nat := key (0xA340 + i) 0x7 0
/-- 0xA340.08 PrSuspect. -/
def prSuspect (i : Nat) : Nat := key (0xA340 + i) 0x8 0
/-- 0xA500.01 RouteState. -/
def routeState (e : Nat) : Nat := key 0xA500 0x1 e
/-- 0xA500.02 RouteDistance. -/
def routeDistance (e : Nat) : Nat := key 0xA500 0x2 e
/-- 0xA500.03 RoutePorts. -/
def routePorts (e : Nat) : Nat := key 0xA500 0x3 e
/-- 0xA500.04 PathCount. -/
def pathCount (e : Nat) : Nat := key 0xA500 0x4 e
/-- 0xA510.01 DevicesKnown. -/
def devicesKnown : Nat := key 0xA510 0x1 0
/-- 0xA510.02 SpfRuns. -/
def spfRuns : Nat := key 0xA510 0x2 0
/-- 0xA600.01 SrcFdev. -/
def srcFdev (e : Nat) : Nat := key 0xA600 0x1 e
/-- 0xA600.02 SrcKind. -/
def srcKind (e : Nat) : Nat := key 0xA600 0x2 e
/-- 0xA600.03 SrcId. -/
def srcId (e : Nat) : Nat := key 0xA600 0x3 e
/-- 0xA600.04 SrcEntry. -/
def srcEntry (e : Nat) : Nat := key 0xA600 0x4 e
/-- 0xA600.05 FeedState. -/
def feedState (e : Nat) : Nat := key 0xA600 0x5 e
/-- 0xA700.01 JoinState. -/
def joinState (e : Nat) : Nat := key 0xA700 0x1 e
/-- 0xA700.02 JoinRefusals. -/
def joinRefusals (e : Nat) : Nat := key 0xA700 0x2 e
/-- 0xB010.01 TwMode. -/
def twMode : Nat := key 0xB010 0x1 0
/-- 0xB010.02 TwStart. -/
def twStart : Nat := key 0xB010 0x2 0
/-- 0xB010.03 TwPeerSerialCfg. -/
def twPeerSerialCfg : Nat := key 0xB010 0x3 0
/-- 0xB010.04 Thb. -/
def thb : Nat := key 0xB010 0x4 0
/-- 0xB010.05 TwinKek. -/
def twinKek : Nat := key 0xB010 0x5 0
/-- 0xB020.01 TwRole. -/
def twRole : Nat := key 0xB020 0x1 0
/-- 0xB020.02 TwProtected. -/
def twProtected : Nat := key 0xB020 0x2 0
/-- 0xB020.03 TwEpoch. -/
def twEpoch : Nat := key 0xB020 0x3 0
/-- 0xB020.04 TwPeerSerial. -/
def twPeerSerial : Nat := key 0xB020 0x4 0
/-- 0xB020.05 ColdReason. -/
def coldReason : Nat := key 0xB020 0x5 0
/-- 0xB020.06 TimeOffset. -/
def timeOffset : Nat := key 0xB020 0x6 0
/-- 0xB020.07 JseqCommitted. -/
def jseqCommitted : Nat := key 0xB020 0x7 0
/-- 0xB020.08 SyncProgress. -/
def syncProgress : Nat := key 0xB020 0x8 0
/-- 0xB020.09 LastEquinox. -/
def lastEquinox : Nat := key 0xB020 0x9 0
/-- 0xB030.01 Handover. -/
def handover : Nat := key 0xB030 0x1 0
/-- 0xB030.02 Resync. -/
def resync : Nat := key 0xB030 0x2 0
/-- 0xB040.01 HbSilentInband. -/
def hbSilentInband : Nat := key 0xB040 0x1 0
/-- 0xB040.02 HbSilentOob. -/
def hbSilentOob : Nat := key 0xB040 0x2 0
/-- 0xB040.03 JournalEntries. -/
def journalEntries : Nat := key 0xB040 0x3 0
/-- 0xB040.04 JournalResends. -/
def journalResends : Nat := key 0xB040 0x4 0
/-- 0xB040.05 Equinoxes. -/
def equinoxes : Nat := key 0xB040 0x5 0
/-- 0xB040.06 Snapshots. -/
def snapshots : Nat := key 0xB040 0x6 0
/-- 0xC010.01 TimeOfDay. -/
def timeOfDay : Nat := key 0xC010 0x1 0
/-- 0xC010.02 ServoState. -/
def servoState : Nat := key 0xC010 0x2 0
/-- 0xC010.03 TmOffset. -/
def tmOffset : Nat := key 0xC010 0x3 0
/-- 0xC010.04 FreqAdj. -/
def freqAdj : Nat := key 0xC010 0x4 0
/-- 0xC010.05 TmMaster. -/
def tmMaster : Nat := key 0xC010 0x5 0
/-- 0xC010.06 UtcOffset. -/
def utcOffset : Nat := key 0xC010 0x6 0
/-- 0xC020.01 PtpEnable. -/
def ptpEnable : Nat := key 0xC020 0x1 0
/-- 0xC020.02 PtpPort. -/
def ptpPort : Nat := key 0xC020 0x2 0
/-- 0xC020.03 PtpDomain. -/
def ptpDomain : Nat := key 0xC020 0x3 0
/-- 0xC020.04 PtpMacDest. -/
def ptpMacDest : Nat := key 0xC020 0x4 0
/-- 0xC020.05 PtpLocalPriority. -/
def ptpLocalPriority : Nat := key 0xC020 0x5 0
/-- 0xC020.06 SlewLimit. -/
def slewLimit : Nat := key 0xC020 0x6 0
/-- 0xC020.07 MaxSlew. -/
def maxSlew : Nat := key 0xC020 0x7 0
/-- 0xC020.08 TcEnable. -/
def tcEnable : Nat := key 0xC020 0x8 0
/-- 0xC020.09 SyncIn. -/
def syncIn : Nat := key 0xC020 0x9 0
/-- 0xC020.0A PtpSource. -/
def ptpSource : Nat := key 0xC020 0xA 0
/-- 0xC030.01 Asymmetry. -/
def asymmetry (j : Nat) : Nat := key 0xC030 (0x1 + j) 0
/-- 0xC040.00 TimestampRing. -/
def timestampRing : Nat := key 0xC040 0x0 0
/-- 0xC050.00 HostTod. -/
def hostTod : Nat := key 0xC050 0x0 0
/-- 0xC100.01 PulseMode. -/
def pulseMode (i : Nat) : Nat := key (0xC100 + i) 0x1 0
/-- 0xC100.02 PulseStart. -/
def pulseStart (i : Nat) : Nat := key (0xC100 + i) 0x2 0
/-- 0xC100.03 PulsePeriod. -/
def pulsePeriod (i : Nat) : Nat := key (0xC100 + i) 0x3 0
/-- 0xC100.04 PulseWidth. -/
def pulseWidth (i : Nat) : Nat := key (0xC100 + i) 0x4 0
/-- 0xC100.05 PulsePolarity. -/
def pulsePolarity (i : Nat) : Nat := key (0xC100 + i) 0x5 0
/-- 0xC100.06 PulseReport. -/
def pulseReport (i : Nat) : Nat := key (0xC100 + i) 0x6 0
/-- 0xC100.07 PulseEmitted. -/
def pulseEmitted (i : Nat) : Nat := key (0xC100 + i) 0x7 0
/-- 0xC100.08 PulseSkipped. -/
def pulseSkipped (i : Nat) : Nat := key (0xC100 + i) 0x8 0
/-- 0xC200.01 TimeCounter. -/
def timeCounter (j : Nat) : Nat := key 0xC200 (0x1 + j) 0
/-- 0xD010.01 SeasonNow. -/
def seasonNow : Nat := key 0xD010 0x1 0
/-- 0xD010.02 WakeCause. -/
def wakeCause : Nat := key 0xD010 0x2 0
/-- 0xD010.03 LastThaw. -/
def lastThaw : Nat := key 0xD010 0x3 0
/-- 0xD010.04 Junction. -/
def junction : Nat := key 0xD010 0x4 0
/-- 0xD010.05 ThrottleLevel. -/
def throttleLevel : Nat := key 0xD010 0x5 0
/-- 0xD010.06 ThrottleMs. -/
def throttleMs : Nat := key 0xD010 0x6 0
/-- 0xD020.01 Target. -/
def target : Nat := key 0xD020 0x1 0
/-- 0xD020.02 SummerHold. -/
def summerHold : Nat := key 0xD020 0x2 0
/-- 0xD020.03 WakeSources. -/
def wakeSources : Nat := key 0xD020 0x3 0
/-- 0xD020.04 WakeAfter. -/
def wakeAfter : Nat := key 0xD020 0x4 0
/-- 0xD020.05 AutumnLimit. -/
def autumnLimit : Nat := key 0xD020 0x5 0
/-- 0xD030.01 ThrottleStart. -/
def throttleStart : Nat := key 0xD030 0x1 0
/-- 0xD030.02 ThrottleStop. -/
def throttleStop : Nat := key 0xD030 0x2 0
/-- 0xD030.03 ChassisTemp. -/
def chassisTemp : Nat := key 0xD030 0x3 0
/-- 0xD040.00 SeasonScripts. -/
def seasonScripts : Nat := key 0xD040 0x0 0
/-- 0xD041.00 ScriptVersion. -/
def scriptVersion : Nat := key 0xD041 0x0 0
/-- 0xE010.01 LogHead. -/
def logHead : Nat := key 0xE010 0x1 0
/-- 0xE010.02 LogCount. -/
def logCount : Nat := key 0xE010 0x2 0
/-- 0xE010.03 LogDropped. -/
def logDropped (j : Nat) : Nat := key 0xE010 (0x3 + j) 0
/-- 0xE010.08 Nested. -/
def nested : Nat := key 0xE010 0x8 0
/-- 0xE010.09 EventIrqThreshold. -/
def eventIrqThreshold : Nat := key 0xE010 0x9 0
/-- 0xE010.0A EventRing. -/
def eventRing : Nat := key 0xE010 0xA 0
/-- 0xE020.01 LogSelect. -/
def logSelect : Nat := key 0xE020 0x1 0
/-- 0xE020.02 LogEntry. -/
def logEntry : Nat := key 0xE020 0x2 0
/-- 0xE030.01 ResetKind. -/
def resetKind : Nat := key 0xE030 0x1 0
/-- 0xE030.02 ResetCode. -/
def resetCode : Nat := key 0xE030 0x2 0
/-- 0xE030.03 ResetNested. -/
def resetNested : Nat := key 0xE030 0x3 0
/-- 0xE030.04 ResetTime. -/
def resetTime : Nat := key 0xE030 0x4 0
/-- 0xE040.01 DtpRequests. -/
def dtpRequests : Nat := key 0xE040 0x1 0
/-- 0xE040.02 DtpDropped. -/
def dtpDropped : Nat := key 0xE040 0x2 0
/-- 0xE040.03 DtpResent. -/
def dtpResent : Nat := key 0xE040 0x3 0
/-- 0xE040.04 DtpBusy. -/
def dtpBusy : Nat := key 0xE040 0x4 0
/-- 0xE050.01 WatchdogPeriod. -/
def watchdogPeriod : Nat := key 0xE050 0x1 0
/-- 0xE050.02 WatchdogWarnings. -/
def watchdogWarnings : Nat := key 0xE050 0x2 0
/-- 0xE060.01 ScanKind. -/
def scanKind : Nat := key 0xE060 0x1 0
/-- 0xE060.02 ScanStart. -/
def scanStart : Nat := key 0xE060 0x2 0
/-- 0xE060.03 ScanLength. -/
def scanLength : Nat := key 0xE060 0x3 0
/-- 0xE060.04 ScanMemory. -/
def scanMemory : Nat := key 0xE060 0x4 0
/-- 0xE060.05 WidePoly. -/
def widePoly : Nat := key 0xE060 0x5 0
/-- 0xE060.06 WideWidth. -/
def wideWidth : Nat := key 0xE060 0x6 0
/-- 0xE060.07 WideInitXor. -/
def wideInitXor (j : Nat) : Nat := key 0xE060 (0x7 + j) 0
/-- 0xE060.09 WideReflect. -/
def wideReflect : Nat := key 0xE060 0x9 0
/-- 0xE060.0A ScanGo. -/
def scanGo : Nat := key 0xE060 0xA 0
/-- 0xE060.0B ScanState. -/
def scanState : Nat := key 0xE060 0xB 0
/-- 0xE060.0C ScanResult. -/
def scanResult : Nat := key 0xE060 0xC 0
/-- 0xE060.0D ImageChecksFailed. -/
def imageChecksFailed : Nat := key 0xE060 0xD 0

end Obj

end Sys2Proof.Machine
end

