-- ==== Sys2Proof/Machine/State.lean ====
section
/-! DEFINITION. The state of the block as plain data: every register, table, buffer, counter, mode and pin the manual
gives it, and the queue of waiting commands. -/

namespace Sys2Proof.Machine

/-- The reasons the block could stop with a fault: the manual describes none, so there is none. Faults it does describe
(core faults, DMA faults, events) are effects on State. -/
inductive Fault
deriving DecidableEq, Repr

/-- The reasons a command could be refused. -/
inductive Refusal
  /-- Raised by an arm of `exec` whose command has no meaning yet; safe: the run stops. -/
  | notModelled (mnemonic : String)
deriving DecidableEq, Repr

/-- The seasons of Table 17.1, in their code order. -/
inductive Season | midwinter | winter | spring | summer | autumn
deriving DecidableEq, Repr

/-- Twin roles in the code order of DEV_STATUS (Table 3.3). -/
inductive Role | solo | active | standby | cold
deriving DecidableEq, Repr

/-- The principals of R15. -/
inductive Principal | host | operator | peer | firmware
deriving DecidableEq, Repr

/-- A handler of R424: running, paused or queued. `args` are the ARG0 values of its queue entry, `all` that a 33rd
arrived. -/
structure Handler where
  code : Nat
  severity : Nat
  seq : Nat
  args : List Nat
  all : Bool
deriving DecidableEq, Repr

/-- The always-on event log and the handlers (R421 to R424). `running` holds the running handler first, then the paused
ones; `rate` the monotonic instants of the last raises of rate-limited events. -/
structure Events where
  log : List EventRec
  nextSeq : Nat
  running : List Handler
  queued : List Handler
  fatal : Option Nat
  rate : List (Nat × Nat)
deriving DecidableEq, Repr

/-- A response or NOTIFY message before it is laid out for its transport (Tables 2.5 and 2.13). -/
structure Resp where
  op : Nat
  words : Nat
  flags : Nat
  tag : Nat
  word1 : Nat
  group : Nat
  element : Nat
  abort : Nat
  data : Nat
deriving DecidableEq, Repr

/-- The registers of one mailbox (Table 3.4); `waiting` and `notify` are the response slot and the NOTIFY queue of R80,
used on the device-to-host side. -/
structure Mailbox where
  msg : List Word
  go : Bool
  drop : Nat
  waiting : Option Resp
  notify : List Resp
deriving DecidableEq, Repr

/-- An MSI-X table entry and its PBA bit, which is set while `owed` names a source whose message the masked vector owes (R84). -/
structure MsixEntry where
  addrLo : Word
  addrHi : Word
  data : Word
  masked : Bool
  owed : List Nat
deriving DecidableEq, Repr

/-- An INDIRECT transfer in progress (R43, R70): its host address; a READ's value and octets as of its taking (R48); the monotonic
instant of its first host read. -/
structure Xfer where
  chan : Chan
  req : Req
  principal : Principal
  isRead : Bool
  addr : Nat
  data : Payload
  octets : Nat
  since : Nat
deriving DecidableEq, Repr

/-- The function's configuration registers (Table 3.1, R69, R79): Command, the bases of BAR0 and BAR2, MSI-X Function Mask, the AER
Uncorrectable Error Status, Mask and Severity registers and Header Log, the PCI-PM power state. -/
structure PciConfig where
  command : Word
  bar0 : Nat
  bar2 : Nat
  functionMask : Bool
  aerStatus : Word
  aerMask : Word
  aerSeverity : Word
  aerHeader : List Word
  power : Nat
deriving DecidableEq, Repr

/-- The PCIe host interface: mailboxes, status registers, MSI-X, configuration registers (Tables 3.1 to 3.6, R68 to R84).
`aerCompleterAborts` counts the Completer Aborts recorded (the model's own field); `held` are the items that a back-pressure host ring
has no room for and that their producers hold (R92): ring, length, item. -/
structure HostIf where
  h2d : List (Nat × Mailbox)
  d2h : List (Nat × Mailbox)
  unmapped : Nat
  bar2Denied : Nat
  scratch : Word
  irqCause : Word
  irqEnable : Word
  dmaErrAddr : Nat
  dmaErrCause : Word
  flrDone : Bool
  msixEnable : Bool
  msix : List (Nat × MsixEntry)
  xfers : List Xfer
  aerCompleterAborts : Nat
  cfg : PciConfig
  held : List (Nat × Nat × Item)
deriving DecidableEq, Repr

/-- A staged write of a group (R51, R52). -/
structure Staged where
  req : Req
  data : Payload
deriving DecidableEq, Repr

/-- An open group (R51). -/
structure Group where
  num : Nat
  chan : Chan
  session : Option Nat
  writes : List Staged
  octets : Nat
  lastUse : Nat
deriving DecidableEq, Repr

/-- An OPERATOR session bound to a channel (R38). -/
structure OpSession where
  id : Nat
  chan : Chan
deriving DecidableEq, Repr

/-- A session of the Dictionary Transport Protocol (R45, R46, R409). -/
structure DtpSession where
  id : Nat
  nonce : Nat
  key : Nat
  opened : Bool
  since : Nat
  frags : List (Nat × List Nat)
  kept : List (Nat × Resp)
  executing : Nat
deriving DecidableEq, Repr

/-- A STILL or GRAPHIC image copied at a commit's acceptance (R248, R254): its source address, size, whether it carries alpha,
the octets of its tiles that are not 0, by their place after the header, and those of its alpha plane, by tile × 4,096 + position. -/
structure ImgCopy where
  addr : Nat
  width : Nat
  height : Nat
  alpha : Bool
  body : List (Nat × Nat)
  plane : List (Nat × Nat)
deriving DecidableEq, Repr

/-- A write or commit whose effect waits for a mix-frame boundary or a Solstice tick (R53 to R57): the instant in
nanoseconds of TimeOfDay, the settings it makes active, the canvas sets it commits, the image copies it brings, the memory
allocated for it (partition, octets), the commit a NOTIFY answers with its DTP sequence number, and the writes
of the same group (key, length, value) that go through their object's own rules at the instant. -/
structure Deferred where
  due : Nat
  isTick : Bool
  writes : List (Nat × Payload)
  csets : List Nat
  images : List (Nat × ImgCopy)
  alloc : List (Nat × Nat)
  notify : Option (Chan × Req × Nat)
  others : List (Nat × Nat × Payload)
deriving DecidableEq, Repr

/-- The control cluster's state beside the dictionary's values: groups, sessions, deferred effects, held token
signatures, nonces (R38, R45, R51, R53 to R57, R407 to R409). -/
structure Control where
  groups : List Group
  freeGroups : List Nat
  sessions : List OpSession
  nextSession : Nat
  dtp : List DtpSession
  nextDtp : Nat
  deferred : List Deferred
  tokenSigs : List (Chan × TokenSig)
  nonces : List (Nat × Nat)
deriving DecidableEq, Repr

/-- The two kinds of hardware queue, in the code order of QueueState.Kind (Table 3.13). -/
inductive QKind | backPressure | overwriteOldest
deriving DecidableEq, Repr

/-- An item in a hardware queue: where it starts (granule pointer modulo twice the capacity), the granules it occupies,
its length word's LEN, GEN and PAD (Table 3.9), and what it carries. -/
structure QItem where
  start : Nat
  gran : Nat
  len : Nat
  gen : Nat
  pad : Bool
  body : Item
deriving DecidableEq, Repr

/-- A hardware queue (R85 to R98). Pointers count granules modulo twice the capacity. `open` is the reservation that is
not closed yet (its length in octets), `flushedOpen` that a flush took it and the producer has not been told, `copying`
the item a consumer has begun to copy, `overrun` that a producer has overwritten it since (R94). -/
structure Queue where
  kind : QKind
  cap : Nat
  rptr : Nat
  wptr : Nat
  items : List QItem
  resv : Option Nat
  flushedOpen : Bool
  copying : Option QItem
  overrun : Bool
  gen : Nat
  lost : Nat
  flushed : Nat
  torn : Nat
  wmLevel : Nat
  above : Bool
  crossed : Bool
  wmCount : Nat
  allocated : Bool
deriving DecidableEq, Repr

/-- The registers of one host ring beside its queue (Tables 3.10 to 3.12): `doorbell` is the last value written since the
ring was enabled, `latched` a value written in WINTER, `hostPtr` the host's read pointer last written, `unreported` the
items written since the last doorbell write, `bad` that a doorbell value was malformed, `readAt` the earliest instant at which the
present host read of the ring can have started. -/
structure Ring where
  baseLo : Word
  baseHi : Word
  enable : Bool
  dirD2h : Bool
  modeOverwrite : Bool
  log2 : Nat
  vector : Nat
  error : Bool
  wmIe : Bool
  doorbell : Nat
  latched : Option Nat
  hostPtr : Nat
  unreported : Nat
  bad : Bool
  readAt : Nat
deriving DecidableEq, Repr

/-- Answers to a reservation or a close (R86, R87, R92, R96). -/
inductive Reserve | ok | full | tooLong | flushed
deriving DecidableEq, Repr

/-- What the block sends out: completions of host accesses, interrupt messages, frames, symbols, resets. -/
inductive Out
  | hostRead (data : Word)
  | hostReadOctets (octets : List Byte)
  | memData (src addr data : Nat) (poisoned : Bool)
  | hostPoisoned (octets : Nat)
  | pcieError (fatal : Bool)
  | busError (mailbox : Nat)
  | completerAbort
  | pmeToAck
  | reserve (q : Nat) (answer : Reserve)
  | msix (vector : Nat) (addr : Nat) (data : Word)
  | dtp (session seq flags datalen : Nat) (r : Resp) (key : Nat)
  | dtpChallenge (session nonce : Nat)
  | dtpSigAck (session fragment : Nat)
  | dtpRefuse
  | hostWrite (addr : Nat) (data : Payload)
  | bootNeed (cls maxLen abort : Nat)
  | completion (src w0 w1 cycles result : Nat)
  | posted (src : Nat) (handle : Option Nat)
  | hbSymbol (code : Nat) (act armed : Bool)
  | fabric (port : Nat) (f : FabFrame)
  | ptpDelayReq (port dest domain seq : Nat) (epoch : Option Nat)
  | ptpRelay (port kind : Nat) (residence : Nat) (epoch : Option Nat)
  | pulse (tp at_ level width : Nat)
  | credit (port : Nat) (counts : List Nat) (rdi : Bool)
  | frame (port : Nat) (leg : Nat) (epoch : Option Nat) (p : OutPkt)
  | jtagNonce (nonce : Nat)
  | jtagResult (abort : Nat)
deriving DecidableEq, Repr

/-- A filled slot of an audio jitter buffer (R116, R118). -/
structure JbSlot where
  seq : Nat
  ts : Nat
  audio : AudioData
deriving DecidableEq, Repr

/-- A packet of a video byte ring (R120). -/
structure VidPkt where
  seq : Nat
  ts : Nat
  marker : Bool
  key : Bool
  octets : Nat
  layer : LayerInfo
  video : Option PicFacts
  at_ : Nat
deriving DecidableEq, Repr

/-- A gap in a video stream under NACK (R121): the missing extended sequence number, when it was seen, the requests made. -/
structure Gap where
  seq : Nat
  seen : Nat
  asked : Nat
  last : Nat
deriving DecidableEq, Repr

/-- Run-time state of one receive entry: its extended sequence numbers, replay and SRTCP state, interarrival jitter,
jitter-buffer slots, video ring and gaps, sender report mapping (R118 to R121, R123, R138, R146). -/
structure RxEntry where
  started : Bool
  highest : Nat
  base : Nat
  received : Nat
  priorExpected : Nat
  priorReceived : Nat
  roc : Nat
  seen : List Nat
  floor : Nat
  srtcpHighest : Nat
  srtcpSeen : List Nat
  transit : Int
  jitter : Nat
  lastSrNtp : Nat
  lastSrRtp : Nat
  lastSrAt : Nat
  slots : List (Nat × JbSlot)
  video : List VidPkt
  posted : List Nat
  gaps : List Gap
  exhausted : Bool
  srtcpExhausted : Bool
  journaled : Option Nat
deriving DecidableEq, Repr

/-- Run-time state of one send entry: its 48-bit index, SRTCP index, reserved window, held packets, sender counts, and
the packets kept for NACK answers (R146, R147, R291). -/
structure TxEntry where
  index : Nat
  srtcpIndex : Nat
  window : Option Nat
  reserving : Option (Nat × Nat)
  held : List OutPkt
  packets : Nat
  octets : Nat
  sent : List OutPkt
  lastTs : Nat
  exhausted : Bool
  srtcpExhausted : Bool
  offset : Nat
  mark : Bool
deriving DecidableEq, Repr

/-- A linear ramp of a gain with 20 fractional bits (R208): `at_` of `total` samples done. -/
structure Gain where
  from_ : Nat
  to_ : Nat
  at_ : Nat
  total : Nat
deriving DecidableEq, Repr

/-- What a listen path hears (R209). -/
inductive PathSrc | conf (c : Nat) | localMix | promptsOnly | silent
deriving DecidableEq, Repr

/-- One of a leg's up to three crossfaded paths. -/
structure Path where
  src : PathSrc
  gain : Gain
deriving DecidableEq, Repr

/-- A clip being played (R125, R211). -/
structure Clip where
  isConf : Bool
  target : Nat
  clip : Nat
  ring : Nat
  gain : Nat
  loops : Nat
  start : Nat
  complete : Bool
  samples : List Int
  pos : Nat
  stop : Option (Nat × Nat)
  fade : Option Gain
deriving DecidableEq, Repr

/-- The life of a leg (Table 4.1). -/
inductive LegStage | free | registered | active | releasing
deriving DecidableEq, Repr

/-- Run-time state of one leg beside its objects. `turn` holds the accepted transitions that wait for
their boundaries, in order. `level`
is the smoothed level L in tenths of a decibel, `hang` the monotonic instant until which hangover holds, `jbMode` the jitter Mode in
force since the last depth adjustment (R117), `blocks` the last report block of each reporting SSRC (R123). -/
structure LegRt where
  stage : LegStage
  turn : List (Nat × LegStage)
  egressQ : Option Nat
  live : Bool
  charge : Nat
  jbOctets : Nat
  lastRx : Nat
  rtcpDue : Nat
  mapped : Bool
  mapTs : Nat
  mapFrame : Nat
  playUntil : Nat
  nextSeq : Nat
  depth : Nat
  nextDepth : Nat
  silentFrame : Bool
  secondHalf : Option (List Int)
  lossRun : Nat
  level : Int
  hang : Nat
  vad : Bool
  weight : Gain
  outGain : Gain
  duck : Gain
  g : Gain
  n : Nat
  paths : List Path
  inputFrame : Nat
  input : List Int
  inputLevel : Int
  rawInput : List Int
  mixIn : List Int
  localIn : List Int
  contributor : Bool
  term : List Int
  counts : Bool
  outHold : List Int
  output : List Int
  outputClipped : Bool
  nextAdjust : Nat
  keyMissRx : Bool
  keyMissTx : Bool
  txTwcc : Nat
  twccHistory : List (Nat × Nat × Nat)
  remb : Option Nat
  refs : Nat
  jbMode : Nat
  blocks : List (Nat × ReportBlock)
deriving DecidableEq, Repr

/-- An entry of the classifier table (R111): its key, the bucket it sits in, and whose it is. -/
structure ClsEntry where
  key : Nat
  bucket : Nat
  leg : Nat
  entry : Nat
  live : Bool
deriving DecidableEq, Repr

/-- A frame waiting in a port's ingress FIFO. -/
structure Waiting where
  port : Nat
  frame : Frame
  stamp : Nat
  mono : Nat
deriving DecidableEq, Repr

/-- What a request to the cipher complex works on (R132). -/
inductive CipherJob
  | rxRtp (leg entry : Nat) (p : Rtp) (arrival : Nat)
  | rxRtcp (leg entry : Nat) (p : Rtcp) (arrival : Nat)
  | tx (p : OutPkt)
  | sector (ring : Nat) (r : Sector) (tap : Nat)
deriving DecidableEq, Repr

/-- A request to the cipher complex (R132): its number, class and context, its work, whether it was dispatched once already after a
mismatch (R152), and whether it is the trial of a received packet under RxKslotAlt (R145). -/
structure CipherReq where
  id : Nat
  cls : Nat
  ctx : Nat
  job : CipherJob
  retried : Bool
  alt : Bool := false
deriving DecidableEq, Repr

/-- A request on a core (R142): the slot it uses, the copy of the slot's material, suite and Gen taken at dispatch, and the fault check in
force then, 0 DOUBLE or 1 INVERSE (R151). -/
structure CipherRun where
  req : CipherReq
  slot : Nat
  material : Nat
  suite : Nat
  gen : Nat
  check : Nat
deriving DecidableEq, Repr

/-- A cipher core: retired, and the request it runs. -/
structure CipherCore where
  retired : Bool
  job : Option CipherRun
deriving DecidableEq, Repr

/-- A recorded sector range of a slot's epoch (R150), with the taps whose sectors it holds. -/
structure XtsRange where
  slot : Nat
  gen : Nat
  first : Nat
  next : Nat
  owners : List Nat
deriving DecidableEq, Repr

/-- A running recording tap (R126, R212). -/
structure Tap where
  isLeg : Bool
  id : Nat
  ring : Nat
  slot : Nat
  base : Nat
  k : Nat
  startFrame : Nat
  source : Nat
  buf : List (Nat × List Int)
  clipped : Bool
deriving DecidableEq, Repr

/-- The leg engine and the cipher complex. -/
structure LegEngine where
  legs : List (Nat × LegRt)
  rx : List (Nat × RxEntry)
  tx : List (Nat × TxEntry)
  table : List ClsEntry
  fifo : List Waiting
  fifoOctets : List (Nat × Nat)
  shipped : Bool
  classifier : Option Image
  exceptionTokens : Nat
  exceptionAt : Nat
  clips : List Clip
  seed : Nat
  frame : Nat
deriving DecidableEq, Repr

structure Cipher where
  material : List (Nat × Nat)
  waiting : List CipherReq
  cores : List (Nat × CipherCore)
  nextId : Nat
  lastWasRx : Bool
  sinceBulk : Nat
  ranges : List XtsRange
  taps : List Tap
  formed : List OutPkt
deriving DecidableEq, Repr

/-- Where a work item is (Table 6.3); `record` is an item that ended and whose completion record waits for room. -/
inductive ItemPlace
  | parked | ready | staged (core : Nat) | running (core : Nat) | record (w0 w1 cycles result : Nat)
deriving DecidableEq, Repr

/-- What a decode item is handed at its boundary (R119, R199): a packet's audio, nothing because the packet of the frame before
covers it, or an empty indication; `pending` while the post is not accepted. -/
inductive Hand | packet (a : AudioData) | second | empty | pending
deriving DecidableEq, Repr

/-- What the leg engine's items do: decode, mix or encode of a mix frame; other items run their program. -/
inductive Job | decode (frame : Nat) (hand : Hand) | mix (frame : Nat) | encode (frame : Nat) | trellis (rctx row : Nat) | other
deriving DecidableEq, Repr

/-- An accepted work item: its descriptor, handle, source, the class values in force at its acceptance, and its place. `started` is the
order of its staging and then, in CLK_DSP units, its start; `buf` the item buffer it is staged in (R181), `cls` the memory class of its
prefetch (R162); `ended` its status and RESULT once it has ended on its core (R184). -/
structure WorkItem where
  wi : Nat
  src : Nat
  desc : Descriptor
  job : Job
  prio : Nat
  limit : Nat
  runLimit : Nat
  mask : Nat
  prefetch : Nat
  cls : Nat
  accepted : Nat
  order : Nat
  place : ItemPlace
  ended : Option (Nat × Nat)
  started : Nat
  buf : Nat
deriving DecidableEq, Repr

/-- A post a source holds while the dispatcher answers FULL (R170). -/
structure HeldPost where
  src : Nat
  desc : Descriptor
  job : Job
deriving DecidableEq, Repr

/-- The dispatcher (spec/06). `flows` is the flow table (R160), the entry used last first: a flow and one more than its LAST_CORE, 0
before its first; `hist` holds the live wait histograms; `noCore` the flow types whose DISPATCH_NO_CORE condition holds; `owed` the
REFUSED records of SRC 3 that wait for room in their CQ, each with its flow (R158, R168); `retired` the cores retired for ECC (R191);
`clkUnits` the thirty-seconds of a CLK_DSP cycle counted up to `clkAt` (R393); `busy` what each core has spent running items since the
latch at `latchUnits` (R172). -/
structure Dispatcher where
  items : List WorkItem
  nextOrder : Nat
  flows : List (Nat × Nat)
  held : List HeldPost
  hist : List (Nat × Nat)
  noCore : List Nat
  owed : List (Nat × Nat)
  retired : List Nat
  clkAt : Nat
  clkUnits : Nat
  busy : List (Nat × Nat)
  latchUnits : Nat
deriving DecidableEq, Repr

/-- A core's DMA transfer (R184): local word address, HBM octet address, words, direction, memory class. -/
structure CoreDma where
  loc : Nat
  hbm : Nat
  words : Nat
  write : Bool
  cls : Nat
deriving DecidableEq, Repr

/-- The registers an instruction reads and writes (Table 7.1), each bank by register number. `late` holds the results not
yet readable by every bundle (R185): register code, the bundle from which they are, the value before. -/
structure Regs where
  d : List (Nat × BitVec 24)
  ac : List (Nat × BitVec 56)
  p : List (Nat × BitVec 24)
  b : List (Nat × BitVec 24)
  l : List (Nat × BitVec 24)
  m : List (Nat × BitVec 24)
  lc : List (Nat × BitVec 24)
  ls : List (Nat × BitVec 20)
  le : List (Nat × BitVec 20)
  dr : BitVec 32
  status : BitVec 32
  mode : BitVec 32
  ira : BitVec 20
  istat : BitVec 32
  tcmp : BitVec 32
  late : List (Nat × Nat × Nat)
deriving DecidableEq, Repr

/-- An open bundle (R191): registers, address and CYC at its start, and what its instructions do when it completes: stores by word
address, a DMA transfer, the RESULT of an END; `banks` are the banks it has accessed (R182). -/
structure Bundle where
  regs : Regs
  pc : BitVec 20
  cyc : Nat
  stores : List (Nat × BitVec 32)
  dma : Option CoreDma
  result : Option Nat
  banks : List Nat
deriving DecidableEq, Repr

/-- A Maten core (spec/07): its registers, the open bundle, the present bundle's address, bundles issued, CYC, local memory by word
address with the three item buffers from 0x8000 on (R181), `win` the buffer mapped at the ITEM window, fault state, handlers in
progress with the innermost first, outstanding DMA, a ninth transfer that stalls, a DMAWAIT that stalls, and in CLK_DSP units since when
the core stalls or waits; `matched` is one more than the CYC up to which TCMP has been compared. -/
structure MatenCore where
  regs : Regs
  start : Option Bundle
  pc : BitVec 20
  bundle : Nat
  cyc : Nat
  mem : List (Nat × BitVec 32)
  win : Nat
  fcause : Nat
  faddr : Nat
  faulted : Bool
  handlers : List IntSource
  halted : Bool
  tmrPending : Bool
  matched : Nat
  dma : List CoreDma
  stall : Option CoreDma
  waitAt : Option Nat
  since : Nat
  branched : Bool
deriving DecidableEq, Repr


/-- The Maten cores, cluster memories and programs. `retiring` holds replaced code that may still run: program, words, and the
acceptance orders of the items that ran when it was replaced. -/
structure Maten where
  cores : List (Nat × MatenCore)
  cluster : List (Nat × BitVec 32)
  programs : List (Nat × Option Image)
  retiring : List (Nat × Nat × List Nat)
deriving DecidableEq, Repr

/-- A remote conference an anchor has joined (R342, R343): its device, its CONF there, when it joined or its last partial
arrived. -/
structure Remote where
  fdev : Nat
  conf : Nat
  heard : Nat
deriving DecidableEq, Repr

/-- Run-time state of a conference (R203 to R215, R342, R343). Members are named as FDEV × 2^17 + LEG. `selected` is the
selected set in descending L, `challenge` since when a member has led the active speaker by Hysteresis, `speakerVoice` when
the active speaker was last voice-active, `frame` and `posted` one more than the last frame mixed and posted, `waiting` the
frame a remote holds for its return, with its own partial. -/
structure ConfRt where
  releasing : Bool
  selected : List Nat
  speaker : Option Nat
  challenge : List (Nat × Nat)
  speakerVoice : Nat
  n : Nat
  g : Gain
  gLocal : Gain
  master : Gain
  frame : Nat
  posted : Nat
  common : List Int
  localCommon : List Int
  partials : List PartialMix
  clipped : Bool
  returnSel : List Nat
  lateRun : Nat
  localMix : Bool
  remotes : List Remote
  joinAt : Option Nat
  refusedRun : Bool
  waiting : Option Nat
  ownPartial : List Int
  ownN : Nat
  prompt : List Int
deriving DecidableEq, Repr

/-- Marks of a reference pool buffer (R227). -/
inductive PoolMark | short | long | outputOnly
deriving DecidableEq, Repr

/-- A pool buffer that is not UNUSED: its mark, its picture's order count, when it was last referenced (a rising count),
whether it waits for output. -/
structure PoolBuf where
  mark : PoolMark
  order : Nat
  used : Nat
  waits : Bool
deriving DecidableEq, Repr

/-- The condition of an output buffer (R236). -/
inductive OutCond | free | written | held
deriving DecidableEq, Repr

/-- An output buffer (R235, R236): the settings it belongs to (counted), its octets, its condition, how many composers read it,
its picture's order count, and the header of Table 9.5: `done` holds the completion instant, `out` the place of its flag in the context's
output order. -/
structure OutBuf where
  gen : Nat
  octets : Nat
  cond : OutCond
  readers : Nat
  order : Nat
  width : Nat
  height : Nat
  ts : Nat
  done : Nat
  flags : Nat
  depth : Nat
  colour : Nat
  seq : Nat
  out : Nat
deriving DecidableEq, Repr

/-- The stages of a decode context (Table 9.3); `closing` is a disabled context that is not quiescent yet. -/
inductive DctxStage | disabled | closing | waitKey | decoding
deriving DecidableEq, Repr

/-- Run-time state of a decode context (R218, R226 to R239): `spatial` and `temporal` are the targets in force, `needKey` an
unserved or persisting key request need, `askAt` one more than the instant of the last request, `prevAt` one more than the
arrival of the last picture, `count` the pictures decoded, `touch` the reference count of R227, `outs` the buffers of each
output, `outCount` the completion flags set. -/
structure DctxRt where
  stage : DctxStage
  charge : Nat
  poolOctets : Nat
  pool : List PoolBuf
  touch : Nat
  count : Nat
  needKey : Bool
  askAt : Nat
  prevAt : Nat
  known : Bool
  spatial : Nat
  temporal : Nat
  outGen : Nat
  outs : List (Nat × OutBuf)
  outCount : Nat
deriving DecidableEq, Repr

/-- The picture a pipe decodes: its context and access unit, when it started and when it ends, its FLAGS, the outputs it
writes, each with the number of its buffer's place; `subst` holds for each missing reference the picture it is decoded with in its place,
none for mid-grey (R228). -/
structure PicJob where
  dctx : Nat
  unit : AccessUnit
  started : Nat
  ends : Nat
  flags : Nat
  writes : List (Nat × Nat)
  broken : Bool
  subst : List (Nat × Option Nat)
deriving DecidableEq, Repr

/-- The video decoder (spec/09). -/
structure VideoDecode where
  ctxs : List (Nat × DctxRt)
  pipes : List (Nat × PicJob)
deriving DecidableEq, Repr

/-- What a layer shows at a tick (R249, R257): nothing yet, a decode output's buffer (context, place), an image copy by its
source address, a colour. -/
inductive LayerPix | none | video (d place : Nat) | image (addr : Nat) | fill (colour : Nat)
deriving DecidableEq, Repr

/-- Where the samples of a composed layer come from (R249): a decoded picture by its context and decode count, an image copy, an
operator image, one colour. -/
inductive PixSrc | none | decoded (d seq : Nat) | image (i : ImgCopy) | operator (i : OpImage) | fill (colour : Nat)
deriving DecidableEq, Repr

/-- Run-time state of a layer (R257), by CANV × 64 + slot: the Source it stands for, the tick its Source became active, the tick
it last took a new picture, the completion instant and output place of that picture, what it shows, and if it took a new picture at the last due tick, what stood in the
three before that, with the source it showed. -/
structure LayRt where
  source : Nat
  since : Nat
  last : Nat
  done : Nat
  seq : Nat
  shown : LayerPix
  before : Option (Nat × Nat × Nat × PixSrc)
deriving DecidableEq, Repr

/-- A layer as it was composed (R247, R249): its slot (63 the protected layer), its rectangle on the canvas, the window's offset in its source, its opacity. -/
structure Piece where
  slot : Nat
  x : Int
  y : Int
  width : Nat
  height : Nat
  srcX : Nat
  srcY : Nat
  opacity : Nat
  src : PixSrc
deriving DecidableEq, Repr

/-- A canvas as it was composed (R243, R244, R249, R252): its size, background and Compression, the tiles composed for it, and its layers
from the bottom up. -/
structure Composed where
  canv : Nat
  width : Nat
  height : Nat
  background : Nat
  compressed : Bool
  tiles : List Nat
  pieces : List Piece
deriving DecidableEq, Repr

/-- A canvas buffer of a set: base with its variants (R245, R252). `old` marks a buffer of an earlier geometry, `holds` the
readers that hold it, `tick` one more than the tick it was composed at, `bands` the bands complete, `analysed` those analysed, `failed` that the set was
written as FillColour. The content is that of the set's canvases, the base first; `units` is their tile table (R244), by CANV × 4,096 +
tile, for the tiles that are written. -/
structure CanvBuf where
  id : Nat
  octets : Nat
  old : Bool
  holds : Nat
  tick : Nat
  bands : Nat
  analysed : Nat
  failed : Bool
  content : List Composed
  units : List (Nat × Nat)
deriving DecidableEq, Repr

/-- Run-time state of a canvas set (R245 to R261): buffers, image copies, the fetch lists of its canvases' tiles
(CANV, tile, slots; slot 63 the protected layer), whether a run of failing operator checks is open, the frame of the last
layout run, the run in progress (its start). -/
structure CsetRt where
  bufs : List CanvBuf
  nextBuf : Nat
  images : List ImgCopy
  lists : List (Nat × Nat × List Nat)
  failing : Bool
  layoutFrame : Nat
  run : Option Nat
deriving DecidableEq, Repr

/-- A composition waiting on or running in a composer: set, tick, buffer, its bands done and in all, its canvases, the decode
outputs it reads (context, place), the layer tiles each canvas fetches and leaves hidden. -/
structure CompJob where
  cset : Nat
  tick : Nat
  buf : Nat
  band : Nat
  total : Nat
  canvs : List Nat
  reads : List (Nat × Nat)
  fetched : List (Nat × Nat × Nat)
deriving DecidableEq, Repr

/-- An operator image's check for a tick (R260): the image, the tick, and the result once it is known. -/
structure OpCheck where
  image : Nat
  tick : Nat
  result : Option Bool
deriving DecidableEq, Repr

/-- The composition unit (spec/10): sets, layers, composers' queues, operator images (with whether their pages are intact),
checks, layout programs, one more than the last tick. -/
structure Composition where
  sets : List (Nat × CsetRt)
  layers : List (Nat × LayRt)
  jobs : List (Nat × List CompJob)
  opImages : List (Nat × OpImage × Bool)
  checks : List OpCheck
  programs : List (Nat × Option Image)
  tick : Nat
deriving DecidableEq, Repr

/-- The decision for an 8 × 8 block (R266): the vector against the previous pass in quarter samples, the partition level (0 for 8 × 8 to
3 for 64 × 64), the intra class (0 DC, 1 planar, 2 to 9 angular), whether the inter cost won, the winning cost. -/
structure Decision where
  vx : Int
  vy : Int
  level : Nat
  intra : Nat
  inter : Bool
  cost : Nat
deriving DecidableEq, Repr

/-- A pass as later passes and the renditions see it (R265, R266): its number in its context, its tick, the canvases analysed, the search
class (whether CONTENT) and range it runs under, whether it decides every block as intra, the global-scroll vector it searches
with, the highest rung of each canvas whose rung pictures it writes, and the decisions by canvas and band, of the blocks in
raster order; none for a block outside a variant's area. -/
structure PassRec where
  number : Nat
  tick : Nat
  content : List Composed
  scrolling : Bool
  range : Nat
  allIntra : Bool
  scroll : Option (Int × Int)
  rungs : List (Nat × Nat)
  bands : List (Nat × Nat × List (Option Decision))
deriving DecidableEq, Repr

/-- Run-time state of an analysis context (R264, R266): enabled, its analysis memory in octets, whether its next pass decides
every block as intra, the passes begun, and their references and decision records: the current and the previous one, and what
renditions still read, newest first. -/
structure ActxRt where
  on : Bool
  octets : Nat
  intraNext : Bool
  passes : Nat
  recs : List PassRec
deriving DecidableEq, Repr

/-- A pass of a front-end (R265): its context, set, tick, buffer, canvases, the bands analysed and in all. -/
structure Pass where
  actx : Nat
  cset : Nat
  tick : Nat
  buf : Nat
  canvs : List Nat
  band : Nat
  total : Nat
deriving DecidableEq, Repr

/-- Stages of a rendition (Table 11.4); `closing` is a disabled rendition that is not quiescent yet. -/
inductive RctxStage | disabled | closing | waitCanvas | running
deriving DecidableEq, Repr

/-- A reference buffer of a rendition's pools (R272, R274), one per layer: picture number, temporal layer, LONG, and the pass the
picture was coded from. -/
structure RefBuf where
  number : Nat
  tid : Nat
  long : Bool
  pass : Nat
deriving DecidableEq, Repr

/-- Run-time state of a rendition (R268 to R278): charges, pool, buffer model F in 1/60 bit and the tick to which it is drained,
Debt, picture count, place in the temporal pattern, references, the requests pending (`askKey` a key picture, `askPli` a PLI
that recovery may serve), whether the present request has been deferred, the instant of the last key or recovery picture, of
the last LONG mark, Lost as last seen, the last QP, the pictures ready or waiting (set, tick, buffer). -/
structure RctxRt where
  stage : RctxStage
  charge : Nat
  trellis : Nat
  poolOctets : Nat
  f60 : Nat
  drained : Option Nat
  debt : Nat
  count : Nat
  pos : Nat
  refs : List RefBuf
  askKey : Bool
  askPli : Bool
  deferred : Bool
  barred : Bool
  lastKey : Option Nat
  periodic : Bool
  lastLtr : Nat
  ltrNext : Bool
  lostSeen : Nat
  lastQp : Nat
  todo : List (Nat × Nat × Nat)
deriving DecidableEq, Repr

/-- The kinds of picture of a rendition. -/
inductive PicKind | inter | key | recovery
deriving DecidableEq, Repr

/-- The trial results of a band (R278): its bits at the program's QP, at MaxQp, and as minimal coding. -/
structure BandBits where
  program : Nat
  maxQp : Nat
  minimal : Nat
deriving DecidableEq, Repr

/-- The rate-control call a back-end waits for (R277). -/
inductive RcCall | start | band | none
deriving DecidableEq, Repr

/-- The picture a back-end codes (R269 to R280): what it codes and when it started, the layers as (rung, width, height), the
next band, bits spent in all and by layer rung, target T, HRD room in 1/60 bit, the program's QP, the rate-control call outstanding, the band whose
trellis item is out (instant of the post, trial bits), flags; the references it predicts from, the blocks coded so far, and
MinQp, MaxQp and TrellisWait as they were at its start (R267). -/
structure BeJob where
  rctx : Nat
  cset : Nat
  tick : Nat
  buf : Nat
  started : Nat
  kind : PicKind
  tid : Nat
  layers : List (Nat × Nat × Nat)
  band : Nat
  spent : Nat
  layerBits : List (Nat × Nat)
  target : Nat
  room60 : Nat
  qp : Nat
  call : RcCall
  trellis : Option (Nat × BandBits)
  minimal : Bool
  fallback : Bool
  refs : List RefBuf
  blocks : List CodedBlock
  qpLow : Nat
  qpHigh : Nat
  wait : Nat
deriving DecidableEq, Repr

/-- The encoder (spec/11): contexts, front-ends' passes, back-ends' pictures, rate-control programs (number 0 is Pyward's). -/
structure Encoder where
  actxs : List (Nat × ActxRt)
  passes : List (Nat × Pass)
  rctxs : List (Nat × RctxRt)
  backs : List (Nat × BeJob)
  programs : List (Nat × Option Image)
  shipped : Bool
deriving DecidableEq, Repr

/-- A token bucket, in units of 1/8,000,000 octet so that a rate in kbit/s fills a whole number per nanosecond: its tokens
at the monotonic instant `at_` (R296, R299). -/
structure Bucket where
  tokens : Nat
  at_ : Nat
deriving DecidableEq, Repr

/-- A leg's shaper (R296, R300): both buckets, its deficit, and whether its present head has had to wait. -/
structure Shaper where
  tc : Bucket
  tp : Bucket
  deficit : Nat
  waited : Bool
deriving DecidableEq, Repr

/-- A LONG picture of a rendition sent on a leg and not yet acknowledged (R274): its send entry, the transport-wide numbers of
its packets not yet reported, the last packet's sequence number, whether one of its packets was asked for again. -/
structure LtrWait where
  rctx : Nat
  number : Nat
  entry : Nat
  twcc : List Nat
  lastSeq : Nat
  nacked : Bool
deriving DecidableEq, Repr

/-- Adaptation state of a leg (R274, R286, R292, R294): acknowledged octets and one-way delays with their times, the loss
fraction in 1/256, the LONG pictures (rendition, number) acknowledged and those sent. -/
structure AdaptRt where
  acks : List (Nat × Nat)
  delays : List (Nat × Int)
  loss : Nat
  ltrAcked : List (Nat × Nat)
  ltrWait : List LtrWait
deriving DecidableEq, Repr

/-- Run-time state of a feed (R285 to R294): the limits in force, the timer of a pending selection, the timestamp mapping, probe, the
feedback calls of the present second and whether feedback waits for one, the octets sent with their times. -/
structure FeedRt where
  maxS : Nat
  maxT : Nat
  stopping : Bool
  pendingAt : Nat
  lastAsk : Nat
  tsOffset : Nat
  lastTs : Nat
  lastAt : Nat
  probe : Nat
  probeUntil : Option Nat
  probeFor : Nat
  probeBad : Bool
  lastMove : Nat
  nextTick : Nat
  calls : List Nat
  fb : Bool
  sentRate : List (Nat × Nat)
deriving DecidableEq, Repr

/-- A received packet that waits for the adaptation unit (R29, R120): its source leg and entry, its arrival. -/
structure Fwd where
  leg : Nat
  entry : Nat
  pkt : Rtp
  at_ : Nat
deriving DecidableEq, Repr

/-- The adaptation unit and the shapers (spec/12): feeds by LEG × 4 + feed, group and port buckets, the loaded
programs (number 0 is Pyward's while `shipped`), packets that wait, the packetised items of the bitstream queues that are
still held (rendition, number, granules), the children served last by ports and groups. -/
structure Adaptation where
  legs : List (Nat × AdaptRt)
  feeds : List (Nat × FeedRt)
  shapers : List (Nat × Shaper)
  groups : List (Nat × Bucket)
  groupDeficit : List (Nat × Nat)
  ports : List (Nat × Bucket)
  programs : List (Nat × Option Image)
  backlog : Bool
  fir : List (Nat × Nat)
  keyAsk : List (Nat × Nat)
  shipped : Bool
  inbox : List Fwd
  kept : List (Nat × Nat × Nat)
  turns : List (Nat × Nat)
  seen : List (Nat × List Nat)
deriving DecidableEq, Repr

/-- A request on its way to a controller or held by one (R18, R307, R308): its class, when it was accepted, whether it was promoted, how often in a row a younger one has
gone ahead of it; for a read the unit's octets as of its acceptance and whether queued writes covered them. -/
structure MemReq where
  op : MemOp
  cls : Nat
  id : Nat
  accepted : Nat
  promoted : Bool
  passed : Nat
  value : Nat
  covered : Bool
deriving DecidableEq, Repr

/-- A bank (R309): the row of the last access plus one, whether it is open, the counter, the last access. -/
structure Bank where
  row : Nat
  isOpen : Bool
  counter : Nat
  at_ : Nat
deriving DecidableEq, Repr

/-- A pseudo-channel's controller: its queues, the requests stalled in its router's virtual channels in order of arrival (R19), whether it drains writes, its banks, accesses and hits since the latch, corrected
errors of the present second (second, count), instants of uncorrectable errors, whether full retraining is due. -/
structure PcCtl where
  reads : List MemReq
  writes : List MemReq
  stalled : List MemReq
  draining : Bool
  banks : List (Nat × Bank)
  accesses : Nat
  hits : Nat
  ces : Nat × Nat
  ues : List Nat
  due : Bool
deriving DecidableEq, Repr

/-- The memory controller (spec/13): partition sizes in force in MiB, octets allocated in each, the pseudo-channels, poisoned units,
channels in training (true: full retraining), the instant of the last update retraining, the patrol scrub's address, which
stacks read 100 °C or more, octets moved by class since the latch. -/
structure MemCtl where
  sizes : List Nat
  used : List (Nat × Nat)
  pcs : List (Nat × PcCtl)
  poison : List Nat
  training : List (Nat × Bool)
  updateAt : Nat
  scrub : Nat
  hot : List Nat
  traffic : List (Nat × Nat)
  nextId : Nat
deriving DecidableEq, Repr

/-- The defects of a lane or port as bits of Table 14.6 (R338, R339): those present now, those that count (a defect from LOS to
LOA counts until it has been absent for DefectHold), since when a counting defect has been absent, the reported one. -/
structure DefectRt where
  raw : Nat
  counted : Nat
  since : List (Nat × Nat)
  reported : Option Nat
deriving DecidableEq, Repr

/-- A block (R323): its 2-bit header and its 128-bit payload, the first octet lowest. -/
structure Block where
  header : Nat
  payload : Nat
deriving DecidableEq, Repr

/-- The transmitter of one lane (R321, R324): the index of its next block modulo 4,096, the scrambler's register, and the bits of
block stream that no codeword holds yet, and the codewords it has sent, newest first (the model's own record). -/
structure LaneTx where
  index : Nat
  scrambler : Nat
  bits : List Bool
  sent : List (List Nat)
deriving DecidableEq, Repr

/-- The receiver of one lane (R322 to R325): signal and CDR, codeword lock with the run of good or bad codewords, block lock with
the run of valid headers and the last 64 headers, marker lock with the run of markers, the run of bad ones and the lane number; the
bits of block stream not taken apart yet, the descrambler's register, the blocks since the last marker or candidate. -/
structure LaneRt where
  los : Bool
  lol : Bool
  cwLock : Bool
  cwRun : Nat
  blkLock : Bool
  blkRun : Nat
  headers : List Bool
  mkLock : Bool
  mkRun : Nat
  mkBad : Nat
  number : Nat
  defects : DefectRt
  bits : List Bool
  descrambler : Nat
  since : Nat
deriving DecidableEq, Repr

/-- Run-time state of a fabric port NQ0 to NQ5, TW (6): its state of Table 14.4; credits per virtual channel (spent, last count
received, freed here), credits freed since the last CREDIT block and its instant, whether a start on the channel waits for
credit, the far end's RDI; the Serial, Fdev and port last heard, the last HELLO received and sent, whether the adjacency is
up; the deficits of VIDEO and BULK; the measured skew; the port's own defects; its lanes' transmitters. -/
structure NqPort where
  stage : Nat
  spent : List Nat
  heard : List Nat
  freed : List Nat
  sinceCredit : Nat
  creditAt : Nat
  stalled : List Bool
  farRdi : Bool
  neighbour : Option (Nat × Nat × Nat)
  helloAt : Nat
  helloSent : Nat
  deficits : Nat × Nat
  skew : Nat
  degraded : List Bool
  defects : DefectRt
  tx : List LaneTx
deriving DecidableEq, Repr

/-- A reliable frame waiting for its ACK (R331): the instant it was last sent and how often it was resent. -/
structure Unacked where
  frame : FabFrame
  sent : Nat
  tries : Nat
deriving DecidableEq, Repr

/-- An advertisement held in the database with the instant it was last refreshed (R334). -/
structure LsaRec where
  lsa : Lsa
  at_ : Nat
deriving DecidableEq, Repr

/-- An advertisement sent on a port and not acknowledged there (R334). -/
structure LsaSent where
  port : Nat
  lsa : Lsa
  sent : Nat
deriving DecidableEq, Repr

/-- A subscription this device serves (R344): the stream (kind, identifier, entry) and the receiving device and leg. -/
structure Sub where
  kind : Nat
  id : Nat
  entry : Nat
  fdev : Nat
  leg : Nat
deriving DecidableEq, Repr

/-- What the present second of a port holds, for DEG and its performance bins (R338, R341). -/
structure PmSecond where
  corrected : Nat
  uncorrectable : Nat
  crc : Nat
  losLoa : Bool
  losDeg : Bool
deriving DecidableEq, Repr

/-- Running performance state of a privileged port (R341): whether unavailable time runs, and the run of seconds that may
begin or end it, each with its start, whether it is an ES and whether it is an SES. -/
structure PmRun where
  unavailable : Bool
  run : List (Nat × Bool × Bool)
deriving DecidableEq, Repr

/-- The fabric unit (spec/14). `live` holds the running values of the lane and port counters, which the counter latch copies
into the objects (R340); `hop` the frames that go one hop on a port; `inbox` the frames received whole, with their port and
arrival, that their consumer has not taken; `sent` counts the frames sent on all ports. -/
structure Fabric where
  ports : List (Nat × NqPort)
  lanes : List (Nat × LaneRt)
  live : List (Nat × Nat)
  hop : List (Nat × FabFrame)
  inbox : List (Nat × Nat × FabFrame)
  seqs : List (Nat × Nat)
  unacked : List Unacked
  rxNext : List (Nat × Nat)
  rxHeld : List FabFrame
  lsdb : List LsaRec
  lsaSeq : Nat
  lsaAt : Nat
  lsaSent : List LsaSent
  changed : Option Nat
  conflict : Bool
  routes : List (Nat × List Nat)
  subs : List Sub
  seconds : List (Nat × PmSecond)
  pm : List (Nat × PmRun)
  sent : Nat
deriving DecidableEq, Repr

/-- A journal entry the active has sent and that is not acknowledged (R355). -/
structure JSent where
  entry : JEntry
  sent : Nat
  resent : Bool
deriving DecidableEq, Repr

/-- A request of a protected active in the serial order of R354: `last` is the JSEQ of its APPLY entry once it is
journaled, `accept` the instant its boundaries count from, `dtpSeq` its DTP sequence number. -/
structure JReq where
  chan : Chan
  req : Req
  data : Payload
  prin : Principal
  dtpSeq : Nat
  last : Option Nat
  accept : Nat
deriving DecidableEq, Repr

/-- The twin unit (spec/15): whether the device is fenced and since when, the peer's last heartbeat, the instants the two
paths were last heard and whether each silence has been counted, the 250 µs period of the last symbol sent (plus one), the last check of
a device that is COLD for its time, the last liveness pulse, the time exchange, the journal
sent (active), the journal and snapshot stored (standby). -/
structure Twin where
  fenced : Bool
  fenceAt : Nat
  failReport : Bool
  planned : Bool
  takeover : Bool
  disarm : Bool
  peer : Option Heartbeat
  heardIn : Nat
  heardOob : Nat
  silentIn : Bool
  silentOob : Bool
  pulse : Nat
  pulseLost : Bool
  hbSeq : Nat
  prevTx : Nat
  rxSeq : Nat
  rxTime : Nat
  offsets : List Int
  sums : List (Nat × Nat)
  nextJseq : Nat
  sent : List JSent
  requests : List JReq
  ignoreAcks : Bool
  rxNext : Nat
  stored : List JEntry
  snapAsked : Bool
  snapStarted : Option Nat
  snapStored : List JEntry
  snapEnd : Option Nat
  snapRetried : Bool
  kekProof : Bool
  digestAt : Nat
  digest : Nat
  highest : Nat
  mismatch : Bool
  hbSlot : Nat
  recheckAt : Nat
deriving DecidableEq, Repr

/-- An item with a 32-bit timestamp that its ring could not take yet (R368): the ring, the item's length, the instant of its event
on the monotonic clock, and for an exception-ring item its port. -/
structure HeldItem where
  ring : Nat
  len : Nat
  item : Item
  at_ : Nat
  port : Option Nat
deriving DecidableEq, Repr

/-- A master heard on the PTP port (R372): its port identity, its place in the order of the BMCA, the last instants of its
Announces, the currentUtcOffset it announces. -/
structure Foreign where
  identity : Nat
  rank : Nat
  heard : List Nat
  utc : Nat
deriving DecidableEq, Repr

/-- The settings of a pulse (Table 16.4), times in nanoseconds. -/
structure PulseSet where
  mode : Nat
  start : Nat
  period : Nat
  width : Nat
  polarity : Nat
  report : Nat
deriving DecidableEq, Repr

/-- Run-time state of a pulse output (R376, R377): its settings, newest first, each with the instant of TimeOfDay from which edges
follow it; one more than the last edge's instant; the end and level of the last pulse. -/
structure PulseRt where
  regimes : List (Nat × PulseSet)
  last : Nat
  ends : Nat
  low : Bool
deriving DecidableEq, Repr

/-- The time unit (spec/16): held items, record counts by SOURCE, the masters heard, the instants of the last Announce and Sync
from the master and of the last PPS edge, the sequence number and departure of the last Delay_Req and its instant, the last Sync's
t2 - t1, the mean path delay, the run of small offsets, what is left to slew and the fraction of a nanosecond gathered (both in
10^-12 ns), the next PPS edge's second plus one, the pulses, whether the unit runs from REFCLK_SYS although SyncIn is set and since
when SYNC_IN is back. -/
structure TimeUnit where
  hold : List HeldItem
  seqs : List (Nat × Nat)
  masters : List Foreign
  announceAt : Nat
  syncAt : Nat
  ppsAt : Nat
  delayReq : Option (Nat × Nat)
  delayAt : Nat
  delaySeq : Nat
  syncDiff : Int
  pathDelay : Int
  smallRun : Nat
  slew : Int
  frac : Int
  hostSec : Nat
  pulses : List (Nat × PulseRt)
  syncLost : Bool
  syncSince : Option Nat
deriving DecidableEq, Repr

/-- Where the device is between power and READY (R402, R441): without always-on rails; waiting for PWR_OK; sampling the
straps; held in reset by PERST_N; in the boot ROM asking for BOOTSTRAP; in the bootstrap asking for FIRMWARE; running the
dictionary; halted after a fuse fault; stopped after three FATAL resets. -/
inductive BootStage | unpowered | waitPwrOk | straps | heldReset | rom | bootstrap | running | haltedFuse | haltedFatal
deriving DecidableEq, Repr

/-- A dictionary request accepted in SPRING whose effect waits for SUMMER (R384), or taken while a thaw runs (R58). -/
structure HeldReq where
  chan : Chan
  req : Req
  data : Payload
  prin : Principal
  dtpSeq : Nat
deriving DecidableEq, Repr

/-- The power sequencer (spec/17, spec/20): the strap samples; `rising` a rise to SUMMER, `winterEntry` a WINTER entry before its
step 4, `scriptSince` the start of either; `thawFrom` a thaw in progress, `wakeAt` its wake event; `autumnFrom` the season AUTUMN
runs as, since when, and whether AutumnLimit has forced it; `idleSince` the start of SummerHold, `seasonSince` the entry of the
present season; requests that wait for SUMMER; the pins MAIN_PWR_EN, PWR_OK, PERST_N (asserted), SYS_RST_N, WAKE_N; the link in
L2/L3; the clocks; the thermal timers; when PWR_OK fell; the scripts image; the AON times of FATAL resets and AON_RESET_CAUSE; the
image being verified, the firmware and bootstrap that run; whether HBM is trained; the lanes of ETH0 and ETH1 with LOS, and the
Ethernet ports whose transmitter fell back to preset 1; the DTP datagram that woke the device (R389). -/
structure Power where
  boot : BootStage
  straps : List Nat
  rising : Bool
  winterEntry : Bool
  thawFrom : Option Season
  wakeAt : Nat
  autumnFrom : Season
  autumnSince : Nat
  autumnForced : Bool
  idleSince : Nat
  seasonSince : Nat
  held : List HeldReq
  mainPwrEn : Bool
  pwrOk : Bool
  perst : Bool
  sysRst : Bool
  linkL2 : Bool
  wakeN : Bool
  refclk : Bool
  xtal : Bool
  hotSince : Option Nat
  coolSince : Option Nat
  throttleAt : Nat
  shutdownAt : Option Nat
  lossAt : Option Nat
  scriptSince : Nat
  scripts : Option Image
  fatalTimes : List Nat
  resetCause : Nat
  booting : Option Image
  firmware : Option Image
  bootstrapImage : Option Image
  hbmReady : Bool
  ethLos : Nat
  ethPreset : Nat
  kept : Option DtpIn
deriving DecidableEq, Repr

/-- The fuse array's fields that change in service (Table 18.1); thermometer fields as counts. -/
structure Fuses where
  attestBlocks : Nat
  minPrograms : Nat
  minScripts : Nat
  minFirmware : Nat
  seed : Nat
  ownerKek : Nat
  ownerRevoke : Nat
  ownerHash0 : Nat
  ownerHash1 : Nat
  rootRevoke : Nat
  bootPolicy : Nat
  lifecycle : Nat
deriving DecidableEq, Repr

/-- An attestation report held for a channel (Table 18.10): its fields and the leaf it is signed with. -/
structure Report where
  chan : Chan
  leaf : Nat
  serial : Nat
  nonce : Nat
  lifecycle : Nat
  frost : Nat
  debug : Nat
  firmware : Nat
  programs : Nat
  scripts : Nat
  config : Nat
  time : Nat
deriving DecidableEq, Repr

/-- The security state: the fuses, whether HALT, CONTROL or MEMORY has opened since step 2 of the boot flow, the reserved
attestation block and the next leaf in it (held in the always-on domain), the reports; `blowFails` says that a fuse blow of the command in
hand does not read back (the model's own field, false between commands). -/
structure Security where
  fuses : Fuses
  debugEver : Bool
  block : Option Nat
  leaf : Nat
  reports : List Report
  blowFails : Bool
deriving DecidableEq, Repr

/-- A host scan that runs (R429, R433): what it reads and the CRC it computes. -/
structure ScanRun where
  start : Nat
  length : Nat
  width : Nat
  poly : Nat
  init : Nat
  refIn : Bool
  refOut : Bool
  xorOut : Nat
deriving DecidableEq, Repr

/-- Watchdog and integrity checks (spec/19): when the watchdog counter was last restarted (none: stopped), whether it has warned,
the host scan that runs, the Maten programs whose image failed its check, and the instant of the last image checks. -/
structure Integrity where
  wdAt : Option Nat
  wdWarned : Bool
  scan : Option ScanRun
  corrupt : List Nat
  scrubAt : Nat
deriving DecidableEq, Repr

/-- The whole state of the block. -/
structure State where
  /-- The commands that are waiting, first in first out (the block's own queue of this model). -/
  pending : List Instr
  /-- What the block has sent to the outside, newest first (the model's own field). -/
  out : List Out
  /-- The device's monotonic clock, in nanoseconds. -/
  mono : Nat
  /-- TimeOfDay (R365), in nanoseconds. -/
  tod : Nat
  /-- How many free values have been drawn (the model's own field). -/
  draws : Nat
  /-- The season (Table 17.1). -/
  season : Season
  /-- The active values of the dictionary's objects by key, in canonical form. -/
  dict : List (Nat × Nat)
  /-- The shadow copies of TICK-class objects (R54) by key, in canonical form. -/
  shadow : List (Nat × Nat)
  /-- The event log and the handlers. -/
  ev : Events
  /-- The PCIe host interface. -/
  hif : HostIf
  /-- The host rings' registers. -/
  rings : List (Nat × Ring)
  /-- The hardware queues. -/
  queues : List (Nat × Queue)
  /-- The control cluster's groups, sessions and deferred effects. -/
  ctl : Control
  /-- The leg engine (spec/04, spec/08). -/
  le : LegEngine
  /-- The cipher complex and the key store's material (spec/05). -/
  cip : Cipher
  /-- The power sequencer and the boot flow. -/
  pw : Power
  /-- HBM, by octet address; an address not listed reads 0. -/
  mem : List Host.Cell
  /-- The dispatcher. -/
  disp : Dispatcher
  /-- The Maten cores. -/
  mt : Maten
  /-- Fuses, debug and attestation state. -/
  sec : Security
  /-- The conferences' run-time state, by CONF. -/
  conf : List (Nat × ConfRt)
  /-- The adaptation unit and the shapers (spec/12). -/
  ad : Adaptation
  /-- The memory controller (spec/13). -/
  mm : MemCtl
  /-- The twin unit (spec/15). -/
  tw : Twin
  /-- The fabric unit (spec/14). -/
  fb : Fabric
  /-- The last speaker record of each conference, as the composition sequencer received it (R210). -/
  speech : List (Nat × SpeakerRec)
  /-- The decode contexts and pipes (spec/09). -/
  vd : VideoDecode
  /-- The composition unit (spec/10). -/
  cp : Composition
  /-- The encoder (spec/11). -/
  en : Encoder
  /-- The time unit (spec/16). -/
  tm : TimeUnit
  /-- The watchdog and the integrity checks (spec/19). -/
  ig : Integrity
deriving DecidableEq, Repr


/-- The machine right after reset: release of PERST_N with the always-on domain just powered (R391, R402, R441). -/
def State.reset : State where
  pending := []
  out := []
  mono := 0
  tod := 0
  draws := 0
  season := .midwinter
  dict := []
  shadow := []
  ev := ⟨[], 0, [], [], none, []⟩
  hif := ⟨[], [], 0, 0, 0, 0, 0, 0, 0, false, false, [], [], 0, ⟨0, 0, 0, false, 0, 0, 0x462030, [0, 0, 0, 0], 0⟩, []⟩
  rings := []
  queues := []
  ctl := ⟨[], (List.range 64).map (· + 1), [], 1, [], 1, [], [], []⟩
  le := ⟨[], [], [], [], [], [], true, none, 0, 0, [], 0, 0⟩
  cip := ⟨[], [], [], 0, false, 0, [], [], []⟩
  pw := ⟨.waitPwrOk, [], false, false, none, 0, .summer, 0, false, 0, 0, [], true, false, false, false, false, true, true, true, none, none, 0, none, none, 0, none, [], 0, none, none, none, false, 0, 0, none⟩
  mem := []
  disp := ⟨[], 0, [], [], [], [], [], [], 0, 0, [], 0⟩
  mt := ⟨[], [], [], []⟩
  sec := ⟨⟨0, 0, 0, 0, 0, 0, 0, 0, 0, 0, 0, 0⟩, false, none, 0, [], false⟩
  conf := []
  ad := ⟨[], [], [], [], [], [], [], false, [], [], true, [], [], [], []⟩
  mm := ⟨[4096, 1024, 2048, 14336, 16384, 6144, 5120], [], [], [], [], 0, 0, [], [], 0⟩
  tw := ⟨false, 0, false, false, false, false, none, 0, 0, false, false, 0, false, 0, 0, 0, 0, [], [], 1, [], [], false, 1, [], false, none, [], none, false, false, 0, 0, 0, false, 0, 0⟩
  fb := ⟨[], [], [], [], [], [], [], [], [], [], 0, 0, [], none, false, [], [], [], [], 0⟩
  speech := []
  vd := ⟨[], []⟩
  cp := ⟨[], [], [], [], [], [], 0⟩
  en := ⟨[], [], [], [], [], true⟩
  tm := ⟨[], [], [], 0, 0, 0, none, 0, 0, 0, 0, 0, 0, 0, 0, [], false, none⟩
  ig := ⟨none, false, none, [], 0⟩

end Sys2Proof.Machine
end

