-- ==== Sys2Proof/Machine/Queue.lean ====
section
/-! DEFINITION. The hardware queues (R85 to R98): reservation, close, consumption, flush and watermark, as operations on one
queue. -/

namespace Sys2Proof.Machine

/-- A queue that nothing uses. -/
def Queue.empty : Queue := ⟨.backPressure, 0, 0, 0, [], none, false, none, false, 0, 0, 0, 0, 0, false, false, 0, false⟩

/-- A queue of a kind and capacity in granules, just enabled. -/
def Queue.fresh (k : QKind) (cap : Nat) : Queue := { Queue.empty with kind := k, cap := cap, allocated := true }

/-- Granules an item of `len` octets occupies (R86). -/
def granules (len : Nat) : Nat := (len + 63) / 64

/-- Depth: granules from the consumer's pointer to the producer's (R88). -/
def Queue.depth (q : Queue) : Nat := (q.wptr + 2 * q.cap - q.rptr) % (2 * q.cap)

/-- Re-evaluation of the watermark (R97). -/
def Queue.rewm (q : Queue) : Queue :=
  let a := decide (q.wmLevel ≠ 0) && decide (q.wmLevel ≤ q.depth)
  if a && !q.above then { q with above := true, crossed := true, wmCount := satAdd q.wmCount 1 255 }
  else { q with above := a }

/-- Drop of the oldest item with the pad items that follow it (R93). The reservation it makes room for overwrites its length word, so a
consumer that has begun to copy it will find it torn (R94). -/
def Queue.dropOldest (q : Queue) : Queue :=
  match q.items with
  | [] => q
  | i :: r =>
    let rest := r.dropWhile (fun x => x.pad)
    let gone := i.gran + ((r.takeWhile (fun x => x.pad)).map QItem.gran).sum
    { q with
      items := rest
      rptr := (q.rptr + gone) % (2 * q.cap)
      overrun := q.overrun || decide (q.copying = some i)
      lost := if i.pad then q.lost else satAdd q.lost 1 0xFFFFFFFF }

/-- Drops from the oldest onwards until `need` more granules fit (R93); `fuel` bounds it by the items held. -/
def Queue.makeRoom (need : Nat) : Nat → Queue → Queue
  | 0, q => q
  | fuel + 1, q =>
    if q.depth + need ≤ q.cap then q
    else match q.items with
      | [] => { q with rptr := q.wptr }
      | _ :: _ => Queue.makeRoom need fuel q.dropOldest

/-- Granules of the pad an item of `g` granules needs before the end of the queue (R87). -/
def Queue.padFor (q : Queue) (g : Nat) : Nat :=
  let pos := q.wptr % q.cap
  if q.cap < pos + g then q.cap - pos else 0

/-- An item of `len` octets is never accepted (R85, R87): longer than half the capacity, or no length that LEN can hold (DESIGN CHOICE:
no rule names the answer to a reservation of such a length). -/
def Queue.tooLong (q : Queue) (len : Nat) : Bool := decide (q.cap < 2 * granules len) || decide (len < 4) || decide (524287 < len)

/-- A reservation of an item of `len` octets (R86, R87, R92, R93): FLUSHED while a flush took the open item, TOO_LONG above
half the capacity, FULL on a back-pressure queue without room; an overwrite-oldest queue drops the oldest items. A pad item
is written where the item would wrap. DESIGN CHOICE: FULL and EMPTY of a cross-domain queue are exact, where R95 lets each differ for
up to 4 entries. -/
def Queue.reserve (q : Queue) (len : Nat) : Reserve × Queue :=
  let g := granules len
  if q.flushedOpen then (.flushed, { q with flushedOpen := false })
  else if q.tooLong len then (.tooLong, q)
  else
    let pad := q.padFor g
    if q.kind = .backPressure ∧ q.cap < q.depth + pad + g then (.full, q)
    else
      let q1 := if q.kind = .overwriteOldest then q.makeRoom (pad + g) (q.items.length + 1) else q
      let q2 := if pad = 0 then q1 else
        { q1 with
          items := q1.items ++ [⟨q1.wptr, pad, pad * 64, q1.gen, true, .blank⟩]
          wptr := (q1.wptr + pad) % (2 * q1.cap) }
      (.ok, Queue.rewm { q2 with resv := some len })

/-- The close of the open item (R86): FLUSHED where a flush took it, otherwise the item becomes present. -/
def Queue.close (q : Queue) (body : Item) : Reserve × Queue :=
  if q.flushedOpen then (.flushed, { q with flushedOpen := false })
  else match q.resv with
    | none => (.flushed, q)
    | some len =>
      let g := granules len
      (.ok, Queue.rewm { q with
        items := q.items ++ [⟨q.wptr, g, len, q.gen, false, body⟩]
        wptr := (q.wptr + g) % (2 * q.cap)
        gen := (q.gen + 1) % 4096
        resv := none })

/-- Reservation and close of one item. -/
def Queue.push (q : Queue) (len : Nat) (body : Item) : Reserve × Queue :=
  match q.reserve len with
  | (.ok, q1) => q1.close body
  | r => r

/-- The oldest item that is not a pad. -/
def Queue.head (q : Queue) : Option QItem := (q.items.dropWhile (fun x => x.pad)).head?

/-- A consumer begins to copy the oldest item (R94 steps 1 and 2). -/
def Queue.beginCopy (q : Queue) : Queue :=
  if q.copying.isSome then q else { q with copying := q.head, overrun := false }

/-- The item at the head is taken off the queue, with the pads before it. -/
def Queue.dropHead (q : Queue) : Queue :=
  let pads := ((q.items.takeWhile (fun x => x.pad)).map QItem.gran).sum
  match q.items.dropWhile (fun x => x.pad) with
  | [] => q
  | i :: rest => Queue.rewm { q with items := rest, rptr := (q.rptr + pads + i.gran) % (2 * q.cap) }

/-- Consumption of an item (R94, R96). A copy that a producer has overwritten is TORN: it is discarded and counted, and the consumer
resumes at the head. A copy that a flush has met is whole. Otherwise the item copied is the one at the head. -/
def Queue.pop (q : Queue) : Option QItem × Queue :=
  let q1 := if q.overrun then { q with torn := satAdd q.torn 1 0xFFFFFFFF } else q
  let q2 := { q1 with copying := none, overrun := false }
  match q.copying with
  | some i => if q.overrun ∨ q.head = some i then (q2.head, q2.dropHead) else (some i, q2)
  | none => (q2.head, q2.dropHead)

/-- Removal of the items a consumer's pointer has passed: the first `n` granules of the depth (R90, R93). -/
def Queue.consume (q : Queue) (n : Nat) : Queue :=
  let keep := (q.items.foldl (fun (acc : Nat × List QItem) i =>
    (acc.1 + i.gran, if acc.1 + i.gran ≤ n then acc.2 else acc.2 ++ [i])) (0, [])).2
  Queue.rewm { q with items := keep, rptr := (q.rptr + n) % (2 * q.cap) }

/-- A flush at one instant (R96). -/
def Queue.flush (q : Queue) : Queue :=
  Queue.rewm { q with
    items := []
    rptr := q.wptr
    resv := none
    flushedOpen := q.resv.isSome
    gen := 0
    flushed := satAdd q.flushed 1 0xFFFFFFFF }

end Sys2Proof.Machine
end

