-- ==== Sys2Proof/Machine/Ops.lean ====
section
/-! DEFINITION. The named operations every command is written over: reading and writing objects, free values, output,
interrupt conditions, events, queues of the state. -/

namespace Sys2Proof.Machine

/-- Active value of an object key. -/
def State.rd (s : State) (k : Nat) : Nat := AMap.get (dfltOf k) k s.dict

/-- Setting of an object's active value. -/
def State.wr (s : State) (k v : Nat) : State := { s with dict := AMap.put (dfltOf k) k v s.dict }

/-- Shadow value of a TICK-class object key (R54). -/
def State.rdShadow (s : State) (k : Nat) : Nat := AMap.get (dfltOf k) k s.shadow

/-- Setting of a shadow value. -/
def State.wrShadow (s : State) (k v : Nat) : State := { s with shadow := AMap.put (dfltOf k) k v s.shadow }

/-- Largest value of the type an object has, for saturation (R427). -/
def maxOf (k : Nat) : Nat :=
  match attrOf (k / 0x100000000) (k / 0x1000000 % 256) with
  | some a => 256 ^ a.len - 1
  | none => 0

/-- Increment of a counter, saturating (R427). -/
def State.count (s : State) (k n : Nat) : State := s.wr k (satAdd (s.rd k) n (maxOf k))

/-- Increment of a counter by one. -/
def State.inc (s : State) (k : Nat) : State := s.count k 1

/-- A signed object value. -/
def State.rdI16 (s : State) (k : Nat) : Int := sgn 16 (s.rd k)

/-- The next random number of the TRNG, `n` bits. -/
def State.random (s : State) (n : Nat) : Nat × State := (Config.trng s.draws % 2 ^ n, { s with draws := s.draws + 1 })

/-- A choice below `n` the manual leaves open. -/
def State.choose (s : State) (n : Nat) : Nat × State := (Config.choice s.draws % n, { s with draws := s.draws + 1 })

/-- An unspecified value of `n` bits. -/
def State.free (s : State) (n : Nat) : Nat × State := (Config.value s.draws % 2 ^ n, { s with draws := s.draws + 1 })

/-- Something sent to the outside. -/
def State.emit (s : State) (o : Out) : State := { s with out := o :: s.out }

/-- The queue of a number. -/
def State.q (s : State) (n : Nat) : Queue := AMap.get Queue.empty n s.queues

/-- Setting of a queue. -/
def State.setQ (s : State) (n : Nat) (q : Queue) : State := { s with queues := AMap.put Queue.empty n q s.queues }

/-- A ring's registers at reset (Table 3.10). -/
def Ring.reset : Ring := ⟨0, 0, false, false, false, 0, 0, false, false, 0, none, 0, 0, false, 0⟩

/-- The ring of a number. -/
def State.ring (s : State) (r : Nat) : Ring := AMap.get Ring.reset r s.rings

/-- Setting of a ring's registers. -/
def State.setRing (s : State) (r : Nat) (x : Ring) : State := { s with rings := AMap.put Ring.reset r x s.rings }

/-- First queue of the host rings (Table 1.4). -/
def ringQ (r : Nat) : Nat := 44032 + r

/-- Season code of Table 17.1. -/
def Season.code : Season → Nat
  | .midwinter => 0 | .winter => 1 | .spring => 2 | .summer => 3 | .autumn => 4

/-- A mailbox at reset (Table 3.4). -/
def Mailbox.reset : Mailbox := ⟨List.replicate 16 0, false, 0, none, []⟩

/-- An MSI-X table entry at reset (R69). -/
def MsixEntry.reset : MsixEntry := ⟨0, 0, 0, true, []⟩

def State.h2d (s : State) (n : Nat) : Mailbox := AMap.get Mailbox.reset n s.hif.h2d
def State.d2h (s : State) (n : Nat) : Mailbox := AMap.get Mailbox.reset n s.hif.d2h
def State.setH2d (s : State) (n : Nat) (m : Mailbox) : State :=
  { s with hif := { s.hif with h2d := AMap.put Mailbox.reset n m s.hif.h2d } }
def State.setD2h (s : State) (n : Nat) (m : Mailbox) : State :=
  { s with hif := { s.hif with d2h := AMap.put Mailbox.reset n m s.hif.d2h } }
def State.vec (s : State) (v : Nat) : MsixEntry := AMap.get MsixEntry.reset v s.hif.msix
def State.setVec (s : State) (v : Nat) (e : MsixEntry) : State :=
  { s with hif := { s.hif with msix := AMap.put MsixEntry.reset v e s.hif.msix } }

/-- The sources of interrupts (R84). -/
inductive IrqSource | mailbox (n : Nat) | cause (bit : Nat) | ring (r : Nat)
deriving DecidableEq, Repr

/-- A ring's vector condition (R91). -/
def ringCondition (s : State) (r : Nat) : Bool :=
  let x := s.ring r
  ((s.q (ringQ r)).crossed && x.wmIe) || x.error || (x.dirD2h && decide (0 < x.unreported))

/-- The condition of an interrupt source (R84). -/
def irqCondition (s : State) : IrqSource → Bool
  | .mailbox n => (s.d2h n).go
  | .cause b => s.hif.irqCause.getLsbD b && s.hif.irqEnable.getLsbD b
  | .ring r => ringCondition s r

/-- The vector a source signals (Table 3.8). -/
def irqVector (s : State) : IrqSource → Nat
  | .mailbox n => n
  | .cause b => 64 + b
  | .ring r => (s.ring r).vector

/-- The number under which a masked vector owes a source's message; only rings share vectors. -/
def IrqSource.code : IrqSource → Nat
  | .ring r => r + 1
  | _ => 0

/-- A vector is masked: by its own entry or by the Function Mask. -/
def State.vecMasked (s : State) (v : Nat) : Bool := (s.vec v).masked || s.hif.cfg.functionMask

/-- The MSI-X message of a vector; with MSI-X disabled nothing is sent. -/
def State.sendMsix (s : State) (v : Nat) : State :=
  let e := s.vec v
  if s.hif.msixEnable then s.emit (.msix v (e.addrHi.toNat * 0x100000000 + e.addrLo.toNat) e.data) else s

/-- A source's condition has become true: its vector's message, or its PBA bit while the vector is masked (R84). -/
def State.signal (s : State) (v code : Nat) : State :=
  if s.vecMasked v then
    let e := s.vec v
    s.setVec v { e with owed := if e.owed.contains code then e.owed else code :: e.owed }
  else s.sendMsix v

/-- The effect of a change of a source's condition: a message when it goes from false to true; when it goes false while the vector is
masked, the vector owes that source nothing any more, and its PBA bit clears once it owes none (R84). -/
def irqEdge (src : IrqSource) (before : State) (after : State) : State :=
  let b := irqCondition before src
  let a := irqCondition after src
  if !b && a then after.signal (irqVector after src) src.code
  else if b && !a then
    let v := irqVector before src
    let e := after.vec v
    if after.vecMasked v then after.setVec v { e with owed := e.owed.erase src.code } else after
  else after

/-- A change of state together with its effect on one interrupt source. -/
def withIrq (src : IrqSource) (f : State → State) (s : State) : State := irqEdge src s (f s)

/-- Setting of a sticky IRQ_CAUSE bit (Table 3.3). -/
def State.raiseCause (s : State) (b : Nat) : State :=
  withIrq (.cause b) (fun t => { t with hif := { t.hif with irqCause := t.hif.irqCause ||| BitVec.ofNat 32 (2 ^ b) } }) s

/-- A change of a queue with the watermark's interrupt: IRQ_CAUSE.WATERMARK for a queue that is no host ring, the ring's
condition otherwise (R84, R91, R97). -/
def State.updQ (s : State) (n : Nat) (q : Queue) : State :=
  if 44032 ≤ n ∧ n < 46080 then withIrq (.ring (n - 44032)) (fun t => t.setQ n q) s
  else
    let s1 := s.setQ n q
    if q.crossed && !(s.q n).crossed then s1.raiseCause 1 else s1

/-- An item written to a device-to-host ring (R86, R91, R93): the answer and the state. A ring that is disabled, in error,
or runs the other way takes nothing. -/
def State.ringPost (s : State) (r len : Nat) (body : Item) : Reserve × State :=
  let x := s.ring r
  if !(x.enable && x.dirD2h) || x.error then (.full, s)
  else
    let (res, q) := (s.q (ringQ r)).push len body
    match res with
    | .ok => (.ok, withIrq (.ring r) (fun t => (t.setQ (ringQ r) q).setRing r { x with unreported := x.unreported + 1 }) s)
    | .tooLong => (.tooLong, s)
    | res => (res, s)

/-- A device-to-host ring takes items: enabled, and not stopped in error. -/
def State.ringTakes (s : State) (r : Nat) : Bool := (s.ring r).enable && (s.ring r).dirD2h && !(s.ring r).error

/-- An item of a ring whose owning rule names no counter for items it cannot write (R87, R92): one that is too long counts in Lost;
one without room is held, behind those already held for the ring. A ring that is not in service takes nothing. -/
def State.ringPostLost (s : State) (r len : Nat) (body : Item) : State :=
  if !s.ringTakes r then s
  else if (s.q (ringQ r)).tooLong len then
    let q := s.q (ringQ r)
    s.setQ (ringQ r) { q with lost := satAdd q.lost 1 0xFFFFFFFF }
  else
    let keep := { s with hif := { s.hif with held := s.hif.held ++ [(r, len, body)] } }
    if s.hif.held.any (fun h => decide (h.1 = r)) then keep
    else match s.ringPost r len body with
      | (.ok, t) => t
      | _ => keep

/-- An item with a timestamp written to its ring; a timestamp record's write sets IRQ_CAUSE.TIME (R369). -/
def State.stampWrite (s : State) (h : HeldItem) : Reserve × State :=
  match s.ringPost h.ring h.len h.item with
  | (.ok, t) => (.ok, if h.port.isNone then t.raiseCause 3 else t)
  | r => r

/-- A discarded item: an exception-ring item counts in ExceptionDropped, any other in TsDropped (R368). -/
def State.stampDrop (s : State) (h : HeldItem) : State :=
  match h.port with
  | some p => s.inc (Obj.exceptionDropped p)
  | none => s.inc (Obj.timeCounter 2)

/-- Room in the hold (R368): 16 exception-ring items per ring, 256 timestamp records. -/
def holdRoom (hold : List HeldItem) (h : HeldItem) : Bool :=
  if h.port.isSome then decide ((hold.filter (fun x => x.port.isSome && decide (x.ring = h.ring))).length < 16)
  else decide ((hold.filter (fun x => x.port.isNone)).length < 256)

/-- An item with a timestamp handed to the host (R368): written, held behind the items already held for its ring, or
discarded. -/
def State.stampPost (s : State) (h : HeldItem) : State :=
  let keep := fun (t : State) =>
    if holdRoom t.tm.hold h then { t with tm := { t.tm with hold := t.tm.hold ++ [h] } } else t.stampDrop h
  if s.ringTakes h.ring ∧ (s.q (ringQ h.ring)).tooLong h.len then s.stampDrop h
  else if s.tm.hold.any (fun x => decide (x.ring = h.ring)) then keep s
  else match s.stampWrite h with
    | (.ok, t) => t
    | (.tooLong, _) => s.stampDrop h
    | _ => keep s

/-- The items held for a ring that its room now takes, in order; `fuel` bounds them. -/
def releaseHold (r : Nat) : Nat → State → State
  | 0, s => s
  | n + 1, s =>
    match s.tm.hold.find? (fun x => decide (x.ring = r)) with
    | none => s
    | some h =>
      match s.stampWrite h with
      | (.ok, t) => releaseHold r n { t with tm := { t.tm with hold := t.tm.hold.erase h } }
      | _ => s

/-- The items producers hold for a ring that its room now takes (R92); `fuel` bounds them. -/
def releaseRing (r : Nat) : Nat → State → State
  | 0, s => s
  | n + 1, s =>
    match s.hif.held.find? (fun x => decide (x.1 = r)) with
    | none => s
    | some h =>
      match s.ringPost r h.2.1 h.2.2 with
      | (.ok, t) => releaseRing r n { t with hif := { t.hif with held := t.hif.held.erase h } }
      | _ => s

/-- Held items written as a doorbell write frees room (R92, R368). -/
def State.ringFreed (s : State) (r : Nat) : State :=
  let t := releaseHold r s.tm.hold.length s
  releaseRing r t.hif.held.length t

/-- An item pushed to a hardware queue of the block's own. -/
def State.push (s : State) (n len : Nat) (body : Item) : Reserve × State :=
  let (res, q) := (s.q n).push len body
  (res, s.updQ n q)

/-- A record that finds the log full displaces the oldest of the lowest severity present, or is dropped itself (R422):
the log and the severity whose record was dropped. -/
def logStore (log : List EventRec) (r : EventRec) : List EventRec × Option Nat :=
  if log.length < 256 then (log ++ [r], none)
  else
    let low := log.foldl (fun m x => min m x.severity) 4
    if r.severity < low then (log, some r.severity)
    else
      match log.find? (fun x => decide (x.severity = low)) with
      | none => (log ++ [r], none)
      | some old => (log.erase old ++ [r], some low)

/-- A queued handler entry takes one more ARG0, up to 32, then stands for every object of its kind (R424). -/
def Handler.merge (h : Handler) (a : Nat) : Handler :=
  if a ∈ h.args then h else if h.args.length < 32 then { h with args := h.args ++ [a] } else { h with all := true }

/-- The handlers after a raise (R424): the running stack and the queue, and whether the event was queued. -/
def handlersRaise (running queued : List Handler) (code sev seq a0 : Nat) : List Handler × List Handler × Bool :=
  if sev = 0 then (running, queued, false)
  else
    let top := running.foldl (fun m h => max m h.severity) 0
    if top < sev then (⟨code, sev, seq, [a0], false⟩ :: running, queued, false)
    else if queued.any (fun h => decide (h.code = code)) then
      (running, queued.map (fun h => if h.code = code then h.merge a0 else h), true)
    else (running, queued ++ [⟨code, sev, seq, [a0], false⟩], true)

/-- The time an event record carries: TimeOfDay, or with the main domain off AON seconds since MIDWINTER entry (the latter
under FLAGS AON_CLOCK, Table 19.1). -/
def eventTime (s : State) : Nat × Bool :=
  if s.season = .midwinter then ((s.mono - s.pw.seasonSince) / 1000000000, true) else (s.tod, false)

/-- The raise of an event (R421 to R424): its record is stored before any handler acts, written to EventRing, signalled at
or above the threshold, and its handler runs, preempts or is queued. A FATAL event waits for its reset. -/
def State.event (s : State) (code a0 a1 : Nat) : State :=
  let sev := severityOf code
  let (t, aon) := eventTime s
  let nested :=
    if sev = 0 then !s.ev.running.isEmpty else s.ev.running.any (fun h => decide (sev ≤ h.severity))
  let r : EventRec := ⟨s.ev.nextSeq, t, code, sev, nested, aon, a0, a1⟩
  let (log, dropped) := logStore s.ev.log r
  let (running, queued, wasQueued) := handlersRaise s.ev.running s.ev.queued code sev s.ev.nextSeq a0
  let s1 := { s with ev := { s.ev with
    log := log
    nextSeq := (s.ev.nextSeq + 1) % 0x100000000
    running := running
    queued := queued
    fatal := if sev = 4 then some code else s.ev.fatal } }
  let s2 := match dropped with
    | some d => s1.inc (Obj.logDropped d)
    | none => s1
  let s3 := if wasQueued then s2.inc Obj.nested else s2
  if dropped = some sev ∧ log = s.ev.log then s3
  else
    let s4 := if s3.rd Obj.eventRing < 2048 then s3.ringPostLost (s3.rd Obj.eventRing) 36 (.event r) else s3
    if s4.rd Obj.eventIrqThreshold ≤ sev then s4.raiseCause 0 else s4

/-- The key of a rate limit: an event in its scope. -/
def rateKey (code scope : Nat) : Nat := code * 0x100000000 + scope

/-- An event that is raised at most once per second per scope, on the monotonic clock (R421). -/
def State.eventRated (s : State) (code scope a0 a1 : Nat) : State :=
  let last := AMap.get 0 (rateKey code scope) s.ev.rate
  if last ≠ 0 ∧ s.mono + 1 < last + 1000000000 then s
  else
    let s1 := s.event code a0 a1
    { s1 with ev := { s1.ev with rate := AMap.put 0 (rateKey code scope) (s.mono + 1) s1.ev.rate } }

/-- TIME80 of an instant of TimeOfDay as the value of ten little-endian octets: 32-bit nanoseconds below 48-bit seconds. -/
def time80 (ns : Nat) : Nat := ns % 1000000000 + ns / 1000000000 % 2 ^ 48 * 0x100000000

/-- The instant a TIME80 value names. -/
def ofTime80 (v : Nat) : Nat := v / 0x100000000 * 1000000000 + v % 0x100000000

/-- Nanoseconds in a millisecond. -/
def ms : Nat := 1000000

/-- The first mix-frame boundary at least 1 ms after an instant of TimeOfDay (R53). -/
def mixBoundary (t : Nat) : Nat := ceilDiv (t + ms) (10 * ms) * (10 * ms)

/-- The instant of Solstice tick k: k sixtieths of a second, in whole nanoseconds (R375). -/
def tickTime (k : Nat) : Nat := k * 50000000 / 3

/-- The first tick at least 500 µs after an instant (R54). -/
def tickAfter (t : Nat) : Nat :=
  let k := (t + 500000) * 3 / 50000000
  if t + 500000 ≤ tickTime k then tickTime k
  else if t + 500000 ≤ tickTime (k + 1) then tickTime (k + 1) else tickTime (k + 2)

/-- Groups discarded with their staged writes; their numbers are free from now on (R51). -/
def State.dropGroups (s : State) (p : Group → Bool) : State :=
  { s with ctl := { s.ctl with
    groups := s.ctl.groups.filter (fun g => !p g)
    freeGroups := s.ctl.freeGroups ++ (s.ctl.groups.filter p).map Group.num } }

/-- A channel is a DTP session. -/
def chanIsDtp : Chan → Bool
  | .dtp _ => true
  | _ => false

/-- Every OPERATOR and DTP session closed, with the groups opened under them (R38, R411, R418). -/
def State.dropSessions (s : State) : State :=
  let s1 := s.dropGroups (fun g => g.session.isSome || chanIsDtp g.chan)
  { s1 with ctl := { s1.ctl with
    sessions := []
    dtp := []
    tokenSigs := s1.ctl.tokenSigs.filter (fun g => !chanIsDtp g.1) } }

/-- The bits of AON_WAKE_CAUSE (Table 17.3). -/
inductive Wake | mailbox | doorbell | dtp | hbRx | alarm | nqSignal | hostPerst | temp
deriving DecidableEq, Repr

/-- Bit number of a wake event. -/
def Wake.bit : Wake → Nat
  | .mailbox => 0 | .doorbell => 1 | .dtp => 2 | .hbRx => 3 | .alarm => 4 | .nqSignal => 5 | .hostPerst => 6 | .temp => 7

/-- MIDWINTER with the main rails off (R387). -/
def State.parked (s : State) : Bool := decide (s.season = .midwinter) && decide (s.pw.boot = .waitPwrOk) && !s.pw.mainPwrEn

/-- Whether a wake event acts in the present season (Table 17.3): some always, the others while their WakeSources bit is
set; mailbox, doorbell, DTP and NQ only in WINTER, HOST_PERST only in MIDWINTER. -/
def wakeActs (s : State) (w : Wake) : Bool :=
  let parked := s.parked
  let inWinter := decide (s.season = .winter) || s.pw.winterEntry
  match w with
  | .mailbox => inWinter
  | .doorbell => inWinter
  | .dtp => inWinter && bit (s.rd Obj.wakeSources) 2
  | .nqSignal => inWinter && bit (s.rd Obj.wakeSources) 5
  | .hbRx => (inWinter || parked) && bit (s.rd Obj.wakeSources) 3
  | .alarm => (inWinter || parked) && bit (s.rd Obj.wakeSources) 4
  | .hostPerst => parked
  | .temp => false

/-- The engines of SUMMER are powered (Table 17.1). -/
def State.powered (s : State) : Bool :=
  decide (s.season = .summer) || (decide (s.season = .autumn) && decide (s.pw.autumnFrom = .summer))

/-- The engines run: powered, and not paused by a quarantine (R316). -/
def State.engines (s : State) : Bool := s.powered && decide (s.rd Obj.paused = 0)

/-- Thirty-seconds of a CLK_DSP cycle that pass in a nanosecond: 1.5 GHz, at throttle level l times (16 - l) / 16 (R393); none while the
engines are gated or paused. -/
def State.dspRate (s : State) : Nat := if s.engines then 3 * (16 - s.rd Obj.throttleLevel) else 0

/-- CLK_DSP counted in thirty-seconds of a cycle. -/
def State.dspUnits (s : State) : Nat := s.disp.clkUnits + (s.mono - s.disp.clkAt) * s.dspRate

/-- The count carried over to this instant, before the rate changes. -/
def State.dspRebase (s : State) : State :=
  { s with disp := { s.disp with
    clkUnits := s.dspUnits
    clkAt := s.mono } }

/-- A season change with its event (R382): ARG0 the season left, ARG1 the season entered. -/
def State.enterSeason (s0 : State) (t : Season) : State :=
  let s := s0.dspRebase
  let s1 := { s with season := t, pw := { s.pw with seasonSince := s.mono } }
  (s1.wr Obj.seasonNow t.code).event Ev.seasonChange s.season.code t.code

/-- A wake event (R388): it starts a thaw in WINTER or MIDWINTER, stops a WINTER entry before its point of no return
(R386), sets its cause bit from the start of the thaw until READY, and sets Target to SPRING. A first wake event clears the
causes of the thaw before. After a thermal shutdown only HOST_PERST acts until 10 s have been counted (R394). -/
def State.wake (s : State) (w : Wake) : State :=
  if s.pw.thawFrom.isSome then s.wr Obj.wakeCause (setBit (s.rd Obj.wakeCause) w.bit)
  else if !wakeActs s w then s
  else if s.season = .midwinter ∧ w ≠ .hostPerst ∧ s.pw.shutdownAt.isSome then s
  else if s.pw.winterEntry then
    let s1 := { s with pw := { s.pw with winterEntry := false } }
    (s1.wr Obj.wakeCause (2 ^ w.bit)).wr Obj.target 2
  else
    let s1 := { s with pw := { s.pw with thawFrom := some s.season, wakeAt := s.mono, scriptSince := s.mono, mainPwrEn := true } }
    let temp := if s.pw.shutdownAt.isSome ∨ (s.season = .midwinter ∧ s.pw.resetCause % 0x10000 = Ev.thermalShutdown) then 0x80 else 0
    (s1.wr Obj.wakeCause (2 ^ w.bit + temp)).wr Obj.target 2

/-- Demand (R382): in SPRING the device starts its rise to SUMMER; in SUMMER the hold counts anew. -/
def State.demand (s : State) : State :=
  if s.season = .spring then
    let s1 := if s.pw.winterEntry then s.wr Obj.target 2 else s
    if s.pw.rising then s1 else { s1 with pw := { s1.pw with rising := true, winterEntry := false, scriptSince := s.mono } }
  else { s with pw := { s.pw with idleSince := s.mono } }

/-- The control cluster runs: SPRING, SUMMER or AUTUMN with the firmware up. -/
def State.running (s : State) : Bool :=
  decide (s.pw.boot = .running) && (decide (s.season = .spring) || decide (s.season = .summer) || decide (s.season = .autumn))

end Sys2Proof.Machine
end

