-- ==== Sys2Proof/Machine/Images.lean ====
section
/-! DEFINITION. Lifecycle and the verification of signed images (R398 to R401, R404, R406), used by the boot flow and by every
load of a program, script or classifier. -/

namespace Sys2Proof

/-! ### The fields of an image header (Table 18.2) -/

/-- The little-endian number in `n` octets of an image from octet `at_`. -/
def Image.field (i : Image) (at_ n : Nat) : Nat := Machine.ofOctets ((i.octs.drop at_).take n)

def Image.magic (i : Image) : Nat := i.field 0 4
def Image.cls (i : Image) : Nat := i.field 4 1
def Image.format (i : Image) : Nat := i.field 5 1
def Image.number (i : Image) : Nat := i.field 6 2
def Image.version (i : Image) : Nat := i.field 8 4
def Image.signer (i : Image) : Nat := i.field 12 1
def Image.revoke (i : Image) : Nat := i.field 14 2
def Image.bodyLen (i : Image) : Nat := i.field 16 4
def Image.bodyCrc (i : Image) : Nat := i.field 20 4
def Image.entry (i : Image) : Nat := i.field 24 4
def Image.faultVector (i : Image) : Nat := i.field 28 4
def Image.tmrVector (i : Image) : Nat := i.field 32 4
def Image.codeWords (i : Image) : Nat := i.field 36 4

/-- SIGNER names a Pyward root, or an owner root, by slot. -/
def Image.pyward (i : Image) : Bool := Machine.bit i.signer 7
def Image.slot (i : Image) : Nat := i.signer % 4

/-- The parts of an image: header, body of BODY_LEN octets, signature; the signer's public key in the header. -/
def Image.header (i : Image) : List Nat := i.octs.take 128
def Image.body (i : Image) : List Nat := (i.octs.drop 128).take i.bodyLen
def Image.signature (i : Image) : List Nat := i.octs.drop (128 + i.bodyLen)
def Image.pubkey (i : Image) : List Nat := (i.octs.drop 72).take 56

/-- Words of the constants that follow the code in a Maten program's body (R194). -/
def Image.constWords (i : Image) : Nat := i.bodyLen / 4 - i.codeWords

/-- SHA-256 of the header, as a number whose octets stand lowest first (Table 18.10). -/
def Image.headerDigest (i : Image) : Nat := Machine.ofOctets (Machine.sha256 i.header)

/-- SHA-256 of the signer's public key, as the fuse fields hold it. -/
def Image.keyHash (i : Image) : Nat := Machine.ofOctets (Machine.sha256 i.pubkey)

end Sys2Proof

namespace Sys2Proof.Machine

/-- The lifecycle state (R399): the highest blown LIFECYCLE bit; 0 MANUFACTURE, 1 FIELD, 2 FIELD-DEBUG, 3 RETURN. -/
def State.lifecycle (s : State) : Nat :=
  let l := s.sec.fuses.lifecycle
  if bit l 2 then 3 else if bit l 1 then 2 else if bit l 0 then 1 else 0

/-- BOOT_POLICY bits (Table 18.1). -/
def State.bootPolicy (s : State) (i : Nat) : Bool := bit s.sec.fuses.bootPolicy i

/-- OWNER_HASH of a slot. -/
def State.ownerHash (s : State) (slot : Nat) : Nat :=
  if slot = 0 then s.sec.fuses.ownerHash0 else if slot = 1 then s.sec.fuses.ownerHash1 else 0

/-- An owner slot is usable once it is programmed and not revoked (R406). -/
def State.ownerUsable (s : State) (slot : Nat) : Bool :=
  decide (slot < 2) && decide (s.ownerHash slot ≠ 0) && !bit s.sec.fuses.ownerRevoke slot

/-- Some owner slot is usable. -/
def State.ownerAny (s : State) : Bool := s.ownerUsable 0 || s.ownerUsable 1

/-- The maximum body of an image class in octets (Table 18.3); 0 for a class that is not defined. -/
def maxBody (cls : Nat) : Nat :=
  match cls with
  | 0x01 => 1048576
  | 0x02 => 64 * 1048576
  | 0x03 => 65536
  | 0x10 => 524288
  | 0x11 => 65536
  | 0x12 => 65536
  | 0x13 => 65536
  | 0x14 => 65536
  | _ => 0

/-- The blown count of a class's minimum-version field (Table 18.3). -/
def State.minVersion (s : State) (cls : Nat) : Nat :=
  if cls = 1 ∨ cls = 2 then s.sec.fuses.minFirmware
  else if cls = 3 then s.sec.fuses.minScripts else s.sec.fuses.minPrograms

/-- The signer of an image is allowed for its class (Tables 18.3 and 18.11). -/
def signerAllowed (s : State) (i : Image) : Bool :=
  i.pyward || (decide (0x10 ≤ i.cls) && s.bootPolicy 7 && (decide (s.lifecycle = 1) || decide (s.lifecycle = 2)))

/-- The root hash an image's SIGNER names, where that slot is programmed and not revoked (R401 step 3). -/
def rootFor (s : State) (pyward : Bool) (slot : Nat) : Option Nat :=
  if pyward then (if slot < 4 ∧ ¬ bit s.sec.fuses.rootRevoke slot then some (Config.rootHash slot) else none)
  else (if s.ownerUsable slot then some (s.ownerHash slot) else none)

/-- The LMS public key of a signer is of a type R401 names: LM-OTS type 3, height 20 for Pyward, 10, 15 or 20 for an owner. -/
def keyType (pub : List Nat) (pyward : Bool) : Option Nat :=
  match lmsHeight (ofBe (pub.take 4)) with
  | some h => if ofBe ((pub.drop 4).take 4) = 3 ∧ (h = 20 ∨ ¬ pyward ∧ (h = 10 ∨ h = 15)) then some h else none
  | none => none

/-- Step 1 of R401: MAGIC, FORMAT, CLASS, the reserved fields and those that are 0 for the class, the lengths. -/
def imageFramed (i : Image) (cls : Nat) : Bool :=
  decide (i.magic = 0x534C494D) && decide (i.format = 1) && decide (i.cls = cls) && decide (i.bodyLen ≤ maxBody cls) &&
    decide (i.bodyLen % 4 = 0) && decide (0x10 ≤ cls ∨ i.number = 0) && decide (i.signer / 4 % 32 = 0) && decide (i.field 13 1 = 0) &&
    decide (if cls ≤ 2 then i.revoke < 16 else i.revoke = 0) &&
    (if cls = 0x10 then decide (4 * i.codeWords ≤ i.bodyLen) else decide (i.field 24 16 = 0)) &&
    (match keyType i.pubkey i.pyward with
      | some h => decide (i.octs.length = 128 + i.bodyLen + 2188 + 32 * h)
      | none => false)

/-- A hash or a signature check runs on a core of the cipher complex: with every core retired it fails (R152). -/
def State.hashes (s : State) : Bool := decide (s.rd Obj.coresActive ≠ 0)

/-- A signature by a signer over a message (R401 steps 3 and 5): the public key's hash is the root hash the signer names, and the
LMS signature verifies. -/
def signedBy (s : State) (pyward : Bool) (slot : Nat) (pub sig m : List Nat) : Bool :=
  s.hashes && decide (rootFor s pyward slot = some (ofOctets (sha256 pub))) && (keyType pub pyward).isSome && lmsVerify pub sig m

/-- The verification of an image offered for a class, in the order of R401: 0, SIGNATURE or ROLLBACK. -/
def verifyImage (s : State) (cls : Nat) (i : Image) : Nat :=
  if !imageFramed i cls then Abort.signature
  else if crc crc32c i.body ≠ i.bodyCrc then Abort.signature
  else if !(decide (rootFor s i.pyward i.slot = some i.keyHash) && signerAllowed s i) then Abort.signature
  else if sha256 i.body ≠ (i.octs.drop 40).take 32 then Abort.signature
  else if !signedBy s i.pyward i.slot i.pubkey i.signature i.header then Abort.signature
  else if i.version / 0x1000000 < s.minVersion cls then Abort.rollback
  else 0

end Sys2Proof.Machine
end

