-- ==== Sys2Proof/Machine/Host.lean ====
section
/-! DEFINITION. The PCIe host interface (spec/03): BAR0 registers, mailboxes, doorbells, host rings and interrupts. -/

namespace Sys2Proof.Machine

/-- BAR0 can be reached: the link is up except in MIDWINTER (R73). -/
def State.bar0Up (s : State) : Bool :=
  (decide (s.season ≠ .midwinter) || decide (s.pw.boot = .rom) || decide (s.pw.boot = .bootstrap)) && !s.pw.linkL2

/-- The header of the TLP of a host access of `n` octets at an address, as the Header Log holds it (PCI Express Base Specification:
format and type, length, the requester's word, the address of 32 or 64 bits). What the requester puts into its word, its identifier, tag
and byte enables, is not the block's: a free value. -/
def tlpHeader (s : State) (write : Bool) (addr n : Nat) : List Word × State :=
  let far := decide (2 ^ 32 ≤ addr)
  let (who, t) := s.free 32
  let w0 := b2n write * 0x40000000 + b2n far * 0x20000000 + ceilDiv n 4 % 1024
  (([w0, who] ++ (if far then [addr / 2 ^ 32, addr % 2 ^ 32] else [addr, 0])).map (BitVec.ofNat 32), t)

/-- The bit of Completer Abort in AER's registers (PCI Express Base Specification). -/
def completerAbort : Word := 0x8000

/-- A Completer Abort recorded in AER with the TLP's header in the Header Log, and reported as an uncorrectable error unless it is masked,
fatal or non-fatal as the Severity register says (R68, R75, R79). -/
def State.aer (s : State) (write : Bool) (addr n : Nat) : State :=
  let (hdr, t) := tlpHeader s write addr n
  let u := { t with hif := { t.hif with
    aerCompleterAborts := t.hif.aerCompleterAborts + 1
    cfg := { t.hif.cfg with
      aerStatus := t.hif.cfg.aerStatus ||| completerAbort
      aerHeader := hdr } } }
  if u.hif.cfg.aerMask &&& completerAbort = 0 then u.emit (.pcieError (decide (u.hif.cfg.aerSeverity &&& completerAbort ≠ 0))) else u

/-- DEV_UNMAPPED counts a write to an unmapped offset, saturating (R68). -/
def State.unmappedWrite (s : State) : State :=
  { s with hif := { s.hif with unmapped := satAdd s.hif.unmapped 1 0xFFFFFFFF } }

/-! ### Mailboxes -/

/-- The word `i` of a message's data. -/
def dataWord (v i : Nat) : Nat := v / 2 ^ (32 * i) % 2 ^ 32

/-- The 16 registers of a device-to-host message (Tables 2.5 and 2.13). -/
def Resp.words16 (r : Resp) : List Word :=
  ([r.op * 0x1000000 + r.words % 16 * 0x100000 + r.flags % 16 * 0x10000 + r.tag % 0x10000, r.word1,
    r.group % 256 * 0x1000000 + r.element % 0x1000000, r.abort] ++
    (List.range 12).map (dataWord r.data)).map (BitVec.ofNat 32)

/-- A message written into a device-to-host mailbox whose GO is clear, which sets GO and signals the vector (R82, R84). -/
def State.fillD2h (s : State) (n : Nat) (r : Resp) : State :=
  withIrq (.mailbox n) (fun t => t.setD2h n { t.d2h n with msg := r.words16, go := true }) s

/-- A write of the firmware that finds GO set: it counts in MBX_DROP, and the writing core takes a bus error, which its firmware
answers (R80). -/
def State.mailRefused (s : State) (n : Nat) (m : Mailbox) : State :=
  (s.setD2h n { m with drop := satAdd m.drop 1 0xFFFFFFFF }).emit (.busError n)

/-- A response for a device-to-host mailbox: posted, or held in its slot while a NOTIFY keeps GO set (R80). -/
def State.mailResponse (s : State) (n : Nat) (r : Resp) : State :=
  let m := s.d2h n
  if m.go then s.mailRefused n { m with waiting := some r } else s.fillD2h n r

/-- A NOTIFY for a device-to-host mailbox: posted, queued up to 16, or discarded with NOTIFY_OVERFLOW (R80). -/
def State.mailNotify (s : State) (n : Nat) (r : Resp) : State :=
  let m := s.d2h n
  if m.go then
    if m.notify.length < 16 then s.mailRefused n { m with notify := m.notify ++ [r] }
    else (s.mailRefused n m).event Ev.notifyOverflow n 0
  else s.fillD2h n r

/-- The control cluster posts what waits for a device-to-host mailbox whose GO is clear: a waiting response before any queued NOTIFY
(R80). -/
def mailNext (s : State) (n : Nat) : State :=
  let m := s.d2h n
  if m.go then s
  else match m.waiting with
    | some r => (s.setD2h n { m with waiting := none }).fillD2h n r
    | none =>
      match m.notify with
      | r :: rest => (s.setD2h n { m with notify := rest }).fillD2h n r
      | [] => s

/-- The host clears a device-to-host GO, which wakes the control cluster to post what waits (R82); in WINTER the cluster is down, and
posts it once the device has thawed. -/
def mbxResponseTaken (s : State) (n : Nat) : State :=
  let m := s.d2h n
  if !m.go then s
  else
    let s1 := withIrq (.mailbox n) (fun t => t.setD2h n { m with go := false }) s
    if s1.running then mailNext s1 n else s1

/-- What waits for mailboxes the host cleared while the control cluster was down. -/
def mailThaw (s : State) : State := s.hif.d2h.foldl (fun t e => mailNext t e.1) s

/-- A host write rejected by a full mailbox (R79). -/
def mbxReject (s : State) (n off : Nat) : State :=
  let m := s.h2d n
  (s.setH2d n { m with drop := satAdd m.drop 1 0xFFFFFFFF }).aer true (s.hif.cfg.bar0 + off) 4

/-- Offset in BAR0 of a host-to-device mailbox register. -/
def mbxOffset (n reg : Nat) : Nat := 0x10000 + n * 0x80 + reg

/-- A host write to a message word of host-to-device mailbox `n` (R79). -/
def mbxWriteWord (s : State) (n i : Nat) (v : Word) : State :=
  let m := s.h2d n
  if m.go then mbxReject s n (mbxOffset n (4 * i)) else s.setH2d n { m with msg := m.msg.set i v }

/-- A host write to GO of host-to-device mailbox `n` (R78, R79, R82): 0 has no effect; 1 posts the message and wakes the
receiving side. -/
def mbxWriteGo (s : State) (n : Nat) (v : Word) : State :=
  let m := s.h2d n
  if m.go then mbxReject s n (mbxOffset n 0x40)
  else if v.getLsbD 0 then (s.setH2d n { m with go := true }).wake .mailbox
  else s

/-- The value MBX_DROP returns, and the clear by that read (R77). -/
def mbxReadDrop (s : State) (isD2h : Bool) (n : Nat) : Word × State :=
  if isD2h then
    let m := s.d2h n
    (BitVec.ofNat 32 m.drop, s.setD2h n { m with drop := 0 })
  else
    let m := s.h2d n
    (BitVec.ofNat 32 m.drop, s.setH2d n { m with drop := 0 })

/-- An OPERATOR session is bound to a mailbox pair (Table 3.6). -/
def mbxSession (s : State) (n : Nat) : Bool := s.ctl.sessions.any (fun x => decide (x.chan = .mbx n))

/-- A host read of a mailbox register (Tables 3.4 to 3.6). -/
def mbxRead (s : State) (isD2h : Bool) (n reg : Nat) : Word × State :=
  let m := if isD2h then s.d2h n else s.h2d n
  if reg < 0x40 then (m.msg.getD (reg / 4) 0, s)
  else if reg = 0x40 then (BitVec.ofNat 32 (b2n m.go), s)
  else if reg = 0x44 then
    (BitVec.ofNat 32 ((if isD2h then m.notify.length * 0x10000 + b2n m.waiting.isSome * 2 else 0) + b2n (mbxSession s n)), s)
  else if reg = 0x48 then mbxReadDrop s isD2h n
  else (0, s)

/-! ### Interrupt and DMA status -/

/-- Writing 1 clears IRQ_CAUSE bits (R12, R84). -/
def irqCauseClear (s : State) (v : Word) : State :=
  let t := { s with hif := { s.hif with irqCause := s.hif.irqCause &&& ~~~v } }
  [0, 1, 2, 3].foldl (fun u b => irqEdge (.cause b) s u) t

/-- A write of IRQ_ENABLE [3:0] (Table 3.3); the other bits are reserved. -/
def irqEnableWrite (s : State) (v : Word) : State :=
  let t := { s with hif := { s.hif with irqEnable := v &&& 0xF } }
  [0, 1, 2, 3].foldl (fun u b => irqEdge (.cause b) s u) t

/-- Writing 1 clears DMA_ERR_CAUSE bits (Table 3.3). -/
def dmaErrClear (s : State) (v : Word) : State :=
  { s with hif := { s.hif with dmaErrCause := s.hif.dmaErrCause &&& ~~~v } }

/-- A host read that failed (R70): the cause bit, the start address of the failed request, IRQ_CAUSE.DMA, DMA_FAULT. -/
def State.dmaFault (s : State) (addr causeBit : Nat) : State :=
  let s1 := { s with hif := { s.hif with
    dmaErrAddr := addr
    dmaErrCause := s.hif.dmaErrCause ||| BitVec.ofNat 32 (2 ^ causeBit) } }
  (s1.raiseCause 2).event Ev.dmaFault 0 0

/-! ### MSI-X -/

/-- A vector that is not masked any more sends the message it owes (R84). -/
def sendOwed (s : State) (v : Nat) : State :=
  let e := s.vec v
  if s.vecMasked v ∨ e.owed = [] then s else (s.setVec v { e with owed := [] }).sendMsix v

/-- A write of an MSI-X table entry's word (R69, R84): unmasking sends the message if the PBA bit is still set. -/
def msixWrite (s : State) (v word : Nat) (x : Word) : State :=
  let e := s.vec v
  match word with
  | 0 => s.setVec v { e with addrLo := x }
  | 1 => s.setVec v { e with addrHi := x }
  | 2 => s.setVec v { e with data := x }
  | _ => sendOwed (s.setVec v { e with masked := x.getLsbD 0 }) v

/-- A host read of the MSI-X table (R69). -/
def msixRead (s : State) (v word : Nat) : Word :=
  let e := s.vec v
  match word with
  | 0 => e.addrLo
  | 1 => e.addrHi
  | 2 => e.data
  | _ => BitVec.ofNat 32 (b2n e.masked)

/-- A word of the PBA: 32 vectors' bits (Table 3.2). -/
def pbaRead (s : State) (i : Nat) : Word :=
  BitVec.ofNat 32 ((List.range 32).map (fun j => b2n (decide ((s.vec (32 * i + j)).owed ≠ [])) * 2 ^ j)).sum

/-! ### Rings -/

/-- Ring size in granules of a LOG2_SIZE value (Table 3.11). -/
def ringSize (log2 : Nat) : Nat := if log2 = 0 then 65536 else 2 ^ log2

/-- The RING_CTRL word of a ring. -/
def Ring.ctrl (x : Ring) : Word :=
  BitVec.ofNat 32 (b2n x.enable * 0x80000000 + b2n x.dirD2h * 0x40000000 + b2n x.modeOverwrite * 0x20000000 +
    x.log2 * 0x100000 + x.vector)

/-- The fields other than ENABLE that a RING_CTRL word carries. -/
def Ring.take (x : Ring) (v : Nat) : Ring :=
  { x with dirD2h := bit v 30, modeOverwrite := bit v 29, log2 := bits v 20 4, vector := bits v 0 11 }

/-- A RING_CTRL word may enable its ring (R89). -/
def ringCtrlOk (v : Nat) : Bool :=
  !(bit v 29 && !bit v 30) && !(decide (1 ≤ bits v 20 4) && decide (bits v 20 4 ≤ 5)) && decide (128 ≤ bits v 0 11)

/-- Setting of ENABLE (R89): the ring starts with both pointers and GEN at 0, or ERROR sets and ENABLE stays 0. -/
def ringEnable (s : State) (r v : Nat) : State :=
  let x := (s.ring r).take v
  if ringCtrlOk v then
    let k := if x.modeOverwrite then QKind.overwriteOldest else .backPressure
    let q := s.q (ringQ r)
    let fresh := { Queue.fresh k (ringSize x.log2) with
      lost := q.lost, flushed := q.flushed, torn := q.torn, wmLevel := q.wmLevel, crossed := q.crossed,
      wmCount := q.wmCount }
    withIrq (.ring r) (fun t => (t.setQ (ringQ r) fresh.rewm).setRing r
      { x with
        enable := true
        error := false
        doorbell := 0
        latched := none
        hostPtr := 0
        unreported := 0
        bad := false
        readAt := s.mono }) s
  else withIrq (.ring r) (fun t => t.setRing r { x with enable := false, error := true }) s

/-- A RING_CTRL write that clears ENABLE takes its other fields whole (R89). The error condition ends with the clear and
set of ENABLE. -/
def ringDisable (s : State) (r v : Nat) : State :=
  withIrq (.ring r) (fun t => t.setRing r { (t.ring r).take v with enable := false }) s

/-- A RING_CTRL write (R89): discarded while ENABLE is 1, except one that clears it. -/
def ringCtrlWrite (s : State) (r v : Nat) : State :=
  if (s.ring r).enable then (if bit v 31 then s else ringDisable s r v)
  else if bit v 31 then ringEnable s r v
  else withIrq (.ring r) (fun t => t.setRing r ((t.ring r).take v)) s

/-- A write to RING_BASE_LO or RING_BASE_HI, discarded while ENABLE is 1 (R89). -/
def ringBaseWrite (s : State) (r : Nat) (hi : Bool) (v : Word) : State :=
  let x := s.ring r
  if x.enable then s
  else if hi then s.setRing r { x with baseHi := v }
  else s.setRing r { x with baseLo := v &&& 0xFFFFF000 }

/-- Writing 1 to CROSSED clears it, even while ABOVE is 1 (R97). -/
def ringCrossedClear (s : State) (r : Nat) : State :=
  withIrq (.ring r) (fun t => t.setQ (ringQ r) { t.q (ringQ r) with crossed := false }) s

/-- A write of RING_WM (Table 3.12): CROSSED write one to clear, then WM_IE and LEVEL; a crossing by the new LEVEL sets
CROSSED (R97). -/
def ringWmWrite (s : State) (r v : Nat) : State :=
  withIrq (.ring r) (fun t =>
    let q := t.q (ringQ r)
    let q1 := if bit v 30 then { q with crossed := false } else q
    (t.setQ (ringQ r) { q1 with wmLevel := bits v 0 17 }.rewm).setRing r { t.ring r with wmIe := bit v 29 }) s

/-- A ring stopped as malformed (R90): ERROR sets and RING_MALFORMED is raised. -/
def ringMalformed (s : State) (r : Nat) : State :=
  (withIrq (.ring r) (fun t => t.setRing r { t.ring r with error := true }) s).event Ev.ringMalformed r 0

/-- A doorbell of an enabled host-to-device ring (R90): the new write pointer. A value outside twice the ring size, more
than the ring size ahead of DEV_PTR, or fewer granules ahead than the previous value gave makes the ring malformed, which the bridge
finds when it comes to fetch what that value was to give: the items before it are consumed as usual. -/
def doorbellH2d (s : State) (r v : Nat) : State :=
  let x := s.ring r
  let q := s.q (ringQ r)
  let ahead := (v + 2 * q.cap - q.rptr) % (2 * q.cap)
  if x.error ∨ x.bad then s.setRing r { x with doorbell := v }
  else if 2 * q.cap ≤ v ∨ q.cap < ahead ∨ ahead < q.depth then
    if q.depth = 0 then ringMalformed (s.setRing r { x with doorbell := v }) r
    else s.setRing r { x with doorbell := v, bad := true }
  else withIrq (.ring r) (fun t => (t.setQ (ringQ r) { q with wptr := v }.rewm).setRing r
    { x with doorbell := v, readAt := if q.depth = 0 then s.mono else x.readAt }) s

/-- A doorbell of an enabled device-to-host ring (R90, R91, R93): the host's read pointer. On a back-pressure ring a
pointer outside twice the size, beyond the write pointer or behind the last makes the ring malformed; on an
overwrite-oldest ring a pointer behind the head is taken as the head. -/
def doorbellD2h (s : State) (r v : Nat) : State :=
  let x := s.ring r
  let q := s.q (ringQ r)
  let two := 2 * q.cap
  let fromHost := (v + two - x.hostPtr) % two
  let held := (q.wptr + two - x.hostPtr) % two
  let s0 := s.setRing r { x with doorbell := v }
  if x.error then s0
  else if two ≤ v then ringMalformed s0 r
  else if q.kind = .backPressure then
    if held < fromHost then ringMalformed s0 r
    else withIrq (.ring r) (fun t => (t.setQ (ringQ r) (q.consume fromHost)).setRing r
      { x with doorbell := v, hostPtr := v, unreported := 0 }) s
  else
    let ahead := (v + two - q.rptr) % two
    let behind := (q.rptr + two - v) % two
    if ahead ≤ q.depth then
      withIrq (.ring r) (fun t => (t.setQ (ringQ r) (q.consume ahead)).setRing r
        { x with doorbell := v, hostPtr := v, unreported := 0 }) s
    else if behind ≤ q.cap then
      withIrq (.ring r) (fun t => t.setRing r { x with doorbell := v, hostPtr := q.rptr, unreported := 0 }) s
    else ringMalformed s0 r

/-- A doorbell write (R71, R73, R89): latched and a wake event in WINTER, discarded on a disabled ring. -/
def doorbellWrite (s : State) (r v : Nat) : State :=
  let x := s.ring r
  if s.season = .winter then (s.setRing r { x with latched := some v }).wake .doorbell
  else if !x.enable then s
  else if x.dirD2h then (doorbellD2h s r v).ringFreed r
  else doorbellH2d s r v

/-- The doorbells latched in WINTER take effect after the thaw; one of a disabled ring is discarded (R73, R89). -/
def doorbellsThaw (s : State) : State :=
  s.rings.foldl (fun t e =>
    match e.2.latched with
    | some v => doorbellWrite (t.setRing e.1 { t.ring e.1 with latched := none }) e.1 v
    | none => t) s

/-- RING_FLUSH with FLUSH set (R96). The host's read pointer of a device-to-host ring stands at the write pointer afterwards: the items
it had still to read are gone. -/
def ringFlush (s : State) (r : Nat) : State :=
  withIrq (.ring r) (fun t => (t.setQ (ringQ r) (t.q (ringQ r)).flush).setRing r
    { t.ring r with unreported := 0, hostPtr := (t.q (ringQ r)).wptr }) s

/-- What the bridge makes of the length word at DEV_PTR of a host-to-device ring (R90). -/
inductive Fetch | empty | wait | malformed | pad (g : Nat) | item (len g : Nat)
deriving DecidableEq, Repr

/-- The judgement of a length word read at DEV_PTR (R86, R87, R90). An item longer than R87 allows is malformed whether or not the
doorbell covers it. DESIGN CHOICE: so is an item other than a pad whose granules run past the ring's end, which R87 forbids and R90 does
not list. -/
def ringJudge (q : Queue) (w : Nat) : Fetch :=
  let len := bits w 0 19
  let g := granules len
  let pos := q.rptr % q.cap
  if q.depth = 0 then .empty
  else if len < 4 then .malformed
  else if !bit w 19 ∧ q.cap < 2 * g then .malformed
  else if q.depth < g then .wait
  else if bits w 20 12 ≠ q.gen then .malformed
  else if bit w 19 then (if pos + g = q.cap ∧ len % 64 = 0 then .pad g else .malformed)
  else if q.cap < pos + g then .malformed
  else .item len g

/-- DEV_PTR past what was fetched; a ring whose doorbell was malformed stops where its last good value ends (R90). -/
def ringPast (s : State) (r : Nat) (q : Queue) : State :=
  let t := withIrq (.ring r) (fun t => (t.setQ (ringQ r) q.rewm).setRing r { t.ring r with readAt := s.mono }) s
  if (s.ring r).bad ∧ q.depth = 0 then ringMalformed t r else t

/-- The fetch of the next item of a host-to-device ring by the engine that consumes it: the item's length if one was taken,
and the state (R90). A pad item is passed and carries the GEN of the item that follows. -/
def ringFetch (s : State) (r w : Nat) : Option Nat × State :=
  let x := s.ring r
  let q := s.q (ringQ r)
  if !x.enable || x.dirD2h || x.error then (none, s)
  else match ringJudge q w with
    | .empty => (none, s)
    | .wait => (none, s)
    | .malformed => (none, ringMalformed s r)
    | .pad g => (none, ringPast s r { q with rptr := (q.rptr + g) % (2 * q.cap) })
    | .item len g => (some len, ringPast s r { q with rptr := (q.rptr + g) % (2 * q.cap), gen := (q.gen + 1) % 4096 })

/-! ### BAR0 as one map (Table 3.2) -/

/-- A host write to a register of host-to-device mailbox `n` (R77 to R79): every register is rejected while GO is 1. -/
def h2dWrite (s : State) (n reg : Nat) (v : Word) : State :=
  if (s.h2d n).go then mbxReject s n (mbxOffset n reg)
  else if reg < 0x40 then mbxWriteWord s n (reg / 4) v
  else if reg = 0x40 then mbxWriteGo s n v
  else s

/-- A host write to a register of ring `r` (Table 3.10); in WINTER it is discarded (R73). -/
def ringWrite (s : State) (r reg : Nat) (v : Word) : State :=
  if s.season = .winter then s
  else match reg / 4 with
    | 0 => ringBaseWrite s r false v
    | 1 => ringBaseWrite s r true v
    | 2 => ringCtrlWrite s r v.toNat
    | 4 => ringWmWrite s r v.toNat
    | 7 => if v.getLsbD 31 then ringFlush s r else s
    | _ => s

/-- A host read of a register of ring `r` (Tables 3.10 to 3.12); in WINTER it returns 0 (R73). A flush takes effect at one instant, so
FLUSHING reads 0 (R96). -/
def ringRead (s : State) (r reg : Nat) : Word × State :=
  let x := s.ring r
  let q := s.q (ringQ r)
  if s.season = .winter then (0, s)
  else match reg / 4 with
    | 0 => (x.baseLo, s)
    | 1 => (x.baseHi, s)
    | 2 => (x.ctrl, s)
    | 3 => (BitVec.ofNat 32 (b2n x.error * 0x80000000 + (if x.dirD2h then q.wptr else q.rptr)), s)
    | 4 => (BitVec.ofNat 32 (b2n q.above * 0x80000000 + b2n q.crossed * 0x40000000 + b2n x.wmIe * 0x20000000 + q.wmLevel), s)
    | 5 => (BitVec.ofNat 32 q.wmCount, s.setQ (ringQ r) { q with wmCount := 0 })
    | 6 => (BitVec.ofNat 32 (if q.kind = .overwriteOldest then q.rptr else 0), s)
    | _ => (BitVec.ofNat 32 (min q.flushed 0xFFFFFF), s)

/-- A 32-bit host write to BAR0 (R68, Table 3.2). -/
def bar0Write (s : State) (off : Nat) (v : Word) : State :=
  if !s.bar0Up then s
  else if off = 0x10 then { s with hif := { s.hif with scratch := v } }
  else if off < 0x10 then s
  else if 0x10000 ≤ off ∧ off < 0x12000 then h2dWrite s ((off - 0x10000) / 0x80) ((off - 0x10000) % 0x80) v
  else if 0x12000 ≤ off ∧ off < 0x14000 then
    if (off - 0x12000) % 0x80 = 0x40 ∧ v.getLsbD 0 then mbxResponseTaken s ((off - 0x12000) / 0x80) else s
  else if off = 0x20000 then irqCauseClear s v
  else if off = 0x20004 then irqEnableWrite s v
  else if 0x30000 ≤ off ∧ off < 0x40000 then ringWrite s ((off - 0x30000) / 0x20) ((off - 0x30000) % 0x20) v
  else if off = 0x5000C then (if s.season = .winter then s else dmaErrClear s v)
  else if 0x50000 ≤ off ∧ off < 0x5000C then s
  else if 0x60000 ≤ off ∧ off < 0x60008 then s
  else if 0xF0000 ≤ off ∧ off < 0xF8000 then msixWrite s ((off - 0xF0000) / 16) ((off - 0xF0000) % 16 / 4) v
  else if 0xF8000 ≤ off ∧ off < 0xF8100 then s
  else if 0x1000000 ≤ off ∧ off < 0x1800000 ∧ off % 0x1000 = 0 then
    doorbellWrite s ((off - 0x1000000) / 0x1000) (v.toNat % 0x20000)
  else s.unmappedWrite

/-- DEV_STATUS (Table 3.3). -/
def State.devStatus (s : State) : Nat :=
  s.season.code * 0x20000000 + s.rd Obj.twRole * 0x8000000 + b2n s.hif.flrDone * 2 + b2n s.running

/-- A 32-bit host read of BAR0 (R68, R71 to R73, Table 3.2): the word, and what the read clears. An unmapped offset reads 0. -/
def bar0Read (s : State) (off : Nat) : Word × State :=
  let winter := decide (s.season = .winter)
  if off = 0 then (0x96400011, s)
  else if off = 4 then (BitVec.ofNat 32 s.devStatus, s)
  else if off = 8 then (BitVec.ofNat 32 s.hif.unmapped, { s with hif := { s.hif with unmapped := 0 } })
  else if off = 0xC then (BitVec.ofNat 32 s.hif.bar2Denied, { s with hif := { s.hif with bar2Denied := 0 } })
  else if off = 0x10 then (s.hif.scratch, s)
  else if 0x10000 ≤ off ∧ off < 0x12000 then mbxRead s false ((off - 0x10000) / 0x80) ((off - 0x10000) % 0x80)
  else if 0x12000 ≤ off ∧ off < 0x14000 then mbxRead s true ((off - 0x12000) / 0x80) ((off - 0x12000) % 0x80)
  else if off = 0x20000 then (s.hif.irqCause, s)
  else if off = 0x20004 then (s.hif.irqEnable, s)
  else if 0x30000 ≤ off ∧ off < 0x40000 then ringRead s ((off - 0x30000) / 0x20) ((off - 0x30000) % 0x20)
  else if 0x50000 ≤ off ∧ off < 0x50010 ∧ winter then (0, s)
  else if off = 0x50000 then (BitVec.ofNat 32 (s.hif.xfers.length % 0x10000), s)
  else if off = 0x50004 then (BitVec.ofNat 32 s.hif.dmaErrAddr, s)
  else if off = 0x50008 then (BitVec.ofNat 32 (s.hif.dmaErrAddr / 2 ^ 32), s)
  else if off = 0x5000C then (s.hif.dmaErrCause, s)
  else if off = 0x60000 then (BitVec.ofNat 32 (s.rd Obj.wakeCause), s)
  else if off = 0x60004 then (BitVec.ofNat 32 s.pw.resetCause, s)
  else if 0xF0000 ≤ off ∧ off < 0xF8000 then (msixRead s ((off - 0xF0000) / 16) ((off - 0xF0000) % 16 / 4), s)
  else if 0xF8000 ≤ off ∧ off < 0xF8100 then (pbaRead s ((off - 0xF8000) / 4), s)
  else if 0x1000000 ≤ off ∧ off < 0x1800000 ∧ off % 0x1000 = 0 then
    let x := s.ring ((off - 0x1000000) / 0x1000)
    (BitVec.ofNat 32 (x.latched.getD x.doorbell), s)
  else (0, s)

/-- A read of BAR0 with its completion. -/
def hostRead (s : State) (off : Nat) : State :=
  let (w, t) := bar0Read s off
  t.emit (.hostRead w)

/-! ### Configuration space (R67, Table 3.1)

The registers are named, because the manual does not place the capabilities. Their layouts are those of the PCI Express Base
Specification (PRESUMED). -/

/-- A read of a configuration register. -/
def cfgRead (s : State) (r : CfgReg) : Word :=
  let c := s.hif.cfg
  match r with
  | .id => 0x96401F7A
  | .command => c.command ||| 0x00100000
  | .classRev => 0x04800011
  | .bar 0 => BitVec.ofNat 32 c.bar0 ||| 4
  | .bar 1 => BitVec.ofNat 32 (c.bar0 / 2 ^ 32)
  | .bar 2 => BitVec.ofNat 32 c.bar2 ||| 0xC
  | .bar 3 => BitVec.ofNat 32 (c.bar2 / 2 ^ 32)
  | .bar _ => 0
  | .msixControl => BitVec.ofNat 32 (b2n s.hif.msixEnable * 0x80000000 + b2n c.functionMask * 0x40000000 + 2047 * 0x10000 + 0x11)
  | .msixTable => 0x000F0000
  | .msixPba => 0x000F8000
  | .aerStatus => c.aerStatus
  | .aerMask => c.aerMask
  | .aerSeverity => c.aerSeverity
  | .aerHeader i => c.aerHeader.getD i 0
  | .serial hi => BitVec.ofNat 32 (if hi then Config.serial / 2 ^ 32 else Config.serial)
  | .power => BitVec.ofNat 32 c.power
  | .absent => 0

/-- MSI-X Enable and Function Mask written; vectors that are not masked any more send what they owe. -/
def msixControlWrite (s : State) (v : Word) : State :=
  let t := { s with hif := { s.hif with
    msixEnable := v.getLsbD 31
    cfg := { s.hif.cfg with functionMask := v.getLsbD 30 } } }
  t.hif.msix.foldl (fun u e => sendOwed u e.1) t

/-- A write of a configuration register: BAR0 decodes 64 MiB, BAR2 64 GiB; a register that is not written keeps its value. -/
def cfgWrite (s : State) (r : CfgReg) (v : Word) : State :=
  let c := s.hif.cfg
  let put := fun (d : PciConfig) => { s with hif := { s.hif with cfg := d } }
  match r with
  | .command => put { c with command := v &&& 0x547 }
  | .bar 0 => put { c with bar0 := c.bar0 / 2 ^ 32 * 2 ^ 32 + v.toNat / 2 ^ 26 * 2 ^ 26 }
  | .bar 1 => put { c with bar0 := c.bar0 % 2 ^ 32 + v.toNat * 2 ^ 32 }
  | .bar 3 => put { c with bar2 := v.toNat / 16 * 16 * 2 ^ 32 }
  | .msixControl => msixControlWrite s v
  | .aerStatus => put { c with aerStatus := c.aerStatus &&& ~~~v }
  | .aerMask => put { c with aerMask := v }
  | .aerSeverity => put { c with aerSeverity := v }
  | .power => put { c with power := v.toNat % 4 }
  | _ => s

/-! ### The commands -/

/-- REGISTER_WRITE (R67, R68): a host write to BAR0 or to the function's configuration space. The accesses that read the same registers
are this row's too, the table having no row of their own for most of them. -/
def execRegisterWrite (r : HostReg) (isRead : Bool) (v : Word) (s : State) : Host.Outcome State Fault Refusal :=
  .next (if !s.bar0Up then s
    else match r with
      | .bar0 off => if isRead then hostRead s (off / 4 * 4) else bar0Write s (off / 4 * 4) v
      | .cfg c => if isRead then s.emit (.hostRead (cfgRead s c)) else cfgWrite s c v)

/-- MBX_MSG_WRITE (R79): a host write to a message word of a host-to-device mailbox. -/
def execMbxMsgWrite (n i : Nat) (v : Word) (s : State) : Host.Outcome State Fault Refusal :=
  .next (if s.bar0Up && decide (n < 64) && decide (i < 16) then mbxWriteWord s n i v else s)

/-- MBX_GO_SET (R82): a host write to GO of a host-to-device mailbox. -/
def execMbxGoSet (n : Nat) (v : Word) (s : State) : Host.Outcome State Fault Refusal :=
  .next (if s.bar0Up && decide (n < 64) then mbxWriteGo s n v else s)

/-- MBX_RESPONSE_TAKEN (R82): a host write of 1 to GO of a device-to-host mailbox. -/
def execMbxResponseTaken (n : Nat) (s : State) : Host.Outcome State Fault Refusal :=
  .next (if s.bar0Up && decide (n < 64) then mbxResponseTaken s n else s)

/-- MBX_DROP_READ (R77): a host read of MBX_DROP returns the count and clears it. -/
def execMbxDropRead (isD2h : Bool) (n : Nat) (s : State) : Host.Outcome State Fault Refusal :=
  .next (if s.bar0Up && decide (n < 64) then (mbxReadDrop s isD2h n).2.emit (.hostRead (mbxReadDrop s isD2h n).1) else s)

/-- DEV_UNMAPPED_READ (R72): the count of writes to unmapped offsets, cleared by the read. -/
def execDevUnmappedRead (s : State) : Host.Outcome State Fault Refusal := .next (if s.bar0Up then hostRead s 8 else s)

/-- DEV_BAR2_DENIED_READ (R72): the count of accesses to closed BAR2 pages, cleared by the read. -/
def execDevBar2DeniedRead (s : State) : Host.Outcome State Fault Refusal := .next (if s.bar0Up then hostRead s 0xC else s)

/-- IRQ_CAUSE_CLEAR (R84): writing 1 to IRQ_CAUSE bits. -/
def execIrqCauseClear (v : Word) (s : State) : Host.Outcome State Fault Refusal :=
  .next (if s.bar0Up then irqCauseClear s v else s)

/-- DMA_ERR_CAUSE_CLEAR (R72); discarded in WINTER (R73). -/
def execDmaErrCauseClear (v : Word) (s : State) : Host.Outcome State Fault Refusal :=
  .next (if s.bar0Up && decide (s.season ≠ .winter) then dmaErrClear s v else s)

/-- MSIX_VECTOR_UNMASK (R84): the Vector Control word of an MSI-X entry written with its mask bit clear. -/
def execMsixVectorUnmask (v : Nat) (s : State) : Host.Outcome State Fault Refusal :=
  .next (if s.bar0Up && decide (v < 2048) then msixWrite s v 3 0 else s)

/-- RING_ENABLE (R89): a RING_CTRL write with ENABLE 1; discarded while the ring runs. -/
def execRingEnable (r : Nat) (ctrl : Word) (s : State) : Host.Outcome State Fault Refusal :=
  .next (if s.bar0Up && decide (r < 2048) && decide (s.season ≠ .winter) && !(s.ring r).enable
    then ringEnable s r ctrl.toNat else s)

/-- RING_DISABLE (R89): a RING_CTRL write with ENABLE 0. -/
def execRingDisable (r : Nat) (ctrl : Word) (s : State) : Host.Outcome State Fault Refusal :=
  .next (if s.bar0Up && decide (r < 2048) && decide (s.season ≠ .winter) then ringDisable s r ctrl.toNat else s)

/-- DOORBELL_H2D (R90): a doorbell write on a host-to-device ring. -/
def execDoorbellH2d (r v : Nat) (s : State) : Host.Outcome State Fault Refusal :=
  .next (if s.bar0Up && decide (r < 2048) && !(s.ring r).dirD2h then doorbellWrite s r (v % 0x20000) else s)

/-- DOORBELL_D2H (R90): a doorbell write on a device-to-host ring. -/
def execDoorbellD2h (r v : Nat) (s : State) : Host.Outcome State Fault Refusal :=
  .next (if s.bar0Up && decide (r < 2048) && (s.ring r).dirD2h then doorbellWrite s r (v % 0x20000) else s)

/-- RING_FLUSH (R96): FLUSH written to RING_FLUSH; discarded in WINTER. -/
def execRingFlush (r : Nat) (s : State) : Host.Outcome State Fault Refusal :=
  .next (if s.bar0Up && decide (r < 2048) && decide (s.season ≠ .winter) then ringFlush s r else s)

/-- RING_WMCNT_READ (R97): the count of upward crossings, cleared by the read; 0 in WINTER (R73). -/
def execRingWmcntRead (r : Nat) (s : State) : Host.Outcome State Fault Refusal :=
  .next (if s.bar0Up && decide (r < 2048) then (ringRead s r 0x14).2.emit (.hostRead (ringRead s r 0x14).1) else s)

/-- WM_CROSSED_CLEAR (R97): 1 written to CROSSED of a queue: through RING_WM of a host ring, where its registers are in service (R73), or
through the WmState of another queue, where the dictionary is. -/
def execWmCrossedClear (n : Nat) (s : State) : Host.Outcome State Fault Refusal :=
  .next (if 44032 ≤ n ∧ n < 46080 then
      (if s.bar0Up && decide (s.season ≠ .winter) then ringCrossedClear s (n - 44032) else s)
    else if n < 65536 ∧ s.running then s.setQ n { s.q n with crossed := false }
    else s)

/-- RING_ITEM_FETCH (R90): the consuming engine takes the item whose length word host memory gives. -/
def execRingItemFetch (r : Nat) (w : Word) (s : State) : Host.Outcome State Fault Refusal :=
  .next (if s.running && decide (r < 2048) then (ringFetch s r w.toNat).2 else s)

/-- What the firmware does with a queue of the general pool (R23, R98): allocates it, choosing its kind, or releases it. -/
def poolAct (s : State) (n : Nat) (a : PoolAct) : State :=
  if 46080 ≤ n ∧ n < 65536 then
    match a with
    | .none => s
    | .allocate overwrite cap =>
      if (s.q n).allocated ∨ cap = 0 ∨ 65536 < cap then s
      else s.setQ n (Queue.fresh (if overwrite then .overwriteOldest else .backPressure) cap)
    | .release => s.setQ n Queue.empty
  else s

/-- QUEUE_RESERVE (R93): a producer's reservation in a hardware queue, which the firmware first allocates or releases where it is one of
the general pool (R23). -/
def execQueueReserve (n : Nat) (a : Reservation) (s : State) : Host.Outcome State Fault Refusal :=
  let t := poolAct s n a.pool
  .next (if n < 65536 ∧ (t.q n).allocated then
      let (res, q) := (t.q n).reserve a.len
      (t.updQ n q).emit (.reserve n res)
    else t)

/-- QUEUE_CLOSE (R86): a producer closes its open item. On a device-to-host host ring the item counts as unreported. -/
def execQueueClose (n : Nat) (body : Item) (s : State) : Host.Outcome State Fault Refusal :=
  .next (if n < 65536 ∧ (s.q n).allocated then
      match (s.q n).close body with
      | (.ok, q) =>
        if 44032 ≤ n ∧ n < 46080 ∧ (s.ring (n - 44032)).dirD2h then
          let r := n - 44032
          withIrq (.ring r) (fun t => (t.setQ n q).setRing r { t.ring r with unreported := (t.ring r).unreported + 1 }) s
        else s.updQ n q
      | (res, q) => (s.updQ n q).emit (.reserve n res)
    else s)

end Sys2Proof.Machine
end

