-- ==== Sys2Proof/Machine/Jitter.lean ====
section
/-! DEFINITION. Legs as every engine reads them, and the hand-out of a jitter buffer's packets to decode items (spec/04, R116 to
R119). -/

namespace Sys2Proof.Machine

/-! ### Legs -/

/-- A gain at rest. -/
def Gain.at (v : Nat) : Gain := ⟨v, v, 0, 0⟩

/-- 1.0 with 20 fractional bits (R208). -/
def one20 : Nat := 1048576

/-- A leg that is FREE. -/
def LegRt.idle : LegRt := {
  stage := .free, turn := [], egressQ := none, live := false, charge := 0, jbOctets := 0, lastRx := 0, rtcpDue := 0,
  mapped := false, mapTs := 0, mapFrame := 0, playUntil := 0, nextSeq := 0, depth := 0, nextDepth := 0,
  silentFrame := false, secondHalf := none, lossRun := 0, level := -1270, hang := 0, vad := false, weight := Gain.at 0,
  outGain := Gain.at one20, duck := Gain.at one20, g := Gain.at one20, n := 0, paths := [], inputFrame := 0, input := [],
  inputLevel := -1270, rawInput := [], mixIn := [], localIn := [], contributor := false, term := [], counts := false, outHold := [], output := [],
  outputClipped := false, nextAdjust := 0, keyMissRx := false, keyMissTx := false, txTwcc := 0, twccHistory := [],
  remb := none, refs := 0, jbMode := 1, blocks := [] }

/-- A receive entry before its first packet. -/
def RxEntry.idle : RxEntry := ⟨false, 0, 0, 0, 0, 0, 0, [], 0, 0, [], 0, 0, 0, 0, 0, [], [], [], [], false, false, none⟩

/-- A send entry before its first packet. -/
def TxEntry.idle : TxEntry := ⟨0, 0, none, none, [], 0, 0, [], 0, false, false, 0, false⟩

def State.leg (s : State) (l : Nat) : LegRt := AMap.get LegRt.idle l s.le.legs
def State.setLeg (s : State) (l : Nat) (x : LegRt) : State :=
  { s with le := { s.le with legs := AMap.put LegRt.idle l x s.le.legs } }
def State.rxE (s : State) (l e : Nat) : RxEntry := AMap.get RxEntry.idle (l * 8 + e) s.le.rx
def State.setRxE (s : State) (l e : Nat) (x : RxEntry) : State :=
  { s with le := { s.le with rx := AMap.put RxEntry.idle (l * 8 + e) x s.le.rx } }
def State.txE (s : State) (l e : Nat) : TxEntry := AMap.get TxEntry.idle (l * 4 + e) s.le.tx
def State.setTxE (s : State) (l e : Nat) (x : TxEntry) : State :=
  { s with le := { s.le with tx := AMap.put TxEntry.idle (l * 4 + e) x s.le.tx } }

/-- A bit of LegConfig.Flags (Table 4.3). -/
def State.legFlag (s : State) (l i : Nat) : Bool := bit (s.rd (Obj.legFlags l)) i

/-- The leg is ACTIVE (Table 4.1). -/
def State.legActive (s : State) (l : Nat) : Bool := decide ((s.leg l).stage = .active)

/-- The stage a leg's accepted transitions leave it in. -/
def LegRt.future (x : LegRt) : LegStage := ((x.turn.getLast?).map Prod.snd).getD x.stage

/-- Legs that are media-active, or hold an accepted activation. -/
def State.goingLegs (s : State) : List Nat :=
  (s.le.legs.filter (fun e => decide (e.2.stage = .active) || (e.2.turn.any (fun t => decide (t.2 = .active))))).map Prod.fst

/-- Legs whose Conf names a conference (Table 4.5, Members). -/
def State.members (s : State) (c : Nat) : List Nat :=
  ((s.dict.filter (fun e => decide (e.1 / 0x1000000 = 0x210001) && decide (e.2 = c))).map (fun e => e.1 % 0x1000000))

/-- ACTIVE legs of a conference (Table 4.5, ActiveMembers). -/
def State.activeMembers (s : State) (c : Nat) : List Nat := (s.members c).filter (fun l => s.legActive l)

/-- Index of an object table over LEG. -/
def isLegIndex (ix : Nat) : Bool :=
  (decide (0x2100 ≤ ix) && decide (ix ≤ 0x2180)) || decide (ix = 0x2311) || decide (ix = 0x3300) || decide (ix = 0x3310) ||
    decide (ix = 0x3320) || decide (ix = 0x7100) || (decide (0x7200 ≤ ix) && decide (ix ≤ 0x7203)) || decide (ix = 0x7300) ||
    decide (ix = 0x8200) || decide (ix = 0xA600)

/-- Every object of a leg's descriptor returned to its default (Table 4.1, RELEASING to FREE). -/
def State.clearLegObjects (s : State) (l : Nat) : State :=
  { s with dict := s.dict.filter (fun e => !(decide (e.1 % 0x1000000 = l) && isLegIndex (e.1 / 0x100000000))) }

/-- The receive entries of a leg that are in use. -/
def State.rxUsed (s : State) (l : Nat) : List Nat := (List.range 8).filter (fun e => decide (s.rd (Obj.rxKind e l) ≠ 0))

/-- The send entries of a leg that are in use. -/
def State.txUsed (s : State) (l : Nat) : List Nat := (List.range 4).filter (fun e => decide (s.rd (Obj.txKind e l) ≠ 0))

/-- The receive entry of kind AUDIO. -/
def State.rxAudio (s : State) (l : Nat) : Option Nat := (List.range 8).find? (fun e => decide (s.rd (Obj.rxKind e l) = 1))

/-- The send entry of kind AUDIO. -/
def State.txAudio (s : State) (l : Nat) : Option Nat := (List.range 4).find? (fun e => decide (s.rd (Obj.txKind e l) = 1))

/-- A leg that takes its media from the fabric (R344). -/
def State.fabricFed (s : State) (l : Nat) : Bool := decide (s.rd (Obj.srcFdev l) ≠ 0xFFFF) && decide (s.rd (Obj.srcKind l) ≠ 0)

/-! ### Codec clocks and frames (Tables 8.1 and 8.2, R375) -/

/-- RTP clock rate of a codec code (R375). -/
def clockRate (codec : Nat) : Nat :=
  if codec = 4 ∨ codec = 8 then 16000 else if codec ∈ [5, 6, 7] then 48000 else 8000

/-- Ptime in milliseconds. -/
def State.ptimeMs (s : State) (l : Nat) : Nat := if s.rd (Obj.ptime l) = 0 then 10 else 20

/-- Mix frame length in nanoseconds. -/
def mixNs : Nat := 10000000

/-! ### The hand-out (R119) -/

/-- Mix frames a packet of the leg plays for. -/
def packetFrames (s : State) (l : Nat) : Nat := s.ptimeMs l / 10

/-- The mix frame at which a timestamp plays under the leg's mapping. -/
def slotFrame (s : State) (l ts : Nat) : Int :=
  let x := s.leg l
  (x.mapFrame : Int) + sgn 32 (ts + 2 ^ 32 - x.mapTs % 2 ^ 32) * 100 / (clockRate (s.rd (Obj.rxCodec l)) : Int)

/-- The slot that covers frame n: of several, the earliest packet's. -/
def coveringSlot (s : State) (l n : Nat) (slots : List (Nat × JbSlot)) : Option JbSlot :=
  let fits := slots.filter (fun (k : Nat × JbSlot) => decide (slotFrame s l k.2.ts ≤ (n : Int)) && decide ((n : Int) < slotFrame s l k.2.ts + packetFrames s l))
  let low := fits.foldl (fun (m : Nat) (k : Nat × JbSlot) => min m k.2.seq) (2 ^ 48)
  (fits.find? (fun (k : Nat × JbSlot) => decide (k.2.seq = low))).map Prod.snd

/-- In ADAPTIVE mode the mapping moves at a frame that the decoder reports as silent (R119 step 4). -/
def silentMove (s : State) (l : Nat) : State :=
  let x := s.leg l
  if x.jbMode = 1 ∧ x.silentFrame ∧ x.mapped ∧ x.nextDepth ≠ x.depth then
    s.setLeg l { x with
      mapFrame := x.mapFrame + (x.nextDepth - x.depth) / 10 - (x.depth - x.nextDepth) / 10
      depth := x.nextDepth }
  else s

/-- A frame for which no packet is there: a packet of its own is lost where a later one waits. -/
def emptyHand (s : State) (l n : Nat) (slots : List (Nat × JbSlot)) : State :=
  let later := (slots.map (fun k => slotFrame s l k.2.ts)).filter (fun f => decide ((n : Int) < f))
  let low := later.foldl min (2 ^ 48)
  if later.isEmpty ∨ (low - (n : Int)) % (max 1 (packetFrames s l) : Nat) ≠ 0 then s
  else (s.setLeg l { s.leg l with nextSeq := (s.leg l).nextSeq + 1 }).inc (Obj.rxLost l)

/-- What the decode item of frame n is handed (R119 step 2). -/
def handOut (s0 : State) (l n : Nat) : Hand × State :=
  if n < (s0.leg l).playUntil then (.second, s0)
  else
    let s := silentMove s0 l
    let x := s.leg l
    match s.rxAudio l with
    | none => (.empty, s)
    | some e =>
      let r := s.rxE l e
      match coveringSlot s l n r.slots with
      | some k =>
        let s1 := s.setRxE l e { r with slots := r.slots.filter (fun y => decide (k.seq < y.2.seq)) }
        let s2 := s1.setLeg l { x with
          nextSeq := max x.nextSeq (k.seq + 1)
          playUntil := (slotFrame s l k.ts + packetFrames s l).toNat }
        (.packet k.audio, s2.count (Obj.rxLost l) (k.seq - x.nextSeq))
      | none => (.empty, emptyHand s l n r.slots)

end Sys2Proof.Machine
end

