-- ==== Sys2Proof/Machine/Dispatcher.lean ====
section
/-! DEFINITION. The dispatcher (spec/06): posts, flows, placement on cores, withdrawal, limits and completion records. -/

namespace Sys2Proof.Machine

/-- Octets of a mebibyte. -/
def mib : Nat := 1048576

/-- HBM capacity in force, in octets (R302, 0x9010.01 Capacity in MiB). -/
def State.capacity (s : State) : Nat := s.rd Obj.capacity * mib

/-- Size in force of partition p (1 to 7), in MiB. -/
def State.partSize (s : State) (p : Nat) : Nat := s.mm.sizes.getD (p - 1) 0

/-- Base of partition p, in octets (R304). -/
def State.partBase (s : State) (p : Nat) : Nat := ((s.mm.sizes.take (p - 1)).sum) * mib

/-- The partition an address lies in; 0 for none. -/
def partOf (s : State) (a : Nat) : Nat :=
  (((List.range 7).map (· + 1)).find? (fun p => decide (s.partBase p ≤ a) && decide (a < s.partBase p + s.partSize p * mib))).getD 0

/-- The memory class of a core's accesses and of a prefetch: that of the region's traffic (R162, R184, Table 1.2). DEDUCED: the two
protected partitions, whose named contents are of C0, have C0 throughout, and space no partition takes has C3. -/
def regionClass (p : Nat) : Nat :=
  if p ∈ [1, 2, 3] then 0 else if p ∈ [4, 5] then 1 else if p = 6 then 2 else 3

/-- HBM octet. -/
def State.rdByte (s : State) (a : Nat) : BitVec 8 := AMap.get 0 a s.mem

/-- A little-endian 32-bit word of HBM. -/
def State.rdWord32 (s : State) (a : Nat) : BitVec 32 :=
  (s.rdByte (a + 3)) ++ (s.rdByte (a + 2)) ++ (s.rdByte (a + 1)) ++ (s.rdByte a)

/-- Registers at reset (Tables 7.3 and 7.4; the banks hold 0). -/
def Regs.reset : Regs := ⟨[], [], [], [], [], [], [], [], [], 0, 0, 0, 0, 0, 0, []⟩

/-- A core at reset. -/
def MatenCore.reset : MatenCore :=
  ⟨Regs.reset, none, 0, 0, 0, [], 0, 0, 0, false, [], false, false, 0, [], none, none, 0, false⟩

def State.core (s : State) (c : Nat) : MatenCore := AMap.get MatenCore.reset c s.mt.cores
def State.setCore (s : State) (c : Nat) (k : MatenCore) : State :=
  { s with mt := { s.mt with cores := AMap.put MatenCore.reset c k s.mt.cores } }

/-- The image of a loaded Maten program number. -/
def State.program (s : State) (n : Nat) : Option Image := AMap.get none n s.mt.programs

/-- TYPE and ID of a flow tag (Table 1.5). -/
def flowType (f : Nat) : Nat := bits f 17 3
def flowId (f : Nat) : Nat := bits f 0 17

/-- A flow tag of a type and identifier. -/
def flowTag (t id : Nat) : Nat := t * 0x20000 + id

/-- Whether a flow tag names a type and an identifier in its range (Table 1.6, R26). -/
def flowValid (f : Nat) : Bool :=
  match flowType f with
  | 0 => true
  | 1 => decide (flowId f < 16384)
  | 2 => true
  | 3 => decide (flowId f < 4096)
  | 4 => decide (flowId f < 1024)
  | 5 => decide (flowId f < 4096)
  | 6 => true
  | _ => false

/-- Whether a port may post a flow type (Table 6.1). -/
def portAllows (src t : Nat) : Bool :=
  match src with
  | 0 => decide (t = 0) || decide (t = 1)
  | 1 => decide (t = 3) || decide (t = 4)
  | 2 => decide (t = 2) || decide (t = 5)
  | 3 => decide (t = 6)
  | _ => false

/-- Items that have not entered service. -/
def WorkItem.waiting (w : WorkItem) : Bool :=
  match w.place with
  | .parked | .ready | .staged _ => true
  | _ => false

/-- The core an item runs on. -/
def WorkItem.core (w : WorkItem) : Option Nat :=
  match w.place with
  | .running c => some c
  | _ => none

/-- The core an item is staged on. -/
def WorkItem.stagedOn (w : WorkItem) : Option Nat :=
  match w.place with
  | .staged c => some c
  | _ => none

/-- The head of a flow: its oldest item that has not entered service (R159). -/
def flowHead (items : List WorkItem) (f : Nat) : Option WorkItem :=
  items.find? (fun w => decide (w.desc.flow = f) && w.waiting)

/-- The item of a flow in service. -/
def inService (items : List WorkItem) (f : Nat) : Option Nat :=
  (items.find? (fun w => decide (w.desc.flow = f) && w.core.isSome)).bind WorkItem.core

/-- The level a flow's head competes at: the highest PRIO of the flow's waiting items (R159). -/
def flowLevel (items : List WorkItem) (f : Nat) : Nat :=
  (items.filter (fun w => decide (w.desc.flow = f) && w.waiting)).foldl (fun m w => max m w.prio) 0

/-- The staged items of a core, oldest staging first (stagings keep list order by `started`). -/
def stagedList (items : List WorkItem) (c : Nat) : List WorkItem :=
  sortBy (fun a b => decide (a.started ≤ b.started)) (items.filter (fun w => decide (w.stagedOn = some c)))

/-- Core c is online (CoreOnline, R161). -/
def State.coreOnline (s : State) (c : Nat) : Bool := bit (s.rd (Obj.coreOnline (c / 32))) (c % 32)

/-- A prefetch slot of a core is free (R160): two slots. -/
def State.freeSlot (s : State) (c : Nat) : Bool := decide ((stagedList s.disp.items c).length < 2)

/-- Clusters run, or may be started on demand (R161): in every season in which the control cluster is powered. -/
def State.clusters (s : State) : Bool :=
  decide (s.season = .spring) || decide (s.season = .summer) || decide (s.season = .autumn)

/-- Core c is eligible for an item (R161): online, in the item's cluster mask, its cluster running or to be started. -/
def State.eligible (s : State) (c : Nat) (w : WorkItem) : Bool :=
  decide (c < 128) && s.coreOnline c && bit w.mask (c / 8) && s.clusters

/-- Entries of the flow table. -/
def flowEntries : Nat := 65536

/-- LAST_CORE of a flow's entry as one more than its number; 0 where the flow has none. -/
def lastCore (flows : List (Nat × Nat)) (f : Nat) : Nat := ((flows.find? (fun e => decide (e.1 = f))).map Prod.snd).getD 0

/-- The entry of a flow used, with its LAST_CORE (R160): it comes first; a new entry takes that of the least recently used hint. DESIGN
CHOICE: an entry is used when a post of its flow is accepted and when an item of it enters service. -/
def useFlow (items : List WorkItem) (flows : List (Nat × Nat)) (f last : Nat) : List (Nat × Nat) :=
  let rest := flows.filter (fun e => decide (e.1 ≠ f))
  let kept := if rest.length < flowEntries then rest
    else match rest.reverse.find? (fun e => !items.any (fun w => decide (w.desc.flow = e.1))) with
      | some x => rest.filter (fun e => decide (e.1 ≠ x.1))
      | none => rest
  (f, last) :: kept

/-- Setting of the place of one item. -/
def placeItem (items : List WorkItem) (wi : Nat) (p : ItemPlace) : List WorkItem :=
  items.map (fun w => if w.wi = wi then { w with place := p } else w)

/-- The dispatcher's status objects follow its items (Table 6.7), and the backlog watermark is re-evaluated (R173). -/
def State.dispStatus (s : State) : State :=
  let it := s.disp.items
  let depth := (it.filter (fun w => decide (w.place = .ready))).length
  let s1 := ((s.wr Obj.handlesInUse it.length).wr Obj.readyDepth depth).wr Obj.parkedDepth
    (it.filter (fun w => decide (w.place = .parked))).length
  let s2 := [0, 1, 2, 3].foldl (fun t k => t.wr (Obj.sourceInUse k) (it.filter (fun w => decide (w.src = k))).length) s1
  let s3 := s2.wr Obj.flowsActive ((it.map (fun w => w.desc.flow)).eraseDups).length
  let lvl := s3.rd Obj.backlogLevel
  let st := s3.rd Obj.backlogState
  let above := decide (lvl ≠ 0) && decide (lvl ≤ depth)
  if above && !bit st 0 then
    let s4 := (s3.wr Obj.backlogState 3).inc Obj.backlogCount
    if bit st 1 then s4 else s4.event Ev.dispatchBacklog 0 0
  else s3.wr Obj.backlogState (putBit st 0 above)

/-- The first word of an item buffer in a core's memory: buffer 0 at 0x8000, the others after it (R181). -/
def bufWord (b : Nat) : Nat := 0x8000 + b * 0x800

/-- The item buffer of a free prefetch slot: neither mapped at the ITEM window nor holding a staged item's data. -/
def freeBuf (s : State) (c : Nat) : Nat :=
  ([0, 1, 2].find? (fun b => decide (b ≠ (s.core c).win) && !(stagedList s.disp.items c).any (fun w => decide (w.buf = b)))).getD 0

/-- HBM words from octet address `base` in words `dst` on of a core's memory: `n` of them from word `i`. -/
def bufFill (s : State) (base dst : Nat) : Nat → Nat → List (Nat × BitVec 32) → List (Nat × BitVec 32)
  | 0, _, m => m
  | n + 1, i, m => bufFill s base dst n (i + 1) (AMap.put 0 (dst + i) (s.rdWord32 (base + 4 * i)) m)

/-- Staging of an item on a core (R162): its data is prefetched into the slot's buffer. -/
def State.stage (s : State) (w : WorkItem) (c : Nat) : State :=
  let b := freeBuf s c
  let k := s.core c
  let s1 := s.setCore c { k with mem := bufFill s (w.desc.data * 64) (bufWord b) (w.prefetch / 4) 0 k.mem }
  { s1 with disp := { s1.disp with
    items := s1.disp.items.map (fun (x : WorkItem) =>
      if x.wi = w.wi then { x with place := .staged c, started := s1.disp.nextOrder, buf := b } else x)
    nextOrder := s1.disp.nextOrder + 1 } }

/-- head_ready of R162: an item that has become its flow's head is staged by affinity, parked, or made ready. -/
def headReady (s : State) (w : WorkItem) : State :=
  let f := w.desc.flow
  let svc := inService s.disp.items f
  let c := match svc with
    | some c => some c
    | none => let l := lastCore s.disp.flows f; if l = 0 then none else some (l - 1)
  let hit := match c with
    | some c => s.eligible c w && s.freeSlot c
    | none => false
  if hit then (s.stage w (c.getD 0)).inc (Obj.dispatchCounter 4)
  else if svc.isSome then { s with disp := { s.disp with items := placeItem s.disp.items w.wi .parked } }
  else { s with disp := { s.disp with items := placeItem s.disp.items w.wi .ready } }

/-- While an item of a flow is in service, its head goes to no other core (R160). -/
def serviceAllows (items : List WorkItem) (f c : Nat) : Bool :=
  match inService items f with
  | some k => decide (k = c)
  | none => true

/-- slot_free of R162: the oldest item at the highest level holding an item eligible for the core. -/
def slotPick (s : State) (c : Nat) : Option WorkItem :=
  let cand := s.disp.items.filter (fun w => decide (w.place = .ready) && s.eligible c w && serviceAllows s.disp.items w.desc.flow c)
  let top := cand.foldl (fun m w => max m (flowLevel s.disp.items w.desc.flow)) 0
  cand.find? (fun w => decide (flowLevel s.disp.items w.desc.flow = top))

/-- A core fills its free slots from the ready lists. -/
def slotFree (s : State) (c : Nat) : State :=
  if s.freeSlot c then
    match slotPick s c with
    | some w => s.stage w c
    | none => s
  else s

/-- The first core below `n` with a free slot and an eligible ready item takes one (R163: the lowest-numbered first). -/
def fillOne (s : State) (n : Nat) : Option State :=
  ((List.range n).find? (fun c => s.freeSlot c && (slotPick s c).isSome)).map (fun c => slotFree s c)

/-- Ready items are taken by free slots until none fits; at most `fuel` of them. -/
def fillSlots : Nat → State → State
  | 0, s => s
  | k + 1, s =>
    if s.disp.items.any (fun w => decide (w.place = .ready)) then
      match fillOne s 128 with
      | some t => fillSlots k t
      | none => s
    else s

/-- DISPATCH_NO_CORE is raised once when the condition begins that a waiting item has no eligible online core (R169). DESIGN CHOICE:
the condition is one per flow type, which the event carries. -/
def noCoreCheck (s : State) : State :=
  let lost := s.disp.items.filter (fun w => w.waiting && !((List.range 128).any (fun c => s.coreOnline c && bit w.mask (c / 8))))
  let types := (lost.map (fun w => flowType w.desc.flow)).eraseDups
  let new := types.filter (fun t => !(s.disp.noCore.contains t))
  let s1 := { s with disp := { s.disp with noCore := types } }
  new.foldl (fun t f => t.event Ev.dispatchNoCore f 0) s1

/-- After a change of items: ready items are placed, the status objects follow. -/
def State.settle (s : State) : State := (noCoreCheck (fillSlots s.disp.items.length s)).dispStatus

/-- The result of a post (R156). -/
inductive PostResult | accepted (wi : Nat) | full | refused
deriving DecidableEq, Repr

/-- A handle no item holds, starting from a choice of the bridge's. -/
def freeHandle (items : List WorkItem) : Nat → Nat → Nat
  | 0, h => h
  | k + 1, h => if items.any (fun w => decide (w.wi = h)) then freeHandle items k ((h + 1) % 65536) else h

/-- The fields of a descriptor of eight words (R157, Table 6.2); SRC and the reserved bits are not the source's to set. -/
def Descriptor.ofWords (ws : List Word) : Descriptor :=
  let w := fun (i : Nat) => (ws.getD i 0).toNat
  { flow := bits (w 0) 12 20
    prio := bits (w 0) 6 6
    program := bits (w 1) 16 16
    timeout := bits (w 1) 0 16
    arg0 := w 2
    arg1 := w 3
    data := w 4
    cq := bits (w 5) 16 16
    dataLen := bits (w 5) 0 16
    wgroup := bits (w 6) 8 24
    wseq := bits (w 6) 0 8 }

/-- A descriptor may not be posted on a port (R158); one naming a program whose image failed its check neither (R431). -/
def postRefused (s : State) (src : Nat) (d : Descriptor) : Bool :=
  !flowValid d.flow || !portAllows src (flowType d.flow) || (s.program d.program).isNone || s.ig.corrupt.contains d.program ||
    decide (s.capacity < d.data * 64 + d.dataLen * 64)

/-- A completion record written to queue CQ of SRC 3 (R168), which has room only where it is a back-pressure queue of the general pool.
DESIGN CHOICE: any other queue has none, since no rule lets a record be written to it. -/
def State.pushRecord (s : State) (cq w0 w1 cycles result : Nat) : Option State :=
  if 46080 ≤ cq ∧ cq < 65536 ∧ (s.q cq).allocated ∧ (s.q cq).kind = .backPressure then
    match s.push cq 20 (.record w0 w1 cycles result) with
    | (.ok, t) => some t
    | _ => none
  else none

/-- Word 0 of the record of a refused post: NOHANDLE and REFUSED. -/
def refusedW0 : Nat := 0x8000 + 5

/-- A refused post (R26, R158): its REFUSED record to the port, or for SRC 3 to its CQ, where it waits for room (R168). -/
def refusePost (s : State) (src : Nat) (d : Descriptor) : State :=
  let s1 := s.inc (Obj.dispatchCounter 0)
  if src = 3 then
    match s1.pushRecord d.cq refusedW0 (d.flow * 0x1000) 0 0 with
    | some t => t
    | none => { s1 with disp := { s1.disp with owed := s1.disp.owed ++ [(d.cq, d.flow)] } }
  else s1.emit (.completion src refusedW0 (d.flow * 0x1000) 0 0)

/-- A decode item takes what its jitter buffer hands it when its post is accepted: until then the cursor stands at its leg (Table 6.5,
R119). -/
def acceptJob (s : State) (d : Descriptor) : Job → Job × State
  | .decode n .pending => let (h, t) := handOut s (flowId d.flow) n; (.decode n h, t)
  | j => (j, s)

/-- A post without the FULL check's hold (R155 to R158, R164): refused, full, or accepted with a handle. -/
def tryPost (s : State) (src : Nat) (d : Descriptor) (job : Job) : PostResult × State :=
  if postRefused s src d then (.refused, refusePost s src d)
  else if s.rd (Obj.handleQuota src) ≤ (s.disp.items.filter (fun w => decide (w.src = src))).length ∨
      65536 ≤ s.disp.items.length then (.full, s)
  else
    let (jb, s00) := acceptJob s d job
    let (c, s0) := s00.choose 65536
    let h := freeHandle s0.disp.items s0.disp.items.length c
    let t := flowType d.flow
    let cls := s0.rd (Obj.dcPriority t)
    let wt := s0.rd (Obj.dcWaitTimeout t)
    let w : WorkItem := {
      wi := h
      src := src
      desc := d
      job := jb
      prio := if src = 3 ∧ d.prio ≠ 0 then d.prio else cls
      limit := if d.timeout = 0 then wt * 1000 else d.timeout * 10000
      runLimit := s0.rd (Obj.dcRunLimit t)
      mask := s0.rd (Obj.dcClusterMask t)
      prefetch := min (d.dataLen * 64) (s0.rd (Obj.dcPrefetchBytes t))
      cls := regionClass (partOf s0 (d.data * 64))
      accepted := s0.mono
      order := s0.disp.nextOrder
      place := .parked
      ended := none
      started := 0
      buf := 0 }
    let isHead := (flowHead s0.disp.items d.flow).isNone
    let s1 := { s0 with disp := { s0.disp with
      items := s0.disp.items ++ [w]
      nextOrder := s0.disp.nextOrder + 1
      flows := useFlow s0.disp.items s0.disp.flows d.flow (lastCore s0.disp.flows d.flow) } }
    let s2 := (if isHead then headReady s1 w else s1).settle
    (.accepted h, s2.demand)

/-- A CONF_MIX post held by the leg engine goes before any held decode item (Table 6.5). -/
def holdPost (held : List HeldPost) (h : HeldPost) : List HeldPost :=
  match h.job with
  | .mix _ =>
    let isMix := fun (x : HeldPost) => match x.job with
      | .mix _ => true
      | _ => false
    held.takeWhile isMix ++ h :: held.dropWhile isMix
  | _ => held ++ [h]

/-- A post by a source (R156, R170): a source that holds an item posts nothing behind it; FULL starts a hold and counts
one stall. -/
def State.post (s : State) (src : Nat) (d : Descriptor) (job : Job) : State :=
  if s.disp.held.any (fun h => decide (h.src = src)) then
    { s with disp := { s.disp with held := holdPost s.disp.held (HeldPost.mk src d job) } }
  else
    match tryPost s src d job with
    | (.full, t) =>
      ({ t with disp := { t.disp with held := t.disp.held ++ [HeldPost.mk src d job] } }).inc (Obj.dispatchCounter 3)
    | (_, t) => t

/-- Held posts are tried again in order, each source stopping at its first FULL. -/
def retryHeld (s : State) : State :=
  let r := s.disp.held.foldl (fun (acc : List Nat × List HeldPost × State) h =>
    if acc.1.contains h.src then (acc.1, acc.2.1 ++ [h], acc.2.2)
    else match tryPost acc.2.2 h.src h.desc h.job with
      | (.full, t) => (h.src :: acc.1, acc.2.1 ++ [h], t)
      | (_, t) => (acc.1, acc.2.1, t)) ([], [], s)
  { r.2.2 with disp := { r.2.2.disp with held := r.2.1 } }

/-- Words 0 and 1 of a completion record (Table 6.4). -/
def recordW0 (wi status : Nat) : Nat := wi * 0x10000 + status

/-- The item is gone: its flow's next item becomes head, freed slots are filled, held posts retried. -/
def State.dropItem (s : State) (w : WorkItem) : State :=
  let wasHead := decide ((flowHead s.disp.items w.desc.flow).map WorkItem.wi = some w.wi) || w.core.isSome
  let s1 := { s with disp := { s.disp with items := s.disp.items.filter (fun x => decide (x.wi ≠ w.wi)) } }
  let s2 := if wasHead then
      match flowHead s1.disp.items w.desc.flow with
      | some h => if h.place = .parked then headReady s1 h else s1
      | none => s1
    else s1
  (retryHeld s2.settle).settle

/-- What an item's run adds to the time its core has run items since the latch (R172). -/
def State.spend (s : State) (w : WorkItem) : State :=
  match w.core with
  | some c => { s with disp := { s.disp with
      busy := AMap.put 0 c (AMap.get 0 c s.disp.busy + (s.dspUnits - max w.started s.disp.latchUnits)) s.disp.busy } }
  | none => s

/-- The completion record of an item (R168): to the source's port, or for SRC 3 to queue CQ; while CQ lacks room the record
waits and the handle stays taken. -/
def State.complete (s0 : State) (w : WorkItem) (status cycles result : Nat) : State :=
  let s := s0.spend w
  let w0 := recordW0 w.wi status
  let w1 := w.desc.flow * 0x1000
  if w.src = 3 then
    match s.pushRecord w.desc.cq w0 w1 cycles result with
    | some t => t.dropItem w
    | none =>
      let s1 := { s with disp := { s.disp with items := placeItem s.disp.items w.wi (.record w0 w1 cycles result) } }
      match flowHead s1.disp.items w.desc.flow with
      | some h => if h.place = .parked then (headReady s1 h).settle else s1.settle
      | none => s1.settle
  else (s.emit (.completion w.src w0 w1 cycles result)).dropItem w

/-- A withdrawal (R166, R167): every item of the source with the group and sequence that has not entered service ends
WITHDRAWN, in acceptance order. -/
def State.withdraw (s : State) (src group seq : Nat) : State :=
  let gone := s.disp.items.filter (fun w =>
    decide (w.src = src) && decide (w.desc.wgroup = group) && decide (w.desc.wseq = seq) && w.waiting)
  gone.foldl (fun t w => (t.inc (Obj.dispatchCounter 2)).complete w 1 0 0) s

/-- The bin of a wait in nanoseconds (R173). -/
def waitBin (ns : Nat) : Nat :=
  let us := ns / 1000
  if us < 2 then 1 else if 32768 ≤ us then 16 else Nat.log2 us + 1

/-- An item leaves the dispatcher's view as running on a core (R164, R173): LAST_CORE, its wait in the histogram. -/
def State.enterService (s : State) (w : WorkItem) (c : Nat) : State :=
  let t := flowType w.desc.flow
  let k := t * 16 + waitBin (s.mono - w.accepted)
  { s with disp := { s.disp with
    items := s.disp.items.map (fun x => if x.wi = w.wi then { x with place := .running c, started := s.dspUnits } else x)
    flows := useFlow s.disp.items s.disp.flows w.desc.flow (c + 1)
    hist := AMap.put 0 k (satAdd (AMap.get 0 k s.disp.hist) 1 0xFFFFFFFF) s.disp.hist } }

/-- The item a core runs. -/
def State.itemOn (s : State) (c : Nat) : Option WorkItem := s.disp.items.find? (fun w => decide (w.core = some c))

/-- WORK_ITEM_POST (R156, R157): a source posts a work item by the eight words of its descriptor. -/
def execWorkItemPost (src : Nat) (ws : List Word) (s : State) : Host.Outcome State Fault Refusal :=
  .next (if src < 4 ∧ s.running then s.post src (Descriptor.ofWords ws) .other else s)

/-- A REFUSED record that waits for room is written: the oldest whose CQ has room. -/
def giveOwed (s : State) : State :=
  s.disp.owed.foldl (fun (acc : Bool × State) e =>
    if acc.1 then acc
    else match acc.2.pushRecord e.1 refusedW0 (e.2 * 0x1000) 0 0 with
      | some t => (true, { t with disp := { t.disp with owed := t.disp.owed.erase e } })
      | none => acc) (false, s) |>.2

/-- A record waiting for room in its CQ is written and the handle is freed. -/
def giveRecord (s : State) (w : WorkItem) : State :=
  match w.place with
  | .record w0 w1 cy res => ((s.pushRecord w.desc.cq w0 w1 cy res).map (fun t => t.dropItem w)).getD s
  | _ => s

/-- COMPLETION_RECORD_ROOM (R168): the record of handle `wi`, or for 65,536, which is no handle, a REFUSED record. -/
def execCompletionRecordRoom (wi : Nat) (s : State) : Host.Outcome State Fault Refusal :=
  .next (if wi = 65536 then giveOwed s
    else match s.disp.items.find? (fun w => decide (w.wi = wi)) with
      | some w => giveRecord s w
      | none => s)

/-- WAIT_LIMIT_EXPIRY (R165): an item that has waited its limit without entering service ends with TIMEOUT. -/
def execWaitLimitExpiry (wi : Nat) (s : State) : Host.Outcome State Fault Refusal :=
  .next (match s.disp.items.find? (fun w => decide (w.wi = wi)) with
    | some w =>
      if w.waiting ∧ w.limit ≠ 0 ∧ w.accepted + w.limit ≤ s.mono then
        let t := flowType w.desc.flow
        (((s.inc (Obj.dispatchCounter 1)).eventRated Ev.dispatchTimeout t t 0).complete w 2 0 0)
      else s
    | none => s)

/-- The bits of a CoreOnline word but for those of cores retired for ECC, which return only at reset (R191). -/
def onlineBits (s : State) (j v : Nat) : Nat :=
  (s.disp.retired.filter (fun c => decide (c / 32 = j))).foldl (fun x c => clrBit x (c % 32)) v

/-- CoreOnline of word `j` written (CORE_ONLINE_CLEAR and its converse, R169): cores whose bit falls take no further staging, and their
staged items return to READY. -/
def coreOnlineWrite (s : State) (j v : Nat) : State :=
  let s1 := s.wr (Obj.coreOnline j) (onlineBits s j v)
  let s2 := { s1 with disp := { s1.disp with items := s1.disp.items.map (fun (w : WorkItem) =>
    match w.place with
    | .staged c => if c / 32 = j ∧ ¬ s1.coreOnline c then { w with place := .ready } else w
    | _ => w) } }
  s2.settle

end Sys2Proof.Machine
end

