-- ==== Sys2Proof/WellFormed.lean ====
section
/-! DEFINITION. Well-formed commands: every identifier in its range of Table 0.1 or of the table that names the unit, every message
field in its width. -/

namespace Sys2Proof

/-- A channel that exists: 64 mailbox pairs (R67), 16-bit DTP sessions (R45), 512 fabric devices (Table 0.1). -/
def Chan.ok : Chan → Bool
  | .mbx n => decide (n < 64)
  | .dtp n => decide (n < 65536)
  | .peer n => decide (n < 512)
  | .fw => true

/-- A TAG of a request (Table 2.5). -/
def tagOk (t : Nat) : Bool := decide (t < 65536)

/-- A number of an open group (R51). -/
def groupOk (g : Nat) : Bool := decide (1 ≤ g) && decide (g < 65)

/-- Every field of a request in its width (Table 2.5). -/
def Req.ok (r : Req) : Bool :=
  decide (r.op < 256) && decide (r.words < 256) && decide (r.flags < 256) && tagOk r.tag && decide (r.index < 65536) &&
    decide (r.sub < 256) && decide (r.count < 256) && decide (r.group < 65536) && decide (r.element < 0x1000000) &&
    decide (r.length < 0x100000000)

/-- Octets are numbers below 256. -/
def octetsOk (x : List Nat) : Bool := x.all (fun b => decide (b < 256))

/-- The octets of an image, a token body and a token signature. -/
def Image.ok (i : Image) : Bool := octetsOk i.octs
def Token.ok (t : Token) : Bool := octetsOk t.octs
def TokenSig.ok (g : TokenSig) : Bool := octetsOk g.octs

/-- A frame's ports and EtherType in their widths (Table 4.6). -/
def Frame.ok (f : Frame) : Bool := decide (f.etherType < 65536) && decide (f.srcPort < 65536) && decide (f.dstPort < 65536)

/-- A fabric frame's fields in their widths (Table 14.2). -/
def FabFrame.ok (f : FabFrame) : Bool :=
  decide (f.vc < 4) && decide (f.dst < 65536) && decide (f.src < 65536) && decide (f.ttl < 256) && decide (f.seq < 0x100000000)

/-- A host access to a register: BAR0's are 32-bit words, at aligned offsets below 64 MiB (Tables 3.1 and 3.2). -/
def HostReg.ok : HostReg → Bool
  | .bar0 off => decide (off % 4 = 0) && decide (off < 0x4000000)
  | .cfg _ => true

/-- A queue of the general pool holds 1 to 65,536 granules. -/
def PoolAct.ok : PoolAct → Bool
  | .allocate _ cap => decide (1 ≤ cap) && decide (cap ≤ 65536)
  | _ => true

/-- The header fields of a DTP datagram in their ranges (Table 2.8). -/
def Datagram.ok (d : Datagram) : Bool := decide (d.datalen ≤ 1024) && decide (d.flags < 256) && d.req.ok

/-- An HBM access through BAR2 that one transaction makes: inside one 4 KiB block, one octet or more. -/
def blockOk (a n : Nat) : Bool := decide (1 ≤ n) && decide (a % 4096 + n ≤ 4096)

/-- Pointers and modifiers P0 to P15, M0 to M15 (Table 7.1). -/
def AddrMode.ok : AddrMode → Bool
  | .indirect p => decide (p < 16)
  | .offset p k => decide (p < 16) && decide (-32 ≤ k) && decide (k ≤ 31)
  | .postInc p => decide (p < 16)
  | .postDec p => decide (p < 16)
  | .postMod p m => decide (p < 16) && decide (m < 16)
  | .bitRev p m => decide (p < 16) && decide (m < 16)

/-- Register numbers of Table 7.1. -/
def MovReg.ok : MovReg → Bool
  | .d n => decide (n < 32)
  | .pair n => decide (n < 32) && decide (n % 2 = 0)
  | .p n | .b n | .l n | .m n => decide (n < 16)
  | .lc n | .ls n | .le n => decide (n < 4)
  | .status | .mode | .tcmp | .dr | .ira | .istat => true

def MovSrc.ok : MovSrc → Bool
  | .reg r => r.ok
  | .imm _ | .cyc => true

/-- Data registers D0 to D31 (Table 7.1). -/
def StaForm.ok : StaForm → Bool
  | .movaD d => decide (d < 32)
  | .staH a => a.ok
  | .staP a => a.ok
  | .pairD d => decide (d < 32)
  | .fieldG d => decide (d < 32)
  | .fieldH d => decide (d < 32)
  | .fieldL d => decide (d < 32)
  | .setG d => decide (d < 32)
  | .setH d => decide (d < 32)
  | .setL d => decide (d < 32)
  | .loadD d => decide (d < 32)
  | .loadPair d => decide (d < 32)
  | .mov r x => r.ok && x.ok

def LdForm.ok : LdForm → Bool
  | .ld d a => decide (d < 32) && a.ok
  | .ldp d a => decide (d < 32) && a.ok
  | .ld2 d a e b => decide (d < 32) && a.ok && decide (e < 32) && b.ok

def StForm.ok : StForm → Bool
  | .st d a => decide (d < 32) && a.ok
  | .stp d a => decide (d < 32) && a.ok

/-- A command whose identifiers are in range. -/
def Instr.ok : Instr → Bool
  | .dictRead ch r _ => ch.ok && r.ok
  | .dictWrite ch r _ => ch.ok && r.ok
  | .describe ch r => ch.ok && r.ok
  | .groupOpen ch tag => ch.ok && tagOk tag
  | .groupCommit ch tag g => ch.ok && tagOk tag && decide (g < 65536)
  | .groupDiscard ch tag g => ch.ok && tagOk tag && decide (g < 65536)
  | .groupTimeoutExpiry g => groupOk g
  | .persistImageWrite ch tag _ => ch.ok && tagOk tag
  | .operatorSessionOpen ch tag t => ch.ok && tagOk tag && t.ok
  | .operatorSessionClose ch tag => ch.ok && tagOk tag
  | .indirectTransferDone n _ => decide (n < 64)
  | .hostReadCompletionTimeout isRing n _ => decide (n < (if isRing then 2048 else 64))
  | .hostReadErrorCompletion isRing n _ => decide (n < (if isRing then 2048 else 64))
  | .dtpDatagramRx d => d.ok
  | .dtpOpen _ => true
  | .dtpSigfrag _ _ fragment fragments len g => decide (fragment < fragments) && decide (fragments < 65536) && decide (g.octs.length = len) && g.ok
  | .dtpSessionOpenTimeout _ => true
  | .peerDictMessage => true
  | .mixFrameBoundary => true
  | .functionLevelReset => true
  | .registerWrite r _ _ => r.ok
  | .bar2Read a n => blockOk a n
  | .bar2Write a octets => blockOk a octets.length
  | .mbxMsgWrite n j _ => decide (n < 64) && decide (j < 16)
  | .mbxGoSet n _ => decide (n < 64)
  | .mbxTake n => decide (n < 64)
  | .mbxResponseTaken n => decide (n < 64)
  | .mbxDropRead _ n => decide (n < 64)
  | .devUnmappedRead => true
  | .devBar2DeniedRead => true
  | .irqCauseClear _ => true
  | .dmaErrCauseClear _ => true
  | .msixVectorUnmask v => decide (v < 2048)
  | .ringEnable r _ => decide (r < 2048)
  | .ringDisable r _ => decide (r < 2048)
  | .doorbellH2d r v => decide (r < 2048) && decide (v < 4294967296)
  | .doorbellD2h r v => decide (r < 2048) && decide (v < 4294967296)
  | .ringFlush r => decide (r < 2048)
  | .ringWmcntRead r => decide (r < 2048)
  | .wmCrossedClear n => decide (n < 65536)
  | .ringItemFetch r _ => decide (r < 2048)
  | .queueReserve n a => decide (n < 65536) && a.pool.ok
  | .queueClose n _ => decide (n < 65536)
  | .queueFlush ch tag g q => ch.ok && tagOk tag && decide (g < 65536) && decide (q < 65536)
  | .legRegister ch tag g l => ch.ok && tagOk tag && decide (g < 65536) && decide (l < 131072)
  | .legActivate ch tag g l => ch.ok && tagOk tag && decide (g < 65536) && decide (l < 131072)
  | .legDeactivate ch tag g l => ch.ok && tagOk tag && decide (g < 65536) && decide (l < 131072)
  | .legFree ch tag g l => ch.ok && tagOk tag && decide (g < 65536) && decide (l < 131072)
  | .legQuiescent l => decide (l < 131072)
  | .egressQueueRelease l => decide (l < 131072)
  | .legRxTimeout l => decide (l < 131072)
  | .confActivate ch tag g c => ch.ok && tagOk tag && decide (g < 65536) && decide (c < 16384)
  | .confFree ch tag g c => ch.ok && tagOk tag && decide (g < 65536) && decide (c < 16384)
  | .anchorRepoint ch tag g c _ _ => ch.ok && tagOk tag && decide (g < 65536) && decide (c < 16384)
  | .ethFrameRx port f => decide (port < 2) && f.ok
  | .frameClassify _ _ => true
  | .classifierImageWrite ch tag g im => ch.ok && tagOk tag && decide (g < 65536) && im.ok
  | .cipherDispatch k => decide (k < 8)
  | .cipherResultRelease k _ => decide (k < 8)
  | .jitterDepthAdjust l => decide (l < 131072)
  | .videoWaitExpiry l e => decide (l < 131072) && decide (e < 8)
  | .nackSend l e => decide (l < 131072) && decide (e < 8)
  | .nackRetry l e => decide (l < 131072) && decide (e < 8)
  | .rtcpReportTimer l => decide (l < 131072)
  | .promptItemFetch j _ _ => decide (j < 32)
  | .tapEnable ch tag g _ _ => ch.ok && tagOk tag && decide (g < 65536)
  | .tapSectorWrite _ _ => true
  | .keySuiteWrite ch tag g k _ => ch.ok && tagOk tag && decide (g < 65536) && decide (k < 65536)
  | .keyLoad ch tag g k _ _ => ch.ok && tagOk tag && decide (g < 65536) && decide (k < 65536)
  | .keyWrappedLoad ch tag g k _ _ => ch.ok && tagOk tag && decide (g < 65536) && decide (k < 65536)
  | .keyErase ch tag g k => ch.ok && tagOk tag && decide (g < 65536) && decide (k < 65536)
  | .keyEraseComplete k => decide (k < 65536)
  | .windowCommitRelease l e => decide (l < 131072) && decide (e < 4)
  | .workItemPost src ws => decide (src < 4) && decide (ws.length = 8)
  | .workItemStart c => decide (c < 128)
  | .workItemComplete c _ _ => decide (c < 128)
  | .completionRecordRoom wi => decide (wi < 65537)
  | .waitLimitExpiry wi => decide (wi < 65536)
  | .runLimitExpiry c => decide (c < 128)
  | .coreOnlineClear ch tag g j _ => ch.ok && tagOk tag && decide (g < 65536) && decide (j < 4)
  | .counterLatch => true
  | .mpy c _ => decide (c < 128)
  | .mac c _ => decide (c < 128)
  | .macsh c _ => decide (c < 128)
  | .rnda c _ => decide (c < 128)
  | .clr c _ => decide (c < 128)
  | .acs c _ => decide (c < 128)
  | .loopOp c _ lvl _ _ => decide (c < 128) && decide (lvl < 4)
  | .breakOp c _ => decide (c < 128)
  | .reti c => decide (c < 128)
  | .endOp c => decide (c < 128)
  | .dmar c _ _ r _ => decide (c < 128) && decide (r < 32)
  | .dmaw c _ _ r _ => decide (c < 128) && decide (r < 32)
  | .dmawait c _ _ => decide (c < 128)
  | .dmaTransferComplete c _ => decide (c < 128)
  | .interruptEntry c _ => decide (c < 128)
  | .tmrMatch c => decide (c < 128)
  | .matenLoad ch tag g im => ch.ok && tagOk tag && decide (g < 65536) && im.ok
  | .matenUnload ch tag g _ => ch.ok && tagOk tag && decide (g < 65536)
  | .programRetireComplete _ => true
  | .legAudioDecode c => decide (c < 128)
  | .mixPhaseTimer c => decide (c < 16384)
  | .confMix c => decide (c < 128)
  | .legAudioEncode c => decide (c < 128)
  | .partialRx => true
  | .returnRx => true
  | .returnWaitExpiry c => decide (c < 16384)
  | .dctxEnable ch tag g d => ch.ok && tagOk tag && decide (g < 65536) && decide (d < 4096)
  | .dctxDisable ch tag g d => ch.ok && tagOk tag && decide (g < 65536) && decide (d < 4096)
  | .dctxQuiescent d => decide (d < 4096)
  | .pipePictureStart p => decide (p < 8)
  | .pictureDecodeComplete p => decide (p < 8)
  | .keyRequestPacing d => decide (d < 4096)
  | .decodePipeEccError p => decide (p < 8)
  | .canvasSetCommit ch tag g c => ch.ok && tagOk tag && decide (g < 65536) && decide (c < 1024)
  | .operatorCommit ch tag g _ => ch.ok && tagOk tag && decide (g < 65536)
  | .operatorImageWrite ch tag g _ _ => ch.ok && tagOk tag && decide (g < 65536)
  | .solsticeTick => true
  | .oplayerCheckStart => true
  | .oplayerCheckDone _ => true
  | .composeBandDone m => decide (m < 4)
  | .layoutRun c => decide (c < 1024)
  | .layoutRunEnd c _ _ => decide (c < 1024)
  | .layoutRunLimit c => decide (c < 1024)
  | .layoutLoad ch tag g im => ch.ok && tagOk tag && decide (g < 65536) && im.ok
  | .layoutUnload ch tag g _ => ch.ok && tagOk tag && decide (g < 65536)
  | .actxEnable ch tag g a => ch.ok && tagOk tag && decide (g < 65536) && decide (a < 1024)
  | .actxDisable ch tag g a => ch.ok && tagOk tag && decide (g < 65536) && decide (a < 1024)
  | .analysisBandDone f => decide (f < 6)
  | .rctxEnable ch tag g r => ch.ok && tagOk tag && decide (g < 65536) && decide (r < 4096)
  | .rctxDisable ch tag g r => ch.ok && tagOk tag && decide (g < 65536) && decide (r < 4096)
  | .renditionPictureStart u => decide (u < 16)
  | .renditionBandCode u _ _ _ => decide (u < 16)
  | .renditionPictureDone u => decide (u < 16)
  | .rcPictureStart u _ _ => decide (u < 16)
  | .rcBandEnd u _ => decide (u < 16)
  | .rcCallLimit u => decide (u < 16)
  | .rcLoad ch tag g im => ch.ok && tagOk tag && decide (g < 65536) && im.ok
  | .rcUnload ch tag g _ => ch.ok && tagOk tag && decide (g < 65536)
  | .rctxKeyRequest ch tag g r => ch.ok && tagOk tag && decide (g < 65536) && decide (r < 4096)
  | .periodicKeyExpiry r => decide (r < 4096)
  | .ltrIntervalExpiry r => decide (r < 4096)
  | .trellisResult u _ => decide (u < 16)
  | .trellisWaitExpiry u => decide (u < 16)
  | .encodeUnitEccError front n => decide (n < (if front then 6 else 16))
  | .feedModeWrite ch tag g l f _ => ch.ok && tagOk tag && decide (g < 65536) && decide (l < 131072) && decide (f < 4)
  | .feedFixedSelect ch tag g l f _ => ch.ok && tagOk tag && decide (g < 65536) && decide (l < 131072) && decide (f < 4)
  | .adaptFeedbackCall l f => decide (l < 131072) && decide (f < 4)
  | .adaptTick l f _ _ _ => decide (l < 131072) && decide (f < 4)
  | .adaptCallLimit l f _ => decide (l < 131072) && decide (f < 4)
  | .adaptLoad ch tag g im => ch.ok && tagOk tag && decide (g < 65536) && im.ok
  | .adaptUnload ch tag g _ => ch.ok && tagOk tag && decide (g < 65536)
  | .forwardPacket => true
  | .switchKeyWaitExpiry l f => decide (l < 131072) && decide (f < 4)
  | .shaperRelease port => decide (port < 2)
  | .shaperAgeOut l => decide (l < 131072)
  | .legShaperWrite ch tag g l _ _ => ch.ok && tagOk tag && decide (g < 65536) && decide (l < 131072)
  | .groupShaperWrite ch tag g _ _ _ _ => ch.ok && tagOk tag && decide (g < 65536)
  | .partApply ch tag g => ch.ok && tagOk tag && decide (g < 65536)
  | .memRequestAccept _ => true
  | .memRequestServe p _ => decide (p < 64)
  | .agePromotion p => decide (p < 64)
  | .rowIdleClose p _ => decide (p < 64)
  | .stackTempSample _ _ => true
  | .patrolScrub _ => true
  | .updateRetrain ch => decide (ch < 32)
  | .fullRetrain ch => decide (ch < 32)
  | .trainingComplete ch _ => decide (ch < 33)
  | .quarantineResume => true
  | .hostReadWindowsWrite ch tag g _ => ch.ok && tagOk tag && decide (g < 65536)
  | .fabricFrameRx p f _ _ => decide (p < 7) && f.ok
  | .frameRelay => true
  | .creditBlockRx p _ _ => decide (p < 7)
  | .creditBlockTx p => decide (p < 7)
  | .fabricFrameTx p => decide (p < 7)
  | .ackRx => true
  | .ctrlRetransmitExpiry => true
  | .helloTx p => decide (p < 7)
  | .helloRx => true
  | .deadIntervalExpiry p => decide (p < 7)
  | .lsaRefresh => true
  | .lsaRx => true
  | .lsackRx => true
  | .lsaExpiry => true
  | .spfRun => true
  | .nqPortEnable ch tag g p => ch.ok && tagOk tag && decide (g < 65536) && decide (p < 6)
  | .nqPortDisable ch tag g p => ch.ok && tagOk tag && decide (g < 65536) && decide (p < 6)
  | .laneDefectChange _ => true
  | .defectHoldExpiry p => decide (p < 7)
  | .fdevWrite ch tag g _ => ch.ok && tagOk tag && decide (g < 65536)
  | .joinRx => true
  | .joinReplyRx => true
  | .joinRetryExpiry c => decide (c < 16384)
  | .leaveRx => true
  | .remotePartialTimeout c fdev => decide (c < 16384) && decide (fdev < 512)
  | .subscribeRx => true
  | .mediaRx => true
  | .pmBinRollover p _ => decide (p < 3)
  | .twinModePair ch tag g => ch.ok && tagOk tag && decide (g < 65536)
  | .twinModeSolo ch tag g => ch.ok && tagOk tag && decide (g < 65536)
  | .twinHandover ch tag g => ch.ok && tagOk tag && decide (g < 65536)
  | .twinResync ch tag g => ch.ok && tagOk tag && decide (g < 65536)
  | .twinHbTx => true
  | .twinHbRx => true
  | .hbSymbolTx => true
  | .hbSymbolRx _ _ _ _ => true
  | .livenessTimeout => true
  | .peerSilenceTimeout => true
  | .journalRx => true
  | .journalAckRx => true
  | .journalResendExpiry => true
  | .standbyLostExpiry => true
  | .twinCtrlDetach => true
  | .twinCtrlDisarm => true
  | .twinCtrlKekProof => true
  | .twinCtrlResendRequest => true
  | .snapshotRx => true
  | .snapshotApplied => true
  | .timeRecheckExpiry => true
  | .ptpAnnounceRx _ _ _ => true
  | .ptpSyncRx _ _ _ _ => true
  | .ptpDelayRespRx _ _ _ => true
  | .ptpDelayReqTx => true
  | .announceTimeout => true
  | .ppsEdge => true
  | .ppsMissingExpiry => true
  | .pulseEdge n => decide (n < 4)
  | .pulseWrite ch tag g n _ _ => ch.ok && tagOk tag && decide (g < 65536) && decide (n < 4)
  | .hostTodWrite ch tag g _ => ch.ok && tagOk tag && decide (g < 65536)
  | .timestampHoldExpiry => true
  | .syncInLoss _ => true
  | .targetWrite ch tag g _ => ch.ok && tagOk tag && decide (g < 65536)
  | .summerReached => true
  | .summerHoldExpiry => true
  | .autumnDrained => true
  | .autumnLimitExpiry => true
  | .winterEntry => true
  | .pmeTurnOff => true
  | .midwinterEntry => true
  | .wakeEvent u p => decide (u < 8) && decide (p < 6)
  | .thawComplete => true
  | .perstAssert => true
  | .perstRelease _ => true
  | .sysReset => true
  | .junctionSample _ => true
  | .throttleStep _ => true
  | .thermalHoldExpiry => true
  | .seasonScriptsWrite ch tag g im => ch.ok && tagOk tag && decide (g < 65536) && im.ok
  | .scriptTimeout => true
  | .bootOffer im => im.ok
  | .bootImageVerified => true
  | .lifecycleAdvance ch tag g _ _ => ch.ok && tagOk tag && decide (g < 65536)
  | .identityGenerate ch tag g _ => ch.ok && tagOk tag && decide (g < 65536)
  | .ownerHashWrite ch tag g _ _ _ => ch.ok && tagOk tag && decide (g < 65536)
  | .ownerKekWrite ch tag g _ _ => ch.ok && tagOk tag && decide (g < 65536)
  | .ownerRevokeWrite ch tag g _ _ => ch.ok && tagOk tag && decide (g < 65536)
  | .bootPolicyWrite ch tag g _ _ => ch.ok && tagOk tag && decide (g < 65536)
  | .minVersionCommit ch tag g _ _ => ch.ok && tagOk tag && decide (g < 65536)
  | .frostWrite ch tag g _ => ch.ok && tagOk tag && decide (g < 65536)
  | .challengeRead ch tag => ch.ok && tagOk tag
  | .nonceExpiry => true
  | .tokenSignatureWrite ch tag g sig => ch.ok && tagOk tag && decide (g < 65536) && sig.ok
  | .debugUnlock ch tag g t => ch.ok && tagOk tag && decide (g < 65536) && t.ok
  | .debugClose ch tag g => ch.ok && tagOk tag && decide (g < 65536)
  | .jtagDbgchal => true
  | .jtagDbgauth g t => g.ok && t.ok
  | .attestRequest ch tag g _ _ => ch.ok && tagOk tag && decide (g < 65536)
  | .attestReportRead ch tag _ => ch.ok && tagOk tag
  | .handlerRun => true
  | .fatalReset _ => true
  | .logSelectWrite ch tag g _ => ch.ok && tagOk tag && decide (g < 65536)
  | .watchdogKick => true
  | .watchdogWarnExpiry => true
  | .watchdogResetExpiry => true
  | .scanGo ch tag g => ch.ok && tagOk tag && decide (g < 65536)
  | .scanDone => true
  | .imageScrubCheck _ => true
  | .aonPowerOn => true
  | .pwrOkRise _ => true
  | .strapResample _ _ => true
  | .pwrOkFall => true
  | .powerLossRestart => true
  | .refclkLoss => true
  | .xtalLoss => true
  | .laneSignalChange l _ => decide (l < 34)
  | .sta c _ ac form => decide (c < 128) && decide (ac < 8) && form.ok
  | .ld c _ form => decide (c < 128) && form.ok
  | .st c _ form => decide (c < 128) && form.ok
  | .b c _ _ _ => decide (c < 128)
  | .refclkReturn _ => true
  | .aonPowerLoss => true
  | .transmitterPresetTimeout p => decide (p < 2)

end Sys2Proof
end

