-- ==== Sys2Proof/Machine/Maten.lean ====
section
/-! DEFINITION. The Maten cores (spec/07): registers, addressing, the MAC and ACS groups, loops, interrupts and faults, DMA,
and the item contract. Each command is one instruction; `p` (bit 31 of its word) joins it to the next one in a bundle. -/

namespace Sys2Proof.Machine

namespace Regs

def getD (r : Regs) (i : Nat) : BitVec 24 := AMap.get 0 i r.d
def setD (r : Regs) (i : Nat) (v : BitVec 24) : Regs := { r with d := AMap.put 0 i v r.d }
def getAc (r : Regs) (i : Nat) : BitVec 56 := AMap.get 0 i r.ac
def setAc (r : Regs) (i : Nat) (v : BitVec 56) : Regs := { r with ac := AMap.put 0 i v r.ac }
def getP (r : Regs) (i : Nat) : BitVec 24 := AMap.get 0 i r.p
def setP (r : Regs) (i : Nat) (v : BitVec 24) : Regs := { r with p := AMap.put 0 i v r.p }
def getB (r : Regs) (i : Nat) : BitVec 24 := AMap.get 0 i r.b
def getL (r : Regs) (i : Nat) : BitVec 24 := AMap.get 0 i r.l
def getM (r : Regs) (i : Nat) : BitVec 24 := AMap.get 0 i r.m
/-- The 48-bit pair D(i+1):D(i). -/
def pair (r : Regs) (i : Nat) : BitVec 48 := r.getD (i + 1) ++ r.getD i
def setPair (r : Regs) (i : Nat) (v : BitVec 48) : Regs :=
  (r.setD i (v.extractLsb' 0 24)).setD (i + 1) (v.extractLsb' 24 24)
/-- LL, the active loop levels (Table 7.3). -/
def ll (r : Regs) : Nat := (r.status.extractLsb' 15 3).toNat
def setLl (r : Regs) (n : Nat) : Regs :=
  { r with status := (r.status &&& ~~~(0x38000#32)) ||| BitVec.ofNat 32 (n % 8 * 0x8000) }
/-- One STATUS bit. -/
def flag (r : Regs) (i : Nat) : Bool := r.status.getLsbD i
def setFlag (r : Regs) (i : Nat) (b : Bool) : Regs :=
  { r with status := if b then r.status ||| BitVec.ofNat 32 (2 ^ i) else r.status &&& ~~~(BitVec.ofNat 32 (2 ^ i)) }
/-- A result recorded as not yet readable by every bundle (R185). -/
def addLate (r : Regs) (code ready old : Nat) : Regs := { r with late := (code, ready, old) :: r.late }
/-- Cycles a write that lands at bundle `at_` stalls for the earlier writes to its register, which then have landed (R185). -/
def landWait (r : Regs) (code at_ : Nat) : Nat :=
  (r.late.filter (fun e => decide (e.1 = code))).foldl (fun m e => max m (e.2.1 - at_)) 0
def landed (r : Regs) (code : Nat) : Regs := { r with late := r.late.filter (fun e => decide (e.1 ≠ code)) }

end Regs

/-- STATUS bit numbers (Table 7.3). -/
def fN : Nat := 0
def fZ : Nat := 1
def fC : Nat := 2
def fIE : Nat := 18
def fSV : Nat := 22
def fAVS : Nat := 23
def fAV (n : Nat) : Nat := 24 + n

/-- What an instruction comes to: its effect on the core and the rest of the state, a fault with its cause and address, or
an instruction that does not issue. -/
inductive IRes | ok (k : MatenCore) (s : State) | fault (cause addr : Nat) | none

/-- The value a read sees of a register with results that are not readable yet: the newest, or what stood before one of them, the
bridge's choice (R185). -/
def readLate (s : State) (k : MatenCore) (src : Regs) (code new : Nat) : Nat :=
  let olds := (src.late.filter (fun e => decide (e.1 = code) && decide (k.bundle < e.2.1))).map (fun e => e.2.2)
  (new :: olds).getD (bits (Config.choice s.draws) (100 + code * 4) 4 % (olds.length + 1)) new

/-- A data register as an instruction reads it. -/
def rdD (s : State) (k : MatenCore) (src : Regs) (i : Nat) : BitVec 24 :=
  BitVec.ofNat 24 (readLate s k src i (src.getD i).toNat)

/-- An accumulator as an instruction outside the MAC group reads it. -/
def rdAc (s : State) (k : MatenCore) (src : Regs) (i : Nat) : BitVec 56 :=
  BitVec.ofNat 56 (readLate s k src (64 + i) (src.getAc i).toNat)

/-- Loop-end evaluation at the end of a bundle (R188): the innermost active level ending here decrements; an exit evaluates
the next level out at the same address. -/
def loopEnd : Nat → Regs → BitVec 20 → Regs × BitVec 20
  | 0, r, pc => (r, pc + 1)
  | n + 1, r, pc =>
    let k := r.ll - 1
    if r.ll = 0 ∨ AMap.get 0 k r.le ≠ pc then (r, pc + 1)
    else
      let c := AMap.get 0 k r.lc - 1
      let r1 := { r with lc := AMap.put 0 k c r.lc }
      if c ≠ 0 then (r1, AMap.get 0 k r.ls) else loopEnd n (r1.setLl k) pc

/-- Cycles added to CYC, which saturates (Table 7.1). -/
def MatenCore.spend (k : MatenCore) (n : Nat) : MatenCore := { k with cyc := satAdd k.cyc n 0xFFFFFFFF }

/-- The word of a core's memory at a local address: the ITEM window shows the mapped buffer (R181). -/
def localWord (k : MatenCore) (a : Nat) : Nat := if 0x8000 ≤ a then a + k.win * 0x800 else a

/-- The bundle that an instruction belongs to: the open one, or one that it begins. -/
def openBundle (k : MatenCore) : Bundle := k.start.getD ⟨k.regs, k.pc, k.cyc, [], none, none, []⟩

/-- A local or cluster store of an open bundle made. -/
def localStores (k : MatenCore) (l : List (Nat × BitVec 32)) : List (Nat × BitVec 32) :=
  l.foldl (fun m e => if e.1 < 0x100000 then AMap.put 0 (localWord k e.1) e.2 m else m) k.mem
def clusterStores (c : Nat) (l m : List (Nat × BitVec 32)) : List (Nat × BitVec 32) :=
  l.foldl (fun m e => if 0x100000 ≤ e.1 then AMap.put 0 (c / 8 * 0x1000000 + e.1) e.2 m else m) m

/-- A DMA instruction is outstanding, or the core stalls when 8 already are (R184). -/
def startDma (now : Nat) (k : MatenCore) (d : CoreDma) : MatenCore :=
  if k.dma.length < 8 then { k with dma := k.dma ++ [d] }
  else { k with
    stall := some d
    since := now }

/-- The end of a bundle: loop-end evaluation unless a branch was taken in it, one cycle, results become older, its stores and its DMA
transfer are made. -/
def endBundle (now : Nat) (k : MatenCore) : MatenCore :=
  let (r, pc) := if k.branched then (k.regs, k.pc) else loopEnd 4 k.regs k.pc
  let k1 := { k with
    regs := { r with late := r.late.filter (fun e => decide (k.bundle + 1 < e.2.1)) }
    mem := localStores k (openBundle k).stores
    pc := pc
    start := none
    branched := false
    bundle := k.bundle + 1
    cyc := satAdd k.cyc 1 0xFFFFFFFF }
  match (openBundle k).dma with
  | some d => startDma now k1 d
  | none => if (openBundle k).result.isSome then { k1 with since := now } else k1

/-- What a completed bundle does outside its core: cluster stores, and an END's RESULT. -/
def commitBundle (s : State) (c : Nat) (b : Bundle) : State :=
  let s1 := if b.stores.isEmpty then s else { s with mt := { s.mt with cluster := clusterStores c b.stores s.mt.cluster } }
  match b.result with
  | some r => { s1 with disp := { s1.disp with items := s1.disp.items.map (fun (w : WorkItem) =>
      if w.core = some c then { w with ended := some (0, r) } else w) } }
  | none => s1

/-- A core without the bundle it has open. -/
def dropBundle (k : MatenCore) : MatenCore :=
  match k.start with
  | some b => { k with
      regs := b.regs
      pc := b.pc
      cyc := b.cyc
      start := none
      branched := false }
  | none => k

/-- The issue of one instruction on a core that runs an item: it reads the registers as they stood when its bundle began;
a fault leaves the whole bundle without effect (R191). An instruction cache miss takes the cycles it takes. -/
def issue (s : State) (c : Nat) (p : Bool) (f : State → MatenCore → Regs → IRes) : State :=
  let k := s.core c
  if (s.itemOn c).isNone || k.faulted || k.halted || k.stall.isSome || k.waitAt.isSome then s
  else if ((s.itemOn c).bind WorkItem.ended).isSome then s
  else
    match f s { k with start := some (openBundle k) } (openBundle k).regs with
    | .ok k1 s1 =>
      let k2 := k1.spend (Config.coreWait 0 s.draws % 41)
      let s2 := { s1 with draws := s1.draws + 1 }
      if p then s2.setCore c k2 else (commitBundle s2 c (openBundle k2)).setCore c (endBundle s.dspUnits k2)
    | .fault cause addr =>
      s.setCore c { dropBundle k with
        fcause := cause
        faddr := addr
        faulted := true }
    | .none => s

/-! ### The MAC group -/

/-- Rounding of an accumulator value at bit 23 by MODE.RND (Table 7.4); the reserved code rounds either way. -/
def roundAt24 (rnd : Nat) (open_ : Bool) (x : Int) : Int :=
  let lo := x / 16777216
  let rem := x % 16777216
  match rnd with
  | 0 => lo
  | 1 => if 8388608 ≤ rem then lo + 1 else lo
  | 2 => if 8388608 < rem ∨ (rem = 8388608 ∧ lo % 2 = 1) then lo + 1 else lo
  | _ => if open_ then lo + 1 else lo

/-- MODE.RND. -/
def Regs.rnd (r : Regs) : Nat := (r.mode.extractLsb' 1 2).toNat

/-- The product of one lane (Table 7.8): signedness, FRAC, NEG. -/
def macProduct (sign : Nat) (frac neg : Bool) (x y : BitVec 24) : Int :=
  let a : Int := if sign = 2 then x.toNat else x.toInt
  let b : Int := if sign = 0 then y.toInt else y.toNat
  let q := if frac then 2 * (a * b) else a * b
  if neg then -q else q

/-- The accumulation rule of R178 on accumulator `n`: the exact sum, clamped in SAT, wrapped in WRAP, with AV and AVS. -/
def accumulate (r : Regs) (n : Nat) (v : Int) : Regs :=
  let hi : Int := 2 ^ 55 - 1
  let lo : Int := -(2 ^ 55)
  if lo ≤ v ∧ v ≤ hi then r.setAc n (BitVec.ofInt 56 v)
  else if r.mode.getLsbD 0 then (r.setAc n (BitVec.ofInt 56 v)).setFlag (fAV n) true
  else ((r.setAc n (BitVec.ofInt 56 (if v < lo then lo else hi))).setFlag (fAV n) true).setFlag fAVS true

/-- The start of an accumulator (R178). -/
def startAcc (r : Regs) (n : Nat) (v : Int) : Regs := (r.setAc n (BitVec.ofInt 56 v)).setFlag (fAV n) false

/-- One lane of a MAC-group operation (Table 7.9), reading the registers at the bundle's start. -/
def macLane (op : Nat) (open_ : Bool) (src : Regs) (r : Regs) (n : Nat) (prod : Int) : Regs :=
  let ac := (src.getAc n).toInt
  match op with
  | 0 => startAcc r n prod
  | 1 => accumulate r n (ac + prod)
  | 2 => accumulate r n (ac / 16777216 + prod)
  | 3 => accumulate r n (roundAt24 src.rnd open_ ac * 16777216)
  | _ => startAcc r n 0

/-- The operand rules of R186 and Table 7.9 for a word of the MAC group. -/
def macLegal (w : Nat) : Bool :=
  let op := bits w 24 3
  let dual := bit w 23
  let xs := bit w 21
  decide (bits w 6 2 ≠ 3) && decide (bits w 0 5 = 0) && decide (op ≤ 4) &&
    (!dual || (decide (bits w 18 3 % 2 = 0) && decide (bits w 8 5 % 2 = 0) && (xs || decide (bits w 13 5 % 2 = 0)))) &&
    (decide (op < 3) || (decide (bits w 13 5 = 0) && decide (bits w 8 5 = 0) && !bit w 22 && decide (bits w 6 2 = 0) && !bit w 5))

/-- A word of the MAC group (Table 7.8): ILLEGAL where R186 says so, otherwise one or two lanes, Z and N from lane 0. -/
def macInstr (w : Nat) (s : State) (k : MatenCore) (src : Regs) : IRes :=
  if !macLegal w then .fault 1 k.pc.toNat
  else
    let op := bits w 24 3
    let acc := bits w 18 3
    let dx := bits w 13 5
    let dy := bits w 8 5
    let sign := bits w 6 2
    let open_ := bit (Config.choice s.draws) 80
    let p0 := macProduct sign (bit w 5) (bit w 22) (rdD s k src dx) (rdD s k src dy)
    let r1 := macLane op open_ src k.regs acc p0
    let r2 := if bit w 23 then
        let x1 := if bit w 21 then dx else dx + 1
        macLane op open_ src r1 (acc + 1) (macProduct sign (bit w 5) (bit w 22) (rdD s k src x1) (rdD s k src (dy + 1)))
      else r1
    let res := (r2.getAc acc).toInt
    let r3 := (r2.setFlag fZ (decide (res = 0))).setFlag fN (decide (res < 0))
    let r4 := r3.addLate (64 + acc) (k.bundle + 3) (src.getAc acc).toNat
    let r5 := if bit w 23 then r4.addLate (64 + acc + 1) (k.bundle + 3) (src.getAc (acc + 1)).toNat else r4
    .ok { k with regs := r5 } s

/-- An instruction of the MAC group whose OP is `op`; a word with another defined OP is another command's. -/
def macIssue (s : State) (c op w : Nat) : State :=
  if c < 128 ∧ bits w 27 4 = 4 ∧ (bits w 24 3 = op ∨ 5 ≤ bits w 24 3) then issue s c (bit w 31) (macInstr w) else s

/-! ### The ACS group -/

/-- The operand rules of R187. -/
def acsLegal (w : Nat) : Bool :=
  let wide := bit w 26
  let dual := bit w 25
  decide (bits w 0 4 = 0) &&
    (if wide then decide (bits w 19 5 % 2 = 0) && decide (bits w 14 5 % 2 = 0) && decide (bits w 9 5 % 2 = 0) &&
        decide (bits w 4 5 % 4 = 0)
      else decide (bits w 4 5 % 2 = 0) && (!dual || decide (bits w 19 5 % 2 = 0)))

/-- One compare-select: the selected value, its decision, and whether it was a tie; sums clamp at the metric width. -/
def acsSelect (mx : Bool) (lim a b : Nat) : Nat × Bool × Bool :=
  let a1 := min a lim
  let b1 := min b lim
  if a1 = b1 then (a1, false, true)
  else if mx then (if a1 < b1 then (b1, true, false) else (a1, false, false))
  else (if b1 < a1 then (b1, true, false) else (a1, false, false))

/-- A 24-bit register or 48-bit pair as an ACS instruction reads it. -/
def acsRead (s : State) (k : MatenCore) (src : Regs) (wide : Bool) (i : Nat) : Nat :=
  if wide then (rdD s k src ((i + 1) % 32)).toNat * 0x1000000 + (rdD s k src i).toNat else (rdD s k src i).toNat

/-- Write of an ACS result, readable two bundles later (Table 7.7). -/
def acsWrite (k : MatenCore) (src r : Regs) (wide : Bool) (i v : Nat) : Regs :=
  if wide then
    ((r.setPair i (BitVec.ofNat 48 v)).addLate i (k.bundle + 2) (src.getD i).toNat).addLate (i + 1) (k.bundle + 2)
      (src.getD (i + 1)).toNat
  else (r.setD i (BitVec.ofNat 24 v)).addLate i (k.bundle + 2) (src.getD i).toNat

/-- A word of the ACS group (Table 7.10, R187). -/
def acsInstr (w : Nat) (s : State) (k : MatenCore) (src : Regs) : IRes :=
  if !acsLegal w then .fault 1 k.pc.toNat
  else
    let wide := bit w 26
    let mx := bit w 24
    let dd := bits w 19 5
    let da := bits w 14 5
    let db := bits w 9 5
    let dx := bits w 4 5
    let lim := if wide then 2 ^ 48 - 1 else 2 ^ 24 - 1
    let st := if wide then 2 else 1
    let va := acsRead s k src wide da
    let vb := acsRead s k src wide db
    let m0 := acsRead s k src wide dx
    let m1 := acsRead s k src wide ((dx + st) % 32)
    let (v0, d0, t0) := acsSelect mx lim (va + m0) (vb + m1)
    let r1 := acsWrite k src k.regs wide dd v0
    let r2 := { r1 with dr := (r1.dr <<< 1) ||| BitVec.ofNat 32 (b2n d0) }
    let (r3, d, t) := if bit w 25 then
        let (v1, d1, t1) := acsSelect mx lim (va + m1) (vb + m0)
        let r := acsWrite k src r2 wide ((dd + st) % 32) v1
        ({ r with dr := (r.dr <<< 1) ||| BitVec.ofNat 32 (b2n d1) }, d1, t1)
      else (r2, d0, t0)
    .ok { k with regs := ((r3.setFlag fC d).setFlag fZ t).setFlag fN false } s

/-! ### Addressing (Tables 7.5 and 7.6) -/

/-- A word of the data address map exists (Table 7.5). -/
def addrOk (a : Nat) : Bool := decide (a < 0x8800) || (decide (0x100000 ≤ a) && decide (a < 0x140000))

/-- The bank of a local word (Table 7.5): X, Y, IE, IO; cluster memory has none. -/
def bankOf (a : Nat) : Option Nat :=
  if a < 0x4000 then some 0 else if a < 0x8000 then some 1 else if a < 0x8800 then some (2 + a % 2) else none

/-- A word of data memory as core `c` reads it. -/
def memRead (s : State) (k : MatenCore) (c a : Nat) : BitVec 32 :=
  if 0x100000 ≤ a then AMap.get 0 (c / 8 * 0x1000000 + a) s.mt.cluster else AMap.get 0 (localWord k a) k.mem

/-- A store of a word, made when its bundle completes. -/
def memWrite (k : MatenCore) (a : Nat) (v : BitVec 32) : MatenCore :=
  { k with start := k.start.map (fun b => { b with stores := b.stores ++ [(a, v)] }) }

/-- An access of the bundle to the banks of some addresses (R182): a second cycle where one of them has been accessed in it already. -/
def access (k : MatenCore) (l : List Nat) : MatenCore :=
  let banks := l.filterMap bankOf
  let k1 := if banks.any (fun x => (openBundle k).banks.contains x) then k.spend 1 else k
  { k1 with start := k1.start.map (fun b => { b with banks := banks ++ b.banks }) }

/-- A load of the bundle: an access, with the wait for cluster memory (Table 7.5). -/
def loadAccess (s : State) (k : MatenCore) (l : List Nat) : MatenCore :=
  let k1 := access k l
  if l.any (fun a => (bankOf a).isNone) then k1.spend (Config.coreWait 1 s.draws % 41) else k1

/-- A data register written with latency 1, behind the earlier writes to it (R185). -/
def putD (k : MatenCore) (d : Nat) (v : BitVec 24) : MatenCore :=
  { k.spend (k.regs.landWait d (k.bundle + 1)) with regs := (k.regs.landed d).setD d v }

/-- An accumulator loaded or written as a field with latency 1. -/
def putAc (k : MatenCore) (n : Nat) (g : Regs → Regs) : MatenCore :=
  { k.spend (k.regs.landWait (64 + n) (k.bundle + 1)) with regs := g (k.regs.landed (64 + n)) }

/-- A pointer after a modifier (R183): circular inside its buffer while L is not 0, linear otherwise; `none` for
AGU_RANGE. -/
def ptrAfter (src : Regs) (n : Nat) (m : Int) : Option (BitVec 24) :=
  let p := (src.getP n).toNat
  let b := (src.getB n).toNat
  let l := (src.getL n).toNat
  if l = 0 then some (BitVec.ofInt 24 (p + m))
  else if (l : Int) < m ∨ m < -(l : Int) then none
  else if b ≤ p ∧ p < b + l then some (BitVec.ofNat 24 (b + ((((p : Int) - b + m) % l).toNat)))
  else some (BitVec.ofInt 24 (p + m))

/-- A pointer after a bit-reversed modifier (Table 7.6): reverse-carry addition in bits [log2 L - 1:0]. -/
def ptrReversed (src : Regs) (n m : Nat) : Option (BitVec 24) :=
  let p := (src.getP n).toNat
  let l := (src.getL n).toNat
  let w := Nat.log2 l
  if l = 0 ∨ 2 ^ w ≠ l then none
  else if (l : Int) < (src.getM m).toInt ∨ (src.getM m).toInt < -(l : Int) then none
  else
    let low := revBits w ((revBits w (p % l) + revBits w ((src.getM m).toNat % l)) % l)
    some (BitVec.ofNat 24 (p / l * l + low))

/-- Address and pointer update of a mode: the word address and the registers with the pointer moved; `none` for
AGU_RANGE. -/
def agu (src r : Regs) : AddrMode → Option (Nat × Regs)
  | .indirect p => some ((src.getP p).toNat, r)
  | .offset p k => some (((BitVec.ofInt 24 ((src.getP p).toNat + k)).toNat), r)
  | .postInc p => (ptrAfter src p 1).map (fun v => ((src.getP p).toNat, r.setP p v))
  | .postDec p => (ptrAfter src p (-1)).map (fun v => ((src.getP p).toNat, r.setP p v))
  | .postMod p m => (ptrAfter src p (src.getM m).toInt).map (fun v => ((src.getP p).toNat, r.setP p v))
  | .bitRev p m => (ptrReversed src p m).map (fun v => ((src.getP p).toNat, r.setP p v))

/-- Sign extension of a 24-bit value to its 32-bit container (R175). -/
def container (v : BitVec 24) : BitVec 32 := v.signExtend 32

/-- The saturating 24-bit store form of an accumulator (R179): value and whether it saturated. -/
def store24 (rnd : Nat) (open_ : Bool) (ac : BitVec 56) : BitVec 24 × Bool :=
  let v := roundAt24 rnd open_ ac.toInt
  let c := clip (-8388608) 8388607 v
  (BitVec.ofInt 24 c, decide (c ≠ v))

/-- The saturating 48-bit store form (R179). -/
def store48 (ac : BitVec 56) : BitVec 48 × Bool :=
  let v := ac.toInt
  let c := clip (-(2 ^ 47)) (2 ^ 47 - 1) v
  (BitVec.ofInt 48 c, decide (c ≠ v))

/-- A register as a MOV reads it, zero-extended. -/
def movRead (s : State) (k : MatenCore) (src : Regs) : MovReg → Nat
  | .status => src.status.toNat
  | .mode => src.mode.toNat
  | .tcmp => src.tcmp.toNat
  | .dr => src.dr.toNat
  | .ira => src.ira.toNat
  | .istat => src.istat.toNat
  | .d n => (rdD s k src n).toNat
  | .pair n => (rdD s k src (n + 1)).toNat * 0x1000000 + (rdD s k src n).toNat
  | .p n => (src.getP n).toNat
  | .b n => (src.getB n).toNat
  | .l n => (src.getL n).toNat
  | .m n => (src.getM n).toNat
  | .lc n => (AMap.get 0 n src.lc).toNat
  | .ls n => (AMap.get 0 n src.ls).toNat
  | .le n => (AMap.get 0 n src.le).toNat

/-- STATUS after a write (Table 7.3): AV, IE, C, Z and N take the value, AVS and SV are cleared where it has 1, LL and the reserved bits
stay. -/
def statusWritten (old v : BitVec 32) : BitVec 32 :=
  (v &&& 0xFF040007#32) ||| (old &&& 0x00C00000#32 &&& ~~~v) ||| (old &&& 0x003BFFF8#32)

/-- A register written by a MOV; MODE keeps its four fields (Table 7.4). TCMP is compared from the present CYC on. -/
def movWrite (k : MatenCore) (v : Nat) : MovReg → MatenCore
  | .status => { k with regs := { k.regs with status := statusWritten k.regs.status (BitVec.ofNat 32 v) } }
  | .mode => { k with
      regs := { k.regs with mode := BitVec.ofNat 32 (v % 16) }
      matched := k.cyc }
  | .tcmp => { k with
      regs := { k.regs with tcmp := BitVec.ofNat 32 v }
      matched := k.cyc }
  | .dr => { k with regs := { k.regs with dr := BitVec.ofNat 32 v } }
  | .ira => { k with regs := { k.regs with ira := BitVec.ofNat 20 v } }
  | .istat => { k with regs := { k.regs with istat := BitVec.ofNat 32 v } }
  | .d n => putD k n (BitVec.ofNat 24 v)
  | .pair n => putD (putD k n (BitVec.ofNat 24 v)) (n + 1) (BitVec.ofNat 24 (v / 0x1000000))
  | .p n => { k with regs := k.regs.setP n (BitVec.ofNat 24 v) }
  | .b n => { k with regs := { k.regs with b := AMap.put 0 n (BitVec.ofNat 24 v) k.regs.b } }
  | .l n => { k with regs := { k.regs with l := AMap.put 0 n (BitVec.ofNat 24 v) k.regs.l } }
  | .m n => { k with regs := { k.regs with m := AMap.put 0 n (BitVec.ofNat 24 v) k.regs.m } }
  | .lc n => { k with regs := { k.regs with lc := AMap.put 0 n (BitVec.ofNat 24 v) k.regs.lc } }
  | .ls n => { k with regs := { k.regs with ls := AMap.put 0 n (BitVec.ofNat 20 v) k.regs.ls } }
  | .le n => { k with regs := { k.regs with le := AMap.put 0 n (BitVec.ofNat 20 v) k.regs.le } }

/-- What a MOV moves. -/
def movValue (s : State) (k : MatenCore) (src : Regs) : MovSrc → Nat
  | .imm v => v.toNat
  | .reg r => movRead s k src r
  | .cyc => k.cyc

/-- A field of an accumulator replaced: no rounding, no saturation, no start (R179). -/
def setField (ac : BitVec 56) (lo width v : Nat) : BitVec 56 :=
  BitVec.ofNat 56 (ac.toNat - bits ac.toNat lo width * 2 ^ lo + v % 2 ^ width * 2 ^ lo)

/-- The pair of data registers written. -/
def putPair (k : MatenCore) (d : Nat) (v : BitVec 48) : MatenCore :=
  putD (putD k d (v.extractLsb' 0 24)) (d + 1) (v.extractLsb' 24 24)

/-- SV set where a store or move saturated (R179). -/
def withSv (b : Bool) (k : MatenCore) : MatenCore := if b then { k with regs := k.regs.setFlag fSV true } else k

/-- An accumulator move or store, an accumulator load, or a MOV (R178, R179). The octet read of ACn.G leaves the other bits of D open; a
load of 24 bits stands in ACn.H, sign-extended (PRESUMED: the manual names the loads and no more). -/
def staInstr (n : Nat) (form : StaForm) (s : State) (k : MatenCore) (src : Regs) : IRes :=
  let ac := rdAc s k src n
  let open_ := bit (Config.choice s.draws) 80
  let h := store24 src.rnd open_ ac
  let w := store48 ac
  if 8 ≤ n then .fault 1 k.pc.toNat
  else match form with
    | .movaD d => .ok (withSv h.2 (putD k d h.1)) s
    | .pairD d => if d % 2 = 1 then .fault 1 k.pc.toNat else .ok (withSv w.2 (putPair k d w.1)) s
    | .fieldG d => .ok (putD k d (BitVec.ofNat 24 ((ac.extractLsb' 48 8).toNat + Config.value s.draws % 65536 * 256))) s
    | .fieldH d => .ok (putD k d (ac.extractLsb' 24 24)) s
    | .fieldL d => .ok (putD k d (ac.extractLsb' 0 24)) s
    | .setG d => .ok (putAc k n (fun r => r.setAc n (setField (r.getAc n) 48 8 (rdD s k src d).toNat))) s
    | .setH d => .ok (putAc k n (fun r => r.setAc n (setField (r.getAc n) 24 24 (rdD s k src d).toNat))) s
    | .setL d => .ok (putAc k n (fun r => r.setAc n (setField (r.getAc n) 0 24 (rdD s k src d).toNat))) s
    | .loadD d => .ok (putAc k n (fun r => startAcc r n ((rdD s k src d).toInt * 16777216))) s
    | .loadPair d =>
      if d % 2 = 1 then .fault 1 k.pc.toNat
      else .ok (putAc k n (fun r => startAcc r n (rdD s k src (d + 1) ++ rdD s k src d).toInt)) s
    | .mov r x => .ok (movWrite k (movValue s k src x) r) s
    | .staH a =>
      match agu src k.regs a with
      | none => .fault 3 k.pc.toNat
      | some (addr, r) =>
        if !addrOk addr then .fault 2 addr
        else .ok (memWrite (access (withSv h.2 { k with regs := r }) [addr]) addr (container h.1)) s
    | .staP a =>
      match agu src k.regs a with
      | none => .fault 3 k.pc.toNat
      | some (addr, r) =>
        if !(addrOk addr && addrOk (addr + 1)) then .fault 2 addr
        else .ok (memWrite (memWrite (access (withSv w.2 { k with regs := r }) [addr, addr + 1]) addr
            (container (w.1.extractLsb' 0 24))) (addr + 1) (container (w.1.extractLsb' 24 24))) s

/-- Loads (R175, R181 to R183): bits [23:0] of a word, a pair low half first, two loads in one bundle with a second cycle
where they fall in one bank. -/
def ldInstr (c : Nat) (form : LdForm) (s : State) (k : MatenCore) (src : Regs) : IRes :=
  let rd := fun a => (memRead s k c a).extractLsb' 0 24
  match form with
  | .ld d a =>
    match agu src k.regs a with
    | none => .fault 3 k.pc.toNat
    | some (x, r) => if !addrOk x then .fault 2 x else .ok (putD (loadAccess s { k with regs := r } [x]) d (rd x)) s
  | .ldp d a =>
    match agu src k.regs a with
    | none => .fault 3 k.pc.toNat
    | some (x, r) =>
      if d % 2 = 1 then .fault 1 k.pc.toNat
      else if !(addrOk x && addrOk (x + 1)) then .fault 2 x
      else .ok (putD (putD (loadAccess s { k with regs := r } [x, x + 1]) d (rd x)) (d + 1) (rd (x + 1))) s
  | .ld2 d a e b =>
    match agu src k.regs a with
    | none => .fault 3 k.pc.toNat
    | some (x, r) =>
      match agu src r b with
      | none => .fault 3 k.pc.toNat
      | some (y, r2) =>
        if !addrOk x then .fault 2 x
        else if !addrOk y then .fault 2 y
        else .ok (putD (putD (loadAccess s (loadAccess s { k with regs := r2 } [x]) [y]) d (rd x)) e (rd y)) s

/-- Stores (R175, R181, R183): a value sign-extended to 32 bits, a pair low half first. -/
def stInstr (form : StForm) (s : State) (k : MatenCore) (src : Regs) : IRes :=
  match form with
  | .st d a =>
    match agu src k.regs a with
    | none => .fault 3 k.pc.toNat
    | some (x, r) =>
      if !addrOk x then .fault 2 x
      else .ok (memWrite (access { k with regs := r } [x]) x (container (rdD s k src d))) s
  | .stp d a =>
    match agu src k.regs a with
    | none => .fault 3 k.pc.toNat
    | some (x, r) =>
      if d % 2 = 1 then .fault 1 k.pc.toNat
      else if !(addrOk x && addrOk (x + 1)) then .fault 2 x
      else .ok (memWrite (memWrite (access { k with regs := r } [x, x + 1]) x (container (rdD s k src d))) (x + 1)
          (container (rdD s k src (d + 1)))) s

/-! ### Loops and branches (R188) -/

/-- LOOP k, count, end. -/
def loopInstr (lvl : Nat) (count : BitVec 24) (stop : BitVec 20) (s : State) (k : MatenCore) (_src : Regs) : IRes :=
  let r := k.regs
  if r.ll ≠ lvl ∨ 4 ≤ r.ll then .fault 1 k.pc.toNat
  else if count = 0 then .ok { k with pc := stop + 1, branched := true } s
  else
    let r1 := { r with
      ls := AMap.put 0 lvl (k.pc + 1) r.ls, le := AMap.put 0 lvl stop r.le, lc := AMap.put 0 lvl count r.lc }
    .ok { k with regs := r1.setLl (lvl + 1) } s

/-- BREAK decrements LL without a branch. -/
def breakInstr (s : State) (k : MatenCore) (_src : Regs) : IRes :=
  .ok { k with regs := k.regs.setLl (k.regs.ll - 1) } s

/-- A branch: taken, it changes the bundle address, overrides the loop end and loses two cycles. -/
def branchInstr (form : BranchForm) (target : BitVec 20) (s : State) (k : MatenCore) (_src : Regs) : IRes :=
  let taken := match form with
    | .cond t => t
    | _ => true
  if taken then .ok { k with pc := target, branched := true, cyc := satAdd k.cyc 2 0xFFFFFFFF } s else .ok k s

/-- RETI (R190). -/
def retiInstr (s : State) (k : MatenCore) (_src : Regs) : IRes :=
  let r := k.regs
  let keep : BitVec 32 := 0xFFC00000#32 &&& (r.status ||| r.istat)
  let back : BitVec 32 := 0x78007#32 &&& r.istat
  let rest : BitVec 32 := r.status &&& 0x387FF8#32
  let clear : BitVec 32 := rest &&& ~~~(0x78007#32)
  .ok { k with regs := { r with status := keep ||| back ||| clear }, pc := r.ira, branched := true, handlers := k.handlers.tail } s

/-! ### DMA (R184) -/

/-- Store of an HBM octet. -/
def State.wrByte (s : State) (a : Nat) (v : BitVec 8) : State := { s with mem := AMap.put 0 a v s.mem }

/-- Store of a little-endian 32-bit word. -/
def State.wrWord32 (s : State) (a : Nat) (v : BitVec 32) : State :=
  (((s.wrByte a (v.extractLsb' 0 8)).wrByte (a + 1) (v.extractLsb' 8 8)).wrByte (a + 2) (v.extractLsb' 16 8)).wrByte (a + 3)
    (v.extractLsb' 24 8)

/-- A read of some octets meets a poisoned unit (R311). -/
def State.poisoned (s : State) (a n : Nat) : Bool := s.mm.poison.any (fun u => decide (u < a + n) && decide (a < u + 32))

/-- Units a write covers whole are poisoned no more (R311). -/
def State.heal (s : State) (a n : Nat) : State :=
  { s with mm := { s.mm with poison := s.mm.poison.filter (fun u => !(decide (a ≤ u) && decide (u + 32 ≤ a + n))) } }

/-- DMAR and DMAW, whose transfer starts as its bundle completes; its class is that of the target region (R184). -/
def dmaInstr (write : Bool) (loc pairReg words : Nat) (s : State) (k : MatenCore) (src : Regs) : IRes :=
  let hbm := (rdD s k src (pairReg + 1)).toNat * 0x1000000 + (rdD s k src pairReg).toNat
  if words = 0 ∨ 2048 < words ∨ pairReg % 2 = 1 then .fault 1 k.pc.toNat
  else if 0x8800 < loc + words then .fault 2 loc
  else if s.capacity < hbm + 4 * words then .fault 5 hbm
  else .ok { k with start := k.start.map (fun b => { b with dma := some ⟨loc, hbm, words, write, regionClass (partOf s hbm)⟩ }) } s

/-- DMAWAIT k. -/
def dmaWaitInstr (n : Nat) (s : State) (k : MatenCore) (_src : Regs) : IRes :=
  if k.dma.length ≤ n then .ok k s
  else .ok { k with
    waitAt := some n
    since := s.dspUnits } s

/-- The words of a transfer moved, `n` of them from word `i`. -/
def dmaMove (d : CoreDma) : Nat → Nat → MatenCore × State → MatenCore × State
  | 0, _, ks => ks
  | n + 1, i, (k, s) =>
    if d.write then dmaMove d n (i + 1) (k, s.wrWord32 (d.hbm + 4 * i) (AMap.get 0 (localWord k (d.loc + i)) k.mem))
    else dmaMove d n (i + 1) ({ k with mem := AMap.put 0 (localWord k (d.loc + i)) (s.rdWord32 (d.hbm + 4 * i)) k.mem }, s)

/-- A DMA write of the core is not acknowledged yet. -/
def MatenCore.writing (k : MatenCore) : Bool := k.dma.any (fun d => d.write)

/-- The core when outstanding transfer `i` has ended: a stalled DMA instruction issues, a DMAWAIT ends, and CYC has counted the cycles of
the stall, or of an ended item's wait for its writes (R174, R184, R193). -/
def dmaNext (now i : Nat) (ended : Bool) (k : MatenCore) : MatenCore :=
  let dma := k.dma.eraseIdx i ++ k.stall.toList
  let wait := k.waitAt.filter (fun n => decide (n < dma.length))
  let k1 := { k with
    dma := dma
    stall := none
    waitAt := wait }
  if k.stall.isSome ∨ k.waitAt ≠ wait ∨ (ended ∧ k.writing ∧ ¬ k1.writing) then k1.spend ((now - k.since) / 32) else k1

/-- Completion of outstanding transfer `i` of a core: writes complete in issue order; a read of poisoned data is fault DMA (Table 13.3).
-/
def dmaDone (s : State) (c i : Nat) : State :=
  let k := s.core c
  let ended := ((s.itemOn c).bind WorkItem.ended).isSome
  match k.dma[i]? with
  | none => s
  | some d =>
    if d.write ∧ (k.dma.take i).any (fun x => x.write) then s
    else if ¬ d.write ∧ s.poisoned d.hbm (4 * d.words) then
      let k1 := dmaNext s.dspUnits i ended k
      if (s.itemOn c).isNone ∨ ended ∨ k.faulted then s.setCore c k1
      else s.setCore c { dropBundle k1 with
        fcause := 5
        faddr := d.hbm
        faulted := true }
    else
      let (k1, s0) := dmaMove d d.words 0 (k, s)
      let s1 := if d.write then s0.heal d.hbm (4 * d.words) else s0
      s1.setCore c (dmaNext s.dspUnits i ended k1)

/-! ### Items (R180, R192, R193) and their ends -/

/-- The core's state at the start of an item (R177, R180, R181, R192): the item's buffer is mapped at the ITEM window; registers outside
the two lists, IE among them, hold what they held. -/
def startCore (k : MatenCore) (w : WorkItem) (entry : Nat) : MatenCore :=
  let r := k.regs
  let r1 := { r with
    l := []
    mode := 0
    status := r.status &&& 0x003C0000#32
    late := [] }
  let r2 := (r1.setPair 0 (BitVec.ofNat 48 w.desc.arg0)).setPair 2 (BitVec.ofNat 48 w.desc.arg1)
  let r3 := (r2.setP 0 0x8000).setD 4 (BitVec.ofNat 24 w.desc.dataLen)
  { k with
    regs := r3
    start := none
    pc := BitVec.ofNat 20 entry
    cyc := 0
    win := w.buf
    fcause := 0
    faddr := 0
    faulted := false
    handlers := []
    tmrPending := false
    matched := 0
    branched := false
    stall := none
    waitAt := none }

/-- A core starts its oldest staged item (R160, R164, R192), while no item of its flow is in service (R159). -/
def startItem (s : State) (c : Nat) : State :=
  if (s.itemOn c).isSome || !s.engines then s
  else match (stagedList s.disp.items c).head? with
    | none => s
    | some w =>
      if (inService s.disp.items w.desc.flow).isSome then s
      else
        let k := startCore (s.core c) w ((s.program w.desc.program).map Image.entry |>.getD 0)
        let s1 := (s.enterService w c).setCore c k
        match flowHead s1.disp.items w.desc.flow with
        | some h => (if h.place = .ready ∨ h.place = .parked then headReady s1 h else s1).settle
        | none => s1.settle

/-- FlaggedItems counts an item that ends with AVS or SV set (R180). -/
def flagItem (s : State) (c : Nat) : State :=
  let r := (s.core c).regs
  if r.flag fAVS || r.flag fSV then s.inc (Obj.flaggedItems c) else s

/-- The item a core runs has ended and its writes are acknowledged: its record, with CYC (R168, R193). -/
def finishItem (s : State) (c : Nat) (w : WorkItem) (status result : Nat) : State :=
  (flagItem s c).complete w status (s.core c).cyc result

/-- The end of a program that its core stops, with a status (R164): the item ends once its DMA writes are acknowledged (R184). -/
def endItem (s : State) (c : Nat) (w : WorkItem) (status : Nat) : State :=
  let k := { dropBundle (s.core c) with
    faulted := false
    handlers := []
    stall := none
    waitAt := none
    since := s.dspUnits }
  let s1 := s.setCore c k
  if k.writing then { s1 with disp := { s1.disp with items := s1.disp.items.map (fun (x : WorkItem) =>
      if x.wi = w.wi then { x with job := .other, ended := some (status, 0) } else x) } }
  else finishItem s1 c w status 0

/-- An unhandled fault ends the item with FAULT (R191): CoreFaults, Faults, MATEN_FAULT at most once per second per
program. -/
def faultItem (s : State) (c : Nat) : State :=
  match s.itemOn c with
  | none => s
  | some w =>
    let s1 := (s.inc (Obj.coreFaults c)).inc (Obj.dispatchCounter 6)
    endItem (s1.eventRated Ev.matenFault w.desc.program c (s.core c).fcause) c w 4

/-- Entry of a handler (R189), in place of the open bundle. -/
def enterHandler (s : State) (c : Nat) (src : IntSource) (vector : Nat) : State :=
  let k := dropBundle (s.core c)
  let r := k.regs
  let r1 := { r with ira := k.pc, istat := r.status, late := [] }
  let r2 := (r1.setLl 0).setFlag fIE false
  s.setCore c { k with
    regs := r2
    pc := BitVec.ofNat 20 vector
    faulted := false
    handlers := src :: k.handlers
    tmrPending := k.tmrPending && decide (src ≠ .tmr) }

/-- A core retired after an uncorrectable error: its CoreOnline bit is cleared and it stays out until reset (R191). -/
def retireCore (s : State) (c : Nat) : State :=
  let s1 := s.setCore c { (s.core c) with fcause := 6 }
  let s2 := { s1 with disp := { s1.disp with retired := c :: s1.disp.retired.erase c } }
  let s3 := match s2.itemOn c with
    | some w => endItem ((s2.inc (Obj.coreFaults c)).inc (Obj.dispatchCounter 6)) c w 4
    | none => s2
  (coreOnlineWrite s3 (c / 32) (s3.rd (Obj.coreOnline (c / 32)))).event Ev.matenCoreRetired c 0

/-- A fault of a core is delivered or ends its item (Table 7.11, R189 to R191). -/
def faultEntry (s : State) (c : Nat) : State :=
  let k := s.core c
  let v := ((s.itemOn c).bind (fun w => s.program w.desc.program)).map Image.faultVector |>.getD 0
  let unhandled := decide (v = 0) || k.handlers.contains .fault || (!k.handlers.isEmpty && !k.regs.flag fIE)
  if unhandled then faultItem s c else enterHandler s c .fault v

/-- The core runs a program that has neither ended nor faulted. -/
def runs (s : State) (c : Nat) : Bool :=
  (s.itemOn c).isSome && !((s.itemOn c).bind WorkItem.ended).isSome && !(s.core c).faulted

/-- INTERRUPT_ENTRY (R189): a core takes an interrupt of Table 7.11. FADDR of fault DMA is the HBM address of the oldest transfer. -/
def interruptEntry (s : State) (c : Nat) (src : IntSource) : State :=
  let k := s.core c
  match src with
  | .fault => if k.faulted then faultEntry s c else s
  | .bus =>
    let k1 := dropBundle k
    if runs s c then faultEntry (s.setCore c { k1 with fcause := 4, faddr := k1.pc.toNat, faulted := true }) c else s
  | .dma =>
    match k.dma with
    | d :: _ =>
      if runs s c then
        faultEntry (s.setCore c { dropBundle (dmaNext s.dspUnits 0 false k) with fcause := 5, faddr := d.hbm, faulted := true }) c
      else s
    | [] => s
  | .ecc => retireCore s c
  | .dbg => if bit (s.rd Obj.debugOpen) 1 ∧ k.start.isNone then s.setCore c { k with halted := true } else s
  | .tmr =>
    let v := ((s.itemOn c).bind (fun w => s.program w.desc.program)).map Image.tmrVector |>.getD 0
    if k.tmrPending ∧ k.regs.flag fIE ∧ v ≠ 0 ∧ k.start.isNone ∧ runs s c then enterHandler s c .tmr v else s

/-! ### The commands -/

/-- WORK_ITEM_START (R192). -/
def execWorkItemStart (c : Nat) (s : State) : Host.Outcome State Fault Refusal :=
  .next (if c < 128 then startItem s c else s)

/-- WORK_ITEM_COMPLETE (R168): the item a core runs ends DONE, with the RESULT of its END, or, for a program whose
instructions are not given one by one, with the cycles and result its program returns; or, stopped, with its status. An item ends only
after its DMA writes are acknowledged (R184). -/
def execWorkItemComplete (c cycles result : Nat) (s : State) : Host.Outcome State Fault Refusal :=
  .next (match s.itemOn c with
    | some w =>
      let k := s.core c
      if k.writing || k.faulted || k.start.isSome then s
      else match w.ended with
        | some (st, r) => finishItem s c w st r
        | none => finishItem (s.setCore c { k with cyc := min cycles 0xFFFFFFFF }) c w 0 (result % 2 ^ 32)
    | none => s)

/-- The core of an item that has run for its RunLimit: its ITEM window is discarded, and it has spent the limit at least. -/
def overrunCore (k : MatenCore) (limit : Nat) : MatenCore :=
  { k with
    mem := k.mem.filter (fun e => !(decide (bufWord k.win ≤ e.1) && decide (e.1 < bufWord (k.win + 1))))
    cyc := min 0xFFFFFFFF (max k.cyc limit) }

/-- RUN_LIMIT_EXPIRY (R164): an item that has run for its RunLimit of CLK_DSP cycles (R393) is trapped with OVERRUN at a bundle
boundary. -/
def execRunLimitExpiry (c : Nat) (s : State) : Host.Outcome State Fault Refusal :=
  .next (match s.itemOn c with
    | some w =>
      if w.runLimit * 32 ≤ s.dspUnits - w.started ∧ w.ended = none ∧ (s.core c).start.isNone then
        let s1 := (s.inc (Obj.dispatchCounter 5)).event Ev.matenRunOverrun (flowType w.desc.flow) w.desc.flow
        endItem (s1.setCore c (overrunCore (s1.core c) w.runLimit)) c w 3
      else s
    | none => s)

/-- MPY (R186). -/
def execMpy (c : Nat) (w : Word) (s : State) : Host.Outcome State Fault Refusal := .next (macIssue s c 0 w.toNat)
/-- MAC (R186). -/
def execMac (c : Nat) (w : Word) (s : State) : Host.Outcome State Fault Refusal := .next (macIssue s c 1 w.toNat)
/-- MACSH (R186). -/
def execMacsh (c : Nat) (w : Word) (s : State) : Host.Outcome State Fault Refusal := .next (macIssue s c 2 w.toNat)
/-- RNDA (R186). -/
def execRnda (c : Nat) (w : Word) (s : State) : Host.Outcome State Fault Refusal := .next (macIssue s c 3 w.toNat)
/-- CLR (R186). -/
def execClr (c : Nat) (w : Word) (s : State) : Host.Outcome State Fault Refusal := .next (macIssue s c 4 w.toNat)

/-- ACS (R187). -/
def execAcs (c : Nat) (w : Word) (s : State) : Host.Outcome State Fault Refusal :=
  .next (if c < 128 ∧ bits w.toNat 27 4 = 5 then issue s c (bit w.toNat 31) (acsInstr w.toNat) else s)

/-- LOOP (R188). -/
def execLoopOp (c : Nat) (p : Bool) (lvl : Nat) (count : BitVec 24) (stop : BitVec 20) (s : State) :
    Host.Outcome State Fault Refusal :=
  .next (if c < 128 ∧ lvl < 4 then issue s c p (loopInstr lvl count stop) else s)

/-- BREAK (R188). -/
def execBreakOp (c : Nat) (p : Bool) (s : State) : Host.Outcome State Fault Refusal :=
  .next (if c < 128 then issue s c p breakInstr else s)

/-- RETI (R190). -/
def execReti (c : Nat) (s : State) : Host.Outcome State Fault Refusal :=
  .next (if c < 128 then issue s c false retiInstr else s)

/-- END (R193): the item ends with RESULT = D1:D0 bits [31:0], once its DMA writes are acknowledged. -/
def execEndOp (c : Nat) (s : State) : Host.Outcome State Fault Refusal :=
  .next (if c < 128 then
    issue s c false (fun t k src => .ok { k with
      branched := true
      start := k.start.map (fun b => { b with result := some (movRead t k src (.pair 0) % 2 ^ 32) }) } t)
    else s)

/-- DMAR (R184): `loc` is the local word address, the HBM octet address is in the pair D(r+1):D(r). -/
def execDmar (c : Nat) (p : Bool) (loc r words : Nat) (s : State) : Host.Outcome State Fault Refusal :=
  .next (if c < 128 then issue s c p (dmaInstr false loc r words) else s)

/-- DMAW (R184). -/
def execDmaw (c : Nat) (p : Bool) (loc r words : Nat) (s : State) : Host.Outcome State Fault Refusal :=
  .next (if c < 128 then issue s c p (dmaInstr true loc r words) else s)

/-- DMAWAIT (R184). -/
def execDmawait (c : Nat) (p : Bool) (n : Nat) (s : State) : Host.Outcome State Fault Refusal :=
  .next (if c < 128 then issue s c p (dmaWaitInstr n) else s)

/-- DMA_TRANSFER_COMPLETE (R184). -/
def execDmaTransferComplete (c i : Nat) (s : State) : Host.Outcome State Fault Refusal :=
  .next (if c < 128 then dmaDone s c i else s)

/-- INTERRUPT_ENTRY (R189). -/
def execInterruptEntry (c : Nat) (src : IntSource) (s : State) : Host.Outcome State Fault Refusal :=
  .next (if c < 128 then interruptEntry s c src else s)

/-- TMR_MATCH (R189): CYC has come to TCMP while MODE.TIE is 1. -/
def execTmrMatch (c : Nat) (s : State) : Host.Outcome State Fault Refusal :=
  let k := s.core c
  .next (if c < 128 ∧ (s.itemOn c).isSome ∧ k.regs.mode.getLsbD 3 ∧ k.matched ≤ k.regs.tcmp.toNat ∧ k.regs.tcmp.toNat ≤ k.cyc then
    s.setCore c { k with
      tmrPending := true
      matched := k.cyc + 1 }
    else s)

/-- STA (R179): MOVA, STA.H, STA.P and the field moves. -/
def execSta (c : Nat) (p : Bool) (ac : Nat) (form : StaForm) (s : State) : Host.Outcome State Fault Refusal :=
  .next (if c < 128 ∧ form.ok then issue s c p (staInstr ac form) else s)

/-- LD (R183): LD, LDP, LD2. -/
def execLd (c : Nat) (p : Bool) (form : LdForm) (s : State) : Host.Outcome State Fault Refusal :=
  .next (if c < 128 ∧ form.ok then issue s c p (ldInstr c form) else s)

/-- ST (R181): ST, STP. -/
def execSt (c : Nat) (p : Bool) (form : StForm) (s : State) : Host.Outcome State Fault Refusal :=
  .next (if c < 128 ∧ form.ok then issue s c p (stInstr form) else s)

/-- B (R188): B, BCC, CALL, RET. -/
def execB (c : Nat) (p : Bool) (form : BranchForm) (target : BitVec 20) (s : State) : Host.Outcome State Fault Refusal :=
  .next (if c < 128 then issue s c p (branchInstr form target) else s)

end Sys2Proof.Machine
end

