-- ==== Sys2Proof/Machine/FabricCore.lean ====
section
/-! DEFINITION. Frames put on the Nolqua fabric by the other engines (R328, R331, R332, R337). -/

namespace Sys2Proof.Machine

/-- KIND code of a payload (Tables 14.2 and 15.3). -/
def fabKind (m : FabMsg) : Nat :=
  match m with
  | .hello _ _ _ _ _ => 0x01
  | .lsa _ => 0x02
  | .lsack _ _ => 0x03
  | .dict _ _ => 0x04
  | .dictResp _ => 0x04
  | .ack _ _ => 0x05
  | .join _ _ => 0x06
  | .joinReply _ _ _ => 0x07
  | .leave _ _ => 0x08
  | .partialMix _ => 0x09
  | .returnMix _ => 0x0A
  | .subscribe _ _ _ _ _ => 0x0B
  | .media _ _ => 0x0C
  | .bulk _ => 0x0D
  | .twin (.hb _) => 0x20
  | .twin (.journal _) => 0x21
  | .twin (.ack _) => 0x22
  | .twin (.snapshot _) => 0x23
  | .twin (.ctrl _) => 0x24

/-- Virtual channel of a payload (R331, R343, R344, Table 15.3): CTRL, AUDIO for partials and returns, VIDEO for media, BULK. -/
def fabVc (m : FabMsg) : Nat :=
  match m with
  | .partialMix _ => 1
  | .returnMix _ => 1
  | .media _ _ => 2
  | .bulk _ => 3
  | .twin (.journal _) => 1
  | .twin (.snapshot _) => 3
  | _ => 0

/-- Octets of a packet inside a MEDIA frame. -/
def mediaOctets (m : MediaPkt) : Nat :=
  match m with
  | .fromLeg _ _ p => 12 + p.octets
  | .fromRctx _ p => 12 + p.octets

/-- Payload length of a frame. Table 8.9 gives partials and returns; the manual gives no layout for the other payloads, and
the lengths here are the model's. -/
def fabLength (m : FabMsg) : Nat :=
  match m with
  | .partialMix _ => 1536
  | .returnMix _ => 2976
  | .media _ p => 8 + mediaOctets p
  | .lsa a => 16 + 4 * a.links.length
  | .dict r _ => 24 + r.length
  | .dictResp w => 4 * w.length
  | .twin (.hb _) => 68
  | .twin (.journal es) => 64 * (es.map JEntry.span).sum
  | .twin (.snapshot es) => 64 * (es.map JEntry.span).sum
  | _ => 24

/-- FLOW of a media or mix frame (R337); CTRL and BULK frames take their SEQ. -/
def fabFlow (m : FabMsg) (seq : Nat) : Nat :=
  match m with
  | .partialMix p => p.conf
  | .returnMix r => r.conf
  | .media _ (.fromLeg l e _) => (l * 8 + e) % 0x100000
  | .media _ (.fromRctx r _) => 0x80000 + r
  | _ => seq

/-- A payload that is acknowledged end to end (R331): on CTRL or BULK, and not confined to one hop or an ACK itself. -/
def fabReliable (m : FabMsg) : Bool :=
  match m with
  | .hello _ _ _ _ _ => false
  | .lsa _ => false
  | .lsack _ _ => false
  | .ack _ _ => false
  | .partialMix _ => false
  | .returnMix _ => false
  | .media _ _ => false
  | .twin _ => false
  | _ => true

/-- The fabric egress queue of a device and virtual channel (Table 1.4). -/
def fabQueue (dst vc : Nat) : Nat := 41984 + dst * 4 + vc

/-- Capacity of a fabric egress queue in granules: the manual states none; the model's choice. -/
def fabQueueGranules : Nat := 16384

/-- Own FDEV. -/
def State.ownFdev (s : State) : Nat := s.rd Obj.fdev

/-- A route to a device exists (Table 14.6, RouteState). -/
def State.reachable (s : State) (d : Nat) : Bool := decide (d < 512) && decide (s.rd (Obj.routeState d) ≠ 0)

/-- A frame placed in the egress queue of its destination and channel; false when the queue lacks room. -/
def State.fabQueuePush (s : State) (f : FabFrame) : Bool × State :=
  let n := fabQueue f.dst f.vc
  let s0 := if (s.q n).allocated then s else s.setQ n (Queue.fresh .backPressure fabQueueGranules)
  match s0.push n (4 + 20 + f.length) (.fabric f) with
  | (.ok, t) => (true, t)
  | (_, t) => (false, t)

/-- A payload sent to another device: SEQ on the reliable channels, FLOW, TTL 15, and for a reliable frame its place among
the unacknowledged. -/
def State.fabSend (s : State) (dst : Nat) (m : FabMsg) : State :=
  if 512 ≤ dst ∨ 512 ≤ s.ownFdev then s
  else
    let vc := fabVc m
    let k := dst * 4 + vc
    let rel := fabReliable m
    let q := if rel then AMap.get 0 k s.fb.seqs else 0
    let f : FabFrame := ⟨vc, dst, s.ownFdev, 15, fabLength m, fabKind m, fabFlow m q, q, m⟩
    let s1 := if rel then
        { s with fb := { s.fb with
          seqs := AMap.put 0 k ((q + 1) % 65536) s.fb.seqs
          unacked := s.fb.unacked ++ [⟨f, s.mono, 0⟩] } }
      else s
    (s1.fabQueuePush f).2

/-- A frame that goes one hop on a port (R328, and every frame on TW). -/
def State.hopSend (s : State) (p dst : Nat) (m : FabMsg) : State :=
  let f : FabFrame := ⟨fabVc m, dst, if s.ownFdev < 512 then s.ownFdev else 0x1FF, 15, fabLength m, fabKind m, 0, 0, m⟩
  { s with fb := { s.fb with hop := s.fb.hop ++ [(p, f)] } }

/-- A frame on TW (Table 15.3): DST and SRC 0x1FF, TTL 1. -/
def State.twSend (s : State) (m : TwinMsg) : State :=
  let f : FabFrame := ⟨fabVc (.twin m), 0x1FF, 0x1FF, 1, fabLength (.twin m), fabKind (.twin m), 0, 0, .twin m⟩
  { s with fb := { s.fb with hop := s.fb.hop ++ [(6, f)] } }

/-- The oldest received frame of a kind for this device, with its port and arrival, taken by its consumer. -/
def State.takeFrame (s : State) (sel : FabFrame → Bool) : Option (Nat × Nat × FabFrame) × State :=
  match s.fb.inbox.find? (fun x => sel x.2.2 &&
      (decide (x.1 = 6) || decide (x.2.2.kind ≤ 3) || decide (x.2.2.dst = s.ownFdev))) with
  | none => (none, s)
  | some x => (some x, { s with fb := { s.fb with inbox := s.fb.inbox.erase x } })

end Sys2Proof.Machine
end

