-- ==== Sys2Proof/Machine/TwinCore.lean ====
section
/-! DEFINITION. The twin role and the journal (R347, R353, R354) as the other engines use them. -/

namespace Sys2Proof.Machine

/-- The twin role (Table 15.1): 0 SOLO, 1 ACTIVE, 2 STANDBY, 3 COLD. -/
def State.role (s : State) : Nat := s.rd Obj.twRole

/-- The device may send media: SOLO or ACTIVE (Table 15.1). -/
def State.serves (s : State) : Bool := decide (s.role < 2)

/-- An ACTIVE whose STANDBY protects it (R354). -/
def State.isProtected (s : State) : Bool := decide (s.role = 1) && decide (s.rd Obj.twProtected = 1)

/-- Journal entries a body takes (Tables 15.6 and 15.7): 52 payload octets each. -/
def jSpan : JBody → Nat
  | .write r _ => max 1 (ceilDiv (12 + r.length) 52)
  | .key _ _ _ w => max 1 (ceilDiv (7 + w.octs.length) 52)
  | _ => 1

/-- A new journal entry of the active (R353, R355): sent on TW, committed at once when the device is unprotected. A device
that is not ACTIVE journals nothing. Its JSEQ is that of its last part. -/
def State.journal (s : State) (b : JBody) : State :=
  if s.role ≠ 1 then s
  else
    let n := jSpan b
    let e : JEntry := ⟨(s.tw.nextJseq + n - 1) % 0x100000000, n, b, true⟩
    let s1 := ({ s with tw := { s.tw with nextJseq := (s.tw.nextJseq + n) % 0x100000000 } }).count Obj.journalEntries n
    let s2 := s1.twSend (.journal [e])
    if s.isProtected then { s2 with tw := { s2.tw with sent := s2.tw.sent ++ [⟨e, s2.mono, false⟩] } }
    else s2.wr Obj.jseqCommitted e.jseq

/-- The JSEQ of the entry last journaled. -/
def State.lastJseq (s : State) : Nat := (s.tw.nextJseq + 0xFFFFFFFF) % 0x100000000

/-- An entry is committed (R354): it is not among those waiting for an acknowledgement. -/
def State.committed (s : State) (jseq : Nat) : Bool := !s.tw.sent.any (fun e => decide (e.entry.jseq = jseq))

/-- The epoch tag of frames while it is enabled (R128). -/
def State.epochTag (s : State) : Option Nat := if s.rd Obj.epochTagEnable = 1 then some (s.rd Obj.twEpoch % 2 ^ 24) else none

/-- The device may send on ETH0 and ETH1 (R347, R357). -/
def State.ethOut (s : State) : Bool := s.serves && !s.tw.fenced

/-- A PTP frame relayed out of the other port (R371); event messages carry their residence time, which the manual leaves to the
device. -/
def relayPtp (s : State) (port kind : Nat) (timed : Bool) : State :=
  if s.rd Obj.tcEnable = 1 ∧ s.ethOut ∧ port < 2 then
    let (r, s1) := if timed then s.free 32 else (0, s)
    (s1.inc (Obj.timeCounter 3)).emit (.ptpRelay (1 - port) kind r s1.epochTag)
  else s

/-- A PTP frame other than those the clock consumes, by its messageType (R370, R371): a Delay_Req is an event message that only the
relay serves; any other is relayed, dropped and counted as ignored. -/
def ptpOther (s : State) (port kind : Nat) : State :=
  if kind = 1 then relayPtp s port 1 true else (relayPtp s port kind false).inc (Obj.timeCounter 4)

/-- TwinConfig.Mode is PAIR (Table 15.10). -/
def State.paired (s : State) : Bool := decide (s.rd Obj.twMode = 1)

/-- The fence of an ACTIVE device (R357): its shapers and transmitters stop, and TWIN_FENCED is logged. -/
def fence (s : State) : State :=
  if s.role = 1 ∧ ¬ s.tw.fenced then
    ({ s with tw := { s.tw with fenced := true, fenceAt := s.mono } }).event Ev.twinFenced 0 0
  else s

end Sys2Proof.Machine
end

