-- ==== Sys2Proof/Machine/LegCore.lean ====
section
/-! DEFINITION. The leg engine's shared operations (spec/01, spec/04): partition room, leg state, the classifier table, timing
of codecs, building and enqueueing of egress packets. -/

namespace Sys2Proof.Machine

/-! ### Partition room (R304, R306) -/

/-- Usable octets of a partition: 7/8 of a protected one (R303). -/
def State.partUsable (s : State) (p : Nat) : Nat :=
  if p = 2 ∨ p = 3 then s.partSize p * mib * 7 / 8 else s.partSize p * mib

/-- Octets allocated in a partition. -/
def State.partUsed (s : State) (p : Nat) : Nat := AMap.get 0 p s.mm.used

/-- A partition has room for n more octets (R306). -/
def State.room (s : State) (p n : Nat) : Bool := decide (s.partUsed p + n ≤ s.partUsable p)

/-- Allocation of octets in a partition. -/
def State.allot (s : State) (p n : Nat) : State :=
  { s with mm := { s.mm with used := AMap.put 0 p (s.partUsed p + n) s.mm.used } }

/-- Release of octets in a partition. -/
def State.unallot (s : State) (p n : Nat) : State :=
  { s with mm := { s.mm with used := AMap.put 0 p (s.partUsed p - n) s.mm.used } }

/-! ### Codecs (Tables 8.1 and 8.2, R375) -/

/-- Bit-rate range and default of a codec class (Table 8.2). -/
def rateRange (codec : Nat) : Nat × Nat × Nat :=
  match codec with
  | 1 => (64000, 64000, 64000)
  | 2 => (64000, 64000, 64000)
  | 3 => (64000, 64000, 64000)
  | 4 => (6600, 23850, 12650)
  | 5 => (8000, 64000, 32000)
  | 6 => (16000, 128000, 48000)
  | 7 => (32000, 256000, 96000)
  | 8 => (5900, 128000, 24400)
  | _ => (0, 0, 0)

/-- Decode and Encode columns of Table 8.2, in k cycles/s. -/
def decodeCost (codec : Nat) : Nat :=
  [0, 900, 900, 1800, 2400, 3200, 4800, 7600, 6000].getD codec 0
def encodeCost (codec : Nat) : Nat :=
  [0, 1100, 1100, 2600, 6800, 8400, 10800, 16000, 14900].getD codec 0

/-- The charge of a leg in k cycles/s (R198). -/
def legCharge (s : State) (l : Nat) : Nat :=
  let r := s.rd (Obj.rxCodec l)
  let t := s.rd (Obj.txCodec l)
  400 + decodeCost r + encodeCost t +
    (if s.rd (Obj.ptime l) = 0 ∧ (r ∈ [5, 6, 7] ∨ t ∈ [5, 6, 7]) then 2000 else 0)

/-- The bit rate a leg sends at: TxBitrate, or its class's default while TxBitrate is at 0, its own default. -/
def State.txRate (s : State) (l : Nat) : Nat :=
  let b := s.rd (Obj.txBitrate l)
  if b = 0 then (rateRange (s.rd (Obj.txCodec l))).2.2 else b

/-- Octets of an audio payload at a bit rate over a number of milliseconds. -/
def payloadOctets (rate p : Nat) : Nat := ceilDiv (rate * p) 8000

/-! ### Jitter and egress memory (R116, R120, Table 4.3) -/

/-- Slot size in octets. -/
def State.slotOctets (s : State) (l : Nat) : Nat := 256 * 2 ^ s.rd (Obj.jbSlotSize l)

/-- Jitter memory of a leg: the audio entry's slots and the ring of each receive VIDEO entry. -/
def jitterOctets (s : State) (l : Nat) : Nat :=
  (if (s.rxAudio l).isSome then s.rd (Obj.jbSlots l) * s.slotOctets l else 0) +
    ((List.range 8).filter (fun e => decide (s.rd (Obj.rxKind e l) = 2))).length * s.rd (Obj.videoBytes l)

/-- Octets of a leg's egress queue. -/
def egressOctets (s : State) (l : Nat) : Nat := s.rd (Obj.egressGranules l) * 64

/-! ### The classifier table (R111) -/

/-- A classifier key: a leg's addressing with an SSRC; 2^32 stands for the unspecified SSRC of a learning entry (R112). -/
def clsKey (family la ra lp rp ssrc : Nat) : Nat :=
  let a := fun (x : Nat) => if family = 4 then x % 2 ^ 32 else x % 2 ^ 128
  ((((a la * 2 ^ 128 + a ra) * 2 ^ 16 + lp) * 2 ^ 16 + rp) * 2 ^ 33 + ssrc) * 16 + family

/-- The SSRC part of a receive entry's key. -/
def State.keySsrc (s : State) (l e : Nat) : Nat :=
  if s.rd (Obj.rxLearn e l) = 1 then 2 ^ 32 else s.rd (Obj.rxSsrc e l)

/-- The key of a leg's receive entry. -/
def State.entryKey (s : State) (l e : Nat) : Nat :=
  clsKey (s.rd (Obj.addrFamily l)) (s.rd (Obj.localAddr l)) (s.rd (Obj.remoteAddr l)) (s.rd (Obj.localPort l))
    (s.rd (Obj.remotePort l)) (s.keySsrc l e)

/-- Buckets of the table. -/
def clsBuckets : Nat := 262144

/-- The emptier of a key's two candidate buckets, or none when both hold four entries. -/
def pickBucket (seed : Nat) (t : List ClsEntry) (k : Nat) : Option Nat :=
  let b1 := Config.hash1 seed k % clsBuckets
  let b2 := Config.hash2 seed k % clsBuckets
  let n := fun (b : Nat) => (t.filter (fun e => decide (e.bucket = b))).length
  if n b1 ≤ n b2 then (if n b1 < 4 then some b1 else none) else if n b2 < 4 then some b2 else none

/-- Insertion of one leg's keys one by one: the table, or the abort of the first that fails (R111). -/
def clsInsert (seed l : Nat) (live : Bool) : List (Nat × Nat) → List ClsEntry → Nat × List ClsEntry
  | [], t => (0, t)
  | (e, k) :: r, t =>
    if t.any (fun x => decide (x.key = k) && decide (x.leg ≠ l)) then (Abort.classifyDuplicate, t)
    else match pickBucket seed t k with
      | none => (Abort.hashFull, t)
      | some b => clsInsert seed l live r (t ++ [⟨k, b, l, e, live⟩])

/-- The leg's entries removed and those its objects now ask for reserved, inactive (Table 4.1, R103). A fabric-fed leg's
entries are unused and a leg reserves none for it (R344). -/
def clsReserve (s : State) (l : Nat) : Nat × State :=
  let rest := s.le.table.filter (fun x => decide (x.leg ≠ l))
  let keys := if s.fabricFed l then [] else (s.rxUsed l).map (fun e => (e, s.entryKey l e))
  let (a, t) := clsInsert s.le.seed l (s.leg l).live keys rest
  if a = 0 then (0, { s with le := { s.le with table := t } }) else (a, s)

/-- The leg's entries made live or inactive (R102). -/
def clsLive (s : State) (l : Nat) (live : Bool) : State :=
  { s with le := { s.le with table := s.le.table.map (fun x => if x.leg = l then { x with live := live } else x) } }

/-! ### Frame numbers -/

/-- The mix frame in which TimeOfDay lies (R375). -/
def State.mixFrame (s : State) : Nat := s.tod / mixNs

/-- NTP time of TimeOfDay in units of 2^-32 s (R375). -/
def State.ntp (s : State) : Nat :=
  let ns : Int := (s.tod : Int) - s.rdI16 Obj.utcOffset * 1000000000 + 2208988800 * 1000000000
  (ns * 4294967296 / 1000000000 % (18446744073709551616 : Int)).toNat

/-- The RTP timestamp of an instant on a send entry (R375). -/
def rtpTime (t rate offset : Nat) : Nat := (t * rate / 1000000000 + offset) % 2 ^ 32

/-! ### Egress (R127, R137, R146, R147, R298) -/

/-- Octets of a leg's VLAN tags. -/
def State.vlanOctets (s : State) (l : Nat) : Nat :=
  let v := s.rd (Obj.legVlan l)
  (if bit v 31 then 4 else 0) + (if bit v 15 then 4 else 0)

/-- Suite of a key slot, the tag octets it adds to RTP and to RTCP (Table 5.2; SRTCP adds its 4-octet index). -/
def tagOctets (suite : Nat) (rtcp : Bool) : Nat :=
  if suite ∈ [5, 6] then (if rtcp then 20 else 16)
  else if suite ∈ [2, 4] then (if rtcp then 14 else 4)
  else if suite ∈ [1, 3] then (if rtcp then 14 else 10) else 0

/-- IP and UDP header octets of a leg. -/
def State.ipOctets (s : State) (l : Nat) : Nat := if s.rd (Obj.addrFamily l) = 6 then 48 else 28

/-- Octets an IP packet of the leg may have (R127): Mtu, less 6 while the epoch tag is enabled. -/
def State.mtuOctets (s : State) (l : Nat) : Nat :=
  s.rd (Obj.mtu l) - (if s.rd Obj.epochTagEnable = 1 then 6 else 0)

/-- The suite of a leg's send slot. -/
def State.txSuite (s : State) (l : Nat) : Nat :=
  let k := s.rd (Obj.txKslot l)
  if k < 65536 then s.rd (Obj.kSuite k) else 0

/-- The layers an extension of a leg's received packet gives: frame marking and the dependency descriptor, under the ids that the leg
names (Table 12.1). -/
def frameMarkOf (s : State) (l : Nat) (p : Rtp) : Option LayerInfo :=
  let i := s.rd (Obj.rxFrameMarkId l)
  (p.exts.filterMap (fun e => match e.body with
    | .frameMark x => if i ≠ 0 ∧ e.id = i then some x else none
    | _ => none)).head?
def depDescOf (s : State) (l : Nat) (p : Rtp) : Option LayerInfo :=
  let i := s.rd (Obj.rxDepDescId l)
  (p.exts.filterMap (fun e => match e.body with
    | .depDesc x => if i ≠ 0 ∧ e.id = i then some x else none
    | _ => none)).head?

/-- No layers known. -/
def LayerInfo.none : LayerInfo := ⟨false, 0, 0, false, false, false, false⟩

/-- Octets of header extensions (RFC 8285): the four octets before them, and each with its own header, one octet in the one-byte form,
two where some extension does not fit that form, padded to words. -/
def extOctets (es : List HdrExt) : Nat :=
  if es.isEmpty then 0
  else
    let per := if es.all (fun e => decide (1 ≤ e.octets) && decide (e.octets ≤ 16)) then 1 else 2
    4 + ceilDiv ((es.map (fun e => per + e.octets)).sum) 4 * 4

/-- The transport-wide sequence number as the leg's next RTP packet carries it (R286). -/
def State.twccExt (s : State) (l : Nat) : List HdrExt :=
  let i := s.rd (Obj.txTwccId l)
  if i = 0 then [] else [⟨i, 2, .twcc (s.leg l).txTwcc⟩]

/-- RTP header octets of a leg's packets that carry extensions `es` beside the transport-wide sequence number. -/
def State.rtpHeader (s : State) (l : Nat) (es : List HdrExt) : Nat := 12 + extOctets (s.twccExt l ++ es)

/-- Payload octets that fit one packet of the leg with extensions `es`. -/
def State.payloadRoom (s : State) (l : Nat) (es : List HdrExt) : Nat :=
  s.mtuOctets l - s.ipOctets l - s.rtpHeader l es - tagOctets (s.txSuite l) false

/-- Length of a frame from its destination address to the end of its payload, VLAN tags included, epoch tag not. -/
def frameLength (s : State) (l : Nat) (rtcp : Bool) (es : List HdrExt) (octets : Nat) : Nat :=
  14 + s.vlanOctets l + s.ipOctets l + (if rtcp then octets else s.rtpHeader l es + octets) + tagOctets (s.txSuite l) rtcp

/-- A packet in the leg's egress queue (R298): the length word, a 28-octet descriptor and the frame. -/
def State.enqueue (s : State) (p : OutPkt) : State :=
  match (s.leg p.leg).egressQ with
  | none => s
  | some q => (s.push q (32 + p.frameLen) (.egress p s.mono)).2

/-- A transport-wide sequence number for a packet (R286), with its place in the history of 1,024. -/
def State.stampTwcc (s : State) (p : OutPkt) : OutPkt × State :=
  if s.rd (Obj.txTwccId p.leg) = 0 ∨ !p.rtcp.isEmpty then (p, s)
  else
    let x := s.leg p.leg
    let n := x.txTwcc
    ({ p with twcc := some n, exts := p.exts ++ s.twccExt p.leg }, s.setLeg p.leg { x with
      txTwcc := (n + 1) % 65536
      twccHistory := ((n, 0, p.frameLen) :: x.twccHistory).take 1024 })

/-- A request to the cipher complex (R132). -/
def State.cipherAsk (s : State) (cls ctx : Nat) (j : CipherJob) : State :=
  let r : CipherReq := ⟨s.cip.nextId, cls, ctx, j, false, false⟩
  { s with cip := { s.cip with waiting := s.cip.waiting ++ [r], nextId := s.cip.nextId + 1 } }

/-- Crypto contexts (R133): a stream entry of a leg; receive and send apart. -/
def rxCtx (l e : Nat) : Nat := (l * 8 + e) * 4
def txCtx (l e : Nat) : Nat := (l * 8 + e) * 4 + 1
def bulkCtx (n : Nat) : Nat := n * 4 + 2

/-- The protection step of a formed packet: plain legs enqueue it, others send it to the cipher complex. A TX request that waits there
holds the packetiser, whose further packets wait in it (R134). -/
def State.protect (s : State) (p : OutPkt) : State :=
  if s.cip.waiting.any (fun r => decide (r.cls = 1)) then { s with cip := { s.cip with formed := s.cip.formed ++ [p] } }
  else if s.rd (Obj.txKslot p.leg) = 0xFFFFFFFF then s.enqueue p
  else s.cipherAsk 1 (txCtx p.leg p.entry) (.tx p)

/-- The packetiser goes on with the packets it held once no TX request waits (R134). -/
def packetiserResume : List OutPkt → State → State
  | [], s => { s with cip := { s.cip with formed := [] } }
  | p :: r, s =>
    if s.cip.waiting.any (fun x => decide (x.cls = 1)) then { s with cip := { s.cip with formed := p :: r } }
    else packetiserResume r ({ s with cip := { s.cip with formed := [] } }.protect p)

/-- The headers of a leg's frames (R127). RTCP of a leg without RTCP_MUX goes between the RTP ports + 1 (Table 4.6 step 8). -/
def frameHdr (s : State) (l : Nat) (rtcp : Bool) : FrameHdr := {
  dstMac := s.rd (Obj.nextHopMac l)
  srcMac := Config.portMac (s.rd (Obj.legPort l))
  vlan := s.rd (Obj.legVlan l)
  family := s.rd (Obj.addrFamily l)
  dscp := s.rd (Obj.dscp l)
  srcAddr := s.rd (Obj.localAddr l)
  dstAddr := s.rd (Obj.remoteAddr l)
  srcPort := s.rd (Obj.localPort l) + b2n (rtcp && !s.legFlag l 0)
  dstPort := s.rd (Obj.remotePort l) + b2n (rtcp && !s.legFlag l 0) }

/-- An RTP packet of a send entry takes its index (R146); on an ACTIVE twin a protected context holds it while its window is
not reserved (R147). Nothing leaves an exhausted direction. -/
def State.sendOne (s : State) (p0 : OutPkt) : State :=
  let l := p0.leg
  let e := p0.entry
  let x := s.txE l e
  let keyed := decide (s.rd (Obj.txKslot l) ≠ 0xFFFFFFFF)
  if (s.leg l).egressQ.isNone ∨ ¬ s.serves then s
  else if keyed && (bit (s.rd (Obj.exhausted l)) 0 || bit (s.rd (Obj.exhausted l)) 1) then s
  else
    let i := x.index
    let (p, s0) := s.stampTwcc { p0 with
      index := i
      seq := i % 65536
      marker := p0.marker || x.mark
      frameLen := frameLength s l false p0.exts p0.octets
      hdr := frameHdr s l false }
    let last := decide (i = 2 ^ 48 - 1)
    let x1 := { x with
      index := if last then 0 else i + 1
      mark := false
      packets := (x.packets + 1) % 2 ^ 32
      octets := (x.octets + p.octets) % 2 ^ 32
      lastTs := p.ts
      sent := (p :: x.sent).take 512
      exhausted := last && keyed }
    let s1 := s0.setTxE l e x1
    let s2 := if last && keyed then
        (s1.wr (Obj.exhausted l) (setBit (s1.rd (Obj.exhausted l)) 0)).event Ev.srtpExhausted l 0
      else s1
    let w := i / 4096
    if keyed && decide (s.role = 1) && decide (x.window ≠ some w) then
      let y := s2.txE l e
      if y.reserving.isNone then
        let s3 := s2.journal (.window l true e w)
        s3.setTxE l e { y with reserving := some (w, s3.lastJseq), held := y.held ++ [p] }
      else s2.setTxE l e { y with held := y.held ++ [p] }
    else s2.protect p

/-- The parts of a payload that fit the packets of a leg (R127). -/
def splitOctets (n room : Nat) : List Nat :=
  if n ≤ room ∨ room = 0 then [n]
  else (List.range (ceilDiv n room)).map (fun i => min room (n - i * room))

/-- The packets an RTP payload is sent in (R127): one, or several under one timestamp so that no IP packet exceeds Mtu. The marker of audio
stands on the first, that of video on the last. -/
def splitPkts (s : State) (p : OutPkt) : List OutPkt :=
  let parts := splitOctets p.octets (s.payloadRoom p.leg p.exts)
  parts.zipIdx.map (fun x => { p with
    octets := x.1
    marker := p.marker && (if p.audio = [] then decide (x.2 + 1 = parts.length) else decide (x.2 = 0))
    audio := if x.2 = 0 then p.audio else [] })

/-- An RTP payload sent. -/
def State.sendRtp (s : State) (p : OutPkt) : State := (splitPkts s p).foldl State.sendOne s

/-- The first send entry in use, on whose context the leg's RTCP leaves. -/
def State.rtcpEntry (s : State) (l : Nat) : Nat := (s.txUsed l).headD 0

/-- An RTCP compound or feedback packet of a leg (R122): its length, then the cipher or the egress queue. -/
def State.sendRtcp (s : State) (l : Nat) (parts : List RtcpPart) (octets : Nat) : State :=
  let e := s.rtcpEntry l
  let x := s.txE l e
  let keyed := decide (s.rd (Obj.txKslot l) ≠ 0xFFFFFFFF)
  if (s.leg l).egressQ.isNone ∨ ¬ s.serves then s
  else if keyed && (bit (s.rd (Obj.exhausted l)) 0 || bit (s.rd (Obj.exhausted l)) 1) then s
  else
    let i := x.srtcpIndex
    let last := decide (i = 2 ^ 31 - 1)
    let p : OutPkt := {
      leg := l, entry := e, rtcp := parts, pt := 0, marker := false, seq := 0, ts := 0, ssrc := s.rd (Obj.txSsrc e l)
      octets := octets, frameLen := frameLength s l true [] octets, index := i, twcc := none, prot := none, audio := []
      padding := false, srcLeg := 0, srcEntry := 0, srcSeq := 0, resent := 0, hdr := frameHdr s l true }
    let s1 := s.setTxE l e { x with srtcpIndex := if last then 0 else i + 1, srtcpExhausted := last && keyed }
    let s2 := if last && keyed then
        (s1.wr (Obj.exhausted l) (setBit (s1.rd (Obj.exhausted l)) 1)).event Ev.srtpExhausted l 0
      else s1
    (s2.inc (Obj.rtcpTx l)).protect p

/-- Octets of RTCP packets (RFC 3550, RFC 4585, RFC 5104, REMB, transport-wide feedback). -/
def rtcpPartLen (p : RtcpPart) : Nat :=
  match p with
  | .sr _ _ _ _ _ b => 28 + 24 * b.length
  | .rr _ b => 8 + 24 * b.length
  | .sdes _ _ => 44
  | .bye x => 4 + 4 * x.length
  | .nack _ _ q => 12 + 4 * q.length
  | .pli _ _ => 12
  | .fir _ _ _ => 20
  | .remb _ _ => 24
  | .twcc _ a => 20 + 4 * ceilDiv a.length 2
  | .badLength => 4

/-- Octets of a compound. -/
def rtcpLength (ps : List RtcpPart) : Nat := (ps.map rtcpPartLen).sum

end Sys2Proof.Machine
end

