-- ==== Sys2Proof/Machine/LegRtcp.lean ====
section
/-! DEFINITION. What the leg engine sends by RTCP (R121, R122, R229): reports, feedback, key requests. -/

namespace Sys2Proof.Machine

/-- The report block of a receive entry (R122): RFC 3550 loss since the last report, the signed 24-bit cumulative loss, extended highest
sequence number, jitter, and the last sender report. -/
def reportBlock (s : State) (l e : Nat) : ReportBlock :=
  let x := s.rxE l e
  let expected := if x.started then x.highest - x.base + 1 else 0
  let lost : Int := max (-0x800000) (min 0x7FFFFF ((expected : Int) - x.received))
  let newExpected := expected - x.priorExpected
  let newLost := newExpected - (x.received - x.priorReceived)
  { ssrc := s.rd (Obj.rxSsrc e l)
    fraction := if newExpected = 0 then 0 else newLost * 256 / newExpected
    lost := uns 24 lost
    highest := x.highest % 2 ^ 32
    jitter := x.jitter / 16
    lsr := x.lastSrNtp / 65536 % 2 ^ 32
    dlsr := if x.lastSrAt = 0 then 0 else (s.mono - x.lastSrAt) * 65536 / 1000000000 % 2 ^ 32 }

/-- The receive entries a report has a block for (R122): all in use but those whose SSRC is still to be learned, which name no
source yet. -/
def reported (s : State) (l : Nat) : List Nat := (s.rxUsed l).filter (fun e => decide (s.rd (Obj.rxLearn e l) = 0))

/-- A report compound (R122): an SR for every send entry in use or an RR, the report blocks, SDES with Cname. -/
def reportParts (s : State) (l : Nat) : List RtcpPart :=
  let blocks := (reported s l).map (reportBlock s l)
  let tx := s.txUsed l
  let sr := tx.map (fun e =>
    let x := s.txE l e
    let rate := if s.rd (Obj.txKind e l) = 1 then clockRate (s.rd (Obj.txCodec l)) else 90000
    RtcpPart.sr (s.rd (Obj.txSsrc e l)) s.ntp (rtpTime s.tod rate x.offset) x.packets x.octets
      (if e = tx.headD 0 then blocks else []))
  let own := if tx.isEmpty then 0 else s.rd (Obj.txSsrc (tx.headD 0) l)
  (if tx.isEmpty then [RtcpPart.rr 0 blocks] else sr) ++ [RtcpPart.sdes own (s.rd (Obj.cname l))]

/-- The counts of a receive entry from which the next report's loss fraction is taken. -/
def markReported (s : State) (l e : Nat) : State :=
  let x := s.rxE l e
  s.setRxE l e { x with priorExpected := if x.started then x.highest - x.base + 1 else 0, priorReceived := x.received }

/-- A scheduled report (R122). -/
def State.sendReport (s : State) (l : Nat) : State :=
  let ps := reportParts s l
  (reported s l).foldl (fun t e => markReported t l e) (s.sendRtcp l ps (rtcpLength ps))

/-- A feedback packet: alone with RTCP_RSIZE set, otherwise in a compound (R122). -/
def State.sendFeedback (s : State) (l : Nat) (p : RtcpPart) : State :=
  let ps := if s.legFlag l 1 then [p] else reportParts s l ++ [p]
  s.sendRtcp l ps (rtcpLength ps)

/-- The SSRC a leg's feedback is sent from. -/
def ownSsrc (s : State) (l : Nat) : Nat := s.rd (Obj.txSsrc (s.rtcpEntry l) l)

/-- What became of a key request (R229): sent, nothing the endpoint accepts, or held by the 200 ms pacing. -/
inductive KeyAnswer | sent | suppressed | paced
deriving DecidableEq, Repr

/-- The pacing of key requests in nanoseconds (R229). -/
def keyPace : Nat := 200 * ms

/-- A key request towards the source of a leg's receive entry (R229, R289, R466): a FIR or PLI to the endpoint, or for a
fabric-fed leg a repeated SUBSCRIBE to the source device; at most one per receive entry in 200 ms. -/
def State.askKey (s : State) (l e : Nat) : KeyAnswer × State :=
  let k := l * 8 + e
  let last := AMap.get 0 k s.ad.keyAsk
  if (last ≠ 0 ∧ s.mono + 1 < last + keyPace) ∨ ¬ s.serves then (.paced, s)
  else
    let s0 := { s with ad := { s.ad with keyAsk := AMap.put 0 k (s.mono + 1) s.ad.keyAsk } }
    if s.fabricFed l then
      (.sent, s0.fabSend (s.rd (Obj.srcFdev l))
        (.subscribe 0 l (s.rd (Obj.srcKind l)) (s.rd (Obj.srcId l)) (s.rd (Obj.srcEntry l))))
    else
      let f := s.rd (Obj.feedbackAccepted l)
      let media := s.rd (Obj.rxSsrc e l)
      if bit f 2 then
        let n := AMap.get 0 k s0.ad.fir
        let s1 := { s0 with ad := { s0.ad with fir := AMap.put 0 k (n + 1) s0.ad.fir } }
        (.sent, s1.sendFeedback l (.fir (ownSsrc s l) media n))
      else if bit f 1 then (.sent, s0.sendFeedback l (.pli (ownSsrc s l) media))
      else (.suppressed, s)

end Sys2Proof.Machine
end

