-- ==== Sys2Proof/Machine/LegObj.lean ====
section
/-! DEFINITION. Leg and conference objects as writes reach them (R100 to R108, R117, R198): the checks of the device's state,
the consistency of a record after a write, and the transitions of LegState. -/

namespace Sys2Proof.Machine

/-! ### Leg records -/

/-- Two of a list of numbers are equal. -/
def hasTwice : List Nat → Bool
  | [] => false
  | x :: r => r.contains x || hasTwice r

/-- Two used entries of one direction carry the same SSRC (R105); a learning entry carries none yet. -/
def ssrcTwice (s : State) (l : Nat) : Bool :=
  hasTwice (((s.rxUsed l).filter (fun e => decide (s.rd (Obj.rxLearn e l) = 0))).map (fun e => s.rd (Obj.rxSsrc e l))) ||
    hasTwice ((s.txUsed l).map (fun e => s.rd (Obj.txSsrc e l)))

/-- Receive entries of a kind. -/
def rxOfKind (s : State) (l k : Nat) : List Nat := (List.range 8).filter (fun e => decide (s.rd (Obj.rxKind e l) = k))

/-- The entry counts of R106: a fifth receive VIDEO entry breaks a relation of Table 1.3 (R21). DESIGN CHOICE: a second receive AUDIO
entry, for which no rule names the abort, is INCONSISTENT. -/
def entryCounts (s : State) (l : Nat) : Nat :=
  if 1 < (rxOfKind s l 1).length then Abort.inconsistent
  else if 4 < (rxOfKind s l 2).length then Abort.relation else 0

/-- The receive VIDEO entry of another leg or number that a decode context is already bound to (Table 1.3). -/
def dctxTaken (s : State) (l e d : Nat) : Bool :=
  s.dict.any (fun x =>
    let ix := x.1 / 0x100000000
    let sub := x.1 / 0x1000000 % 256
    let el := x.1 % 0x1000000
    decide (0x2110 ≤ ix) && decide (ix ≤ 0x2117) && decide (sub = 5) && decide (x.2 = d) &&
      !(decide (el = l) && decide (ix - 0x2110 = e)) && decide (s.rd (Obj.rxKind (ix - 0x2110) el) = 2))

/-- A VIDEO entry of the leg names a decode context that another stream holds. -/
def dctxClash (s : State) (l : Nat) : Bool :=
  (rxOfKind s l 2).any (fun e =>
    let d := s.rd (Obj.rxDctx e l)
    decide (d < 4096) && (dctxTaken s l e d || ((rxOfKind s l 2).any (fun f => decide (f ≠ e) && decide (s.rd (Obj.rxDctx f l) = d)))))

/-- The checks of R117 on LegJitter that tie its fields together. -/
def jitterBad (s : State) (l : Nat) : Bool :=
  decide (s.rd (Obj.jbMaxDepth l) < s.rd (Obj.jbMinDepth l)) ||
    ((s.rxAudio l).isSome && decide ((s.rd (Obj.jbSlots l) - 2) * s.ptimeMs l < s.rd (Obj.jbMaxDepth l)))

/-- An audio payload at the codec's rate does not fit SlotSize − 32 octets (R117). DESIGN CHOICE: the negotiated rate of a receive codec
without a fixed rate, for which no object stands, is TxBitrate, or the default of the codec's class while that is 0. -/
def payloadTooLong (s : State) (l : Nat) : Bool :=
  let c := s.rd (Obj.rxCodec l)
  let b := s.rd (Obj.txBitrate l)
  let rate := if c < 4 ∨ b = 0 then (rateRange c).2.2 else b
  (s.rxAudio l).isSome && decide (s.slotOctets l - 32 < payloadOctets rate (s.ptimeMs l))

/-- The checks of R198 that tie codec, Ptime, TxBitrate and Dtx together. -/
def codecBad (s : State) (l : Nat) : Bool :=
  let r := s.rd (Obj.rxCodec l)
  let t := s.rd (Obj.txCodec l)
  let b := s.rd (Obj.txBitrate l)
  (decide (s.rd (Obj.ptime l) = 0) && (decide (r ∈ [4, 8]) || decide (t ∈ [4, 8]))) ||
    (decide (t ≠ 0) && decide (b ≠ 0) && (decide (b < (rateRange t).1) || decide ((rateRange t).2.1 < b))) ||
    (decide (s.rd (Obj.dtx l) = 1) && !decide (t ∈ [4, 5, 6, 7, 8]))

/-- The leg is ACTIVE, or an accepted transition makes it so: what its activation was checked against stands (R21, R103). -/
def LegRt.going (x : LegRt) : Bool := decide (x.stage = .active) || x.turn.any (fun t => decide (t.2 = .active))

/-- State checks of a write to a leg table's field (R24, R103): nothing is written while the leg is RELEASING, and no field
marked A and no stream record while it is ACTIVE. LegState has its own (R100). -/
def legPre (s : State) (ix l : Nat) (amark counter : Bool) : Nat :=
  if counter ∨ ix = 0x2101 then 0
  else if (s.leg l).stage = .releasing then Abort.notQuiescent
  else if (s.leg l).going ∧ (amark ∨ (0x2110 ≤ ix ∧ ix ≤ 0x2123)) then Abort.legActive
  else 0

/-- Validation of a leg's configuration while it is REGISTERED (Table 4.1, R105, R106, R112): addressing is required of a leg that takes
packets from ETH0 or ETH1, and a learning entry requires SSRC_LEARN. -/
def registerCheck (s : State) (l : Nat) : Nat :=
  if entryCounts s l ≠ 0 then entryCounts s l
  else if ssrcTwice s l then Abort.inconsistent
  else if (s.rxUsed l).any (fun e => decide (s.rd (Obj.rxLearn e l) = 1)) && !s.legFlag l 2 then Abort.inconsistent
  else if !s.fabricFed l && (decide (s.rd (Obj.localPort l) = 0) || decide (s.rd (Obj.remotePort l) = 0)) then Abort.inconsistent
  else 0

/-- The leg holds reserved classifier entries: REGISTERED, or accepted to be. -/
def LegRt.reserves (x : LegRt) : Bool := decide (x.stage = .registered) || (decide (x.stage = .free) && !x.turn.isEmpty)

/-- Consistency of a leg's records after a write, and the classifier entries of a REGISTERED leg replaced (R103, R105, R106,
R111, R112, R117). -/
def legPost (s : State) (ix l : Nat) : Nat × State :=
  if ix = 0x2130 then (if jitterBad s l then (Abort.inconsistent, s) else (0, s))
  else if 0x2110 ≤ ix ∧ ix ≤ 0x2123 ∨ ix = 0x2100 ∨ ix = 0xA600 then
    if 0x2110 ≤ ix ∧ ix ≤ 0x2123 ∧ ssrcTwice s l then (Abort.inconsistent, s)
    else if 0x2110 ≤ ix ∧ ix ≤ 0x2117 ∧ entryCounts s l ≠ 0 then (entryCounts s l, s)
    else if 0x2110 ≤ ix ∧ ix ≤ 0x2117 ∧ dctxClash s l then (Abort.relation, s)
    else if (s.leg l).reserves then
      if registerCheck s l ≠ 0 then (registerCheck s l, s) else clsReserve s l
    else (0, s)
  else (0, s)

/-! ### LegState (Table 4.1) -/

/-- A key slot that SRTP in a leg direction may use (R101, R135): LOADED, of suite 1 to 6. -/
def srtpSlotOk (s : State) (k : Nat) : Bool :=
  decide (k = 0xFFFFFFFF) || (decide (k < 65536) && decide (s.rd (Obj.kState k) = 1) &&
    decide (1 ≤ s.rd (Obj.kSuite k)) && decide (s.rd (Obj.kSuite k) ≤ 6))

/-- Cycles committed, with those of accepted activations (R198). -/
def State.cyclesHeld (s : State) : Nat :=
  s.rd Obj.cyclesCommitted +
    ((s.le.legs.filter (fun e => decide (e.2.stage ≠ .active) && e.2.turn.any (fun t => decide (t.2 = .active)))).map
      (fun e => e.2.charge)).sum

/-- PINNED members of a conference among the legs that are or will be active, with leg `l` counted as given. -/
def pinnedCount (s : State) (c l : Nat) (pinned : Bool) : Nat :=
  ((s.members c).filter (fun m => decide (m ≠ l) && (s.goingLegs.contains m) && decide (s.rd (Obj.talk m) = 2))).length + b2n pinned

/-- The checks of an activation (R101, R117, R198, R203). -/
def activateCheck (s : State) (l : Nat) : Nat :=
  let c := s.rd (Obj.legConf l)
  if ¬ (c < 16384 ∧ s.rd (Obj.confState c) = 1) then Abort.relation
  else if !(srtpSlotOk s (s.rd (Obj.rxKslot l)) && srtpSlotOk s (s.rd (Obj.txKslot l))) then Abort.relation
  else if registerCheck s l ≠ 0 then registerCheck s l
  else if jitterBad s l ∨ payloadTooLong s l ∨ codecBad s l then Abort.inconsistent
  else if s.rd (Obj.talk l) = 2 ∧ s.rd (Obj.mixK c) < pinnedCount s c l true then Abort.pinLimit
  else if 32768 ≤ s.goingLegs.length then Abort.limit
  else if s.rd Obj.audioBudget < s.cyclesHeld + legCharge s l then Abort.throughput
  else 0

/-- The first free egress queue from a choice of the bridge's (R22). -/
def findQueue (s : State) : Nat → Nat → Option Nat
  | 0, _ => none
  | k + 1, q => if (s.q q).allocated then findQueue s k ((q + 1) % 32768) else some q

/-- Memory and egress queue of an activation (Table 4.1, R22): jitter memory kept since an earlier activation is given back
and allocated afresh, and a queue still draining stays the leg's. -/
def activateMemory (s : State) (l : Nat) : Nat × State :=
  let x := s.leg l
  let jb := jitterOctets s l
  let s1 := s.unallot 1 x.jbOctets
  let eg := if x.egressQ.isSome then 0 else egressOctets s l
  if !s1.room 1 (jb + eg) then (Abort.partition, s)
  else match x.egressQ with
    | some _ => (0, (s1.allot 1 jb).setLeg l { x with jbOctets := jb })
    | none =>
      let (c, s2) := s1.choose 32768
      match findQueue s2 32768 c with
      | none => (Abort.limit, s)
      | some q =>
        (0, (((s2.allot 1 (jb + eg)).setQ q (Queue.fresh .overwriteOldest (s.rd (Obj.egressGranules l)))).setLeg l
          { x with jbOctets := jb, egressQ := some q }))

/-- An accepted transition waits for the mix-frame boundary of R53. -/
def State.turnLeg (s : State) (l : Nat) (t : LegStage) : State :=
  let x := s.leg l
  s.setLeg l { x with turn := x.turn ++ [(mixBoundary s.tod, t)] }

/-- LEG_REGISTER (R100, R59): a FREE leg. One that is RELEASING is reused before it is quiescent (R24). -/
def legRegister (s : State) (l : Nat) : Nat × State :=
  if (s.leg l).future = .releasing then (Abort.notQuiescent, s)
  else if (s.leg l).future ≠ .free then (Abort.legState, s)
  else if s.season = .autumn then (Abort.draining, s)
  else
    let a := registerCheck s l
    if a ≠ 0 then (a, s)
    else match clsReserve s l with
      | (0, t) => (0, t.turnLeg l .registered)
      | (a, _) => (a, s)

/-- LEG_ACTIVATE (R101): a REGISTERED leg. -/
def legActivate (s : State) (l : Nat) : Nat × State :=
  if (s.leg l).future ≠ .registered then (Abort.legState, s)
  else if s.season = .autumn then (Abort.draining, s)
  else
    let a := activateCheck s l
    if a ≠ 0 then (a, s)
    else match activateMemory s l with
      | (0, t) => (0, (t.setLeg l { t.leg l with charge := legCharge s l }).turnLeg l .active)
      | (a, _) => (a, s)

/-- LEG_DEACTIVATE (Table 4.1): an ACTIVE leg. -/
def legDeactivate (s : State) (l : Nat) : Nat × State :=
  if (s.leg l).future ≠ .active then (Abort.legState, s) else (0, s.turnLeg l .registered)

/-- LEG_FREE (Table 4.1): a REGISTERED leg. -/
def legFree (s : State) (l : Nat) : Nat × State :=
  if (s.leg l).future ≠ .registered then (Abort.legState, s) else (0, s.turnLeg l .releasing)

/-- A write of LegState: the transition its value and the leg's state name (R100). -/
def legStateWrite (s : State) (l v : Nat) : Nat × State :=
  match v with
  | 0 => legFree s l
  | 1 => if (s.leg l).future = .active then legDeactivate s l else legRegister s l
  | 2 => legActivate s l
  | _ => (Abort.legState, s)

/-! ### At the boundary (R102) -/

/-- A send entry at activation: its index from TxRoc and a random first sequence number, a random timestamp offset (R146,
R375). -/
def startTx (s : State) (l e : Nat) : State :=
  let (q, s1) := s.random 16
  let (o, s2) := s1.random 32
  s2.setTxE l e { TxEntry.idle with index := s.rd (Obj.txRoc l) * 65536 + q, offset := o }

/-- The next report instant: Interval multiplied by a factor from 0.5 to 1.5 (R122). -/
def State.nextReport (s : State) (l : Nat) : State :=
  let (r, s1) := s.random 20
  let iv := s.rd (Obj.rtcpInterval l) * ms
  s1.setLeg l { s1.leg l with rtcpDue := s.mono + iv / 2 + iv * r / 1048576 }

/-- The activation's effect: entries live, codec and jitter state fresh, the charge committed (R102, R119, R198), a
fabric-fed leg's SUBSCRIBE (R344, R466). -/
def legGoActive (s : State) (l : Nat) : State :=
  let x := s.leg l
  let one := Gain.at one20
  let y : LegRt := { LegRt.idle with
    stage := .active, turn := x.turn, egressQ := x.egressQ, live := true, charge := x.charge, jbOctets := x.jbOctets
    lastRx := s.mono, depth := s.rd (Obj.jbMinDepth l), nextDepth := s.rd (Obj.jbMinDepth l)
    outGain := Gain.at (s.rd (Obj.outputGain l) * 1024), duck := one, g := one, nextAdjust := s.mono + 500 * ms
    paths := [⟨.conf (s.rd (Obj.legConf l)), one⟩], jbMode := s.rd (Obj.jbMode l) }
  let s1 := (clsLive (s.setLeg l y) l true).wr (Obj.legState l) 2
  let s2 := (s1.txUsed l).foldl (fun t e => startTx t l e) s1
  let s3 := (List.range 8).foldl (fun t e => t.setRxE l e { RxEntry.idle with roc := s.rd (Obj.rxRoc l) }) s2
  let s4 := ((s3.wr (Obj.jbDepth l) y.depth).wr Obj.cyclesCommitted (s3.rd Obj.cyclesCommitted + x.charge)).wr
    (Obj.legCost l) x.charge
  let s5 := s4.nextReport l
  if s.fabricFed l ∧ s.serves then
    (s5.wr (Obj.feedState l) 1).fabSend (s.rd (Obj.srcFdev l))
      (.subscribe 0 l (s.rd (Obj.srcKind l)) (s.rd (Obj.srcId l)) (s.rd (Obj.srcEntry l)))
  else s5

/-- The deactivation's effect: entries inactive, BYE unless NO_BYE, the charge released (R102, R122, R198); a fabric-fed leg
unsubscribes (R344). -/
def legGoInactive (s : State) (l : Nat) : State :=
  let x := s.leg l
  let ps := reportParts s l ++ [.bye ((s.txUsed l).map (fun e => s.rd (Obj.txSsrc e l)))]
  let s1 := if s.legFlag l 4 then s else s.sendRtcp l ps (rtcpLength ps)
  let y := s1.leg l
  let s2 := (clsLive (s1.setLeg l { y with stage := .registered, live := false, charge := 0, paths := [], weight := Gain.at 0 }) l
    false).wr (Obj.legState l) 1
  let s3 := ((s2.wr Obj.cyclesCommitted (s2.rd Obj.cyclesCommitted - x.charge)).wr (Obj.legCost l) 0).wr (Obj.selected l) 0
  let s4 := { s3 with le := { s3.le with clips := s3.le.clips.filter (fun c => c.isConf || decide (c.target ≠ l)) } }
  if s.fabricFed l ∧ s.serves then
    (s4.wr (Obj.feedState l) 0).fabSend (s.rd (Obj.srcFdev l))
      (.subscribe 1 l (s.rd (Obj.srcKind l)) (s.rd (Obj.srcId l)) (s.rd (Obj.srcEntry l)))
  else s4

/-- One accepted transition takes effect. -/
def legGo (s : State) (l : Nat) (t : LegStage) : State :=
  match t with
  | .registered =>
    if (s.leg l).stage = .active then legGoInactive s l
    else (s.setLeg l { s.leg l with stage := .registered }).wr (Obj.legState l) 1
  | .active => legGoActive s l
  | .releasing =>
    let s1 := { s with le := { s.le with table := s.le.table.filter (fun x => decide (x.leg ≠ l)) } }
    (s1.setLeg l { s1.leg l with stage := .releasing }).wr (Obj.legState l) 3
  | .free => s

/-- A leg's transitions that are due take effect, in the order they were accepted. -/
def legTurns (s : State) (l : Nat) : State :=
  let x := s.leg l
  let due := x.turn.filter (fun t => decide (t.1 ≤ s.tod))
  due.foldl (fun t d => legGo t l d.2) (s.setLeg l { x with turn := x.turn.filter (fun t => decide (s.tod < t.1)) })

/-- Something still refers to the leg: a work item, a queue entry, a cipher operation, a held packet (R24). -/
def legReferred (s : State) (l : Nat) : Bool :=
  s.disp.items.any (fun w => decide (w.desc.flow = flowTag 0 l)) ||
    s.disp.held.any (fun h => decide (h.desc.flow = flowTag 0 l)) ||
    s.cip.waiting.any (fun r => decide (r.ctx / 4 / 8 = l) && decide (r.ctx % 4 ≠ 2)) ||
    s.cip.cores.any (fun k => (k.2.job.any (fun j => decide (j.req.ctx / 4 / 8 = l) && decide (j.req.ctx % 4 ≠ 2)))) ||
    s.cip.formed.any (fun p => decide (p.leg = l)) || (s.leg l).egressQ.isSome

/-- LEG_QUIESCENT (R24): a RELEASING leg that nothing refers to is FREE again, its memory given back, its objects at their
defaults. -/
def legQuiescent (s : State) (l : Nat) : State :=
  if (s.leg l).stage = .releasing ∧ ¬ legReferred s l then
    let s1 := (s.unallot 1 (s.leg l).jbOctets).setLeg l LegRt.idle
    let s2 := (List.range 8).foldl (fun t e => t.setRxE l e RxEntry.idle) s1
    let s3 := (List.range 4).foldl (fun t e => t.setTxE l e TxEntry.idle) s2
    let s4 := { s3 with ad := { s3.ad with
      legs := AMap.del l s3.ad.legs
      shapers := AMap.del l s3.ad.shapers
      feeds := s3.ad.feeds.filter (fun f => decide (f.1 / 4 ≠ l))
      seen := s3.ad.seen.filter (fun f => decide (f.1 / 8 ≠ l)) } }
    s4.clearLegObjects l
  else s

/-- EGRESS_QUEUE_RELEASE (R22): the queue of a deactivated leg returns to the free pool once it is empty. -/
def egressRelease (s : State) (l : Nat) : State :=
  let x := s.leg l
  match x.egressQ with
  | some q =>
    if x.stage ≠ .active ∧ x.turn.all (fun t => decide (t.2 ≠ .active)) ∧ (s.q q).head.isNone ∧ (s.q q).copying.isNone ∧
        (s.txUsed l).all (fun e => (s.txE l e).held.isEmpty) ∧ s.cip.formed.all (fun p => decide (p.leg ≠ l)) then
      ((s.setQ q Queue.empty).unallot 1 ((s.q q).cap * 64)).setLeg l { x with egressQ := none }
    else s
  | none => s

/-- LEG_RX_TIMEOUT (Table 4.1): RxTimeout passes with no RTP received; a further RxTimeout
without RTP raises the event again. -/
def legRxTimeout (s : State) (l : Nat) : State :=
  let x := s.leg l
  let t := s.rd (Obj.rxTimeout l)
  if x.stage = .active ∧ t ≠ 0 ∧ x.lastRx + t * ms ≤ s.mono ∧ x.live ∧ s.serves then
    (s.setLeg l { x with lastRx := s.mono }).event Ev.legRxTimeout l 0
  else s

/-! ### Conferences (R107, R108) -/

/-- State checks of a write to a conference's field: Role while ACTIVE (R108). -/
def confPre (s : State) (ix sub c : Nat) : Nat :=
  if ix = 0x2200 ∧ sub = 2 ∧ s.rd (Obj.confState c) = 1 then Abort.relation else 0

/-- REMOTE needs both anchor fields (R108). -/
def confPost (s : State) (ix c : Nat) : Nat × State :=
  if ix = 0x2200 ∧ s.rd (Obj.confRole c) = 2 ∧ (s.rd (Obj.anchorFdev c) = 0xFFFF ∨ s.rd (Obj.anchorConf c) = 0xFFFF) then
    (Abort.relation, s)
  else (0, s)

/-! ### The commands -/

def execLegQuiescent (l : Nat) (s : State) : Host.Outcome State Fault Refusal := .next (legQuiescent s l)
def execEgressQueueRelease (l : Nat) (s : State) : Host.Outcome State Fault Refusal := .next (egressRelease s l)
def execLegRxTimeout (l : Nat) (s : State) : Host.Outcome State Fault Refusal := .next (legRxTimeout s l)

/-- RTCP_REPORT_TIMER (R122): the leg's report interval has expired. -/
def execRtcpReportTimer (l : Nat) (s : State) : Host.Outcome State Fault Refusal :=
  .next (if s.legActive l ∧ (s.leg l).rtcpDue ≤ s.mono then (s.sendReport l).nextReport l else s)

end Sys2Proof.Machine
end

