-- ==== Sys2Proof/Machine/Keys.lean ====
section
/-! DEFINITION. The key store and the recording taps (R135, R140 to R143, R149, R150, R126, R212). -/

namespace Sys2Proof.Machine

/-- Octets of material a suite takes (Table 5.2). -/
def materialOctets (suite : Nat) : Nat := [0, 30, 30, 46, 46, 28, 44, 64, 32].getD suite 0

/-- Octets of its RFC 3394 wrap (Table 5.3). -/
def wrappedOctets (suite : Nat) : Nat := [0, 40, 40, 56, 56, 40, 56, 72, 40].getD suite 0

/-- Material as its octets. -/
def keyOctets (suite m : Nat) : List Nat := octets (materialOctets suite) m

/-- What a wrap holds for a slot of a suite, under the material of a KEK_AES_256 slot; none where the integrity check of RFC 3394
fails. -/
def unwrapKey (kek suite : Nat) (w : Wrapped) : Option Nat :=
  (keyUnwrap (keyOctets 8 kek) w.octs).map (fun o => ofOctets (o.take (materialOctets suite)))

/-- The wrap of material of a suite, zero-padded to whole 8-octet blocks (Table 5.3). -/
def wrapKey (kek suite m : Nat) : Wrapped := ⟨keyWrap (keyOctets 8 kek) (octets (ceilDiv (materialOctets suite) 8 * 8) (m % 256 ^ materialOctets suite))⟩

/-- The material a slot holds, none when it is EMPTY. -/
def State.material (s : State) (k : Nat) : Option Nat :=
  let v := AMap.get 0 k s.cip.material
  if v = 0 then none else some (v - 1)

/-- A slot's state (Table 5.4): 0 EMPTY, 1 LOADED, 2 PENDING. -/
def State.slotState (s : State) (k : Nat) : Nat := s.rd (Obj.kState k)

/-- A tap is named by a table and an element. -/
def Tap.named (t : Tap) (isLeg : Bool) (id : Nat) : Bool := decide (t.isLeg = isLeg) && decide (t.id = id)

/-- A slot is named by an ACTIVE leg, by its RxKslotAlt, or by an enabled tap (R143). -/
def slotInUse (s : State) (k : Nat) : Bool :=
  s.cip.taps.any (fun t => decide (t.slot = k)) ||
    s.le.legs.any (fun e => decide (e.2.stage = .active) && (decide (s.rd (Obj.rxKslot e.1) = k) ||
      decide (s.rd (Obj.txKslot e.1) = k) || decide (s.rd (Obj.rxKslotAlt e.1) = k)))

/-- The tap's name as an event argument and in its sectors: [31] LegRecord, [23:0] CONF or LEG (Table 8.7). -/
def tapName (isLeg : Bool) (id : Nat) : Nat := b2n isLeg * 0x80000000 + id

/-- Gen advances modulo 65,536 and the slot's sector ranges are dropped: its recording epoch ends (R141, R149, R150). A tap that runs on
the slot begins a range of the new epoch at its next sector. -/
def newEpoch (s : State) (k : Nat) : State :=
  let g := (s.rd (Obj.kGen k) + 1) % 65536
  let s1 := s.wr (Obj.kGen k) g
  { s1 with cip := { s1.cip with ranges := s1.cip.ranges.filter (fun r => decide (r.slot ≠ k)) ++
    (s1.cip.taps.filter (fun t => decide (t.slot = k))).map (fun t => ⟨k, g, t.base + t.k, t.base + t.k, [tapName t.isLeg t.id]⟩) } }

/-- A rewritten slot lets the exhausted directions that use it go on, their exhausted contexts from index 0 (R146). -/
def resumeLeg (s : State) (k l : Nat) : State :=
  let x := s.rd (Obj.exhausted l)
  let s1 := if s.rd (Obj.txKslot l) = k ∧ bits x 0 2 ≠ 0 then
      (List.range 4).foldl (fun t e =>
        let y := t.txE l e
        t.setTxE l e { y with
          index := if y.exhausted then 0 else y.index
          srtcpIndex := if y.srtcpExhausted then 0 else y.srtcpIndex
          exhausted := false
          srtcpExhausted := false
          window := if y.exhausted then none else y.window })
        (s.wr (Obj.exhausted l) (x - bits x 0 2))
    else s
  let x1 := s1.rd (Obj.exhausted l)
  if s.rd (Obj.rxKslot l) = k ∧ bits x1 2 2 ≠ 0 then
    (List.range 8).foldl (fun t e =>
      let y := t.rxE l e
      let z := if y.exhausted then { y with highest := 0, seen := [], floor := 0, started := false, roc := 0, exhausted := false } else y
      t.setRxE l e (if y.srtcpExhausted then { z with srtcpHighest := 0, srtcpSeen := [], srtcpExhausted := false } else z)) (s1.wr (Obj.exhausted l) (x1 - bits x1 2 2 * 4))
  else s1

/-- Material stored in a slot (Table 5.4). -/
def storeKey (s : State) (k m : Nat) : State :=
  let s1 := { s with cip := { s.cip with material := AMap.put 0 k (m + 1) s.cip.material } }
  let s2 := (newEpoch s1 k).wr (Obj.kState k) 1
  (s2.le.legs.map Prod.fst).foldl (fun t l => resumeLeg t k l) s2

/-- Zeroisation of a slot (Table 5.4). -/
def zeroise (s : State) (k : Nat) : State :=
  let s1 := { s with cip := { s.cip with material := AMap.del k s.cip.material } }
  (((newEpoch s1 k).wr (Obj.kSuite k) 0)).wr (Obj.kState k) 0

/-- KEY_SUITE_WRITE (R141, R143). `withKey` says that the same group also writes Key or KeyWrapped of the slot. -/
def keySuiteWrite (s : State) (k v : Nat) (withKey : Bool) : Nat × State :=
  match s.slotState k with
  | 2 => (Abort.keyPending, s)
  | 0 => if slotInUse s k ∧ v ≠ s.rd (Obj.kSuite k) then (Abort.relation, s) else (0, s.wr (Obj.kSuite k) v)
  | _ =>
    if slotInUse s k ∧ v ≠ s.rd (Obj.kSuite k) then (Abort.relation, s)
    else if withKey ∧ v ≠ 0 then (0, s.wr (Obj.kSuite k) v)
    else (Abort.inconsistent, s)

/-- KEY_LOAD (R135, R141, R143): material `m` of `len` octets for the suite that the slot has, or that the same group gives it. -/
def keyLoad (s : State) (k suite len m : Nat) : Nat × State :=
  if suite ≠ 0 ∧ len ≠ materialOctets suite then (Abort.lengthMismatch, s)
  else if s.slotState k = 2 then (Abort.keyPending, s)
  else if suite = 0 then (Abort.inconsistent, s)
  else if bit (s.rd Obj.keyPolicy) 0 then (Abort.wrapRequired, s)
  else (0, storeKey s k m)

/-- KEY_WRAPPED_LOAD (R143): the wrap unwraps under the material of the slot that Kek names. -/
def keyWrappedLoad (s : State) (k suite len : Nat) (w : Wrapped) : Nat × State :=
  let kek := s.rd (Obj.kKek k)
  if suite ≠ 0 ∧ len ≠ wrappedOctets suite then (Abort.lengthMismatch, s)
  else if s.slotState k = 2 then (Abort.keyPending, s)
  else if suite = 0 then (Abort.inconsistent, s)
  else if ¬ (kek < 65536 ∧ s.slotState kek = 1 ∧ s.rd (Obj.kSuite kek) = 8) then (Abort.relation, s)
  else match unwrapKey ((s.material kek).getD 0) suite w with
    | none => (Abort.unwrapFailed, s)
    | some m => (0, storeKey s k m)

/-- KEY_ERASE (R141): at once without operations in flight, otherwise PENDING; nothing on a PENDING or EMPTY slot. -/
def keyErase (s : State) (k : Nat) : Nat × State :=
  if s.slotState k ≠ 1 then (0, s)
  else if s.rd (Obj.kInFlight k) = 0 then (0, zeroise s k)
  else (0, s.wr (Obj.kState k) 2)

/-- KEY_ERASE_COMPLETE (R142): a PENDING slot without operations in flight becomes EMPTY. -/
def keyEraseComplete (s : State) (k : Nat) : State :=
  if s.slotState k = 2 ∧ s.rd (Obj.kInFlight k) = 0 then zeroise s k else s

/-- Overwrite is for XTS slots and can be denied (R143). -/
def overwriteCheck (s : State) (k v : Nat) : Nat :=
  if v = 1 ∧ bit (s.rd Obj.keyPolicy) 1 then Abort.overwriteDenied
  else if v = 1 ∧ s.rd (Obj.kSuite k) ≠ 7 ∧ s.rd (Obj.kSuite k) ≠ 0 then Abort.inconsistent
  else 0

/-! ### Recording taps -/

/-- Keys of a tap's fields: Enable, Ring, Kslot, SectorBase. -/
def tapKeys (isLeg : Bool) (id : Nat) : Nat × Nat × Nat × Nat :=
  if isLeg then (Obj.lrEnable id, Obj.lrRing id, Obj.lrKslot id, Obj.lrSectorBase id)
  else (Obj.crEnable id, Obj.crRing id, Obj.crKslot id, Obj.crSectorBase id)

/-- A sector lies in a range of a slot's epoch. -/
def inRange (rs : List XtsRange) (slot gen sector : Nat) : Bool :=
  rs.any (fun r => decide (r.slot = slot) && decide (r.gen = gen) && decide (r.first ≤ sector) && decide (sector < r.next))

/-- TAP_ENABLE with 1 (R126, R149, R150, R212). -/
def tapEnable (s : State) (isLeg : Bool) (id : Nat) : Nat × State :=
  let (ke, kr, kk, kb) := tapKeys isLeg id
  let slot := s.rd kk
  let base := s.rd kb
  let gen := s.rd (Obj.kGen slot)
  if s.cip.taps.any (fun t => t.named isLeg id) then (0, s)
  else if ¬ (slot < 65536 ∧ s.slotState slot = 1 ∧ s.rd (Obj.kSuite slot) = 7) then (Abort.relation, s)
  else if s.rd (Obj.kOverwrite slot) = 0 ∧ inRange s.cip.ranges slot gen base then (Abort.xtsReuse, s)
  else if 1024 ≤ s.cip.taps.length then (Abort.limit, s)
  else
    let joins := s.cip.ranges.any (fun r => decide (r.slot = slot) && decide (r.gen = gen) && decide (r.next = base))
    if ¬ joins ∧ 1024 ≤ s.cip.ranges.length then (Abort.xtsRanges, s)
    else
      let t : Tap := ⟨isLeg, id, s.rd kr, slot, base, 0, 2 * ceilDiv (s.tod + ms) (20 * ms),
        if isLeg then s.rd (Obj.lrSource id) else 0, [], false⟩
      let name := tapName isLeg id
      let old := s.cip.ranges.map (fun r => { r with owners := r.owners.filter (fun o => decide (o ≠ name)) })
      let rs := if joins then old.map (fun r => if r.slot = slot ∧ r.gen = gen ∧ r.next = base then { r with owners := name :: r.owners } else r)
        else old ++ [⟨slot, gen, base, base, [name]⟩]
      let s1 := { s with cip := { s.cip with taps := s.cip.taps ++ [t], ranges := rs } }
      (0, (s1.wr ke 1).wr Obj.tapsEnabled s1.cip.taps.length)

/-- A tap stops: by a write of Enable 0, or because its next sector may not be written (R150). -/
def tapStop (s : State) (isLeg : Bool) (id : Nat) : State :=
  let s1 := { s with cip := { s.cip with taps := s.cip.taps.filter (fun t => !t.named isLeg id) } }
  (s1.wr (tapKeys isLeg id).1 0).wr Obj.tapsEnabled s1.cip.taps.length

/-- A write of a tap's Enable. -/
def tapWrite (s : State) (isLeg : Bool) (id v : Nat) : Nat × State :=
  if v = 1 then tapEnable s isLeg id else (0, tapStop s isLeg id)

/-- A frame reaches the taps of a source (R212); source 0 RECEIVED or C, 1 N_MINUS_1. -/
def tapFeed (s : State) (isLeg : Bool) (id source frame : Nat) (x : List Int) (clipped : Bool) : State :=
  { s with cip := { s.cip with taps := s.cip.taps.map (fun t =>
    if t.named isLeg id ∧ t.source = source ∧ t.startFrame ≤ frame then
      { t with buf := t.buf ++ [(frame, x)], clipped := t.clipped || clipped } else t) } }

/-- A range grown to hold a sector. -/
def XtsRange.cover (r : XtsRange) (n : Nat) : XtsRange := { r with first := min r.first n, next := max r.next (n + 1) }

/-- A range that begins where `r` ends, of the same slot and epoch, is merged into it (R150). -/
def mergeAfter (rs : List XtsRange) (r : XtsRange) : List XtsRange :=
  match rs.find? (fun x => decide (x ≠ r) && decide (x.slot = r.slot) && decide (x.gen = r.gen) && decide (x.first = r.next)) with
  | some x => (rs.filter (fun y => decide (y ≠ x))).map (fun y => if y = r then { r with next := max r.next x.next, owners := r.owners ++ x.owners } else y)
  | none => rs

/-- The ranges with a tap's own one grown to hold sector `n`; a tap that has none in this epoch begins one. -/
def extendRange (rs : List XtsRange) (slot gen name n : Nat) : List XtsRange :=
  match rs.find? (fun r => decide (r.slot = slot) && decide (r.gen = gen) && r.owners.contains name) with
  | some r => mergeAfter (rs.map (fun x => if x = r then r.cover n else x)) (r.cover n)
  | none => rs ++ [⟨slot, gen, n, n + 1, [name]⟩]

/-- TAP_SECTOR_WRITE (R126, R150, R212): the tap's sector k of frames 2k and 2k + 1 goes to the cipher complex and its range grows up to
the tap's next sector, or the tap stops. -/
def tapSector (s : State) (isLeg : Bool) (id : Nat) : State :=
  match s.cip.taps.find? (fun t => t.named isLeg id) with
  | none => s
  | some t =>
    let f0 := t.startFrame + 2 * t.k
    let g0 := (t.buf.find? (fun b => decide (b.1 = f0))).map Prod.snd
    let g1 := (t.buf.find? (fun b => decide (b.1 = f0 + 1))).map Prod.snd
    if ¬ ((f0 + 2) * mixNs ≤ s.tod ∧ (g1.isSome ∨ (f0 + 3) * mixNs ≤ s.tod)) then s
    else
      let gen := s.rd (Obj.kGen t.slot)
      let n := t.base + t.k
      let beyond := decide (s.rd (Obj.kOverwrite t.slot) = 1)
      let hit := inRange s.cip.ranges t.slot gen n
      if 2 ^ 64 ≤ n ∨ (hit ∧ ¬ beyond) then (tapStop s isLeg id).event Ev.xtsSectorReuse (tapName isLeg id) 0
      else
        let silence := List.replicate 480 (0 : Int)
        let r : Sector := ⟨isLeg, id, n, [], hit, gen, time80 (f0 * mixNs), g0.isNone, g1.isNone, t.clipped,
          g0.getD silence ++ g1.getD silence⟩
        let s1 := { s with cip := { s.cip with
          ranges := extendRange s.cip.ranges t.slot gen (tapName isLeg id) n
          taps := s.cip.taps.map (fun (x : Tap) => if x.named isLeg id then
            { x with k := x.k + 1, buf := x.buf.filter (fun b => decide (f0 + 1 < b.1)), clipped := false } else x) } }
        s1.cipherAsk 2 (bulkCtx (tapName isLeg id)) (.sector t.ring r t.slot)

/-- KEY_ERASE_COMPLETE (R142). -/
def execKeyEraseComplete (k : Nat) (s : State) : Host.Outcome State Fault Refusal :=
  .next (if k < 65536 then keyEraseComplete s k else s)

/-- TAP_SECTOR_WRITE (R212). -/
def execTapSectorWrite (isLeg : Bool) (id : Nat) (s : State) : Host.Outcome State Fault Refusal :=
  .next (tapSector s isLeg id)

end Sys2Proof.Machine
end

