-- ==== Sys2Proof/Machine/Mixing.lean ====
section
/-! DEFINITION. Arithmetic of the audio bridge (R199 to R213): gains and ramps, levels, sums, stores, clips. -/

namespace Sys2Proof.Machine

/-- Samples of a mix frame. -/
def frameSamples : Nat := 480

/-- A silent frame. -/
def silence : List Int := List.replicate frameSamples 0

/-- Value of a gain at sample i of the present frame (R208): linear from start to target; a value not exact in 20 fractional
bits is taken above or below. -/
def Gain.val (g : Gain) (i : Nat) : Nat :=
  let k := g.at_ + i
  if g.total ≤ k then g.to_
  else
    let num := g.from_ * (g.total - k) + g.to_ * k
    num / g.total + b2n (decide (num % g.total ≠ 0) && Config.rampUp g.from_ g.to_ k g.total)

/-- A gain after a number of samples. -/
def Gain.step (g : Gain) (n : Nat) : Gain :=
  if g.total ≤ g.at_ + n then ⟨g.to_, g.to_, 0, 0⟩ else { g with at_ := g.at_ + n }

/-- A gain given a target (R208): a new target starts a ramp from the current value over the whole length. -/
def Gain.aim (g : Gain) (v len : Nat) : Gain :=
  if v = g.to_ then g else if len = 0 then ⟨v, v, 0, 0⟩ else ⟨g.val 0, v, 0, len⟩

/-- Samples multiplied by a gain, one by one: 20 more fractional bits. -/
def scaled (g : Gain) (x : List Int) : List Int := x.mapIdx (fun i v => v * (g.val i : Int))

/-- Sum of two frames. -/
def addFrame (a b : List Int) : List Int := List.zipWith (· + ·) a b

/-- Difference of two frames. -/
def subFrame (a b : List Int) : List Int := List.zipWith (· - ·) a b

/-- A value with `n` fractional places dropped; where it is not exact it is taken above or below. -/
def roundFloor (v : Int) (n : Nat) : Int :=
  let d : Int := (2 ^ n : Nat)
  v / d + (if v % d ≠ 0 ∧ Config.roundUp v n then 1 else 0)

/-- A store to 24 bits (R179, R206): `n` places dropped, then saturation, which sets SV. -/
def store24q (n : Nat) (v : Int) : Int × Bool :=
  let q := roundFloor v n
  if q < -8388608 then (-8388608, true) else if 8388607 < q then (8388607, true) else (q, false)

/-- The store of a frame: its samples, and whether SV was set. -/
def storeFrame (n : Nat) (x : List Int) : List Int × Bool :=
  let r := x.map (store24q n)
  (r.map Prod.fst, r.any Prod.snd)

/-- Stereo reduced to (L + R) / 2 (R200). -/
def mono (chans : List (List Int)) : List Int :=
  match chans with
  | [] => []
  | [a] => a
  | a :: b :: _ => (addFrame a b).map (fun v => (store24q 1 v).1)

/-- Sum of the squares of a frame. -/
def energy (x : List Int) : Nat := (x.map (fun v => v.natAbs * v.natAbs)).sum

/-- The energy of a frame at full scale. -/
def fullEnergy : Nat := 480 * 2 ^ 46

/-- Mean power is at least −t tenths of a decibel below full scale. -/
def levelAtLeast (e t : Nat) : Bool := decide (fullEnergy ^ 100 ≤ e ^ 100 * 10 ^ t)

/-- The least t at or above `lo` for which the level is at least −t, searched over 2^fuel values. -/
def levelSearch (e : Nat) : Nat → Nat → Nat
  | 0, lo => lo
  | k + 1, lo => if levelAtLeast e (lo + 2 ^ k - 1) then levelSearch e k lo else levelSearch e k (lo + 2 ^ k)

/-- Frame level ℓ in tenths of dBFS (R202), not below −127 dBFS; a mean power between two tenths is taken at one of them. -/
def frameLevel (x : List Int) : Int :=
  let e := energy x
  if e = 0 then -1270
  else
    let t := levelSearch e 11 0
    let t1 := if t ≠ 0 ∧ fullEnergy ^ 100 ≠ e ^ 100 * 10 ^ t ∧ Config.levelUp e then t - 1 else t
    if 1270 ≤ t1 then -1270 else -(t1 : Int)

/-- g(n) in units of 1/1024 (Table 8.5). -/
def gTable (n : Nat) : Nat :=
  if 16 < n then 362
  else [1024, 1024, 1024, 836, 724, 648, 591, 547, 512, 483, 458, 437, 418, 402, 387, 374, 362].getD n 1024

/-- Samples of a ramp of a conference (R208). -/
def State.rampSamples (s : State) (c : Nat) : Nat := s.rd (Obj.rampTime c) * 48

/-! ### Clips (R125, R211) -/

/-- The fade of a clip in frame n: one begins at the boundary its STOP named (R125, R211). -/
def Clip.fadeAt (c : Clip) (n : Nat) : Option Gain :=
  match c.fade, c.stop with
  | some g, _ => some g
  | none, some (at_, len) => if at_ ≤ n then some ((Gain.at one20).aim 0 len) else none
  | none, none => none

/-- A clip's samples in frame n (20 more fractional bits), the clip after it (none when it has ended), and whether it ran
dry. -/
def clipFrame (c : Clip) (n : Nat) : List Int × Option Clip × Bool :=
  let gone := (c.fadeAt n).any (fun g => decide (g.val 0 = 0))
  if gone then (silence, none, false)
  else
    let fade := (c.fadeAt n).getD (Gain.at one20)
    let next := (c.fadeAt n).map (fun g => g.step frameSamples)
    let x := (c.samples.drop c.pos).take frameSamples
    let out := fun (y : List Int) =>
      (y ++ List.replicate (frameSamples - y.length) 0).mapIdx
        (fun i v => roundFloor (v * (c.gain : Int) * 1024 * ((fade.val i : Nat) : Int)) 20)
    if x.length = frameSamples then
      let pos := c.pos + frameSamples
      if pos < c.samples.length ∨ ¬ c.complete then (out x, some { c with pos := pos, fade := next }, false)
      else if c.loops = 0 then (out x, some { c with pos := 0, fade := next }, false)
      else if c.loops = 1 then (out x, none, false)
      else (out x, some { c with pos := 0, loops := c.loops - 1, fade := next }, false)
    else if ¬ c.complete then (silence, some { c with fade := next }, true)
    else if c.loops = 0 then (out x, some { c with pos := 0, fade := next }, false)
    else if c.loops = 1 then (out x, none, false)
    else (out x, some { c with pos := 0, loops := c.loops - 1, fade := next }, false)

/-- The clips of a target that play in frame n, summed; the clips after the frame; whether any plays; how many ran dry. -/
def playClips (clips : List Clip) (isConf : Bool) (target n : Nat) : List Int × List Clip × Bool × Nat :=
  clips.foldl (fun acc c =>
    if c.isConf = isConf ∧ c.target = target ∧ c.start ≤ n then
      let (x, nx, dry) := clipFrame c n
      (addFrame acc.1 x, (match nx with
        | some d => acc.2.1 ++ [d]
        | none => acc.2.1), acc.2.2.1 || !(c.fadeAt n).any (fun g => decide (g.val 0 = 0)), acc.2.2.2 + b2n dry)
    else (acc.1, acc.2.1 ++ [c], acc.2.2.1, acc.2.2.2)) (silence, [], false, 0)

/-! ### Conferences' run-time state -/

/-- A conference nothing has mixed yet. -/
def ConfRt.idle : ConfRt := {
  releasing := false, selected := [], speaker := none, challenge := [], speakerVoice := 0, n := 0, g := Gain.at 1048576
  gLocal := Gain.at 1048576, master := Gain.at 1048576, frame := 0, posted := 0, common := [], localCommon := []
  partials := [], clipped := false, returnSel := [], lateRun := 0, localMix := false, remotes := [], joinAt := none
  refusedRun := false, waiting := none, ownPartial := [], ownN := 0, prompt := [] }

def State.cf (s : State) (c : Nat) : ConfRt := AMap.get ConfRt.idle c s.conf
def State.setCf (s : State) (c : Nat) (x : ConfRt) : State := { s with conf := AMap.put ConfRt.idle c x s.conf }

/-- A member's name: FDEV and LEG. -/
def memberId (fdev leg : Nat) : Nat := fdev % 512 * 131072 + leg

/-- FDEV of the device in member entries; 0x1FF while unassigned. -/
def State.fdev9 (s : State) : Nat := s.ownFdev % 512

/-- The ATTEN of a level (Table 8.8): whole decibels below full scale, 0 to 63. -/
def atten (l : Int) : Nat := min 63 ((-l).toNat / 10)

/-- A member entry (Table 8.8). -/
def memberEntry (id : Nat) (l : Int) : Nat := id * 64 + atten l

end Sys2Proof.Machine
end

