-- ==== Sys2Proof/Machine/Audio.lean ====
section
/-! DEFINITION. The audio bridge's work items (R27, R28, R199 to R215): decode, mix and encode of a mix frame, prompts, partial
mixes and returns. -/

namespace Sys2Proof.Machine

/-! ### Posting (Table 1.7, R27, R28) -/

/-- An engine's descriptor of a flow and program; what it puts into the arguments and the data the manual does not state. -/
def engineDescriptor (flow program wgroup wseq : Nat) : Descriptor := ⟨flow, 0, program, 0, 0, 0, 0, 0, 0, wgroup, wseq⟩

/-- WGROUP of items that no withdrawal names (Table 6.2). -/
def noGroup : Nat := 0xFFFFFF

/-- The program of an engine's items that no object names: of a kind, and a codec where the kind has one. -/
def itemProgram (kind codec : Nat) : Nat := Config.itemProgram kind codec % 1024

/-- The withdrawal (CONF, q) that the leg engine issues (R28, R166), with the legs' counts: of items that have not entered service, and of
encode posts that the source still holds (Table 6.5). -/
def withdrawEncodes (s : State) (c q : Nat) : State :=
  let gone := s.disp.items.filter (fun w =>
    decide (w.src = 0) && decide (w.desc.wgroup = c) && decide (w.desc.wseq = q) && w.waiting)
  let isOld := fun (h : HeldPost) => decide (h.src = 0) && decide (h.desc.wgroup = c) && decide (h.desc.wseq = q)
  let heldOld := s.disp.held.filter isOld
  let s1 := { s with disp := { s.disp with held := s.disp.held.filter (fun h => !isOld h) } }
  (gone.map (fun w => w.desc.flow) ++ heldOld.map (fun h => h.desc.flow)).foldl (fun t f => t.inc (Obj.encWithdrawn (flowId f)))
    (s1.withdraw 0 c q)

/-- The CONF_MIX item of frame n posted, with the withdrawal of frame n - 1's encode items (R27, R28). -/
def postMix (s : State) (c n : Nat) : State :=
  let s1 := withdrawEncodes s c ((n + 255) % 256)
  (s1.setCf c { s1.cf c with posted := n + 1 }).post 0 (engineDescriptor (flowTag 1 c) (itemProgram 2 0) noGroup 0) (.mix n)

/-- The encode items of a conference's members posted as its mix completes (Table 1.8, event 5), WGROUP the conference and WSEQ the
frame number modulo 256 (R157). -/
def postEncodes (s : State) (c n : Nat) : State :=
  (s.activeMembers c).foldl (fun t l =>
    t.post 0 (engineDescriptor (flowTag 0 l) (itemProgram 1 (t.rd (Obj.txCodec l))) c (n % 256)) (.encode n)) s

/-- STATUS.SV of the core that runs an item of the flow (R179, R180). -/
def State.markSv (s : State) (f : Nat) : State :=
  match inService s.disp.items f with
  | some c => s.setCore c { s.core c with regs := (s.core c).regs.setFlag fSV true }
  | none => s

/-! ### Decode (R199, R200, R27) -/

/-- A frame of concealed samples. -/
def concealFrame (draw : Nat) : List Int := (List.range frameSamples).map (fun i => sgn 24 (Config.concealed draw i))

/-- The decoded frame of a decode item and the leg's codec state after it (R199): a packet's first frame, its second half, or
concealment up to 60 ms and silence after that. -/
def decodeFrame (s : State) (l : Nat) (h : Hand) : List Int × LegRt × Bool × State :=
  let x := s.leg l
  if s.rd (Obj.rxCodec l) = 0 then (silence, { x with secondHalf := none, lossRun := 0 }, false, s)
  else match h with
    | .packet a =>
      let m := mono a.chans
      let rest := m.drop frameSamples
      (m.take frameSamples ++ List.replicate (frameSamples - m.length) 0,
        { x with secondHalf := if rest.isEmpty then none else some rest, lossRun := 0, silentFrame := a.silent }, false, s)
    | .second =>
      let y := x.secondHalf.getD silence
      (y.take frameSamples ++ List.replicate (frameSamples - y.length) 0, { x with secondHalf := none, lossRun := 0 }, false, s)
    | .empty | .pending =>
      if x.lossRun < 6 then
        (concealFrame s.draws, { x with secondHalf := none, lossRun := x.lossRun + 1 }, true, { s with draws := s.draws + 1 })
      else (silence, { x with secondHalf := none, lossRun := x.lossRun + 1, silentFrame := true }, true, s)

/-- LEG_AUDIO decode of frame n (R199): the input slot takes samples and level with the frame number last; a slot whose mix is
done leaves the leg absent and LateInput counts (R27). -/
def legDecode (s : State) (l n : Nat) (h : Hand) : State :=
  let (y, x, lost, s1) := decodeFrame s l h
  let s2 := s1.setLeg l x
  let s3 := if lost then s2.inc (Obj.concealed l) else s2
  let s4 := tapFeed s3 true l 0 n y false
  let c := s.rd (Obj.legConf l)
  if n < (s.cf c).frame then s4.inc (Obj.lateInput l)
  else s4.setLeg l { x with input := y, inputFrame := n + 1, inputLevel := frameLevel y }

/-! ### Mix (R202 to R207) -/

/-- The input of a member in frame n, silence and −127 dBFS when it is absent (R27, R202). -/
def memberInput (s : State) (l n : Nat) : List Int × Int :=
  let x := s.leg l
  if x.inputFrame = n + 1 then (x.input, x.inputLevel) else (silence, -1270)

/-- Smoothed level and voice activity of a member in a frame (R202). -/
def voice (s : State) (c n l : Nat) : State :=
  let x := s.leg l
  let lv := max (memberInput s l n).2 (x.level - 6)
  let beyond := decide (s.rdI16 (Obj.vadThreshold c) ≤ lv)
  let muted := decide (s.rd (Obj.talk l) = 1)
  let hang := if beyond then s.rd (Obj.hangover c) else x.hang - 10
  let act := !muted && (beyond || decide (0 < x.hang))
  ((s.setLeg l { x with level := lv, hang := hang, vad := act }).wr (Obj.level l) (uns 16 lv)).wr (Obj.vad l) (b2n act)

/-- A candidate of the selection: name, level compared, pinned. -/
structure Cand where
  id : Nat
  level : Int
  pinned : Bool
deriving DecidableEq, Repr

/-- Local candidates (R203): PINNED members, and voice-active NORMAL members. -/
def localCands (s : State) (c : Nat) : List Cand :=
  ((s.activeMembers c).filter (fun l => decide (s.rd (Obj.talk l) = 2) || (decide (s.rd (Obj.talk l) = 0) && (s.leg l).vad))).map
    (fun l => ⟨memberId s.fdev9 l, (s.leg l).level, decide (s.rd (Obj.talk l) = 2)⟩)

/-- Candidates of the anchor's remotes, from the reports of frame n (R213). -/
def remoteCands (s : State) (c n : Nat) : List Cand :=
  ((s.cf c).partials.filter (fun p => decide (p.frame = n % 0x100000000))).flatMap
    (fun p => p.reports.map (fun e => ⟨e / 64, -(10 * (e % 64 : Nat) : Int), false⟩))

/-- Order of the selection: descending level, ties to the lower LEG, then the lower FDEV. -/
def candLe (a b : Cand) : Bool :=
  decide (b.level < a.level) || (decide (a.level = b.level) &&
    (decide (a.id % 131072 < b.id % 131072) || (decide (a.id % 131072 = b.id % 131072) && decide (a.id ≤ b.id))))

/-- The selected set (R203), in descending L: PINNED members first take places, then the loudest up to K; a member selected
before competes at its level plus Hysteresis. -/
def select (k hyst : Nat) (prior : List Nat) (cands : List Cand) : List Cand :=
  let pins := cands.filter (fun c => c.pinned)
  let rest := (cands.filter (fun c => !c.pinned)).map (fun c => { c with level := c.level + if c.id ∈ prior then (hyst : Int) else 0 })
  let won := ((sortBy candLe rest).take (k - pins.length)).map (fun c => c.id)
  sortBy candLe (pins ++ cands.filter (fun c => !c.pinned && decide (c.id ∈ won)))

/-- The candidates of a conference's mix; an anchor compares at 1 dB (R213). A conference with at most one member selects
nobody (R203). DEDUCED: an anchor with one member of its own and reports of others does select, since R213 has it select over both. -/
def mixCands (s : State) (c n : Nat) : List Cand :=
  let locals := localCands s c
  let remotes := if s.rd (Obj.confRole c) = 1 then remoteCands s c n else []
  if (s.activeMembers c).length ≤ 1 ∧ remotes.isEmpty then []
  else if s.rd (Obj.confRole c) = 1 ∧ (s.cf c).remotes ≠ [] then
    locals.map (fun x => { x with level := -(10 * (atten x.level : Nat) : Int) }) ++ remotes
  else locals

/-- Members to cut from their ramp-out (R205): beyond K, the smallest current w, ties to the higher LEG. -/
def rampCutList (s : State) (c : Nat) (selectedLegs : List Nat) : List Nat :=
  let out := (s.activeMembers c).filter (fun l => !selectedLegs.contains l && decide ((s.leg l).weight.val 0 ≠ 0))
  let order := sortBy (fun a b => decide ((s.leg a).weight.val 0 < (s.leg b).weight.val 0) ||
    (decide ((s.leg a).weight.val 0 = (s.leg b).weight.val 0) && decide (b ≤ a))) out
  order.take (out.length - s.rd (Obj.mixK c))

/-- The weight of one member in a frame and its term w·x (R204): the target InputGain while selected and not MUTED. -/
def weigh (s : State) (c n : Nat) (legsIn : List Nat) (cuts : List Nat) (l : Nat) : State :=
  let x := s.leg l
  let isIn := legsIn.contains l
  let target := if isIn ∧ s.rd (Obj.talk l) ≠ 1 then s.rd (Obj.inputGain l) * 1024 else 0
  let w := if cuts.contains l then Gain.at 0 else x.weight.aim target (s.rampSamples c)
  let contributes := decide (w.val 0 ≠ 0) || decide (w.to_ ≠ 0)
  s.setLeg l { x with
    weight := w.step frameSamples
    contributor := contributes
    counts := isIn && x.vad
    term := if contributes then scaled w (memberInput s l n).1 else [] }

/-- Sum of the members' terms. -/
def sumTerms (s : State) (c : Nat) : List Int :=
  (s.activeMembers c).foldl (fun acc l => if (s.leg l).contributor then addFrame acc (s.leg l).term else acc) silence

/-- An output of a mix (R204): MasterGain × g × sum + P, stored to 24 bits. The sum and P carry 20 fractional bits more than a
sample. -/
def mixOut (master g : Gain) (sum p : List Int) : List Int × Bool :=
  let v := (scaled master (scaled g sum))
  storeFrame 60 (addFrame v (p.map (fun x => x * (2 ^ 40 : Nat))))

/-- The target of an output's g (R204, R207). -/
def State.gTarget (s : State) (c n : Nat) : Nat := if s.rd (Obj.scaling c) = 1 then gTable n * 1024 else one20

/-- The N−1 mix of one member (R204): a contributor's own term taken out at its own g; every other member hears C and follows
the common g. -/
def memberMix (s : State) (c n : Nat) (viaReturn : Bool) (master common : Gain) (sum p cOut : List Int) (l : Nat) : State :=
  let x := s.leg l
  if x.contributor then
    let g := x.g.aim (s.gTarget c (if x.counts then n - 1 else n)) (s.rampSamples c)
    let (y, sv) := mixOut master g (subFrame sum x.term) p
    let x1 := { x with g := g.step frameSamples, outputClipped := sv }
    s.setLeg l (if viaReturn then { x1 with mixIn := y } else { x1 with localIn := y })
  else s.setLeg l (if viaReturn then { x with g := common.step frameSamples, mixIn := cOut, outputClipped := false }
    else { x with g := common.step frameSamples, localIn := cOut, outputClipped := false })

/-- The outputs of a conference for a frame from S and P with n (R204, R206): C and the members' mixes, gains advanced, a
common store with SV counted. `viaReturn` tells the mix the members hear by route from a remote's local one (R215). -/
def formMix (s : State) (c n : Nat) (viaReturn : Bool) (sum p : List Int) : State :=
  let f := s.cf c
  let master := f.master.aim (s.rd (Obj.masterGain c) * 1024) (s.rampSamples c)
  let g := (if viaReturn then f.g else f.gLocal).aim (s.gTarget c n) (s.rampSamples c)
  let (y, sv) := mixOut master g sum p
  let f1 := { f with master := master.step frameSamples, clipped := sv }
  let f2 := if viaReturn then { f1 with g := g.step frameSamples, common := y }
    else { f1 with gLocal := g.step frameSamples, localCommon := y }
  let s1 := s.setCf c f2
  let s2 := (s.activeMembers c).foldl (fun t l => memberMix t c n viaReturn master g sum p y l) s1
  let s3 := if sv then s2.inc (Obj.cmClipped c) else s2
  let s4 := (s.activeMembers c).foldl (fun t l => if (t.leg l).outputClipped then t.inc (Obj.legClipped l) else t) s3
  let any := sv || (s.activeMembers c).any (fun l => (s4.leg l).outputClipped)
  if any then (s4.eventRated Ev.audioClipping c c 0).markSv (flowTag 1 c) else s4

/-! ### Speaker events (R210) -/

/-- Levels of the members a conference knows: its own, and those its remotes report. -/
def knownLevels (s : State) (c n : Nat) : List (Nat × Int × Bool) :=
  (s.activeMembers c).map (fun l => (memberId s.fdev9 l, (s.leg l).level, (s.leg l).vad)) ++
    (if s.rd (Obj.confRole c) = 1 then (remoteCands s c n).map (fun r => (r.id, r.level, true)) else [])

/-- The active speaker after a frame with the challengers' starts and when the speaker was last voice-active (R210); instants
in milliseconds of the frame grid. -/
def speakerStep (f : ConfRt) (hyst hold now : Nat) (known : List (Nat × Int × Bool)) : ConfRt :=
  let find := fun (id : Nat) => known.find? (fun k => decide (k.1 = id))
  let loudest := fun (ks : List (Nat × Int × Bool)) =>
    (sortBy (fun a b => candLe ⟨a.1, a.2.1, false⟩ ⟨b.1, b.2.1, false⟩) ks).head?
  let cur := f.speaker.bind find
  let lv := (cur.map (fun k => k.2.1)).getD (-1270)
  let voiceNow := cur.any (fun k => k.2.2)
  let since := if voiceNow then now else f.speakerVoice
  let ch := if f.speaker.isNone then [] else
    (known.filter (fun k => decide (f.speaker ≠ some k.1) && decide (lv + (hyst : Int) ≤ k.2.1))).map (fun k =>
      (k.1, ((f.challenge.find? (fun x => decide (x.1 = k.1))).map Prod.snd).getD now))
  let ripe := known.filter (fun k => ch.any (fun x => decide (x.1 = k.1) && decide (x.2 + hold ≤ now)))
  let active := known.filter (fun k => k.2.2)
  match loudest ripe with
  | some k => { f with speaker := some k.1, challenge := [], speakerVoice := now }
  | none =>
    if f.speaker.isNone ∨ since + hold ≤ now then
      match loudest active with
      | some k => { f with speaker := some k.1, challenge := [], speakerVoice := now }
      | none => { f with challenge := ch, speakerVoice := since }
    else { f with challenge := ch, speakerVoice := since }

/-- SPEAKER_EVENT_PUBLISH (R210, Table 8.6): the record to the composition sequencer, and to SpeakerRing when FLAGS is not 0. -/
def publishSpeaker (s : State) (c n : Nat) (sel : List Cand) (speakerChanged setChanged : Bool) : State :=
  let f := s.cf c
  let known := knownLevels s c n
  let lvl := fun (id : Nat) => ((known.find? (fun k => decide (k.1 = id))).map (fun k => k.2.1)).getD (-1270)
  let act := match f.speaker with
    | some id => memberEntry id (lvl id)
    | none => 0xFFFFFFFF
  let r : SpeakerRec := ⟨c, n % 0x100000000, act, speakerChanged, setChanged, sel.map (fun x => memberEntry x.id (lvl x.id))⟩
  let s1 := { s with speech := AMap.ins c r s.speech }
  let s2 := ((s1.wr (Obj.activeSpeaker c) act).wr (Obj.selectedCount c) sel.length)
  let ring := s.rd Obj.speakerRing
  if ring < 2048 ∧ (speakerChanged ∨ setChanged) then s2.ringPostLost ring 84 (.speaker r) else s2

/-! ### Routes (R209) -/

/-- A route change of a leg: the paths present fade to 0, the new path rises from 0; a fourth drops the oldest. -/
def routeTo (s : State) (l : Nat) (src : PathSrc) : State :=
  let x := s.leg l
  let len := s.rampSamples (s.rd (Obj.legConf l))
  let old := x.paths.map (fun p => { p with gain := p.gain.aim 0 len })
  let new : Path := ⟨src, (Gain.at 0).aim one20 len⟩
  if 3 ≤ old.length then (s.setLeg l { x with paths := old.drop (old.length - 2) ++ [new] }).inc (Obj.routeCuts l)
  else s.setLeg l { x with paths := old ++ [new] }

/-- The source Listen and ListenConf name (Table 8.1). -/
def listenSource (s : State) (l : Nat) : PathSrc :=
  match s.rd (Obj.listen l) with
  | 1 => .promptsOnly
  | 2 => .silent
  | _ =>
    let lc := s.rd (Obj.listenConf l)
    let own := s.rd (Obj.legConf l)
    if lc < 16384 ∧ lc ≠ own then .conf lc
    else if (s.cf own).localMix then .localMix else .conf own

/-- The leg's target path. -/
def LegRt.target (x : LegRt) : Option PathSrc := (x.paths.getLast?).map Path.src

/-- A leg follows its Listen and ListenConf at their boundary (R53, R209). -/
def followRoute (s : State) (l : Nat) : State :=
  if (s.leg l).stage = .active ∧ (s.leg l).target ≠ some (listenSource s l) then routeTo s l (listenSource s l) else s

/-- A remote conference changes between anchor and local mixing: a route change of every member that hears it (R215, R465). -/
def setLocalMix (s : State) (c : Nat) (on : Bool) : State :=
  if (s.cf c).localMix = on then s
  else
    let s1 := s.setCf c { s.cf c with localMix := on }
    (s.activeMembers c).foldl (fun t l => followRoute t l) s1

/-! ### The mix of a frame -/

/-- Conference prompts of a frame (R211): P, the clips advanced. R125 counts PromptUnderrun on the target; the spec gives a conference no
such counter, so a conference's clip that runs dry counts nothing (DESIGN CHOICE, safe: only the silence shows). -/
def confPrompts (s : State) (c n : Nat) : List Int × State :=
  let (p, clips, _, _) := playClips s.le.clips true c n
  (p, { s with le := { s.le with clips := clips } })

/-- The scale of partials and returns (R213): 2^-8, with rounding, stored under R179. -/
def toWire (x : List Int) : List Int × Bool := storeFrame 28 x

/-- A received partial, S or P scaled back, with the 20 fractional bits of a sum. -/
def fromWire (x : List Int) : List Int := x.map (fun v => v * (2 ^ 28 : Nat))

/-- The selected set of a REMOTE that is JOINED: the members its anchor's last return selected, in descending L. -/
def joinedSet (s : State) (c : Nat) (legsIn : List Nat) : List Cand :=
  sortBy candLe (((s.activeMembers c).filter (fun l => legsIn.contains l)).map (fun l =>
    ⟨memberId s.fdev9 l, (s.leg l).level, decide (s.rd (Obj.talk l) = 2)⟩))

/-- Selection and weights of a frame (R202 to R205), with the status objects. For a REMOTE that is JOINED the members the
anchor's last return selected carry weight and are the set it shows. -/
def mixSelect (s : State) (c n : Nat) : List Cand × State :=
  let s1 := (s.activeMembers c).foldl (fun t l => voice t c n l) s
  let sel := select (s.rd (Obj.mixK c)) (s.rd (Obj.hysteresis c)) (s.cf c).selected (mixCands s1 c n)
  let joined := decide (s.rd (Obj.confRole c) = 2) && decide (s.rd (Obj.joinState c) = 2)
  let ids := if joined then (s.cf c).returnSel else sel.map (fun x => x.id)
  let legsIn := (ids.filter (fun i => decide (i / 131072 = s.fdev9))).map (fun i => i % 131072)
  let cuts := rampCutList s1 c legsIn
  let s2 := (s1.activeMembers c).foldl (fun t l => (weigh t c n legsIn cuts l).wr (Obj.selected l) (b2n (legsIn.contains l))) s1
  let contributors := ((s2.activeMembers c).filter (fun l => (s2.leg l).contributor)).length
  let ownN := ((s2.activeMembers c).filter (fun l => (s2.leg l).counts)).length
  let f := s2.cf c
  let known := knownLevels s2 c n
  let f1 := speakerStep f (s.rd (Obj.hysteresis c)) (s.rd (Obj.speakerHold c)) (n * 10) known
  let shown := if joined then joinedSet s2 c legsIn else sel
  let s3 := s2.setCf c { f1 with selected := shown.map (fun x => x.id), ownN := ownN, frame := n + 1 }
  let s4 := s3.wr (Obj.contributors c) contributors
  let s5 := publishSpeaker s4 c n shown (decide (f1.speaker ≠ f.speaker)) (decide (shown.map (fun x => x.id) ≠ f.selected))
  (sel, s5.count (Obj.rampCuts c) cuts.length)

/-- The anchor's part of a mix (R213, R214): partials of the frame added, absent ones counted, a return to each remote. -/
def anchorMix (s : State) (c n : Nat) (sel : List Cand) (p : List Int) : State :=
  let f := s.cf c
  let here := f.partials.filter (fun x => decide (x.frame = n % 0x100000000))
  let late := f.remotes.filter (fun r => !here.any (fun x => decide (x.fdev = r.fdev)))
  let s1 := if late.isEmpty then s else (s.count (Obj.partialLate c) late.length).eventRated Ev.mixPartialLate c c 0
  let sum := here.foldl (fun acc x => addFrame acc (fromWire x.samples)) (sumTerms s1 c)
  let remoteVoices := (sel.filter (fun x => decide (x.id / 131072 ≠ s.fdev9))).length
  let nn := f.ownN + remoteVoices
  let s2 := (s1.setCf c { s1.cf c with
    n := nn
    partials := f.partials.filter (fun x => decide (n % 0x100000000 < x.frame)) }).wr (Obj.mixN c) nn
  let s3 := formMix s2 c nn true sum p
  let (ws, v1) := toWire sum
  let (wp, v2) := toWire p
  let s4 := if v1 || v2 then (s3.inc (Obj.cmClipped c)).markSv (flowTag 1 c) else s3
  f.remotes.foldl (fun t r => t.fabSend r.fdev (.returnMix ⟨r.conf, s.fdev9, n % 0x100000000, nn,
    here.any (fun x => decide (x.fdev = r.fdev)),
    (sel.filter (fun x => decide (x.id / 131072 = r.fdev))).map (fun x => memberEntry x.id x.level), ws, wp⟩)) s4

/-- The remote's local mix of a frame (R215, R343). -/
def remoteLocal (s : State) (c n : Nat) (p : List Int) : State :=
  let s1 := setLocalMix s c true
  let s2 := (s1.setCf c { s1.cf c with n := (s1.cf c).ownN, waiting := none }).wr (Obj.mixN c) (s1.cf c).ownN
  postEncodes (formMix s2 c (s2.cf c).ownN false (s2.cf c).ownPartial p) c n

/-- CONF_MIX of frame n (R204, R213): a LOCAL or ANCHOR conference forms its mixes; a REMOTE sends its partial and waits for
the return, or mixes locally while it is not JOINED. -/
def confMix (s : State) (c n : Nat) : State :=
  let (sel, s1) := mixSelect s c n
  let (p, s1p) := confPrompts s1 c n
  let s2 := s1p.setCf c { s1p.cf c with prompt := p }
  match s.rd (Obj.confRole c) with
  | 1 => let t := anchorMix s2 c n sel p
         postEncodes (tapFeed t false c 0 n (t.cf c).common (t.cf c).clipped) c n
  | 2 =>
    let own := sumTerms s2 c
    let s3 := s2.setCf c { s2.cf c with ownPartial := own }
    if s.rd (Obj.joinState c) = 2 then
      let (w, sv) := toWire own
      let s4 := if sv then (s3.inc (Obj.cmClipped c)).markSv (flowTag 1 c) else s3
      let reports := (sortBy candLe (localCands s4 c)).take (s.rd (Obj.mixK c))
      (s4.setCf c { s4.cf c with waiting := some n }).fabSend (s.rd (Obj.anchorFdev c))
        (.partialMix ⟨s.rd (Obj.anchorConf c), s.fdev9, n % 0x100000000, reports.map (fun x => memberEntry x.id x.level), w⟩)
    else let t := remoteLocal s3 c n p
         tapFeed t false c 0 n (t.cf c).localCommon (t.cf c).clipped
  | _ =>
    let nn := (s2.cf c).ownN
    let s3 := (s2.setCf c { s2.cf c with n := nn }).wr (Obj.mixN c) nn
    let t := formMix s3 c nn true (sumTerms s3 c) p
    postEncodes (tapFeed t false c 0 n (t.cf c).common (t.cf c).clipped) c n

/-- Sums and P of a return in the device's own scale; the remote adds its partial where the anchor did not have it (R213). -/
def useReturn (s : State) (c n : Nat) (r : ReturnMix) : State :=
  let f := s.cf c
  let sum := if r.own then fromWire r.s else addFrame (fromWire r.s) f.ownPartial
  let p := addFrame (fromWire r.p) f.prompt
  let s1 := setLocalMix s c false
  let s2 := (s1.setCf c { s1.cf c with
    prompt := p
    n := r.n
    waiting := none
    lateRun := 0
    returnSel := r.selected.map (fun e => e / 64) }).wr (Obj.mixN c) r.n
  let t := formMix s2 c r.n true sum p
  postEncodes (tapFeed t false c 0 n (t.cf c).common (t.cf c).clipped) c n

/-- RETURN_RX (R213, R215): the return of the frame waited for forms it; a later one only brings the selection. -/
def returnRx (s : State) (r : ReturnMix) : State :=
  let f := s.cf r.conf
  if s.rd (Obj.confRole r.conf) ≠ 2 ∨ s.rd (Obj.confState r.conf) ≠ 1 ∨ r.anchor ≠ s.rd (Obj.anchorFdev r.conf) then s
  else match f.waiting with
    | some n =>
      if r.frame = n % 0x100000000 then useReturn s r.conf n r
      else s.setCf r.conf { f with returnSel := r.selected.map (fun e => e / 64) }
    | none => s.setCf r.conf { f with returnSel := r.selected.map (fun e => e / 64) }

/-- RETURN_WAIT_EXPIRY (R215): no return for frame n by T + ReturnWait. -/
def returnLate (s : State) (c : Nat) : State :=
  let f := s.cf c
  match f.waiting with
  | some n =>
    if n * mixNs + s.rd (Obj.returnWait c) * 1000 ≤ s.tod then
      let s2 := s.setCf c { f with lateRun := f.lateRun + 1 }
      let s3 := s2.inc (Obj.returnLate c)
      let s4 := if f.lateRun + 1 = 50 then s3.event Ev.mixReturnLost c 0 else s3
      let t := remoteLocal s4 c n f.prompt
      tapFeed t false c 0 n (t.cf c).localCommon (t.cf c).clipped
    else s
  | none => s

/-- PARTIAL_RX (R213, R214, R343, R464): kept for its frame, discarded when late; a remote the anchor does not hold, or any on
a device that does not serve, is answered RELATION. -/
def partialRx (s : State) (p : PartialMix) : State :=
  let f := s.cf p.conf
  let known := f.remotes.any (fun r => decide (r.fdev = p.fdev))
  if ¬ s.serves ∨ s.rd (Obj.confRole p.conf) ≠ 1 ∨ ¬ known then
    s.fabSend p.fdev (.joinReply p.conf 0xFFFF Abort.relation)
  else
    let s1 := s.setCf p.conf { f with remotes := f.remotes.map (fun r => if r.fdev = p.fdev then { r with heard := s.mono } else r) }
    let due := f.frame % 0x100000000
    if (p.frame + 0x100000000 - due) % 0x100000000 < 0x80000000 ∧
        ¬ f.partials.any (fun x => decide (x.fdev = p.fdev) && decide (x.frame = p.frame)) then
      s1.setCf p.conf { s1.cf p.conf with partials := (s1.cf p.conf).partials ++ [p] }
    else s1

/-! ### Encode (R209, R127) -/

/-- What a path hears in a frame (R209), with 20 fractional bits more than a sample: mixes, the conference prompts for
PROMPTS_ONLY, nothing for SILENT. -/
def pathFrame (s : State) (l : Nat) (p : PathSrc) : List Int :=
  let own := s.rd (Obj.legConf l)
  let full := fun (x : List Int) => if x.isEmpty then silence else x.map (fun v => v * (2 ^ 20 : Nat))
  match p with
  | .conf c => if c = own then full (s.leg l).mixIn else
      full (if (s.cf c).localMix then (s.cf c).localCommon else (s.cf c).common)
  | .localMix => full (s.leg l).localIn
  | .promptsOnly => if (s.cf own).prompt.isEmpty then silence else (s.cf own).prompt
  | .silent => silence

/-- The output of a leg in frame n (R209): crossfaded paths, OutputGain, DuckGain while a leg prompt plays, the leg's prompts,
the store to 24 bits. -/
def formOutput (s : State) (l n : Nat) : State :=
  let x := s.leg l
  let len := s.rampSamples (s.rd (Obj.legConf l))
  let (pr, clips, playing, dry) := playClips s.le.clips false l n
  let out := x.outGain.aim (s.rd (Obj.outputGain l) * 1024) len
  let duck := x.duck.aim (if playing then s.rd (Obj.duckGain l) * 1024 else one20) len
  let mix := x.paths.foldl (fun acc p => addFrame acc (scaled p.gain (pathFrame s l p.src))) silence
  let deaf := decide (x.target = some .silent)
  let full := addFrame (scaled duck (scaled out mix)) (if deaf then silence else pr.map (fun v => v * (2 ^ 60 : Nat)))
  let (y, sv) := storeFrame 80 full
  let paths := (x.paths.map (fun p => { p with gain := p.gain.step frameSamples })).filter
    (fun p => decide (p.gain.to_ ≠ 0) || decide (p.gain.val 0 ≠ 0))
  let s1 := { s with le := { s.le with clips := clips } }
  let s2 := s1.setLeg l { x with outGain := out.step frameSamples, duck := duck.step frameSamples, paths := paths, output := y }
  let s3 := s2.count (Obj.promptUnderrun l) dry
  let s4 := if sv then
      ((s3.inc (Obj.legClipped l)).eventRated Ev.audioClipping (s.rd (Obj.legConf l)) (s.rd (Obj.legConf l)) 0).markSv (flowTag 0 l)
    else s3
  tapFeed s4 true l 1 n y sv

/-- The RTP packet of an encoded output (R127, R137, R200, R375): T is the boundary of its first mix frame; OPUS_FB_STEREO codes the output in
both channels. With Dtx set, a silent
output may be left unsent, as the codec's discontinuous transmission decides. -/
def audioPacket (s : State) (l e first : Nat) (x : List Int) : State :=
  let codec := s.rd (Obj.txCodec l)
  let quiet := decide (s.rd (Obj.dtx l) = 1) && x.all (fun v => decide (v = 0))
  let (skip, s1) := if quiet then s.choose 2 else (0, s)
  if skip = 1 then s1.setTxE l e { s1.txE l e with mark := true }
  else
    let y := s1.txE l e
    let n := payloadOctets (s.txRate l) (s.ptimeMs l)
    s1.sendRtp {
      leg := l, entry := e, rtcp := [], pt := s.rd (Obj.txPt e l), marker := false, seq := 0
      ts := rtpTime (first * mixNs) (clockRate codec) y.offset, ssrc := s.rd (Obj.txSsrc e l), octets := n, frameLen := 0
      index := 0, twcc := none, prot := none, audio := x, padding := false, srcLeg := 0, srcEntry := 0, srcSeq := 0, resent := 0
      stereo := decide (codec = 7) }

/-- LEG_AUDIO encode of frame n (R209): with 20 ms packets every second frame completes a packet. -/
def legEncode (s : State) (l n : Nat) : State :=
  let s1 := formOutput s l n
  let x := s1.leg l
  match s.txAudio l with
  | none => s1
  | some e =>
    if s.rd (Obj.txCodec l) = 0 then s1
    else if s.rd (Obj.ptime l) = 0 then audioPacket s1 l e n x.output
    else if x.outHold.isEmpty then s1.setLeg l { x with outHold := x.output }
    else audioPacket (s1.setLeg l { x with outHold := [] }) l e (n - 1) (x.outHold ++ x.output)

/-! ### Prompt rings (R124, R125) -/

/-- A prompt item taken from prompt ring `j` (0 to 3). -/
def promptItem (s : State) (j : Nat) (p : PromptItem) : State :=
  let active := if p.isConf then decide (p.target < 16384) && decide (s.rd (Obj.confState p.target) = 1) else
    decide (p.target < 131072) && s.legActive p.target
  if 999999999 < p.startNs ∨ ¬ active then s.inc (Obj.promptDropped j)
  else
    let mine := fun (c : Clip) => decide (c.isConf = p.isConf) && decide (c.target = p.target) && decide (c.clip = p.clip)
    if p.stop then
      let conf := if p.isConf then p.target else s.rd (Obj.legConf p.target)
      { s with le := { s.le with clips := s.le.clips.map (fun c =>
        if mine c ∧ c.stop.isNone then { c with stop := some (s.mixFrame + 1, s.rampSamples conf) } else c) } }
    else if s.le.clips.any (fun c => mine c && !c.complete) then
      { s with le := { s.le with clips := s.le.clips.map (fun c =>
        if mine c ∧ ¬ c.complete then { c with samples := c.samples ++ p.samples, complete := p.last } else c) } }
    else
      let at_ := max (p.startSec * 1000000000 + p.startNs) (s.tod + ms)
      let c : Clip := ⟨p.isConf, p.target, p.clip, j, p.gain, p.loops, ceilDiv at_ mixNs, p.last, p.samples, 0, none, none⟩
      { s with le := { s.le with clips := s.le.clips ++ [c] } }

/-- PROMPT_ITEM_FETCH (R125): the next item of prompt ring `j`, its length word `w` as host memory gives it. -/
def promptFetch (s : State) (j w : Nat) (p : PromptItem) : State :=
  let r := s.rd (Obj.promptRing j)
  if 4 ≤ j ∨ 2048 ≤ r then s
  else match ringFetch s r w with
    | (some _, t) => promptItem t j p
    | (none, t) => t

/-! ### The commands -/

/-- The item a core runs, marked as having had its effect. -/
def itemDone (s : State) (w : WorkItem) : State :=
  { s with disp := { s.disp with items := s.disp.items.map (fun x => if x.wi = w.wi then { x with job := .other } else x) } }

/-- LEG_AUDIO_DECODE (R199): the decode item core `c` runs. -/
def execLegAudioDecode (c : Nat) (s : State) : Host.Outcome State Fault Refusal :=
  .next (match s.itemOn c with
    | some w => match w.job with
      | .decode n h => legDecode (itemDone s w) (flowId w.desc.flow) n h
      | _ => s
    | none => s)

/-- MIX_PHASE_TIMER (R27): T + MixPhase of the present frame passes for a conference. -/
def execMixPhaseTimer (c : Nat) (s : State) : Host.Outcome State Fault Refusal :=
  .next (
    let n := s.mixFrame
    if s.engines ∧ s.running ∧ s.serves ∧ s.rd (Obj.confState c) = 1 ∧ (s.cf c).posted ≤ n ∧
        n * mixNs + s.rd (Obj.mixPhase c) * 1000 ≤ s.tod then postMix s c n else s)

/-- CONF_MIX (R204): the mix item core `c` runs. -/
def execConfMix (c : Nat) (s : State) : Host.Outcome State Fault Refusal :=
  .next (match s.itemOn c with
    | some w => match w.job with
      | .mix n => confMix (itemDone s w) (flowId w.desc.flow) n
      | _ => s
    | none => s)

/-- LEG_AUDIO_ENCODE (R209): the encode item core `c` runs. -/
def execLegAudioEncode (c : Nat) (s : State) : Host.Outcome State Fault Refusal :=
  .next (match s.itemOn c with
    | some w => match w.job with
      | .encode n => legEncode (itemDone s w) (flowId w.desc.flow) n
      | _ => s
    | none => s)

/-- PARTIAL_RX (R214): the oldest PARTIAL frame received. -/
def execPartialRx (s : State) : Host.Outcome State Fault Refusal :=
  .next (if s.engines then
    match s.takeFrame (fun f => decide (f.kind = 0x09)) with
    | (some (_, _, f), t) =>
      match f.msg with
      | .partialMix p => if p.conf < 16384 then partialRx t p else t
      | _ => t
    | (none, t) => t
    else s)

/-- RETURN_RX (R215): the oldest RETURN frame received. -/
def execReturnRx (s : State) : Host.Outcome State Fault Refusal :=
  .next (if s.engines then
    match s.takeFrame (fun f => decide (f.kind = 0x0A)) with
    | (some (_, _, f), t) =>
      match f.msg with
      | .returnMix r => if r.conf < 16384 then returnRx t r else t
      | _ => t
    | (none, t) => t
    else s)

/-- RETURN_WAIT_EXPIRY (R215). -/
def execReturnWaitExpiry (c : Nat) (s : State) : Host.Outcome State Fault Refusal :=
  .next (if s.engines ∧ c < 16384 then returnLate s c else s)

/-- PROMPT_ITEM_FETCH (R125). -/
def execPromptItemFetch (j : Nat) (w : Word) (p : PromptItem) (s : State) : Host.Outcome State Fault Refusal :=
  .next (if s.engines ∧ s.serves then promptFetch s j w.toNat p else s)

end Sys2Proof.Machine
end

