-- ==== Sys2Proof/Machine/VideoDecode.lean ====
section
/-! DEFINITION. Video decode (spec/09): decode contexts, pipes, reference pools, write-back outputs, key requests. -/

namespace Sys2Proof.Machine

/-- A context that is disabled and quiescent. -/
def DctxRt.idle : DctxRt := ⟨.disabled, 0, 0, [], 0, 0, false, 0, 0, false, 0, 0, 0, [], 0⟩

def State.dx (s : State) (d : Nat) : DctxRt := AMap.get DctxRt.idle d s.vd.ctxs
def State.setDx (s : State) (d : Nat) (x : DctxRt) : State :=
  { s with vd := { s.vd with ctxs := AMap.put DctxRt.idle d x s.vd.ctxs } }

/-- Decode input queue of a context (Table 1.4). -/
def decodeQ (d : Nat) : Nat := 32768 + d

/-- Capacity of a decode input queue in granules: the manual states none; the model's choice. -/
def decodeQGranules : Nat := 65536

/-- The receive VIDEO entry a context is bound to (R105, Table 1.3). -/
def State.boundTo (s : State) (d : Nat) : Option (Nat × Nat) :=
  (s.dict.find? (fun x =>
    let ix := x.1 / 0x100000000
    decide (0x2110 ≤ ix) && decide (ix ≤ 0x2117) && decide (x.1 / 0x1000000 % 256 = 5) && decide (x.2 = d) &&
      decide (s.rd (Obj.rxKind (ix - 0x2110) (x.1 % 0x1000000)) = 2))).map
    (fun x => (x.1 % 0x1000000, x.1 / 0x100000000 - 0x2110))

/-- Charge of a context in kpix/s (R225). -/
def dctxCharge (s : State) (d : Nat) : Nat :=
  ceilDiv (max (s.rd (Obj.maxWidth d) * s.rd (Obj.maxHeight d)) 40000 * s.rd (Obj.maxFps d)) 1000

/-- A multiple of a unit at or above a value. -/
def roundUp (v unit : Nat) : Nat := ceilDiv v unit * unit

/-- Octets of one pool buffer (R225). -/
def poolBufOctets (s : State) (d : Nat) : Nat :=
  let b := if s.rd (Obj.maxBitDepth d) = 8 then 1 else 2
  roundUp (roundUp (s.rd (Obj.maxWidth d)) 64 * roundUp (s.rd (Obj.maxHeight d)) 64 * (6 * b + 1) / 4) 65536

/-! ### Key requests (R229) -/

/-- A need for a key picture (R229): a request at once, unless one left within the last 200 ms. -/
def dctxAsk (s : State) (d : Nat) : State :=
  let x := s.dx d
  let s0 := s.setDx d { x with needKey := true }
  if x.askAt ≠ 0 ∧ s.mono + 1 < x.askAt + keyPace then s0
  else
    let s1 := s0.setDx d { x with needKey := true, askAt := s.mono + 1 }
    match s.boundTo d with
    | none => s1
    | some (l, e) =>
      if !s.legActive l then s1
      else match s1.askKey l e with
        | (.sent, t) => t.inc (Obj.dcKeyRequests d)
        | (.suppressed, t) => t.inc (Obj.dcKeyReqSuppressed d)
        | (.paced, t) => t.setDx d { t.dx d with askAt := AMap.get 0 (l * 8 + e) s.ad.keyAsk }

/-! ### Outputs (R234 to R239) -/

/-- Octets of one buffer of an output: header and picture (R235). -/
def outBufOctets (w h : Nat) : Nat := 64 + ceilDiv w 64 * ceilDiv h 64 * 12288

/-- Octets an output's settings ask for (R234). -/
def outNeed (w h buffers : Nat) : Nat := if w = 0 then 0 else buffers * outBufOctets w h

/-- Picture size the crop of an output is clipped to (R237). -/
def dctxSize (s : State) (d : Nat) : Nat × Nat :=
  if (s.dx d).known then (s.rd (Obj.dsWidth d), s.rd (Obj.dsHeight d)) else (s.rd (Obj.maxWidth d), s.rd (Obj.maxHeight d))

/-- Width and height of a crop clipped to a picture (R237, Table 9.4); 0 is the whole picture. -/
def cropSize (w h crop : Nat) : Nat × Nat :=
  if crop = 0 then (w, h)
  else (min (bits crop 16 16) (w - bits crop 48 16), min (bits crop 0 16) (h - bits crop 32 16))

/-- Width / Wc and Height / Hc lie between 1/16 and 4 (R237). -/
def ratioOk (ow oh wc hc : Nat) : Bool :=
  decide (wc ≤ 16 * ow) && decide (ow ≤ 4 * wc) && decide (hc ≤ 16 * oh) && decide (oh ≤ 4 * hc)

/-- Width of the decimated row (R237). -/
def decimated (ow wc : Nat) : Nat :=
  if 4 * ow ≤ wc then ceilDiv wc 4 else if 2 * ow ≤ wc then ceilDiv wc 2 else wc

/-- The check of an output's settings at acceptance of a commit (R238). -/
def scaleCheck (s : State) (d ow oh crop : Nat) : Nat :=
  if ow = 0 then 0
  else
    let (w, h) := dctxSize s d
    let (wc, hc) := cropSize w h crop
    if !ratioOk ow oh wc hc then Abort.scaleRatio
    else if 4096 < decimated ow wc then Abort.linebuf
    else 0

/-- A free output buffer of settings `gen`. -/
def OutBuf.fresh (gen octets : Nat) : OutBuf := ⟨gen, octets, .free, 0, 0, 0, 0, 0, 0, 0, 0, 0, 0, 0⟩

/-- Place of buffer i of output k under settings `gen`. -/
def outPlace (gen k i : Nat) : Nat := (gen * 4 + k) * 16 + i

/-- Output a place belongs to. -/
def placeOut (p : Nat) : Nat := p / 16 % 4

def DctxRt.buf (x : DctxRt) (p : Nat) : OutBuf := AMap.get (OutBuf.fresh 0 0) p x.outs

/-- Settings in force of output k: the newest of its buffers' settings, none while it is disabled. -/
def outGenOf (s : State) (d k : Nat) : Nat :=
  if s.rd (Obj.outWidth k d) = 0 then 0
  else ((s.dx d).outs.filter (fun b => decide (placeOut b.1 = k))).foldl (fun m b => max m b.2.gen) 0

/-- Buffers of output k that are free and belong to settings no longer in force are given back. -/
def dropOld (s : State) (d k : Nat) : State :=
  let x := s.dx d
  let g := outGenOf s d k
  let gone := x.outs.filter (fun b => decide (placeOut b.1 = k) && decide (b.2.gen ≠ g) && decide (b.2.cond = .free))
  (s.setDx d { x with outs := x.outs.filter (fun b => !gone.contains b) }).unallot 4 ((gone.map (fun b => b.2.octets)).sum)

/-- The newest completed buffer of an output: completion flags are set in output order (R236). -/
def newestOut (x : DctxRt) (k : Nat) : Option (Nat × OutBuf) :=
  (x.outs.filter (fun b => decide (placeOut b.1 = k) && decide (b.2.cond = .held))).foldl
    (fun m b => match m with
      | some n => if n.2.out < b.2.out then some b else m
      | none => some b) none

/-- The newest completed picture of a decode output whose flag was set before an instant (R30). -/
def newestBefore (s : State) (d k instant : Nat) : Option (Nat × OutBuf) :=
  let x := s.dx d
  newestOut { x with outs := x.outs.filter (fun b => decide (b.2.done < instant)) } k

/-- The tick whose instant has come last. -/
def lastTick (s : State) : Nat := (3 * s.tod + 2) / 50000000

/-- The buffers of an output that stay held without a reader (R236, R30): the newest completed one, and while the tick of the present
instant is still to be composed, the one that it takes. -/
def keptOuts (s : State) (d k : Nat) : List (Option Nat) :=
  if s.rd (Obj.outWidth k d) = 0 then []
  else (newestOut (s.dx d) k).map Prod.fst ::
    (if s.cp.tick ≤ lastTick s then [(newestBefore s d k (tickTime (lastTick s))).map Prod.fst] else [])

/-- Held buffers of an output that are neither kept so nor read by a composer become free (R236). -/
def releaseOuts (s : State) (d k : Nat) : State :=
  let x := s.dx d
  let keep := keptOuts s d k
  let outs := x.outs.map (fun b =>
    if placeOut b.1 = k ∧ b.2.cond = .held ∧ b.2.readers = 0 ∧ ¬ keep.contains (some b.1) then (b.1, { b.2 with cond := .free }) else b)
  dropOld (s.setDx d { x with outs := outs }) d k

/-- The active settings of an output have changed (R234): its buffers under the new settings, whose memory was allocated at
the commit's acceptance, and the old ones as they become free. -/
def outActivate (s : State) (d k : Nat) : State :=
  let x := s.dx d
  let g := x.outGen + 1
  let w := s.rd (Obj.outWidth k d)
  let n := if w = 0 then 0 else s.rd (Obj.outBuffers k d)
  let o := outBufOctets w (s.rd (Obj.outHeight k d))
  let outs := (List.range n).foldl (fun m i => AMap.ins (outPlace g k i) (OutBuf.fresh g o) m) x.outs
  releaseOuts (s.setDx d { x with outGen := g, outs := outs }) d k

/-- A composer begins or ends the use of a buffer (R236). -/
def outRead (s : State) (d p : Nat) (begin_ : Bool) : State :=
  let x := s.dx d
  let b := x.buf p
  if b.cond = .free then s
  else
    let s1 := s.setDx d { x with outs := AMap.ins p { b with readers := if begin_ then b.readers + 1 else b.readers - 1 } x.outs }
    if begin_ then s1 else releaseOuts s1 d (placeOut p)

/-! ### The context state machine (Table 9.3) -/

/-- A field marked A is written while the context is not DISABLED (R224). -/
def dctxPre (s : State) (d : Nat) (amark : Bool) : Nat :=
  if amark ∧ s.rd (Obj.dctxState d) ≠ 0 then Abort.dctxEnabled else 0

/-- DCTX_ENABLE (R225, R226). -/
def dctxEnable (s : State) (d : Nat) : Nat × State :=
  let x := s.dx d
  let need := poolBufOctets s d * s.rd (Obj.dpbSize d)
  match x.stage with
  | .closing => (Abort.notQuiescent, s)
  | .waitKey => (0, s)
  | .decoding => (0, s)
  | .disabled =>
    if s.rd (Obj.dctxCodec d) = 0 then (Abort.inconsistent, s)
    else if s.rd Obj.decodeBudget < s.rd Obj.pixelRateCommitted + dctxCharge s d then (Abort.throughput, s)
    else if !s.room 4 need then (Abort.partition, s)
    else
      let y := { x with
        stage := .waitKey
        charge := dctxCharge s d
        poolOctets := need
        spatial := s.rd (Obj.targetSpatial d)
        temporal := s.rd (Obj.targetTemporal d) }
      let s1 := ((s.allot 4 need).setDx d y).setQ (decodeQ d) (Queue.fresh .backPressure decodeQGranules)
      let s2 := ((s1.wr (Obj.dctxState d) 2).wr Obj.pixelRateCommitted (s.rd Obj.pixelRateCommitted + dctxCharge s d)).wr
        Obj.contextsEnabled (s.rd Obj.contextsEnabled + 1)
      (0, dctxAsk s2 d)

/-- DCTX_DISABLE (Table 9.3). -/
def dctxDisable (s : State) (d : Nat) : State :=
  let x := s.dx d
  if x.stage = .waitKey ∨ x.stage = .decoding then
    let s1 := (s.setDx d { x with stage := .closing, charge := 0, needKey := false }).updQ (decodeQ d) (s.q (decodeQ d)).flush
    ((s1.wr (Obj.dctxState d) 0).wr Obj.pixelRateCommitted (s.rd Obj.pixelRateCommitted - x.charge)).wr
      Obj.contextsEnabled (s.rd Obj.contextsEnabled - 1)
  else s

/-- A write of State. -/
def dctxStateWrite (s : State) (d v : Nat) : Nat × State := if v = 1 then dctxEnable s d else (0, dctxDisable s d)

/-- The pipe that decodes a picture of a context. -/
def State.pipeOf (s : State) (d : Nat) : Option Nat := (s.vd.pipes.find? (fun p => decide (p.2.dctx = d))).map Prod.fst

/-- A decode assist item or held post of the context exists (R24, R221). -/
def assistHeld (s : State) (d : Nat) : Bool := s.disp.held.any (fun h => decide (h.desc.flow = flowTag 3 d))

/-- DCTX_QUIESCENT (Table 9.3, R24): the pool and the outputs are freed. -/
def dctxQuiescent (s : State) (d : Nat) : State :=
  let x := s.dx d
  if x.stage = .closing ∧ (s.pipeOf d).isNone ∧ ¬ assistHeld s d ∧
      ¬ s.disp.items.any (fun w => decide (w.desc.flow = flowTag 3 d)) ∧ x.outs.all (fun b => decide (b.2.readers = 0)) then
    let total := x.poolOctets + (x.outs.map (fun b => b.2.octets)).sum
    let s1 := (((s.unallot 4 total).setDx d { DctxRt.idle with outGen := x.outGen }).setQ (decodeQ d) Queue.empty)
    let s2 := s1.wr Obj.stripOutputs (s1.rd Obj.stripOutputs - popCount (s1.rd (Obj.dsStripMask d)) 4)
    ((((((s2.wr (Obj.dsStripMask d) 0).wr (Obj.dsWidth d) 0).wr (Obj.dsHeight d) 0).wr (Obj.dsBitDepth d) 0).wr
      (Obj.dsProfile d) 0).wr (Obj.dsLevel d) 0).wr (Obj.dsLastKey d) 0
  else s

/-- Pictures whose pool buffers are marked UNUSED wait for output no more: their written buffers, but for those of the picture in decode
and of pictures `later` lets out, are free again (R227, R236). -/
def dropWaiting (s : State) (d : Nat) (later : List Nat) : State :=
  let x := s.dx d
  let busy := (s.vd.pipes.filter (fun j => decide (j.2.dctx = d))).flatMap (fun j => j.2.writes.map Prod.snd)
  s.setDx d { x with outs := x.outs.map (fun b =>
    if b.2.cond = .written ∧ ¬ later.contains b.2.order ∧ ¬ busy.contains b.1 then (b.1, { b.2 with cond := .free }) else b) }

/-- A DECODING context falls back to WAIT_KEY with every pool buffer UNUSED and a key request (Table 9.3): an unsupported or
oversize sequence, memory lost through a quarantine, a new active after the handover. -/
def dctxLost (s : State) (d : Nat) : State :=
  let x := s.dx d
  if x.stage = .decoding then
    dctxAsk ((dropWaiting (s.setDx d { x with stage := .waitKey, pool := [] }) d []).wr (Obj.dctxState d) 2) d
  else s

/-- A write of TargetSpatial: an up-switch of an AV1 context needs a key frame (R233). -/
def targetSpatialWrite (s : State) (d v : Nat) : State :=
  let s1 := s.wr (Obj.targetSpatial d) v
  let x := s.dx d
  if (x.stage = .waitKey ∨ x.stage = .decoding) ∧ s.rd (Obj.dctxCodec d) = 3 ∧ x.spatial < v then dctxAsk s1 d else s1

/-! ### The pipes (R218 to R221) -/

/-- The access unit an item carries. -/
def unitOf (i : QItem) : Option AccessUnit :=
  match i.body with
  | .unit u => some u
  | _ => none

/-- Complete access units waiting in a context's queue. -/
def State.unitsOf (s : State) (d : Nat) : List AccessUnit := (s.q (decodeQ d)).items.filterMap unitOf

/-- The contexts a free pipe may take (R220). -/
def pipeCands (s : State) : List (Nat × AccessUnit) :=
  s.vd.ctxs.filterMap (fun c =>
    if (c.2.stage = .waitKey ∨ c.2.stage = .decoding) ∧ (s.pipeOf c.1).isNone ∧ ¬ assistHeld s c.1 then
      ((s.unitsOf c.1).head?).map (fun u => (c.1, u)) else none)

/-- The context a free pipe takes (R220): highest Priority, earliest head, lowest DCTX. -/
def pipePick (s : State) : Option Nat :=
  (pipeCands s).foldl (fun (m : Option (Nat × AccessUnit)) c =>
    match m with
    | none => some c
    | some n =>
      let pc := s.rd (Obj.dctxPriority c.1)
      let pn := s.rd (Obj.dctxPriority n.1)
      if pn < pc ∨ (pn = pc ∧ c.2.at_ < n.2.at_) then some c else m) none |>.map Prod.fst

/-- The oldest `n` disposable units of a queue turned into pads: the items, and how many were (R221). -/
def shedItems : Nat → List QItem → List QItem × Nat
  | _, [] => ([], 0)
  | 0, r => (r, 0)
  | n + 1, i :: r =>
    if (unitOf i).any (fun u => u.facts.disposable) then
      let (q, k) := shedItems n r
      ({ i with pad := true, body := .blank } :: q, k + 1)
    else
      let (q, k) := shedItems (n + 1) r
      (i :: q, k)

/-- Shedding before a context's next picture (R221). -/
def shed (s : State) (d : Nat) : State :=
  let n := (s.unitsOf d).length - s.rd (Obj.shedDepth d)
  let q := s.q (decodeQ d)
  let (items, k) := shedItems n q.items
  if k = 0 then s else (s.setQ (decodeQ d) { q with items := items }).count (Obj.dcShed d) k

/-- Targets in force for the next picture (R233). -/
def layerTargets (s : State) (d : Nat) (f : PicFacts) : Nat × Nat :=
  let x := s.dx d
  let codec := s.rd (Obj.dctxCodec d)
  let ts := s.rd (Obj.targetSpatial d)
  let tt := s.rd (Obj.targetTemporal d)
  let sp := if ts < x.spatial ∨ f.key then ts else x.spatial
  let up := f.key || (decide (codec = 2) && f.upSwitch && decide (f.temporal ≤ tt)) ||
    (decide (codec ≠ 2) && decide (f.temporal = 0))
  (sp, if tt < x.temporal ∨ up then tt else x.temporal)

/-- The spatial layers of an AV1 temporal unit that the target lets through. -/
def keptLayers (f : PicFacts) (target : Nat) : List (Nat × Nat × Nat) := f.spatials.filter (fun l => decide (l.1 ≤ target))

/-- What is decoded of an access unit (R233): none where its layer ids lie above the target operating point; of an AV1 temporal unit of
several spatial layers those up to the target, the highest of which is written out. The spatial target is AV1's. -/
def targetUnit (s : State) (d : Nat) (f : PicFacts) (t : Nat × Nat) : Option PicFacts :=
  if t.2 < f.temporal then none
  else if s.rd (Obj.dctxCodec d) ≠ 3 then some { f with spatials := [] }
  else if f.spatials.isEmpty then (if t.1 < f.spatial then none else some f)
  else match (keptLayers f t.1).getLast? with
    | some l => some { f with
        spatial := l.1
        width := l.2.1
        height := l.2.2
        spatials := keptLayers f t.1 }
    | none => none

/-- Luma samples of the pictures that a unit's decode takes a pipe's time for (R219). -/
def pipeSamples (f : PicFacts) : Nat :=
  if f.spatials.isEmpty then max (f.width * f.height) 40000
  else (f.spatials.map (fun l => max (l.2.1 * l.2.2) 40000)).sum

/-- Distance of two order counts. -/
def orderGap (a b : Nat) : Nat := (a - b) + (b - a)

/-- The picture that stands in for a missing reference (R228): the nearest of the pool in output order, of two the earlier. -/
def substitute (pool : List PoolBuf) (r : Nat) : Option Nat :=
  pool.foldl (fun (m : Option Nat) b => match m with
    | some o => if orderGap b.order r < orderGap o r ∨ (orderGap b.order r = orderGap o r ∧ b.order < o) then some b.order else m
    | none => some b.order) none

/-- Room for the current picture in the pool (R227): a buffer to mark UNUSED when none is. DESIGN CHOICE: of a pool that holds only pictures
waiting for output, which the rule passes over, the oldest one goes. -/
def evict (pool : List PoolBuf) : List PoolBuf :=
  let least := fun (m : PoolMark) => (pool.filter (fun b => decide (b.mark = m))).foldl
    (fun (a : Option PoolBuf) b => match a with
      | some c => if b.used < c.used then some b else a
      | none => some b) none
  match least .short with
  | some b => pool.erase b
  | none => match least .long with
    | some b => pool.erase b
    | none => pool.tail

/-- The references of a picture are counted as touched. -/
def touchRefs (pool : List PoolBuf) (refs : List Nat) (t : Nat) : List PoolBuf :=
  pool.map (fun b => if b.order ∈ refs ∧ b.mark ≠ .outputOnly then { b with used := t } else b)

/-- One output at the start of a picture (R236, R237, R239): strip mode entered or left, a free buffer taken. The writes so far
and whether any output is in strip mode go along. -/
def startOut (d : Nat) (u : AccessUnit) (flags : Nat) (acc : State × List (Nat × Nat) × Bool) (k : Nat) :
    State × List (Nat × Nat) × Bool :=
  let (s9, ws, st) := acc
  let s := releaseOuts s9 d k
  let f := u.facts
  let ow := s.rd (Obj.outWidth k d)
  let oh := s.rd (Obj.outHeight k d)
  if ow = 0 then
    if bit (s.rd (Obj.dsStripMask d)) k then
      ((s.wr (Obj.dsStripMask d) (clrBit (s.rd (Obj.dsStripMask d)) k)).wr Obj.stripOutputs (s.rd Obj.stripOutputs - 1), ws, st)
    else (s, ws, st)
  else
    let (wc, hc) := cropSize f.width f.height (s.rd (Obj.outCrop k d))
    if !ratioOk ow oh wc hc then (s.inc (Obj.dcOutSkipped d), ws, st)
    else
      let strip := decide (4096 < decimated ow wc)
      let was := bit (s.rd (Obj.dsStripMask d)) k
      let s1 := s.wr (Obj.dsStripMask d) (putBit (s.rd (Obj.dsStripMask d)) k strip)
      let s2 := if strip && !was then
          (s1.wr Obj.stripOutputs (s1.rd Obj.stripOutputs + 1)).event Ev.scalerStrip d k
        else if was && !strip then s1.wr Obj.stripOutputs (s1.rd Obj.stripOutputs - 1) else s1
      let x := s2.dx d
      let g := outGenOf s2 d k
      match x.outs.find? (fun b => decide (placeOut b.1 = k) && decide (b.2.gen = g) && decide (b.2.cond = .free)) with
      | none => (s2.inc (Obj.dcOutSkipped d), ws, st)
      | some (p, b) =>
        let b1 : OutBuf := { b with
          cond := .written
          order := f.order
          width := ow
          height := oh
          ts := u.ts
          done := 0
          out := 0
          flags := flags + 4 * b2n strip
          depth := f.depth
          colour := f.colour
          seq := x.count }
        (s2.setDx d { x with outs := AMap.ins p b1 x.outs }, ws ++ [(k, p)], st || strip)

/-- A picture starts on a pipe (R218, R219, R227, R228, R236). -/
def startPicture (s : State) (p d : Nat) (u : AccessUnit) : State :=
  let f := u.facts
  let x := s.dx d
  let missing := f.refs.filter (fun r => !x.pool.any (fun b => decide (b.order = r) && decide (b.mark ≠ .outputOnly)))
  let pool0 := if f.key then [] else touchRefs x.pool f.refs (x.touch + 1)
  let full := decide (s.rd (Obj.dpbSize d) ≤ pool0.length)
  let pool := if full then evict pool0 else pool0
  let late := decide (x.prevAt ≠ 0) && decide ((u.at_ + 1 - x.prevAt) * s.rd (Obj.maxFps d) < 1000000000)
  let flags := 2 * b2n (!missing.isEmpty) + 8 * b2n f.key
  let s0 := if f.key then dropWaiting s d f.bumped else s
  let s1 := s0.setDx d { (s0.dx d) with
    stage := .decoding
    pool := pool
    touch := x.touch + 1
    prevAt := u.at_ + 1
    known := true }
  let s2 := (((((s1.wr (Obj.dctxState d) 3).wr (Obj.dsWidth d) f.width).wr (Obj.dsHeight d) f.height).wr (Obj.dsBitDepth d)
    f.depth).wr (Obj.dsProfile d) f.profile).wr (Obj.dsLevel d) f.level
  let s3 := if full then s2.inc (Obj.dcEvicted d) else s2
  let s4 := if late then s3.inc (Obj.dcRateExceeded d) else s3
  let s5 := if missing.isEmpty then s4 else dctxAsk (s4.count (Obj.dcMissingRef d) missing.length) d
  let (s6, ws, strip) := (List.range 4).foldl (startOut d u flags) (s5, [], false)
  let s7 := if strip then s6.inc (Obj.dcStripPictures d) else s6
  let ns := ceilDiv (pipeSamples f) 2 * (if s7.rd (Obj.dsStripMask d) ≠ 0 then 2 else 1)
  let job : PicJob := ⟨d, u, s.mono, s.mono + ns, flags, ws, false, missing.map (fun r => (r, substitute pool0 r))⟩
  let s8 := { s7 with vd := { s7.vd with pipes := AMap.ins p job s7.vd.pipes } }
  if f.header then s8.post 1 (engineDescriptor (flowTag 3 d) (itemProgram 3 0) noGroup 0) .other else s8

/-- A head access unit of an unsupported or oversize sequence (R223, Table 9.3). -/
def refuseUnit (s : State) (d : Nat) (unsupported : Bool) : State :=
  let s1 := if unsupported then (s.inc (Obj.dcUnsupported d)).eventRated Ev.decodeUnsupported d d 0
    else (s.inc (Obj.dcOversize d)).eventRated Ev.decodeOversize d d 0
  if (s.dx d).stage = .decoding then dctxLost s1 d else s1.inc (Obj.dcWaitDiscard d)

/-- The pipe deals with the head access unit of its context: it discards it, or starts its picture. -/
def takeUnit (s : State) (p d : Nat) (u : AccessUnit) : State :=
  let f := u.facts
  let x := s.dx d
  if !f.supported then refuseUnit s d true
  else if s.rd (Obj.maxWidth d) < f.width ∨ s.rd (Obj.maxHeight d) < f.height ∨ s.rd (Obj.maxBitDepth d) < f.depth then
    refuseUnit s d false
  else if x.stage = .waitKey ∧ (¬ f.key ∨ u.missing) then s.inc (Obj.dcWaitDiscard d)
  else if f.rasl then s
  else
    let t := layerTargets s d f
    match targetUnit s d f t with
    | none => s
    | some g => startPicture (s.setDx d { x with spatial := t.1, temporal := t.2 }) p d { u with facts := g }

/-- PIPE_PICTURE_START (R220, R221): free pipe `p` takes the head access unit of the context R220 names. -/
def pipeStart (s : State) (p : Nat) : State :=
  if p < 8 ∧ s.engines ∧ bit (s.rd Obj.pipesOnline) p ∧ ¬ s.vd.pipes.any (fun j => decide (j.1 = p)) then
    match pipePick s with
    | none => s
    | some d =>
      let s1 := shed s d
      match (s1.q (decodeQ d)).pop with
      | (some i, q) =>
        match unitOf i with
        | some u => takeUnit (s1.updQ (decodeQ d) q) p d u
        | none => s1.updQ (decodeQ d) q
      | (none, q) => s1.updQ (decodeQ d) q
  else s

/-! ### The end of a picture (R227, R230, R231, R235, R236) -/

/-- Regions of 16 x 16 of a picture. -/
def regions (w h : Nat) : Nat := ceilDiv w 16 * ceilDiv h 16

/-- Marks of the pool after a picture (R227): its references as the codec's marking leaves them, pictures that wait for output,
the picture itself. -/
def markPool (pool : List PoolBuf) (f : PicFacts) (t : Nat) : List PoolBuf :=
  let all := pool ++ [⟨.outputOnly, f.order, t, true⟩]
  all.filterMap (fun b =>
    let waits := b.waits && !f.bumped.contains b.order
    if b.order ∈ f.short then some { b with mark := .short, waits := waits }
    else if b.order ∈ f.long then some { b with mark := .long, waits := waits }
    else if waits then some { b with mark := .outputOnly, waits := true } else none)

/-- The completion flags of one bumped picture's buffers (R236). -/
def bumpOne (d now : Nat) (s : State) (order : Nat) : State :=
  let x := s.dx d
  let hit := fun (b : Nat × OutBuf) => decide (b.2.order = order) && decide (b.2.cond = .written)
  let ks := ((x.outs.filter hit).map (fun b => placeOut b.1)).eraseDups
  let outs := x.outs.map (fun b => if hit b then (b.1, { b.2 with cond := .held, done := now, out := x.outCount + 1 }) else b)
  ks.foldl (fun t k => releaseOuts t d k) (s.setDx d { x with outs := outs, outCount := x.outCount + 1 })

/-- The picture on a pipe ends (R219, R230, R231, R236). -/
def finishPicture (s : State) (p : Nat) (j : PicJob) : State :=
  let d := j.dctx
  let f := j.unit.facts
  let total := regions f.width f.height
  let (extra, s0) := if j.broken then s.choose (total + 1) else (0, s)
  let damaged := min total (f.damaged + extra)
  let s1 := { s0 with vd := { s0.vd with pipes := AMap.del p s0.vd.pipes } }
  let s2 := if f.badSyntax || j.unit.missing || j.broken then s1.inc (Obj.dcSyntaxErrors d) else s1
  let concealed := decide (damaged ≠ 0)
  let s3 := if concealed then
      (s2.inc (Obj.dcConcealed d)).post 1 (engineDescriptor (flowTag 3 d) (itemProgram 3 0) noGroup 0) .other else s2
  let isRef := decide (f.order ∈ f.short) || decide (f.order ∈ f.long)
  let x := s3.dx d
  let outs := x.outs.map (fun b => if (j.writes.map Prod.snd).contains b.1 then (b.1, { b.2 with flags := b.2.flags + b2n concealed }) else b)
  let s4 := s3.setDx d { x with
    pool := markPool x.pool f x.touch
    count := (x.count + 1) % 0x100000000
    outs := outs
    needKey := x.needKey && !f.key }
  let s5 := s4.inc (Obj.dcPictures d)
  let s6 := if f.key then s5.wr (Obj.dsLastKey d) (time80 s.tod) else s5
  let s7 := if isRef && concealed && decide (s.rd (Obj.keyReqArea d) * total < damaged * 1000) then dctxAsk s6 d else s6
  f.bumped.foldl (bumpOne d s.tod) s7

/-- PICTURE_DECODE_COMPLETE (R219). -/
def pictureDone (s : State) (p : Nat) : State :=
  match s.vd.pipes.find? (fun j => decide (j.1 = p)) with
  | some j => if j.2.ends ≤ s.mono then finishPicture s p j.2 else s
  | none => s

/-- KEY_REQUEST_PACING (R229): 200 ms after the last request, a pending or persisting need is served. -/
def keyPacing (s : State) (d : Nat) : State :=
  let x := s.dx d
  if (x.stage = .waitKey ∨ x.stage = .decoding) ∧ x.needKey ∧ x.askAt ≠ 0 ∧ x.askAt + keyPace ≤ s.mono + 1 then dctxAsk s d else s

/-- DECODE_PIPE_ECC_ERROR (R232). -/
def pipeRetire (s : State) (p : Nat) : State :=
  if p < 8 ∧ bit (s.rd Obj.pipesOnline) p then
    let s1 := match s.vd.pipes.find? (fun j => decide (j.1 = p)) with
      | some j => finishPicture s p { j.2 with broken := true }
      | none => s
    let s2 := (s1.wr Obj.pipesOnline (clrBit (s1.rd Obj.pipesOnline) p)).event Ev.decodePipeRetired p 0
    if s2.rd Obj.pipesOnline = 0 then s2.event Ev.decodeUnavailable 0 0 else s2
  else s

def execDctxQuiescent (d : Nat) (s : State) : Host.Outcome State Fault Refusal :=
  .next (if d < 4096 then dctxQuiescent s d else s)
def execPipePictureStart (p : Nat) (s : State) : Host.Outcome State Fault Refusal := .next (pipeStart s p)
def execPictureDecodeComplete (p : Nat) (s : State) : Host.Outcome State Fault Refusal := .next (pictureDone s p)
def execKeyRequestPacing (d : Nat) (s : State) : Host.Outcome State Fault Refusal :=
  .next (if d < 4096 then keyPacing s d else s)
def execDecodePipeEccError (p : Nat) (s : State) : Host.Outcome State Fault Refusal :=
  .next (if s.engines then pipeRetire s p else s)

end Sys2Proof.Machine
end

