-- ==== Sys2Proof/Machine/Compose.lean ====
section
/-! DEFINITION. Composition (spec/10): canvases, layers, canvas sets and their commits, Solstice ticks, the protected layer,
layout programs. -/

namespace Sys2Proof.Machine

/-! ### Blending (R249) -/

/-- The weight of a sample: opacity times alpha in 1/1024. -/
def blendWeight (opacity alpha : Nat) : Nat := (opacity * alpha + 127) / 255

/-- One component blended over another. -/
def blend (dst src : Int) (a : Nat) : Int := dst + ((src - dst) * (a : Int) + 512) / 1024

/-- Alpha of a chroma sample from its four co-sited luma alphas. -/
def chromaAlpha (a b c d : Nat) : Nat := (a + b + c + d + 2) / 4

/-- A component of a canvas sample from the bottom up: the background and the layers' samples with their opacity and alpha. -/
def blendUp (background : Int) (layers : List (Int × Nat × Nat)) : Int :=
  layers.foldl (fun dst l => blend dst l.1 (blendWeight l.2.1 l.2.2)) background

/-! ### Geometry -/

/-- Tiles along one side. -/
def tiles (n : Nat) : Nat := ceilDiv n 64

/-- Octets of a tile (R235, R243). -/
def tileOctets : Nat := 12288

/-- The delta rectangles of a variant: x, y, width, height in tiles (Table 10.1). -/
def deltaRects (s : State) (v : Nat) : List (Nat × Nat × Nat × Nat) :=
  ((List.range 4).map (fun j =>
    let d := s.rd (Obj.delta j v)
    (bits d 24 8, bits d 16 8, bits d 8 8, bits d 0 8))).filter (fun r => decide (r.2.2.1 ≠ 0) && decide (r.2.2.2 ≠ 0))

/-- The delta tiles of a variant in raster order of the union (R252). -/
def deltaTiles (s : State) (v : Nat) : List Nat :=
  let tx := tiles (s.rd (Obj.canvWidth v))
  let ty := tiles (s.rd (Obj.canvHeight v))
  let rs := deltaRects s v
  (List.range (tx * ty)).filter (fun t => rs.any (fun r =>
    decide (r.1 ≤ t % tx) && decide (t % tx < r.1 + r.2.2.1) && decide (r.2.1 ≤ t / tx) && decide (t / tx < r.2.1 + r.2.2.2)))

/-- The variants a set names. -/
def variantsOf (s : State) (c : Nat) : List Nat :=
  ((List.range 32).map (fun j => s.rd (Obj.csetVariant j c))).filter (fun v => decide (v < 2048))

/-- Base and variants of a set. -/
def canvasesOf (s : State) (c : Nat) : List Nat :=
  (if s.rd (Obj.csetBase c) < 2048 then [s.rd (Obj.csetBase c)] else []) ++ variantsOf s c

/-- Tiles a set composes at a due tick: the base's, and each variant's delta tiles (R253). -/
def setTiles (s : State) (c : Nat) : Nat :=
  let b := s.rd (Obj.csetBase c)
  tiles (s.rd (Obj.canvWidth b)) * tiles (s.rd (Obj.canvHeight b)) +
    ((variantsOf s c).map (fun v => (deltaTiles s v).length)).sum

/-- Charge of a set (R253). -/
def setCharge (s : State) (c : Nat) : Nat := 4096 * setTiles s c

/-- Octets of one buffer of a set, its variants' delta tiles with it (R245, R252). -/
def setBufOctets (s : State) (c : Nat) : Nat := tileOctets * setTiles s c

/-- The sets that are enabled, in ascending order. -/
def enabledSets (s : State) : List Nat :=
  (s.dict.filter (fun e => decide (e.1 / 0x1000000 = 0x520001) && decide (e.2 = 1))).map (fun e => e.1 % 0x1000000)

/-- A set is due at a tick (R253). -/
def setDue (s : State) (c k : Nat) : Bool := decide (k % max 1 (s.rd (Obj.csetDivider c)) = s.rd (Obj.csetPhase c))

/-! ### Images -/

/-- Octet of HBM. -/
def hbmOctet (s : State) (a : Nat) : Nat := ((s.mem.find? (fun c => decide (c.1 = a))).map (fun c => c.2.toNat)).getD 0

/-- A little-endian value of `n` octets of HBM. -/
def hbmValue (s : State) (a n : Nat) : Nat := ofOctets ((List.range n).map (fun i => hbmOctet s (a + i)))

/-- Octets of an image with its header (R248). -/
def imageOctets (w h : Nat) (alpha : Bool) : Nat := 64 + tiles w * tiles h * (tileOctets + if alpha then 4096 else 0)

/-- The copy of the image at an address, or none where its header breaks R248 or it leaves the recordings partition. -/
def imageAt (s : State) (a : Nat) : Option ImgCopy :=
  let w := hbmValue s (a + 4) 2
  let h := hbmValue s (a + 6) 2
  let f := hbmOctet s (a + 8)
  let ok := decide (hbmValue s a 4 = 0x53494D47) && decide (2 ≤ w) && decide (w ≤ 4096) && decide (w % 2 = 0) &&
    decide (2 ≤ h) && decide (h ≤ 2304) && decide (h % 2 = 0) && decide (f ≤ 1) && decide (hbmValue s (a + 9) 55 = 0)
  let alpha := decide (f = 1)
  let fits := decide (s.partBase 7 ≤ a) && decide (a + imageOctets w h alpha ≤ s.partBase 7 + s.partSize 7 * mib)
  if ok && fits && decide (a % 64 = 0) then
    let p := a + 64 + tiles w * tiles h * tileOctets
    let body := (s.mem.filter (fun c => decide (a + 64 ≤ c.1) && decide (c.1 < p))).map (fun c => (c.1 - (a + 64), c.2.toNat))
    let plane := if alpha then
        (s.mem.filter (fun c => decide (p ≤ c.1) && decide (c.1 < p + tiles w * tiles h * 4096))).map (fun c => (c.1 - p, c.2.toNat))
      else []
    some ⟨a, w, h, alpha, body, plane⟩
  else none

/-- Octets an image copy takes. -/
def ImgCopy.octets (i : ImgCopy) : Nat := imageOctets i.width i.height i.alpha

/-- Alpha of a luma sample of a copy. -/
def ImgCopy.alphaAt (i : ImgCopy) (x y : Nat) : Nat :=
  if i.alpha then AMap.get 0 ((y / 64 * tiles i.width + x / 64) * 4096 + y % 64 * 64 + x % 64) i.plane else 255

/-- The place of a sample's octets in pictures of the tile layout (R235): component, coordinates in its plane, tiles across. -/
def samplePlace (tx comp x y : Nat) : Nat :=
  if comp = 0 then (y / 64 * tx + x / 64) * tileOctets + (y % 64 * 64 + x % 64) * 2
  else (y / 32 * tx + x / 32) * tileOctets + 8192 + (y % 32 * 32 + x % 32) * 4 + (comp - 1) * 2

/-- A component of a colour in the FILL encoding (Table 10.4). -/
def colourComp (colour comp : Nat) : Nat := bits colour (28 - 14 * min comp 2) 14

/-- A sample of a source: component and coordinates in its plane. -/
def PixSrc.sample (p : PixSrc) (comp x y : Nat) : Nat :=
  match p with
  | .none => 0
  | .decoded d n => Config.decoded d n comp (y * 8192 + x) % 16384
  | .image i =>
    let o := samplePlace (tiles i.width) comp x y
    (AMap.get 0 o i.body + 256 * AMap.get 0 (o + 1) i.body) % 16384
  | .operator i =>
    let o := samplePlace (tiles i.width) comp x y
    (i.pixels.getD o 0 + 256 * i.pixels.getD (o + 1) 0) % 16384
  | .fill c => colourComp c comp

/-- Alpha of a source at a luma sample (R248, R249). -/
def PixSrc.alpha (p : PixSrc) (x y : Nat) : Nat :=
  match p with
  | .image i => i.alphaAt x y
  | .operator i => if i.alpha then
      i.pixels.getD (tiles i.width * tiles i.height * tileOctets + (y / 64 * tiles i.width + x / 64) * 4096 + y % 64 * 64 + x % 64) 0
    else 255
  | _ => 255

/-- What a layer contributes to a sample of its canvas (R247, R249): the source's sample, the opacity and the alpha there; none
outside its rectangle. -/
def Piece.at_ (p : Piece) (comp x y : Nat) : Option (Int × Nat × Nat) :=
  let k := if comp = 0 then 1 else 2
  let lx : Int := (x * k : Nat)
  let ly : Int := (y * k : Nat)
  if p.src ≠ .none ∧ p.x ≤ lx ∧ lx < p.x + p.width ∧ p.y ≤ ly ∧ ly < p.y + p.height then
    let sx := (lx - p.x).toNat + p.srcX
    let sy := (ly - p.y).toNat + p.srcY
    let a := if comp = 0 then p.src.alpha sx sy
      else chromaAlpha (p.src.alpha sx sy) (p.src.alpha (sx + 1) sy) (p.src.alpha sx (sy + 1)) (p.src.alpha (sx + 1) (sy + 1))
    some (p.src.sample comp (sx / k) (sy / k), p.opacity, a)
  else none

/-- A sample of a composed canvas (R243, R249): beyond its size it is the background. -/
def Composed.sample (q : Composed) (comp x y : Nat) : Nat :=
  let k := if comp = 0 then 1 else 2
  let back := colourComp q.background comp
  if q.width ≤ x * k ∨ q.height ≤ y * k then back
  else (blendUp back (q.pieces.filterMap (fun p => p.at_ comp x y))).toNat

/-- A sample of a canvas of a set (R252): its own tile's, else the base's. -/
def contentSample (cs : List Composed) (v comp x y : Nat) : Nat :=
  let k := if comp = 0 then 64 else 32
  let own := cs.find? (fun q => decide (q.canv = v) && q.tiles.contains (y / k * tiles q.width + x / k))
  match own with
  | some q => q.sample comp x y
  | none => (cs.head?.map (fun q => q.sample comp x y)).getD 0

/-- The samples of a composed tile in the order of its octets (R235, R243). -/
def Composed.tileSamples (q : Composed) (t : Nat) : List Nat :=
  let tx := max 1 (Machine.tiles q.width)
  (List.range 4096).map (fun i => q.sample 0 (t % tx * 64 + i % 64) (t / tx * 64 + i / 64)) ++
    (List.range 1024).flatMap (fun i => [q.sample 1 (t % tx * 32 + i % 32) (t / tx * 32 + i / 32),
      q.sample 2 (t % tx * 32 + i % 32) (t / tx * 32 + i / 32)])

/-- The units a tile is stored in (R244): 48 is uncompressed. -/
def Composed.tileUnits (q : Composed) (t : Nat) : Nat := if q.compressed then min 48 (Config.tileUnits (q.tileSamples t)) else 48

/-- The tile table's entries for one band of a buffer, base and variants (R244, R252). -/
def bandUnits (cs : List Composed) (band : Nat) : List (Nat × Nat) :=
  cs.flatMap (fun q => (q.tiles.filter (fun t => decide (t / max 1 (Machine.tiles q.width) = band))).map
    (fun t => (q.canv * 4096 + t, q.tileUnits t)))

/-- Where a buffer stores a tile (R243, R244, R252): the start of its uncompressed slot, and the octets of it in use. -/
def CanvBuf.stored (b : CanvBuf) (v t : Nat) : Option (Nat × Nat) :=
  let slots := b.content.flatMap (fun q => q.tiles.map (fun u => (q.canv, u)))
  let u := b.units.find? (fun x => decide (x.1 = v * 4096 + t))
  match slots.findIdx? (fun x => decide (x = (v, t))), u with
  | some i, some x => some (i * tileOctets, x.2 * 256)
  | _, _ => none

/-- Image addresses a canvas's layers name, STILL fallbacks included (R254). -/
def imagesOf (s : State) (v : Nat) : List (Nat × Bool) :=
  (List.range 63).flatMap (fun z =>
    let t := s.rd (Obj.layType z v)
    (if t = 2 ∨ t = 3 then [(s.rd (Obj.laySource z v), decide (t = 2))] else []) ++
      (if t = 1 ∧ s.rd (Obj.layFallback z v) = 1 then [(s.rd (Obj.layFallbackSource z v), true)] else []))

/-- Decode outputs a canvas's VIDEO layers name: context and output. -/
def outputsOf (s : State) (v : Nat) : List (Nat × Nat) :=
  (List.range 63).filterMap (fun z =>
    let src := s.rd (Obj.laySource z v)
    if s.rd (Obj.layType z v) = 1 ∧ src < 16384 then some (src / 4, src % 4) else none)

/-! ### State of sets and layers -/

def CsetRt.idle : CsetRt := ⟨[], 0, [], [], false, 0, none⟩
def LayRt.idle : LayRt := ⟨0, 0, 0, 0, 0, .none, none⟩
def State.cs (s : State) (c : Nat) : CsetRt := AMap.get CsetRt.idle c s.cp.sets
def State.setCs (s : State) (c : Nat) (x : CsetRt) : State :=
  { s with cp := { s.cp with sets := AMap.put CsetRt.idle c x s.cp.sets } }
def State.lay (s : State) (v z : Nat) : LayRt := AMap.get LayRt.idle (v * 64 + z) s.cp.layers
def State.setLay (s : State) (v z : Nat) (x : LayRt) : State :=
  { s with cp := { s.cp with layers := AMap.put LayRt.idle (v * 64 + z) x s.cp.layers } }

/-! ### Validation of a commit (R238, R247, R248, R252 to R254, R258) -/

/-- The settings all accepted commits will have made active (R55, R56): theirs on top of the active ones. -/
def withWrites (s : State) (ws : List (Nat × Payload)) : State :=
  ws.foldl (fun t w => match w.2 with
    | .num v => t.wr w.1 v
    | _ => t) s

/-- The accepted tick commits that wait. -/
def tickCommits (s : State) : List Deferred := s.ctl.deferred.filter (fun d => d.isTick)

/-- A key that belongs to a canvas set, or to a canvas or decode output it names (R54, R234). -/
def inSet (c : Nat) (canvs : List Nat) (outs : List (Nat × Nat)) (k : Nat) : Bool :=
  let ix := k / 0x100000000
  let sub := k / 0x1000000 % 256
  let el := k % 0x1000000
  (decide (ix = 0x5200) && decide (el = c)) || (decide (ix = 0x5110) && canvs.contains el) ||
    (decide (0x5300 ≤ ix) && decide (ix ≤ 0x533E) && canvs.contains el) ||
    (decide (ix = 0x4300) && outs.contains (el, (sub - 1) / 4))

/-- The state whose active values are the shadow values, to read the settings a commit would bring. -/
def shadowView (s : State) : State := { s with dict := s.shadow }

/-- The keys a commit of some sets covers, by the shadow settings (R54, R234), and the keys `extra` covers beside them. -/
def coveredKeys (s : State) (csets : List Nat) (extra : Nat → Bool) : List Nat :=
  let v := shadowView s
  let scopes := csets.map (fun c => (c, canvasesOf v c, (canvasesOf v c).flatMap (outputsOf v)))
  let all := ((s.shadow.map Prod.fst ++ s.dict.map Prod.fst) ++
    (tickCommits s).flatMap (fun d => d.writes.map Prod.fst)).eraseDups
  all.filter (fun k => extra k || scopes.any (fun x => inSet x.1 x.2.1 x.2.2 k))

/-- The settings a commit makes active: the covered shadow values, where they differ from the active ones or an accepted
commit writes them. -/
def commitWrites (s : State) (csets : List Nat) (extra : Nat → Bool) : List (Nat × Payload) :=
  let pend := (tickCommits s).flatMap (fun d => d.writes.map Prod.fst)
  ((coveredKeys s csets extra).filter (fun k => decide (s.rdShadow k ≠ s.rd k) || pend.contains k)).map
    (fun k => (k, .num (s.rdShadow k)))

/-- The rules of R247 and R248 for one layer: 0 or an abort. -/
def layerCheck (s : State) (imgs : List ImgCopy) (v z : Nat) : Nat :=
  let t := s.rd (Obj.layType z v)
  let w := s.rd (Obj.layWidth z v)
  let h := s.rd (Obj.layHeight z v)
  let src := s.rd (Obj.laySource z v)
  let ex := s.rd (Obj.laySrcX z v) + w
  let ey := s.rd (Obj.laySrcY z v) + h
  let img := fun (a : Nat) => imgs.find? (fun i => decide (i.addr = a))
  if t = 0 then 0
  else if w = 0 ∨ h = 0 then Abort.inconsistent
  else if t = 1 then
    if 16384 ≤ src ∨ s.rd (Obj.outWidth (src % 4) (src / 4)) < ex ∨ s.rd (Obj.outHeight (src % 4) (src / 4)) < ey then
      Abort.inconsistent
    else if s.rd (Obj.layFallback z v) = 1 then
      match img (s.rd (Obj.layFallbackSource z v)) with
      | none => Abort.imageFormat
      | some i => if i.alpha then Abort.imageFormat else if i.width < w ∨ i.height < h then Abort.inconsistent else 0
    else if s.rd (Obj.layFallback z v) = 2 ∧ 2 ^ 42 ≤ s.rd (Obj.layFallbackSource z v) then Abort.inconsistent
    else 0
  else if t = 4 then (if 2 ^ 42 ≤ src then Abort.inconsistent else 0)
  else match img src with
    | none => Abort.imageFormat
    | some i =>
      if t = 2 ∧ i.alpha then Abort.imageFormat else if i.width < ex ∨ i.height < ey then Abort.inconsistent else 0

/-- The first abort of a list of checks. -/
def firstAbort : List Nat → Nat
  | [] => 0
  | a :: r => if a = 0 then firstAbort r else a

/-- A canvas belongs to one set, enabled or not (Table 1.3). -/
def canvasTaken (s : State) (c : Nat) : Bool :=
  let all := canvasesOf s c
  let others := (s.dict.filter (fun e => decide (e.1 / 0x100000000 = 0x5200) && decide (e.1 % 0x1000000 ≠ c) &&
    (decide (e.1 / 0x1000000 % 256 = 2) || decide (5 ≤ e.1 / 0x1000000 % 256)))).map Prod.snd
  hasTwice all || all.any (fun v => others.contains v)

/-- The relations of an enabled set's canvases (R252, Table 1.3): a canvas belongs to one set, a variant has the base's size and at
least one delta tile inside the canvas. -/
def variantCheck (s : State) (c : Nat) : Nat :=
  let b := s.rd (Obj.csetBase c)
  if 2048 ≤ b ∨ s.rd (Obj.canvWidth b) = 0 ∨ s.rd (Obj.canvHeight b) = 0 then Abort.inconsistent
  else if canvasTaken s c then Abort.relation
  else if s.rd (Obj.csetDivider c) ≤ s.rd (Obj.csetPhase c) then Abort.inconsistent
  else
    let tx := tiles (s.rd (Obj.canvWidth b))
    let ty := tiles (s.rd (Obj.canvHeight b))
    let bad := fun (v : Nat) => decide (s.rd (Obj.canvWidth v) ≠ s.rd (Obj.canvWidth b)) ||
      decide (s.rd (Obj.canvHeight v) ≠ s.rd (Obj.canvHeight b)) || (deltaRects s v).isEmpty ||
      (deltaRects s v).any (fun r => decide (tx < r.1 + r.2.2.1) || decide (ty < r.2.1 + r.2.2.2))
    if (variantsOf s c).any bad then Abort.inconsistent else 0

/-- An analysis context that is enabled names the set (R256). -/
def setAnalysed (s : State) (c : Nat) : Bool :=
  s.dict.any (fun e => decide (e.1 / 0x1000000 = 0x620001) && decide (e.2 = 1) && decide (s.rd (Obj.actxCset (e.1 % 0x1000000)) = c))

/-- Sum of the Charges of the sets of composer `m`, other than `c`, due at residue `r` of 12 (R253). -/
def composerLoad (s : State) (m c r : Nat) : Nat :=
  (((enabledSets s).filter (fun x => decide (x ≠ c) && decide (s.rd (Obj.csetComposer x) = m) && setDue s x r)).map
    (fun x => s.rd (Obj.csetCharge x))).sum

/-- A set fits on a composer at all its due ticks (R253). -/
def composerFits (s : State) (m c : Nat) : Bool :=
  decide (m < 4) && (List.range 12).all (fun r => !setDue s c r ||
    decide (composerLoad s m c r + setCharge s c ≤ s.rd Obj.composerTickBudget))

/-- The composer of a set: the one it has, else the lowest that fits (R253). -/
def findComposer (s : State) (c : Nat) : Option Nat :=
  if composerFits s (s.rd (Obj.csetComposer c)) c then some (s.rd (Obj.csetComposer c))
  else (List.range 4).find? (fun m => composerFits s m c)

/-- The operator image of a slot (0 to 15). -/
def State.opImage (s : State) (i : Nat) : Option (OpImage × Bool) := (s.cp.opImages.find? (fun x => decide (x.1 = i))).map Prod.snd

/-- The protected layer fits its canvas (R258). -/
def opFits (s : State) (v : Nat) : Bool :=
  if s.rd (Obj.olEnable v) = 0 then true
  else match s.opImage (s.rd (Obj.olImage v) - 1) with
    | none => true
    | some (i, _) => decide (s.rd (Obj.olOffsetX v) + i.width ≤ s.rd (Obj.canvWidth v)) &&
        decide (s.rd (Obj.olOffsetY v) + i.height ≤ s.rd (Obj.canvHeight v))

/-- The outputs to check at a commit: those it activates with new settings, and those its layers newly name (R238). -/
def outputsToCheck (before after : State) (csets : List Nat) (ws : List (Nat × Payload)) : List (Nat × Nat) :=
  let changed := (ws.filter (fun w => decide (w.1 / 0x100000000 = 0x4300) && decide (before.rd w.1 ≠ after.rd w.1))).map
    (fun w => (w.1 % 0x1000000, (w.1 / 0x1000000 % 256 - 1) / 4))
  let old := csets.flatMap (fun c => (canvasesOf before c).flatMap (outputsOf before))
  let named := csets.flatMap (fun c => (canvasesOf after c).flatMap (outputsOf after))
  (changed ++ named.filter (fun o => !old.contains o)).eraseDups

/-- Outputs whose memory a commit allocates afresh: those whose settings change. -/
def outputsChanged (before after : State) (ws : List (Nat × Payload)) : List (Nat × Nat) :=
  ((ws.filter (fun w => decide (w.1 / 0x100000000 = 0x4300) && decide (before.rd w.1 ≠ after.rd w.1))).map
    (fun w => (w.1 % 0x1000000, (w.1 / 0x1000000 % 256 - 1) / 4))).eraseDups

/-- Octets of decode outputs under some settings. -/
def outputsNeed (s : State) (outs : List (Nat × Nat)) : Nat :=
  (outs.map (fun o => outNeed (s.rd (Obj.outWidth o.2 o.1)) (s.rd (Obj.outHeight o.2 o.1)) (s.rd (Obj.outBuffers o.2 o.1)))).sum

/-- Octets of a set's buffers a commit allocates: none while the geometry stays. -/
def bufsNeed (before after : State) (c : Nat) : Nat :=
  if after.rd (Obj.csetEnable c) = 0 then 0
  else
    let b := after.rd (Obj.csetBase c)
    let keep := decide (before.rd (Obj.csetEnable c) = 1) && decide (setBufOctets before c = setBufOctets after c) &&
      decide (before.rd (Obj.canvBuffers (before.rd (Obj.csetBase c))) = after.rd (Obj.canvBuffers b)) &&
      decide (canvasesOf before c = canvasesOf after c)
    if keep then 0 else after.rd (Obj.canvBuffers b) * setBufOctets after c

/-- The images a set's settings newly name, each once, and whether every one of them is well formed (R248, R254). -/
def newImages (s after : State) (c : Nat) : List ImgCopy × Bool :=
  let addrs := (((canvasesOf after c).flatMap (imagesOf after)).map Prod.fst).eraseDups
  let new := addrs.filter (fun a => !(s.cs c).images.any (fun i => decide (i.addr = a)))
  let got := new.filterMap (imageAt s)
  (got, decide (got.length = new.length))

/-- The composer assigned to each set in turn, and the charges, as settings (R253); none where one fits nowhere. -/
def assignComposers (after : State) : List Nat → Option (List (Nat × Payload))
  | [] => some []
  | c :: r =>
    if after.rd (Obj.csetEnable c) = 0 then
      let ws := [(Obj.csetComposer c, Payload.num 255), (Obj.csetCharge c, .num 0)]
      (assignComposers (withWrites after ws) r).map (fun x => ws ++ x)
    else match findComposer after c with
      | none => none
      | some m =>
        let ws := [(Obj.csetComposer c, Payload.num m), (Obj.csetCharge c, .num (setCharge after c))]
        (assignComposers (withWrites after ws) r).map (fun x => ws ++ x)

/-! ### Analysis areas (R264, R266) -/

/-- Tiles dilated by one tile in each direction, clipped to a canvas of `tx` by `ty` tiles. -/
def dilate (tx ty : Nat) (d : List Nat) : List Nat :=
  let near := fun (a b : Nat) => decide (a ≤ b + 1) && decide (b ≤ a + 1)
  (List.range (tx * ty)).filter (fun t => d.any (fun u => near (t % tx) (u % tx) && near (t / tx) (u / tx)))

/-- Tiles analysed for a variant: its delta tiles dilated. -/
def dilatedTiles (s : State) (v : Nat) : Nat :=
  (dilate (tiles (s.rd (Obj.canvWidth v))) (tiles (s.rd (Obj.canvHeight v))) (deltaTiles s v)).length

/-- Tiles a context analyses for its set. -/
def analysisTiles (s : State) (c : Nat) : Nat :=
  let b := s.rd (Obj.csetBase c)
  tiles (s.rd (Obj.canvWidth b)) * tiles (s.rd (Obj.canvHeight b)) + ((variantsOf s c).map (dilatedTiles s)).sum

/-- Area in pixels per due tick (R264). -/
def analysisArea (s : State) (c : Nat) : Nat := 4096 * analysisTiles s c

/-- Analysis memory of a context in octets (R266). -/
def analysisOctets (s : State) (c : Nat) : Nat := analysisTiles s c * 5888 * 2

/-- The enabled analysis contexts. -/
def enabledActx (s : State) : List Nat :=
  (s.dict.filter (fun e => decide (e.1 / 0x1000000 = 0x620001) && decide (e.2 = 1))).map (fun e => e.1 % 0x1000000)

/-- The analysis context of a set. -/
def actxOf (s : State) (c : Nat) : Option Nat := (enabledActx s).find? (fun a => decide (s.rd (Obj.actxCset a) = c))

/-- Areas of the contexts of front-end `f`, other than `a`, due at residue `r` of 12 (R264). -/
def frontLoad (s : State) (f a r : Nat) : Nat :=
  (((enabledActx s).filter (fun x => decide (x ≠ a) && decide (s.rd (Obj.actxFrontEnd x) = f) &&
    setDue s (s.rd (Obj.actxCset x)) r)).map (fun x => s.rd (Obj.actxArea x))).sum

/-- A context of an area fits on a front-end at all its due ticks. -/
def frontFits (s : State) (f a c : Nat) : Bool :=
  decide (f < 6) && bit (s.rd Obj.frontEndsOnline) f && (List.range 12).all (fun r => !setDue s c r ||
    decide (frontLoad s f a r + analysisArea s c ≤ s.rd Obj.frontEndTickBudget))

/-- The front-end of a context: the one it has, else the lowest that fits. -/
def findFront (s : State) (a c : Nat) : Option Nat :=
  if frontFits s (s.rd (Obj.actxFrontEnd a)) a c then some (s.rd (Obj.actxFrontEnd a))
  else (List.range 6).find? (fun f => frontFits s f a c)

/-- The enabled renditions. -/
def enabledRctx (s : State) : List Nat :=
  (s.dict.filter (fun e => decide (e.1 / 0x1000000 = 0x630001) && decide (e.2 ≠ 0))).map (fun e => e.1 % 0x1000000)

/-- The check of a commit of an analysed set (R264): what an enabled rendition names stays, the Area still fits; the new
settings of the context's status, and the octets its memory grows by. -/
def analysisCheck (before after : State) (c : Nat) : Nat × List (Nat × Payload) × Nat :=
  match actxOf before c with
  | none => (0, [], 0)
  | some a =>
    let rs := (enabledRctx before).filter (fun r => decide (before.rd (Obj.rctxActx r) = a))
    let now := canvasesOf after c
    let bad := rs.any (fun r =>
      let v := before.rd (Obj.rctxCanvas r)
      !now.contains v || decide (before.rd (Obj.canvWidth v) ≠ after.rd (Obj.canvWidth v)) ||
        decide (before.rd (Obj.canvHeight v) ≠ after.rd (Obj.canvHeight v)))
    if bad then (Abort.relation, [], 0)
    else if after.rd (Obj.csetEnable c) = 0 then (0, [], 0)
    else match findFront after a c with
      | none => (Abort.throughput, [], 0)
      | some f => (0, [(Obj.actxArea a, .num (analysisArea after c)), (Obj.actxFrontEnd a, .num f)],
          analysisOctets after c - analysisOctets before c)

/-- The analysis checks of several sets, one after the other. -/
def analysisChecks (before : State) : State → List Nat → Nat × List (Nat × Payload) × Nat
  | _, [] => (0, [], 0)
  | after, c :: r =>
    match analysisCheck before after c with
    | (0, ws, n) =>
      let (a, ws2, m) := analysisChecks before (withWrites after ws) r
      (a, ws ++ ws2, n + m)
    | x => x

/-- A commit of canvas sets and of the settings `extra` names beside them (R54 to R57, R254, R258): the abort, or the deferred
settings and the state with what acceptance does to it. -/
def tickCommit (s : State) (csets : List Nat) (extra : Nat → Bool) (direct : List (Nat × Payload)) (due : Nat)
    (notify : Option (Chan × Req × Nat)) : Nat × Option Deferred × State :=
  let kept := (tickCommits s).map (fun d => if d.due = due then
      { d with writes := d.writes.filter (fun w => !csets.any (fun c => d.csets.contains c &&
        inSet c (canvasesOf (withWrites s d.writes) c) ((canvasesOf (withWrites s d.writes) c).flatMap (outputsOf (withWrites s d.writes))) w.1)) } else d)
  let before := kept.foldl (fun t d => withWrites t d.writes) s
  let ws := commitWrites s csets extra ++ direct
  let after := withWrites before ws
  let on := csets.filter (fun c => decide (after.rd (Obj.csetEnable c) = 1))
  let off := csets.filter (fun c => decide (after.rd (Obj.csetEnable c) = 0))
  let imgs := on.map (fun c => (c, newImages s after c))
  let have_ := fun (c : Nat) => (s.cs c).images ++ ((imgs.filter (fun x => decide (x.1 = c))).flatMap (fun x => x.2.1))
  let layers := on.flatMap (fun c => (canvasesOf after c).flatMap (fun v => (List.range 63).map (fun z => layerCheck after (have_ c) v z)))
  let a1 := firstAbort (off.map (fun c => if setAnalysed s c ∨ canvasTaken after c then Abort.relation else 0) ++ layers ++ on.map (variantCheck after))
  let chk := outputsToCheck before after on ws
  let a2 := firstAbort (chk.map (fun o => scaleCheck s o.1 (after.rd (Obj.outWidth o.2 o.1)) (after.rd (Obj.outHeight o.2 o.1))
    (after.rd (Obj.outCrop o.2 o.1))))
  let need6 := (on.map (fun c => bufsNeed before after c)).sum + ((imgs.flatMap (fun x => x.2.1)).map ImgCopy.octets).sum
  let need4 := outputsNeed after (outputsChanged before after ws)
  let a3 := if s.room 6 need6 && s.room 4 need4 then 0 else Abort.partition
  let bases := csets.map (fun c => after.rd (Obj.csetBase c))
  let direct5 := (ws.filter (fun w => decide (w.1 / 0x100000000 = 0x5610))).map (fun w => w.1 % 0x1000000)
  let a5 := if (bases.filter (fun b => decide (b < 2048)) ++ direct5).all (opFits after) then 0 else Abort.oplayerFit
  if firstAbort [a1, a2, a3] ≠ 0 then (firstAbort [a1, a2, a3], none, s)
  else match assignComposers after (sortBy (fun a b => decide (a ≤ b)) csets) with
    | none => (Abort.throughput, none, s)
    | some cw =>
      let (a6, aw, need5) := analysisChecks before after csets
      if a5 ≠ 0 then (a5, none, s)
      else if a6 ≠ 0 then (a6, none, s)
      else if !s.room 5 need5 then (Abort.partition, none, s)
      else
        let d : Deferred := ⟨due, true, ws ++ cw ++ aw, csets, imgs.flatMap (fun x => x.2.1.map (fun i => (x.1, i))),
          [(6, need6), (4, need4), (5, need5)], notify, []⟩
        (0, some d, ((s.allot 6 need6).allot 4 need4).allot 5 need5)

/-- The accepted commits a new one supersedes: those of one of its sets for the same tick (R55). DESIGN CHOICE: an earlier commit of
several sets is superseded whole, its other sets and its other writes included. -/
def supersededBy (s : State) (d : Deferred) : List Deferred :=
  s.ctl.deferred.filter (fun x => x.isTick && decide (x.due = d.due) && x.csets.any (fun c => d.csets.contains c))

/-- A deferred commit taken back: its memory is free again. -/
def dropDeferred (s : State) (d : Deferred) : State :=
  let s1 := { s with ctl := { s.ctl with deferred := s.ctl.deferred.filter (fun x => decide (x ≠ d)) } }
  d.alloc.foldl (fun t a => t.unallot a.1 a.2) s1

/-- OPERATOR_IMAGE_WRITE (R259): slot `i` (0 to 15). -/
def operatorImageWrite (s : State) (i : Nat) (img : OpImage) : Nat × State :=
  let all := (tickCommits s).foldl (fun t d => withWrites t d.writes) s
  let named := fun (t : State) => t.dict.any (fun e => decide (e.1 / 0x1000000 = 0x561001) && decide (e.2 = 1) &&
    decide (t.rd (Obj.olImage (e.1 % 0x1000000)) = i + 1))
  let octs := imageOctets img.width img.height img.alpha
  let old := ((s.opImage i).map (fun (x : OpImage × Bool) => imageOctets x.1.width x.1.height x.1.alpha)).getD 0
  if ¬ img.formatOk ∨ img.width < 2 ∨ 4096 < img.width ∨ img.width % 2 = 1 ∨ img.height < 2 ∨ 2304 < img.height ∨
      img.height % 2 = 1 then (Abort.imageFormat, s)
  else if named s || named all then (Abort.imageInUse, s)
  else
    let s1 := s.unallot 6 old
    if !s1.room 6 octs then (Abort.partition, s)
    else
      let s2 := s1.allot 6 octs
      let header := octets 4 0x53494D47 ++ octets 2 img.width ++ octets 2 img.height ++ [b2n img.alpha] ++ List.replicate 55 0
      (0, { s2 with cp := { s2.cp with
        opImages := s2.cp.opImages.filter (fun (x : Nat × OpImage × Bool) => decide (x.1 ≠ i)) ++ [(i, img, true)] } }.wr (Obj.operatorImageCrc i)
          (crc crc32c (header ++ img.pixels)))

/-! ### Fetch lists (R250) -/

/-- The layer rectangle (x, y, x end, y end) clipped to the canvas; the protected layer is slot 63. -/
def layerRect (s : State) (base v z : Nat) : Int × Int × Int × Int :=
  let w : Int := s.rd (Obj.canvWidth v)
  let h : Int := s.rd (Obj.canvHeight v)
  let (x, y, lw, lh) : Int × Int × Int × Int :=
    if z = 63 then
      match s.opImage (s.rd (Obj.olImage base) - 1) with
      | some (i, _) =>
        let a := s.rd (Obj.olAnchor base)
        let ox : Int := s.rd (Obj.olOffsetX base)
        let oy : Int := s.rd (Obj.olOffsetY base)
        (if a % 2 = 1 then w - ox - i.width else ox, if 2 ≤ a then h - oy - i.height else oy, i.width, i.height)
      | none => (0, 0, 0, 0)
    else (sgn 16 (s.rd (Obj.layX z v)), sgn 16 (s.rd (Obj.layY z v)), s.rd (Obj.layWidth z v), s.rd (Obj.layHeight z v))
  (max 0 x, max 0 y, min w (x + lw), min h (y + lh))

/-- The rectangle of a canvas tile, clipped to the canvas. -/
def tileRect (s : State) (v t : Nat) : Int × Int × Int × Int :=
  let tx := tiles (s.rd (Obj.canvWidth v))
  let x : Int := (t % tx * 64 : Nat)
  let y : Int := (t / tx * 64 : Nat)
  (x, y, min (s.rd (Obj.canvWidth v)) (x + 64), min (s.rd (Obj.canvHeight v)) (y + 64))

/-- Two rectangles share a sample. -/
def meets (a b : Int × Int × Int × Int) : Bool :=
  decide (max a.1 b.1 < min a.2.2.1 b.2.2.1) && decide (max a.2.1 b.2.1 < min a.2.2.2 b.2.2.2)

/-- A rectangle covers another. -/
def covers (a b : Int × Int × Int × Int) : Bool :=
  decide (a.1 ≤ b.1) && decide (a.2.1 ≤ b.2.1) && decide (b.2.2.1 ≤ a.2.2.1) && decide (b.2.2.2 ≤ a.2.2.2)

/-- Every alpha value of a GRAPHIC image's area that lands on a tile is 255. -/
def graphicOpaque (s : State) (img : ImgCopy) (v z : Nat) (r : Int × Int × Int × Int) : Bool :=
  let sx := (s.rd (Obj.laySrcX z v) : Int) - sgn 16 (s.rd (Obj.layX z v))
  let sy := (s.rd (Obj.laySrcY z v) : Int) - sgn 16 (s.rd (Obj.layY z v))
  let l := layerRect s v v z
  let x0 := max r.1 l.1
  let y0 := max r.2.1 l.2.1
  (List.range (min r.2.2.1 l.2.2.1 - x0).toNat).all (fun i => (List.range (min r.2.2.2 l.2.2.2 - y0).toNat).all (fun j =>
    decide (img.alphaAt (x0 + sx + i).toNat (y0 + sy + j).toNat = 255)))

/-- A tenant layer is opaque over a tile. -/
def opaqueOver (s : State) (imgs : List ImgCopy) (v z : Nat) (r : Int × Int × Int × Int) : Bool :=
  decide (s.rd (Obj.layOpacity z v) = 1024) &&
    (if s.rd (Obj.layType z v) = 3 then
      (imgs.find? (fun i => decide (i.addr = s.rd (Obj.laySource z v)))).any (fun i => graphicOpaque s i v z r)
    else true)

/-- The tenant part of a tile's fetch list, from slot z − 1 downwards. -/
def fetchFrom (s : State) (imgs : List ImgCopy) (v : Nat) (r : Int × Int × Int × Int) : Nat → List Nat
  | 0 => []
  | z + 1 =>
    let l := layerRect s v v z
    if s.rd (Obj.layType z v) ≠ 0 ∧ meets l r then
      if covers l r && opaqueOver s imgs v z r then [z] else z :: fetchFrom s imgs v r z
    else fetchFrom s imgs v r z

/-- The fetch list of a tile (R250). -/
def fetchTile (s : State) (imgs : List ImgCopy) (base v t : Nat) : List Nat :=
  let r := tileRect s v t
  (if s.rd (Obj.olEnable base) = 1 ∧ meets (layerRect s base v 63) r then [63] else []) ++ fetchFrom s imgs v r 63

/-- The tiles composed for a canvas of a set: all of the base's, the delta tiles of a variant. -/
def tilesOf (s : State) (base v : Nat) : List Nat :=
  if v = base then List.range (tiles (s.rd (Obj.canvWidth v)) * tiles (s.rd (Obj.canvHeight v))) else deltaTiles s v

/-- The fetch lists of a set's canvases. -/
def fetchLists (s : State) (imgs : List ImgCopy) (c : Nat) : List (Nat × Nat × List Nat) :=
  let b := s.rd (Obj.csetBase c)
  (canvasesOf s c).flatMap (fun v => (tilesOf s b v).map (fun t => (v, t, fetchTile s imgs b v t)))

/-- Layer tiles of a canvas that intersect its tiles, read or not. -/
def layerTiles (s : State) (base v : Nat) : Nat :=
  ((tilesOf s base v).map (fun t =>
    let r := tileRect s v t
    ((List.range 63).filter (fun z => decide (s.rd (Obj.layType z v) ≠ 0) && meets (layerRect s v v z) r)).length +
      b2n (decide (s.rd (Obj.olEnable base) = 1) && meets (layerRect s base v 63) r))).sum

/-- A layer is on no list of its canvas (R250). -/
def layerHidden (x : CsetRt) (v z : Nat) : Bool := !x.lists.any (fun l => decide (l.1 = v) && l.2.2.contains z)

/-! ### Activation (R255) -/

/-- A layer lets go of the picture it shows. -/
def releaseLayer (s : State) (v z : Nat) : State :=
  match (s.lay v z).shown with
  | .video d p => (outRead s d p false).setLay v z { s.lay v z with shown := .none }
  | _ => s.setLay v z { s.lay v z with shown := .none }

/-- Buffers of an earlier geometry that nothing holds, and image copies no setting names, are freed once no composition of the
set waits or runs (R255). -/
def cleanSet (s : State) (c : Nat) : State :=
  let x := s.cs c
  let busy := s.cp.jobs.any (fun j => j.2.any (fun q => decide (q.cset = c)))
  let gone := x.bufs.filter (fun b => b.old && decide (b.holds = 0) &&
    !s.cp.jobs.any (fun j => j.2.any (fun q => decide (q.cset = c) && decide (q.buf = b.id))))
  let named := if s.rd (Obj.csetEnable c) = 1 then ((canvasesOf s c).flatMap (imagesOf s)).map Prod.fst else []
  let imgs := if busy then [] else x.images.filter (fun i => !named.contains i.addr)
  (s.setCs c { x with
    bufs := x.bufs.filter (fun b => !gone.contains b)
    images := x.images.filter (fun i => !imgs.contains i) }).unallot 6
      ((gone.map CanvBuf.octets).sum + (imgs.map ImgCopy.octets).sum)

/-- A VIDEO layer at the activation of its set's settings: a Source that changed counts from this tick (R257). -/
def activateLayer (k : Nat) (s : State) (vz : Nat × Nat) : State :=
  let (v, z) := vz
  let x := s.lay v z
  if s.rd (Obj.layType z v) = 1 then
    let src := s.rd (Obj.laySource z v) + 1
    if x.source = src then s else (releaseLayer s v z).setLay v z { LayRt.idle with source := src, since := k }
  else if x = LayRt.idle then s else (releaseLayer s v z).setLay v z LayRt.idle

/-- The settings of a set have become active at tick k (R255). `before` is the state before, `imgs` the new copies. -/
def activateSet (before s : State) (c k due : Nat) (imgs : List ImgCopy) : State :=
  let on := decide (s.rd (Obj.csetEnable c) = 1)
  let x := s.cs c
  let n := if on then bufsNeed before s c else 0
  let count := s.rd (Obj.canvBuffers (s.rd (Obj.csetBase c)))
  let renew := !on || decide (n ≠ 0)
  let olds := x.bufs.map (fun (b : CanvBuf) => if renew then { b with old := true } else b)
  let fresh := if n = 0 then [] else
    (List.range count).map (fun i => CanvBuf.mk (x.nextBuf + i) (setBufOctets s c) false 0 0 0 0 false [] [])
  let images := x.images ++ imgs
  let lists := if on then fetchLists s images c else []
  let s1 := s.setCs c { x with bufs := olds ++ fresh, nextBuf := x.nextBuf + fresh.length, images := images, lists := lists }
  let was := canvasesOf before c
  let now := canvasesOf s c
  let s2 := (was.filter (fun v => decide (s.rd (Obj.canvSet v) = c))).foldl
    (fun t v => (t.wr (Obj.canvSet v) 65535).wr (Obj.canvRole v) 0) s1
  let s3 := now.foldl (fun t v => (t.wr (Obj.canvSet v) c).wr (Obj.canvRole v) (if v = s.rd (Obj.csetBase c) then 1 else 2)) s2
  let drop := (if on then was.filter (fun v => !now.contains v) else was ++ now).flatMap (fun v => (List.range 63).map (fun z => (v, z)))
  let s4 := drop.foldl (fun t vz => if t.lay vz.1 vz.2 = LayRt.idle then t else (releaseLayer t vz.1 vz.2).setLay vz.1 vz.2 LayRt.idle) s3
  let s5 := if on then (now.flatMap (fun v => (List.range 63).map (fun z => (v, z)))).foldl (activateLayer k) s4 else s4
  cleanSet (s5.wr (Obj.csetActiveTick c) (time80 due)) c

/-- A deferred tick commit becomes active at tick k (R54 to R57, R234, R255). -/
def activateCommit (s : State) (k : Nat) (d : Deferred) : State :=
  let outs := outputsChanged s (withWrites s d.writes) d.writes
  let s1 := withWrites s d.writes
  let s2 := outs.foldl (fun t o => outActivate t o.1 o.2) s1
  d.csets.foldl (fun t c => activateSet s t c k d.due ((d.images.filter (fun i => decide (i.1 = c))).map Prod.snd)) s2

/-! ### The tick (R30, R245, R257, R260) -/

/-- A VIDEO layer's fallback picture (R257). -/
def fallbackPix (s : State) (v z : Nat) : LayerPix :=
  match s.rd (Obj.layFallback z v) with
  | 1 => .image (s.rd (Obj.layFallbackSource z v))
  | 2 => .fill (s.rd (Obj.layFallbackSource z v))
  | _ => match (s.lay v z).shown with
    | .none => .fill (8192 * 2 ^ 28 + 8192 * 2 ^ 14 + 8192)
    | p => p

/-- The source of the decoded picture a layer shows. -/
def layerSrc (s : State) (p : LayerPix) : PixSrc :=
  match p with
  | .video d place => .decoded d ((s.dx d).buf place).seq
  | _ => .none

/-- A VIDEO layer at a due tick (R257): what it shows. -/
def evalVideo (s : State) (hidden : Bool) (v z k instant : Nat) : LayerPix × State :=
  if hidden then (.none, (releaseLayer s v z).wr (Obj.lsShown z v) 3)
  else
    let x := s.lay v z
    let src := s.rd (Obj.laySource z v)
    let d := src / 4
    let o := src % 4
    let ready := (newestBefore s d o instant).filter (fun b =>
      decide (b.2.width = s.rd (Obj.outWidth o d)) && decide (b.2.height = s.rd (Obj.outHeight o d)) &&
        (decide (x.done < b.2.done) || (decide (x.done = b.2.done) && decide (x.seq < b.2.out))))
    match ready with
    | some (p, b) =>
      let s1 := outRead (releaseLayer s v z) d p true
      (.video d p, ((s1.setLay v z { x with
        last := k, done := b.done, seq := b.out, shown := .video d p
        before := some (x.last, x.done, x.seq, layerSrc s x.shown) }).wr
        (Obj.lsShown z v) 0).wr (Obj.lsStale z v) 0)
    | none =>
      let stale := min 255 (k - (if x.done = 0 then x.since else x.last))
      let s1 := ((s.setLay v z { x with before := none }).wr (Obj.lsStale z v) stale).inc (Obj.lsStaleTicks z v)
      if x.done ≠ 0 ∧ stale < s.rd (Obj.layStaleLimit z v) then (x.shown, s1.wr (Obj.lsShown z v) 1)
      else
        (fallbackPix s v z, ((s1.wr (Obj.lsShown z v) 2).inc (Obj.lsFallbackTicks z v)).eventRated Ev.layerFallback v v z)

/-- A layer's picture at a due tick. -/
def evalLayer (x : CsetRt) (k instant : Nat) (acc : List (Nat × LayerPix) × State) (vz : Nat × Nat) :
    List (Nat × LayerPix) × State :=
  let (v, z) := vz
  let (l, s) := acc
  match s.rd (Obj.layType z v) with
  | 0 => (l, s)
  | 1 => let (p, t) := evalVideo s (layerHidden x v z) v z k instant
         (l ++ [(v * 64 + z, p)], t)
  | 4 => (l ++ [(v * 64 + z, .fill (s.rd (Obj.laySource z v)))], s)
  | _ => (l ++ [(v * 64 + z, .image (s.rd (Obj.laySource z v)))], s)

/-- A tenant layer as it is composed (R247, R249, R257): a fallback image shows from its origin. -/
def pieceOf (s : State) (v z : Nat) (p : LayerPix) : Piece :=
  let t := s.rd (Obj.layType z v)
  let x := sgn 16 (s.rd (Obj.layX z v))
  let y := sgn 16 (s.rd (Obj.layY z v))
  let (w, h, o) := (s.rd (Obj.layWidth z v), s.rd (Obj.layHeight z v), s.rd (Obj.layOpacity z v))
  let (sx, sy) := (s.rd (Obj.laySrcX z v), s.rd (Obj.laySrcY z v))
  match p with
  | .none => ⟨z, x, y, w, h, 0, 0, o, .none⟩
  | .fill c => ⟨z, x, y, w, h, 0, 0, o, .fill c⟩
  | .video d place => ⟨z, x, y, w, h, sx, sy, o, .decoded d ((s.dx d).buf place).seq⟩
  | .image a =>
    let src := (((s.cs (s.rd (Obj.canvSet v))).images.find? (fun i => decide (i.addr = a))).map PixSrc.image).getD .none
    if t = 1 then ⟨z, x, y, w, h, 0, 0, o, src⟩ else ⟨z, x, y, w, h, sx, sy, o, src⟩

/-- The protected layer of a base, at Opacity 1,024 (R258, R259). -/
def operatorPiece (s : State) (b : Nat) : List Piece :=
  if s.rd (Obj.olEnable b) = 0 then []
  else match s.opImage (s.rd (Obj.olImage b) - 1) with
    | none => []
    | some (i, _) =>
      let r := layerRect s b b 63
      [⟨63, r.1, r.2.1, i.width, i.height, 0, 0, 1024, .operator i⟩]

/-- The canvases of a set as they are composed at a due tick (R249, R252): the layers shown, or the operator's fill alone (R260). -/
def composeContent (s : State) (c : Nat) (pass : Bool) (shown : List (Nat × LayerPix)) : List Composed :=
  let b := s.rd (Obj.csetBase c)
  (canvasesOf s c).map (fun v => {
    canv := v
    width := s.rd (Obj.canvWidth v)
    height := s.rd (Obj.canvHeight v)
    background := if pass then s.rd (Obj.background v) else s.rd (Obj.olFillColour b)
    compressed := decide (s.rd (Obj.compression v) = 1)
    tiles := tilesOf s b v
    pieces := if pass then (shown.filter (fun p => decide (p.1 / 64 = v))).map (fun p => pieceOf s v (p.1 % 64) p.2) ++ operatorPiece s b
      else [] })

/-- Whether the operator image of a set due at tick k has passed its check (R260); a set without a protected layer has none. -/
def opPassed (s : State) (b k : Nat) : Bool :=
  decide (s.rd (Obj.olEnable b) = 0) ||
    s.cp.checks.any (fun c => decide (c.image + 1 = s.rd (Obj.olImage b)) && decide (c.tick = k) && decide (c.result = some true))

/-- One due set at tick k (R245, R257, R260). -/
def tickSet (k instant : Nat) (s : State) (c : Nat) : State :=
  let x := s.cs c
  let b := s.rd (Obj.csetBase c)
  let vs := canvasesOf s c
  let (content, s1) := (vs.flatMap (fun v => (List.range 63).map (fun z => (v, z)))).foldl (evalLayer x k instant) ([], s)
  let pass := opPassed s b k
  let s2 := if pass then s1 else
    let t := s1.inc (Obj.opCheckFail b)
    if x.failing then t else t.event Ev.oplayerCheckFail b (s.rd (Obj.olImage b))
  let s3 := s2.setCs c { s2.cs c with failing := !pass }
  let y := s3.cs c
  let m := s.rd (Obj.csetComposer c)
  let queue := AMap.get [] m s3.cp.jobs
  match y.bufs.find? (fun q => !q.old && decide (q.holds = 0) && !queue.any (fun j => decide (j.cset = c) && decide (j.buf = q.id))) with
  | none =>
    vs.foldl (fun t v => (t.inc (Obj.canvSkipped v)).eventRated Ev.canvasSkipped v v 0) s3
  | some q =>
    let shown := if pass then content else []
    let reads := shown.filterMap (fun p => match p.2 with
      | .video d pl => some (d, pl)
      | _ => none)
    let fetched := vs.map (fun v =>
      let n := ((x.lists.filter (fun l => decide (l.1 = v))).map (fun l => l.2.2.length)).sum
      (v, if pass then n else 0, if pass then layerTiles s b v - n else layerTiles s b v))
    let j : CompJob := ⟨c, k, q.id, 0, tiles (s.rd (Obj.canvHeight b)), vs, reads, fetched⟩
    let bufs := y.bufs.map (fun (r : CanvBuf) => if r.id = q.id then
        { r with tick := k + 1, bands := 0, analysed := 0, failed := !pass, content := composeContent s3 c pass shown, units := [] }
      else r)
    let s4 := s3.setCs c { y with bufs := bufs }
    let s5 := { s4 with cp := { s4.cp with jobs := AMap.put [] m (queue ++ [j]) s4.cp.jobs } }
    reads.foldl (fun t r => outRead t r.1 r.2 true) s5

/-- The composition's part of tick k (R253, R255, R257): the sets due, in ascending order. -/
def composeTick (s : State) (k instant : Nat) : State :=
  let s1 := ((enabledSets s).filter (fun c => setDue s c k)).foldl (tickSet k instant) s
  { s1 with cp := { s1.cp with checks := s1.cp.checks.filter (fun c => decide (k < c.tick)), tick := k + 1 } }

/-- A composition's band is written (R31, R252): the last one ends it. -/
def bandDone (s : State) (m : Nat) : State :=
  match AMap.get [] m s.cp.jobs with
  | [] => s
  | j :: rest =>
    let x := s.cs j.cset
    let s1 := s.setCs j.cset { x with bufs := x.bufs.map (fun (b : CanvBuf) => if b.id = j.buf then
      { b with bands := j.band + 1, units := b.units ++ bandUnits b.content j.band } else b) }
    if j.band + 1 < j.total then
      { s1 with cp := { s1.cp with jobs := AMap.put [] m ({ j with band := j.band + 1 } :: rest) s1.cp.jobs } }
    else
      let late := decide (tickTime (j.tick + 1) ≤ s.tod)
      let s2 := { s1 with cp := { s1.cp with jobs := AMap.put [] m rest s1.cp.jobs } }
      let s3 := j.canvs.foldl (fun t v =>
        let u := t.inc (Obj.composed v)
        if late then u.inc (Obj.canvLate v) else u) s2
      let s4 := j.fetched.foldl (fun t f => (t.wr (Obj.tilesFetched f.1) f.2.1).wr (Obj.tilesHidden f.1) f.2.2) s3
      let s5 := if late then s4.eventRated Ev.composeLate m m 0 else s4
      cleanSet (j.reads.foldl (fun t r => outRead t r.1 r.2 false) s5) j.cset

/-! ### Operator image checks (R260) -/

/-- The checks a tick needs under the settings in force at it: one for each image that a set due uses, but those already begun. -/
def checksFor (s : State) (k : Nat) : List OpCheck :=
  let t := ((tickCommits s).filter (fun d => decide (d.due ≤ tickTime k))).foldl (fun t d => withWrites t d.writes) s
  let used := (((enabledSets t).filter (fun c => setDue t c k)).map (fun c => t.rd (Obj.csetBase c))).filter
    (fun b => decide (t.rd (Obj.olEnable b) = 1))
  let imgs := (used.map (fun b => t.rd (Obj.olImage b) - 1)).eraseDups
  (imgs.filter (fun i => !s.cp.checks.any (fun c => decide (c.image = i) && decide (c.tick = k)))).map (fun i => ⟨i, k, none⟩)

/-- The checks for the next tick begin in the last 2 ms before it. -/
def checkStart (s : State) : State :=
  let k := s.tod * 3 / 50000000 + 1
  if tickTime k ≤ s.tod + 2 * ms then
    { s with cp := { s.cp with checks := s.cp.checks ++ checksFor s k } }
  else s

/-- The CRC-32C of an image that is held whole is its reference. -/
def opImageGood (s : State) (i : Nat) : Bool :=
  match s.opImage i with
  | some (img, intact) =>
    let header := octets 4 0x53494D47 ++ octets 2 img.width ++ octets 2 img.height ++ [b2n img.alpha] ++ List.replicate 55 0
    intact && decide (crc crc32c (header ++ img.pixels) = s.rd (Obj.operatorImageCrc i))
  | none => false

/-- The check of an image completes: its CRC-32C against the reference. -/
def checkDone (s : State) (i : Nat) : State :=
  let good := opImageGood s i
  { s with cp := { s.cp with checks := s.cp.checks.map (fun (c : OpCheck) =>
    if c.image = i ∧ c.result = none then { c with result := some good } else c) } }

/-! ### Layout programs (R261) -/

/-- An image of a sequencer program for a number from 0 to 63 (R194, R261, R277, R285). -/
def seqLoad (s : State) (cls : Nat) (ps : List (Nat × Option Image)) (i : Image) : Nat × List (Nat × Option Image) :=
  let a := verifyImage s cls i
  if a ≠ 0 then (a, ps) else if 64 ≤ i.number then (Abort.signature, ps) else (0, AMap.put none i.number (some i) ps)

/-- LAYOUT_LOAD. -/
def layoutLoad (s : State) (i : Image) : Nat × State :=
  let (a, ps) := seqLoad s 0x12 s.cp.programs i
  (a, { s with cp := { s.cp with programs := ps } })

/-- LAYOUT_UNLOAD: refused while a LayoutBinding names the program. -/
def layoutUnload (s : State) (n : Nat) : Nat × State :=
  let named := s.dict.any (fun e => decide (e.1 / 0x1000000 = 0x523001) && decide (e.2 = n))
  if (AMap.get none n s.cp.programs).isSome && named then (Abort.programInUse, s)
  else (0, { s with cp := { s.cp with programs := AMap.del n s.cp.programs } })

/-- LAYOUT_RUN: a run starts on the last speaker record of the set's conference, once per mix frame. -/
def layoutRun (s : State) (c : Nat) : State :=
  let x := s.cs c
  let conf := s.rd (Obj.lbConf c)
  match s.speech.find? (fun r => decide (r.1 = conf)) with
  | none => s
  | some (_, r) =>
    if (AMap.get none (s.rd (Obj.lbProgram c)) s.cp.programs).isSome ∧ (r.speakerChanged ∨ r.setChanged) ∧ x.run.isNone ∧
        x.layoutFrame ≠ r.frame + 1 then
      (s.setCs c { x with run := some s.dspUnits, layoutFrame := r.frame + 1 }).inc (Obj.layoutRuns c)
    else s

/-- The 200,000 sequencer cycles of a run (R261) in the units CLK_DSP is counted in: CLK_MEDIA, 1.6 GHz, slows with it (R393), so a
cycle of it is 30 of the units. -/
def layoutRunUnits : Nat := 200000 * 30

/-- LAYOUT_RUN_LIMIT: the run's writes are discarded. -/
def layoutLimit (s : State) (c : Nat) : State :=
  let x := s.cs c
  match x.run with
  | none => s
  | some t =>
    if t + layoutRunUnits ≤ s.dspUnits then (s.setCs c { x with run := none }).event Ev.layoutOverrun c 0 else s

/-- OPLAYER_CHECK_START (R260). -/
def execOplayerCheckStart (s : State) : Host.Outcome State Fault Refusal := .next (if s.engines then checkStart s else s)

/-- OPLAYER_CHECK_DONE (R260) for slot `i` (0 to 15). -/
def execOplayerCheckDone (i : Nat) (s : State) : Host.Outcome State Fault Refusal := .next (checkDone s i)

/-- COMPOSE_BAND_DONE (R31): composer `m` finishes a band. -/
def execComposeBandDone (m : Nat) (s : State) : Host.Outcome State Fault Refusal :=
  .next (if s.engines ∧ m < 4 then bandDone s m else s)

/-- LAYOUT_RUN (R261) of a set. -/
def execLayoutRun (c : Nat) (s : State) : Host.Outcome State Fault Refusal :=
  .next (if s.engines ∧ c < 1024 then layoutRun s c else s)

/-- LAYOUT_RUN_LIMIT (R261). -/
def execLayoutRunLimit (c : Nat) (s : State) : Host.Outcome State Fault Refusal :=
  .next (if c < 1024 then layoutLimit s c else s)

end Sys2Proof.Machine
end

