-- ==== Sys2Proof/Machine/Encode.lean ====
section
/-! DEFINITION. Video encode (spec/11): analysis contexts and their passes, renditions, rate control and the HRD, trellis
quantization, retirement of units. -/

namespace Sys2Proof.Machine

def ActxRt.idle : ActxRt := ⟨false, 0, false, 0, []⟩
def RctxRt.idle : RctxRt := {
  stage := .disabled, charge := 0, trellis := 0, poolOctets := 0, f60 := 0, drained := none, debt := 0, count := 0, pos := 0
  refs := [], askKey := false, askPli := false, deferred := false, barred := false, lastKey := none, periodic := false
  lastLtr := 0, ltrNext := false, lostSeen := 0, lastQp := 0, todo := [] }
def State.ax (s : State) (a : Nat) : ActxRt := AMap.get ActxRt.idle a s.en.actxs
def State.setAx (s : State) (a : Nat) (x : ActxRt) : State :=
  { s with en := { s.en with actxs := AMap.put ActxRt.idle a x s.en.actxs } }
def State.rx (s : State) (r : Nat) : RctxRt := AMap.get RctxRt.idle r s.en.rctxs
def State.setRx (s : State) (r : Nat) (x : RctxRt) : State :=
  { s with en := { s.en with rctxs := AMap.put RctxRt.idle r x s.en.rctxs } }

/-- Analysis queue of a context and bitstream queue of a rendition (Table 1.4). -/
def analysisQ (a : Nat) : Nat := 40960 + a
def bitQ (r : Nat) : Nat := 36864 + r

/-- Capacity of an analysis queue in granules: the manual states none; the model's choice. -/
def analysisQGranules : Nat := 16

/-- A hold on a canvas buffer taken or released (R245, R269). -/
def holdBuf (s : State) (c b : Nat) (take : Bool) : State :=
  let x := s.cs c
  let s1 := s.setCs c { x with bufs := x.bufs.map (fun (q : CanvBuf) =>
    if q.id = b then { q with holds := if take then q.holds + 1 else q.holds - 1 } else q) }
  if take then s1 else cleanSet s1 c

/-! ### Analysis contexts (R263 to R266) -/

/-- A field marked A while the context is ENABLED (R263). -/
def actxPre (s : State) (a : Nat) (amark : Bool) : Nat :=
  if amark ∧ s.rd (Obj.actxState a) = 1 then Abort.actxEnabled else 0

/-- A work item or a held post of some flow tags exists (R24). -/
def flowsHeld (s : State) (p : Nat → Bool) : Bool :=
  s.disp.items.any (fun w => p w.desc.flow) || s.disp.held.any (fun h => p h.desc.flow)

/-- The memory of a disabled context is freed once no ANALYSIS_ASSIST item refers to it (R24). -/
def actxQuiesce (s : State) (a : Nat) : State :=
  let x := s.ax a
  if x.on ∨ x.octets = 0 ∨ flowsHeld s (fun f => decide (f = flowTag 4 a)) then s else (s.unallot 5 x.octets).setAx a ActxRt.idle

/-- ACTX_ENABLE (R264). -/
def actxEnable (s0 : State) (a : Nat) : Nat × State :=
  let s := actxQuiesce s0 a
  let c := s.rd (Obj.actxCset a)
  if s.rd (Obj.actxState a) = 1 then (0, s)
  else if (s.ax a).octets ≠ 0 ∨ flowsHeld s (fun f => decide (f = flowTag 4 a)) then (Abort.notQuiescent, s)
  else if ¬ (c < 1024 ∧ s.rd (Obj.csetEnable c) = 1) ∨ (actxOf s c).isSome then (Abort.relation, s)
  else match findFront s a c with
    | none => (Abort.throughput, s)
    | some f =>
      if !s.room 5 (analysisOctets s c) then (Abort.partition, s)
      else
        let s1 := (s.allot 5 (analysisOctets s c)).setAx a ⟨true, analysisOctets s c, true, 0, []⟩
        let s2 := s1.setQ (analysisQ a) (Queue.fresh .backPressure analysisQGranules)
        (0, ((s2.wr (Obj.actxState a) 1).wr (Obj.actxFrontEnd a) f).wr (Obj.actxArea a) (analysisArea s c))

/-- The requests that wait in an analysis queue. -/
def analysisWaiting (s : State) (a : Nat) : List (Nat × Nat × Nat) :=
  (s.q (analysisQ a)).items.filterMap (fun i => match i.body with
    | .analysis c k b _ => some (c, k, b)
    | _ => none)

/-- ACTX_DISABLE (R264): the requests that wait and the pass in progress are given up; the memory is freed at quiescence (R24). -/
def actxDisable (s : State) (a : Nat) : Nat × State :=
  if s.rd (Obj.actxState a) = 0 then (0, s)
  else if (enabledRctx s).any (fun r => decide (s.rd (Obj.rctxActx r) = a)) then (Abort.relation, s)
  else
    let s1 := (analysisWaiting s a).foldl (fun t w => holdBuf t w.1 w.2.2 false) s
    let s2 := match s1.en.passes.find? (fun p => decide (p.1 = a)) with
      | some p => holdBuf { s1 with en := { s1.en with passes := AMap.del a s1.en.passes } } p.2.cset p.2.buf false
      | none => s1
    let s3 := (s2.setAx a { ActxRt.idle with octets := (s.ax a).octets }).setQ (analysisQ a) Queue.empty
    (0, actxQuiesce (((s3.wr (Obj.actxState a) 0).wr (Obj.actxFrontEnd a) 255).wr (Obj.actxArea a) 0) a)

def actxStateWrite (s : State) (a v : Nat) : Nat × State := if v = 1 then actxEnable s a else actxDisable s a

/-- The analysis memory after a commit became active (R264): what a smaller area no longer needs is free, and a changed area's
next pass decides every block as intra (R266). -/
def analysisActivate (s : State) (c : Nat) : State :=
  match actxOf s c with
  | none => s
  | some a =>
    let x := s.ax a
    let n := analysisOctets s c
    if n = x.octets then s
    else
      let s1 := if n < x.octets then s.unallot 5 (x.octets - n) else s
      s1.setAx a { x with octets := n, intraNext := true }

/-- A deferred tick commit becomes active, with the analysis contexts of its sets. -/
def activateTick (s : State) (k : Nat) (d : Deferred) : State := d.csets.foldl analysisActivate (activateCommit s k d)

/-! ### Renditions (R267, R268) -/

/-- A field marked A unless State reads DISABLED (R267). -/
def rctxPre (s : State) (r : Nat) (amark : Bool) : Nat :=
  if amark ∧ s.rd (Obj.rctxState r) ≠ 0 then Abort.rctxEnabled else 0

/-- Spatial and temporal layers of a rendition. -/
def spatialLayers (s : State) (r : Nat) : Nat := s.rd (Obj.rctxScalability r) / 16
def temporalLayers (s : State) (r : Nat) : Nat := s.rd (Obj.rctxScalability r) % 16

/-- The layers of a rendition, lowest first: rung, width, height (R268). -/
def layersOf (s : State) (r : Nat) : List (Nat × Nat × Nat) :=
  let n := spatialLayers s r
  let v := s.rd (Obj.rctxCanvas r)
  (List.range n).map (fun i =>
    let g := s.rd (Obj.rctxRung r) + n - 1 - i
    (g, s.rd (Obj.canvWidth v) / 2 ^ g, s.rd (Obj.canvHeight v) / 2 ^ g))

/-- Divider of the set a rendition belongs to. -/
def rctxDivider (s : State) (r : Nat) : Nat := max 1 (s.rd (Obj.csetDivider (s.rd (Obj.actxCset (s.rd (Obj.rctxActx r))))))

/-- Pixels of a rendition's picture, summed over its layers. -/
def layerPixels (ls : List (Nat × Nat × Nat)) : Nat := (ls.map (fun l => l.2.1 * l.2.2)).sum

/-- Charge of a rendition in kpix/s (R268). -/
def rctxCharge (s : State) (r : Nat) : Nat := ceilDiv (layerPixels (layersOf s r) * 60) (1000 * rctxDivider s r)

/-- Octets of the reference pools (R268, R225). -/
def rctxPool (s : State) (r : Nat) : Nat :=
  let b := if s.rd (Obj.rctxBitDepth r) = 8 then 1 else 2
  s.rd (Obj.refBuffers r) *
    ((layersOf s r).map (fun l => roundUp (roundUp l.2.1 64 * roundUp l.2.2 64 * (6 * b + 1) / 4) 65536)).sum

/-- The limits of a codec's levels up to 5.1: the level as signalled, luma samples of a picture, luma samples a second (the
codecs' own standards; R268 refers to them). -/
def levelTable (codec : Nat) : List (Nat × Nat × Nat) :=
  match codec with
  | 1 => [(10, 25344, 380160), (11, 101376, 768000), (12, 101376, 1536000), (13, 101376, 3041280), (20, 101376, 3041280),
      (21, 202752, 5068800), (22, 414720, 5184000), (30, 414720, 10368000), (31, 921600, 27648000), (32, 1310720, 55296000),
      (40, 2097152, 62914560), (42, 2228224, 133693440), (50, 5652480, 150994944), (51, 9437184, 251658240)]
  | 2 => [(30, 36864, 552960), (60, 122880, 3686400), (63, 245760, 7372800), (90, 552960, 16588800), (93, 983040, 33177600),
      (120, 2228224, 66846720), (123, 2228224, 133693440), (150, 8912896, 267386880), (153, 8912896, 534773760)]
  | _ => [(0, 147456, 4423680), (1, 278784, 8363520), (4, 665856, 19975680), (5, 1065024, 31950720), (8, 2359296, 70778880),
      (9, 2359296, 141557760), (12, 8912896, 267386880), (13, 8912896, 534773760)]

/-- Luma samples a level counts for a picture: H.264 counts whole macroblocks. -/
def levelSamples (codec w h : Nat) : Nat := if codec = 1 then roundUp w 16 * roundUp h 16 else w * h

/-- The lowest level whose limits a rendition meets, or none beyond Level 5.1. -/
def rctxLevel (s : State) (r : Nat) : Option Nat :=
  let codec := s.rd (Obj.rctxCodec r)
  match (layersOf s r).getLast? with
  | none => none
  | some (_, w, h) =>
    let n := levelSamples codec w h
    ((levelTable codec).find? (fun l => decide (n ≤ l.2.1) && decide (n * 60 ≤ l.2.2 * rctxDivider s r))).map Prod.fst

/-- QP bounds in force (Table 11.2). -/
def minQpOf (s : State) (r : Nat) : Nat :=
  if s.rd (Obj.minQp r) = 255 then (if s.rd (Obj.rctxCodec r) = 3 then 40 else 10) else s.rd (Obj.minQp r)
def maxQpOf (s : State) (r : Nat) : Nat :=
  if s.rd (Obj.maxQp r) = 255 then (if s.rd (Obj.rctxCodec r) = 3 then 220 else 48) else s.rd (Obj.maxQp r)

/-- SHORT buffers the temporal structure needs (R272). -/
def shortNeeds (s : State) (r : Nat) : Nat := if temporalLayers s r = 3 then 2 else 1

/-- The relations between fields that hold whenever the rendition is not DISABLED, and R272's on RefBuffers at any time. -/
def rctxPost (s : State) (r : Nat) : Nat :=
  let codec := s.rd (Obj.rctxCodec r)
  let qmax := if codec = 3 then 255 else 51
  if s.rd (Obj.recovery r) = 1 ∧ s.rd (Obj.refBuffers r) < shortNeeds s r + 2 then Abort.inconsistent
  else if s.rd (Obj.rctxState r) ≠ 0 ∧ (maxQpOf s r < minQpOf s r ∨ qmax < minQpOf s r ∨ qmax < maxQpOf s r ∨
      s.rd (Obj.maxBitrate r) < s.rd (Obj.targetBitrate r)) then Abort.inconsistent
  else 0

/-- Bands of a rendition's picture, lowest layer first: rung, band number in the layer, tiles of the band, whether it is the
layer's first. -/
def bandsOf (ls : List (Nat × Nat × Nat)) : List (Nat × Nat × Nat × Bool) :=
  ls.flatMap (fun l => (List.range (tiles l.2.2)).map (fun i => (l.1, i, tiles l.2.1, decide (i = 0))))

/-- The least a band can cost (R276). -/
def bandMin (kind : PicKind) (b : Nat × Nat × Nat × Bool) : Nat :=
  if kind = .key then 128 * b.2.2.1 + 256 + 2048 * b2n b.2.2.2 else 16 * b.2.2.1 + 256

/-- Imin and Kmin of a rendition (R276). -/
def leastCost (kind : PicKind) (ls : List (Nat × Nat × Nat)) : Nat := ((bandsOf ls).map (bandMin kind)).sum

/-- The checks of R268 that refuse with INCONSISTENT. -/
def rctxBad (s : State) (r : Nat) : Bool :=
  let codec := s.rd (Obj.rctxCodec r)
  let v := s.rd (Obj.rctxCanvas r)
  let g := s.rd (Obj.rctxRung r)
  let n := spatialLayers s r
  let unit := 2 ^ (g + n)
  let p := s.rd (Obj.rctxProfile r)
  let qmax := if codec = 3 then 255 else 51
  decide (codec = 0) || (decide (codec ≠ 3) && decide (1 < n)) || decide (2 < g + n - 1) ||
    decide (s.rd (Obj.canvWidth v) % unit ≠ 0) || decide (s.rd (Obj.canvHeight v) % unit ≠ 0) ||
    (decide (codec = 2) && decide (1 < p)) || (decide (codec = 3) && decide (0 < p)) ||
    (decide (s.rd (Obj.rctxBitDepth r) = 10) && !(decide (codec = 3) || (decide (codec = 2) && decide (p = 1)))) ||
    (rctxLevel s r).isNone || decide (maxQpOf s r < minQpOf s r) || decide (qmax < minQpOf s r) || decide (qmax < maxQpOf s r) ||
    decide (s.rd (Obj.maxBitrate r) < s.rd (Obj.targetBitrate r)) ||
    decide (s.rd (Obj.outputGranules r) * 256 < s.rd (Obj.hrdBuffer r) + 512) ||
    (decide (s.rd (Obj.recovery r) = 1) && decide (s.rd (Obj.refBuffers r) < shortNeeds s r + 2))

/-- The HRD conditions of R276. -/
def hrdBad (s : State) (r : Nat) : Bool :=
  let ls := layersOf s r
  decide (s.rd (Obj.maxBitrate r) * rctxDivider s r < 60 * leastCost .inter ls) ||
    decide (s.rd (Obj.hrdBuffer r) < 2 * leastCost .key ls)

/-- A Maten program is loaded under a number. -/
def programLoaded (s : State) (n : Nat) : Bool := decide (n < 1024) && (s.program n).isSome

/-- The pool of a disabled rendition is freed, and its queue once it is empty, when no back-end works on it (R24, R275). -/
def rctxQuiesce (s : State) (r : Nat) : State :=
  let x := s.rx r
  if x.stage = .closing ∧ ¬ s.en.backs.any (fun b => decide (b.2.rctx = r)) ∧ (s.q (bitQ r)).head.isNone ∧
      ¬ flowsHeld s (fun f => (decide (flowType f = 2) && decide (flowId f / 32 = r)) || decide (f = flowTag 5 r)) then
    ((s.unallot 5 x.poolOctets).setRx r RctxRt.idle).setQ (bitQ r) Queue.empty
  else s

/-- RCTX_ENABLE (R268, R275, R276). -/
def rctxEnable (s0 : State) (r : Nat) : Nat × State :=
  let s := rctxQuiesce s0 r
  let a := s.rd (Obj.rctxActx r)
  let v := s.rd (Obj.rctxCanvas r)
  let charge := rctxCharge s r
  let tr := if s.rd (Obj.rctxTier r) = 1 then 4 * charge else 0
  if s.rd (Obj.rctxState r) ≠ 0 then (0, s)
  else if (s.rx r).stage = .closing then (Abort.notQuiescent, s)
  else if ¬ (a < 1024 ∧ s.rd (Obj.actxState a) = 1 ∧ (canvasesOf s (s.rd (Obj.actxCset a))).contains v) then (Abort.relation, s)
  else if 16 ≤ ((enabledRctx s).filter (fun q => decide (s.rd (Obj.rctxCanvas q) = v))).length then (Abort.limit, s)
  else if rctxBad s r then (Abort.inconsistent, s)
  else if hrdBad s r then (Abort.hrdInfeasible, s)
  else if s.rd Obj.renditionBudget < s.rd Obj.renditionRateCommitted + charge then (Abort.throughput, s)
  else if tr ≠ 0 ∧ s.rd Obj.trellisBudget < s.rd Obj.trellisCommitted + tr then (Abort.throughput, s)
  else if tr ≠ 0 ∧ ¬ programLoaded s (s.rd Obj.trellisProgram) then (Abort.relation, s)
  else if !s.room 5 (rctxPool s r) then (Abort.partition, s)
  else
    let top := (layersOf s r).getLastD (0, 0, 0)
    let x : RctxRt := { RctxRt.idle with
      stage := .waitCanvas, charge := charge, trellis := tr, poolOctets := rctxPool s r, askKey := true, lastLtr := s.mono }
    let s1 := ((s.allot 5 (rctxPool s r)).setRx r x).setQ (bitQ r) (Queue.fresh .overwriteOldest (s.rd (Obj.outputGranules r)))
    let s2 := ((s1.wr (Obj.rctxState r) 2).wr Obj.renditionRateCommitted (s.rd Obj.renditionRateCommitted + charge)).wr
      Obj.trellisCommitted (s.rd Obj.trellisCommitted + tr)
    let s3 := (((s2.wr (Obj.rsWidth r) top.2.1).wr (Obj.rsHeight r) top.2.2).wr (Obj.rsCharge r) charge).wr (Obj.rsLevel r)
      ((rctxLevel s r).getD 0)
    (0, ((s3.wr (Obj.rsFullness r) 0).wr (Obj.rsDebt r) 0).wr (Obj.rsLtrAcked r) 0xFFFFFFFF)

/-- The waiting pictures of a rendition give their canvas buffers back, but one a back-end codes. -/
def dropTodo (s : State) (r : Nat) : State :=
  let x := s.rx r
  let busy := s.en.backs.any (fun b => decide (b.2.rctx = r))
  let keep := if busy then x.todo.take 1 else []
  let gone := if busy then x.todo.drop 1 else x.todo
  gone.foldl (fun t w => holdBuf t w.1 w.2.2 false) (s.setRx r { x with todo := keep })

/-- RCTX_DISABLE (R275). -/
def rctxDisable (s : State) (r : Nat) : State :=
  let x := s.rx r
  if x.stage = .waitCanvas ∨ x.stage = .running then
    let s1 := dropTodo (s.setRx r { x with stage := .closing, charge := 0, trellis := 0 }) r
    let s2 := ((s1.wr (Obj.rctxState r) 0).wr Obj.renditionRateCommitted (s1.rd Obj.renditionRateCommitted - x.charge)).wr
      Obj.trellisCommitted (s1.rd Obj.trellisCommitted - x.trellis)
    rctxQuiesce (s2.wr (Obj.rsCharge r) 0) r
  else s

def rctxStateWrite (s : State) (r v : Nat) : Nat × State := if v = 1 then rctxEnable s r else (0, rctxDisable s r)

/-! ### Feeds of a rendition, key requests (R273, R274) -/

/-- A leg's adaptation state. -/
def AdaptRt.idle : AdaptRt := ⟨[], [], 0, [], []⟩
def State.adapt (s : State) (l : Nat) : AdaptRt := AMap.get AdaptRt.idle l s.ad.legs
def State.setAdapt (s : State) (l : Nat) (x : AdaptRt) : State :=
  { s with ad := { s.ad with legs := AMap.put AdaptRt.idle l x s.ad.legs } }

/-- A feed's candidate entry (Table 12.3). -/
def candEntry (s : State) (l f i : Nat) : Nat := s.rd (Obj.feedCandidates f l) / 2 ^ (64 * i) % 2 ^ 64

/-- The rendition a candidate names. -/
def candRctx (c : Nat) : Option Nat := if c / 2 ^ 62 = 1 then some (bits c 48 12) else none

/-- The legs a rendition feeds: those one of whose feeds has it as the current candidate. -/
def fedLegs (s : State) (r : Nat) : List Nat :=
  ((s.ad.feeds.filter (fun e =>
    let l := e.1 / 4
    let f := e.1 % 4
    let c := s.rd (Obj.feedCurrent f l)
    decide (c < 8) && decide (candRctx (candEntry s l f c) = some r))).map (fun e => e.1 / 4)).eraseDups

/-- The newest LONG picture acknowledged for the rendition: by every leg it feeds (R274). -/
def ackedLong (s : State) (r : Nat) : Option Nat :=
  let legs := fedLegs s r
  (((s.rx r).refs.filter (fun b => b.long && legs.all (fun l =>
    (s.adapt l).ltrAcked.contains (r, b.number)))).map (fun b => b.number)).getLast?

/-- A key request (R273). `pli` says that it is a PLI, which recovery may serve under LTR. -/
def raiseKey (s : State) (r : Nat) (pli : Bool) : State :=
  let x := s.rx r
  if x.stage = .waitCanvas ∨ x.stage = .running then
    let s1 := s.inc (Obj.rcKeyRequests r)
    if pli && decide (s.rd (Obj.recovery r) = 1) then s1.setRx r { x with askPli := true }
    else s1.setRx r { x with askKey := true }
  else s

/-- PERIODIC_KEY_EXPIRY (R273). -/
def periodicKey (s : State) (r : Nat) : State :=
  let x := s.rx r
  let p := s.rd (Obj.periodicKey r)
  match x.lastKey with
  | some t => if p ≠ 0 ∧ x.stage = .running ∧ ¬ x.periodic ∧ t + p * ms ≤ s.tod then
      raiseKey (s.setRx r { x with periodic := true }) r false else s
  | none => s

/-- LTR_INTERVAL_EXPIRY (R274): the TL0 picture being coded, or the next one, is marked LONG. -/
def ltrExpiry (s : State) (r : Nat) : State :=
  let x := s.rx r
  if x.stage = .running ∧ s.rd (Obj.recovery r) = 1 ∧ x.lastLtr + s.rd (Obj.ltrInterval r) * ms ≤ s.mono then
    s.setRx r { x with ltrNext := true, lastLtr := s.mono }
  else s

/-- Pool memory lost in a quarantine (Table 11.4). -/
def rctxLost (s : State) (r : Nat) : State :=
  let x := s.rx r
  if x.stage = .running then s.setRx r { x with refs := [], barred := true, askKey := true } else s

/-- Restart on a new active (R275). -/
def rctxRestart (s : State) (r : Nat) : State :=
  let x := s.rx r
  if x.stage = .waitCanvas ∨ x.stage = .running then
    (((s.setRx r { x with stage := .waitCanvas, f60 := 0, drained := none, debt := 0, askKey := true, refs := [], lastKey := none }).wr
      (Obj.rctxState r) 2).wr (Obj.rsFullness r) 0).wr (Obj.rsDebt r) 0
  else s

/-! ### Analysis passes (R265) -/

/-- The encoder's part of a tick: contexts without a front-end are bound anew (R282); a set that was composed asks for a pass,
and for one that was not its renditions have no picture (R265). -/
def encodeTick (s : State) (k : Nat) : State :=
  let s1 := (enabledActx s).foldl (fun t a =>
    let f := t.rd (Obj.actxFrontEnd a)
    if f < 6 ∧ bit (t.rd Obj.frontEndsOnline) f then t
    else t.wr (Obj.actxFrontEnd a) ((findFront (t.wr (Obj.actxFrontEnd a) 255) a (t.rd (Obj.actxCset a))).getD 255)) s
  let due := (enabledActx s1).filter (fun a => setDue s1 (s1.rd (Obj.actxCset a)) k &&
    decide (s1.rd (Obj.csetEnable (s1.rd (Obj.actxCset a))) = 1))
  due.foldl (fun t a =>
    let c := t.rd (Obj.actxCset a)
    let job := (t.cp.jobs.flatMap (fun j => j.2)).find? (fun j => decide (j.cset = c) && decide (j.tick = k))
    let none_ := fun (u : State) => ((enabledRctx u).filter (fun r => decide (u.rd (Obj.rctxActx r) = a))).foldl
      (fun w r => w.inc (Obj.rcNoPicture r)) u
    match job with
    | none => none_ t
    | some j =>
      match t.push (analysisQ a) 64 (.analysis c k j.buf j.canvs) with
      | (.ok, u) => holdBuf u c j.buf true
      | (_, u) => none_ u) s1

/-- The pass each context is at or would start with: tick and context. -/
def passCands (s : State) (f : Nat) : List (Nat × Nat) :=
  (enabledActx s).filterMap (fun a =>
    if s.rd (Obj.actxFrontEnd a) ≠ f then none
    else match s.en.passes.find? (fun p => decide (p.1 = a)) with
      | some p => some (p.2.tick, a)
      | none => ((analysisWaiting s a).head?).map (fun w => (w.2.1, a)))

/-- The least of a list of pairs. -/
def leastPair : List (Nat × Nat) → Option (Nat × Nat)
  | [] => none
  | x :: r => match leastPair r with
    | some y => if x.1 < y.1 ∨ (x.1 = y.1 ∧ x.2 ≤ y.2) then some x else some y
    | none => some x

/-- The pass of a context at a tick. -/
def State.passAt (s : State) (a k : Nat) : Option PassRec := (s.ax a).recs.find? (fun p => decide (p.tick = k))

/-- Blocks of 8 × 8 across a canvas. -/
def blocksAcross (q : Composed) : Nat := ceilDiv q.width 8

/-- The decision of a canvas's block in a pass (R265): a block outside a variant's area is decided on the base. -/
def PassRec.decisionAt (p : PassRec) (v bx by_ : Nat) : Option Decision :=
  let of := fun (q : Composed) =>
    ((p.bands.find? (fun b => decide (b.1 = q.canv) && decide (b.2.1 = by_ / 8))).bind (fun b => b.2.2[by_ % 8 * blocksAcross q + bx]?)).join
  match (p.content.find? (fun q => decide (q.canv = v))).bind of with
  | some d => some d
  | none => p.content.head?.bind of

/-- All decisions of a pass. -/
def PassRec.all (p : PassRec) : List Decision := p.bands.flatMap (fun b => b.2.2.filterMap id)

/-- The most frequent of some vectors, of equally frequent ones the one that `n` picks. -/
def mostFrequent (vs : List (Int × Int)) (n : Nat) : Option (Int × Int) :=
  let top := vs.foldl (fun m v => max m (vs.count v)) 0
  let best := (vs.filter (fun v => decide (vs.count v = top))).eraseDups
  best[n % max 1 best.length]?

/-- The global-scroll vector (R266): the most frequent non-zero integer vector of the previous pass, if it held at least one eighth of
the blocks. -/
def scrollOf (p : PassRec) (n : Nat) : Option (Int × Int) :=
  let all := p.all
  let vs := (all.filter (fun d => d.inter && decide (d.vx % 4 = 0) && decide (d.vy % 4 = 0) && decide ((d.vx, d.vy) ≠ (0, 0)))).map
    (fun d => (d.vx, d.vy))
  (mostFrequent vs n).filter (fun v => decide (all.length ≤ 8 * vs.count v))

/-- A number from −r to r. -/
def within (r n : Nat) : Int := (n % (2 * r + 1) : Nat) - (r : Int)

/-- A component of a CAMERA vector in quarter samples (R266): ± range / 4 at level 2, doubled and refined by ± 2 at level 1 and again at
level 0, then by ± 3/4. -/
def cameraVector (range : Nat) (open_ : Nat → Nat) (n : Nat) : Int :=
  let v2 := within (range / 4) (open_ n)
  let v1 := 2 * v2 + within 2 (open_ (n + 1))
  let v0 := 2 * v1 + within 2 (open_ (n + 2))
  4 * v0 + within 3 (open_ (n + 3))

/-- The candidates of a CONTENT block (R266), those beyond the range dropped. -/
def contentCands (p : PassRec) (prev : Option PassRec) (v bx by_ : Nat) (near : List (Option Decision)) : List (Int × Int) :=
  let vec := fun (d : Option Decision) => (d.filter (fun x => x.inter)).map (fun x => (x.vx, x.vy))
  let all := near.map vec ++ [vec (prev.bind (fun q => q.decisionAt v bx by_)), p.scroll, some (0, 0)]
  let lim : Int := (4 * p.range : Nat)
  (all.filterMap id).filter (fun c => decide (-lim ≤ c.1) && decide (c.1 ≤ lim) && decide (-lim ≤ c.2) && decide (c.2 ≤ lim))

/-- The partition level of a block (R266): the largest aligned partition whose merge costs less. -/
def mergeLevel (open_ : Nat → Nat → Nat) (bx by_ : Nat) : Nat :=
  let merged := fun (l : Nat) => decide (open_ (20 + l) (by_ / 2 ^ l * 4096 + bx / 2 ^ l) % 2 = 1)
  if merged 3 then 3 else if merged 2 then 2 else if merged 1 then 1 else 0

/-- The decision of a block (R266). What the rule's metrics leave open is open; a merged block has its partition's decision. -/
def decideBlock (a : Nat) (p : PassRec) (prev : Option PassRec) (q : Composed) (done : List (Option Decision)) (bx by_ : Nat) : Decision :=
  let w := blocksAcross q
  let free := fun (n b : Nat) => Config.decision (p.number * 1024 + a) q.canv n b
  let level := mergeLevel free bx by_
  let origin := by_ / 2 ^ level * 2 ^ level % 8 * w + bx / 2 ^ level * 2 ^ level
  let me := by_ % 8 * w + bx
  match if origin < me then (done[origin]?).join else none with
  | some d => d
  | none =>
    let open_ := fun (n : Nat) => free n (by_ * w + bx)
    let near := [if bx = 0 then none else (done[me - 1]?).join,
      if by_ % 8 = 0 then (if by_ = 0 then none else p.decisionAt q.canv bx (by_ - 1)) else (done[me - w]?).join,
      if bx + 1 = w then none
      else if by_ % 8 = 0 then (if by_ = 0 then none else p.decisionAt q.canv (bx + 1) (by_ - 1)) else (done[me - w + 1]?).join]
    let cands := contentCands p prev q.canv bx by_ near
    let best := cands.getD (open_ 0 % max 1 cands.length) (0, 0)
    let vx := if p.scrolling then best.1 + within 19 (open_ 1) else cameraVector p.range open_ 2
    let vy := if p.scrolling then best.2 + within 19 (open_ 6) else cameraVector p.range open_ 7
    let inter := !p.allIntra && decide (open_ 11 % 2 = 1)
    { vx := if p.allIntra then 0 else vx, vy := if p.allIntra then 0 else vy, level := level, intra := open_ 12 % 10, inter := inter, cost := open_ 13 }

/-- The decisions of one band of a canvas: the whole base, a variant's delta tiles dilated (R264, R265). -/
def decideBand (a : Nat) (p : PassRec) (prev : Option PassRec) (base : Bool) (q : Composed) (band : Nat) : List (Option Decision) :=
  let w := blocksAcross q
  let area := if base then [] else dilate (tiles q.width) (tiles q.height) q.tiles
  (List.range (w * 8)).foldl (fun done i =>
    let bx := i % w
    let by_ := band * 8 + i / w
    done ++ [if base || area.contains (band * tiles q.width + bx / 8) then some (decideBlock a p prev q done bx by_) else none]) []

/-- A band of a pass is analysed (R265): the base's, then the variants'. -/
def analyseBand (a : Nat) (prev : Option PassRec) (band : Nat) (p : PassRec) : PassRec :=
  { p with bands := p.bands ++ p.content.zipIdx.map (fun q => (q.1.canv, band, decideBand a p prev (decide (q.2 = 0)) q.1 band)) }

/-- A sample of a canvas's rung picture (R265): each rung is the rounded mean of 2 × 2 blocks of the one before. -/
def rungSample (cs : List Composed) (v comp : Nat) : Nat → Nat → Nat → Nat
  | 0, x, y => contentSample cs v comp x y
  | r + 1, x, y => (rungSample cs v comp r (2 * x) (2 * y) + rungSample cs v comp r (2 * x + 1) (2 * y) +
      rungSample cs v comp r (2 * x) (2 * y + 1) + rungSample cs v comp r (2 * x + 1) (2 * y + 1) + 2) / 4

/-- A sample of a pass's analysis reference at a pyramid level (R266). DEDUCED: 8 bits hold no 256, so the value stops at 255. -/
def analysisSample (p : PassRec) (v level x y : Nat) : Nat := min 255 ((rungSample p.content v 0 level x y + 32) / 64)

/-- The records a context keeps when a pass begins: the last pass's, and those a rendition still reads. -/
def keptRecs (s : State) (a : Nat) : List PassRec :=
  let ticks := ((enabledRctx s).filter (fun r => decide (s.rd (Obj.rctxActx r) = a))).flatMap (fun r => (s.rx r).todo.map (fun w => w.2.1))
  let coding := s.en.backs.map (fun b => b.2.tick)
  ((s.ax a).recs.zipIdx.filter (fun (p : PassRec × Nat) => decide (p.2 = 0) || (ticks ++ coding).contains p.1.tick)).map Prod.fst

/-- The record of a pass that begins (R265, R266). -/
def beginRec (s : State) (a k : Nat) (content : List Composed) : State :=
  let x := s.ax a
  let prev := x.recs.head?
  let rungs := (enabledRctx s).filterMap (fun r =>
    if s.rd (Obj.rctxActx r) = a then some (s.rd (Obj.rctxCanvas r), s.rd (Obj.rctxRung r) + spatialLayers s r - 1) else none)
  let p : PassRec := {
    number := x.passes, tick := k, content := content, scrolling := decide (s.rd (Obj.searchClass a) = 1)
    range := s.rd (Obj.searchRange a), allIntra := x.intraNext || prev.isNone
    scroll := prev.bind (fun q => scrollOf q (Config.decision (x.passes * 1024 + a) 2048 0 0))
    rungs := rungs.filter (fun g => decide (0 < g.2)), bands := [] }
  s.setAx a { x with passes := x.passes + 1, recs := p :: keptRecs s a }

/-- A context's pass begins with the oldest request of its queue. -/
def startPass (s : State) (a : Nat) : State :=
  if s.en.passes.any (fun p => decide (p.1 = a)) then s
  else match (s.q (analysisQ a)).pop with
    | (some i, q) =>
      match i.body with
      | .analysis c k b vs =>
        let t0 := s.updQ (analysisQ a) q
        let content := (((t0.cs c).bufs.find? (fun x => decide (x.id = b))).map (fun x => x.content)).getD []
        let t := beginRec t0 a k content
        let total := tiles (t.rd (Obj.canvHeight (t.rd (Obj.csetBase c))))
        { t with en := { t.en with passes := AMap.ins a ⟨a, c, k, b, vs, 0, total⟩ t.en.passes } }
      | _ => s.updQ (analysisQ a) q
    | (none, _) => s

/-- The renditions of a context's canvases have a picture ready: the first band of their pass is analysed (R269). -/
def readyPictures (s : State) (p : Pass) : State :=
  ((enabledRctx s).filter (fun r => decide (s.rd (Obj.rctxActx r) = p.actx) && p.canvs.contains (s.rd (Obj.rctxCanvas r)))).foldl
    (fun t r => holdBuf (t.setRx r { t.rx r with todo := (t.rx r).todo ++ [(p.cset, p.tick, p.buf)] }) p.cset p.buf true) s

/-- ANALYSIS_BAND_DONE (R265): front-end `f` finishes a band that the composer has written. -/
def analysisBand (s0 : State) (f : Nat) : State :=
  match leastPair (passCands s0 f) with
  | none => s0
  | some (_, a) =>
    let s := startPass s0 a
    match s.en.passes.find? (fun p => decide (p.1 = a)) with
    | none => s
    | some (_, p) =>
      let written := ((s.cs p.cset).bufs.find? (fun b => decide (b.id = p.buf))).any (fun b => decide (p.band < b.bands))
      if !written then s
      else
        let q := { p with band := p.band + 1 }
        let x := s.cs p.cset
        let s0a := s.setCs p.cset { x with bufs := x.bufs.map (fun (b : CanvBuf) => if b.id = p.buf then { b with analysed := q.band } else b) }
        let y := s0a.ax a
        let s1 := match y.recs with
          | [] => s0a
          | cur :: older => s0a.setAx a { y with recs := analyseBand a older.head? p.band cur :: older }
        let s2 := if p.band = 0 then readyPictures s1 p else s1
        if q.band < q.total then { s2 with en := { s2.en with passes := AMap.ins a q s2.en.passes } }
        else
          let s3 := { s2 with en := { s2.en with passes := AMap.del a s2.en.passes } }
          let s4 := (s3.setAx a { s3.ax a with intraNext := false }).count (Obj.actxPasses a) p.canvs.length
          holdBuf s4 p.cset p.buf false

/-! ### Coding a picture (R269, R272 to R278) -/

/-- F drained to a tick (R276), in 1/60 bit. -/
def drainTo (s : State) (r k : Nat) : Nat :=
  let x := s.rx r
  match x.drained with
  | none => x.f60
  | some t => x.f60 - s.rd (Obj.maxBitrate r) * (k - t)

/-- The temporal layer at a place of the pattern (R272). -/
def patternTid (layers pos : Nat) : Nat :=
  if layers = 2 then pos % 2 else if layers = 3 then [0, 2, 1, 2].getD (pos % 4) 0 else 0

/-- The pictures a free back-end may take: tick and rendition (R269). -/
def backCands (s : State) : List (Nat × Nat) :=
  s.en.rctxs.filterMap (fun e =>
    if (e.2.stage = .waitCanvas ∨ e.2.stage = .running) ∧ ¬ s.en.backs.any (fun b => decide (b.2.rctx = e.1)) then
      (e.2.todo.head?).map (fun w => (w.2.1, e.1)) else none)

/-- What kind of picture a rendition codes at a tick, and whether a key or recovery picture is deferred (R273, R274, R276). -/
def pictureKind (s : State) (r k f60 : Nat) : PicKind × Bool :=
  let x := s.rx r
  let calm := match x.lastKey with
    | some t => decide (t + s.rd (Obj.keyMinInterval r) * ms ≤ tickTime k)
    | none => true
  let want := if x.askKey ∨ x.stage = .waitCanvas then some PicKind.key
    else if x.askPli then (if (ackedLong s r).isSome then some .recovery else some .key) else none
  match want with
  | none => (.inter, false)
  | some w =>
    if !calm then (.inter, false)
    else if f60 + 60 * leastCost .key (layersOf s r) ≤ 60 * s.rd (Obj.hrdBuffer r) then (w, false) else (.inter, true)

/-- The references a picture predicts from, the first first (R272, R274). -/
def refsFor (s : State) (r tid : Nat) (kind : PicKind) : List RefBuf :=
  let old := (s.rx r).refs.reverse
  match kind with
  | .key => []
  | .recovery => old.filter (fun b => b.long && decide (ackedLong s r = some b.number))
  | .inter => (old.filter (fun b => decide (b.tid < max 1 tid))).take 1

/-- The picture a back-end starts (R269, R276, R277). -/
def startedPicture (s : State) (r k c buf f60 : Nat) (kind : PicKind) (refs : List RefBuf) (tid : Nat) : BeJob := {
  rctx := r, cset := c, tick := k, buf := buf, started := s.mono, kind := kind, tid := tid
  layers := layersOf s r, band := 0, spent := 0, layerBits := (layersOf s r).map (fun g => (g.1, 0)), target := 0
  room60 := 60 * s.rd (Obj.hrdBuffer r) - f60
  qp := (s.rx r).lastQp, call := .start, trellis := none, minimal := false, fallback := false, refs := refs, blocks := []
  qpLow := minQpOf s r, qpHigh := maxQpOf s r, wait := s.rd (Obj.trellisWait r) }

/-- A rendition whose picture of a kind starts (R272, R273, R276); `late` says that a key or recovery picture is deferred. -/
def RctxRt.started (x : RctxRt) (kind : PicKind) (late : Bool) : RctxRt := { x with
  stage := .running
  deferred := late
  barred := false
  askKey := x.askKey && !decide (kind = .key)
  askPli := x.askPli && !decide (kind ≠ .inter)
  pos := if kind ≠ .inter then 0 else x.pos
  periodic := x.periodic && !decide (kind = .key) }

/-- Back-end `b` starts a rendition's picture of a kind (R269, R273). -/
def codePicture (s : State) (b r k c buf f60 : Nat) (kind : PicKind) (late : Bool) : State :=
  let x := s.rx r
  let tid := if kind ≠ .inter then 0 else patternTid (temporalLayers s r) x.pos
  let j := startedPicture s r k c buf f60 kind (refsFor s r tid kind) tid
  let s1 := if late && !x.deferred then s.inc (Obj.rcKeyDeferred r) else s
  let s2 := (s1.setRx r ({ x with f60 := f60, drained := some k }.started kind late)).wr (Obj.rctxState r) 3
  { s2 with en := { s2.en with backs := AMap.ins b j s2.en.backs } }

/-- A barred rendition's inter picture is not coded. -/
def skipPicture (s : State) (r k c buf f60 : Nat) (rest : List (Nat × Nat × Nat)) : State :=
  (holdBuf (s.setRx r { s.rx r with f60 := f60, drained := some k, todo := rest }) c buf false).inc (Obj.rcNoPicture r)

/-- RENDITION_PICTURE_START (R269): free back-end `b` takes the ready picture of the earliest tick. -/
def backStart (s : State) (b : Nat) : State :=
  if ¬ (b < 16 ∧ s.engines ∧ bit (s.rd Obj.backEndsOnline) b) ∨ s.en.backs.any (fun j => decide (j.1 = b)) then s
  else match leastPair (backCands s) with
    | none => s
    | some (k, r) =>
      match (s.rx r).todo with
      | [] => s
      | (c, _, buf) :: rest =>
        if (s.rx r).barred ∧ (pictureKind s r k (drainTo s r k)).1 ≠ .key then skipPicture s r k c buf (drainTo s r k) rest
        else codePicture s b r k c buf (drainTo s r k) (pictureKind s r k (drainTo s r k)).1 (pictureKind s r k (drainTo s r k)).2

/-- The picture of a back-end. -/
def State.backJob (s : State) (b : Nat) : Option BeJob := (s.en.backs.find? (fun j => decide (j.1 = b))).map Prod.snd
def State.setBack (s : State) (b : Nat) (j : BeJob) : State := { s with en := { s.en with backs := AMap.ins b j s.en.backs } }

/-- A QP clamped to the picture's bounds (R267, R277). -/
def BeJob.clampQp (j : BeJob) (qp : Nat) : Nat := max j.qpLow (min j.qpHigh qp)

/-- RC_PICTURE_START (R277): the program's target and the QP of band 0. -/
def rcStart (s : State) (b t qp : Nat) : State :=
  match s.backJob b with
  | some j => if j.call = .start then s.setBack b { j with target := t, qp := j.clampQp qp, call := .none } else s
  | none => s

/-- RC_BAND_END (R277): the QP of the next band. -/
def rcBand (s : State) (b qp : Nat) : State :=
  match s.backJob b with
  | some j => if j.call = .band then s.setBack b { j with qp := j.clampQp qp, call := .none } else s
  | none => s

/-- RC_CALL_LIMIT (R277): the call is abandoned; the picture goes on at the last QP returned. -/
def rcLimit (s : State) (b : Nat) : State :=
  match s.backJob b with
  | some j =>
    if j.call = .none then s
    else
      let r := j.rctx
      let s1 := (s.inc (Obj.rcOverrun r)).eventRated Ev.rcOverrun r r 0
      s1.setBack b { j with
        target := if j.call = .start then s.rd (Obj.maxBitrate r) * rctxDivider s r / 60 else j.target
        qp := j.clampQp j.qp
        call := .none }
  | none => s

/-- The analysis of a band's part of the canvas is complete (R31). -/
def bandAnalysed (s : State) (j : BeJob) : Bool :=
  match (bandsOf j.layers)[j.band]? with
  | none => false
  | some (g, i, _, _) =>
    let x := s.cs j.cset
    (x.bufs.find? (fun q => decide (q.id = j.buf))).any (fun q =>
      decide (min (tiles (s.rd (Obj.canvHeight (s.rd (Obj.csetBase j.cset))))) ((i + 1) * 2 ^ g) ≤ q.analysed))

/-- A sample as a rendition codes it (R270), of a 14-bit sample. -/
def codedSample (depth v : Nat) : Nat := if depth = 8 then min 255 ((v + 32) / 64) else min 1023 ((v + 8) / 16)

/-- The source of a rendition's layer (R268, R270): its canvas at the layer's rung, at the rendition's depth. -/
def sourceSample (s : State) (r : Nat) (cs : List Composed) (rung comp x y : Nat) : Nat :=
  codedSample (s.rd (Obj.rctxBitDepth r)) (rungSample cs (s.rd (Obj.rctxCanvas r)) comp rung x y)

/-- A residual sample (R270): the rendition's own source less the prediction from its own reconstructed references. -/
def residualSample (s : State) (r number : Nat) (cs : List Composed) (rung comp x y : Nat) : Int :=
  (sourceSample s r cs rung comp x y : Int) - Config.predicted r number comp ((rung * 4096 + y) * 4096 + x)

/-- The candidate a vector of the analysis gives for a reference `d` passes back at rung `g` (R270), a component in quarter samples: where
v × d / 2^g is not a whole number of quarters, the manual does not say which neighbour is taken. -/
def vectorCandidate (v : Int) (d g : Nat) : Int :=
  let n := v * (d : Int)
  n / (2 ^ g : Nat) + (if n % (2 ^ g : Nat) ≠ 0 ∧ Config.roundUp n g then 1 else 0)

/-- The largest block of a codec (R270: 16 × 16 for H264; the codecs' own standards beyond it). -/
def maxBlock (codec : Nat) : Nat := if codec = 1 then 16 else 64

/-- The intra modes of a codec, the most (the codecs' own standards). -/
def intraModes (codec : Nat) : Nat := if codec = 1 then 9 else if codec = 2 then 35 else 13

/-- The mapping of a decision onto a block of a rendition (R270). -/
def mapDecision (s : State) (j : BeJob) (pass : Nat) (d : Decision) (g size block : Nat) : BlockMode :=
  let r := j.rctx
  let codec := s.rd (Obj.rctxCodec r)
  let n := (s.rx r).count
  match j.refs.head? with
  | some b =>
    if d.inter then
      .inter b.number (vectorCandidate d.vx (pass - b.pass) g + within 16 (Config.refinement r n block 0))
        (vectorCandidate d.vy (pass - b.pass) g + within 16 (Config.refinement r n block 1))
    else .intra (Config.nearestMode codec size d.intra % intraModes codec)
  | none => .intra (Config.nearestMode codec size d.intra % intraModes codec)

/-- The blocks of one band of a layer (R270): the partitions of the analysis at the layer's rung, split to the codec's sizes; as minimal
coding (R278) every block of an inter band is skip from the first reference, and of a key band DC intra. A partition that falls below
8 × 8 at the rung shares its block with others; which decision that block takes is open. -/
def bandBlocks (s : State) (j : BeJob) (band : Nat × Nat × Nat × Bool) (minimal : Bool) : List CodedBlock :=
  let (g, i, _, _) := band
  let codec := s.rd (Obj.rctxCodec j.rctx)
  match j.layers.find? (fun l => decide (l.1 = g)), s.passAt (s.rd (Obj.rctxActx j.rctx)) j.tick with
  | some (_, w, h), some p =>
    let across := ceilDiv w 8
    ((List.range (across * 8)).filterMap (fun b =>
      let x := b % across * 8
      let y := i * 64 + b / across * 8
      let pick := Config.refinement j.rctx (s.rx j.rctx).count (y * 4096 + x) 2
      let at_ := fun (n : Nat) => p.decisionAt (s.rd (Obj.rctxCanvas j.rctx)) (x * 2 ^ g / 8 + n % 2 ^ g) (y * 2 ^ g / 8 + n / 2 ^ g % 2 ^ g)
      let size := fun (d : Decision) => min (maxBlock codec) (max 8 (8 * 2 ^ d.level / 2 ^ g))
      match at_ 0 with
      | none => none
      | some d0 =>
        let z := size d0
        if h ≤ y ∨ x % z ≠ 0 ∨ y % z ≠ 0 then none
        else
          let d := if z = 8 then (at_ pick).getD d0 else d0
          let mode := if minimal then
              match j.kind, j.refs.head? with
              | .key, _ => BlockMode.intra (if codec = 1 then 2 else if codec = 2 then 1 else 0)
              | _, some b => .skip b.number
              | _, none => .intra (if codec = 1 then 2 else if codec = 2 then 1 else 0)
            else mapDecision s j p.number d g z (y * 4096 + x)
          some ⟨g, x, y, z, mode, !minimal⟩))
  | _, _ => []

/-- What the bitstream signals (R270: video range, BT.709 primaries, transfer and matrix; R279). -/
def signalOf (s : State) (j : BeJob) : PicSignal := {
  depth := s.rd (Obj.rctxBitDepth j.rctx), fullRange := false, primaries := 1, transfer := 1, matrix := 1
  refs := j.refs.map (fun b => b.number)
  fromBelow := decide (s.rd (Obj.rctxCodec j.rctx) = 3) && decide (1 < j.layers.length)
  bandSlices := decide (s.rd (Obj.rctxTier j.rctx) = 1) }

/-- One band under the procedure of R278. -/
def codeBand (s : State) (b : Nat) (j : BeJob) (bb : BandBits) : State :=
  let r := j.rctx
  let bs := bandsOf j.layers
  let least := (bs[j.band]?.map (bandMin j.kind)).getD 0
  let rest := ((bs.drop (j.band + 1)).map (bandMin j.kind)).sum
  let top := j.qpHigh
  let qp := if j.target ≤ j.spent then top else j.qp
  let beyond := fun (n : Nat) => decide (j.room60 < 60 * (j.spent + n + rest))
  let bits0 := if qp = top then bb.maxQp else bb.program
  let again := beyond bits0 && decide (qp < top)
  let bits1 := if again then bb.maxQp else bits0
  let qp1 := if again then top else qp
  let min_ := beyond bits1
  let bits2 := if min_ then min bb.minimal least else bits1
  let s1 := if qp1 = top then s.inc (Obj.rcMaxQpBands r) else s
  let s2 := s1.count (Obj.rcRecodes r) (b2n again + b2n min_)
  let s3 := if min_ then (s2.inc (Obj.rcMinimalBands r)).eventRated Ev.encodeMinimal r r 0 else s2
  (s3.wr (Obj.rsLastQp r) qp1).setBack b { j with
    band := j.band + 1
    spent := j.spent + bits2
    layerBits := j.layerBits.map (fun g => if some g.1 = bs[j.band]?.map (fun q => q.1) then (g.1, g.2 + bits2) else g)
    qp := qp1
    call := if j.band + 1 < bs.length then .band else .none
    trellis := none
    minimal := j.minimal || min_
    blocks := j.blocks ++ ((bs[j.band]?.map (fun q => bandBlocks s j q min_)).getD []) }

/-- The number of a band's trellis item. -/
def trellisFlow (r band : Nat) : Nat := flowTag 2 (r * 32 + band % 32)

/-- RENDITION_BAND_CODE (R278, R279): the next band, its trial results given. In the QUALITY tier an inter picture's band first
goes to the Maten cores. -/
def bandCode (s : State) (b : Nat) (bb : BandBits) : State :=
  match s.backJob b with
  | none => s
  | some j =>
    if j.call ≠ .none ∨ j.trellis.isSome ∨ !bandAnalysed s j then s
    else if s.rd (Obj.rctxTier j.rctx) = 1 ∧ j.kind ≠ .key then
      let d : Descriptor := { engineDescriptor (trellisFlow j.rctx j.band) (s.rd Obj.trellisProgram) j.rctx j.band with
        arg0 := j.qp + 256 * (Config.rateMultiplier j.rctx j.qp % 0x1000000)
        arg1 := j.band }
      (s.setBack b { j with trellis := some (s.mono, bb) }).post 2 d (.trellis j.rctx j.band)
    else codeBand s b j bb

/-- A trellis item of a rendition's band, or a post of it that is held. -/
def trellisOut (s : State) (r band : Nat) : Bool :=
  s.disp.items.any (fun w => decide (w.job = .trellis r band)) || s.disp.held.any (fun h => decide (h.job = .trellis r band))

/-- The back-end quantizes the band itself (R280). -/
def trellisFallback (s : State) (b : Nat) (j : BeJob) (bb : BandBits) : State :=
  codeBand (s.inc (Obj.rcTrellisFallback j.rctx)) b { j with fallback := true } bb

/-- TRELLIS_RESULT (R280): the band's completion record has arrived with a status; 0 is DONE. -/
def trellisResult (s : State) (b status : Nat) : State :=
  match s.backJob b with
  | none => s
  | some j => match j.trellis with
    | none => s
    | some (_, bb) =>
      if trellisOut s j.rctx j.band then s
      else if status = 0 then codeBand s b j bb else trellisFallback s b j bb

/-- TRELLIS_WAIT_EXPIRY (R280): the band is withdrawn. -/
def trellisExpiry (s : State) (b : Nat) : State :=
  match s.backJob b with
  | none => s
  | some j => match j.trellis with
    | none => s
    | some (t, bb) =>
      if t + j.wait * 1000 ≤ s.mono then
        let s1 := { s with disp := { s.disp with held := s.disp.held.filter (fun (h : HeldPost) => decide (h.job ≠ Job.trellis j.rctx j.band)) } }
        trellisFallback (s1.withdraw 2 j.rctx j.band) b j bb
      else s

/-- The references after a picture (R272, R274). -/
def refsAfter (s : State) (r : Nat) (j : BeJob) (number : Nat) (mark : Bool) : List RefBuf :=
  let old := (s.rx r).refs
  let cur : RefBuf := ⟨number, j.tid, mark, ((s.passAt (s.rd (Obj.rctxActx r)) j.tick).map (fun p => p.number)).getD 0⟩
  let acked := ackedLong s r
  let kept : List RefBuf := match j.kind with
    | .key => []
    | .recovery => old.filter (fun b => b.long && decide (acked = some b.number))
    | .inter => old
  let longs := kept.filter (fun b => b.long)
  let longs1 := if mark then longs.filter (fun b => decide (acked = some b.number)) else longs
  let shorts := kept.filter (fun b => !b.long && decide (b.tid ≠ j.tid))
  let refd := decide (j.tid + 1 < temporalLayers s r) || decide (j.tid = 0)
  longs1 ++ shorts ++ (if refd then [cur] else [])

/-- Nanoseconds a back-end takes for a picture, at least (R269). -/
def pictureNs (j : BeJob) : Nat := ceilDiv (max (layerPixels j.layers) 40000) 2

/-- The bits of a finished picture (R276): those its bands spent, filled in CBR up to what a tick drains. -/
def pictureBits (s : State) (j : BeJob) : Nat :=
  let fill := if s.rd (Obj.rctxRcMode j.rctx) = 0 then
    ceilDiv (s.rd (Obj.maxBitrate j.rctx) * rctxDivider s j.rctx - ((s.rx j.rctx).f60 + 60 * j.spent)) 60 else 0
  j.spent + fill

/-- A finished picture is marked LONG (R274). -/
def marksLong (s : State) (j : BeJob) : Bool := (s.rx j.rctx).ltrNext && decide (j.tid = 0)

/-- The item of a finished picture (R271). -/
def pictureItem (s : State) (j : BeJob) : BitPic := {
  rctx := j.rctx, number := (s.rx j.rctx).count, tick := tickTime j.tick, key := decide (j.kind = PicKind.key), ltr := marksLong s j
  recovery := decide (j.kind = PicKind.recovery), minimal := j.minimal, fallback := j.fallback, temporal := j.tid
  spatial := j.layers.length - 1, bits := pictureBits s j
  layerBits := j.layerBits.map (fun g => g.2), signal := signalOf s j, blocks := j.blocks }

/-- A rendition after a picture (R272 to R277). -/
def rctxAfter (s : State) (j : BeJob) : RctxRt :=
  let x := s.rx j.rctx
  { x with
    f60 := x.f60 + 60 * pictureBits s j
    debt := x.debt + j.spent - j.target
    count := (x.count + 1) % 0x100000000
    pos := x.pos + 1
    refs := refsAfter s j.rctx j x.count (marksLong s j)
    lastKey := if j.kind = .inter then x.lastKey else some (tickTime j.tick)
    lastQp := j.qp
    ltrNext := x.ltrNext && !marksLong s j
    todo := x.todo.drop 1 }

/-- RENDITION_PICTURE_DONE (R271, R276): the access unit goes to the bitstream queue. -/
def backDone (s : State) (b : Nat) : State :=
  match s.backJob b with
  | none => s
  | some j =>
    let r := j.rctx
    if j.band ≠ (bandsOf j.layers).length ∨ s.mono < j.started + pictureNs j then s
    else
      let y := rctxAfter s j
      let s0 := s.setRx r y
      let s1 := { s0 with en := { s0.en with backs := AMap.del b s.en.backs } }
      let s2 := (s1.push (bitQ r) (64 + ceilDiv (pictureBits s j) 8) (.stream (pictureItem s j))).2
      let s3 := s2.inc (Obj.rcPictures r)
      let s4 := match j.kind with
        | .key => s3.inc (Obj.rcKeyPictures r)
        | .recovery => s3.inc (Obj.rcRecoveries r)
        | .inter => s3
      let s5 := ((s4.wr (Obj.rsFullness r) (y.f60 / 60)).wr (Obj.rsDebt r) (min y.debt 0xFFFFFFFF)).wr (Obj.rsLtrAcked r)
        ((ackedLong s4 r).getD 0xFFFFFFFF)
      rctxQuiesce (holdBuf s5 j.cset j.buf false) r

/-! ### Rate-control programs and unit errors (R277, R282) -/

/-- RC_LOAD. -/
def rcLoad (s : State) (i : Image) : Nat × State :=
  let (a, ps) := seqLoad s 0x13 s.en.programs i
  (a, if a = 0 then { s with en := { s.en with programs := ps, shipped := s.en.shipped && decide (i.number ≠ 0) } } else s)

/-- RC_UNLOAD: refused while an enabled rendition names the program. -/
def rcUnload (s : State) (n : Nat) : Nat × State :=
  let loaded := (AMap.get none n s.en.programs).isSome || (decide (n = 0) && s.en.shipped)
  if loaded && (enabledRctx s).any (fun r => decide (s.rd (Obj.rcProgram r) = n)) then (Abort.programInUse, s)
  else (0, { s with en := { s.en with programs := AMap.del n s.en.programs, shipped := s.en.shipped && decide (n ≠ 0) } })

/-- ENCODE_UNIT_ECC_ERROR (R282) of front-end or back-end `n`. -/
def encodeRetire (s : State) (front : Bool) (n : Nat) : State :=
  if front then
    if n < 6 ∧ bit (s.rd Obj.frontEndsOnline) n then
      let s1 := (s.wr Obj.frontEndsOnline (clrBit (s.rd Obj.frontEndsOnline) n)).event Ev.encodeFeRetired n 0
      let s2 := (enabledActx s1).foldl (fun t a => if t.rd (Obj.actxFrontEnd a) = n then t.wr (Obj.actxFrontEnd a) 255 else t) s1
      if s2.rd Obj.frontEndsOnline = 0 then s2.event Ev.encodeUnavailable 0 0 else s2
    else s
  else if n < 16 ∧ bit (s.rd Obj.backEndsOnline) n then
    let s1 := match s.backJob n with
      | some j =>
        let x := s.rx j.rctx
        let t := s.setRx j.rctx { x with
          askKey := x.askKey || decide (j.kind = PicKind.key)
          askPli := x.askPli || decide (j.kind = PicKind.recovery) }
        let u := { t with en := { t.en with backs := AMap.del n t.en.backs } }
        if j.trellis.isSome then u.withdraw 2 j.rctx j.band else u
      | none => s
    let s2 := (s1.wr Obj.backEndsOnline (clrBit (s1.rd Obj.backEndsOnline) n)).event Ev.encodeBeRetired n 0
    if s2.rd Obj.backEndsOnline = 0 then s2.event Ev.encodeUnavailable 1 0 else s2
  else s

def execAnalysisBandDone (f : Nat) (s : State) : Host.Outcome State Fault Refusal :=
  .next (if s.engines ∧ f < 6 ∧ bit (s.rd Obj.frontEndsOnline) f then analysisBand s f else s)
def execRenditionPictureStart (b : Nat) (s : State) : Host.Outcome State Fault Refusal := .next (backStart s b)

/-- RENDITION_BAND_CODE (R278): the band's bits at the program's QP, at MaxQp and as minimal coding. -/
def execRenditionBandCode (b program maxQp minimal : Nat) (s : State) : Host.Outcome State Fault Refusal :=
  .next (bandCode s b ⟨program, maxQp, minimal⟩)
def execRcPictureStart (b t qp : Nat) (s : State) : Host.Outcome State Fault Refusal := .next (rcStart s b t qp)
def execRcBandEnd (b qp : Nat) (s : State) : Host.Outcome State Fault Refusal := .next (rcBand s b qp)
def execRcCallLimit (b : Nat) (s : State) : Host.Outcome State Fault Refusal := .next (rcLimit s b)
def execPeriodicKeyExpiry (r : Nat) (s : State) : Host.Outcome State Fault Refusal :=
  .next (if r < 4096 then periodicKey s r else s)
def execLtrIntervalExpiry (r : Nat) (s : State) : Host.Outcome State Fault Refusal :=
  .next (if r < 4096 then ltrExpiry s r else s)
def execTrellisResult (b status : Nat) (s : State) : Host.Outcome State Fault Refusal := .next (trellisResult s b status)
def execTrellisWaitExpiry (b : Nat) (s : State) : Host.Outcome State Fault Refusal := .next (trellisExpiry s b)
def execEncodeUnitEccError (front : Bool) (n : Nat) (s : State) : Host.Outcome State Fault Refusal :=
  .next (if s.engines then encodeRetire s front n else s)

end Sys2Proof.Machine
end

