-- ==== Sys2Proof/Machine/Adapt.lean ====
section
/-! DEFINITION. Adaptation, forwarding and shaping (spec/12). -/

namespace Sys2Proof.Machine

/-! ### Feeds and candidates (R284, R285) -/

/-- A feed that has just left OFF. -/
def FeedRt.idle : FeedRt := ⟨0, 0, false, 0, 0, 0, 0, 0, 0, none, 0, false, 0, 0, [], false, []⟩
def State.feed (s : State) (l f : Nat) : FeedRt := (AMap.get (none : Option FeedRt) (l * 4 + f) (s.ad.feeds.map (fun e => (e.1, some e.2)))).getD FeedRt.idle
def State.setFeed (s : State) (l f : Nat) (x : FeedRt) : State :=
  { s with ad := { s.ad with feeds := AMap.ins (l * 4 + f) x s.ad.feeds } }
def State.hasFeed (s : State) (l f : Nat) : Bool := s.ad.feeds.any (fun e => decide (e.1 = l * 4 + f))

/-- Fields of a candidate (Table 12.3). -/
def candKind (c : Nat) : Nat := c / 2 ^ 62
def candLeg (c : Nat) : Nat := bits c 43 17
def candRx (c : Nat) : Nat := bits c 40 3
def candMaxS (c : Nat) : Nat := bits c 38 2
def candMaxT (c : Nat) : Nat := bits c 35 3
def candRate (c : Nat) : Nat := bits c 0 32

/-- A stream: a source leg's receive entry, or a rendition. -/
inductive Stream | forward (leg entry : Nat) | rendition (r : Nat) | none
deriving DecidableEq, Repr

/-- The stream a candidate names. -/
def candStream (c : Nat) : Stream :=
  match candKind c with
  | 1 => .rendition (bits c 48 12)
  | 2 => .forward (candLeg c) (candRx c)
  | _ => .none

/-- A candidate may be offered (R285): its source leg is ACTIVE, its rendition RUNNING. -/
def candAvailable (s : State) (c : Nat) : Bool :=
  match candStream c with
  | .forward l _ => s.legActive l
  | .rendition r => decide ((s.rx r).stage = .running)
  | .none => false

/-- A candidate list passes the checks of R285. -/
def candidatesOk (s : State) (l f : Nat) : Bool :=
  (List.range 8).all (fun i =>
    let c := candEntry s l f i
    match candStream c with
    | .rendition r => decide (s.rd (Obj.rctxCodec r) = s.rd (Obj.feedCodec f l))
    | .forward m e => decide (s.rd (Obj.rxKind e m) = 2)
    | .none => decide (candKind c = 0))

/-- A feed lists an entry of a kind. -/
def feedLists (s : State) (l f k : Nat) : Bool := (List.range 8).any (fun i => decide (candKind (candEntry s l f i) = k))

/-- The legs one of whose feeds lists an entry of a kind (R285). DESIGN CHOICE: R285 does not say whether a feed in Mode OFF lists its
Candidates; the checks stand where Mode leaves OFF, and only a feed that is not OFF counts here. -/
def legsListing (s : State) (k : Nat) : List Nat :=
  ((s.ad.feeds.filter (fun e => decide (s.rd (Obj.feedMode (e.1 % 4) (e.1 / 4)) ≠ 0) && feedLists s (e.1 / 4) (e.1 % 4) k)).map
    (fun e => e.1 / 4)).eraseDups

/-- Feeds in ADAPT (Mode 1, Table 12.2). -/
def adaptiveFeeds (s : State) : Nat :=
  (s.ad.feeds.filter (fun e => decide (s.rd (Obj.feedMode (e.1 % 4) (e.1 / 4)) = 1))).length

/-- The current candidate of a feed, 255 for none: one that has become unavailable is current no more (R285). -/
def currentCand (s : State) (l f : Nat) : Nat :=
  let cur := s.rd (Obj.feedCurrent f l)
  if cur < 8 ∧ candAvailable s (candEntry s l f cur) then cur else 255

/-- A field marked A while the feed's Mode is not OFF (R284). -/
def feedPre (s : State) (l f : Nat) (amark : Bool) : Nat :=
  if amark ∧ s.rd (Obj.feedMode f l) ≠ 0 then Abort.feedActive else 0

/-- Selection of a candidate (R288): pending until its point comes, cleared when it is the current one. -/
def selectCand (s : State) (l f i : Nat) : State :=
  let cur := currentCand s l f
  let pend := s.rd (Obj.feedPending f l)
  let x := s.feed l f
  if i = cur then s.wr (Obj.feedPending f l) 255
  else
    let same := decide (pend < 8) && decide (candStream (candEntry s l f pend) = candStream (candEntry s l f i))
    let s1 := s.wr (Obj.feedPending f l) i
    if same then s1 else s1.setFeed l f { x with pendingAt := s.mono, lastAsk := s.mono }

/-- FeedsAdaptive follows the feeds. -/
def countFeeds (s : State) : State := s.wr Obj.feedsAdaptive (adaptiveFeeds s)

/-- FEED_MODE_WRITE (R285). -/
def feedModeWrite (s : State) (l f v : Nat) : Nat × State :=
  let old := s.rd (Obj.feedMode f l)
  let x := s.feed l f
  if v = 0 then
    let s1 := (s.wr (Obj.feedMode f l) 0).wr (Obj.feedPending f l) 255
    if s.rd (Obj.feedCurrent f l) < 8 then (0, countFeeds (s1.setFeed l f { x with stopping := true }))
    else (0, countFeeds { s1 with ad := { s1.ad with feeds := AMap.del (l * 4 + f) s1.ad.feeds } })
  else if old = 0 ∧ ¬ candidatesOk s l f then (Abort.inconsistent, s)
  else if v = 1 ∧ old ≠ 1 ∧ 32768 ≤ adaptiveFeeds s then (Abort.limit, s)
  else if old = 0 ∧ ((feedLists s l f 2 ∧ ¬ (legsListing s 2).contains l ∧ 32768 ≤ (legsListing s 2).length) ∨
      (feedLists s l f 1 ∧ ¬ (legsListing s 1).contains l ∧ 8192 ≤ (legsListing s 1).length)) then (Abort.limit, s)
  else
    let s1 := s.wr (Obj.feedMode f l) v
    let s2 := if old = 0 then
        let fresh : FeedRt := { FeedRt.idle with
          nextTick := s.mono + 100 * ms
          lastMove := s.mono
          lastTs := x.lastTs
          lastAt := x.lastAt
          tsOffset := x.tsOffset }
        ((s1.setFeed l f fresh).wr (Obj.feedCurrent f l) 255).wr (Obj.feedPending f l) 255
      else s1
    let s3 := if v = 1 ∧ s2.rd (Obj.estimate l) = 0 then s2.wr (Obj.estimate l) (s2.rd (Obj.startRate l)) else s2
    (0, countFeeds s3)

/-- FEED_FIXED_SELECT (R285): a FixedIndex write, a selection in FIXED mode. -/
def feedFixedWrite (s : State) (l f i : Nat) : State :=
  let s1 := s.wr (Obj.feedFixedIndex f l) i
  if s.rd (Obj.feedMode f l) = 2 ∧ candKind (candEntry s l f i) ≠ 0 then selectCand s1 l f i else s1

/-! ### Key requests (R289, R290) -/

/-- A key request for a stream; `pli` a PLI that a rendition may serve with a recovery picture. -/
def askStream (s : State) (st : Stream) (pli : Bool) : State :=
  match st with
  | .rendition r => raiseKey s r pli
  | .forward l e => if s.legActive l then (s.askKey l e).2 else s
  | .none => s

/-- SWITCH_KEY_WAIT_EXPIRY (R289). -/
def switchExpiry (s : State) (l f : Nat) : State :=
  let x := s.feed l f
  let pend := s.rd (Obj.feedPending f l)
  if s.hasFeed l f ∧ pend < 8 ∧ x.lastAsk + 500 * ms ≤ s.mono then
    askStream ((s.inc (Obj.feedKeyWait f l)).setFeed l f { x with lastAsk := s.mono }) (candStream (candEntry s l f pend)) false
  else s

/-- The feed whose send SSRC feedback names. -/
def feedOfSsrc (s : State) (l ssrc : Nat) : Option Nat :=
  (List.range 4).find? (fun f => s.hasFeed l f && decide (s.rd (Obj.txSsrc (s.rd (Obj.feedTxEntry f l)) l) = ssrc))

/-- A PLI or FIR from a leg routed (R290). -/
def routeKey (s : State) (l ssrc : Nat) (pli : Bool) : State :=
  match feedOfSsrc s l ssrc with
  | none => s
  | some f =>
    let pend := s.rd (Obj.feedPending f l)
    let cur := currentCand s l f
    if pend < 8 then askStream s (candStream (candEntry s l f pend)) false
    else if cur < 8 then askStream s (candStream (candEntry s l f cur)) pli
    else s

/-! ### Forwarding (R287, R291) -/

/-- The layers of a packet of a forwarded stream, of the codec its feed asserts (Table 12.4): frame marking for H.264; for H.265 frame
marking with the switching points its NAL headers show, else those headers; for AV1 the dependency descriptor, else the OBU headers. -/
def layerIn (s : State) (m codec : Nat) (p : Rtp) : LayerInfo :=
  match codec with
  | 1 => (frameMarkOf s m p).getD LayerInfo.none
  | 2 => match frameMarkOf s m p with
    | some x => { x with switching := x.switching || p.layer.switching }
    | none => p.layer
  | _ => (depDescOf s m p).getD p.layer

/-- The extensions a forwarded packet leaves with (R291): frame marking and dependency descriptor under the receiving leg's ids. -/
def carriedExts (s : State) (src l : Nat) (p : Rtp) : List HdrExt :=
  p.exts.filterMap (fun e => match e.body with
    | .frameMark _ => if src < 131072 ∧ e.id = s.rd (Obj.rxFrameMarkId src) ∧ s.rd (Obj.txFrameMarkId l) ≠ 0 then
        some { e with id := s.rd (Obj.txFrameMarkId l) } else none
    | .depDesc _ => if src < 131072 ∧ e.id = s.rd (Obj.rxDepDescId src) ∧ s.rd (Obj.txDepDescId l) ≠ 0 then
        some { e with id := s.rd (Obj.txDepDescId l) } else none
    | _ => none)

/-- A selection within the stream takes effect with this access unit (Table 12.5). -/
def withinStream (x : FeedRt) (c : Nat) (p : Rtp) : Bool :=
  let upS := decide (x.maxS < candMaxS c)
  let upT := decide (x.maxT < candMaxT c)
  if !upS && !upT then true
  else p.key || (p.layer.targetSwitch && p.layer.known) ||
    (!upS && p.layer.known && p.layer.switching && (decide (candKind c = 1) || decide (p.layer.temporal ≤ candMaxT c)))

/-- A packet's layers lie within the limits in force; a stream without layer ids is forwarded whole (R286). -/
def withinLimits (x : FeedRt) (p : Rtp) : Bool :=
  !p.layer.known || (decide (p.layer.spatial ≤ x.maxS) && decide (p.layer.temporal ≤ x.maxT))

/-- The candidate becomes current. -/
def makeCurrent (s : State) (l f i : Nat) (x : FeedRt) : State :=
  let c := candEntry s l f i
  (((s.setFeed l f { x with maxS := candMaxS c, maxT := candMaxT c }).wr (Obj.feedCurrent f l) i).wr (Obj.feedPending f l) 255).inc
    (Obj.feedSwitches f l)

/-- The timestamp offset at a stream switch (R291). -/
def switchOffset (s : State) (l f ts arrival : Nat) : Nat :=
  let x := s.feed l f
  let off := (s.txE l (s.rd (Obj.feedTxEntry f l))).offset
  if x.lastAt = 0 then off
  else
    let next := x.lastTs + max 1 ((arrival - (x.lastAt - 1)) * 90000 / 1000000000)
    (next + 2 ^ 33 - ts % 2 ^ 32) % 2 ^ 32

/-- A kept packet leaves on the feed's send entry (R291). -/
def feedSend (s : State) (l f : Nat) (p : Rtp) (arrival srcLeg srcEntry srcSeq : Nat) : State :=
  let e := s.rd (Obj.feedTxEntry f l)
  let x := s.feed l f
  let ts := (p.ts + x.tsOffset) % 2 ^ 32
  let last := p.marker || (p.layer.known && p.layer.endOfFrame && decide (p.layer.spatial = x.maxS))
  let s1 := s.setFeed l f { x with
    lastTs := ts
    lastAt := arrival + 1
    sentRate := (x.sentRate.filter (fun r => decide (s.mono ≤ r.1 + 500 * ms))) ++ [(s.mono, p.octets)] }
  s1.sendRtp {
    leg := l, entry := e, rtcp := [], pt := s.rd (Obj.txPt e l), marker := last, seq := 0, ts := ts
    ssrc := s.rd (Obj.txSsrc e l), octets := p.octets, frameLen := 0, index := 0, twcc := none, prot := none, audio := []
    padding := false, srcLeg := srcLeg, srcEntry := srcEntry, srcSeq := srcSeq, resent := 0, exts := carriedExts s srcLeg l p }

/-- One packet of a stream judged by one feed (R287, R288, R291); `start` tells the first packet of an access unit. -/
def forwardTo (s : State) (l f : Nat) (st : Stream) (p : Rtp) (start : Bool) (arrival srcLeg srcEntry srcSeq : Nat) : State :=
  let cur := s.rd (Obj.feedCurrent f l)
  let pend := s.rd (Obj.feedPending f l)
  let cc := candEntry s l f cur
  let pc := candEntry s l f pend
  let onCur := decide (cur < 8) && decide (candStream cc = st)
  let onPend := decide (pend < 8) && decide (candStream pc = st)
  let x := s.feed l f
  if !(onCur || onPend) then s
  else if onCur && !candAvailable s cc then s.wr (Obj.feedCurrent f l) 255
  else if onCur then
    if start && x.stopping then
      { (s.wr (Obj.feedCurrent f l) 255) with ad := { s.ad with feeds := AMap.del (l * 4 + f) s.ad.feeds } }
    else
      let s1 := if start && onPend && withinStream x pc p then makeCurrent s l f pend x else s
      if withinLimits (s1.feed l f) p then feedSend s1 l f p arrival srcLeg srcEntry srcSeq else s1
  else
    if start && (p.key || (p.layer.known && p.layer.independent)) then
      let s1 := makeCurrent s l f pend { x with tsOffset := switchOffset s l f p.ts arrival }
      if withinLimits (s1.feed l f) p then feedSend s1 l f p arrival srcLeg srcEntry srcSeq else s1
    else s

/-- A packet of a leg's entry goes to every feed that has it as current or pending candidate. -/
def forwardAll (s : State) (m e : Nat) (p : Rtp) (start : Bool) (arrival : Nat) : State :=
  (s.ad.feeds.map Prod.fst).foldl (fun t k =>
    forwardTo t (k / 4) (k % 4) (.forward m e) { p with layer := layerIn t m (t.rd (Obj.feedCodec (k % 4) (k / 4))) p } start arrival m e p.seq) s

/-- Copies of a stream's packet to the devices that subscribe to it (R344); kind 1 a leg's entry, 2 a rendition. -/
def mediaCopies (s : State) (kind id entry : Nat) (m : MediaPkt) : State :=
  (s.fb.subs.filter (fun b => decide (b.kind = kind) && decide (b.id = id) && (decide (kind = 2) || decide (b.entry = entry)))).foldl
    (fun t b => t.fabSend b.fdev (.media b.leg m)) s

/-- A rendition's packet, before a feed rewrites it. -/
def bitRtp (b : BitPic) (seq octets : Nat) (marker first : Bool) : Rtp := {
  pt := 0, marker := marker, seq := seq, ts := rtpTime b.tick 90000 0, ssrc := 0, octets := octets, osn := none
  layer := ⟨true, 0, b.temporal, decide (b.temporal ≠ 0), b.key, decide (b.temporal ≠ 0), marker⟩
  key := b.key && first, audio := none, video := none, prot := none }

/-- The payload sizes of an access unit cut into packets of at most `room` octets. -/
def cutSizes (octets room : Nat) : List Nat :=
  let n := max 1 (ceilDiv octets (max 1 room))
  (List.range n).map (fun i => if i + 1 = n then octets - i * room else room)

/-- A LONG picture's packets, as a leg sent them, wait for acknowledgement (R274). -/
def noteLtr (s : State) (l f : Nat) (b : BitPic) (n : Nat) : State :=
  let e := s.rd (Obj.feedTxEntry f l)
  let ps := (s.txE l e).sent.take n
  let w : LtrWait := ⟨b.rctx, b.number, e, ps.filterMap (fun p => p.twcc), ((ps.head?).map (fun p => p.seq)).getD 0, false⟩
  let x := s.adapt l
  s.setAdapt l { x with ltrWait := (x.ltrWait ++ [w]).reverse.take 16 |>.reverse }

/-- A rendition's item packetised for one feed (R127, R287, R291). -/
def packetiseFor (b : BitPic) (s : State) (k : Nat) : State :=
  let l := k / 4
  let f := k % 4
  let st := Stream.rendition b.rctx
  let on := fun (t : State) (i : Nat) => decide (i < 8) && decide (candStream (candEntry t l f i) = st)
  if !(on s (s.rd (Obj.feedCurrent f l)) || on s (s.rd (Obj.feedPending f l))) then s
  else
    let cur := s.rd (Obj.feedCurrent f l)
    let pend := s.rd (Obj.feedPending f l)
    let x := s.feed l f
    let first := bitRtp b 0 0 false true
    let limit := if on s pend && (if on s cur then withinStream x (candEntry s l f pend) first else b.key)
      then candMaxS (candEntry s l f pend) else x.maxS
    let total := (b.layerBits.take (limit + 1)).sum
    let octs := ceilDiv (if b.layerBits.length ≤ limit + 1 then b.bits else total) 8
    let sizes := cutSizes octs (s.payloadRoom l [])
    let before := (s.txE l (s.rd (Obj.feedTxEntry f l))).packets
    let s1 := (sizes.mapIdx (fun i n => (i, n))).foldl (fun t q =>
      forwardTo t l f st (bitRtp b q.1 q.2 (decide (q.1 + 1 = sizes.length)) (decide (q.1 = 0))) (decide (q.1 = 0)) s.mono
        (131072 + b.rctx) 0 b.number) s
    let sent := ((s1.txE l (s1.rd (Obj.feedTxEntry f l))).packets + 2 ^ 32 - before) % 2 ^ 32
    if b.ltr ∧ sent ≠ 0 then noteLtr s1 l f b sent else s1

/-- The items of a bitstream queue packetised for every leg fed (R271, Table 1.9 T10); a rise of Lost is a key request. -/
def packetise (s : State) (r : Nat) : Nat → State
  | 0 => s
  | n + 1 =>
    match (s.q (bitQ r)).pop with
    | (some i, q) =>
      match i.body with
      | .stream b =>
        let s1 := s.updQ (bitQ r) q
        let s2 := (s1.ad.feeds.map Prod.fst).foldl (packetiseFor b) s1
        let sizes := cutSizes (ceilDiv b.bits 8) 1188
        let s3 := (sizes.mapIdx (fun i n => (i, n))).foldl (fun t p =>
          mediaCopies t 2 r 0 (.fromRctx r (bitRtp b (b.number * 4096 + p.1) p.2 (decide (p.1 + 1 = sizes.length)) (decide (p.1 = 0))))) s2
        let kept := s3.ad.kept ++ [(r, b.number, i.gran)]
        packetise { s3 with ad := { s3.ad with kept := kept } } r n
      | _ => packetise (s.updQ (bitQ r) q) r n
    | (none, _) => s

/-- Items packetised before whose granules the queue has not written over (R291): the newest whose sizes fit the capacity. -/
def keepHeld (cap r : Nat) (kept : List (Nat × Nat × Nat)) : List (Nat × Nat × Nat) :=
  (kept.foldr (fun k (acc : Nat × List (Nat × Nat × Nat)) =>
    if k.1 ≠ r then (acc.1, k :: acc.2)
    else if acc.1 + k.2.2 ≤ cap then (acc.1 + k.2.2, k :: acc.2) else (cap + 1, acc.2)) (0, [])).2

/-- The leg engine takes what a rendition has queued. -/
def takeItems (s : State) (r : Nat) : State :=
  let x := s.rx r
  let lost := (s.q (bitQ r)).lost
  let s1 := if x.lostSeen < lost then raiseKey (s.setRx r { x with lostSeen := lost }) r false else s
  let s2 := packetise s1 r (s1.q (bitQ r)).items.length
  rctxQuiesce { s2 with ad := { s2.ad with kept := keepHeld (s2.q (bitQ r)).cap r s2.ad.kept } } r

/-- RENDITION_PICTURE_DONE (R271): the access unit is queued and packetised for every leg fed. -/
def pictureDoneAll (s : State) (b : Nat) : State :=
  match s.backJob b with
  | some j => takeItems (backDone s b) j.rctx
  | none => s

/-- FORWARD_PACKET (R291): the oldest packet that waits for the adaptation unit. The unit knows the first packet of an access unit by the
timestamps it has seen of the stream, so that a selection made inside a unit waits for the next one (R29, R287). -/
def forwardPacket (s : State) : State :=
  match s.ad.inbox with
  | [] => s
  | w :: r =>
    let k := w.leg * 8 + w.entry
    let old := AMap.get [] k s.ad.seen
    let s1 := { s with ad := { s.ad with
      inbox := r
      seen := AMap.put [] k ((w.pkt.ts :: old.filter (fun t => decide (t ≠ w.pkt.ts))).take 16) s.ad.seen } }
    let s2 := mediaCopies s1 1 w.leg w.entry (.fromLeg w.leg w.entry w.pkt)
    forwardAll s2 w.leg w.entry w.pkt (!old.contains w.pkt.ts) w.at_

/-- The source of a sent packet is still held (R291): in the source leg's ring, or its rendition's item in the queue. -/
def stillHeld (s : State) (p : OutPkt) : Bool :=
  if 131072 ≤ p.srcLeg then s.ad.kept.any (fun k => decide (k.1 + 131072 = p.srcLeg) && decide (k.2.1 = p.srcSeq))
  else (s.rxE p.srcLeg p.srcEntry).video.any (fun v => decide (v.seq % 65536 = p.srcSeq))

/-- A packet sent again (R291): as RTX where a send entry repairs this one, otherwise as it was. -/
def resendPkt (s : State) (l e : Nat) (p : OutPkt) : State :=
  match (s.txUsed l).find? (fun r => decide (s.rd (Obj.txKind r l) = 3) && decide (s.rd (Obj.txRepairs r l) = e)) with
  | some r => s.sendRtp { p with
      entry := r, pt := s.rd (Obj.txPt r l), ssrc := s.rd (Obj.txSsrc r l), octets := p.octets + 2, twcc := none, resent := 0 }
  | none =>
    let (q, s2) := s.stampTwcc p
    s2.protect q

/-- The resend counted on the packet kept. -/
def noteResent (x : TxEntry) (p : OutPkt) : TxEntry :=
  { x with sent := x.sent.map (fun (q : OutPkt) => if q = p then { q with resent := q.resent + 1 } else q) }

/-- One sequence number a NACK names (R291). -/
def nackOne (s : State) (l f e seq : Nat) : State :=
  let x := s.txE l e
  match x.sent.find? (fun p => decide (p.seq = seq) && !p.padding) with
  | none => s.inc (Obj.feedNackMiss f l)
  | some p =>
    if !stillHeld s p then s.inc (Obj.feedNackMiss f l)
    else if 2 ≤ p.resent then s
    else resendPkt ((s.setTxE l e (noteResent x p)).inc (Obj.feedNackResent f l)) l e p

/-- A NACK from a receiving leg. -/
def nackResend (s : State) (l media : Nat) (seqs : List Nat) : State :=
  let x := s.adapt l
  let s1 := s.setAdapt l { x with ltrWait := x.ltrWait.map (fun (w : LtrWait) =>
    if (s.txE l w.entry).sent.any (fun p => seqs.contains p.seq && decide (p.srcLeg = 131072 + w.rctx) && decide (p.srcSeq = w.number))
    then { w with nacked := true } else w) }
  match feedOfSsrc s l media with
  | none => s1
  | some f => seqs.foldl (fun t q => nackOne t l f (t.rd (Obj.feedTxEntry f l)) q) s1

/-! ### Feedback (R274, R286) -/

/-- A receiver report's block about one of the leg's send entries. -/
def reportFeedback (s : State) (l : Nat) (b : ReportBlock) : State :=
  let x := s.adapt l
  let covered := fun (w : LtrWait) => decide (s.rd (Obj.txTwccId l) = 0) && decide (s.rd (Obj.txSsrc w.entry l) = b.ssrc) &&
    !w.nacked && decide ((b.highest % 65536 + 65536 - w.lastSeq) % 65536 < 32768)
  s.setAdapt l { x with
    loss := b.fraction
    ltrAcked := x.ltrAcked ++ (x.ltrWait.filter covered).map (fun w => (w.rctx, w.number))
    ltrWait := x.ltrWait.filter (fun w => !covered w) }

/-- Transport-wide feedback (R274, R286): packets' arrival times in microseconds; numbers older than the history are ignored. -/
def twccFeedback (s : State) (l : Nat) (arrivals : List (Nat × Nat)) : State :=
  let x := s.adapt l
  let hist := (s.leg l).twccHistory
  let hits := arrivals.filterMap (fun a => (hist.find? (fun h => decide (h.1 = a.1))).map (fun h => (a, h)))
  let recent := fun (t : Nat) => decide (s.mono ≤ t + 500 * ms)
  let acks := x.acks.filter (fun a => recent a.1) ++ hits.map (fun h => (s.mono, h.2.2.2))
  let delays := x.delays.filter (fun d => recent d.1) ++ hits.map (fun h => (s.mono, (h.1.2 : Int) - (h.2.2.1 / 1000 : Nat)))
  let got := arrivals.map Prod.fst
  let waits := x.ltrWait.map (fun (w : LtrWait) => { w with twcc := w.twcc.filter (fun q => !got.contains q) })
  let done := fun (w : LtrWait) => decide (s.rd (Obj.txTwccId l) ≠ 0) && w.twcc.isEmpty
  s.setAdapt l { x with
    acks := acks
    delays := delays
    ltrAcked := x.ltrAcked ++ (waits.filter done).map (fun w => (w.rctx, w.number))
    ltrWait := waits.filter (fun w => !done w) }

/-- Feedback of a compound reaches the adaptation unit (R123, R286, R290, R291). -/
def feedbackPart (l : Nat) (s : State) (p : RtcpPart) : State :=
  match p with
  | .sr _ _ _ _ _ b => b.foldl (fun t x => reportFeedback t l x) s
  | .rr _ b => b.foldl (fun t x => reportFeedback t l x) s
  | .nack _ m q => nackResend s l m q
  | .pli _ m => routeKey s l m true
  | .fir _ m _ => routeKey s l m false
  | .remb _ r => s.setLeg l { s.leg l with remb := some r }
  | .twcc _ a => twccFeedback s l a
  | _ => s

/-- A compound or feedback packet is due a FEEDBACK call of each of the leg's feeds in ADAPT (R292). -/
def feedbackDue (s : State) (l : Nat) : State :=
  (List.range 4).foldl (fun t f =>
    if t.hasFeed l f ∧ t.rd (Obj.feedMode f l) = 1 then t.setFeed l f { t.feed l f with fb := true } else t) s

/-! ### Adaptation programs (R292 to R294) -/

/-- A program number is loaded: an image, or Pyward's number 0. -/
def adaptLoaded (s : State) (n : Nat) : Bool := (AMap.get none n s.ad.programs).isSome || (decide (n = 0) && s.ad.shipped)

/-- ADAPT_LOAD. -/
def adaptLoad (s : State) (i : Image) : Nat × State :=
  let (a, ps) := seqLoad s 0x14 s.ad.programs i
  (a, if a = 0 then { s with ad := { s.ad with programs := ps, shipped := s.ad.shipped && decide (i.number ≠ 0) } } else s)

/-- ADAPT_UNLOAD: refused while a feed that is not OFF names the program. -/
def adaptUnload (s : State) (n : Nat) : Nat × State :=
  let named := s.ad.feeds.any (fun e => decide (s.rd (Obj.feedMode (e.1 % 4) (e.1 / 4)) ≠ 0) &&
    decide (s.rd (Obj.feedProgram (e.1 % 4) (e.1 / 4)) = n))
  if adaptLoaded s n && named then (Abort.programInUse, s)
  else (0, { s with ad := { s.ad with programs := AMap.del n s.ad.programs, shipped := s.ad.shipped && decide (n ≠ 0) } })

/-- The leg's lowest-numbered feed in ADAPT (R292). -/
def leadFeed (s : State) (l : Nat) : Option Nat :=
  (List.range 4).find? (fun f => s.hasFeed l f && decide (s.rd (Obj.feedMode f l) = 1))

/-- A returned A clamped to MinRate, MaxRate and the last REMB (R292). -/
def clampA (s : State) (l a : Nat) : Nat :=
  let v := max (s.rd (Obj.minRate l)) (min (s.rd (Obj.maxRate l)) a)
  match (s.leg l).remb with
  | some r => min v r
  | none => v

/-- R of the last 500 ms in bit/s. -/
def ackedRate (s : State) (l : Nat) : Nat :=
  (((s.adapt l).acks.filter (fun a => decide (s.mono ≤ a.1 + 500 * ms))).map Prod.snd).sum * 16

/-- Rise of the one-way delay over the last 500 ms, in microseconds. -/
def delayRise (s : State) (l : Nat) : Int :=
  let d := (s.adapt l).delays.filter (fun a => decide (s.mono ≤ a.1 + 500 * ms))
  match d.head?, d.getLast? with
  | some a, some b => b.2 - a.2
  | _, _ => 0

/-- A U16 of Params with its default where it is 0 (R294). -/
def param (s : State) (l f o dflt : Nat) : Nat :=
  let v := s.rd (Obj.feedParams f l) / 256 ^ o % 65536
  if v = 0 then dflt else v

/-- Overuse as program 0 judges it (R294). -/
def overuse (s : State) (l f : Nat) : Bool :=
  let depth := match (s.leg l).egressQ with
    | some q => (s.q q).depth
    | none => 0
  decide ((param s l f 4 10 * 1000 : Int) < delayRise s l) || decide (s.rd (Obj.egressGranules l) < 2 * depth)

/-- What an adaptation call returns: A, a selection or none, the probe rate, and the feed's state after it. -/
structure AdaptAnswer where
  a : Nat
  sel : Option Nat
  probe : Nat
  feed : FeedRt

/-- The candidate Current stands at, as program 0 orders them: 8 stands for none. -/
def currentOf (s : State) (l f : Nat) : Nat := min 8 (currentCand s l f)

/-- Pyward's program 0 at a TICK (R294). -/
def programZero (s : State) (l f : Nat) : AdaptAnswer :=
  let x := s.feed l f
  let a0 := s.rd (Obj.estimate l)
  let p := (s.adapt l).loss
  let beyond := overuse s l f
  let head := param s l f 0 870
  let a1 := if 256 < 10 * p then a0 * (512 - p) / 512 else if beyond then ackedRate s l * 85 / 100 else a0
  let bad := beyond || decide (256 < 50 * p)
  let cur := currentOf s l f
  let avail := (List.range 8).filter (fun i => candAvailable s (candEntry s l f i))
  let share := s.rd (Obj.feedShare f l)
  let fits := fun (a i : Nat) => decide (candRate (candEntry s l f i) * 1024 * 1000 ≤ a * share * head)
  let pick := fun (a : Nat) => (avail.find? (fun i => fits a i)).map (fun i => if cur < 8 ∧ i < cur then cur else i)
  match x.probeUntil with
  | some t =>
    let bad1 := x.probeBad || bad
    if s.mono < t then ⟨a1, none, x.probe, { x with probeBad := bad1 }⟩
    else if bad1 then ⟨a1, pick a1, 0, { x with probeUntil := none, probe := 0, probeBad := false, lastMove := s.mono }⟩
    else ⟨x.probe, some x.probeFor, 0, { x with probeUntil := none, probe := 0, lastMove := s.mono }⟩
  | none =>
    let higher := (avail.filter (fun i => decide (i < cur))).getLast?
    match pick a1, higher with
    | sel, some h =>
      if cur < 8 ∧ (sel = some cur ∨ sel = none) ∧ x.lastMove + param s l f 2 5000 * ms ≤ s.mono ∧ s.rd (Obj.feedPending f l) = 255 then
        let rate := ceilDiv (candRate (candEntry s l f h) * 1024) head
        ⟨a1, sel, rate, { x with probe := rate, probeUntil := some (s.mono + 500 * ms), probeFor := h, probeBad := bad }⟩
      else if sel ≠ none ∧ sel ≠ some cur ∧ s.rd (Obj.feedPending f l) ≠ sel.getD 255 then ⟨a1, sel, 0, { x with lastMove := s.mono }⟩
      else ⟨a1, sel, 0, x⟩
    | sel, none =>
      if sel ≠ none ∧ sel ≠ some cur ∧ s.rd (Obj.feedPending f l) ≠ sel.getD 255 then ⟨a1, sel, 0, { x with lastMove := s.mono }⟩
      else ⟨a1, sel, 0, x⟩

/-- Padding-only packets of a probe for the coming 100 ms (R293): as many of the largest size as lift the feed's rate of the
last 100 ms to the probe rate, on its RTX entry if it has one. -/
def probePadding (s : State) (l f : Nat) : State :=
  let x := s.feed l f
  let e := s.rd (Obj.feedTxEntry f l)
  let sent := ((x.sentRate.filter (fun r => decide (s.mono ≤ r.1 + 100 * ms))).map Prod.snd).sum
  let want := x.probe / 80
  let size := s.payloadRoom l []
  let n := (want - sent) / max 1 size
  let entry := ((s.txUsed l).find? (fun r => decide (s.rd (Obj.txKind r l) = 3) && decide (s.rd (Obj.txRepairs r l) = e))).getD e
  if x.probe = 0 ∨ want ≤ sent then s
  else (List.range n).foldl (fun t _ => t.sendRtp {
    leg := l, entry := entry, rtcp := [], pt := t.rd (Obj.txPt entry l), marker := false, seq := 0, ts := x.lastTs
    ssrc := t.rd (Obj.txSsrc entry l), octets := size, frameLen := 0, index := 0, twcc := none, prot := none, audio := []
    padding := true, srcLeg := 0, srcEntry := 0, srcSeq := 0, resent := 0 }) s

/-- What a TICK's answer does (R292, R293). -/
def applyTick (s : State) (l f : Nat) (r : AdaptAnswer) : State :=
  let s1 := s.setFeed l f r.feed
  let s2 := if leadFeed s l = some f then s1.wr (Obj.estimate l) (clampA s l r.a) else s1
  let s3 := match r.sel with
    | some i => if i < 8 ∧ candAvailable s2 (candEntry s2 l f i) then selectCand s2 l f i else s2
    | none => s2
  probePadding (s3.setFeed l f { s3.feed l f with probe := r.probe }) l f

/-- Calls wait for a thread beyond 100 ms (R292). -/
def backlogCheck (s : State) (due : Nat) : State :=
  let late := decide (due + 100 * ms < s.mono)
  let s1 := { s with ad := { s.ad with backlog := late } }
  if late && !s.ad.backlog then s1.event Ev.adaptBacklog 0 0 else s1

/-- ADAPT_TICK (R292): program 0 of Pyward answers as R294 says, another program as given: A, the selection (255 none), the probe
rate. -/
def adaptTick (s : State) (l f a sel probe : Nat) : State :=
  let x := s.feed l f
  let n := s.rd (Obj.feedProgram f l)
  if ¬ (s.hasFeed l f ∧ s.rd (Obj.feedMode f l) = 1 ∧ x.nextTick ≤ s.mono) then s
  else
    let s1 := (backlogCheck s x.nextTick).setFeed l f { x with nextTick := x.nextTick + 100 * ms }
    if !adaptLoaded s n then s1
    else if n = 0 ∧ s.ad.shipped then applyTick s1 l f (programZero s1 l f)
    else applyTick s1 l f ⟨a, if sel < 8 then some sel else none, probe, s1.feed l f⟩

/-- ADAPT_FEEDBACK_CALL (R292): at most 20 per second per feed; the call changes the program's own state only. -/
def adaptFeedback (s : State) (l f : Nat) : State :=
  let x := s.feed l f
  let calls := x.calls.filter (fun t => decide (s.mono < t + 1000000000))
  if s.hasFeed l f ∧ s.rd (Obj.feedMode f l) = 1 ∧ x.fb ∧ calls.length < 20 then
    s.setFeed l f { x with fb := false, calls := calls ++ [s.mono] }
  else s

/-- ADAPT_CALL_LIMIT (R292): a call is abandoned; `tick` says which. -/
def adaptLimit (s : State) (l f : Nat) (tick : Bool) : State :=
  let x := s.feed l f
  let calls := x.calls.filter (fun t => decide (s.mono < t + 1000000000))
  if ¬ (s.hasFeed l f ∧ s.rd (Obj.feedMode f l) = 1) ∨ (tick ∧ s.mono < x.nextTick) ∨ (¬ tick ∧ (¬ x.fb ∨ 20 ≤ calls.length)) then s
  else
    let y := if tick then { x with nextTick := x.nextTick + 100 * ms } else { x with fb := false, calls := calls ++ [s.mono] }
    ((s.setFeed l f y).inc (Obj.feedAdaptOverrun f l)).eventRated Ev.adaptOverrun l l 0

/-! ### Shapers (R295 to R300) -/

/-- Tokens of an octet in a bucket's unit. -/
def tok : Nat := 8000000

/-- A bucket filled to an instant at a rate in kbit/s up to a burst in octets. -/
def Bucket.fill (b : Bucket) (rate burst now : Nat) : Bucket := ⟨min (burst * tok) (b.tokens + rate * (now - b.at_)), now⟩

/-- The shaper of a leg; one never written to has had its buckets full since reset. -/
def State.shaper (s : State) (l : Nat) : Shaper :=
  ((s.ad.shapers.find? (fun e => decide (e.1 = l))).map Prod.snd).getD
    ⟨⟨s.rd (Obj.shCbs l) * tok, s.mono⟩, ⟨s.rd (Obj.shPbs l) * tok, s.mono⟩, 0, false⟩
def State.setShaper (s : State) (l : Nat) (x : Shaper) : State :=
  { s with ad := { s.ad with shapers := AMap.ins l x s.ad.shapers } }

/-- A leg's buckets at the present instant. -/
def shaperNow (s : State) (l : Nat) : Shaper :=
  let x := s.shaper l
  { x with
    tc := x.tc.fill (s.rd (Obj.shCir l)) (s.rd (Obj.shCbs l)) s.mono
    tp := x.tp.fill (s.rd (Obj.shPir l)) (s.rd (Obj.shPbs l)) s.mono }

/-- A group's and a port's bucket at the present instant. -/
def groupNow (s : State) (g : Nat) : Bucket :=
  (((s.ad.groups.find? (fun e => decide (e.1 = g))).map Prod.snd).getD ⟨s.rd (Obj.sgBurst g) * tok, s.mono⟩).fill
    (s.rd (Obj.sgRate g)) (s.rd (Obj.sgBurst g)) s.mono
def portNow (s : State) (p : Nat) : Bucket :=
  (((s.ad.ports.find? (fun e => decide (e.1 = p))).map Prod.snd).getD ⟨s.rd (Obj.psBurst p) * tok, s.mono⟩).fill
    (s.rd (Obj.psRate p)) (s.rd (Obj.psBurst p)) s.mono

/-- LEG_SHAPER_WRITE (R297): both buckets set by ResetMode, after the new settings are in. -/
def shaperReset (s : State) (l : Nat) : State :=
  let full := decide (s.rd (Obj.shResetMode l) = 0)
  let x := s.shaper l
  s.setShaper l { x with
    tc := ⟨if full then s.rd (Obj.shCbs l) * tok else 0, s.mono⟩
    tp := ⟨if full then s.rd (Obj.shPbs l) * tok else 0, s.mono⟩ }

/-- GROUP_SHAPER_WRITE (R299). -/
def groupReset (s : State) (g : Nat) : State :=
  { s with ad := { s.ad with groups := AMap.ins g ⟨s.rd (Obj.sgBurst g) * tok, s.mono⟩ s.ad.groups } }
def portReset (s : State) (p : Nat) : State :=
  { s with ad := { s.ad with ports := AMap.ins p ⟨s.rd (Obj.psBurst p) * tok, s.mono⟩ s.ad.ports } }

/-- Relations of a leg's shaper (R295, R299): Pir not below Cir, its group on the leg's port. -/
def shaperCheck (s : State) (l : Nat) : Nat :=
  let g := s.rd (Obj.shGroup l)
  if s.rd (Obj.shPir l) < s.rd (Obj.shCir l) then Abort.inconsistent
  else if g < 64 ∧ s.rd (Obj.sgPort g) ≠ s.rd (Obj.legPort l) then Abort.relation
  else 0

/-- A group whose Port a leg of the other port names (R299). -/
def groupCheck (s : State) (g : Nat) : Nat :=
  if s.dict.any (fun e => decide (e.1 / 0x1000000 = 0x730008) && decide (e.2 = g) &&
      decide (s.rd (Obj.legPort (e.1 % 0x1000000)) ≠ s.rd (Obj.sgPort g))) then Abort.relation else 0

/-- Octets of a frame on the line before Overhead (R128, R296). -/
def lineOctets (s : State) (p : OutPkt) : Nat := p.frameLen + if s.rd Obj.epochTagEnable = 1 then 6 else 0

/-- The packet at the head of a leg's egress queue. -/
def State.egressHead (s : State) (l : Nat) : Option (OutPkt × Nat) :=
  match (s.leg l).egressQ with
  | none => none
  | some q => match (s.q q).pop.1 with
    | some i => match i.body with
      | .egress p t => some (p, t)
      | _ => none
    | none => none

/-- A leg's own buckets let its head leave (R296). -/
def legMay (s : State) (l : Nat) (p : OutPkt) : Bool :=
  if s.rd (Obj.shEnable l) = 0 then true
  else
    let n := (lineOctets s p + s.rd (Obj.shOverhead l)) * tok
    let x := shaperNow s l
    decide (n ≤ x.tc.tokens) && decide (n ≤ x.tp.tokens)

/-- Octets a group or port counts; a group has no Overhead of its own and counts with its port's. -/
def portOctets (s : State) (port : Nat) (p : OutPkt) : Nat := lineOctets s p + s.rd (Obj.psOverhead port)

/-- The legs of a port that have a packet to send. -/
def portLegs (s : State) (port : Nat) : List Nat :=
  (s.le.legs.filter (fun e => decide (s.rd (Obj.legPort e.1) = port) && (s.egressHead e.1).isSome)).map Prod.fst

/-- The legs of a group, or directly under the port (group 255), whose heads may leave. -/
def ableLegs (s : State) (port g : Nat) : List Nat :=
  (portLegs s port).filter (fun l => decide (s.rd (Obj.shGroup l) = g) && (s.egressHead l).any (fun h => legMay s l h.1))

/-- Deficit round robin over children in rising order (R300): each with its head's octets, quantum and deficit. The child
served, its deficit after it; visits start at `at_`, which keeps its turn while its deficit lasts. -/
def drr (children : List (Nat × Nat × Nat × Nat)) (fresh : Bool) : Nat → List (Nat × Nat × Nat × Nat) → Option (Nat × List (Nat × Nat))
  | 0, _ => none
  | fuel + 1, queue =>
    match queue with
    | [] => if children.isEmpty then none else drr children true fuel children
    | (id, need, quantum, deficit) :: r =>
      let d := if fresh then deficit + quantum else deficit
      if need ≤ d then some (id, (id, d - need) :: children.filterMap (fun c => if c.1 = id then none else some (c.1, c.2.2.2)))
      else drr (children.map (fun c => if c.1 = id then (id, need, quantum, d) else c)) true fuel
        (r.map (fun c => c))

/-- The children in visiting order: from the one served last. -/
def visitOrder (children : List (Nat × Nat × Nat × Nat)) (last : Option Nat) : List (Nat × Nat × Nat × Nat) :=
  match last with
  | none => children
  | some k => children.filter (fun c => decide (k ≤ c.1)) ++ children.filter (fun c => decide (c.1 < k))

/-- A round-robin choice: the child and the deficits after it. A child that was served last keeps its turn; another starts with
its quantum. -/
def chooseChild (children : List (Nat × Nat × Nat × Nat)) (last : Option Nat) : Option (Nat × List (Nat × Nat)) :=
  let order := visitOrder children last
  let fresh := match order.head?, last with
    | some c, some k => decide (c.1 ≠ k)
    | _, _ => true
  drr order fresh (32 * (children.length + 1)) order

/-- Last child served by a port (0, 1) or a group (2 + g). -/
def lastTurn (s : State) (k : Nat) : Option Nat := (s.ad.turns.find? (fun e => decide (e.1 = k))).map Prod.snd

/-- A group may send: some head may leave, and its bucket holds it. -/
def groupAble (s : State) (port g : Nat) : List Nat :=
  (ableLegs s port g).filter (fun l => (s.egressHead l).any (fun h => decide (portOctets s port h.1 * tok ≤ (groupNow s g).tokens)))

/-- The legs' choice under a group or the port. -/
def chooseLeg (s : State) (port key : Nat) (legs : List Nat) : Option (Nat × List (Nat × Nat)) :=
  chooseChild (legs.map (fun l =>
    (l, ((s.egressHead l).map (fun h => portOctets s port h.1)).getD 0, s.rd (Obj.shWeight l) * 128, (s.shaper l).deficit))) (lastTurn s key)

/-- The choice of a port (R300): groups of Priority 1 first, otherwise groups and direct legs by deficit round robin; the
chosen leg, its group (64 for none), the deficits to store. A direct leg is child 64 + LEG. DESIGN CHOICE: a leg directly under the
port, which has no Priority, stands with the groups of Priority 0. -/
def choosePort (s : State) (port : Nat) : Option (Nat × Nat × List (Nat × Nat) × List (Nat × Nat) × Nat) :=
  let groups := ((List.range 64).filter (fun g => decide (s.rd (Obj.sgPort g) = port) && !(groupAble s port g).isEmpty))
  let high := groups.filter (fun g => decide (s.rd (Obj.sgPriority g) = 1))
  let low := groups.filter (fun g => decide (s.rd (Obj.sgPriority g) = 0))
  let direct := (ableLegs s port 255).filter (fun l => (s.egressHead l).any (fun h => decide (portOctets s port h.1 * tok ≤ (portNow s port).tokens)))
  let fitsPort := fun (l : Nat) => (s.egressHead l).any (fun h => decide (portOctets s port h.1 * tok ≤ (portNow s port).tokens))
  let child := fun (g : Nat) =>
    match chooseLeg s port (2 + g) ((groupAble s port g).filter fitsPort) with
    | some (l, _) => some (g, ((s.egressHead l).map (fun h => portOctets s port h.1)).getD 0, s.rd (Obj.sgWeight g) * 128,
        AMap.get 0 g s.ad.groupDeficit)
    | none => none
  let kids := if (high.filterMap child).isEmpty then
      low.filterMap child ++ direct.map (fun l => (64 + l, ((s.egressHead l).map (fun h => portOctets s port h.1)).getD 0,
        s.rd (Obj.shWeight l) * 128, (s.shaper l).deficit))
    else high.filterMap child
  match chooseChild kids (lastTurn s port) with
  | none => none
  | some (k, ds) =>
    if k < 64 then
      (chooseLeg s port (2 + k) ((groupAble s port k).filter fitsPort)).map (fun r => (r.1, k, r.2, ds, k))
    else some (k - 64, 64, ds.filterMap (fun d => if 64 ≤ d.1 then some (d.1 - 64, d.2) else none), ds, k)

/-- The frame of a leg's head leaves: its debits, its counts, its release time in the transport-wide history. -/
def releaseHead (s : State) (port l g : Nat) : State :=
  match (s.leg l).egressQ, s.egressHead l with
  | some q, some (p, _) =>
    let s1 := s.updQ q (s.q q).pop.2
    let x := shaperNow s1 l
    let n := (lineOctets s p + s.rd (Obj.shOverhead l)) * tok
    let m := portOctets s port p * tok
    let s2 := s1.setShaper l (if s.rd (Obj.shEnable l) = 0 then { x with waited := false } else { x with
      tc := { x.tc with tokens := x.tc.tokens - n }
      tp := { x.tp with tokens := x.tp.tokens - n }
      waited := false })
    let gb := groupNow s g
    let pb := portNow s port
    let s3 := { s2 with ad := { s2.ad with
      groups := if g < 64 then AMap.ins g { gb with tokens := gb.tokens - m } s2.ad.groups else s2.ad.groups
      ports := AMap.ins port { pb with tokens := pb.tokens - m } s2.ad.ports } }
    let y := s3.leg l
    let s4 := s3.setLeg l { y with twccHistory := y.twccHistory.map (fun h => if some h.1 = p.twcc then (h.1, s.tod, h.2.2) else h) }
    let s5 := (s4.inc (Obj.txPackets l)).count (Obj.txOctets l) (lineOctets s p)
    let epoch := if s.rd Obj.epochTagEnable = 1 then some (s.rd Obj.twEpoch % 2 ^ 24) else none
    s5.emit (.frame port l epoch p)
  | _, _ => s

/-- Heads that have to wait for their tokens count once (R296). -/
def markHeld (s : State) (port : Nat) : State :=
  ((portLegs s port).filter (fun l => !(s.shaper l).waited && !(s.egressHead l).any (fun h => legMay s l h.1))).foldl
    (fun t l => (t.setShaper l { shaperNow t l with waited := true }).inc (Obj.shHeld l)) s

/-- As in any deficit round robin a child with nothing queued loses its deficit: a leg whose egress queue is empty, a group all of whose
legs' queues are (R300). -/
def dropDeficits (s : State) (port : Nat) : State :=
  let full := portLegs s port
  { s with ad := { s.ad with
    shapers := s.ad.shapers.map (fun e =>
      if s.rd (Obj.legPort e.1) = port ∧ ¬ full.contains e.1 then (e.1, { e.2 with deficit := 0 }) else e)
    groupDeficit := s.ad.groupDeficit.filter (fun e =>
      decide (s.rd (Obj.sgPort e.1) ≠ port) || full.any (fun l => decide (s.rd (Obj.shGroup l) = e.1))) } }

/-- SHAPER_RELEASE (R300): port `port` releases the packet its levels choose. -/
def shaperRelease (s0 : State) (port : Nat) : State :=
  let s := dropDeficits (markHeld s0 port) port
  match choosePort s port with
  | none => s
  | some (l, g, legDs, kidDs, k) =>
    let s1 := legDs.foldl (fun t d => t.setShaper d.1 { t.shaper d.1 with deficit := d.2 }) s
    let gd := kidDs.foldl (fun m d => if d.1 < 64 then AMap.put 0 d.1 d.2 m else m) s1.ad.groupDeficit
    let turns := AMap.ins port k s1.ad.turns
    let s2 := { s1 with ad := { s1.ad with groupDeficit := gd, turns := if g < 64 then AMap.ins (2 + g) l turns else turns } }
    releaseHead s2 port l g

/-- SHAPER_AGE_OUT (R296): a head longer in the queue than MaxHold is dropped. -/
def shaperAge (s : State) (l : Nat) : State :=
  match (s.leg l).egressQ, s.egressHead l with
  | some q, some (_, t) =>
    let h := s.rd (Obj.shMaxHold l)
    if h ≠ 0 ∧ t + h * ms < s.mono then
      let s1 := (s.updQ q (s.q q).pop.2).setShaper l { shaperNow s l with waited := false }
      (s1.inc (Obj.shAgedOut l)).eventRated Ev.shaperAged l l 0
    else s
  | _, _ => s

/-! ### The commands -/

def execRenditionPictureDone (b : Nat) (s : State) : Host.Outcome State Fault Refusal := .next (pictureDoneAll s b)
def execAdaptFeedbackCall (l f : Nat) (s : State) : Host.Outcome State Fault Refusal :=
  .next (if f < 4 then adaptFeedback s l f else s)

/-- ADAPT_TICK (R292). -/
def execAdaptTick (l f a sel probe : Nat) (s : State) : Host.Outcome State Fault Refusal :=
  .next (if f < 4 then adaptTick s l f a sel probe else s)
def execAdaptCallLimit (l f : Nat) (tick : Bool) (s : State) : Host.Outcome State Fault Refusal :=
  .next (if f < 4 then adaptLimit s l f tick else s)
def execForwardPacket (s : State) : Host.Outcome State Fault Refusal := .next (if s.engines then forwardPacket s else s)
def execSwitchKeyWaitExpiry (l f : Nat) (s : State) : Host.Outcome State Fault Refusal :=
  .next (if f < 4 then switchExpiry s l f else s)

/-- SHAPER_RELEASE (R300); nothing leaves a device that may not send (Table 15.1). -/
def execShaperRelease (port : Nat) (s : State) : Host.Outcome State Fault Refusal :=
  .next (if s.engines ∧ s.serves ∧ port < 2 then shaperRelease s port else s)
def execShaperAgeOut (l : Nat) (s : State) : Host.Outcome State Fault Refusal := .next (if s.engines then shaperAge s l else s)

end Sys2Proof.Machine
end

