-- ==== Sys2Proof/Machine/LegRx.lean ====
section
/-! DEFINITION. The ingress pipeline and the jitter buffers (R109 to R123): frames from ETH0 and ETH1, classification, placement
of audio and video packets, received RTCP. -/

namespace Sys2Proof.Machine

/-! ### Sequence numbers (R118, R146) -/

/-- The extended sequence number nearest to what a receive entry has seen, or after a handover to its replay floor (RFC 3711 Appendix A,
R146, R148); none where it would lie before rollover counter 0. -/
def extend (x : RxEntry) (seq : Nat) : Option Nat :=
  let sl := x.highest % 65536
  let known := x.started || decide (x.floor ≠ 0)
  let roc := if known then x.highest / 65536 else x.roc
  if !known then some (roc * 65536 + seq % 65536)
  else if sl < 32768 then
    if sl + 32768 < seq % 65536 then (if roc = 0 then none else some ((roc - 1) * 65536 + seq % 65536))
    else some (roc * 65536 + seq % 65536)
  else if seq % 65536 + 32768 < sl then some ((roc + 1) * 65536 + seq % 65536)
  else some (roc * 65536 + seq % 65536)

/-- RTP clock rate of a receive entry (R375). -/
def rxRate (s : State) (l e : Nat) : Nat := if s.rd (Obj.rxKind e l) = 1 then clockRate (s.rd (Obj.rxCodec l)) else 90000

/-- A packet counted in a receive entry's statistics: extended number, interarrival jitter of RFC 3550 (scaled by 16). -/
def noteRx (x : RxEntry) (ext ts arrivalNs rate : Nat) : RxEntry :=
  let transit : Int := (arrivalNs * rate / 1000000000 : Nat) - (ts : Int)
  let d := (sgn 32 (uns 32 (transit - x.transit))).natAbs
  { x with
    started := true
    base := if x.started then x.base else ext
    highest := if x.started || decide (x.floor ≠ 0) then max x.highest ext else ext
    received := x.received + 1
    transit := transit
    jitter := if x.started then x.jitter + d - (x.jitter + 8) / 16 else x.jitter }

/-! ### Audio (R116 to R119, R199) -/

/-- The mapping set by a packet (R119): it plays at the first boundary at least the depth after its arrival. -/
def setMapping (s : State) (l ts seq arrivalTod depth : Nat) : State :=
  let x := s.leg l
  s.setLeg l { x with
    mapped := true
    mapTs := ts
    mapFrame := ceilDiv (arrivalTod + depth * ms) mixNs
    depth := depth
    nextSeq := if x.mapped then x.nextSeq else seq }

/-- The sequence number due next, as an arriving packet of number `seq` that plays at frame `f` shows it: the frames before the present one
have played, and with them the packets before it in the sequence (R118). -/
def dueNext (s : State) (l seq : Nat) (f : Int) : Nat :=
  let x := s.leg l
  let n : Int := s.le.frame
  let k := packetFrames s l
  max x.nextSeq (if n ≤ f then seq - (f - n).toNat / max 1 k else seq + 1)

/-- Sequence numbers whose frames have played without them: they are lost, and the number due next is past them (R118). -/
def passLost (s : State) (l p : Nat) : State :=
  let x := s.leg l
  (s.setLeg l { x with nextSeq := p }).count (Obj.rxLost l) (p - x.nextSeq)

/-- JITTER_PLACE (R118): an audio packet of extended sequence number `seq`. -/
def placeAudio (s : State) (l e seq : Nat) (p : Rtp) (arrival : Nat) : State :=
  let tod := s.tod - (s.mono - arrival)
  let x := s.leg l
  let s1 :=
    if !x.mapped then setMapping s l p.ts seq tod x.depth
    else if p.marker ∧ x.jbMode = 1 then setMapping s l p.ts seq tod x.nextDepth
    else s
  let s2 := if seq < (s1.leg l).nextSeq then s1 else passLost s1 l (dueNext s1 l seq (slotFrame s1 l p.ts))
  let y := s2.leg l
  let r := s2.rxE l e
  let n := s.rd (Obj.jbSlots l)
  if seq < y.nextSeq then s2.inc (Obj.rxLate l)
  else if r.slots.any (fun k => decide (k.1 = seq % n) && decide (k.2.seq = seq)) then s2.inc (Obj.rxDuplicate l)
  else if y.nextSeq + n ≤ seq then s2.inc (Obj.rxEarly l)
  else s2.setRxE l e { r with slots := AMap.ins (seq % n) ⟨seq, p.ts, p.audio.getD ⟨p.octets, [], false⟩⟩ r.slots }

/-- Payload types of the RTX and FEC entries of the leg that repair an entry. -/
def repairPts (s : State) (l e : Nat) : List Nat :=
  ((s.rxUsed l).filter (fun f => (decide (s.rd (Obj.rxKind f l) = 3) || decide (s.rd (Obj.rxKind f l) = 4)) &&
    decide (s.rd (Obj.rxRepairs f l) = e))).map (fun f => s.rd (Obj.rxPt f l))

/-- JITTER_DEPTH_ADJUST (R119 steps 3 to 5), from which the settings of R117 apply. -/
def depthAdjust (s : State) (l : Nat) : State :=
  let x := s.leg l
  if ¬ s.legActive l ∨ s.mono < x.nextAdjust then s
  else
    let lo := s.rd (Obj.jbMinDepth l)
    let hi := s.rd (Obj.jbMaxDepth l)
    let j := match s.rxAudio l with
      | some e => (s.rxE l e).jitter
      | none => 0
    let want := s.ptimeMs l + 10 * ceilDiv (j * 1000 * s.rd (Obj.jbFactor l)) (640 * clockRate (s.rd (Obj.rxCodec l)))
    let mode := s.rd (Obj.jbMode l)
    let target := if mode = 0 then lo else max lo (min hi want)
    let next := if mode = 0 then x.depth
      else if x.depth + 10 ≤ target then x.depth + 10
      else if target + 10 ≤ x.depth then x.depth - 10 else target
    (s.setLeg l { x with nextAdjust := x.nextAdjust + 500 * ms, nextDepth := next, jbMode := mode }).wr (Obj.jbDepth l) target

/-! ### Video (R120) -/

/-- Octets a packet takes in the ring. -/
def VidPkt.ringOctets (v : VidPkt) : Nat := 64 + ceilDiv v.octets 64 * 64

/-- Octets a ring holds. -/
def ringUsed (v : List VidPkt) : Nat := (v.map VidPkt.ringOctets).sum

/-- The access units of a ring that are not posted, by timestamp in order. -/
def openUnits (x : RxEntry) : List Nat :=
  ((x.video.map (fun v => v.ts)).eraseDups).filter (fun t => !x.posted.contains t)

/-- The packets of an access unit. -/
def unitPkts (x : RxEntry) (ts : Nat) : List VidPkt := x.video.filter (fun v => decide (v.ts = ts))

/-- A packet begins its access unit: it says so, or its predecessor closes another one. -/
def beginsUnit (x : RxEntry) (v : VidPkt) : Bool :=
  v.video.isSome || decide (v.seq = x.base) || x.video.any (fun w => decide (w.seq + 1 = v.seq) && decide (w.ts ≠ v.ts))

/-- Every sequence number from the first packet to the marker packet is present (R120). -/
def unitComplete (x : RxEntry) (ts : Nat) : Bool :=
  let ps := unitPkts x ts
  match ps.head?, ps.find? (fun v => v.marker) with
  | some a, some m => beginsUnit x a && decide ((ps.filter (fun v => decide (v.seq ≤ m.seq))).length = m.seq + 1 - a.seq)
  | _, _ => false

/-- What an access unit of which no packet says what it holds is taken for. -/
def PicFacts.blank : PicFacts :=
  ⟨true, 0, 0, 8, 0, 0, 0, false, false, false, false, 0, 0, false, [], [], [], [], true, 0, 0, []⟩

/-- The temporal layer id of an H.264 picture comes from frame marking (Table 12.4). -/
def unitFacts (s : State) (d : Nat) (ps : List VidPkt) : PicFacts :=
  let f := ((ps.filterMap (fun v => v.video)).head?).getD PicFacts.blank
  match ps.head? with
  | some v => if s.rd (Obj.dctxCodec d) = 1 then { f with temporal := if v.layer.known then v.layer.temporal else 0 } else f
  | none => f

/-- An access unit posted to its decode context's queue (R120, R221): whether it left the ring's list of open units. -/
def postUnit (s : State) (l e ts : Nat) (missing : Bool) : Bool × State :=
  let x := s.rxE l e
  let ps := unitPkts x ts
  let d := s.rd (Obj.rxDctx e l)
  let done := s.setRxE l e { x with posted := (ts :: x.posted).take 512 }
  if 4096 ≤ d ∨ ¬ (s.q (decodeQ d)).allocated then (true, done)
  else
    let n := (ps.map (fun v => v.octets)).sum
    let u : AccessUnit := {
      leg := l, entry := e, ts := ts, octets := n, key := ps.any (fun v => v.key), missing := missing
      facts := unitFacts s d ps, at_ := (ps.map (fun v => v.at_)).foldl max 0 }
    match done.push (decodeQ d) (64 + n) (.unit u) with
    | (.full, _) => (false, s)
    | (.tooLong, t) =>
      let q := t.q (decodeQ d)
      (true, t.setQ (decodeQ d) { q with lost := satAdd q.lost 1 0xFFFFFFFF })
    | (_, t) => (true, t)

/-- Complete access units go to the queue in order of RTP timestamp, up to the first that is not complete; at most `fuel`. -/
def postComplete (l e : Nat) : Nat → State → State
  | 0, s => s
  | n + 1, s =>
    let x := s.rxE l e
    match (openUnits x).head? with
    | none => s
    | some t =>
      if unitComplete x t then
        match postUnit s l e t false with
        | (true, s1) => postComplete l e n s1
        | (false, _) => s
      else s

/-- Room for a packet in the ring: history goes silently, an access unit not yet posted is dropped whole and counts in
RxOverflow (R120). -/
def ringRoom (l e need cap : Nat) : Nat → State → State
  | 0, s => s
  | n + 1, s =>
    let x := s.rxE l e
    if ringUsed x.video + need ≤ cap then s
    else match x.video with
      | [] => s
      | v :: rest =>
        if x.posted.contains v.ts then ringRoom l e need cap n (s.setRxE l e { x with video := rest })
        else ringRoom l e need cap n
          ((s.setRxE l e { x with video := x.video.filter (fun w => decide (w.ts ≠ v.ts)), posted := (v.ts :: x.posted).take 512 }).inc
            (Obj.rxOverflow l))

/-- The gaps a packet of extended sequence number `seq` opens and closes (R121). -/
def gapsAfter (x : RxEntry) (top seq now : Nat) : List Gap :=
  let old := x.gaps.filter (fun g => decide (g.seq ≠ seq))
  if top < seq ∧ seq ≤ top + 4096 then old ++ (List.range (seq - top - 1)).map (fun i => ⟨top + 1 + i, now, 0, 0⟩)
  else old

/-- A timestamp is not after that of the access unit last posted or dropped. -/
def pastUnit (x : RxEntry) (ts : Nat) : Bool :=
  match x.posted.head? with
  | some last => decide ((last + 2 ^ 32 - ts % 2 ^ 32) % 2 ^ 32 < 2 ^ 31)
  | none => false

/-- VIDEO_PACKET_PLACE (R120): a video packet enters the ring, goes to the adaptation unit, closes its gap (R121), and completes access
units. A packet already present does not enter again; one of an access unit already posted or dropped is history only. -/
def placeVideo (s : State) (l e seq : Nat) (p : Rtp) (arrival : Nat) : State :=
  let x := s.rxE l e
  let s0 := { s with ad := { s.ad with inbox := s.ad.inbox ++ [⟨l, e, p, arrival⟩] } }
  if x.video.any (fun v => decide (v.seq = seq)) then s0
  else
    let v : VidPkt := ⟨seq, p.ts, p.marker, p.key, p.octets, (frameMarkOf s l p).getD LayerInfo.none, p.video, arrival⟩
    let s1 := ringRoom l e v.ringOctets (s.rd (Obj.videoBytes l)) (x.video.length + 1) s0
    let y := s1.rxE l e
    let top := (y.video.map (fun w => w.seq)).foldl max 0
    let gaps := gapsAfter y (if y.video.isEmpty then seq else top) seq s.mono
    let s2 := s1.setRxE l e { y with
      video := insertBy (fun (a b : VidPkt) => decide (a.seq ≤ b.seq)) v y.video
      gaps := gaps
      posted := if pastUnit y p.ts ∧ ¬ y.posted.contains p.ts then y.posted ++ [p.ts] else y.posted }
    postComplete l e (y.video.length + 1) s2

/-- VIDEO_WAIT_EXPIRY (R120): the oldest access unit is incomplete, a later one complete, and VideoWait has passed since the last
packet of the incomplete one. -/
def videoWait (s : State) (l e : Nat) : State :=
  let x := s.rxE l e
  match openUnits x with
  | [] => s
  | t :: later =>
    let last := ((unitPkts x t).map (fun v => v.at_)).foldl max 0
    if ¬ unitComplete x t ∧ later.any (fun u => unitComplete x u) ∧ last + s.rd (Obj.videoWait l) * ms ≤ s.mono then
      match postUnit s l e t true with
      | (true, s1) => postComplete l e later.length s1
      | (false, _) => s
    else s

/-! ### NACK requests (R121) -/

/-- A generic NACK for gaps of an entry, which are marked as requested. -/
def askGaps (s : State) (l e : Nat) (due : Gap → Bool) : State :=
  let x := s.rxE l e
  let seqs := (x.gaps.filter due).map (fun g => g.seq % 65536)
  if seqs.isEmpty ∨ ¬ s.legActive l ∨ ¬ s.legFlag l 3 ∨ s.fabricFed l then s
  else
    (s.setRxE l e { x with gaps := x.gaps.map (fun (g : Gap) => if due g then { g with asked := g.asked + 1, last := s.mono } else g) }).sendFeedback l
      (.nack (ownSsrc s l) (s.rd (Obj.rxSsrc e l)) seqs)

/-- NACK_SEND: 5 ms after a gap is seen. -/
def nackSend (s : State) (l e : Nat) : State := askGaps s l e (fun g => decide (g.asked = 0) && decide (g.seen + 5 * ms ≤ s.mono))

/-- NACK_RETRY: once more after the measured round-trip time. -/
def nackRetry (s : State) (l e : Nat) : State :=
  askGaps s l e (fun g => decide (g.asked = 1) && decide (g.last + s.rd (Obj.rtt l) * 1000 ≤ s.mono))

/-! ### Delivery -/

/-- A received RTP packet that is plain, or whose protection was taken off, goes to the jitter manager (R113, R118 to R121): an RTX
packet restores its original sequence number first. FEC packets repair nothing here. -/
def deliverRtp (s : State) (l e ext : Nat) (p : Rtp) (arrival : Nat) : State :=
  let s1 := s.setRxE l e (noteRx (s.rxE l e) ext p.ts arrival (rxRate s l e))
  let k := s.rd (Obj.rxKind e l)
  if k = 1 then
    if p.pt = s.rd (Obj.rxPt e l) then placeAudio s1 l e ext p arrival
    else if p.pt ∈ repairPts s l e then s1
    else s1.inc (Obj.rxBadPt l)
  else if k = 2 then placeVideo s1 l e ext p arrival
  else if k = 3 then
    let t := s.rd (Obj.rxRepairs e l)
    match p.osn with
    | some q =>
      match extend (s1.rxE l t) q with
      | some x =>
        if s.rd (Obj.rxKind t l) = 2 then placeVideo s1 l t x { p with seq := q, pt := s.rd (Obj.rxPt t l) } arrival
        else if s.rd (Obj.rxKind t l) = 1 then placeAudio s1 l t x { p with seq := q, pt := s.rd (Obj.rxPt t l) } arrival
        else s1
      | none => s1
    | none => s1
  else s1

/-! ### RTCP (R123) -/

/-- A report block's sender is one of the leg's send entries. -/
def knownSsrc (s : State) (l ssrc : Nat) : Bool := (s.txUsed l).any (fun e => decide (s.rd (Obj.txSsrc e l) = ssrc))

/-- The round trip a report block measures (RFC 3550), in microseconds. -/
def blockRtt (s : State) (b : ReportBlock) : Option Nat :=
  if b.lsr = 0 then none
  else
    let a := s.ntp / 65536 % 2 ^ 32
    some (((a + 2 ^ 33 - b.lsr - b.dlsr) % 2 ^ 32) * 1000000 / 65536)

/-- A report block stored in the leg's descriptor, the last one about each of its send entries from each reporter (R123). -/
def storeBlock (s : State) (l reporter : Nat) (b : ReportBlock) : State :=
  let x := s.leg l
  s.setLeg l { x with blocks := (reporter, b) :: x.blocks.filter (fun e => !(decide (e.1 = reporter) && decide (e.2.ssrc = b.ssrc))) }

/-- Report blocks used: each stored, and the round-trip estimate of the leg. -/
def useBlocks (s : State) (l reporter : Nat) (bs : List ReportBlock) : State :=
  bs.foldl (fun t b =>
    let u := storeBlock t l reporter b
    match blockRtt u b with
    | some r => u.wr (Obj.rtt l) r
    | none => u) s

/-- A sender report's mapping stored with the receive entry of its SSRC. -/
def useSr (s : State) (l ssrc ntp rtp arrival : Nat) : State :=
  match (s.rxUsed l).find? (fun e => decide (s.rd (Obj.rxSsrc e l) = ssrc)) with
  | some e => s.setRxE l e { s.rxE l e with lastSrNtp := ntp, lastSrRtp := rtp, lastSrAt := arrival }
  | none => s

/-- The packets of a compound in order; the first bad one drops the rest and counts RtcpBad (R123). -/
def useRtcp (l arrival : Nat) : List RtcpPart → State → State
  | [], s => s
  | .badLength :: _, s => s.inc (Obj.rtcpBad l)
  | .sr ssrc ntp rtp n o b :: r, s =>
    if b.all (fun x => knownSsrc s l x.ssrc) then
      useRtcp l arrival r (feedbackPart l (useBlocks (useSr s l ssrc ntp rtp arrival) l ssrc b) (.sr ssrc ntp rtp n o b))
    else s.inc (Obj.rtcpBad l)
  | .rr ssrc b :: r, s =>
    if b.all (fun x => knownSsrc s l x.ssrc) then
      useRtcp l arrival r (feedbackPart l (useBlocks s l ssrc b) (.rr ssrc b))
    else s.inc (Obj.rtcpBad l)
  | x :: r, s => useRtcp l arrival r (feedbackPart l s x)

/-- RTCP_RX (R123): a received compound. -/
def deliverRtcp (s : State) (l : Nat) (p : Rtcp) (arrival : Nat) : State :=
  let s1 := useRtcp l arrival p.parts (s.inc (Obj.rtcpRx l))
  if p.parts.isEmpty then s1 else feedbackDue s1 l

/-! ### Classification (R109 to R115) -/

/-- Octets of a port's ingress FIFO. -/
def fifoSize : Nat := 2 * mib

/-- Octets waiting in a port's FIFO. -/
def fifoUsed (s : State) (port : Nat) : Nat := ((s.le.fifo.filter (fun w => decide (w.port = port))).map (fun w => w.frame.octets)).sum

/-- ETH_FRAME_RX (R109, R367): a frame is timestamped into its port's FIFO, or dropped whole. Frames of EtherType 0x88F7 go to the
time unit (R370). -/
def frameRx (s : State) (port : Nat) (f : Frame) : State :=
  let s1 := s.inc (Obj.inFrames port)
  if f.etherType = 0x88F7 then
    ptpOther s1 port (match f.data with
      | .raw first _ => first % 16
      | _ => 13)
  else if fifoSize < fifoUsed s port + f.octets then s1.inc (Obj.inOverflow port)
  else
    let stamp := uns 32 ((s.tod : Int) + sgn 32 (s.rd (Obj.asymmetry port)))
    { s1 with le := { s1.le with fifo := s1.le.fifo ++ [⟨port, f, stamp, s.mono⟩] } }

/-- EXCEPTION_RING_POST (R115, R368): ExceptionRate's bucket, a depth of one second, is kept as what has been spent of it in 10^-9
frames. -/
def exceptionPost (s : State) (w : Waiting) (reason : Nat) : State :=
  let ring := s.rd Obj.exceptionRing
  let rate := s.rd Obj.exceptionRate
  let spent := s.le.exceptionTokens - rate * (s.mono - s.le.exceptionAt)
  let x := s.ring ring
  if 2048 ≤ ring ∨ ¬ (x.enable ∧ x.dirD2h ∧ ¬ x.error) ∨ rate * 1000000000 < spent + 1000000000 then
    s.inc (Obj.exceptionDropped w.port)
  else
    ({ s with le := { s.le with exceptionTokens := spent + 1000000000, exceptionAt := s.mono } }).stampPost
      ⟨ring, 64 + w.frame.octets, .exception w.port w.stamp reason w.frame, w.mono, some w.port⟩

/-- The fate of a frame: dropped under a counter of its port, to the exception ring, or to a leg's entry with what it carries. -/
inductive Fate | drop (counter : Nat) | exception (reason : Nat) | leg (l e : Nat)
deriving DecidableEq, Repr

/-- The live classifier entry of a key, on a device that serves media (R102, R347). -/
def lookupKey (s : State) (k : Nat) : Option ClsEntry :=
  if s.serves then s.le.table.find? (fun x => decide (x.key = k) && x.live) else none

/-- The family of a frame. -/
def frameFamily (f : Frame) : Nat := if f.etherType = 0x800 then 4 else 6

/-- The key of a frame for an SSRC and ports. -/
def frameKey (f : Frame) (lp rp ssrc : Nat) : Nat := clsKey (frameFamily f) f.dstAddr f.srcAddr lp rp ssrc

/-- RTCP of a leg without RTCP_MUX arrives at its RTP port + 1; the far side's port is its RTP port + 1 too, or the same. -/
def rtcpLookup (s : State) (f : Frame) (ssrc : Nat) : Fate :=
  match lookupKey s (frameKey f f.dstPort f.srcPort ssrc) with
  | some x => if s.legFlag x.leg 0 then .leg x.leg x.entry else .drop 6
  | none =>
    let hits := [f.srcPort - 1, f.srcPort].filterMap (fun rp => lookupKey s (frameKey f (f.dstPort - 1) rp ssrc))
    match hits.find? (fun x => !s.legFlag x.leg 0) with
    | some x => .leg x.leg x.entry
    | none => .drop 7

/-- SSRC_LEARN (R112): the lowest learning entry of the packet's media kind takes the SSRC. -/
def learnEntry (s : State) (f : Frame) (p : Rtp) : Option (Nat × Nat) :=
  match lookupKey s (frameKey f f.dstPort f.srcPort (2 ^ 32)) with
  | none => none
  | some x =>
    if !s.legFlag x.leg 2 then none else
    let kind := ((s.rxUsed x.leg).find? (fun e => decide (s.rd (Obj.rxPt e x.leg) = p.pt))).map (fun e => s.rd (Obj.rxKind e x.leg))
    ((s.rxUsed x.leg).find? (fun e => decide (s.rd (Obj.rxLearn e x.leg) = 1) && decide (some (s.rd (Obj.rxKind e x.leg)) = kind))).map
      (fun e => (x.leg, e))

/-- What follows the key's entry into the classifier table: the journal entry and the event, or nothing where it found no room. -/
def learnedSsrc (l e ssrc : Nat) (r : Nat × State) : Option State :=
  match r with
  | (0, t) => some ((t.journal (.learn l e ssrc)).event Ev.ssrcLearned l e)
  | _ => none

/-- The learned SSRC written into its entry and the leg's keys replaced; none when the new key finds no room. -/
def learnSsrc (s : State) (l e ssrc : Nat) : Option State :=
  learnedSsrc l e ssrc (clsReserve ((s.wr (Obj.rxSsrc e l) ssrc).wr (Obj.rxLearn e l) 0) l)

/-- The parse of Table 4.6 up to the lookup: counters by their sub-index less one. A frame whose type field holds a length (below
0x600) is not Ethernet II. -/
def parseFate (f : Frame) : Option Fate :=
  if f.etherType < 0x600 then some (.drop 2)
  else if 2 < f.tags.length ∨ f.tags.any (fun t => decide (t.1 ≠ 0x88A8) && decide (t.1 ≠ 0x8100)) ∨ f.etherType = 0x88B5 then some (.drop 2)
  else if f.etherType ≠ 0x800 ∧ f.etherType ≠ 0x86DD then some (.exception 2)
  else if ¬ f.ipHeaderOk ∨ (frameFamily f = 4 ∧ f.ihl < 5) ∨ (frameFamily f = 6 ∧ 2 < f.optionHeaders) then some (.drop 3)
  else if f.fragment then some (.drop 4)
  else if ¬ f.isUdp ∨ ¬ f.udpLengthOk ∨ (frameFamily f = 6 ∧ f.udpSumZero) ∨ (¬ f.udpSumZero ∧ ¬ f.udpSumOk) then some (.drop 5)
  else match f.data with
    | .raw a _ => if a ≤ 3 ∨ (20 ≤ a ∧ a ≤ 63) then some (.exception 5) else some (.drop 6)
    | _ => none

/-- The fate of a frame whose SSRC is new to a learning entry. -/
def learnFate (s : State) (l e : Nat) (o : Option State) : Fate × State :=
  match o with
  | some t => (.leg l e, t)
  | none => (.drop 7, s)

/-- The shipped program's judgement of a frame (Table 4.6), with the state after what it learns. -/
def shippedFate (s : State) (f : Frame) : Fate × State :=
  match parseFate f with
  | some t => (t, s)
  | none =>
    match f.data with
    | .rtp p =>
      match lookupKey s (frameKey f f.dstPort f.srcPort p.ssrc) with
      | some x => (.leg x.leg x.entry, s)
      | none =>
        match learnEntry s f p with
        | some (l, e) => learnFate s l e (learnSsrc s l e p.ssrc)
        | none => (.drop 7, s)
    | .rtcp p => (rtcpLookup s f p.sender, s)
    | .raw _ _ => (.drop 6, s)

/-- A frame that classified to a leg's entry (R113): counted, then to the cipher complex with RxKslot or straight on. -/
def legFrame (s : State) (l e : Nat) (w : Waiting) : State :=
  let s1 := (s.inc (Obj.rxPackets l)).count (Obj.rxOctets l) w.frame.octets
  let plain := decide (s.rd (Obj.rxKslot l) = 0xFFFFFFFF)
  match w.frame.data with
  | .rtp p =>
    let s2 := s1.setLeg l { s1.leg l with lastRx := s.mono }
    if plain then
      match extend (s2.rxE l e) p.seq with
      | some x => deliverRtp s2 l e x p w.mono
      | none => if s.rd (Obj.rxKind e l) = 1 then s2.inc (Obj.rxLate l) else s2
    else s2.cipherAsk 0 (rxCtx l e) (.rxRtp l e p w.mono)
  | .rtcp p => if plain then deliverRtcp s1 l p w.mono else s1.cipherAsk 0 (rxCtx l e) (.rxRtcp l e p w.mono)
  | .raw _ _ => s1

/-- Sixteen RX requests that wait in the cipher scheduler hold the sixteen classifier threads, and frames stay in the FIFOs (R109,
R134). -/
def threadsHeld (s : State) : Bool := decide (16 ≤ (s.cip.waiting.filter (fun r => decide (r.cls = 0) && !r.alt)).length)

/-- FRAME_CLASSIFY (R110 to R115): the oldest waiting frame. `v` is what a loaded program other than the shipped one answers,
`overrun` that the program exceeds 256 cycles. -/
def classify (s : State) (v : Verdict) (overrun : Bool) : State :=
  match s.le.fifo with
  | [] => s
  | w :: rest =>
    if threadsHeld s then s else
    let s1 := { s with le := { s.le with fifo := rest } }
    if overrun then exceptionPost (s1.inc (Obj.clsOverrun w.port)) w 0xF0
    else
      let (fate, s2) :=
        if s.le.classifier.isNone then shippedFate s1 w.frame
        else match v with
          | .drop => (Fate.drop 0, s1)
          | .exception r => (Fate.exception r, s1)
          | .leg l e => if s1.legActive l ∧ s1.serves ∧ e < 8 then (Fate.leg l e, s1) else (Fate.drop 7, s1)
      match fate with
      | .drop k => if k = 0 then s2 else
          s2.inc ([Obj.badL2 w.port, Obj.badL3 w.port, Obj.fragment w.port, Obj.badL4 w.port, Obj.badRtp w.port,
            Obj.unknown w.port].getD (k - 2) (Obj.unknown w.port))
      | .exception r => exceptionPost s2 w r
      | .leg l e => legFrame s2 l e w

/-- CLASSIFIER_IMAGE_WRITE (R114, R401): a verified image takes effect between frames. -/
def classifierWrite (s : State) (i : Image) : Nat × State :=
  let a := verifyImage s 0x11 i
  if a ≠ 0 then (a, s) else (0, { s with le := { s.le with classifier := some i, shipped := false } })

/-! ### The commands -/

/-- ETH_FRAME_RX; during the pause of a quarantine frames are dropped and count in InOverflow (R316). -/
def execEthFrameRx (port : Nat) (f : Frame) (s : State) : Host.Outcome State Fault Refusal :=
  .next (if port < 2 ∧ (s.engines ∨ s.running ∧ f.etherType = 0x88F7) then frameRx s port f
    else if port < 2 ∧ s.powered then (s.inc (Obj.inFrames port)).inc (Obj.inOverflow port) else s)
def execFrameClassify (v : Verdict) (overrun : Bool) (s : State) : Host.Outcome State Fault Refusal :=
  .next (if s.engines then classify s v overrun else s)
def execJitterDepthAdjust (l : Nat) (s : State) : Host.Outcome State Fault Refusal := .next (depthAdjust s l)
def execVideoWaitExpiry (l e : Nat) (s : State) : Host.Outcome State Fault Refusal :=
  .next (if e < 8 ∧ s.engines then videoWait s l e else s)
def execNackSend (l e : Nat) (s : State) : Host.Outcome State Fault Refusal :=
  .next (if e < 8 ∧ s.engines then nackSend s l e else s)
def execNackRetry (l e : Nat) (s : State) : Host.Outcome State Fault Refusal :=
  .next (if e < 8 ∧ s.engines then nackRetry s l e else s)

end Sys2Proof.Machine
end

