-- ==== Sys2Proof/Machine/Cipher.lean ====
section
/-! DEFINITION. The cipher complex (R132 to R138, R142, R144 to R147, R151, R152): dispatch of requests to cores, release of their
results, receive checks, held windows. -/

namespace Sys2Proof.Machine

/-- A core that has done nothing yet. -/
def CipherCore.idle : CipherCore := ⟨false, none⟩

def State.cCore (s : State) (k : Nat) : CipherCore := AMap.get CipherCore.idle k s.cip.cores
def State.setCCore (s : State) (k : Nat) (x : CipherCore) : State :=
  { s with cip := { s.cip with cores := AMap.put CipherCore.idle k x s.cip.cores } }

/-- The leg a request works for; none for a sector. -/
def CipherJob.leg (j : CipherJob) : Option Nat :=
  match j with
  | .rxRtp l _ _ _ => some l
  | .rxRtcp l _ _ _ => some l
  | .tx p => some p.leg
  | .sector _ _ _ => none

/-- The slot a request uses. -/
def jobSlot (s : State) (j : CipherJob) : Nat :=
  match j with
  | .rxRtp l _ _ _ => s.rd (Obj.rxKslot l)
  | .rxRtcp l _ _ _ => s.rd (Obj.rxKslot l)
  | .tx p => s.rd (Obj.txKslot p.leg)
  | .sector _ _ k => k

/-- A request is receive work. -/
def CipherJob.isRx (j : CipherJob) : Bool :=
  match j with
  | .rxRtp _ _ _ _ => true
  | .rxRtcp _ _ _ _ => true
  | _ => false

/-- The slot a request uses: RxKslotAlt's in the trial of R145. -/
def CipherReq.slot (s : State) (r : CipherReq) : Nat :=
  if r.alt then (match r.job.leg with
    | some l => s.rd (Obj.rxKslotAlt l)
    | none => jobSlot s r.job)
  else jobSlot s r.job

/-- The slot `k` is LOADED and of a suite the request may use (R135, R144). -/
def jobSlotOk (s : State) (k : Nat) (j : CipherJob) : Bool :=
  let suite := s.rd (Obj.kSuite k)
  decide (k < 65536) && decide (s.slotState k = 1) &&
    (match j with
     | .sector _ _ _ => decide (suite = 7)
     | _ => decide (1 ≤ suite) && decide (suite ≤ 6))

/-- The request the scheduler takes next (R132): BULK once 15 dispatches have passed it by, RX and TX in alternation when both
wait, BULK when neither waits. -/
def pickRequest (c : Cipher) : Option CipherReq :=
  let head := fun (k : Nat) => c.waiting.find? (fun r => decide (r.cls = k))
  match head 0, head 1, head 2 with
  | rx, tx, some b =>
    if 15 ≤ c.sinceBulk then some b
    else match rx, tx with
      | some r, some t => if c.lastWasRx then some t else some r
      | some r, none => some r
      | none, some t => some t
      | none, none => some b
  | some r, some t, none => if c.lastWasRx then some t else some r
  | some r, none, none => some r
  | none, some t, none => some t
  | none, none, none => none

/-- A packet whose slot is PENDING, EMPTY or of the wrong suite (R144): KeyFail, and LEG_KEY_MISSING as the condition begins. -/
def keyMissing (s : State) (j : CipherJob) : State :=
  match j.leg with
  | none => s.inc Obj.tapSectorsDropped
  | some l =>
    let x := s.leg l
    let s1 := s.inc (Obj.keyFail l)
    if j.isRx then (if x.keyMissRx then s1 else (s1.setLeg l { x with keyMissRx := true }).event Ev.legKeyMissing l 1)
    else if x.keyMissTx then s1 else (s1.setLeg l { x with keyMissTx := true }).event Ev.legKeyMissing l 0

/-- The slot is there again: the condition of R144 has ended. -/
def keyPresent (s : State) (j : CipherJob) : State :=
  match j.leg with
  | none => s
  | some l =>
    let x := s.leg l
    if j.isRx then (if x.keyMissRx then s.setLeg l { x with keyMissRx := false } else s)
    else if x.keyMissTx then s.setLeg l { x with keyMissTx := false } else s

/-- A request that fails (R152): a packet is dropped and counted, a sector stops its tap as R150 states. -/
def requestFails (s : State) (j : CipherJob) : State :=
  match j with
  | .sector _ r _ => (tapStop s r.isLeg r.id).event Ev.xtsSectorReuse (tapName r.isLeg r.id) 0
  | _ =>
    match j.leg with
    | some l => s.inc (Obj.faultDrop l)
    | none => s

/-- A packet that fails authentication (R145, R153). -/
def authFails (s : State) (l : Nat) : State := (s.inc (Obj.authFail l)).eventRated Ev.srtpAuthFail l l 0

/-- A request whose slot may not serve it: a trial under RxKslotAlt has failed with it (R145), anything else falls under R144. -/
def slotFails (s : State) (r : CipherReq) : State :=
  match r.alt, r.job.leg with
  | true, some l => authFails s l
  | _, _ => keyMissing s r.job

/-- The fault check of a suite's mode in force (R151): 0 DOUBLE, 1 INVERSE. -/
def checkMode (s : State) (suite : Nat) : Nat :=
  s.rd (if suite = 7 then Obj.fcXts else if 5 ≤ suite then Obj.fcSrtpGcm else Obj.fcSrtpCm)

/-- What core `k` runs once it has taken a request: its slot's material and Gen copied, the fault check in force (R142, R151). -/
def runOf (s : State) (r : CipherReq) : CipherRun :=
  let slot := r.slot s
  ⟨r, slot, (s.material slot).getD 0, s.rd (Obj.kSuite slot), s.rd (Obj.kGen slot), checkMode s (s.rd (Obj.kSuite slot))⟩

/-- The request out of the scheduler, its turns noted (R132). -/
def cipherTake (s : State) (r : CipherReq) : State :=
  { s with cip := { s.cip with
    waiting := s.cip.waiting.erase r
    lastWasRx := if r.cls = 2 then s.cip.lastWasRx else decide (r.cls = 0)
    sinceBulk := if r.cls = 2 ∨ ¬ s.cip.waiting.any (fun x => decide (x.cls = 2)) then 0 else s.cip.sinceBulk + 1 } }

/-- CIPHER_DISPATCH (R132, R142, R144): core k takes the next request with a copy of the slot's material and Gen. Once all cores
are retired every request fails (R152). A TX request taken lets the packetiser go on (R134). -/
def cipherDispatch (s : State) (k : Nat) : State :=
  let core := s.cCore k
  match pickRequest s.cip with
  | none => s
  | some r =>
    if s.rd Obj.coresActive ≠ 0 ∧ (core.retired ∨ core.job.isSome) then s
    else
      let s1 := cipherTake s r
      let s2 :=
        if s.rd Obj.coresActive = 0 then requestFails s1 r.job
        else if !jobSlotOk s (r.slot s) r.job then slotFails s1 r
        else
          ((keyPresent s1 r.job).setCCore k { core with job := some (runOf s r) }).wr
            (Obj.kInFlight (r.slot s)) (s.rd (Obj.kInFlight (r.slot s)) + 1)
      packetiserResume s2.cip.formed s2

/-- An earlier request of the same context has no result yet (R133). -/
def earlierOpen (s : State) (r : CipherReq) : Bool :=
  s.cip.waiting.any (fun x => decide (x.ctx = r.ctx) && decide (x.id < r.id)) ||
    s.cip.cores.any (fun c => c.2.job.any (fun j => decide (j.req.ctx = r.ctx) && decide (j.req.id < r.id)))

/-! ### Receive checks (R138, R145 to R147) -/

/-- A packet authenticates under a slot's copy: the session keys derived from it, its suite, the rollover counter or SRTCP index
expected, no MKI, unaltered (R136, R138). A GCM tag also covers the initialisation vector (R137). -/
def authentic (pr : Option Prot) (j : CipherRun) (rtcp : Bool) (ssrc i : Nat) : Bool :=
  match pr with
  | some p =>
    let k := sessionKeys j.suite (keyOctets j.suite j.material) rtcp
    decide (p.suite = j.suite) && decide ((⟨p.enc, p.auth, p.salt⟩ : SessionKeys) = k) &&
      decide (p.index = if rtcp then i else i / 65536) && !p.mki && p.intact &&
      (decide (j.suite ≤ 4) || decide (p.iv = packetIv j.suite k.salt rtcp ssrc i))
  | none => false

/-- A packet that does not authenticate under RxKslot is tried once more under RxKslotAlt where that names a LOADED SRTP slot: a second
RX operation in the packet's place (R133, R145). -/
def notAuthentic (s : State) (l : Nat) (j : CipherRun) : State :=
  let k := s.rd (Obj.rxKslotAlt l)
  if !j.req.alt && decide (k < 65536) && jobSlotOk s k j.req.job then
    { s with cip := { s.cip with waiting := { j.req with
      alt := true
      retried := false } :: s.cip.waiting } }
  else authFails s l

/-- A replay: already accepted, older than the window, or below the floor (R146, R148). -/
def replayed (seen : List Nat) (highest floor window i : Nat) : Bool :=
  seen.contains i || (!seen.isEmpty && decide (i + window ≤ highest)) || decide (i < floor)

/-- An accepted index enters the replay state: the indexes of the window that were accepted. -/
def accept (seen : List Nat) (highest window i : Nat) : List Nat :=
  let h := max highest i
  (i :: seen).filter (fun x => decide (h < x + window))

/-- The highest accepted index has entered a new window: an ACTIVE twin journals it (R147). -/
def noteWindow (s : State) (l e i : Nat) : State :=
  let x := s.rxE l e
  let w := max x.highest i / 4096
  if s.role = 1 ∧ x.journaled ≠ some w then (s.setRxE l e { x with journaled := some w }).journal (.window l false e w) else s

/-- SRTP_RECEIVE_CHECK of an SRTP packet (R138). -/
def srtpReceive (s : State) (l e : Nat) (p : Rtp) (arrival : Nat) (j : CipherRun) : State :=
  let x := s.rxE l e
  let w := s.rd (Obj.replayWindow l)
  if bit (s.rd (Obj.exhausted l)) 2 ∨ bit (s.rd (Obj.exhausted l)) 3 then s
  else match extend x p.seq with
    | none => authFails s l
    | some i =>
      if replayed x.seen x.highest x.floor w i then s.inc (Obj.replayFail l)
      else if !authentic p.prot j false p.ssrc i then notAuthentic s l j
        else
          let last := decide (i = 2 ^ 48 - 1)
          let s1 := if j.req.alt then s.inc (Obj.altUsed l) else s
          let s2 := s1.setRxE l e { x with seen := accept x.seen x.highest w i, exhausted := x.exhausted || last }
          let s3 := if last then
              (s2.wr (Obj.exhausted l) (setBit (s2.rd (Obj.exhausted l)) 2)).event Ev.srtpExhausted l 1
            else s2
          deliverRtp (noteWindow s3 l e i) l e i p arrival

/-- The same of an SRTCP packet: its index is carried in it. -/
def srtcpReceive (s : State) (l e : Nat) (p : Rtcp) (arrival : Nat) (j : CipherRun) : State :=
  let x := s.rxE l e
  let w := s.rd (Obj.replayWindow l)
  if bit (s.rd (Obj.exhausted l)) 2 ∨ bit (s.rd (Obj.exhausted l)) 3 then s
  else match p.prot with
    | none => authFails s l
    | some pr =>
      let i := pr.index
      if replayed x.srtcpSeen x.srtcpHighest 0 w i then s.inc (Obj.replayFail l)
      else if !authentic p.prot j true p.sender i then notAuthentic s l j
        else if 2 ^ 31 ≤ i then authFails s l
        else
          let last := decide (i = 2 ^ 31 - 1)
          let s1 := if j.req.alt then s.inc (Obj.altUsed l) else s
          let s2 := s1.setRxE l e { x with
            srtcpSeen := accept x.srtcpSeen x.srtcpHighest w i
            srtcpHighest := max x.srtcpHighest i
            srtcpExhausted := x.srtcpExhausted || last }
          let s3 := if last then
              (s2.wr (Obj.exhausted l) (setBit (s2.rd (Obj.exhausted l)) 3)).event Ev.srtpExhausted l 1
            else s2
          deliverRtcp s3 l p arrival

/-- The protection a packet leaves under (R136, R137): session keys derived from the slot's copy, the initialisation vector of its SSRC
and index, E set in SRTCP, no MKI. -/
def protOf (j : CipherRun) (p : OutPkt) : Prot :=
  let rtcp := !p.rtcp.isEmpty
  let k := sessionKeys j.suite (keyOctets j.suite j.material) rtcp
  ⟨j.suite, k.enc, k.auth, k.salt, packetIv j.suite k.salt rtcp p.ssrc p.index, if rtcp then p.index else p.index / 65536, rtcp, false, true⟩

/-- The 4,096 octets of a recording sector (R126, Table 8.7): header, samples in 32-bit containers, reserved octets. -/
def sectorOctets (r : Sector) : List Nat :=
  octets 4 0x53435241 ++ octets 4 (tapName r.isLeg r.id) ++ octets 8 r.number ++ octets 10 r.time ++
    octets 2 (b2n r.firstAbsent + 2 * b2n r.secondAbsent + 4 * b2n r.clipped) ++ octets 2 r.gen ++ octets 34 0 ++
    r.samples.flatMap (fun v => octets 4 (uns 32 v)) ++ octets 192 0

/-- A sector as one XTS data unit under the copy of its slot's two keys (R149). -/
def sealSector (j : CipherRun) (r : Sector) : Sector :=
  let m := keyOctets 7 j.material
  let q := { r with gen := j.gen }
  { q with cipher := xtsUnit (m.take 32) (m.drop 32) r.number (sectorOctets q) }

/-- A sector written lies in its tap's range of the epoch it was encrypted in, and counts where it was written over a recorded one
(R150). -/
def sectorWritten (s : State) (j : CipherRun) (r : Sector) : State :=
  let s1 := if j.gen = s.rd (Obj.kGen j.slot) then
      { s with cip := { s.cip with ranges := extendRange s.cip.ranges j.slot j.gen (tapName r.isLeg r.id) r.number } }
    else s
  if r.overwrites then s1.inc Obj.xtsOverwrites else s1

/-- What a released result does. -/
def releaseJob (s : State) (j : CipherRun) : State :=
  match j.req.job with
  | .rxRtp l e p t => srtpReceive s l e p t j
  | .rxRtcp l e p t => srtcpReceive s l e p t j
  | .tx p => s.enqueue { p with prot := some (protOf j p) }
  | .sector ring r _ =>
    match s.ringPost ring 4160 (.sector (sealSector j r)) with
    | (.ok, t) => sectorWritten t j r
    | _ => s.inc Obj.tapSectorsDropped

/-- A core whose fault check mismatches (R152): retired until reset. -/
def coreRetire (s : State) (k : Nat) : State :=
  let s1 := ((s.setCCore k ⟨true, none⟩).wr Obj.coresRetired (setBit (s.rd Obj.coresRetired) k)).wr Obj.coresActive
    (s.rd Obj.coresActive - 1)
  let s2 := s1.event Ev.cipherCoreRetired k 0
  if s2.rd Obj.coresActive = 0 then s2.event Ev.cipherUnavailable 0 0 else s2

/-- CIPHER_RESULT_RELEASE (R133, R138, R142, R152): the result of core k leaves in its context's order, or is withheld. -/
def resultRelease (s : State) (k : Nat) (mismatch : Bool) : State :=
  match (s.cCore k).job with
  | none => s
  | some j =>
    if mismatch then
      let s1 := (coreRetire s k).wr (Obj.kInFlight j.slot) (s.rd (Obj.kInFlight j.slot) - 1)
      if j.req.retried then requestFails s1 j.req.job
      else { s1 with cip := { s1.cip with waiting := { j.req with retried := true } :: s1.cip.waiting } }
    else if earlierOpen s j.req then s
    else
      let s1 := (s.setCCore k { s.cCore k with job := none }).wr (Obj.kInFlight j.slot) (s.rd (Obj.kInFlight j.slot) - 1)
      releaseJob s1 j

/-! ### Held windows (R147) -/

/-- Held packets whose window is reserved go on to the cipher; one of a further window starts its reservation. -/
def releaseHeld (l e : Nat) : List OutPkt → State → State
  | [], s => s
  | p :: r, s =>
    let x := s.txE l e
    if x.window = some (p.index / 4096) then releaseHeld l e r (s.protect p)
    else if x.reserving.isSome then
      releaseHeld l e r (s.setTxE l e { x with held := x.held ++ [p] })
    else
      let s1 := s.journal (.window l true e (p.index / 4096))
      releaseHeld l e r (s1.setTxE l e { x with reserving := some (p.index / 4096, s1.lastJseq), held := x.held ++ [p] })

/-- WINDOW_COMMIT_RELEASE (R147): the reservation's journal entry is committed. -/
def windowRelease (s : State) (l e : Nat) : State :=
  let x := s.txE l e
  match x.reserving with
  | none => s
  | some (w, j) =>
    if !s.committed j then s
    else releaseHeld l e x.held (s.setTxE l e { x with window := some w, reserving := none, held := [] })

def execCipherDispatch (k : Nat) (s : State) : Host.Outcome State Fault Refusal :=
  .next (if k < 8 ∧ s.engines then cipherDispatch s k else s)
def execCipherResultRelease (k : Nat) (mismatch : Bool) (s : State) : Host.Outcome State Fault Refusal :=
  .next (if k < 8 then resultRelease s k mismatch else s)
def execWindowCommitRelease (l e : Nat) (s : State) : Host.Outcome State Fault Refusal :=
  .next (if e < 4 then windowRelease s l e else s)

end Sys2Proof.Machine
end

