-- ==== Sys2Proof/Machine/Digest.lean ====
section
/-! DEFINITION. The configuration digest (R63, R64), the records of the persistent image (R65), and the program images that
are loaded (R404, Table 18.10). -/

namespace Sys2Proof.Machine

/-- The keys one object row stands for, for objects that are no tables. -/
def Attr.keys (a : Attr) : List Nat :=
  (List.range (a.ixHi + 1 - a.ixLo)).foldr (fun i t =>
    ((List.range ((a.subHi - a.subLo) / a.subStep + 1)).map (fun j => key (a.ixLo + i) (a.subLo + j * a.subStep) 0)) ++ t) []

/-- A row of PERSIST objects that contributes records. DESIGN CHOICE: PersistImage, itself PERSIST, is no record of the image it
returns or of the digest (R63 and R65 state no value for it there). -/
def Attr.persists (a : Attr) : Bool := decide (a.persist = .persist) && decide (a.elems = 0) && decide (a.ixLo ≠ 0x1030)

/-- The keys and lengths of PERSIST objects in ascending order of index and sub-index; LOCAL ones too when asked for. -/
def persistKeys (withLocal : Bool) : List (Nat × Nat) :=
  ((allObjects.filter (fun a => a.persists && (withLocal || !a.loc))).foldl (fun t a => a.keys.foldl (fun u k => AMap.ins k a.len u) t) [])

/-- A record (R63): INDEX, SUB, ELEMENT, value length, value. -/
def recordOctets (k : Nat) (value : List Nat) : List Nat :=
  octets 2 (k / 0x100000000) ++ octets 1 (k / 0x1000000) ++ octets 3 k ++ octets 2 value.length ++ value

/-- The octets of the value of 0x2030 ClassifierImage (R114): those of the image in force. DESIGN CHOICE: none while the shipped
program is in force, whose octets no object holds. -/
def classifierOctets (i : Option Image) : List Nat := (i.map Image.octs).getD []

/-- The octets an object contributes (R63). -/
def digestRecord (s : State) (k len : Nat) : List Nat :=
  recordOctets k (if k = key 0x2030 0 0 then classifierOctets s.le.classifier else octets len (s.rd k))

/-- ConfigDigest (R63, R64), computed when it is read: over all writes that precede the READ. -/
def configDigest (s : State) : Nat := crc crc64 ((persistKeys false).foldr (fun e t => digestRecord s e.1 e.2 ++ t) [])

/-- The images of a program table, in the order of their numbers. -/
def tableImages (ps : List (Nat × Option Image)) : List Image := ps.filterMap Prod.snd

/-- All loaded program images in ascending CLASS and NUMBER (Table 18.10). -/
def loadedPrograms (s : State) : List Image :=
  tableImages s.mt.programs ++ s.le.classifier.toList ++ tableImages s.cp.programs ++ tableImages s.en.programs ++ tableImages s.ad.programs

end Sys2Proof.Machine
end

