-- ==== Sys2Proof/Machine/Memory.lean ====
section
/-! DEFINITION. The HBM controller (spec/13): partitions, requests to the pseudo-channels, refresh and temperature, errors,
training, quarantine. -/

namespace Sys2Proof.Machine

/-! ### The interleave (R302) -/

/-- A pseudo-channel that has served nothing yet. -/
def PcCtl.idle : PcCtl := ⟨[], [], [], false, [], 0, 0, (0, 0), [], false⟩
/-- A bank at reset (R309). -/
def Bank.idle : Bank := ⟨0, false, 2, 0⟩

def State.pc (s : State) (p : Nat) : PcCtl := AMap.get PcCtl.idle p s.mm.pcs
def State.setPc (s : State) (p : Nat) (x : PcCtl) : State := { s with mm := { s.mm with pcs := AMap.put PcCtl.idle p x s.mm.pcs } }

/-- A pseudo-channel is in the interleave. -/
def State.pcOnline (s : State) (p : Nat) : Bool := bit (s.rd (if p < 32 then Obj.pcOnline0 else Obj.pcOnline1)) (p % 32)

/-- The online pseudo-channels in ascending order. -/
def State.onlinePcs (s : State) : List Nat := (List.range 64).filter (fun p => s.pcOnline p)

/-- The pseudo-channel of an octet address: granules of 1 KiB in rotation. -/
def State.pcOf (s : State) (a : Nat) : Option Nat :=
  let on := s.onlinePcs
  if on.isEmpty ∨ s.capacity ≤ a then none else on[a / 1024 % on.length]?

/-- An address lies in a protected partition (R303). -/
def State.protectedAt (s : State) (a : Nat) : Bool := decide (s.partBase 2 ≤ a) && decide (a < s.partBase 4)

/-- The channel of a pseudo-channel, and its two pseudo-channels. -/
def channelOf (p : Nat) : Nat := p / 32 * 16 + p % 32 / 2
def channelPcs (ch : Nat) : List Nat := [ch * 2, ch * 2 + 1]

/-- A temperature as the sensors' objects hold it. -/
def State.stackTemp (s : State) (k : Nat) : Int := s.rdI16 (Obj.stackTemp k)

/-! ### Acceptance (R307, R308) -/

/-- The octets of a value that a mask selects, over another value. -/
def maskMerge (mask new old : Nat) : Nat :=
  ofOctets ((List.range 32).map (fun i => if bit mask i then octet new i else octet old i))

/-- The unit at an address. -/
def unitAt (s : State) (a : Nat) : Nat := ofOctets ((List.range 32).map (fun i => (s.rdByte (a + i)).toNat))

/-- A masked write of a unit. -/
def writeUnit (s : State) (a mask data : Nat) : State :=
  (List.range 32).foldl (fun t i => if bit mask i then t.wrByte (a + i) (BitVec.ofNat 8 (octet data i)) else t) s

/-- Octets the queued writes of a unit cover. -/
def queuedMask (ws : List MemReq) (a : Nat) : Nat :=
  ofOctets ((List.range 4).map (fun j => ofOctets [((List.range 8).map (fun i =>
    if ws.any (fun w => decide (w.op.addr = a) && bit w.op.mask (8 * j + i)) then 2 ^ i else 0)).sum]))

/-- The class of a request (R18, Table 1.2): fixed by its source block and the partition it touches. -/
def reqClass (s : State) (o : MemOp) : Nat :=
  match o.reader with
  | .host => 3
  | .layer _ _ | .check _ | .analysis _ => 2
  | _ => regionClass (partOf s o.addr)

/-- A controller has room for a request: a write to a unit with a queued write takes no entry. -/
def PcCtl.hasRoom (x : PcCtl) (r : MemReq) : Bool :=
  if r.op.write then x.writes.any (fun w => decide (w.op.addr = r.op.addr)) || decide (x.writes.length < 64)
  else decide (x.reads.length < 64)

/-- A controller accepts a request (R308): the order of accesses is the order of acceptance, so a write's octets count from here and a
read's value is taken here; a write to a unit with a queued write merges into it. -/
def acceptReq (s : State) (p : Nat) (r0 : MemReq) : State :=
  let x := s.pc p
  let r := { r0 with id := s.mm.nextId, accepted := s.mono }
  let op := r.op
  let s0 := { s with mm := { s.mm with nextId := s.mm.nextId + 1 } }
  if op.write then
    let merged := x.writes.any (fun w => decide (w.op.addr = op.addr))
    let ws := if merged then x.writes.map (fun (w : MemReq) => if w.op.addr = op.addr then
          { w with op := { w.op with mask := w.op.mask ||| op.mask, data := maskMerge op.mask op.data w.op.data } } else w)
      else x.writes ++ [r]
    let s1 := writeUnit s0 op.addr op.mask op.data
    let s2 := if op.mask = 2 ^ 32 - 1 then s1.heal op.addr 32 else s1
    s2.setPc p { x with writes := ws, draining := x.draining || decide (48 ≤ ws.length) }
  else
    let cover := queuedMask x.writes op.addr
    s0.setPc p { x with reads := x.reads ++ [{ r with value := unitAt s op.addr, covered := decide (cover &&& op.mask = op.mask) }] }

/-- The requests at the heads of a router's virtual channels, one for each class (R19). -/
def channelHeads (q : List MemReq) : List MemReq := [0, 1, 2, 3].filterMap (fun c => q.find? (fun r => decide (r.cls = c)))

/-- A controller takes what it has room for from its router's virtual channels, at most `n` requests. The manual states no order among the
classes there; the model takes the channels' heads from C0 up (DESIGN CHOICE). -/
def letIn (s : State) (p : Nat) : Nat → State
  | 0 => s
  | n + 1 =>
    let x := s.pc p
    match (channelHeads x.stalled).find? (fun r => x.hasRoom r) with
    | none => s
    | some r => letIn (acceptReq (s.setPc p { x with stalled := x.stalled.erase r }) p r) p n

/-- A request reaches its pseudo-channel's router (R18, R19): behind the stalled requests of its class, and past those of the others. -/
def arriveReq (s : State) (o : MemOp) : State :=
  match s.pcOf o.addr with
  | none => s
  | some p =>
    let x := s.pc p
    let r : MemReq := ⟨o, reqClass s o, s.mm.nextId, s.mono, false, 0, 0, false⟩
    letIn ({ s with mm := { s.mm with nextId := s.mm.nextId + 1 } }.setPc p { x with stalled := x.stalled ++ [r] }) p (x.stalled.length + 1)

/-- A leg engine's read of its egress queue's head begins the copy of the item (R94). -/
def beginRead (s : State) (o : MemOp) : State :=
  match o.write, o.reader with
  | false, .egress l =>
    match (s.leg l).egressQ with
    | some q => s.updQ q (s.q q).beginCopy
    | none => s
  | _, _ => s

/-- MEM_REQUEST_ACCEPT (R302, R308): an access unit is 32 octets. -/
def memAccept (s : State) (op : MemOp) : State :=
  let o := { op with addr := op.addr / 32 * 32, mask := op.mask % 2 ^ 32 }
  beginRead (arriveReq s o) o

/-! ### Service (R307, R309, R311, R312) -/

/-- The rank of a request: 0 with C0. -/
def MemReq.rank (r : MemReq) : Nat := if r.promoted then 0 else r.cls

/-- Bank and row of an address, inside a pseudo-channel. -/
def memBank (a : Nat) : Nat := Config.bankOf (a / 1024)
def memRow (a : Nat) : Nat := Config.rowOf (a / 1024)

/-- The oldest request of the best rank. -/
def bestOf (q : List MemReq) : Option MemReq :=
  let top := q.foldl (fun m r => min m r.rank) 4
  q.find? (fun r => decide (r.rank = top))

/-- The request served next from a queue (R307): the oldest of the best rank, or a younger one of its rank to the open row of the
same bank, at most 4 times in a row. The second part is the older request passed by. -/
def pickServe (x : PcCtl) (q : List MemReq) : Option (MemReq × Option MemReq) :=
  match bestOf q with
  | none => none
  | some r =>
    let bk := AMap.get Bank.idle (memBank r.op.addr) x.banks
    if bk.isOpen ∧ bk.row ≠ memRow r.op.addr + 1 ∧ r.passed < 4 then
      match q.find? (fun y => decide (y.rank = r.rank) && decide (y.id ≠ r.id) && decide (memBank y.op.addr = memBank r.op.addr) &&
          decide (memRow y.op.addr + 1 = bk.row)) with
      | some y => some (y, some r)
      | none => some (r, none)
    else some (r, none)

/-- The bank after an access (R309), and whether the access found its row open. -/
def Bank.access (b : Bank) (row now : Nat) : Bank × Bool :=
  let same := decide (b.row = row + 1)
  let c := if same then min 3 (b.counter + 1) else b.counter - 1
  (⟨row + 1, decide (2 ≤ c), c, now⟩, b.isOpen && same)

/-- A composed layer whose picture cannot be read is not ready at its tick (R257, R312): it shows what it showed before, or its
fallback. -/
def layerPoisoned (s : State) (v z : Nat) : State :=
  let c := s.rd (Obj.canvSet v)
  let x := s.lay v z
  match (s.cp.jobs.flatMap (fun j => j.2)).find? (fun j => decide (j.cset = c)), x.before with
  | some j, some (last, done, seq, src) =>
    let stale := min 255 (j.tick - (if done = 0 then x.since else last))
    let back := decide (done = 0) || decide (s.rd (Obj.layStaleLimit z v) ≤ stale)
    let fall : Piece := pieceOf s v z (fallbackPix (s.setLay v z { x with shown := .none }) v z)
    let keepSrc := decide (s.rd (Obj.layFallback z v) = 0) && src ≠ PixSrc.none
    let y := s.cs c
    let s1 := s.setCs c { y with bufs := y.bufs.map (fun (b : CanvBuf) => if b.id = j.buf then
      { b with content := b.content.map (fun (q : Composed) => if q.canv = v then
          { q with pieces := q.pieces.map (fun (p : Piece) =>
              if p.slot ≠ z then p else if back && !keepSrc then fall else { p with src := src }) } else q) } else b) }
    let s2 := s1.setLay v z { x with last := last, done := done, seq := seq, before := none }
    let s3 := ((s2.wr (Obj.lsStale z v) stale).inc (Obj.lsStaleTicks z v)).wr (Obj.lsShown z v) (if back then 2 else 1)
    if back then (s3.inc (Obj.lsFallbackTicks z v)).eventRated Ev.layerFallback v v z else s3
  | _, _ => s

/-- A read met a poisoned unit at an address: what its reader does (Table 13.3). -/
def poisonRead (s : State) (r : Reader) (addr : Nat) : State :=
  match r with
  | .core c =>
    let k := s.core c
    if (s.itemOn c).isSome ∧ ¬ k.faulted then s.setCore c { k with fcause := 5, faddr := addr, faulted := true } else s
  | .jitter l e q =>
    let x := s.rxE l e
    (s.setRxE l e { x with slots := x.slots.filter (fun k => decide (k.2.seq ≠ q)), video := x.video.filter (fun v => decide (v.seq ≠ q)) }).inc
      (Obj.rxLost l)
  | .egress l =>
    match (s.leg l).egressQ with
    | some q =>
      match (s.q q).pop with
      | (some _, y) => s.updQ q { y with lost := satAdd y.lost 1 0xFFFFFFFF }
      | _ => s
    | none => s
  | .pipe p =>
    { s with vd := { s.vd with pipes := s.vd.pipes.map (fun j => if j.1 = p then (j.1, { j.2 with broken := true }) else j) } }
  | .layer v z => layerPoisoned s v z
  | .check i =>
    { s with cp := { s.cp with opImages := s.cp.opImages.map (fun x => if x.1 = i then (x.1, x.2.1, false) else x) } }
  | .analysis a =>
    ((enabledRctx s).filter (fun r => decide (s.rd (Obj.rctxActx r) = a))).foldl (fun t r => t.setRx r { t.rx r with askKey := true }) s
  | .backEnd b =>
    match s.backJob b with
    | some j => s.setRx j.rctx { s.rx j.rctx with askKey := true }
    | none => s
  | .host => s.emit (.hostPoisoned 32)
  | .other => s

/-- A corrected error counted towards retraining (R311, R314). -/
def countCe (s : State) (p : Nat) (onDie : Bool) : State :=
  if onDie then s.inc (Obj.pcOnDieCorrected p)
  else
    let x := s.pc p
    let sec := s.mono / 1000000000
    let n := if x.ces.1 = sec then x.ces.2 + 1 else 1
    (s.setPc p { x with ces := (sec, n), due := x.due || decide (s.rd Obj.ceRetrain ≤ n) }).inc (Obj.pcCorrected p)

/-- An uncorrectable error counted (R311, R314). -/
def countUe (s : State) (p : Nat) : State :=
  let x := s.pc p
  let us := (s.mono :: x.ues).filter (fun t => decide (s.mono < t + 60000000000))
  (s.setPc p { x with ues := us, due := x.due || decide (s.rd Obj.ueRetrain ≤ us.length) }).inc (Obj.pcUncorrected p)

/-- A unit marked as poisoned. -/
def State.spoil (s : State) (a : Nat) : State :=
  { s with mm := { s.mm with poison := if s.mm.poison.contains a then s.mm.poison else a :: s.mm.poison } }

/-- An access to the stack at a unit ended so (R311, R318): a protected granule is reconstructed, a unit of a restartable partition
poisoned. -/
def eccAt (s : State) (p a : Nat) (r : EccResult) : State :=
  match r with
  | .clean => s
  | .corrected => countCe s p false
  | .onDie => countCe s p true
  | .uncorrectable =>
    let s1 := countUe s p
    if s.protectedAt a then s1
    else
      ({ s1 with mm := { s1.mm with poison := if s1.mm.poison.contains a then s1.mm.poison else a :: s1.mm.poison } }).eventRated
        Ev.hbmUe p p 0
  | .stripeLost => if s.protectedAt a then (countUe s p).event Ev.hbmProtectedLost p 0 else s

/-- Octets moved in a class, for ClassTraffic. -/
def State.moved (s : State) (cls n : Nat) : State :=
  { s with mm := { s.mm with traffic := AMap.put 0 cls (AMap.get 0 cls s.mm.traffic + n) s.mm.traffic } }

/-- MEM_REQUEST_SERVE (R307 to R309, R311): pseudo-channel p serves its next request; `r` says how the stack answered. A channel in
training serves nothing. -/
def memServe (s : State) (p : Nat) (r : EccResult) : State :=
  let x := s.pc p
  if ¬ s.pcOnline p ∨ s.mm.training.any (fun t => decide (t.1 = channelOf p)) then s
  else
    let wr := x.draining || x.reads.isEmpty
    match pickServe x (if wr then x.writes else x.reads) with
    | none => s
    | some (y, passed) =>
      let left := (if wr then x.writes else x.reads).filter (fun z => decide (z.id ≠ y.id))
      let left1 := left.map (fun (z : MemReq) =>
        if passed.any (fun o => decide (o.id = z.id)) then { z with passed := z.passed + 1 } else z)
      let stack := wr || !y.covered
      let bk := AMap.get Bank.idle (memBank y.op.addr) x.banks
      let (bk1, hit) := bk.access (memRow y.op.addr) s.mono
      let x1 : PcCtl := { x with
        reads := if wr then x.reads else left1
        writes := if wr then left1 else x.writes
        draining := x.draining && decide (16 < left1.length || !wr)
        banks := if stack then AMap.put Bank.idle (memBank y.op.addr) bk1 x.banks else x.banks
        accesses := x.accesses + b2n stack
        hits := x.hits + b2n (stack && hit) }
      let s1 := letIn ((s.setPc p x1).moved y.cls 32) p 64
      if wr then s1
      else
        let s2 := if stack then eccAt s1 p y.op.addr r else s1
        let bad := stack && s2.mm.poison.contains y.op.addr
        let s3 := s2.emit (.memData y.op.src y.op.addr y.value bad)
        if bad then poisonRead s3 y.op.reader y.op.addr else s3

/-- AgeLimit of a class. -/
def ageLimit (s : State) (cls : Nat) : Nat :=
  match cls with
  | 1 => s.rd Obj.ageLimitC1
  | 2 => s.rd Obj.ageLimitC2
  | 3 => s.rd Obj.ageLimitC3
  | _ => 0

/-- AGE_PROMOTION (R307): requests of a pseudo-channel that have waited longer than their class's AgeLimit. -/
def agePromote (s : State) (p : Nat) : State :=
  let x := s.pc p
  let old := fun (r : MemReq) => !r.promoted && decide (r.cls ≠ 0) && decide (ageLimit s r.cls ≠ 0) &&
    decide (r.accepted + ageLimit s r.cls < s.mono)
  let up := fun (r : MemReq) => if old r then { r with promoted := true } else r
  let s1 := s.setPc p { x with reads := x.reads.map up, writes := x.writes.map up }
  ((x.reads ++ x.writes).filter old).foldl (fun t r => t.inc (Obj.promoted (r.cls - 1))) s1

/-- ROW_IDLE_CLOSE (R309). -/
def rowClose (s : State) (p b : Nat) : State :=
  let x := s.pc p
  let k := AMap.get Bank.idle b x.banks
  if k.isOpen ∧ k.at_ + 2000 ≤ s.mono then s.setPc p { x with banks := AMap.put Bank.idle b { k with isOpen := false } x.banks } else s

/-! ### Refresh, scrub (R310, R313) -/

/-- One stack's temperature read. -/
def stackSample (s : State) (k : Nat) (t : Int) : State :=
  let s1 := s.wr (Obj.stackTemp k) (uns 16 t)
  let f := s1.rd Obj.refreshDouble
  let s2 :=
    if 85 < t ∧ ¬ bit f k then (s1.wr Obj.refreshDouble (setBit f k)).event Ev.hbmRefreshDouble k 0
    else if t ≤ 83 ∧ bit f k then s1.wr Obj.refreshDouble (clrBit f k) else s1
  if 100 ≤ t then
    (if s2.mm.hot.contains k then s2 else ({ s2 with mm := { s2.mm with hot := k :: s2.mm.hot } }).event Ev.hbmHot k 0)
  else { s2 with mm := { s2.mm with hot := s2.mm.hot.filter (fun j => decide (j ≠ k)) } }

/-- PATROL_SCRUB (R313): the scrub reads the next unit. What it writes back never replaces newer data, so no octet changes. -/
def patrolScrub (s : State) (r : EccResult) : State :=
  if s.rd Obj.scrubPeriod = 0 ∨ s.capacity = 0 then s
  else
    let a := s.mm.scrub % s.capacity
    let s1 := { s with mm := { s.mm with scrub := (a + 32) % s.capacity } }
    match s.pcOf a with
    | some p => (eccAt s1 p a r).moved 3 32
    | none => s1

/-! ### Partitions (R304, R305) -/

/-- PartSize as stored. -/
def State.partStored (s : State) : List Nat :=
  [s.rd Obj.partSize1, s.rd Obj.partSize2, s.rd Obj.partSize3, s.rd Obj.partSize4, s.rd Obj.partSize5, s.rd Obj.partSize6,
    s.rd Obj.partSize7]

/-- Octets of the leg and conference tables and of the classifier table (chapter 4). -/
def tableOctets : Nat := 352 * mib

/-- Octets of the images in the DSP and firmware partition. -/
def imageOctetsHeld (s : State) : Nat := ((s.mt.programs.filterMap Prod.snd).map Image.bodyLen).sum

/-- HBM with the protected partitions at new places and every other octet reading as zero (R305, R316). -/
def moveProtected (s : State) (base2 len2 base3 len3 : Nat) : List Host.Cell :=
  let b2 := s.partBase 2
  let b3 := s.partBase 3
  let p2 := (s.mem.filter (fun c => decide (b2 ≤ c.1) && decide (c.1 < b2 + len2))).map (fun c => (c.1 - b2 + base2, c.2))
  let p3 := (s.mem.filter (fun c => decide (b3 ≤ c.1) && decide (c.1 < b3 + len3))).map (fun c => (c.1 - b3 + base3, c.2))
  p2 ++ p3

/-- PART_APPLY (R305). -/
def partApply (s : State) (v : Nat) : Nat × State :=
  let sz := s.partStored
  let n := fun (p : Nat) => sz.getD (p - 1) 0
  if v = 0 then (0, s)
  else if s.season ≠ .spring ∨ ¬ s.goingLegs.isEmpty ∨ s.rd Obj.contextsEnabled ≠ 0 ∨ ¬ (enabledActx s).isEmpty ∨
      ¬ (enabledRctx s).isEmpty ∨ ¬ (enabledSets s).isEmpty ∨ ¬ s.cip.taps.isEmpty then (Abort.memBusy, s)
  else if [1, 4, 5, 6, 7].any (fun p => decide (s.partUsed p ≠ 0)) then (Abort.memBusy, s)
  else if s.rd Obj.capacity < sz.sum ∨ n 2 * mib * 7 / 8 < tableOctets ∨ n 3 * mib * 7 / 8 < imageOctetsHeld s then (Abort.partition, s)
  else
    let base2 := n 1 * mib
    let base3 := (n 1 + n 2) * mib
    let m := moveProtected s base2 (min (s.partSize 2) (n 2) * mib) base3 (min (s.partSize 3) (n 3) * mib)
    (0, ({ s with
      mem := m
      mm := { s.mm with sizes := sz, poison := [] } }).wr Obj.unassigned (s.rd Obj.capacity - sz.sum))

/-! ### Training and quarantine (R314 to R318) -/

/-- A training of a channel begins: its pseudo-channels read RETRAINING. -/
def startTraining (s : State) (ch : Nat) (full : Bool) : State :=
  let s1 := (channelPcs ch).foldl (fun t p => if t.pcOnline p then (t.wr (Obj.pcState p) 1).inc (Obj.pcRetrains p) else t) s
  ({ s1 with mm := { s1.mm with training := s1.mm.training ++ [(ch, full)] } }).event Ev.hbmRetrain ch 0

/-- UPDATE_RETRAIN (R314): one channel at a time, at least 1 ms apart. -/
def updateRetrain (s : State) (ch : Nat) : State :=
  let t := s.stackTemp (ch / 16)
  let drift := (channelPcs ch).any (fun p => s.pcOnline p && decide (10 ≤ (t - s.rdI16 (Obj.pcTrainTemp p)).natAbs))
  if drift ∧ ¬ s.mm.training.any (fun x => !x.2 || decide (x.1 = ch)) ∧ s.mm.updateAt + ms ≤ s.mono then
    startTraining { s with mm := { s.mm with updateAt := s.mono } } ch false
  else s

/-- FULL_RETRAIN (R314): a pseudo-channel's errors have reached their threshold. -/
def fullRetrain (s : State) (ch : Nat) : State :=
  if (channelPcs ch).any (fun p => s.pcOnline p && (s.pc p).due) ∧ ¬ s.mm.training.any (fun x => decide (x.1 = ch)) then
    startTraining s ch true
  else s

/-- Lanes repaired onto spares (R315): two data lanes for each pseudo-channel, one command and address lane for a channel. -/
def repairLanes (s : State) (t : TrainEnd) : State :=
  let s1 := t.lanes.foldl (fun u x =>
    let have_ := u.rd (Obj.pcDataSpares x.1)
    let n := min x.2 (2 - have_)
    if x.1 < 64 ∧ n ≠ 0 then (u.wr (Obj.pcDataSpares x.1) (have_ + n)).event Ev.hbmLaneRepair x.1 0 else u) s
  t.ca.foldl (fun u ch =>
    if ch < 32 ∧ u.rd (Obj.pcCaSpare (ch * 2)) = 0 then
      ((channelPcs ch).foldl (fun w p => w.wr (Obj.pcCaSpare p) 1) u).event Ev.hbmLaneRepair (ch * 2) 0
    else u) s1

/-- The pseudo-channels among some that training leaves without a working setting: said so, or with more bad lanes than spares. -/
def trainDead (s : State) (t : TrainEnd) (pcs : List Nat) : List Nat :=
  pcs.filter (fun p => t.dead.contains p ||
    t.lanes.any (fun x => decide (x.1 = p) && decide (2 - s.rd (Obj.pcDataSpares p) < x.2)) ||
    decide (1 - s.rd (Obj.pcCaSpare p) < (t.ca.filter (fun c => decide (c = channelOf p))).length))

/-- A pseudo-channel leaves the interleave. -/
def pcOff (s : State) (p : Nat) : State :=
  let k := if p < 32 then Obj.pcOnline0 else Obj.pcOnline1
  ((s.wr k (clrBit (s.rd k) (p % 32))).wr Obj.capacity (s.rd Obj.capacity - 768)).wr (Obj.pcState p) 2

/-- Sizes cut to a capacity (R316 step 4): recordings, canvas, encoder, decode, each at its top end, after what is unassigned. -/
def cutSizes4 (sizes : List Nat) (capacity : Nat) : List Nat :=
  [7, 6, 5, 4].foldl (fun z p =>
    let beyond := z.sum - capacity
    z.set (p - 1) (z.getD (p - 1) 0 - beyond)) sizes

/-- Contexts with memory in the range cut off a partition are disabled (R317). Which ones lie there is open; what no longer fits
goes in any case. -/
def cutPartition (s : State) (p : Nat) : State :=
  let beyond := fun (t : State) => decide (t.partUsable p < t.partUsed p)
  let pick := fun (off : State → Nat → State) (ids : List Nat) (t : State) =>
    ids.foldl (fun u d => let (c, v) := u.choose 2; if c = 1 || beyond v then off v d else v) t
  let s1 :=
    if p = 4 then pick dctxDisable ((s.vd.ctxs.filter (fun c => decide (c.2.stage = .waitKey) || decide (c.2.stage = .decoding))).map Prod.fst) s
    else if p = 5 then
      pick (fun t a =>
        let rs := (enabledRctx t).filter (fun r => decide (t.rd (Obj.rctxActx r) = a))
        (actxDisable (rs.foldl rctxDisable t) a).2) (enabledActx s) (pick rctxDisable (enabledRctx s) s)
    else pick (fun t c =>
      activateTick (t.wrShadow (Obj.csetEnable c) 0) t.cp.tick ⟨t.tod, true, [(Obj.csetEnable c, .num 0)], [c], [], [], none, []⟩) (enabledSets s) s
  s1.event Ev.hbmCapacityCut p 0

/-- The requests on their way or waiting at instant Q go on in the new interleave (R316): a read of what was zeroed reads zero. -/
def rehome (s : State) : State :=
  let all := s.mm.pcs.flatMap (fun e => e.2.reads ++ e.2.writes ++ e.2.stalled)
  let bare := s.mm.pcs.map (fun (e : Nat × PcCtl) => (e.1, { e.2 with reads := [], writes := [], stalled := [], draining := false }))
  (sortBy (fun (a b : MemReq) => decide (a.id ≤ b.id)) (all.filter (fun r => s.protectedAt r.op.addr || !r.op.write))).foldl
    (fun t r => arriveReq t r.op) { s with mm := { s.mm with pcs := bare } }

/-- PC_QUARANTINE (R316, R317): instant Q for some pseudo-channels. While a move is under way a second failure may lose a stripe
(R318): whether the move was complete is open. -/
def quarantine (s : State) (pcs : List Nat) : State :=
  if pcs.isEmpty then s
  else
    let moving := decide (s.rd Obj.paused = 1)
    let (c, s0) := if moving then s.choose 2 else (0, s)
    let s1 := pcs.foldl (fun t p => (pcOff t p).event Ev.hbmPcQuarantine p 0) (s0.dspRebase.wr Obj.paused 1)
    if c = 1 ∨ 2 ≤ pcs.length then
      s1.event Ev.hbmProtectedLost (pcs.headD 0) 0
    else
      let old := s1.mm.sizes
      let new := cutSizes4 old (s1.rd Obj.capacity)
      let m := moveProtected s1 (s1.partBase 2) (s1.partSize 2 * mib) (s1.partBase 3) (s1.partSize 3 * mib)
      let s2 := ({ s1 with
        mem := m
        mm := { s1.mm with sizes := new, poison := [] } }).wr Obj.unassigned (s1.rd Obj.capacity - new.sum)
      [6, 5, 4].foldl (fun t p => if new.getD (p - 1) 0 < old.getD (p - 1) 0 then cutPartition t p else t) (rehome s2)

/-- The pseudo-channels of a channel come out of training. -/
def trained (s : State) (pcs dead : List Nat) : State :=
  pcs.foldl (fun t p =>
    if t.pcOnline p ∧ ¬ dead.contains p then
      ((t.wr (Obj.pcState p) 0).wr (Obj.pcTrainTemp p) (uns 16 (t.stackTemp (p / 32)))).setPc p { t.pc p with due := false, ues := [], ces := (0, 0) }
    else t) s

/-- TRAINING_COMPLETE of a channel's retraining (R315, R316). -/
def trainingEnd (s : State) (ch : Nat) (t : TrainEnd) : State :=
  if ¬ s.mm.training.any (fun x => decide (x.1 = ch)) then s
  else
    let pcs := channelPcs ch
    let dead := (trainDead s t pcs).filter (fun p => s.pcOnline p)
    let s1 := { s with mm := { s.mm with training := s.mm.training.filter (fun x => decide (x.1 ≠ ch)) } }
    let own : TrainEnd := ⟨t.lanes.filter (fun x => pcs.contains x.1), t.ca.filter (fun c => decide (c = ch)), []⟩
    quarantine (trained (repairLanes s1 own) pcs dead) dead

/-- Full training of all channels at reset or thaw (R314, R315): every lane and pseudo-channel is tried again, and those that fail
are left out before any service starts. -/
def trainingAll (s : State) (t : TrainEnd) : State :=
  let all := List.range 64
  let s0 := all.foldl (fun u p => ((u.wr (Obj.pcDataSpares p) 0).wr (Obj.pcCaSpare p) 0).wr (Obj.pcState p) 0)
    (((s.wr Obj.pcOnline0 0xFFFFFFFF).wr Obj.pcOnline1 0xFFFFFFFF).wr Obj.capacity 49152)
  let dead := trainDead s0 t all
  let s1 := dead.foldl pcOff (repairLanes s0 ⟨t.lanes, t.ca.eraseDups, []⟩)
  let s2 := trained s1 all dead
  let new := cutSizes4 s2.mm.sizes (s2.rd Obj.capacity)
  ({ s2 with
    mm := { s2.mm with sizes := new, training := [], poison := [] }
    pw := { s2.pw with hbmReady := true } }).wr Obj.unassigned (s2.rd Obj.capacity - new.sum)

/-- A leg's jitter buffer restarts as at activation (R316 step 7, R119). -/
def jitterRestart (s : State) (l : Nat) : State :=
  let d := s.rd (Obj.jbMinDepth l)
  let s1 := (s.setLeg l { s.leg l with mapped := false, depth := d, nextDepth := d, playUntil := 0 }).wr (Obj.jbDepth l) d
  (List.range 8).foldl (fun t e =>
    let x := t.rxE l e
    t.setRxE l e { x with slots := [], video := [], posted := [], gaps := [] }) s1

/-- QUARANTINE_RESUME (R316 step 7). -/
def resumeService (s : State) : State :=
  if s.rd Obj.paused = 0 then s
  else
    let qs := (s.queues.map Prod.fst).filter (fun n => !(decide (44032 ≤ n) && decide (n < 46080)))
    let s1 := qs.foldl (fun t n => t.updQ n (t.q n).flush) (s.dspRebase.wr Obj.paused 0)
    let s2 := (s1.le.legs.map Prod.fst).foldl (fun t l => if t.legActive l then jitterRestart t l else t) s1
    let s3 := (s2.vd.ctxs.map Prod.fst).foldl dctxLost { s2 with vd := { s2.vd with pipes := [] } }
    let reads := s3.cp.jobs.flatMap (fun j => j.2.flatMap CompJob.reads)
    let s3a := reads.foldl (fun t r => outRead t r.1 r.2 false) s3
    let s4 := (enabledRctx s3a).foldl (fun t r => rctxLost (t.setRx r { t.rx r with todo := [] }) r)
      { s3a with en := { s3a.en with backs := [], passes := [] } }
    let s5 := (enabledActx s4).foldl (fun t a => t.setAx a { t.ax a with intraNext := true }) s4
    let s6 := (s5.cp.sets.map Prod.fst).foldl (fun t c =>
      let x := t.cs c
      t.setCs c { x with
        bufs := x.bufs.map (fun (b : CanvBuf) => { b with holds := 0, tick := 0, bands := 0, analysed := 0, content := [], units := [] })
        images := [] }) s5
    { s6 with
      cp := { s6.cp with
        jobs := []
        opImages := s6.cp.opImages.map (fun i => (i.1, i.2.1, false)) }
      ad := { s6.ad with inbox := [], kept := [] } }

/-! ### The commands -/

def execMemRequestAccept (op : MemOp) (s : State) : Host.Outcome State Fault Refusal :=
  .next (if s.pw.hbmReady ∧ s.rd Obj.paused = 0 then memAccept s op else s)
def execMemRequestServe (p : Nat) (r : EccResult) (s : State) : Host.Outcome State Fault Refusal :=
  .next (if p < 64 ∧ s.pw.hbmReady then memServe s p r else s)
def execAgePromotion (p : Nat) (s : State) : Host.Outcome State Fault Refusal := .next (if p < 64 then agePromote s p else s)
def execRowIdleClose (p b : Nat) (s : State) : Host.Outcome State Fault Refusal := .next (if p < 64 then rowClose s p b else s)
def execStackTempSample (t0 t1 : Int) (s : State) : Host.Outcome State Fault Refusal :=
  .next (if s.pw.hbmReady then stackSample (stackSample s 0 t0) 1 t1 else s)
def execPatrolScrub (r : EccResult) (s : State) : Host.Outcome State Fault Refusal :=
  .next (if s.pw.hbmReady then patrolScrub s r else s)
def execUpdateRetrain (ch : Nat) (s : State) : Host.Outcome State Fault Refusal :=
  .next (if ch < 32 ∧ s.pw.hbmReady then updateRetrain s ch else s)
def execFullRetrain (ch : Nat) (s : State) : Host.Outcome State Fault Refusal :=
  .next (if ch < 32 ∧ s.pw.hbmReady then fullRetrain s ch else s)
def execQuarantineResume (s : State) : Host.Outcome State Fault Refusal := .next (resumeService s)

end Sys2Proof.Machine
end

