-- ==== Sys2Proof/Machine/Lane.lean ====
section
/-! DEFINITION. The bit streams of the fabric's lanes (R321 to R328): blocks and their scrambler, alignment markers, RS(544,514)
codewords, the blocks of a frame. -/

namespace Sys2Proof.Machine

/-! ### Blocks and scrambling (R323) -/

/-- A value as bits, the least significant first. -/
def toBits (n v : Nat) : List Bool := (List.range n).map (bit v)

/-- The value of bits, the least significant first. -/
def ofBits : List Bool → Nat
  | [] => 0
  | b :: r => b2n b + 2 * ofBits r

/-- One bit scrambled (x^58 + x^39 + 1): the bit sent, and the register after it. -/
def scrambleBit (r : Nat) (b : Bool) : Bool × Nat :=
  let o := (b != bit r 38) != bit r 57
  (o, (2 * r + b2n o) % 2 ^ 58)

/-- Bits scrambled. -/
def scramble (r : Nat) : List Bool → List Bool × Nat
  | [] => ([], r)
  | b :: bs => let (o, r1) := scrambleBit r b
               let (os, r2) := scramble r1 bs
               (o :: os, r2)

/-- Bits descrambled: the register holds the last 58 bits received. -/
def descramble (r : Nat) : List Bool → List Bool × Nat
  | [] => ([], r)
  | b :: bs => let (os, r2) := descramble ((2 * r + b2n b) % 2 ^ 58) bs
               (((b != bit r 38) != bit r 57) :: os, r2)

/-- Control blocks of Table 14.1 and data blocks. The first payload octet is the lowest (R10); its bits go lowest first (PRESUMED, as in
802.3). -/
def idleBlock : Block := ⟨2, 0x1E⟩
def startBlock (header : Nat) : Block := ⟨2, 0x33 + 256 * (header % 2 ^ 120)⟩
def creditBlock (counts : Nat) : Block := ⟨2, 0x55 + 256 * (counts % 2 ^ 120)⟩
def dataBlock (os : List Nat) : Block := ⟨1, ofOctets (os.take 16)⟩

/-- The 120-bit pattern of a marker (R324). -/
def markerPattern : Nat := 0x9A4F17C2E03B5D68C1A63F07B2E594

/-- The marker of a lane position (R324). -/
def markerBlock (position : Nat) : Block := ⟨2, position % 256 + 256 * markerPattern⟩

/-- Bits in which a block's payload differs from the pattern of a marker (R325). -/
def markerDiffers (b : Block) : Nat := popCount ((b.payload / 256 % 2 ^ 120) ^^^ markerPattern) 120

/-! ### RS(544,514) over GF(2^10) (R321). PRESUMED: the field and the generator of 802.3 clause 91, whose code of this name it is. -/

/-- A product in GF(2^10) modulo x^10 + x^3 + 1, over the bits of `b` from `n` − 1 down. -/
def gfMulBits (a b : Nat) : Nat → Nat
  | 0 => 0
  | n + 1 =>
    let p := gfMulBits a (b / 2) n * 2
    let q := if 1024 ≤ p then (p ^^^ 0x409) else p
    if b % 2 = 1 then q ^^^ a else q

def gfMul (a b : Nat) : Nat := gfMulBits (a % 1024) (b % 1024) 10

/-- A power, by squaring over `n` bits of the exponent. -/
def gfPowBits (a e : Nat) : Nat → Nat
  | 0 => 1
  | n + 1 => let h := gfPowBits (gfMul a a) (e / 2) n
             if e % 2 = 1 then gfMul h a else h

/-- A power of an element. -/
def gfPow (a e : Nat) : Nat := gfPowBits a (e % 1023) 10

/-- The inverse of an element that is not 0. -/
def gfInv (a : Nat) : Nat := gfPow a 1022

/-- The value of a polynomial, highest coefficient first. -/
def gfEval (p : List Nat) (x : Nat) : Nat := p.foldl (fun v c => gfMul v x ^^^ c) 0

/-- The generator polynomial, highest coefficient first: the product of x − α^j for j from 0 to 29. -/
def rsGenerator : List Nat :=
  (List.range 30).foldl (fun g j => List.zipWith (fun a b => a ^^^ gfMul b (gfPow 2 j)) (g ++ [0]) (0 :: g)) [1]

/-- The 30 parity symbols of 514 message symbols. -/
def rsParity (msg : List Nat) : List Nat :=
  msg.foldl (fun r m =>
    let f := r.headD 0 ^^^ m
    List.zipWith (fun a g => a ^^^ gfMul f g) (r.drop 1 ++ [0]) (rsGenerator.drop 1)) (List.replicate 30 0)

/-- 5,140 bits of block stream as symbols of 10 bits, and back. -/
def toSymbols (bs : List Bool) : List Nat := (List.range 514).map (fun i => ofBits ((bs.drop (10 * i)).take 10))
def ofSymbols (ss : List Nat) : List Bool := ss.flatMap (toBits 10)

/-- The codeword of 5,140 bits of block stream: 5,140 bits and 300 of parity. -/
def codeword (bs : List Bool) : List Nat := toSymbols bs ++ rsParity (toSymbols bs)

/-- The syndromes of a received word. -/
def syndromes (w : List Nat) : List Nat := (List.range 30).map (fun j => gfEval w (gfPow 2 j))

/-- State of the search for the error locator (Berlekamp and Massey): locator and last locator, lowest coefficient first, its length, the
distance between them, the last discrepancy. -/
structure BmState where
  c : List Nat
  b : List Nat
  l : Nat
  m : Nat
  d : Nat
deriving DecidableEq, Repr

/-- One step of the search at syndrome `n`. -/
def bmStep (syn : List Nat) (x : BmState) (n : Nat) : BmState :=
  let d := (List.range (x.l + 1)).foldl (fun v i => if i ≤ n then v ^^^ gfMul (x.c.getD i 0) (syn.getD (n - i) 0) else v) 0
  if d = 0 then { x with m := x.m + 1 }
  else
    let k := gfMul d (gfInv x.d)
    let shifted := List.replicate x.m 0 ++ x.b
    let c := (List.range (max x.c.length shifted.length)).map (fun i => x.c.getD i 0 ^^^ gfMul k (shifted.getD i 0))
    if 2 * x.l ≤ n then ⟨c, x.c, n + 1 - x.l, 1, d⟩ else { x with c := c, m := x.m + 1 }

/-- The locator of the errors of a received word. -/
def errorLocator (syn : List Nat) : BmState := (List.range 30).foldl (bmStep syn) ⟨[1], [1], 0, 1, 1⟩

/-- A received word decoded: the word corrected and how many symbols were, or none where it is uncorrectable. -/
def rsDecode (w : List Nat) : Option (List Nat × Nat) :=
  let syn := syndromes w
  if syn.all (fun s => decide (s = 0)) then some (w, 0)
  else
    let x := errorLocator syn
    let high := x.c.reverse
    let places := (List.range 544).filter (fun i => decide (gfEval high (gfPow 2 (1023 - i)) = 0))
    if 15 < x.l ∨ places.length ≠ x.l then none
    else
      let omega := (List.range 30).map (fun n => (List.range (n + 1)).foldl (fun v i => v ^^^ gfMul (x.c.getD i 0) (syn.getD (n - i) 0)) 0)
      let slope := x.c.zipIdx.map (fun e => if e.2 % 2 = 1 then e.1 else 0)
      let value := fun (i : Nat) =>
        let inv := gfPow 2 (1023 - i)
        let s := gfMul (gfEval slope.reverse inv) (gfPow 2 i)
        gfMul (gfMul (gfEval omega.reverse inv) (gfPow 2 i)) (gfInv s)
      let fixed := w.zipIdx.map (fun e => let i := 543 - e.2
                                          if places.contains i then e.1 ^^^ value i else e.1)
      if (syndromes fixed).all (fun s => decide (s = 0)) then some (fixed, x.l) else none

/-! ### The transmitter of a lane (R321, R323, R324) -/

/-- A transmitter at power-up. The manual states no start of its scrambler. -/
def LaneTx.fresh (l : Nat) : LaneTx := ⟨0, Config.scrambler l % 2 ^ 58, [], []⟩

/-- A block put on a lane: scrambled unless it is a marker, its header first. -/
def LaneTx.put (x : LaneTx) (b : Block) (marker : Bool) : LaneTx :=
  let (body, r) := if marker then (toBits 128 b.payload, x.scrambler) else scramble x.scrambler (toBits 128 b.payload)
  { x with index := (x.index + 1) % 4096, scrambler := r, bits := x.bits ++ toBits 2 b.header ++ body }

/-- The codewords a lane has whole bits for go out (R321); `n` bounds them. -/
def LaneTx.flush (x : LaneTx) : Nat → LaneTx
  | 0 => x
  | n + 1 =>
    if x.bits.length < 5140 then x
    else { x with bits := x.bits.drop 5140, sent := codeword (x.bits.take 5140) :: x.sent }.flush n

/-- A row of blocks put on a port's lanes (R324, R326), after a row of markers where every 4,096th block is due. -/
def putRow (xs : List LaneTx) (row : List Block) : List LaneTx :=
  let marked := if (xs.headD ⟨0, 0, [], []⟩).index = 0 then xs.zipIdx.map (fun e => e.1.put (markerBlock e.2) true) else xs
  List.zipWith (fun x b => x.put b false) marked row

/-- Blocks dealt to `n` lanes in turn from lane 0 (R326), the last row filled with IDLE blocks. -/
def blockRows (n : Nat) (bs : List Block) : List (List Block) :=
  (List.range (ceilDiv bs.length n)).map (fun i => ((bs ++ List.replicate n idleBlock).drop (n * i)).take n)

/-- Blocks sent on a port's lanes, and one idle row after them (R327: at least one in every 2,048; a frame has at most 251 rows). -/
def putBlocks (xs : List LaneTx) (bs : List Block) : List LaneTx :=
  let ys := (blockRows (max 1 xs.length) bs ++ [List.replicate xs.length idleBlock]).foldl putRow xs
  ys.map (fun y => y.flush (y.bits.length / 5140))

/-! ### The blocks of a frame (R328, Table 14.2) -/

/-- The header of a frame as the 120 bits of a START block. -/
def frameHeader (f : FabFrame) : Nat :=
  f.vc % 4 * 2 ^ 118 + f.dst % 512 * 2 ^ 109 + f.src % 512 * 2 ^ 100 + f.ttl % 16 * 2 ^ 96 + f.length % 8192 * 2 ^ 83 +
    f.kind % 256 * 2 ^ 75 + f.flow % 2 ^ 20 * 2 ^ 55 + f.seq % 65536 * 2 ^ 39

/-- Samples of 24 bits, three octets each. -/
def sampleOctets (xs : List Int) : List Nat := xs.flatMap (fun x => octets 3 (uns 24 x))

/-- Octets cut or filled with zeros to a length. -/
def fill (n : Nat) (os : List Nat) : List Nat := (os ++ List.replicate n 0).take n

/-- An instant of TimeOfDay as TIME80: nanoseconds, then seconds (R365). -/
def instant80 (t : Nat) : Nat := t % 1000000000 + 2 ^ 32 * (t / 1000000000)

/-- The octets of a value a WRITE carries; those of a payload the model keeps in another form are open, of the n-th frame. -/
def valueOctets (n len : Nat) (d : Payload) : List Nat :=
  match d with
  | .num v => octets len v
  | .image i => fill len i.octs
  | .wrapped w => fill len w.octs
  | _ => (List.range len).map (fun i => Config.frameOctet n i % 256)

/-- A journal entry's KIND and payload (Tables 15.6 and 15.7). -/
def journalPayload (n : Nat) (b : JBody) : Nat × List Nat :=
  match b with
  | .write r d => (1, octets 2 r.index ++ octets 1 r.sub ++ octets 3 r.element ++ octets 1 r.count ++ [0] ++ octets 4 r.length ++
      valueOctets n r.length d)
  | .apply i p f => (2, octets 10 (if i = 0 then 0 else instant80 i) ++ octets 1 p ++ octets 4 f)
  | .key k su g w => (3, octets 4 k ++ octets 1 su ++ octets 2 g ++ w.octs)
  | .window l send e w => (4, octets 4 l ++ [if send then 0 else 1] ++ octets 1 e ++ [0, 0] ++ octets 8 w)
  | .learn l e x => (5, octets 4 l ++ octets 1 e ++ octets 4 x)
  | .snapBegin j => (6, octets 4 j)
  | .snapEnd j d => (7, octets 4 j ++ octets 8 d)

/-- A journal entry of 64 octets and those that continue it, 52 payload octets each, with their CRC (Table 15.6). -/
def journalOctets (n : Nat) (e : JEntry) : List Nat :=
  let (kind, p) := journalPayload n e.body
  (List.range e.span).flatMap (fun i =>
    let part := (p.drop (52 * i)).take 52
    let body := octets 4 ((e.jseq + 0x100000001 - e.span + i) % 0x100000000) ++ [kind, if i = 0 then 0 else 1] ++ octets 2 part.length ++
      fill 52 part
    body ++ octets 4 (crc crc32c body))

/-- A TWIN_HB (Table 15.4). -/
def hbOctets (h : Heartbeat) : List Nat :=
  octets 8 h.serial ++ [h.role % 256, b2n h.protectedBit + 2 * b2n h.fail + 4 * b2n h.planned + 8 * b2n h.takeover, 0, 0] ++
    octets 4 h.epoch ++ octets 4 h.firmware ++ octets 4 h.thb ++ octets 4 h.jseq ++ octets 8 h.digest ++ octets 4 h.digestJseq ++
    octets 4 h.hbSeq ++ octets 10 (instant80 h.prevTx) ++ octets 4 h.rxSeq ++ octets 10 (instant80 h.rxTime)

/-- The payload of a frame: Tables 8.9, 15.4 and 15.6 lay out partials and returns, heartbeats and journal entries; of the others the manual gives the content and no layout, so their
octets are open, of the n-th frame a device sends. -/
def framePayload (n : Nat) (f : FabFrame) : List Nat :=
  match f.msg with
  | .partialMix m => fill 1536 (octets 2 m.conf ++ octets 2 m.fdev ++ octets 4 m.frame ++ [m.reports.length] ++ List.replicate 23 0 ++
      fill 64 (m.reports.flatMap (octets 4)) ++ fill 1440 (sampleOctets m.samples))
  | .returnMix m => fill 2976 (octets 2 m.conf ++ octets 2 m.anchor ++ octets 4 m.frame ++ [m.n, m.selected.length, b2n m.own] ++
      List.replicate 21 0 ++ fill 64 (m.selected.flatMap (octets 4)) ++ fill 1440 (sampleOctets m.s) ++ fill 1440 (sampleOctets m.p))
  | .twin (.hb h) => hbOctets h
  | .twin (.journal es) => es.flatMap (journalOctets n)
  | .twin (.snapshot es) => es.flatMap (journalOctets n)
  | _ => (List.range f.length).map (fun i => Config.frameOctet n i % 256)

/-- Sixteens of octets, the last filled with zeros. -/
def sixteens (os : List Nat) : List (List Nat) := (List.range (ceilDiv os.length 16)).map (fun i => fill 16 (os.drop (16 * i)))

/-- The blocks of a frame: START, the payload, the CRC-32C over header and payload. -/
def frameBlocks (n : Nat) (f : FabFrame) : List Block :=
  let p := framePayload n f
  startBlock (frameHeader f) :: (sixteens (p ++ octets 4 (crc crc32c (octets 15 (frameHeader f) ++ p)))).map dataBlock

/-- The counts of a CREDIT block (Table 14.3). -/
def creditCounts (counts : List Nat) (rdi : Bool) : Nat :=
  counts.getD 0 0 % 2 ^ 24 * 2 ^ 96 + counts.getD 1 0 % 2 ^ 24 * 2 ^ 72 + counts.getD 2 0 % 2 ^ 24 * 2 ^ 48 +
    counts.getD 3 0 % 2 ^ 24 * 2 ^ 24 + b2n rdi

end Sys2Proof.Machine
end

