-- ==== Sys2Proof/Machine/Fabric.lean ====
section
/-! DEFINITION. The Nolqua fabric (spec/14, R464, R465): lanes and ports with their defects, frames and credits, adjacencies,
advertisements and routes, joins and subscriptions, performance bins. -/

namespace Sys2Proof.Machine

/-! ### Ports, lanes and counters -/

def DefectRt.none_ : DefectRt := ⟨0, 0, [], none⟩

/-- A lane that is off. -/
def LaneRt.idle : LaneRt := ⟨true, true, false, 0, false, 0, [], false, 0, 0, 0, DefectRt.none_, [], 0, 0⟩

/-- A port that is disabled. -/
def NqPort.idle : NqPort :=
  ⟨0, [0, 0, 0, 0], [0, 0, 0, 0], [0, 0, 0, 0], 0, 0, [false, false, false, false], false, none, 0, 0, (0, 0), 0, [], DefectRt.none_, []⟩

def State.nq (s : State) (p : Nat) : NqPort := AMap.get NqPort.idle p s.fb.ports
def State.setNq (s : State) (p : Nat) (x : NqPort) : State :=
  { s with fb := { s.fb with ports := AMap.put NqPort.idle p x s.fb.ports } }
def State.lane (s : State) (l : Nat) : LaneRt := AMap.get LaneRt.idle l s.fb.lanes
def State.setLane (s : State) (l : Nat) (x : LaneRt) : State :=
  { s with fb := { s.fb with lanes := AMap.put LaneRt.idle l x s.fb.lanes } }

/-- The lanes of a port (spec/14): 4p to 4p + 3; 24 and 25 of TW. -/
def lanesOf (p : Nat) : List Nat := if p < 6 then [4 * p, 4 * p + 1, 4 * p + 2, 4 * p + 3] else [24, 25]

/-- The port of a lane. -/
def portOf (l : Nat) : Nat := l / 4

/-- Running value of a lane or port counter (R340). -/
def State.liveCount (s : State) (k : Nat) : Nat := AMap.get 0 k s.fb.live

/-- Increment of a lane or port counter, saturating (R340): the object follows at the next counter latch. -/
def State.tally (s : State) (k n : Nat) : State :=
  { s with fb := { s.fb with live := AMap.put 0 k (satAdd (s.liveCount k) n (maxOf k)) s.fb.live } }

/-- What the present second of a port holds. -/
def PmSecond.zero : PmSecond := ⟨0, 0, 0, false, false⟩
def State.second (s : State) (p : Nat) : PmSecond := AMap.get PmSecond.zero p s.fb.seconds
def State.setSecond (s : State) (p : Nat) (x : PmSecond) : State :=
  { s with fb := { s.fb with seconds := AMap.put PmSecond.zero p x s.fb.seconds } }

/-- A port's state of Table 14.4, with its object; TW has none. -/
def State.setStage (s : State) (p k : Nat) : State :=
  let s1 := s.setNq p { s.nq p with stage := k }
  if p < 6 then s1.wr (Obj.nqState p) k else s1

/-! ### Defects (R338, R339) -/

/-- The highest bit of a mask of defects. -/
def topDefect (m : Nat) : Option Nat := [6, 5, 4, 3, 2, 1, 0].find? (fun b => bit m b)

/-- Two masks together. -/
def orMask (a b : Nat) : Nat := a ||| b

/-- A mask of present defects put in place at an instant: a defect that begins counts at once, one from LOS to LOA that ends
counts until it has been absent for DefectHold, DEG and RDI end at once. -/
def DefectRt.set (d : DefectRt) (raw now : Nat) : DefectRt :=
  let gone := [2, 3, 4, 5, 6].filter (fun b => bit d.raw b && !bit raw b)
  { d with
    raw := raw
    counted := orMask raw (d.counted / 4 * 4)
    since := (d.since.filter (fun e => !bit raw e.1)) ++ gone.map (fun b => (b, now)) }

/-- The defects that have been absent for a hold no longer count. -/
def DefectRt.settle (d : DefectRt) (now hold : Nat) : DefectRt :=
  let out := (d.since.filter (fun e => decide (e.2 + hold ≤ now))).map Prod.fst
  { d with counted := out.foldl (fun m b => clrBit m b) d.counted, since := d.since.filter (fun e => !out.contains e.1) }

/-- The defects of a port with those of its lanes: every present defect (Table 14.6). -/
def portMask (s : State) (p : Nat) : Nat :=
  (lanesOf p).foldl (fun m l => orMask m (s.lane l).defects.counted) (s.nq p).defects.counted

/-- The event of a reported defect (R339); ARG0 names the lane, or 0x100 plus the port, ARG1 the defect. -/
def defectEvent (s : State) (who b : Nat) : State :=
  if b = 1 then s.event Ev.nqDegraded who b
  else if b = 0 then s.event Ev.nqRdi who b
  else s.event Ev.nqDefect who b

/-- A defect from LOS to LOA in a mask. -/
def losLoa (m : Nat) : Bool := decide (4 ≤ m)

/-- Change of the reported defects of a lane (R339). -/
def reportLane (s : State) (l : Nat) : State :=
  let x := s.lane l
  let r := topDefect x.defects.counted
  let s1 := (s.setLane l { x with defects := { x.defects with reported := r } }).wr (Obj.lnDefects l) x.defects.counted
  if r = x.defects.reported then s1
  else match r with
    | some b => defectEvent s1 l b
    | none => s1

/-- Change of the reported defect of a port (R339), and what its second has seen. -/
def reportPort (s : State) (p : Nat) : State :=
  let x := s.nq p
  let m := portMask s p
  let r := topDefect m
  let s1 := s.setNq p { x with defects := { x.defects with reported := r } }
  let s2 := if p < 6 then s1.wr (Obj.nqDefects p) m else s1
  let y := s2.second p
  let s3 := s2.setSecond p { y with losLoa := y.losLoa || losLoa m, losDeg := y.losDeg || decide (2 ≤ m) }
  if r = x.defects.reported then s3
  else match r with
    | some b => defectEvent s3 (0x100 + p) b
    | none => s3

/-! ### Advertisements (R334) -/

/-- Own Serial. -/
def ownSerial : Nat := Config.serial % 2 ^ 64

/-- The device originates and relays: it has an Fdev that no lower Serial claims (R334, R335). -/
def State.named (s : State) : Bool := decide (s.ownFdev < 512) && !s.fb.conflict

/-- The ports whose adjacency is up. -/
def State.adjacentPorts (s : State) : List Nat := (List.range 6).filter (fun p => decide ((s.nq p).stage = 3))

/-- The database has changed (R336). -/
def State.lsdbChanged (s : State) : State := { s with fb := { s.fb with changed := some s.mono } }

/-- An advertisement flooded on every adjacency but one, and resent until acknowledged (R334). -/
def flood (s : State) (a : Lsa) (except : Nat) : State :=
  (s.adjacentPorts.filter (fun p => decide (p ≠ except))).foldl (fun t p =>
    let dst := ((t.nq p).neighbour.map (fun n => n.2.1 % 512)).getD 0x1FF
    let t1 := t.hopSend p dst (.lsa a)
    { t1 with fb := { t1.fb with
      lsaSent := (t1.fb.lsaSent.filter (fun x => !(decide (x.port = p) && decide (x.lsa.origin = a.origin) &&
        decide (x.lsa.serial = a.serial)))) ++ [⟨p, a, t1.mono⟩] } }) s

/-- The device's own adjacencies with the neighbour's FDEV and the port's Cost. -/
def ownLinks (s : State) : List (Nat × Nat) :=
  s.adjacentPorts.filterMap (fun p =>
    match (s.nq p).neighbour with
    | some (_, fdev, _) => if fdev < 512 then some (fdev, s.rd (Obj.nqCost p)) else none
    | none => none)

/-- An advertisement in place of the one of the same origin and Serial. -/
def lsdbPut (d : List LsaRec) (r : LsaRec) : List LsaRec :=
  d.filter (fun x => !(decide (x.lsa.origin = r.lsa.origin) && decide (x.lsa.serial = r.lsa.serial))) ++ [r]

/-- The device floods its advertisement (R334); without an Fdev of its own it originates none. -/
def originate (s : State) : State :=
  if s.named then
    let a : Lsa := ⟨s.ownFdev, ownSerial, (s.fb.lsaSeq + 1) % 2 ^ 32, ownLinks s⟩
    let s1 := { s with fb := { s.fb with lsaSeq := a.seq, lsaAt := s.mono, lsdb := lsdbPut s.fb.lsdb ⟨a, s.mono⟩ } }
    flood s1.lsdbChanged a 99
  else { s with fb := { s.fb with lsaAt := s.mono } }

/-! ### The port state machine (Table 14.4) -/

/-- An adjacency that ends: the neighbour's objects, the advertisement, NQ_LINK_DOWN. -/
def adjacencyDown (s : State) (p k : Nat) : State :=
  let was := decide ((s.nq p).stage = 3)
  let s1 := s.setStage p k
  let s2 := { s1 with fb := { s1.fb with
    hop := s1.fb.hop.filter (fun x => !(decide (x.1 = p) && decide (x.2.kind ≠ 1)))
    lsaSent := s1.fb.lsaSent.filter (fun x => decide (x.port ≠ p)) } }
  if was then (originate s2.lsdbChanged).event Ev.nqLinkDown p 0 else s2

/-- The neighbour of a port forgotten. -/
def forgetNeighbour (s : State) (p : Nat) : State :=
  let s1 := s.setNq p { s.nq p with neighbour := none }
  if p < 6 then (s1.wr (Obj.nqNeighbour p) 0xFFFF).wr (Obj.nqNeighbourPort p) 0xFF else s1

/-- A port of LINKED or ADJACENT that has a defect from LOS to LOA falls to ALIGNING (Table 14.4). -/
def portCheck (s : State) (p : Nat) : State :=
  if 2 ≤ (s.nq p).stage ∧ losLoa (portMask s p) then forgetNeighbour (adjacencyDown s p 1) p else s

/-- The present defects of a lane by its receiver (R322, R323, R325). -/
def laneRaw (x : LaneRt) : Nat :=
  64 * b2n x.los + 32 * b2n x.lol + 16 * b2n (!(x.cwLock && x.blkLock)) + 8 * b2n (!x.mkLock)

/-- LOA of a port (R326): skew above 180 ns, a lane number missing or duplicated, or a lane without marker lock. -/
def groupLost (s : State) (p : Nat) : Bool :=
  let ls := lanesOf p
  decide (180 < (s.nq p).skew) || ls.any (fun l => !(s.lane l).mkLock) ||
    (List.range ls.length).any (fun i => !(ls.any (fun l => decide ((s.lane l).number = i))))

/-- The defects of a port's lanes and of the port itself as they now stand. -/
def refreshDefects (s : State) (p : Nat) : State :=
  if (s.nq p).stage = 0 then s
  else
    let s1 := (lanesOf p).foldl (fun t l =>
      let x := t.lane l
      reportLane (t.setLane l { x with defects := x.defects.set (laneRaw x) t.mono }) l) s
    let x := s1.nq p
    let raw := 4 * b2n (groupLost s1 p) + 2 * b2n (bit x.defects.raw 1) + b2n x.farRdi
    portCheck (reportPort (s1.setNq p { x with defects := x.defects.set raw s1.mono }) p) p

/-- A port powered: its lanes have nothing yet, and it aligns. -/
def portUp (s : State) (p : Nat) : State :=
  if (s.nq p).stage ≠ 0 then s
  else
    let s1 := (lanesOf p).foldl (fun t l => t.setLane l LaneRt.idle)
      (s.setNq p { NqPort.idle with tx := (lanesOf p).map LaneTx.fresh })
    refreshDefects (s1.setStage p 1) p

/-- A port powered off: no defect is judged on lanes that are off. -/
def portDown (s : State) (p : Nat) : State :=
  if (s.nq p).stage = 0 then s
  else
    let s1 := forgetNeighbour (adjacencyDown s p 0) p
    let s2 := (lanesOf p).foldl (fun t l => (t.setLane l LaneRt.idle).wr (Obj.lnDefects l) 0) s1
    let s3 := (s2.setNq p NqPort.idle).setStage p 0
    let s4 := { s3 with fb := { s3.fb with
      hop := s3.fb.hop.filter (fun x => decide (x.1 ≠ p)), inbox := s3.fb.inbox.filter (fun x => decide (x.1 ≠ p)) } }
    if p < 6 then (s4.wr (Obj.nqDefects p) 0).wr (Obj.nqSkew p) 0 else s4

/-- A port that enters LINKED (R329): credits from 0 with the full buffer available, hellos start. -/
def portLinked (s : State) (p : Nat) : State :=
  let x := s.nq p
  (s.setNq p { NqPort.idle with
    stage := x.stage, creditAt := s.mono, helloAt := s.mono, farRdi := x.farRdi, skew := x.skew, degraded := x.degraded
    defects := x.defects, tx := x.tx }).setStage p 2

/-- DEFECT_HOLD_EXPIRY (R338, R339): defects absent for DefectHold are cleared, and a port with none left from LOS to LOA
becomes LINKED. -/
def defectHold (s : State) (p : Nat) : State :=
  let hold := s.rd Obj.defectHold * ms
  let s1 := (lanesOf p).foldl (fun t l =>
    let x := t.lane l
    reportLane (t.setLane l { x with defects := x.defects.settle t.mono hold }) l) s
  let x := s1.nq p
  let s2 := reportPort (s1.setNq p { x with defects := x.defects.settle s1.mono hold }) p
  if (s2.nq p).stage = 1 ∧ ¬ losLoa (portMask s2 p) then portLinked s2 p else s2

/-! ### The receiver of a lane (R322 to R326) -/

/-- A run of `n` valid headers (R323): 64 in a row give block lock. -/
def LaneRt.goodHeaders (x : LaneRt) (n : Nat) : LaneRt :=
  if x.blkLock then { x with headers := (List.replicate (min n 64) true ++ x.headers).take 64 }
  else if 64 ≤ x.blkRun + n then { x with blkLock := true, blkRun := 0, headers := List.replicate 64 true }
  else { x with blkRun := x.blkRun + n }

/-- An invalid header (R323): the search slips, and 16 or more among 64 blocks lose the lock. -/
def LaneRt.invalidHeader (x : LaneRt) : LaneRt :=
  let h := (false :: x.headers).take 64
  if !x.blkLock then { x with blkRun := 0 }
  else if 16 ≤ (h.filter (fun b => !b)).length then { x with blkLock := false, blkRun := 0, headers := [] }
  else { x with headers := h }

/-- Codewords that decode (R322): two in a row give codeword lock. -/
def LaneRt.goodCodewords (x : LaneRt) (n : Nat) : LaneRt :=
  if x.cwLock then { x with cwRun := 0 }
  else if 2 ≤ x.cwRun + n then { x with cwLock := true, cwRun := 0 } else { x with cwRun := x.cwRun + n }

/-- A codeword that does not decode (R322): three in a row lose codeword lock. -/
def LaneRt.badCodewords (x : LaneRt) : LaneRt :=
  if !x.cwLock then { x with cwRun := 0 }
  else if 3 ≤ x.cwRun + 1 then { x with cwLock := false, cwRun := 0 } else { x with cwRun := x.cwRun + 1 }

/-- A marker errored or missing under marker lock (R325): four in a row lose it. -/
def LaneRt.badMarker (x : LaneRt) : LaneRt :=
  if 4 ≤ x.mkBad + 1 then { x with mkLock := false, mkRun := 0, mkBad := 0 } else { x with mkBad := x.mkBad + 1 }

/-- A block where a marker may stand (R325): the lane after it, and whether it counts in MarkerErrors. -/
def LaneRt.marker (x : LaneRt) (differs number : Nat) (spaced : Bool) : LaneRt × Bool :=
  if x.mkLock then
    if differs ≤ 3 ∧ number = x.number then ({ x with mkBad := 0 }, false) else (x.badMarker, true)
  else if 3 < differs then ({ x with mkRun := 0 }, false)
  else if ¬ spaced ∨ x.mkRun = 0 ∨ number ≠ x.number then ({ x with mkRun := 1, number := number }, false)
  else if 3 ≤ x.mkRun + 1 then ({ x with mkLock := true, mkRun := 0, mkBad := 0 }, false)
  else ({ x with mkRun := x.mkRun + 1 }, false)

/-! ### Codewords taken apart into blocks (R322, R323, R325) -/

/-- A block whose place is known, under block lock (R323, R325): in the search for markers every block is tested until one is a candidate;
then, and under marker lock, only the places 4,096 blocks apart count. The second part is what it adds to BadHeaders and MarkerErrors. -/
def LaneRt.block (x : LaneRt) (b : Block) : LaneRt × Nat × Nat :=
  let due := decide (x.since + 1 = 4096)
  let differs := markerDiffers b
  let mk := decide (b.header = 2) && decide (differs ≤ 3)
  if x.mkLock then
    if due then
      let y := if b.header = 2 then x.marker differs (b.payload % 256) true else (x.badMarker, true)
      ({ y.1 with since := 0 }, 0, b2n y.2)
    else ({ x with since := x.since + 1 }, 0, 0)
  else if x.mkRun = 0 then
    if mk then ({ (x.marker differs (b.payload % 256) false).1 with since := 0 }, 0, 0) else (x, 0, 0)
  else if due then
    if mk then ({ (x.marker differs (b.payload % 256) true).1 with since := 0 }, 0, 0) else ({ x with mkRun := 0 }, 0, 0)
  else ({ x with since := x.since + 1 }, 0, 0)

/-- A block is a marker at the place where it stands: its payload is not scrambled (R323, R324). -/
def LaneRt.atMarker (x : LaneRt) (b : Block) : Bool :=
  (x.mkLock && decide (x.since + 1 = 4096)) || (!x.mkLock && decide (b.header = 2) && decide (markerDiffers b ≤ 3) &&
    (decide (x.mkRun = 0) || decide (x.since + 1 = 4096)))

/-- A control block's type is one of Table 14.1. -/
def knownType (t : Nat) : Bool := [0x1E, 0x33, 0x55].contains t

/-- The next block, or slip, of a lane's corrected stream (R323); `n` bounds them. The numbers are what BadHeaders and MarkerErrors
gain. -/
def LaneRt.drain (x : LaneRt) : Nat → LaneRt × Nat × Nat
  | 0 => (x, 0, 0)
  | n + 1 =>
    if x.bits.length < 132 then (x, 0, 0)
    else
      let h := ofBits (x.bits.take 2)
      let next := ofBits ((x.bits.drop 130).take 2)
      let valid := fun (v : Nat) => decide (v = 1) || decide (v = 2)
      if !x.blkLock && !(valid h && valid next) then
        ({ x with bits := x.bits.drop 1, blkRun := 0 } : LaneRt).drain n
      else
        let raw := (x.bits.drop 2).take 128
        let y0 := if valid h then { x with bits := x.bits.drop 130 }.goodHeaders 1 else { x with bits := x.bits.drop 130 }.invalidHeader
        let b : Block := ⟨h, ofBits raw⟩
        let plain := !(x.blkLock && valid h && x.atMarker b)
        let (text, r) := if plain then descramble x.descrambler raw else (raw, x.descrambler)
        let y1 := { y0 with descrambler := r }
        let bad := if !valid h then b2n x.blkLock
          else if x.blkLock && plain && decide (h = 2) && !knownType (ofBits text % 256) then 1 else 0
        let (y2, _, e) := if x.blkLock then y1.block b else (y1, 0, 0)
        let (z, b2, e2) := y2.drain n
        (z, bad + b2, e + e2)

/-- A codeword's symbols at a lane (R321, R322): decoded, counted, and under codeword lock its block stream taken apart. -/
def laneWord (s : State) (l : Nat) (symbols : List Nat) : State :=
  let y := s.second (portOf l)
  match (if symbols.length = 544 then rsDecode (symbols.map (· % 1024)) else none) with
  | some (w, c) =>
    let x := (s.lane l).goodCodewords 1
    let (z, bad, errs) := if x.cwLock then { x with bits := x.bits ++ ofSymbols (w.take 514) }.drain (x.bits.length + 5140) else (x, 0, 0)
    (((s.tally (Obj.lnCorrected l) c).tally (Obj.lnBadHeaders l) bad).tally (Obj.lnMarkerErrors l) errs).setSecond (portOf l)
      { y with corrected := y.corrected + c } |>.setLane l z
  | none =>
    ((s.tally (Obj.lnUncorrectable l) 1).setSecond (portOf l) { y with uncorrectable := y.uncorrectable + 1 }).setLane l
      { (s.lane l).badCodewords with bits := [] }

/-- A lane's event noted in its counters and receiver. -/
def phyLane (s : State) (l : Nat) (f : LaneRt → LaneRt) : State := refreshDefects (s.setLane l (f (s.lane l))) (portOf l)

/-- LANE_DEFECT_CHANGE (R322 to R326, R338, R339). -/
def phyEvent (s : State) (e : PhyEvent) : State :=
  let ok := fun (l : Nat) => decide (l < 26) && decide ((s.nq (portOf l)).stage ≠ 0)
  match e with
  | .signal l below => if ok l then phyLane s l (fun x => { x with los := below }) else s
  | .cdr l out => if ok l then phyLane s l (fun x => { x with lol := out }) else s
  | .codewords l n c =>
    if ok l then
      let y := s.second (portOf l)
      phyLane ((s.tally (Obj.lnCorrected l) c).setSecond (portOf l) { y with corrected := y.corrected + c }) l
        (fun x => x.goodCodewords n)
    else s
  | .badCodeword l =>
    if ok l then
      let y := s.second (portOf l)
      phyLane ((s.tally (Obj.lnUncorrectable l) 1).setSecond (portOf l) { y with uncorrectable := y.uncorrectable + 1 }) l
        LaneRt.badCodewords
    else s
  | .headers l n => if ok l then phyLane s l (fun x => x.goodHeaders n) else s
  | .badHeader l => if ok l then phyLane (s.tally (Obj.lnBadHeaders l) 1) l LaneRt.invalidHeader else s
  | .reservedBlock l => if ok l then s.tally (Obj.lnBadHeaders l) 1 else s
  | .marker l d n sp =>
    if ok l then
      let bad := ((s.lane l).marker d (n % 4) sp).2
      phyLane (if bad then s.tally (Obj.lnMarkerErrors l) 1 else s) l (fun x => (x.marker d (n % 4) sp).1)
    else s
  | .noMarker l =>
    if ok l then
      if (s.lane l).mkLock then phyLane (s.tally (Obj.lnMarkerErrors l) 1) l LaneRt.badMarker
      else phyLane s l (fun x => { x with mkRun := 0 })
    else s
  | .word l w => if ok l then refreshDefects (laneWord s l w) (portOf l) else s
  | .skew p ns =>
    if p < 7 ∧ (s.nq p).stage ≠ 0 then
      let s1 := s.setNq p { s.nq p with skew := ns }
      refreshDefects (if p < 6 then s1.wr (Obj.nqSkew p) (min ns 65535) else s1) p
    else s

/-! ### Frames and credits (R328 to R331) -/

/-- Credits of receive buffer per virtual channel (R329). -/
def fullCredits : List Nat := [1024, 4096, 16384, 8192]

/-- Credits a frame costs (R329). -/
def frameCost (f : FabFrame) : Nat := ceilDiv (f.length + 20) 64

/-- An element of a list of four, one for each virtual channel. -/
def bump (xs : List Nat) (vc n : Nat) : List Nat := xs.mapIdx (fun i v => if i = vc then (v + n) % 2 ^ 24 else v)

/-- Credits available on a virtual channel of a port: the full buffer and the last count received, less what was spent, modulo
2^24 (R329). -/
def NqPort.credits (x : NqPort) (vc : Nat) : Nat :=
  (fullCredits.getD vc 0 + x.heard.getD vc 0 + (2 ^ 24 - x.spent.getD vc 0 % 2 ^ 24)) % 2 ^ 24

/-- Next SEQ expected from a source on a reliable channel. -/
def State.seqDue (s : State) (src vc : Nat) : Nat := AMap.get 0 (src * 4 + vc) s.fb.rxNext

/-- A frame handed to its consumer; BULK_DATA frames of other devices name none. -/
def deliver (s : State) (p : Nat) (f : FabFrame) : State :=
  if f.kind = 0x0D then s else { s with fb := { s.fb with inbox := s.fb.inbox ++ [(p, s.tod, f)] } }

/-- Held frames that are now in order are delivered (R331); `n` bounds them. -/
def deliverHeld (p src vc : Nat) : Nat → State → State
  | 0, s => s
  | n + 1, s =>
    match s.fb.rxHeld.find? (fun f => decide (f.src = src) && decide (f.vc = vc) && decide (f.seq = s.seqDue src vc)) with
    | none => s
    | some f =>
      let s1 := deliver { s with fb := { s.fb with
        rxHeld := s.fb.rxHeld.erase f
        rxNext := AMap.put 0 (src * 4 + vc) ((s.seqDue src vc + 1) % 65536) s.fb.rxNext } } p f
      deliverHeld p src vc n s1

/-- A reliable frame for this device (R331): acknowledged, delivered in SEQ order, a duplicate discarded. -/
def reliableRx (s : State) (p : Nat) (f : FabFrame) : State :=
  let s1 := s.fabSend f.src (.ack f.vc f.seq)
  let due := s1.seqDue f.src f.vc
  if f.seq = due then
    let s2 := deliver { s1 with fb := { s1.fb with rxNext := AMap.put 0 (f.src * 4 + f.vc) ((due + 1) % 65536) s1.fb.rxNext } } p f
    deliverHeld p f.src f.vc s2.fb.rxHeld.length s2
  else if (f.seq + 65536 - due) % 65536 < 32768 ∧
      ¬ s1.fb.rxHeld.any (fun h => decide (h.src = f.src) && decide (h.vc = f.vc) && decide (h.seq = f.seq)) then
    { s1 with fb := { s1.fb with rxHeld := s1.fb.rxHeld ++ [f] } }
  else s1

/-- A frame goes one hop (R328). -/
def oneHop (f : FabFrame) : Bool := decide (f.kind ≤ 3)

/-- FABRIC_FRAME_RX (R327, R328, R329, R331): `good` says that the CRC is right and no control block interrupted the frame;
`idle` counts the idle rows the receiver has deleted since the frame before. -/
def fabricFrameRx (s : State) (p : Nat) (f : FabFrame) (good : Bool) (idle : Nat) : State :=
  let x := s.nq p
  let s1 := (s.tally (Obj.fpIdleDeleted p) idle).setNq p { x with
    freed := bump x.freed f.vc (frameCost f)
    sinceCredit := x.sinceCredit + frameCost f }
  if !good then
    let y := s1.second p
    (s1.tally (Obj.fpCrcErrors p) 1).setSecond p { y with crc := y.crc + 1 }
  else
    let s2 := s1.tally (Obj.fpFramesRx p) 1
    if p = 6 then (if 0x20 ≤ f.kind ∧ f.kind ≤ 0x24 then deliver s2 p f else s2)
    else if f.kind = 0 ∨ 0x0D < f.kind then s2
    else if oneHop f then deliver s2 p f
    else if f.dst = s.ownFdev then (if fabReliable f.msg then reliableRx s2 p f else deliver s2 p f)
    else if s.named then deliver s2 p f
    else s2

/-- Next-hop port of a frame (R337): path CRC-16 over SRC, DST and FLOW modulo PathCount. -/
def nextHop (s : State) (f : FabFrame) : Option Nat :=
  match (s.fb.routes.find? (fun r => decide (r.1 = f.dst))).map Prod.snd with
  | some ps =>
    if ps.isEmpty then none
    else ps[crc crc16 (octets 2 f.src ++ octets 2 f.dst ++ octets 4 f.flow) % ps.length]?
  | none => none

/-- FRAME_RELAY (R332): the oldest received frame for another device. -/
def frameRelay (s : State) : State :=
  match s.fb.inbox.find? (fun x => decide (x.1 ≠ 6) && !oneHop x.2.2 && decide (x.2.2.dst ≠ s.ownFdev)) with
  | none => s
  | some (p, a, f) =>
    let s1 := { s with fb := { s.fb with inbox := s.fb.inbox.erase (p, a, f) } }
    if !s1.named then s1
    else if f.ttl ≤ 1 then s1.tally (Obj.fpTtlExpired p) 1
    else if (nextHop s1 f).isNone then s1.tally (Obj.fpNoRoute p) 1
    else match s1.fabQueuePush { f with ttl := f.ttl - 1 } with
      | (true, t) => t
      | (false, _) => s1.tally (Obj.fpTransitDrop p) 1

/-- CREDIT_BLOCK_RX (R329). -/
def creditRx (s : State) (p : Nat) (counts : List Nat) (rdi : Bool) : State :=
  let x := s.nq p
  let s1 := s.setNq p { x with
    heard := if 2 ≤ x.stage then (List.range 4).map (fun i => counts.getD i 0 % 2 ^ 24) else x.heard
    farRdi := rdi }
  refreshDefects s1 p

/-- Blocks go out on a port's lanes (R321, R326). What a port sends between them, idle rows and markers, passes with time and is not
stepped. -/
def sendBlocks (s : State) (p : Nat) (bs : List Block) : State := s.setNq p { s.nq p with tx := putBlocks (s.nq p).tx bs }

/-- CREDIT_BLOCK_TX (R329, Table 14.4): 1 µs after the last one, or after 16 credits freed. -/
def creditTx (s : State) (p : Nat) : State :=
  let x := s.nq p
  if x.stage ≠ 0 ∧ (x.creditAt + 1000 ≤ s.mono ∨ 16 ≤ x.sinceCredit) then
    let rdi := losLoa (portMask s p)
    (sendBlocks (s.setNq p { x with sinceCredit := 0, creditAt := s.mono }) p [creditBlock (creditCounts x.freed rdi)]).emit (.credit p x.freed rdi)
  else s

/-- A frame that waits for a port on a virtual channel: a frame of one hop, or the head of an egress queue (by its number) whose
path is the port. -/
inductive Waits | hop (f : FabFrame) | queue (q : Nat) (f : FabFrame)
deriving DecidableEq, Repr

/-- The frame of it. -/
def Waits.frame (w : Waits) : FabFrame :=
  match w with
  | .hop f => f
  | .queue _ f => f

/-- The frame at the head of a queue. -/
def queueFrame (q : Queue) : Option FabFrame :=
  match q.head with
  | some i => (match i.body with
    | .fabric f => some f
    | _ => none)
  | none => none

/-- Frames that wait for a port on a virtual channel. -/
def waitsFor (s : State) (p vc : Nat) : List Waits :=
  ((s.fb.hop.filter (fun x => decide (x.1 = p) && decide (x.2.vc = vc))).take 1).map (fun x => Waits.hop x.2) ++
    (if p = 6 then [] else s.queues.filterMap (fun e =>
      if 41984 ≤ e.1 ∧ e.1 < 44032 ∧ e.1 % 4 = vc then
        match queueFrame e.2 with
        | some f => if nextHop s f = some p then some (Waits.queue e.1 f) else none
        | none => none
      else none))

/-- The frame a virtual channel of a port would start next: a frame of one hop first, then one of the queues in an order the
manual leaves open. -/
def pickWait (s : State) (p vc : Nat) : Option Waits × State :=
  match waitsFor s p vc with
  | [] => (none, s)
  | .hop f :: _ => (some (.hop f), s)
  | [w] => (some w, s)
  | ws => let (n, t) := s.choose ws.length
          (ws[n]?, t)

/-- A frame leaves on a port: credits spent, counted, its copy awaiting an ACK timed from now (R329, R331). -/
def startFrame (s : State) (p : Nat) (w : Waits) : State :=
  let f := w.frame
  let s1 := match w with
    | .hop f => { s with fb := { s.fb with hop := s.fb.hop.erase (p, f) } }
    | .queue q _ => s.updQ q (s.q q).pop.2
  let x := s1.nq p
  let s2 := s1.setNq p { x with
    spent := bump x.spent f.vc (frameCost f)
    stalled := x.stalled.mapIdx (fun i b => if i = f.vc then false else b) }
  let s3 := { s2 with fb := { s2.fb with
    unacked := s2.fb.unacked.map (fun (u : Unacked) => if u.frame = f then { u with sent := s2.mono } else u)
    sent := s2.fb.sent + 1 } }
  ((sendBlocks s3 p (frameBlocks s3.fb.sent f)).tally (Obj.fpFramesTx p) 1).emit (.fabric p f)

/-- A start delayed for want of credit counts once (R329). -/
def stall (s : State) (p vc : Nat) : State :=
  let x := s.nq p
  if x.stalled.getD vc false then s
  else (s.tally (Obj.fpCreditStall p vc) 1).setNq p { x with
    stalled := x.stalled.mapIdx (fun (i : Nat) (b : Bool) => if i = vc then true else b) }

/-- The quantum of VIDEO and BULK (R330): 3 to 1 in octets, a longest frame for BULK. -/
def drrQuantum : Nat × Nat := (24000, 8000)

/-- VIDEO and BULK by deficit round robin (R330): which of the two starts (true VIDEO), and the deficits after it. -/
def drrShare (d : Nat × Nat) (video bulk : Option Nat) : Bool × (Nat × Nat) :=
  match video, bulk with
  | some v, some b =>
    if v ≤ d.1 then (true, (d.1 - v, d.2))
    else if b ≤ d.2 then (false, (d.1, d.2 - b))
    else (true, (d.1 + drrQuantum.1 - v, d.2 + drrQuantum.2))
  | some v, none => (true, ((if v ≤ d.1 then d.1 else d.1 + drrQuantum.1) - v, 0))
  | none, some b => (false, (0, (if b ≤ d.2 then d.2 else d.2 + drrQuantum.2) - b))
  | none, none => (true, d)

/-- A channel's next frame if its credits cover it; a delay is counted otherwise. -/
def readyWait (s : State) (p vc : Nat) : Option Waits × State :=
  match pickWait s p vc with
  | (some w, t) => if frameCost w.frame ≤ (t.nq p).credits vc then (some w, t) else (none, stall t p vc)
  | (none, t) => (none, t)

/-- FABRIC_FRAME_TX (R329, R330): CTRL first, AUDIO second, VIDEO and BULK by their shares. A port of LINKED sends frames of one
hop only: no route leads through it. -/
def frameTx (s : State) (p : Nat) : State :=
  match readyWait s p 0 with
  | (some w, t) => startFrame t p w
  | (none, s0) =>
    match readyWait s0 p 1 with
    | (some w, t) => startFrame t p w
    | (none, s1) =>
      let (v, s2) := readyWait s1 p 2
      let (b, s3) := readyWait s2 p 3
      let x := s3.nq p
      let (vid, d) := drrShare x.deficits (v.map (fun w => w.frame.length + 20)) (b.map (fun w => w.frame.length + 20))
      let s4 := s3.setNq p { x with deficits := d }
      match (if vid then v else b) with
      | some w => startFrame s4 p w
      | none => s3

/-- ACK_RX (R331): the oldest ACK received. -/
def ackRx (s : State) : State :=
  match s.takeFrame (fun f => decide (f.kind = 0x05)) with
  | (some (_, _, f), t) =>
    match f.msg with
    | .ack vc q => { t with fb := { t.fb with
        unacked := t.fb.unacked.filter (fun u => !(decide (u.frame.dst = f.src) && decide (u.frame.vc = vc) &&
          decide (u.frame.seq = q))) } }
    | _ => t
  | (none, t) => t

/-- CTRL_RETRANSMIT_EXPIRY (R331, R334): the frame, else the advertisement, that has waited longest and is due. -/
def ctrlRetransmit (s : State) : State :=
  let wait := s.rd Obj.ctrlRetransmit * 1000
  match s.fb.unacked.find? (fun u => decide (u.sent + wait ≤ s.mono)) with
  | some u =>
    let rest := s.fb.unacked.erase u
    if 8 ≤ u.tries then ({ s with fb := { s.fb with unacked := rest } }).event Ev.fabricDeliveryFail u.frame.dst 0
    else
      let s1 := { s with fb := { s.fb with unacked := rest ++ [{ u with sent := s.mono, tries := u.tries + 1 }] } }
      (s1.fabQueuePush u.frame).2
  | none =>
    match s.fb.lsaSent.find? (fun a => decide (a.sent + wait ≤ s.mono)) with
    | some a =>
      let s1 := { s with fb := { s.fb with lsaSent := s.fb.lsaSent.erase a ++ [{ a with sent := s.mono }] } }
      s1.hopSend a.port (((s.nq a.port).neighbour.map (fun n => n.2.1 % 512)).getD 0x1FF) (.lsa a.lsa)
    | none => s

/-! ### Adjacencies and advertisements (R333 to R335) -/

/-- HELLO_TX (R333). -/
def helloTx (s : State) (p : Nat) : State :=
  let x := s.nq p
  if 2 ≤ x.stage ∧ (x.helloSent = 0 ∨ x.helloSent + s.rd Obj.helloInterval * 1000 ≤ s.mono) then
    let (hs, hp) := (x.neighbour.map (fun n => (n.1, n.2.2))).getD (0, 0)
    let dst := (x.neighbour.map (fun n => n.2.1 % 512)).getD 0x1FF
    (s.setNq p { x with helloSent := s.mono }).hopSend p dst (.hello ownSerial s.ownFdev p hs hp)
  else s

/-- HELLO_RX (R333, Table 14.4): the oldest HELLO received. -/
def helloRx (s : State) : State :=
  match s.takeFrame (fun f => decide (f.kind = 0x01)) with
  | (some (p, _, f), t) =>
    match f.msg with
    | .hello serial fdev port hs hp =>
      let x := t.nq p
      if x.stage < 2 then t
      else
        let other := decide (x.stage = 3) && x.neighbour.any (fun n => decide (n.1 ≠ serial) || decide (n.2.2 ≠ port))
        let t1 := if other then adjacencyDown t p 2 else t
        let t2 := t1.setNq p { t1.nq p with neighbour := some (serial, fdev, port), helloAt := t1.mono }
        let t3 := (t2.wr (Obj.nqNeighbour p) (if fdev < 512 then fdev else 0xFFFF)).wr (Obj.nqNeighbourPort p) (port % 256)
        if (t3.nq p).stage = 2 ∧ ¬ other ∧ hs = ownSerial ∧ hp = p then
          (originate ((t3.setStage p 3).lsdbChanged)).event Ev.nqLinkUp p 0
        else t3
    | _ => t
  | (none, t) => t

/-- DEAD_INTERVAL_EXPIRY (R333). -/
def deadInterval (s : State) (p : Nat) : State :=
  let x := s.nq p
  if x.stage = 3 ∧ x.helloAt + s.rd Obj.deadInterval * 1000 ≤ s.mono then forgetNeighbour (adjacencyDown s p 2) p else s

/-- LSA_REFRESH (R334). -/
def lsaRefresh (s : State) : State :=
  if s.fb.lsaAt + s.rd Obj.lsaRefresh * 1000000000 ≤ s.mono then originate s else s

/-- An advertisement from another Serial that names this device's FDEV (R335). -/
def fdevConflict (s : State) (a : Lsa) : State :=
  if a.origin = s.ownFdev ∧ a.serial ≠ ownSerial ∧ s.ownFdev < 512 ∧ ¬ s.fb.conflict then
    let s1 := if a.serial < ownSerial then
        { s with fb := { s.fb with
          conflict := true
          lsdb := s.fb.lsdb.filter (fun r => !(decide (r.lsa.origin = a.origin) && decide (r.lsa.serial = ownSerial))) } }
      else s
    s1.event Ev.fabricFdevConflict 0 0
  else s

/-- LSA_RX (R334, R335): the oldest advertisement received is acknowledged, and stored and flooded onward when newer. -/
def lsaRx (s : State) : State :=
  match s.takeFrame (fun f => decide (f.kind = 0x02)) with
  | (some (p, _, f), t) =>
    match f.msg with
    | .lsa a =>
      let dst := ((t.nq p).neighbour.map (fun n => n.2.1 % 512)).getD 0x1FF
      let t1 := t.hopSend p dst (.lsack a.origin a.seq)
      if a.origin = s.ownFdev ∧ a.serial = ownSerial then t1
      else
        let held := t1.fb.lsdb.find? (fun r => decide (r.lsa.origin = a.origin) && decide (r.lsa.serial = a.serial))
        if (held.map (fun r => r.lsa.seq)).all (fun q => decide (q < a.seq)) then
          let t2 := fdevConflict t1 a
          let t3 := { t2 with fb := { t2.fb with lsdb := lsdbPut t2.fb.lsdb ⟨a, t2.mono⟩ } }
          flood t3.lsdbChanged a p
        else t1
    | _ => t
  | (none, t) => t

/-- LSACK_RX (R334): the oldest LSACK received. -/
def lsackRx (s : State) : State :=
  match s.takeFrame (fun f => decide (f.kind = 0x03)) with
  | (some (p, _, f), t) =>
    match f.msg with
    | .lsack origin q => { t with fb := { t.fb with
        lsaSent := t.fb.lsaSent.filter (fun x => !(decide (x.port = p) && decide (x.lsa.origin = origin) && decide (x.lsa.seq = q))) } }
    | _ => t
  | (none, t) => t

/-- LSA_EXPIRY (R334): advertisements of others not refreshed within 3 × LsaRefresh are removed. -/
def lsaExpiry (s : State) : State :=
  let age := 3 * s.rd Obj.lsaRefresh * 1000000000
  let keep := s.fb.lsdb.filter (fun r => (decide (r.lsa.origin = s.ownFdev) && decide (r.lsa.serial = ownSerial)) ||
    decide (s.mono < r.at_ + age))
  if keep.length = s.fb.lsdb.length then s
  else ({ s with fb := { s.fb with lsdb := keep } }).lsdbChanged

/-! ### Routes (R336) -/

/-- The advertisement by which a device routes to an FDEV: that of the lowest Serial (R335). -/
def routeLsa (d : List LsaRec) (o : Nat) : Option Lsa :=
  (d.filter (fun r => decide (r.lsa.origin = o))).foldl (fun best r =>
    match best with
    | none => some r.lsa
    | some b => if r.lsa.serial < b.serial then some r.lsa else best) none

/-- The links that count: both ends list the adjacency. Each is its origin, neighbour and cost. -/
def countedLinks (d : List LsaRec) : List (Nat × Nat × Nat) :=
  let origins := (d.map (fun r => r.lsa.origin)).eraseDups
  let lsas := origins.filterMap (routeLsa d)
  lsas.flatMap (fun a => (a.links.filter (fun l =>
    lsas.any (fun b => decide (b.origin = l.1) && b.links.any (fun m => decide (m.1 = a.origin))))).map
      (fun l => (a.origin, l.1, l.2)))

/-- One round of relaxation of distances from a source. -/
def relax (links : List (Nat × Nat × Nat)) (dist : List (Nat × Nat)) : List (Nat × Nat) :=
  links.foldl (fun m l =>
    match m.find? (fun e => decide (e.1 = l.1)) with
    | none => m
    | some (_, a) =>
      match m.find? (fun e => decide (e.1 = l.2.1)) with
      | none => m ++ [(l.2.1, a + l.2.2)]
      | some (_, b) => if a + l.2.2 < b then m.map (fun e => if e.1 = l.2.1 then (e.1, a + l.2.2) else e) else m) dist

/-- Distances after `n` rounds. -/
def distances (links : List (Nat × Nat × Nat)) : Nat → List (Nat × Nat) → List (Nat × Nat)
  | 0, d => d
  | n + 1, d => let e := relax links d
                if e = d then d else distances links n e

/-- The routes of a device: destination, distance, and up to four next-hop ports of least cost, lowest first. `via` lists its
adjacent ports with neighbour and cost. -/
def spf (links : List (Nat × Nat × Nat)) (own : Nat) (via : List (Nat × Nat × Nat)) : List (Nat × Nat × List Nat) :=
  let n := (links.map (fun l => l.1)).eraseDups.length
  let good := via.filter (fun v => links.any (fun l => decide (l.1 = own) && decide (l.2.1 = v.2.1)))
  let tables := good.map (fun v => (v.1, distances links n [(v.2.1, v.2.2)]))
  let dests := ((tables.flatMap (fun t => t.2.map Prod.fst)).eraseDups).filter (fun d => decide (d ≠ own))
  dests.map (fun d =>
    let ds := tables.filterMap (fun t => (t.2.find? (fun e => decide (e.1 = d))).map (fun e => (t.1, e.2)))
    let m := ds.foldl (fun m e => min m e.2) ((ds.map Prod.snd).headD 0)
    (d, m, ((ds.filter (fun e => decide (e.2 = m))).map Prod.fst).take 4))

/-- A destination's objects of Table 14.6. -/
def putRoute (s : State) (d state dist : Nat) (ports : List Nat) : State :=
  (((s.wr (Obj.routeState d) state).wr (Obj.routeDistance d) dist).wr (Obj.routePorts d)
    ((ports.map (fun p => 2 ^ p)).sum)).wr (Obj.pathCount d) ports.length

/-- JOIN sent to the anchor (R342), and the instant it may be repeated. -/
def sendJoin (s : State) (c : Nat) : State :=
  let s1 := (s.setCf c { s.cf c with joinAt := some s.mono }).wr (Obj.joinState c) 1
  if s.serves then s1.fabSend (s.rd (Obj.anchorFdev c)) (.join (s.rd (Obj.anchorConf c)) c) else s1

/-- An ACTIVE conference with Role REMOTE. -/
def State.isRemote (s : State) (c : Nat) : Bool := decide (s.rd (Obj.confState c) = 1) && decide (s.rd (Obj.confRole c) = 2)

/-- Conferences with an object of their record listed. -/
def State.listedConfs (s : State) : List Nat :=
  (s.dict.filter (fun e => decide (e.1 / 0x1000000 = 0x220001))).map (fun e => e.1 % 0x1000000)

/-- What new routes do to a remote conference (R343). -/
def remoteRoutes (s : State) (c : Nat) : State :=
  if !s.isRemote c then s
  else
    let r := s.reachable (s.rd (Obj.anchorFdev c))
    let j := s.rd (Obj.joinState c)
    if j = 2 ∧ ¬ r then (s.wr (Obj.joinState c) 3).event Ev.fabricAnchorLost c 0
    else if j = 3 ∧ r then sendJoin s c
    else s

/-- The SUBSCRIBE of a fabric-fed leg (R344). -/
def sendSubscribe (s : State) (l what : Nat) : State :=
  s.fabSend (s.rd (Obj.srcFdev l)) (.subscribe what l (s.rd (Obj.srcKind l)) (s.rd (Obj.srcId l)) (s.rd (Obj.srcEntry l)))

/-- What new routes do to a fabric-fed leg (R344): its source unreachable, or reachable again. -/
def feedRoutes (s : State) (l : Nat) : State :=
  if !(s.fabricFed l && s.legActive l) then s
  else
    let r := s.reachable (s.rd (Obj.srcFdev l))
    let x := s.rd (Obj.feedState l)
    if (x = 1 ∨ x = 2) ∧ ¬ r then s.wr (Obj.feedState l) 3
    else if x = 3 ∧ r then sendSubscribe (s.wr (Obj.feedState l) 1) l 0
    else s

/-- Devices known: the origins of the database, and this one. -/
def knownDevices (s : State) : Nat :=
  1 + (((s.fb.lsdb.map (fun r => r.lsa.origin)).eraseDups).filter (fun o => decide (o ≠ s.ownFdev))).length

/-- SPF_RUN (R336, R343, R344): SpfHold after the last change of the database. -/
def spfRun (s : State) : State :=
  match s.fb.changed with
  | none => s
  | some t =>
    if s.mono < t + s.rd Obj.spfHold * 1000 then s
    else
      let via := s.adjacentPorts.filterMap (fun p =>
        match (s.nq p).neighbour with
        | some (_, fdev, _) => some (p, fdev, s.rd (Obj.nqCost p))
        | none => none)
      let rs : List (Nat × Nat × List Nat) := if s.named then spf (countedLinks s.fb.lsdb) s.ownFdev via else []
      let s1 := s.fb.routes.foldl (fun u r => putRoute u r.1 0 0 []) s
      let s2 := rs.foldl (fun (u : State) (r : Nat × Nat × List Nat) => putRoute u r.1 1 r.2.1 r.2.2) s1
      let own := if s.ownFdev < 512 then [(s.ownFdev, ([] : List Nat))] else []
      let s3 := if s.ownFdev < 512 then putRoute s2 s.ownFdev 2 0 [] else s2
      let s4 := { s3 with fb := { s3.fb with changed := none, routes := rs.map (fun (r : Nat × Nat × List Nat) => (r.1, r.2.2)) ++ own } }
      let s5 := (s4.wr Obj.devicesKnown (knownDevices s4)).inc Obj.spfRuns
      let s6 := s5.listedConfs.foldl remoteRoutes s5
      (s6.le.legs.map Prod.fst).foldl feedRoutes s6

/-! ### Port and device objects (R345) -/

/-- NQ_PORT_ENABLE and NQ_PORT_DISABLE (Table 14.4): a write of Enable, already made. -/
def nqEnableWrite (s : State) (p v : Nat) : State := if v = 1 then portUp s p else portDown s p

/-- A write of Fdev (R345): refused while a port is ADJACENT. -/
def fdevPre (s : State) : Nat := if s.adjacentPorts.isEmpty then 0 else Abort.fabricBusy

/-- The effect of a new Fdev: a conflict is over (R335), and routes are computed anew. -/
def fdevPost (s : State) (old : Nat) : State :=
  let s1 := { s with fb := { s.fb with
    conflict := false
    lsdb := s.fb.lsdb.filter (fun r => !(decide (r.lsa.origin = old) && decide (r.lsa.serial = ownSerial))) } }
  originate s1.lsdbChanged

/-- The relations among fabric fields after a write (R345). -/
def fabricRelations (s : State) (ix : Nat) : Nat :=
  if ix = 0xA010 ∧ s.rd Obj.trunk0 = s.rd Obj.trunk1 ∧ s.rd Obj.trunk0 ≠ 0xFF then Abort.inconsistent
  else if ix = 0xA020 ∧ s.rd Obj.deadInterval < 3 * s.rd Obj.helloInterval then Abort.inconsistent
  else 0

/-! ### Conferences across devices (R342, R343, R464, R465) -/

/-- The fabric tells a conference it no longer takes part (R343). -/
def sendLeave (s : State) (c fdev conf : Nat) : State := if s.reachable fdev then s.fabSend fdev (.leave conf c) else s

/-- Something still refers to a conference (R24). -/
def confReferred (s : State) (c : Nat) : Bool :=
  s.disp.items.any (fun w => decide (w.desc.flow = flowTag 1 c)) ||
    s.disp.held.any (fun h => decide (h.desc.flow = flowTag 1 c))

/-- CONF_ACTIVATE (R107, R108, R342): a conference that still is RELEASING cannot be used; a REMOTE one sends JOIN. -/
def confActivate (s : State) (c : Nat) : Nat × State :=
  if s.rd (Obj.confState c) = 1 then (0, s)
  else if (s.cf c).releasing ∧ confReferred s c then (Abort.notQuiescent, s)
  else if s.rd (Obj.confRole c) = 2 ∧ (s.rd (Obj.anchorFdev c) = 0xFFFF ∨ s.rd (Obj.anchorConf c) = 0xFFFF) then (Abort.relation, s)
  else
    let s1 := ((s.setCf c ConfRt.idle).wr (Obj.confState c) 1).wr (Obj.devices c) 1
    (0, if s.rd (Obj.confRole c) = 2 then sendJoin s1 c else s1)

/-- CONF_FREE (R108, R343): refused while Members is not 0; a remote leaves its anchor. -/
def confFree (s : State) (c : Nat) : Nat × State :=
  if s.members c ≠ [] then (Abort.relation, s)
  else if s.rd (Obj.confState c) ≠ 1 then (0, s)
  else
    let s1 := if s.isRemote c then sendLeave s c (s.rd (Obj.anchorFdev c)) (s.rd (Obj.anchorConf c)) else s
    let s2 := { s1 with le := { s1.le with clips := s1.le.clips.filter (fun k => !(k.isConf && decide (k.target = c))) } }
    (0, (((s2.setCf c { ConfRt.idle with releasing := true }).wr (Obj.confState c) 0).wr (Obj.joinState c) 0).wr (Obj.devices c) 1)

/-- What ConfState reads as (Table 4.5): RELEASING while something refers to a freed conference. -/
def confStateRead (s : State) (c : Nat) : Nat :=
  if (s.cf c).releasing ∧ confReferred s c then 2 else s.rd (Obj.confState c)

/-- ANCHOR_REPOINT (R465): a write of AnchorFdev or AnchorConf on an ACTIVE remote, already made, from the old anchor. -/
def anchorRepoint (s : State) (c oldFdev oldConf : Nat) : State :=
  if s.isRemote c then sendJoin (sendLeave s c oldFdev oldConf) c else s

/-- The remotes of a conference and Devices with them. -/
def setRemotes (s : State) (c : Nat) (rs : List Remote) : State :=
  (s.setCf c { s.cf c with remotes := rs }).wr (Obj.devices c) (1 + rs.length)

/-- JOIN_RX (R342, R464): the oldest JOIN received. -/
def joinRx (s : State) : State :=
  match s.takeFrame (fun f => decide (f.kind = 0x06)) with
  | (some (_, _, f), t) =>
    match f.msg with
    | .join ac conf =>
      let known := (t.cf ac).remotes.any (fun r => decide (r.fdev = f.src) && decide (r.conf = conf))
      let ok := t.serves && decide (ac < 16384) && decide (t.rd (Obj.confState ac) = 1) && decide (t.rd (Obj.confRole ac) = 1)
      if !ok then t.fabSend f.src (.joinReply ac conf Abort.relation)
      else if known then t.fabSend f.src (.joinReply ac conf 0)
      else if 64 < 1 + (t.cf ac).remotes.length + 1 then t.fabSend f.src (.joinReply ac conf Abort.limit)
      else (setRemotes t ac ((t.cf ac).remotes ++ [⟨f.src, conf, t.mono⟩])).fabSend f.src (.joinReply ac conf 0)
    | _ => t
  | (none, t) => t

/-- The remote conference a JOIN_REPLY concerns: by its CONF, or, where the reply answers a partial, by its anchor. -/
def replyConf (s : State) (src ac conf : Nat) : Option Nat :=
  let fits := fun (c : Nat) => s.isRemote c && decide (s.rd (Obj.anchorFdev c) = src) && decide (s.rd (Obj.anchorConf c) = ac)
  if conf < 16384 then (if fits conf then some conf else none) else s.listedConfs.find? fits

/-- A refused remote (R342, R343): PENDING; a refusal of a JOIN counts, and the first of a run raises CONF_JOIN_REFUSED; a JOINED
remote, removed by its anchor, joins again at once. -/
def joinRefused (s : State) (c : Nat) : State :=
  if s.rd (Obj.joinState c) = 2 then sendJoin s c
  else
    let x := s.cf c
    let s1 := ((s.setCf c { x with refusedRun := true }).inc (Obj.joinRefusals c)).wr (Obj.joinState c) 1
    if x.refusedRun then s1 else s1.event Ev.confJoinRefused c 0

/-- JOIN_REPLY_RX (R342): the oldest JOIN_REPLY received. -/
def joinReplyRx (s : State) : State :=
  match s.takeFrame (fun f => decide (f.kind = 0x07)) with
  | (some (_, _, f), t) =>
    match f.msg with
    | .joinReply ac conf result =>
      match replyConf t f.src ac conf with
      | none => t
      | some c =>
        if result ≠ 0 then joinRefused t c
        else if t.rd (Obj.joinState c) = 1 then
          (t.setCf c { t.cf c with refusedRun := false, joinAt := none }).wr (Obj.joinState c) 2
        else t
    | _ => t
  | (none, t) => t

/-- JOIN_RETRY_EXPIRY (R342): a PENDING remote repeats JOIN every 1 s. -/
def joinRetry (s : State) (c : Nat) : State :=
  if s.isRemote c ∧ s.rd (Obj.joinState c) = 1 ∧ ((s.cf c).joinAt.all (fun t => decide (t + 1000000000 ≤ s.mono))) then sendJoin s c
  else s

/-- LEAVE_RX (R343): the oldest LEAVE received. -/
def leaveRx (s : State) : State :=
  match s.takeFrame (fun f => decide (f.kind = 0x08)) with
  | (some (_, _, f), t) =>
    match f.msg with
    | .leave ac conf =>
      let rs := (t.cf ac).remotes
      let keep := rs.filter (fun r => !(decide (r.fdev = f.src) && decide (r.conf = conf)))
      if keep.length = rs.length then t else setRemotes t ac keep
    | _ => t
  | (none, t) => t

/-- REMOTE_PARTIAL_TIMEOUT (R343): a remote from which no partial has arrived for 1 s. -/
def partialTimeout (s : State) (c fdev : Nat) : State :=
  let rs := (s.cf c).remotes
  let keep := rs.filter (fun r => !(decide (r.fdev = fdev) && decide (r.heard + 1000000000 ≤ s.mono)))
  if keep.length = rs.length then s else setRemotes s c keep

/-! ### Video across the fabric (R344, R464, R466) -/

/-- The source acts on a SUBSCRIBE as on a key request (R466). -/
def subscribedKey (s : State) (kind id entry : Nat) : State :=
  if kind = 2 then (if id < 8192 then raiseKey s id false else s)
  else if id < 131072 ∧ entry < 8 ∧ s.legActive id then (s.askKey id entry).2 else s

/-- A leg whose subscription was answered. -/
def subscriptionAnswer (s : State) (l src state : Nat) : State :=
  if s.fabricFed l ∧ s.legActive l ∧ s.rd (Obj.srcFdev l) = src ∧ s.rd (Obj.feedState l) ≠ 0 then s.wr (Obj.feedState l) state
  else s

/-- SUBSCRIBE_RX (R344, R464, R466): the oldest SUBSCRIBE received. -/
def subscribeRx (s : State) : State :=
  match s.takeFrame (fun f => decide (f.kind = 0x0B)) with
  | (some (_, _, f), t) =>
    match f.msg with
    | .subscribe what leg kind id entry =>
      let b : Sub := ⟨kind, id, entry, f.src, leg⟩
      let same := t.fb.subs.filter (fun x => decide (x.kind = kind) && decide (x.id = id) && (decide (kind = 2) || decide (x.entry = entry)))
      if what = 0 then
        if ¬ t.serves ∨ (64 ≤ same.length ∧ b ∉ same) then t.fabSend f.src (.subscribe 3 leg kind id entry)
        else
          let t1 := if b ∈ same then t else { t with fb := { t.fb with subs := t.fb.subs ++ [b] } }
          subscribedKey (t1.fabSend f.src (.subscribe 2 leg kind id entry)) kind id entry
      else if what = 1 then { t with fb := { t.fb with subs := t.fb.subs.filter (fun x => decide (x ≠ b)) } }
      else if what = 2 then subscriptionAnswer t leg f.src 2
      else subscriptionAnswer t leg f.src 4
    | _ => t
  | (none, t) => t

/-- A device that leaves ACTIVE ends every subscription it served (R464). -/
def endSubscriptions (s : State) : State := { s with fb := { s.fb with subs := [] } }

/-- The receive entry of a fabric-fed leg that takes its packets: its lowest VIDEO entry. -/
def feedEntry (s : State) (l : Nat) : Option Nat := (List.range 8).find? (fun e => decide (s.rd (Obj.rxKind e l) = 2))

/-- A packet of a MEDIA frame placed in its leg as R120 states. -/
def feedPlace (s : State) (l : Nat) (p : Rtp) : State :=
  match feedEntry s l with
  | none => s
  | some e =>
    match extend (s.rxE l e) p.seq with
    | some x => deliverRtp s l e x p s.mono
    | none => s

/-- MEDIA_RX (R344): the oldest MEDIA frame received. -/
def mediaRx (s : State) : State :=
  match s.takeFrame (fun f => decide (f.kind = 0x0C)) with
  | (some (_, _, f), t) =>
    match f.msg with
    | .media l m =>
      if t.legActive l ∧ t.fabricFed l ∧ t.rd (Obj.srcFdev l) = f.src ∧ t.serves then
        let t1 := (t.setLeg l { t.leg l with lastRx := t.mono }).wr (Obj.feedState l) 2
        match m with
        | .fromLeg _ _ p => feedPlace t1 l p
        | .fromRctx _ p => feedPlace t1 l p
      else t
    | _ => t
  | (none, t) => t

/-! ### Performance bins (R341) -/

/-- The port of a privileged port: TW, Trunk0, Trunk1. -/
def pmPort (s : State) (k : Nat) : Option Nat :=
  if k = 0 then some 6
  else
    let p := if k = 1 then s.rd Obj.trunk0 else s.rd Obj.trunk1
    if p < 6 then some p else none

/-- Indexes of a record of Table 14.5: those of the current bins and the newest recent one. -/
def pmCur15 (k : Nat) : Nat := 0xA300 + k
def pmCurDay (k : Nat) : Nat := 0xA303 + k
def pmPrevDay (k : Nat) : Nat := 0xA306 + k
def pmRecent (k n : Nat) : Nat := 0xA340 + 32 * k + n

/-- A field of a record. -/
def recKey (ix sub : Nat) : Nat := key ix sub 0

/-- A record's field raised or lowered. -/
def State.addRec (s : State) (ix sub : Nat) (d : Int) : State :=
  let k := recKey ix sub
  let v := ((s.rd k : Nat) : Int) + d
  s.wr k (min (if v < 0 then 0 else v.toNat) (maxOf k))

/-- The seconds of one second's class added to the bins that hold it: the current ones, or the ones that ended last. -/
def pmClass (s : State) (k start : Nat) (es ses uas : Int) : State :=
  let put := fun (t : State) (ix : Nat) => ((t.addRec ix 2 es).addRec ix 3 ses).addRec ix 4 uas
  let i15 := if ofTime80 (s.rd (recKey (pmCur15 k) 1)) ≤ start then pmCur15 k else pmRecent k 0
  let iday := if ofTime80 (s.rd (recKey (pmCurDay k) 1)) ≤ start then pmCurDay k else pmPrevDay k
  put (put s i15) iday

def PmRun.idle : PmRun := ⟨false, []⟩

/-- A second classified (Table of R341): unavailable time begins with the first of 10 SES in a row and ends with the first of 10
seconds that are not. -/
def pmSecond (s : State) (k start : Nat) (es ses : Bool) : State :=
  let x := AMap.get PmRun.idle k s.fb.pm
  let put := fun (t : State) (y : PmRun) => { t with fb := { t.fb with pm := AMap.put PmRun.idle k y t.fb.pm } }
  let run := if ses = x.unavailable then [] else x.run ++ [(start, es, ses)]
  if x.unavailable then
    let s1 := pmClass s k start 0 0 1
    if 10 ≤ run.length then
      run.foldl (fun t e => pmClass t k e.1 (b2n e.2.1 : Nat) (b2n e.2.2 : Nat) (-1)) (put s1 ⟨false, []⟩)
    else put s1 { x with run := run }
  else
    let s1 := pmClass s k start (b2n es : Nat) (b2n ses : Nat) 0
    if 10 ≤ run.length then
      run.foldl (fun t e => pmClass t k e.1 (-((b2n e.2.1 : Nat) : Int)) (-((b2n e.2.2 : Nat) : Int)) 1) (put s1 ⟨true, []⟩)
    else put s1 { x with run := run }

/-- Codewords of a port in a second: 106.25 Gbit/s in codewords of 5,440 bits on each lane. -/
def codewordsPerSecond (p : Nat) : Nat := 19531250 * (lanesOf p).length

/-- A bin that starts late, or that nothing has started, is SUSPECT (R341). -/
def pmStart (s : State) (ix : Nat) : State :=
  if s.rd (recKey ix 1) = 0 then (s.wr (recKey ix 1) (time80 (s.tod / 1000000000 * 1000000000))).wr (recKey ix 8) 1 else s

/-- The second of a privileged port enters its bins (R341). -/
def pmLatch (s : State) (k : Nat) : State :=
  match pmPort s k with
  | none => s
  | some p =>
    let y := s.second p
    let m := portMask s p
    let los := y.losLoa || losLoa m
    let es := decide (0 < y.uncorrectable) || decide (0 < y.crc) || los
    let ses := los || decide (codewordsPerSecond p < 1000 * y.uncorrectable)
    let s1 := pmStart (pmStart s (pmCur15 k)) (pmCurDay k)
    let add := fun (t : State) (ix : Nat) =>
      ((t.addRec ix 5 y.corrected).addRec ix 6 y.uncorrectable).addRec ix 7 (b2n (y.losDeg || decide (2 ≤ m)) : Nat)
    pmSecond (add (add s1 (pmCur15 k)) (pmCurDay k)) k ((s.tod / 1000000000 - 1) * 1000000000) es ses

/-- DEG (R338): a second is degraded by corrected symbols above DegThreshold or an uncorrectable codeword; DegSeconds in a row set
DEG, DegSeconds in a row without one clear it. -/
def degLatch (s : State) (p : Nat) : State :=
  let x := s.nq p
  if x.stage = 0 then s
  else
    let y := s.second p
    let bad := decide (s.rd Obj.degThreshold < y.corrected) || decide (0 < y.uncorrectable)
    let n := s.rd Obj.degSeconds
    let h := (bad :: x.degraded).take 60
    let was := bit x.defects.raw 1
    let all := decide (n ≤ h.length) && (h.take n).all (fun b => b != was)
    let deg := if all then !was else was
    let raw := orMask (clrBit x.defects.raw 1) (2 * b2n deg)
    reportPort (s.setNq p { x with degraded := h, defects := x.defects.set raw s.mono }) p

/-- The fabric's part of the one-second counter latch (R338, R340, R341): counters shown, DEG judged, bins fed, the next second
begun. -/
def fabricLatch (s : State) : State :=
  let s1 := (List.range 7).foldl degLatch s
  let s2 := (List.range 3).foldl pmLatch s1
  let s3 := s2.fb.live.foldl (fun t e => t.wr e.1 e.2) s2
  { s3 with fb := { s3.fb with seconds := [] } }

/-- A counter written 0 (R340). -/
def clearLive (s : State) (k : Nat) : State := { s with fb := { s.fb with live := AMap.put 0 k 0 s.fb.live } }

/-- A record copied. -/
def copyRec (s : State) (from_ to_ : Nat) : State :=
  [1, 2, 3, 4, 5, 6, 7, 8].foldl (fun t i => t.wr (recKey to_ i) (s.rd (recKey from_ i))) s

/-- A new bin at an instant. -/
def freshRec (s : State) (ix t : Nat) : State :=
  [2, 3, 4, 5, 6, 7, 8].foldl (fun u i => u.wr (recKey ix i) 0) (s.wr (recKey ix 1) (time80 t))

/-- A bin that did not run its whole interval is Suspect. -/
def suspectIf (s : State) (ix : Nat) (b : Bool) : State := if b then s.wr (recKey ix 8) 1 else s

/-- PM_BIN_ROLLOVER (R341) at a multiple of 900 s, or with `day` of 86,400 s, of PTP time. -/
def pmRollover (s : State) (k : Nat) (day : Bool) : State :=
  let len := if day then 86400 else 900
  let edge := s.tod / 1000000000 / len * len * 1000000000
  let cur := if day then pmCurDay k else pmCur15 k
  if time80 edge = s.rd (recKey cur 1) then s
  else
    let whole := ofTime80 (s.rd (recKey cur 1)) + len * 1000000000 = edge
    let s1 := suspectIf s cur (!decide whole)
    if day then freshRec (copyRec s1 cur (pmPrevDay k)) cur edge
    else
      let s2 := ((List.range 31).map (fun i => 30 - i)).foldl (fun t i => copyRec t (pmRecent k i) (pmRecent k (i + 1))) s1
      freshRec (copyRec s2 cur (pmRecent k 0)) cur edge

/-- The current bins of a privileged port become Suspect: a change of the trunk assignment, a step of PTP time by more than 1 s. -/
def pmSuspect (s : State) (k : Nat) : State := suspectIf (suspectIf s (pmCur15 k) true) (pmCurDay k) true

/-! ### The commands -/

/-- The main domain is up: ports and control cluster run. -/
def withFabric (s t : State) : Host.Outcome State Fault Refusal := .next (if s.running then t else s)

def execFabricFrameRx (p : Nat) (f : FabFrame) (good : Bool) (idle : Nat) (s : State) : Host.Outcome State Fault Refusal :=
  withFabric s (if p < 7 ∧ 2 ≤ (s.nq p).stage then fabricFrameRx s p f good idle else s)
def execFrameRelay (s : State) : Host.Outcome State Fault Refusal := withFabric s (frameRelay s)
def execCreditBlockRx (p : Nat) (counts : List Nat) (rdi : Bool) (s : State) : Host.Outcome State Fault Refusal :=
  withFabric s (if p < 7 ∧ (s.nq p).stage ≠ 0 then creditRx s p counts rdi else s)
def execCreditBlockTx (p : Nat) (s : State) : Host.Outcome State Fault Refusal :=
  withFabric s (if p < 7 then creditTx s p else s)
def execFabricFrameTx (p : Nat) (s : State) : Host.Outcome State Fault Refusal :=
  withFabric s (if p < 7 ∧ 2 ≤ (s.nq p).stage then frameTx s p else s)
def execAckRx (s : State) : Host.Outcome State Fault Refusal := withFabric s (ackRx s)
def execCtrlRetransmitExpiry (s : State) : Host.Outcome State Fault Refusal := withFabric s (ctrlRetransmit s)
def execHelloTx (p : Nat) (s : State) : Host.Outcome State Fault Refusal := withFabric s (if p < 6 then helloTx s p else s)
def execHelloRx (s : State) : Host.Outcome State Fault Refusal := withFabric s (helloRx s)
def execDeadIntervalExpiry (p : Nat) (s : State) : Host.Outcome State Fault Refusal :=
  withFabric s (if p < 6 then deadInterval s p else s)
def execLsaRefresh (s : State) : Host.Outcome State Fault Refusal := withFabric s (lsaRefresh s)
def execLsaRx (s : State) : Host.Outcome State Fault Refusal := withFabric s (lsaRx s)
def execLsackRx (s : State) : Host.Outcome State Fault Refusal := withFabric s (lsackRx s)
def execLsaExpiry (s : State) : Host.Outcome State Fault Refusal := withFabric s (lsaExpiry s)
def execSpfRun (s : State) : Host.Outcome State Fault Refusal := withFabric s (spfRun s)
def execLaneDefectChange (e : PhyEvent) (s : State) : Host.Outcome State Fault Refusal := withFabric s (phyEvent s e)
def execDefectHoldExpiry (p : Nat) (s : State) : Host.Outcome State Fault Refusal :=
  withFabric s (if p < 7 ∧ (s.nq p).stage ≠ 0 then defectHold s p else s)
def execJoinRx (s : State) : Host.Outcome State Fault Refusal := withFabric s (joinRx s)
def execJoinReplyRx (s : State) : Host.Outcome State Fault Refusal := withFabric s (joinReplyRx s)
def execJoinRetryExpiry (c : Nat) (s : State) : Host.Outcome State Fault Refusal := withFabric s (joinRetry s c)
def execLeaveRx (s : State) : Host.Outcome State Fault Refusal := withFabric s (leaveRx s)
def execRemotePartialTimeout (c fdev : Nat) (s : State) : Host.Outcome State Fault Refusal := withFabric s (partialTimeout s c fdev)
def execSubscribeRx (s : State) : Host.Outcome State Fault Refusal := withFabric s (subscribeRx s)
def execMediaRx (s : State) : Host.Outcome State Fault Refusal := withFabric s (mediaRx s)
def execPmBinRollover (p : Nat) (day : Bool) (s : State) : Host.Outcome State Fault Refusal :=
  withFabric s (if p < 3 then pmRollover s p day else s)

end Sys2Proof.Machine
end

