-- ==== Sys2Proof/Machine/Time.lean ====
section
/-! DEFINITION. The time unit (spec/16, R448): time of day and its steps, the servo, PTP messages, PPS, pulses, held items. -/

namespace Sys2Proof.Machine

/-! ### The clock (R365, R373, R374) -/

/-- Parts in a nanosecond that the rate is kept in (FreqAdj, Table 16.4). -/
def pico : Int := 1000000000000

/-- What a nanosecond of the oscillator adds to the fraction: FreqAdj, and a slew of at most MaxSlew (R373, R374), toward the twin
of at most 100 ppm as well (R362). -/
def slewStep (s : State) : Int :=
  let ppm := if s.rd Obj.servoState = 4 then min 100 (s.rd Obj.maxSlew) else s.rd Obj.maxSlew
  let m : Int := (ppm : Nat) * 1000000
  clip (-m) m s.tm.slew

/-- One nanosecond of the device's clocks: the monotonic clock, and in every season but MIDWINTER the time of day at the servo's
rate (R365, R372, R373). -/
def clockTick (s : State) : State :=
  let s1 := { s with mono := s.mono + 1 }
  if s.season = .midwinter then s1
  else
    let d := slewStep s
    let f := s.tm.frac + sgn 32 (s.rd Obj.freqAdj) + d
    let carry : Int := f / pico
    { s1 with
      tod := ((s.tod : Int) + 1 + carry).toNat
      tm := { s.tm with
        frac := f % pico
        slew := s.tm.slew - d } }

/-- Settings of a pulse in force for an edge at an instant. -/
def PulseRt.at_ (x : PulseRt) (e : Nat) : Option PulseSet :=
  (x.regimes.find? (fun r => decide (r.1 ≤ e))).map Prod.snd

/-- A pulse output that is OFF. -/
def PulseRt.idle : PulseRt := ⟨[], 0, 0, false⟩

def State.pulse (s : State) (n : Nat) : PulseRt := AMap.get PulseRt.idle n s.tm.pulses
def State.setPulse (s : State) (n : Nat) (x : PulseRt) : State :=
  { s with tm := { s.tm with pulses := AMap.put PulseRt.idle n x s.tm.pulses } }

/-- Edges of settings in the instants from `a` to before `b`: how many, and the first (R376). -/
def pulseEdges (q : PulseSet) (a b : Nat) : Nat × Nat :=
  if q.mode = 1 then (if a ≤ q.start ∧ q.start < b then (1, q.start) else (0, 0))
  else if q.mode = 2 ∧ 0 < q.period then
    let first := if a ≤ q.start then q.start else q.start + ceilDiv (a - q.start) q.period * q.period
    if first < b then ((b - 1 - first) / q.period + 1, first) else (0, 0)
  else (0, 0)

/-- Edges of a pulse in the instants from `a` to before `b`, each following the settings in force for it (R377): how many, and the
first. The settings stand newest first, so the last that has an edge has the first one. -/
def PulseRt.edges (x : PulseRt) (a b : Nat) : Nat × Nat :=
  (x.regimes.foldl (fun (acc : (Nat × Nat) × Nat) r =>
    let (n, e) := pulseEdges r.2 (max a r.1) acc.2
    ((acc.1.1 + n, if n = 0 then acc.1.2 else e), min acc.2 r.1)) ((0, 0), b)).1

/-- Pulse edges a forward step jumps over (R374): those after the time before it and before the time after it, which are never
emitted. -/
def skipEdges (s : State) (before after : Nat) (n : Nat) : State :=
  let x := s.pulse n
  let k := (x.edges (max (before + 1) x.last) after).1
  (if before < after ∧ x.last < after then s.setPulse n { x with last := after } else s).count (Obj.pulseSkipped n) k

/-- The first mix frame, and the first tick, at or after an instant. -/
def nextFrame (t : Nat) : Nat := ceilDiv t mixNs
def nextTick (t : Nat) : Nat :=
  let k := t * 3 / 50000000
  if t ≤ tickTime k then k else if t ≤ tickTime (k + 1) then k + 1 else k + 2

/-- A step of the time of day (R373, R374): boundaries jumped over are not run, and no numbered boundary runs twice; `first` is the
first step after FREERUN, which raises no event. -/
def timeStep (s : State) (d : Int) (first : Bool) : State :=
  let after := ((s.tod : Int) + d).toNat
  if after = s.tod then s
  else
    let s1 := (List.range 4).foldl (fun t n => skipEdges t s.tod after n) s
    let s2 := { s1 with
      tod := after
      le := { s1.le with frame := if s.tod < after then max s1.le.frame (nextFrame after) else s1.le.frame }
      cp := { s1.cp with tick := if s.tod < after then max s1.cp.tick (nextTick after) else s1.cp.tick }
      tm := { s1.tm with slew := 0, frac := 0 } }
    let s3 := s2.inc (Obj.timeCounter 1)
    let s4 := if 1000000000 < d.natAbs then (List.range 3).foldl pmSuspect s3 else s3
    if first then s4 else s4.event Ev.timeStep 0 0

/-! ### The servo (R372, Table 16.3) -/

/-- The servo's state. -/
def State.servo (s : State) : Nat := s.rd Obj.servoState
def State.setServo (s : State) (k : Nat) : State := s.wr Obj.servoState k

/-- LOCKED or ACQUIRING. -/
def State.steered (s : State) : Bool := decide (s.servo = 1) || decide (s.servo = 2)

/-- The servo enters HOLDOVER: the rate is held at the last FreqAdj and nothing more is slewed. -/
def toHoldover (s : State) (ev : Nat) : State :=
  let s1 := s.setServo 3
  ({ s1 with tm := { s1.tm with smallRun := 0, slew := 0 } }).event ev 0 0

/-- A rate the servo chooses: the manual states no control law. -/
def servoRate (s : State) : State :=
  let (v, s1) := s.free 32
  let m : Int := (s.rd Obj.maxSlew : Nat) * 1000000
  s1.wr Obj.freqAdj (uns 32 (clip (-m) m (sgn 32 v)))

/-- The correction of an offset as the servo enters ACQUIRING (R373). -/
def correct (s : State) (off : Int) (first : Bool) : State :=
  if first ∨ s.rd Obj.slewLimit < off.natAbs then timeStep s (-off) first
  else { s with tm := { s.tm with slew := -off * pico } }

/-- A measured offset, own time less the reference's (Table 16.3). -/
def measured (s : State) (off : Int) : State :=
  let s1 := s.wr Obj.tmOffset (uns 32 (clip (-2147483648) 2147483647 off))
  match s.servo with
  | 0 => let s2 := (correct s1 off true).setServo 1
         { s2 with tm := { s2.tm with smallRun := 0 } }
  | 3 => let s2 := (correct s1 off false).setServo 1
         { s2 with tm := { s2.tm with smallRun := 0 } }
  | 1 =>
    let n := if off.natAbs < 100 then s1.tm.smallRun + 1 else 0
    let s2 := servoRate { s1 with tm := { s1.tm with smallRun := n } }
    if 16 ≤ n then (s2.setServo 2).event Ev.timeLocked 0 0 else s2
  | 2 => servoRate s1
  | _ => s1

/-! ### PTP (R370 to R372) -/

/-- The clock takes part in PTP. -/
def State.ptpOn (s : State) : Bool :=
  decide (s.rd Obj.ptpEnable = 1) && decide (s.rd Obj.ptpSource = 0) && !decide (s.servo = 4)

/-- A message of the clock's own port and domain. -/
def ownMessage (s : State) (m : PtpMsg) : Bool :=
  s.ptpOn && decide (m.port = s.rd Obj.ptpPort) && decide (m.domain = s.rd Obj.ptpDomain)

/-- An announce interval: 8 per second. -/
def announceNs : Nat := 125000000

/-- A master that is qualified: 2 Announces within 4 intervals, and not silent for 3 (R372). -/
def qualified (now : Nat) (f : Foreign) : Bool :=
  decide (2 ≤ (f.heard.filter (fun t => decide (now ≤ t + 4 * announceNs))).length) &&
    f.heard.any (fun t => decide (now < t + 3 * announceNs))

/-- The master the BMCA selects: the qualified one that ranks best. -/
def bestMaster (s : State) : Option Foreign :=
  (s.tm.masters.filter (qualified s.mono)).foldl (fun b f =>
    match b with
    | none => some f
    | some x => if f.rank < x.rank then some f else b) none

/-- An Announce noted among the masters heard. -/
def noteAnnounce (ms : List Foreign) (id rank utc now : Nat) : List Foreign :=
  let old := ((ms.find? (fun f => decide (f.identity = id))).map Foreign.heard).getD []
  ms.filter (fun f => decide (f.identity ≠ id)) ++ [⟨id, rank, (now :: old).take 4, utc⟩]

/-- The master the BMCA now selects takes effect (Table 16.3). -/
def followMaster (s : State) : State :=
  match bestMaster s with
  | none => s
  | some b =>
    let s1 := (s.wr Obj.tmMaster b.identity).wr Obj.utcOffset b.utc
    if s.rd Obj.tmMaster = b.identity then { s1 with tm := { s1.tm with announceAt := (b.heard.headD s.mono) } }
    else
      let s2 := { s1 with tm := { s1.tm with announceAt := s.mono, syncAt := s.mono, pathDelay := 0, delayReq := none } }
      if s.steered then toHoldover s2 Ev.timeMasterChange else s2

/-- PTP_ANNOUNCE_RX (R371, R372); `rank` is the place the standard's comparison gives the master. -/
def ptpAnnounce (s : State) (m : PtpMsg) (rank utc : Nat) : State :=
  let s1 := relayPtp s m.port 0xB false
  if !ownMessage s m then s1
  else followMaster { s1 with tm := { s1.tm with masters := noteAnnounce s1.tm.masters m.identity rank utc s.mono } }

/-- The master is qualified and selected. -/
def fromMaster (s : State) (m : PtpMsg) : Bool := (bestMaster s).any (fun b => decide (b.identity = m.identity))

/-- Receive time of a frame on an Ethernet port: the port's Asymmetry is added (R367). -/
def rxTime (s : State) (port : Nat) : Int := (s.tod : Int) + sgn 32 (s.rd (Obj.asymmetry port))

/-- PTP_SYNC_RX (R370 to R373): `origin` is the precise origin time and `corr` the correction, of a two-step Sync with its
Follow_Up's, in nanoseconds. -/
def ptpSync (s : State) (m : PtpMsg) (origin : Nat) (corr : Int) (twoStep : Bool) : State :=
  let s1 := relayPtp s m.port 0 (!twoStep)
  let s2 := if twoStep then relayPtp s1 m.port 8 true else s1
  if !ownMessage s m then s2
  else
    let s3 := s2.inc (Obj.timeCounter 0)
    if !fromMaster s3 m then s3
    else
      let d := rxTime s m.port - (origin : Int) - corr
      measured { s3 with tm := { s3.tm with syncAt := s.mono, syncDiff := d } } (d - s3.tm.pathDelay)

/-- PTP_DELAY_RESP_RX (R370): the mean of both directions is the path delay; `received` is the master's receive time. -/
def ptpDelayResp (s : State) (m : PtpMsg) (received : Nat) (corr : Int) : State :=
  let s1 := relayPtp s m.port 9 false
  if !(ownMessage s m && fromMaster s m) then s1
  else match s1.tm.delayReq with
    | some (q, t3) =>
      if q = m.seq then
        { s1 with tm := { s1.tm with
          delayReq := none
          pathDelay := (s1.tm.syncDiff + ((received : Int) - (t3 : Int) - corr)) / 2 } }
      else s1
    | none => s1

/-- The destination address MacDest selects (Table 16.2). -/
def ptpDest (s : State) : Nat := if s.rd Obj.ptpMacDest = 1 then 0x0180C200000E else 0x011B19000000

/-- PTP_DELAY_REQ_TX (R370): 16 per second, to a selected master, one-step. -/
def ptpDelayReq (s : State) : State :=
  if s.ptpOn ∧ s.ethOut ∧ (bestMaster s).isSome ∧ (s.tm.delayReq.isNone ∧ s.tm.delayAt = 0 ∨ s.tm.delayAt + 62500000 ≤ s.mono) then
    let q := s.tm.delaySeq
    ({ s with tm := { s.tm with delayReq := some (q, s.tod), delayAt := s.mono, delaySeq := (q + 1) % 65536 } }).emit
      (.ptpDelayReq (s.rd Obj.ptpPort) (ptpDest s) (s.rd Obj.ptpDomain) q s.epochTag)
  else s

/-- ANNOUNCE_TIMEOUT (R372): 375 ms without an Announce, or 1 s without a Sync, from the master. -/
def announceTimeout (s : State) : State :=
  if s.steered ∧ s.rd Obj.ptpSource = 0 ∧
      (s.tm.announceAt + 3 * announceNs ≤ s.mono ∨ s.tm.syncAt + 1000000000 ≤ s.mono) then
    toHoldover s Ev.timeHoldover
  else s

/-- A write of Port, Domain or Source that changed it (R378). -/
def ptpChanged (s : State) : State :=
  let s1 := { s with tm := { s.tm with masters := [], delayReq := none, ppsAt := s.mono } }
  if s1.steered then toHoldover s1 Ev.timeHoldover else s1

/-- Role became STANDBY or COLD (Table 16.3). -/
def servoTwin (s : State) : State :=
  let s1 := s.setServo 4
  { s1 with tm := { s1.tm with smallRun := 0, slew := 0 } }

/-- Role became ACTIVE or SOLO (Table 16.3): the rate of the TW steering is held. -/
def servoLeavesTwin (s : State) : State := if s.servo = 4 then toHoldover s Ev.timeHoldover else s

/-- The reference over TW (R362, R373): an offset above 100 µs is stepped, any other slewed at up to 100 ppm. -/
def twinSteer (s : State) (off : Int) : State :=
  let s1 := s.wr Obj.tmOffset (uns 32 (clip (-2147483648) 2147483647 off))
  if 100000 < off.natAbs then timeStep s1 (-off) false
  else { s1 with tm := { s1.tm with slew := -off * pico } }

/-! ### Timestamp records, PPS and pulses (R367 to R369, R376, R377) -/

/-- A timestamp record of a source for the timestamp ring (Table 16.1), of an edge at an instant of TimeOfDay. -/
def stampRecord (s : State) (source at_ : Nat) : State :=
  let n := AMap.get 0 source s.tm.seqs
  let s1 := { s with tm := { s.tm with seqs := AMap.put 0 source ((n + 1) % 65536) s.tm.seqs } }
  let ring := s.rd Obj.timestampRing
  if 2048 ≤ ring then s1 else s1.stampPost ⟨ring, 16, .stamp ⟨source, n, at_ % 2 ^ 32⟩, s.mono, none⟩

/-- The second an edge of PPS_IN marks (R377): the one HostTod gave, advanced by 1 at each edge. Out of FREERUN Table 16.3 asks for no
HostTod: without one it is the second nearest to TimeOfDay. -/
def ppsSecond (s : State) : Option Nat :=
  if s.tm.hostSec ≠ 0 then some (s.tm.hostSec - 1)
  else if s.servo = 0 then none
  else some ((s.tod + 500000000) / 1000000000)

/-- PPS_EDGE (R369, R377): always captured; with Source PPS it steers the servo. -/
def ppsEdge (s : State) : State :=
  let s1 := (stampRecord s 0 s.tod).inc (Obj.timeCounter 5)
  let s2 := { s1 with tm := { s1.tm with ppsAt := s.mono } }
  if s2.rd Obj.ptpSource = 1 then
    match ppsSecond s2 with
    | some k =>
      measured { s2 with tm := { s2.tm with hostSec := if s2.tm.hostSec = 0 then 0 else s2.tm.hostSec + 1 } }
        ((s2.tod : Int) - (k * 1000000000 : Nat))
    | none => s2
  else s2

/-- PPS_MISSING_EXPIRY (R372). -/
def ppsMissing (s : State) : State :=
  if s.steered ∧ s.rd Obj.ptpSource = 1 ∧ s.tm.ppsAt + 1500000000 ≤ s.mono then toHoldover s Ev.timePpsMissing else s

/-- PULSE_EDGE (R374, R376): the first edge of TPn that is due and higher than the last one. -/
def pulseEdge (s : State) (n : Nat) : State :=
  let x := s.pulse n
  let (k, e) := x.edges x.last (s.tod + 1)
  if k = 0 then s
  else match x.at_ e with
    | none => s
    | some q =>
      let s1 := (s.setPulse n { x with last := e + 1, ends := e + q.width, low := decide (q.polarity = 1) }).inc (Obj.pulseEmitted n)
      let s2 := s1.emit (.pulse n e q.polarity q.width)
      if q.report = 1 then stampRecord s2 (n + 1) e else s2

/-- The settings of a pulse as its objects hold them. -/
def pulseSet (s : State) (n : Nat) : PulseSet :=
  ⟨s.rd (Obj.pulseMode n), ofTime80 (s.rd (Obj.pulseStart n)), s.rd (Obj.pulsePeriod n), s.rd (Obj.pulseWidth n),
    s.rd (Obj.pulsePolarity n), s.rd (Obj.pulseReport n)⟩

/-- Abort 0x0202_00C0 TIME_PAST (R379). -/
def timePast : Nat := 0x020200C0

/-- PULSE_WRITE (R377): the checks of the record as written, and its effect on edges at least 1 ms later. -/
def pulseWrite (s : State) (n : Nat) : Nat × State :=
  let q := pulseSet s n
  if q.mode = 1 ∧ q.start < s.tod + ms then (timePast, s)
  else if q.period < q.width + 8 then (Abort.inconsistent, s)
  else
    let x := s.pulse n
    let keep := x.regimes.takeWhile (fun r => decide (s.tod < r.1)) ++ (x.regimes.dropWhile (fun r => decide (s.tod < r.1))).take 1
    (0, s.setPulse n { x with regimes := (s.tod + ms, q) :: keep })

/-- HOST_TOD_WRITE (R365, R377). -/
def hostTodWrite (s : State) (v : Nat) : Nat × State :=
  if 999999999 < v % 0x100000000 then (Abort.aboveRange, s)
  else (0, { s with tm := { s.tm with hostSec := v / 0x100000000 + 1 } })

/-- TIMESTAMP_HOLD_EXPIRY (R368): items not written within 1 s of their event. -/
def holdExpiry (s : State) : State :=
  let late := s.tm.hold.filter (fun h => decide (h.at_ + 1000000000 ≤ s.mono))
  let s1 := { s with tm := { s.tm with hold := s.tm.hold.filter (fun h => decide (s.mono < h.at_ + 1000000000)) } }
  late.foldl (fun t h => t.stampDrop h) s1

/-- SYNC_IN_LOSS (R448): absent for 1 µs, or back; after 1 s of presence the unit returns to it. The rate error of the change shows
in FreqAdj. -/
def syncIn (s : State) (back : Bool) : State :=
  if s.rd Obj.syncIn ≠ 1 then s
  else if !back then
    if s.tm.syncLost then { s with tm := { s.tm with syncSince := none } }
    else servoRate { s with tm := { s.tm with syncLost := true, syncSince := none } }
  else if !s.tm.syncLost then s
  else match s.tm.syncSince with
    | none => { s with tm := { s.tm with syncSince := some s.mono } }
    | some t =>
      if t + 1000000000 ≤ s.mono then servoRate { s with tm := { s.tm with syncLost := false, syncSince := none } } else s

/-! ### The commands -/

def execPtpAnnounceRx (m : PtpMsg) (rank utc : Nat) (s : State) : Host.Outcome State Fault Refusal :=
  withFabric s (ptpAnnounce s m rank utc)
def execPtpSyncRx (m : PtpMsg) (origin : Nat) (corr : Int) (twoStep : Bool) (s : State) : Host.Outcome State Fault Refusal :=
  withFabric s (ptpSync s m origin corr twoStep)
def execPtpDelayRespRx (m : PtpMsg) (received : Nat) (corr : Int) (s : State) : Host.Outcome State Fault Refusal :=
  withFabric s (ptpDelayResp s m received corr)
def execPtpDelayReqTx (s : State) : Host.Outcome State Fault Refusal := withFabric s (ptpDelayReq s)
def execAnnounceTimeout (s : State) : Host.Outcome State Fault Refusal := withFabric s (announceTimeout s)

/-- The time unit is powered in every season but MIDWINTER (Table 17.1). -/
def withTime (s t : State) : Host.Outcome State Fault Refusal := .next (if s.season ≠ .midwinter then t else s)

def execPpsEdge (s : State) : Host.Outcome State Fault Refusal := withTime s (ppsEdge s)
def execPpsMissingExpiry (s : State) : Host.Outcome State Fault Refusal := withTime s (ppsMissing s)
def execPulseEdge (n : Nat) (s : State) : Host.Outcome State Fault Refusal := withTime s (if n < 4 then pulseEdge s n else s)
def execTimestampHoldExpiry (s : State) : Host.Outcome State Fault Refusal := withTime s (holdExpiry s)
def execSyncInLoss (back : Bool) (s : State) : Host.Outcome State Fault Refusal := withTime s (syncIn s back)

end Sys2Proof.Machine
end

