-- ==== Sys2Proof/Machine/Power.lean ====
section
/-! DEFINITION. The always-on domain (spec/17, spec/18 boot flow, spec/20): resets, power-up and boot, seasons, wake events and
thaws, throttling, clocks and lane signals. -/

namespace Sys2Proof.Machine

/-! ### Resets (R391, R425, R441 to R443) -/

/-- Objects the always-on domain holds: those marked AON in Table 17.4, the script version, AON_WAKE_CAUSE and the cause record. -/
def aonKey (k : Nat) : Bool :=
  let ix := k / 0x100000000
  let sub := k / 0x1000000 % 256
  (decide (ix = 0xD020) && decide (2 ≤ sub)) || (decide (ix = 0xD030) && decide (sub ≤ 2)) || decide (ix = 0xD041) ||
    (decide (ix = 0xD010) && decide (sub = 2)) || decide (ix = 0xE030)

/-- Everything outside the always-on domain reset: every other object at its default, engines, keys, memory and ports cleared. -/
def mainReset (s : State) : State :=
  { State.reset with
    pending := s.pending
    out := s.out
    mono := s.mono
    draws := s.draws
    dict := s.dict.filter (fun e => aonKey e.1)
    ev := { s.ev with
      running := []
      queued := []
      fatal := none }
    sec := { s.sec with
      debugEver := false
      reports := [] }
    pw := { State.reset.pw with
      boot := s.pw.boot
      straps := s.pw.straps
      wakeAt := s.pw.wakeAt
      seasonSince := s.mono
      mainPwrEn := s.pw.mainPwrEn
      pwrOk := s.pw.pwrOk
      perst := s.pw.perst
      sysRst := s.pw.sysRst
      refclk := s.pw.refclk
      xtal := s.pw.xtal
      shutdownAt := s.pw.shutdownAt
      lossAt := s.pw.lossAt
      scripts := s.pw.scripts
      fatalTimes := s.pw.fatalTimes
      resetCause := s.pw.resetCause
      ethLos := s.pw.ethLos }
    tw := { State.reset.tw with failReport := s.tw.failReport } }

/-- FATAL resets within the last 600 s of AON time. -/
def fatalCount (s : State) : Nat := min 3 (s.pw.fatalTimes.filter (fun t => decide (s.mono < t + 600000000000))).length

/-- The cause record (R425, Table 19.3) with the objects that show it; `nested` is the CODE of the handler the reset interrupted. -/
def recordCause (s : State) (kind code nested : Nat) : State :=
  let times := if kind = 3 then s.mono :: s.pw.fatalTimes else s.pw.fatalTimes
  let s1 := { s with pw := { s.pw with fatalTimes := times.take 8 } }
  let s2 := { s1 with pw := { s1.pw with resetCause := kind * 2 ^ 28 + fatalCount s1 * 2 ^ 16 + code } }
  (((s2.wr Obj.resetKind kind).wr Obj.resetCode code).wr Obj.resetNested nested).wr Obj.resetTime (time80 s.tod)

/-- The handler a FATAL event's reset interrupts: the one below the event's own. -/
def interrupted (s : State) : Nat := (((s.ev.running.filter (fun h => decide (h.severity < 4))).head?).map Handler.code).getD 0

/-! ### Boot flow (R399, R402, R403) -/

/-- A BOOT_NEED on mailbox 0 (Table 18.5). -/
def bootNeed (s : State) (cls abort : Nat) : State :=
  s.mailResponse 0 ⟨0xB0, 0, 0, 0, cls, maxBody cls / 2 ^ 24, maxBody cls % 2 ^ 24, abort, 0⟩

/-- The debug levels that are open without a token (Table 18.8). -/
def openLevels (s : State) : Nat := if s.lifecycle = 0 then 15 else 0

/-- The straps are agreed: the two last samples are equal (R460). -/
def strapsAgreed (s : State) : Bool :=
  match s.pw.straps with
  | a :: b :: _ => decide (a = b)
  | _ => false

/-- STRAP_TESTEN sampled high. -/
def testMode (s : State) : Bool := bit (s.pw.straps.headD 0) 2

/-- Steps 1 to 4 of the boot flow (Table 18.4, R399, R425): nothing without a clock or in test mode; `fuses` says that the two reads
of the fuse array agree within three pairs. Three FATAL resets within 600 s stop the boot ROM after step 4. -/
def bootFlow (s : State) (fuses : Bool) : State :=
  if ¬ (s.pw.pwrOk ∧ s.pw.refclk) ∨ testMode s then s
  else if !fuses then
    let s1 := recordCause (s.event Ev.fuseFault 0 0) 3 Ev.fuseFault 0
    { s1 with
      ev := { s1.ev with fatal := none, running := [] }
      pw := { s1.pw with boot := .haltedFuse } }
  else
    let (seed, s1) := s.random 64
    let s2 := ({ s1 with le := { s1.le with seed := seed } }).wr Obj.debugOpen (openLevels s1)
    if s2.pw.resetCause / 2 ^ 28 = 3 ∧ 3 ≤ fatalCount s2 then { s2 with pw := { s2.pw with boot := .haltedFatal } }
    else bootNeed { s2 with pw := { s2.pw with boot := .rom, wakeN := s2.pw.thawFrom.isNone } } 1 0

/-- The class the boot flow asks for. -/
def bootClass (s : State) : Nat := if s.pw.boot = .rom then 1 else 2

/-- BOOT_OFFER (R403): the offer in mailbox 0 is taken and its image, of the length its word 3 names, fetched from host memory; `i` is
what lies there. -/
def bootOffer (s : State) (i : Image) : State :=
  let m := s.h2d 0
  if (s.pw.boot = .rom ∨ s.pw.boot = .bootstrap) ∧ m.go ∧ ((m.msg.headD 0).toNat / 0x1000000 = 0xB1) ∧ s.pw.booting.isNone then
    (s.setH2d 0 { m with go := false }) |> fun t => { t with pw := { t.pw with booting := some ⟨i.octs.take (m.msg.getD 3 0).toNat⟩ } }
  else s

/-- Steps 7 and 8 of the boot flow, and the end of a thaw from MIDWINTER (R390, R402): AUTO_FROST, the versions shown, the device
in SPRING and READY, the watchdog restarted. The scripts embedded in the firmware are installed where the always-on memory holds
none. -/
def bootReady (s : State) (i : Image) : State :=
  let sc := s.pw.scripts.getD ⟨(List.range 128).map (fun n => Config.embeddedScripts i.version n % 256)⟩
  let s1 := { s with pw := { s.pw with scripts := some sc } }
  let s2 := ((s1.wr Obj.scriptVersion sc.version).wr Obj.firmwareVersion i.version).wr Obj.frost (bits s.sec.fuses.bootPolicy 10 6)
  let s3 := if s.pw.thawFrom.isSome then s2.wr Obj.lastThaw (min 0xFFFFFFFF ((s.mono - s.pw.wakeAt) / 1000)) else s2
  let s4 := { s3 with
    pw := { s3.pw with
      boot := .running
      firmware := some i
      booting := none
      thawFrom := none
      wakeN := true
      idleSince := s3.mono }
    ig := { s3.ig with
      wdAt := some s3.mono
      wdWarned := false } }
  (s4.wr Obj.straps (s.pw.straps.headD 0 % 4)).enterSeason .spring

/-- BOOT_IMAGE_VERIFIED (R401, R402): the fetched image passes, or is rejected and asked for again. The bootstrap waits for HBM. -/
def bootVerified (s : State) : State :=
  match s.pw.booting with
  | none => s
  | some i =>
    let c := bootClass s
    if c = 2 ∧ ¬ s.pw.hbmReady then s
    else
      let a := verifyImage s c i
      if a ≠ 0 then bootNeed ({ s with pw := { s.pw with booting := none } }.event Ev.bootImageRejected 0 0) c a
      else if c = 1 then bootNeed { s with pw := { s.pw with boot := .bootstrap, booting := none, bootstrapImage := some i } } 2 0
      else bootReady s i

/-! ### Demand and seasons (R382 to R385) -/

/-- A leg is media-active, or a context or set is enabled (Table 17.2). -/
def seasonBusy (s : State) : Bool :=
  s.le.legs.any (fun e => decide (e.2.stage = .active)) || decide (s.rd Obj.contextsEnabled ≠ 0) || !(enabledActx s).isEmpty ||
    !(enabledRctx s).isEmpty || !(enabledSets s).isEmpty

/-- Demand (R382, R383). -/
def hasDemand (s : State) : Bool :=
  seasonBusy s || !s.goingLegs.isEmpty || !s.disp.items.isEmpty || !s.cip.waiting.isEmpty || s.cip.cores.any (fun k => k.2.job.isSome) ||
    decide (s.rd Obj.target = 3) || s.paired || !s.pw.held.isEmpty

/-- SPRING entered: a Target of WINTER or MIDWINTER then starts the entry into WINTER (Table 17.2). -/
def enterSpring (s : State) : State :=
  let s1 := s.enterSeason .spring
  { s1 with pw := { s1.pw with
    rising := false
    winterEntry := decide (s1.rd Obj.target ≤ 1)
    scriptSince := s1.mono } }

/-- An enabled host-to-device ring holds items not yet fetched (R385). -/
def ringsHold (s : State) : Bool :=
  s.rings.any (fun e => e.2.enable && !e.2.dirD2h && decide ((s.q (ringQ e.1)).depth ≠ 0))

/-- The refusals of a Target write (R385). -/
def targetPre (s : State) (v : Nat) : Nat :=
  if v ≤ 1 ∧ (s.paired ∨ s.ctl.groups ≠ [] ∨ s.hif.xfers ≠ [] ∨ ringsHold s) then Abort.seasonBlocked else 0

/-- TARGET_WRITE (R382, Table 17.2), the value already written. -/
def targetWrite (s : State) (v : Nat) : State :=
  if v ≤ 1 then
    if (s.season = .summer ∨ s.season = .spring) ∧ seasonBusy s then
      let s1 := { s with pw := { s.pw with autumnFrom := s.season, autumnSince := s.mono, autumnForced := false } }
      s1.enterSeason .autumn
    else if s.season = .summer ∧ ¬ hasDemand s then enterSpring s
    else if s.season = .spring ∧ ¬ s.pw.rising then { s with pw := { s.pw with winterEntry := true, scriptSince := s.mono } }
    else s
  else
    let s1 := { s with pw := { s.pw with winterEntry := false } }
    let s2 := if s.season = .autumn then s1.enterSeason s.pw.autumnFrom else s1
    if v = 3 then s2.demand else s2

/-- SUMMER_HOLD_EXPIRY (R382, R383): after SummerHold without demand; with Target WINTER or MIDWINTER as soon as there is no demand. -/
def summerHold (s : State) : State :=
  let h := s.rd Obj.summerHold
  if s.season = .summer ∧ ¬ hasDemand s ∧ (s.rd Obj.target ≤ 1 ∨ h ≠ 0 ∧ s.pw.idleSince + h * ms ≤ s.mono) then enterSpring s else s

/-- AUTUMN_DRAINED (Table 17.2). -/
def autumnDrained (s : State) : State := if s.season = .autumn ∧ ¬ seasonBusy s then enterSpring s else s

/-! ### WINTER and MIDWINTER (R386 to R390, Table 18.12) -/

/-- OPERATOR and DTP sessions closed, with the groups of their channels, and every debug level closed. -/
def closeSessions (s : State) : State :=
  s.dropSessions.wr Obj.debugOpen 0

/-- Every key slot zeroised; the TwinKek slot too unless it is kept. -/
def zeroiseAll (s : State) (keep : Option Nat) : State :=
  let loaded := (s.dict.filter (fun e => decide (e.1 / 0x1000000 = Obj.kState 0 / 0x1000000) && decide (e.2 ≠ 0))).map
    (fun e => e.1 % 0x1000000)
  (loaded.filter (fun k => decide (some k ≠ keep))).foldl zeroise s

/-- The ports of the fabric and TW taken down, and brought up by their Enable and Mode (R386, R389). -/
def fabricDown (s : State) : State := (List.range 7).foldl portDown s
def fabricUp (s : State) : State :=
  let s1 := (List.range 6).foldl (fun t p => if t.rd (Obj.nqEnable p) = 1 then portUp t p else t) s
  if s1.paired then portUp s1 6 else s1

/-- WINTER_ENTRY (R386, R418). -/
def winterEntry (s : State) : State :=
  if s.season = .spring ∧ s.pw.winterEntry ∧ ¬ hasDemand s then
    let s1 := closeSessions s
    let s2 := if s.lifecycle = 0 ∨ s.lifecycle = 3 then zeroiseAll s1 none else s1
    let s3 := (fabricDown s2).enterSeason .winter
    { s3 with
      pw := { s3.pw with winterEntry := false }
      ig := { s3.ig with wdAt := none } }
  else s

/-- PME_TURN_OFF (R387): answered with PME_TO_Ack; the link enters L2/L3 Ready. -/
def pmeTurnOff (s : State) : State :=
  if s.season = .winter then { s with pw := { s.pw with linkL2 := true } }.emit .pmeToAck else s

/-- The main domain powered off (R387, R394, R442): MAIN_PWR_EN low, only the always-on domain left. -/
def powerOff (s : State) : State :=
  let s1 := mainReset s
  let s2 := { s1 with pw := { s1.pw with boot := .waitPwrOk, mainPwrEn := false, straps := [], thawFrom := none } }
  if s.season = .midwinter then s2 else ({ s2 with season := s.season }).enterSeason .midwinter

/-- MIDWINTER_ENTRY (R387). -/
def midwinterEntry (s : State) : State :=
  if s.season = .winter ∧ s.pw.linkL2 ∧ s.rd Obj.target = 0 ∧ s.pw.thawFrom.isNone then powerOff s else s

/-- WAKE_EVENT (R388, Table 17.3) by its bit; an ALARM once WakeAfter seconds of the AON clock have passed since the entry, an
NQ_SIGNAL from an enabled port. -/
def wakeEvent (s : State) (b p : Nat) : State :=
  match b with
  | 0 => s.wake .mailbox
  | 1 => s.wake .doorbell
  | 2 => s.wake .dtp
  | 3 => s.wake .hbRx
  | 4 => if s.rd Obj.wakeAfter ≠ 0 ∧ s.pw.seasonSince + s.rd Obj.wakeAfter * 1000000000 ≤ s.mono then s.wake .alarm else s
  | 5 => if p < 6 ∧ s.rd (Obj.nqEnable p) = 1 then s.wake .nqSignal else s
  | 6 => s.wake .hostPerst
  | _ => s

/-- The end of a thaw from WINTER (R389): SPRING, ports brought up, doorbells latched in WINTER taken. -/
def thawComplete (s : State) : State :=
  if s.season = .winter ∧ s.pw.thawFrom = some .winter then
    let s1 := s.wr Obj.lastThaw (min 0xFFFFFFFF ((s.mono - s.pw.wakeAt) / 1000))
    let s2 := { s1 with
      pw := { s1.pw with
        thawFrom := none
        linkL2 := false
        idleSince := s1.mono }
      ig := { s1.ig with
        wdAt := some s1.mono
        wdWarned := false } }
    doorbellsThaw (fabricUp ((s2.wr Obj.debugOpen (openLevels s2)).enterSeason .spring))
  else s

/-! ### Reset pins and power (R391, R441 to R443, R448, R460) -/

/-- PERST_N acts on the PCIe controller only: MIDWINTER, and a thaw from it until READY (R391). -/
def perstPcieOnly (s : State) : Bool :=
  decide (s.season = .midwinter) && !(decide (s.pw.boot = .heldReset) || decide (s.pw.boot = .haltedFatal) || decide (s.pw.boot = .haltedFuse))

/-- PERST_ASSERT (R391, R425). -/
def perstAssert (s : State) : State :=
  if s.pw.boot = .unpowered then s
  else if perstPcieOnly s then { s with hif := State.reset.hif, rings := [], pw := { s.pw with perst := true } }
  else
    let s1 := recordCause (mainReset s) 1 0 0
    { s1 with pw := { s1.pw with boot := .heldReset, perst := true } }

/-- PERST_RELEASE (R388, R391). -/
def perstRelease (s : State) (fuses : Bool) : State :=
  let s1 := { s with pw := { s.pw with perst := false } }
  if s.pw.boot = .heldReset then bootFlow s1 fuses
  else if s.parked then s1.wake .hostPerst
  else s1

/-- SYS_RESET (R391, R443): the whole device; the cause record and the log survive. -/
def sysReset (s : State) : State :=
  if s.pw.boot = .unpowered then s
  else
    let s1 := mainReset s
    let s2 := { s1 with
      dict := []
      ev := { s1.ev with
        nextSeq := 0
        rate := [] }
      sec := { s1.sec with
        block := none
        leaf := 0 }
      pw := { s1.pw with
        boot := .waitPwrOk
        mainPwrEn := true
        pwrOk := false
        straps := []
        scripts := none
        fatalTimes := []
        shutdownAt := none
        lossAt := none }
      tw := State.reset.tw }
    recordCause s2 2 0 0

/-- A reset as SYS_RST_N would make, apart from the always-on domain (R395, R405). -/
def likeSysReset (s : State) (kind : Nat) : State :=
  let s1 := recordCause (mainReset s) kind 0 0
  { s1 with pw := { s1.pw with boot := .waitPwrOk, mainPwrEn := true, pwrOk := false, straps := [] } }

/-- AON_POWER_LOSS (R441): the event log, cause record, attestation block and AON objects are lost. -/
def aonLoss (s : State) : State :=
  { State.reset with
    pending := s.pending
    out := s.out
    mono := s.mono
    draws := s.draws
    sec := { s.sec with
      block := none
      leaf := 0
      debugEver := false
      reports := [] }
    pw := { State.reset.pw with
      boot := .unpowered
      mainPwrEn := false
      refclk := s.pw.refclk
      xtal := s.pw.xtal } }

/-- AON_POWER_ON (R441, Table 20.4): the sequencer starts and raises MAIN_PWR_EN. -/
def aonPowerOn (s : State) : State :=
  if s.pw.boot = .unpowered then
    let s1 := recordCause s 0 0 0
    { s1 with pw := { s1.pw with boot := .waitPwrOk, mainPwrEn := true, seasonSince := s1.mono } }
  else s

/-- PWR_OK_RISE (R460): the straps are sampled, MG0_SEL bit 0, PCIE_SRIS bit 1, TESTEN bit 2. -/
def pwrOkRise (s : State) (sample : Nat) : State :=
  if s.pw.boot = .waitPwrOk ∧ s.pw.mainPwrEn then
    { s with pw := { s.pw with boot := .straps, pwrOk := true, straps := [sample % 8] } }
  else s

/-- STRAP_RESAMPLE (R460): until two samples in a row agree; then step 1 of the boot flow. -/
def strapResample (s : State) (sample : Nat) (fuses : Bool) : State :=
  if s.pw.boot = .straps ∧ ¬ strapsAgreed s then
    let s1 := { s with pw := { s.pw with straps := (sample % 8) :: s.pw.straps } }
    if strapsAgreed s1 then bootFlow s1 fuses else s1
  else s

/-- An unplanned loss of the main rails (R442). -/
def powerLost (s : State) : State :=
  let fail := s.paired
  let s1 := recordCause (mainReset s) 0 0 0
  let s2 := s1.wr Obj.wakeCause 0
  { s2 with
    pw := { s2.pw with
      boot := .waitPwrOk
      mainPwrEn := false
      pwrOk := false
      straps := []
      thawFrom := none
      lossAt := some s.mono }
    tw := { s2.tw with failReport := fail || s2.tw.failReport } }

/-- PWR_OK_FALL (R442). -/
def pwrOkFall (s : State) : State :=
  if !s.pw.pwrOk then s
  else if s.pw.mainPwrEn then powerLost s
  else { s with pw := { s.pw with pwrOk := false } }

/-- POWER_LOSS_RESTART (R442): 100 ms after PWR_OK fell. -/
def powerRestart (s : State) : State :=
  match s.pw.lossAt with
  | some t => if t + 100 * ms ≤ s.mono ∧ s.pw.boot = .waitPwrOk then
      { s with pw := { s.pw with lossAt := none, mainPwrEn := true } } else s
  | none => s

/-- REFCLK_LOSS (R448): handled as a fall of PWR_OK; the boot that follows holds at step 1. -/
def refclkLoss (s : State) : State :=
  let s1 := { s with pw := { s.pw with refclk := false } }
  if s.pw.pwrOk ∧ s.pw.mainPwrEn then powerLost s1 else s1

/-- REFCLK_RETURN (R448). -/
def refclkReturn (s : State) (fuses : Bool) : State :=
  let s1 := { s with pw := { s.pw with refclk := true } }
  if s1.pw.boot = .straps ∧ strapsAgreed s1 then bootFlow s1 fuses else s1

/-- FATAL_RESET (R318, R357, R423, R425): fence and a failure report if paired, the cause record, reset, and the boot flow. -/
def fatalReset (s : State) (fuses : Bool) : State :=
  match s.ev.fatal with
  | none => s
  | some code =>
    let s1 := fence s
    let s2 := if s1.paired then { s1 with tw := { s1.tw with failReport := true } } else s1
    let n := interrupted s
    let s3 := recordCause (mainReset s2) 3 code n
    bootFlow { s3 with pw := { s3.pw with boot := .straps } } fuses

/-! ### Throttling (R393, R394) -/

/-- Whole milliseconds at a level above 0 that ThrottleMs has not counted yet. -/
def throttleDue (s : State) : Nat := (s.mono - s.pw.throttleAt) / ms

/-- They are counted, and CLK_DSP is taken up to now at the level in force. -/
def throttleTime (s : State) : State :=
  let t := s.dspRebase
  if s.rd Obj.throttleLevel = 0 then { t with pw := { t.pw with throttleAt := s.mono } }
  else
    let u := t.count Obj.throttleMs (throttleDue s)
    { u with pw := { u.pw with throttleAt := s.pw.throttleAt + throttleDue s * ms } }

/-- THERMAL_SHUTDOWN (R394): recorded, fenced when paired, MAIN_PWR_EN low, MIDWINTER. -/
def thermalShutdown (s : State) : State :=
  let s1 := fence (s.event Ev.thermalShutdown 0 0)
  let s2 := if s1.paired then { s1 with tw := { s1.tw with failReport := true } } else s1
  let n := interrupted s
  let s3 := powerOff s2
  recordCause { s3 with pw := { s3.pw with shutdownAt := some s.mono } } 3 Ev.thermalShutdown n

/-- JUNCTION_SAMPLE (R393, R394): the highest of the eight sensors. -/
def junctionSample (s : State) (t : Int) : State :=
  let s1 := (throttleTime s).wr Obj.junction (uns 16 t)
  if 120 ≤ t then thermalShutdown s1
  else
    let hot := decide (s1.rdI16 Obj.throttleStart ≤ t) || decide (100 ≤ s1.stackTemp 0) || decide (100 ≤ s1.stackTemp 1)
    let cool := decide (t < s1.rdI16 Obj.throttleStop) && decide (s1.stackTemp 0 < 98) && decide (s1.stackTemp 1 < 98)
    { s1 with pw := { s1.pw with
      hotSince := if hot then some (s1.pw.hotSince.getD s1.mono) else none
      coolSince := if cool then some (s1.pw.coolSince.getD s1.mono) else none } }

/-- THROTTLE_STEP (R393): up after 1 ms hot, down after 10 ms cool. -/
def throttleStep (s : State) (up : Bool) : State :=
  let l := s.rd Obj.throttleLevel
  if up then
    match s.pw.hotSince with
    | some t =>
      if t + ms ≤ s.mono ∧ l < 12 then
        let s1 := (throttleTime s).wr Obj.throttleLevel (l + 1)
        let s2 := { s1 with pw := { s1.pw with hotSince := some (t + ms) } }
        if l = 0 then s2.event Ev.thermalThrottle 0 0 else s2
      else s
    | none => s
  else
    match s.pw.coolSince with
    | some t =>
      if t + 10 * ms ≤ s.mono ∧ 0 < l then
        let s1 := (throttleTime s).wr Obj.throttleLevel (l - 1)
        let s2 := { s1 with pw := { s1.pw with coolSince := some (t + 10 * ms) } }
        if l = 1 then s2.event Ev.thermalNormal 0 0 else s2
      else s
    | none => s

/-- THERMAL_HOLD_EXPIRY (R394): after 10 s wake events act again. -/
def thermalHold (s : State) : State :=
  match s.pw.shutdownAt with
  | some t => if t + 10000000000 ≤ s.mono then { s with pw := { s.pw with shutdownAt := none } } else s
  | none => s

/-- ThrottleStop at least 2 °C below ThrottleStart (R396). -/
def powerRelations (s : State) (ix : Nat) : Nat :=
  if ix = 0xD030 ∧ s.rdI16 Obj.throttleStart < s.rdI16 Obj.throttleStop + 2 then Abort.inconsistent else 0

/-! ### Scripts (R395) -/

/-- SEASON_SCRIPTS_WRITE (R395, R401). -/
def scriptsWrite (s : State) (i : Image) : Nat × State :=
  let a := verifyImage s 3 i
  if a ≠ 0 then (a, s) else (0, ({ s with pw := { s.pw with scripts := some i } }).wr Obj.scriptVersion i.version)

/-- The running script is past twice the maximum time of its transition. -/
def scriptLate (s : State) (max : Nat) : Bool := decide (s.pw.scriptSince + 2 * max < s.mono)

/-- SCRIPT_TIMEOUT (R395): a script that has run for more than twice its transition's maximum is abandoned; after a thaw script the
device resets. -/
def scriptTimeout (s : State) : State :=
  let fail := fun (t : State) => t.event Ev.seasonScriptFail 0 0
  if s.pw.rising ∧ scriptLate s (5 * ms) then fail { s with pw := { s.pw with rising := false } }
  else if s.pw.winterEntry ∧ scriptLate s (3 * ms) then fail { s with pw := { s.pw with winterEntry := false } }
  else if s.pw.thawFrom = some .winter ∧ scriptLate s (2 * ms) then likeSysReset (fail s) 5
  else if s.pw.thawFrom = some .midwinter ∧ scriptLate s (450 * ms) then likeSysReset (fail s) 5
  else s

/-! ### Lanes (R449, R450) -/

/-- LANE_SIGNAL_CHANGE (R450): lanes 0 to 25 as the fabric numbers them, 26 to 33 those of ETH0 and ETH1. In WINTER a signal on lane
0 of an enabled NQ port wakes the device. -/
def laneSignal (s : State) (l : Nat) (above : Bool) : State :=
  if 26 ≤ l ∧ l < 34 then { s with pw := { s.pw with ethLos := putBit s.pw.ethLos (l - 26) (!above) } }
  else if l < 26 then
    if s.season = .winter then (if above ∧ l % 4 = 0 ∧ l < 24 then wakeEvent s 5 (l / 4) else s)
    else if s.running then phyEvent s (.signal l (!above))
    else s
  else s

/-- TRANSMITTER_PRESET_TIMEOUT (R449): 500 ms without training from the partner. -/
def presetTimeout (s : State) (p : Nat) : State :=
  if p < 2 ∧ s.running then { s with pw := { s.pw with ethPreset := setBit s.pw.ethPreset p } } else s

/-! ### The commands -/

def execSummerHoldExpiry (s : State) : Host.Outcome State Fault Refusal := .next (summerHold s)
def execAutumnDrained (s : State) : Host.Outcome State Fault Refusal := .next (autumnDrained s)
def execWinterEntry (s : State) : Host.Outcome State Fault Refusal := .next (winterEntry s)
def execPmeTurnOff (s : State) : Host.Outcome State Fault Refusal := .next (pmeTurnOff s)
def execMidwinterEntry (s : State) : Host.Outcome State Fault Refusal := .next (midwinterEntry s)
def execWakeEvent (b p : Nat) (s : State) : Host.Outcome State Fault Refusal := .next (wakeEvent s b p)
def execPerstAssert (s : State) : Host.Outcome State Fault Refusal := .next (perstAssert s)
def execPerstRelease (fuses : Bool) (s : State) : Host.Outcome State Fault Refusal := .next (perstRelease s fuses)
def execSysReset (s : State) : Host.Outcome State Fault Refusal := .next (sysReset s)
def execJunctionSample (t : Int) (s : State) : Host.Outcome State Fault Refusal := .next (if s.running then junctionSample s t else s)
def execThrottleStep (up : Bool) (s : State) : Host.Outcome State Fault Refusal := .next (if s.running then throttleStep s up else s)
def execThermalHoldExpiry (s : State) : Host.Outcome State Fault Refusal := .next (thermalHold s)
def execScriptTimeout (s : State) : Host.Outcome State Fault Refusal := .next (scriptTimeout s)
def execBootOffer (i : Image) (s : State) : Host.Outcome State Fault Refusal := .next (bootOffer s i)
def execBootImageVerified (s : State) : Host.Outcome State Fault Refusal := .next (bootVerified s)
def execFatalReset (fuses : Bool) (s : State) : Host.Outcome State Fault Refusal := .next (fatalReset s fuses)
def execAonPowerOn (s : State) : Host.Outcome State Fault Refusal := .next (aonPowerOn s)
def execPwrOkRise (sample : Nat) (s : State) : Host.Outcome State Fault Refusal := .next (pwrOkRise s sample)
def execStrapResample (sample : Nat) (fuses : Bool) (s : State) : Host.Outcome State Fault Refusal :=
  .next (strapResample s sample fuses)
def execPwrOkFall (s : State) : Host.Outcome State Fault Refusal := .next (pwrOkFall s)
def execPowerLossRestart (s : State) : Host.Outcome State Fault Refusal := .next (powerRestart s)
def execRefclkLoss (s : State) : Host.Outcome State Fault Refusal := .next (refclkLoss s)
def execRefclkReturn (fuses : Bool) (s : State) : Host.Outcome State Fault Refusal := .next (refclkReturn s fuses)

/-- XTAL_LOSS (R448): the always-on domain runs from its internal oscillator; only its time base changes. -/
def execXtalLoss (s : State) : Host.Outcome State Fault Refusal := .next { s with pw := { s.pw with xtal := false } }
def execLaneSignalChange (l : Nat) (above : Bool) (s : State) : Host.Outcome State Fault Refusal := .next (laneSignal s l above)
def execTransmitterPresetTimeout (p : Nat) (s : State) : Host.Outcome State Fault Refusal := .next (presetTimeout s p)
def execAonPowerLoss (s : State) : Host.Outcome State Fault Refusal := .next (aonLoss s)

/-- TRAINING_COMPLETE (R314, R315): of one channel while the device runs, or (32) of all of them at reset or thaw. -/
def execTrainingComplete (ch : Nat) (t : TrainEnd) (s : State) : Host.Outcome State Fault Refusal :=
  .next (if ch < 32 then (if s.running then trainingEnd s ch t else s)
    else if ch = 32 ∧ (s.pw.boot = .rom ∨ s.pw.boot = .bootstrap) ∧ ¬ s.pw.hbmReady then trainingAll s t
    else s)

end Sys2Proof.Machine
end

