-- ==== Sys2Proof/Machine/Security.lean ====
section
/-! DEFINITION. Security state (spec/18): fuses, lifecycle, tokens and sessions, debug, frost bits, attestation. -/

namespace Sys2Proof.Machine

/-! ### Fuses and lifecycle (R398, R404 to R406, R412, R419) -/

/-- A write to the fuse array (R419): it completes once the blow has been read back, and fails with FUSE_FAIL where it does not. -/
def blow (s : State) (f : Fuses) : Nat × State :=
  if s.sec.blowFails then (Abort.fuseFail, s) else (0, { s with sec := { s.sec with fuses := f } })

/-- The minimum-version count a commit blows up to: thermometer fields only grow and hold 64 bits. -/
def raiseVersion (old version : Nat) : Nat := max old (min 64 (version / 0x1000000))

/-- MIN_VERSION_COMMIT (R404): 0 firmware, 1 scripts, 2 programs. -/
def minVersionCommit (s : State) (g : Nat) : Nat × State :=
  let f := s.sec.fuses
  match g with
  | 0 =>
    match s.pw.firmware with
    | none => (0, s)
    | some i =>
      if i.pyward ∧ bit (i.revoke % 16) i.slot then (Abort.inconsistent, s)
      else blow s { f with minFirmware := raiseVersion f.minFirmware i.version, rootRevoke := f.rootRevoke ||| (i.revoke % 16) }
  | 1 => blow s { f with minScripts := raiseVersion f.minScripts (s.rd Obj.scriptVersion) }
  | _ =>
    match loadedPrograms s with
    | [] => (0, s)
    | i :: r =>
      blow s { f with minPrograms := raiseVersion f.minPrograms (r.foldl (fun m x => min m (x.version / 0x1000000)) (i.version / 0x1000000) *
        0x1000000) }

/-- IDENTITY_GENERATE (R405): the seed is drawn from the TRNG and blown. -/
def identityGenerate (s : State) : Nat × State :=
  if s.lifecycle ≠ 0 then (Abort.lifecycle, s)
  else if s.sec.fuses.seed ≠ 0 then (Abort.alreadyFused, s)
  else
    let (r, s1) := s.random 256
    blow s1 { s1.sec.fuses with seed := r }

/-- The 256 ones a RETURN blows over the seed and the KEK. -/
def allOnes : Nat := 2 ^ 256 - 1

/-- The end of a lifecycle change that was blown: a RETURN zeroises, and the device resets (R405). -/
def advanced (v : Nat) (r : Nat × State) : Nat × State :=
  if r.1 = 0 then (0, likeSysReset ((if v = 3 then zeroiseAll r.2 none else r.2).event Ev.lifecycleChanged 0 0) 4) else r

/-- LIFECYCLE_ADVANCE (R405, Table 18.6); a change resets the device. -/
def lifecycleAdvance (s : State) (v : Nat) (operator : Bool) : Nat × State :=
  let f := s.sec.fuses
  let legal := (s.lifecycle = 0 ∧ v = 1) ∨ (s.lifecycle = 1 ∧ v = 2) ∨ ((s.lifecycle = 1 ∨ s.lifecycle = 2) ∧ v = 3)
  if ¬ legal then (Abort.badEnum, s)
  else if v ≠ 1 ∧ ¬ operator then (Abort.operatorOnly, s)
  else if v = 1 ∧ f.seed = 0 then (Abort.seedBlank, s)
  else if s.paired then (Abort.twinState, s)
  else
    let g := if v = 1 then { f with lifecycle := setBit f.lifecycle 0 }
      else if v = 2 then { f with lifecycle := setBit f.lifecycle 1 }
      else { f with lifecycle := setBit f.lifecycle 2, seed := allOnes, ownerKek := allOnes }
    advanced v (blow s g)

/-- OWNER_HASH_WRITE (R406): slot 0 or 1, once. -/
def ownerHashWrite (s : State) (slot v : Nat) : Nat × State :=
  if s.ownerHash slot ≠ 0 then (Abort.alreadyFused, s)
  else blow s (if slot = 0 then { s.sec.fuses with ownerHash0 := v } else if slot = 1 then { s.sec.fuses with ownerHash1 := v } else s.sec.fuses)

/-- OWNER_KEK_WRITE (R406): once, by HOST in FIELD. -/
def ownerKekWrite (s : State) (v : Nat) : Nat × State :=
  if s.lifecycle ≠ 1 then (Abort.lifecycle, s)
  else if s.sec.fuses.ownerKek ≠ 0 then (Abort.alreadyFused, s)
  else blow s { s.sec.fuses with ownerKek := v }

/-- OWNER_REVOKE_WRITE (R406). -/
def ownerRevokeWrite (s : State) (v : Nat) : Nat × State := blow s { s.sec.fuses with ownerRevoke := s.sec.fuses.ownerRevoke ||| (v % 4) }

/-- BOOT_POLICY_WRITE (Table 18.13): 1 blows. -/
def bootPolicyWrite (s : State) (v : Nat) : Nat × State :=
  blow s { s.sec.fuses with bootPolicy := s.sec.fuses.bootPolicy ||| (v % 2 ^ 16) }

/-- FROST_WRITE (R412): writing 1 sets a bit; FROST_OPLAYER only by OPERATOR. -/
def frostWrite (s : State) (v : Nat) (operator : Bool) : Nat × State :=
  if bit v 3 ∧ ¬ operator then (Abort.operatorOnly, s) else (0, s.wr Obj.frost (s.rd Obj.frost ||| v))

/-! ### Nonces and tokens (R407, R408) -/

/-- A fresh nonce handed out (R407): the eight most recent are held. -/
def newNonce (s : State) : Nat × State :=
  let (n, s1) := s.random 256
  (n, { s1 with ctl := { s1.ctl with nonces := ((n, s1.mono) :: s1.ctl.nonces).take 8 } })

/-- A nonce is outstanding for 60 s. -/
def nonceHeld (s : State) (n : Nat) : Bool := s.ctl.nonces.any (fun e => decide (e.1 = n) && decide (s.mono < e.2 + 60000000000))

/-- NONCE_EXPIRY (R407). -/
def nonceExpiry (s : State) : State :=
  { s with ctl := { s.ctl with nonces := s.ctl.nonces.filter (fun e => decide (s.mono < e.2 + 60000000000)) } }

/-- The token signature a channel holds. -/
def heldSig (s : State) (ch : Chan) : Option TokenSig := (s.ctl.tokenSigs.find? (fun e => decide (e.1 = ch))).map Prod.snd

/-- The channel's signature replaced or consumed. -/
def setSig (s : State) (ch : Chan) (g : Option TokenSig) : State :=
  { s with ctl := { s.ctl with
    tokenSigs := s.ctl.tokenSigs.filter (fun e => decide (e.1 ≠ ch)) ++ g.toList.map (fun x => (ch, x)) } }

/-- HALT, CONTROL or MEMORY is open. -/
def deepDebug (s : State) : Bool := decide (s.rd Obj.debugOpen / 2 % 8 ≠ 0)

/-- The little-endian number in `n` octets of a token body from octet `at_` (Table 18.7), and its fields. -/
def tokenField (t : Token) (at_ n : Nat) : Nat := ofOctets ((t.octs.drop at_).take n)
def tokenKind (t : Token) : Nat := tokenField t 4 1
def tokenPyward (t : Token) : Bool := bit (tokenField t 5 1) 7
def tokenSlot (t : Token) : Nat := tokenField t 5 1 % 4
def tokenGrant (t : Token) : Nat := tokenField t 6 2
def tokenNonce (t : Token) : Nat := tokenField t 16 32
def tokenWrap (t : Token) : List Nat := (t.octs.drop 48).take 40

/-- The session key a token carries, where its WRAPPED_KEY unwraps under OWNER_KEK (RFC 3394). -/
def sessionKey (s : State) (t : Token) : Option Nat :=
  (keyUnwrap (octets 32 s.sec.fuses.ownerKek) (tokenWrap t)).map ofOctets

/-- The first check of R408; `dtp` is the DTP session the token arrives on. -/
def tokenForm (s : State) (kind : Nat) (dtp : Option Nat) (sig : Option TokenSig) (t : Token) : Bool :=
  decide (tokenField t 0 4 = 0x534C544B) && decide (tokenKind t = kind) && (decide (kind ≠ 1) || decide (tokenGrant t = 0)) &&
    decide (tokenField t 5 1 / 4 % 32 = 0) && decide (tokenField t 92 36 = 0) && decide (tokenField t 8 8 = Config.serial % 2 ^ 64) &&
    sig.isSome &&
    (match dtp with
      | some n => decide (tokenField t 88 4 = n) && (if kind = 1 then (sessionKey s t).isSome else decide (tokenField t 48 40 = 0))
      | none => decide (tokenField t 88 4 = 0) && decide (tokenField t 48 40 = 0))

/-- The signer is allowed for the token's kind in the lifecycle state (R406, R408, R411, Table 18.8). -/
def tokenSigner (s : State) (kind : Nat) (t : Token) : Bool :=
  let owner := !tokenPyward t && s.ownerUsable (tokenSlot t)
  if kind = 1 then (decide (s.lifecycle = 1) || decide (s.lifecycle = 2)) && owner && !deepDebug s
  else match s.lifecycle with
    | 1 => decide (tokenGrant t ≤ 1) && owner
    | 2 => decide (tokenGrant t < 16) && owner
    | 3 => decide (tokenGrant t < 16) && tokenPyward t
    | _ => false

/-- The checks of R408 that come before the object's own limits: the abort code of the first that fails. -/
def tokenAbort (s : State) (kind : Nat) (dtp : Option Nat) (sig : Option TokenSig) (t : Token) : Nat :=
  if !tokenForm s kind dtp sig t then Abort.tokenInvalid
  else if !nonceHeld s (tokenNonce t) then Abort.tokenStale
  else if !tokenSigner s kind t then Abort.lifecycle
  else if !sig.any (fun g => signedBy s (tokenPyward t) (tokenSlot t) (g.octs.take 56) (g.octs.drop 56) t.octs) then Abort.tokenInvalid
  else 0

/-- The named nonce consumed (R407). -/
def consumeNonce (s : State) (n : Nat) : State :=
  { s with ctl := { s.ctl with nonces := s.ctl.nonces.filter (fun e => decide (e.1 ≠ n)) } }

/-- A refused token raises TOKEN_REJECTED (R408). -/
def tokenAnswer (s : State) (a : Nat) : Nat × State := if a = 0 then (0, s) else (a, s.event Ev.tokenRejected 0 0)

/-! ### OPERATOR sessions (R38, R408) -/

/-- The session bound to a channel. -/
def State.sessionOf (s : State) (ch : Chan) : Option OpSession := s.ctl.sessions.find? (fun x => decide (x.chan = ch))

/-- The principal of a channel's requests (R35). -/
def State.principal (s : State) (ch : Chan) : Principal :=
  match ch with
  | .peer _ => .peer
  | .fw => .firmware
  | _ => if (s.sessionOf ch).isSome then .operator else .host

/-- A DTP session is opened, or takes the key of a renewing token (R38, R409). -/
def dtpKey (s : State) (ch : Chan) (k : Nat) : State :=
  match ch with
  | .dtp n => { s with ctl := { s.ctl with dtp := s.ctl.dtp.map (fun (d : DtpSession) =>
      if d.id = n then { d with opened := true, key := k } else d) } }
  | _ => s

/-- OPERATOR_SESSION_OPEN (R38, R408): a token opens a session on its channel or renews the one it holds. -/
def sessionOpen (s : State) (ch : Chan) (t : Token) : Nat × State :=
  let dtp := match ch with
    | .dtp n => some n
    | _ => none
  let a := tokenAbort s 1 dtp (heldSig s ch) t
  let s1 := consumeNonce (setSig s ch none) (tokenNonce t)
  let k := (sessionKey s t).getD 0
  if a ≠ 0 then tokenAnswer s1 a
  else if (s1.sessionOf ch).isSome then (0, dtpKey s1 ch k)
  else if 4 ≤ s1.ctl.sessions.length then tokenAnswer s1 Abort.sessionsFull
  else
    let s2 := { s1 with ctl := { s1.ctl with
      sessions := s1.ctl.sessions ++ [⟨s1.ctl.nextSession, ch⟩]
      nextSession := s1.ctl.nextSession + 1 } }
    (0, (dtpKey s2 ch k).event Ev.operatorSession 0 0)

/-- OPERATOR_SESSION_CLOSE (R38): the channel's session closes and its groups are discarded. -/
def sessionClose (s : State) (ch : Chan) : State :=
  match s.sessionOf ch with
  | none => s
  | some x =>
    let s1 := s.dropGroups (fun g => decide (g.session = some x.id))
    { s1 with ctl := { s1.ctl with sessions := s1.ctl.sessions.filter (fun y => decide (y.id ≠ x.id)) } }

/-- A DTP session's end: its OPERATOR session, groups and held signature go with it. -/
def dtpEnd (s : State) (n : Nat) : State :=
  let s1 := (setSig (sessionClose s (.dtp n)) (.dtp n) none).dropGroups (fun g => decide (g.chan = .dtp n))
  { s1 with ctl := { s1.ctl with dtp := s1.ctl.dtp.filter (fun d => decide (d.id ≠ n)) } }

/-- A write of OperatorSession: a token of 128 octets, or 4 zero octets to close. -/
def operatorSessionWrite (s : State) (ch : Chan) (len : Nat) (d : Payload) : Nat × State :=
  match d with
  | .token t => if len = 128 ∧ t.octs.length = 128 then sessionOpen s ch t else (Abort.lengthMismatch, s)
  | .num v => if len = 4 then (if v = 0 then (0, sessionClose s ch) else (Abort.badValue, s)) else (Abort.lengthMismatch, s)
  | _ => (Abort.lengthMismatch, s)

/-- A write of TokenSignature (R408): the channel holds only its last. -/
def tokenSignatureWrite (s : State) (ch : Chan) (len : Nat) (g : TokenSig) : Nat × State :=
  if len = g.octs.length ∧ 2564 ≤ len ∧ len ≤ 2884 then (0, setSig s ch (some g)) else (Abort.lengthMismatch, s)

/-! ### Debug (R410, R411) -/

/-- Operations in flight are withheld and fail (R411). -/
def failInFlight (s : State) : State :=
  (List.range 8).foldl (fun t k =>
    match (t.cCore k).job with
    | some j => requestFails ((t.setCCore k { t.cCore k with job := none }).wr (Obj.kInFlight j.slot) 0) j.req.job
    | none => t) s

/-- Levels opened by a token (R410, R411); opening HALT, CONTROL or MEMORY first zeroises the key store and closes all sessions. -/
def openDebug (s : State) (grant : Nat) : State :=
  let s1 := if grant / 2 ≠ 0 then
      let t := (zeroiseAll (failInFlight s) none).dropSessions
      { t with sec := { t.sec with debugEver := true } }
    else s
  if grant = 0 then s1 else (s1.wr Obj.debugOpen (s1.rd Obj.debugOpen ||| grant)).event Ev.debugOpened 0 0

/-- The limits of DebugUnlock itself (R410, R411). -/
def debugLimits (s : State) (t : Token) : Nat :=
  if (s.lifecycle = 1 ∨ s.lifecycle = 2) ∧ s.bootPolicy 9 then Abort.debugDisabled
  else if tokenGrant t / 2 ≠ 0 ∧ s.paired then Abort.twinState
  else 0

/-- A DEBUG token presented with its signature: by a dictionary channel, or over the JTAG port. -/
def debugToken (s : State) (dtp : Option Nat) (sig : Option TokenSig) (t : Token) : Nat × State :=
  let a := tokenAbort s 2 dtp sig t
  let b := if a = 0 then debugLimits s t else a
  let s1 := consumeNonce s (tokenNonce t)
  if b = 0 then (0, openDebug s1 (tokenGrant t)) else tokenAnswer s1 b

/-- DEBUG_CLOSE (R410): every level closed; the watchdog runs again (R426). -/
def debugClose (s : State) : State :=
  let s1 := s.wr Obj.debugOpen 0
  if bit (s.rd Obj.debugOpen) 2 then { s1 with ig := { s1.ig with wdAt := some s1.mono, wdWarned := false } } else s1

/-- A write of DebugUnlock: a token, or 4 zero octets to close. -/
def debugUnlockWrite (s : State) (ch : Chan) (len : Nat) (d : Payload) : Nat × State :=
  match d with
  | .token t =>
    if len = 128 ∧ t.octs.length = 128 then
      let dtp := match ch with
        | .dtp n => some n
        | _ => none
      debugToken (setSig s ch none) dtp (heldSig s ch) t
    else (Abort.lengthMismatch, s)
  | .num v => if len = 4 then (if v = 0 then (0, debugClose s) else (Abort.badValue, s)) else (Abort.lengthMismatch, s)
  | _ => (Abort.lengthMismatch, s)

/-! ### Attestation (R415, R416) -/

/-- Leaves left (Table 18.13): 64 of every unblown block and the rest of the reserved one. -/
def leavesRemaining (s : State) : Nat :=
  (512 - s.sec.fuses.attestBlocks) * 64 + (match s.sec.block with
    | some _ => 64 - s.sec.leaf
    | none => 0)

/-- A leaf block reserved where none is, or the reserved one is used up (R415): the abort code and the state. -/
def reserveBlock (s : State) : Nat × State :=
  if s.sec.block.isSome ∧ s.sec.leaf < 64 then (0, s)
  else
    let b := s.sec.fuses.attestBlocks
    if 512 ≤ b then (Abort.attestExhausted, s.event Ev.attestExhausted 0 0)
    else if s.sec.blowFails then (Abort.fuseFail, s)
    else
      let s1 := { s with sec := { s.sec with
        fuses := { s.sec.fuses with attestBlocks := b + 1 }
        block := some b
        leaf := 0 } }
      (0, if 512 - (b + 1) < 32 then s1.event Ev.attestLow 0 0 else s1)

/-- ATTEST_REQUEST (R415, R416): one leaf of the reserved block, and a report held for the channel. -/
def attest (s : State) (ch : Chan) (nonce : Nat) : Nat × State :=
  if s.lifecycle = 0 ∨ s.lifecycle = 3 then (Abort.lifecycle, s)
  else match reserveBlock s with
    | (0, t) =>
      let q := (t.sec.block.getD 0) * 64 + t.sec.leaf
      let r : Report := ⟨ch, q, Config.serial % 2 ^ 64, nonce, t.lifecycle, t.rd Obj.frost,
        t.rd Obj.debugOpen + b2n t.sec.debugEver * 128, (t.pw.firmware.map Image.headerDigest).getD 0,
        ofOctets (sha256 ((loadedPrograms t).flatMap Image.header)), (t.pw.scripts.map Image.headerDigest).getD 0, configDigest t,
        time80 t.tod⟩
      (0, { t with sec := { t.sec with
        leaf := t.sec.leaf + 1
        reports := t.sec.reports.filter (fun x => decide (x.chan ≠ ch)) ++ [r] } })
    | (a, t) => (a, t)

/-- The 192 octets of a report (Table 18.10). -/
def Report.body (r : Report) : Nat :=
  0x534C4154 + r.leaf * 2 ^ 32 + r.serial * 2 ^ 64 + r.nonce % 2 ^ 256 * 2 ^ 128 + r.lifecycle * 2 ^ 384 + r.frost * 2 ^ 392 +
    r.debug * 2 ^ 400 + r.firmware % 2 ^ 256 * 2 ^ 416 + r.programs % 2 ^ 256 * 2 ^ 672 + r.scripts % 2 ^ 256 * 2 ^ 928 +
    r.config * 2 ^ 1184 + r.time * 2 ^ 1248

/-- The 2,860 octets of AttestReport (R416): the report and its signature; without a report the value is not stated. -/
def attestReport (s : State) (ch : Chan) : Nat × State :=
  match s.sec.reports.find? (fun x => decide (x.chan = ch)) with
  | some r => (r.body + ofOctets (identitySign s.sec.fuses.seed r.leaf (octets 192 r.body)) * 2 ^ 1536, s)
  | none => s.free (2860 * 8)

/-! ### The commands that are no dictionary requests -/

/-- NONCE_EXPIRY (R407). -/
def execNonceExpiry (s : State) : Host.Outcome State Fault Refusal := .next (if s.running then nonceExpiry s else s)

/-- JTAG_DBGCHAL (R410): a nonce shifted out. -/
def execJtagDbgchal (s : State) : Host.Outcome State Fault Refusal :=
  .next (if s.running then (newNonce s).2.emit (.jtagNonce (newNonce s).1) else s)

/-- JTAG_DBGAUTH (R410): signature and token shifted in; the frost bit FROST_DEBUG locks DebugUnlock, of which this is the other way in. -/
def execJtagDbgauth (g : TokenSig) (t : Token) (s : State) : Host.Outcome State Fault Refusal :=
  .next (if s.running then
      (if bit (s.rd Obj.frost) 2 then s.emit (.jtagResult Abort.frosted)
       else if t.octs.length ≠ 128 then s.emit (.jtagResult Abort.lengthMismatch)
       else (debugToken s none (some g) t).2.emit (.jtagResult (debugToken s none (some g) t).1))
    else s)

end Sys2Proof.Machine
end

