-- ==== Sys2Proof/Machine/Events.lean ====
section
/-! DEFINITION. Handlers, watchdog, host scans, image checks and the counter latch (spec/19). -/

namespace Sys2Proof.Machine

/-! ### Handlers (R424) -/

/-- The handler of highest severity, the earliest among equals. -/
def topHandler : List Handler → Option Handler
  | [] => none
  | h :: r =>
    match topHandler r with
    | some g => if h.severity < g.severity then some g else some h
    | none => some h

/-- The next handler once the running one has ended: a queued one of higher severity than every paused one starts, otherwise the
paused one goes on. The running handler heads `paused`. -/
def nextHandler (paused queued : List Handler) : List Handler × List Handler :=
  match topHandler queued with
  | none => (paused, queued)
  | some h => if (paused.head?.map Handler.severity).getD 0 < h.severity then (h :: paused, queued.erase h) else (paused, queued)

/-- HANDLER_RUN: the running handler ends and the next one runs. After a FATAL event no handler runs. -/
def handlerRun (s : State) : State :=
  if s.ev.fatal.isSome then s
  else
    let (r, q) := nextHandler s.ev.running.tail s.ev.queued
    { s with ev := { s.ev with running := r, queued := q } }

/-- LogEntry (R422): the oldest held record at or above LogSelect, none if there is none. -/
def logFound (s : State) : Option EventRec :=
  (s.ev.log.filter (fun r => decide (s.rd Obj.logSelect ≤ r.seq))).foldl (fun o r =>
    match o with
    | none => some r
    | some x => if r.seq < x.seq then some r else some x) none

/-- The 32 octets of a record (Table 19.1). -/
def EventRec.value (r : EventRec) : Nat :=
  r.seq + (if r.aonClock then r.time % 2 ^ 80 else time80 r.time) * 2 ^ 32 + r.code * 2 ^ 112 + r.severity * 2 ^ 128 +
    (b2n r.nested + 2 * b2n r.aonClock) * 2 ^ 136 + r.arg0 % 2 ^ 32 * 2 ^ 160 + r.arg1 % 2 ^ 32 * 2 ^ 192

/-! ### Watchdog (R426) -/

/-- The watchdog counter counts: the control cluster runs and the CONTROL level is closed. -/
def watchdogCounts (s : State) : Bool := s.running && !bit (s.rd Obj.debugOpen) 2 && s.ev.fatal.isNone

/-- WATCHDOG_KICK, and a write of WatchdogPeriod: the counter starts anew. -/
def watchdogKick (s : State) : State :=
  if s.ig.wdAt.isSome then { s with ig := { s.ig with wdAt := some s.mono, wdWarned := false } } else s

/-- The counter has reached `n` periods. -/
def watchdogAt (s : State) (n : Nat) : Bool :=
  match s.ig.wdAt with
  | some t => decide (t + n * s.rd Obj.watchdogPeriod * ms ≤ s.mono)
  | none => false

/-- WATCHDOG_WARN_EXPIRY. -/
def watchdogWarn (s : State) : State :=
  if watchdogAt s 1 ∧ ¬ s.ig.wdWarned then
    (({ s with ig := { s.ig with wdWarned := true } }).inc Obj.watchdogWarnings).event Ev.watchdogWarn 0 0
  else s

/-- WATCHDOG_RESET_EXPIRY. -/
def watchdogReset (s : State) : State :=
  if watchdogAt s 2 then ({ s with ig := { s.ig with wdAt := none } }).event Ev.watchdogReset 0 0 else s

/-! ### Host scans (R429, R430, R433) -/

/-- The range meets a page that holds an operator image. Where in partition 6 such pages lie is not stated. -/
def opPages (s : State) (lo len : Nat) : Bool × State :=
  let a := s.partBase 6
  let b := s.partBase 6 + s.partSize 6 * mib
  if s.cp.opImages.isEmpty ∨ lo + len ≤ a ∨ b ≤ lo then (false, s)
  else if lo ≤ a ∧ b ≤ lo + len then (true, s)
  else
    let (c, t) := s.choose 2
    (decide (c = 1), t)

/-- The parameters of the scan that ScanKind names. -/
def scanSpec (s : State) : CrcSpec :=
  match s.rd Obj.scanKind with
  | 0 => crc32c
  | 1 => crc32
  | 2 => crc16
  | 3 => crc8
  | _ => ⟨s.rd Obj.wideWidth, s.rd Obj.widePoly, s.rd (Obj.wideInitXor 0), bit (s.rd Obj.wideReflect) 0, bit (s.rd Obj.wideReflect) 1,
      s.rd (Obj.wideInitXor 1)⟩

/-- A wide parameter has a bit at or above WideWidth. -/
def scanWideBad (s : State) : Bool :=
  decide (s.rd Obj.scanKind = 4) &&
    [Obj.widePoly, Obj.wideInitXor 0, Obj.wideInitXor 1].any (fun k => decide (2 ^ s.rd Obj.wideWidth ≤ s.rd k))

/-- SCAN_GO: INCONSISTENT, RELATION or BUSY, else the scan starts. -/
def scanStart (s : State) : Nat × State :=
  let lo := s.rd Obj.scanStart
  let len := s.rd Obj.scanLength
  let outside := decide (s.rd Obj.scanMemory = 1) || decide (lo < s.partBase 4) ||
    decide (s.partBase 7 + s.partSize 7 * mib < lo + len) || decide (len = 0)
  let (page, s1) := opPages s lo len
  if scanWideBad s then (Abort.inconsistent, s)
  else if outside then (Abort.relation, s)
  else if page then (Abort.relation, s1)
  else if s.ig.scan.isSome then (Abort.busy, s)
  else
    let c := scanSpec s
    (0, ({ s1 with ig := { s1.ig with scan := some ⟨lo, len, c.width, c.poly, c.init, c.refIn, c.refOut, c.xorOut⟩ } }).wr Obj.scanState 1)

/-- The CRC register after `n` octets of HBM from an address. -/
def crcMem (s : State) (c : CrcSpec) : Nat → Nat → Nat → Nat
  | 0, _, r => r
  | n + 1, a, r => crcMem s c n (a + 1) (crcOctet c r (s.rdByte a).toNat)

/-- SCAN_DONE: Result becomes valid. -/
def scanDone (s : State) : State :=
  match s.ig.scan with
  | none => s
  | some x =>
    let c : CrcSpec := ⟨x.width, x.poly, x.init, x.refIn, x.refOut, x.xorOut⟩
    let r := crcMem s c x.length x.start (x.init % 2 ^ x.width)
    let v := (if x.refOut then revBits x.width r else r) ^^^ x.xorOut
    (({ s with ig := { s.ig with scan := none } }).wr Obj.scanState 2).wr Obj.scanResult v

/-! ### Image checks (R431) -/

/-- An image of a class and number lies in the DSP and firmware partition. -/
def imageHeld (s : State) (cls n : Nat) : Bool :=
  if cls = 2 then s.pw.firmware.isSome
  else (loadedPrograms s).any (fun i => decide (i.cls = cls) && decide (i.number = n))

/-- One image that fails its check. -/
def imageBad (s : State) (cls n : Nat) : State :=
  if !imageHeld s cls n then s
  else
    let s1 := s.inc Obj.imageChecksFailed
    if cls = 2 then s1.event Ev.firmwareCorrupt 0 0
    else
      let s2 := if cls = 0x10 then { s1 with ig := { s1.ig with corrupt := n :: s1.ig.corrupt.filter (fun x => decide (x ≠ n)) } } else s1
      s2.event Ev.imageCorrupt 0 0

/-- IMAGE_SCRUB_CHECK (R431): `bad` names the images (class, number) whose octets no longer match their CRC; 0 turns the checks
off. -/
def imageScrub (s : State) (bad : List (Nat × Nat)) : State :=
  let h := s.rd Obj.scrubPeriod
  if h ≠ 0 ∧ s.ig.scrubAt + h * 3600000000000 ≤ s.mono then
    bad.foldl (fun t b => imageBad t b.1 b.2) { s with ig := { s.ig with scrubAt := s.mono } }
  else s

/-! ### The counter latch (R172, R313, R340, R427) -/

/-- PageHits of a pseudo-channel: per mille of its accesses that found an open row. -/
def pageLatch (s : State) (p : Nat) : State :=
  let x := s.pc p
  (s.wr (Obj.pcPageHits p) (if x.accesses = 0 then 0 else x.hits * 1000 / x.accesses)).setPc p { x with accesses := 0, hits := 0 }

/-- ClassTraffic of a class in MB/s. -/
def trafficLatch (s : State) (c : Nat) : State := s.wr (Obj.classTraffic c) (min 0xFFFFFFFF (AMap.get 0 c s.mm.traffic / 1000000))

/-- CoreLoad (R172): per mille of the CLK_DSP cycles since the last latch in which core `c` ran an item. -/
def coreLoadOf (s : State) (c : Nat) : Nat :=
  let now := s.dspUnits
  let runs := match s.itemOn c with
    | some w => now - max w.started s.disp.latchUnits
    | none => 0
  (AMap.get 0 c s.disp.busy + runs) * 1000 / (now - s.disp.latchUnits)

/-- The core loads latched, and their count begun anew. -/
def coreLatch (s : State) : State :=
  let s1 := (List.range 128).foldl (fun t c => t.wr (Obj.coreLoad c) (coreLoadOf s c)) s
  { s1 with disp := { s1.disp with
    busy := []
    latchUnits := s.dspUnits } }

/-- UnitLoad of the adaptation unit: what its operations take is not stated, so the per mille is open. -/
def unitLatch (s : State) : State :=
  let (v, t) := s.free 32
  t.wr Obj.unitLoad (v % 1001)

/-- The dispatcher's, cores' and adaptation unit's part: powered only. -/
def mediaLatch (s : State) : State :=
  if s.powered then
    let s1 := s.disp.hist.foldl (fun t e => t.wr (Obj.waitHist ((e.1 - 1) / 16) ((e.1 - 1) % 16)) e.2) s
    unitLatch (coreLatch s1)
  else s

/-- COUNTER_LATCH. -/
def counterLatch (s : State) : State :=
  let s1 := (List.range 64).foldl pageLatch (fabricLatch s)
  let s2 := (List.range 4).foldl trafficLatch s1
  mediaLatch { s2 with mm := { s2.mm with traffic := [] } }

/-! ### The commands -/

def execHandlerRun (s : State) : Host.Outcome State Fault Refusal := .next (if s.running then handlerRun s else s)
def execWatchdogKick (s : State) : Host.Outcome State Fault Refusal := .next (if watchdogCounts s then watchdogKick s else s)
def execWatchdogWarnExpiry (s : State) : Host.Outcome State Fault Refusal := .next (if watchdogCounts s then watchdogWarn s else s)
def execWatchdogResetExpiry (s : State) : Host.Outcome State Fault Refusal := .next (if watchdogCounts s then watchdogReset s else s)
def execScanDone (s : State) : Host.Outcome State Fault Refusal := .next (if s.running then scanDone s else s)
def execImageScrubCheck (bad : List (Nat × Nat)) (s : State) : Host.Outcome State Fault Refusal :=
  .next (if s.running then imageScrub s bad else s)
def execCounterLatch (s : State) : Host.Outcome State Fault Refusal := .next (if s.running then counterLatch s else s)

end Sys2Proof.Machine
end

