-- ==== Sys2Proof/Machine/DictRead.lean ====
section
/-! DEFINITION. Reading the dictionary (R32 to R34, R37 to R43): the values of objects, computed ones included, the checks of a READ,
its answer, and DESCRIBE. -/

namespace Sys2Proof.Machine

/-! ### Values -/

/-- PartCode (R66): null-padded ASCII. -/
def partCodeValue : Nat := ofOctets [0x53, 0x4C, 0x39, 0x36, 0x34, 0x30, 0x2D, 0x41, 0x31, 0x2D, 0x46, 0x43]

/-- A queue's Kind (R98, Table 1.4). -/
def queueKind (s : State) (q : Nat) : Nat :=
  if q < 32768 then 1 else if q < 36864 then 0 else if q < 40960 then 1 else if q < 44032 then 0
  else if q < 46080 then b2n (s.ring (q - 44032)).modeOverwrite
  else b2n ((s.q q).allocated && decide ((s.q q).kind = .overwriteOldest))

/-- A queue is a cross-domain queue (R17). -/
def queueCross (q : Nat) : Bool := (decide (32768 ≤ q) && decide (q < 40960)) || (decide (41984 ≤ q) && decide (q < 46080))

/-- The fields of QueueState (Table 3.13); a queue of the general pool that is not allocated reads 0 (R98). -/
def queueField (s : State) (sub q : Nat) : Nat :=
  let x := if 46080 ≤ q ∧ !(s.q q).allocated then Queue.empty else s.q q
  match sub with
  | 1 => queueKind s q
  | 2 => b2n (queueCross q)
  | 3 => x.depth
  | 4 => x.lost
  | 5 => x.flushed
  | 6 => x.torn
  | 7 => x.wmLevel
  | 8 => b2n x.above + 2 * b2n x.crossed
  | 9 => x.wmCount
  | _ => 0

/-- The leg and entry bound to a decode context. -/
def dctxSource (s : State) (d : Nat) : Option (Nat × Nat) :=
  (s.dict.find? (fun x =>
    let ix := x.1 / 0x100000000
    decide (0x2110 ≤ ix) && decide (ix ≤ 0x2117) && decide (x.1 / 0x1000000 % 256 = 5) && decide (x.2 = d) &&
      decide (s.rd (Obj.rxKind (ix - 0x2110) (x.1 % 0x1000000)) = 2))).map (fun x => (x.1 % 0x1000000, x.1 / 0x100000000 - 0x2110))

/-- Words of program memory in use in each cluster (R194). -/
def programWords (s : State) : Nat :=
  ((tableImages s.mt.programs).map (fun i => i.codeWords + i.constWords)).sum + (s.mt.retiring.map (fun r => r.2.1)).sum

/-- MatenInfo of the selected program (Table 7.13). -/
def matenInfo (s : State) (sub : Nat) : Nat :=
  let n := s.rd Obj.matenSelect
  match s.program n with
  | none => 0
  | some i =>
    match sub with
    | 1 => i.version
    | 2 => i.codeWords
    | 3 => i.constWords
    | _ => if s.mt.retiring.any (fun r => decide (r.1 = n)) then 2 else 1

/-- MiB free in a partition (Table 13.8). -/
def partFree (s : State) (p : Nat) : Nat := (s.partSize p * mib - s.partUsed p) / mib

/-- The value of an object that is computed when read; none where the dictionary holds it. -/
def computed (s : State) (ix sub el : Nat) : Option Nat :=
  let f := s.sec.fuses
  match ix with
  | 0x1000 => if sub = 1 then some partCodeValue else if sub = 2 then some (Config.serial % 2 ^ 64) else none
  | 0x1010 => some (Config.dictionaryVersion ((s.pw.firmware.map Image.version).getD 0) % 2 ^ 32)
  | 0x1020 => some (configDigest s)
  | 0x1041 => some s.ctl.groups.length
  | 0x7400 => some (queueField s sub el)
  | 0x2200 => if sub = 1 then some (confStateRead s el)
      else if sub = 5 then some (s.members el).length
      else if sub = 6 then some ((s.members el).filter (fun l => decide ((s.leg l).stage = .active))).length
      else none
  | 0x3042 => if sub = 1 then some (tableImages s.mt.programs).length else some (131072 - programWords s)
  | 0x3044 => some (matenInfo s sub)
  | 0x4400 => match sub with
    | 1 => some (((dctxSource s el).map Prod.fst).getD 0xFFFFFFFF)
    | 2 => some (((dctxSource s el).map Prod.snd).getD 0xFFFFFFFF)
    | 9 => some ((s.q (32768 + el)).items.filter (fun i => !i.pad)).length
    | _ => none
  | 0x7200 | 0x7201 | 0x7202 | 0x7203 => if sub = 9 then some (currentCand s el (ix - 0x7200)) else none
  | 0x7300 => if sub = 0xB then some ((shaperNow s el).tc.tokens / tok) else if sub = 0xC then some ((shaperNow s el).tp.tokens / tok)
      else none
  | 0x7610 => if sub = 2 then some (s.rd Obj.twEpoch) else none
  | 0x8010 => if sub = 3 then some s.cip.waiting.length else none
  | 0x8300 => match sub with
    | 1 => some s.lifecycle
    | 3 => some (f.minFirmware * 0x10000 + f.minScripts * 0x100 + f.minPrograms)
    | 4 => some (Config.vid % 256)
    | 5 => some f.bootPolicy
    | _ => none
  | 0x8330 => if sub = 3 then some f.ownerRevoke else none
  | 0x8350 => some (ofOctets (identityPublic f.seed))
  | 0x8362 => some (if sub = 1 then f.attestBlocks else leavesRemaining s)
  | 0x9021 => some (s.partBase sub)
  | 0x9022 => some (partFree s sub)
  | 0xC010 => if sub = 1 then some (time80 s.tod) else none
  | 0xE010 => if sub = 1 then some (((s.ev.log.getLast?).map EventRec.seq).getD 0) else if sub = 2 then some s.ev.log.length else none
  | 0xE020 => if sub = 2 then some (((logFound s).map EventRec.value).getD 0) else none
  | _ => none

/-- The value a READ returns for one element, with what the read itself does: a Challenge is a fresh nonce. -/
def readOne (s : State) (ch : Chan) (ix sub el : Nat) : Nat × State :=
  if ix = 0x8400 then newNonce s
  else if ix = 0x8361 then attestReport s ch
  else match computed s ix sub el with
    | some v => (v, s)
    | none => (s.rd (key ix sub el), s)

/-! ### Attributes -/

/-- Access codes in DESCRIBE's nibbles (Table 2.2). -/
def Access.nibble : Access → Nat
  | .ro => 1 | .rw => 2 | .wo => 3 | .rwl => 4 | .rws => 5 | .rwsw => 5

/-- The object is written by OPERATOR only (RWS). -/
def Access.rwsAny : Access → Bool
  | .rws => true
  | .rwsw => true
  | _ => false

/-- A READ returns the object's value; of an object that is written only it returns 0 (Table 0.7). -/
def Access.readable : Access → Bool
  | .wo => false
  | .rwsw => false
  | _ => true

/-- Type code of DESCRIBE (Table 2.2). -/
def ObjType.code : ObjType → Nat
  | .bool => 1 | .u8 => 2 | .u16 => 3 | .u32 => 4 | .u64 => 5 | .i16 => 6 | .i32 => 7 | .enum8 => 8 | .bits32 => 9 | .time80 => 10
  | .oct => 11 | .octv => 11

/-- Effect class and persistence codes of DESCRIBE. -/
def EffectClass.code : EffectClass → Nat
  | .immediate => 0 | .mixFrame => 1 | .tick => 2
def Persist.code : Persist → Nat
  | .volatile => 0 | .persist => 1 | .fused => 2

/-- An index has a record object: none of its fields is at sub-index 0. -/
def isRec (ix : Nat) : Bool := !(rowsOf ix).isEmpty && (rowsOf ix).all (fun a => decide (0 < a.subLo))

/-- Highest sub-index of an index. -/
def highSub (ix : Nat) : Nat := (rowsOf ix).foldl (fun m a => max m a.subHi) 0

/-- The fields of a record in ascending sub-index. -/
def recFields (ix : Nat) : List (Nat × Attr) :=
  (List.range (highSub ix + 1)).filterMap (fun sub => (attrOf ix sub).map (fun a => (sub, a)))

/-- Length of a record's WHOLE form. -/
def wholeLen (ix : Nat) : Nat := ((recFields ix).map (fun f => f.2.len)).sum

/-- Elements of the table an index stands for; 0 where it is none. -/
def tableCount (ix : Nat) : Nat := ((rowsOf ix).head?.map Attr.elems).getD 0

/-! ### The checks of a message (R37, R41, R42) -/

end Sys2Proof.Machine

namespace Sys2Proof

/-- The flags of Table 2.6. -/
def Req.indirect (r : Req) : Bool := Machine.bit r.flags 3
def Req.whole (r : Req) : Bool := Machine.bit r.flags 2
def Req.shadow (r : Req) : Bool := Machine.bit r.flags 1
def Req.view (r : Req) : Bool := Machine.bit r.flags 0

/-- The elements a request names. -/
def Req.elems (r : Req) : List Nat := if r.count = 0 then [0] else (List.range r.count).map (fun i => r.element + i)

end Sys2Proof

namespace Sys2Proof.Machine

/-- The channel is a mailbox pair. -/
def chanMailbox : Chan → Option Nat
  | .mbx n => some n
  | _ => none

/-- Octets of data a message carries inline on a channel (R41, R43): its own WORDS bound a mailbox message. -/
def inlineRoom (ch : Chan) (words : Nat) : Nat := if (chanMailbox ch).isSome then 4 * (4 + words) else 1024

/-- The message checks: OP, then WORDS, FLAGS and GROUP. A flag the operation has no use for is invalid, INDIRECT belongs to
mailboxes. -/
def messageAbort (ch : Chan) (r : Req) : Nat :=
  if ¬ (1 ≤ r.op ∧ r.op ≤ 6) then Abort.badOpcode
  else if 8 < r.words ∨ 15 < r.flags then Abort.badMessage
  else if r.shadow ∧ r.whole then Abort.badMessage
  else if r.view ∧ r.op ≠ 1 then Abort.badMessage
  else if (r.shadow ∨ r.whole ∨ r.indirect) ∧ 2 < r.op then Abort.badMessage
  else if r.indirect ∧ (chanMailbox ch).isNone then Abort.badMessage
  else if r.whole ∧ r.sub ≠ 0 ∧ ¬ (r.op = 1 ∧ r.view) then Abort.badMessage
  else if r.group ≠ 0 ∧ r.op ≠ 2 ∧ r.op ≠ 5 ∧ r.op ≠ 6 then Abort.badMessage
  else if 64 < r.group then Abort.badMessage
  else 0

/-- Existence (R37, R40): the index, then the sub-index; sub-index 0 of a record exists. -/
def existsAbort (ix sub : Nat) : Nat :=
  if 0xF000 ≤ ix ∨ (rowsOf ix).isEmpty then Abort.noObject
  else if (attrOf ix sub).isNone ∧ ¬ (sub = 0 ∧ isRec ix) then Abort.noSubindex
  else 0

/-- Element addressing (R32, R33): WHOLE of an object that is no record, the naming of elements, and their range. DESIGN CHOICE:
ELEMENT_RANGE, listed among the type-and-range codes, is checked here and not at step 7 of R37. -/
def addressAbort (r : Req) : Nat :=
  let n := tableCount r.index
  if r.whole ∧ ¬ r.view ∧ ¬ isRec r.index then Abort.badMessage
  else if n = 0 then (if r.count ≠ 0 ∨ r.element ≠ 0 then Abort.elementAddressing else 0)
  else if r.count = 0 then Abort.elementAddressing
  else if n < r.element + r.count then Abort.elementRange
  else 0

/-! ### READ -/

/-- A principal may read an object (R36): PEER none, and nobody an RWS object that is written only. A WO object reads as 0 (Table
0.7). -/
def mayRead (p : Principal) (a : Attr) : Bool := decide (p ≠ .peer) && decide (a.access ≠ .rwsw)

/-- The minimum and maximum a READ with VIEW and WHOLE returns; a counter's range is 0 to 0 (R427). -/
def minMax (s : State) (a : Attr) (ix sub el : Nat) : Nat × Nat :=
  if a.counter then (0, 0)
  else if ix = 0x7100 ∧ sub = 6 then (s.rd (Obj.minRate el), s.rd (Obj.maxRate el))
  else if ix = 0x7100 ∧ sub = 8 then (s.rd (Obj.minRate el), uns 32 a.hi)
  else (uns (8 * a.len) a.lo, uns (8 * a.len) a.hi)

/-- Values appended in ascending order: (value, length) of the data so far. -/
def appendValue (acc : Nat × Nat) (v len : Nat) : Nat × Nat := (acc.1 + v % 256 ^ len * 256 ^ acc.2, acc.2 + len)

/-- What a READ returns of one field of one element, appended: default, minimum and maximum, shadow or active value, and zeros for
an object that is written only (none for one of no fixed length). -/
def readField (r : Req) (ch : Chan) (sub el : Nat) (a : Attr) (acc : (Nat × Nat) × State) : (Nat × Nat) × State :=
  let (d, s) := acc
  let octs := decide (a.type = ObjType.oct) || decide (a.type = ObjType.octv)
  if r.view then
    if r.whole then
      if octs then (d, s)
      else
        let (lo, hi) := minMax s a r.index sub el
        (appendValue (appendValue d lo a.len) hi a.len, s)
    else (appendValue d a.dflt (if a.type = ObjType.octv then 0 else a.len), s)
  else if !a.access.readable then (appendValue d 0 (if a.type = ObjType.octv ∧ a.len = 0xFFFFFFFF then 0 else a.len), s)
  else if r.shadow then (appendValue d (s.rdShadow (key r.index sub el)) a.len, s)
  else
    let (v, t) := readOne s ch r.index sub el
    (appendValue d v a.len, t)

/-- The octets PersistImage returns (R65): the records of all PERSIST objects and the digest. -/
def persistOctets (s : State) : List Nat :=
  (persistKeys true).foldr (fun e t => digestRecord s e.1 e.2 ++ t) [] ++ octets 8 (configDigest s)

/-- The data of a READ that has passed its checks: value, length in octets. -/
def readData (s : State) (ch : Chan) (r : Req) : (Nat × Nat) × State :=
  if r.index = 0x1030 ∧ ¬ r.view then
    let bs := persistOctets s
    ((ofOctets bs, bs.length), s)
  else if r.index = 0x2030 ∧ ¬ r.view then
    let bs := classifierOctets s.le.classifier
    ((ofOctets bs, bs.length), s)
  else match attrOf r.index r.sub with
    | some a => r.elems.foldl (fun acc el => readField r ch r.sub el a acc) ((0, 0), s)
    | none =>
      if r.whole && !r.view then
        r.elems.foldl (fun acc el => (recFields r.index).foldl (fun acc2 f => readField r ch f.1 el f.2 acc2) acc) ((0, 0), s)
      else
        let h := highSub r.index
        (r.elems.foldl (fun acc _ => if r.view && r.whole then appendValue (appendValue acc h 1) h 1 else appendValue acc h 1) (0, 0), s)

/-- The checks of a READ on its object (R37). A record's own sub-index 0 is readable wherever one of its fields is. DESIGN CHOICE:
sub-index 0 of a record is of no TICK class, so a READ of it with SHADOW answers NOT_SHADOWED also where the record's fields are of
the TICK class (R54 speaks of objects of the class). -/
def readAbort (p : Principal) (r : Req) : Nat :=
  let e := existsAbort r.index r.sub
  if e ≠ 0 then e
  else if addressAbort r ≠ 0 then addressAbort r
  else match attrOf r.index r.sub with
    | some a =>
      if !mayRead p a then Abort.readDenied
      else if r.shadow ∧ a.effect ≠ .tick then Abort.notShadowed
      else 0
    | none =>
      if !(recFields r.index).any (fun f => mayRead p f.2) then Abort.readDenied
      else if r.shadow then Abort.notShadowed
      else 0

/-! ### Responses -/

/-- The response of a request (R41): `n` octets of data. DESIGN CHOICE: WORDS, whose values are 0 to 8, stays at 8 in a DTP response
of more than 48 octets. -/
def respond (r : Req) (abort data n : Nat) : Resp :=
  ⟨r.op % 128 + 128, min 8 (ceilDiv n 4 - 4), r.flags, r.tag, r.index * 0x10000 + r.sub * 0x100 + r.count, r.group, n, abort, data⟩

/-- A READ served (R42): its response. -/
def readServe (s : State) (ch : Chan) (p : Principal) (r : Req) : Resp × State :=
  let a := readAbort p r
  if a ≠ 0 then (respond r a 0 0, s)
  else
    let ((v, n), t) := readData s ch r
    if !r.indirect ∧ inlineRoom ch 8 < n then (respond r Abort.lengthMismatch 0 0, s) else (respond r 0 v n, t)

/-! ### DESCRIBE (R33, R34) -/

/-- The access nibbles (R36): OPERATOR and HOST as the object's code, FIRMWARE as HOST but RO or none on RWS, PEER none. -/
def accessOctets (a : Access) : Nat :=
  let n := a.nibble
  let fw := if a.rwsAny then (if a.readable then 1 else 0) else n
  n + n * 16 + fw * 256

/-- The attribute record of a field (Table 2.2). -/
def describeField (a : Attr) : Nat :=
  a.type.code + accessOctets a.access * 0x100 +
    (a.persist.code + a.effect.code * 4 + b2n (decide (a.elems ≠ 0)) * 16 + b2n a.loc * 32 + b2n (decide (a.effect = .tick)) * 64) *
      0x1000000 + a.frost * 2 ^ 56 + a.len * 2 ^ 64 + a.elems * 2 ^ 96

/-- The attribute record of a record object: the latest effect class (R32), the WHOLE length. DESIGN CHOICE: where the fields differ,
the access nibbles give the widest access and FROST is that of the first field (R34 states neither). -/
def describeRec (ix : Nat) : Nat :=
  let fs := recFields ix
  match fs with
  | [] => 0
  | (_, a) :: _ =>
    let eff := fs.foldl (fun m f => max m f.2.effect.code) 0
    let per := fs.foldl (fun m f => max m f.2.persist.code) 0
    let nib := if fs.any (fun f => decide (f.2.access ≠ a.access)) then
        (if fs.any (fun f => decide (f.2.access.nibble = 5)) then Access.rws else if fs.any (fun f => decide (f.2.access = .rwl)) then .rwl
         else .rw)
      else a.access
    0xC + accessOctets nib * 0x100 + (per + eff * 4 + b2n (decide (a.elems ≠ 0)) * 16 + b2n a.loc * 32 + b2n (decide (eff = 2)) * 64) *
      0x1000000 + highSub ix * 2 ^ 32 + a.frost * 2 ^ 56 + wholeLen ix * 2 ^ 64 + a.elems * 2 ^ 96

/-- DESCRIBE served: it names an object, not an element. HIGHSUB of a field is that of its record. -/
def describeServe (r : Req) : Resp :=
  let e := existsAbort r.index r.sub
  if e ≠ 0 then respond r e 0 0
  else match attrOf r.index r.sub with
    | some a => respond r 0 (describeField a + (if isRec r.index then highSub r.index else 0) * 2 ^ 32) 16
    | none => respond r 0 (describeRec r.index) 16

end Sys2Proof.Machine
end

