-- ==== Sys2Proof/Machine/TwinRole.lean ====
section
/-! DEFINITION. The twin role machine as writes of the twin objects drive it (R348, R349, R357, R361, R363): reset of a loser,
role changes, pairing and its end, handover, resynchronisation. -/

namespace Sys2Proof.Machine

/-- The TwinKek slot, none while it names none. -/
def State.kekSlot (s : State) : Option Nat := if s.rd Obj.twinKek < 65536 then some (s.rd Obj.twinKek) else none

/-- Objects the twin's reset leaves alone (R349): LOCAL ones, the twin's own, the TwinKek slot's, the frost bits, and status objects
of units the reset does not touch. -/
def twinKeeps (s : State) (k : Nat) : Bool :=
  let ix := k / 0x100000000
  let sub := k / 0x1000000 % 256
  let ro := (attrOf ix sub).any (fun a => decide (a.access = .ro))
  (attrOf ix sub).any Attr.loc || decide (ix / 4096 = 0xB) || decide (k = Obj.frost) ||
    (decide (ix = 0x8100) && decide (some (k % 0x1000000) = s.kekSlot)) ||
    (ro && decide (8 ≤ ix / 4096) && decide (ix ≠ 0x8100) && decide (ix ≠ 0x8200)) ||
    (decide (ix = 0x4010) && decide (sub = 3)) || (decide (ix = 0x6010) && (decide (sub = 3) || decide (sub = 4)))

/-- The reset of Table 15.2: every object that is not LOCAL at its default, every key slot but TwinKek's zeroised, the media engines
empty. -/
def twinReset (s : State) : State :=
  let s1 := (zeroiseAll (failInFlight s) s.kekSlot).dropGroups (fun _ => true)
  let r := State.reset
  { s1 with
    dict := s1.dict.filter (fun e => twinKeeps s1 e.1)
    shadow := []
    queues := s1.queues.filter (fun e => decide (41984 ≤ e.1))
    ctl := { s1.ctl with deferred := [] }
    le := { r.le with seed := s1.le.seed, frame := s1.le.frame }
    cip := { s1.cip with waiting := [], taps := [], ranges := [], formed := [] }
    disp := r.disp
    mt := r.mt
    conf := []
    ad := r.ad
    vd := r.vd
    cp := { r.cp with tick := s1.cp.tick }
    en := r.en
    speech := []
    mm := { s1.mm with used := [] }
    ig := { s1.ig with corrupt := [] }
    fb := { s1.fb with subs := [], live := [] } }

/-- A change of Role (Tables 15.1 and 16.3): a device that stops serving lets go of its subscriptions and takes TW as its time
reference, one that starts leaves it; the fence ends when the device becomes COLD. -/
def setRole (s : State) (r : Nat) : State :=
  let s1 := s.wr Obj.twRole r
  if 2 ≤ r then
    let s2 := endSubscriptions s1
    let s3 := if s2.servo = 4 then s2 else servoTwin s2
    if r = 3 then { s3 with tw := { s3.tw with fenced := false } } else s3
  else servoLeavesTwin s1

/-- A snapshot asked for (R361): what came before is discarded. -/
def askSnapshot (s : State) : State :=
  let s1 := { s with tw := { s.tw with
    snapAsked := true
    snapStarted := none
    snapStored := []
    snapEnd := none
    stored := []
    sums := [] } }
  (s1.wr Obj.syncProgress 0).twSend (.ctrl (.resend none))

/-- The journal of an active is at its end: nothing waits for an acknowledgement. -/
def dropJournal (s : State) : State := { s with tw := { s.tw with sent := [], requests := [], ignoreAcks := false } }

/-- COLD with a reason (R362): TWIN_COLD. -/
def coldFor (s : State) (reason : Nat) : State :=
  (((setRole s 3).wr Obj.coldReason reason).wr Obj.twProtected 0).event Ev.twinCold reason 0

/-- The loser of a contest (Table 15.2): fence, reset, COLD, and a snapshot asked for. -/
def loseContest (s : State) : State :=
  let s1 := dropJournal (twinReset (fence s))
  askSnapshot (((setRole s1 3).wr Obj.coldReason 1).wr Obj.twProtected 0)

/-- The pair is parted (Table 15.2): ACTIVE keeps its service, STANDBY and COLD reset. -/
def detach (s : State) : State :=
  if s.role = 0 then s
  else
    let s1 := if s.role = 1 then s else twinReset s
    let s2 := ((setRole (dropJournal s1) 0).wr Obj.twProtected 0).wr Obj.coldReason 0
    { s2 with tw := { s2.tw with
      peer := none
      stored := []
      snapAsked := false
      snapStarted := none
      snapStored := []
      snapEnd := none } }

/-- The frame that ends the pairing leaves at once while TW is up. -/
def sendDetach (s : State) : State :=
  if 2 ≤ (s.nq 6).stage then
    let m : FabMsg := .twin (.ctrl .detach)
    s.emit (.fabric 6 ⟨fabVc m, 0x1FF, 0x1FF, 1, fabLength m, fabKind m, 0, 0, m⟩)
  else s

/-- A write of Mode (R348, R349), the old value still in force. -/
def twinModeWrite (s : State) (v : Nat) : State :=
  if v = s.rd Obj.twMode then s
  else if v = 1 then
    let s1 := if s.rd Obj.twStart = 1 then s.wr Obj.twEpoch (max (s.rd Obj.twEpoch) 1) else s
    let s2 := { s1 with tw := { s1.tw with
      heardIn := s1.mono
      heardOob := s1.mono
      silentIn := false
      silentOob := false
      pulse := s1.mono
      pulseLost := false
      mismatch := false
      peer := none } }
    ((portUp s2 6).wr Obj.twMode 1).demand
  else portDown ((detach (if s.role = 0 then s else sendDetach s)).wr Obj.twMode 0) 6

/-- TWIN_HANDOVER (Table 15.2, R363): fence, a planned failure report on both paths, COLD. -/
def twinHandover (s : State) : Nat × State :=
  if !s.isProtected then (Abort.twinState, s)
  else
    let s1 := fence s
    let s2 := { s1 with tw := { s1.tw with failReport := true, planned := true } }
    (0, askSnapshot (((setRole (dropJournal (twinReset s2)) 3).wr Obj.coldReason 1).wr Obj.twProtected 0))

/-- TWIN_RESYNC (R361, R363). -/
def twinResync (s : State) : Nat × State :=
  if s.role ≠ 3 then (Abort.twinState, s)
  else (0, askSnapshot (s.wr Obj.coldReason 1))

/-- The refusals of a write to a TwinConfig field (R363). -/
def twinPre (s : State) (sub v : Nat) : Nat :=
  if sub ≠ 1 ∧ (s.isProtected ∨ s.role = 2) then Abort.twinState
  else if sub = 5 ∧ v < 65536 ∧ ¬ (s.slotState v = 1 ∧ s.rd (Obj.kSuite v) = 8) then Abort.relation
  else if sub = 5 ∧ 65536 ≤ v then Abort.relation
  else 0

end Sys2Proof.Machine
end

