-- ==== Sys2Proof/Machine/DictWrite.lean ====
section
/-! DEFINITION. Writing the dictionary (R37, R49, R53 to R57, R60): the checks of one write in the order of R37, what a write to each
object does, the consistency of what was written, and NOTIFY. -/

namespace Sys2Proof.Machine

/-- What the checks and effects of a request's writes depend on beside the state: its channel and principal, the frost bits at
its commit point, whether it is a group or carries SHADOW, whether all its fields wait for the boundary, whether they act at once,
the boundary and the tick its deferred effects take, key slots whose key it also writes and suites it gives to slots, and what a NOTIFY would answer, whether the writes come
from the twin (R347). -/
structure WCtx where
  chan : Chan
  prin : Principal
  frost : Nat
  inGroup : Bool
  shadow : Bool
  mixAll : Bool
  now : Bool
  mixDue : Nat
  tickDue : Nat
  withKey : List Nat
  withSuite : List (Nat × Nat)
  notify : Option (Chan × Req × Nat)
  twin : Bool
deriving DecidableEq, Repr

/-- One field of one element to be written. -/
structure FieldWrite where
  ix : Nat
  sub : Nat
  el : Nat
  len : Nat
  attr : Attr
  data : Payload
deriving DecidableEq, Repr

end Sys2Proof.Machine

namespace Sys2Proof

/-! ### Payloads of special form -/

/-- The octets as an image. -/
def Payload.asImage (len : Nat) : Payload → Image
  | .image i => i
  | .num v => ⟨Machine.octets len v⟩
  | _ => ⟨[]⟩

/-- The octets as an operator image. -/
def Payload.asOpImage : Payload → OpImage
  | .opImage i => i
  | _ => ⟨false, 0, 0, false, []⟩

/-- The octets as a wrap of a key. -/
def Payload.asWrapped (len : Nat) : Payload → Wrapped
  | .wrapped w => w
  | .num v => ⟨Machine.octets (min len 72) v⟩
  | _ => ⟨[]⟩

/-- The octets as a token signature. -/
def Payload.asSig (len : Nat) : Payload → TokenSig
  | .sig g => g
  | .num v => ⟨Machine.octets len v⟩
  | _ => ⟨[]⟩

/-- 128 octets are a token body. -/
def Payload.asToken (len : Nat) (d : Payload) : Payload :=
  match d with
  | .num v => if len = 128 then .token ⟨Machine.octets 128 v⟩ else d
  | _ => d

/-- The number a payload's octets stand for. -/
def Payload.value : Payload → Nat
  | .num v => v
  | _ => 0

end Sys2Proof

namespace Sys2Proof.Machine

/-! ### NOTIFY (R468) -/

/-- A NOTIFY of Table 2.13 for a commit: 1 APPLIED, 2 SUPERSEDED, with the instant. -/
def notifyResp (r : Req) (code instant : Nat) : Resp :=
  ⟨0xC1, 0, r.flags, r.tag, r.index * 0x10000 + r.sub * 0x100 + r.count, if r.op = 5 then r.group else 0,
    if r.op = 5 then 0 else r.element, 0, code + time80 instant * 0x100000000⟩

/-- A NOTIFY sent to the channel of its commit. -/
def notifySend (s : State) (n : Option (Chan × Req × Nat)) (code instant : Nat) : State :=
  match n with
  | some (.mbx b, r, _) => s.mailNotify b (notifyResp r code instant)
  | some (.dtp d, r, q) =>
    match s.ctl.dtp.find? (fun x => decide (x.id = d)) with
    | some x => s.emit (.dtp d q 4 16 (notifyResp r code instant) x.key)
    | none => s
  | _ => s

/-! ### The checks of R37 on one field -/

/-- UtcOffset is written under Source 1 (Table 16.8). -/
def utcWritable (s : State) (ix sub : Nat) : Bool := decide (ix = 0xC010) && decide (sub = 6) && decide (s.rd Obj.ptpSource = 1)

/-- Principal access (R36, R37). -/
def accessAbort (s : State) (p : Principal) (a : Attr) (ix sub : Nat) : Nat :=
  if p = .peer then Abort.writeDenied
  else if a.counter ∨ utcWritable s ix sub then 0
  else match a.access with
    | .ro => Abort.writeDenied
    | .rws => if p = .operator then 0 else Abort.operatorOnly
    | .rwsw => if p = .operator then 0 else Abort.operatorOnly
    | _ => 0

/-- Closing the debug levels is no unlocking: the frost bit of DebugUnlock does not refuse it (R410, R412). -/
def closesDebug (w : FieldWrite) : Bool := decide (w.ix = 0x8420) && decide (w.len = 4) && decide (w.data = .num 0)

/-- Frost bit (R37). -/
def frostAbort (frost : Nat) (w : FieldWrite) : Nat :=
  if w.attr.frost ≠ 255 ∧ bit frost w.attr.frost ∧ ¬ closesDebug w then Abort.frosted else 0

/-- Objects that take tokens and their signatures (R51). -/
def tokenIndex (ix : Nat) : Bool := decide (ix = 0x1060) || decide (ix = 0x8410) || decide (ix = 0x8420)

/-- Shadow and group use (R37, R41, R51, R54). -/
def shadowAbort (c : WCtx) (w : FieldWrite) : Nat :=
  if w.attr.effect = .tick ∧ ¬ c.shadow ∧ ¬ w.attr.counter then Abort.needsShadow
  else if c.shadow ∧ w.attr.effect ≠ .tick then Abort.notShadowed
  else if c.inGroup ∧ tokenIndex w.ix then Abort.notGroupable
  else 0

/-- Lifecycle state (R37, Table 18.13): objects that exist in some lifecycle states only. -/
def lifecycleAbort (s : State) (ix : Nat) : Nat :=
  if (ix = 0x8351 ∧ s.lifecycle ≠ 0) ∨ (ix = 0x8360 ∧ (s.lifecycle = 0 ∨ s.lifecycle = 3)) ∨ (ix = 0x8331 ∧ s.lifecycle ≠ 1) then
    Abort.lifecycle
  else 0

/-- A type whose values are signed. -/
def ObjType.signed : ObjType → Bool
  | .i16 => true
  | .i32 => true
  | _ => false

/-- A number is a power of two. -/
def isPow2 (n : Nat) : Bool := decide (n ≠ 0) && (List.range 33).any (fun i => decide (2 ^ i = n))

/-- Bounds that tell an illegal value apart (R37): below the minimum, above the maximum, or between them. -/
def boundsAbort (a : Attr) (i : Int) : Nat :=
  if i < a.lo then Abort.belowRange else if a.hi < i then Abort.aboveRange else Abort.badValue

/-- Type and range of a number (R37). -/
def valueAbort (a : Attr) (v : Nat) : Nat :=
  let i : Int := if a.type.signed then sgn (8 * a.len) v else v
  if a.counter then (if v = 0 then 0 else Abort.aboveRange)
  else if a.type = .time80 then (if 999999999 < v % 0x100000000 then Abort.aboveRange else 0)
  else match a.legal with
    | .any => 0
    | .free => 0
    | .enum vs => if vs.contains v then 0 else Abort.badEnum
    | .list vs => if vs.contains v then 0 else boundsAbort a i
    | .bits m =>
      if v ||| m = m then 0
      else if a.type = .bits32 then Abort.reservedBits
      else if a.hi < i then Abort.aboveRange else Abort.badValue
    | .span lo hi k also =>
      if also.contains v then 0
      else if i < lo ∨ hi < i then boundsAbort a i
      else match k with
        | .all => 0
        | .step n => if v % n = 0 then 0 else Abort.badValue
        | .pow2 => if isPow2 v then 0 else Abort.badValue

/-- Type and range of a field: LENGTH first. -/
def rangeAbort (w : FieldWrite) : Nat :=
  if w.attr.type = .octv then (if w.attr.len < w.len then Abort.lengthMismatch else 0)
  else if w.len ≠ w.attr.len then Abort.lengthMismatch
  else valueAbort w.attr w.data.value

/-- STANDBY and COLD refuse HOST and OPERATOR but for LOCAL objects and the twin's (R60, R347). -/
def standbyAbort (s : State) (p : Principal) (w : FieldWrite) : Nat :=
  if 2 ≤ s.role ∧ (p = .host ∨ p = .operator) ∧ ¬ w.attr.loc ∧ w.ix / 4096 ≠ 0xB then Abort.standby else 0

/-- The checks of R37 that no object changes. -/
def fieldAbort (s : State) (c : WCtx) (w : FieldWrite) : Nat :=
  firstAbort [accessAbort s c.prin w.attr w.ix w.sub, frostAbort c.frost w, shadowAbort c w, lifecycleAbort s w.ix, rangeAbort w,
    if c.twin then 0 else standbyAbort s c.prin w]

/-! ### Storing values -/

/-- A write whose effect waits for the mix-frame boundary of R53. -/
def deferMix (s : State) (due k v : Nat) : State :=
  { s with ctl := { s.ctl with deferred := s.ctl.deferred ++ [⟨due, false, [(k, .num v)], [], [], [], none, []⟩] } }

/-- A plain object takes its value: at once, at the boundary, or in the shadow copy (R49, R53, R54). -/
def store (c : WCtx) (s : State) (w : FieldWrite) : Nat × State :=
  let k := key w.ix w.sub w.el
  let v := w.data.value
  if w.attr.effect = .tick ∧ ¬ w.attr.counter then (0, s.wrShadow k v)
  else if (w.attr.effect = .mixFrame ∨ c.mixAll) ∧ ¬ c.now then (0, deferMix s c.mixDue k v)
  else (0, s.wr k v)

/-- The settings as the accepted boundary writes will leave them. -/
def mixView (s : State) : State := (s.ctl.deferred.filter (fun d => !d.isTick)).foldl (fun t d => withWrites t d.writes) s

/-- A check, then a store. -/
def guarded (a : Nat) (c : WCtx) (s : State) (w : FieldWrite) : Nat × State := if a ≠ 0 then (a, s) else store c s w

/-! ### Legs and conferences -/

/-- LegState (R100): the transition waits for its boundary, or acts at once. -/
def legStateAt (c : WCtx) (s : State) (l v : Nat) : Nat × State :=
  let (a, t) := legStateWrite s l v
  if a ≠ 0 then (a, t)
  else
    let x := t.leg l
    let due := if c.now then t.tod else c.mixDue
    let last := (x.turn.getLast?).toList.map (fun e => (due, e.2))
    let t1 := t.setLeg l { x with turn := x.turn.dropLast ++ last }
    (0, if c.now then legTurns t1 l else t1)

/-- ConfState (R59, R108). -/
def confStateWrite (s : State) (c v : Nat) : Nat × State :=
  if v = 1 then (if s.season = .autumn ∧ s.rd (Obj.confState c) ≠ 1 then (Abort.draining, s) else confActivate s c) else confFree s c

/-- Talk := PINNED, and MixK, against the PINNED members there will be (R203). -/
def talkAbort (s : State) (l v : Nat) : Nat :=
  let t := mixView s
  let c := t.rd (Obj.legConf l)
  if v = 2 ∧ s.goingLegs.contains l ∧ c < 16384 ∧ t.rd (Obj.mixK c) < pinnedCount t c l true then Abort.pinLimit else 0
def mixKAbort (s : State) (c v : Nat) : Nat := if v < pinnedCount (mixView s) c 0xFFFFFFFF false then Abort.pinLimit else 0

def write2 (c : WCtx) (s : State) (w : FieldWrite) : Nat × State :=
  let pre := if isLegIndex w.ix then legPre s w.ix w.el w.attr.amark w.attr.counter else 0
  if pre ≠ 0 then (pre, s)
  else if w.ix = 0x2030 then classifierWrite s (w.data.asImage w.len)
  else if w.ix = 0x2101 then legStateAt c s w.el w.data.value
  else if w.ix = 0x2200 then
    (if w.sub = 1 then confStateWrite s w.el w.data.value else guarded (confPre s w.ix w.sub w.el) c s w)
  else if w.ix = 0x2310 ∧ w.sub = 1 then tapWrite s false w.el w.data.value
  else if w.ix = 0x2311 ∧ w.sub = 1 then tapWrite s true w.el w.data.value
  else store c s w

/-! ### Maten programs (R194) -/

/-- Acceptance orders of the items of a program that have started. -/
def itemsRunning (s : State) (n : Nat) : List Nat :=
  (s.disp.items.filter (fun w => decide (w.desc.program = n) && w.core.isSome)).map WorkItem.order

/-- MATEN_LOAD. -/
def matenLoad (s : State) (i : Image) : Nat × State :=
  let a := verifyImage s 0x10 i
  if a ≠ 0 then (a, s)
  else if 1024 ≤ i.number then (Abort.signature, s)
  else if 131072 < programWords s + i.codeWords + i.constWords then (Abort.programSpace, s)
  else
    let busy := itemsRunning s i.number
    let old := match s.program i.number with
      | some o => if busy.isEmpty then [] else [(i.number, o.codeWords + o.constWords, busy)]
      | none => []
    (0, { s with
      mt := { s.mt with
        programs := AMap.put none i.number (some i) s.mt.programs
        retiring := s.mt.retiring ++ old }
      ig := { s.ig with corrupt := s.ig.corrupt.filter (fun n => decide (n ≠ i.number)) } })

/-- MATEN_UNLOAD. -/
def matenUnload (s : State) (n : Nat) : Nat × State :=
  if s.disp.items.any (fun w => decide (w.desc.program = n)) then (Abort.programInUse, s)
  else (0, { s with
    mt := { s.mt with programs := AMap.del n s.mt.programs }
    ig := { s.ig with corrupt := s.ig.corrupt.filter (fun x => decide (x ≠ n)) } })

def write3 (c : WCtx) (s : State) (w : FieldWrite) : Nat × State :=
  let pre := if isLegIndex w.ix then legPre s w.ix w.el w.attr.amark w.attr.counter else 0
  if pre ≠ 0 then (pre, s)
  else if w.ix = 0x3040 then matenLoad s (w.data.asImage w.len)
  else if w.ix = 0x3041 then matenUnload s w.data.value
  else if w.ix = 0x3300 ∧ w.sub = 6 then guarded (talkAbort s w.el w.data.value) c s w
  else if w.ix = 0x3200 ∧ w.sub = 2 then guarded (mixKAbort s w.el w.data.value) c s w
  else store c s w

/-! ### Decode, composition, encode -/

def write4 (c : WCtx) (s : State) (w : FieldWrite) : Nat × State :=
  if w.ix = 0x4200 then
    let pre := dctxPre s w.el w.attr.amark
    if pre ≠ 0 then (pre, s)
    else if w.sub = 1 then dctxStateWrite s w.el w.data.value
    else if w.sub = 9 then (0, targetSpatialWrite s w.el w.data.value)
    else store c s w
  else store c s w

/-- An accepted tick commit takes its place; those it supersedes are taken back, each with its NOTIFY (R55). -/
def acceptCommit (s : State) (d : Deferred) : State :=
  let old := supersededBy s d
  let s1 := old.foldl (fun t x => notifySend (dropDeferred t x) x.notify 2 x.due) s
  { s1 with ctl := { s1.ctl with deferred := s1.ctl.deferred ++ [d] } }

/-- A commit of sets, of the settings `extra` names, with the other writes of its group (R54 to R57). -/
def commit (s : State) (csets : List Nat) (extra : Nat → Bool) (others : List (Nat × Nat × Payload)) (due : Nat)
    (notify : Option (Chan × Req × Nat)) : Nat × State :=
  match tickCommit s csets extra [] due notify with
  | (0, some d, t) => (0, acceptCommit t { d with others := others })
  | (a, _, _) => (a, s)

/-- A key of the protected layer of a canvas. -/
def opLayerKey (v k : Nat) : Bool := decide (k / 0x100000000 = 0x5610) && decide (k % 0x1000000 = v)

/-- Writes of the composition objects; a commit in a run is one commit per element, each with its own NOTIFY (R468). -/
def write5 (c : WCtx) (s : State) (w : FieldWrite) : Nat × State :=
  let notify := c.notify.map (fun n => (n.1, { n.2.1 with element := w.el }, n.2.2))
  if w.ix = 0x5210 then commit s [w.el] (fun _ => false) [] c.tickDue notify
  else if w.ix = 0x5620 then commit s [] (opLayerKey w.el) [] c.tickDue notify
  else if w.ix = 0x5600 then operatorImageWrite s (w.sub - 1) w.data.asOpImage
  else if w.ix = 0x5700 then layoutLoad s (w.data.asImage w.len)
  else if w.ix = 0x5701 then layoutUnload s w.data.value
  else store c s w

def write6 (c : WCtx) (s : State) (w : FieldWrite) : Nat × State :=
  if w.ix = 0x6050 then rcLoad s (w.data.asImage w.len)
  else if w.ix = 0x6051 then rcUnload s w.data.value
  else if w.ix = 0x6200 then
    let pre := actxPre s w.el w.attr.amark
    if pre ≠ 0 then (pre, s) else if w.sub = 1 then actxStateWrite s w.el w.data.value else store c s w
  else if w.ix = 0x6300 then
    let pre := rctxPre s w.el w.attr.amark
    if pre ≠ 0 then (pre, s)
    else if w.sub = 1 then rctxStateWrite s w.el w.data.value
    else if w.sub = 0x19 then (0, raiseKey s w.el false)
    else store c s w
  else store c s w

/-! ### Adaptation, queues, dispatcher, ports -/

/-- An engine in service produces into or consumes from a queue (R98). -/
def queueOwned (s : State) (q : Nat) : Bool :=
  (decide (32768 ≤ q) && decide (q < 36864) && decide (s.rd (Obj.dctxState (q - 32768)) ≠ 0)) ||
    (decide (40960 ≤ q) && decide (q < 41984) && decide (s.rd (Obj.actxState (q - 40960)) ≠ 0)) ||
    (decide (41984 ≤ q) && decide (q < 44032))

/-- QUEUE_FLUSH (R96, R98). -/
def queueFlush (s : State) (q : Nat) : Nat × State :=
  if queueOwned s q then (Abort.queueOwned, s)
  else if 44032 ≤ q ∧ q < 46080 then (0, ringFlush s (q - 44032))
  else if 46080 ≤ q ∧ !(s.q q).allocated then (0, s)
  else (0, s.updQ q (s.q q).flush)

/-- Writes of QueueState (R97, R98). -/
def queueWrite (s : State) (sub q v : Nat) : Nat × State :=
  match sub with
  | 7 => (0, s.updQ q ({ s.q q with wmLevel := v }).rewm)
  | 8 =>
    (0, if bit v 1 then
      (if 44032 ≤ q ∧ q < 46080 then ringCrossedClear s (q - 44032) else s.setQ q { s.q q with crossed := false })
      else s)
  | 9 => (0, s.setQ q { s.q q with wmCount := 0 })
  | _ => queueFlush s q

def write7 (c : WCtx) (s : State) (w : FieldWrite) : Nat × State :=
  let v := w.data.value
  let pre := if isLegIndex w.ix then legPre s w.ix w.el w.attr.amark w.attr.counter else 0
  if pre ≠ 0 ∧ ¬ (0x7200 ≤ w.ix ∧ w.ix ≤ 0x7203 ∧ pre = Abort.legActive) then (pre, s)
  else if w.ix = 0x7020 then adaptLoad s (w.data.asImage w.len)
  else if w.ix = 0x7021 then adaptUnload s v
  else if 0x7200 ≤ w.ix ∧ w.ix ≤ 0x7203 then
    let f := w.ix - 0x7200
    let fp := feedPre s w.el f w.attr.amark
    if fp ≠ 0 then (fp, s)
    else if w.sub = 1 then feedModeWrite s w.el f v
    else if w.sub = 8 then (0, feedFixedWrite s w.el f v)
    else store c s w
  else if w.ix = 0x7400 then queueWrite s w.sub w.el v
  else if 0x7500 ≤ w.ix ∧ w.ix ≤ 0x7506 ∧ w.sub = 4 ∧ v = 0 then (Abort.inconsistent, s)
  else if w.ix = 0x7530 ∧ w.sub = 2 then
    (0, if bit v 1 then s.wr Obj.backlogState (clrBit (s.rd Obj.backlogState) 1) else s)
  else if w.ix = 0x7530 then (0, ((store c s w).2).dispStatus)
  else if w.ix = 0x7510 then
    match store c s w with
    | (0, t) => (0, (retryHeld t).settle)
    | x => x
  else if w.ix = 0x7590 then (0, coreOnlineWrite s (w.sub - 1) v)
  else store c s w

/-! ### Keys and security -/

def keyWrite (c : WCtx) (s : State) (w : FieldWrite) : Nat × State :=
  let v := w.data.value
  let suite := ((c.withSuite.find? (fun x => decide (x.1 = w.el))).map Prod.snd).getD (s.rd (Obj.kSuite w.el))
  match w.sub with
  | 1 => keySuiteWrite s w.el v (c.withKey.contains w.el)
  | 2 => keyLoad s w.el suite w.len v
  | 3 => keyWrappedLoad s w.el suite w.len (w.data.asWrapped w.len)
  | 5 => keyErase s w.el
  | 6 => guarded (overwriteCheck s w.el v) c s w
  | _ => store c s w

def write8 (c : WCtx) (s : State) (w : FieldWrite) : Nat × State :=
  let v := w.data.value
  let op := decide (c.prin = .operator)
  match w.ix with
  | 0x8100 => keyWrite c s w
  | 0x8200 => guarded (legPre s w.ix w.el w.attr.amark w.attr.counter) c s w
  | 0x8300 => bootPolicyWrite s v
  | 0x8310 => frostWrite s v op
  | 0x8320 => lifecycleAdvance s v op
  | 0x8321 => minVersionCommit s v
  | 0x8330 => if w.sub = 3 then ownerRevokeWrite s v else ownerHashWrite s (w.sub - 1) v
  | 0x8331 => ownerKekWrite s v
  | 0x8351 => identityGenerate s
  | 0x8360 => attest s c.chan v
  | 0x8410 => tokenSignatureWrite s c.chan w.len (w.data.asSig w.len)
  | 0x8420 => debugUnlockWrite s c.chan w.len (w.data.asToken w.len)
  | _ => store c s w

/-! ### Fabric, twin, time, power, integrity -/

/-- A counter of the fabric starts again, in the object and in its running value (R340). -/
def fabricCounter (s : State) (w : FieldWrite) : State := clearLive (s.wr (key w.ix w.sub w.el) 0) (key w.ix w.sub w.el)

def writeA (c : WCtx) (s : State) (w : FieldWrite) : Nat × State :=
  let v := w.data.value
  if w.ix = 0xA600 then guarded (legPre s w.ix w.el w.attr.amark w.attr.counter) c s w
  else if w.ix = 0xA010 ∧ w.sub = 1 then
    (if fdevPre s ≠ 0 then (fdevPre s, s) else (0, fdevPost (s.wr Obj.fdev v) (s.rd Obj.fdev)))
  else if w.ix = 0xA010 then (0, pmSuspect (s.wr (key w.ix w.sub 0) v) (w.sub - 1))
  else if 0xA100 ≤ w.ix ∧ w.ix ≤ 0xA105 ∧ w.sub = 1 then
    (0, nqEnableWrite (s.wr (key w.ix 1 0) v) (w.ix - 0xA100) v)
  else if 0xA100 ≤ w.ix ∧ w.ix ≤ 0xA105 ∧ w.sub = 2 then
    let t := s.wr (key w.ix 2 0) v
    (0, if (s.nq (w.ix - 0xA100)).stage = 3 then originate t.lsdbChanged else t)
  else if 0xA200 ≤ w.ix ∧ w.ix ≤ 0xA226 ∧ w.attr.counter then (0, fabricCounter s w)
  else store c s w

def writeB (c : WCtx) (s : State) (w : FieldWrite) : Nat × State :=
  let v := w.data.value
  if w.ix = 0xB010 then
    (if twinPre s w.sub v ≠ 0 then (twinPre s w.sub v, s)
     else if w.sub = 1 then (0, twinModeWrite s v)
     else store c s w)
  else if w.ix = 0xB030 then (if w.sub = 1 then twinHandover s else twinResync s)
  else store c s w

def writeC (c : WCtx) (s : State) (w : FieldWrite) : Nat × State :=
  let v := w.data.value
  let old := s.rd (key w.ix w.sub 0)
  if w.ix = 0xC050 then hostTodWrite s v
  else if w.ix = 0xC020 ∧ (w.sub = 2 ∨ w.sub = 3 ∨ w.sub = 0xA) ∧ v ≠ old then (0, ptpChanged (s.wr (key w.ix w.sub 0) v))
  else if w.ix = 0xC020 ∧ w.sub = 9 ∧ v ≠ old then
    let t := s.wr Obj.syncIn v
    (0, servoRate { t with tm := { t.tm with syncLost := false, syncSince := none } })
  else store c s w

def writeD (c : WCtx) (s : State) (w : FieldWrite) : Nat × State :=
  let v := w.data.value
  if w.ix = 0xD020 ∧ w.sub = 1 then
    (if targetPre s v ≠ 0 then (targetPre s v, s) else (0, targetWrite (s.wr Obj.target v) v))
  else if w.ix = 0xD040 then scriptsWrite s (w.data.asImage w.len)
  else store c s w

def writeE (c : WCtx) (s : State) (w : FieldWrite) : Nat × State :=
  if w.ix = 0xE060 ∧ w.sub = 0xA then scanStart s
  else if w.ix = 0xE050 ∧ w.sub = 1 then (0, watchdogKick (store c s w).2)
  else store c s w

/-- What a write to an object does once the checks of R37 that no object changes are passed. -/
def objectWrite (c : WCtx) (s : State) (w : FieldWrite) : Nat × State :=
  match w.ix / 4096 with
  | 1 => if w.ix = 0x1060 then operatorSessionWrite s c.chan w.len (w.data.asToken w.len) else store c s w
  | 2 => write2 c s w
  | 3 => write3 c s w
  | 4 => write4 c s w
  | 5 => write5 c s w
  | 6 => write6 c s w
  | 7 => write7 c s w
  | 8 => write8 c s w
  | 9 => if w.ix = 0x9020 ∧ w.sub = 8 then partApply s w.data.value else store c s w
  | 0xA => writeA c s w
  | 0xB => writeB c s w
  | 0xC => writeC c s w
  | 0xD => writeD c s w
  | _ => writeE c s w

/-- Objects written in order, their steps 1 to 7 of R37 passed; the first failure ends it. -/
def objectWrites (c : WCtx) : List FieldWrite → State → Nat × State
  | [], s => (0, s)
  | w :: r, s =>
    match objectWrite c s w with
    | (0, t) => objectWrites c r t
    | x => x

/-- Fields written in order: all the checks of R37 that no object changes first, then the objects'. -/
def writeFields (c : WCtx) (ws : List FieldWrite) (s : State) : Nat × State :=
  let a := firstAbort (ws.map (fieldAbort s c))
  if a ≠ 0 then (a, s) else objectWrites c ws s

/-! ### Consistency after a write -/

/-- StartRate and MaxRate lie within the leg's own bounds (Table 12.8). -/
def rateBounds (s : State) (l : Nat) (subs : List Nat) : Nat :=
  let start := s.rd (Obj.startRate l)
  let lo := s.rd (Obj.minRate l)
  let hi := s.rd (Obj.maxRate l)
  if subs.contains 6 ∧ start < lo then Abort.belowRange
  else if subs.contains 6 ∧ hi < start then Abort.aboveRange
  else if subs.contains 8 ∧ hi < lo then Abort.belowRange
  else 0

/-- An anchor's fields written on an ACTIVE remote (R465). -/
def repointed (before s : State) (c : Nat) (subs : List Nat) : State :=
  if subs.contains 3 ∨ subs.contains 4 then
    anchorRepoint s c (before.rd (Obj.anchorFdev c)) (before.rd (Obj.anchorConf c))
  else s

/-- The handle quotas sum to at most 65,536 (R156). -/
def quotaAbort (s : State) : Nat :=
  if 65536 < ((List.range 4).map (fun i => s.rd (key 0x7510 (i + 1) 0))).sum then Abort.inconsistent else 0

/-- What ties the fields of a touched record together, and what a record as a whole sets off. -/
def recordCheck (before : State) (s : State) (ix el : Nat) (subs : List Nat) : Nat × State :=
  let plain := fun (a : Nat) (t : State) => if a ≠ 0 then (a, s) else (0, t)
  let counters := subs.all (fun b => (attrOf ix b).any Attr.counter)
  if counters then (0, s)
  else if 0x2100 ≤ ix ∧ ix ≤ 0x2140 ∨ ix = 0xA600 then legPost s ix el
  else if ix = 0x2200 then
    (if subs = [1] then (0, s) else plain (confPost s ix el).1 (repointed before s el subs))
  else if ix = 0x6300 then plain (rctxPost s el) s
  else if ix = 0x7100 then plain (rateBounds s el subs) s
  else if ix = 0x7300 then plain (shaperCheck s el) (shaperReset s el)
  else if ix = 0x7510 then plain (quotaAbort s) s
  else if 0x7700 ≤ ix ∧ ix ≤ 0x7701 then (0, portReset s (ix - 0x7700))
  else if 0x7710 ≤ ix ∧ ix ≤ 0x774F then plain (groupCheck s (ix - 0x7710)) (groupReset s (ix - 0x7710))
  else if 0xA010 ≤ ix ∧ ix ≤ 0xA020 then plain (fabricRelations s ix) s
  else if 0xC100 ≤ ix ∧ ix ≤ 0xC103 then pulseWrite s (ix - 0xC100)
  else if ix = 0xD030 then plain (powerRelations s ix) s
  else (0, s)

/-- The records fields belong to: index, element, the sub-indexes written; each once. -/
def touched : List FieldWrite → List (Nat × Nat × List Nat)
  | [] => []
  | w :: r =>
    let t := touched r
    match t.find? (fun x => decide (x.1 = w.ix) && decide (x.2.1 = w.el)) with
    | some x => (w.ix, w.el, w.sub :: x.2.2) :: t.filter (fun y => !(decide (y.1 = w.ix) && decide (y.2.1 = w.el)))
    | none => (w.ix, w.el, [w.sub]) :: t

/-- The touched records checked one after the other. -/
def recordChecks (before : State) : List (Nat × Nat × List Nat) → State → Nat × State
  | [], s => (0, s)
  | x :: r, s =>
    match recordCheck before s x.1 x.2.1 x.2.2 with
    | (0, t) => recordChecks before r t
    | y => y

/-- An abort of type and range (R37 step 7): error group 2 of R61. -/
def isRange (a : Nat) : Bool := decide (a / 0x10000 % 256 = 2)

/-- The part of type and range that ties the fields of a record together: the record's own check on the values as they would
stand, before any check of device state or resources. -/
def rangeTogether (c : WCtx) (s : State) (ws : List FieldWrite) : Nat :=
  let a := (recordChecks s (touched ws) (ws.foldl (fun t w => (store c t w).2) s)).1
  if isRange a then a else 0

/-- Fields written together (R49): all or none, the checks in the order of R37. A refused single write keeps what its refusal
itself does, such as the use of a token. -/
def writeNow (c : WCtx) (s : State) (ws : List FieldWrite) : Nat × State :=
  let a := firstAbort [firstAbort (ws.map (fieldAbort s c)), rangeTogether c s ws]
  if a ≠ 0 then (a, s)
  else match objectWrites c ws s with
  | (0, t) =>
    match recordChecks s (touched ws) t with
    | (0, u) => (0, u)
    | (b, _) => (b, s)
  | (b, t) => (b, if ws.length = 1 then t else s)

/-! ### Writes of a group that wait (R57) -/

/-- The field a deferred write stands for. -/
def lateField (e : Nat × Nat × Payload) : Option FieldWrite :=
  (attrOf (e.1 / 0x100000000) (e.1 / 0x1000000 % 256)).map (fun a =>
    ⟨e.1 / 0x100000000, e.1 / 0x1000000 % 256, e.1 % 0x1000000, e.2.1, a, e.2.2⟩)

/-- Fields that passed every check at acceptance, applied in order (R56): one the hardware has overtaken since changes nothing. -/
def lateFields (c : WCtx) : List FieldWrite → State → State
  | [], s => s
  | w :: r, s =>
    match objectWrite c s w with
    | (0, t) => lateFields c r t
    | _ => lateFields c r s

/-- What the touched records set off as wholes. -/
def lateRecords (before : State) : List (Nat × Nat × List Nat) → State → State
  | [], s => s
  | x :: r, s =>
    match recordCheck before s x.1 x.2.1 x.2.2 with
    | (0, t) => lateRecords before r t
    | _ => lateRecords before r s

/-- The writes of a group that waited for its instant take effect, all at once and without further refusal (R56, R57). -/
def applyOthers (s : State) (d : Deferred) : State :=
  let ws := d.others.filterMap lateField
  let ch := (d.notify.map Prod.fst).getD .fw
  let keys := (ws.filter (fun w => decide (w.ix = 0x8100) && (decide (w.sub = 2) || decide (w.sub = 3)))).map FieldWrite.el
  let suites := (ws.filter (fun w => decide (w.ix = 0x8100) && decide (w.sub = 1))).map (fun w => (w.el, w.data.value))
  let c : WCtx := ⟨ch, .operator, 0, true, false, false, true, s.tod, s.tod, keys, suites.reverse, none, false⟩
  lateRecords s (touched ws) (lateFields c ws s)

/-- Accepted groups hold writes that wait for their instant. -/
def hasOthers (s : State) : Bool := s.ctl.deferred.any (fun d => !d.others.isEmpty)

/-- The device as the waiting writes of accepted groups will leave it. What they take counts as taken (R4, R56): a later request is
accepted only if it could be accepted here too, so that a group is not refused at its instant. -/
def laterView (s : State) : State :=
  s.ctl.deferred.foldl applyOthers { s with ctl := { s.ctl with
    deferred := s.ctl.deferred.map (fun (d : Deferred) => { d with others := [] }) } }

/-- Fields written together: refused too where the groups that wait leave no room for them. -/
def writeAll (c : WCtx) (s : State) (ws : List FieldWrite) : Nat × State :=
  match writeNow c s ws with
  | (0, t) =>
    let later := if hasOthers s && !c.twin then (writeNow c (laterView s) ws).1 else 0
    if later ≠ 0 then (later, s) else (0, t)
  | x => x

end Sys2Proof.Machine
end

