-- ==== Sys2Proof/Machine/Dict.lean ====
section
/-! DEFINITION. The dictionary server (R35 to R60, R384): requests of every operation, groups, runs, the persistent image, deferred
effects, the journal's part in them, and responses on each transport. -/

namespace Sys2Proof.Machine

/-! ### Channels and responses -/

/-- A channel exists: a mailbox pair, an open DTP exchange, a peer of the fabric, the bridge's own firmware. -/
def chanValid (s : State) : Chan → Bool
  | .mbx n => decide (n < 64)
  | .dtp d => s.ctl.dtp.any (fun x => decide (x.id = d))
  | .peer f => decide (f < 512)
  | .fw => true

/-- The words of a message of the fabric: header and data. -/
def Resp.fabricWords (r : Resp) : List Nat :=
  [r.op * 0x1000000 + r.words % 16 * 0x100000 + r.flags % 16 * 0x10000 + r.tag % 0x10000, r.word1,
    r.group % 256 * 0x1000000 + r.element % 0x1000000, r.abort] ++ (List.range (ceilDiv r.element 4)).map (dataWord r.data)

/-- A response put among those kept, highest sequence number first. -/
def keepResp (e : Nat × Resp) : List (Nat × Resp) → List (Nat × Resp)
  | [] => [e]
  | x :: r => if x.1 < e.1 then e :: x :: r else if x.1 = e.1 then e :: r else x :: keepResp e r

/-- The response of a DTP request is sent under the session's key and kept with those to the last 64 sequence numbers (Table 2.8,
R46, R409). -/
def dtpReply (s : State) (d seq : Nat) (r : Resp) : State :=
  match s.ctl.dtp.find? (fun x => decide (x.id = d)) with
  | none => s
  | some x =>
    let kept := (keepResp (seq, r) x.kept).take 64
    let y := { x with
      kept := kept
      executing := x.executing - 1 }
    ({ s with ctl := { s.ctl with dtp := s.ctl.dtp.map (fun (e : DtpSession) => if e.id = d then y else e) } }).emit (.dtp d seq 1 r.element r x.key)

/-- A response sent on its channel; a device that has been reset answers nothing. -/
def reply (s : State) (ch : Chan) (seq : Nat) (r : Resp) : State :=
  if ¬ s.running then s
  else match ch with
    | .mbx n => s.mailResponse n r
    | .dtp d => dtpReply s d seq r
    | .peer f => s.fabSend f (.dictResp r.fabricWords)
    | .fw => s

/-! ### The parts of a WRITE -/

/-- Part of the octets of a payload; only numbers have parts. -/
def slice (d : Payload) (off len : Nat) : Payload :=
  match d with
  | .num v => .num (v / 256 ^ off % 256 ^ len)
  | x => x

/-- The context of a request accepted at an instant of TimeOfDay. -/
def ctxAt (s : State) (ch : Chan) (p : Principal) (r : Req) (seq accept : Nat) : WCtx := {
  chan := ch
  prin := p
  frost := s.rd Obj.frost
  inGroup := decide (r.group ≠ 0)
  shadow := r.shadow
  mixAll := false
  now := false
  mixDue := mixBoundary accept
  tickDue := tickAfter accept
  withKey := []
  withSuite := []
  notify := if ch = .fw then none else some (ch, r, seq)
  twin := false }

/-- The fields of a record a principal may write. -/
def writable (s : State) (p : Principal) (ix : Nat) : List (Nat × Attr) :=
  (recFields ix).filter (fun f => decide (accessAbort s p f.2 ix f.1 = 0))

/-- A record's fields with their places in its WHOLE form. -/
def placed : List (Nat × Attr) → Nat → List (Nat × Attr × Nat)
  | [], _ => []
  | f :: r, off => (f.1, f.2, off) :: placed r (off + f.2.len)

/-- A WHOLE write that includes a MIX_FRAME field takes effect at the boundary all at once (R32). -/
def wholeMix (s : State) (p : Principal) (r : Req) : Bool :=
  r.whole && (writable s p r.index).any (fun f => decide (f.2.effect = .mixFrame))

/-- The fields written for element `i` of a request's run (R32, R33). -/
def elementWrites (s : State) (p : Principal) (r : Req) (d : Payload) (i : Nat) : List FieldWrite :=
  let el := r.element + i
  match attrOf r.index r.sub with
  | some a =>
    if r.count ≤ 1 then [⟨r.index, r.sub, el, r.length, a, slice d 0 (min r.length 4096)⟩]
    else [⟨r.index, r.sub, el, a.len, a, slice d (i * a.len) a.len⟩]
  | none =>
    let base := i * wholeLen r.index
    ((placed (recFields r.index) 0).filter (fun f => decide (accessAbort s p f.2.1 r.index f.1 = 0))).map
      (fun f => ⟨r.index, f.1, el, f.2.1.len, f.2.1, slice d (base + f.2.2) f.2.1.len⟩)

/-- The first field a request writes, whose own checks come first. -/
def firstField (s : State) (p : Principal) (r : Req) (d : Payload) : Option FieldWrite :=
  match attrOf r.index r.sub with
  | some a => some ⟨r.index, r.sub, r.element, r.length, a, d⟩
  | none => (writable s p r.index).head?.map (fun f => ⟨r.index, f.1, r.element, f.2.len, f.2, .num 0⟩)

/-- LENGTH against type, run and transport (R33, R43). -/
def lengthAbort (r : Req) (d : Payload) (room : Nat) : Nat :=
  let n := max 1 r.count
  let numeric := match d with
    | .num _ => true
    | _ => false
  let bad : Bool := match attrOf r.index r.sub with
    | some a => decide (1 < r.count) && (decide (r.length ≠ n * a.len) || !numeric)
    | none => decide (r.length ≠ n * wholeLen r.index) || !numeric
  if bad ∨ (¬ r.indirect ∧ room < r.length) then Abort.lengthMismatch else 0

/-- The checks of a WRITE as a whole, before its values are looked at (R32, R33, R37). -/
def writePrelim (s : State) (c : WCtx) (r : Req) (d : Payload) (room : Nat) : Nat :=
  let e := existsAbort r.index r.sub
  if e ≠ 0 then e
  else if addressAbort r ≠ 0 then addressAbort r
  else if (attrOf r.index r.sub).isNone ∧ ¬ r.whole then Abort.writeDenied
  else match firstField s c.prin r d with
    | none => Abort.writeDenied
    | some w => firstAbort [accessAbort s c.prin w.attr w.ix w.sub, frostAbort c.frost w, shadowAbort c w, lifecycleAbort s w.ix,
        lengthAbort r d room]

/-- A run of elements (R49): atomic per element; the first that fails ends it, with its offset. -/
def writeRun (c : WCtx) (r : Req) (d : Payload) : List Nat → State → Nat × Nat × State
  | [], s => (0, 0, s)
  | i :: rest, s =>
    match writeAll c s (elementWrites s c.prin r d i) with
    | (0, t) => writeRun c r d rest t
    | (a, t) => (a, i, t)

/-! ### The persistent image (R65) -/

/-- Octets of a record of the image. -/
def imageRecord (e : Nat × Nat) : List Nat :=
  recordOctets e.1 (octets (((attrOf (e.1 / 0x100000000) (e.1 / 0x1000000 % 256)).map Attr.len).getD 0) e.2)

/-- The octets of an image's records, that of the classifier image in its place. -/
def persistRecords (recs : List (Nat × Nat)) (cls : Option Image) : List Nat :=
  let k := key 0x2030 0 0
  (recs.takeWhile (fun e => decide (e.1 < k))).flatMap imageRecord ++ recordOctets k (classifierOctets cls) ++
    (recs.dropWhile (fun e => decide (e.1 < k))).flatMap imageRecord

/-- The digest of the image's records that are not LOCAL. -/
def imageDigest (recs : List (Nat × Nat)) (cls : Option Image) : Nat :=
  crc crc64 (persistRecords (recs.filter (fun e => !(attrOf (e.1 / 0x100000000) (e.1 / 0x1000000 % 256)).any Attr.loc)) cls)

/-- The writes an image amounts to: a record equal to the value in force writes nothing. DESIGN CHOICE: a record that names an object
that is not PERSIST is written like any other, and one that names no object refuses the image with NO_OBJECT. -/
def imageWrites (s : State) (recs : List (Nat × Nat)) (cls : Option Image) : Nat × List FieldWrite :=
  let ws := recs.filterMap (fun e =>
    let ix := e.1 / 0x100000000
    let sub := e.1 / 0x1000000 % 256
    match attrOf ix sub with
    | none => none
    | some a => if s.rd e.1 = e.2 then none else some (FieldWrite.mk ix sub (e.1 % 0x1000000) a.len a (.num e.2)))
  let img := match cls, attrOf 0x2030 0 with
    | some i, some a => if s.le.classifier = some i then [] else [FieldWrite.mk 0x2030 0 0 i.octs.length a (.image i)]
    | _, _ => []
  let unknown := recs.any (fun e => (attrOf (e.1 / 0x100000000) (e.1 / 0x1000000 % 256)).isNone)
  (if unknown then Abort.noObject else 0, ws ++ img)

/-- PERSIST_IMAGE_WRITE (R65): its digest right, on a device that takes writes (R60), accepted in SPRING with no media-active leg,
applied as one group. -/
def persistWrite (c : WCtx) (s : State) (d : Payload) : Nat × State :=
  match d with
  | .persist recs cls dig =>
    if imageDigest recs cls ≠ dig then (Abort.inconsistent, s)
    else if 2 ≤ s.role ∧ (c.prin = .host ∨ c.prin = .operator) ∧ ¬ c.twin then (Abort.standby, s)
    else if s.season ≠ .spring ∨ s.le.legs.any (fun e => decide (e.2.stage = .active)) then (Abort.relation, s)
    else
      let (a, ws) := imageWrites s recs cls
      if a ≠ 0 then (a, s)
      else match writeAll { c with inGroup := true } s ws with
        | (0, t) => (0, t)
        | (b, _) => (b, s)
  | _ => (Abort.inconsistent, s)

/-! ### A plain WRITE -/

/-- The instant a WRITE's response carries (R53, R54): that of a boundary or of a commit's tick. -/
def writeInstant (s : State) (c : WCtx) (r : Req) : Option Nat :=
  if r.index = 0x5210 ∨ r.index = 0x5620 then some c.tickDue
  else if wholeMix s c.prin r ∨ (attrOf r.index r.sub).any (fun a => decide (a.effect = .mixFrame)) then some c.mixDue
  else none

/-- A plain WRITE: the abort, the offset at which a run failed, the state, the instant of a deferred effect. -/
def writePlain (c0 : WCtx) (s : State) (r : Req) (d : Payload) (room : Nat) : Nat × Nat × State × Option Nat :=
  let c := { c0 with
    mixAll := wholeMix s c0.prin r
    withKey := if r.index = 0x8100 ∧ r.whole then r.elems else [] }
  let a := writePrelim s c r d room
  if a ≠ 0 then (a, 0, s, none)
  else if r.index = 0x1030 then
    let (b, t) := persistWrite c s d
    (b, 0, t, none)
  else
    let (b, i, t) := writeRun c r d (List.range (max 1 r.count)) s
    (b, i, t, writeInstant s c r)

/-! ### Groups (R51, R52, R57) -/

/-- The group of a number that a channel may use: open, opened on this channel (R51). -/
def groupOf (s : State) (ch : Chan) (g : Nat) : Option Group := s.ctl.groups.find? (fun x => decide (x.num = g) && decide (x.chan = ch))

/-- A group replaced. -/
def setGroup (s : State) (g : Group) : State :=
  { s with ctl := { s.ctl with groups := s.ctl.groups.map (fun (x : Group) => if x.num = g.num then g else x) } }

/-- GROUP_OPEN: the number that has been free longest. -/
def groupOpen (s : State) (ch : Chan) : Nat × Nat × State :=
  match s.ctl.freeGroups with
  | [] => (Abort.noGroup, 0, s)
  | n :: r =>
    let g : Group := ⟨n, ch, (s.sessionOf ch).map OpSession.id, [], 0, s.mono⟩
    (0, n, { s with ctl := { s.ctl with
      groups := s.ctl.groups ++ [g]
      freeGroups := r } })

/-- A WRITE staged in a group: its index exists (R40), at most 1,024 writes and 256 KiB, no token (R51). -/
def stage (s : State) (ch : Chan) (r : Req) (d : Payload) (room : Nat) : Nat × State :=
  match groupOf s ch r.group with
  | none => (Abort.groupUnknown, s)
  | some g =>
    let s1 := setGroup s { g with lastUse := s.mono }
    if existsAbort r.index r.sub = Abort.noObject then (Abort.noObject, s1)
    else if tokenIndex r.index then (Abort.notGroupable, s1)
    else if ¬ r.indirect ∧ room < r.length then (Abort.lengthMismatch, s1)
    else if 1024 ≤ g.writes.length ∨ 262144 < g.octets + r.length then (Abort.groupFull, s1)
    else (0, setGroup s { g with
      lastUse := s.mono
      writes := g.writes ++ [⟨r, d⟩]
      octets := g.octets + r.length })

/-- A group closed; its number is the last to be reused. -/
def groupClose (s : State) (n : Nat) : State := s.dropGroups (fun g => decide (g.num = n))

/-- Commit objects stand in a group for the sets and layers they commit. -/
def commitIndex (ix : Nat) : Bool := decide (ix = 0x5210) || decide (ix = 0x5620)

/-- One staged write on the trial state: its checks, its effect, and the fields it wrote. -/
def stagedWrite (c0 : WCtx) (s : State) (w : Staged) : Nat × State × List FieldWrite :=
  let c := { c0 with
    shadow := w.req.shadow
    mixAll := wholeMix s c0.prin w.req }
  let a := writePrelim s c w.req w.data w.req.length
  if a ≠ 0 then (a, s, [])
  else if w.req.index = 0x1030 then
    let (b, t) := persistWrite c s w.data
    (b, t, [])
  else
    let ws := (List.range (max 1 w.req.count)).flatMap (elementWrites s c.prin w.req w.data)
    let acts := ws.filter (fun x => !commitIndex x.ix)
    let b := firstAbort ((ws.filter (fun x => commitIndex x.ix)).map (fieldAbort s c))
    if b ≠ 0 then (b, s, [])
    else
      let (e, t) := writeFields c acts s
      (e, t, ws)

/-- The fields a staged write stands for. -/
def stagedFields (c : WCtx) (s : State) (w : Staged) : List FieldWrite :=
  (List.range (max 1 w.req.count)).flatMap (elementWrites s c.prin w.req w.data)

/-- The fields belong to a record. -/
def inRecord (fs : List FieldWrite) (x : Nat × Nat × List Nat) : Bool := fs.any (fun w => decide (w.ix = x.1) && decide (w.el = x.2.1))

/-- The staged writes in order on a trial state, each with the checks of the records no later write touches: the first abort and its
position. `recs` are the records the group touches. -/
def trial (c : WCtx) (before : State) (recs : List (Nat × Nat × List Nat)) : List Staged → Nat → State →
    Nat × Nat × State × List FieldWrite
  | [], n, s => (0, n, s, [])
  | w :: r, n, s =>
    match stagedWrite c s w with
    | (0, t, ws) =>
      let later := r.flatMap (stagedFields c before)
      match recordChecks before (recs.filter (fun x => inRecord ws x && !inRecord later x)) t with
      | (0, u) =>
        let (a, m, v, vs) := trial c before recs r (n + 1) u
        (a, m, v, ws ++ vs)
      | (a, _) => (a, n, s, [])
    | (a, _, _) => (a, n, s, [])

/-- Slots whose key a group writes. -/
def groupKeys (ws : List Staged) : List Nat :=
  (ws.filter (fun w => decide (w.req.index = 0x8100) && (decide (w.req.sub = 2) || decide (w.req.sub = 3) || w.req.whole))).flatMap
    (fun w => w.req.elems)

/-- The suites a group gives to slots, the last first. -/
def groupSuites (ws : List Staged) : List (Nat × Nat) :=
  (ws.filter (fun w => decide (w.req.index = 0x8100) && (decide (w.req.sub = 1) || w.req.whole))).reverse.flatMap
    (fun w => w.req.elems.zipIdx.map (fun e => (e.1, w.data.value / 256 ^ (e.2 * (if w.req.whole then wholeLen 0x8100 else 1)) % 256)))

/-- A field written by a staged write is of the TICK class, or commits. -/
def FieldWrite.isTick (w : FieldWrite) : Bool := (decide (w.attr.effect = .tick) && !w.attr.counter) || commitIndex w.ix

/-- Sets one of whose canvases, by the shadow settings or the active ones, is `v`. -/
def setsOf (s : State) (v : Nat) : List Nat :=
  let t := shadowView s
  let all := ((s.shadow ++ s.dict).filter (fun e => decide (e.1 / 0x100000000 = 0x5200))).map (fun e => e.1 % 0x1000000)
  all.eraseDups.filter (fun c => (canvasesOf t c).contains v || (canvasesOf s c).contains v)

/-- The sets a group's TICK-class writes touch. -/
def touchedSets (s : State) (ws : List FieldWrite) : List Nat :=
  (ws.flatMap (fun w =>
    if w.ix = 0x5200 ∨ w.ix = 0x5210 then [w.el]
    else if w.ix = 0x5110 ∨ (0x5300 ≤ w.ix ∧ w.ix ≤ 0x533E) then setsOf s w.el
    else [])).eraseDups

/-- The writes of a group that wait for its instant beside its TICK-class settings. -/
def otherWrites (ws : List FieldWrite) : List (Nat × Nat × Payload) :=
  (ws.filter (fun w => !w.isTick)).map (fun w => (key w.ix w.sub w.el, w.len, w.data))

/-- The position of the write a refused commit answers for: the last one that touches the first set whose commit alone is refused, else
the last that belongs to the commit. -/
def commitFault (c : WCtx) (s sh : State) (ws : List Staged) (fs : List FieldWrite) : Nat :=
  let bad := (touchedSets sh fs).find? (fun v => decide ((tickCommit sh [v] (fun _ => false) [] c.tickDue c.notify).1 ≠ 0))
  let hit := fun (w : Staged) => let gs := (stagedFields c s w).filter FieldWrite.isTick
    match bad with
    | some v => (touchedSets sh gs).contains v
    | none => !gs.isEmpty
  ws.length - 1 - (ws.reverse.findIdx? hit).getD 0

/-- GROUP_COMMIT's application (R52, R57): all writes or none. The abort, the position that failed, the state, the instant. -/
def groupTry (c0 : WCtx) (s : State) (ws : List Staged) : Nat × Nat × State × Option Nat :=
  let c := { c0 with
    inGroup := true
    withKey := groupKeys ws
    withSuite := groupSuites ws }
  match trial c s (touched (ws.flatMap (stagedFields c s))) ws 0 s with
  | (0, _, u, fs) =>
    if fs.any FieldWrite.isTick then
      let sh := { s with shadow := u.shadow }
      let keys := (fs.filter (fun w => w.isTick && !commitIndex w.ix)).map (fun w => key w.ix w.sub w.el)
      let ops := (fs.filter (fun w => decide (w.ix = 0x5620))).map FieldWrite.el
      let extra := fun (k : Nat) => keys.contains k || ops.any (fun v => opLayerKey v k)
      match commit sh (touchedSets sh fs) extra (otherWrites fs) c.tickDue c.notify with
      | (0, v) => (0, 0, v, some c.tickDue)
      | (a, _) => (a, commitFault c s sh ws fs, s, none)
    else if fs.any (fun w => decide (w.attr.effect = .mixFrame)) then
      (0, 0, { s with ctl := { s.ctl with deferred := s.ctl.deferred ++
        [⟨c.mixDue, false, [], [], [], [], c.notify, otherWrites fs⟩] } }, some c.mixDue)
    else (0, 0, u, none)
  | (a, n, _, _) => (a, n, s, none)

/-- GROUP_COMMIT against the device as it is and as the groups that wait will leave it. -/
def groupApply (c : WCtx) (s : State) (ws : List Staged) : Nat × Nat × State × Option Nat :=
  match groupTry c s ws with
  | (0, n, t, i) =>
    if hasOthers s && !c.twin then
      match groupTry c (laterView s) ws with
      | (0, _, _, _) => (0, n, t, i)
      | (a, m, _, _) => (a, m, s, none)
    else (0, n, t, i)
  | x => x

/-! ### One request carried out -/

/-- What carrying out a request gave: its response, the state, whether something was applied, the staged writes or the elements
that were, the instant of a deferred effect. -/
structure Done where
  resp : Resp
  st : State
  applied : List Staged
  instant : Option Nat
deriving DecidableEq, Repr

/-- A request refused. -/
def refused (s : State) (r : Req) (a : Nat) : Done := ⟨respond r a 0 0, s, [], none⟩

/-- The data of a response that carries an instant (R53, R54). -/
def instantData (i : Option Nat) : Nat × Nat :=
  match i with
  | some t => (time80 t, 10)
  | none => (0, 0)

/-- One request carried out under a principal, accepted at an instant, with the room its transport has for inline data. -/
def carryOut (s : State) (ch : Chan) (p : Principal) (r : Req) (d : Payload) (seq accept room : Nat) : Done :=
  let c := ctxAt s ch p r seq accept
  match r.op with
  | 1 =>
    let (x, t) := readServe s ch p r
    ⟨x, t, [], none⟩
  | 2 =>
    if r.group ≠ 0 then
      let (a, t) := stage s ch r d room
      ⟨respond r a 0 0, t, [], none⟩
    else
      let (a, i, t, at_) := writePlain c s r d room
      if a = 0 then
        let (v, n) := instantData at_
        ⟨respond r 0 v n, t, [⟨r, d⟩], at_⟩
      else ⟨if 1 < r.count then respond r a i 4 else respond r a 0 0, t, if i = 0 then [] else [⟨{ r with
        count := i
        length := r.length / max 1 r.count * i }, d⟩], at_⟩
  | 3 => ⟨describeServe r, s, [], none⟩
  | 4 =>
    let (a, n, t) := groupOpen s ch
    ⟨if a = 0 then respond r 0 n 4 else respond r a 0 0, t, [], none⟩
  | 5 =>
    match groupOf s ch r.group with
    | none => refused s r Abort.groupUnknown
    | some g =>
      let (a, i, t, at_) := groupApply c s g.writes
      if a = 0 then
        let (v, n) := instantData at_
        ⟨respond r 0 v n, groupClose t r.group, g.writes, at_⟩
      else ⟨respond r a i 4, groupClose s r.group, [], none⟩
  | _ =>
    match groupOf s ch r.group with
    | none => refused s r Abort.groupUnknown
    | some _ => ⟨respond r 0 0 0, groupClose s r.group, [], none⟩

/-! ### The journal's part (R353, R354) -/

/-- A write of an object the active journals: not LOCAL, not of 0xB000 to 0xBFFF, no counter, not OperatorSession, not the TwinKek
slot's. -/
def journaled (s : State) (w : Staged) : Bool :=
  let rows := rowsOf w.req.index
  let a := attrOf w.req.index w.req.sub
  decide (w.req.index / 4096 ≠ 0xB) && decide (w.req.index ≠ 0x1060) && !rows.all (fun x => x.loc) && !a.any (fun x => x.loc || x.counter) &&
    !(decide (w.req.index = 0x8100) && decide (some w.req.element = s.kekSlot) && decide (w.req.count ≤ 1))

/-- Material as a KEY entry holds it: wrapped under TwinKek (R139, R354). -/
def twinWrap (t : State) (suite m : Nat) : Wrapped := wrapKey ((t.kekSlot.bind t.material).getD 0) suite m

/-- A staged write puts material into key slots. -/
def Staged.isKey (w : Staged) : Bool := decide (w.req.index = 0x8100) && (decide (w.req.sub = 2) || decide (w.req.sub = 3) || w.req.whole)

/-- The journal entries of an applied write; a key goes under TwinKek. `t` is the state after it. -/
def journalBodies (t : State) (w : Staged) : List JBody :=
  if w.isKey then
    (w.req.elems.filter (fun k => decide (some k ≠ t.kekSlot))).map (fun k =>
      let suite := t.rd (Obj.kSuite k)
      JBody.key k suite (t.rd (Obj.kGen k)) (twinWrap t suite ((t.material k).getD 0)))
  else [.write w.req w.data]

/-- The journal entry of one field of a key slot that waits for its instant: material as the write itself brings it, for the suite its
group gives the slot; every other field as it is. -/
def waitingKey (t : State) (suites : List (Nat × Nat)) (sub_ k len : Nat) (d : Payload) : JBody :=
  let suite := ((suites.find? (fun x => decide (x.1 = k))).map Prod.snd).getD (t.rd (Obj.kSuite k))
  let gen := (t.rd (Obj.kGen k) + 1) % 65536
  match sub_ with
  | 2 => .key k suite gen (twinWrap t suite d.value)
  | 3 => .key k suite gen (twinWrap t suite ((unwrapKey ((t.material (t.rd (Obj.kKek k))).getD 0) suite (d.asWrapped len)).getD 0))
  | _ => .write ⟨2, 0, 0, 0, 0x8100, sub_, 1, 0, k, len⟩ d

/-- The journal entries of a write that waits for its instant. -/
def waitingBodies (t : State) (suites : List (Nat × Nat)) (w : Staged) : List JBody :=
  if w.isKey then
    (((List.range (max 1 w.req.count)).flatMap (elementWrites t .operator w.req w.data)).filter (fun f => decide (some f.el ≠ t.kekSlot))).map
      (fun f => waitingKey t suites f.sub f.el f.len f.data)
  else [.write w.req w.data]

/-- Code of a principal in APPLY. -/
def Principal.code : Principal → Nat
  | .host => 0 | .operator => 1 | .peer => 2 | .firmware => 3

/-- The entries of a request followed by its APPLY. -/
def journalAll (s : State) (bodies : List JBody) (instant : Option Nat) (p : Principal) : State :=
  if bodies.isEmpty then s
  else
    let first := s.tw.nextJseq
    (bodies.foldl State.journal s).journal (.apply (instant.getD 0) p.code first)

/-- The entries a carried-out request is journaled with. -/
def doneBodies (s : State) (x : Done) : List JBody :=
  (x.applied.filter (journaled s)).flatMap (if x.instant.isSome then waitingBodies x.st (groupSuites x.applied) else journalBodies x.st)

/-! ### Demand (R382, R384) -/

/-- A write that enables an engine's context or activates a leg. -/
def enables (w : Staged) : Bool :=
  (decide (w.req.index = 0x2101) && decide (w.data = .num 2)) ||
    ((decide (w.req.index = 0x4200) || decide (w.req.index = 0x6200) || decide (w.req.index = 0x6300)) && decide (w.req.sub = 1) &&
      decide (w.data = .num 1)) ||
    decide (w.req.index = 0x5210)

/-- The effect of what was carried out needs a gated engine: an enable, an activation, or a tick commit that leaves a set
enabled. -/
def needsSummer (x : Done) : Bool :=
  x.applied.any enables || x.st.ctl.deferred.any (fun d => d.isTick && d.writes.any (fun w =>
    decide (w.1 / 0x1000000 = 0x520001) && decide (w.2 = .num 1)))

/-! ### The serial order -/

/-- A request held behind the others. -/
def hold (s : State) (q : HeldReq) : State := { s with pw := { s.pw with held := s.pw.held ++ [q] } }

/-- A request of a kind that is always carried out at once. -/
def immediate (r : Req) : Bool := decide (r.op ≠ 2 ∧ r.op ≠ 5) || (decide (r.op = 2) && decide (r.group ≠ 0))

/-- The room for inline data: what is carried by INDIRECT has all it needs. -/
def roomOf (ch : Chan) (r : Req) : Nat := if r.indirect then r.length else inlineRoom ch r.words

/-- The longest time until an entry is committed or its standby lost (R355). -/
def commitNs : Nat := 400000

/-- A request carried out on a device whose entries are committed at once: applied, journaled, answered. In SPRING one that passes
its checks and needs a gated engine waits for SUMMER (R384). -/
def finish (s : State) (ch : Chan) (p : Principal) (r : Req) (d : Payload) (seq : Nat) : State :=
  let x := carryOut s ch p r d seq s.tod (roomOf ch r)
  if s.season = .spring ∧ x.resp.abort = 0 ∧ needsSummer x ∧ ¬ immediate r then
    (hold s ⟨ch, r, d, p, seq⟩).demand
  else
    let t := if s.role = 1 then journalAll x.st (doneBodies s x) x.instant p else x.st
    reply t ch seq x.resp

/-- The requests of a protected active in their serial order (R354); `fuel` bounds them. -/
def drainRequests : Nat → State → State
  | 0, s => s
  | n + 1, s =>
    match s.tw.requests with
    | [] => s
    | q :: rest =>
      let popped := { s with tw := { s.tw with requests := rest } }
      match q.last with
      | some j =>
        if s.committed j then
          let x := carryOut popped q.chan q.prin q.req q.data q.dtpSeq q.accept (roomOf q.chan q.req)
          drainRequests n (reply x.st q.chan q.dtpSeq x.resp)
        else s
      | none =>
        let x := carryOut popped q.chan q.prin q.req q.data q.dtpSeq (s.tod + commitNs) (roomOf q.chan q.req)
        let bodies := doneBodies popped x
        if bodies.isEmpty then
          let y := carryOut popped q.chan q.prin q.req q.data q.dtpSeq s.tod (roomOf q.chan q.req)
          drainRequests n (reply y.st q.chan q.dtpSeq y.resp)
        else
          let t := journalAll popped bodies x.instant q.prin
          drainRequests n { t with tw := { t.tw with
            requests := { q with
              last := some t.lastJseq
              accept := s.tod + commitNs } :: rest } }

/-- The waiting requests carried as far as they go. -/
def drain (s : State) : State := drainRequests (2 * s.tw.requests.length + 1) s

/-- An earlier request of the channel waits for SUMMER or the end of a thaw. -/
def heldBehind (s : State) (ch : Chan) : Bool := s.pw.held.any (fun q => decide (q.chan = ch))

/-- A request in the serial order: behind an earlier one of its channel, behind the waiting ones of a protected active, else carried
out (R48). -/
def enter (s : State) (ch : Chan) (p : Principal) (r : Req) (d : Payload) (seq : Nat) : State :=
  if heldBehind s ch then hold s ⟨ch, r, d, p, seq⟩
  else if s.isProtected ∨ ¬ s.tw.requests.isEmpty then
    drain { s with tw := { s.tw with requests := s.tw.requests ++ [JReq.mk ch r d p seq none 0] } }
  else finish s ch p r d seq

/-- A DTP session on which no OPERATOR session is open takes only the write that opens one (R45). -/
def dtpClosed (s : State) (ch : Chan) (r : Req) : Bool :=
  match ch with
  | .dtp d => (s.sessionOf (.dtp d)).isNone && !(decide (r.op = 2) && decide (r.index = 0x1060))
  | _ => false

/-- An INDIRECT transfer starts (R43, R48): a READ's value is taken now; a WRITE's octets are fetched first. -/
def startTransfer (s : State) (ch : Chan) (p : Principal) (r : Req) (addr : Nat) : State :=
  if r.op = 1 ∧ heldBehind s ch then hold s ⟨ch, r, .num addr, p, 0⟩
  else if r.op = 1 then
    match readServe s ch p r with
    | (x, t) =>
      if x.abort ≠ 0 then reply t ch 0 x
      else { t with hif := { t.hif with xfers := t.hif.xfers ++ [⟨ch, r, p, true, addr, .num x.data, x.element, t.mono⟩] } }
  else { s with hif := { s.hif with xfers := s.hif.xfers ++ [⟨ch, r, p, false, addr, .num 0, r.length, s.mono⟩] } }

/-- A request taken by the running control cluster: the message checks, then its operation (R37). -/
def takeRequest (s : State) (ch : Chan) (p : Principal) (r : Req) (d : Payload) (seq : Nat) : State :=
  let m := messageAbort ch r
  if m ≠ 0 then reply s ch seq (respond r m 0 0)
  else if dtpClosed s ch r then reply s ch seq (respond r Abort.noSession 0 0)
  else if r.indirect then startTransfer s ch p r (d.value % 2 ^ 64)
  else enter s ch p r d seq

/-- A request on a channel (R58): in WINTER it thaws the device and is taken afterwards; in MIDWINTER the dictionary is out of
reach. -/
def dictDeliver (s : State) (ch : Chan) (r : Req) (d : Payload) (seq : Nat) : State :=
  if !chanValid s ch then s
  else if s.running then takeRequest s ch (s.principal ch) r d seq
  else if s.season = .winter then
    (hold s ⟨ch, r, d, s.principal ch, seq⟩).wake .mailbox
  else s

/-- The place of a channel among those whose requests are taken in one instant (R48). -/
def chanRank : Chan → Nat
  | .mbx n => n
  | .dtp d => 0x100 + d
  | .peer f => 2 ^ 64 + f
  | .fw => 2 ^ 65

/-- A held request put before those of later channels, behind its own channel's. -/
def insHeld (q : HeldReq) : List HeldReq → List HeldReq
  | [] => [q]
  | x :: r => if chanRank x.chan ≤ chanRank q.chan then x :: insHeld q r else q :: x :: r

/-- Held requests in the order in which one instant takes them: by channel, each channel's as they were sent (R48). -/
def byChannel (qs : List HeldReq) : List HeldReq := qs.foldl (fun t q => insHeld q t) []

/-- The requests held in a thaw taken at its end (R58). -/
def releaseTaken (s : State) : State :=
  (byChannel s.pw.held).foldl (fun t q => takeRequest t q.chan q.prin q.req q.data q.dtpSeq) { s with pw := { s.pw with held := [] } }

/-- A request that waited for SUMMER goes on; the data of an INDIRECT WRITE has been fetched. -/
def resumeHeld (s : State) (q : HeldReq) : State :=
  if q.req.op = 1 ∧ q.req.indirect then startTransfer s q.chan q.prin q.req (q.data.value % 2 ^ 64)
  else enter s q.chan q.prin q.req q.data q.dtpSeq

/-- The requests that waited for SUMMER carried out in its instant (R48, R384). -/
def releaseSummer (s : State) : State := (byChannel s.pw.held).foldl resumeHeld { s with pw := { s.pw with held := [] } }

/-- The end of an INDIRECT transfer (R43): a READ's octets are in host memory, a WRITE takes its place in the order now. -/
def transferDone (s : State) (n : Nat) (d : Payload) : State :=
  match s.hif.xfers[n]? with
  | none => s
  | some x =>
    let s1 := { s with hif := { s.hif with xfers := s.hif.xfers.eraseIdx n } }
    let s2 := s1.moved 3 x.octets
    if x.isRead then
      reply (s2.emit (.hostWrite x.addr x.data)) x.chan 0 { respond x.req 0 0 0 with element := x.octets }
    else enter s2 x.chan x.principal x.req d 0

/-- A host read of an INDIRECT WRITE fails at an address of its operand (R70): DMA_FAULT, and the request is answered with it. -/
def transferFails (s : State) (n addr causeBit : Nat) : State :=
  match s.hif.xfers[n]? with
  | none => s
  | some x =>
    if x.isRead then s
    else
      let s1 := { s with hif := { s.hif with xfers := s.hif.xfers.eraseIdx n } }
      reply (s1.dmaFault addr causeBit) x.chan 0 (respond x.req Abort.dmaFault 0 0)

/-! ### A request as the bridge builds it from a command's operands -/

/-- The WRITE a row names: inline where a message holds the value, by INDIRECT on a mailbox where it does not. -/
def rowReq (ch : Chan) (tag g ix sub el len : Nat) (table : Bool) : Req :=
  ⟨2, if len ≤ 16 ∨ 48 < len then 0 else ceilDiv len 4 - 4, if 48 < len ∧ (chanMailbox ch).isSome then 8 else 0, tag, ix, sub,
    b2n table, g, el, len⟩

/-- A WRITE taken with its octets already fetched. -/
def writeRow (s : State) (ch : Chan) (r : Req) (d : Payload) : State :=
  if chanIsDtp ch || !chanValid s ch then s
  else if r.indirect then
    if !s.running then s
    else if messageAbort ch r ≠ 0 then reply s ch 0 (respond r (messageAbort ch r) 0 0)
    else enter s ch (s.principal ch) r d 0
  else dictDeliver s ch r d 0

/-- A WRITE of a scalar or a record's field. -/
def writeScalar (s : State) (ch : Chan) (tag g ix sub len : Nat) (d : Payload) : State :=
  writeRow s ch (rowReq ch tag g ix sub 0 len false) d

/-- A WRITE of one element of a table. -/
def writeElement (s : State) (ch : Chan) (tag g ix sub el len : Nat) (d : Payload) : State :=
  writeRow s ch (rowReq ch tag g ix sub el len true) d

end Sys2Proof.Machine
end

