-- ==== Sys2Proof/Machine/Dtp.lean ====
section
/-! DEFINITION. The Dictionary Transport Protocol (R45, R46, R409): sessions and their establishment, datagrams. -/

namespace Sys2Proof.Machine

/-- A datagram dropped without a response (R45). -/
def dtpDrop (s : State) : State := s.inc Obj.dtpDropped

/-- The session of a number. -/
def dtpFind (s : State) (n : Nat) : Option DtpSession := s.ctl.dtp.find? (fun x => decide (x.id = n))

/-- A session replaced. -/
def dtpPut (s : State) (x : DtpSession) : State :=
  { s with ctl := { s.ctl with dtp := s.ctl.dtp.map (fun (e : DtpSession) => if e.id = x.id then x else e) } }

/-- DTP_OPEN (R409): CHALLENGE with a new session number and a nonce, or REFUSE. -/
def dtpOpen (s : State) (intact : Bool) : State :=
  if !intact then dtpDrop s
  else if s.bootPolicy 8 ∨ s.rd Obj.dtpEnable = 0 ∨ s.rd Obj.dtpSessionsMax ≤ s.ctl.dtp.length then s.emit .dtpRefuse
  else
    let (n, s1) := newNonce s
    let id := s1.ctl.nextDtp
    let x : DtpSession := ⟨id, n, 0, false, s1.mono, [], [], 0⟩
    let s2 := { s1 with ctl := { s1.ctl with
      dtp := s1.ctl.dtp ++ [x]
      nextDtp := id + 1 } }
    s2.emit (.dtpChallenge id n)

/-- DTP_SIGFRAG (R408, R409): one of up to 3 fragments of at most 1,024 octets; with the last missing one the session holds the
signature. -/
def dtpFrag (s : State) (intact : Bool) (session fragment fragments : Nat) (octs : List Nat) : State :=
  match dtpFind s session with
  | none => dtpDrop s
  | some x =>
    if !intact ∨ 3 < fragments ∨ fragments ≤ fragment ∨ 1024 < octs.length then dtpDrop s
    else
      let held := AMap.put [] fragment octs (x.frags.filter (fun e => decide (e.1 < fragments)))
      let whole := (List.range fragments).all (fun i => held.any (fun e => decide (e.1 = i)))
      let sig := held.flatMap Prod.snd
      let s1 := dtpPut s { x with frags := if whole then [] else held }
      let s2 := if whole ∧ 2564 ≤ sig.length ∧ sig.length ≤ 2884 then setSig s1 (.dtp session) (some ⟨sig⟩) else s1
      s2.emit (.dtpSigAck session fragment)

/-- The key a token that opens or renews a session brings, where it unwraps (R38, R409). -/
def tokenKey (s : State) (d : Datagram) : Option Nat :=
  match d.data with
  | .token t => if d.req.op = 2 ∧ d.req.index = 0x1060 then sessionKey s t else none
  | _ => none

/-- A request of the session with this sequence number is being executed. -/
def dtpExecutes (s : State) (n seq : Nat) : Bool :=
  s.tw.requests.any (fun q => decide (q.chan = .dtp n) && decide (q.dtpSeq = seq)) ||
    s.pw.held.any (fun q => decide (q.chan = .dtp n) && decide (q.dtpSeq = seq))

/-- A request older than the oldest response kept (R46). -/
def dtpOld (x : DtpSession) (seq : Nat) : Bool := !x.kept.isEmpty && x.kept.all (fun e => decide (seq < e.1))

/-- DTP_DATAGRAM_RX (R45, R46): the checks, then a kept response, a drop, BUSY, or the request executes. A kept response is sent with
RESPONSE and RETRY set (DESIGN CHOICE: Table 2.8 names RETRY and no rule says who sets it). -/
def dtpRequest (s : State) (d : Datagram) : State :=
  match dtpFind s d.session with
  | none => dtpDrop s
  | some x =>
    let k := match tokenKey s d with
      | some k => some k
      | none => if x.opened then some x.key else none
    if d.magic ≠ 0x53445450 ∨ d.version ≠ 1 ∨ !d.intact ∨ some d.key ≠ k then dtpDrop s
    else match x.kept.find? (fun e => decide (e.1 = d.seq)) with
      | some e => (s.inc Obj.dtpResent).emit (.dtp x.id d.seq 3 e.2.element e.2 d.key)
      | none =>
        if dtpOld x d.seq then dtpDrop s
        else if dtpExecutes s x.id d.seq then s
        else if 32 ≤ x.executing then
          (s.inc Obj.dtpBusy).emit (.dtp x.id d.seq 1 0 (respond d.req Abort.busy 0 0) d.key)
        else
          let y := { x with
            executing := x.executing + 1
            key := if x.opened then x.key else d.key }
          takeRequest ((dtpPut s y).inc Obj.dtpRequests) (.dtp x.id) (s.principal (.dtp x.id)) d.req d.data d.seq

/-- A datagram taken by the running control cluster. -/
def dtpTake (s : State) (i : DtpIn) : State :=
  match i with
  | .hello intact => dtpOpen s intact
  | .frag intact session fragment fragments octs => dtpFrag s intact session fragment fragments octs
  | .request d => dtpRequest s d

/-- A datagram on MG0: in WINTER one that wakes the device is kept and processed after the thaw (R388, R389). -/
def dtpArrive (s : State) (i : DtpIn) : State :=
  if s.running then dtpTake (if s.pw.winterEntry then s.wake .dtp else s) i
  else
    let t := s.wake .dtp
    if s.season = .winter ∧ s.pw.thawFrom.isNone ∧ t.pw.thawFrom.isSome then { t with pw := { t.pw with kept := some i } } else t

/-- The datagram kept through a thaw. -/
def releaseKept (s : State) : State :=
  match s.pw.kept with
  | some i => dtpTake { s with pw := { s.pw with kept := none } } i
  | none => s

/-- DTP_SESSION_OPEN_TIMEOUT (R409): 10 s. -/
def dtpOpenTimeout (s : State) (n : Nat) : State :=
  match dtpFind s n with
  | some x => if !x.opened && decide (x.since + 10000000000 ≤ s.mono) then dtpEnd s n else s
  | none => s

/-! ### The commands -/

def execDtpDatagramRx (d : Datagram) (s : State) : Host.Outcome State Fault Refusal := .next (dtpArrive s (.request d))
def execDtpOpen (intact : Bool) (s : State) : Host.Outcome State Fault Refusal := .next (dtpArrive s (.hello intact))
/-- DTP_SIGFRAG: the data are the octets that DATALEN counts. -/
def execDtpSigfrag (intact : Bool) (session fragment fragments len : Nat) (g : TokenSig) (s : State) :
    Host.Outcome State Fault Refusal :=
  .next (dtpArrive s (.frag intact session fragment fragments (g.octs.take len)))
def execDtpSessionOpenTimeout (session : Nat) (s : State) : Host.Outcome State Fault Refusal := .next (dtpOpenTimeout s session)

end Sys2Proof.Machine
end

