-- ==== Sys2Proof/Machine/Requests.lean ====
section
/-! DEFINITION. The commands that are dictionary requests, as they reach the dictionary server: general requests, groups, transfers,
and the rows that name an object of their own. -/

namespace Sys2Proof.Machine

/-- A request of a channel other than a DTP session, whose requests come in datagrams. -/
def rowDeliver (s : State) (ch : Chan) (r : Req) (d : Payload) : State := if chanIsDtp ch then s else dictDeliver s ch r d 0

/-- A request that has neither object nor data. -/
def bareReq (op tag g : Nat) : Req := ⟨op, 0, 0, tag, 0, 0, 0, g, 0, 0⟩

/-- Length of an object's field. -/
def lenOf (ix sub : Nat) : Nat := ((attrOf ix sub).map Attr.len).getD 0

/-! ### General requests -/

def execDictRead (ch : Chan) (r : Req) (addr : Nat) (s : State) : Host.Outcome State Fault Refusal :=
  .next (rowDeliver s ch { r with op := 1 } (.num addr))
def execDictWrite (ch : Chan) (r : Req) (d : Payload) (s : State) : Host.Outcome State Fault Refusal :=
  .next (rowDeliver s ch { r with op := 2 } d)
def execDescribe (ch : Chan) (r : Req) (s : State) : Host.Outcome State Fault Refusal := .next (rowDeliver s ch { r with op := 3 } (.num 0))
def execGroupOpen (ch : Chan) (tag : Nat) (s : State) : Host.Outcome State Fault Refusal :=
  .next (rowDeliver s ch (bareReq 4 tag 0) (.num 0))
def execGroupCommit (ch : Chan) (tag g : Nat) (s : State) : Host.Outcome State Fault Refusal :=
  .next (rowDeliver s ch (bareReq 5 tag g) (.num 0))
def execGroupDiscard (ch : Chan) (tag g : Nat) (s : State) : Host.Outcome State Fault Refusal :=
  .next (rowDeliver s ch (bareReq 6 tag g) (.num 0))

/-- GROUP_TIMEOUT_EXPIRY (R51). -/
def groupTimeout (s : State) (g : Nat) : State :=
  match s.ctl.groups.find? (fun x => decide (x.num = g)) with
  | some x => if x.lastUse + s.rd Obj.groupTimeout * ms ≤ s.mono then groupClose s g else s
  | none => s

def execGroupTimeoutExpiry (g : Nat) (s : State) : Host.Outcome State Fault Refusal := .next (groupTimeout s g)

/-- Octets of a persistent image (R65). -/
def persistLen (recs : List (Nat × Nat)) (cls : Option Image) : Nat :=
  (persistRecords recs cls).length + 8

/-- Octets of a payload that is written to PersistImage. -/
def persistOctetsOf (d : Payload) : Nat :=
  match d with
  | .persist recs cls _ => persistLen recs cls
  | _ => 8

def execPersistImageWrite (ch : Chan) (tag : Nat) (d : Payload) (s : State) : Host.Outcome State Fault Refusal :=
  .next (writeScalar s ch tag 0 0x1030 0 (persistOctetsOf d) d)
def execOperatorSessionOpen (ch : Chan) (tag : Nat) (t : Token) (s : State) : Host.Outcome State Fault Refusal :=
  .next (writeScalar s ch tag 0 0x1060 0 128 (.token t))
def execOperatorSessionClose (ch : Chan) (tag : Nat) (s : State) : Host.Outcome State Fault Refusal :=
  .next (writeScalar s ch tag 0 0x1060 0 4 (.num 0))

/-! ### Mailboxes, peers, transfers -/

/-- The request a mailbox's message words spell (Table 2.5). -/
def decodeReq (m : List Word) : Req :=
  let w := fun (i : Nat) => (m.getD i 0).toNat
  ⟨bits (w 0) 24 8, bits (w 0) 20 4, bits (w 0) 16 4, bits (w 0) 0 16, bits (w 1) 16 16, bits (w 1) 8 8, bits (w 1) 0 8, bits (w 2) 24 8,
    bits (w 2) 0 24, w 3⟩

/-- The data words of a message as a number. -/
def decodeData (m : List Word) : Nat := ((m.drop 4).zipIdx.map (fun e => e.1.toNat * 2 ^ (32 * e.2))).sum

/-- MBX_TAKE (R78): a posted message is copied, GO cleared, and the request taken. -/
def mbxTake (s : State) (n : Nat) : State :=
  let m := s.h2d n
  if s.running ∧ n < 64 ∧ m.go then
    takeRequest (s.setH2d n { m with go := false }) (.mbx n) (s.principal (.mbx n)) (decodeReq m.msg) (.num (decodeData m.msg)) 0
  else s

def execMbxTake (n : Nat) (s : State) : Host.Outcome State Fault Refusal := .next (mbxTake s n)

/-- A frame that carries a dictionary request of another device (R47). -/
def dictFrame (f : FabFrame) : Bool :=
  match f.msg with
  | .dict _ _ => true
  | _ => false

/-- PEER_DICT_MESSAGE (R47): the oldest DICT frame received. -/
def peerDict (s : State) : State :=
  match s.takeFrame dictFrame with
  | (some (_, _, f), t) =>
    match f.msg with
    | .dict r d => dictDeliver t (.peer f.src) r d 0
    | _ => t
  | (none, t) => t

def execPeerDictMessage (s : State) : Host.Outcome State Fault Refusal := .next (if s.running then peerDict s else s)
def execIndirectTransferDone (n : Nat) (d : Payload) (s : State) : Host.Outcome State Fault Refusal :=
  .next (if s.running then transferDone s n d else s)

/-- A host read of ring `n` fails at an address (R70): the ring stops with ERROR, DMA_FAULT. -/
def ringReadFails (s : State) (n addr causeBit : Nat) : State :=
  let x := s.ring n
  if n < 2048 ∧ x.enable ∧ ¬ x.dirD2h ∧ ¬ x.error then
    (withIrq (.ring n) (fun t => t.setRing n { t.ring n with error := true }) s).dmaFault addr causeBit
  else s

/-- A host read fails (R70). -/
def hostReadFails (s : State) (isRing : Bool) (n addr causeBit : Nat) : State :=
  if isRing then ringReadFails s n addr causeBit else transferFails s n addr causeBit

/-- The 50 ms of a host read have run out since it can have started (R70): on a ring with something to fetch, or of an INDIRECT
WRITE. -/
def hostReadOverdue (s : State) (isRing : Bool) (n : Nat) : Bool :=
  if isRing then decide ((s.q (ringQ n)).depth ≠ 0) && decide ((s.ring n).readAt + 50 * ms ≤ s.mono)
  else match s.hif.xfers[n]? with
    | some x => decide (x.since + 50 * ms ≤ s.mono)
    | none => false

def execHostReadCompletionTimeout (isRing : Bool) (n addr : Nat) (s : State) : Host.Outcome State Fault Refusal :=
  .next (if s.running && hostReadOverdue s isRing n then hostReadFails s isRing n addr 0 else s)
def execHostReadErrorCompletion (isRing : Bool) (n addr : Nat) (s : State) : Host.Outcome State Fault Refusal :=
  .next (if s.running then hostReadFails s isRing n addr 1 else s)

/-! ### Rows that write an object -/

def execQueueFlush (ch : Chan) (tag g q : Nat) (s : State) : Host.Outcome State Fault Refusal :=
  .next (writeElement s ch tag g 0x7400 0xA q 1 (.num 1))
def execLegRegister (ch : Chan) (tag g l : Nat) (s : State) : Host.Outcome State Fault Refusal :=
  .next (writeElement s ch tag g 0x2101 0 l 1 (.num 1))
def execLegActivate (ch : Chan) (tag g l : Nat) (s : State) : Host.Outcome State Fault Refusal :=
  .next (writeElement s ch tag g 0x2101 0 l 1 (.num 2))
def execLegDeactivate (ch : Chan) (tag g l : Nat) (s : State) : Host.Outcome State Fault Refusal :=
  .next (writeElement s ch tag g 0x2101 0 l 1 (.num 1))
def execLegFree (ch : Chan) (tag g l : Nat) (s : State) : Host.Outcome State Fault Refusal :=
  .next (writeElement s ch tag g 0x2101 0 l 1 (.num 0))
def execConfActivate (ch : Chan) (tag g c : Nat) (s : State) : Host.Outcome State Fault Refusal :=
  .next (writeElement s ch tag g 0x2200 1 c 1 (.num 1))
def execConfFree (ch : Chan) (tag g c : Nat) (s : State) : Host.Outcome State Fault Refusal :=
  .next (writeElement s ch tag g 0x2200 1 c 1 (.num 0))
def execAnchorRepoint (ch : Chan) (tag g c : Nat) (isConf : Bool) (v : Nat) (s : State) : Host.Outcome State Fault Refusal :=
  .next (writeElement s ch tag g 0x2200 (if isConf then 4 else 3) c 2 (.num v))
def execClassifierImageWrite (ch : Chan) (tag g : Nat) (i : Image) (s : State) : Host.Outcome State Fault Refusal :=
  .next (writeScalar s ch tag g 0x2030 0 i.octs.length (.image i))
def execTapEnable (ch : Chan) (tag g : Nat) (isLeg : Bool) (id : Nat) (s : State) : Host.Outcome State Fault Refusal :=
  .next (writeElement s ch tag g (if isLeg then 0x2311 else 0x2310) 1 id 1 (.num 1))
def execKeySuiteWrite (ch : Chan) (tag g k v : Nat) (s : State) : Host.Outcome State Fault Refusal :=
  .next (writeElement s ch tag g 0x8100 1 k 1 (.num v))
def execKeyLoad (ch : Chan) (tag g k len m : Nat) (s : State) : Host.Outcome State Fault Refusal :=
  .next (writeElement s ch tag g 0x8100 2 k len (.num m))
def execKeyWrappedLoad (ch : Chan) (tag g k len : Nat) (w : Wrapped) (s : State) : Host.Outcome State Fault Refusal :=
  .next (writeElement s ch tag g 0x8100 3 k len (.wrapped w))
def execKeyErase (ch : Chan) (tag g k : Nat) (s : State) : Host.Outcome State Fault Refusal :=
  .next (writeElement s ch tag g 0x8100 5 k 1 (.num 1))
def execCoreOnlineClear (ch : Chan) (tag g j v : Nat) (s : State) : Host.Outcome State Fault Refusal :=
  .next (if j < 4 then writeScalar s ch tag g 0x7590 (j + 1) 4 (.num v) else s)
def execMatenLoad (ch : Chan) (tag g : Nat) (i : Image) (s : State) : Host.Outcome State Fault Refusal :=
  .next (writeScalar s ch tag g 0x3040 0 i.octs.length (.image i))
def execMatenUnload (ch : Chan) (tag g n : Nat) (s : State) : Host.Outcome State Fault Refusal :=
  .next (writeScalar s ch tag g 0x3041 0 2 (.num n))
def execDctxEnable (ch : Chan) (tag g d : Nat) (s : State) : Host.Outcome State Fault Refusal :=
  .next (writeElement s ch tag g 0x4200 1 d 1 (.num 1))
def execDctxDisable (ch : Chan) (tag g d : Nat) (s : State) : Host.Outcome State Fault Refusal :=
  .next (writeElement s ch tag g 0x4200 1 d 1 (.num 0))
def execCanvasSetCommit (ch : Chan) (tag g c : Nat) (s : State) : Host.Outcome State Fault Refusal :=
  .next (writeElement s ch tag g 0x5210 0 c 1 (.num 1))
def execOperatorCommit (ch : Chan) (tag g v : Nat) (s : State) : Host.Outcome State Fault Refusal :=
  .next (writeElement s ch tag g 0x5620 0 v 1 (.num 1))
def execOperatorImageWrite (ch : Chan) (tag g i : Nat) (img : OpImage) (s : State) : Host.Outcome State Fault Refusal :=
  .next (if i < 16 then writeScalar s ch tag g 0x5600 (i + 1) (imageOctets img.width img.height img.alpha) (.opImage img) else s)
def execLayoutLoad (ch : Chan) (tag g : Nat) (i : Image) (s : State) : Host.Outcome State Fault Refusal :=
  .next (writeScalar s ch tag g 0x5700 0 i.octs.length (.image i))
def execLayoutUnload (ch : Chan) (tag g n : Nat) (s : State) : Host.Outcome State Fault Refusal :=
  .next (writeScalar s ch tag g 0x5701 0 2 (.num n))
def execActxEnable (ch : Chan) (tag g a : Nat) (s : State) : Host.Outcome State Fault Refusal :=
  .next (writeElement s ch tag g 0x6200 1 a 1 (.num 1))
def execActxDisable (ch : Chan) (tag g a : Nat) (s : State) : Host.Outcome State Fault Refusal :=
  .next (writeElement s ch tag g 0x6200 1 a 1 (.num 0))
def execRctxEnable (ch : Chan) (tag g r : Nat) (s : State) : Host.Outcome State Fault Refusal :=
  .next (writeElement s ch tag g 0x6300 1 r 1 (.num 1))
def execRctxDisable (ch : Chan) (tag g r : Nat) (s : State) : Host.Outcome State Fault Refusal :=
  .next (writeElement s ch tag g 0x6300 1 r 1 (.num 0))
def execRcLoad (ch : Chan) (tag g : Nat) (i : Image) (s : State) : Host.Outcome State Fault Refusal :=
  .next (writeScalar s ch tag g 0x6050 0 i.octs.length (.image i))
def execRcUnload (ch : Chan) (tag g n : Nat) (s : State) : Host.Outcome State Fault Refusal :=
  .next (writeScalar s ch tag g 0x6051 0 2 (.num n))
def execRctxKeyRequest (ch : Chan) (tag g r : Nat) (s : State) : Host.Outcome State Fault Refusal :=
  .next (writeElement s ch tag g 0x6300 0x19 r 1 (.num 1))
def execFeedModeWrite (ch : Chan) (tag g l f v : Nat) (s : State) : Host.Outcome State Fault Refusal :=
  .next (if f < 4 then writeElement s ch tag g (0x7200 + f) 1 l 1 (.num v) else s)
def execFeedFixedSelect (ch : Chan) (tag g l f v : Nat) (s : State) : Host.Outcome State Fault Refusal :=
  .next (if f < 4 then writeElement s ch tag g (0x7200 + f) 8 l 1 (.num v) else s)
def execAdaptLoad (ch : Chan) (tag g : Nat) (i : Image) (s : State) : Host.Outcome State Fault Refusal :=
  .next (writeScalar s ch tag g 0x7020 0 i.octs.length (.image i))
def execAdaptUnload (ch : Chan) (tag g n : Nat) (s : State) : Host.Outcome State Fault Refusal :=
  .next (writeScalar s ch tag g 0x7021 0 2 (.num n))
def execLegShaperWrite (ch : Chan) (tag g l sub v : Nat) (s : State) : Host.Outcome State Fault Refusal :=
  .next (writeElement s ch tag g 0x7300 sub l (lenOf 0x7300 sub) (.num v))
def execGroupShaperWrite (ch : Chan) (tag g : Nat) (isPort : Bool) (k sub v : Nat) (s : State) : Host.Outcome State Fault Refusal :=
  .next (if isPort then (if k < 2 then writeScalar s ch tag g (0x7700 + k) sub (lenOf 0x7700 sub) (.num v) else s)
    else if k < 64 then writeScalar s ch tag g (0x7710 + k) sub (lenOf 0x7710 sub) (.num v) else s)
def execPartApply (ch : Chan) (tag g : Nat) (s : State) : Host.Outcome State Fault Refusal :=
  .next (writeScalar s ch tag g 0x9020 8 1 (.num 1))
def execHostReadWindowsWrite (ch : Chan) (tag g v : Nat) (s : State) : Host.Outcome State Fault Refusal :=
  .next (writeScalar s ch tag g 0x9120 0 4 (.num v))
def execNqPortEnable (ch : Chan) (tag g p : Nat) (s : State) : Host.Outcome State Fault Refusal :=
  .next (if p < 6 then writeScalar s ch tag g (0xA100 + p) 1 1 (.num 1) else s)
def execNqPortDisable (ch : Chan) (tag g p : Nat) (s : State) : Host.Outcome State Fault Refusal :=
  .next (if p < 6 then writeScalar s ch tag g (0xA100 + p) 1 1 (.num 0) else s)
def execFdevWrite (ch : Chan) (tag g v : Nat) (s : State) : Host.Outcome State Fault Refusal :=
  .next (writeScalar s ch tag g 0xA010 1 2 (.num v))
def execTwinModePair (ch : Chan) (tag g : Nat) (s : State) : Host.Outcome State Fault Refusal :=
  .next (writeScalar s ch tag g 0xB010 1 1 (.num 1))
def execTwinModeSolo (ch : Chan) (tag g : Nat) (s : State) : Host.Outcome State Fault Refusal :=
  .next (writeScalar s ch tag g 0xB010 1 1 (.num 0))
def execTwinHandover (ch : Chan) (tag g : Nat) (s : State) : Host.Outcome State Fault Refusal :=
  .next (writeScalar s ch tag g 0xB030 1 1 (.num 1))
def execTwinResync (ch : Chan) (tag g : Nat) (s : State) : Host.Outcome State Fault Refusal :=
  .next (writeScalar s ch tag g 0xB030 2 1 (.num 1))
def execPulseWrite (ch : Chan) (tag g n sub v : Nat) (s : State) : Host.Outcome State Fault Refusal :=
  .next (if n < 4 then writeScalar s ch tag g (0xC100 + n) sub (lenOf 0xC100 sub) (.num v) else s)
def execHostTodWrite (ch : Chan) (tag g v : Nat) (s : State) : Host.Outcome State Fault Refusal :=
  .next (writeScalar s ch tag g 0xC050 0 10 (.num v))
def execTargetWrite (ch : Chan) (tag g v : Nat) (s : State) : Host.Outcome State Fault Refusal :=
  .next (writeScalar s ch tag g 0xD020 1 1 (.num v))
def execSeasonScriptsWrite (ch : Chan) (tag g : Nat) (i : Image) (s : State) : Host.Outcome State Fault Refusal :=
  .next (writeScalar s ch tag g 0xD040 0 i.octs.length (.image i))

/-! ### Security rows -/

/-- A request whose fuse blow reads back, or does not (R419). -/
def withBlow (blown : Bool) (f : State → State) (s : State) : State :=
  let t := f { s with sec := { s.sec with blowFails := !blown } }
  { t with sec := { t.sec with blowFails := false } }

def execLifecycleAdvance (ch : Chan) (tag g v : Nat) (blown : Bool) (s : State) : Host.Outcome State Fault Refusal :=
  .next (withBlow blown (fun t => writeScalar t ch tag g 0x8320 0 1 (.num v)) s)
def execIdentityGenerate (ch : Chan) (tag g : Nat) (blown : Bool) (s : State) : Host.Outcome State Fault Refusal :=
  .next (withBlow blown (fun t => writeScalar t ch tag g 0x8351 0 1 (.num 1)) s)
def execOwnerHashWrite (ch : Chan) (tag g slot v : Nat) (blown : Bool) (s : State) : Host.Outcome State Fault Refusal :=
  .next (if slot < 2 then withBlow blown (fun t => writeScalar t ch tag g 0x8330 (slot + 1) 32 (.num v)) s else s)
def execOwnerKekWrite (ch : Chan) (tag g v : Nat) (blown : Bool) (s : State) : Host.Outcome State Fault Refusal :=
  .next (withBlow blown (fun t => writeScalar t ch tag g 0x8331 0 32 (.num v)) s)
def execOwnerRevokeWrite (ch : Chan) (tag g v : Nat) (blown : Bool) (s : State) : Host.Outcome State Fault Refusal :=
  .next (withBlow blown (fun t => writeScalar t ch tag g 0x8330 3 4 (.num v)) s)
def execBootPolicyWrite (ch : Chan) (tag g v : Nat) (blown : Bool) (s : State) : Host.Outcome State Fault Refusal :=
  .next (withBlow blown (fun t => writeScalar t ch tag g 0x8300 5 4 (.num v)) s)
def execMinVersionCommit (ch : Chan) (tag g v : Nat) (blown : Bool) (s : State) : Host.Outcome State Fault Refusal :=
  .next (withBlow blown (fun t => writeScalar t ch tag g 0x8321 0 1 (.num v)) s)
def execFrostWrite (ch : Chan) (tag g v : Nat) (s : State) : Host.Outcome State Fault Refusal :=
  .next (writeScalar s ch tag g 0x8310 0 4 (.num v))
def execTokenSignatureWrite (ch : Chan) (tag g : Nat) (sig : TokenSig) (s : State) : Host.Outcome State Fault Refusal :=
  .next (writeScalar s ch tag g 0x8410 0 sig.octs.length (.sig sig))
def execDebugUnlock (ch : Chan) (tag g : Nat) (t : Token) (s : State) : Host.Outcome State Fault Refusal :=
  .next (writeScalar s ch tag g 0x8420 0 128 (.token t))
def execDebugClose (ch : Chan) (tag g : Nat) (s : State) : Host.Outcome State Fault Refusal :=
  .next (writeScalar s ch tag g 0x8420 0 4 (.num 0))
def execAttestRequest (ch : Chan) (tag g nonce : Nat) (blown : Bool) (s : State) : Host.Outcome State Fault Refusal :=
  .next (withBlow blown (fun t => writeScalar t ch tag g 0x8360 0 32 (.num nonce)) s)

/-- CHALLENGE_READ (R407). -/
def execChallengeRead (ch : Chan) (tag : Nat) (s : State) : Host.Outcome State Fault Refusal :=
  .next (rowDeliver s ch ⟨1, 0, 0, tag, 0x8400, 0, 0, 0, 0, 0⟩ (.num 0))

/-- ATTEST_REPORT_READ (R416): 2,860 octets by INDIRECT to a host address. -/
def execAttestReportRead (ch : Chan) (tag addr : Nat) (s : State) : Host.Outcome State Fault Refusal :=
  .next (rowDeliver s ch ⟨1, 0, 8, tag, 0x8361, 0, 0, 0, 0, 0⟩ (.num addr))
def execLogSelectWrite (ch : Chan) (tag g v : Nat) (s : State) : Host.Outcome State Fault Refusal :=
  .next (writeScalar s ch tag g 0xE020 1 4 (.num v))
def execScanGo (ch : Chan) (tag g : Nat) (s : State) : Host.Outcome State Fault Refusal :=
  .next (writeScalar s ch tag g 0xE060 0xA 1 (.num 1))

end Sys2Proof.Machine
end

