-- ==== Sys2Proof/Machine/Boundary.lean ====
section
/-! DEFINITION. Boundaries, ticks and the ends of transitions (R53 to R57, R100, R119, R255, R261, R375, R382 to R389), resets of the PCIe
function, and BAR2 (R69, R74, R75). -/

namespace Sys2Proof.Machine

/-! ### Mix-frame boundaries (R53, R57, R100, R119, R375) -/

/-- The LEG_AUDIO decode item of a leg for frame n posted (Table 1.7). -/
def postDecode (n : Nat) (s : State) (l : Nat) : State :=
  s.post 0 (engineDescriptor (flowTag 0 l) (itemProgram 0 (s.rd (Obj.rxCodec l))) noGroup 0) (.decode n .pending)

/-- Legs by a test on their run-time state. -/
def legsWhere (s : State) (p : LegRt → Bool) : List Nat := (s.le.legs.filter (fun e => p e.2)).map Prod.fst

/-- A deferred effect whose instant has come: settings, the other writes of its group, its NOTIFY (R53, R56, R57, R468). -/
def dueEffect (k : Nat) (s : State) (d : Deferred) : State :=
  let s1 := if d.isTick then activateTick s k d else withWrites s d.writes
  notifySend (applyOthers s1 d) d.notify 1 d.due

/-- The deferred effects of a kind that are due take effect in the order of their acceptance. -/
def dueEffects (s : State) (isTick : Bool) (k : Nat) : State :=
  let p := fun (d : Deferred) => decide (d.isTick = isTick) && decide (d.due ≤ s.tod)
  (s.ctl.deferred.filter p).foldl (dueEffect k) { s with ctl := { s.ctl with deferred := s.ctl.deferred.filter (fun d => !p d) } }

/-- MIX_FRAME_BOUNDARY: the frame of TimeOfDay begins, once. -/
def mixFrame (s : State) : State :=
  let n := s.tod / mixNs
  if n < s.le.frame then s
  else
    let s1 := dueEffects { s with le := { s.le with frame := n + 1 } } false 0
    let s2 := (legsWhere s1 (fun x => !x.turn.isEmpty)).foldl legTurns s1
    let act := legsWhere s2 (fun x => decide (x.stage = .active))
    if s2.engines ∧ s2.serves then act.foldl (postDecode n) (act.foldl followRoute s2) else s2

def execMixFrameBoundary (s : State) : Host.Outcome State Fault Refusal := .next (if s.running then mixFrame s else s)

/-! ### Solstice ticks (R54 to R57, R253 to R257, R265) -/

/-- SOLSTICE_TICK: the tick of TimeOfDay, once: commits due, then the sets due are composed. -/
def solsticeTick (s : State) : State :=
  let k := nextTick (s.tod + 1) - 1
  if k < s.cp.tick then s
  else
    let s1 := dueEffects s true k
    if s1.engines ∧ s1.serves then encodeTick (composeTick s1 k (tickTime k)) k else { s1 with cp := { s1.cp with tick := k + 1 } }

def execSolsticeTick (s : State) : Host.Outcome State Fault Refusal := .next (if s.running then solsticeTick s else s)

/-! ### The end of a layout run (R261) -/

/-- A field a layout program may write: of its own set but for Enable, of its set's canvases and their layers. -/
def layoutField (s : State) (c : Nat) (w : Nat × Nat × Nat × Nat) : Bool :=
  let mine := (canvasesOf (shadowView s) c ++ canvasesOf s c).contains w.2.2.1
  (decide (w.1 = 0x5200) && decide (w.2.2.1 = c) && decide (w.2.1 ≠ 1)) || (decide (w.1 = 0x5110) && mine) ||
    (decide (0x5300 ≤ w.1) && decide (w.1 ≤ 0x533E) && mine)

/-- The WRITE of a shadow field by the firmware. -/
def layoutReq (w : Nat × Nat × Nat × Nat) : Req := ⟨2, 0, 2, 0, w.1, w.2.1, 1, 0, w.2.2.1, lenOf w.1 w.2.1⟩

/-- The commit of a set by the firmware. -/
def layoutCommitReq (c : Nat) : Req := ⟨2, 0, 0, 0, 0x5210, 0, 1, 0, c, 1⟩

/-- The writes of a run applied as one group, with its commit if it asks for one: the abort and the state. -/
def layoutGroup (s : State) (c : Nat) (writes : List (Nat × Nat × Nat × Nat)) (doCommit : Bool) : Nat × State :=
  let x : WCtx := { ctxAt s .fw .firmware (layoutCommitReq c) 0 s.tod with
    inGroup := true
    shadow := true }
  let fs := writes.filterMap (fun w => (attrOf w.1 w.2.1).map (fun a => FieldWrite.mk w.1 w.2.1 w.2.2.1 a.len a (.num w.2.2.2)))
  if !writes.all (layoutField s c) ∨ fs.length ≠ writes.length then (Abort.writeDenied, s)
  else match writeFields x fs s with
    | (0, t) =>
      if doCommit then
        match commit t [c] (fun _ => false) [] x.tickDue none with
        | (0, u) => (0, u)
        | (a, _) => (a, s)
      else (0, t)
    | (a, _) => (a, s)

/-- LAYOUT_RUN_END. -/
def layoutEnd (s : State) (c : Nat) (writes : List (Nat × Nat × Nat × Nat)) (doCommit : Bool) : State :=
  match (s.cs c).run with
  | none => s
  | some _ =>
    let s1 := s.setCs c { s.cs c with run := none }
    match layoutGroup s1 c writes doCommit with
    | (0, t) =>
      if s.role = 1 then
        journalAll t (writes.map (fun w => JBody.write (layoutReq w) (.num w.2.2.2)) ++
          (if doCommit then [JBody.write (layoutCommitReq c) (.num 1)] else []))
          (if doCommit then some (tickAfter s.tod) else none) .firmware
      else t
    | (_, _) => (s1.inc (Obj.layoutRefused c)).event Ev.layoutCommitRefused c 0

def execLayoutRunEnd (c : Nat) (writes : List (Nat × Nat × Nat × Nat)) (doCommit : Bool) (s : State) :
    Host.Outcome State Fault Refusal :=
  .next (if s.running then layoutEnd s c writes doCommit else s)

/-! ### Maten programs (R194) -/

/-- PROGRAM_RETIRE_COMPLETE: replaced code of a program that no core runs any more gives its space back. -/
def retireComplete (s : State) (n : Nat) : State :=
  { s with mt := { s.mt with retiring := s.mt.retiring.filter (fun r =>
      !(decide (r.1 = n) && !s.disp.items.any (fun w => r.2.2.contains w.order))) } }

def execProgramRetireComplete (n : Nat) (s : State) : Host.Outcome State Fault Refusal := .next (retireComplete s n)

/-! ### Seasons (R382, R384, R389) -/

/-- SUMMER_REACHED: the rise ends, and the requests that waited are carried out and answered. -/
def summerReached (s : State) : State :=
  if s.season = .spring ∧ s.pw.rising then
    let s1 := s.enterSeason .summer
    releaseSummer { s1 with pw := { s1.pw with rising := false, idleSince := s1.mono } }
  else s

def execSummerReached (s : State) : Host.Outcome State Fault Refusal := .next (if s.running then summerReached s else s)

/-- Elements of a table whose state field is not at its reset value. -/
def onElements (s : State) (ix : Nat) : List Nat :=
  (s.dict.filter (fun e => decide (e.1 / 0x1000000 = ix * 0x100 + 1) && decide (e.2 ≠ 0))).map (fun e => e.1 % 0x1000000)

/-- A WRITE by the firmware, as a host would make it. -/
def fwWrite (ix sub v : Nat) (s : State) (el : Nat) : State := enter s .fw .firmware (rowReq .fw 0 0 ix sub el (lenOf ix sub) true) (.num v) 0

/-- A set disabled by the firmware: Enable 0 in the shadow, and a commit. -/
def fwDisableSet (s : State) (c : Nat) : State :=
  let s1 := enter s .fw .firmware { rowReq .fw 0 0 0x5200 1 c 1 true with flags := 2 } (.num 0) 0
  enter s1 .fw .firmware (layoutCommitReq c) (.num 1) 0

/-- AUTUMN_LIMIT_EXPIRY (Table 17.2): every ACTIVE leg REGISTERED, every context and set disabled, by the firmware. -/
def autumnLimit (s : State) : State :=
  let n := s.rd Obj.autumnLimit
  if s.season = .autumn ∧ n ≠ 0 ∧ ¬ s.pw.autumnForced ∧ s.pw.autumnSince + n * 1000000000 ≤ s.mono then
    let s1 := { s with pw := { s.pw with autumnForced := true } }
    let s2 := (legsWhere s1 (fun x => decide (x.stage = .active))).foldl (fwWrite 0x2101 0 1) s1
    let s3 := (onElements s2 0x4200).foldl (fwWrite 0x4200 1 0) s2
    let s4 := (onElements s3 0x6300).foldl (fwWrite 0x6300 1 0) s3
    let s5 := (onElements s4 0x6200).foldl (fwWrite 0x6200 1 0) s4
    ((enabledSets s5).foldl fwDisableSet s5).event Ev.seasonAutumnForced 0 0
  else s

def execAutumnLimitExpiry (s : State) : Host.Outcome State Fault Refusal := .next (if s.running then autumnLimit s else s)

/-- THAW_COMPLETE (R58, R389): the dictionary serves in SPRING; what was kept through the thaw is taken. -/
def thawEnd (s : State) : State :=
  if s.season = .winter ∧ s.pw.thawFrom = some .winter then releaseKept (releaseTaken (mailThaw (thawComplete s))) else s

def execThawComplete (s : State) : Host.Outcome State Fault Refusal := .next (thawEnd s)

/-! ### Function Level Reset (R69) -/

/-- FUNCTION_LEVEL_RESET. -/
def functionReset (s : State) : State :=
  let s1 := ((s.ctl.sessions.filter (fun x => (chanMailbox x.chan).isSome)).map OpSession.chan).foldl sessionClose s
  { s1 with
    hif := { s1.hif with
      h2d := []
      d2h := []
      irqCause := 0
      irqEnable := 0
      msixEnable := false
      msix := []
      xfers := []
      held := []
      cfg := { s1.hif.cfg with
        command := 0
        bar0 := 0
        bar2 := 0
        functionMask := false
        power := 0 }
      flrDone := true }
    rings := []
    queues := s1.queues.filter (fun e => !(decide (44032 ≤ e.1) && decide (e.1 < 46080))) }

def execFunctionLevelReset (s : State) : Host.Outcome State Fault Refusal := .next (if s.bar0Up then functionReset s else s)

/-! ### BAR2 (R74, R75, R319) -/

/-- Octets of a page. -/
def pageOctets : Nat := 2097152

/-- The gate of a page of HBM from octet `lo` on, in partition `p`: 0 CLOSED, 1 HOST_RO, 2 HOST_RW. -/
def pageGate (s : State) (p lo : Nat) : Nat × State :=
  if p = 7 then (2, s)
  else if 4 ≤ p ∧ p ≤ 6 ∧ bit (s.rd Obj.hostReadWindows) (p - 4) then
    (if p = 6 then (if (opPages s lo pageOctets).1 then 0 else 1, (opPages s lo pageOctets).2) else (1, s))
  else (0, s)

/-- The gate of an address's page. -/
def bar2Gate (s : State) (a : Nat) : Nat × State :=
  if !s.running ∨ s.capacity < a / pageOctets * pageOctets + pageOctets then (0, s)
  else pageGate s (partOf s (a / pageOctets * pageOctets)) (a / pageOctets * pageOctets)

/-- An access that a gate forbids: counted, and a Completer Abort in AER. -/
def bar2Denied (s : State) (write : Bool) (a n : Nat) : State :=
  ({ s with hif := { s.hif with bar2Denied := satAdd s.hif.bar2Denied 1 0xFFFFFFFF } }).aer write (s.hif.cfg.bar2 + a) n

/-- The octets of one access lie in one 4 KiB block. -/
def oneBlock (a n : Nat) : Bool := decide (0 < n) && decide (a / 4096 = (a + n - 1) / 4096)

/-- BAR2_READ: an octet of a poisoned unit makes the completion poisoned (Table 13.3). -/
def bar2Read (s : State) (a n : Nat) : State :=
  match bar2Gate s a with
  | (0, t) => (bar2Denied t false a n).emit .completerAbort
  | (_, t) =>
    let bad := t.mm.poison.any (fun u => decide (u < a + n) && decide (a < u + 32))
    (t.moved 3 n).emit (if bad then .hostPoisoned n else .hostReadOctets ((List.range n).map (fun i => t.rdByte (a + i))))

/-- BAR2_WRITE. -/
def bar2Write (s : State) (a : Nat) (octets : List Byte) : State :=
  match bar2Gate s a with
  | (2, t) =>
    let t1 := octets.zipIdx.foldl (fun (u : State) e => u.wrByte (a + e.2) e.1) t
    (t1.heal a octets.length).moved 3 octets.length
  | (_, t) => bar2Denied t true a octets.length

def execBar2Read (a n : Nat) (s : State) : Host.Outcome State Fault Refusal :=
  .next (if (s.bar0Up ∨ s.season = .winter) ∧ oneBlock a n then bar2Read s a n else s)
def execBar2Write (a : Nat) (octets : List Byte) (s : State) : Host.Outcome State Fault Refusal :=
  .next (if (s.bar0Up ∨ s.season = .winter) ∧ oneBlock a octets.length then bar2Write s a octets else s)

end Sys2Proof.Machine
end

