-- ==== Sys2Proof/Machine/Journal.lean ====
section
/-! DEFINITION. The journal and the snapshot on the twin's side (R353 to R356, R361): what a snapshot holds, how stored entries are
applied, digests at journal points. -/

namespace Sys2Proof

/-- The first sequence number an entry takes. -/
def JEntry.first (e : JEntry) : Nat := (e.jseq + 0x100000001 - e.span) % 0x100000000

end Sys2Proof

namespace Sys2Proof.Machine

/-! ### Digests at a journal point (R350, R362) -/

/-- ConfigDigest with every accepted write counted, whenever it takes effect: both twins reach the same value at the same entry. -/
def pointDigest (s : State) : Nat :=
  configDigest (s.ctl.deferred.foldl (fun t d => withWrites (withWrites t d.writes) (d.others.map (fun e => (e.1, e.2.2)))) s)

/-- A later sequence number, modulo 2^32. -/
def jAfter (a b : Nat) : Bool := decide (a ≠ b) && decide ((a + 0x100000000 - b) % 0x100000000 < 0x80000000)

/-! ### Applying entries (R354 to R356) -/

/-- The principal APPLY names. -/
def principalOf (n : Nat) : Principal :=
  match n with
  | 0 => .host | 1 => .operator | 2 => .peer | _ => .firmware

/-- The context of a journaled request: its instant, its principal, and no response. -/
def twinCtx (s : State) (p : Principal) (instant : Nat) (r : Req) : WCtx := { ctxAt s .fw p r 0 s.tod with
  now := decide (instant = 0)
  mixDue := instant
  tickDue := instant
  notify := none
  twin := true }

/-- A staged SHADOW write. -/
def Staged.isShadow (w : Staged) : Bool := w.req.shadow

/-- Plain writes applied one after the other; the abort of the first that fails. -/
def twinPlain (p : Principal) (instant : Nat) : List Staged → State → Nat × State
  | [], s => (0, s)
  | w :: r, s =>
    match writePlain (twinCtx s p instant w.req) s w.req w.data w.req.length with
    | (0, _, t, _) => twinPlain p instant r t
    | (a, _, _, _) => (a, s)

/-- The writes of one request: a plain write, shadow writes without a commit, or a group. -/
def twinWrites (s : State) (p : Principal) (instant : Nat) (ws : List Staged) : Nat × State :=
  if (ws.length ≤ 1 ∧ ¬ (instant ≠ 0 ∧ ws.any Staged.isShadow)) ∨ (instant = 0 ∧ ws.any Staged.isShadow) then twinPlain p instant ws s
  else match groupApply (twinCtx s p instant (layoutCommitReq 0)) s ws with
    | (a, _, t, _) => (a, t)

/-- The material of a KEY entry, none where it does not unwrap under TwinKek. -/
def twinMaterial (s : State) (suite : Nat) (w : Wrapped) : Option Nat := (s.kekSlot.bind s.material).bind (fun kek => unwrapKey kek suite w)

/-- A KEY entry that acts at once. -/
def twinKey (s : State) (k suite gen : Nat) (w : Wrapped) : Option State :=
  (twinMaterial s suite w).map (fun m => (storeKey (s.wr (Obj.kSuite k) suite) k m).wr (Obj.kGen k) gen)

/-- The KEY entries of a request. -/
def twinKeys : List JBody → State → Option State
  | [], s => some s
  | .key k suite gen w :: r, s => (twinKey s k suite gen w).bind (twinKeys r)
  | _ :: r, s => twinKeys r s

/-- The WRITE entries of a request. -/
def stagedOf (bs : List JBody) : List Staged :=
  bs.filterMap (fun b => match b with
    | .write r d => some ⟨r, d⟩
    | _ => none)

/-- A WRITE of one field of a key slot. -/
def keyStaged (sub_ k len v : Nat) : Staged := ⟨⟨2, 0, 0, 0, 0x8100, sub_, 1, 0, k, len⟩, .num v⟩

/-- The writes of a request that waits for its instant, its KEY entries as writes of suite and material; none where a key does not
unwrap. -/
def stagedKeys (s : State) : List JBody → Option (List Staged)
  | [] => some []
  | .write r d :: bs => (stagedKeys s bs).map (fun ws => ⟨r, d⟩ :: ws)
  | .key k suite _ w :: bs => (twinMaterial s suite w).bind (fun m => (stagedKeys s bs).map (fun ws =>
      [keyStaged 1 k 1 suite, keyStaged 2 k (materialOctets suite) m] ++ ws))
  | _ :: bs => stagedKeys s bs

/-- One request applied under APPLY's principal and instant, whole or not at all (R356). Without an instant it acts at once. -/
def twinRequest (s : State) (p instant : Nat) (bs : List JBody) : Option State :=
  match if instant = 0 then (twinKeys bs s).map (fun t => (t, stagedOf bs)) else (stagedKeys s bs).map (fun ws => (s, ws)) with
  | none => none
  | some (t, ws) =>
    match twinWrites t (principalOf p) instant ws with
    | (0, u) => some (if instant = 0 then dueEffects (dueEffects u false 0) true (nextTick (u.tod + 1) - 1) else u)
    | _ => none

/-- A WINDOW entry (R147): the highest window the device holds of a context. -/
def twinWindow (s : State) (l : Nat) (send : Bool) (e w : Nat) : State :=
  if send then
    (if e < 4 then
      let x := s.txE l e
      s.setTxE l e { x with window := some (max (x.window.getD 0) w) }
     else s)
  else if e < 8 then
    let x := s.rxE l e
    s.setRxE l e { x with journaled := some (max (x.journaled.getD 0) w) }
  else s

/-- The state an operation left, or where it was refused the state before it. -/
def acceptedOr (r : Nat × State) (s : State) : State := if r.1 = 0 then r.2 else s

/-- A LEARN entry (R112). -/
def twinLearn (s : State) (l e ssrc : Nat) : State :=
  if e < 8 then
    let s1 := (s.wr (Obj.rxSsrc e l) ssrc).wr (Obj.rxLearn e l) 0
    acceptedOr (clsReserve s1 l) s1
  else s

/-- The digest noted at an entry. -/
def noteSum (s : State) (j : Nat) : State := { s with tw := { s.tw with sums := ((j, pointDigest s) :: s.tw.sums).take 1024 } }

/-- Entries applied in order: those of a request that is not whole yet, the state, whether a request was refused. -/
def applyEntries : List JEntry → List JEntry → State → List JEntry × State × Bool
  | [], acc, s => (acc, s, false)
  | e :: r, acc, s =>
    match e.body with
    | .apply instant p _ =>
      match twinRequest s p instant (acc.map JEntry.body) with
      | some t => applyEntries r [] (noteSum t e.jseq)
      | none => ([], s, true)
    | .window l send en w => applyEntries r acc (noteSum (twinWindow s l send en w) e.jseq)
    | .learn l en ssrc => applyEntries r acc (noteSum (twinLearn s l en ssrc) e.jseq)
    | .snapBegin _ => applyEntries r acc s
    | .snapEnd _ _ => applyEntries r acc s
    | _ => applyEntries r (acc ++ [e]) s

/-- The entries of a snapshot: a request that its device's own checks refuse is left out, which the digest then shows. -/
def applySnapshot : List JEntry → List JEntry → State → State
  | [], _, s => s
  | e :: r, acc, s =>
    match e.body with
    | .apply instant p _ => applySnapshot r [] ((twinRequest s p instant (acc.map JEntry.body)).getD s)
    | .window l send en w => applySnapshot r acc (twinWindow s l send en w)
    | .learn l en ssrc => applySnapshot r acc (twinLearn s l en ssrc)
    | .snapBegin _ => applySnapshot r acc s
    | .snapEnd _ _ => applySnapshot r acc s
    | _ => applySnapshot r (acc ++ [e]) s

/-! ### What a snapshot holds (R361) -/

/-- A write as a snapshot carries it; `flags` 2 for a shadow setting. -/
def snapWrite (ix sub el len flags : Nat) (d : Payload) : JBody :=
  .write ⟨2, 0, flags, 0, ix, sub, if tableCount ix = 0 then 0 else 1, 0, el, len⟩ d

/-- A value of the dictionary as such a write. -/
def snapValue (flags : Nat) (e : Nat × Nat) : JBody :=
  snapWrite (e.1 / 0x100000000) (e.1 / 0x1000000 % 256) (e.1 % 0x1000000) (lenOf (e.1 / 0x100000000) (e.1 / 0x1000000 % 256)) flags
    (.num e.2)

/-- An image as such a write. -/
def snapImage (ix : Nat) (i : Image) : List JBody := [snapWrite ix 0 0 i.octs.length 0 (.image i)]

/-- Objects whose value alone does not recreate what they stand for. -/
def snapSpecial (ix sub : Nat) : Bool :=
  decide (ix = 0x2101) || (sub = 1 && [0x2200, 0x4200, 0x6200, 0x6300, 0x2310, 0x2311].contains ix) ||
    (decide (0x7200 ≤ ix) && decide (ix ≤ 0x7203) && (decide (sub = 1) || decide (sub = 8))) || decide (ix / 4096 = 0xB) ||
    decide (0x8300 ≤ ix) && decide (ix < 0x9000)

/-- An object a snapshot writes with its value. -/
def snapPlain (e : Nat × Nat) : Bool :=
  let ix := e.1 / 0x100000000
  let sub := e.1 / 0x1000000 % 256
  match attrOf ix sub with
  | none => false
  | some a => !a.loc && !a.counter && decide (a.effect ≠ .tick) && decide (a.persist ≠ .fused) && !snapSpecial ix sub &&
      (decide (a.access = .rw) || decide (a.access = .rwl) || decide (a.access = .rws))

/-- A TICK-class setting. -/
def tickKey (k : Nat) : Bool := (attrOf (k / 0x100000000) (k / 0x1000000 % 256)).any (fun a => decide (a.effect = .tick) && !a.counter)

/-- The plain values, those of one record together. -/
def snapRecords (s : State) : List (List JBody) :=
  let all := s.dict.filter snapPlain
  let recs := (all.map (fun e => (e.1 / 0x100000000, e.1 % 0x1000000))).eraseDups
  recs.map (fun r => (all.filter (fun e => decide (e.1 / 0x100000000 = r.1) && decide (e.1 % 0x1000000 = r.2))).map (snapValue 0))

/-- The state field of the elements of a table that are enabled. -/
def snapOn (s : State) (ix : Nat) : List (List JBody) := (onElements s ix).map (fun el => [snapWrite ix 1 el 1 0 (.num 1)])

/-- Images in their objects, and the shipped programs that were unloaded. -/
def snapImages (s : State) : List (List JBody) :=
  ((tableImages s.mt.programs).map (snapImage 0x3040)) ++ (s.le.classifier.toList.map (snapImage 0x2030)) ++
    ((tableImages s.cp.programs).map (snapImage 0x5700)) ++ ((tableImages s.en.programs).map (snapImage 0x6050)) ++
    ((tableImages s.ad.programs).map (snapImage 0x7020)) ++
    (s.cp.opImages.map (fun x => [snapWrite 0x5600 (x.1 + 1) 0 (imageOctets x.2.1.width x.2.1.height x.2.1.alpha) 0 (.opImage x.2.1)])) ++
    (if s.en.shipped ∨ (AMap.get none 0 s.en.programs).isSome then [] else [[snapWrite 0x6051 0 0 2 0 (.num 0)]]) ++
    (if s.ad.shipped ∨ (AMap.get none 0 s.ad.programs).isSome then [] else [[snapWrite 0x7021 0 0 2 0 (.num 0)]])

/-- Loaded key slots other than TwinKek's. -/
def snapKeys (s : State) : List (List JBody) :=
  ((s.cip.material.map Prod.fst).filter (fun k => decide (some k ≠ s.kekSlot))).map (fun k =>
    [JBody.key k (s.rd (Obj.kSuite k)) (s.rd (Obj.kGen k))
      (twinWrap s (s.rd (Obj.kSuite k)) ((s.material k).getD 0))])

/-- The LegState writes that lead to a leg's present stage. -/
def snapLegs (s : State) (t : LegStage) : List (List JBody) :=
  let v := if t = .active then 2 else 1
  (legsWhere s (fun x => decide (x.stage = .active) || decide (x.stage = t))).map (fun l => [snapWrite 0x2101 0 l 1 0 (.num v)])

/-- Requests that take effect at once, in an order in which each finds what its checks need. -/
def snapNow (s : State) : List (List JBody) :=
  let ticks := s.dict.filter (fun e => tickKey e.1)
  let sets := ((ticks.filter (fun e => decide (e.1 / 0x100000000 = 0x5200))).map (fun e => e.1 % 0x1000000)).eraseDups
  let ops := ((ticks.filter (fun e => decide (e.1 / 0x100000000 = 0x5610))).map (fun e => e.1 % 0x1000000)).eraseDups
  snapImages s ++ snapKeys s ++ snapRecords s ++ snapOn s 0x2200 ++ snapLegs s .registered ++ snapLegs s .active ++ snapOn s 0x4200 ++
    [ticks.map (snapValue 2)] ++ ops.map (fun v => [snapWrite 0x5620 0 v 1 0 (.num 1)]) ++
    sets.map (fun c => [snapWrite 0x5210 0 c 1 0 (.num 1)]) ++ snapOn s 0x6200 ++ snapOn s 0x6300 ++
    (List.range 4).flatMap (fun f => ((s.dict.filter (fun e => decide (e.1 / 0x1000000 = (0x7200 + f) * 0x100 + 1))).map
      (fun e => [snapValue 0 e])) ++ ((s.dict.filter (fun e => decide (e.1 / 0x1000000 = (0x7200 + f) * 0x100 + 8))).map (fun e => [snapValue 0 e]))) ++
    s.cip.taps.map (fun t => [snapWrite (if t.isLeg then 0x2311 else 0x2310) 1 t.id 1 0 (.num 1)])

/-- Numbers among writes as WRITE entries. -/
def snapWrites (flags : Nat) (ws : List (Nat × Payload)) : List JBody :=
  ws.filterMap (fun w => match w.2 with
    | .num v => some (snapValue flags (w.1, v))
    | _ => none)

/-- A waiting effect: its requests with their instants. -/
def snapDeferred (s : State) (d : Deferred) : List (List JBody × Nat) :=
  let suites := (d.others.filter (fun e => decide (e.1 / 0x1000000 = 0x810001))).reverse.map (fun e => (e.1 % 0x1000000, e.2.2.value))
  let rest := d.others.map (fun e =>
    if e.1 / 0x1000000 = 0x810002 ∨ e.1 / 0x1000000 = 0x810003 then
      waitingKey s suites (e.1 / 0x1000000 % 256) (e.1 % 0x1000000) e.2.1 e.2.2
    else snapWrite (e.1 / 0x100000000) (e.1 / 0x1000000 % 256) (e.1 % 0x1000000) e.2.1 0 e.2.2)
  if d.isTick then
    [(snapWrites 2 (d.writes.filter (fun w => tickKey w.1)), 0),
      (d.csets.map (fun c => snapWrite 0x5210 0 c 1 0 (.num 1)) ++ rest, d.due)]
  else [(snapWrites 0 d.writes ++ rest, d.due)]

/-- Leg transitions that wait for their boundary. -/
def snapTurns (s : State) : List (List JBody × Nat) :=
  s.le.legs.flatMap (fun e => e.2.turn.map (fun t =>
    ([snapWrite 0x2101 0 e.1 1 0 (.num (if t.2 = .active then 2 else if t.2 = .registered then 1 else 0))], t.1)))

/-- Window reservations. -/
def snapWindows (s : State) : List JBody :=
  (s.le.tx.filterMap (fun e => e.2.window.map (fun w => JBody.window (e.1 / 4) true (e.1 % 4) w))) ++
    (s.le.rx.filterMap (fun e => e.2.journaled.map (fun w => JBody.window (e.1 / 8) false (e.1 % 8) w)))

/-- The requests of a snapshot with their instants, 0 for at once; the shadow copies come last. -/
def snapRequests (s : State) : List (List JBody × Nat) :=
  let shadows := (s.shadow.map Prod.fst ++ (s.dict.map Prod.fst).filter tickKey).eraseDups
  (snapNow s).map (fun b => (b, 0)) ++ s.ctl.deferred.flatMap (snapDeferred s) ++ snapTurns s ++
    [(shadows.map (fun k => snapValue 2 (k, s.rdShadow k)), 0)]

/-- The contents of a snapshot's entries. -/
def snapBodies (s : State) : List JBody :=
  [JBody.snapBegin s.lastJseq] ++
    ((snapRequests s).filter (fun q => !q.1.isEmpty)).flatMap (fun q => q.1 ++ [JBody.apply q.2 1 0]) ++ snapWindows s ++
    [JBody.snapEnd s.lastJseq (pointDigest s)]

/-- Entries cut into frames of at most 124; `fuel` bounds them. -/
def frames : Nat → List JEntry → List (List JEntry)
  | 0, _ => []
  | n + 1, es => if es.isEmpty then [] else es.take 124 :: frames n (es.drop 124)

/-- The snapshot sent, with the proof of the common key (R361, R362). -/
def sendSnapshot (s : State) : State :=
  if s.role ≠ 1 then s
  else
    let es := (snapBodies s).map (fun b => JEntry.mk s.lastJseq (jSpan b) b true)
    let s1 := (frames es.length es).foldl (fun (t : State) f => t.twSend (.snapshot f)) s
    (s1.twSend (.ctrl (.kekProof (twinWrap s 8 0)))).inc Obj.snapshots

end Sys2Proof.Machine
end

