-- ==== Sys2Proof/Machine/Twin.lean ====
section
/-! DEFINITION. The twin unit (R347 to R364): heartbeats on both paths, the contest, arming, fencing, the journal's exchange, the Equinox
handover. -/

namespace Sys2Proof.Machine

/-! ### Loss of protection, contests -/

/-- The active is unprotected from now on (R355, Table 15.2): every outstanding entry is committed at once. -/
def unprotect (s : State) : State :=
  let s1 := ((s.wr Obj.twProtected 0).wr Obj.jseqCommitted s.lastJseq).event Ev.twinUnprotected 0 0
  drain { s1 with tw := { s1.tw with sent := [] } }

/-- The contest of R348 is won against a peer's heartbeat. -/
def contestWon (s : State) (h : Heartbeat) : Bool :=
  decide (h.epoch < s.rd Obj.twEpoch) || (decide (h.epoch = s.rd Obj.twEpoch) && decide (Config.serial % 2 ^ 64 < h.serial))

/-- A SOLO device hears a peer (Table 15.2). -/
def firstHeard (s : State) (h : Heartbeat) : State :=
  if contestWon s h then
    let s1 := s.wr Obj.twEpoch (max (s.rd Obj.twEpoch) 1)
    setRole { s1 with tw := { s1.tw with ignoreAcks := false } } 1
  else loseContest (s.event Ev.twinFenced 0 0)

/-- Both devices claim ACTIVE (Table 15.2). -/
def dualActive (s : State) (h : Heartbeat) : State :=
  if !contestWon s h then loseContest (s.event Ev.twinDualActive 0 0)
  else if s.tw.ignoreAcks then s
  else
    let s1 := s.event Ev.twinDualActive 0 0
    { s1 with tw := { s1.tw with ignoreAcks := true } }

/-! ### Equinox (R359) -/

/-- Step 3: the send index goes to the window after the highest reservation, the replay floor to the highest receive window's first
index (R148); offsets are drawn anew and the first packets carry the marker (R375). -/
def takeTx (s : State) (e : Nat × TxEntry) : State :=
  let (o, s1) := s.random 32
  let x := e.2
  let i : Nat := match x.window with
    | some w => (w + 1) * 4096
    | none => x.index
  let y : TxEntry := { x with
    index := i
    window := none
    offset := o
    mark := true }
  { s1 with le := { s1.le with tx := AMap.put TxEntry.idle e.1 y s1.le.tx } }

def takeRx (s : State) (e : Nat × RxEntry) : State :=
  match e.2.journaled with
  | some w =>
    let y : RxEntry := { RxEntry.idle with
      floor := w * 4096
      highest := w * 4096
      roc := w * 4096 / 65536 }
    { s with le := { s.le with rx := AMap.put RxEntry.idle e.1 y s.le.rx } }
  | none => s

/-- Steps 4 and 5 for an ACTIVE leg. -/
def takeLeg (s : State) (l : Nat) : State :=
  let s1 := jitterRestart (clsLive s l true) l
  let s2 := s1.setLeg l { s1.leg l with
    live := true
    paths := []
    lastRx := s1.mono }
  let s3 := followRoute s2 l
  ((s3.rxUsed l).filter (fun e => decide (s3.rd (Obj.rxKind e l) = 2))).foldl (fun t e => (t.askKey l e).2) s3

/-- Step 8 for an ACTIVE leg. -/
def takeFeeds (s : State) (l : Nat) : State :=
  let s1 := (List.range 4).foldl (fun t f =>
    if t.rd (Obj.feedMode f l) = 0 then t
    else
      let fresh : FeedRt := { FeedRt.idle with
        nextTick := t.mono + 100 * ms
        lastMove := t.mono }
      ((t.setFeed l f fresh).wr (Obj.feedCurrent f l) 255).wr (Obj.feedPending f l) 255) s
  shaperReset (s1.wr (Obj.estimate l) (s1.rd (Obj.startRate l))) l

/-- Step 9: counters start from 0. -/
def takeCounters (s : State) : State :=
  { s with dict := s.dict.filter (fun e => decide (e.1 / 0x100000000 = 0xB040) ||
    !(attrOf (e.1 / 0x100000000) (e.1 / 0x1000000 % 256)).any Attr.counter) }

/-- The steps of the Equinox after the role has changed. -/
def takeMedia (s : State) : State :=
  let act := legsWhere s (fun x => decide (x.stage = .active))
  let s1 := s.le.rx.foldl takeRx (s.le.tx.foldl takeTx s)
  let s2 := act.foldl takeLeg s1
  let s3 := (onElements s2 0x4200).foldl dctxLost s2
  let s4 := (enabledRctx s3).foldl rctxRestart s3
  takeCounters (act.foldl takeFeeds s4)

/-- A failure is declared: the STANDBY takes over. -/
def equinox (s : State) : State :=
  if s.role ≠ 2 then s
  else
    let s1 := { s with tw := { s.tw with
      stored := []
      takeover := true
      failReport := false
      nextJseq := s.tw.rxNext
      sent := []
      requests := []
      ignoreAcks := false } }
    let s2 := s1.wr Obj.twEpoch (max (s1.rd Obj.twEpoch) s1.tw.highest + 1)
    let s3 := takeMedia (setRole s2 1)
    ((s3.wr Obj.lastEquinox (time80 s3.tod)).inc Obj.equinoxes).event Ev.twinEquinox 0 0

/-! ### Arming (R362) -/

/-- A device that stays COLD with another reason says so once. -/
def stayCold (s : State) (reason : Nat) : State := if s.rd Obj.coldReason = reason then s else coldFor s reason

/-- The offset as a signed number of nanoseconds. -/
def State.twinOffset (s : State) : Int := sgn 32 (s.rd Obj.timeOffset)

/-- The checks of Table 15.8 against the peer's last heartbeat, in its order; configuration is checked where the snapshot ends. -/
def armCheck (s : State) : State :=
  match s.tw.peer with
  | none => s
  | some h =>
    if h.role ≠ 1 then s
    else if h.firmware ≠ s.rd Obj.firmwareVersion then stayCold s 2
    else if 100000 < s.twinOffset.natAbs then stayCold { s with tw := { s.tw with recheckAt := s.mono } } 4
    else if 1000 < s.twinOffset.natAbs then s
    else if h.thb ≠ s.rd Obj.thb then stayCold s 5
    else if !h.sizesOk then stayCold s 6
    else if !s.tw.kekProof then stayCold s 9
    else (((setRole s 2).wr Obj.coldReason 0).wr Obj.twEpoch h.epoch).event Ev.twinArmed 0 0

/-- Snapshot and stored entries are applied. -/
def synced (s : State) : Bool := decide (s.role = 3) && decide (s.rd Obj.syncProgress = 1000)

/-- SNAPSHOT_APPLIED (R361, R362): the snapshot, then the entries stored beyond it; a digest that differs brings one more snapshot,
then COLD with DIGEST. -/
def snapshotApplied (s : State) : State :=
  match s.tw.snapStarted, s.tw.snapEnd with
  | some j0, some d =>
    if s.role ≠ 3 then s
    else
      let s1 := applySnapshot s.tw.snapStored [] (twinReset s)
      if pointDigest s1 ≠ d then
        if s.tw.snapRetried then
          stayCold { s1 with tw := { s1.tw with
            snapAsked := false
            snapStarted := none
            snapStored := []
            snapEnd := none
            stored := [] } } 3
        else askSnapshot { s1 with tw := { s1.tw with snapRetried := true } }
      else
        let s2 := noteSum { s1 with tw := { s1.tw with
          snapAsked := false
          snapStarted := none
          snapStored := []
          snapEnd := none
          snapRetried := false
          sums := [] } } j0
        match applyEntries s.tw.stored [] s2 with
        | (rest, t, false) => armCheck ({ t with tw := { t.tw with stored := rest } }.wr Obj.syncProgress 1000)
        | (_, t, true) => (stayCold { t with tw := { t.tw with stored := [] } } 7).event Ev.twinDiverged 0 0
  | _, _ => s

/-- TIME_RECHECK_EXPIRY (R362): every 1 s. -/
def timeRecheck (s : State) : State :=
  if synced s ∧ s.rd Obj.coldReason = 4 ∧ s.tw.recheckAt + 1000000000 ≤ s.mono then
    armCheck { s with tw := { s.tw with recheckAt := s.mono } }
  else s

/-! ### Heartbeats in band (R350) -/

/-- The entry up to which this device has journaled or received. -/
def State.hbJseq (s : State) : Nat := if s.role = 1 then s.lastJseq else (s.tw.rxNext + 0xFFFFFFFF) % 0x100000000

/-- The digest a heartbeat tells and the entry it stands at: a new one where nothing waits for its commitment. -/
def State.hbDigest (s : State) : Nat × Nat :=
  if s.role ≠ 1 ∨ s.tw.requests.all (fun q => q.last.isNone) then (pointDigest s, s.hbJseq) else (s.tw.digest, s.tw.digestAt)

/-- The heartbeat that tells the present. -/
def State.heartbeat (s : State) : Heartbeat :=
  ⟨Config.serial % 2 ^ 64, s.role, s.isProtected, s.tw.failReport, s.tw.planned, s.tw.takeover, s.rd Obj.twEpoch,
    s.rd Obj.firmwareVersion, s.rd Obj.thb, s.hbJseq, s.hbDigest.1, s.hbDigest.2, (s.tw.hbSeq + 1) % 0x100000000, s.tw.prevTx,
    s.tw.rxSeq, s.tw.rxTime, true⟩

/-- What a device notes of a heartbeat it sends: the liveness pulse, its number and instant, the digest. -/
def State.hbNoted (s : State) : State :=
  { s with tw := { s.tw with
    pulse := s.mono
    pulseLost := false
    hbSeq := (s.tw.hbSeq + 1) % 0x100000000
    prevTx := s.tod
    digest := s.hbDigest.1
    digestAt := s.hbDigest.2 } }

/-- TWIN_HB_TX: the heartbeat, with a liveness pulse. -/
def hbTx (s : State) : State :=
  if !s.paired ∨ (s.tw.hbSeq ≠ 0 ∧ s.mono < s.tw.pulse + 100000) then s
  else if 2 ≤ (s.nq 6).stage then s.hbNoted.twSend (.hb s.heartbeat) else s.hbNoted

/-- The standby's offset from the active by this exchange, where it completes one. -/
def exchange (s : State) (h : Heartbeat) : Option Int :=
  if s.tw.rxSeq ≠ 0 ∧ s.tw.rxSeq + 1 = h.hbSeq ∧ h.rxSeq = s.tw.hbSeq ∧ s.tw.hbSeq ≠ 0 then
    let a : Int := (s.tw.rxTime : Int) - h.prevTx
    let b : Int := (h.rxTime : Int) - s.tw.prevTx
    some (if s.role = 1 then (b - a) / 2 else (a - b) / 2)
  else none

/-- TimeOffset over the last 64 exchanges; a device that does not serve is steered by it. -/
def noteOffset (s : State) (o : Option Int) : State :=
  match o with
  | none => s
  | some v =>
    let os := (v :: s.tw.offsets).take 64
    let mean := os.sum / (os.length : Int)
    let s1 := { s with tw := { s.tw with offsets := os } }.wr Obj.timeOffset (uns 32 (clip (-2147483648) 2147483647 mean))
    if s.role < 2 then s1
    else if 100000 < mean.natAbs then
      let t := twinSteer s1 mean
      { t with tw := { t.tw with offsets := [] } }
    else twinSteer s1 mean

/-- What a heartbeat means to a device of each role (Table 15.2, R348, R352, R357, R362). -/
def hbRole (s : State) (h : Heartbeat) : State :=
  match s.role with
  | 0 => firstHeard s h
  | 1 =>
    let s1 := if h.takeover then fence s else s
    if h.role = 1 then dualActive s1 h
    else
      let s2 := if h.role = 3 then { s1 with tw := { s1.tw with ignoreAcks := false } } else s1
      if s2.isProtected ∧ h.role ≠ 2 then unprotect s2
      else if h.role = 2 ∧ ¬ s2.tw.ignoreAcks then s2.wr Obj.twProtected 1
      else s2
  | 2 =>
    let s1 := { s with tw := { s.tw with highest := max s.tw.highest h.epoch } }
    if h.fail then equinox s1
    else if h.role ≠ 1 then s1
    else if h.thb ≠ s1.rd Obj.thb then coldFor s1 5
    else if !h.sizesOk then coldFor s1 6
    else if s1.tw.sums.any (fun e => decide (e.1 = h.digestJseq) && decide (e.2 ≠ h.digest)) then
      askSnapshot { coldFor s1 3 with tw := { (coldFor s1 3).tw with snapRetried := true } }
    else if 10000 < s1.twinOffset.natAbs then coldFor s1 4
    else s1.wr Obj.twEpoch h.epoch
  | _ =>
    let s1 := { s with tw := { s.tw with highest := max s.tw.highest h.epoch } }
    if synced s1 ∧ [1, 5, 6, 9].contains (s1.rd Obj.coldReason) then armCheck s1 else s1

/-- TWIN_HB_RX: the oldest heartbeat received. One of a device that PeerSerial does not name is ignored. -/
def hbTake (s : State) (h : Heartbeat) (arrival : Nat) : State :=
  let want := s.rd Obj.twPeerSerialCfg
  if !s.paired then s
  else if want ≠ 0 ∧ want ≠ h.serial then
    (if s.tw.mismatch then s else { s with tw := { s.tw with mismatch := true } }.event Ev.twinPeerMismatch 0 0)
  else
    let s1 := noteOffset s (exchange s h)
    let s2 := { s1 with tw := { s1.tw with
      peer := some h
      heardIn := s1.mono
      silentIn := false
      mismatch := false
      rxSeq := h.hbSeq
      rxTime := arrival } }
    hbRole (s2.wr Obj.twPeerSerial h.serial) h

/-- A frame with an in-band heartbeat. -/
def hbFrame (f : FabFrame) : Bool :=
  match f.msg with
  | .twin (.hb _) => true
  | _ => false

def hbRx (s : State) : State :=
  match s.takeFrame hbFrame with
  | (some (_, a, f), t) =>
    match f.msg with
    | .twin (.hb h) => hbTake t h ((a : Int) + sgn 32 (t.rd (Obj.asymmetry 8))).toNat
    | _ => t
  | (none, t) => t

/-! ### Heartbeats out of band (R351, R352) -/

/-- Thb in nanoseconds. -/
def State.thbNs (s : State) : Nat := s.rd Obj.thb * 1000

/-- HB_SYMBOL_TX: DISARM, TAKEOVER, FAIL, or ALIVE after a liveness pulse within the last Thb; one symbol for each multiple of 250 µs. -/
def hbSymbolTx (s : State) : State :=
  let slot := s.mono / 250000 + 1
  let x := { s.tw with hbSlot := slot }
  let send (y : Twin) (code : Nat) : State := { s with tw := y }.emit (.hbSymbol code (decide (s.role = 1)) (decide (s.role = 2)))
  if s.pw.boot = .unpowered ∨ slot ≤ s.tw.hbSlot then s
  else if s.tw.disarm then send { x with disarm := false } 3
  else if s.tw.takeover then send { x with takeover := false } 2
  else if s.tw.failReport then send { x with failReport := false, planned := false } 1
  else if !s.paired then s
  else if s.tw.pulseLost then send x 1
  else if s.mono ≤ s.tw.pulse + s.thbNs then send x 0
  else s

/-- DISARM received (R355). -/
def disarmed (s : State) : State := if s.role = 2 then askSnapshot (coldFor s 8) else s

/-- HB_SYMBOL_RX: a symbol of right parity; it is a wake event too (R388). -/
def hbSymbolRx (s0 : State) (code : Nat) (parityOk : Bool) : State :=
  if !parityOk then s0
  else
    let s := s0.wake .hbRx
    if !s.running ∨ !s.paired then s
    else match code with
      | 0 => { s with tw := { s.tw with heardOob := s.mono, silentOob := false } }
      | 1 => equinox s
      | 2 => fence s
      | _ => disarmed s

/-- LIVENESS_TIMEOUT (R351, R357). -/
def livenessTimeout (s : State) : State :=
  if s.paired ∧ ¬ s.tw.pulseLost ∧ s.tw.pulse + s.thbNs ≤ s.mono then
    let s1 := fence s
    { s1 with tw := { s1.tw with pulseLost := true } }
  else s

/-- PEER_SILENCE_TIMEOUT (R352): each path's silence counts once. -/
def peerSilence (s : State) : State :=
  if !s.paired then s
  else
    let quietIn := decide (s.tw.heardIn + s.thbNs ≤ s.mono)
    let quietOob := decide (s.tw.heardOob + s.thbNs ≤ s.mono)
    let newIn := quietIn && !s.tw.silentIn
    let newOob := quietOob && !s.tw.silentOob
    let s1 := if newIn then { s with tw := { s.tw with silentIn := true } }.inc Obj.hbSilentInband else s
    let s2 := if newOob then { s1 with tw := { s1.tw with silentOob := true } }.inc Obj.hbSilentOob else s1
    let s3 := if (newIn && !quietOob) || (newOob && !quietIn) then s2.event Ev.twinHbPathLost 0 0 else s2
    if quietIn && quietOob then
      if s3.role = 2 then equinox s3
      else if s3.role = 3 ∧ (newIn ∨ newOob) then s3.event Ev.twinPeerLost 0 0
      else s3
    else s3

/-! ### The journal's exchange (R354 to R356) -/

/-- Memory that stored entries take. -/
def storedOctets (es : List JEntry) : Nat := 64 * (es.map JEntry.span).sum

/-- A received entry stored without a gap; the flag says that a gap was met. -/
def storeEntry (acc : State × Bool) (e : JEntry) : State × Bool :=
  let (s, gap) := acc
  let next := s.tw.rxNext
  let take := { s with tw := { s.tw with
    stored := s.tw.stored ++ [e]
    rxNext := (e.jseq + 1) % 0x100000000 } }
  if gap then acc
  else if !e.crcOk then (s, true)
  else if e.first = next then (take, false)
  else if s.role = 3 ∧ ¬ synced s ∧ s.tw.snapStarted.isNone then
    ({ take with tw := { take.tw with stored := [e] } }, false)
  else if jAfter e.first next then (s, true)
  else (s, false)

/-- Stored entries applied as far as they make whole requests; a refused one makes the device COLD, DIVERGED (R356). -/
def applyStored (s : State) : State :=
  match applyEntries s.tw.stored [] { s with tw := { s.tw with stored := [] } } with
  | (rest, t, false) => { t with tw := { t.tw with stored := rest } }
  | (_, t, true) => ((coldFor t 7).wr Obj.syncProgress 0).event Ev.twinDiverged 0 0

/-- JOURNAL_RX: entries checked, stored, acknowledged and applied; a gap asks for a resend, or where nothing can be resent for a new
snapshot. -/
def journalTake (s : State) (es : List JEntry) : State :=
  if s.role = 2 ∨ (s.role = 3 ∧ (s.tw.snapAsked ∨ synced s)) then
    let (s1, gap) := es.foldl storeEntry (s, false)
    if s1.role = 2 then
      let s2 := s1.twSend (.ack ((s1.tw.rxNext + 0xFFFFFFFF) % 0x100000000))
      applyStored (if gap then s2.twSend (.ctrl (.resend (some s2.tw.rxNext))) else s2)
    else if gap ∨ 268435456 < storedOctets s1.tw.stored then askSnapshot s1
    else if synced s1 then applyStored s1
    else s1
  else s

/-- A JOURNAL frame. -/
def journalFrame (f : FabFrame) : Bool :=
  match f.msg with
  | .twin (.journal _) => true
  | _ => false

def journalRx (s : State) : State :=
  match s.takeFrame journalFrame with
  | (some (_, _, f), t) =>
    match f.msg with
    | .twin (.journal es) => journalTake t es
    | _ => t
  | (none, t) => t

/-- JOURNAL_ACK_RX: entries up to the acknowledged one are committed, and the requests they end are applied and answered. -/
def ackTake (s : State) (j : Nat) : State :=
  if s.role ≠ 1 ∨ s.tw.ignoreAcks ∨ ¬ s.isProtected then s
  else
    let s1 := { s with tw := { s.tw with sent := s.tw.sent.filter (fun e => jAfter e.entry.jseq j) } }
    drain (s1.wr Obj.jseqCommitted j)

/-- A JOURNAL_ACK frame. -/
def ackFrame (f : FabFrame) : Bool :=
  match f.msg with
  | .twin (.ack _) => true
  | _ => false

def journalAckRx (s : State) : State :=
  match s.takeFrame ackFrame with
  | (some (_, _, f), t) =>
    match f.msg with
    | .twin (.ack j) => ackTake t j
    | _ => t
  | (none, t) => t

/-- Entries sent again. -/
def resend (s : State) (p : JSent → Bool) : State :=
  let es := s.tw.sent.filter p
  if es.isEmpty then s
  else
    let s1 := { s with tw := { s.tw with sent := s.tw.sent.map (fun (x : JSent) =>
      if p x then { x with sent := s.mono, resent := true } else x) } }
    (s1.twSend (.journal (es.map JSent.entry))).count Obj.journalResends es.length

/-- JOURNAL_RESEND_EXPIRY (R355). -/
def resendExpiry (s : State) : State :=
  if s.isProtected then resend s (fun e => !e.resent && decide (e.sent + 200000 ≤ s.mono)) else s

/-- STANDBY_LOST_EXPIRY (R355): DISARM on both paths, and the active is unprotected. -/
def standbyLost (s : State) : State :=
  if s.isProtected ∧ s.tw.sent.any (fun e => e.resent && decide (e.sent + 200000 ≤ s.mono)) then
    let s1 := s.twSend (.ctrl .disarm)
    unprotect { s1 with tw := { s1.tw with disarm := true } }
  else s

/-! ### TWIN_CTRL and SNAPSHOT frames -/

/-- A TWIN_CTRL frame that says what `sel` asks for. -/
def ctrlFrame (sel : TwinCtrl → Bool) (f : FabFrame) : Bool :=
  match f.msg with
  | .twin (.ctrl c) => sel c
  | _ => false

def TwinCtrl.isProof : TwinCtrl → Bool
  | .kekProof _ => true
  | _ => false

def TwinCtrl.isResend : TwinCtrl → Bool
  | .resend _ => true
  | _ => false

/-- The oldest TWIN_CTRL frame received that says what `sel` asks for. -/
def takeCtrl (s : State) (sel : TwinCtrl → Bool) : Option TwinCtrl × State :=
  match s.takeFrame (ctrlFrame sel) with
  | (some (_, _, f), t) =>
    match f.msg with
    | .twin (.ctrl c) => (some c, t)
    | _ => (none, t)
  | (none, t) => (none, t)

/-- TWIN_CTRL_DETACH (Table 15.2). -/
def ctrlDetach (s : State) : State :=
  match takeCtrl s (fun c => decide (c = .detach)) with
  | (some _, t) => if t.paired then detach t else t
  | (none, t) => t

/-- TWIN_CTRL_DISARM (R355). -/
def ctrlDisarm (s : State) : State :=
  match takeCtrl s (fun c => decide (c = .disarm)) with
  | (some _, t) => disarmed t
  | (none, t) => t

/-- TWIN_CTRL_KEK_PROOF (R362): it unwraps under TwinKek, or does not. -/
def ctrlProof (s : State) : State :=
  match takeCtrl s TwinCtrl.isProof with
  | (some (.kekProof w), t) => { t with tw := { t.tw with kekProof := (twinMaterial t 8 w).isSome } }
  | (_, t) => t

/-- TWIN_CTRL_RESEND_REQUEST (R355, R361): entries from one on, or a snapshot. -/
def ctrlResend (s : State) : State :=
  match takeCtrl s TwinCtrl.isResend with
  | (some (.resend (some n)), t) => if t.role = 1 then resend t (fun e => !jAfter n e.entry.jseq) else t
  | (some (.resend none), t) => sendSnapshot t
  | (_, t) => t

/-- One entry of a snapshot received (R361). At SNAP_BEGIN the journal entries stored beyond J0 are kept. -/
def snapEntry (s : State) (e : JEntry) : State :=
  match e.body with
  | .snapBegin j0 =>
    let keep := s.tw.stored.filter (fun x => jAfter x.jseq j0)
    { s with tw := { s.tw with
      snapStarted := some j0
      snapStored := []
      snapEnd := none
      stored := keep
      rxNext := if keep.isEmpty then (j0 + 1) % 0x100000000 else s.tw.rxNext } }
  | .snapEnd _ d => { s with tw := { s.tw with snapEnd := some d } }.inc Obj.snapshots
  | _ => { s with tw := { s.tw with snapStored := s.tw.snapStored ++ [e] } }

/-- The stored journal goes on without a gap from J0. -/
def storedFollows (s : State) : Bool :=
  match s.tw.snapStarted, s.tw.stored.head? with
  | some j0, some e => decide (e.first = (j0 + 1) % 0x100000000)
  | _, _ => true

/-- SNAPSHOT_RX (R361): damage, a gap or an overflow discards the snapshot and asks for a new one. -/
def snapshotTake (s : State) (es : List JEntry) : State :=
  if s.role ≠ 3 ∨ ¬ s.tw.snapAsked then s
  else if es.any (fun e => !e.crcOk) then askSnapshot s
  else
    let s1 := es.foldl snapEntry s
    if !storedFollows s1 ∨ 268435456 < storedOctets s1.tw.stored then askSnapshot s1 else s1

/-- A SNAPSHOT frame. -/
def snapshotFrame (f : FabFrame) : Bool :=
  match f.msg with
  | .twin (.snapshot _) => true
  | _ => false

def snapshotRx (s : State) : State :=
  match s.takeFrame snapshotFrame with
  | (some (_, _, f), t) =>
    match f.msg with
    | .twin (.snapshot es) => snapshotTake t es
    | _ => t
  | (none, t) => t

/-! ### The commands -/

def execTwinHbTx (s : State) : Host.Outcome State Fault Refusal := .next (if s.running then hbTx s else s)
def execTwinHbRx (s : State) : Host.Outcome State Fault Refusal := .next (if s.running then hbRx s else s)
def execHbSymbolTx (s : State) : Host.Outcome State Fault Refusal := .next (hbSymbolTx s)

/-- HB_SYMBOL_RX: ACT and ARMED tell the sender's role and change nothing. -/
def execHbSymbolRx (code : Nat) (_act _armed parityOk : Bool) (s : State) : Host.Outcome State Fault Refusal :=
  .next (hbSymbolRx s code parityOk)
def execLivenessTimeout (s : State) : Host.Outcome State Fault Refusal := .next (livenessTimeout s)
def execPeerSilenceTimeout (s : State) : Host.Outcome State Fault Refusal := .next (if s.running then peerSilence s else s)
def execJournalRx (s : State) : Host.Outcome State Fault Refusal := .next (if s.running then journalRx s else s)
def execJournalAckRx (s : State) : Host.Outcome State Fault Refusal := .next (if s.running then journalAckRx s else s)
def execJournalResendExpiry (s : State) : Host.Outcome State Fault Refusal := .next (if s.running then resendExpiry s else s)
def execStandbyLostExpiry (s : State) : Host.Outcome State Fault Refusal := .next (if s.running then standbyLost s else s)
def execTwinCtrlDetach (s : State) : Host.Outcome State Fault Refusal := .next (if s.running then ctrlDetach s else s)
def execTwinCtrlDisarm (s : State) : Host.Outcome State Fault Refusal := .next (if s.running then ctrlDisarm s else s)
def execTwinCtrlKekProof (s : State) : Host.Outcome State Fault Refusal := .next (if s.running then ctrlProof s else s)
def execTwinCtrlResendRequest (s : State) : Host.Outcome State Fault Refusal := .next (if s.running then ctrlResend s else s)
def execSnapshotRx (s : State) : Host.Outcome State Fault Refusal := .next (if s.running then snapshotRx s else s)
def execSnapshotApplied (s : State) : Host.Outcome State Fault Refusal := .next (if s.running then snapshotApplied s else s)
def execTimeRecheckExpiry (s : State) : Host.Outcome State Fault Refusal := .next (if s.running then timeRecheck s else s)

end Sys2Proof.Machine
end

