-- ==== Sys2Proof/Machine/Dispatch.lean ====
section
/-! DEFINITION. The dispatch: one arm per command, each one call of its meaning. -/

namespace Sys2Proof.Machine

def exec (i : Instr) (s : State) : Host.Outcome State Fault Refusal :=
  match i with
  | .dictRead ch r addr => Sys2Proof.Machine.execDictRead ch r addr s
  | .dictWrite ch r d => Sys2Proof.Machine.execDictWrite ch r d s
  | .describe ch r => Sys2Proof.Machine.execDescribe ch r s
  | .groupOpen ch tag => Sys2Proof.Machine.execGroupOpen ch tag s
  | .groupCommit ch tag g => Sys2Proof.Machine.execGroupCommit ch tag g s
  | .groupDiscard ch tag g => Sys2Proof.Machine.execGroupDiscard ch tag g s
  | .groupTimeoutExpiry g => Sys2Proof.Machine.execGroupTimeoutExpiry g s
  | .persistImageWrite ch tag d => Sys2Proof.Machine.execPersistImageWrite ch tag d s
  | .operatorSessionOpen ch tag t => Sys2Proof.Machine.execOperatorSessionOpen ch tag t s
  | .operatorSessionClose ch tag => Sys2Proof.Machine.execOperatorSessionClose ch tag s
  | .indirectTransferDone n d => Sys2Proof.Machine.execIndirectTransferDone n d s
  | .hostReadCompletionTimeout isRing n addr => Sys2Proof.Machine.execHostReadCompletionTimeout isRing n addr s
  | .hostReadErrorCompletion isRing n addr => Sys2Proof.Machine.execHostReadErrorCompletion isRing n addr s
  | .dtpDatagramRx d => Sys2Proof.Machine.execDtpDatagramRx d s
  | .dtpOpen intact => Sys2Proof.Machine.execDtpOpen intact s
  | .dtpSigfrag intact session fragment fragments len g => Sys2Proof.Machine.execDtpSigfrag intact session fragment fragments len g s
  | .dtpSessionOpenTimeout session => Sys2Proof.Machine.execDtpSessionOpenTimeout session s
  | .peerDictMessage => Sys2Proof.Machine.execPeerDictMessage s
  | .mixFrameBoundary => Sys2Proof.Machine.execMixFrameBoundary s
  | .functionLevelReset => Sys2Proof.Machine.execFunctionLevelReset s
  | .registerWrite r isRead v => Sys2Proof.Machine.execRegisterWrite r isRead v s
  | .bar2Read a n => Sys2Proof.Machine.execBar2Read a n s
  | .bar2Write a octets => Sys2Proof.Machine.execBar2Write a octets s
  | .mbxMsgWrite n j v => Sys2Proof.Machine.execMbxMsgWrite n j v s
  | .mbxGoSet n v => Sys2Proof.Machine.execMbxGoSet n v s
  | .mbxTake n => Sys2Proof.Machine.execMbxTake n s
  | .mbxResponseTaken n => Sys2Proof.Machine.execMbxResponseTaken n s
  | .mbxDropRead isD2h n => Sys2Proof.Machine.execMbxDropRead isD2h n s
  | .devUnmappedRead => Sys2Proof.Machine.execDevUnmappedRead s
  | .devBar2DeniedRead => Sys2Proof.Machine.execDevBar2DeniedRead s
  | .irqCauseClear v => Sys2Proof.Machine.execIrqCauseClear v s
  | .dmaErrCauseClear v => Sys2Proof.Machine.execDmaErrCauseClear v s
  | .msixVectorUnmask v => Sys2Proof.Machine.execMsixVectorUnmask v s
  | .ringEnable r ctrl => Sys2Proof.Machine.execRingEnable r ctrl s
  | .ringDisable r ctrl => Sys2Proof.Machine.execRingDisable r ctrl s
  | .doorbellH2d r v => Sys2Proof.Machine.execDoorbellH2d r v s
  | .doorbellD2h r v => Sys2Proof.Machine.execDoorbellD2h r v s
  | .ringFlush r => Sys2Proof.Machine.execRingFlush r s
  | .ringWmcntRead r => Sys2Proof.Machine.execRingWmcntRead r s
  | .wmCrossedClear n => Sys2Proof.Machine.execWmCrossedClear n s
  | .ringItemFetch r w => Sys2Proof.Machine.execRingItemFetch r w s
  | .queueReserve n a => Sys2Proof.Machine.execQueueReserve n a s
  | .queueClose n body => Sys2Proof.Machine.execQueueClose n body s
  | .queueFlush ch tag g q => Sys2Proof.Machine.execQueueFlush ch tag g q s
  | .legRegister ch tag g l => Sys2Proof.Machine.execLegRegister ch tag g l s
  | .legActivate ch tag g l => Sys2Proof.Machine.execLegActivate ch tag g l s
  | .legDeactivate ch tag g l => Sys2Proof.Machine.execLegDeactivate ch tag g l s
  | .legFree ch tag g l => Sys2Proof.Machine.execLegFree ch tag g l s
  | .legQuiescent l => Sys2Proof.Machine.execLegQuiescent l s
  | .egressQueueRelease l => Sys2Proof.Machine.execEgressQueueRelease l s
  | .legRxTimeout l => Sys2Proof.Machine.execLegRxTimeout l s
  | .confActivate ch tag g c => Sys2Proof.Machine.execConfActivate ch tag g c s
  | .confFree ch tag g c => Sys2Proof.Machine.execConfFree ch tag g c s
  | .anchorRepoint ch tag g c isConf v => Sys2Proof.Machine.execAnchorRepoint ch tag g c isConf v s
  | .ethFrameRx port f => Sys2Proof.Machine.execEthFrameRx port f s
  | .frameClassify v overrun => Sys2Proof.Machine.execFrameClassify v overrun s
  | .classifierImageWrite ch tag g im => Sys2Proof.Machine.execClassifierImageWrite ch tag g im s
  | .cipherDispatch k => Sys2Proof.Machine.execCipherDispatch k s
  | .cipherResultRelease k mismatch => Sys2Proof.Machine.execCipherResultRelease k mismatch s
  | .jitterDepthAdjust l => Sys2Proof.Machine.execJitterDepthAdjust l s
  | .videoWaitExpiry l e => Sys2Proof.Machine.execVideoWaitExpiry l e s
  | .nackSend l e => Sys2Proof.Machine.execNackSend l e s
  | .nackRetry l e => Sys2Proof.Machine.execNackRetry l e s
  | .rtcpReportTimer l => Sys2Proof.Machine.execRtcpReportTimer l s
  | .promptItemFetch j w p => Sys2Proof.Machine.execPromptItemFetch j w p s
  | .tapEnable ch tag g isLeg id => Sys2Proof.Machine.execTapEnable ch tag g isLeg id s
  | .tapSectorWrite isLeg id => Sys2Proof.Machine.execTapSectorWrite isLeg id s
  | .keySuiteWrite ch tag g k v => Sys2Proof.Machine.execKeySuiteWrite ch tag g k v s
  | .keyLoad ch tag g k len m => Sys2Proof.Machine.execKeyLoad ch tag g k len m s
  | .keyWrappedLoad ch tag g k len w => Sys2Proof.Machine.execKeyWrappedLoad ch tag g k len w s
  | .keyErase ch tag g k => Sys2Proof.Machine.execKeyErase ch tag g k s
  | .keyEraseComplete k => Sys2Proof.Machine.execKeyEraseComplete k s
  | .windowCommitRelease l e => Sys2Proof.Machine.execWindowCommitRelease l e s
  | .workItemPost src d => Sys2Proof.Machine.execWorkItemPost src d s
  | .workItemStart c => Sys2Proof.Machine.execWorkItemStart c s
  | .workItemComplete c cycles result => Sys2Proof.Machine.execWorkItemComplete c cycles result s
  | .completionRecordRoom wi => Sys2Proof.Machine.execCompletionRecordRoom wi s
  | .waitLimitExpiry wi => Sys2Proof.Machine.execWaitLimitExpiry wi s
  | .runLimitExpiry c => Sys2Proof.Machine.execRunLimitExpiry c s
  | .coreOnlineClear ch tag g j v => Sys2Proof.Machine.execCoreOnlineClear ch tag g j v s
  | .counterLatch => Sys2Proof.Machine.execCounterLatch s
  | .mpy c w => Sys2Proof.Machine.execMpy c w s
  | .mac c w => Sys2Proof.Machine.execMac c w s
  | .macsh c w => Sys2Proof.Machine.execMacsh c w s
  | .rnda c w => Sys2Proof.Machine.execRnda c w s
  | .clr c w => Sys2Proof.Machine.execClr c w s
  | .acs c w => Sys2Proof.Machine.execAcs c w s
  | .loopOp c p lvl count stop => Sys2Proof.Machine.execLoopOp c p lvl count stop s
  | .breakOp c p => Sys2Proof.Machine.execBreakOp c p s
  | .reti c => Sys2Proof.Machine.execReti c s
  | .endOp c => Sys2Proof.Machine.execEndOp c s
  | .dmar c p loc r words => Sys2Proof.Machine.execDmar c p loc r words s
  | .dmaw c p loc r words => Sys2Proof.Machine.execDmaw c p loc r words s
  | .dmawait c p n => Sys2Proof.Machine.execDmawait c p n s
  | .dmaTransferComplete c ix => Sys2Proof.Machine.execDmaTransferComplete c ix s
  | .interruptEntry c src => Sys2Proof.Machine.execInterruptEntry c src s
  | .tmrMatch c => Sys2Proof.Machine.execTmrMatch c s
  | .matenLoad ch tag g im => Sys2Proof.Machine.execMatenLoad ch tag g im s
  | .matenUnload ch tag g n => Sys2Proof.Machine.execMatenUnload ch tag g n s
  | .programRetireComplete n => Sys2Proof.Machine.execProgramRetireComplete n s
  | .legAudioDecode c => Sys2Proof.Machine.execLegAudioDecode c s
  | .mixPhaseTimer c => Sys2Proof.Machine.execMixPhaseTimer c s
  | .confMix c => Sys2Proof.Machine.execConfMix c s
  | .legAudioEncode c => Sys2Proof.Machine.execLegAudioEncode c s
  | .partialRx => Sys2Proof.Machine.execPartialRx s
  | .returnRx => Sys2Proof.Machine.execReturnRx s
  | .returnWaitExpiry c => Sys2Proof.Machine.execReturnWaitExpiry c s
  | .dctxEnable ch tag g d => Sys2Proof.Machine.execDctxEnable ch tag g d s
  | .dctxDisable ch tag g d => Sys2Proof.Machine.execDctxDisable ch tag g d s
  | .dctxQuiescent d => Sys2Proof.Machine.execDctxQuiescent d s
  | .pipePictureStart p => Sys2Proof.Machine.execPipePictureStart p s
  | .pictureDecodeComplete p => Sys2Proof.Machine.execPictureDecodeComplete p s
  | .keyRequestPacing d => Sys2Proof.Machine.execKeyRequestPacing d s
  | .decodePipeEccError p => Sys2Proof.Machine.execDecodePipeEccError p s
  | .canvasSetCommit ch tag g c => Sys2Proof.Machine.execCanvasSetCommit ch tag g c s
  | .operatorCommit ch tag g v => Sys2Proof.Machine.execOperatorCommit ch tag g v s
  | .operatorImageWrite ch tag g ix img => Sys2Proof.Machine.execOperatorImageWrite ch tag g ix img s
  | .solsticeTick => Sys2Proof.Machine.execSolsticeTick s
  | .oplayerCheckStart => Sys2Proof.Machine.execOplayerCheckStart s
  | .oplayerCheckDone ix => Sys2Proof.Machine.execOplayerCheckDone ix s
  | .composeBandDone m => Sys2Proof.Machine.execComposeBandDone m s
  | .layoutRun c => Sys2Proof.Machine.execLayoutRun c s
  | .layoutRunEnd c writes doCommit => Sys2Proof.Machine.execLayoutRunEnd c writes doCommit s
  | .layoutRunLimit c => Sys2Proof.Machine.execLayoutRunLimit c s
  | .layoutLoad ch tag g im => Sys2Proof.Machine.execLayoutLoad ch tag g im s
  | .layoutUnload ch tag g n => Sys2Proof.Machine.execLayoutUnload ch tag g n s
  | .actxEnable ch tag g a => Sys2Proof.Machine.execActxEnable ch tag g a s
  | .actxDisable ch tag g a => Sys2Proof.Machine.execActxDisable ch tag g a s
  | .analysisBandDone f => Sys2Proof.Machine.execAnalysisBandDone f s
  | .rctxEnable ch tag g r => Sys2Proof.Machine.execRctxEnable ch tag g r s
  | .rctxDisable ch tag g r => Sys2Proof.Machine.execRctxDisable ch tag g r s
  | .renditionPictureStart b => Sys2Proof.Machine.execRenditionPictureStart b s
  | .renditionBandCode b program maxQp minimal => Sys2Proof.Machine.execRenditionBandCode b program maxQp minimal s
  | .renditionPictureDone b => Sys2Proof.Machine.execRenditionPictureDone b s
  | .rcPictureStart b t qp => Sys2Proof.Machine.execRcPictureStart b t qp s
  | .rcBandEnd b qp => Sys2Proof.Machine.execRcBandEnd b qp s
  | .rcCallLimit b => Sys2Proof.Machine.execRcCallLimit b s
  | .rcLoad ch tag g im => Sys2Proof.Machine.execRcLoad ch tag g im s
  | .rcUnload ch tag g n => Sys2Proof.Machine.execRcUnload ch tag g n s
  | .rctxKeyRequest ch tag g r => Sys2Proof.Machine.execRctxKeyRequest ch tag g r s
  | .periodicKeyExpiry r => Sys2Proof.Machine.execPeriodicKeyExpiry r s
  | .ltrIntervalExpiry r => Sys2Proof.Machine.execLtrIntervalExpiry r s
  | .trellisResult b status => Sys2Proof.Machine.execTrellisResult b status s
  | .trellisWaitExpiry b => Sys2Proof.Machine.execTrellisWaitExpiry b s
  | .encodeUnitEccError front n => Sys2Proof.Machine.execEncodeUnitEccError front n s
  | .feedModeWrite ch tag g l f v => Sys2Proof.Machine.execFeedModeWrite ch tag g l f v s
  | .feedFixedSelect ch tag g l f v => Sys2Proof.Machine.execFeedFixedSelect ch tag g l f v s
  | .adaptFeedbackCall l f => Sys2Proof.Machine.execAdaptFeedbackCall l f s
  | .adaptTick l f a sel probe => Sys2Proof.Machine.execAdaptTick l f a sel probe s
  | .adaptCallLimit l f tick => Sys2Proof.Machine.execAdaptCallLimit l f tick s
  | .adaptLoad ch tag g im => Sys2Proof.Machine.execAdaptLoad ch tag g im s
  | .adaptUnload ch tag g n => Sys2Proof.Machine.execAdaptUnload ch tag g n s
  | .forwardPacket => Sys2Proof.Machine.execForwardPacket s
  | .switchKeyWaitExpiry l f => Sys2Proof.Machine.execSwitchKeyWaitExpiry l f s
  | .shaperRelease port => Sys2Proof.Machine.execShaperRelease port s
  | .shaperAgeOut l => Sys2Proof.Machine.execShaperAgeOut l s
  | .legShaperWrite ch tag g l sub v => Sys2Proof.Machine.execLegShaperWrite ch tag g l sub v s
  | .groupShaperWrite ch tag g isPort k sub v => Sys2Proof.Machine.execGroupShaperWrite ch tag g isPort k sub v s
  | .partApply ch tag g => Sys2Proof.Machine.execPartApply ch tag g s
  | .memRequestAccept op => Sys2Proof.Machine.execMemRequestAccept op s
  | .memRequestServe p r => Sys2Proof.Machine.execMemRequestServe p r s
  | .agePromotion p => Sys2Proof.Machine.execAgePromotion p s
  | .rowIdleClose p b => Sys2Proof.Machine.execRowIdleClose p b s
  | .stackTempSample t0 t1 => Sys2Proof.Machine.execStackTempSample t0 t1 s
  | .patrolScrub r => Sys2Proof.Machine.execPatrolScrub r s
  | .updateRetrain ch => Sys2Proof.Machine.execUpdateRetrain ch s
  | .fullRetrain ch => Sys2Proof.Machine.execFullRetrain ch s
  | .trainingComplete ch t => Sys2Proof.Machine.execTrainingComplete ch t s
  | .quarantineResume => Sys2Proof.Machine.execQuarantineResume s
  | .hostReadWindowsWrite ch tag g v => Sys2Proof.Machine.execHostReadWindowsWrite ch tag g v s
  | .fabricFrameRx p f good idle => Sys2Proof.Machine.execFabricFrameRx p f good idle s
  | .frameRelay => Sys2Proof.Machine.execFrameRelay s
  | .creditBlockRx p counts rdi => Sys2Proof.Machine.execCreditBlockRx p counts rdi s
  | .creditBlockTx p => Sys2Proof.Machine.execCreditBlockTx p s
  | .fabricFrameTx p => Sys2Proof.Machine.execFabricFrameTx p s
  | .ackRx => Sys2Proof.Machine.execAckRx s
  | .ctrlRetransmitExpiry => Sys2Proof.Machine.execCtrlRetransmitExpiry s
  | .helloTx p => Sys2Proof.Machine.execHelloTx p s
  | .helloRx => Sys2Proof.Machine.execHelloRx s
  | .deadIntervalExpiry p => Sys2Proof.Machine.execDeadIntervalExpiry p s
  | .lsaRefresh => Sys2Proof.Machine.execLsaRefresh s
  | .lsaRx => Sys2Proof.Machine.execLsaRx s
  | .lsackRx => Sys2Proof.Machine.execLsackRx s
  | .lsaExpiry => Sys2Proof.Machine.execLsaExpiry s
  | .spfRun => Sys2Proof.Machine.execSpfRun s
  | .nqPortEnable ch tag g p => Sys2Proof.Machine.execNqPortEnable ch tag g p s
  | .nqPortDisable ch tag g p => Sys2Proof.Machine.execNqPortDisable ch tag g p s
  | .laneDefectChange e => Sys2Proof.Machine.execLaneDefectChange e s
  | .defectHoldExpiry p => Sys2Proof.Machine.execDefectHoldExpiry p s
  | .fdevWrite ch tag g v => Sys2Proof.Machine.execFdevWrite ch tag g v s
  | .joinRx => Sys2Proof.Machine.execJoinRx s
  | .joinReplyRx => Sys2Proof.Machine.execJoinReplyRx s
  | .joinRetryExpiry c => Sys2Proof.Machine.execJoinRetryExpiry c s
  | .leaveRx => Sys2Proof.Machine.execLeaveRx s
  | .remotePartialTimeout c fdev => Sys2Proof.Machine.execRemotePartialTimeout c fdev s
  | .subscribeRx => Sys2Proof.Machine.execSubscribeRx s
  | .mediaRx => Sys2Proof.Machine.execMediaRx s
  | .pmBinRollover p day => Sys2Proof.Machine.execPmBinRollover p day s
  | .twinModePair ch tag g => Sys2Proof.Machine.execTwinModePair ch tag g s
  | .twinModeSolo ch tag g => Sys2Proof.Machine.execTwinModeSolo ch tag g s
  | .twinHandover ch tag g => Sys2Proof.Machine.execTwinHandover ch tag g s
  | .twinResync ch tag g => Sys2Proof.Machine.execTwinResync ch tag g s
  | .twinHbTx => Sys2Proof.Machine.execTwinHbTx s
  | .twinHbRx => Sys2Proof.Machine.execTwinHbRx s
  | .hbSymbolTx => Sys2Proof.Machine.execHbSymbolTx s
  | .hbSymbolRx code act armed parityOk => Sys2Proof.Machine.execHbSymbolRx code act armed parityOk s
  | .livenessTimeout => Sys2Proof.Machine.execLivenessTimeout s
  | .peerSilenceTimeout => Sys2Proof.Machine.execPeerSilenceTimeout s
  | .journalRx => Sys2Proof.Machine.execJournalRx s
  | .journalAckRx => Sys2Proof.Machine.execJournalAckRx s
  | .journalResendExpiry => Sys2Proof.Machine.execJournalResendExpiry s
  | .standbyLostExpiry => Sys2Proof.Machine.execStandbyLostExpiry s
  | .twinCtrlDetach => Sys2Proof.Machine.execTwinCtrlDetach s
  | .twinCtrlDisarm => Sys2Proof.Machine.execTwinCtrlDisarm s
  | .twinCtrlKekProof => Sys2Proof.Machine.execTwinCtrlKekProof s
  | .twinCtrlResendRequest => Sys2Proof.Machine.execTwinCtrlResendRequest s
  | .snapshotRx => Sys2Proof.Machine.execSnapshotRx s
  | .snapshotApplied => Sys2Proof.Machine.execSnapshotApplied s
  | .timeRecheckExpiry => Sys2Proof.Machine.execTimeRecheckExpiry s
  | .ptpAnnounceRx m rank utc => Sys2Proof.Machine.execPtpAnnounceRx m rank utc s
  | .ptpSyncRx m origin corr twoStep => Sys2Proof.Machine.execPtpSyncRx m origin corr twoStep s
  | .ptpDelayRespRx m received corr => Sys2Proof.Machine.execPtpDelayRespRx m received corr s
  | .ptpDelayReqTx => Sys2Proof.Machine.execPtpDelayReqTx s
  | .announceTimeout => Sys2Proof.Machine.execAnnounceTimeout s
  | .ppsEdge => Sys2Proof.Machine.execPpsEdge s
  | .ppsMissingExpiry => Sys2Proof.Machine.execPpsMissingExpiry s
  | .pulseEdge n => Sys2Proof.Machine.execPulseEdge n s
  | .pulseWrite ch tag g n sub v => Sys2Proof.Machine.execPulseWrite ch tag g n sub v s
  | .hostTodWrite ch tag g v => Sys2Proof.Machine.execHostTodWrite ch tag g v s
  | .timestampHoldExpiry => Sys2Proof.Machine.execTimestampHoldExpiry s
  | .syncInLoss back => Sys2Proof.Machine.execSyncInLoss back s
  | .targetWrite ch tag g v => Sys2Proof.Machine.execTargetWrite ch tag g v s
  | .summerReached => Sys2Proof.Machine.execSummerReached s
  | .summerHoldExpiry => Sys2Proof.Machine.execSummerHoldExpiry s
  | .autumnDrained => Sys2Proof.Machine.execAutumnDrained s
  | .autumnLimitExpiry => Sys2Proof.Machine.execAutumnLimitExpiry s
  | .winterEntry => Sys2Proof.Machine.execWinterEntry s
  | .pmeTurnOff => Sys2Proof.Machine.execPmeTurnOff s
  | .midwinterEntry => Sys2Proof.Machine.execMidwinterEntry s
  | .wakeEvent b p => Sys2Proof.Machine.execWakeEvent b p s
  | .thawComplete => Sys2Proof.Machine.execThawComplete s
  | .perstAssert => Sys2Proof.Machine.execPerstAssert s
  | .perstRelease fuses => Sys2Proof.Machine.execPerstRelease fuses s
  | .sysReset => Sys2Proof.Machine.execSysReset s
  | .junctionSample t => Sys2Proof.Machine.execJunctionSample t s
  | .throttleStep up => Sys2Proof.Machine.execThrottleStep up s
  | .thermalHoldExpiry => Sys2Proof.Machine.execThermalHoldExpiry s
  | .seasonScriptsWrite ch tag g im => Sys2Proof.Machine.execSeasonScriptsWrite ch tag g im s
  | .scriptTimeout => Sys2Proof.Machine.execScriptTimeout s
  | .bootOffer im => Sys2Proof.Machine.execBootOffer im s
  | .bootImageVerified => Sys2Proof.Machine.execBootImageVerified s
  | .lifecycleAdvance ch tag g v blown => Sys2Proof.Machine.execLifecycleAdvance ch tag g v blown s
  | .identityGenerate ch tag g blown => Sys2Proof.Machine.execIdentityGenerate ch tag g blown s
  | .ownerHashWrite ch tag g slot v blown => Sys2Proof.Machine.execOwnerHashWrite ch tag g slot v blown s
  | .ownerKekWrite ch tag g v blown => Sys2Proof.Machine.execOwnerKekWrite ch tag g v blown s
  | .ownerRevokeWrite ch tag g v blown => Sys2Proof.Machine.execOwnerRevokeWrite ch tag g v blown s
  | .bootPolicyWrite ch tag g v blown => Sys2Proof.Machine.execBootPolicyWrite ch tag g v blown s
  | .minVersionCommit ch tag g v blown => Sys2Proof.Machine.execMinVersionCommit ch tag g v blown s
  | .frostWrite ch tag g v => Sys2Proof.Machine.execFrostWrite ch tag g v s
  | .challengeRead ch tag => Sys2Proof.Machine.execChallengeRead ch tag s
  | .nonceExpiry => Sys2Proof.Machine.execNonceExpiry s
  | .tokenSignatureWrite ch tag g sig => Sys2Proof.Machine.execTokenSignatureWrite ch tag g sig s
  | .debugUnlock ch tag g t => Sys2Proof.Machine.execDebugUnlock ch tag g t s
  | .debugClose ch tag g => Sys2Proof.Machine.execDebugClose ch tag g s
  | .jtagDbgchal => Sys2Proof.Machine.execJtagDbgchal s
  | .jtagDbgauth g t => Sys2Proof.Machine.execJtagDbgauth g t s
  | .attestRequest ch tag g nonce blown => Sys2Proof.Machine.execAttestRequest ch tag g nonce blown s
  | .attestReportRead ch tag addr => Sys2Proof.Machine.execAttestReportRead ch tag addr s
  | .handlerRun => Sys2Proof.Machine.execHandlerRun s
  | .fatalReset fuses => Sys2Proof.Machine.execFatalReset fuses s
  | .logSelectWrite ch tag g v => Sys2Proof.Machine.execLogSelectWrite ch tag g v s
  | .watchdogKick => Sys2Proof.Machine.execWatchdogKick s
  | .watchdogWarnExpiry => Sys2Proof.Machine.execWatchdogWarnExpiry s
  | .watchdogResetExpiry => Sys2Proof.Machine.execWatchdogResetExpiry s
  | .scanGo ch tag g => Sys2Proof.Machine.execScanGo ch tag g s
  | .scanDone => Sys2Proof.Machine.execScanDone s
  | .imageScrubCheck bad => Sys2Proof.Machine.execImageScrubCheck bad s
  | .aonPowerOn => Sys2Proof.Machine.execAonPowerOn s
  | .pwrOkRise sample => Sys2Proof.Machine.execPwrOkRise sample s
  | .strapResample sample fuses => Sys2Proof.Machine.execStrapResample sample fuses s
  | .pwrOkFall => Sys2Proof.Machine.execPwrOkFall s
  | .powerLossRestart => Sys2Proof.Machine.execPowerLossRestart s
  | .refclkLoss => Sys2Proof.Machine.execRefclkLoss s
  | .xtalLoss => Sys2Proof.Machine.execXtalLoss s
  | .laneSignalChange l above => Sys2Proof.Machine.execLaneSignalChange l above s
  | .sta c p ac form => Sys2Proof.Machine.execSta c p ac form s
  | .ld c p form => Sys2Proof.Machine.execLd c p form s
  | .st c p form => Sys2Proof.Machine.execSt c p form s
  | .b c p form target => Sys2Proof.Machine.execB c p form target s
  | .refclkReturn fuses => Sys2Proof.Machine.execRefclkReturn fuses s
  | .aonPowerLoss => Sys2Proof.Machine.execAonPowerLoss s
  | .transmitterPresetTimeout p => Sys2Proof.Machine.execTransmitterPresetTimeout p s

end Sys2Proof.Machine
end

