-- ==== Sys2Proof/Machine/Idle.lean ====
section
/-! DEFINITION. What happens while no command waits: time passes. -/

namespace Sys2Proof.Machine

/-- One nanosecond without a command: the clocks advance (R365, R373), and in SUMMER demand holds SummerHold at its start (R382). -/
def idle (s : State) : State :=
  let t := clockTick s
  if t.season = .summer ∧ hasDemand t then { t with pw := { t.pw with idleSince := t.mono } } else t

end Sys2Proof.Machine
end

