-- ==== Sys2Proof/Safety.lean ====
section
/-! DEFINITION. What a safe run keeps: canonical data, fuses that are never unblown; and what the statements say of a request that
is carried out. -/

namespace Sys2Proof.Machine

/-- The canonical form of memory: rising addresses, no octet listed that reads as an unlisted one does. -/
def Memory.wf (m : List Host.Cell) : Bool := AMap.wf (fun _ => (0 : BitVec 8)) m

/-- Equal contents are equal data: the dictionary's active and shadow values and HBM are in canonical form. -/
def State.canon (s : State) : Bool := AMap.wf dfltOf s.dict && AMap.wf dfltOf s.shadow && Memory.wf s.mem

/-- Fuses blown on top of other fuses (R398): thermometer fields only rise, bits are only added, a seed or a key that is blown stays blown,
an owner hash that is blown keeps its value. -/
def Fuses.grown (f g : Fuses) : Bool :=
  decide (f.attestBlocks ≤ g.attestBlocks) && decide (f.minPrograms ≤ g.minPrograms) && decide (f.minScripts ≤ g.minScripts) &&
    decide (f.minFirmware ≤ g.minFirmware) && decide (f.ownerRevoke ||| g.ownerRevoke = g.ownerRevoke) &&
    decide (f.rootRevoke ||| g.rootRevoke = g.rootRevoke) && decide (f.bootPolicy ||| g.bootPolicy = g.bootPolicy) &&
    decide (f.lifecycle ||| g.lifecycle = g.lifecycle) && (decide (f.seed = 0) || decide (g.seed ≠ 0)) &&
    (decide (f.ownerKek = 0) || decide (g.ownerKek ≠ 0)) && (decide (f.ownerHash0 = 0) || decide (g.ownerHash0 = f.ownerHash0)) &&
    (decide (f.ownerHash1 = 0) || decide (g.ownerHash1 = f.ownerHash1))

/-- The context of a WRITE that mailbox `b` brings. -/
def rowCtx (s : State) (b : Nat) (r : Req) : WCtx := ctxAt s (.mbx b) (s.principal (.mbx b)) r 0 s.tod

/-- A WRITE on mailbox `b` is carried out at once, no accepted group waiting for its instant, and the checks of R37 that no object
changes pass. -/
structure Admits (s : State) (b : Nat) (r : Req) (d : Payload) : Prop where
  runs : s.running = true
  season : s.season ≠ .spring
  solo : s.role = 0
  free : s.tw.requests = []
  box : b < 64
  message : messageAbort (.mbx b) r = 0
  prelim : writePrelim s (rowCtx s b r) r d (roomOf (.mbx b) r) = 0
  fields : ∀ w ∈ elementWrites s (s.principal (.mbx b)) r d 0, fieldAbort s (rowCtx s b r) w = 0
  range : rangeTogether (rowCtx s b r) s (elementWrites s (s.principal (.mbx b)) r d 0) = 0
  behind : heldBehind s (.mbx b) = false
  waits : hasOthers s = false

/-- The field a row's WRITE names. -/
def rowField (ix sub el len : Nat) (a : Attr) (d : Payload) : FieldWrite := ⟨ix, sub, el, len, a, slice d 0 (min len 4096)⟩

/-- The receiver of a lane: everything but its defects. -/
def LaneRt.receiver (x : LaneRt) : LaneRt := { x with defects := DefectRt.none_ }

/-- A port without what its defects decide. -/
def NqPort.link (x : NqPort) : NqPort := { x with stage := 0, neighbour := none, defects := DefectRt.none_ }

/-- Core `c` issues an instruction: it runs an item that has not ended, and nothing holds it (R192, R193). -/
structure Issues (s : State) (c : Nat) : Prop where
  number : c < 128
  item : (s.itemOn c).isSome = true
  going : (s.itemOn c).bind WorkItem.ended = none
  faulted : (s.core c).faulted = false
  halted : (s.core c).halted = false
  stall : (s.core c).stall = none
  waits : (s.core c).waitAt = none

/-- The core in the middle of a bundle: the registers and memory its instructions read are those of the bundle's start (R174). -/
def bundleCore (s : State) (c : Nat) : MatenCore :=
  { s.core c with start := some (openBundle (s.core c)) }

/-- The registers the instructions of the bundle read. -/
def bundleRegs (s : State) (c : Nat) : Regs := (openBundle (s.core c)).regs

/-- The HBM octet address an instruction of core `c` finds in the pair D(r+1):D(r) (R184). -/
def hbmAddress (s : State) (c r : Nat) : Nat :=
  (rdD s (bundleCore s c) (bundleRegs s c) (r + 1)).toNat * 0x1000000 + (rdD s (bundleCore s c) (bundleRegs s c) r).toNat

/-- The stores `l` of an instruction (R181, R191): made when it is its bundle's last, with the words of the open bundle before them;
in the open bundle otherwise. -/
def Stored (s t : State) (c : Nat) (p : Bool) (l : List (Nat × BitVec 32)) : Prop :=
  if p then (openBundle (t.core c)).stores = (openBundle (s.core c)).stores ++ l
  else (t.core c).mem = localStores (s.core c) ((openBundle (s.core c)).stores ++ l)

/-- The WRITE of a row that writes an object: channel, tag and group, the field and element it names, the length it carries and the
value; and, where the write blows fuses, whether they read back (R419). -/
structure RowWrite where
  ch : Chan
  tag : Nat
  group : Nat
  ix : Nat
  sub : Nat
  el : Nat
  len : Nat
  table : Bool
  data : Payload
  blown : Option Bool

/-- The request message of a row's WRITE. -/
def RowWrite.req (w : RowWrite) : Req := rowReq w.ch w.tag w.group w.ix w.sub w.el w.len w.table

/-- The state a row's WRITE begins in: whether fuses will read back is set. -/
def RowWrite.start (w : RowWrite) (s : State) : State :=
  match w.blown with
  | none => s
  | some b => { s with sec := { s.sec with blowFails := !b } }

/-- The state a row's WRITE leaves. -/
def RowWrite.done (w : RowWrite) (t : State) : State :=
  match w.blown with
  | none => t
  | some _ => { t with sec := { t.sec with blowFails := false } }

/-- The object each row of the table writes, and what it writes there. -/
def rowWrite (c : Instr) : Option RowWrite :=
  match c with
  | .persistImageWrite ch tag d => some ⟨ch, tag, 0, 0x1030, 0, 0, (persistOctetsOf d), false, d, none⟩
  | .operatorSessionOpen ch tag t => some ⟨ch, tag, 0, 0x1060, 0, 0, 128, false, (.token t), none⟩
  | .operatorSessionClose ch tag => some ⟨ch, tag, 0, 0x1060, 0, 0, 4, false, (.num 0), none⟩
  | .queueFlush ch tag g q => some ⟨ch, tag, g, 0x7400, 0xA, q, 1, true, (.num 1), none⟩
  | .legRegister ch tag g l => some ⟨ch, tag, g, 0x2101, 0, l, 1, true, (.num 1), none⟩
  | .legActivate ch tag g l => some ⟨ch, tag, g, 0x2101, 0, l, 1, true, (.num 2), none⟩
  | .legDeactivate ch tag g l => some ⟨ch, tag, g, 0x2101, 0, l, 1, true, (.num 1), none⟩
  | .legFree ch tag g l => some ⟨ch, tag, g, 0x2101, 0, l, 1, true, (.num 0), none⟩
  | .confActivate ch tag g c => some ⟨ch, tag, g, 0x2200, 1, c, 1, true, (.num 1), none⟩
  | .confFree ch tag g c => some ⟨ch, tag, g, 0x2200, 1, c, 1, true, (.num 0), none⟩
  | .anchorRepoint ch tag g c isConf v => some ⟨ch, tag, g, 0x2200, (if isConf then 4 else 3), c, 2, true, (.num v), none⟩
  | .classifierImageWrite ch tag g i => some ⟨ch, tag, g, 0x2030, 0, 0, i.octs.length, false, (.image i), none⟩
  | .tapEnable ch tag g isLeg id => some ⟨ch, tag, g, (if isLeg then 0x2311 else 0x2310), 1, id, 1, true, (.num 1), none⟩
  | .keySuiteWrite ch tag g k v => some ⟨ch, tag, g, 0x8100, 1, k, 1, true, (.num v), none⟩
  | .keyLoad ch tag g k len m => some ⟨ch, tag, g, 0x8100, 2, k, len, true, (.num m), none⟩
  | .keyWrappedLoad ch tag g k len w => some ⟨ch, tag, g, 0x8100, 3, k, len, true, (.wrapped w), none⟩
  | .keyErase ch tag g k => some ⟨ch, tag, g, 0x8100, 5, k, 1, true, (.num 1), none⟩
  | .coreOnlineClear ch tag g j v => if j < 4 then some ⟨ch, tag, g, 0x7590, (j + 1), 0, 4, false, (.num v), none⟩ else none
  | .matenLoad ch tag g i => some ⟨ch, tag, g, 0x3040, 0, 0, i.octs.length, false, (.image i), none⟩
  | .matenUnload ch tag g n => some ⟨ch, tag, g, 0x3041, 0, 0, 2, false, (.num n), none⟩
  | .dctxEnable ch tag g d => some ⟨ch, tag, g, 0x4200, 1, d, 1, true, (.num 1), none⟩
  | .dctxDisable ch tag g d => some ⟨ch, tag, g, 0x4200, 1, d, 1, true, (.num 0), none⟩
  | .canvasSetCommit ch tag g c => some ⟨ch, tag, g, 0x5210, 0, c, 1, true, (.num 1), none⟩
  | .operatorCommit ch tag g v => some ⟨ch, tag, g, 0x5620, 0, v, 1, true, (.num 1), none⟩
  | .operatorImageWrite ch tag g i img =>
    if i < 16 then some ⟨ch, tag, g, 0x5600, (i + 1), 0, (imageOctets img.width img.height img.alpha), false, (.opImage img), none⟩ else none
  | .layoutLoad ch tag g i => some ⟨ch, tag, g, 0x5700, 0, 0, i.octs.length, false, (.image i), none⟩
  | .layoutUnload ch tag g n => some ⟨ch, tag, g, 0x5701, 0, 0, 2, false, (.num n), none⟩
  | .actxEnable ch tag g a => some ⟨ch, tag, g, 0x6200, 1, a, 1, true, (.num 1), none⟩
  | .actxDisable ch tag g a => some ⟨ch, tag, g, 0x6200, 1, a, 1, true, (.num 0), none⟩
  | .rctxEnable ch tag g r => some ⟨ch, tag, g, 0x6300, 1, r, 1, true, (.num 1), none⟩
  | .rctxDisable ch tag g r => some ⟨ch, tag, g, 0x6300, 1, r, 1, true, (.num 0), none⟩
  | .rcLoad ch tag g i => some ⟨ch, tag, g, 0x6050, 0, 0, i.octs.length, false, (.image i), none⟩
  | .rcUnload ch tag g n => some ⟨ch, tag, g, 0x6051, 0, 0, 2, false, (.num n), none⟩
  | .rctxKeyRequest ch tag g r => some ⟨ch, tag, g, 0x6300, 0x19, r, 1, true, (.num 1), none⟩
  | .feedModeWrite ch tag g l f v => if f < 4 then some ⟨ch, tag, g, (0x7200 + f), 1, l, 1, true, (.num v), none⟩ else none
  | .feedFixedSelect ch tag g l f v => if f < 4 then some ⟨ch, tag, g, (0x7200 + f), 8, l, 1, true, (.num v), none⟩ else none
  | .adaptLoad ch tag g i => some ⟨ch, tag, g, 0x7020, 0, 0, i.octs.length, false, (.image i), none⟩
  | .adaptUnload ch tag g n => some ⟨ch, tag, g, 0x7021, 0, 0, 2, false, (.num n), none⟩
  | .legShaperWrite ch tag g l sub v => some ⟨ch, tag, g, 0x7300, sub, l, (lenOf 0x7300 sub), true, (.num v), none⟩
  | .groupShaperWrite ch tag g isPort k sub v =>
    if isPort then (if k < 2 then some ⟨ch, tag, g, (0x7700 + k), sub, 0, (lenOf 0x7700 sub), false, (.num v), none⟩ else none)
    else if k < 64 then some ⟨ch, tag, g, (0x7710 + k), sub, 0, (lenOf 0x7710 sub), false, (.num v), none⟩ else none
  | .partApply ch tag g => some ⟨ch, tag, g, 0x9020, 8, 0, 1, false, (.num 1), none⟩
  | .hostReadWindowsWrite ch tag g v => some ⟨ch, tag, g, 0x9120, 0, 0, 4, false, (.num v), none⟩
  | .nqPortEnable ch tag g p => if p < 6 then some ⟨ch, tag, g, (0xA100 + p), 1, 0, 1, false, (.num 1), none⟩ else none
  | .nqPortDisable ch tag g p => if p < 6 then some ⟨ch, tag, g, (0xA100 + p), 1, 0, 1, false, (.num 0), none⟩ else none
  | .fdevWrite ch tag g v => some ⟨ch, tag, g, 0xA010, 1, 0, 2, false, (.num v), none⟩
  | .twinModePair ch tag g => some ⟨ch, tag, g, 0xB010, 1, 0, 1, false, (.num 1), none⟩
  | .twinModeSolo ch tag g => some ⟨ch, tag, g, 0xB010, 1, 0, 1, false, (.num 0), none⟩
  | .twinHandover ch tag g => some ⟨ch, tag, g, 0xB030, 1, 0, 1, false, (.num 1), none⟩
  | .twinResync ch tag g => some ⟨ch, tag, g, 0xB030, 2, 0, 1, false, (.num 1), none⟩
  | .pulseWrite ch tag g n sub v => if n < 4 then some ⟨ch, tag, g, (0xC100 + n), sub, 0, (lenOf 0xC100 sub), false, (.num v), none⟩ else none
  | .hostTodWrite ch tag g v => some ⟨ch, tag, g, 0xC050, 0, 0, 10, false, (.num v), none⟩
  | .targetWrite ch tag g v => some ⟨ch, tag, g, 0xD020, 1, 0, 1, false, (.num v), none⟩
  | .seasonScriptsWrite ch tag g i => some ⟨ch, tag, g, 0xD040, 0, 0, i.octs.length, false, (.image i), none⟩
  | .lifecycleAdvance ch tag g v blown => some ⟨ch, tag, g, 0x8320, 0, 0, 1, false, (.num v), some blown⟩
  | .identityGenerate ch tag g blown => some ⟨ch, tag, g, 0x8351, 0, 0, 1, false, (.num 1), some blown⟩
  | .ownerHashWrite ch tag g slot v blown => if slot < 2 then some ⟨ch, tag, g, 0x8330, (slot + 1), 0, 32, false, (.num v), some blown⟩ else none
  | .ownerKekWrite ch tag g v blown => some ⟨ch, tag, g, 0x8331, 0, 0, 32, false, (.num v), some blown⟩
  | .ownerRevokeWrite ch tag g v blown => some ⟨ch, tag, g, 0x8330, 3, 0, 4, false, (.num v), some blown⟩
  | .bootPolicyWrite ch tag g v blown => some ⟨ch, tag, g, 0x8300, 5, 0, 4, false, (.num v), some blown⟩
  | .minVersionCommit ch tag g v blown => some ⟨ch, tag, g, 0x8321, 0, 0, 1, false, (.num v), some blown⟩
  | .frostWrite ch tag g v => some ⟨ch, tag, g, 0x8310, 0, 0, 4, false, (.num v), none⟩
  | .tokenSignatureWrite ch tag g sig => some ⟨ch, tag, g, 0x8410, 0, 0, sig.octs.length, false, (.sig sig), none⟩
  | .debugUnlock ch tag g t => some ⟨ch, tag, g, 0x8420, 0, 0, 128, false, (.token t), none⟩
  | .debugClose ch tag g => some ⟨ch, tag, g, 0x8420, 0, 0, 4, false, (.num 0), none⟩
  | .attestRequest ch tag g nonce blown => some ⟨ch, tag, g, 0x8360, 0, 0, 32, false, (.num nonce), some blown⟩
  | .logSelectWrite ch tag g v => some ⟨ch, tag, g, 0xE020, 1, 0, 4, false, (.num v), none⟩
  | .scanGo ch tag g => some ⟨ch, tag, g, 0xE060, 0xA, 0, 1, false, (.num 1), none⟩
  | _ => none

end Sys2Proof.Machine
end

