-- ==== Sys2Proof/Certificates/Slice0/Obligations.lean ====
section
/-! DEFINITION. The statements of this model: what its commands do, what its steps keep. -/

open Sys2Proof Sys2Proof.Machine

/-- A step runs the command at the front of the queue. For every command c, rest r and state s whose queue is c followed by r, the step of s is exec of c on s with the queue r. (spec/opcode_table.json: the rows are the commands; the queue is the model's own (NOTES.md, Assumptions 2 and the entry on many senders)) -/
def Obligations.step_runs_front_command : Prop :=
  ∀ (c : Instr) (r : List Instr) (s : State), s.pending = c :: r → step s = exec c { s with pending := r }

/-- An empty queue lets one nanosecond pass and changes nothing else. On an empty queue a step answers a next state: the monotonic clock rises by one, and the dictionary, shadow, memory, queues, rings, host interface, legs, dispatcher, cores, security state, log and season are unchanged. That an empty queue is a nanosecond is the model's choice (log entry 2). (spec/16_time.md R365, spec/17_power_seasons.md R382) -/
def Obligations.idle_step_moves_the_clocks_alone : Prop :=
  ∀ s : State, s.pending = [] → ∃ t, step s = .next t ∧ t.mono = s.mono + 1 ∧ t.pending = [] ∧ t.out = s.out ∧ t.season = s.season ∧
    t.dict = s.dict ∧ t.shadow = s.shadow ∧ t.mem = s.mem ∧ t.queues = s.queues ∧ t.rings = s.rings ∧ t.hif = s.hif ∧ t.le = s.le ∧
    t.disp = s.disp ∧ t.mt = s.mt ∧ t.sec = s.sec ∧ t.ev = s.ev

/-- What reset leaves. Right after reset the data are canonical, nothing is pending, the season is MIDWINTER, every object reads its default, queues and rings are as their tables give, no mailbox is full, no interrupt is enabled, the log is empty and the device waits for PWR_OK. Where the tables give no default the value is the model's (log entries 7, 8, 9 and 10). (spec/17_power_seasons.md, spec/03_host_interface.md Tables 3.3 to 3.10, spec/18_boot_and_security.md R402) -/
def Obligations.reset_state : Prop :=
  State.reset.canon = true ∧ State.reset.pending = [] ∧ State.reset.season = .midwinter ∧ State.reset.mem = [] ∧
    (∀ k, State.reset.rd k = dfltOf k) ∧ (∀ k, AMap.get (dfltOf k) k State.reset.shadow = dfltOf k) ∧
    (∀ n, State.reset.q n = Queue.empty) ∧ (∀ r, State.reset.ring r = Ring.reset) ∧
    (∀ n, (State.reset.h2d n).go = false ∧ (State.reset.d2h n).go = false) ∧
    State.reset.hif.irqCause = 0 ∧ State.reset.hif.irqEnable = 0 ∧ State.reset.hif.dmaErrCause = 0 ∧
    State.reset.ev.log = [] ∧ State.reset.pw.boot = .waitPwrOk ∧ State.reset.running = false

/-- Every step keeps dictionary, shadow and memory canonical. For every state whose dictionary, shadow and memory are in canonical form, a step that answers a next state gives one whose three are in canonical form: equal contents stay equal data whichever of the 292 commands ran. (spec/02_object_dictionary.md R34, spec/13_hbm_memory.md R302) -/
def Obligations.canonical_data_is_kept : Prop :=
  ∀ s t : State, s.canon = true → step s = .next t → t.canon = true

/-- No step returns a blown fuse to 0. Over every step of the block, fuse bits are only added, thermometer counts only rise, a blown seed or key stays blown and a programmed owner hash keeps its value. (spec/18_boot_and_security.md Fuses: A blown bit never returns to 0, R398, R405, R406) -/
def Obligations.fuses_are_never_unblown : Prop :=
  ∀ s t : State, step s = .next t → Fuses.grown s.sec.fuses t.sec.fuses = true

/-- A command leaves the queue and the clock alone and takes back no output. Whatever command runs in whatever state, its next state has the same queue and the same monotonic clock, has drawn at least as many free values, and everything sent before is still the tail of what was sent. That commands take no time is the model's choice (log entry 3). (spec/16_time.md R365, spec/02_object_dictionary.md R48) -/
def Obligations.commands_leave_queue_and_clock : Prop :=
  ∀ (c : Instr) (s t : State), exec c s = .next t → t.pending = s.pending ∧ t.mono = s.mono ∧ s.draws ≤ t.draws ∧ s.out <:+ t.out

/-- Every command answers a next state. For every command and every state exec answers a next state: no row is refused and none faults. (spec/opcode_table.json) -/
def Obligations.no_command_is_refused : Prop :=
  ∀ (c : Instr) (s : State), ∃ t, exec c s = .next t

/-- Mailbox registers: message words, GO, drops and responses. While BAR0 is served: a message word is written while GO is 0, and while GO is 1 rejected with a completer abort and a count; GO is set by a 1 and left by a 0; a drop counter is returned and cleared by its read; taking a response or NOTIFY clears GO, or, while the control cluster runs, brings the response that waits, or else the oldest queued NOTIFY; taking where nothing waits has no effect. (R78, R79, R80, R81, spec/03_host_interface.md Table 3.4) -/
def Obligations.mailbox_registers : Prop :=
  ∀ (s : State) (n : Nat), s.bar0Up = true → n < 64 →
    (∀ j v, j < 16 → (s.h2d n).go = false → ∃ t, exec (.mbxMsgWrite n j v) s = .next t ∧
      t.h2d n = { s.h2d n with msg := (s.h2d n).msg.set j v }) ∧
    (∀ j v, j < 16 → (s.h2d n).go = true → ∃ t, exec (.mbxMsgWrite n j v) s = .next t ∧
      t.h2d n = { s.h2d n with drop := satAdd (s.h2d n).drop 1 0xFFFFFFFF } ∧
      t.hif.aerCompleterAborts = s.hif.aerCompleterAborts + 1) ∧
    (∀ v, (s.h2d n).go = false → v.getLsbD 0 = true → ∃ t, exec (.mbxGoSet n v) s = .next t ∧
      t.h2d n = { s.h2d n with go := true }) ∧
    (∀ v, (s.h2d n).go = false → v.getLsbD 0 = false → exec (.mbxGoSet n v) s = .next s) ∧
    (∃ t, exec (.mbxDropRead false n) s = .next t ∧ t.h2d n = { s.h2d n with drop := 0 } ∧
      t.out = .hostRead (BitVec.ofNat 32 (s.h2d n).drop) :: s.out) ∧
    (∃ t, exec (.mbxDropRead true n) s = .next t ∧ t.d2h n = { s.d2h n with drop := 0 } ∧
      t.out = .hostRead (BitVec.ofNat 32 (s.d2h n).drop) :: s.out) ∧
    ((s.d2h n).go = true → s.running = false ∨ ((s.d2h n).waiting = none ∧ (s.d2h n).notify = []) →
      ∃ t, exec (.mbxResponseTaken n) s = .next t ∧ t.d2h n = { s.d2h n with go := false }) ∧
    (∀ r, (s.d2h n).go = true → s.running = true → (s.d2h n).waiting = some r → ∃ t, exec (.mbxResponseTaken n) s = .next t ∧
      t.d2h n = { s.d2h n with msg := r.words16, go := true, waiting := none }) ∧
    (∀ r rest, (s.d2h n).go = true → s.running = true → (s.d2h n).waiting = none → (s.d2h n).notify = r :: rest →
      ∃ t, exec (.mbxResponseTaken n) s = .next t ∧ t.d2h n = { s.d2h n with msg := r.words16, go := true, notify := rest }) ∧
    ((s.d2h n).go = false → exec (.mbxResponseTaken n) s = .next s)

/-- Status registers and interrupt vectors of the host interface. Writing 1s clears IRQ_CAUSE and DMA_ERR_CAUSE bits and leaves the rest; the read-and-clear counters answer and clear; SCRATCH takes a write and answers it; DEV_ID and DEV_STATUS answer their values; a read of an unmapped offset answers 0 and a write to one only counts; the configuration space answers the device's identity and stores the AER mask; unmasking a vector that is owed a message sends it once. (R67, R68, R72, R84, spec/03_host_interface.md Tables 3.1 and 3.3) -/
def Obligations.host_status_registers : Prop :=
  ∀ s : State, s.bar0Up = true →
    (∀ v, ∃ t, exec (.irqCauseClear v) s = .next t ∧ t.hif.irqCause = s.hif.irqCause &&& ~~~v ∧ t.hif.irqEnable = s.hif.irqEnable) ∧
    (∀ v, s.season ≠ .winter → ∃ t, exec (.dmaErrCauseClear v) s = .next t ∧ t.hif.dmaErrCause = s.hif.dmaErrCause &&& ~~~v ∧
      t.hif.dmaErrAddr = s.hif.dmaErrAddr) ∧
    (∃ t, exec .devUnmappedRead s = .next t ∧ t.hif.unmapped = 0 ∧ t.out = .hostRead (BitVec.ofNat 32 s.hif.unmapped) :: s.out) ∧
    (∃ t, exec .devBar2DeniedRead s = .next t ∧ t.hif.bar2Denied = 0 ∧
      t.out = .hostRead (BitVec.ofNat 32 s.hif.bar2Denied) :: s.out) ∧
    (∀ v, exec (.registerWrite (.bar0 0x10) false v) s = .next { s with hif := { s.hif with scratch := v } }) ∧
    (∀ v, exec (.registerWrite (.bar0 0x14) false v) s = .next { s with hif := { s.hif with unmapped := satAdd s.hif.unmapped 1 0xFFFFFFFF } }) ∧
    (∀ w, exec (.registerWrite (.bar0 0) true w) s = .next (s.emit (.hostRead 0x96400011))) ∧
    (∀ w, exec (.registerWrite (.bar0 4) true w) s = .next (s.emit (.hostRead (BitVec.ofNat 32 s.devStatus)))) ∧
    (∀ w, exec (.registerWrite (.bar0 0x10) true w) s = .next (s.emit (.hostRead s.hif.scratch))) ∧
    (∀ w, exec (.registerWrite (.bar0 0x14) true w) s = .next (s.emit (.hostRead 0))) ∧
    (∀ w, exec (.registerWrite (.cfg .id) true w) s = .next (s.emit (.hostRead 0x96401F7A))) ∧
    (∀ v, exec (.registerWrite (.cfg .aerMask) false v) s =
      .next { s with hif := { s.hif with cfg := { s.hif.cfg with aerMask := v } } }) ∧
    (∀ v, v < 2048 → (s.vec v).masked = true → (s.vec v).owed ≠ [] → s.hif.msixEnable = true → s.hif.cfg.functionMask = false →
      ∃ t, exec (.msixVectorUnmask v) s = .next t ∧ t.vec v = { s.vec v with masked := false, owed := [] } ∧
      t.out = .msix v ((s.vec v).addrHi.toNat * 0x100000000 + (s.vec v).addrLo.toNat) (s.vec v).data :: s.out)

/-- Host rings: enable, disable, flush, watermark and doorbells. Outside WINTER, while BAR0 is served: enabling with a legal RING_CTRL empties the ring, gives it its size and direction and clears its error, an illegal one sets the error, disabling keeps the queue, a flush drops the queue's items and moves the host's pointer to the write pointer, RING_WMCNT answers and clears, a legal doorbell moves the pointer it carries and consumes what it releases, and a doorbell of a disabled ring has no effect. (R88, R89, R96, R97, spec/03_host_interface.md Tables 3.10 to 3.12) -/
def Obligations.ring_registers : Prop :=
  ∀ (s : State) (r : Nat), s.bar0Up = true → r < 2048 → s.season ≠ .winter →
    (∀ ctrl : Word, (s.ring r).enable = false → ringCtrlOk ctrl.toNat = true → ∃ t, exec (.ringEnable r ctrl) s = .next t ∧
      (t.ring r).enable = true ∧ (t.ring r).error = false ∧ (t.ring r).hostPtr = 0 ∧ (t.ring r).dirD2h = bit ctrl.toNat 30 ∧
      (t.q (ringQ r)).rptr = 0 ∧ (t.q (ringQ r)).wptr = 0 ∧ (t.q (ringQ r)).gen = 0 ∧ (t.q (ringQ r)).items = [] ∧
      (t.q (ringQ r)).cap = ringSize (bits ctrl.toNat 20 4)) ∧
    (∀ ctrl : Word, (s.ring r).enable = false → ringCtrlOk ctrl.toNat = false → ∃ t, exec (.ringEnable r ctrl) s = .next t ∧
      (t.ring r).enable = false ∧ (t.ring r).error = true) ∧
    (∀ ctrl : Word, ∃ t, exec (.ringDisable r ctrl) s = .next t ∧ (t.ring r).enable = false ∧
      t.q (ringQ r) = s.q (ringQ r)) ∧
    (∃ t, exec (.ringFlush r) s = .next t ∧ t.q (ringQ r) = (s.q (ringQ r)).flush ∧ (t.ring r).unreported = 0 ∧
      (t.ring r).hostPtr = (s.q (ringQ r)).wptr) ∧
    (∃ t, exec (.ringWmcntRead r) s = .next t ∧ t.q (ringQ r) = { s.q (ringQ r) with wmCount := 0 } ∧
      t.out = .hostRead (BitVec.ofNat 32 (s.q (ringQ r)).wmCount) :: s.out) ∧
    (∀ v, v < 2 * (s.q (ringQ r)).cap → 2 * (s.q (ringQ r)).cap ≤ 0x20000 → (s.ring r).dirD2h = false → (s.ring r).enable = true →
      (s.ring r).error = false → (s.ring r).bad = false → (v + 2 * (s.q (ringQ r)).cap - (s.q (ringQ r)).rptr) % (2 * (s.q (ringQ r)).cap) ≤ (s.q (ringQ r)).cap →
      (s.q (ringQ r)).depth ≤ (v + 2 * (s.q (ringQ r)).cap - (s.q (ringQ r)).rptr) % (2 * (s.q (ringQ r)).cap) →
      ∃ t, exec (.doorbellH2d r v) s = .next t ∧ (t.q (ringQ r)).wptr = v ∧ (t.ring r).doorbell = v ∧ (t.ring r).error = false) ∧
    (∀ v, v < 2 * (s.q (ringQ r)).cap → 2 * (s.q (ringQ r)).cap ≤ 0x20000 → (s.ring r).dirD2h = true → (s.ring r).enable = true →
      (s.ring r).error = false → (s.q (ringQ r)).kind = .backPressure → s.tm.hold = [] → s.hif.held = [] →
      (v + 2 * (s.q (ringQ r)).cap - (s.ring r).hostPtr) % (2 * (s.q (ringQ r)).cap) ≤
        ((s.q (ringQ r)).wptr + 2 * (s.q (ringQ r)).cap - (s.ring r).hostPtr) % (2 * (s.q (ringQ r)).cap) →
      ∃ t, exec (.doorbellD2h r v) s = .next t ∧ (t.ring r).hostPtr = v ∧ (t.ring r).unreported = 0 ∧ (t.ring r).error = false ∧
      t.q (ringQ r) = (s.q (ringQ r)).consume ((v + 2 * (s.q (ringQ r)).cap - (s.ring r).hostPtr) % (2 * (s.q (ringQ r)).cap))) ∧
    (∀ v, (s.ring r).enable = false → exec (.doorbellH2d r v) s = .next s ∧ exec (.doorbellD2h r v) s = .next s)

/-- Hardware queues: reserve, close and watermark. For every queue number: a reservation of an allocated queue that is no host ring gets the queue's answer and leaves the queue as the reservation does; the general pool gives a free queue with the kind the firmware chose and takes one back; a close places the item, and on a device-to-host ring also counts as unreported; WM_CROSSED is cleared, where the host or the control cluster may reach it. That the row QUEUE_RESERVE carries the pool's allocation is the model's choice (log entry on the pool). (R23, R85, R86, R87, R92, R97) -/
def Obligations.hardware_queues : Prop :=
  ∀ (s : State) (n : Nat), n < 65536 →
    (∀ len a, ¬ (44032 ≤ n ∧ n < 46080) → ((poolAct s n a).q n).allocated = true → ∃ t, exec (.queueReserve n ⟨len, a⟩) s = .next t ∧
      t.q n = (((poolAct s n a).q n).reserve len).2 ∧ .reserve n (((poolAct s n a).q n).reserve len).1 ∈ t.out) ∧
    (∀ len, (s.q n).allocated = false → exec (.queueReserve n ⟨len, .none⟩) s = .next s) ∧
    (∀ len ow cap, 46080 ≤ n → (s.q n).allocated = false → 0 < cap → cap ≤ 65536 →
      ∃ t, exec (.queueReserve n ⟨len, .allocate ow cap⟩) s = .next t ∧
      t.q n = ((Queue.fresh (if ow then .overwriteOldest else .backPressure) cap).reserve len).2) ∧
    (∀ len, 46080 ≤ n → ∃ t, exec (.queueReserve n ⟨len, .release⟩) s = .next t ∧ t.q n = Queue.empty) ∧
    (∀ body q, ¬ (44032 ≤ n ∧ n < 46080) → (s.q n).allocated = true → (s.q n).close body = (.ok, q) →
      ∃ t, exec (.queueClose n body) s = .next t ∧ t.q n = q) ∧
    (∀ body q, 44032 ≤ n → n < 46080 → (s.ring (n - 44032)).dirD2h = true → (s.q n).allocated = true → (s.q n).close body = (.ok, q) →
      ∃ t, exec (.queueClose n body) s = .next t ∧ t.q n = q ∧ (t.ring (n - 44032)).unreported = (s.ring (n - 44032)).unreported + 1) ∧
    ((if 44032 ≤ n ∧ n < 46080 then s.bar0Up = true ∧ s.season ≠ .winter else s.running = true) →
      ∃ t, exec (.wmCrossedClear n) s = .next t ∧ t.q n = { s.q n with crossed := false })

/-- BAR2 writes and reads HBM through its page gates. A BAR2 write in an open page stores exactly its octets and no other octet of memory changes; in a page that is not open nothing is stored, DEV_BAR2_DENIED counts and a completer abort is recorded; a read answers the octets of memory, or a poisoned completion where a unit of it is poisoned, and changes none; a read of a denied page is answered with a completer abort and counts. (R74, R75) -/
def Obligations.bar2_reads_and_writes_hbm : Prop :=
  ∀ (s : State) (a : Nat), s.bar0Up = true →
    (∀ octets, oneBlock a octets.length = true → (bar2Gate s a).1 = 2 → ∃ t, exec (.bar2Write a octets) s = .next t ∧
      ∀ x, t.rdByte x = if a ≤ x ∧ x < a + octets.length then octets.getD (x - a) 0 else s.rdByte x) ∧
    (∀ octets, oneBlock a octets.length = true → (bar2Gate s a).1 ≠ 2 → ∃ t, exec (.bar2Write a octets) s = .next t ∧
      t.hif.bar2Denied = satAdd s.hif.bar2Denied 1 0xFFFFFFFF ∧ t.hif.aerCompleterAborts = s.hif.aerCompleterAborts + 1 ∧
      t.mem = s.mem) ∧
    (∀ n, oneBlock a n = true → (bar2Gate s a).1 ≠ 0 → (∀ u ∈ s.mm.poison, ¬ (u < a + n ∧ a < u + 32)) →
      ∃ t, exec (.bar2Read a n) s = .next t ∧ t.mem = s.mem ∧
      t.out = .hostReadOctets ((List.range n).map (fun i => s.rdByte (a + i))) :: s.out) ∧
    (∀ n, oneBlock a n = true → (bar2Gate s a).1 ≠ 0 → (∃ u ∈ s.mm.poison, u < a + n ∧ a < u + 32) →
      ∃ t, exec (.bar2Read a n) s = .next t ∧ t.mem = s.mem ∧ t.out = .hostPoisoned n :: s.out) ∧
    (∀ n, oneBlock a n = true → (bar2Gate s a).1 = 0 → ∃ t, exec (.bar2Read a n) s = .next t ∧ t.mem = s.mem ∧
      t.out.head? = some .completerAbort ∧ t.hif.bar2Denied = satAdd s.hif.bar2Denied 1 0xFFFFFFFF)

/-- Season changes. Without demand, the end of the hold of SUMMER, or a Target below SUMMER, leads to SPRING; a drained AUTUMN leads to SPRING; WINTER and MIDWINTER are entered and WINTER left by their rows; the rise to SUMMER completes; each with the status object the season has. (R382, R383, R386, R389, R390) -/
def Obligations.season_rows : Prop :=
  ∀ s : State,
    (s.season = .summer → hasDemand s = false →
      s.rd Obj.target ≤ 1 ∨ (s.rd Obj.summerHold ≠ 0 ∧ s.pw.idleSince + s.rd Obj.summerHold * ms ≤ s.mono) →
      ∃ t, exec .summerHoldExpiry s = .next t ∧ t.season = .spring ∧ t.rd Obj.seasonNow = 2) ∧
    (s.season = .autumn → seasonBusy s = false → ∃ t, exec .autumnDrained s = .next t ∧ t.season = .spring ∧ t.rd Obj.seasonNow = 2) ∧
    (s.season = .spring → s.pw.winterEntry = true → hasDemand s = false →
      ∃ t, exec .winterEntry s = .next t ∧ t.season = .winter ∧ t.rd Obj.seasonNow = 1 ∧ t.pw.winterEntry = false ∧ t.ig.wdAt = none) ∧
    (s.season = .winter → ∃ t, exec .pmeTurnOff s = .next t ∧ t.pw.linkL2 = true ∧ t.season = .winter) ∧
    (s.season = .winter → s.pw.linkL2 = true → s.rd Obj.target = 0 → s.pw.thawFrom = none →
      ∃ t, exec .midwinterEntry s = .next t ∧ t.season = .midwinter ∧ t.pw.mainPwrEn = false ∧ t.pw.boot = .waitPwrOk ∧ t.mem = []) ∧
    (s.running = true → s.season = .spring → s.pw.rising = true → s.pw.held = [] →
      ∃ t, exec .summerReached s = .next t ∧ t.season = .summer ∧ t.rd Obj.seasonNow = 3 ∧ t.pw.rising = false ∧
      t.pw.idleSince = s.mono) ∧
    (s.season = .winter → s.pw.thawFrom = some .winter → s.pw.held = [] → s.pw.kept = none → s.rings = [] → s.paired = false →
      (∀ p, p < 6 → s.rd (Obj.nqEnable p) ≠ 1) → ∃ t, exec .thawComplete s = .next t ∧ t.season = .spring ∧ t.rd Obj.seasonNow = 2)

/-- Resets: PERST_N, SYS_RST_N and the loss of the always-on rails. PERST_N in operation holds the device in reset with memory lost, the log kept and every object outside the always-on domain at its default; during the boot it acts on PCI Express only; SYS_RST_N and the loss of always-on power lead where their rules say. (R391, R443, spec/18_boot_and_security.md Table 18.4) -/
def Obligations.reset_rows : Prop :=
  ∀ s : State, s.pw.boot ≠ .unpowered →
    (s.season ≠ .midwinter → ∃ t, exec .perstAssert s = .next t ∧ t.pw.boot = .heldReset ∧ t.pw.perst = true ∧ t.mem = [] ∧
      t.rd Obj.resetKind = 1 ∧ t.ev.log = s.ev.log ∧ ∀ k, aonKey k = false → t.rd k = dfltOf k) ∧
    (perstPcieOnly s = true → ∃ t, exec .perstAssert s = .next t ∧ t.pw = { s.pw with perst := true } ∧ t.dict = s.dict ∧
      t.rings = [] ∧ t.hif = State.reset.hif) ∧
    (∃ t, exec .sysReset s = .next t ∧ t.pw.boot = .waitPwrOk ∧ t.pw.pwrOk = false ∧ t.mem = [] ∧ t.rd Obj.resetKind = 2 ∧
      t.ev.log = s.ev.log ∧ t.sec.fuses = s.sec.fuses ∧ ∀ k, k / 0x100000000 ≠ 0xE030 → t.rd k = dfltOf k) ∧
    (∃ t, exec .aonPowerLoss s = .next t ∧ t.pw.boot = .unpowered ∧ t.dict = [] ∧ t.ev.log = [] ∧ t.mem = [] ∧
      t.sec.fuses = s.sec.fuses ∧ t.sec.block = none)

/-- Power-up rows and clock losses. Always-on power, PWR_OK, straps, the release of PERST_N, the fall of PWR_OK with its restart, and the loss and return of REFCLK and the crystal change the boot stage, pins and causes as their rules say. (R402, R441, R442, R443, R448, R460) -/
def Obligations.power_up_rows : Prop :=
  ∀ s : State,
    (s.pw.boot = .unpowered → ∃ t, exec .aonPowerOn s = .next t ∧ t.pw.boot = .waitPwrOk ∧ t.pw.mainPwrEn = true ∧
      t.rd Obj.resetKind = 0) ∧
    (∀ x, s.pw.boot = .waitPwrOk → s.pw.mainPwrEn = true → ∃ t, exec (.pwrOkRise x) s = .next t ∧ t.pw.boot = .straps ∧
      t.pw.pwrOk = true ∧ t.pw.straps = [x % 8]) ∧
    (∀ x a b r, s.pw.boot = .straps → s.pw.straps = a :: r → (r = [] ∨ ∃ c q, r = c :: q ∧ a ≠ c) → a = x % 8 → b = true →
      s.pw.pwrOk = true → s.pw.refclk = true → bit a 2 = false → s.pw.resetCause / 2 ^ 28 ≠ 3 →
      ∃ t, exec (.strapResample x b) s = .next t ∧ t.pw.boot = .rom ∧ t.pw.straps = a :: a :: r) ∧
    (s.pw.pwrOk = true → s.pw.mainPwrEn = true → ∃ t, exec .pwrOkFall s = .next t ∧ t.pw.boot = .waitPwrOk ∧ t.pw.mainPwrEn = false ∧
      t.pw.lossAt = some s.mono ∧ t.mem = [] ∧ t.tw.failReport = (s.paired || s.tw.failReport)) ∧
    (∀ x, s.pw.lossAt = some x → x + 100 * ms ≤ s.mono → s.pw.boot = .waitPwrOk → ∃ t, exec .powerLossRestart s = .next t ∧
      t.pw = { s.pw with lossAt := none, mainPwrEn := true }) ∧
    (s.pw.pwrOk = true → s.pw.mainPwrEn = true → ∃ t, exec .refclkLoss s = .next t ∧ t.pw.refclk = false ∧ t.pw.boot = .waitPwrOk ∧
      t.pw.lossAt = some s.mono) ∧
    (s.pw.boot = .straps → strapsAgreed s = true → s.pw.pwrOk = true → testMode s = false → s.pw.resetCause / 2 ^ 28 ≠ 3 →
      ∃ t, exec (.refclkReturn true) s = .next t ∧ t.pw.refclk = true ∧ t.pw.boot = .rom) ∧
    (s.pw.boot = .heldReset → s.pw.pwrOk = true → s.pw.refclk = true → testMode s = false → s.pw.resetCause / 2 ^ 28 ≠ 3 →
      ∃ t, exec (.perstRelease true) s = .next t ∧ t.pw.perst = false ∧ t.pw.boot = .rom) ∧
    (exec .xtalLoss s = .next { s with pw := { s.pw with xtal := false } })

/-- Boot images, training and the FATAL reset. A frame of the bootstrap that offers an image of the class asked for is taken for verification, its octets cut to the length it states; a verified image starts the next stage; a failed one is asked for again; training completes the channel; a FATAL reset resets the device and leaves its cause. (R402, R403, R404, R425, spec/18_boot_and_security.md Table 18.4) -/
def Obligations.boot_rows : Prop :=
  ∀ s : State,
    (∀ i, (s.pw.boot = .rom ∨ s.pw.boot = .bootstrap) → (s.h2d 0).go = true → ((s.h2d 0).msg.headD 0).toNat / 0x1000000 = 0xB1 →
      s.pw.booting = none → ∃ t, exec (.bootOffer i) s = .next t ∧ t.pw.booting = some ⟨i.octs.take ((s.h2d 0).msg.getD 3 0).toNat⟩ ∧ (t.h2d 0).go = false) ∧
    (∀ i, s.pw.boot = .rom → s.pw.booting = some i → verifyImage s 1 i = 0 → ∃ t, exec .bootImageVerified s = .next t ∧
      t.pw.boot = .bootstrap ∧ t.pw.bootstrapImage = some i ∧ t.pw.booting = none) ∧
    (∀ i, s.pw.boot = .bootstrap → s.pw.booting = some i → s.pw.hbmReady = true → verifyImage s 2 i = 0 →
      ∃ t, exec .bootImageVerified s = .next t ∧ t.pw.boot = .running ∧ t.pw.firmware = some i ∧ t.season = .spring ∧
      t.rd Obj.firmwareVersion = i.version ∧ t.rd Obj.frost = bits s.sec.fuses.bootPolicy 10 6 ∧ t.ig.wdAt = some s.mono) ∧
    (∀ i a, s.pw.boot = .rom → s.pw.booting = some i → verifyImage s 1 i = a → a ≠ 0 → ∃ t, exec .bootImageVerified s = .next t ∧
      t.pw = { s.pw with booting := none }) ∧
    (∀ x, (s.pw.boot = .rom ∨ s.pw.boot = .bootstrap) → s.pw.hbmReady = false → ∃ t, exec (.trainingComplete 32 x) s = .next t ∧
      t.pw.hbmReady = true ∧ t.mm.training = []) ∧
    (∀ code, s.ev.fatal = some code → s.pw.pwrOk = true → s.pw.refclk = true → testMode s = false →
      ∃ t, exec (.fatalReset true) s = .next t ∧ t.rd Obj.resetKind = 3 ∧ t.rd Obj.resetCode = code ∧ t.mem = [])

/-- Fabric frames, credits and acknowledgements. A received frame for this device waits for its consumer and its credits are counted as freed, one with a bad checksum is dropped and counted, one for another device is relayed, a transmitted frame spends its credits and its blocks enter the port's stream, a CREDIT block is sent when due and one received is noted, an ACK ends the wait for a CTRL frame and an expiry sends it again or gives it up. (R328, R329, R330, R331, R332) -/
def Obligations.fabric_frames : Prop :=
  ∀ s : State, s.running = true →
    (∀ p f idle, p < 6 → 2 ≤ (s.nq p).stage → 1 ≤ f.kind → f.kind ≤ 3 → ∃ t, exec (.fabricFrameRx p f true idle) s = .next t ∧
      t.fb.inbox = s.fb.inbox ++ [(p, s.tod, f)] ∧ (t.nq p).freed = bump (s.nq p).freed f.vc (frameCost f)) ∧
    (∀ p f idle, p < 7 → 2 ≤ (s.nq p).stage → ∃ t, exec (.fabricFrameRx p f false idle) s = .next t ∧
      t.fb.inbox = s.fb.inbox ∧ (t.second p).crc = (s.second p).crc + 1 ∧
      (t.nq p).freed = bump (s.nq p).freed f.vc (frameCost f)) ∧
    (∀ p a f u, s.fb.inbox.find? (fun x => decide (x.1 ≠ 6) && !oneHop x.2.2 && decide (x.2.2.dst ≠ s.ownFdev)) = some (p, a, f) →
      s.named = true → 2 ≤ f.ttl →
      nextHop s f ≠ none → State.fabQueuePush { s with fb := { s.fb with inbox := s.fb.inbox.erase (p, a, f) } } { f with ttl := f.ttl - 1 } = (true, u) →
      exec .frameRelay s = .next u) ∧
    (∀ p, p < 7 → (s.nq p).stage ≠ 0 → ((s.nq p).creditAt + 1000 ≤ s.mono ∨ 16 ≤ (s.nq p).sinceCredit) →
      ∃ t, exec (.creditBlockTx p) s = .next t ∧ t.out = Out.credit p (s.nq p).freed (losLoa (portMask s p)) :: s.out ∧
      (t.nq p).creditAt = s.mono ∧ (t.nq p).sinceCredit = 0 ∧
      (t.nq p).tx = putBlocks (s.nq p).tx [creditBlock (creditCounts (s.nq p).freed (losLoa (portMask s p)))]) ∧
    (∀ p f r, p < 7 → 2 ≤ (s.nq p).stage → s.fb.hop.filter (fun x => decide (x.1 = p) && decide (x.2.vc = 0)) = (p, f) :: r →
      frameCost f ≤ (s.nq p).credits 0 → ∃ t, exec (.fabricFrameTx p) s = .next t ∧ t.out = Out.fabric p f :: s.out ∧
      t.fb.hop = s.fb.hop.erase (p, f) ∧ (t.nq p).spent = bump (s.nq p).spent f.vc (frameCost f) ∧
      (t.nq p).tx = putBlocks (s.nq p).tx (frameBlocks (s.fb.sent + 1) f)) ∧
    (∀ p a f u vc q, s.takeFrame (fun f => decide (f.kind = 0x05)) = (some (p, a, f), u) → f.msg = .ack vc q →
      ∃ t, exec .ackRx s = .next t ∧ t.fb.unacked = s.fb.unacked.filter (fun x => !(decide (x.frame.dst = f.src) && decide (x.frame.vc = vc) &&
          decide (x.frame.seq = q))) ∧ t.fb.inbox = s.fb.inbox.erase (p, a, f)) ∧
    (∀ u, s.fb.unacked.find? (fun u => decide (u.sent + s.rd Obj.ctrlRetransmit * 1000 ≤ s.mono)) = some u →
      ∃ t, exec .ctrlRetransmitExpiry s = .next t ∧ t.fb.unacked = if 8 ≤ u.tries then s.fb.unacked.erase u else
        s.fb.unacked.erase u ++ [{ u with sent := s.mono, tries := u.tries + 1 }]) ∧
    (∀ p counts rdi, p < 7 → (s.nq p).stage ≠ 0 → exec (.creditBlockRx p counts rdi) s = .next (refreshDefects (s.setNq p { s.nq p with
      heard := if 2 ≤ (s.nq p).stage then [counts.getD 0 0 % 2 ^ 24, counts.getD 1 0 % 2 ^ 24, counts.getD 2 0 % 2 ^ 24, counts.getD 3 0 % 2 ^ 24]
        else (s.nq p).heard
      farRdi := rdi }) p))

/-- Fabric neighbours and the link-state database. HELLO is sent and heard, a silent neighbour is dropped after the dead interval, advertisements are refreshed, stored, flooded, acknowledged and aged, and a run of the route computation sets the routes. (R333, R334, R335, R336) -/
def Obligations.fabric_neighbours : Prop :=
  ∀ s : State, s.running = true →
    (∀ p, p < 6 → 2 ≤ (s.nq p).stage → ((s.nq p).helloSent = 0 ∨ (s.nq p).helloSent + s.rd Obj.helloInterval * 1000 ≤ s.mono) →
      ∃ t f x y, exec (.helloTx p) s = .next t ∧ t.fb.hop = s.fb.hop ++ [(p, f)] ∧ f.msg = .hello ownSerial s.ownFdev p x y ∧
      (t.nq p).helloSent = s.mono) ∧
    (∀ p a f u serial fdev port hs hp, s.takeFrame (fun f => decide (f.kind = 0x01)) = (some (p, a, f), u) →
      f.msg = .hello serial fdev port hs hp → (s.nq p).stage = 2 → hs ≠ ownSerial → fdev < 512 →
      ∃ t, exec .helloRx s = .next t ∧ (t.nq p).neighbour = some (serial, fdev, port) ∧ (t.nq p).helloAt = s.mono ∧
      (t.nq p).stage = 2 ∧ t.rd (Obj.nqNeighbour p) = fdev) ∧
    (∀ p, p < 6 → (s.nq p).stage = 3 → (s.nq p).helloAt + s.rd Obj.deadInterval * 1000 ≤ s.mono →
      ∃ t, exec (.deadIntervalExpiry p) s = .next t ∧ (t.nq p).neighbour = none ∧ (t.nq p).stage = 2 ∧ t.rd (Obj.nqNeighbour p) = 0xFFFF) ∧
    (s.fb.lsaAt + s.rd Obj.lsaRefresh * 1000000000 ≤ s.mono → ∃ t, exec .lsaRefresh s = .next t ∧ t.fb.lsaAt = s.mono ∧
      t.fb.lsaSeq = if s.named then (s.fb.lsaSeq + 1) % 2 ^ 32 else s.fb.lsaSeq) ∧
    (∀ p a f u l, s.takeFrame (fun f => decide (f.kind = 0x02)) = (some (p, a, f), u) → f.msg = .lsa l → l.origin ≠ s.ownFdev →
      (∀ r ∈ s.fb.lsdb, r.lsa.origin = l.origin → r.lsa.serial = l.serial → r.lsa.seq < l.seq) →
      ∃ t, exec .lsaRx s = .next t ∧ t.fb.lsdb = lsdbPut s.fb.lsdb ⟨l, s.mono⟩ ∧ t.fb.changed = some s.mono) ∧
    (∀ p a f u o q, s.takeFrame (fun f => decide (f.kind = 0x03)) = (some (p, a, f), u) → f.msg = .lsack o q →
      ∃ t, exec .lsackRx s = .next t ∧
      t.fb.lsaSent = s.fb.lsaSent.filter (fun x => !(decide (x.port = p) && decide (x.lsa.origin = o) && decide (x.lsa.seq = q)))) ∧
    (∀ r ∈ s.fb.lsdb, r.lsa.origin ≠ s.ownFdev → r.at_ + 3 * s.rd Obj.lsaRefresh * 1000000000 ≤ s.mono →
      ∃ t, exec .lsaExpiry s = .next t ∧ r ∉ t.fb.lsdb ∧ t.fb.changed = some s.mono) ∧
    (∀ x, s.fb.changed = some x → x + s.rd Obj.spfHold * 1000 ≤ s.mono → s.named = true →
      ∃ t, exec .spfRun s = .next t ∧ t.fb.changed = none ∧
      t.fb.routes = ((spf (countedLinks s.fb.lsdb) s.ownFdev (s.adjacentPorts.filterMap (fun p =>
        match (s.nq p).neighbour with
        | some (_, fdev, _) => some (p, fdev, s.rd (Obj.nqCost p))
        | none => none))).map (fun (r : Nat × Nat × List Nat) => (r.1, r.2.2))) ++ [(s.ownFdev, [])])

/-- Fabric ports: lane defects, their hold and credit requests. A change of a lane's signal sets the locks and defects of that lane and port and no other's; a defect that has been absent for DefectHold is cleared; a CREDIT block with RDI marks the far end. (R322, R323, R325, R338, R339) -/
def Obligations.fabric_ports : Prop :=
  ∀ s : State, s.running = true →
    (∀ p counts rdi, p < 7 → (s.nq p).stage ≠ 0 → ∃ t, exec (.creditBlockRx p counts rdi) s = .next t ∧ (t.nq p).farRdi = rdi ∧
      (t.nq p).spent = (s.nq p).spent ∧
      (t.nq p).heard = if 2 ≤ (s.nq p).stage then (List.range 4).map (fun i => counts.getD i 0 % 2 ^ 24) else (s.nq p).heard) ∧
    (∀ l below, l < 26 → (s.nq (l / 4)).stage ≠ 0 → ∃ t, exec (.laneDefectChange (.signal l below)) s = .next t ∧
      (t.lane l).receiver = ({ s.lane l with los := below } : LaneRt).receiver) ∧
    (∀ l out, l < 26 → (s.nq (l / 4)).stage ≠ 0 → ∃ t, exec (.laneDefectChange (.cdr l out)) s = .next t ∧
      (t.lane l).receiver = ({ s.lane l with lol := out } : LaneRt).receiver) ∧
    (∀ l n c, l < 26 → (s.nq (l / 4)).stage ≠ 0 → ∃ t, exec (.laneDefectChange (.codewords l n c)) s = .next t ∧
      (t.lane l).receiver = ((s.lane l).goodCodewords n).receiver) ∧
    (∀ l, l < 26 → (s.nq (l / 4)).stage ≠ 0 → ∃ t, exec (.laneDefectChange (.badCodeword l)) s = .next t ∧
      (t.lane l).receiver = (s.lane l).badCodewords.receiver) ∧
    (∀ l n, l < 26 → (s.nq (l / 4)).stage ≠ 0 → ∃ t, exec (.laneDefectChange (.headers l n)) s = .next t ∧
      (t.lane l).receiver = ((s.lane l).goodHeaders n).receiver) ∧
    (∀ l, l < 26 → (s.nq (l / 4)).stage ≠ 0 → ∃ t, exec (.laneDefectChange (.badHeader l)) s = .next t ∧
      (t.lane l).receiver = (s.lane l).invalidHeader.receiver) ∧
    (∀ l, l < 26 → (s.nq (l / 4)).stage ≠ 0 → ∃ t, exec (.laneDefectChange (.reservedBlock l)) s = .next t ∧
      t.liveCount (Obj.lnBadHeaders l) = satAdd (s.liveCount (Obj.lnBadHeaders l)) 1 (maxOf (Obj.lnBadHeaders l)) ∧ t.fb.lanes = s.fb.lanes) ∧
    (∀ l d n sp, l < 26 → (s.nq (l / 4)).stage ≠ 0 → ∃ t, exec (.laneDefectChange (.marker l d n sp)) s = .next t ∧
      (t.lane l).receiver = ((s.lane l).marker d (n % 4) sp).1.receiver) ∧
    (∀ l, l < 26 → (s.nq (l / 4)).stage ≠ 0 → (s.lane l).mkLock = true → ∃ t, exec (.laneDefectChange (.noMarker l)) s = .next t ∧
      (t.lane l).receiver = (s.lane l).badMarker.receiver) ∧
    (∀ p ns, p < 7 → (s.nq p).stage ≠ 0 → ∃ t, exec (.laneDefectChange (.skew p ns)) s = .next t ∧ (t.nq p).skew = ns) ∧
    (∀ p, p < 7 → (s.nq p).stage = 1 → losLoa ((lanesOf p).foldl (fun m l => orMask m ((s.lane l).defects.settle s.mono (s.rd Obj.defectHold * ms)).counted)
        ((s.nq p).defects.settle s.mono (s.rd Obj.defectHold * ms)).counted) = false →
      ∃ t, exec (.defectHoldExpiry p) s = .next t ∧ (t.nq p).stage = 2 ∧ (t.nq p).spent = [0, 0, 0, 0] ∧ (t.nq p).heard = [0, 0, 0, 0])

/-- Conferences over the fabric, streams and bins. JOIN, its reply, its retry and LEAVE change the anchor's and the remote's records, a silent remote is dropped, SUBSCRIBE and MEDIA serve a fabric-fed leg, and a performance bin rolls over with its start. (R341, R342, R343, R344) -/
def Obligations.fabric_conferences : Prop :=
  ∀ s : State, s.running = true →
    (∀ p a f u ac conf, s.takeFrame (fun f => decide (f.kind = 0x06)) = (some (p, a, f), u) → f.msg = .join ac conf → s.serves = true → ac < 16384 →
      s.rd (Obj.confState ac) = 1 → s.rd (Obj.confRole ac) = 1 → (∀ r ∈ (s.cf ac).remotes, ¬ (r.fdev = f.src ∧ r.conf = conf)) →
      (s.cf ac).remotes.length < 63 → ∃ t, exec .joinRx s = .next t ∧
      (t.cf ac).remotes = (s.cf ac).remotes ++ [⟨f.src, conf, s.mono⟩] ∧ t.rd (Obj.devices ac) = 2 + (s.cf ac).remotes.length) ∧
    (∀ p a f u ac conf c, s.takeFrame (fun f => decide (f.kind = 0x07)) = (some (p, a, f), u) → f.msg = .joinReply ac conf 0 →
      replyConf s f.src ac conf = some c → c < 16384 → s.rd (Obj.joinState c) = 1 → ∃ t, exec .joinReplyRx s = .next t ∧
      t.rd (Obj.joinState c) = 2 ∧ (t.cf c).joinAt = none ∧ (t.cf c).refusedRun = false) ∧
    (∀ c x, c < 16384 → s.isRemote c = true → s.rd (Obj.joinState c) = 1 → (s.cf c).joinAt = some x → x + 1000000000 ≤ s.mono →
      ∃ t, exec (.joinRetryExpiry c) s = .next t ∧ (t.cf c).joinAt = some s.mono ∧ t.rd (Obj.joinState c) = 1) ∧
    (∀ p a f u ac conf, s.takeFrame (fun f => decide (f.kind = 0x08)) = (some (p, a, f), u) → f.msg = .leave ac conf →
      ∃ t, exec .leaveRx s = .next t ∧
      (t.cf ac).remotes = (s.cf ac).remotes.filter (fun r => !(decide (r.fdev = f.src) && decide (r.conf = conf)))) ∧
    (∀ c fdev, ∃ t, exec (.remotePartialTimeout c fdev) s = .next t ∧
      (t.cf c).remotes = (s.cf c).remotes.filter (fun r => !(decide (r.fdev = fdev) && decide (r.heard + 1000000000 ≤ s.mono)))) ∧
    (∀ p a f u leg id entry, s.takeFrame (fun f => decide (f.kind = 0x0B)) = (some (p, a, f), u) → f.msg = .subscribe 0 leg 2 id entry →
      s.serves = true → (s.fb.subs.filter (fun x => decide (x.kind = 2) && decide (x.id = id))).length < 64 → 
      ∃ t, exec .subscribeRx s = .next t ∧ (⟨2, id, entry, f.src, leg⟩ : Sub) ∈ t.fb.subs) ∧
    (∀ p a f u leg kind id entry, s.takeFrame (fun f => decide (f.kind = 0x0B)) = (some (p, a, f), u) → f.msg = .subscribe 1 leg kind id entry →
      ∃ t, exec .subscribeRx s = .next t ∧ t.fb.subs = s.fb.subs.filter (fun x => decide (x ≠ ⟨kind, id, entry, f.src, leg⟩))) ∧
    (∀ p a f u l q, s.takeFrame (fun f => decide (f.kind = 0x0C)) = (some (p, a, f), u) → (∃ r, f.msg = .media l (.fromRctx r q)) →
      s.legActive l = true → s.fabricFed l = true → s.rd (Obj.srcFdev l) = f.src → s.serves = true →
      exec .mediaRx s = .next (feedPlace ((u.setLeg l { s.leg l with lastRx := s.mono }).wr (Obj.feedState l) 2) l q)) ∧
    (∀ k, k < 3 → time80 (s.tod / 1000000000 / 900 * 900 * 1000000000) ≠ s.rd (recKey (pmCur15 k) 1) →
      ∃ t, exec (.pmBinRollover k false) s = .next t ∧ t.rd (recKey (pmCur15 k) 1) = time80 (s.tod / 1000000000 / 900 * 900 * 1000000000) ∧
      (∀ i, 2 ≤ i → i ≤ 8 → t.rd (recKey (pmCur15 k) i) = 0) ∧
      (∀ i, 1 ≤ i → i ≤ 7 → t.rd (recKey (pmRecent k 0) i) = s.rd (recKey (pmCur15 k) i))) ∧
    (∀ k, k < 3 → time80 (s.tod / 1000000000 / 86400 * 86400 * 1000000000) ≠ s.rd (recKey (pmCurDay k) 1) →
      ∃ t, exec (.pmBinRollover k true) s = .next t ∧ t.rd (recKey (pmCurDay k) 1) = time80 (s.tod / 1000000000 / 86400 * 86400 * 1000000000) ∧
      (∀ i, 2 ≤ i → i ≤ 8 → t.rd (recKey (pmCurDay k) i) = 0) ∧
      (∀ i, 1 ≤ i → i ≤ 7 → t.rd (recKey (pmPrevDay k) i) = s.rd (recKey (pmCurDay k) i)))

/-- Maten arithmetic instructions. MPY (single and paired lanes), MAC, MACSH, RNDA, CLR, ACS and the moves and stores of STA, of an issuing core, put the result the rules compute into the accumulator, register or stored container. (R178, R179, R182, R186, R187) -/
def Obligations.maten_arithmetic : Prop :=
  ∀ (s : State) (c : Nat) (w : Word), Issues s c →
    (bits w.toNat 27 4 = 4 → bits w.toNat 24 3 = 0 → macLegal w.toNat = true → bit w.toNat 23 = false →
      ∃ t, exec (.mpy c w) s = .next t ∧ (t.core c).regs.getAc (bits w.toNat 18 3) =
        BitVec.ofInt 56 (macProduct (bits w.toNat 6 2) (bit w.toNat 5) (bit w.toNat 22) (rdD s (bundleCore s c) (bundleRegs s c) (bits w.toNat 13 5))
          (rdD s (bundleCore s c) (bundleRegs s c) (bits w.toNat 8 5)))) ∧
    (∀ v, bits w.toNat 27 4 = 4 → bits w.toNat 24 3 = 1 → macLegal w.toNat = true → bit w.toNat 23 = false →
      v = ((bundleRegs s c).getAc (bits w.toNat 18 3)).toInt +
        macProduct (bits w.toNat 6 2) (bit w.toNat 5) (bit w.toNat 22) (rdD s (bundleCore s c) (bundleRegs s c) (bits w.toNat 13 5))
          (rdD s (bundleCore s c) (bundleRegs s c) (bits w.toNat 8 5)) →
      ∃ t, exec (.mac c w) s = .next t ∧ (t.core c).regs.getAc (bits w.toNat 18 3) =
        if -(2 ^ 55) ≤ v ∧ v ≤ 2 ^ 55 - 1 then BitVec.ofInt 56 v
        else if (s.core c).regs.mode.getLsbD 0 then BitVec.ofInt 56 v
        else BitVec.ofInt 56 (if v < -(2 ^ 55) then -(2 ^ 55) else 2 ^ 55 - 1)) ∧
    (∀ v, bits w.toNat 27 4 = 4 → bits w.toNat 24 3 = 2 → macLegal w.toNat = true → bit w.toNat 23 = false →
      v = ((bundleRegs s c).getAc (bits w.toNat 18 3)).toInt / 16777216 +
        macProduct (bits w.toNat 6 2) (bit w.toNat 5) (bit w.toNat 22) (rdD s (bundleCore s c) (bundleRegs s c) (bits w.toNat 13 5))
          (rdD s (bundleCore s c) (bundleRegs s c) (bits w.toNat 8 5)) → -(2 ^ 55) ≤ v → v ≤ 2 ^ 55 - 1 →
      ∃ t, exec (.macsh c w) s = .next t ∧ (t.core c).regs.getAc (bits w.toNat 18 3) = BitVec.ofInt 56 v) ∧
    (∀ v, bits w.toNat 27 4 = 4 → bits w.toNat 24 3 = 3 → macLegal w.toNat = true → bit w.toNat 23 = false →
      v = ((bundleRegs s c).getAc (bits w.toNat 18 3)).toInt → (bundleRegs s c).rnd = 0 →
      ∃ t, exec (.rnda c w) s = .next t ∧ (t.core c).regs.getAc (bits w.toNat 18 3) = BitVec.ofInt 56 (v / 16777216 * 16777216)) ∧
    (bits w.toNat 27 4 = 4 → bits w.toNat 24 3 = 4 → macLegal w.toNat = true → bit w.toNat 23 = false →
      ∃ t, exec (.clr c w) s = .next t ∧ (t.core c).regs.getAc (bits w.toNat 18 3) = 0) ∧
    (bits w.toNat 27 4 = 4 → bits w.toNat 24 3 = 0 → macLegal w.toNat = true → bit w.toNat 23 = true →
      ∃ t, exec (.mpy c w) s = .next t ∧ (t.core c).regs.getAc (bits w.toNat 18 3 + 1) =
        BitVec.ofInt 56 (macProduct (bits w.toNat 6 2) (bit w.toNat 5) (bit w.toNat 22)
          (rdD s (bundleCore s c) (bundleRegs s c) (if bit w.toNat 21 then bits w.toNat 13 5 else bits w.toNat 13 5 + 1))
          (rdD s (bundleCore s c) (bundleRegs s c) (bits w.toNat 8 5 + 1)))) ∧
    (bits w.toNat 27 4 = 5 → acsLegal w.toNat = true → bit w.toNat 26 = false → bit w.toNat 25 = false →
      ∃ t, exec (.acs c w) s = .next t ∧ (t.core c).regs.getD (bits w.toNat 19 5) =
        BitVec.ofNat 24 (acsSelect (bit w.toNat 24) (2 ^ 24 - 1)
          ((rdD s (bundleCore s c) (bundleRegs s c) (bits w.toNat 14 5)).toNat + (rdD s (bundleCore s c) (bundleRegs s c) (bits w.toNat 4 5)).toNat)
          ((rdD s (bundleCore s c) (bundleRegs s c) (bits w.toNat 9 5)).toNat +
            (rdD s (bundleCore s c) (bundleRegs s c) ((bits w.toNat 4 5 + 1) % 32)).toNat)).1) ∧
    (∀ p n d, n < 8 → d < 32 → ∃ t, exec (.sta c p n (.movaD d)) s = .next t ∧ (t.core c).regs.getD d =
      (store24 (bundleRegs s c).rnd (bit (Config.choice s.draws) 80) (rdAc s (bundleCore s c) (bundleRegs s c) n)).1) ∧
    (∀ p n a x r, n < 8 → a.ok = true → agu (bundleRegs s c) (s.core c).regs a = some (x, r) → x < 0x8800 →
      ∃ t, exec (.sta c p n (.staH a)) s = .next t ∧ Stored s t c p
        [(x, container (store24 (bundleRegs s c).rnd (bit (Config.choice s.draws) 80) (rdAc s (bundleCore s c) (bundleRegs s c) n)).1)])

/-- Maten control, load and store instructions. LOOP, BREAK, RETI, END, B, LD and ST of an issuing core change the loop registers, program counter, status, item result and local memory as the rules say. (R174, R182, R183, R188, R190, R193) -/
def Obligations.maten_control : Prop :=
  ∀ (s : State) (c : Nat), Issues s c →
    (∀ lvl count stop, lvl < 4 → (s.core c).regs.ll = lvl → count ≠ 0 → ∃ t, exec (.loopOp c true lvl count stop) s = .next t ∧
      AMap.get 0 lvl (t.core c).regs.lc = count ∧ AMap.get 0 lvl (t.core c).regs.le = stop ∧
      AMap.get 0 lvl (t.core c).regs.ls = (s.core c).pc + 1) ∧
    (∀ p lvl stop, lvl < 4 → (s.core c).regs.ll = lvl → ∃ t, exec (.loopOp c p lvl 0 stop) s = .next t ∧ (t.core c).pc = stop + 1) ∧
    (∃ t, exec (.breakOp c true) s = .next t ∧ (t.core c).regs = (s.core c).regs.setLl ((s.core c).regs.ll - 1) ∧ (t.core c).pc = (s.core c).pc) ∧
    (∃ t, exec (.reti c) s = .next t ∧ (t.core c).pc = (s.core c).regs.ira ∧ (t.core c).handlers = (s.core c).handlers.tail ∧
      (t.core c).regs.flag fIE = (s.core c).regs.istat.getLsbD fIE) ∧
    (∃ t, exec (.endOp c) s = .next t ∧ t.disp.items = s.disp.items.map (fun (w : WorkItem) =>
      if w.core = some c then { w with ended := some (0, movRead s (bundleCore s c) (bundleRegs s c) (.pair 0) % 2 ^ 32) } else w)) ∧
    (∀ p form target, form ≠ .cond false → ∃ t, exec (.b c p form target) s = .next t ∧ (t.core c).pc = target) ∧
    (∀ target, ∃ t, exec (.b c true (.cond false) target) s = .next t ∧ (t.core c).pc = (s.core c).pc ∧ (t.core c).regs = (s.core c).regs) ∧
    (∀ p d a x r, d < 32 → a.ok = true → agu (bundleRegs s c) (s.core c).regs a = some (x, r) → addrOk x = true → ∃ t, exec (.ld c p (.ld d a)) s = .next t ∧
      (t.core c).regs.getD d = (memRead s (bundleCore s c) c x).extractLsb' 0 24) ∧
    (∀ p d a x r, d < 32 → a.ok = true → agu (bundleRegs s c) (s.core c).regs a = some (x, r) → d % 2 = 0 → addrOk x = true → addrOk (x + 1) = true →
      ∃ t, exec (.ld c p (.ldp d a)) s = .next t ∧ (t.core c).regs.getD d = (memRead s (bundleCore s c) c x).extractLsb' 0 24 ∧
      (t.core c).regs.getD (d + 1) = (memRead s (bundleCore s c) c (x + 1)).extractLsb' 0 24) ∧
    (∀ p d a e b x y r q, d < 32 → e < 32 → a.ok = true → b.ok = true → agu (bundleRegs s c) (s.core c).regs a = some (x, r) → agu (bundleRegs s c) r b = some (y, q) → d ≠ e →
      addrOk x = true → addrOk y = true → ∃ t, exec (.ld c p (.ld2 d a e b)) s = .next t ∧
      (t.core c).regs.getD d = (memRead s (bundleCore s c) c x).extractLsb' 0 24 ∧
      (t.core c).regs.getD e = (memRead s (bundleCore s c) c y).extractLsb' 0 24) ∧
    (∀ p d a x r, d < 32 → a.ok = true → agu (bundleRegs s c) (s.core c).regs a = some (x, r) → addrOk x = true →
      ∃ t, exec (.st c p (.st d a)) s = .next t ∧ Stored s t c p [(x, container (rdD s (bundleCore s c) (bundleRegs s c) d))]) ∧
    (∀ p d a x r, d < 32 → a.ok = true → agu (bundleRegs s c) (s.core c).regs a = some (x, r) → d % 2 = 0 → addrOk x = true →
      addrOk (x + 1) = true → ∃ t, exec (.st c p (.stp d a)) s = .next t ∧ Stored s t c p
        [(x, container (rdD s (bundleCore s c) (bundleRegs s c) d)), (x + 1, container (rdD s (bundleCore s c) (bundleRegs s c) (d + 1)))])

/-- Maten transfers and interrupts. DMAR and DMAW queue a transfer or stall the core, DMAWAIT waits for its count, a completed transfer moves the words, an interrupt saves PC and STATUS and goes to the program's vector with its cause, TMR sets its pending bit, and replaced code is retired when no item runs it. (R184, R189, R190, R191, R195) -/
def Obligations.maten_transfers : Prop :=
  ∀ (s : State) (c : Nat),
    (∀ (p : Bool) (loc r words : Nat) (d : CoreDma), Issues s c → 1 ≤ words → words ≤ 2048 → r % 2 = 0 → loc + words ≤ 0x8800 →
      hbmAddress s c r + 4 * words ≤ s.capacity → d = ⟨loc, hbmAddress s c r, words, false, regionClass (partOf s (hbmAddress s c r))⟩ →
      ∃ t, exec (.dmar c p loc r words) s = .next t ∧
      if p then (openBundle (t.core c)).dma = some d
      else ((t.core c).dma, (t.core c).stall) =
        if (s.core c).dma.length < 8 then ((s.core c).dma ++ [d], none) else ((s.core c).dma, some d)) ∧
    (∀ (p : Bool) (loc r words : Nat) (d : CoreDma), Issues s c → 1 ≤ words → words ≤ 2048 → r % 2 = 0 → loc + words ≤ 0x8800 →
      hbmAddress s c r + 4 * words ≤ s.capacity → d = ⟨loc, hbmAddress s c r, words, true, regionClass (partOf s (hbmAddress s c r))⟩ →
      ∃ t, exec (.dmaw c p loc r words) s = .next t ∧
      if p then (openBundle (t.core c)).dma = some d
      else ((t.core c).dma, (t.core c).stall) =
        if (s.core c).dma.length < 8 then ((s.core c).dma ++ [d], none) else ((s.core c).dma, some d)) ∧
    (∀ p n, Issues s c → ∃ t, exec (.dmawait c p n) s = .next t ∧
      (t.core c).waitAt = if (s.core c).dma.length ≤ n then none else some n) ∧
    (∀ i d, c < 128 → (s.core c).dma[i]? = some d → d.write = false → s.poisoned d.hbm (4 * d.words) = false →
      (s.core c).stall = none → (s.core c).waitAt = none → ∃ t, exec (.dmaTransferComplete c i) s = .next t ∧
      (t.core c).dma = (s.core c).dma.eraseIdx i ∧ t.mem = s.mem ∧
      ∀ j, j < d.words → AMap.get 0 (localWord (s.core c) (d.loc + j)) (t.core c).mem = s.rdWord32 (d.hbm + 4 * j)) ∧
    (∀ i d, c < 128 → (s.core c).dma[i]? = some d → d.write = true → (∀ x ∈ (s.core c).dma.take i, x.write = false) →
      (s.core c).stall = none → (s.core c).waitAt = none → ∃ t, exec (.dmaTransferComplete c i) s = .next t ∧
      (t.core c).dma = (s.core c).dma.eraseIdx i ∧ (t.core c).mem = (s.core c).mem ∧
      ∀ x, t.rdByte x = if d.hbm ≤ x ∧ x < d.hbm + 4 * d.words then
        (AMap.get 0 (localWord (s.core c) (d.loc + (x - d.hbm) / 4)) (s.core c).mem).extractLsb' (8 * ((x - d.hbm) % 4)) 8
      else s.rdByte x) ∧
    (∀ v w i, c < 128 → s.itemOn c = some w → w.ended = none → s.program w.desc.program = some i → i.tmrVector = v → v ≠ 0 →
      (s.core c).tmrPending = true → (s.core c).regs.flag fIE = true → (s.core c).start = none → (s.core c).faulted = false →
      ∃ t, exec (.interruptEntry c .tmr) s = .next t ∧
      (t.core c).pc = BitVec.ofNat 20 v ∧ (t.core c).regs.ira = (s.core c).pc ∧ (t.core c).regs.istat = (s.core c).regs.status ∧
      (t.core c).handlers = .tmr :: (s.core c).handlers ∧ (t.core c).tmrPending = false) ∧
    (∀ w i, c < 128 → s.itemOn c = some w → w.ended = none → s.program w.desc.program = some i → i.faultVector ≠ 0 →
      (s.core c).handlers = [] → (s.core c).faulted = false → ∃ t, exec (.interruptEntry c .bus) s = .next t ∧
      (t.core c).pc = BitVec.ofNat 20 i.faultVector ∧ (t.core c).regs.ira = (dropBundle (s.core c)).pc ∧ (t.core c).handlers = [.fault] ∧
      (t.core c).fcause = 4) ∧
    (∀ w i d r, c < 128 → s.itemOn c = some w → w.ended = none → s.program w.desc.program = some i → i.faultVector ≠ 0 →
      (s.core c).handlers = [] → (s.core c).faulted = false → (s.core c).dma = d :: r → ∃ t, exec (.interruptEntry c .dma) s = .next t ∧
      (t.core c).pc = BitVec.ofNat 20 i.faultVector ∧ (t.core c).regs.ira = (dropBundle (s.core c)).pc ∧ (t.core c).handlers = [.fault] ∧
      (t.core c).fcause = 5 ∧ (t.core c).faddr = d.hbm) ∧
    (∀ w i, c < 128 → s.itemOn c = some w → s.program w.desc.program = some i → i.faultVector ≠ 0 →
      (s.core c).handlers = [] → (s.core c).faulted = true → ∃ t, exec (.interruptEntry c .fault) s = .next t ∧
      (t.core c).pc = BitVec.ofNat 20 i.faultVector ∧ (t.core c).regs.ira = (dropBundle (s.core c)).pc ∧ (t.core c).handlers = [.fault] ∧
      (t.core c).faulted = false) ∧
    (c < 128 → bit (s.rd Obj.debugOpen) 1 = true → (s.core c).start = none → ∃ t, exec (.interruptEntry c .dbg) s = .next t ∧
      (t.core c).halted = true) ∧
    (c < 128 → (s.itemOn c).isSome = true → (s.core c).regs.mode.getLsbD 3 = true → (s.core c).matched ≤ (s.core c).regs.tcmp.toNat →
      (s.core c).regs.tcmp.toNat ≤ (s.core c).cyc → ∃ t, exec (.tmrMatch c) s = .next t ∧ (t.core c).tmrPending = true) ∧
    (∀ n, ∃ t, exec (.programRetireComplete n) s = .next t ∧ t.mt.retiring = s.mt.retiring.filter (fun r =>
      !(decide (r.1 = n) && !s.disp.items.any (fun w => r.2.2.contains w.order))))

/-- Work items: posting, starting and ending. A post that may not be made gets its error completion, or the record to its completion queue; one within the quota is accepted and its source goes on; one beyond is held. An item staged on a free core starts with its core as the rules say; one that ends, runs out or waits too long leaves its completion and its handle, after the core's outstanding writes; a record that waited for room is written. (R155, R156, R158, R164, R165, R166, R168, R170) -/
def Obligations.dispatcher_rows : Prop :=
  ∀ (s : State),
    (∀ src ws, src < 3 → s.running = true → (∀ h ∈ s.disp.held, h.src ≠ src) → postRefused s src (Descriptor.ofWords ws) = true →
      ∃ t, exec (.workItemPost src ws) s = .next t ∧ t.disp = s.disp ∧
        t.out = .completion src 0x8005 ((Descriptor.ofWords ws).flow * 0x1000) 0 0 :: s.out) ∧
    (∀ ws, s.running = true → (∀ h ∈ s.disp.held, h.src ≠ 3) → postRefused s 3 (Descriptor.ofWords ws) = true →
      ∃ t, exec (.workItemPost 3 ws) s = .next t ∧ t.disp.items = s.disp.items ∧
        ((∃ u, (s.inc (Obj.dispatchCounter 0)).pushRecord (Descriptor.ofWords ws).cq 0x8005 ((Descriptor.ofWords ws).flow * 0x1000) 0 0 =
          some u ∧ t = u) ∨ t.disp.owed = s.disp.owed ++ [((Descriptor.ofWords ws).cq, (Descriptor.ofWords ws).flow)])) ∧
    (∀ src ws, src < 4 → s.running = true → (∀ h ∈ s.disp.held, h.src ≠ src) → postRefused s src (Descriptor.ofWords ws) = false →
      ∃ t, exec (.workItemPost src ws) s = .next t ∧
        (if s.rd (Obj.handleQuota src) ≤ (s.disp.items.filter (fun w => decide (w.src = src))).length ∨ 65536 ≤ s.disp.items.length then
          t.disp.held = s.disp.held ++ [⟨src, Descriptor.ofWords ws, .other⟩] ∧ t.disp.items = s.disp.items
        else t.disp.held = s.disp.held ∧ ∃ w ∈ t.disp.items, w.src = src ∧ w.desc = Descriptor.ofWords ws ∧
          t.disp.items.map WorkItem.wi = s.disp.items.map WorkItem.wi ++ [w.wi])) ∧
    (∀ c w i, c < 128 → s.engines = true → s.itemOn c = none → (stagedList s.disp.items c).head? = some w →
      inService s.disp.items w.desc.flow = none → s.program w.desc.program = some i → ∃ t, exec (.workItemStart c) s = .next t ∧
        (∃ m, t.core c = { startCore (s.core c) w i.entry with mem := m }) ∧ lastCore t.disp.flows w.desc.flow = c + 1) ∧
    (∀ c cy r w, s.itemOn c = some w → (s.core c).writing = false → (s.core c).faulted = false → (s.core c).start = none → w.src ≠ 3 →
      s.disp.held = [] → ∃ t, exec (.workItemComplete c cy r) s = .next t ∧
        (match w.ended with
        | some (st, v) => .completion w.src (recordW0 w.wi st) (w.desc.flow * 0x1000) (s.core c).cyc v
        | none => .completion w.src (recordW0 w.wi 0) (w.desc.flow * 0x1000) (min cy 0xFFFFFFFF) (r % 2 ^ 32)) ∈ t.out ∧
        ∀ x ∈ t.disp.items, x.wi ≠ w.wi) ∧
    (∀ c w, s.itemOn c = some w → w.runLimit * 32 ≤ s.dspUnits - w.started → w.ended = none → (s.core c).start = none → w.src ≠ 3 →
      s.disp.held = [] → ∃ t, exec (.runLimitExpiry c) s = .next t ∧
        if (s.core c).writing = true then ∀ x ∈ t.disp.items, x.wi = w.wi → x.ended = some (3, 0)
        else .completion w.src (recordW0 w.wi 3) (w.desc.flow * 0x1000) (min 0xFFFFFFFF (max (s.core c).cyc w.runLimit)) 0 ∈ t.out ∧
          ∀ x ∈ t.disp.items, x.wi ≠ w.wi) ∧
    (∀ n w, s.disp.items.find? (fun w => decide (w.wi = n)) = some w → w.waiting = true → w.limit ≠ 0 →
      w.accepted + w.limit ≤ s.mono → w.src ≠ 3 → s.disp.held = [] →
      ∃ t, exec (.waitLimitExpiry n) s = .next t ∧
        .completion w.src (recordW0 n 2) (w.desc.flow * 0x1000) 0 0 ∈ t.out ∧ ∀ x ∈ t.disp.items, x.wi ≠ n) ∧
    (∀ n w w0 w1 cy res u, n ≠ 65536 → s.disp.items.find? (fun w => decide (w.wi = n)) = some w → w.place = .record w0 w1 cy res →
      s.disp.held = [] → s.pushRecord w.desc.cq w0 w1 cy res = some u →
      ∃ t, exec (.completionRecordRoom n) s = .next t ∧ ∀ x ∈ t.disp.items, x.wi ≠ n) ∧
    (∀ cq f r u, s.disp.owed = (cq, f) :: r → s.pushRecord cq 0x8005 (f * 0x1000) 0 0 = some u →
      ∃ t, exec (.completionRecordRoom 65536) s = .next t ∧ t = { u with disp := { u.disp with owed := u.disp.owed.erase (cq, f) } })

/-- Requests on legs and conferences. An admitted write of LegState records the transition at the next mix-frame boundary (register, activate, deactivate, free); ConfState activates and frees a conference; AnchorFdev takes a device; a classifier image that verifies replaces the classifier; a tap's Enable starts the tap. (R53, R100, R101, R108, R149, R150, R465) -/
def Obligations.leg_and_conference_requests : Prop :=
  ∀ (s : State) (b tag : Nat),
    (∀ l t, Admits s b (rowReq (.mbx b) tag 0 0x2101 0 l 1 true) (.num 1) → (s.leg l).stage ≠ .releasing → (s.leg l).future = .free → s.season ≠ .autumn →
      registerCheck s l = 0 → clsReserve s l = (0, t) → ∃ u, exec (.legRegister (.mbx b) tag 0 l) s = .next u ∧
        (u.leg l).turn = (s.leg l).turn ++ [(mixBoundary s.tod, .registered)] ∧ u.le.table = t.le.table) ∧
    (∀ l t, Admits s b (rowReq (.mbx b) tag 0 0x2101 0 l 1 true) (.num 2) → (s.leg l).stage ≠ .releasing → (s.leg l).future = .registered → s.season ≠ .autumn →
      activateCheck s l = 0 → activateMemory s l = (0, t) → ∃ u, exec (.legActivate (.mbx b) tag 0 l) s = .next u ∧
        (u.leg l).turn = (t.leg l).turn ++ [(mixBoundary s.tod, .active)] ∧ (u.leg l).charge = legCharge s l ∧
        (u.leg l).egressQ = (t.leg l).egressQ) ∧
    (∀ l, Admits s b (rowReq (.mbx b) tag 0 0x2101 0 l 1 true) (.num 1) → (s.leg l).stage ≠ .releasing → (s.leg l).future = .active →
      ∃ u, exec (.legDeactivate (.mbx b) tag 0 l) s = .next u ∧
        (u.leg l).turn = (s.leg l).turn ++ [(mixBoundary s.tod, .registered)] ∧ (u.leg l).stage = (s.leg l).stage) ∧
    (∀ l, Admits s b (rowReq (.mbx b) tag 0 0x2101 0 l 1 true) (.num 0) → (s.leg l).stage ≠ .releasing → (s.leg l).future = .registered →
      ∃ u, exec (.legFree (.mbx b) tag 0 l) s = .next u ∧
        (u.leg l).turn = (s.leg l).turn ++ [(mixBoundary s.tod, .releasing)] ∧ (u.leg l).stage = (s.leg l).stage) ∧
    (∀ c, Admits s b (rowReq (.mbx b) tag 0 0x2200 1 c 1 true) (.num 1) → s.season ≠ .autumn → s.rd (Obj.confState c) = 0 →
      (s.cf c).releasing = false → s.rd (Obj.confRole c) ≠ 2 → c < 16384 → ∃ u, exec (.confActivate (.mbx b) tag 0 c) s = .next u ∧
        u.rd (Obj.confState c) = 1 ∧ u.rd (Obj.devices c) = 1 ∧ u.cf c = ConfRt.idle) ∧
    (∀ c, Admits s b (rowReq (.mbx b) tag 0 0x2200 1 c 1 true) (.num 0) → s.rd (Obj.confState c) = 1 → s.members c = [] →
      s.rd (Obj.confRole c) ≠ 2 → c < 16384 → ∃ u, exec (.confFree (.mbx b) tag 0 c) s = .next u ∧
        u.rd (Obj.confState c) = 0 ∧ (u.cf c).releasing = true) ∧
    (∀ c v, Admits s b (rowReq (.mbx b) tag 0 0x2200 3 c 2 true) (.num v) → s.rd (Obj.confState c) = 0 → v ≠ 0xFFFF →
      s.rd (Obj.anchorConf c) ≠ 0xFFFF → v < 65536 → c < 16384 → ∃ u, exec (.anchorRepoint (.mbx b) tag 0 c false v) s = .next u ∧
        u.rd (Obj.anchorFdev c) = v) ∧
    (∀ i, Admits s b (rowReq (.mbx b) tag 0 0x2030 0 0 (i.octs.length) false) (.image i) → verifyImage s 0x11 i = 0 →
      ∃ u, exec (.classifierImageWrite (.mbx b) tag 0 i) s = .next u ∧ u.le.classifier = some i ∧ u.le.shipped = false) ∧
    (∀ isLeg id, Admits s b (rowReq (.mbx b) tag 0 (if isLeg then 0x2311 else 0x2310) 1 id 1 true) (.num 1) →
      (isLeg = true → (s.leg id).stage ≠ .releasing) → (tapEnable s isLeg id).1 = 0 → ∃ u, exec (.tapEnable (.mbx b) tag 0 isLeg id) s = .next u ∧
        u.cip.taps = (tapEnable s isLeg id).2.cip.taps ∧ u.cip.ranges = (tapEnable s isLeg id).2.cip.ranges)

/-- Every row that writes an object carries its write out and answers it. For each of the rows that write an object (rowWrite lists them with the field and value each writes): when the request passes the checks of R37 that no object changes, exec answers a next state that is the object's own write followed by the answer with abort 0; when the object refuses, the answer carries its abort and only what the refusal itself does remains. Rows whose write blows fuses run it with the blow's outcome. (R37, R41, R49, R419) -/
def Obligations.request_rows_complete : Prop :=
  ∀ (c : Instr) (s : State) (b : Nat) (w : RowWrite) (a : Attr), rowWrite c = some w → w.ch = .mbx b → w.group = 0 →
    Admits (w.start s) b w.req w.data → attrOf w.ix w.sub = some a → w.ix ≠ 0x1030 →
    (∀ t u, objectWrite (rowCtx (w.start s) b w.req) (w.start s) (rowField w.ix w.sub w.el w.len a w.data) = (0, t) →
      recordCheck (w.start s) t w.ix w.el [w.sub] = (0, u) →
      ∃ v n, exec c s = .next (w.done (reply u (.mbx b) 0 (respond w.req 0 v n)))) ∧
    (∀ e t, e ≠ 0 → objectWrite (rowCtx (w.start s) b w.req) (w.start s) (rowField w.ix w.sub w.el w.len a w.data) = (e, t) →
      exec c s = .next (w.done (reply t (.mbx b) 0 (respond w.req e 0 0))))

/-- A work item of a reserved type or an identifier out of range is refused. A post by a source that holds no post is refused when TYPE is 0b111 or the ID lies outside the range Table 1.6 gives its type: a source that is an engine receives the error completion, Refused counts, no item is added and no core changes. (R26) -/
def Obligations.invalid_flow_is_refused : Prop :=
  ∀ (s : State) (src : Nat) (ws : List Word), src < 4 → s.running = true → (∀ h ∈ s.disp.held, h.src ≠ src) →
    (let f := (ws.getD 0 0).toNat / 4096
     f / 131072 = 7 ∨ (f / 131072 = 1 ∧ 16384 ≤ f % 131072) ∨ (f / 131072 = 3 ∧ 4096 ≤ f % 131072) ∨
      (f / 131072 = 4 ∧ 1024 ≤ f % 131072) ∨ (f / 131072 = 5 ∧ 4096 ≤ f % 131072)) →
    ∃ t, exec (.workItemPost src ws) s = .next t ∧
      (src ≠ 3 → t.out = .completion src 0x8005 ((ws.getD 0 0).toNat / 4096 * 0x1000) 0 0 :: s.out) ∧
      t.rd (Obj.dispatchCounter 0) = satAdd (s.rd (Obj.dispatchCounter 0)) 1 (maxOf (Obj.dispatchCounter 0)) ∧
      t.disp.items = s.disp.items ∧ t.disp.held = s.disp.held ∧ ∀ c, t.core c = s.core c

/-- In AUTUMN no leg is registered or activated and no conference created. In AUTUMN a write of LegState that would register a free leg or activate a registered one, and a write of ConfState that would create a conference, are refused with DRAINING and leave the state; the rows LEG_REGISTER, LEG_ACTIVATE and CONF_ACTIVATE answer that abort and change nothing else. (R59) -/
def Obligations.autumn_refuses_new_work : Prop :=
  ∀ (s : State), s.season = .autumn →
    (∀ l, (s.leg l).future = .free → legStateWrite s l 1 = (0x02030010, s)) ∧
    (∀ l, (s.leg l).future = .registered → legStateWrite s l 2 = (0x02030010, s)) ∧
    (∀ c, s.rd (Obj.confState c) = 0 → confStateWrite s c 1 = (0x02030010, s)) ∧
    (∀ b tag l, Admits s b (rowReq (.mbx b) tag 0 0x2101 0 l 1 true) (.num 1) → (s.leg l).stage ≠ .releasing → (s.leg l).future = .free →
      exec (.legRegister (.mbx b) tag 0 l) s =
        .next (reply s (.mbx b) 0 (respond (rowReq (.mbx b) tag 0 0x2101 0 l 1 true) 0x02030010 0 0))) ∧
    (∀ b tag l, Admits s b (rowReq (.mbx b) tag 0 0x2101 0 l 1 true) (.num 2) → (s.leg l).stage ≠ .releasing →
      (s.leg l).future = .registered → exec (.legActivate (.mbx b) tag 0 l) s =
        .next (reply s (.mbx b) 0 (respond (rowReq (.mbx b) tag 0 0x2101 0 l 1 true) 0x02030010 0 0))) ∧
    (∀ b tag c, Admits s b (rowReq (.mbx b) tag 0 0x2200 1 c 1 true) (.num 1) → s.rd (Obj.confState c) = 0 →
      exec (.confActivate (.mbx b) tag 0 c) s =
        .next (reply s (.mbx b) 0 (respond (rowReq (.mbx b) tag 0 0x2200 1 c 1 true) 0x02030010 0 0)))

/-- A request to an index that has no object is refused. A request taken on any channel by any principal, whatever the season, that names an index of 0xF000 to 0xFFFF or one with no object is answered with NO_OBJECT and changes nothing else; so are the rows DICT_READ, DICT_WRITE and DESCRIBE. The message itself is sound and its session open (R37 checks both first), no earlier request of the session is held, and the requests of a protected active wait their turn (R354), so none of these is the case here. (R40) -/
def Obligations.absent_object_is_refused : Prop :=
  ∀ (s : State) (ch : Chan) (r : Req), s.running = true → chanValid s ch = true → s.isProtected = false → s.tw.requests = [] → heldBehind s ch = false →
    (0xF000 ≤ r.index ∨ rowsOf r.index = []) →
    (∀ p d seq, messageAbort ch r = 0 → dtpClosed s ch r = false → r.op = 1 ∨ r.op = 3 ∨ (r.op = 2 ∧ r.group = 0 ∧ r.indirect = false) →
      takeRequest s ch p r d seq = reply s ch seq (respond r 0x01010001 0 (if r.op = 2 ∧ 1 < r.count then 4 else 0))) ∧
    (∀ a, chanIsDtp ch = false → messageAbort ch { r with op := 1 } = 0 →
      exec (.dictRead ch r a) s = .next (reply s ch 0 (respond { r with op := 1 } 0x01010001 0 0))) ∧
    (∀ d, chanIsDtp ch = false → messageAbort ch { r with op := 2 } = 0 → r.group = 0 → r.indirect = false →
      exec (.dictWrite ch r d) s = .next (reply s ch 0 (respond { r with op := 2 } 0x01010001 0 (if 1 < r.count then 4 else 0)))) ∧
    (chanIsDtp ch = false → messageAbort ch { r with op := 3 } = 0 →
      exec (.describe ch r) s = .next (reply s ch 0 (respond { r with op := 3 } 0x01010001 0 0)))

/-- Taking a posted message. A message is taken only when its GO is set: the request its 16 words spell is taken with GO cleared; one whose WORDS exceeds 8 is answered with BAD_MESSAGE; writing 0 to a GO that is 0 has no effect. (R78) -/
def Obligations.posted_message_is_taken : Prop :=
  ∀ (s : State) (n : Nat),
    ((s.h2d n).go = false → exec (.mbxTake n) s = .next s) ∧
    (s.running = true → n < 64 → (s.h2d n).go = true →
      exec (.mbxTake n) s = .next (takeRequest (s.setH2d n { s.h2d n with go := false }) (.mbx n) (s.principal (.mbx n))
        (decodeReq (s.h2d n).msg) (.num (decodeData (s.h2d n).msg)) 0) ∧
      ((s.setH2d n { s.h2d n with go := false }).h2d n).go = false) ∧
    (s.running = true → n < 64 → (s.h2d n).go = true → 1 ≤ (decodeReq (s.h2d n).msg).op → (decodeReq (s.h2d n).msg).op ≤ 6 →
      8 < (decodeReq (s.h2d n).msg).words → exec (.mbxTake n) s =
        .next (reply (s.setH2d n { s.h2d n with go := false }) (.mbx n) 0 (respond (decodeReq (s.h2d n).msg) 0x01010009 0 0))) ∧
    (∀ v : Word, s.bar0Up = true → n < 64 → (s.h2d n).go = false → v.getLsbD 0 = false → exec (.mbxGoSet n v) s = .next s)

/-- Event handlers, the watchdog, scans and latched counters. A running handler is left and the next of the queue is taken when its severity is the higher one; a kick starts the watchdog period anew, one period without a kick warns and two reset the device; a finished scan leaves its CRC; a scrub notes a failed image and counts it; a latch empties the traffic and per-second counts. (R424, R426, R427, R429, R430, R431, R356) -/
def Obligations.handlers_watchdog_scans : Prop :=
  ∀ (s : State), s.running = true →
    (s.ev.fatal = none → s.ev.queued = [] →
      ∃ t, exec .handlerRun s = .next t ∧ t.ev.running = s.ev.running.tail ∧ t.ev.queued = [] ∧ t.dict = s.dict) ∧
    (∀ h, s.ev.fatal = none → topHandler s.ev.queued = some h → (∀ g ∈ s.ev.running.tail.head?, g.severity < h.severity) → 0 < h.severity →
      ∃ t, exec .handlerRun s = .next t ∧ t.ev.running = h :: s.ev.running.tail ∧ t.ev.queued = s.ev.queued.erase h ∧ t.dict = s.dict) ∧
    (∀ w, watchdogCounts s = true → s.ig.wdAt = some w →
      ∃ t, exec .watchdogKick s = .next t ∧ t.ig.wdAt = some s.mono ∧ t.ig.wdWarned = false ∧ t.dict = s.dict ∧ t.ev = s.ev) ∧
    (∀ w, watchdogCounts s = true → s.ig.wdAt = some w → w + s.rd Obj.watchdogPeriod * 1000000 ≤ s.mono → s.ig.wdWarned = false →
      ∃ t, exec .watchdogWarnExpiry s = .next t ∧ t.ig.wdAt = some w ∧ t.ig.wdWarned = true ∧
        t.rd Obj.watchdogWarnings = satAdd (s.rd Obj.watchdogWarnings) 1 (maxOf Obj.watchdogWarnings)) ∧
    (∀ w, watchdogCounts s = true → s.ig.wdAt = some w → w + 2 * s.rd Obj.watchdogPeriod * 1000000 ≤ s.mono →
      ∃ t, exec .watchdogResetExpiry s = .next t ∧ t.ig.wdAt = none ∧ t.ev.fatal = some Ev.watchdogReset ∧ t.mem = s.mem) ∧
    (∀ x, s.ig.scan = some x →
      ∃ t, exec .scanDone s = .next t ∧ t.ig.scan = none ∧ t.rd Obj.scanState = 2 ∧ t.mem = s.mem ∧
        (∃ r, r = crcMem s ⟨x.width, x.poly, x.init, x.refIn, x.refOut, x.xorOut⟩ x.length x.start (x.init % 2 ^ x.width) ∧
          t.rd Obj.scanResult = (if x.refOut then revBits x.width r else r) ^^^ x.xorOut)) ∧
    (s.rd Obj.scrubPeriod ≠ 0 → s.ig.scrubAt + s.rd Obj.scrubPeriod * 3600000000000 ≤ s.mono →
      (∃ t, exec (.imageScrubCheck []) s = .next t ∧ t.ig = { s.ig with scrubAt := s.mono } ∧ t.dict = s.dict) ∧
      ∀ n, imageHeld s 0x10 n = true → ∃ t, exec (.imageScrubCheck [(0x10, n)]) s = .next t ∧ n ∈ t.ig.corrupt ∧
        t.rd Obj.imageChecksFailed = satAdd (s.rd Obj.imageChecksFailed) 1 (maxOf Obj.imageChecksFailed)) ∧
    (∃ t, exec .counterLatch s = .next t ∧ t.mm.traffic = [] ∧ t.fb.seconds = [])

/-- The time unit: PTP messages, PPS, pulses, timestamps and SYNC_IN. An ANNOUNCE is noted, a SYNC of the locked master sets the offset, a DELAY_REQ with its destination and domain is sent and its response sets the path delay, a missing announce, PPS or SYNC_IN leads to holdover or loss, an edge is stamped and counted, a scheduled pulse leaves at its time and a held timestamp is dropped after its hold. (R368, R370, R371, R372, R373, R374, R376, R377, R448) -/
def Obligations.time_unit : Prop :=
  ∀ (s : State),
    (∀ m rank utc, s.running = true → ownMessage s m = true → ∃ t, exec (.ptpAnnounceRx m rank utc) s = .next t ∧
      t.tm.masters = noteAnnounce s.tm.masters m.identity rank utc s.mono ∧ t.tod = s.tod) ∧
    (∀ m origin corr two, s.running = true → ownMessage s m = true → fromMaster s m = true → s.rd Obj.servoState = 2 →
      ∃ t, exec (.ptpSyncRx m origin corr two) s = .next t ∧ t.tm.syncAt = s.mono ∧
        t.tm.syncDiff = rxTime s m.port - (origin : Int) - corr ∧
        t.rd Obj.tmOffset = uns 32 (clip (-2147483648) 2147483647 (t.tm.syncDiff - s.tm.pathDelay)) ∧ t.tod = s.tod) ∧
    (∀ m received corr t3, s.running = true → ownMessage s m = true → fromMaster s m = true → s.tm.delayReq = some (m.seq, t3) →
      ∃ t, exec (.ptpDelayRespRx m received corr) s = .next t ∧ t.tm.delayReq = none ∧
        t.tm.pathDelay = (s.tm.syncDiff + ((received : Int) - (t3 : Int) - corr)) / 2) ∧
    (s.running = true → s.ptpOn = true → s.ethOut = true → (bestMaster s).isSome = true → s.tm.delayAt + 62500000 ≤ s.mono →
      ∃ t, exec .ptpDelayReqTx s = .next t ∧ t.tm.delayReq = some (s.tm.delaySeq, s.tod) ∧ t.tm.delayAt = s.mono ∧
        t.out = .ptpDelayReq (s.rd Obj.ptpPort) (if s.rd Obj.ptpMacDest = 1 then 0x0180C200000E else 0x011B19000000) (s.rd Obj.ptpDomain)
          s.tm.delaySeq s.epochTag :: s.out) ∧
    (s.running = true → s.steered = true → s.rd Obj.ptpSource = 0 →
      (s.tm.announceAt + 375000000 ≤ s.mono ∨ s.tm.syncAt + 1000000000 ≤ s.mono) →
      ∃ t, exec .announceTimeout s = .next t ∧ t.rd Obj.servoState = 3 ∧ t.tm.slew = 0 ∧ t.rd Obj.freqAdj = s.rd Obj.freqAdj) ∧
    (s.season ≠ .midwinter → s.rd Obj.ptpSource ≠ 1 → 2048 ≤ s.rd Obj.timestampRing → ∃ t, exec .ppsEdge s = .next t ∧
      t.tm.ppsAt = s.mono ∧ t.rd (Obj.timeCounter 5) = satAdd (s.rd (Obj.timeCounter 5)) 1 (maxOf (Obj.timeCounter 5)) ∧ t.tod = s.tod) ∧
    (s.season ≠ .midwinter → s.steered = true → s.rd Obj.ptpSource = 1 → s.tm.ppsAt + 1500000000 ≤ s.mono →
      ∃ t, exec .ppsMissingExpiry s = .next t ∧ t.rd Obj.servoState = 3 ∧ t.tm.slew = 0 ∧ t.rd Obj.freqAdj = s.rd Obj.freqAdj) ∧
    (∀ n k e q, s.season ≠ .midwinter → n < 4 → (s.pulse n).edges (s.pulse n).last (s.tod + 1) = (k, e) → k ≠ 0 →
      (s.pulse n).at_ e = some q → q.report ≠ 1 → ∃ t, exec (.pulseEdge n) s = .next t ∧
        t.out = .pulse n e q.polarity q.width :: s.out ∧ (t.pulse n).last = e + 1 ∧ (t.pulse n).ends = e + q.width ∧
        t.rd (Obj.pulseEmitted n) = satAdd (s.rd (Obj.pulseEmitted n)) 1 (maxOf (Obj.pulseEmitted n))) ∧
    (s.season ≠ .midwinter → ∃ t, exec .timestampHoldExpiry s = .next t ∧ (∀ h ∈ t.tm.hold, s.mono < h.at_ + 1000000000) ∧
      ∀ h ∈ s.tm.hold, s.mono < h.at_ + 1000000000 → h ∈ t.tm.hold) ∧
    (s.season ≠ .midwinter → s.rd Obj.syncIn = 1 → s.tm.syncLost = false →
      ∃ t, exec (.syncInLoss false) s = .next t ∧ t.tm.syncLost = true ∧ t.tm.syncSince = none) ∧
    (∀ w, s.season ≠ .midwinter → s.rd Obj.syncIn = 1 → s.tm.syncLost = true → s.tm.syncSince = some w → w + 1000000000 ≤ s.mono →
      ∃ t, exec (.syncInLoss true) s = .next t ∧ t.tm.syncLost = false)

/-- The HBM controller: requests, ageing, ECC patrol and training. An accepted read waits with the class of its region and the unit it will answer, one for which the controller has no room waits in its router, an accepted write changes exactly the octets its mask names, a served read answers its data, an aged request is promoted, an idle row closes, a temperature sample is stored, the patrol scrub advances, the update and full retraining start when their conditions hold, and the end of a quarantine's pause drops what the engines held. (R18, R19, R307, R308, R309, R310, R311, R312, R313, R314, R315, R316) -/
def Obligations.hbm_controller : Prop :=
  ∀ (s : State),
    (∀ op p, s.pw.hbmReady = true → s.rd Obj.paused = 0 → op.write = false → s.pcOf (op.addr / 32 * 32) = some p →
      (s.pc p).reads.length < 64 → (s.pc p).stalled = [] → ∃ t, exec (.memRequestAccept op) s = .next t ∧ t.mem = s.mem ∧ ∃ r,
        (t.pc p).reads = (s.pc p).reads ++ [r] ∧ r.op.src = op.src ∧ r.op.addr = op.addr / 32 * 32 ∧
        r.value = unitAt s (op.addr / 32 * 32) ∧
        r.accepted = s.mono ∧ r.cls = reqClass s { op with addr := op.addr / 32 * 32 }) ∧
    (∀ op p, s.pw.hbmReady = true → s.rd Obj.paused = 0 → op.write = false → s.pcOf (op.addr / 32 * 32) = some p →
      64 ≤ (s.pc p).reads.length → (s.pc p).stalled = [] → ∃ t, exec (.memRequestAccept op) s = .next t ∧ t.mem = s.mem ∧
        (t.pc p).reads = (s.pc p).reads ∧ ∃ r, (t.pc p).stalled = [r] ∧ r.op.src = op.src) ∧
    (∀ op p, s.pw.hbmReady = true → s.rd Obj.paused = 0 → op.write = true → s.pcOf (op.addr / 32 * 32) = some p →
      (s.pc p).writes.length < 64 → (s.pc p).stalled = [] → ∃ t, exec (.memRequestAccept op) s = .next t ∧
        ∀ x, t.rdByte x = if op.addr / 32 * 32 ≤ x ∧ x < op.addr / 32 * 32 + 32 ∧ bit (op.mask % 2 ^ 32) (x - op.addr / 32 * 32) then
          BitVec.ofNat 8 (octet op.data (x - op.addr / 32 * 32)) else s.rdByte x) ∧
    (∀ p y, p < 64 → s.pw.hbmReady = true → s.pcOnline p = true → (∀ t ∈ s.mm.training, t.1 ≠ channelOf p) →
      (s.pc p).draining = false → (s.pc p).reads ≠ [] → pickServe (s.pc p) (s.pc p).reads = some (y, none) → y.op.addr ∉ s.mm.poison →
      (s.pc p).stalled = [] → ∃ t, exec (.memRequestServe p .clean) s = .next t ∧ t.out = .memData y.op.src y.op.addr y.value false :: s.out ∧
        (t.pc p).reads = (s.pc p).reads.filter (fun z => decide (z.id ≠ y.id)) ∧ (t.pc p).writes = (s.pc p).writes ∧ t.mem = s.mem) ∧
    (∀ p, p < 64 → ∃ t, exec (.agePromotion p) s = .next t ∧ t.mem = s.mem ∧ (t.pc p).reads.map MemReq.id = (s.pc p).reads.map MemReq.id ∧
      ∀ r ∈ (t.pc p).reads ++ (t.pc p).writes, r.cls ≠ 0 → ageLimit s r.cls ≠ 0 → r.accepted + ageLimit s r.cls < s.mono →
        r.promoted = true) ∧
    (∀ p b, p < 64 → (AMap.get Bank.idle b (s.pc p).banks).isOpen = true → (AMap.get Bank.idle b (s.pc p).banks).at_ + 2000 ≤ s.mono →
      ∃ t, exec (.rowIdleClose p b) s = .next t ∧ (AMap.get Bank.idle b (t.pc p).banks).isOpen = false ∧ t.mem = s.mem) ∧
    (∀ t0 t1 : Int, s.pw.hbmReady = true → ∃ t, exec (.stackTempSample t0 t1) s = .next t ∧ t.rd (Obj.stackTemp 0) = uns 16 t0 ∧
      t.rd (Obj.stackTemp 1) = uns 16 t1 ∧ (100 ≤ t1 → 1 ∈ t.mm.hot) ∧ (t1 < 100 → 1 ∉ t.mm.hot) ∧ t.mem = s.mem) ∧
    (∀ r, s.pw.hbmReady = true → s.rd Obj.scrubPeriod ≠ 0 → s.capacity ≠ 0 → ∃ t, exec (.patrolScrub r) s = .next t ∧
      t.mm.scrub = (s.mm.scrub % s.capacity + 32) % s.capacity ∧ t.mem = s.mem) ∧
    (∀ ch p, ch < 32 → s.pw.hbmReady = true → p ∈ channelPcs ch → s.pcOnline p = true →
      10 ≤ (s.stackTemp (ch / 16) - s.rdI16 (Obj.pcTrainTemp p)).natAbs → (∀ x ∈ s.mm.training, x.2 = true ∧ x.1 ≠ ch) →
      s.mm.updateAt + 1000000 ≤ s.mono → ∃ t, exec (.updateRetrain ch) s = .next t ∧ (ch, false) ∈ t.mm.training ∧ t.mm.updateAt = s.mono) ∧
    (∀ ch p, ch < 32 → s.pw.hbmReady = true → p ∈ channelPcs ch → s.pcOnline p = true → (s.pc p).due = true →
      (∀ x ∈ s.mm.training, x.1 ≠ ch) → ∃ t, exec (.fullRetrain ch) s = .next t ∧ (ch, true) ∈ t.mm.training) ∧
    (s.rd Obj.paused ≠ 0 → ∃ t, exec .quarantineResume s = .next t ∧ t.cp.jobs = [] ∧ t.ad.inbox = [] ∧ t.ad.kept = [])

/-- The audio path: decode, mix, encode, partial mixes, returns and prompts. A decoded frame is the leg's input for the next mix frame, the mix-phase timer posts the mix of its frame once, a mix moves the conference to the next frame, a remote conference waits for its return, an encode holds the frame's output, a partial mix and a return are taken in, a late return counts, and a prompt item adds its clip. (R27, R125, R199, R204, R209, R213, R214, R215) -/
def Obligations.audio_path : Prop :=
  ∀ (s : State) (c n : Nat),
    (∀ w h, s.itemOn c = some w → w.job = .decode n h → (s.cf (s.rd (Obj.legConf (flowId w.desc.flow)))).frame ≤ n →
      ∃ t, exec (.legAudioDecode c) s = .next t ∧ (t.leg (flowId w.desc.flow)).input = (decodeFrame (itemDone s w) (flowId w.desc.flow) h).1 ∧
        (t.leg (flowId w.desc.flow)).inputFrame = n + 1 ∧
        (t.leg (flowId w.desc.flow)).inputLevel = frameLevel (decodeFrame (itemDone s w) (flowId w.desc.flow) h).1) ∧
    (s.engines = true → s.running = true → s.serves = true → s.rd (Obj.confState c) = 1 → (s.cf c).posted ≤ s.mixFrame →
      s.mixFrame * mixNs + s.rd (Obj.mixPhase c) * 1000 ≤ s.tod →
      ∃ t, exec (.mixPhaseTimer c) s = .next t ∧ (t.cf c).posted = s.mixFrame + 1) ∧
    (∀ w, s.itemOn c = some w → w.job = .mix n → s.rd (Obj.confRole (flowId w.desc.flow)) ≠ 1 →
      s.rd (Obj.confRole (flowId w.desc.flow)) ≠ 2 → ∃ t, exec (.confMix c) s = .next t ∧
        (t.cf (flowId w.desc.flow)).frame = n + 1 ∧ (t.cf (flowId w.desc.flow)).n = (t.cf (flowId w.desc.flow)).ownN) ∧
    (∀ w, s.itemOn c = some w → w.job = .mix n → s.rd (Obj.confRole (flowId w.desc.flow)) = 2 →
      s.rd (Obj.joinState (flowId w.desc.flow)) = 2 → ∃ t, exec (.confMix c) s = .next t ∧
        (t.cf (flowId w.desc.flow)).frame = n + 1 ∧ (t.cf (flowId w.desc.flow)).waiting = some n) ∧
    (∀ w e, s.itemOn c = some w → w.job = .encode n → s.txAudio (flowId w.desc.flow) = some e → s.rd (Obj.txCodec (flowId w.desc.flow)) ≠ 0 →
      s.rd (Obj.ptime (flowId w.desc.flow)) ≠ 0 → (s.leg (flowId w.desc.flow)).outHold = [] →
      ∃ t, exec (.legAudioEncode c) s = .next t ∧ (t.leg (flowId w.desc.flow)).outHold = (t.leg (flowId w.desc.flow)).output ∧ t.mem = s.mem) ∧
    (∀ a b f p u, s.engines = true → s.takeFrame (fun f => decide (f.kind = 0x09)) = (some (a, b, f), u) → f.msg = .partialMix p →
      p.conf < 16384 → s.serves = true → s.rd (Obj.confRole p.conf) = 1 → (s.cf p.conf).remotes.any (fun r => decide (r.fdev = p.fdev)) = true →
      (p.frame + 0x100000000 - (s.cf p.conf).frame % 0x100000000) % 0x100000000 < 0x80000000 →
      (s.cf p.conf).partials.any (fun x => decide (x.fdev = p.fdev) && decide (x.frame = p.frame)) = false →
      ∃ t, exec .partialRx s = .next t ∧ (t.cf p.conf).partials = (s.cf p.conf).partials ++ [p] ∧ t.le = s.le) ∧
    (∀ a b f r u, s.engines = true → s.takeFrame (fun f => decide (f.kind = 0x0A)) = (some (a, b, f), u) → f.msg = .returnMix r →
      r.conf < 16384 → s.rd (Obj.confRole r.conf) = 2 → s.rd (Obj.confState r.conf) = 1 → r.anchor = s.rd (Obj.anchorFdev r.conf) →
      (s.cf r.conf).waiting = none → ∃ t, exec .returnRx s = .next t ∧ (t.cf r.conf).returnSel = r.selected.map (fun e => e / 64) ∧ t.le = s.le) ∧
    (∀ m, s.engines = true → c < 16384 → (s.cf c).waiting = some m → m * mixNs + s.rd (Obj.returnWait c) * 1000 ≤ s.tod →
      ∃ t, exec (.returnWaitExpiry c) s = .next t ∧ (t.cf c).lateRun = (s.cf c).lateRun + 1 ∧ (t.cf c).waiting = none) ∧
    (∀ j (w : Word) p len u, s.engines = true → s.serves = true → j < 4 → s.rd (Obj.promptRing j) < 2048 →
      ringFetch s (s.rd (Obj.promptRing j)) w.toNat = (some len, u) → p.startNs ≤ 999999999 → p.isConf = true → p.target < 16384 →
      u.rd (Obj.confState p.target) = 1 → p.stop = false →
      (u.le.clips.any (fun c => decide (c.isConf = p.isConf) && decide (c.target = p.target) && decide (c.clip = p.clip) && !c.complete)) = false →
      ∃ t x, exec (.promptItemFetch j w p) s = .next t ∧ t.le.clips = u.le.clips ++ [x] ∧ x.clip = p.clip ∧ x.target = p.target ∧
        x.isConf = true)

/-- Leg teardown, report timers, and requests on the cipher cores. A RELEASING leg to which nothing refers is FREE again with its entries idle; the egress queue of a deactivated leg returns to the pool once empty; RxTimeout without RTP raises its event and starts anew; a report timer is set anew within half to one and a half intervals. A cipher core takes the scheduler's choice with a copy of its slot's material, suite, Gen and fault check; a mismatch retires the core and the request is retried once; a released TX result frees the core; a reserved window, once committed, is the entry's window; an erased slot with nothing in flight is EMPTY with a new Gen. (R22, R24, R100, R122, R132, R133, R142, R147, R151, R152) -/
def Obligations.leg_teardown_timers_and_cipher : Prop :=
  ∀ (s : State) (l k : Nat),
    ((s.leg l).stage = .releasing → legReferred s l = false → ∃ t, exec (.legQuiescent l) s = .next t ∧ t.leg l = LegRt.idle ∧
      (∀ e, e < 8 → t.rxE l e = RxEntry.idle) ∧ t.mem = s.mem ∧ t.cip = s.cip) ∧
    (∀ q, (s.leg l).egressQ = some q → (s.leg l).stage ≠ .active → (∀ x ∈ (s.leg l).turn, x.2 ≠ .active) → (s.q q).head = none →
      (s.q q).copying = none → (∀ p ∈ s.cip.formed, p.leg ≠ l) →
      (∀ e ∈ s.txUsed l, (s.txE l e).held = []) → ∃ t, exec (.egressQueueRelease l) s = .next t ∧ t.leg l = { s.leg l with egressQ := none } ∧
        t.q q = Queue.empty ∧ t.mem = s.mem ∧ t.dict = s.dict) ∧
    ((s.leg l).stage = .active → s.rd (Obj.rxTimeout l) ≠ 0 → (s.leg l).lastRx + s.rd (Obj.rxTimeout l) * 1000000 ≤ s.mono →
      (s.leg l).live = true → s.serves = true → ∃ t, exec (.legRxTimeout l) s = .next t ∧ t.leg l = { s.leg l with lastRx := s.mono } ∧
        (∀ k, k / 0x100000000 ≠ 0xE010 → t.rd k = s.rd k) ∧ t.mem = s.mem) ∧
    (l < 0x1000000 → (s.leg l).stage = .active → (s.leg l).rtcpDue ≤ s.mono → ∃ t, exec (.rtcpReportTimer l) s = .next t ∧
      s.mono + s.rd (Obj.rtcpInterval l) * 1000000 / 2 ≤ (t.leg l).rtcpDue ∧
      (t.leg l).rtcpDue ≤ s.mono + s.rd (Obj.rtcpInterval l) * 1000000 / 2 + s.rd (Obj.rtcpInterval l) * 1000000) ∧
    (∀ r, k < 8 → s.engines = true → pickRequest s.cip = some r → s.rd Obj.coresActive ≠ 0 → (s.cCore k).retired = false →
      (s.cCore k).job = none → jobSlotOk s (r.slot s) r.job = true → s.cip.formed = [] → ∃ t j, exec (.cipherDispatch k) s = .next t ∧
        (t.cCore k).job = some j ∧ j.req = r ∧ j.slot = r.slot s ∧ j.material = (s.material j.slot).getD 0 ∧
        j.suite = s.rd (Obj.kSuite j.slot) ∧ j.gen = s.rd (Obj.kGen j.slot) ∧ j.check = checkMode s j.suite ∧
        t.rd (Obj.kInFlight j.slot) = s.rd (Obj.kInFlight j.slot) + 1 ∧ t.cip.waiting = s.cip.waiting.erase r) ∧
    (∀ j, k < 8 → (s.cCore k).job = some j → j.req.retried = false →
      ∃ t, exec (.cipherResultRelease k true) s = .next t ∧ t.cCore k = ⟨true, none⟩ ∧
        t.cip.waiting = { j.req with retried := true } :: s.cip.waiting ∧ t.rd Obj.coresRetired = setBit (s.rd Obj.coresRetired) k) ∧
    (∀ j p, k < 8 → (s.cCore k).job = some j → earlierOpen s j.req = false → j.req.job = .tx p →
      j.slot < 0x1000000 → ∃ t, exec (.cipherResultRelease k false) s = .next t ∧ (t.cCore k).job = none ∧ t.cip.waiting = s.cip.waiting ∧
        t.rd (Obj.kInFlight j.slot) = s.rd (Obj.kInFlight j.slot) - 1) ∧
    (∀ w j e, e < 4 → (s.txE l e).reserving = some (w, j) → s.committed j = true → (s.txE l e).held = [] →
      ∃ t, exec (.windowCommitRelease l e) s = .next t ∧ t.txE l e = { s.txE l e with window := some w, reserving := none } ∧ t.cip = s.cip ∧
        t.dict = s.dict) ∧
    (k < 65536 → s.slotState k = 2 → s.rd (Obj.kInFlight k) = 0 → ∃ t, exec (.keyEraseComplete k) s = .next t ∧ t.material k = none ∧
      t.rd (Obj.kState k) = 0 ∧ t.rd (Obj.kSuite k) = 0 ∧ t.rd (Obj.kGen k) = (s.rd (Obj.kGen k) + 1) % 65536 ∧ t.mem = s.mem)

/-- The receive path: frames, classification, jitter, NACK, and tap sectors. A received frame waits in its port's FIFO with its stamp or overflows it; a loaded classifier's verdict drops it or hands it to a leg's cipher request, counted; the depth adjustment moves by at most one frame within MinDepth and MaxDepth; an incomplete access unit is posted after VideoWait; a missing packet is asked for 5 ms after it is seen missing, and once more after the round-trip time; a tap writes its next sector in order and records its range. (R109, R110, R117, R119, R120, R121, R126, R150, R212) -/
def Obligations.receive_path_and_taps : Prop :=
  ∀ (s : State) (l e : Nat),
    (∀ port f, port < 2 → s.engines = true → f.etherType ≠ 0x88F7 → fifoUsed s port + f.octets ≤ 0x200000 →
      ∃ t w, exec (.ethFrameRx port f) s = .next t ∧ t.le.fifo = s.le.fifo ++ [w] ∧ w.port = port ∧ w.frame = f ∧ w.mono = s.mono ∧
        t.rd (Obj.inFrames port) = satAdd (s.rd (Obj.inFrames port)) 1 (maxOf (Obj.inFrames port))) ∧
    (∀ port f, port < 2 → s.engines = true → f.etherType ≠ 0x88F7 → 0x200000 < fifoUsed s port + f.octets →
      ∃ t, exec (.ethFrameRx port f) s = .next t ∧ t.le = s.le ∧
        t.rd (Obj.inOverflow port) = satAdd (s.rd (Obj.inOverflow port)) 1 (maxOf (Obj.inOverflow port))) ∧
    (∀ w rest, s.engines = true → s.le.fifo = w :: rest → threadsHeld s = false → s.le.classifier.isSome = true →
      ∃ t, exec (.frameClassify .drop false) s = .next t ∧ t.le = { s.le with fifo := rest } ∧ t.dict = s.dict) ∧
    (∀ w rest p, s.engines = true → s.le.fifo = w :: rest → threadsHeld s = false → s.le.classifier.isSome = true → s.legActive l = true → s.serves = true → e < 8 →
      l < 0x1000000 → s.rd (Obj.rxKslot l) ≠ 0xFFFFFFFF → w.frame.data = .rtp p →
      ∃ t, exec (.frameClassify (.leg l e) false) s = .next t ∧ t.le.fifo = rest ∧ (t.leg l).lastRx = s.mono ∧
        t.cip.waiting = s.cip.waiting ++ [⟨s.cip.nextId, 0, rxCtx l e, .rxRtp l e p w.mono, false, false⟩] ∧
        t.rd (Obj.rxPackets l) = satAdd (s.rd (Obj.rxPackets l)) 1 (maxOf (Obj.rxPackets l))) ∧
    (s.legActive l = true → (s.leg l).nextAdjust ≤ s.mono → ∃ t, exec (.jitterDepthAdjust l) s = .next t ∧
      (t.leg l).nextAdjust = (s.leg l).nextAdjust + 500000000 ∧
      (s.rd (Obj.jbMode l) = 0 → t.rd (Obj.jbDepth l) = s.rd (Obj.jbMinDepth l) ∧ (t.leg l).nextDepth = (s.leg l).depth) ∧
      (s.rd (Obj.jbMode l) ≠ 0 → s.rd (Obj.jbMinDepth l) ≤ t.rd (Obj.jbDepth l) ∧
        t.rd (Obj.jbDepth l) ≤ max (s.rd (Obj.jbMinDepth l)) (s.rd (Obj.jbMaxDepth l)) ∧
        (t.leg l).nextDepth ≤ (s.leg l).depth + 10 ∧ (s.leg l).depth ≤ (t.leg l).nextDepth + 10)) ∧
    (∀ u later, e < 8 → s.engines = true → openUnits (s.rxE l e) = u :: later → later.length < 512 → unitComplete (s.rxE l e) u = false →
      (∃ v ∈ later, unitComplete (s.rxE l e) v = true) →
      ((unitPkts (s.rxE l e) u).map (fun v => v.at_)).foldl max 0 + s.rd (Obj.videoWait l) * 1000000 ≤ s.mono →
      (postUnit s l e u true).1 = true → ∃ t, exec (.videoWaitExpiry l e) s = .next t ∧ u ∈ (t.rxE l e).posted) ∧
    (e < 8 → s.engines = true → s.legActive l = true → s.legFlag l 3 = true → s.fabricFed l = false →
      (∃ g ∈ (s.rxE l e).gaps, g.asked = 0 ∧ g.seen + 5000000 ≤ s.mono) → ∃ t, exec (.nackSend l e) s = .next t ∧
        (t.rxE l e).gaps = (s.rxE l e).gaps.map (fun (g : Gap) => if g.asked = 0 ∧ g.seen + 5000000 ≤ s.mono then { g with asked := 1, last := s.mono } else g)) ∧
    (e < 8 → s.engines = true → s.legActive l = true → s.legFlag l 3 = true → s.fabricFed l = false →
      (∃ g ∈ (s.rxE l e).gaps, g.asked = 1 ∧ g.last + s.rd (Obj.rtt l) * 1000 ≤ s.mono) → ∃ t, exec (.nackRetry l e) s = .next t ∧
        (t.rxE l e).gaps = (s.rxE l e).gaps.map (fun (g : Gap) => if g.asked = 1 ∧ g.last + s.rd (Obj.rtt l) * 1000 ≤ s.mono then
          { g with asked := 2, last := s.mono } else g)) ∧
    (∀ b x, s.cip.taps.find? (fun t => t.named b l) = some x → (x.startFrame + 2 * x.k + 3) * mixNs ≤ s.tod → x.base + x.k < 2 ^ 64 →
      inRange s.cip.ranges x.slot (s.rd (Obj.kGen x.slot)) (x.base + x.k) = false → ∃ t r, exec (.tapSectorWrite b l) s = .next t ∧
        t.cip.ranges = extendRange s.cip.ranges x.slot (s.rd (Obj.kGen x.slot)) (tapName b l) (x.base + x.k) ∧
        t.cip.waiting = s.cip.waiting ++ [⟨s.cip.nextId, 2, tapName b l * 4 + 2, .sector x.ring r x.slot, false, false⟩] ∧ r.isLeg = b ∧ r.id = l)

/-- Requests by message: describe, read, write, and write groups. A mailbox request whose checks pass is answered: DESCRIBE with the description of its field, READ with the value, WRITE with abort 0 after the object's write, a grouped WRITE staged in its group; GROUP_OPEN gives the next free number, GROUP_COMMIT applies every write at one instant or refuses and applies none, GROUP_DISCARD closes the group, and a group unused for GroupTimeout is dropped with nothing written. (R34, R36, R38, R49, R50, R51, R52) -/
def Obligations.general_requests : Prop :=
  ∀ (s : State) (b : Nat), s.running = true → b < 64 → s.role = 0 → s.tw.requests = [] → heldBehind s (.mbx b) = false →
    (∀ r a, messageAbort (.mbx b) { r with op := 3 } = 0 → existsAbort r.index r.sub = 0 → attrOf r.index r.sub = some a → isRec r.index = false →
      exec (.describe (.mbx b) r) s = .next (reply s (.mbx b) 0 (respond { r with op := 3 } 0 (describeField a) 16))) ∧
    (∀ r x v n t, messageAbort (.mbx b) { r with op := 1 } = 0 → r.indirect = false → readAbort (s.principal (.mbx b)) { r with op := 1 } = 0 →
      readData s (.mbx b) { r with op := 1 } = ((v, n), t) → n ≤ inlineRoom (.mbx b) 8 →
      exec (.dictRead (.mbx b) r x) s = .next (reply t (.mbx b) 0 (respond { r with op := 1 } 0 v n))) ∧
    (∀ tag ix sub el len table d a t u, (rowReq (.mbx b) tag 0 ix sub el len table).indirect = false →
      Admits s b (rowReq (.mbx b) tag 0 ix sub el len table) d → attrOf ix sub = some a → ix ≠ 0x1030 →
      objectWrite (rowCtx s b (rowReq (.mbx b) tag 0 ix sub el len table)) s (rowField ix sub el len a d) = (0, t) →
      recordCheck s t ix el [sub] = (0, u) →
      ∃ v n, exec (.dictWrite (.mbx b) (rowReq (.mbx b) tag 0 ix sub el len table) d) s =
        .next (reply u (.mbx b) 0 (respond (rowReq (.mbx b) tag 0 ix sub el len table) 0 v n))) ∧
    (∀ r d g, messageAbort (.mbx b) { r with op := 2 } = 0 → r.indirect = false → r.group ≠ 0 → groupOf s (.mbx b) r.group = some g →
      existsAbort r.index r.sub ≠ 0x01010001 → tokenIndex r.index = false → r.length ≤ inlineRoom (.mbx b) r.words →
      g.writes.length < 1024 → g.octets + r.length ≤ 262144 →
      exec (.dictWrite (.mbx b) r d) s = .next (reply (setGroup s { g with
        lastUse := s.mono
        writes := g.writes ++ [⟨{ r with op := 2 }, d⟩]
        octets := g.octets + r.length }) (.mbx b) 0 (respond { r with op := 2 } 0 0 0))) ∧
    (∀ tag n r, s.ctl.freeGroups = n :: r → exec (.groupOpen (.mbx b) tag) s = .next (reply { s with ctl := { s.ctl with
        groups := s.ctl.groups ++ [⟨n, .mbx b, (s.sessionOf (.mbx b)).map OpSession.id, [], 0, s.mono⟩]
        freeGroups := r } } (.mbx b) 0 (respond (bareReq 4 tag 0) 0 n 4))) ∧
    (∀ tag g x n t i, g ≤ 64 → s.season ≠ .spring → groupOf s (.mbx b) g = some x →
      groupApply (ctxAt s (.mbx b) (s.principal (.mbx b)) (bareReq 5 tag g) 0 s.tod) s x.writes = (0, n, t, i) →
      exec (.groupCommit (.mbx b) tag g) s = .next (reply (groupClose t g) (.mbx b) 0
        (respond (bareReq 5 tag g) 0 (instantData i).1 (instantData i).2))) ∧
    (∀ tag g x a n t i, g ≤ 64 → s.season ≠ .spring → groupOf s (.mbx b) g = some x → a ≠ 0 →
      groupApply (ctxAt s (.mbx b) (s.principal (.mbx b)) (bareReq 5 tag g) 0 s.tod) s x.writes = (a, n, t, i) →
      exec (.groupCommit (.mbx b) tag g) s = .next (reply (groupClose s g) (.mbx b) 0 (respond (bareReq 5 tag g) a n 4))) ∧
    (∀ tag g x, g ≤ 64 → groupOf s (.mbx b) g = some x →
      exec (.groupDiscard (.mbx b) tag g) s = .next (reply (groupClose s g) (.mbx b) 0 (respond (bareReq 6 tag g) 0 0 0))) ∧
    (∀ g x, s.ctl.groups.find? (fun y => decide (y.num = g)) = some x → x.lastUse + s.rd Obj.groupTimeout * 1000000 ≤ s.mono →
      ∃ t, exec (.groupTimeoutExpiry g) s = .next t ∧ (∀ y ∈ t.ctl.groups, y.num ≠ g) ∧ g ∈ t.ctl.freeGroups ∧ t.dict = s.dict ∧ t.shadow = s.shadow)

/-- INDIRECT transfers, failed host reads, fabric requests, challenge and report reads, ring fetches. A finished INDIRECT READ is in host memory and answered, a finished WRITE takes its place; a host read that fails or is 50 ms overdue stops its ring, or answers DMA_FAULT; a DICT frame is delivered as its sender's request; a CHALLENGE read hands out a fresh nonce, a report read starts its transfer; the next item of a host-to-device ring is taken, padded past, or refused as malformed; an operator image or group shaper is written as its object takes it. (R43, R47, R70, R90, R289, R407, R416) -/
def Obligations.transfers_and_reads : Prop :=
  ∀ (s : State), s.running = true →
    (∀ n d x, s.hif.xfers[n]? = some x → x.isRead = true → exec (.indirectTransferDone n d) s = .next (reply
      (({ s with hif := { s.hif with xfers := s.hif.xfers.eraseIdx n } }.moved 3 x.octets).emit (.hostWrite x.addr x.data)) x.chan 0
      { respond x.req 0 0 0 with element := x.octets })) ∧
    (∀ n d x, s.hif.xfers[n]? = some x → x.isRead = false → exec (.indirectTransferDone n d) s = .next (enter
      ({ s with hif := { s.hif with xfers := s.hif.xfers.eraseIdx n } }.moved 3 x.octets) x.chan x.principal x.req d 0)) ∧
    (∀ n addr, n < 2048 → (s.ring n).enable = true → (s.ring n).dirD2h = false → (s.ring n).error = false →
      ((s.q (ringQ n)).depth ≠ 0 → (s.ring n).readAt + 50 * ms ≤ s.mono → exec (.hostReadCompletionTimeout true n addr) s =
        .next ((withIrq (.ring n) (fun t => t.setRing n { t.ring n with error := true }) s).dmaFault addr 0)) ∧
      exec (.hostReadErrorCompletion true n addr) s =
        .next ((withIrq (.ring n) (fun t => t.setRing n { t.ring n with error := true }) s).dmaFault addr 1)) ∧
    (∀ n addr x, s.hif.xfers[n]? = some x → x.isRead = false →
      (x.since + 50 * ms ≤ s.mono → exec (.hostReadCompletionTimeout false n addr) s = .next (reply
        ({ s with hif := { s.hif with xfers := s.hif.xfers.eraseIdx n } }.dmaFault addr 0) x.chan 0 (respond x.req 0x02040013 0 0))) ∧
      exec (.hostReadErrorCompletion false n addr) s = .next (reply
        ({ s with hif := { s.hif with xfers := s.hif.xfers.eraseIdx n } }.dmaFault addr 1) x.chan 0 (respond x.req 0x02040013 0 0))) ∧
    (∀ p q f t r d, s.takeFrame dictFrame = (some (p, q, f), t) → f.msg = .dict r d →
      exec .peerDictMessage s = .next (dictDeliver t (.peer f.src) r d 0)) ∧
    (∀ b tag, b < 64 → s.role = 0 → s.tw.requests = [] → heldBehind s (.mbx b) = false →
      exec (.challengeRead (.mbx b) tag) s = .next (reply { s with
        draws := s.draws + 1
        ctl := { s.ctl with nonces := ((Config.trng s.draws % 2 ^ 256, s.mono) :: s.ctl.nonces).take 8 } } (.mbx b) 0
        (respond ⟨1, 0, 0, tag, 0x8400, 0, 0, 0, 0, 0⟩ 0 (Config.trng s.draws % 2 ^ 256) 32))) ∧
    (∀ b tag addr v t, b < 64 → heldBehind s (.mbx b) = false → attestReport s (.mbx b) = (v, t) →
      ∃ x, exec (.attestReportRead (.mbx b) tag addr) s = .next { t with hif := { t.hif with xfers := t.hif.xfers ++ [x] } } ∧
        x.chan = .mbx b ∧ x.isRead = true ∧ x.addr = addr % 2 ^ 64 ∧ x.octets = 2860 ∧ x.data = .num (v % 2 ^ (8 * 2860))) ∧
    (∀ r (w : Word) q, r < 2048 → (s.ring r).enable = true → (s.ring r).dirD2h = false → (s.ring r).error = false → q = s.q (ringQ r) →
      (ringJudge q w.toNat = .malformed → exec (.ringItemFetch r w) s = .next (ringMalformed s r)) ∧
      (∀ g, ringJudge q w.toNat = .pad g → exec (.ringItemFetch r w) s = .next (ringPast s r { q with rptr := (q.rptr + g) % (2 * q.cap) })) ∧
      (∀ n g, ringJudge q w.toNat = .item n g → exec (.ringItemFetch r w) s = .next (ringPast s r { q with
        rptr := (q.rptr + g) % (2 * q.cap)
        gen := (q.gen + 1) % 4096 }))) ∧
    (∀ b tag i img a t u len, i < 16 → len = imageOctets img.width img.height img.alpha →
      Admits s b (rowReq (.mbx b) tag 0 0x5600 (i + 1) 0 len false) (.opImage img) → attrOf 0x5600 (i + 1) = some a →
      objectWrite (rowCtx s b (rowReq (.mbx b) tag 0 0x5600 (i + 1) 0 len false)) s (rowField 0x5600 (i + 1) 0 len a (.opImage img)) = (0, t) →
      recordCheck s t 0x5600 0 [i + 1] = (0, u) → ∃ v n, exec (.operatorImageWrite (.mbx b) tag 0 i img) s =
        .next (reply u (.mbx b) 0 (respond (rowReq (.mbx b) tag 0 0x5600 (i + 1) 0 len false) 0 v n))) ∧
    (∀ b tag port k ix sub v a t u, (port = true ∧ k < 2 ∧ ix = 0x7700 + k ∨ port = false ∧ k < 64 ∧ ix = 0x7710 + k) →
      ∀ len, len = lenOf (if port then 0x7700 else 0x7710) sub → Admits s b (rowReq (.mbx b) tag 0 ix sub 0 len false) (.num v) → attrOf ix sub = some a →
      objectWrite (rowCtx s b (rowReq (.mbx b) tag 0 ix sub 0 len false)) s (rowField ix sub 0 len a (.num v)) = (0, t) →
      recordCheck s t ix 0 [sub] = (0, u) → ∃ x n, exec (.groupShaperWrite (.mbx b) tag 0 port k sub v) s =
        .next (reply u (.mbx b) 0 (respond (rowReq (.mbx b) tag 0 ix sub 0 len false) 0 x n)))

/-- Nonces, JTAG debug tokens, and DTP sessions. Nonces end 60 s after they are handed out; the JTAG port shifts out a nonce and takes a DEBUG token, or rejects it with its abort and event; DTP_OPEN is answered with a challenge or REFUSE; signature fragments are held until the last completes the signature; a datagram is answered from the responses kept or taken as a request; a session not opened in 10 s ends. (R45, R46, R407, R408, R409, R410) -/
def Obligations.tokens_and_dtp : Prop :=
  ∀ (s : State), s.running = true → s.pw.winterEntry = false →
    exec .nonceExpiry s = .next { s with ctl := { s.ctl with nonces := s.ctl.nonces.filter (fun e => decide (s.mono < e.2 + 60000000000)) } } ∧
    (exec .jtagDbgchal s = .next ({ s with
        draws := s.draws + 1
        ctl := { s.ctl with nonces := ((Config.trng s.draws % 2 ^ 256, s.mono) :: s.ctl.nonces).take 8 } }.emit
          (.jtagNonce (Config.trng s.draws % 2 ^ 256)))) ∧
    (∀ g t, bit (s.rd Obj.frost) 2 = false → t.octs.length = 128 → tokenAbort s 2 none (some g) t = 0 → debugLimits s t = 0 →
      exec (.jtagDbgauth g t) s = .next ((openDebug (consumeNonce s (tokenNonce t)) (tokenGrant t)).emit (.jtagResult 0))) ∧
    (∀ g t a, bit (s.rd Obj.frost) 2 = false → t.octs.length = 128 → tokenAbort s 2 none (some g) t = a → a ≠ 0 →
      exec (.jtagDbgauth g t) s = .next (((consumeNonce s (tokenNonce t)).event Ev.tokenRejected 0 0).emit (.jtagResult a))) ∧
    (s.bootPolicy 8 = false → s.rd Obj.dtpEnable ≠ 0 → s.ctl.dtp.length < s.rd Obj.dtpSessionsMax →
      exec (.dtpOpen true) s = .next ({ s with
        draws := s.draws + 1
        ctl := { s.ctl with
          nonces := ((Config.trng s.draws % 2 ^ 256, s.mono) :: s.ctl.nonces).take 8
          dtp := s.ctl.dtp ++ [DtpSession.mk s.ctl.nextDtp (Config.trng s.draws % 2 ^ 256) 0 false s.mono [] [] 0]
          nextDtp := s.ctl.nextDtp + 1 } }.emit (.dtpChallenge s.ctl.nextDtp (Config.trng s.draws % 2 ^ 256)))) ∧
    (s.bootPolicy 8 = true ∨ s.rd Obj.dtpEnable = 0 ∨ s.rd Obj.dtpSessionsMax ≤ s.ctl.dtp.length →
      exec (.dtpOpen true) s = .next (s.emit .dtpRefuse)) ∧
    (∀ n f k len g x held, dtpFind s n = some x → k ≤ 3 → f < k → (g.octs.take len).length ≤ 1024 →
      held = AMap.put [] f (g.octs.take len) (x.frags.filter (fun e => decide (e.1 < k))) →
      ((∃ i < k, ∀ e ∈ held, e.1 ≠ i) →
        exec (.dtpSigfrag true n f k len g) s = .next ((dtpPut s { x with frags := held }).emit (.dtpSigAck n f))) ∧
      ((∀ i < k, ∃ e ∈ held, e.1 = i) → 2564 ≤ (held.flatMap Prod.snd).length → (held.flatMap Prod.snd).length ≤ 2884 →
        exec (.dtpSigfrag true n f k len g) s = .next
          ((setSig (dtpPut s { x with frags := [] }) (.dtp n) (some ⟨held.flatMap Prod.snd⟩)).emit (.dtpSigAck n f)))) ∧
    (∀ d x, dtpFind s d.session = some x → d.magic = 0x53445450 → d.version = 1 → d.intact = true → tokenKey s d = none → x.opened = true →
      d.key = x.key →
      (∀ r, x.kept.find? (fun e => decide (e.1 = d.seq)) = some r →
        exec (.dtpDatagramRx d) s = .next ((s.inc Obj.dtpResent).emit (.dtp x.id d.seq 3 r.2.element r.2 d.key))) ∧
      (x.kept.find? (fun e => decide (e.1 = d.seq)) = none → dtpOld x d.seq = false → dtpExecutes s x.id d.seq = false → x.executing < 32 →
        exec (.dtpDatagramRx d) s = .next (takeRequest ((dtpPut s { x with executing := x.executing + 1 }).inc Obj.dtpRequests) (.dtp x.id)
          (s.principal (.dtp x.id)) d.req d.data d.seq))) ∧
    (∀ n x, dtpFind s n = some x → x.opened = false → x.since + 10000000000 ≤ s.mono →
      ∃ t, exec (.dtpSessionOpenTimeout n) s = .next t ∧ ∀ y ∈ t.ctl.dtp, y.id ≠ n)

/-- Twin heartbeats, liveness and silence. A heartbeat tells the present role, epoch, timebase and last exchange and starts a liveness pulse; an armed peer's heartbeat protects the active; the out-of-band symbol is DISARM, TAKEOVER, FAIL or ALIVE in that order, once a slot; a received symbol refreshes, starts the handover, fences or disarms; a missed pulse fences the active; silence on one path is told, on both the standby takes over; COLD for time is checked again each second. (R350, R351, R352, R355, R357, R359, R362) -/
def Obligations.twin_heartbeats : Prop :=
  ∀ (s : State), s.running = true → s.paired = true →
    (s.tw.hbSeq = 0 ∨ s.tw.pulse + 100000 ≤ s.mono → ∃ h u, exec .twinHbTx s = .next (if 2 ≤ (s.nq 6).stage then u.twSend (.hb h) else u) ∧
      u = { s with tw := u.tw } ∧ u.tw.pulse = s.mono ∧ u.tw.pulseLost = false ∧ u.tw.hbSeq = (s.tw.hbSeq + 1) % 0x100000000 ∧ u.tw.prevTx = s.tod ∧
      h.hbSeq = u.tw.hbSeq ∧ h.role = s.role ∧ h.epoch = s.rd Obj.twEpoch ∧ h.thb = s.rd Obj.thb ∧ h.firmware = s.rd Obj.firmwareVersion ∧
      h.rxSeq = s.tw.rxSeq ∧ h.rxTime = s.tw.rxTime ∧ h.prevTx = s.tw.prevTx) ∧
    (∀ p a f t h, s.takeFrame hbFrame = (some (p, a, f), t) → f.msg = .twin (.hb h) →
      exec .twinHbRx s = .next (hbTake t h ((a : Int) + sgn 32 (t.rd (Obj.asymmetry 8))).toNat)) ∧
    (∀ p a f t h, s.takeFrame hbFrame = (some (p, a, f), t) → f.msg = .twin (.hb h) → s.role = 1 → h.role = 2 → h.takeover = false →
      s.tw.ignoreAcks = false → s.rd Obj.twPeerSerialCfg = 0 ∨ s.rd Obj.twPeerSerialCfg = h.serial →
      ∃ u, exec .twinHbRx s = .next u ∧ u.rd Obj.twProtected = 1 ∧ u.tw.peer = some h ∧ u.tw.heardIn = s.mono ∧ u.tw.silentIn = false ∧
        u.tw.rxSeq = h.hbSeq) ∧
    (s.pw.boot ≠ .unpowered → s.tw.hbSlot < s.mono / 250000 + 1 →
      (s.tw.disarm = true → exec .hbSymbolTx s = .next ({ s with tw := { s.tw with
        hbSlot := s.mono / 250000 + 1
        disarm := false } }.emit (.hbSymbol 3 (decide (s.role = 1)) (decide (s.role = 2))))) ∧
      (s.tw.disarm = false → s.tw.takeover = true → exec .hbSymbolTx s = .next ({ s with tw := { s.tw with
        hbSlot := s.mono / 250000 + 1
        takeover := false } }.emit (.hbSymbol 2 (decide (s.role = 1)) (decide (s.role = 2))))) ∧
      (s.tw.disarm = false → s.tw.takeover = false → s.tw.failReport = true → exec .hbSymbolTx s = .next ({ s with tw := { s.tw with
        hbSlot := s.mono / 250000 + 1
        failReport := false
        planned := false } }.emit (.hbSymbol 1 (decide (s.role = 1)) (decide (s.role = 2))))) ∧
      (s.tw.disarm = false → s.tw.takeover = false → s.tw.failReport = false → (s.tw.pulseLost = true ∨ s.mono ≤ s.tw.pulse + s.rd Obj.thb * 1000) →
        exec .hbSymbolTx s = .next ({ s with tw := { s.tw with hbSlot := s.mono / 250000 + 1 } }.emit
          (.hbSymbol (if s.tw.pulseLost then 1 else 0) (decide (s.role = 1)) (decide (s.role = 2)))))) ∧
    (∀ act armed u, s.wake .hbRx = u → u.running = true → u.paired = true →
      exec (.hbSymbolRx 0 act armed true) s = .next { u with tw := { u.tw with heardOob := u.mono, silentOob := false } } ∧
      exec (.hbSymbolRx 1 act armed true) s = .next (equinox u) ∧ exec (.hbSymbolRx 2 act armed true) s = .next (fence u) ∧
      (u.role ≠ 2 → exec (.hbSymbolRx 3 act armed true) s = .next u) ∧
      (u.role = 2 → exec (.hbSymbolRx 3 act armed true) s = .next (askSnapshot (coldFor u 8)))) ∧
    (s.tw.pulseLost = false → s.tw.pulse + s.rd Obj.thb * 1000 ≤ s.mono → ∃ t, exec .livenessTimeout s = .next t ∧ t.tw.pulseLost = true ∧
      (s.role = 1 → t.tw.fenced = true ∧ (s.tw.fenced = false → t.tw.fenceAt = s.mono)) ∧ (s.role ≠ 1 → t = { s with tw := { s.tw with pulseLost := true } })) ∧
    (s.tw.silentIn = false → s.tw.heardIn + s.rd Obj.thb * 1000 ≤ s.mono → s.mono < s.tw.heardOob + s.rd Obj.thb * 1000 →
      exec .peerSilenceTimeout s = .next (({ s with tw := { s.tw with silentIn := true } }.inc Obj.hbSilentInband).event Ev.twinHbPathLost 0 0)) ∧
    (s.role = 2 → s.tw.silentIn = false → s.tw.silentOob = true → s.tw.heardIn + s.rd Obj.thb * 1000 ≤ s.mono →
      s.tw.heardOob + s.rd Obj.thb * 1000 ≤ s.mono →
      exec .peerSilenceTimeout s = .next (equinox ({ s with tw := { s.tw with silentIn := true } }.inc Obj.hbSilentInband))) ∧
    (synced s = true → s.rd Obj.coldReason = 4 → s.tw.recheckAt + 1000000000 ≤ s.mono →
      exec .timeRecheckExpiry s = .next (armCheck { s with tw := { s.tw with recheckAt := s.mono } }))

/-- The exchange of the journal. The standby stores an entry that follows, acknowledges and applies, and asks again at a gap; an acknowledgement commits the entries up to it; an unacknowledged entry is sent once more after 200 µs, and after 200 µs more the standby is lost: DISARM, unprotected. DETACH makes the device SOLO, DISARM makes a standby COLD, the KEK proof is tried, a resend request is served with entries or a snapshot. (R349, R354, R355, R361, R362) -/
def Obligations.twin_journal_exchange : Prop :=
  ∀ (s : State), s.running = true →
    (∀ p a f t e, s.takeFrame journalFrame = (some (p, a, f), t) → f.msg = .twin (.journal [e]) → s.role = 2 →
      (e.crcOk = true → e.first = s.tw.rxNext → exec .journalRx s = .next (applyStored ({ t with tw := { s.tw with
          stored := s.tw.stored ++ [e]
          rxNext := (e.jseq + 1) % 0x100000000 } }.twSend (.ack (((e.jseq + 1) % 0x100000000 + 0xFFFFFFFF) % 0x100000000))))) ∧
      (e.crcOk = false → exec .journalRx s = .next (applyStored ((t.twSend (.ack ((s.tw.rxNext + 0xFFFFFFFF) % 0x100000000))).twSend
        (.ctrl (.resend (some s.tw.rxNext))))))) ∧
    (∀ p a f t es, s.takeFrame journalFrame = (some (p, a, f), t) → f.msg = .twin (.journal es) → s.role < 2 → exec .journalRx s = .next t) ∧
    (∀ p a f t j, s.takeFrame ackFrame = (some (p, a, f), t) → f.msg = .twin (.ack j) → s.isProtected = true → s.tw.ignoreAcks = false →
      exec .journalAckRx s = .next (drain ({ t with tw := { s.tw with
        sent := s.tw.sent.filter (fun e => jAfter e.entry.jseq j) } }.wr Obj.jseqCommitted j))) ∧
    (∀ es, s.isProtected = true → es = s.tw.sent.filter (fun e => !e.resent && decide (e.sent + 200000 ≤ s.mono)) → es ≠ [] →
      exec .journalResendExpiry s = .next (({ s with tw := { s.tw with sent := s.tw.sent.map (fun (x : JSent) =>
        if x.resent = false ∧ x.sent + 200000 ≤ s.mono then { x with sent := s.mono, resent := true } else x) } }.twSend
          (.journal (es.map JSent.entry))).count Obj.journalResends es.length)) ∧
    (∀ e ∈ s.tw.sent, s.isProtected = true → e.resent = true → e.sent + 200000 ≤ s.mono → ∃ t, exec .standbyLostExpiry s = .next t ∧
      t = unprotect ({ s with tw := { s.tw with disarm := true } }.twSend (.ctrl .disarm))) ∧
    (∀ c t, takeCtrl s (fun c => decide (c = .detach)) = (some c, t) → s.paired = true → s.role ≠ 0 → ∃ u, exec .twinCtrlDetach s = .next u ∧
      u.role = 0 ∧ u.rd Obj.twProtected = 0 ∧ u.rd Obj.coldReason = 0 ∧ u.tw.peer = none ∧ u.tw.stored = [] ∧ u.tw.snapAsked = false) ∧
    (∀ c t, takeCtrl s (fun c => decide (c = .disarm)) = (some c, t) →
      (s.role = 2 → exec .twinCtrlDisarm s = .next (askSnapshot (coldFor t 8))) ∧ (s.role ≠ 2 → exec .twinCtrlDisarm s = .next t)) ∧
    (∀ w t, takeCtrl s TwinCtrl.isProof = (some (.kekProof w), t) →
      exec .twinCtrlKekProof s = .next { t with tw := { t.tw with kekProof := (twinMaterial t 8 w).isSome } }) ∧
    (∀ r t, takeCtrl s TwinCtrl.isResend = (some (.resend r), t) → s.role = 1 →
      exec .twinCtrlResendRequest s = .next (match r with
        | some n => resend t (fun e => !jAfter n e.entry.jseq)
        | none => sendSnapshot t))

/-- The snapshot of a COLD device. A damaged SNAPSHOT frame, a gap after J0 or an overflow of the store discards the snapshot and asks for a new one; otherwise its entries are stored. At its end the configuration is applied: a digest that differs brings one more snapshot, then COLD with DIGEST; one that agrees is followed by the stored entries and the arming checks. (R361, R362) -/
def Obligations.twin_snapshot : Prop :=
  ∀ (s : State), s.running = true → s.role = 3 →
    (∀ p a f t es, s.takeFrame snapshotFrame = (some (p, a, f), t) → f.msg = .twin (.snapshot es) → s.tw.snapAsked = true →
      ((∃ e ∈ es, e.crcOk = false) → exec .snapshotRx s = .next (askSnapshot t)) ∧
      ((∀ e ∈ es, e.crcOk = true) → storedFollows (es.foldl snapEntry t) = true → storedOctets (es.foldl snapEntry t).tw.stored ≤ 268435456 →
        exec .snapshotRx s = .next (es.foldl snapEntry t)) ∧
      ((∀ e ∈ es, e.crcOk = true) → (storedFollows (es.foldl snapEntry t) = false ∨ 268435456 < storedOctets (es.foldl snapEntry t).tw.stored) →
        exec .snapshotRx s = .next (askSnapshot (es.foldl snapEntry t)))) ∧
    (∀ (t : State) e, (∀ j, e.body = .snapBegin j → (snapEntry t e).tw.snapStarted = some j ∧ (snapEntry t e).tw.snapStored = []) ∧
      (∀ j d, e.body = .snapEnd j d → (snapEntry t e).tw.snapEnd = some d) ∧
      ((∀ j, e.body ≠ .snapBegin j) → (∀ j d, e.body ≠ .snapEnd j d) → (snapEntry t e).tw.snapStored = t.tw.snapStored ++ [e])) ∧
    (∀ j d u, s.tw.snapStarted = some j → s.tw.snapEnd = some d → u = applySnapshot s.tw.snapStored [] (twinReset s) →
      (pointDigest u ≠ d → s.tw.snapRetried = false →
        exec .snapshotApplied s = .next (askSnapshot { u with tw := { u.tw with snapRetried := true } })) ∧
      (pointDigest u ≠ d → s.tw.snapRetried = true → exec .snapshotApplied s = .next (stayCold { u with tw := { u.tw with
        snapAsked := false
        snapStarted := none
        snapStored := []
        snapEnd := none
        stored := [] } } 3)) ∧
      (pointDigest u = d → ∀ rest t, applyEntries s.tw.stored [] (noteSum { u with tw := { u.tw with
          snapAsked := false
          snapStarted := none
          snapStored := []
          snapEnd := none
          snapRetried := false
          sums := [] } } j) = (rest, t, false) →
        exec .snapshotApplied s = .next (armCheck ({ t with tw := { t.tw with stored := rest } }.wr Obj.syncProgress 1000))))

/-- Video decode: quiescence, picture start and end, key requests, pipe errors. A disabled context with nothing left is quiescent: its state is idle, its queue empty, its memory back, its decode status 0. A free pipe takes the head unit of the context it picks: refused as unsupported or oversize, discarded while a key picture is awaited, or started; a picture whose time has come ends; a need for a key picture is asked again 200 ms after the last request; an ECC error retires the pipe, and without any pipe decoding is unavailable. (R24, R220, R221, R223, R226, R229, R232, R233) -/
def Obligations.video_decode_steps : Prop :=
  ∀ (s : State) (d : Nat), d < 4096 →
    ((s.dx d).stage = .closing → s.pipeOf d = none → assistHeld s d = false → (∀ w ∈ s.disp.items, w.desc.flow ≠ flowTag 3 d) →
      (∀ b ∈ (s.dx d).outs, b.2.readers = 0) → ∃ t, exec (.dctxQuiescent d) s = .next t ∧
        t.dx d = { DctxRt.idle with outGen := (s.dx d).outGen } ∧ t.q (decodeQ d) = Queue.empty ∧
        t.partUsed 4 = s.partUsed 4 - ((s.dx d).poolOctets + ((s.dx d).outs.map (fun b => b.2.octets)).sum) ∧
        t.rd (Obj.dsWidth d) = 0 ∧ t.rd (Obj.dsHeight d) = 0 ∧ t.rd (Obj.dsStripMask d) = 0) ∧
    (∀ p i q u x, p < 8 → s.engines = true → bit (s.rd Obj.pipesOnline) p = true → (∀ j ∈ s.vd.pipes, j.1 ≠ p) → pipePick s = some d →
      ((shed s d).q (decodeQ d)).pop = (some i, q) → unitOf i = some u → x = (shed s d).updQ (decodeQ d) q →
      (u.facts.supported = false → exec (.pipePictureStart p) s = .next (refuseUnit x d true)) ∧
      (u.facts.supported = true → x.rd (Obj.maxWidth d) < u.facts.width ∨ x.rd (Obj.maxHeight d) < u.facts.height ∨
        x.rd (Obj.maxBitDepth d) < u.facts.depth → exec (.pipePictureStart p) s = .next (refuseUnit x d false)) ∧
      (u.facts.supported = true → u.facts.width ≤ x.rd (Obj.maxWidth d) → u.facts.height ≤ x.rd (Obj.maxHeight d) →
        u.facts.depth ≤ x.rd (Obj.maxBitDepth d) →
        ((x.dx d).stage = .waitKey → u.facts.key = false ∨ u.missing = true → exec (.pipePictureStart p) s = .next (x.inc (Obj.dcWaitDiscard d))) ∧
        ((x.dx d).stage ≠ .waitKey ∨ u.facts.key = true ∧ u.missing = false → u.facts.rasl = false →
          ∀ g, targetUnit x d u.facts (layerTargets x d u.facts) = some g → exec (.pipePictureStart p) s = .next (startPicture
            (x.setDx d { x.dx d with
              spatial := (layerTargets x d u.facts).1
              temporal := (layerTargets x d u.facts).2 }) p d { u with facts := g })))) ∧
    (∀ p j, s.vd.pipes.find? (fun j => decide (j.1 = p)) = some (p, j) → j.ends ≤ s.mono →
      exec (.pictureDecodeComplete p) s = .next (finishPicture s p j)) ∧
    ((s.dx d).stage = .waitKey ∨ (s.dx d).stage = .decoding → (s.dx d).needKey = true → (s.dx d).askAt ≠ 0 →
      (s.dx d).askAt + 200000000 ≤ s.mono + 1 → ∃ t, exec (.keyRequestPacing d) s = .next t ∧ t = dctxAsk s d ∧
        (s.boundTo d = none → (t.dx d).needKey = true ∧ (t.dx d).askAt = s.mono + 1)) ∧
    (∀ p v s1, p < 8 → s.engines = true → bit (s.rd Obj.pipesOnline) p = true →
      (s1 = s ∧ s.vd.pipes.find? (fun j => decide (j.1 = p)) = none ∨
        ∃ j, s.vd.pipes.find? (fun j => decide (j.1 = p)) = some (p, j) ∧ s1 = finishPicture s p { j with broken := true }) →
      v = (s1.wr Obj.pipesOnline (clrBit (s1.rd Obj.pipesOnline) p)).event Ev.decodePipeRetired p 0 →
      exec (.decodePipeEccError p) s = .next (if v.rd Obj.pipesOnline = 0 then v.event Ev.decodeUnavailable 0 0 else v))

/-- Wake events, temperature, throttling, scripts and lanes. A wake event that acts starts a thaw with its cause; a junction sample below the shutdown limit is stored and starts or ends the hot and cool times; the throttle level goes up after 1 ms hot and down after 10 ms cool; the shutdown hold ends after 10 s; a season script past its limit is abandoned; a lane's signal is noted or taken by its port; a preset timeout marks its port. (R384, R388, R393, R394, R395, R449, R450) -/
def Obligations.power_and_thermal : Prop :=
  ∀ (s : State),
    (∀ b p w, (b = 0 ∧ w = .mailbox ∨ b = 1 ∧ w = .doorbell ∨ b = 2 ∧ w = .dtp ∨ b = 3 ∧ w = .hbRx ∨
        b = 4 ∧ w = .alarm ∧ s.rd Obj.wakeAfter ≠ 0 ∧ s.pw.seasonSince + s.rd Obj.wakeAfter * 1000000000 ≤ s.mono ∨
        b = 5 ∧ w = .nqSignal ∧ p < 6 ∧ s.rd (Obj.nqEnable p) = 1 ∨ b = 6 ∧ w = .hostPerst) →
      s.pw.thawFrom = none → wakeActs s w = true → (s.season = .midwinter → w = .hostPerst ∨ s.pw.shutdownAt = none) → s.pw.winterEntry = false →
      ∃ t, exec (.wakeEvent b p) s = .next t ∧ t.pw.thawFrom = some s.season ∧ t.pw.wakeAt = s.mono ∧ t.pw.mainPwrEn = true ∧
        t.rd Obj.target = 2 ∧ (t.rd Obj.wakeCause = 2 ^ w.bit ∨ t.rd Obj.wakeCause = 2 ^ w.bit + 0x80)) ∧
    (∀ x : Int, s.running = true → x < 120 → ∃ t, exec (.junctionSample x) s = .next t ∧ t.rd Obj.junction = uns 16 x ∧
      (s.rdI16 Obj.throttleStart ≤ x ∨ 100 ≤ s.stackTemp 0 ∨ 100 ≤ s.stackTemp 1 → t.pw.hotSince = some (s.pw.hotSince.getD s.mono)) ∧
      (x < s.rdI16 Obj.throttleStart → s.stackTemp 0 < 100 → s.stackTemp 1 < 100 → t.pw.hotSince = none) ∧
      (x < s.rdI16 Obj.throttleStop → s.stackTemp 0 < 98 → s.stackTemp 1 < 98 → t.pw.coolSince = some (s.pw.coolSince.getD s.mono)) ∧
      (s.rdI16 Obj.throttleStop ≤ x ∨ 98 ≤ s.stackTemp 0 ∨ 98 ≤ s.stackTemp 1 → t.pw.coolSince = none)) ∧
    (∀ h, s.running = true → s.pw.hotSince = some h → h + 1000000 ≤ s.mono → s.rd Obj.throttleLevel < 12 →
      ∃ t, exec (.throttleStep true) s = .next t ∧ t.rd Obj.throttleLevel = s.rd Obj.throttleLevel + 1 ∧ t.pw.hotSince = some (h + 1000000)) ∧
    (∀ c, s.running = true → s.pw.coolSince = some c → c + 10000000 ≤ s.mono → 0 < s.rd Obj.throttleLevel →
      ∃ t, exec (.throttleStep false) s = .next t ∧ t.rd Obj.throttleLevel = s.rd Obj.throttleLevel - 1 ∧ t.pw.coolSince = some (c + 10000000)) ∧
    (∀ at_, s.pw.shutdownAt = some at_ → at_ + 10000000000 ≤ s.mono →
      exec .thermalHoldExpiry s = .next { s with pw := { s.pw with shutdownAt := none } }) ∧
    (s.pw.rising = true → s.pw.scriptSince + 10000000 < s.mono →
      exec .scriptTimeout s = .next ({ s with pw := { s.pw with rising := false } }.event Ev.seasonScriptFail 0 0)) ∧
    (s.pw.rising = false → s.pw.winterEntry = true → s.pw.scriptSince + 6000000 < s.mono →
      exec .scriptTimeout s = .next ({ s with pw := { s.pw with winterEntry := false } }.event Ev.seasonScriptFail 0 0)) ∧
    (∀ l above, 26 ≤ l → l < 34 →
      exec (.laneSignalChange l above) s = .next { s with pw := { s.pw with ethLos := putBit s.pw.ethLos (l - 26) (!above) } }) ∧
    (∀ l above, l < 26 → s.season ≠ .winter → s.running = true →
      exec (.laneSignalChange l above) s = .next (phyEvent s (.signal l (!above)))) ∧
    (∀ p, p < 2 → s.running = true →
      exec (.transmitterPresetTimeout p) s = .next { s with pw := { s.pw with ethPreset := setBit s.pw.ethPreset p } })

/-- Composition: image checks, bands, and layout runs. In the last 2 ms before a tick the checks of the operator images that sets due use begin, each for that tick and without result; a check that ends gives its image's result, false unless the image is held whole with the CRC-32C of its reference. A composed band is written to its buffer; after the last band of a picture in time the job ends, its reads and counts are taken. A layout run starts when a speaker or set change names its program, is abandoned with its event after 200,000 cycles, and at its end applies its writes as one group or counts the refusal. (R244, R248, R255, R257, R260, R261, R393) -/
def Obligations.composition_steps : Prop :=
  ∀ (s : State), s.engines = true →
    (∀ k, k = s.tod * 3 / 50000000 + 1 → tickTime k ≤ s.tod + 2000000 → exec .oplayerCheckStart s =
        .next { s with cp := { s.cp with checks := s.cp.checks ++ checksFor s k } } ∧ (∀ c ∈ checksFor s k, c.tick = k ∧ c.result = none) ∧
      (tickCommits s = [] → ∀ c ∈ enabledSets s, setDue s c k = true → s.rd (Obj.olEnable (s.rd (Obj.csetBase c))) = 1 →
        ∃ e ∈ s.cp.checks ++ checksFor s k, e.tick = k ∧ e.image = s.rd (Obj.olImage (s.rd (Obj.csetBase c))) - 1)) ∧
    (∀ i, exec (.oplayerCheckDone i) s = .next { s with cp := { s.cp with checks := s.cp.checks.map (fun (c : OpCheck) =>
        if c.image = i ∧ c.result = none then { c with result := some (opImageGood s i) } else c) } } ∧
      (s.opImage i = none → opImageGood s i = false) ∧ (∀ img, s.opImage i = some (img, false) → opImageGood s i = false) ∧
      (∀ img, s.opImage i = some (img, true) → opImageGood s i =
        decide (crc crc32c (octets 4 0x53494D47 ++ octets 2 img.width ++ octets 2 img.height ++
        [b2n img.alpha] ++ List.replicate 55 0 ++ img.pixels) = s.rd (Obj.operatorImageCrc i)))) ∧
    (∀ m j rest, m < 4 → AMap.get [] m s.cp.jobs = j :: rest → j.band + 1 < j.total → ∃ t, exec (.composeBandDone m) s = .next t ∧
      t.cp.jobs = AMap.put [] m ({ j with band := j.band + 1 } :: rest) s.cp.jobs ∧
      (t.cs j.cset).bufs = (s.cs j.cset).bufs.map (fun (b : CanvBuf) => if b.id = j.buf then
        { b with bands := j.band + 1, units := b.units ++ bandUnits b.content j.band } else b) ∧ t.dict = s.dict) ∧
    (∀ m j rest x, m < 4 → AMap.get [] m s.cp.jobs = j :: rest → j.total ≤ j.band + 1 → s.tod < tickTime (j.tick + 1) →
      x = (s.setCs j.cset { s.cs j.cset with bufs := (s.cs j.cset).bufs.map (fun (b : CanvBuf) => if b.id = j.buf then
        { b with bands := j.band + 1, units := b.units ++ bandUnits b.content j.band } else b) }) →
      exec (.composeBandDone m) s = .next (cleanSet (j.reads.foldl (fun t r => outRead t r.1 r.2 false)
        (j.fetched.foldl (fun t f => (t.wr (Obj.tilesFetched f.1) f.2.1).wr (Obj.tilesHidden f.1) f.2.2)
          (j.canvs.foldl (fun t v => t.inc (Obj.composed v)) { x with cp := { x.cp with jobs := AMap.put [] m rest x.cp.jobs } }))) j.cset)) ∧
    (∀ c r, c < 1024 → s.speech.find? (fun r => decide (r.1 = s.rd (Obj.lbConf c))) = some (s.rd (Obj.lbConf c), r) →
      (AMap.get none (s.rd (Obj.lbProgram c)) s.cp.programs).isSome = true → (r.speakerChanged = true ∨ r.setChanged = true) →
      (s.cs c).run = none → (s.cs c).layoutFrame ≠ r.frame + 1 →
      exec (.layoutRun c) s = .next ((s.setCs c { s.cs c with run := some s.dspUnits, layoutFrame := r.frame + 1 }).inc (Obj.layoutRuns c))) ∧
    (∀ c at_, c < 1024 → (s.cs c).run = some at_ → at_ + 6000000 ≤ s.dspUnits →
      exec (.layoutRunLimit c) s = .next ((s.setCs c { s.cs c with run := none }).event Ev.layoutOverrun c 0)) ∧
    (∀ c ws b r, s.running = true → (s.cs c).run = some r →
      (∀ t, layoutGroup (s.setCs c { s.cs c with run := none }) c ws b = (0, t) → s.role ≠ 1 → exec (.layoutRunEnd c ws b) s = .next t) ∧
      (∀ a t, layoutGroup (s.setCs c { s.cs c with run := none }) c ws b = (a, t) → a ≠ 0 → exec (.layoutRunEnd c ws b) s =
        .next (((s.setCs c { s.cs c with run := none }).inc (Obj.layoutRefused c)).event Ev.layoutCommitRefused c 0)))

/-- Encode: pictures on the back-ends. A free back-end starts the ready picture of the earliest tick, or drops it when its rendition is barred and the picture is no key; the rate-control calls set target and QP within the bounds, an overrun call is counted and abandoned; a coded band adds its bits and asks for the next QP, in the QUALITY tier a non-key band becomes a work item whose result codes it, or the back-end does after the fallback or the wait; a finished picture goes to the bitstream queue with its counters. (R269, R271, R273, R276, R277, R278, R279, R280) -/
def Obligations.encode_pictures : Prop :=
  ∀ (s : State),
    (∀ b k r c z buf rest, b < 16 → s.engines = true → bit (s.rd Obj.backEndsOnline) b = true → s.en.backs.any (fun j => decide (j.1 = b)) = false →
      leastPair (backCands s) = some (k, r) → (s.rx r).todo = (c, z, buf) :: rest → ((s.rx r).barred = false ∨ (pictureKind s r k (drainTo s r k)).1 = .key) →
      ∃ t j, exec (.renditionPictureStart b) s = .next t ∧ t.en.backs = AMap.ins b j s.en.backs ∧ t.rd (Obj.rctxState r) = 3 ∧
        j.rctx = r ∧ j.tick = k ∧ j.cset = c ∧ j.buf = buf ∧ j.started = s.mono ∧ j.call = .start ∧ j.band = 0 ∧ j.spent = 0 ∧
        j.kind = (pictureKind s r k (drainTo s r k)).1 ∧ j.room60 = 60 * s.rd (Obj.hrdBuffer r) - drainTo s r k ∧ (t.rx r).f60 = drainTo s r k) ∧
    (∀ b k r c z buf rest, b < 16 → s.engines = true → bit (s.rd Obj.backEndsOnline) b = true → s.en.backs.any (fun j => decide (j.1 = b)) = false →
      leastPair (backCands s) = some (k, r) → (s.rx r).todo = (c, z, buf) :: rest → (s.rx r).barred = true →
      (pictureKind s r k (drainTo s r k)).1 ≠ .key → ∃ t, exec (.renditionPictureStart b) s = .next t ∧ t.en.backs = s.en.backs ∧
        t.rd (Obj.rcNoPicture r) = satAdd (s.rd (Obj.rcNoPicture r)) 1 (maxOf (Obj.rcNoPicture r)) ∧ (t.rx r).todo = rest) ∧
    (∀ b j target qp, s.backJob b = some j → j.call = .start →
      exec (.rcPictureStart b target qp) s = .next (s.setBack b { j with target := target, qp := max j.qpLow (min j.qpHigh qp), call := .none })) ∧
    (∀ b j qp, s.backJob b = some j → j.call = .band →
      exec (.rcBandEnd b qp) s = .next (s.setBack b { j with qp := max j.qpLow (min j.qpHigh qp), call := .none })) ∧
    (∀ b j, s.backJob b = some j → j.call ≠ .none →
      exec (.rcCallLimit b) s = .next (((s.inc (Obj.rcOverrun j.rctx)).eventRated Ev.rcOverrun j.rctx j.rctx 0).setBack b { j with
        target := if j.call = .start then s.rd (Obj.maxBitrate j.rctx) * rctxDivider s j.rctx / 60 else j.target
        qp := max j.qpLow (min j.qpHigh j.qp)
        call := .none })) ∧
    (∀ b j p m n x rest, s.backJob b = some j → j.call = .none → j.trellis = none → bandAnalysed s j = true →
      (s.rd (Obj.rctxTier j.rctx) ≠ 1 ∨ j.kind = .key) → (bandsOf j.layers).drop j.band = x :: rest → j.spent < j.target → j.qp < j.qpHigh →
      60 * (j.spent + p + (rest.map (bandMin j.kind)).sum) ≤ j.room60 → ∃ t u, exec (.renditionBandCode b p m n) s = .next t ∧ t.backJob b = some u ∧
        u.band = j.band + 1 ∧ u.spent = j.spent + p ∧ u.qp = j.qp ∧ u.minimal = j.minimal ∧ (rest ≠ [] → u.call = .band) ∧ (rest = [] → u.call = .none) ∧
        t.rd (Obj.rsLastQp j.rctx) = j.qp) ∧
    (∀ b j p m n, s.backJob b = some j → j.call = .none → j.trellis = none → bandAnalysed s j = true → s.rd (Obj.rctxTier j.rctx) = 1 → j.kind ≠ .key →
      exec (.renditionBandCode b p m n) s = .next ((s.setBack b { j with trellis := some (s.mono, ⟨p, m, n⟩) }).post 2
        { engineDescriptor (flowTag 2 (j.rctx * 32 + j.band % 32)) (s.rd Obj.trellisProgram) j.rctx j.band with
          arg0 := j.qp + 256 * (Config.rateMultiplier j.rctx j.qp % 0x1000000)
          arg1 := j.band } (.trellis j.rctx j.band))) ∧
    (∀ b j at_ bb, s.backJob b = some j → j.trellis = some (at_, bb) → trellisOut s j.rctx j.band = false →
      exec (.trellisResult b 0) s = .next (codeBand s b j bb) ∧
      (∀ n, n ≠ 0 → exec (.trellisResult b n) s = .next (codeBand (s.inc (Obj.rcTrellisFallback j.rctx)) b { j with fallback := true } bb))) ∧
    (∀ b j at_ bb, s.backJob b = some j → j.trellis = some (at_, bb) → at_ + j.wait * 1000 ≤ s.mono →
      exec (.trellisWaitExpiry b) s = .next (codeBand (({ s with disp := { s.disp with held := s.disp.held.filter (fun (h : HeldPost) =>
        decide (h.job ≠ Job.trellis j.rctx j.band)) } }.withdraw 2 j.rctx j.band).inc (Obj.rcTrellisFallback j.rctx)) b { j with fallback := true } bb)) ∧
    (∀ b j, s.backJob b = some j → j.band = (bandsOf j.layers).length → j.started + pictureNs j ≤ s.mono → (s.rx j.rctx).stage = .running →
      ∃ u, exec (.renditionPictureDone b) s = .next (takeItems u j.rctx) ∧ u.en.backs = AMap.del b s.en.backs ∧
        (u.rx j.rctx).count = ((s.rx j.rctx).count + 1) % 0x100000000 ∧ (u.rx j.rctx).f60 = (s.rx j.rctx).f60 + 60 * pictureBits s j ∧
        (u.rx j.rctx).todo = (s.rx j.rctx).todo.drop 1 ∧ (u.rx j.rctx).debt = (s.rx j.rctx).debt + j.spent - j.target ∧
        u.rd (Obj.rcPictures j.rctx) = satAdd (s.rd (Obj.rcPictures j.rctx)) 1 (maxOf (Obj.rcPictures j.rctx)) ∧
        u.rd (Obj.rsFullness j.rctx) = ((s.rx j.rctx).f60 + 60 * pictureBits s j) / 60)

/-- Encode: analysis passes, key and LTR timers, retired units. A front-end whose pass is due analyses the next band once the composer has written it and not before; a periodic key is asked for once its interval is over; the LTR interval marks the next base-layer picture; a unit with an ECC error leaves service, its picture is given up and a key or recovery picture asked for again. (R265, R266, R273, R274, R282) -/
def Obligations.encode_passes : Prop :=
  ∀ (s : State),
    (∀ f k a p, f < 6 → s.engines = true → bit (s.rd Obj.frontEndsOnline) f = true → leastPair (passCands s f) = some (k, a) →
      s.en.passes.find? (fun q => decide (q.1 = a)) = some (a, p) → 0 < p.band → p.band + 1 < p.total →
      ((s.cs p.cset).bufs.find? (fun b => decide (b.id = p.buf))).any (fun b => decide (p.band < b.bands)) = true →
      ∃ t, exec (.analysisBandDone f) s = .next t ∧ t.en.passes = AMap.ins a { p with band := p.band + 1 } s.en.passes ∧
        (t.cs p.cset).bufs = (s.cs p.cset).bufs.map (fun (b : CanvBuf) => if b.id = p.buf then { b with analysed := p.band + 1 } else b) ∧
        (∀ cur older, (s.ax a).recs = cur :: older → (t.ax a).recs = analyseBand a older.head? p.band cur :: older) ∧ t.dict = s.dict) ∧
    (∀ f k a p, f < 6 → s.engines = true → bit (s.rd Obj.frontEndsOnline) f = true → leastPair (passCands s f) = some (k, a) →
      s.en.passes.find? (fun q => decide (q.1 = a)) = some (a, p) →
      ((s.cs p.cset).bufs.find? (fun b => decide (b.id = p.buf))).any (fun b => decide (p.band < b.bands)) = false →
      exec (.analysisBandDone f) s = .next s) ∧
    (∀ r k, r < 4096 → (s.rx r).lastKey = some k → s.rd (Obj.periodicKey r) ≠ 0 → (s.rx r).stage = .running → (s.rx r).periodic = false →
      k + s.rd (Obj.periodicKey r) * 1000000 ≤ s.tod → ∃ t, exec (.periodicKeyExpiry r) s = .next t ∧ (t.rx r).askKey = true ∧
        (t.rx r).periodic = true ∧ t.rd (Obj.rcKeyRequests r) = satAdd (s.rd (Obj.rcKeyRequests r)) 1 (maxOf (Obj.rcKeyRequests r))) ∧
    (∀ r, r < 4096 → (s.rx r).stage = .running → s.rd (Obj.recovery r) = 1 → (s.rx r).lastLtr + s.rd (Obj.ltrInterval r) * 1000000 ≤ s.mono →
      exec (.ltrIntervalExpiry r) s = .next (s.setRx r { s.rx r with ltrNext := true, lastLtr := s.mono })) ∧
    (∀ n, n < 6 → s.engines = true → bit (s.rd Obj.frontEndsOnline) n = true → ∃ t, exec (.encodeUnitEccError true n) s = .next t ∧
      t.rd Obj.frontEndsOnline = clrBit (s.rd Obj.frontEndsOnline) n) ∧
    (∀ n, n < 16 → s.engines = true → bit (s.rd Obj.backEndsOnline) n = true → s.backJob n = none →
      ∃ t, exec (.encodeUnitEccError false n) s = .next t ∧ t.rd Obj.backEndsOnline = clrBit (s.rd Obj.backEndsOnline) n ∧ t.en = s.en) ∧
    (∀ n j, n < 16 → s.engines = true → bit (s.rd Obj.backEndsOnline) n = true → s.backJob n = some j → j.trellis = none →
      ∃ t, exec (.encodeUnitEccError false n) s = .next t ∧ t.rd Obj.backEndsOnline = clrBit (s.rd Obj.backEndsOnline) n ∧
        t.en.backs = AMap.del n s.en.backs ∧ (j.kind = .key → (t.rx j.rctx).askKey = true) ∧ (j.kind = .recovery → (t.rx j.rctx).askPli = true))

/-- Adaptation: calls, ticks, limits, switch waits, forwarding, and shapers. A feedback call is made at most 20 times a second; a TICK advances by 100 ms and applies the answer of program 0 or of the loaded program, a lead feed's A clamped to MinRate and MaxRate; an abandoned call counts and raises its event; after 500 ms a pending switch asks again for its key picture; the oldest waiting packet goes to the feeds; a port's shaper sends the packet its levels choose, or none; a head older than MaxHold is dropped. (R287, R289, R291, R292, R296, R300) -/
def Obligations.adaptation_steps : Prop :=
  ∀ (s : State),
    (∀ l f, f < 4 → s.hasFeed l f = true → s.rd (Obj.feedMode f l) = 1 → (s.feed l f).fb = true →
      ((s.feed l f).calls.filter (fun t => decide (s.mono < t + 1000000000))).length < 20 → exec (.adaptFeedbackCall l f) s =
        .next (s.setFeed l f { s.feed l f with fb := false, calls := (s.feed l f).calls.filter (fun t => decide (s.mono < t + 1000000000)) ++ [s.mono] })) ∧
    (∀ l f a sel probe y, f < 4 → s.hasFeed l f = true → s.rd (Obj.feedMode f l) = 1 → (s.feed l f).nextTick ≤ s.mono →
      y = (backlogCheck s (s.feed l f).nextTick).setFeed l f { s.feed l f with nextTick := (s.feed l f).nextTick + 100 * ms } →
      (adaptLoaded s (s.rd (Obj.feedProgram f l)) = false → exec (.adaptTick l f a sel probe) s = .next y) ∧
      (adaptLoaded s (s.rd (Obj.feedProgram f l)) = true → s.rd (Obj.feedProgram f l) = 0 → s.ad.shipped = true →
        exec (.adaptTick l f a sel probe) s = .next (applyTick y l f (programZero y l f))) ∧
      (adaptLoaded s (s.rd (Obj.feedProgram f l)) = true → (s.rd (Obj.feedProgram f l) ≠ 0 ∨ s.ad.shipped = false) →
        exec (.adaptTick l f a sel probe) s = .next (applyTick y l f ⟨a, if sel < 8 then some sel else none, probe, y.feed l f⟩)) ∧
      (adaptLoaded s (s.rd (Obj.feedProgram f l)) = true → (s.rd (Obj.feedProgram f l) ≠ 0 ∨ s.ad.shipped = false) → leadFeed y l = some f →
        (y.leg l).remb = none → ∃ t, exec (.adaptTick l f a 255 0) s = .next t ∧
          t.rd (Obj.estimate l) = max (y.rd (Obj.minRate l)) (min (y.rd (Obj.maxRate l)) a))) ∧
    (∀ l f, f < 4 → s.hasFeed l f = true → s.rd (Obj.feedMode f l) = 1 → (s.feed l f).nextTick ≤ s.mono →
      exec (.adaptCallLimit l f true) s = .next (((s.setFeed l f { s.feed l f with nextTick := (s.feed l f).nextTick + 100 * ms }).inc
        (Obj.feedAdaptOverrun f l)).eventRated Ev.adaptOverrun l l 0)) ∧
    (∀ l f, f < 4 → s.hasFeed l f = true → s.rd (Obj.feedMode f l) = 1 → (s.feed l f).fb = true →
      ((s.feed l f).calls.filter (fun t => decide (s.mono < t + 1000000000))).length < 20 → exec (.adaptCallLimit l f false) s =
        .next (((s.setFeed l f { s.feed l f with
          fb := false
          calls := (s.feed l f).calls.filter (fun t => decide (s.mono < t + 1000000000)) ++ [s.mono] }).inc
            (Obj.feedAdaptOverrun f l)).eventRated Ev.adaptOverrun l l 0)) ∧
    (∀ l f, f < 4 → s.hasFeed l f = true → s.rd (Obj.feedPending f l) < 8 → (s.feed l f).lastAsk + 500 * ms ≤ s.mono →
      exec (.switchKeyWaitExpiry l f) s = .next (askStream ((s.inc (Obj.feedKeyWait f l)).setFeed l f { s.feed l f with lastAsk := s.mono })
        (candStream (candEntry s l f (s.rd (Obj.feedPending f l)))) false)) ∧
    (∀ w r old, s.engines = true → s.ad.inbox = w :: r → old = AMap.get [] (w.leg * 8 + w.entry) s.ad.seen → ∃ x, exec .forwardPacket s =
        .next (forwardAll x w.leg w.entry w.pkt (!old.contains w.pkt.ts) w.at_) ∧
      (s.fb.subs = [] → x = { s with ad := { s.ad with
        inbox := r
        seen := AMap.put [] (w.leg * 8 + w.entry) ((w.pkt.ts :: old.filter (fun t => decide (t ≠ w.pkt.ts))).take 16) s.ad.seen } }) ∧
      (s.ad.feeds = [] → s.fb.subs = [] → exec .forwardPacket s = .next x)) ∧
    (∀ port x, s.engines = true → s.serves = true → port < 2 → x = dropDeficits (markHeld s port) port →
      (choosePort x port = none → exec (.shaperRelease port) s = .next x) ∧
      (∀ l g a b k q p at_, choosePort x port = some (l, g, a, b, k) → (x.leg l).egressQ = some q → x.egressHead l = some (p, at_) →
        ∃ t, exec (.shaperRelease port) s = .next t ∧
          t.out.head? = some (.frame port l (if x.rd Obj.epochTagEnable = 1 then some (x.rd Obj.twEpoch % 2 ^ 24) else none) p))) ∧
    (∀ l q p at_, s.engines = true → (s.leg l).egressQ = some q → s.egressHead l = some (p, at_) → s.rd (Obj.shMaxHold l) ≠ 0 →
      at_ + s.rd (Obj.shMaxHold l) * 1000000 < s.mono → exec (.shaperAgeOut l) s =
        .next ((((s.updQ q (s.q q).pop.2).setShaper l { shaperNow s l with waited := false }).inc (Obj.shAgedOut l)).eventRated Ev.shaperAged l l 0))

/-- Mix-frame boundaries, Solstice ticks, Function Level Reset, and the AUTUMN limit. Each frame boundary and each tick takes effect once: the deferred effects that are due first, then the legs' and conferences' turns and the decode items of the ACTIVE legs, or the composition and encode of the tick. A Function Level Reset empties rings, mailboxes, interrupt state and BARs and leaves the rest but the mailbox sessions. After AutumnLimit the legs are registered and the contexts and sets disabled by the firmware, with SEASON_AUTUMN_FORCED. (R53, R54, R56, R57, R69, R119, R255, R265, R382, R392) -/
def Obligations.boundaries : Prop :=
  ∀ (s : State),
    (s.running = true → s.tod / mixNs < s.le.frame → exec .mixFrameBoundary s = .next s) ∧
    (∀ n u, n = s.tod / mixNs → s.running = true → s.le.frame ≤ n → u = dueEffects { s with le := { s.le with frame := n + 1 } } false 0 →
      (s.ctl.deferred = [] → u = { s with le := { s.le with frame := n + 1 } }) ∧
      (∀ d, s.ctl.deferred = [d] → d.isTick = false → d.due ≤ s.tod → u = notifySend (applyOthers (withWrites
        { s with le := { s.le with frame := n + 1 }, ctl := { s.ctl with deferred := [] } } d.writes) d) d.notify 1 d.due) ∧
      (legsWhere u (fun x => !x.turn.isEmpty) = [] → u.engines = true → u.serves = true → exec .mixFrameBoundary s =
        .next ((legsWhere u (fun x => decide (x.stage = .active))).foldl (postDecode n)
          ((legsWhere u (fun x => decide (x.stage = .active))).foldl followRoute u))) ∧
      (legsWhere u (fun x => !x.turn.isEmpty) = [] → (u.engines = false ∨ u.serves = false) → exec .mixFrameBoundary s = .next u) ∧
      (∀ l, legsWhere u (fun x => !x.turn.isEmpty) = [l] → (legTurns u l).engines = false → exec .mixFrameBoundary s = .next (legTurns u l))) ∧
    (s.running = true → nextTick (s.tod + 1) - 1 < s.cp.tick → exec .solsticeTick s = .next s) ∧
    (∀ k u, k = nextTick (s.tod + 1) - 1 → s.running = true → s.cp.tick ≤ k → u = dueEffects s true k →
      (s.ctl.deferred = [] → u = s) ∧
      (∀ d, s.ctl.deferred = [d] → d.isTick = true → d.due ≤ s.tod → u = notifySend (applyOthers (activateTick
        { s with ctl := { s.ctl with deferred := [] } } k d) d) d.notify 1 d.due) ∧
      (u.engines = true → u.serves = true → exec .solsticeTick s = .next (encodeTick (composeTick u k (tickTime k)) k)) ∧
      ((u.engines = false ∨ u.serves = false) → exec .solsticeTick s = .next { u with cp := { u.cp with tick := k + 1 } })) ∧
    (s.bar0Up = true → ∃ t, exec .functionLevelReset s = .next t ∧ t.rings = [] ∧ t.hif.h2d = [] ∧ t.hif.d2h = [] ∧ t.hif.irqCause = 0 ∧
      t.hif.irqEnable = 0 ∧ t.hif.msixEnable = false ∧ t.hif.msix = [] ∧ t.hif.xfers = [] ∧ t.hif.cfg.bar0 = 0 ∧ t.hif.cfg.bar2 = 0 ∧
      t.hif.cfg.command = 0 ∧ t.hif.flrDone = true ∧ (s.ctl.sessions.filter (fun x => (chanMailbox x.chan).isSome) = [] →
        { t with hif := s.hif, rings := s.rings, queues := s.queues } = s ∧ ∀ n, (n < 44032 ∨ 46080 ≤ n) → (n, s.q n) ∈ s.queues → (n, s.q n) ∈ t.queues)) ∧
    (s.running = true → s.season = .autumn → s.rd Obj.autumnLimit ≠ 0 → s.pw.autumnForced = false →
      s.pw.autumnSince + s.rd Obj.autumnLimit * 1000000000 ≤ s.mono →
      (∀ a b c d e, a = (legsWhere s (fun x => decide (x.stage = .active))).foldl (fwWrite 0x2101 0 1) { s with pw := { s.pw with autumnForced := true } } →
        b = (onElements a 0x4200).foldl (fwWrite 0x4200 1 0) a → c = (onElements b 0x6300).foldl (fwWrite 0x6300 1 0) b →
        d = (onElements c 0x6200).foldl (fwWrite 0x6200 1 0) c → e = (enabledSets d).foldl fwDisableSet d →
        exec .autumnLimitExpiry s = .next (e.event Ev.seasonAutumnForced 0 0)) ∧
      (legsWhere s (fun x => decide (x.stage = .active)) = [] → onElements s 0x4200 = [] → onElements s 0x6300 = [] → onElements s 0x6200 = [] →
        enabledSets s = [] → exec .autumnLimitExpiry s = .next (({ s with pw := { s.pw with autumnForced := true } } : State).event Ev.seasonAutumnForced 0 0)))
end

