-- ==== Sys2Proof/Laws/AMap.lean ====
section
/-! SUPPORT. The sparse maps: reading after a setting, and the canonical form under every operation. -/

namespace Sys2Proof.Machine

set_option linter.unusedTactic false
set_option linter.unreachableTactic false
set_option linter.unusedSimpArgs false
set_option linter.unusedVariables false

variable {α : Type}

theorem AMap.get_dropWhile_le (d : α) (j k : Nat) (h : j ≤ k) (m : List (Nat × α)) :
    AMap.get d j (m.dropWhile (fun e => decide (e.1 ≤ k))) = d := by
  induction m with
  | nil => rfl
  | cons e r ih =>
    by_cases he : e.1 ≤ k
    · simpa [List.dropWhile, he] using ih
    · have : j < e.1 := by omega
      simp [List.dropWhile, he, AMap.get, this]

theorem AMap.get_dropWhile_gt (d : α) (j k : Nat) (h : k < j) (m : List (Nat × α)) :
    AMap.get d j (m.dropWhile (fun e => decide (e.1 ≤ k))) = AMap.get d j m := by
  induction m with
  | nil => rfl
  | cons e r ih =>
    by_cases he : e.1 ≤ k
    · have h1 : ¬ j < e.1 := by omega
      have h2 : e.1 ≠ j := by omega
      simpa [List.dropWhile, he, AMap.get, h1, h2] using ih
    · simp [List.dropWhile, he]

@[simp] theorem AMap.get_ins_same (d : α) (k : Nat) (v : α) (m : List (Nat × α)) : AMap.get d k (AMap.ins k v m) = v := by
  induction m with
  | nil => simp [AMap.ins, AMap.get]
  | cons e r ih =>
    simp only [AMap.ins]
    split
    · simp [AMap.get]
    · split
      · simp [AMap.get]
      · simp [AMap.get, *]

theorem AMap.get_ins_other (d : α) {j k : Nat} (v : α) (m : List (Nat × α)) (h : j ≠ k) :
    AMap.get d j (AMap.ins k v m) = AMap.get d j m := by
  have h' : k ≠ j := fun e => h e.symm
  induction m with
  | nil => simp [AMap.ins, AMap.get, h']
  | cons e r ih =>
    simp only [AMap.ins]
    split
    · by_cases hj : j < k
      · have : j < e.1 := by omega
        simp [AMap.get, hj, this]
      · simp [AMap.get, hj, h']
    · split
      · have : e.1 ≠ j := by omega
        simp only [AMap.get, h', this, if_false]
        by_cases hj : j < k
        · simp [hj, show j < e.1 by omega]
        · simp [hj, show ¬ j < e.1 by omega]
      · simp [AMap.get, ih]

@[simp] theorem AMap.get_del_same (d : α) (k : Nat) (m : List (Nat × α)) : AMap.get d k (AMap.del k m) = d := by
  induction m with
  | nil => rfl
  | cons e r ih =>
    simp only [AMap.del]
    split
    · simp [AMap.get, *]
    · split
      · exact AMap.get_dropWhile_le d k k (Nat.le_refl k) r
      · simp [AMap.get, *]

theorem AMap.get_del_other (d : α) {j k : Nat} (m : List (Nat × α)) (h : j ≠ k) :
    AMap.get d j (AMap.del k m) = AMap.get d j m := by
  induction m with
  | nil => rfl
  | cons e r ih =>
    simp only [AMap.del]
    split
    · rfl
    · split
      · rename_i _ he
        rcases Nat.lt_or_ge j k with hj | hj
        · rw [AMap.get_dropWhile_le d j k (by omega) r]
          simp [AMap.get, show j < e.1 by omega]
        · rw [AMap.get_dropWhile_gt d j k (by omega) r]
          simp [AMap.get, show ¬ j < e.1 by omega, show e.1 ≠ j by omega]
      · simp [AMap.get, ih]

/-- Reading a key just set. -/
@[simp] theorem AMap.get_put_same [DecidableEq α] (d : α) (k : Nat) (v : α) (m : List (Nat × α)) :
    AMap.get d k (AMap.put d k v m) = v := by
  unfold AMap.put
  split <;> simp [*]

/-- Setting a key leaves every other key alone. -/
theorem AMap.get_put_other [DecidableEq α] (c d : α) {j k : Nat} (v : α) (m : List (Nat × α)) (h : j ≠ k) :
    AMap.get c j (AMap.put d k v m) = AMap.get c j m := by
  unfold AMap.put
  split
  · exact AMap.get_del_other c m h
  · exact AMap.get_ins_other c v m h

variable [DecidableEq α] {f : Nat → α}

theorem AMap.wfFrom_mono {lo hi : Nat} (h : lo ≤ hi) {m : List (Nat × α)} (w : AMap.wfFrom f hi m = true) :
    AMap.wfFrom f lo m = true := by
  cases m with
  | nil => rfl
  | cons e r =>
    simp only [AMap.wfFrom, Bool.and_eq_true, decide_eq_true_eq] at w ⊢
    exact ⟨⟨by omega, w.1.2⟩, w.2⟩

theorem AMap.wfFrom_dropWhile {lo k : Nat} {m : List (Nat × α)} (w : AMap.wfFrom f lo m = true) :
    AMap.wfFrom f lo (m.dropWhile (fun e => decide (e.1 ≤ k))) = true := by
  induction m generalizing lo with
  | nil => rfl
  | cons e r ih =>
    have w' := w
    simp only [AMap.wfFrom, Bool.and_eq_true, decide_eq_true_eq] at w
    by_cases he : e.1 ≤ k
    · simp only [List.dropWhile, he, decide_true]
      exact AMap.wfFrom_mono (by omega) (ih w.2)
    · simp only [List.dropWhile, he, decide_false]
      exact w'

theorem AMap.wfFrom_del {lo k : Nat} {m : List (Nat × α)} (w : AMap.wfFrom f lo m = true) :
    AMap.wfFrom f lo (AMap.del k m) = true := by
  induction m generalizing lo with
  | nil => rfl
  | cons e r ih =>
    have w' := w
    simp only [AMap.wfFrom, Bool.and_eq_true, decide_eq_true_eq] at w
    simp only [AMap.del]
    split
    · exact w'
    · split
      · exact AMap.wfFrom_mono (by omega) (AMap.wfFrom_dropWhile w.2)
      · simp only [AMap.wfFrom, Bool.and_eq_true, decide_eq_true_eq]
        exact ⟨w.1, ih w.2⟩

theorem AMap.wfFrom_ins {lo k : Nat} {v : α} {m : List (Nat × α)} (w : AMap.wfFrom f lo m = true) (hk : lo ≤ k)
    (hv : v ≠ f k) : AMap.wfFrom f lo (AMap.ins k v m) = true := by
  induction m generalizing lo with
  | nil => simp [AMap.ins, AMap.wfFrom, hk, hv]
  | cons e r ih =>
    have w' := w
    simp only [AMap.wfFrom, Bool.and_eq_true, decide_eq_true_eq] at w
    simp only [AMap.ins]
    split
    · simp only [AMap.wfFrom, Bool.and_eq_true, decide_eq_true_eq]
      exact ⟨⟨hk, hv⟩, ⟨by omega, w.1.2⟩, w.2⟩
    · split
      · rename_i _ he
        subst he
        simp only [AMap.wfFrom, Bool.and_eq_true, decide_eq_true_eq]
        exact ⟨⟨hk, hv⟩, w.2⟩
      · simp only [AMap.wfFrom, Bool.and_eq_true, decide_eq_true_eq]
        exact ⟨w.1, ih w.2 (by omega)⟩

/-- A setting keeps the canonical form. -/
theorem AMap.wf_put {k : Nat} {v : α} {m : List (Nat × α)} (w : AMap.wf f m = true) :
    AMap.wf f (AMap.put (f k) k v m) = true := by
  unfold AMap.put
  split
  · exact AMap.wfFrom_del w
  · exact AMap.wfFrom_ins w (Nat.zero_le k) (by assumption)

theorem AMap.wfFrom_filter {lo : Nat} {p : Nat × α → Bool} {m : List (Nat × α)} (w : AMap.wfFrom f lo m = true) :
    AMap.wfFrom f lo (m.filter p) = true := by
  induction m generalizing lo with
  | nil => rfl
  | cons e r ih =>
    simp only [AMap.wfFrom, Bool.and_eq_true, decide_eq_true_eq] at w
    simp only [List.filter]
    split
    · simp only [AMap.wfFrom, Bool.and_eq_true, decide_eq_true_eq]
      exact ⟨w.1, ih w.2⟩
    · exact AMap.wfFrom_mono (by omega) (ih w.2)

/-- A restriction keeps the canonical form. -/
theorem AMap.wf_filter {p : Nat × α → Bool} {m : List (Nat × α)} (w : AMap.wf f m = true) : AMap.wf f (m.filter p) = true :=
  AMap.wfFrom_filter w

end Sys2Proof.Machine
end

