-- ==== Sys2Proof/Laws/State.lean ====
section
/-! SUPPORT. Reading the state after one of its named updates: what was written is read, everything else is as before. -/

namespace Sys2Proof.Machine

@[simp] theorem State.wr_pending (s : State) (k v : Nat) : (s.wr k v).pending = s.pending := rfl
@[simp] theorem State.wr_out (s : State) (k v : Nat) : (s.wr k v).out = s.out := rfl
@[simp] theorem State.wr_mono (s : State) (k v : Nat) : (s.wr k v).mono = s.mono := rfl
@[simp] theorem State.wr_tod (s : State) (k v : Nat) : (s.wr k v).tod = s.tod := rfl
@[simp] theorem State.wr_draws (s : State) (k v : Nat) : (s.wr k v).draws = s.draws := rfl
@[simp] theorem State.wr_season (s : State) (k v : Nat) : (s.wr k v).season = s.season := rfl
@[simp] theorem State.wr_shadow (s : State) (k v : Nat) : (s.wr k v).shadow = s.shadow := rfl
@[simp] theorem State.wr_ev (s : State) (k v : Nat) : (s.wr k v).ev = s.ev := rfl
@[simp] theorem State.wr_hif (s : State) (k v : Nat) : (s.wr k v).hif = s.hif := rfl
@[simp] theorem State.wr_rings (s : State) (k v : Nat) : (s.wr k v).rings = s.rings := rfl
@[simp] theorem State.wr_queues (s : State) (k v : Nat) : (s.wr k v).queues = s.queues := rfl
@[simp] theorem State.wr_ctl (s : State) (k v : Nat) : (s.wr k v).ctl = s.ctl := rfl
@[simp] theorem State.wr_le (s : State) (k v : Nat) : (s.wr k v).le = s.le := rfl
@[simp] theorem State.wr_cip (s : State) (k v : Nat) : (s.wr k v).cip = s.cip := rfl
@[simp] theorem State.wr_pw (s : State) (k v : Nat) : (s.wr k v).pw = s.pw := rfl
@[simp] theorem State.wr_mem (s : State) (k v : Nat) : (s.wr k v).mem = s.mem := rfl
@[simp] theorem State.wr_disp (s : State) (k v : Nat) : (s.wr k v).disp = s.disp := rfl
@[simp] theorem State.wr_mt (s : State) (k v : Nat) : (s.wr k v).mt = s.mt := rfl
@[simp] theorem State.wr_sec (s : State) (k v : Nat) : (s.wr k v).sec = s.sec := rfl
@[simp] theorem State.wr_conf (s : State) (k v : Nat) : (s.wr k v).conf = s.conf := rfl
@[simp] theorem State.wr_ad (s : State) (k v : Nat) : (s.wr k v).ad = s.ad := rfl
@[simp] theorem State.wr_mm (s : State) (k v : Nat) : (s.wr k v).mm = s.mm := rfl
@[simp] theorem State.wr_tw (s : State) (k v : Nat) : (s.wr k v).tw = s.tw := rfl
@[simp] theorem State.wr_fb (s : State) (k v : Nat) : (s.wr k v).fb = s.fb := rfl
@[simp] theorem State.wr_speech (s : State) (k v : Nat) : (s.wr k v).speech = s.speech := rfl
@[simp] theorem State.wr_vd (s : State) (k v : Nat) : (s.wr k v).vd = s.vd := rfl
@[simp] theorem State.wr_cp (s : State) (k v : Nat) : (s.wr k v).cp = s.cp := rfl
@[simp] theorem State.wr_en (s : State) (k v : Nat) : (s.wr k v).en = s.en := rfl
@[simp] theorem State.wr_tm (s : State) (k v : Nat) : (s.wr k v).tm = s.tm := rfl
@[simp] theorem State.wr_ig (s : State) (k v : Nat) : (s.wr k v).ig = s.ig := rfl

@[simp] theorem State.wrShadow_pending (s : State) (k v : Nat) : (s.wrShadow k v).pending = s.pending := rfl
@[simp] theorem State.wrShadow_out (s : State) (k v : Nat) : (s.wrShadow k v).out = s.out := rfl
@[simp] theorem State.wrShadow_mono (s : State) (k v : Nat) : (s.wrShadow k v).mono = s.mono := rfl
@[simp] theorem State.wrShadow_tod (s : State) (k v : Nat) : (s.wrShadow k v).tod = s.tod := rfl
@[simp] theorem State.wrShadow_draws (s : State) (k v : Nat) : (s.wrShadow k v).draws = s.draws := rfl
@[simp] theorem State.wrShadow_season (s : State) (k v : Nat) : (s.wrShadow k v).season = s.season := rfl
@[simp] theorem State.wrShadow_dict (s : State) (k v : Nat) : (s.wrShadow k v).dict = s.dict := rfl
@[simp] theorem State.wrShadow_ev (s : State) (k v : Nat) : (s.wrShadow k v).ev = s.ev := rfl
@[simp] theorem State.wrShadow_hif (s : State) (k v : Nat) : (s.wrShadow k v).hif = s.hif := rfl
@[simp] theorem State.wrShadow_rings (s : State) (k v : Nat) : (s.wrShadow k v).rings = s.rings := rfl
@[simp] theorem State.wrShadow_queues (s : State) (k v : Nat) : (s.wrShadow k v).queues = s.queues := rfl
@[simp] theorem State.wrShadow_ctl (s : State) (k v : Nat) : (s.wrShadow k v).ctl = s.ctl := rfl
@[simp] theorem State.wrShadow_le (s : State) (k v : Nat) : (s.wrShadow k v).le = s.le := rfl
@[simp] theorem State.wrShadow_cip (s : State) (k v : Nat) : (s.wrShadow k v).cip = s.cip := rfl
@[simp] theorem State.wrShadow_pw (s : State) (k v : Nat) : (s.wrShadow k v).pw = s.pw := rfl
@[simp] theorem State.wrShadow_mem (s : State) (k v : Nat) : (s.wrShadow k v).mem = s.mem := rfl
@[simp] theorem State.wrShadow_disp (s : State) (k v : Nat) : (s.wrShadow k v).disp = s.disp := rfl
@[simp] theorem State.wrShadow_mt (s : State) (k v : Nat) : (s.wrShadow k v).mt = s.mt := rfl
@[simp] theorem State.wrShadow_sec (s : State) (k v : Nat) : (s.wrShadow k v).sec = s.sec := rfl
@[simp] theorem State.wrShadow_conf (s : State) (k v : Nat) : (s.wrShadow k v).conf = s.conf := rfl
@[simp] theorem State.wrShadow_ad (s : State) (k v : Nat) : (s.wrShadow k v).ad = s.ad := rfl
@[simp] theorem State.wrShadow_mm (s : State) (k v : Nat) : (s.wrShadow k v).mm = s.mm := rfl
@[simp] theorem State.wrShadow_tw (s : State) (k v : Nat) : (s.wrShadow k v).tw = s.tw := rfl
@[simp] theorem State.wrShadow_fb (s : State) (k v : Nat) : (s.wrShadow k v).fb = s.fb := rfl
@[simp] theorem State.wrShadow_speech (s : State) (k v : Nat) : (s.wrShadow k v).speech = s.speech := rfl
@[simp] theorem State.wrShadow_vd (s : State) (k v : Nat) : (s.wrShadow k v).vd = s.vd := rfl
@[simp] theorem State.wrShadow_cp (s : State) (k v : Nat) : (s.wrShadow k v).cp = s.cp := rfl
@[simp] theorem State.wrShadow_en (s : State) (k v : Nat) : (s.wrShadow k v).en = s.en := rfl
@[simp] theorem State.wrShadow_tm (s : State) (k v : Nat) : (s.wrShadow k v).tm = s.tm := rfl
@[simp] theorem State.wrShadow_ig (s : State) (k v : Nat) : (s.wrShadow k v).ig = s.ig := rfl

@[simp] theorem State.setQ_pending (s : State) (n : Nat) (q : Queue) : (s.setQ n q).pending = s.pending := rfl
@[simp] theorem State.setQ_out (s : State) (n : Nat) (q : Queue) : (s.setQ n q).out = s.out := rfl
@[simp] theorem State.setQ_mono (s : State) (n : Nat) (q : Queue) : (s.setQ n q).mono = s.mono := rfl
@[simp] theorem State.setQ_tod (s : State) (n : Nat) (q : Queue) : (s.setQ n q).tod = s.tod := rfl
@[simp] theorem State.setQ_draws (s : State) (n : Nat) (q : Queue) : (s.setQ n q).draws = s.draws := rfl
@[simp] theorem State.setQ_season (s : State) (n : Nat) (q : Queue) : (s.setQ n q).season = s.season := rfl
@[simp] theorem State.setQ_dict (s : State) (n : Nat) (q : Queue) : (s.setQ n q).dict = s.dict := rfl
@[simp] theorem State.setQ_shadow (s : State) (n : Nat) (q : Queue) : (s.setQ n q).shadow = s.shadow := rfl
@[simp] theorem State.setQ_ev (s : State) (n : Nat) (q : Queue) : (s.setQ n q).ev = s.ev := rfl
@[simp] theorem State.setQ_hif (s : State) (n : Nat) (q : Queue) : (s.setQ n q).hif = s.hif := rfl
@[simp] theorem State.setQ_rings (s : State) (n : Nat) (q : Queue) : (s.setQ n q).rings = s.rings := rfl
@[simp] theorem State.setQ_ctl (s : State) (n : Nat) (q : Queue) : (s.setQ n q).ctl = s.ctl := rfl
@[simp] theorem State.setQ_le (s : State) (n : Nat) (q : Queue) : (s.setQ n q).le = s.le := rfl
@[simp] theorem State.setQ_cip (s : State) (n : Nat) (q : Queue) : (s.setQ n q).cip = s.cip := rfl
@[simp] theorem State.setQ_pw (s : State) (n : Nat) (q : Queue) : (s.setQ n q).pw = s.pw := rfl
@[simp] theorem State.setQ_mem (s : State) (n : Nat) (q : Queue) : (s.setQ n q).mem = s.mem := rfl
@[simp] theorem State.setQ_disp (s : State) (n : Nat) (q : Queue) : (s.setQ n q).disp = s.disp := rfl
@[simp] theorem State.setQ_mt (s : State) (n : Nat) (q : Queue) : (s.setQ n q).mt = s.mt := rfl
@[simp] theorem State.setQ_sec (s : State) (n : Nat) (q : Queue) : (s.setQ n q).sec = s.sec := rfl
@[simp] theorem State.setQ_conf (s : State) (n : Nat) (q : Queue) : (s.setQ n q).conf = s.conf := rfl
@[simp] theorem State.setQ_ad (s : State) (n : Nat) (q : Queue) : (s.setQ n q).ad = s.ad := rfl
@[simp] theorem State.setQ_mm (s : State) (n : Nat) (q : Queue) : (s.setQ n q).mm = s.mm := rfl
@[simp] theorem State.setQ_tw (s : State) (n : Nat) (q : Queue) : (s.setQ n q).tw = s.tw := rfl
@[simp] theorem State.setQ_fb (s : State) (n : Nat) (q : Queue) : (s.setQ n q).fb = s.fb := rfl
@[simp] theorem State.setQ_speech (s : State) (n : Nat) (q : Queue) : (s.setQ n q).speech = s.speech := rfl
@[simp] theorem State.setQ_vd (s : State) (n : Nat) (q : Queue) : (s.setQ n q).vd = s.vd := rfl
@[simp] theorem State.setQ_cp (s : State) (n : Nat) (q : Queue) : (s.setQ n q).cp = s.cp := rfl
@[simp] theorem State.setQ_en (s : State) (n : Nat) (q : Queue) : (s.setQ n q).en = s.en := rfl
@[simp] theorem State.setQ_tm (s : State) (n : Nat) (q : Queue) : (s.setQ n q).tm = s.tm := rfl
@[simp] theorem State.setQ_ig (s : State) (n : Nat) (q : Queue) : (s.setQ n q).ig = s.ig := rfl

@[simp] theorem State.setRing_pending (s : State) (r : Nat) (x : Ring) : (s.setRing r x).pending = s.pending := rfl
@[simp] theorem State.setRing_out (s : State) (r : Nat) (x : Ring) : (s.setRing r x).out = s.out := rfl
@[simp] theorem State.setRing_mono (s : State) (r : Nat) (x : Ring) : (s.setRing r x).mono = s.mono := rfl
@[simp] theorem State.setRing_tod (s : State) (r : Nat) (x : Ring) : (s.setRing r x).tod = s.tod := rfl
@[simp] theorem State.setRing_draws (s : State) (r : Nat) (x : Ring) : (s.setRing r x).draws = s.draws := rfl
@[simp] theorem State.setRing_season (s : State) (r : Nat) (x : Ring) : (s.setRing r x).season = s.season := rfl
@[simp] theorem State.setRing_dict (s : State) (r : Nat) (x : Ring) : (s.setRing r x).dict = s.dict := rfl
@[simp] theorem State.setRing_shadow (s : State) (r : Nat) (x : Ring) : (s.setRing r x).shadow = s.shadow := rfl
@[simp] theorem State.setRing_ev (s : State) (r : Nat) (x : Ring) : (s.setRing r x).ev = s.ev := rfl
@[simp] theorem State.setRing_hif (s : State) (r : Nat) (x : Ring) : (s.setRing r x).hif = s.hif := rfl
@[simp] theorem State.setRing_queues (s : State) (r : Nat) (x : Ring) : (s.setRing r x).queues = s.queues := rfl
@[simp] theorem State.setRing_ctl (s : State) (r : Nat) (x : Ring) : (s.setRing r x).ctl = s.ctl := rfl
@[simp] theorem State.setRing_le (s : State) (r : Nat) (x : Ring) : (s.setRing r x).le = s.le := rfl
@[simp] theorem State.setRing_cip (s : State) (r : Nat) (x : Ring) : (s.setRing r x).cip = s.cip := rfl
@[simp] theorem State.setRing_pw (s : State) (r : Nat) (x : Ring) : (s.setRing r x).pw = s.pw := rfl
@[simp] theorem State.setRing_mem (s : State) (r : Nat) (x : Ring) : (s.setRing r x).mem = s.mem := rfl
@[simp] theorem State.setRing_disp (s : State) (r : Nat) (x : Ring) : (s.setRing r x).disp = s.disp := rfl
@[simp] theorem State.setRing_mt (s : State) (r : Nat) (x : Ring) : (s.setRing r x).mt = s.mt := rfl
@[simp] theorem State.setRing_sec (s : State) (r : Nat) (x : Ring) : (s.setRing r x).sec = s.sec := rfl
@[simp] theorem State.setRing_conf (s : State) (r : Nat) (x : Ring) : (s.setRing r x).conf = s.conf := rfl
@[simp] theorem State.setRing_ad (s : State) (r : Nat) (x : Ring) : (s.setRing r x).ad = s.ad := rfl
@[simp] theorem State.setRing_mm (s : State) (r : Nat) (x : Ring) : (s.setRing r x).mm = s.mm := rfl
@[simp] theorem State.setRing_tw (s : State) (r : Nat) (x : Ring) : (s.setRing r x).tw = s.tw := rfl
@[simp] theorem State.setRing_fb (s : State) (r : Nat) (x : Ring) : (s.setRing r x).fb = s.fb := rfl
@[simp] theorem State.setRing_speech (s : State) (r : Nat) (x : Ring) : (s.setRing r x).speech = s.speech := rfl
@[simp] theorem State.setRing_vd (s : State) (r : Nat) (x : Ring) : (s.setRing r x).vd = s.vd := rfl
@[simp] theorem State.setRing_cp (s : State) (r : Nat) (x : Ring) : (s.setRing r x).cp = s.cp := rfl
@[simp] theorem State.setRing_en (s : State) (r : Nat) (x : Ring) : (s.setRing r x).en = s.en := rfl
@[simp] theorem State.setRing_tm (s : State) (r : Nat) (x : Ring) : (s.setRing r x).tm = s.tm := rfl
@[simp] theorem State.setRing_ig (s : State) (r : Nat) (x : Ring) : (s.setRing r x).ig = s.ig := rfl

@[simp] theorem State.emit_pending (s : State) (o : Out) : (s.emit o).pending = s.pending := rfl
@[simp] theorem State.emit_mono (s : State) (o : Out) : (s.emit o).mono = s.mono := rfl
@[simp] theorem State.emit_tod (s : State) (o : Out) : (s.emit o).tod = s.tod := rfl
@[simp] theorem State.emit_draws (s : State) (o : Out) : (s.emit o).draws = s.draws := rfl
@[simp] theorem State.emit_season (s : State) (o : Out) : (s.emit o).season = s.season := rfl
@[simp] theorem State.emit_dict (s : State) (o : Out) : (s.emit o).dict = s.dict := rfl
@[simp] theorem State.emit_shadow (s : State) (o : Out) : (s.emit o).shadow = s.shadow := rfl
@[simp] theorem State.emit_ev (s : State) (o : Out) : (s.emit o).ev = s.ev := rfl
@[simp] theorem State.emit_hif (s : State) (o : Out) : (s.emit o).hif = s.hif := rfl
@[simp] theorem State.emit_rings (s : State) (o : Out) : (s.emit o).rings = s.rings := rfl
@[simp] theorem State.emit_queues (s : State) (o : Out) : (s.emit o).queues = s.queues := rfl
@[simp] theorem State.emit_ctl (s : State) (o : Out) : (s.emit o).ctl = s.ctl := rfl
@[simp] theorem State.emit_le (s : State) (o : Out) : (s.emit o).le = s.le := rfl
@[simp] theorem State.emit_cip (s : State) (o : Out) : (s.emit o).cip = s.cip := rfl
@[simp] theorem State.emit_pw (s : State) (o : Out) : (s.emit o).pw = s.pw := rfl
@[simp] theorem State.emit_mem (s : State) (o : Out) : (s.emit o).mem = s.mem := rfl
@[simp] theorem State.emit_disp (s : State) (o : Out) : (s.emit o).disp = s.disp := rfl
@[simp] theorem State.emit_mt (s : State) (o : Out) : (s.emit o).mt = s.mt := rfl
@[simp] theorem State.emit_sec (s : State) (o : Out) : (s.emit o).sec = s.sec := rfl
@[simp] theorem State.emit_conf (s : State) (o : Out) : (s.emit o).conf = s.conf := rfl
@[simp] theorem State.emit_ad (s : State) (o : Out) : (s.emit o).ad = s.ad := rfl
@[simp] theorem State.emit_mm (s : State) (o : Out) : (s.emit o).mm = s.mm := rfl
@[simp] theorem State.emit_tw (s : State) (o : Out) : (s.emit o).tw = s.tw := rfl
@[simp] theorem State.emit_fb (s : State) (o : Out) : (s.emit o).fb = s.fb := rfl
@[simp] theorem State.emit_speech (s : State) (o : Out) : (s.emit o).speech = s.speech := rfl
@[simp] theorem State.emit_vd (s : State) (o : Out) : (s.emit o).vd = s.vd := rfl
@[simp] theorem State.emit_cp (s : State) (o : Out) : (s.emit o).cp = s.cp := rfl
@[simp] theorem State.emit_en (s : State) (o : Out) : (s.emit o).en = s.en := rfl
@[simp] theorem State.emit_tm (s : State) (o : Out) : (s.emit o).tm = s.tm := rfl
@[simp] theorem State.emit_ig (s : State) (o : Out) : (s.emit o).ig = s.ig := rfl

@[simp] theorem State.setH2d_pending (s : State) (n : Nat) (m : Mailbox) : (s.setH2d n m).pending = s.pending := rfl
@[simp] theorem State.setH2d_out (s : State) (n : Nat) (m : Mailbox) : (s.setH2d n m).out = s.out := rfl
@[simp] theorem State.setH2d_mono (s : State) (n : Nat) (m : Mailbox) : (s.setH2d n m).mono = s.mono := rfl
@[simp] theorem State.setH2d_tod (s : State) (n : Nat) (m : Mailbox) : (s.setH2d n m).tod = s.tod := rfl
@[simp] theorem State.setH2d_draws (s : State) (n : Nat) (m : Mailbox) : (s.setH2d n m).draws = s.draws := rfl
@[simp] theorem State.setH2d_season (s : State) (n : Nat) (m : Mailbox) : (s.setH2d n m).season = s.season := rfl
@[simp] theorem State.setH2d_dict (s : State) (n : Nat) (m : Mailbox) : (s.setH2d n m).dict = s.dict := rfl
@[simp] theorem State.setH2d_shadow (s : State) (n : Nat) (m : Mailbox) : (s.setH2d n m).shadow = s.shadow := rfl
@[simp] theorem State.setH2d_ev (s : State) (n : Nat) (m : Mailbox) : (s.setH2d n m).ev = s.ev := rfl
@[simp] theorem State.setH2d_rings (s : State) (n : Nat) (m : Mailbox) : (s.setH2d n m).rings = s.rings := rfl
@[simp] theorem State.setH2d_queues (s : State) (n : Nat) (m : Mailbox) : (s.setH2d n m).queues = s.queues := rfl
@[simp] theorem State.setH2d_ctl (s : State) (n : Nat) (m : Mailbox) : (s.setH2d n m).ctl = s.ctl := rfl
@[simp] theorem State.setH2d_le (s : State) (n : Nat) (m : Mailbox) : (s.setH2d n m).le = s.le := rfl
@[simp] theorem State.setH2d_cip (s : State) (n : Nat) (m : Mailbox) : (s.setH2d n m).cip = s.cip := rfl
@[simp] theorem State.setH2d_pw (s : State) (n : Nat) (m : Mailbox) : (s.setH2d n m).pw = s.pw := rfl
@[simp] theorem State.setH2d_mem (s : State) (n : Nat) (m : Mailbox) : (s.setH2d n m).mem = s.mem := rfl
@[simp] theorem State.setH2d_disp (s : State) (n : Nat) (m : Mailbox) : (s.setH2d n m).disp = s.disp := rfl
@[simp] theorem State.setH2d_mt (s : State) (n : Nat) (m : Mailbox) : (s.setH2d n m).mt = s.mt := rfl
@[simp] theorem State.setH2d_sec (s : State) (n : Nat) (m : Mailbox) : (s.setH2d n m).sec = s.sec := rfl
@[simp] theorem State.setH2d_conf (s : State) (n : Nat) (m : Mailbox) : (s.setH2d n m).conf = s.conf := rfl
@[simp] theorem State.setH2d_ad (s : State) (n : Nat) (m : Mailbox) : (s.setH2d n m).ad = s.ad := rfl
@[simp] theorem State.setH2d_mm (s : State) (n : Nat) (m : Mailbox) : (s.setH2d n m).mm = s.mm := rfl
@[simp] theorem State.setH2d_tw (s : State) (n : Nat) (m : Mailbox) : (s.setH2d n m).tw = s.tw := rfl
@[simp] theorem State.setH2d_fb (s : State) (n : Nat) (m : Mailbox) : (s.setH2d n m).fb = s.fb := rfl
@[simp] theorem State.setH2d_speech (s : State) (n : Nat) (m : Mailbox) : (s.setH2d n m).speech = s.speech := rfl
@[simp] theorem State.setH2d_vd (s : State) (n : Nat) (m : Mailbox) : (s.setH2d n m).vd = s.vd := rfl
@[simp] theorem State.setH2d_cp (s : State) (n : Nat) (m : Mailbox) : (s.setH2d n m).cp = s.cp := rfl
@[simp] theorem State.setH2d_en (s : State) (n : Nat) (m : Mailbox) : (s.setH2d n m).en = s.en := rfl
@[simp] theorem State.setH2d_tm (s : State) (n : Nat) (m : Mailbox) : (s.setH2d n m).tm = s.tm := rfl
@[simp] theorem State.setH2d_ig (s : State) (n : Nat) (m : Mailbox) : (s.setH2d n m).ig = s.ig := rfl

@[simp] theorem State.setD2h_pending (s : State) (n : Nat) (m : Mailbox) : (s.setD2h n m).pending = s.pending := rfl
@[simp] theorem State.setD2h_out (s : State) (n : Nat) (m : Mailbox) : (s.setD2h n m).out = s.out := rfl
@[simp] theorem State.setD2h_mono (s : State) (n : Nat) (m : Mailbox) : (s.setD2h n m).mono = s.mono := rfl
@[simp] theorem State.setD2h_tod (s : State) (n : Nat) (m : Mailbox) : (s.setD2h n m).tod = s.tod := rfl
@[simp] theorem State.setD2h_draws (s : State) (n : Nat) (m : Mailbox) : (s.setD2h n m).draws = s.draws := rfl
@[simp] theorem State.setD2h_season (s : State) (n : Nat) (m : Mailbox) : (s.setD2h n m).season = s.season := rfl
@[simp] theorem State.setD2h_dict (s : State) (n : Nat) (m : Mailbox) : (s.setD2h n m).dict = s.dict := rfl
@[simp] theorem State.setD2h_shadow (s : State) (n : Nat) (m : Mailbox) : (s.setD2h n m).shadow = s.shadow := rfl
@[simp] theorem State.setD2h_ev (s : State) (n : Nat) (m : Mailbox) : (s.setD2h n m).ev = s.ev := rfl
@[simp] theorem State.setD2h_rings (s : State) (n : Nat) (m : Mailbox) : (s.setD2h n m).rings = s.rings := rfl
@[simp] theorem State.setD2h_queues (s : State) (n : Nat) (m : Mailbox) : (s.setD2h n m).queues = s.queues := rfl
@[simp] theorem State.setD2h_ctl (s : State) (n : Nat) (m : Mailbox) : (s.setD2h n m).ctl = s.ctl := rfl
@[simp] theorem State.setD2h_le (s : State) (n : Nat) (m : Mailbox) : (s.setD2h n m).le = s.le := rfl
@[simp] theorem State.setD2h_cip (s : State) (n : Nat) (m : Mailbox) : (s.setD2h n m).cip = s.cip := rfl
@[simp] theorem State.setD2h_pw (s : State) (n : Nat) (m : Mailbox) : (s.setD2h n m).pw = s.pw := rfl
@[simp] theorem State.setD2h_mem (s : State) (n : Nat) (m : Mailbox) : (s.setD2h n m).mem = s.mem := rfl
@[simp] theorem State.setD2h_disp (s : State) (n : Nat) (m : Mailbox) : (s.setD2h n m).disp = s.disp := rfl
@[simp] theorem State.setD2h_mt (s : State) (n : Nat) (m : Mailbox) : (s.setD2h n m).mt = s.mt := rfl
@[simp] theorem State.setD2h_sec (s : State) (n : Nat) (m : Mailbox) : (s.setD2h n m).sec = s.sec := rfl
@[simp] theorem State.setD2h_conf (s : State) (n : Nat) (m : Mailbox) : (s.setD2h n m).conf = s.conf := rfl
@[simp] theorem State.setD2h_ad (s : State) (n : Nat) (m : Mailbox) : (s.setD2h n m).ad = s.ad := rfl
@[simp] theorem State.setD2h_mm (s : State) (n : Nat) (m : Mailbox) : (s.setD2h n m).mm = s.mm := rfl
@[simp] theorem State.setD2h_tw (s : State) (n : Nat) (m : Mailbox) : (s.setD2h n m).tw = s.tw := rfl
@[simp] theorem State.setD2h_fb (s : State) (n : Nat) (m : Mailbox) : (s.setD2h n m).fb = s.fb := rfl
@[simp] theorem State.setD2h_speech (s : State) (n : Nat) (m : Mailbox) : (s.setD2h n m).speech = s.speech := rfl
@[simp] theorem State.setD2h_vd (s : State) (n : Nat) (m : Mailbox) : (s.setD2h n m).vd = s.vd := rfl
@[simp] theorem State.setD2h_cp (s : State) (n : Nat) (m : Mailbox) : (s.setD2h n m).cp = s.cp := rfl
@[simp] theorem State.setD2h_en (s : State) (n : Nat) (m : Mailbox) : (s.setD2h n m).en = s.en := rfl
@[simp] theorem State.setD2h_tm (s : State) (n : Nat) (m : Mailbox) : (s.setD2h n m).tm = s.tm := rfl
@[simp] theorem State.setD2h_ig (s : State) (n : Nat) (m : Mailbox) : (s.setD2h n m).ig = s.ig := rfl

@[simp] theorem State.setVec_pending (s : State) (v : Nat) (e : MsixEntry) : (s.setVec v e).pending = s.pending := rfl
@[simp] theorem State.setVec_out (s : State) (v : Nat) (e : MsixEntry) : (s.setVec v e).out = s.out := rfl
@[simp] theorem State.setVec_mono (s : State) (v : Nat) (e : MsixEntry) : (s.setVec v e).mono = s.mono := rfl
@[simp] theorem State.setVec_tod (s : State) (v : Nat) (e : MsixEntry) : (s.setVec v e).tod = s.tod := rfl
@[simp] theorem State.setVec_draws (s : State) (v : Nat) (e : MsixEntry) : (s.setVec v e).draws = s.draws := rfl
@[simp] theorem State.setVec_season (s : State) (v : Nat) (e : MsixEntry) : (s.setVec v e).season = s.season := rfl
@[simp] theorem State.setVec_dict (s : State) (v : Nat) (e : MsixEntry) : (s.setVec v e).dict = s.dict := rfl
@[simp] theorem State.setVec_shadow (s : State) (v : Nat) (e : MsixEntry) : (s.setVec v e).shadow = s.shadow := rfl
@[simp] theorem State.setVec_ev (s : State) (v : Nat) (e : MsixEntry) : (s.setVec v e).ev = s.ev := rfl
@[simp] theorem State.setVec_rings (s : State) (v : Nat) (e : MsixEntry) : (s.setVec v e).rings = s.rings := rfl
@[simp] theorem State.setVec_queues (s : State) (v : Nat) (e : MsixEntry) : (s.setVec v e).queues = s.queues := rfl
@[simp] theorem State.setVec_ctl (s : State) (v : Nat) (e : MsixEntry) : (s.setVec v e).ctl = s.ctl := rfl
@[simp] theorem State.setVec_le (s : State) (v : Nat) (e : MsixEntry) : (s.setVec v e).le = s.le := rfl
@[simp] theorem State.setVec_cip (s : State) (v : Nat) (e : MsixEntry) : (s.setVec v e).cip = s.cip := rfl
@[simp] theorem State.setVec_pw (s : State) (v : Nat) (e : MsixEntry) : (s.setVec v e).pw = s.pw := rfl
@[simp] theorem State.setVec_mem (s : State) (v : Nat) (e : MsixEntry) : (s.setVec v e).mem = s.mem := rfl
@[simp] theorem State.setVec_disp (s : State) (v : Nat) (e : MsixEntry) : (s.setVec v e).disp = s.disp := rfl
@[simp] theorem State.setVec_mt (s : State) (v : Nat) (e : MsixEntry) : (s.setVec v e).mt = s.mt := rfl
@[simp] theorem State.setVec_sec (s : State) (v : Nat) (e : MsixEntry) : (s.setVec v e).sec = s.sec := rfl
@[simp] theorem State.setVec_conf (s : State) (v : Nat) (e : MsixEntry) : (s.setVec v e).conf = s.conf := rfl
@[simp] theorem State.setVec_ad (s : State) (v : Nat) (e : MsixEntry) : (s.setVec v e).ad = s.ad := rfl
@[simp] theorem State.setVec_mm (s : State) (v : Nat) (e : MsixEntry) : (s.setVec v e).mm = s.mm := rfl
@[simp] theorem State.setVec_tw (s : State) (v : Nat) (e : MsixEntry) : (s.setVec v e).tw = s.tw := rfl
@[simp] theorem State.setVec_fb (s : State) (v : Nat) (e : MsixEntry) : (s.setVec v e).fb = s.fb := rfl
@[simp] theorem State.setVec_speech (s : State) (v : Nat) (e : MsixEntry) : (s.setVec v e).speech = s.speech := rfl
@[simp] theorem State.setVec_vd (s : State) (v : Nat) (e : MsixEntry) : (s.setVec v e).vd = s.vd := rfl
@[simp] theorem State.setVec_cp (s : State) (v : Nat) (e : MsixEntry) : (s.setVec v e).cp = s.cp := rfl
@[simp] theorem State.setVec_en (s : State) (v : Nat) (e : MsixEntry) : (s.setVec v e).en = s.en := rfl
@[simp] theorem State.setVec_tm (s : State) (v : Nat) (e : MsixEntry) : (s.setVec v e).tm = s.tm := rfl
@[simp] theorem State.setVec_ig (s : State) (v : Nat) (e : MsixEntry) : (s.setVec v e).ig = s.ig := rfl

@[simp] theorem State.emit_out (s : State) (o : Out) : (s.emit o).out = o :: s.out := rfl

theorem State.rd_congr {s t : State} (h : t.dict = s.dict) (k : Nat) : t.rd k = s.rd k := by unfold State.rd; rw [h]

@[simp] theorem State.rd_wr_same (s : State) (k v : Nat) : (s.wr k v).rd k = v := AMap.get_put_same ..

theorem State.rd_wr_other (s : State) {j k : Nat} (v : Nat) (h : j ≠ k) : (s.wr k v).rd j = s.rd j := AMap.get_put_other _ _ _ _ h

@[simp] theorem State.rdShadow_wrShadow_same (s : State) (k v : Nat) : (s.wrShadow k v).rdShadow k = v := AMap.get_put_same ..

theorem State.rdShadow_wrShadow_other (s : State) {j k : Nat} (v : Nat) (h : j ≠ k) : (s.wrShadow k v).rdShadow j = s.rdShadow j :=
  AMap.get_put_other _ _ _ _ h

@[simp] theorem State.q_setQ_same (s : State) (n : Nat) (x : Queue) : (s.setQ n x).q n = x := AMap.get_put_same ..

theorem State.q_setQ_other (s : State) {m n : Nat} (x : Queue) (h : m ≠ n) : (s.setQ n x).q m = s.q m := AMap.get_put_other _ _ _ _ h

@[simp] theorem State.ring_setRing_same (s : State) (r : Nat) (x : Ring) : (s.setRing r x).ring r = x := AMap.get_put_same ..

theorem State.ring_setRing_other (s : State) {q r : Nat} (x : Ring) (h : q ≠ r) : (s.setRing r x).ring q = s.ring q :=
  AMap.get_put_other _ _ _ _ h

@[simp] theorem State.h2d_setH2d_same (s : State) (n : Nat) (m : Mailbox) : (s.setH2d n m).h2d n = m := AMap.get_put_same ..

@[simp] theorem State.d2h_setD2h_same (s : State) (n : Nat) (m : Mailbox) : (s.setD2h n m).d2h n = m := AMap.get_put_same ..

@[simp] theorem State.vec_setVec_same (s : State) (v : Nat) (e : MsixEntry) : (s.setVec v e).vec v = e := AMap.get_put_same ..

@[simp] theorem State.rdShadow_wr (s : State) (k v : Nat) (j : Nat) : (s.wr k v).rdShadow j = s.rdShadow j := rfl
@[simp] theorem State.q_wr (s : State) (k v : Nat) (j : Nat) : (s.wr k v).q j = s.q j := rfl
@[simp] theorem State.ring_wr (s : State) (k v : Nat) (j : Nat) : (s.wr k v).ring j = s.ring j := rfl
@[simp] theorem State.h2d_wr (s : State) (k v : Nat) (j : Nat) : (s.wr k v).h2d j = s.h2d j := rfl
@[simp] theorem State.d2h_wr (s : State) (k v : Nat) (j : Nat) : (s.wr k v).d2h j = s.d2h j := rfl
@[simp] theorem State.vec_wr (s : State) (k v : Nat) (j : Nat) : (s.wr k v).vec j = s.vec j := rfl
@[simp] theorem State.rd_wrShadow (s : State) (k v : Nat) (j : Nat) : (s.wrShadow k v).rd j = s.rd j := rfl
@[simp] theorem State.q_wrShadow (s : State) (k v : Nat) (j : Nat) : (s.wrShadow k v).q j = s.q j := rfl
@[simp] theorem State.ring_wrShadow (s : State) (k v : Nat) (j : Nat) : (s.wrShadow k v).ring j = s.ring j := rfl
@[simp] theorem State.h2d_wrShadow (s : State) (k v : Nat) (j : Nat) : (s.wrShadow k v).h2d j = s.h2d j := rfl
@[simp] theorem State.d2h_wrShadow (s : State) (k v : Nat) (j : Nat) : (s.wrShadow k v).d2h j = s.d2h j := rfl
@[simp] theorem State.vec_wrShadow (s : State) (k v : Nat) (j : Nat) : (s.wrShadow k v).vec j = s.vec j := rfl
@[simp] theorem State.rd_setQ (s : State) (n : Nat) (q : Queue) (j : Nat) : (s.setQ n q).rd j = s.rd j := rfl
@[simp] theorem State.rdShadow_setQ (s : State) (n : Nat) (q : Queue) (j : Nat) : (s.setQ n q).rdShadow j = s.rdShadow j := rfl
@[simp] theorem State.ring_setQ (s : State) (n : Nat) (q : Queue) (j : Nat) : (s.setQ n q).ring j = s.ring j := rfl
@[simp] theorem State.h2d_setQ (s : State) (n : Nat) (q : Queue) (j : Nat) : (s.setQ n q).h2d j = s.h2d j := rfl
@[simp] theorem State.d2h_setQ (s : State) (n : Nat) (q : Queue) (j : Nat) : (s.setQ n q).d2h j = s.d2h j := rfl
@[simp] theorem State.vec_setQ (s : State) (n : Nat) (q : Queue) (j : Nat) : (s.setQ n q).vec j = s.vec j := rfl
@[simp] theorem State.rd_setRing (s : State) (r : Nat) (x : Ring) (j : Nat) : (s.setRing r x).rd j = s.rd j := rfl
@[simp] theorem State.rdShadow_setRing (s : State) (r : Nat) (x : Ring) (j : Nat) : (s.setRing r x).rdShadow j = s.rdShadow j := rfl
@[simp] theorem State.q_setRing (s : State) (r : Nat) (x : Ring) (j : Nat) : (s.setRing r x).q j = s.q j := rfl
@[simp] theorem State.h2d_setRing (s : State) (r : Nat) (x : Ring) (j : Nat) : (s.setRing r x).h2d j = s.h2d j := rfl
@[simp] theorem State.d2h_setRing (s : State) (r : Nat) (x : Ring) (j : Nat) : (s.setRing r x).d2h j = s.d2h j := rfl
@[simp] theorem State.vec_setRing (s : State) (r : Nat) (x : Ring) (j : Nat) : (s.setRing r x).vec j = s.vec j := rfl
@[simp] theorem State.rd_emit (s : State) (o : Out) (j : Nat) : (s.emit o).rd j = s.rd j := rfl
@[simp] theorem State.rdShadow_emit (s : State) (o : Out) (j : Nat) : (s.emit o).rdShadow j = s.rdShadow j := rfl
@[simp] theorem State.q_emit (s : State) (o : Out) (j : Nat) : (s.emit o).q j = s.q j := rfl
@[simp] theorem State.ring_emit (s : State) (o : Out) (j : Nat) : (s.emit o).ring j = s.ring j := rfl
@[simp] theorem State.h2d_emit (s : State) (o : Out) (j : Nat) : (s.emit o).h2d j = s.h2d j := rfl
@[simp] theorem State.d2h_emit (s : State) (o : Out) (j : Nat) : (s.emit o).d2h j = s.d2h j := rfl
@[simp] theorem State.vec_emit (s : State) (o : Out) (j : Nat) : (s.emit o).vec j = s.vec j := rfl
@[simp] theorem State.rd_setH2d (s : State) (n : Nat) (m : Mailbox) (j : Nat) : (s.setH2d n m).rd j = s.rd j := rfl
@[simp] theorem State.rdShadow_setH2d (s : State) (n : Nat) (m : Mailbox) (j : Nat) : (s.setH2d n m).rdShadow j = s.rdShadow j := rfl
@[simp] theorem State.q_setH2d (s : State) (n : Nat) (m : Mailbox) (j : Nat) : (s.setH2d n m).q j = s.q j := rfl
@[simp] theorem State.ring_setH2d (s : State) (n : Nat) (m : Mailbox) (j : Nat) : (s.setH2d n m).ring j = s.ring j := rfl
@[simp] theorem State.rd_setD2h (s : State) (n : Nat) (m : Mailbox) (j : Nat) : (s.setD2h n m).rd j = s.rd j := rfl
@[simp] theorem State.rdShadow_setD2h (s : State) (n : Nat) (m : Mailbox) (j : Nat) : (s.setD2h n m).rdShadow j = s.rdShadow j := rfl
@[simp] theorem State.q_setD2h (s : State) (n : Nat) (m : Mailbox) (j : Nat) : (s.setD2h n m).q j = s.q j := rfl
@[simp] theorem State.ring_setD2h (s : State) (n : Nat) (m : Mailbox) (j : Nat) : (s.setD2h n m).ring j = s.ring j := rfl
@[simp] theorem State.rd_setVec (s : State) (v : Nat) (e : MsixEntry) (j : Nat) : (s.setVec v e).rd j = s.rd j := rfl
@[simp] theorem State.rdShadow_setVec (s : State) (v : Nat) (e : MsixEntry) (j : Nat) : (s.setVec v e).rdShadow j = s.rdShadow j := rfl
@[simp] theorem State.q_setVec (s : State) (v : Nat) (e : MsixEntry) (j : Nat) : (s.setVec v e).q j = s.q j := rfl
@[simp] theorem State.ring_setVec (s : State) (v : Nat) (e : MsixEntry) (j : Nat) : (s.setVec v e).ring j = s.ring j := rfl
@[simp] theorem State.h2d_setD2h (s : State) (n : Nat) (m : Mailbox) (j : Nat) : (s.setD2h n m).h2d j = s.h2d j := rfl
@[simp] theorem State.d2h_setH2d (s : State) (n : Nat) (m : Mailbox) (j : Nat) : (s.setH2d n m).d2h j = s.d2h j := rfl
@[simp] theorem State.vec_setH2d (s : State) (n : Nat) (m : Mailbox) (j : Nat) : (s.setH2d n m).vec j = s.vec j := rfl
@[simp] theorem State.vec_setD2h (s : State) (n : Nat) (m : Mailbox) (j : Nat) : (s.setD2h n m).vec j = s.vec j := rfl
@[simp] theorem State.h2d_setVec (s : State) (v : Nat) (e : MsixEntry) (j : Nat) : (s.setVec v e).h2d j = s.h2d j := rfl
@[simp] theorem State.d2h_setVec (s : State) (v : Nat) (e : MsixEntry) (j : Nat) : (s.setVec v e).d2h j = s.d2h j := rfl
@[simp] theorem State.setH2d_hif_d2h (s : State) (n : Nat) (m : Mailbox) : (s.setH2d n m).hif.d2h = s.hif.d2h := rfl
@[simp] theorem State.setH2d_hif_unmapped (s : State) (n : Nat) (m : Mailbox) : (s.setH2d n m).hif.unmapped = s.hif.unmapped := rfl
@[simp] theorem State.setH2d_hif_bar2Denied (s : State) (n : Nat) (m : Mailbox) : (s.setH2d n m).hif.bar2Denied = s.hif.bar2Denied := rfl
@[simp] theorem State.setH2d_hif_scratch (s : State) (n : Nat) (m : Mailbox) : (s.setH2d n m).hif.scratch = s.hif.scratch := rfl
@[simp] theorem State.setH2d_hif_irqCause (s : State) (n : Nat) (m : Mailbox) : (s.setH2d n m).hif.irqCause = s.hif.irqCause := rfl
@[simp] theorem State.setH2d_hif_irqEnable (s : State) (n : Nat) (m : Mailbox) : (s.setH2d n m).hif.irqEnable = s.hif.irqEnable := rfl
@[simp] theorem State.setH2d_hif_dmaErrAddr (s : State) (n : Nat) (m : Mailbox) : (s.setH2d n m).hif.dmaErrAddr = s.hif.dmaErrAddr := rfl
@[simp] theorem State.setH2d_hif_dmaErrCause (s : State) (n : Nat) (m : Mailbox) : (s.setH2d n m).hif.dmaErrCause = s.hif.dmaErrCause := rfl
@[simp] theorem State.setH2d_hif_flrDone (s : State) (n : Nat) (m : Mailbox) : (s.setH2d n m).hif.flrDone = s.hif.flrDone := rfl
@[simp] theorem State.setH2d_hif_msixEnable (s : State) (n : Nat) (m : Mailbox) : (s.setH2d n m).hif.msixEnable = s.hif.msixEnable := rfl
@[simp] theorem State.setH2d_hif_msix (s : State) (n : Nat) (m : Mailbox) : (s.setH2d n m).hif.msix = s.hif.msix := rfl
@[simp] theorem State.setH2d_hif_xfers (s : State) (n : Nat) (m : Mailbox) : (s.setH2d n m).hif.xfers = s.hif.xfers := rfl
@[simp] theorem State.setH2d_hif_aerCompleterAborts (s : State) (n : Nat) (m : Mailbox) : (s.setH2d n m).hif.aerCompleterAborts = s.hif.aerCompleterAborts := rfl
@[simp] theorem State.setH2d_hif_cfg (s : State) (n : Nat) (m : Mailbox) : (s.setH2d n m).hif.cfg = s.hif.cfg := rfl
@[simp] theorem State.setH2d_hif_held (s : State) (n : Nat) (m : Mailbox) : (s.setH2d n m).hif.held = s.hif.held := rfl
@[simp] theorem State.setD2h_hif_h2d (s : State) (n : Nat) (m : Mailbox) : (s.setD2h n m).hif.h2d = s.hif.h2d := rfl
@[simp] theorem State.setD2h_hif_unmapped (s : State) (n : Nat) (m : Mailbox) : (s.setD2h n m).hif.unmapped = s.hif.unmapped := rfl
@[simp] theorem State.setD2h_hif_bar2Denied (s : State) (n : Nat) (m : Mailbox) : (s.setD2h n m).hif.bar2Denied = s.hif.bar2Denied := rfl
@[simp] theorem State.setD2h_hif_scratch (s : State) (n : Nat) (m : Mailbox) : (s.setD2h n m).hif.scratch = s.hif.scratch := rfl
@[simp] theorem State.setD2h_hif_irqCause (s : State) (n : Nat) (m : Mailbox) : (s.setD2h n m).hif.irqCause = s.hif.irqCause := rfl
@[simp] theorem State.setD2h_hif_irqEnable (s : State) (n : Nat) (m : Mailbox) : (s.setD2h n m).hif.irqEnable = s.hif.irqEnable := rfl
@[simp] theorem State.setD2h_hif_dmaErrAddr (s : State) (n : Nat) (m : Mailbox) : (s.setD2h n m).hif.dmaErrAddr = s.hif.dmaErrAddr := rfl
@[simp] theorem State.setD2h_hif_dmaErrCause (s : State) (n : Nat) (m : Mailbox) : (s.setD2h n m).hif.dmaErrCause = s.hif.dmaErrCause := rfl
@[simp] theorem State.setD2h_hif_flrDone (s : State) (n : Nat) (m : Mailbox) : (s.setD2h n m).hif.flrDone = s.hif.flrDone := rfl
@[simp] theorem State.setD2h_hif_msixEnable (s : State) (n : Nat) (m : Mailbox) : (s.setD2h n m).hif.msixEnable = s.hif.msixEnable := rfl
@[simp] theorem State.setD2h_hif_msix (s : State) (n : Nat) (m : Mailbox) : (s.setD2h n m).hif.msix = s.hif.msix := rfl
@[simp] theorem State.setD2h_hif_xfers (s : State) (n : Nat) (m : Mailbox) : (s.setD2h n m).hif.xfers = s.hif.xfers := rfl
@[simp] theorem State.setD2h_hif_aerCompleterAborts (s : State) (n : Nat) (m : Mailbox) : (s.setD2h n m).hif.aerCompleterAborts = s.hif.aerCompleterAborts := rfl
@[simp] theorem State.setD2h_hif_cfg (s : State) (n : Nat) (m : Mailbox) : (s.setD2h n m).hif.cfg = s.hif.cfg := rfl
@[simp] theorem State.setD2h_hif_held (s : State) (n : Nat) (m : Mailbox) : (s.setD2h n m).hif.held = s.hif.held := rfl
@[simp] theorem State.setVec_hif_h2d (s : State) (v : Nat) (e : MsixEntry) : (s.setVec v e).hif.h2d = s.hif.h2d := rfl
@[simp] theorem State.setVec_hif_d2h (s : State) (v : Nat) (e : MsixEntry) : (s.setVec v e).hif.d2h = s.hif.d2h := rfl
@[simp] theorem State.setVec_hif_unmapped (s : State) (v : Nat) (e : MsixEntry) : (s.setVec v e).hif.unmapped = s.hif.unmapped := rfl
@[simp] theorem State.setVec_hif_bar2Denied (s : State) (v : Nat) (e : MsixEntry) : (s.setVec v e).hif.bar2Denied = s.hif.bar2Denied := rfl
@[simp] theorem State.setVec_hif_scratch (s : State) (v : Nat) (e : MsixEntry) : (s.setVec v e).hif.scratch = s.hif.scratch := rfl
@[simp] theorem State.setVec_hif_irqCause (s : State) (v : Nat) (e : MsixEntry) : (s.setVec v e).hif.irqCause = s.hif.irqCause := rfl
@[simp] theorem State.setVec_hif_irqEnable (s : State) (v : Nat) (e : MsixEntry) : (s.setVec v e).hif.irqEnable = s.hif.irqEnable := rfl
@[simp] theorem State.setVec_hif_dmaErrAddr (s : State) (v : Nat) (e : MsixEntry) : (s.setVec v e).hif.dmaErrAddr = s.hif.dmaErrAddr := rfl
@[simp] theorem State.setVec_hif_dmaErrCause (s : State) (v : Nat) (e : MsixEntry) : (s.setVec v e).hif.dmaErrCause = s.hif.dmaErrCause := rfl
@[simp] theorem State.setVec_hif_flrDone (s : State) (v : Nat) (e : MsixEntry) : (s.setVec v e).hif.flrDone = s.hif.flrDone := rfl
@[simp] theorem State.setVec_hif_msixEnable (s : State) (v : Nat) (e : MsixEntry) : (s.setVec v e).hif.msixEnable = s.hif.msixEnable := rfl
@[simp] theorem State.setVec_hif_xfers (s : State) (v : Nat) (e : MsixEntry) : (s.setVec v e).hif.xfers = s.hif.xfers := rfl
@[simp] theorem State.setVec_hif_aerCompleterAborts (s : State) (v : Nat) (e : MsixEntry) : (s.setVec v e).hif.aerCompleterAborts = s.hif.aerCompleterAborts := rfl
@[simp] theorem State.setVec_hif_cfg (s : State) (v : Nat) (e : MsixEntry) : (s.setVec v e).hif.cfg = s.hif.cfg := rfl
@[simp] theorem State.setVec_hif_held (s : State) (v : Nat) (e : MsixEntry) : (s.setVec v e).hif.held = s.hif.held := rfl

end Sys2Proof.Machine
end

