-- ==== Sys2Proof/Laws/Irq.lean ====
section
/-! SUPPORT. An interrupt source's change touches the MSI-X table and the output alone (R84). -/

namespace Sys2Proof.Machine

/-- The state after an interrupt edge is the state before it but for MSI-X entries and messages sent. -/
theorem irqEdge_eq (src : IrqSource) (b a : State) :
    ∃ m o, irqEdge src b a = { a with hif := { a.hif with msix := m }, out := o } := by
  unfold irqEdge State.signal State.sendMsix
  dsimp only
  repeat' split
  all_goals exact ⟨_, _, rfl⟩

@[simp] theorem irqEdge_pending (src : IrqSource) (b a : State) : (irqEdge src b a).pending = a.pending := by
  obtain ⟨m, o, h⟩ := irqEdge_eq src b a; rw [h]
@[simp] theorem irqEdge_mono (src : IrqSource) (b a : State) : (irqEdge src b a).mono = a.mono := by
  obtain ⟨m, o, h⟩ := irqEdge_eq src b a; rw [h]
@[simp] theorem irqEdge_tod (src : IrqSource) (b a : State) : (irqEdge src b a).tod = a.tod := by
  obtain ⟨m, o, h⟩ := irqEdge_eq src b a; rw [h]
@[simp] theorem irqEdge_draws (src : IrqSource) (b a : State) : (irqEdge src b a).draws = a.draws := by
  obtain ⟨m, o, h⟩ := irqEdge_eq src b a; rw [h]
@[simp] theorem irqEdge_season (src : IrqSource) (b a : State) : (irqEdge src b a).season = a.season := by
  obtain ⟨m, o, h⟩ := irqEdge_eq src b a; rw [h]
@[simp] theorem irqEdge_dict (src : IrqSource) (b a : State) : (irqEdge src b a).dict = a.dict := by
  obtain ⟨m, o, h⟩ := irqEdge_eq src b a; rw [h]
@[simp] theorem irqEdge_shadow (src : IrqSource) (b a : State) : (irqEdge src b a).shadow = a.shadow := by
  obtain ⟨m, o, h⟩ := irqEdge_eq src b a; rw [h]
@[simp] theorem irqEdge_ev (src : IrqSource) (b a : State) : (irqEdge src b a).ev = a.ev := by
  obtain ⟨m, o, h⟩ := irqEdge_eq src b a; rw [h]
@[simp] theorem irqEdge_rings (src : IrqSource) (b a : State) : (irqEdge src b a).rings = a.rings := by
  obtain ⟨m, o, h⟩ := irqEdge_eq src b a; rw [h]
@[simp] theorem irqEdge_queues (src : IrqSource) (b a : State) : (irqEdge src b a).queues = a.queues := by
  obtain ⟨m, o, h⟩ := irqEdge_eq src b a; rw [h]
@[simp] theorem irqEdge_ctl (src : IrqSource) (b a : State) : (irqEdge src b a).ctl = a.ctl := by
  obtain ⟨m, o, h⟩ := irqEdge_eq src b a; rw [h]
@[simp] theorem irqEdge_le (src : IrqSource) (b a : State) : (irqEdge src b a).le = a.le := by
  obtain ⟨m, o, h⟩ := irqEdge_eq src b a; rw [h]
@[simp] theorem irqEdge_cip (src : IrqSource) (b a : State) : (irqEdge src b a).cip = a.cip := by
  obtain ⟨m, o, h⟩ := irqEdge_eq src b a; rw [h]
@[simp] theorem irqEdge_pw (src : IrqSource) (b a : State) : (irqEdge src b a).pw = a.pw := by
  obtain ⟨m, o, h⟩ := irqEdge_eq src b a; rw [h]
@[simp] theorem irqEdge_mem (src : IrqSource) (b a : State) : (irqEdge src b a).mem = a.mem := by
  obtain ⟨m, o, h⟩ := irqEdge_eq src b a; rw [h]
@[simp] theorem irqEdge_disp (src : IrqSource) (b a : State) : (irqEdge src b a).disp = a.disp := by
  obtain ⟨m, o, h⟩ := irqEdge_eq src b a; rw [h]
@[simp] theorem irqEdge_mt (src : IrqSource) (b a : State) : (irqEdge src b a).mt = a.mt := by
  obtain ⟨m, o, h⟩ := irqEdge_eq src b a; rw [h]
@[simp] theorem irqEdge_sec (src : IrqSource) (b a : State) : (irqEdge src b a).sec = a.sec := by
  obtain ⟨m, o, h⟩ := irqEdge_eq src b a; rw [h]
@[simp] theorem irqEdge_conf (src : IrqSource) (b a : State) : (irqEdge src b a).conf = a.conf := by
  obtain ⟨m, o, h⟩ := irqEdge_eq src b a; rw [h]
@[simp] theorem irqEdge_ad (src : IrqSource) (b a : State) : (irqEdge src b a).ad = a.ad := by
  obtain ⟨m, o, h⟩ := irqEdge_eq src b a; rw [h]
@[simp] theorem irqEdge_mm (src : IrqSource) (b a : State) : (irqEdge src b a).mm = a.mm := by
  obtain ⟨m, o, h⟩ := irqEdge_eq src b a; rw [h]
@[simp] theorem irqEdge_tw (src : IrqSource) (b a : State) : (irqEdge src b a).tw = a.tw := by
  obtain ⟨m, o, h⟩ := irqEdge_eq src b a; rw [h]
@[simp] theorem irqEdge_fb (src : IrqSource) (b a : State) : (irqEdge src b a).fb = a.fb := by
  obtain ⟨m, o, h⟩ := irqEdge_eq src b a; rw [h]
@[simp] theorem irqEdge_speech (src : IrqSource) (b a : State) : (irqEdge src b a).speech = a.speech := by
  obtain ⟨m, o, h⟩ := irqEdge_eq src b a; rw [h]
@[simp] theorem irqEdge_vd (src : IrqSource) (b a : State) : (irqEdge src b a).vd = a.vd := by
  obtain ⟨m, o, h⟩ := irqEdge_eq src b a; rw [h]
@[simp] theorem irqEdge_cp (src : IrqSource) (b a : State) : (irqEdge src b a).cp = a.cp := by
  obtain ⟨m, o, h⟩ := irqEdge_eq src b a; rw [h]
@[simp] theorem irqEdge_en (src : IrqSource) (b a : State) : (irqEdge src b a).en = a.en := by
  obtain ⟨m, o, h⟩ := irqEdge_eq src b a; rw [h]
@[simp] theorem irqEdge_tm (src : IrqSource) (b a : State) : (irqEdge src b a).tm = a.tm := by
  obtain ⟨m, o, h⟩ := irqEdge_eq src b a; rw [h]
@[simp] theorem irqEdge_ig (src : IrqSource) (b a : State) : (irqEdge src b a).ig = a.ig := by
  obtain ⟨m, o, h⟩ := irqEdge_eq src b a; rw [h]
@[simp] theorem irqEdge_hif_h2d (src : IrqSource) (b a : State) : (irqEdge src b a).hif.h2d = a.hif.h2d := by
  obtain ⟨m, o, h⟩ := irqEdge_eq src b a; rw [h]
@[simp] theorem irqEdge_hif_d2h (src : IrqSource) (b a : State) : (irqEdge src b a).hif.d2h = a.hif.d2h := by
  obtain ⟨m, o, h⟩ := irqEdge_eq src b a; rw [h]
@[simp] theorem irqEdge_hif_unmapped (src : IrqSource) (b a : State) : (irqEdge src b a).hif.unmapped = a.hif.unmapped := by
  obtain ⟨m, o, h⟩ := irqEdge_eq src b a; rw [h]
@[simp] theorem irqEdge_hif_bar2Denied (src : IrqSource) (b a : State) : (irqEdge src b a).hif.bar2Denied = a.hif.bar2Denied := by
  obtain ⟨m, o, h⟩ := irqEdge_eq src b a; rw [h]
@[simp] theorem irqEdge_hif_scratch (src : IrqSource) (b a : State) : (irqEdge src b a).hif.scratch = a.hif.scratch := by
  obtain ⟨m, o, h⟩ := irqEdge_eq src b a; rw [h]
@[simp] theorem irqEdge_hif_irqCause (src : IrqSource) (b a : State) : (irqEdge src b a).hif.irqCause = a.hif.irqCause := by
  obtain ⟨m, o, h⟩ := irqEdge_eq src b a; rw [h]
@[simp] theorem irqEdge_hif_irqEnable (src : IrqSource) (b a : State) : (irqEdge src b a).hif.irqEnable = a.hif.irqEnable := by
  obtain ⟨m, o, h⟩ := irqEdge_eq src b a; rw [h]
@[simp] theorem irqEdge_hif_dmaErrAddr (src : IrqSource) (b a : State) : (irqEdge src b a).hif.dmaErrAddr = a.hif.dmaErrAddr := by
  obtain ⟨m, o, h⟩ := irqEdge_eq src b a; rw [h]
@[simp] theorem irqEdge_hif_dmaErrCause (src : IrqSource) (b a : State) : (irqEdge src b a).hif.dmaErrCause = a.hif.dmaErrCause := by
  obtain ⟨m, o, h⟩ := irqEdge_eq src b a; rw [h]
@[simp] theorem irqEdge_hif_flrDone (src : IrqSource) (b a : State) : (irqEdge src b a).hif.flrDone = a.hif.flrDone := by
  obtain ⟨m, o, h⟩ := irqEdge_eq src b a; rw [h]
@[simp] theorem irqEdge_hif_msixEnable (src : IrqSource) (b a : State) : (irqEdge src b a).hif.msixEnable = a.hif.msixEnable := by
  obtain ⟨m, o, h⟩ := irqEdge_eq src b a; rw [h]
@[simp] theorem irqEdge_hif_xfers (src : IrqSource) (b a : State) : (irqEdge src b a).hif.xfers = a.hif.xfers := by
  obtain ⟨m, o, h⟩ := irqEdge_eq src b a; rw [h]
@[simp] theorem irqEdge_hif_aerCompleterAborts (src : IrqSource) (b a : State) : (irqEdge src b a).hif.aerCompleterAborts = a.hif.aerCompleterAborts := by
  obtain ⟨m, o, h⟩ := irqEdge_eq src b a; rw [h]
@[simp] theorem irqEdge_hif_cfg (src : IrqSource) (b a : State) : (irqEdge src b a).hif.cfg = a.hif.cfg := by
  obtain ⟨m, o, h⟩ := irqEdge_eq src b a; rw [h]
@[simp] theorem irqEdge_hif_held (src : IrqSource) (b a : State) : (irqEdge src b a).hif.held = a.hif.held := by
  obtain ⟨m, o, h⟩ := irqEdge_eq src b a; rw [h]
@[simp] theorem irqEdge_rd (src : IrqSource) (b a : State) (k : Nat) : (irqEdge src b a).rd k = a.rd k := by
  obtain ⟨m, o, h⟩ := irqEdge_eq src b a; rw [h]; rfl
@[simp] theorem irqEdge_rdShadow (src : IrqSource) (b a : State) (k : Nat) : (irqEdge src b a).rdShadow k = a.rdShadow k := by
  obtain ⟨m, o, h⟩ := irqEdge_eq src b a; rw [h]; rfl
@[simp] theorem irqEdge_q (src : IrqSource) (b a : State) (n : Nat) : (irqEdge src b a).q n = a.q n := by
  obtain ⟨m, o, h⟩ := irqEdge_eq src b a; rw [h]; rfl
@[simp] theorem irqEdge_ring (src : IrqSource) (b a : State) (n : Nat) : (irqEdge src b a).ring n = a.ring n := by
  obtain ⟨m, o, h⟩ := irqEdge_eq src b a; rw [h]; rfl
@[simp] theorem irqEdge_h2d (src : IrqSource) (b a : State) (n : Nat) : (irqEdge src b a).h2d n = a.h2d n := by
  obtain ⟨m, o, h⟩ := irqEdge_eq src b a; rw [h]; rfl
@[simp] theorem irqEdge_d2h (src : IrqSource) (b a : State) (n : Nat) : (irqEdge src b a).d2h n = a.d2h n := by
  obtain ⟨m, o, h⟩ := irqEdge_eq src b a; rw [h]; rfl
@[simp] theorem withIrq_pending (src : IrqSource) (f : State → State) (s : State) : (withIrq src f s).pending = (f s).pending :=
  irqEdge_pending src s (f s)
@[simp] theorem withIrq_mono (src : IrqSource) (f : State → State) (s : State) : (withIrq src f s).mono = (f s).mono :=
  irqEdge_mono src s (f s)
@[simp] theorem withIrq_tod (src : IrqSource) (f : State → State) (s : State) : (withIrq src f s).tod = (f s).tod :=
  irqEdge_tod src s (f s)
@[simp] theorem withIrq_draws (src : IrqSource) (f : State → State) (s : State) : (withIrq src f s).draws = (f s).draws :=
  irqEdge_draws src s (f s)
@[simp] theorem withIrq_season (src : IrqSource) (f : State → State) (s : State) : (withIrq src f s).season = (f s).season :=
  irqEdge_season src s (f s)
@[simp] theorem withIrq_dict (src : IrqSource) (f : State → State) (s : State) : (withIrq src f s).dict = (f s).dict :=
  irqEdge_dict src s (f s)
@[simp] theorem withIrq_shadow (src : IrqSource) (f : State → State) (s : State) : (withIrq src f s).shadow = (f s).shadow :=
  irqEdge_shadow src s (f s)
@[simp] theorem withIrq_ev (src : IrqSource) (f : State → State) (s : State) : (withIrq src f s).ev = (f s).ev :=
  irqEdge_ev src s (f s)
@[simp] theorem withIrq_rings (src : IrqSource) (f : State → State) (s : State) : (withIrq src f s).rings = (f s).rings :=
  irqEdge_rings src s (f s)
@[simp] theorem withIrq_queues (src : IrqSource) (f : State → State) (s : State) : (withIrq src f s).queues = (f s).queues :=
  irqEdge_queues src s (f s)
@[simp] theorem withIrq_ctl (src : IrqSource) (f : State → State) (s : State) : (withIrq src f s).ctl = (f s).ctl :=
  irqEdge_ctl src s (f s)
@[simp] theorem withIrq_le (src : IrqSource) (f : State → State) (s : State) : (withIrq src f s).le = (f s).le :=
  irqEdge_le src s (f s)
@[simp] theorem withIrq_cip (src : IrqSource) (f : State → State) (s : State) : (withIrq src f s).cip = (f s).cip :=
  irqEdge_cip src s (f s)
@[simp] theorem withIrq_pw (src : IrqSource) (f : State → State) (s : State) : (withIrq src f s).pw = (f s).pw :=
  irqEdge_pw src s (f s)
@[simp] theorem withIrq_mem (src : IrqSource) (f : State → State) (s : State) : (withIrq src f s).mem = (f s).mem :=
  irqEdge_mem src s (f s)
@[simp] theorem withIrq_disp (src : IrqSource) (f : State → State) (s : State) : (withIrq src f s).disp = (f s).disp :=
  irqEdge_disp src s (f s)
@[simp] theorem withIrq_mt (src : IrqSource) (f : State → State) (s : State) : (withIrq src f s).mt = (f s).mt :=
  irqEdge_mt src s (f s)
@[simp] theorem withIrq_sec (src : IrqSource) (f : State → State) (s : State) : (withIrq src f s).sec = (f s).sec :=
  irqEdge_sec src s (f s)
@[simp] theorem withIrq_conf (src : IrqSource) (f : State → State) (s : State) : (withIrq src f s).conf = (f s).conf :=
  irqEdge_conf src s (f s)
@[simp] theorem withIrq_ad (src : IrqSource) (f : State → State) (s : State) : (withIrq src f s).ad = (f s).ad :=
  irqEdge_ad src s (f s)
@[simp] theorem withIrq_mm (src : IrqSource) (f : State → State) (s : State) : (withIrq src f s).mm = (f s).mm :=
  irqEdge_mm src s (f s)
@[simp] theorem withIrq_tw (src : IrqSource) (f : State → State) (s : State) : (withIrq src f s).tw = (f s).tw :=
  irqEdge_tw src s (f s)
@[simp] theorem withIrq_fb (src : IrqSource) (f : State → State) (s : State) : (withIrq src f s).fb = (f s).fb :=
  irqEdge_fb src s (f s)
@[simp] theorem withIrq_speech (src : IrqSource) (f : State → State) (s : State) : (withIrq src f s).speech = (f s).speech :=
  irqEdge_speech src s (f s)
@[simp] theorem withIrq_vd (src : IrqSource) (f : State → State) (s : State) : (withIrq src f s).vd = (f s).vd :=
  irqEdge_vd src s (f s)
@[simp] theorem withIrq_cp (src : IrqSource) (f : State → State) (s : State) : (withIrq src f s).cp = (f s).cp :=
  irqEdge_cp src s (f s)
@[simp] theorem withIrq_en (src : IrqSource) (f : State → State) (s : State) : (withIrq src f s).en = (f s).en :=
  irqEdge_en src s (f s)
@[simp] theorem withIrq_tm (src : IrqSource) (f : State → State) (s : State) : (withIrq src f s).tm = (f s).tm :=
  irqEdge_tm src s (f s)
@[simp] theorem withIrq_ig (src : IrqSource) (f : State → State) (s : State) : (withIrq src f s).ig = (f s).ig :=
  irqEdge_ig src s (f s)
@[simp] theorem withIrq_hif_h2d (src : IrqSource) (f : State → State) (s : State) : (withIrq src f s).hif.h2d = (f s).hif.h2d :=
  irqEdge_hif_h2d src s (f s)
@[simp] theorem withIrq_hif_d2h (src : IrqSource) (f : State → State) (s : State) : (withIrq src f s).hif.d2h = (f s).hif.d2h :=
  irqEdge_hif_d2h src s (f s)
@[simp] theorem withIrq_hif_unmapped (src : IrqSource) (f : State → State) (s : State) : (withIrq src f s).hif.unmapped = (f s).hif.unmapped :=
  irqEdge_hif_unmapped src s (f s)
@[simp] theorem withIrq_hif_bar2Denied (src : IrqSource) (f : State → State) (s : State) : (withIrq src f s).hif.bar2Denied = (f s).hif.bar2Denied :=
  irqEdge_hif_bar2Denied src s (f s)
@[simp] theorem withIrq_hif_scratch (src : IrqSource) (f : State → State) (s : State) : (withIrq src f s).hif.scratch = (f s).hif.scratch :=
  irqEdge_hif_scratch src s (f s)
@[simp] theorem withIrq_hif_irqCause (src : IrqSource) (f : State → State) (s : State) : (withIrq src f s).hif.irqCause = (f s).hif.irqCause :=
  irqEdge_hif_irqCause src s (f s)
@[simp] theorem withIrq_hif_irqEnable (src : IrqSource) (f : State → State) (s : State) : (withIrq src f s).hif.irqEnable = (f s).hif.irqEnable :=
  irqEdge_hif_irqEnable src s (f s)
@[simp] theorem withIrq_hif_dmaErrAddr (src : IrqSource) (f : State → State) (s : State) : (withIrq src f s).hif.dmaErrAddr = (f s).hif.dmaErrAddr :=
  irqEdge_hif_dmaErrAddr src s (f s)
@[simp] theorem withIrq_hif_dmaErrCause (src : IrqSource) (f : State → State) (s : State) : (withIrq src f s).hif.dmaErrCause = (f s).hif.dmaErrCause :=
  irqEdge_hif_dmaErrCause src s (f s)
@[simp] theorem withIrq_hif_flrDone (src : IrqSource) (f : State → State) (s : State) : (withIrq src f s).hif.flrDone = (f s).hif.flrDone :=
  irqEdge_hif_flrDone src s (f s)
@[simp] theorem withIrq_hif_msixEnable (src : IrqSource) (f : State → State) (s : State) : (withIrq src f s).hif.msixEnable = (f s).hif.msixEnable :=
  irqEdge_hif_msixEnable src s (f s)
@[simp] theorem withIrq_hif_xfers (src : IrqSource) (f : State → State) (s : State) : (withIrq src f s).hif.xfers = (f s).hif.xfers :=
  irqEdge_hif_xfers src s (f s)
@[simp] theorem withIrq_hif_aerCompleterAborts (src : IrqSource) (f : State → State) (s : State) : (withIrq src f s).hif.aerCompleterAborts = (f s).hif.aerCompleterAborts :=
  irqEdge_hif_aerCompleterAborts src s (f s)
@[simp] theorem withIrq_hif_cfg (src : IrqSource) (f : State → State) (s : State) : (withIrq src f s).hif.cfg = (f s).hif.cfg :=
  irqEdge_hif_cfg src s (f s)
@[simp] theorem withIrq_hif_held (src : IrqSource) (f : State → State) (s : State) : (withIrq src f s).hif.held = (f s).hif.held :=
  irqEdge_hif_held src s (f s)
@[simp] theorem withIrq_rd (src : IrqSource) (f : State → State) (s : State) (k : Nat) : (withIrq src f s).rd k = (f s).rd k :=
  irqEdge_rd src s (f s) k
@[simp] theorem withIrq_rdShadow (src : IrqSource) (f : State → State) (s : State) (k : Nat) : (withIrq src f s).rdShadow k = (f s).rdShadow k :=
  irqEdge_rdShadow src s (f s) k
@[simp] theorem withIrq_q (src : IrqSource) (f : State → State) (s : State) (n : Nat) : (withIrq src f s).q n = (f s).q n :=
  irqEdge_q src s (f s) n
@[simp] theorem withIrq_ring (src : IrqSource) (f : State → State) (s : State) (n : Nat) : (withIrq src f s).ring n = (f s).ring n :=
  irqEdge_ring src s (f s) n
@[simp] theorem withIrq_h2d (src : IrqSource) (f : State → State) (s : State) (n : Nat) : (withIrq src f s).h2d n = (f s).h2d n :=
  irqEdge_h2d src s (f s) n
@[simp] theorem withIrq_d2h (src : IrqSource) (f : State → State) (s : State) (n : Nat) : (withIrq src f s).d2h n = (f s).d2h n :=
  irqEdge_d2h src s (f s) n

end Sys2Proof.Machine
end

