-- ==== Sys2Proof/Laws/Told.lean ====
section
/-! SUPPORT. What raising an event, an interrupt or an answer in a mailbox leaves alone: everything but the host's side, the log and
the log's counters. -/

namespace Sys2Proof.Machine

set_option linter.unusedTactic false
set_option linter.unreachableTactic false
set_option linter.unusedSimpArgs false
set_option linter.unusedVariables false

/-- From `s` to `t` only the log, the host interface, rings, queues, output and objects of index 0xE010 may differ. -/
structure Told (s t : State) : Prop where
  pending : t.pending = s.pending
  mono : t.mono = s.mono
  tod : t.tod = s.tod
  draws : t.draws = s.draws
  season : t.season = s.season
  shadow : t.shadow = s.shadow
  ctl : t.ctl = s.ctl
  le : t.le = s.le
  cip : t.cip = s.cip
  pw : t.pw = s.pw
  mem : t.mem = s.mem
  disp : t.disp = s.disp
  mt : t.mt = s.mt
  sec : t.sec = s.sec
  conf : t.conf = s.conf
  ad : t.ad = s.ad
  mm : t.mm = s.mm
  tw : t.tw = s.tw
  fb : t.fb = s.fb
  speech : t.speech = s.speech
  vd : t.vd = s.vd
  cp : t.cp = s.cp
  en : t.en = s.en
  tm : t.tm = s.tm
  ig : t.ig = s.ig
  rd : ∀ k, k / 0x100000000 ≠ 0xE010 → t.rd k = s.rd k

theorem Told.refl (s : State) : Told s s := by constructor <;> first | rfl | (intros; rfl)

theorem Told.trans {s t u : State} (a : Told s t) (b : Told t u) : Told s u where
  pending := b.pending.trans a.pending
  mono := b.mono.trans a.mono
  tod := b.tod.trans a.tod
  draws := b.draws.trans a.draws
  season := b.season.trans a.season
  shadow := b.shadow.trans a.shadow
  ctl := b.ctl.trans a.ctl
  le := b.le.trans a.le
  cip := b.cip.trans a.cip
  pw := b.pw.trans a.pw
  mem := b.mem.trans a.mem
  disp := b.disp.trans a.disp
  mt := b.mt.trans a.mt
  sec := b.sec.trans a.sec
  conf := b.conf.trans a.conf
  ad := b.ad.trans a.ad
  mm := b.mm.trans a.mm
  tw := b.tw.trans a.tw
  fb := b.fb.trans a.fb
  speech := b.speech.trans a.speech
  vd := b.vd.trans a.vd
  cp := b.cp.trans a.cp
  en := b.en.trans a.en
  tm := b.tm.trans a.tm
  ig := b.ig.trans a.ig
  rd k h := (b.rd k h).trans (a.rd k h)

/-- An update of the fields that may differ. -/
theorem Told.upd {s t : State} (h : Told s t) {out : List Out} {ev : Events} {hif : HostIf} {rings : List (Nat × Ring)}
    {queues : List (Nat × Queue)} :
    Told s { t with out := out, ev := ev, hif := hif, rings := rings, queues := queues } :=
  h.trans (by constructor <;> first | rfl | (intros; exact State.rd_congr rfl _))

theorem Told.ite {c : Prop} [Decidable c] {s t u : State} (h : Told s t) (k : Told s u) : Told s (if c then t else u) := by
  split <;> assumption

theorem Told.wr {s t : State} (h : Told s t) (k v : Nat) (hk : k / 0x100000000 = 0xE010) : Told s (t.wr k v) :=
  h.trans (by
    constructor <;> first | rfl | skip
    intro j hj
    have : j ≠ k := fun e => hj (e ▸ hk)
    unfold State.rd State.wr
    exact AMap.get_put_other _ _ _ _ this)

theorem Told.sendMsix {s t : State} (h : Told s t) (v : Nat) : Told s (t.sendMsix v) := by
  unfold State.sendMsix
  exact Told.ite h.upd h

theorem Told.signal {s t : State} (h : Told s t) (v c : Nat) : Told s (t.signal v c) := by
  unfold State.signal
  exact Told.ite h.upd (h.sendMsix v)

theorem Told.irqEdge {s t : State} (h : Told s t) (src : IrqSource) (b : State) : Told s (irqEdge src b t) := by
  unfold Machine.irqEdge
  dsimp only
  exact Told.ite (h.signal _ _) (Told.ite (Told.ite h.upd h) h)

theorem Told.raiseCause {s t : State} (h : Told s t) (b : Nat) : Told s (t.raiseCause b) := by
  unfold State.raiseCause withIrq
  exact Told.irqEdge h.upd _ _

theorem Told.ringPost {s t : State} (h : Told s t) (r len : Nat) (i : Item) : Told s (t.ringPost r len i).2 := by
  unfold State.ringPost
  dsimp only
  split
  · exact h
  · split
    · exact Told.irqEdge h.upd _ _
    · exact h
    · exact h

theorem Told.ringPostLost {s t : State} (h : Told s t) (r len : Nat) (i : Item) : Told s (t.ringPostLost r len i) := by
  unfold State.ringPostLost
  have hp := h.ringPost r len i
  refine Told.ite h (Told.ite h.upd (Told.ite h.upd ?_))
  split
  · rename_i e
    rw [e] at hp
    exact hp
  · exact h.upd

theorem foldl_min_le {α : Type} (f : α → Nat) (l : List α) (n : Nat) : l.foldl (fun m x => min m (f x)) n ≤ n := by
  induction l generalizing n with
  | nil => exact Nat.le_refl _
  | cons a r ih => exact Nat.le_trans (ih _) (Nat.min_le_left _ _)

/-- The record that a full log drops has one of the five severities. -/
theorem logStore_dropped {log : List EventRec} {r : EventRec} {d : Nat} (h : (logStore log r).2 = some d) : d ≤ 4 := by
  have hm : log.foldl (fun m x => min m x.severity) 4 ≤ 4 := foldl_min_le EventRec.severity log 4
  unfold logStore at h
  split at h
  · simp at h
  · dsimp only at h
    generalize log.foldl (fun m x => min m x.severity) 4 = low at h hm
    split at h
    · simp at h; omega
    · split at h
      · simp at h
      · simp at h; omega

theorem logDropped_index {j : Nat} (h : j ≤ 4) : Obj.logDropped j / 0x100000000 = 0xE010 := by
  unfold Obj.logDropped key; omega

/-- The raise of an event (R421 to R424). -/
theorem Told.event {s t : State} (h : Told s t) (code a b : Nat) : Told s (t.event code a b) := by
  unfold State.event
  dsimp only
  generalize eventTime t = et
  generalize handlersRaise _ _ _ _ _ _ = hr
  generalize hls : logStore _ _ = ls
  repeat' (first
    | with_reducible assumption
    | with_reducible apply Told.ite
    | with_reducible apply Told.ringPostLost
    | with_reducible apply Told.raiseCause
    | refine Told.wr ?_ _ _ (by decide)
    | (refine Told.wr ?_ _ _ (logDropped_index (logStore_dropped (by rw [hls]; assumption))))
    | split
    | refine Told.upd ?_)

theorem Told.eventRated {s t : State} (h : Told s t) (code scope a b : Nat) : Told s (t.eventRated code scope a b) := by
  unfold State.eventRated
  dsimp only
  exact Told.ite h (h.event _ _ _).upd

theorem Told.fillD2h {s t : State} (h : Told s t) (n : Nat) (r : Resp) : Told s (t.fillD2h n r) := by
  unfold State.fillD2h withIrq
  exact Told.irqEdge h.upd _ _

/-- A response for a device-to-host mailbox (R78, R80). -/
theorem Told.mailResponse {s t : State} (h : Told s t) (n : Nat) (r : Resp) : Told s (t.mailResponse n r) := by
  unfold State.mailResponse
  exact Told.ite h.upd (h.fillD2h _ _)

theorem Told.setQ {s t : State} (h : Told s t) (n : Nat) (q : Queue) : Told s (t.setQ n q) :=
  h.trans (by constructor <;> first | rfl | (intros; rfl))

theorem Told.updQ {s t : State} (h : Told s t) (n : Nat) (q : Queue) : Told s (t.updQ n q) := by
  unfold State.updQ Machine.withIrq
  dsimp only
  exact Told.ite ((h.setQ n q).irqEdge _ _) (Told.ite ((h.setQ n q).raiseCause _) (h.setQ n q))

theorem Told.push {s t : State} (h : Told s t) (n len : Nat) (i : Item) : Told s (t.push n len i).2 := by
  unfold State.push
  generalize (t.q n).push len i = r
  obtain ⟨a, b⟩ := r
  exact h.updQ n b

theorem Told.fabQueuePush {s t : State} (h : Told s t) (f : FabFrame) : Told s (t.fabQueuePush f).2 := by
  unfold State.fabQueuePush
  dsimp only
  have h2 : Told s (if (t.q (fabQueue f.dst f.vc)).allocated = true then t else
      t.setQ (fabQueue f.dst f.vc) (Queue.fresh .backPressure fabQueueGranules)) := Told.ite h (h.setQ _ _)
  generalize (if (t.q (fabQueue f.dst f.vc)).allocated = true then t else _ : State) = u at *
  have h3 := h2.push (fabQueue f.dst f.vc) (4 + 20 + f.length) (.fabric f)
  generalize u.push _ _ _ = r at *
  obtain ⟨a, b⟩ := r
  cases a <;> exact h3

end Sys2Proof.Machine
end

