-- ==== Sys2Proof/Laws/Ops.lean ====
section
/-! SUPPORT. What the named operations over the whole state change, said once. -/

namespace Sys2Proof.Machine

set_option linter.unusedTactic false
set_option linter.unreachableTactic false
set_option linter.unusedSimpArgs false
set_option linter.unusedVariables false

/-- A wake event writes objects and the power state (R388). -/
theorem State.wake_eq (s : State) (w : Wake) : ∃ d p, s.wake w = { s with dict := d, pw := p } := by
  unfold State.wake
  repeat' split
  all_goals exact ⟨_, _, rfl⟩

@[simp] theorem State.wake_hif (s : State) (w : Wake) : (s.wake w).hif = s.hif := by obtain ⟨d, p, h⟩ := s.wake_eq w; rw [h]
@[simp] theorem State.wake_season (s : State) (w : Wake) : (s.wake w).season = s.season := by obtain ⟨d, p, h⟩ := s.wake_eq w; rw [h]
@[simp] theorem State.wake_h2d (s : State) (w : Wake) (n : Nat) : (s.wake w).h2d n = s.h2d n := by
  obtain ⟨d, p, h⟩ := s.wake_eq w; rw [h]; rfl
@[simp] theorem State.wake_ring (s : State) (w : Wake) (n : Nat) : (s.wake w).ring n = s.ring n := by
  obtain ⟨d, p, h⟩ := s.wake_eq w; rw [h]; rfl

/-- A season change, apart from its event (R382). -/
theorem State.enterSeason_told (s : State) (x : Season) :
    Told (({ s.dspRebase with season := x, pw := { s.pw with seasonSince := s.mono } } : State).wr Obj.seasonNow x.code)
      (s.enterSeason x) := by
  unfold State.enterSeason
  dsimp only
  exact (Told.refl _).event _ _ _

@[simp] theorem State.enterSeason_season (s : State) (x : Season) : (s.enterSeason x).season = x := (s.enterSeason_told x).season
@[simp] theorem State.enterSeason_pw (s : State) (x : Season) : (s.enterSeason x).pw = { s.pw with seasonSince := s.mono } :=
  (s.enterSeason_told x).pw
@[simp] theorem State.enterSeason_mono (s : State) (x : Season) : (s.enterSeason x).mono = s.mono := (s.enterSeason_told x).mono
@[simp] theorem State.enterSeason_ctl (s : State) (x : Season) : (s.enterSeason x).ctl = s.ctl := (s.enterSeason_told x).ctl
@[simp] theorem State.enterSeason_mem (s : State) (x : Season) : (s.enterSeason x).mem = s.mem := (s.enterSeason_told x).mem
@[simp] theorem State.enterSeason_sec (s : State) (x : Season) : (s.enterSeason x).sec = s.sec := (s.enterSeason_told x).sec

theorem State.enterSeason_rd (s : State) (x : Season) (k : Nat) (h : k / 0x100000000 ≠ 0xE010) (h2 : k ≠ Obj.seasonNow) :
    (s.enterSeason x).rd k = s.rd k := by
  rw [(s.enterSeason_told x).rd k h, State.rd_wr_other _ _ h2]
  rfl

@[simp] theorem State.enterSeason_seasonNow (s : State) (x : Season) : (s.enterSeason x).rd Obj.seasonNow = x.code := by
  rw [(s.enterSeason_told x).rd _ (by decide), State.rd_wr_same]

/-- The raise of an event leaves these alone (R421 to R424). -/
@[simp] theorem State.event_pw (s : State) (c a b : Nat) : (s.event c a b).pw = s.pw := ((Told.refl s).event c a b).pw
@[simp] theorem State.event_season (s : State) (c a b : Nat) : (s.event c a b).season = s.season := ((Told.refl s).event c a b).season
@[simp] theorem State.event_mono (s : State) (c a b : Nat) : (s.event c a b).mono = s.mono := ((Told.refl s).event c a b).mono
@[simp] theorem State.event_tw (s : State) (c a b : Nat) : (s.event c a b).tw = s.tw := ((Told.refl s).event c a b).tw
@[simp] theorem State.event_sec (s : State) (c a b : Nat) : (s.event c a b).sec = s.sec := ((Told.refl s).event c a b).sec
@[simp] theorem State.event_ctl (s : State) (c a b : Nat) : (s.event c a b).ctl = s.ctl := ((Told.refl s).event c a b).ctl
@[simp] theorem State.event_le (s : State) (c a b : Nat) : (s.event c a b).le = s.le := ((Told.refl s).event c a b).le
@[simp] theorem State.event_cip (s : State) (c a b : Nat) : (s.event c a b).cip = s.cip := ((Told.refl s).event c a b).cip
@[simp] theorem State.event_ig (s : State) (c a b : Nat) : (s.event c a b).ig = s.ig := ((Told.refl s).event c a b).ig
@[simp] theorem State.event_fb (s : State) (c a b : Nat) : (s.event c a b).fb = s.fb := ((Told.refl s).event c a b).fb
@[simp] theorem State.event_tm (s : State) (c a b : Nat) : (s.event c a b).tm = s.tm := ((Told.refl s).event c a b).tm
@[simp] theorem State.event_mm (s : State) (c a b : Nat) : (s.event c a b).mm = s.mm := ((Told.refl s).event c a b).mm
@[simp] theorem State.event_disp (s : State) (c a b : Nat) : (s.event c a b).disp = s.disp := ((Told.refl s).event c a b).disp
@[simp] theorem State.event_mt (s : State) (c a b : Nat) : (s.event c a b).mt = s.mt := ((Told.refl s).event c a b).mt
@[simp] theorem State.event_ad (s : State) (c a b : Nat) : (s.event c a b).ad = s.ad := ((Told.refl s).event c a b).ad
@[simp] theorem State.event_vd (s : State) (c a b : Nat) : (s.event c a b).vd = s.vd := ((Told.refl s).event c a b).vd
@[simp] theorem State.event_cp (s : State) (c a b : Nat) : (s.event c a b).cp = s.cp := ((Told.refl s).event c a b).cp
@[simp] theorem State.event_en (s : State) (c a b : Nat) : (s.event c a b).en = s.en := ((Told.refl s).event c a b).en
@[simp] theorem State.event_mem (s : State) (c a b : Nat) : (s.event c a b).mem = s.mem := ((Told.refl s).event c a b).mem

@[simp] theorem State.event_conf (s : State) (c a b : Nat) : (s.event c a b).conf = s.conf := ((Told.refl s).event c a b).conf
@[simp] theorem State.event_draws (s : State) (c a b : Nat) : (s.event c a b).draws = s.draws := ((Told.refl s).event c a b).draws
@[simp] theorem State.event_tod (s : State) (c a b : Nat) : (s.event c a b).tod = s.tod := ((Told.refl s).event c a b).tod
@[simp] theorem State.event_pending (s : State) (c a b : Nat) : (s.event c a b).pending = s.pending := ((Told.refl s).event c a b).pending
@[simp] theorem State.event_shadow (s : State) (c a b : Nat) : (s.event c a b).shadow = s.shadow := ((Told.refl s).event c a b).shadow

theorem State.event_rd (s : State) (c a b k : Nat) (h : k / 0x100000000 ≠ 0xE010) : (s.event c a b).rd k = s.rd k :=
  ((Told.refl s).event c a b).rd k h

theorem State.ringPostLost_noRing {t : State} (h : t.rings = []) (r len : Nat) (i : Item) : t.ringPostLost r len i = t := by
  have hr : t.ring r = Ring.reset := by unfold State.ring; rw [h]; rfl
  unfold State.ringPostLost State.ringTakes
  rw [hr]
  rfl

theorem State.raiseCause_rings (t : State) (b : Nat) : (t.raiseCause b).rings = t.rings := by unfold State.raiseCause; simp

/-- With no ring set up an event sets none up. -/
theorem State.event_noRing {s : State} (h : s.rings = []) (code a b : Nat) : (s.event code a b).rings = [] := by
  have hi : ∀ (t : State) (c : Prop) [Decidable c] (u : State), t.rings = [] → u.rings = [] → (if c then t else u).rings = [] := by
    intro t c _ u h1 h2; split <;> assumption
  have hp : ∀ (t : State) (r len : Nat) (i : Item), t.rings = [] → (t.ringPostLost r len i).rings = [] := by
    intro t r len i ht; rw [State.ringPostLost_noRing ht]; exact ht
  have hc : ∀ (t : State) (n : Nat), t.rings = [] → (t.raiseCause n).rings = [] := by
    intro t n ht; rw [State.raiseCause_rings]; exact ht
  have hw : ∀ (t : State) (k : Nat), t.rings = [] → (t.inc k).rings = [] := fun t k ht => ht
  unfold State.event
  dsimp only
  generalize eventTime s = et
  generalize handlersRaise _ _ _ _ _ _ = hr
  generalize logStore _ _ = ls
  repeat' (first
    | with_reducible assumption
    | with_reducible apply hi
    | with_reducible apply hp
    | with_reducible apply hc
    | with_reducible apply hw
    | split)

end Sys2Proof.Machine
end

