-- ==== Sys2Proof/Laws/Setters.lean ====
section
/-! SUPPORT. Reading the state after an update of an engine's own record: what was written is read, everything else is as before. -/

namespace Sys2Proof.Machine

@[simp] theorem State.setFeed_pending (s : State) (l f : Nat) (x : FeedRt) : (s.setFeed l f x).pending = s.pending := by cases s; rfl
@[simp] theorem State.setFeed_out (s : State) (l f : Nat) (x : FeedRt) : (s.setFeed l f x).out = s.out := by cases s; rfl
@[simp] theorem State.setFeed_mono (s : State) (l f : Nat) (x : FeedRt) : (s.setFeed l f x).mono = s.mono := by cases s; rfl
@[simp] theorem State.setFeed_tod (s : State) (l f : Nat) (x : FeedRt) : (s.setFeed l f x).tod = s.tod := by cases s; rfl
@[simp] theorem State.setFeed_draws (s : State) (l f : Nat) (x : FeedRt) : (s.setFeed l f x).draws = s.draws := by cases s; rfl
@[simp] theorem State.setFeed_season (s : State) (l f : Nat) (x : FeedRt) : (s.setFeed l f x).season = s.season := by cases s; rfl
@[simp] theorem State.setFeed_dict (s : State) (l f : Nat) (x : FeedRt) : (s.setFeed l f x).dict = s.dict := by cases s; rfl
@[simp] theorem State.setFeed_shadow (s : State) (l f : Nat) (x : FeedRt) : (s.setFeed l f x).shadow = s.shadow := by cases s; rfl
@[simp] theorem State.setFeed_ev (s : State) (l f : Nat) (x : FeedRt) : (s.setFeed l f x).ev = s.ev := by cases s; rfl
@[simp] theorem State.setFeed_hif (s : State) (l f : Nat) (x : FeedRt) : (s.setFeed l f x).hif = s.hif := by cases s; rfl
@[simp] theorem State.setFeed_rings (s : State) (l f : Nat) (x : FeedRt) : (s.setFeed l f x).rings = s.rings := by cases s; rfl
@[simp] theorem State.setFeed_queues (s : State) (l f : Nat) (x : FeedRt) : (s.setFeed l f x).queues = s.queues := by cases s; rfl
@[simp] theorem State.setFeed_ctl (s : State) (l f : Nat) (x : FeedRt) : (s.setFeed l f x).ctl = s.ctl := by cases s; rfl
@[simp] theorem State.setFeed_le (s : State) (l f : Nat) (x : FeedRt) : (s.setFeed l f x).le = s.le := by cases s; rfl
@[simp] theorem State.setFeed_cip (s : State) (l f : Nat) (x : FeedRt) : (s.setFeed l f x).cip = s.cip := by cases s; rfl
@[simp] theorem State.setFeed_pw (s : State) (l f : Nat) (x : FeedRt) : (s.setFeed l f x).pw = s.pw := by cases s; rfl
@[simp] theorem State.setFeed_mem (s : State) (l f : Nat) (x : FeedRt) : (s.setFeed l f x).mem = s.mem := by cases s; rfl
@[simp] theorem State.setFeed_disp (s : State) (l f : Nat) (x : FeedRt) : (s.setFeed l f x).disp = s.disp := by cases s; rfl
@[simp] theorem State.setFeed_mt (s : State) (l f : Nat) (x : FeedRt) : (s.setFeed l f x).mt = s.mt := by cases s; rfl
@[simp] theorem State.setFeed_sec (s : State) (l f : Nat) (x : FeedRt) : (s.setFeed l f x).sec = s.sec := by cases s; rfl
@[simp] theorem State.setFeed_conf (s : State) (l f : Nat) (x : FeedRt) : (s.setFeed l f x).conf = s.conf := by cases s; rfl
@[simp] theorem State.setFeed_mm (s : State) (l f : Nat) (x : FeedRt) : (s.setFeed l f x).mm = s.mm := by cases s; rfl
@[simp] theorem State.setFeed_tw (s : State) (l f : Nat) (x : FeedRt) : (s.setFeed l f x).tw = s.tw := by cases s; rfl
@[simp] theorem State.setFeed_fb (s : State) (l f : Nat) (x : FeedRt) : (s.setFeed l f x).fb = s.fb := by cases s; rfl
@[simp] theorem State.setFeed_speech (s : State) (l f : Nat) (x : FeedRt) : (s.setFeed l f x).speech = s.speech := by cases s; rfl
@[simp] theorem State.setFeed_vd (s : State) (l f : Nat) (x : FeedRt) : (s.setFeed l f x).vd = s.vd := by cases s; rfl
@[simp] theorem State.setFeed_cp (s : State) (l f : Nat) (x : FeedRt) : (s.setFeed l f x).cp = s.cp := by cases s; rfl
@[simp] theorem State.setFeed_en (s : State) (l f : Nat) (x : FeedRt) : (s.setFeed l f x).en = s.en := by cases s; rfl
@[simp] theorem State.setFeed_tm (s : State) (l f : Nat) (x : FeedRt) : (s.setFeed l f x).tm = s.tm := by cases s; rfl
@[simp] theorem State.setFeed_ig (s : State) (l f : Nat) (x : FeedRt) : (s.setFeed l f x).ig = s.ig := by cases s; rfl
@[simp] theorem State.setFeed_ad_legs (s : State) (l f : Nat) (x : FeedRt) : (s.setFeed l f x).ad.legs = s.ad.legs := by cases s; rfl
@[simp] theorem State.setFeed_ad_shapers (s : State) (l f : Nat) (x : FeedRt) : (s.setFeed l f x).ad.shapers = s.ad.shapers := by cases s; rfl
@[simp] theorem State.setFeed_ad_groups (s : State) (l f : Nat) (x : FeedRt) : (s.setFeed l f x).ad.groups = s.ad.groups := by cases s; rfl
@[simp] theorem State.setFeed_ad_groupDeficit (s : State) (l f : Nat) (x : FeedRt) : (s.setFeed l f x).ad.groupDeficit = s.ad.groupDeficit := by cases s; rfl
@[simp] theorem State.setFeed_ad_ports (s : State) (l f : Nat) (x : FeedRt) : (s.setFeed l f x).ad.ports = s.ad.ports := by cases s; rfl
@[simp] theorem State.setFeed_ad_programs (s : State) (l f : Nat) (x : FeedRt) : (s.setFeed l f x).ad.programs = s.ad.programs := by cases s; rfl
@[simp] theorem State.setFeed_ad_backlog (s : State) (l f : Nat) (x : FeedRt) : (s.setFeed l f x).ad.backlog = s.ad.backlog := by cases s; rfl
@[simp] theorem State.setFeed_ad_fir (s : State) (l f : Nat) (x : FeedRt) : (s.setFeed l f x).ad.fir = s.ad.fir := by cases s; rfl
@[simp] theorem State.setFeed_ad_keyAsk (s : State) (l f : Nat) (x : FeedRt) : (s.setFeed l f x).ad.keyAsk = s.ad.keyAsk := by cases s; rfl
@[simp] theorem State.setFeed_ad_shipped (s : State) (l f : Nat) (x : FeedRt) : (s.setFeed l f x).ad.shipped = s.ad.shipped := by cases s; rfl
@[simp] theorem State.setFeed_ad_inbox (s : State) (l f : Nat) (x : FeedRt) : (s.setFeed l f x).ad.inbox = s.ad.inbox := by cases s; rfl
@[simp] theorem State.setFeed_ad_kept (s : State) (l f : Nat) (x : FeedRt) : (s.setFeed l f x).ad.kept = s.ad.kept := by cases s; rfl
@[simp] theorem State.setFeed_ad_turns (s : State) (l f : Nat) (x : FeedRt) : (s.setFeed l f x).ad.turns = s.ad.turns := by cases s; rfl
@[simp] theorem State.setFeed_ad_seen (s : State) (l f : Nat) (x : FeedRt) : (s.setFeed l f x).ad.seen = s.ad.seen := by cases s; rfl
@[simp] theorem State.setFeed_rd (s : State) (l f : Nat) (x : FeedRt) (j : Nat) : (s.setFeed l f x).rd j = s.rd j := by cases s; rfl
@[simp] theorem State.setFeed_q (s : State) (l f : Nat) (x : FeedRt) (j : Nat) : (s.setFeed l f x).q j = s.q j := by cases s; rfl

@[simp] theorem State.setShaper_pending (s : State) (l : Nat) (x : Shaper) : (s.setShaper l x).pending = s.pending := by cases s; rfl
@[simp] theorem State.setShaper_out (s : State) (l : Nat) (x : Shaper) : (s.setShaper l x).out = s.out := by cases s; rfl
@[simp] theorem State.setShaper_mono (s : State) (l : Nat) (x : Shaper) : (s.setShaper l x).mono = s.mono := by cases s; rfl
@[simp] theorem State.setShaper_tod (s : State) (l : Nat) (x : Shaper) : (s.setShaper l x).tod = s.tod := by cases s; rfl
@[simp] theorem State.setShaper_draws (s : State) (l : Nat) (x : Shaper) : (s.setShaper l x).draws = s.draws := by cases s; rfl
@[simp] theorem State.setShaper_season (s : State) (l : Nat) (x : Shaper) : (s.setShaper l x).season = s.season := by cases s; rfl
@[simp] theorem State.setShaper_dict (s : State) (l : Nat) (x : Shaper) : (s.setShaper l x).dict = s.dict := by cases s; rfl
@[simp] theorem State.setShaper_shadow (s : State) (l : Nat) (x : Shaper) : (s.setShaper l x).shadow = s.shadow := by cases s; rfl
@[simp] theorem State.setShaper_ev (s : State) (l : Nat) (x : Shaper) : (s.setShaper l x).ev = s.ev := by cases s; rfl
@[simp] theorem State.setShaper_hif (s : State) (l : Nat) (x : Shaper) : (s.setShaper l x).hif = s.hif := by cases s; rfl
@[simp] theorem State.setShaper_rings (s : State) (l : Nat) (x : Shaper) : (s.setShaper l x).rings = s.rings := by cases s; rfl
@[simp] theorem State.setShaper_queues (s : State) (l : Nat) (x : Shaper) : (s.setShaper l x).queues = s.queues := by cases s; rfl
@[simp] theorem State.setShaper_ctl (s : State) (l : Nat) (x : Shaper) : (s.setShaper l x).ctl = s.ctl := by cases s; rfl
@[simp] theorem State.setShaper_le (s : State) (l : Nat) (x : Shaper) : (s.setShaper l x).le = s.le := by cases s; rfl
@[simp] theorem State.setShaper_cip (s : State) (l : Nat) (x : Shaper) : (s.setShaper l x).cip = s.cip := by cases s; rfl
@[simp] theorem State.setShaper_pw (s : State) (l : Nat) (x : Shaper) : (s.setShaper l x).pw = s.pw := by cases s; rfl
@[simp] theorem State.setShaper_mem (s : State) (l : Nat) (x : Shaper) : (s.setShaper l x).mem = s.mem := by cases s; rfl
@[simp] theorem State.setShaper_disp (s : State) (l : Nat) (x : Shaper) : (s.setShaper l x).disp = s.disp := by cases s; rfl
@[simp] theorem State.setShaper_mt (s : State) (l : Nat) (x : Shaper) : (s.setShaper l x).mt = s.mt := by cases s; rfl
@[simp] theorem State.setShaper_sec (s : State) (l : Nat) (x : Shaper) : (s.setShaper l x).sec = s.sec := by cases s; rfl
@[simp] theorem State.setShaper_conf (s : State) (l : Nat) (x : Shaper) : (s.setShaper l x).conf = s.conf := by cases s; rfl
@[simp] theorem State.setShaper_mm (s : State) (l : Nat) (x : Shaper) : (s.setShaper l x).mm = s.mm := by cases s; rfl
@[simp] theorem State.setShaper_tw (s : State) (l : Nat) (x : Shaper) : (s.setShaper l x).tw = s.tw := by cases s; rfl
@[simp] theorem State.setShaper_fb (s : State) (l : Nat) (x : Shaper) : (s.setShaper l x).fb = s.fb := by cases s; rfl
@[simp] theorem State.setShaper_speech (s : State) (l : Nat) (x : Shaper) : (s.setShaper l x).speech = s.speech := by cases s; rfl
@[simp] theorem State.setShaper_vd (s : State) (l : Nat) (x : Shaper) : (s.setShaper l x).vd = s.vd := by cases s; rfl
@[simp] theorem State.setShaper_cp (s : State) (l : Nat) (x : Shaper) : (s.setShaper l x).cp = s.cp := by cases s; rfl
@[simp] theorem State.setShaper_en (s : State) (l : Nat) (x : Shaper) : (s.setShaper l x).en = s.en := by cases s; rfl
@[simp] theorem State.setShaper_tm (s : State) (l : Nat) (x : Shaper) : (s.setShaper l x).tm = s.tm := by cases s; rfl
@[simp] theorem State.setShaper_ig (s : State) (l : Nat) (x : Shaper) : (s.setShaper l x).ig = s.ig := by cases s; rfl
@[simp] theorem State.setShaper_ad_legs (s : State) (l : Nat) (x : Shaper) : (s.setShaper l x).ad.legs = s.ad.legs := by cases s; rfl
@[simp] theorem State.setShaper_ad_feeds (s : State) (l : Nat) (x : Shaper) : (s.setShaper l x).ad.feeds = s.ad.feeds := by cases s; rfl
@[simp] theorem State.setShaper_ad_groups (s : State) (l : Nat) (x : Shaper) : (s.setShaper l x).ad.groups = s.ad.groups := by cases s; rfl
@[simp] theorem State.setShaper_ad_groupDeficit (s : State) (l : Nat) (x : Shaper) : (s.setShaper l x).ad.groupDeficit = s.ad.groupDeficit := by cases s; rfl
@[simp] theorem State.setShaper_ad_ports (s : State) (l : Nat) (x : Shaper) : (s.setShaper l x).ad.ports = s.ad.ports := by cases s; rfl
@[simp] theorem State.setShaper_ad_programs (s : State) (l : Nat) (x : Shaper) : (s.setShaper l x).ad.programs = s.ad.programs := by cases s; rfl
@[simp] theorem State.setShaper_ad_backlog (s : State) (l : Nat) (x : Shaper) : (s.setShaper l x).ad.backlog = s.ad.backlog := by cases s; rfl
@[simp] theorem State.setShaper_ad_fir (s : State) (l : Nat) (x : Shaper) : (s.setShaper l x).ad.fir = s.ad.fir := by cases s; rfl
@[simp] theorem State.setShaper_ad_keyAsk (s : State) (l : Nat) (x : Shaper) : (s.setShaper l x).ad.keyAsk = s.ad.keyAsk := by cases s; rfl
@[simp] theorem State.setShaper_ad_shipped (s : State) (l : Nat) (x : Shaper) : (s.setShaper l x).ad.shipped = s.ad.shipped := by cases s; rfl
@[simp] theorem State.setShaper_ad_inbox (s : State) (l : Nat) (x : Shaper) : (s.setShaper l x).ad.inbox = s.ad.inbox := by cases s; rfl
@[simp] theorem State.setShaper_ad_kept (s : State) (l : Nat) (x : Shaper) : (s.setShaper l x).ad.kept = s.ad.kept := by cases s; rfl
@[simp] theorem State.setShaper_ad_turns (s : State) (l : Nat) (x : Shaper) : (s.setShaper l x).ad.turns = s.ad.turns := by cases s; rfl
@[simp] theorem State.setShaper_ad_seen (s : State) (l : Nat) (x : Shaper) : (s.setShaper l x).ad.seen = s.ad.seen := by cases s; rfl
@[simp] theorem State.setShaper_rd (s : State) (l : Nat) (x : Shaper) (j : Nat) : (s.setShaper l x).rd j = s.rd j := by cases s; rfl
@[simp] theorem State.setShaper_q (s : State) (l : Nat) (x : Shaper) (j : Nat) : (s.setShaper l x).q j = s.q j := by cases s; rfl

@[simp] theorem State.setCCore_pending (s : State) (k : Nat) (x : CipherCore) : (s.setCCore k x).pending = s.pending := by cases s; rfl
@[simp] theorem State.setCCore_out (s : State) (k : Nat) (x : CipherCore) : (s.setCCore k x).out = s.out := by cases s; rfl
@[simp] theorem State.setCCore_mono (s : State) (k : Nat) (x : CipherCore) : (s.setCCore k x).mono = s.mono := by cases s; rfl
@[simp] theorem State.setCCore_tod (s : State) (k : Nat) (x : CipherCore) : (s.setCCore k x).tod = s.tod := by cases s; rfl
@[simp] theorem State.setCCore_draws (s : State) (k : Nat) (x : CipherCore) : (s.setCCore k x).draws = s.draws := by cases s; rfl
@[simp] theorem State.setCCore_season (s : State) (k : Nat) (x : CipherCore) : (s.setCCore k x).season = s.season := by cases s; rfl
@[simp] theorem State.setCCore_dict (s : State) (k : Nat) (x : CipherCore) : (s.setCCore k x).dict = s.dict := by cases s; rfl
@[simp] theorem State.setCCore_shadow (s : State) (k : Nat) (x : CipherCore) : (s.setCCore k x).shadow = s.shadow := by cases s; rfl
@[simp] theorem State.setCCore_ev (s : State) (k : Nat) (x : CipherCore) : (s.setCCore k x).ev = s.ev := by cases s; rfl
@[simp] theorem State.setCCore_hif (s : State) (k : Nat) (x : CipherCore) : (s.setCCore k x).hif = s.hif := by cases s; rfl
@[simp] theorem State.setCCore_rings (s : State) (k : Nat) (x : CipherCore) : (s.setCCore k x).rings = s.rings := by cases s; rfl
@[simp] theorem State.setCCore_queues (s : State) (k : Nat) (x : CipherCore) : (s.setCCore k x).queues = s.queues := by cases s; rfl
@[simp] theorem State.setCCore_ctl (s : State) (k : Nat) (x : CipherCore) : (s.setCCore k x).ctl = s.ctl := by cases s; rfl
@[simp] theorem State.setCCore_le (s : State) (k : Nat) (x : CipherCore) : (s.setCCore k x).le = s.le := by cases s; rfl
@[simp] theorem State.setCCore_pw (s : State) (k : Nat) (x : CipherCore) : (s.setCCore k x).pw = s.pw := by cases s; rfl
@[simp] theorem State.setCCore_mem (s : State) (k : Nat) (x : CipherCore) : (s.setCCore k x).mem = s.mem := by cases s; rfl
@[simp] theorem State.setCCore_disp (s : State) (k : Nat) (x : CipherCore) : (s.setCCore k x).disp = s.disp := by cases s; rfl
@[simp] theorem State.setCCore_mt (s : State) (k : Nat) (x : CipherCore) : (s.setCCore k x).mt = s.mt := by cases s; rfl
@[simp] theorem State.setCCore_sec (s : State) (k : Nat) (x : CipherCore) : (s.setCCore k x).sec = s.sec := by cases s; rfl
@[simp] theorem State.setCCore_conf (s : State) (k : Nat) (x : CipherCore) : (s.setCCore k x).conf = s.conf := by cases s; rfl
@[simp] theorem State.setCCore_ad (s : State) (k : Nat) (x : CipherCore) : (s.setCCore k x).ad = s.ad := by cases s; rfl
@[simp] theorem State.setCCore_mm (s : State) (k : Nat) (x : CipherCore) : (s.setCCore k x).mm = s.mm := by cases s; rfl
@[simp] theorem State.setCCore_tw (s : State) (k : Nat) (x : CipherCore) : (s.setCCore k x).tw = s.tw := by cases s; rfl
@[simp] theorem State.setCCore_fb (s : State) (k : Nat) (x : CipherCore) : (s.setCCore k x).fb = s.fb := by cases s; rfl
@[simp] theorem State.setCCore_speech (s : State) (k : Nat) (x : CipherCore) : (s.setCCore k x).speech = s.speech := by cases s; rfl
@[simp] theorem State.setCCore_vd (s : State) (k : Nat) (x : CipherCore) : (s.setCCore k x).vd = s.vd := by cases s; rfl
@[simp] theorem State.setCCore_cp (s : State) (k : Nat) (x : CipherCore) : (s.setCCore k x).cp = s.cp := by cases s; rfl
@[simp] theorem State.setCCore_en (s : State) (k : Nat) (x : CipherCore) : (s.setCCore k x).en = s.en := by cases s; rfl
@[simp] theorem State.setCCore_tm (s : State) (k : Nat) (x : CipherCore) : (s.setCCore k x).tm = s.tm := by cases s; rfl
@[simp] theorem State.setCCore_ig (s : State) (k : Nat) (x : CipherCore) : (s.setCCore k x).ig = s.ig := by cases s; rfl
@[simp] theorem State.setCCore_cip_material (s : State) (k : Nat) (x : CipherCore) : (s.setCCore k x).cip.material = s.cip.material := by cases s; rfl
@[simp] theorem State.setCCore_cip_waiting (s : State) (k : Nat) (x : CipherCore) : (s.setCCore k x).cip.waiting = s.cip.waiting := by cases s; rfl
@[simp] theorem State.setCCore_cip_nextId (s : State) (k : Nat) (x : CipherCore) : (s.setCCore k x).cip.nextId = s.cip.nextId := by cases s; rfl
@[simp] theorem State.setCCore_cip_lastWasRx (s : State) (k : Nat) (x : CipherCore) : (s.setCCore k x).cip.lastWasRx = s.cip.lastWasRx := by cases s; rfl
@[simp] theorem State.setCCore_cip_sinceBulk (s : State) (k : Nat) (x : CipherCore) : (s.setCCore k x).cip.sinceBulk = s.cip.sinceBulk := by cases s; rfl
@[simp] theorem State.setCCore_cip_ranges (s : State) (k : Nat) (x : CipherCore) : (s.setCCore k x).cip.ranges = s.cip.ranges := by cases s; rfl
@[simp] theorem State.setCCore_cip_taps (s : State) (k : Nat) (x : CipherCore) : (s.setCCore k x).cip.taps = s.cip.taps := by cases s; rfl
@[simp] theorem State.setCCore_cip_formed (s : State) (k : Nat) (x : CipherCore) : (s.setCCore k x).cip.formed = s.cip.formed := by cases s; rfl
@[simp] theorem State.setCCore_rd (s : State) (k : Nat) (x : CipherCore) (j : Nat) : (s.setCCore k x).rd j = s.rd j := by cases s; rfl
@[simp] theorem State.setCCore_q (s : State) (k : Nat) (x : CipherCore) (j : Nat) : (s.setCCore k x).q j = s.q j := by cases s; rfl
@[simp] theorem State.setCCore_same (s : State) (k : Nat) (x : CipherCore) : (s.setCCore k x).cCore k = x := AMap.get_put_same ..

@[simp] theorem State.setCs_pending (s : State) (c : Nat) (x : CsetRt) : (s.setCs c x).pending = s.pending := by cases s; rfl
@[simp] theorem State.setCs_out (s : State) (c : Nat) (x : CsetRt) : (s.setCs c x).out = s.out := by cases s; rfl
@[simp] theorem State.setCs_mono (s : State) (c : Nat) (x : CsetRt) : (s.setCs c x).mono = s.mono := by cases s; rfl
@[simp] theorem State.setCs_tod (s : State) (c : Nat) (x : CsetRt) : (s.setCs c x).tod = s.tod := by cases s; rfl
@[simp] theorem State.setCs_draws (s : State) (c : Nat) (x : CsetRt) : (s.setCs c x).draws = s.draws := by cases s; rfl
@[simp] theorem State.setCs_season (s : State) (c : Nat) (x : CsetRt) : (s.setCs c x).season = s.season := by cases s; rfl
@[simp] theorem State.setCs_dict (s : State) (c : Nat) (x : CsetRt) : (s.setCs c x).dict = s.dict := by cases s; rfl
@[simp] theorem State.setCs_shadow (s : State) (c : Nat) (x : CsetRt) : (s.setCs c x).shadow = s.shadow := by cases s; rfl
@[simp] theorem State.setCs_ev (s : State) (c : Nat) (x : CsetRt) : (s.setCs c x).ev = s.ev := by cases s; rfl
@[simp] theorem State.setCs_hif (s : State) (c : Nat) (x : CsetRt) : (s.setCs c x).hif = s.hif := by cases s; rfl
@[simp] theorem State.setCs_rings (s : State) (c : Nat) (x : CsetRt) : (s.setCs c x).rings = s.rings := by cases s; rfl
@[simp] theorem State.setCs_queues (s : State) (c : Nat) (x : CsetRt) : (s.setCs c x).queues = s.queues := by cases s; rfl
@[simp] theorem State.setCs_ctl (s : State) (c : Nat) (x : CsetRt) : (s.setCs c x).ctl = s.ctl := by cases s; rfl
@[simp] theorem State.setCs_le (s : State) (c : Nat) (x : CsetRt) : (s.setCs c x).le = s.le := by cases s; rfl
@[simp] theorem State.setCs_cip (s : State) (c : Nat) (x : CsetRt) : (s.setCs c x).cip = s.cip := by cases s; rfl
@[simp] theorem State.setCs_pw (s : State) (c : Nat) (x : CsetRt) : (s.setCs c x).pw = s.pw := by cases s; rfl
@[simp] theorem State.setCs_mem (s : State) (c : Nat) (x : CsetRt) : (s.setCs c x).mem = s.mem := by cases s; rfl
@[simp] theorem State.setCs_disp (s : State) (c : Nat) (x : CsetRt) : (s.setCs c x).disp = s.disp := by cases s; rfl
@[simp] theorem State.setCs_mt (s : State) (c : Nat) (x : CsetRt) : (s.setCs c x).mt = s.mt := by cases s; rfl
@[simp] theorem State.setCs_sec (s : State) (c : Nat) (x : CsetRt) : (s.setCs c x).sec = s.sec := by cases s; rfl
@[simp] theorem State.setCs_conf (s : State) (c : Nat) (x : CsetRt) : (s.setCs c x).conf = s.conf := by cases s; rfl
@[simp] theorem State.setCs_ad (s : State) (c : Nat) (x : CsetRt) : (s.setCs c x).ad = s.ad := by cases s; rfl
@[simp] theorem State.setCs_mm (s : State) (c : Nat) (x : CsetRt) : (s.setCs c x).mm = s.mm := by cases s; rfl
@[simp] theorem State.setCs_tw (s : State) (c : Nat) (x : CsetRt) : (s.setCs c x).tw = s.tw := by cases s; rfl
@[simp] theorem State.setCs_fb (s : State) (c : Nat) (x : CsetRt) : (s.setCs c x).fb = s.fb := by cases s; rfl
@[simp] theorem State.setCs_speech (s : State) (c : Nat) (x : CsetRt) : (s.setCs c x).speech = s.speech := by cases s; rfl
@[simp] theorem State.setCs_vd (s : State) (c : Nat) (x : CsetRt) : (s.setCs c x).vd = s.vd := by cases s; rfl
@[simp] theorem State.setCs_en (s : State) (c : Nat) (x : CsetRt) : (s.setCs c x).en = s.en := by cases s; rfl
@[simp] theorem State.setCs_tm (s : State) (c : Nat) (x : CsetRt) : (s.setCs c x).tm = s.tm := by cases s; rfl
@[simp] theorem State.setCs_ig (s : State) (c : Nat) (x : CsetRt) : (s.setCs c x).ig = s.ig := by cases s; rfl
@[simp] theorem State.setCs_cp_layers (s : State) (c : Nat) (x : CsetRt) : (s.setCs c x).cp.layers = s.cp.layers := by cases s; rfl
@[simp] theorem State.setCs_cp_jobs (s : State) (c : Nat) (x : CsetRt) : (s.setCs c x).cp.jobs = s.cp.jobs := by cases s; rfl
@[simp] theorem State.setCs_cp_opImages (s : State) (c : Nat) (x : CsetRt) : (s.setCs c x).cp.opImages = s.cp.opImages := by cases s; rfl
@[simp] theorem State.setCs_cp_checks (s : State) (c : Nat) (x : CsetRt) : (s.setCs c x).cp.checks = s.cp.checks := by cases s; rfl
@[simp] theorem State.setCs_cp_programs (s : State) (c : Nat) (x : CsetRt) : (s.setCs c x).cp.programs = s.cp.programs := by cases s; rfl
@[simp] theorem State.setCs_cp_tick (s : State) (c : Nat) (x : CsetRt) : (s.setCs c x).cp.tick = s.cp.tick := by cases s; rfl
@[simp] theorem State.setCs_rd (s : State) (c : Nat) (x : CsetRt) (j : Nat) : (s.setCs c x).rd j = s.rd j := by cases s; rfl
@[simp] theorem State.setCs_q (s : State) (c : Nat) (x : CsetRt) (j : Nat) : (s.setCs c x).q j = s.q j := by cases s; rfl
@[simp] theorem State.setCs_same (s : State) (c : Nat) (x : CsetRt) : (s.setCs c x).cs c = x := AMap.get_put_same ..

@[simp] theorem State.setLay_pending (s : State) (v z : Nat) (x : LayRt) : (s.setLay v z x).pending = s.pending := by cases s; rfl
@[simp] theorem State.setLay_out (s : State) (v z : Nat) (x : LayRt) : (s.setLay v z x).out = s.out := by cases s; rfl
@[simp] theorem State.setLay_mono (s : State) (v z : Nat) (x : LayRt) : (s.setLay v z x).mono = s.mono := by cases s; rfl
@[simp] theorem State.setLay_tod (s : State) (v z : Nat) (x : LayRt) : (s.setLay v z x).tod = s.tod := by cases s; rfl
@[simp] theorem State.setLay_draws (s : State) (v z : Nat) (x : LayRt) : (s.setLay v z x).draws = s.draws := by cases s; rfl
@[simp] theorem State.setLay_season (s : State) (v z : Nat) (x : LayRt) : (s.setLay v z x).season = s.season := by cases s; rfl
@[simp] theorem State.setLay_dict (s : State) (v z : Nat) (x : LayRt) : (s.setLay v z x).dict = s.dict := by cases s; rfl
@[simp] theorem State.setLay_shadow (s : State) (v z : Nat) (x : LayRt) : (s.setLay v z x).shadow = s.shadow := by cases s; rfl
@[simp] theorem State.setLay_ev (s : State) (v z : Nat) (x : LayRt) : (s.setLay v z x).ev = s.ev := by cases s; rfl
@[simp] theorem State.setLay_hif (s : State) (v z : Nat) (x : LayRt) : (s.setLay v z x).hif = s.hif := by cases s; rfl
@[simp] theorem State.setLay_rings (s : State) (v z : Nat) (x : LayRt) : (s.setLay v z x).rings = s.rings := by cases s; rfl
@[simp] theorem State.setLay_queues (s : State) (v z : Nat) (x : LayRt) : (s.setLay v z x).queues = s.queues := by cases s; rfl
@[simp] theorem State.setLay_ctl (s : State) (v z : Nat) (x : LayRt) : (s.setLay v z x).ctl = s.ctl := by cases s; rfl
@[simp] theorem State.setLay_le (s : State) (v z : Nat) (x : LayRt) : (s.setLay v z x).le = s.le := by cases s; rfl
@[simp] theorem State.setLay_cip (s : State) (v z : Nat) (x : LayRt) : (s.setLay v z x).cip = s.cip := by cases s; rfl
@[simp] theorem State.setLay_pw (s : State) (v z : Nat) (x : LayRt) : (s.setLay v z x).pw = s.pw := by cases s; rfl
@[simp] theorem State.setLay_mem (s : State) (v z : Nat) (x : LayRt) : (s.setLay v z x).mem = s.mem := by cases s; rfl
@[simp] theorem State.setLay_disp (s : State) (v z : Nat) (x : LayRt) : (s.setLay v z x).disp = s.disp := by cases s; rfl
@[simp] theorem State.setLay_mt (s : State) (v z : Nat) (x : LayRt) : (s.setLay v z x).mt = s.mt := by cases s; rfl
@[simp] theorem State.setLay_sec (s : State) (v z : Nat) (x : LayRt) : (s.setLay v z x).sec = s.sec := by cases s; rfl
@[simp] theorem State.setLay_conf (s : State) (v z : Nat) (x : LayRt) : (s.setLay v z x).conf = s.conf := by cases s; rfl
@[simp] theorem State.setLay_ad (s : State) (v z : Nat) (x : LayRt) : (s.setLay v z x).ad = s.ad := by cases s; rfl
@[simp] theorem State.setLay_mm (s : State) (v z : Nat) (x : LayRt) : (s.setLay v z x).mm = s.mm := by cases s; rfl
@[simp] theorem State.setLay_tw (s : State) (v z : Nat) (x : LayRt) : (s.setLay v z x).tw = s.tw := by cases s; rfl
@[simp] theorem State.setLay_fb (s : State) (v z : Nat) (x : LayRt) : (s.setLay v z x).fb = s.fb := by cases s; rfl
@[simp] theorem State.setLay_speech (s : State) (v z : Nat) (x : LayRt) : (s.setLay v z x).speech = s.speech := by cases s; rfl
@[simp] theorem State.setLay_vd (s : State) (v z : Nat) (x : LayRt) : (s.setLay v z x).vd = s.vd := by cases s; rfl
@[simp] theorem State.setLay_en (s : State) (v z : Nat) (x : LayRt) : (s.setLay v z x).en = s.en := by cases s; rfl
@[simp] theorem State.setLay_tm (s : State) (v z : Nat) (x : LayRt) : (s.setLay v z x).tm = s.tm := by cases s; rfl
@[simp] theorem State.setLay_ig (s : State) (v z : Nat) (x : LayRt) : (s.setLay v z x).ig = s.ig := by cases s; rfl
@[simp] theorem State.setLay_cp_sets (s : State) (v z : Nat) (x : LayRt) : (s.setLay v z x).cp.sets = s.cp.sets := by cases s; rfl
@[simp] theorem State.setLay_cp_jobs (s : State) (v z : Nat) (x : LayRt) : (s.setLay v z x).cp.jobs = s.cp.jobs := by cases s; rfl
@[simp] theorem State.setLay_cp_opImages (s : State) (v z : Nat) (x : LayRt) : (s.setLay v z x).cp.opImages = s.cp.opImages := by cases s; rfl
@[simp] theorem State.setLay_cp_checks (s : State) (v z : Nat) (x : LayRt) : (s.setLay v z x).cp.checks = s.cp.checks := by cases s; rfl
@[simp] theorem State.setLay_cp_programs (s : State) (v z : Nat) (x : LayRt) : (s.setLay v z x).cp.programs = s.cp.programs := by cases s; rfl
@[simp] theorem State.setLay_cp_tick (s : State) (v z : Nat) (x : LayRt) : (s.setLay v z x).cp.tick = s.cp.tick := by cases s; rfl
@[simp] theorem State.setLay_rd (s : State) (v z : Nat) (x : LayRt) (j : Nat) : (s.setLay v z x).rd j = s.rd j := by cases s; rfl
@[simp] theorem State.setLay_q (s : State) (v z : Nat) (x : LayRt) (j : Nat) : (s.setLay v z x).q j = s.q j := by cases s; rfl
@[simp] theorem State.setLay_same (s : State) (v z : Nat) (x : LayRt) : (s.setLay v z x).lay v z = x := AMap.get_put_same ..

@[simp] theorem State.setAx_pending (s : State) (a : Nat) (x : ActxRt) : (s.setAx a x).pending = s.pending := by cases s; rfl
@[simp] theorem State.setAx_out (s : State) (a : Nat) (x : ActxRt) : (s.setAx a x).out = s.out := by cases s; rfl
@[simp] theorem State.setAx_mono (s : State) (a : Nat) (x : ActxRt) : (s.setAx a x).mono = s.mono := by cases s; rfl
@[simp] theorem State.setAx_tod (s : State) (a : Nat) (x : ActxRt) : (s.setAx a x).tod = s.tod := by cases s; rfl
@[simp] theorem State.setAx_draws (s : State) (a : Nat) (x : ActxRt) : (s.setAx a x).draws = s.draws := by cases s; rfl
@[simp] theorem State.setAx_season (s : State) (a : Nat) (x : ActxRt) : (s.setAx a x).season = s.season := by cases s; rfl
@[simp] theorem State.setAx_dict (s : State) (a : Nat) (x : ActxRt) : (s.setAx a x).dict = s.dict := by cases s; rfl
@[simp] theorem State.setAx_shadow (s : State) (a : Nat) (x : ActxRt) : (s.setAx a x).shadow = s.shadow := by cases s; rfl
@[simp] theorem State.setAx_ev (s : State) (a : Nat) (x : ActxRt) : (s.setAx a x).ev = s.ev := by cases s; rfl
@[simp] theorem State.setAx_hif (s : State) (a : Nat) (x : ActxRt) : (s.setAx a x).hif = s.hif := by cases s; rfl
@[simp] theorem State.setAx_rings (s : State) (a : Nat) (x : ActxRt) : (s.setAx a x).rings = s.rings := by cases s; rfl
@[simp] theorem State.setAx_queues (s : State) (a : Nat) (x : ActxRt) : (s.setAx a x).queues = s.queues := by cases s; rfl
@[simp] theorem State.setAx_ctl (s : State) (a : Nat) (x : ActxRt) : (s.setAx a x).ctl = s.ctl := by cases s; rfl
@[simp] theorem State.setAx_le (s : State) (a : Nat) (x : ActxRt) : (s.setAx a x).le = s.le := by cases s; rfl
@[simp] theorem State.setAx_cip (s : State) (a : Nat) (x : ActxRt) : (s.setAx a x).cip = s.cip := by cases s; rfl
@[simp] theorem State.setAx_pw (s : State) (a : Nat) (x : ActxRt) : (s.setAx a x).pw = s.pw := by cases s; rfl
@[simp] theorem State.setAx_mem (s : State) (a : Nat) (x : ActxRt) : (s.setAx a x).mem = s.mem := by cases s; rfl
@[simp] theorem State.setAx_disp (s : State) (a : Nat) (x : ActxRt) : (s.setAx a x).disp = s.disp := by cases s; rfl
@[simp] theorem State.setAx_mt (s : State) (a : Nat) (x : ActxRt) : (s.setAx a x).mt = s.mt := by cases s; rfl
@[simp] theorem State.setAx_sec (s : State) (a : Nat) (x : ActxRt) : (s.setAx a x).sec = s.sec := by cases s; rfl
@[simp] theorem State.setAx_conf (s : State) (a : Nat) (x : ActxRt) : (s.setAx a x).conf = s.conf := by cases s; rfl
@[simp] theorem State.setAx_ad (s : State) (a : Nat) (x : ActxRt) : (s.setAx a x).ad = s.ad := by cases s; rfl
@[simp] theorem State.setAx_mm (s : State) (a : Nat) (x : ActxRt) : (s.setAx a x).mm = s.mm := by cases s; rfl
@[simp] theorem State.setAx_tw (s : State) (a : Nat) (x : ActxRt) : (s.setAx a x).tw = s.tw := by cases s; rfl
@[simp] theorem State.setAx_fb (s : State) (a : Nat) (x : ActxRt) : (s.setAx a x).fb = s.fb := by cases s; rfl
@[simp] theorem State.setAx_speech (s : State) (a : Nat) (x : ActxRt) : (s.setAx a x).speech = s.speech := by cases s; rfl
@[simp] theorem State.setAx_vd (s : State) (a : Nat) (x : ActxRt) : (s.setAx a x).vd = s.vd := by cases s; rfl
@[simp] theorem State.setAx_cp (s : State) (a : Nat) (x : ActxRt) : (s.setAx a x).cp = s.cp := by cases s; rfl
@[simp] theorem State.setAx_tm (s : State) (a : Nat) (x : ActxRt) : (s.setAx a x).tm = s.tm := by cases s; rfl
@[simp] theorem State.setAx_ig (s : State) (a : Nat) (x : ActxRt) : (s.setAx a x).ig = s.ig := by cases s; rfl
@[simp] theorem State.setAx_en_passes (s : State) (a : Nat) (x : ActxRt) : (s.setAx a x).en.passes = s.en.passes := by cases s; rfl
@[simp] theorem State.setAx_en_rctxs (s : State) (a : Nat) (x : ActxRt) : (s.setAx a x).en.rctxs = s.en.rctxs := by cases s; rfl
@[simp] theorem State.setAx_en_backs (s : State) (a : Nat) (x : ActxRt) : (s.setAx a x).en.backs = s.en.backs := by cases s; rfl
@[simp] theorem State.setAx_en_programs (s : State) (a : Nat) (x : ActxRt) : (s.setAx a x).en.programs = s.en.programs := by cases s; rfl
@[simp] theorem State.setAx_en_shipped (s : State) (a : Nat) (x : ActxRt) : (s.setAx a x).en.shipped = s.en.shipped := by cases s; rfl
@[simp] theorem State.setAx_rd (s : State) (a : Nat) (x : ActxRt) (j : Nat) : (s.setAx a x).rd j = s.rd j := by cases s; rfl
@[simp] theorem State.setAx_q (s : State) (a : Nat) (x : ActxRt) (j : Nat) : (s.setAx a x).q j = s.q j := by cases s; rfl
@[simp] theorem State.setAx_same (s : State) (a : Nat) (x : ActxRt) : (s.setAx a x).ax a = x := AMap.get_put_same ..

@[simp] theorem State.setRx_pending (s : State) (r : Nat) (x : RctxRt) : (s.setRx r x).pending = s.pending := by cases s; rfl
@[simp] theorem State.setRx_out (s : State) (r : Nat) (x : RctxRt) : (s.setRx r x).out = s.out := by cases s; rfl
@[simp] theorem State.setRx_mono (s : State) (r : Nat) (x : RctxRt) : (s.setRx r x).mono = s.mono := by cases s; rfl
@[simp] theorem State.setRx_tod (s : State) (r : Nat) (x : RctxRt) : (s.setRx r x).tod = s.tod := by cases s; rfl
@[simp] theorem State.setRx_draws (s : State) (r : Nat) (x : RctxRt) : (s.setRx r x).draws = s.draws := by cases s; rfl
@[simp] theorem State.setRx_season (s : State) (r : Nat) (x : RctxRt) : (s.setRx r x).season = s.season := by cases s; rfl
@[simp] theorem State.setRx_dict (s : State) (r : Nat) (x : RctxRt) : (s.setRx r x).dict = s.dict := by cases s; rfl
@[simp] theorem State.setRx_shadow (s : State) (r : Nat) (x : RctxRt) : (s.setRx r x).shadow = s.shadow := by cases s; rfl
@[simp] theorem State.setRx_ev (s : State) (r : Nat) (x : RctxRt) : (s.setRx r x).ev = s.ev := by cases s; rfl
@[simp] theorem State.setRx_hif (s : State) (r : Nat) (x : RctxRt) : (s.setRx r x).hif = s.hif := by cases s; rfl
@[simp] theorem State.setRx_rings (s : State) (r : Nat) (x : RctxRt) : (s.setRx r x).rings = s.rings := by cases s; rfl
@[simp] theorem State.setRx_queues (s : State) (r : Nat) (x : RctxRt) : (s.setRx r x).queues = s.queues := by cases s; rfl
@[simp] theorem State.setRx_ctl (s : State) (r : Nat) (x : RctxRt) : (s.setRx r x).ctl = s.ctl := by cases s; rfl
@[simp] theorem State.setRx_le (s : State) (r : Nat) (x : RctxRt) : (s.setRx r x).le = s.le := by cases s; rfl
@[simp] theorem State.setRx_cip (s : State) (r : Nat) (x : RctxRt) : (s.setRx r x).cip = s.cip := by cases s; rfl
@[simp] theorem State.setRx_pw (s : State) (r : Nat) (x : RctxRt) : (s.setRx r x).pw = s.pw := by cases s; rfl
@[simp] theorem State.setRx_mem (s : State) (r : Nat) (x : RctxRt) : (s.setRx r x).mem = s.mem := by cases s; rfl
@[simp] theorem State.setRx_disp (s : State) (r : Nat) (x : RctxRt) : (s.setRx r x).disp = s.disp := by cases s; rfl
@[simp] theorem State.setRx_mt (s : State) (r : Nat) (x : RctxRt) : (s.setRx r x).mt = s.mt := by cases s; rfl
@[simp] theorem State.setRx_sec (s : State) (r : Nat) (x : RctxRt) : (s.setRx r x).sec = s.sec := by cases s; rfl
@[simp] theorem State.setRx_conf (s : State) (r : Nat) (x : RctxRt) : (s.setRx r x).conf = s.conf := by cases s; rfl
@[simp] theorem State.setRx_ad (s : State) (r : Nat) (x : RctxRt) : (s.setRx r x).ad = s.ad := by cases s; rfl
@[simp] theorem State.setRx_mm (s : State) (r : Nat) (x : RctxRt) : (s.setRx r x).mm = s.mm := by cases s; rfl
@[simp] theorem State.setRx_tw (s : State) (r : Nat) (x : RctxRt) : (s.setRx r x).tw = s.tw := by cases s; rfl
@[simp] theorem State.setRx_fb (s : State) (r : Nat) (x : RctxRt) : (s.setRx r x).fb = s.fb := by cases s; rfl
@[simp] theorem State.setRx_speech (s : State) (r : Nat) (x : RctxRt) : (s.setRx r x).speech = s.speech := by cases s; rfl
@[simp] theorem State.setRx_vd (s : State) (r : Nat) (x : RctxRt) : (s.setRx r x).vd = s.vd := by cases s; rfl
@[simp] theorem State.setRx_cp (s : State) (r : Nat) (x : RctxRt) : (s.setRx r x).cp = s.cp := by cases s; rfl
@[simp] theorem State.setRx_tm (s : State) (r : Nat) (x : RctxRt) : (s.setRx r x).tm = s.tm := by cases s; rfl
@[simp] theorem State.setRx_ig (s : State) (r : Nat) (x : RctxRt) : (s.setRx r x).ig = s.ig := by cases s; rfl
@[simp] theorem State.setRx_en_actxs (s : State) (r : Nat) (x : RctxRt) : (s.setRx r x).en.actxs = s.en.actxs := by cases s; rfl
@[simp] theorem State.setRx_en_passes (s : State) (r : Nat) (x : RctxRt) : (s.setRx r x).en.passes = s.en.passes := by cases s; rfl
@[simp] theorem State.setRx_en_backs (s : State) (r : Nat) (x : RctxRt) : (s.setRx r x).en.backs = s.en.backs := by cases s; rfl
@[simp] theorem State.setRx_en_programs (s : State) (r : Nat) (x : RctxRt) : (s.setRx r x).en.programs = s.en.programs := by cases s; rfl
@[simp] theorem State.setRx_en_shipped (s : State) (r : Nat) (x : RctxRt) : (s.setRx r x).en.shipped = s.en.shipped := by cases s; rfl
@[simp] theorem State.setRx_rd (s : State) (r : Nat) (x : RctxRt) (j : Nat) : (s.setRx r x).rd j = s.rd j := by cases s; rfl
@[simp] theorem State.setRx_q (s : State) (r : Nat) (x : RctxRt) (j : Nat) : (s.setRx r x).q j = s.q j := by cases s; rfl
@[simp] theorem State.setRx_same (s : State) (r : Nat) (x : RctxRt) : (s.setRx r x).rx r = x := AMap.get_put_same ..

@[simp] theorem State.setBack_pending (s : State) (b : Nat) (x : BeJob) : (s.setBack b x).pending = s.pending := by cases s; rfl
@[simp] theorem State.setBack_out (s : State) (b : Nat) (x : BeJob) : (s.setBack b x).out = s.out := by cases s; rfl
@[simp] theorem State.setBack_mono (s : State) (b : Nat) (x : BeJob) : (s.setBack b x).mono = s.mono := by cases s; rfl
@[simp] theorem State.setBack_tod (s : State) (b : Nat) (x : BeJob) : (s.setBack b x).tod = s.tod := by cases s; rfl
@[simp] theorem State.setBack_draws (s : State) (b : Nat) (x : BeJob) : (s.setBack b x).draws = s.draws := by cases s; rfl
@[simp] theorem State.setBack_season (s : State) (b : Nat) (x : BeJob) : (s.setBack b x).season = s.season := by cases s; rfl
@[simp] theorem State.setBack_dict (s : State) (b : Nat) (x : BeJob) : (s.setBack b x).dict = s.dict := by cases s; rfl
@[simp] theorem State.setBack_shadow (s : State) (b : Nat) (x : BeJob) : (s.setBack b x).shadow = s.shadow := by cases s; rfl
@[simp] theorem State.setBack_ev (s : State) (b : Nat) (x : BeJob) : (s.setBack b x).ev = s.ev := by cases s; rfl
@[simp] theorem State.setBack_hif (s : State) (b : Nat) (x : BeJob) : (s.setBack b x).hif = s.hif := by cases s; rfl
@[simp] theorem State.setBack_rings (s : State) (b : Nat) (x : BeJob) : (s.setBack b x).rings = s.rings := by cases s; rfl
@[simp] theorem State.setBack_queues (s : State) (b : Nat) (x : BeJob) : (s.setBack b x).queues = s.queues := by cases s; rfl
@[simp] theorem State.setBack_ctl (s : State) (b : Nat) (x : BeJob) : (s.setBack b x).ctl = s.ctl := by cases s; rfl
@[simp] theorem State.setBack_le (s : State) (b : Nat) (x : BeJob) : (s.setBack b x).le = s.le := by cases s; rfl
@[simp] theorem State.setBack_cip (s : State) (b : Nat) (x : BeJob) : (s.setBack b x).cip = s.cip := by cases s; rfl
@[simp] theorem State.setBack_pw (s : State) (b : Nat) (x : BeJob) : (s.setBack b x).pw = s.pw := by cases s; rfl
@[simp] theorem State.setBack_mem (s : State) (b : Nat) (x : BeJob) : (s.setBack b x).mem = s.mem := by cases s; rfl
@[simp] theorem State.setBack_disp (s : State) (b : Nat) (x : BeJob) : (s.setBack b x).disp = s.disp := by cases s; rfl
@[simp] theorem State.setBack_mt (s : State) (b : Nat) (x : BeJob) : (s.setBack b x).mt = s.mt := by cases s; rfl
@[simp] theorem State.setBack_sec (s : State) (b : Nat) (x : BeJob) : (s.setBack b x).sec = s.sec := by cases s; rfl
@[simp] theorem State.setBack_conf (s : State) (b : Nat) (x : BeJob) : (s.setBack b x).conf = s.conf := by cases s; rfl
@[simp] theorem State.setBack_ad (s : State) (b : Nat) (x : BeJob) : (s.setBack b x).ad = s.ad := by cases s; rfl
@[simp] theorem State.setBack_mm (s : State) (b : Nat) (x : BeJob) : (s.setBack b x).mm = s.mm := by cases s; rfl
@[simp] theorem State.setBack_tw (s : State) (b : Nat) (x : BeJob) : (s.setBack b x).tw = s.tw := by cases s; rfl
@[simp] theorem State.setBack_fb (s : State) (b : Nat) (x : BeJob) : (s.setBack b x).fb = s.fb := by cases s; rfl
@[simp] theorem State.setBack_speech (s : State) (b : Nat) (x : BeJob) : (s.setBack b x).speech = s.speech := by cases s; rfl
@[simp] theorem State.setBack_vd (s : State) (b : Nat) (x : BeJob) : (s.setBack b x).vd = s.vd := by cases s; rfl
@[simp] theorem State.setBack_cp (s : State) (b : Nat) (x : BeJob) : (s.setBack b x).cp = s.cp := by cases s; rfl
@[simp] theorem State.setBack_tm (s : State) (b : Nat) (x : BeJob) : (s.setBack b x).tm = s.tm := by cases s; rfl
@[simp] theorem State.setBack_ig (s : State) (b : Nat) (x : BeJob) : (s.setBack b x).ig = s.ig := by cases s; rfl
@[simp] theorem State.setBack_en_actxs (s : State) (b : Nat) (x : BeJob) : (s.setBack b x).en.actxs = s.en.actxs := by cases s; rfl
@[simp] theorem State.setBack_en_passes (s : State) (b : Nat) (x : BeJob) : (s.setBack b x).en.passes = s.en.passes := by cases s; rfl
@[simp] theorem State.setBack_en_rctxs (s : State) (b : Nat) (x : BeJob) : (s.setBack b x).en.rctxs = s.en.rctxs := by cases s; rfl
@[simp] theorem State.setBack_en_programs (s : State) (b : Nat) (x : BeJob) : (s.setBack b x).en.programs = s.en.programs := by cases s; rfl
@[simp] theorem State.setBack_en_shipped (s : State) (b : Nat) (x : BeJob) : (s.setBack b x).en.shipped = s.en.shipped := by cases s; rfl
@[simp] theorem State.setBack_rd (s : State) (b : Nat) (x : BeJob) (j : Nat) : (s.setBack b x).rd j = s.rd j := by cases s; rfl
@[simp] theorem State.setBack_q (s : State) (b : Nat) (x : BeJob) (j : Nat) : (s.setBack b x).q j = s.q j := by cases s; rfl

@[simp] theorem State.setAdapt_pending (s : State) (l : Nat) (x : AdaptRt) : (s.setAdapt l x).pending = s.pending := by cases s; rfl
@[simp] theorem State.setAdapt_out (s : State) (l : Nat) (x : AdaptRt) : (s.setAdapt l x).out = s.out := by cases s; rfl
@[simp] theorem State.setAdapt_mono (s : State) (l : Nat) (x : AdaptRt) : (s.setAdapt l x).mono = s.mono := by cases s; rfl
@[simp] theorem State.setAdapt_tod (s : State) (l : Nat) (x : AdaptRt) : (s.setAdapt l x).tod = s.tod := by cases s; rfl
@[simp] theorem State.setAdapt_draws (s : State) (l : Nat) (x : AdaptRt) : (s.setAdapt l x).draws = s.draws := by cases s; rfl
@[simp] theorem State.setAdapt_season (s : State) (l : Nat) (x : AdaptRt) : (s.setAdapt l x).season = s.season := by cases s; rfl
@[simp] theorem State.setAdapt_dict (s : State) (l : Nat) (x : AdaptRt) : (s.setAdapt l x).dict = s.dict := by cases s; rfl
@[simp] theorem State.setAdapt_shadow (s : State) (l : Nat) (x : AdaptRt) : (s.setAdapt l x).shadow = s.shadow := by cases s; rfl
@[simp] theorem State.setAdapt_ev (s : State) (l : Nat) (x : AdaptRt) : (s.setAdapt l x).ev = s.ev := by cases s; rfl
@[simp] theorem State.setAdapt_hif (s : State) (l : Nat) (x : AdaptRt) : (s.setAdapt l x).hif = s.hif := by cases s; rfl
@[simp] theorem State.setAdapt_rings (s : State) (l : Nat) (x : AdaptRt) : (s.setAdapt l x).rings = s.rings := by cases s; rfl
@[simp] theorem State.setAdapt_queues (s : State) (l : Nat) (x : AdaptRt) : (s.setAdapt l x).queues = s.queues := by cases s; rfl
@[simp] theorem State.setAdapt_ctl (s : State) (l : Nat) (x : AdaptRt) : (s.setAdapt l x).ctl = s.ctl := by cases s; rfl
@[simp] theorem State.setAdapt_le (s : State) (l : Nat) (x : AdaptRt) : (s.setAdapt l x).le = s.le := by cases s; rfl
@[simp] theorem State.setAdapt_cip (s : State) (l : Nat) (x : AdaptRt) : (s.setAdapt l x).cip = s.cip := by cases s; rfl
@[simp] theorem State.setAdapt_pw (s : State) (l : Nat) (x : AdaptRt) : (s.setAdapt l x).pw = s.pw := by cases s; rfl
@[simp] theorem State.setAdapt_mem (s : State) (l : Nat) (x : AdaptRt) : (s.setAdapt l x).mem = s.mem := by cases s; rfl
@[simp] theorem State.setAdapt_disp (s : State) (l : Nat) (x : AdaptRt) : (s.setAdapt l x).disp = s.disp := by cases s; rfl
@[simp] theorem State.setAdapt_mt (s : State) (l : Nat) (x : AdaptRt) : (s.setAdapt l x).mt = s.mt := by cases s; rfl
@[simp] theorem State.setAdapt_sec (s : State) (l : Nat) (x : AdaptRt) : (s.setAdapt l x).sec = s.sec := by cases s; rfl
@[simp] theorem State.setAdapt_conf (s : State) (l : Nat) (x : AdaptRt) : (s.setAdapt l x).conf = s.conf := by cases s; rfl
@[simp] theorem State.setAdapt_mm (s : State) (l : Nat) (x : AdaptRt) : (s.setAdapt l x).mm = s.mm := by cases s; rfl
@[simp] theorem State.setAdapt_tw (s : State) (l : Nat) (x : AdaptRt) : (s.setAdapt l x).tw = s.tw := by cases s; rfl
@[simp] theorem State.setAdapt_fb (s : State) (l : Nat) (x : AdaptRt) : (s.setAdapt l x).fb = s.fb := by cases s; rfl
@[simp] theorem State.setAdapt_speech (s : State) (l : Nat) (x : AdaptRt) : (s.setAdapt l x).speech = s.speech := by cases s; rfl
@[simp] theorem State.setAdapt_vd (s : State) (l : Nat) (x : AdaptRt) : (s.setAdapt l x).vd = s.vd := by cases s; rfl
@[simp] theorem State.setAdapt_cp (s : State) (l : Nat) (x : AdaptRt) : (s.setAdapt l x).cp = s.cp := by cases s; rfl
@[simp] theorem State.setAdapt_en (s : State) (l : Nat) (x : AdaptRt) : (s.setAdapt l x).en = s.en := by cases s; rfl
@[simp] theorem State.setAdapt_tm (s : State) (l : Nat) (x : AdaptRt) : (s.setAdapt l x).tm = s.tm := by cases s; rfl
@[simp] theorem State.setAdapt_ig (s : State) (l : Nat) (x : AdaptRt) : (s.setAdapt l x).ig = s.ig := by cases s; rfl
@[simp] theorem State.setAdapt_ad_feeds (s : State) (l : Nat) (x : AdaptRt) : (s.setAdapt l x).ad.feeds = s.ad.feeds := by cases s; rfl
@[simp] theorem State.setAdapt_ad_shapers (s : State) (l : Nat) (x : AdaptRt) : (s.setAdapt l x).ad.shapers = s.ad.shapers := by cases s; rfl
@[simp] theorem State.setAdapt_ad_groups (s : State) (l : Nat) (x : AdaptRt) : (s.setAdapt l x).ad.groups = s.ad.groups := by cases s; rfl
@[simp] theorem State.setAdapt_ad_groupDeficit (s : State) (l : Nat) (x : AdaptRt) : (s.setAdapt l x).ad.groupDeficit = s.ad.groupDeficit := by cases s; rfl
@[simp] theorem State.setAdapt_ad_ports (s : State) (l : Nat) (x : AdaptRt) : (s.setAdapt l x).ad.ports = s.ad.ports := by cases s; rfl
@[simp] theorem State.setAdapt_ad_programs (s : State) (l : Nat) (x : AdaptRt) : (s.setAdapt l x).ad.programs = s.ad.programs := by cases s; rfl
@[simp] theorem State.setAdapt_ad_backlog (s : State) (l : Nat) (x : AdaptRt) : (s.setAdapt l x).ad.backlog = s.ad.backlog := by cases s; rfl
@[simp] theorem State.setAdapt_ad_fir (s : State) (l : Nat) (x : AdaptRt) : (s.setAdapt l x).ad.fir = s.ad.fir := by cases s; rfl
@[simp] theorem State.setAdapt_ad_keyAsk (s : State) (l : Nat) (x : AdaptRt) : (s.setAdapt l x).ad.keyAsk = s.ad.keyAsk := by cases s; rfl
@[simp] theorem State.setAdapt_ad_shipped (s : State) (l : Nat) (x : AdaptRt) : (s.setAdapt l x).ad.shipped = s.ad.shipped := by cases s; rfl
@[simp] theorem State.setAdapt_ad_inbox (s : State) (l : Nat) (x : AdaptRt) : (s.setAdapt l x).ad.inbox = s.ad.inbox := by cases s; rfl
@[simp] theorem State.setAdapt_ad_kept (s : State) (l : Nat) (x : AdaptRt) : (s.setAdapt l x).ad.kept = s.ad.kept := by cases s; rfl
@[simp] theorem State.setAdapt_ad_turns (s : State) (l : Nat) (x : AdaptRt) : (s.setAdapt l x).ad.turns = s.ad.turns := by cases s; rfl
@[simp] theorem State.setAdapt_ad_seen (s : State) (l : Nat) (x : AdaptRt) : (s.setAdapt l x).ad.seen = s.ad.seen := by cases s; rfl
@[simp] theorem State.setAdapt_rd (s : State) (l : Nat) (x : AdaptRt) (j : Nat) : (s.setAdapt l x).rd j = s.rd j := by cases s; rfl
@[simp] theorem State.setAdapt_q (s : State) (l : Nat) (x : AdaptRt) (j : Nat) : (s.setAdapt l x).q j = s.q j := by cases s; rfl
@[simp] theorem State.setAdapt_same (s : State) (l : Nat) (x : AdaptRt) : (s.setAdapt l x).adapt l = x := AMap.get_put_same ..

@[simp] theorem State.setNq_pending (s : State) (p : Nat) (x : NqPort) : (s.setNq p x).pending = s.pending := by cases s; rfl
@[simp] theorem State.setNq_out (s : State) (p : Nat) (x : NqPort) : (s.setNq p x).out = s.out := by cases s; rfl
@[simp] theorem State.setNq_mono (s : State) (p : Nat) (x : NqPort) : (s.setNq p x).mono = s.mono := by cases s; rfl
@[simp] theorem State.setNq_tod (s : State) (p : Nat) (x : NqPort) : (s.setNq p x).tod = s.tod := by cases s; rfl
@[simp] theorem State.setNq_draws (s : State) (p : Nat) (x : NqPort) : (s.setNq p x).draws = s.draws := by cases s; rfl
@[simp] theorem State.setNq_season (s : State) (p : Nat) (x : NqPort) : (s.setNq p x).season = s.season := by cases s; rfl
@[simp] theorem State.setNq_dict (s : State) (p : Nat) (x : NqPort) : (s.setNq p x).dict = s.dict := by cases s; rfl
@[simp] theorem State.setNq_shadow (s : State) (p : Nat) (x : NqPort) : (s.setNq p x).shadow = s.shadow := by cases s; rfl
@[simp] theorem State.setNq_ev (s : State) (p : Nat) (x : NqPort) : (s.setNq p x).ev = s.ev := by cases s; rfl
@[simp] theorem State.setNq_hif (s : State) (p : Nat) (x : NqPort) : (s.setNq p x).hif = s.hif := by cases s; rfl
@[simp] theorem State.setNq_rings (s : State) (p : Nat) (x : NqPort) : (s.setNq p x).rings = s.rings := by cases s; rfl
@[simp] theorem State.setNq_queues (s : State) (p : Nat) (x : NqPort) : (s.setNq p x).queues = s.queues := by cases s; rfl
@[simp] theorem State.setNq_ctl (s : State) (p : Nat) (x : NqPort) : (s.setNq p x).ctl = s.ctl := by cases s; rfl
@[simp] theorem State.setNq_le (s : State) (p : Nat) (x : NqPort) : (s.setNq p x).le = s.le := by cases s; rfl
@[simp] theorem State.setNq_cip (s : State) (p : Nat) (x : NqPort) : (s.setNq p x).cip = s.cip := by cases s; rfl
@[simp] theorem State.setNq_pw (s : State) (p : Nat) (x : NqPort) : (s.setNq p x).pw = s.pw := by cases s; rfl
@[simp] theorem State.setNq_mem (s : State) (p : Nat) (x : NqPort) : (s.setNq p x).mem = s.mem := by cases s; rfl
@[simp] theorem State.setNq_disp (s : State) (p : Nat) (x : NqPort) : (s.setNq p x).disp = s.disp := by cases s; rfl
@[simp] theorem State.setNq_mt (s : State) (p : Nat) (x : NqPort) : (s.setNq p x).mt = s.mt := by cases s; rfl
@[simp] theorem State.setNq_sec (s : State) (p : Nat) (x : NqPort) : (s.setNq p x).sec = s.sec := by cases s; rfl
@[simp] theorem State.setNq_conf (s : State) (p : Nat) (x : NqPort) : (s.setNq p x).conf = s.conf := by cases s; rfl
@[simp] theorem State.setNq_ad (s : State) (p : Nat) (x : NqPort) : (s.setNq p x).ad = s.ad := by cases s; rfl
@[simp] theorem State.setNq_mm (s : State) (p : Nat) (x : NqPort) : (s.setNq p x).mm = s.mm := by cases s; rfl
@[simp] theorem State.setNq_tw (s : State) (p : Nat) (x : NqPort) : (s.setNq p x).tw = s.tw := by cases s; rfl
@[simp] theorem State.setNq_speech (s : State) (p : Nat) (x : NqPort) : (s.setNq p x).speech = s.speech := by cases s; rfl
@[simp] theorem State.setNq_vd (s : State) (p : Nat) (x : NqPort) : (s.setNq p x).vd = s.vd := by cases s; rfl
@[simp] theorem State.setNq_cp (s : State) (p : Nat) (x : NqPort) : (s.setNq p x).cp = s.cp := by cases s; rfl
@[simp] theorem State.setNq_en (s : State) (p : Nat) (x : NqPort) : (s.setNq p x).en = s.en := by cases s; rfl
@[simp] theorem State.setNq_tm (s : State) (p : Nat) (x : NqPort) : (s.setNq p x).tm = s.tm := by cases s; rfl
@[simp] theorem State.setNq_ig (s : State) (p : Nat) (x : NqPort) : (s.setNq p x).ig = s.ig := by cases s; rfl
@[simp] theorem State.setNq_fb_lanes (s : State) (p : Nat) (x : NqPort) : (s.setNq p x).fb.lanes = s.fb.lanes := by cases s; rfl
@[simp] theorem State.setNq_fb_live (s : State) (p : Nat) (x : NqPort) : (s.setNq p x).fb.live = s.fb.live := by cases s; rfl
@[simp] theorem State.setNq_fb_hop (s : State) (p : Nat) (x : NqPort) : (s.setNq p x).fb.hop = s.fb.hop := by cases s; rfl
@[simp] theorem State.setNq_fb_inbox (s : State) (p : Nat) (x : NqPort) : (s.setNq p x).fb.inbox = s.fb.inbox := by cases s; rfl
@[simp] theorem State.setNq_fb_seqs (s : State) (p : Nat) (x : NqPort) : (s.setNq p x).fb.seqs = s.fb.seqs := by cases s; rfl
@[simp] theorem State.setNq_fb_unacked (s : State) (p : Nat) (x : NqPort) : (s.setNq p x).fb.unacked = s.fb.unacked := by cases s; rfl
@[simp] theorem State.setNq_fb_rxNext (s : State) (p : Nat) (x : NqPort) : (s.setNq p x).fb.rxNext = s.fb.rxNext := by cases s; rfl
@[simp] theorem State.setNq_fb_rxHeld (s : State) (p : Nat) (x : NqPort) : (s.setNq p x).fb.rxHeld = s.fb.rxHeld := by cases s; rfl
@[simp] theorem State.setNq_fb_lsdb (s : State) (p : Nat) (x : NqPort) : (s.setNq p x).fb.lsdb = s.fb.lsdb := by cases s; rfl
@[simp] theorem State.setNq_fb_lsaSeq (s : State) (p : Nat) (x : NqPort) : (s.setNq p x).fb.lsaSeq = s.fb.lsaSeq := by cases s; rfl
@[simp] theorem State.setNq_fb_lsaAt (s : State) (p : Nat) (x : NqPort) : (s.setNq p x).fb.lsaAt = s.fb.lsaAt := by cases s; rfl
@[simp] theorem State.setNq_fb_lsaSent (s : State) (p : Nat) (x : NqPort) : (s.setNq p x).fb.lsaSent = s.fb.lsaSent := by cases s; rfl
@[simp] theorem State.setNq_fb_changed (s : State) (p : Nat) (x : NqPort) : (s.setNq p x).fb.changed = s.fb.changed := by cases s; rfl
@[simp] theorem State.setNq_fb_conflict (s : State) (p : Nat) (x : NqPort) : (s.setNq p x).fb.conflict = s.fb.conflict := by cases s; rfl
@[simp] theorem State.setNq_fb_routes (s : State) (p : Nat) (x : NqPort) : (s.setNq p x).fb.routes = s.fb.routes := by cases s; rfl
@[simp] theorem State.setNq_fb_subs (s : State) (p : Nat) (x : NqPort) : (s.setNq p x).fb.subs = s.fb.subs := by cases s; rfl
@[simp] theorem State.setNq_fb_seconds (s : State) (p : Nat) (x : NqPort) : (s.setNq p x).fb.seconds = s.fb.seconds := by cases s; rfl
@[simp] theorem State.setNq_fb_pm (s : State) (p : Nat) (x : NqPort) : (s.setNq p x).fb.pm = s.fb.pm := by cases s; rfl
@[simp] theorem State.setNq_fb_sent (s : State) (p : Nat) (x : NqPort) : (s.setNq p x).fb.sent = s.fb.sent := by cases s; rfl
@[simp] theorem State.setNq_rd (s : State) (p : Nat) (x : NqPort) (j : Nat) : (s.setNq p x).rd j = s.rd j := by cases s; rfl
@[simp] theorem State.setNq_q (s : State) (p : Nat) (x : NqPort) (j : Nat) : (s.setNq p x).q j = s.q j := by cases s; rfl
@[simp] theorem State.setNq_same (s : State) (p : Nat) (x : NqPort) : (s.setNq p x).nq p = x := AMap.get_put_same ..

@[simp] theorem State.setLane_pending (s : State) (l : Nat) (x : LaneRt) : (s.setLane l x).pending = s.pending := by cases s; rfl
@[simp] theorem State.setLane_out (s : State) (l : Nat) (x : LaneRt) : (s.setLane l x).out = s.out := by cases s; rfl
@[simp] theorem State.setLane_mono (s : State) (l : Nat) (x : LaneRt) : (s.setLane l x).mono = s.mono := by cases s; rfl
@[simp] theorem State.setLane_tod (s : State) (l : Nat) (x : LaneRt) : (s.setLane l x).tod = s.tod := by cases s; rfl
@[simp] theorem State.setLane_draws (s : State) (l : Nat) (x : LaneRt) : (s.setLane l x).draws = s.draws := by cases s; rfl
@[simp] theorem State.setLane_season (s : State) (l : Nat) (x : LaneRt) : (s.setLane l x).season = s.season := by cases s; rfl
@[simp] theorem State.setLane_dict (s : State) (l : Nat) (x : LaneRt) : (s.setLane l x).dict = s.dict := by cases s; rfl
@[simp] theorem State.setLane_shadow (s : State) (l : Nat) (x : LaneRt) : (s.setLane l x).shadow = s.shadow := by cases s; rfl
@[simp] theorem State.setLane_ev (s : State) (l : Nat) (x : LaneRt) : (s.setLane l x).ev = s.ev := by cases s; rfl
@[simp] theorem State.setLane_hif (s : State) (l : Nat) (x : LaneRt) : (s.setLane l x).hif = s.hif := by cases s; rfl
@[simp] theorem State.setLane_rings (s : State) (l : Nat) (x : LaneRt) : (s.setLane l x).rings = s.rings := by cases s; rfl
@[simp] theorem State.setLane_queues (s : State) (l : Nat) (x : LaneRt) : (s.setLane l x).queues = s.queues := by cases s; rfl
@[simp] theorem State.setLane_ctl (s : State) (l : Nat) (x : LaneRt) : (s.setLane l x).ctl = s.ctl := by cases s; rfl
@[simp] theorem State.setLane_le (s : State) (l : Nat) (x : LaneRt) : (s.setLane l x).le = s.le := by cases s; rfl
@[simp] theorem State.setLane_cip (s : State) (l : Nat) (x : LaneRt) : (s.setLane l x).cip = s.cip := by cases s; rfl
@[simp] theorem State.setLane_pw (s : State) (l : Nat) (x : LaneRt) : (s.setLane l x).pw = s.pw := by cases s; rfl
@[simp] theorem State.setLane_mem (s : State) (l : Nat) (x : LaneRt) : (s.setLane l x).mem = s.mem := by cases s; rfl
@[simp] theorem State.setLane_disp (s : State) (l : Nat) (x : LaneRt) : (s.setLane l x).disp = s.disp := by cases s; rfl
@[simp] theorem State.setLane_mt (s : State) (l : Nat) (x : LaneRt) : (s.setLane l x).mt = s.mt := by cases s; rfl
@[simp] theorem State.setLane_sec (s : State) (l : Nat) (x : LaneRt) : (s.setLane l x).sec = s.sec := by cases s; rfl
@[simp] theorem State.setLane_conf (s : State) (l : Nat) (x : LaneRt) : (s.setLane l x).conf = s.conf := by cases s; rfl
@[simp] theorem State.setLane_ad (s : State) (l : Nat) (x : LaneRt) : (s.setLane l x).ad = s.ad := by cases s; rfl
@[simp] theorem State.setLane_mm (s : State) (l : Nat) (x : LaneRt) : (s.setLane l x).mm = s.mm := by cases s; rfl
@[simp] theorem State.setLane_tw (s : State) (l : Nat) (x : LaneRt) : (s.setLane l x).tw = s.tw := by cases s; rfl
@[simp] theorem State.setLane_speech (s : State) (l : Nat) (x : LaneRt) : (s.setLane l x).speech = s.speech := by cases s; rfl
@[simp] theorem State.setLane_vd (s : State) (l : Nat) (x : LaneRt) : (s.setLane l x).vd = s.vd := by cases s; rfl
@[simp] theorem State.setLane_cp (s : State) (l : Nat) (x : LaneRt) : (s.setLane l x).cp = s.cp := by cases s; rfl
@[simp] theorem State.setLane_en (s : State) (l : Nat) (x : LaneRt) : (s.setLane l x).en = s.en := by cases s; rfl
@[simp] theorem State.setLane_tm (s : State) (l : Nat) (x : LaneRt) : (s.setLane l x).tm = s.tm := by cases s; rfl
@[simp] theorem State.setLane_ig (s : State) (l : Nat) (x : LaneRt) : (s.setLane l x).ig = s.ig := by cases s; rfl
@[simp] theorem State.setLane_fb_ports (s : State) (l : Nat) (x : LaneRt) : (s.setLane l x).fb.ports = s.fb.ports := by cases s; rfl
@[simp] theorem State.setLane_fb_live (s : State) (l : Nat) (x : LaneRt) : (s.setLane l x).fb.live = s.fb.live := by cases s; rfl
@[simp] theorem State.setLane_fb_hop (s : State) (l : Nat) (x : LaneRt) : (s.setLane l x).fb.hop = s.fb.hop := by cases s; rfl
@[simp] theorem State.setLane_fb_inbox (s : State) (l : Nat) (x : LaneRt) : (s.setLane l x).fb.inbox = s.fb.inbox := by cases s; rfl
@[simp] theorem State.setLane_fb_seqs (s : State) (l : Nat) (x : LaneRt) : (s.setLane l x).fb.seqs = s.fb.seqs := by cases s; rfl
@[simp] theorem State.setLane_fb_unacked (s : State) (l : Nat) (x : LaneRt) : (s.setLane l x).fb.unacked = s.fb.unacked := by cases s; rfl
@[simp] theorem State.setLane_fb_rxNext (s : State) (l : Nat) (x : LaneRt) : (s.setLane l x).fb.rxNext = s.fb.rxNext := by cases s; rfl
@[simp] theorem State.setLane_fb_rxHeld (s : State) (l : Nat) (x : LaneRt) : (s.setLane l x).fb.rxHeld = s.fb.rxHeld := by cases s; rfl
@[simp] theorem State.setLane_fb_lsdb (s : State) (l : Nat) (x : LaneRt) : (s.setLane l x).fb.lsdb = s.fb.lsdb := by cases s; rfl
@[simp] theorem State.setLane_fb_lsaSeq (s : State) (l : Nat) (x : LaneRt) : (s.setLane l x).fb.lsaSeq = s.fb.lsaSeq := by cases s; rfl
@[simp] theorem State.setLane_fb_lsaAt (s : State) (l : Nat) (x : LaneRt) : (s.setLane l x).fb.lsaAt = s.fb.lsaAt := by cases s; rfl
@[simp] theorem State.setLane_fb_lsaSent (s : State) (l : Nat) (x : LaneRt) : (s.setLane l x).fb.lsaSent = s.fb.lsaSent := by cases s; rfl
@[simp] theorem State.setLane_fb_changed (s : State) (l : Nat) (x : LaneRt) : (s.setLane l x).fb.changed = s.fb.changed := by cases s; rfl
@[simp] theorem State.setLane_fb_conflict (s : State) (l : Nat) (x : LaneRt) : (s.setLane l x).fb.conflict = s.fb.conflict := by cases s; rfl
@[simp] theorem State.setLane_fb_routes (s : State) (l : Nat) (x : LaneRt) : (s.setLane l x).fb.routes = s.fb.routes := by cases s; rfl
@[simp] theorem State.setLane_fb_subs (s : State) (l : Nat) (x : LaneRt) : (s.setLane l x).fb.subs = s.fb.subs := by cases s; rfl
@[simp] theorem State.setLane_fb_seconds (s : State) (l : Nat) (x : LaneRt) : (s.setLane l x).fb.seconds = s.fb.seconds := by cases s; rfl
@[simp] theorem State.setLane_fb_pm (s : State) (l : Nat) (x : LaneRt) : (s.setLane l x).fb.pm = s.fb.pm := by cases s; rfl
@[simp] theorem State.setLane_fb_sent (s : State) (l : Nat) (x : LaneRt) : (s.setLane l x).fb.sent = s.fb.sent := by cases s; rfl
@[simp] theorem State.setLane_rd (s : State) (l : Nat) (x : LaneRt) (j : Nat) : (s.setLane l x).rd j = s.rd j := by cases s; rfl
@[simp] theorem State.setLane_q (s : State) (l : Nat) (x : LaneRt) (j : Nat) : (s.setLane l x).q j = s.q j := by cases s; rfl
@[simp] theorem State.setLane_same (s : State) (l : Nat) (x : LaneRt) : (s.setLane l x).lane l = x := AMap.get_put_same ..

@[simp] theorem State.tally_pending (s : State) (k n : Nat) : (s.tally k n).pending = s.pending := by cases s; rfl
@[simp] theorem State.tally_out (s : State) (k n : Nat) : (s.tally k n).out = s.out := by cases s; rfl
@[simp] theorem State.tally_mono (s : State) (k n : Nat) : (s.tally k n).mono = s.mono := by cases s; rfl
@[simp] theorem State.tally_tod (s : State) (k n : Nat) : (s.tally k n).tod = s.tod := by cases s; rfl
@[simp] theorem State.tally_draws (s : State) (k n : Nat) : (s.tally k n).draws = s.draws := by cases s; rfl
@[simp] theorem State.tally_season (s : State) (k n : Nat) : (s.tally k n).season = s.season := by cases s; rfl
@[simp] theorem State.tally_dict (s : State) (k n : Nat) : (s.tally k n).dict = s.dict := by cases s; rfl
@[simp] theorem State.tally_shadow (s : State) (k n : Nat) : (s.tally k n).shadow = s.shadow := by cases s; rfl
@[simp] theorem State.tally_ev (s : State) (k n : Nat) : (s.tally k n).ev = s.ev := by cases s; rfl
@[simp] theorem State.tally_hif (s : State) (k n : Nat) : (s.tally k n).hif = s.hif := by cases s; rfl
@[simp] theorem State.tally_rings (s : State) (k n : Nat) : (s.tally k n).rings = s.rings := by cases s; rfl
@[simp] theorem State.tally_queues (s : State) (k n : Nat) : (s.tally k n).queues = s.queues := by cases s; rfl
@[simp] theorem State.tally_ctl (s : State) (k n : Nat) : (s.tally k n).ctl = s.ctl := by cases s; rfl
@[simp] theorem State.tally_le (s : State) (k n : Nat) : (s.tally k n).le = s.le := by cases s; rfl
@[simp] theorem State.tally_cip (s : State) (k n : Nat) : (s.tally k n).cip = s.cip := by cases s; rfl
@[simp] theorem State.tally_pw (s : State) (k n : Nat) : (s.tally k n).pw = s.pw := by cases s; rfl
@[simp] theorem State.tally_mem (s : State) (k n : Nat) : (s.tally k n).mem = s.mem := by cases s; rfl
@[simp] theorem State.tally_disp (s : State) (k n : Nat) : (s.tally k n).disp = s.disp := by cases s; rfl
@[simp] theorem State.tally_mt (s : State) (k n : Nat) : (s.tally k n).mt = s.mt := by cases s; rfl
@[simp] theorem State.tally_sec (s : State) (k n : Nat) : (s.tally k n).sec = s.sec := by cases s; rfl
@[simp] theorem State.tally_conf (s : State) (k n : Nat) : (s.tally k n).conf = s.conf := by cases s; rfl
@[simp] theorem State.tally_ad (s : State) (k n : Nat) : (s.tally k n).ad = s.ad := by cases s; rfl
@[simp] theorem State.tally_mm (s : State) (k n : Nat) : (s.tally k n).mm = s.mm := by cases s; rfl
@[simp] theorem State.tally_tw (s : State) (k n : Nat) : (s.tally k n).tw = s.tw := by cases s; rfl
@[simp] theorem State.tally_speech (s : State) (k n : Nat) : (s.tally k n).speech = s.speech := by cases s; rfl
@[simp] theorem State.tally_vd (s : State) (k n : Nat) : (s.tally k n).vd = s.vd := by cases s; rfl
@[simp] theorem State.tally_cp (s : State) (k n : Nat) : (s.tally k n).cp = s.cp := by cases s; rfl
@[simp] theorem State.tally_en (s : State) (k n : Nat) : (s.tally k n).en = s.en := by cases s; rfl
@[simp] theorem State.tally_tm (s : State) (k n : Nat) : (s.tally k n).tm = s.tm := by cases s; rfl
@[simp] theorem State.tally_ig (s : State) (k n : Nat) : (s.tally k n).ig = s.ig := by cases s; rfl
@[simp] theorem State.tally_fb_ports (s : State) (k n : Nat) : (s.tally k n).fb.ports = s.fb.ports := by cases s; rfl
@[simp] theorem State.tally_fb_lanes (s : State) (k n : Nat) : (s.tally k n).fb.lanes = s.fb.lanes := by cases s; rfl
@[simp] theorem State.tally_fb_hop (s : State) (k n : Nat) : (s.tally k n).fb.hop = s.fb.hop := by cases s; rfl
@[simp] theorem State.tally_fb_inbox (s : State) (k n : Nat) : (s.tally k n).fb.inbox = s.fb.inbox := by cases s; rfl
@[simp] theorem State.tally_fb_seqs (s : State) (k n : Nat) : (s.tally k n).fb.seqs = s.fb.seqs := by cases s; rfl
@[simp] theorem State.tally_fb_unacked (s : State) (k n : Nat) : (s.tally k n).fb.unacked = s.fb.unacked := by cases s; rfl
@[simp] theorem State.tally_fb_rxNext (s : State) (k n : Nat) : (s.tally k n).fb.rxNext = s.fb.rxNext := by cases s; rfl
@[simp] theorem State.tally_fb_rxHeld (s : State) (k n : Nat) : (s.tally k n).fb.rxHeld = s.fb.rxHeld := by cases s; rfl
@[simp] theorem State.tally_fb_lsdb (s : State) (k n : Nat) : (s.tally k n).fb.lsdb = s.fb.lsdb := by cases s; rfl
@[simp] theorem State.tally_fb_lsaSeq (s : State) (k n : Nat) : (s.tally k n).fb.lsaSeq = s.fb.lsaSeq := by cases s; rfl
@[simp] theorem State.tally_fb_lsaAt (s : State) (k n : Nat) : (s.tally k n).fb.lsaAt = s.fb.lsaAt := by cases s; rfl
@[simp] theorem State.tally_fb_lsaSent (s : State) (k n : Nat) : (s.tally k n).fb.lsaSent = s.fb.lsaSent := by cases s; rfl
@[simp] theorem State.tally_fb_changed (s : State) (k n : Nat) : (s.tally k n).fb.changed = s.fb.changed := by cases s; rfl
@[simp] theorem State.tally_fb_conflict (s : State) (k n : Nat) : (s.tally k n).fb.conflict = s.fb.conflict := by cases s; rfl
@[simp] theorem State.tally_fb_routes (s : State) (k n : Nat) : (s.tally k n).fb.routes = s.fb.routes := by cases s; rfl
@[simp] theorem State.tally_fb_subs (s : State) (k n : Nat) : (s.tally k n).fb.subs = s.fb.subs := by cases s; rfl
@[simp] theorem State.tally_fb_seconds (s : State) (k n : Nat) : (s.tally k n).fb.seconds = s.fb.seconds := by cases s; rfl
@[simp] theorem State.tally_fb_pm (s : State) (k n : Nat) : (s.tally k n).fb.pm = s.fb.pm := by cases s; rfl
@[simp] theorem State.tally_fb_sent (s : State) (k n : Nat) : (s.tally k n).fb.sent = s.fb.sent := by cases s; rfl
@[simp] theorem State.tally_rd (s : State) (k n : Nat) (j : Nat) : (s.tally k n).rd j = s.rd j := by cases s; rfl
@[simp] theorem State.tally_q (s : State) (k n : Nat) (j : Nat) : (s.tally k n).q j = s.q j := by cases s; rfl

@[simp] theorem State.setSecond_pending (s : State) (p : Nat) (x : PmSecond) : (s.setSecond p x).pending = s.pending := by cases s; rfl
@[simp] theorem State.setSecond_out (s : State) (p : Nat) (x : PmSecond) : (s.setSecond p x).out = s.out := by cases s; rfl
@[simp] theorem State.setSecond_mono (s : State) (p : Nat) (x : PmSecond) : (s.setSecond p x).mono = s.mono := by cases s; rfl
@[simp] theorem State.setSecond_tod (s : State) (p : Nat) (x : PmSecond) : (s.setSecond p x).tod = s.tod := by cases s; rfl
@[simp] theorem State.setSecond_draws (s : State) (p : Nat) (x : PmSecond) : (s.setSecond p x).draws = s.draws := by cases s; rfl
@[simp] theorem State.setSecond_season (s : State) (p : Nat) (x : PmSecond) : (s.setSecond p x).season = s.season := by cases s; rfl
@[simp] theorem State.setSecond_dict (s : State) (p : Nat) (x : PmSecond) : (s.setSecond p x).dict = s.dict := by cases s; rfl
@[simp] theorem State.setSecond_shadow (s : State) (p : Nat) (x : PmSecond) : (s.setSecond p x).shadow = s.shadow := by cases s; rfl
@[simp] theorem State.setSecond_ev (s : State) (p : Nat) (x : PmSecond) : (s.setSecond p x).ev = s.ev := by cases s; rfl
@[simp] theorem State.setSecond_hif (s : State) (p : Nat) (x : PmSecond) : (s.setSecond p x).hif = s.hif := by cases s; rfl
@[simp] theorem State.setSecond_rings (s : State) (p : Nat) (x : PmSecond) : (s.setSecond p x).rings = s.rings := by cases s; rfl
@[simp] theorem State.setSecond_queues (s : State) (p : Nat) (x : PmSecond) : (s.setSecond p x).queues = s.queues := by cases s; rfl
@[simp] theorem State.setSecond_ctl (s : State) (p : Nat) (x : PmSecond) : (s.setSecond p x).ctl = s.ctl := by cases s; rfl
@[simp] theorem State.setSecond_le (s : State) (p : Nat) (x : PmSecond) : (s.setSecond p x).le = s.le := by cases s; rfl
@[simp] theorem State.setSecond_cip (s : State) (p : Nat) (x : PmSecond) : (s.setSecond p x).cip = s.cip := by cases s; rfl
@[simp] theorem State.setSecond_pw (s : State) (p : Nat) (x : PmSecond) : (s.setSecond p x).pw = s.pw := by cases s; rfl
@[simp] theorem State.setSecond_mem (s : State) (p : Nat) (x : PmSecond) : (s.setSecond p x).mem = s.mem := by cases s; rfl
@[simp] theorem State.setSecond_disp (s : State) (p : Nat) (x : PmSecond) : (s.setSecond p x).disp = s.disp := by cases s; rfl
@[simp] theorem State.setSecond_mt (s : State) (p : Nat) (x : PmSecond) : (s.setSecond p x).mt = s.mt := by cases s; rfl
@[simp] theorem State.setSecond_sec (s : State) (p : Nat) (x : PmSecond) : (s.setSecond p x).sec = s.sec := by cases s; rfl
@[simp] theorem State.setSecond_conf (s : State) (p : Nat) (x : PmSecond) : (s.setSecond p x).conf = s.conf := by cases s; rfl
@[simp] theorem State.setSecond_ad (s : State) (p : Nat) (x : PmSecond) : (s.setSecond p x).ad = s.ad := by cases s; rfl
@[simp] theorem State.setSecond_mm (s : State) (p : Nat) (x : PmSecond) : (s.setSecond p x).mm = s.mm := by cases s; rfl
@[simp] theorem State.setSecond_tw (s : State) (p : Nat) (x : PmSecond) : (s.setSecond p x).tw = s.tw := by cases s; rfl
@[simp] theorem State.setSecond_speech (s : State) (p : Nat) (x : PmSecond) : (s.setSecond p x).speech = s.speech := by cases s; rfl
@[simp] theorem State.setSecond_vd (s : State) (p : Nat) (x : PmSecond) : (s.setSecond p x).vd = s.vd := by cases s; rfl
@[simp] theorem State.setSecond_cp (s : State) (p : Nat) (x : PmSecond) : (s.setSecond p x).cp = s.cp := by cases s; rfl
@[simp] theorem State.setSecond_en (s : State) (p : Nat) (x : PmSecond) : (s.setSecond p x).en = s.en := by cases s; rfl
@[simp] theorem State.setSecond_tm (s : State) (p : Nat) (x : PmSecond) : (s.setSecond p x).tm = s.tm := by cases s; rfl
@[simp] theorem State.setSecond_ig (s : State) (p : Nat) (x : PmSecond) : (s.setSecond p x).ig = s.ig := by cases s; rfl
@[simp] theorem State.setSecond_fb_ports (s : State) (p : Nat) (x : PmSecond) : (s.setSecond p x).fb.ports = s.fb.ports := by cases s; rfl
@[simp] theorem State.setSecond_fb_lanes (s : State) (p : Nat) (x : PmSecond) : (s.setSecond p x).fb.lanes = s.fb.lanes := by cases s; rfl
@[simp] theorem State.setSecond_fb_live (s : State) (p : Nat) (x : PmSecond) : (s.setSecond p x).fb.live = s.fb.live := by cases s; rfl
@[simp] theorem State.setSecond_fb_hop (s : State) (p : Nat) (x : PmSecond) : (s.setSecond p x).fb.hop = s.fb.hop := by cases s; rfl
@[simp] theorem State.setSecond_fb_inbox (s : State) (p : Nat) (x : PmSecond) : (s.setSecond p x).fb.inbox = s.fb.inbox := by cases s; rfl
@[simp] theorem State.setSecond_fb_seqs (s : State) (p : Nat) (x : PmSecond) : (s.setSecond p x).fb.seqs = s.fb.seqs := by cases s; rfl
@[simp] theorem State.setSecond_fb_unacked (s : State) (p : Nat) (x : PmSecond) : (s.setSecond p x).fb.unacked = s.fb.unacked := by cases s; rfl
@[simp] theorem State.setSecond_fb_rxNext (s : State) (p : Nat) (x : PmSecond) : (s.setSecond p x).fb.rxNext = s.fb.rxNext := by cases s; rfl
@[simp] theorem State.setSecond_fb_rxHeld (s : State) (p : Nat) (x : PmSecond) : (s.setSecond p x).fb.rxHeld = s.fb.rxHeld := by cases s; rfl
@[simp] theorem State.setSecond_fb_lsdb (s : State) (p : Nat) (x : PmSecond) : (s.setSecond p x).fb.lsdb = s.fb.lsdb := by cases s; rfl
@[simp] theorem State.setSecond_fb_lsaSeq (s : State) (p : Nat) (x : PmSecond) : (s.setSecond p x).fb.lsaSeq = s.fb.lsaSeq := by cases s; rfl
@[simp] theorem State.setSecond_fb_lsaAt (s : State) (p : Nat) (x : PmSecond) : (s.setSecond p x).fb.lsaAt = s.fb.lsaAt := by cases s; rfl
@[simp] theorem State.setSecond_fb_lsaSent (s : State) (p : Nat) (x : PmSecond) : (s.setSecond p x).fb.lsaSent = s.fb.lsaSent := by cases s; rfl
@[simp] theorem State.setSecond_fb_changed (s : State) (p : Nat) (x : PmSecond) : (s.setSecond p x).fb.changed = s.fb.changed := by cases s; rfl
@[simp] theorem State.setSecond_fb_conflict (s : State) (p : Nat) (x : PmSecond) : (s.setSecond p x).fb.conflict = s.fb.conflict := by cases s; rfl
@[simp] theorem State.setSecond_fb_routes (s : State) (p : Nat) (x : PmSecond) : (s.setSecond p x).fb.routes = s.fb.routes := by cases s; rfl
@[simp] theorem State.setSecond_fb_subs (s : State) (p : Nat) (x : PmSecond) : (s.setSecond p x).fb.subs = s.fb.subs := by cases s; rfl
@[simp] theorem State.setSecond_fb_pm (s : State) (p : Nat) (x : PmSecond) : (s.setSecond p x).fb.pm = s.fb.pm := by cases s; rfl
@[simp] theorem State.setSecond_fb_sent (s : State) (p : Nat) (x : PmSecond) : (s.setSecond p x).fb.sent = s.fb.sent := by cases s; rfl
@[simp] theorem State.setSecond_rd (s : State) (p : Nat) (x : PmSecond) (j : Nat) : (s.setSecond p x).rd j = s.rd j := by cases s; rfl
@[simp] theorem State.setSecond_q (s : State) (p : Nat) (x : PmSecond) (j : Nat) : (s.setSecond p x).q j = s.q j := by cases s; rfl
@[simp] theorem State.setSecond_same (s : State) (p : Nat) (x : PmSecond) : (s.setSecond p x).second p = x := AMap.get_put_same ..

@[simp] theorem State.lsdbChanged_pending (s : State) : (s.lsdbChanged).pending = s.pending := by cases s; rfl
@[simp] theorem State.lsdbChanged_out (s : State) : (s.lsdbChanged).out = s.out := by cases s; rfl
@[simp] theorem State.lsdbChanged_mono (s : State) : (s.lsdbChanged).mono = s.mono := by cases s; rfl
@[simp] theorem State.lsdbChanged_tod (s : State) : (s.lsdbChanged).tod = s.tod := by cases s; rfl
@[simp] theorem State.lsdbChanged_draws (s : State) : (s.lsdbChanged).draws = s.draws := by cases s; rfl
@[simp] theorem State.lsdbChanged_season (s : State) : (s.lsdbChanged).season = s.season := by cases s; rfl
@[simp] theorem State.lsdbChanged_dict (s : State) : (s.lsdbChanged).dict = s.dict := by cases s; rfl
@[simp] theorem State.lsdbChanged_shadow (s : State) : (s.lsdbChanged).shadow = s.shadow := by cases s; rfl
@[simp] theorem State.lsdbChanged_ev (s : State) : (s.lsdbChanged).ev = s.ev := by cases s; rfl
@[simp] theorem State.lsdbChanged_hif (s : State) : (s.lsdbChanged).hif = s.hif := by cases s; rfl
@[simp] theorem State.lsdbChanged_rings (s : State) : (s.lsdbChanged).rings = s.rings := by cases s; rfl
@[simp] theorem State.lsdbChanged_queues (s : State) : (s.lsdbChanged).queues = s.queues := by cases s; rfl
@[simp] theorem State.lsdbChanged_ctl (s : State) : (s.lsdbChanged).ctl = s.ctl := by cases s; rfl
@[simp] theorem State.lsdbChanged_le (s : State) : (s.lsdbChanged).le = s.le := by cases s; rfl
@[simp] theorem State.lsdbChanged_cip (s : State) : (s.lsdbChanged).cip = s.cip := by cases s; rfl
@[simp] theorem State.lsdbChanged_pw (s : State) : (s.lsdbChanged).pw = s.pw := by cases s; rfl
@[simp] theorem State.lsdbChanged_mem (s : State) : (s.lsdbChanged).mem = s.mem := by cases s; rfl
@[simp] theorem State.lsdbChanged_disp (s : State) : (s.lsdbChanged).disp = s.disp := by cases s; rfl
@[simp] theorem State.lsdbChanged_mt (s : State) : (s.lsdbChanged).mt = s.mt := by cases s; rfl
@[simp] theorem State.lsdbChanged_sec (s : State) : (s.lsdbChanged).sec = s.sec := by cases s; rfl
@[simp] theorem State.lsdbChanged_conf (s : State) : (s.lsdbChanged).conf = s.conf := by cases s; rfl
@[simp] theorem State.lsdbChanged_ad (s : State) : (s.lsdbChanged).ad = s.ad := by cases s; rfl
@[simp] theorem State.lsdbChanged_mm (s : State) : (s.lsdbChanged).mm = s.mm := by cases s; rfl
@[simp] theorem State.lsdbChanged_tw (s : State) : (s.lsdbChanged).tw = s.tw := by cases s; rfl
@[simp] theorem State.lsdbChanged_speech (s : State) : (s.lsdbChanged).speech = s.speech := by cases s; rfl
@[simp] theorem State.lsdbChanged_vd (s : State) : (s.lsdbChanged).vd = s.vd := by cases s; rfl
@[simp] theorem State.lsdbChanged_cp (s : State) : (s.lsdbChanged).cp = s.cp := by cases s; rfl
@[simp] theorem State.lsdbChanged_en (s : State) : (s.lsdbChanged).en = s.en := by cases s; rfl
@[simp] theorem State.lsdbChanged_tm (s : State) : (s.lsdbChanged).tm = s.tm := by cases s; rfl
@[simp] theorem State.lsdbChanged_ig (s : State) : (s.lsdbChanged).ig = s.ig := by cases s; rfl
@[simp] theorem State.lsdbChanged_fb_ports (s : State) : (s.lsdbChanged).fb.ports = s.fb.ports := by cases s; rfl
@[simp] theorem State.lsdbChanged_fb_lanes (s : State) : (s.lsdbChanged).fb.lanes = s.fb.lanes := by cases s; rfl
@[simp] theorem State.lsdbChanged_fb_live (s : State) : (s.lsdbChanged).fb.live = s.fb.live := by cases s; rfl
@[simp] theorem State.lsdbChanged_fb_hop (s : State) : (s.lsdbChanged).fb.hop = s.fb.hop := by cases s; rfl
@[simp] theorem State.lsdbChanged_fb_inbox (s : State) : (s.lsdbChanged).fb.inbox = s.fb.inbox := by cases s; rfl
@[simp] theorem State.lsdbChanged_fb_seqs (s : State) : (s.lsdbChanged).fb.seqs = s.fb.seqs := by cases s; rfl
@[simp] theorem State.lsdbChanged_fb_unacked (s : State) : (s.lsdbChanged).fb.unacked = s.fb.unacked := by cases s; rfl
@[simp] theorem State.lsdbChanged_fb_rxNext (s : State) : (s.lsdbChanged).fb.rxNext = s.fb.rxNext := by cases s; rfl
@[simp] theorem State.lsdbChanged_fb_rxHeld (s : State) : (s.lsdbChanged).fb.rxHeld = s.fb.rxHeld := by cases s; rfl
@[simp] theorem State.lsdbChanged_fb_lsdb (s : State) : (s.lsdbChanged).fb.lsdb = s.fb.lsdb := by cases s; rfl
@[simp] theorem State.lsdbChanged_fb_lsaSeq (s : State) : (s.lsdbChanged).fb.lsaSeq = s.fb.lsaSeq := by cases s; rfl
@[simp] theorem State.lsdbChanged_fb_lsaAt (s : State) : (s.lsdbChanged).fb.lsaAt = s.fb.lsaAt := by cases s; rfl
@[simp] theorem State.lsdbChanged_fb_lsaSent (s : State) : (s.lsdbChanged).fb.lsaSent = s.fb.lsaSent := by cases s; rfl
@[simp] theorem State.lsdbChanged_fb_conflict (s : State) : (s.lsdbChanged).fb.conflict = s.fb.conflict := by cases s; rfl
@[simp] theorem State.lsdbChanged_fb_routes (s : State) : (s.lsdbChanged).fb.routes = s.fb.routes := by cases s; rfl
@[simp] theorem State.lsdbChanged_fb_subs (s : State) : (s.lsdbChanged).fb.subs = s.fb.subs := by cases s; rfl
@[simp] theorem State.lsdbChanged_fb_seconds (s : State) : (s.lsdbChanged).fb.seconds = s.fb.seconds := by cases s; rfl
@[simp] theorem State.lsdbChanged_fb_pm (s : State) : (s.lsdbChanged).fb.pm = s.fb.pm := by cases s; rfl
@[simp] theorem State.lsdbChanged_fb_sent (s : State) : (s.lsdbChanged).fb.sent = s.fb.sent := by cases s; rfl
@[simp] theorem State.lsdbChanged_rd (s : State) (j : Nat) : (s.lsdbChanged).rd j = s.rd j := by cases s; rfl
@[simp] theorem State.lsdbChanged_q (s : State) (j : Nat) : (s.lsdbChanged).q j = s.q j := by cases s; rfl

@[simp] theorem State.allot_pending (s : State) (p n : Nat) : (s.allot p n).pending = s.pending := by cases s; rfl
@[simp] theorem State.allot_out (s : State) (p n : Nat) : (s.allot p n).out = s.out := by cases s; rfl
@[simp] theorem State.allot_mono (s : State) (p n : Nat) : (s.allot p n).mono = s.mono := by cases s; rfl
@[simp] theorem State.allot_tod (s : State) (p n : Nat) : (s.allot p n).tod = s.tod := by cases s; rfl
@[simp] theorem State.allot_draws (s : State) (p n : Nat) : (s.allot p n).draws = s.draws := by cases s; rfl
@[simp] theorem State.allot_season (s : State) (p n : Nat) : (s.allot p n).season = s.season := by cases s; rfl
@[simp] theorem State.allot_dict (s : State) (p n : Nat) : (s.allot p n).dict = s.dict := by cases s; rfl
@[simp] theorem State.allot_shadow (s : State) (p n : Nat) : (s.allot p n).shadow = s.shadow := by cases s; rfl
@[simp] theorem State.allot_ev (s : State) (p n : Nat) : (s.allot p n).ev = s.ev := by cases s; rfl
@[simp] theorem State.allot_hif (s : State) (p n : Nat) : (s.allot p n).hif = s.hif := by cases s; rfl
@[simp] theorem State.allot_rings (s : State) (p n : Nat) : (s.allot p n).rings = s.rings := by cases s; rfl
@[simp] theorem State.allot_queues (s : State) (p n : Nat) : (s.allot p n).queues = s.queues := by cases s; rfl
@[simp] theorem State.allot_ctl (s : State) (p n : Nat) : (s.allot p n).ctl = s.ctl := by cases s; rfl
@[simp] theorem State.allot_le (s : State) (p n : Nat) : (s.allot p n).le = s.le := by cases s; rfl
@[simp] theorem State.allot_cip (s : State) (p n : Nat) : (s.allot p n).cip = s.cip := by cases s; rfl
@[simp] theorem State.allot_pw (s : State) (p n : Nat) : (s.allot p n).pw = s.pw := by cases s; rfl
@[simp] theorem State.allot_mem (s : State) (p n : Nat) : (s.allot p n).mem = s.mem := by cases s; rfl
@[simp] theorem State.allot_disp (s : State) (p n : Nat) : (s.allot p n).disp = s.disp := by cases s; rfl
@[simp] theorem State.allot_mt (s : State) (p n : Nat) : (s.allot p n).mt = s.mt := by cases s; rfl
@[simp] theorem State.allot_sec (s : State) (p n : Nat) : (s.allot p n).sec = s.sec := by cases s; rfl
@[simp] theorem State.allot_conf (s : State) (p n : Nat) : (s.allot p n).conf = s.conf := by cases s; rfl
@[simp] theorem State.allot_ad (s : State) (p n : Nat) : (s.allot p n).ad = s.ad := by cases s; rfl
@[simp] theorem State.allot_tw (s : State) (p n : Nat) : (s.allot p n).tw = s.tw := by cases s; rfl
@[simp] theorem State.allot_fb (s : State) (p n : Nat) : (s.allot p n).fb = s.fb := by cases s; rfl
@[simp] theorem State.allot_speech (s : State) (p n : Nat) : (s.allot p n).speech = s.speech := by cases s; rfl
@[simp] theorem State.allot_vd (s : State) (p n : Nat) : (s.allot p n).vd = s.vd := by cases s; rfl
@[simp] theorem State.allot_cp (s : State) (p n : Nat) : (s.allot p n).cp = s.cp := by cases s; rfl
@[simp] theorem State.allot_en (s : State) (p n : Nat) : (s.allot p n).en = s.en := by cases s; rfl
@[simp] theorem State.allot_tm (s : State) (p n : Nat) : (s.allot p n).tm = s.tm := by cases s; rfl
@[simp] theorem State.allot_ig (s : State) (p n : Nat) : (s.allot p n).ig = s.ig := by cases s; rfl
@[simp] theorem State.allot_mm_sizes (s : State) (p n : Nat) : (s.allot p n).mm.sizes = s.mm.sizes := by cases s; rfl
@[simp] theorem State.allot_mm_pcs (s : State) (p n : Nat) : (s.allot p n).mm.pcs = s.mm.pcs := by cases s; rfl
@[simp] theorem State.allot_mm_poison (s : State) (p n : Nat) : (s.allot p n).mm.poison = s.mm.poison := by cases s; rfl
@[simp] theorem State.allot_mm_training (s : State) (p n : Nat) : (s.allot p n).mm.training = s.mm.training := by cases s; rfl
@[simp] theorem State.allot_mm_updateAt (s : State) (p n : Nat) : (s.allot p n).mm.updateAt = s.mm.updateAt := by cases s; rfl
@[simp] theorem State.allot_mm_scrub (s : State) (p n : Nat) : (s.allot p n).mm.scrub = s.mm.scrub := by cases s; rfl
@[simp] theorem State.allot_mm_hot (s : State) (p n : Nat) : (s.allot p n).mm.hot = s.mm.hot := by cases s; rfl
@[simp] theorem State.allot_mm_traffic (s : State) (p n : Nat) : (s.allot p n).mm.traffic = s.mm.traffic := by cases s; rfl
@[simp] theorem State.allot_mm_nextId (s : State) (p n : Nat) : (s.allot p n).mm.nextId = s.mm.nextId := by cases s; rfl
@[simp] theorem State.allot_rd (s : State) (p n : Nat) (j : Nat) : (s.allot p n).rd j = s.rd j := by cases s; rfl
@[simp] theorem State.allot_q (s : State) (p n : Nat) (j : Nat) : (s.allot p n).q j = s.q j := by cases s; rfl

@[simp] theorem State.unallot_pending (s : State) (p n : Nat) : (s.unallot p n).pending = s.pending := by cases s; rfl
@[simp] theorem State.unallot_out (s : State) (p n : Nat) : (s.unallot p n).out = s.out := by cases s; rfl
@[simp] theorem State.unallot_mono (s : State) (p n : Nat) : (s.unallot p n).mono = s.mono := by cases s; rfl
@[simp] theorem State.unallot_tod (s : State) (p n : Nat) : (s.unallot p n).tod = s.tod := by cases s; rfl
@[simp] theorem State.unallot_draws (s : State) (p n : Nat) : (s.unallot p n).draws = s.draws := by cases s; rfl
@[simp] theorem State.unallot_season (s : State) (p n : Nat) : (s.unallot p n).season = s.season := by cases s; rfl
@[simp] theorem State.unallot_dict (s : State) (p n : Nat) : (s.unallot p n).dict = s.dict := by cases s; rfl
@[simp] theorem State.unallot_shadow (s : State) (p n : Nat) : (s.unallot p n).shadow = s.shadow := by cases s; rfl
@[simp] theorem State.unallot_ev (s : State) (p n : Nat) : (s.unallot p n).ev = s.ev := by cases s; rfl
@[simp] theorem State.unallot_hif (s : State) (p n : Nat) : (s.unallot p n).hif = s.hif := by cases s; rfl
@[simp] theorem State.unallot_rings (s : State) (p n : Nat) : (s.unallot p n).rings = s.rings := by cases s; rfl
@[simp] theorem State.unallot_queues (s : State) (p n : Nat) : (s.unallot p n).queues = s.queues := by cases s; rfl
@[simp] theorem State.unallot_ctl (s : State) (p n : Nat) : (s.unallot p n).ctl = s.ctl := by cases s; rfl
@[simp] theorem State.unallot_le (s : State) (p n : Nat) : (s.unallot p n).le = s.le := by cases s; rfl
@[simp] theorem State.unallot_cip (s : State) (p n : Nat) : (s.unallot p n).cip = s.cip := by cases s; rfl
@[simp] theorem State.unallot_pw (s : State) (p n : Nat) : (s.unallot p n).pw = s.pw := by cases s; rfl
@[simp] theorem State.unallot_mem (s : State) (p n : Nat) : (s.unallot p n).mem = s.mem := by cases s; rfl
@[simp] theorem State.unallot_disp (s : State) (p n : Nat) : (s.unallot p n).disp = s.disp := by cases s; rfl
@[simp] theorem State.unallot_mt (s : State) (p n : Nat) : (s.unallot p n).mt = s.mt := by cases s; rfl
@[simp] theorem State.unallot_sec (s : State) (p n : Nat) : (s.unallot p n).sec = s.sec := by cases s; rfl
@[simp] theorem State.unallot_conf (s : State) (p n : Nat) : (s.unallot p n).conf = s.conf := by cases s; rfl
@[simp] theorem State.unallot_ad (s : State) (p n : Nat) : (s.unallot p n).ad = s.ad := by cases s; rfl
@[simp] theorem State.unallot_tw (s : State) (p n : Nat) : (s.unallot p n).tw = s.tw := by cases s; rfl
@[simp] theorem State.unallot_fb (s : State) (p n : Nat) : (s.unallot p n).fb = s.fb := by cases s; rfl
@[simp] theorem State.unallot_speech (s : State) (p n : Nat) : (s.unallot p n).speech = s.speech := by cases s; rfl
@[simp] theorem State.unallot_vd (s : State) (p n : Nat) : (s.unallot p n).vd = s.vd := by cases s; rfl
@[simp] theorem State.unallot_cp (s : State) (p n : Nat) : (s.unallot p n).cp = s.cp := by cases s; rfl
@[simp] theorem State.unallot_en (s : State) (p n : Nat) : (s.unallot p n).en = s.en := by cases s; rfl
@[simp] theorem State.unallot_tm (s : State) (p n : Nat) : (s.unallot p n).tm = s.tm := by cases s; rfl
@[simp] theorem State.unallot_ig (s : State) (p n : Nat) : (s.unallot p n).ig = s.ig := by cases s; rfl
@[simp] theorem State.unallot_mm_sizes (s : State) (p n : Nat) : (s.unallot p n).mm.sizes = s.mm.sizes := by cases s; rfl
@[simp] theorem State.unallot_mm_pcs (s : State) (p n : Nat) : (s.unallot p n).mm.pcs = s.mm.pcs := by cases s; rfl
@[simp] theorem State.unallot_mm_poison (s : State) (p n : Nat) : (s.unallot p n).mm.poison = s.mm.poison := by cases s; rfl
@[simp] theorem State.unallot_mm_training (s : State) (p n : Nat) : (s.unallot p n).mm.training = s.mm.training := by cases s; rfl
@[simp] theorem State.unallot_mm_updateAt (s : State) (p n : Nat) : (s.unallot p n).mm.updateAt = s.mm.updateAt := by cases s; rfl
@[simp] theorem State.unallot_mm_scrub (s : State) (p n : Nat) : (s.unallot p n).mm.scrub = s.mm.scrub := by cases s; rfl
@[simp] theorem State.unallot_mm_hot (s : State) (p n : Nat) : (s.unallot p n).mm.hot = s.mm.hot := by cases s; rfl
@[simp] theorem State.unallot_mm_traffic (s : State) (p n : Nat) : (s.unallot p n).mm.traffic = s.mm.traffic := by cases s; rfl
@[simp] theorem State.unallot_mm_nextId (s : State) (p n : Nat) : (s.unallot p n).mm.nextId = s.mm.nextId := by cases s; rfl
@[simp] theorem State.unallot_rd (s : State) (p n : Nat) (j : Nat) : (s.unallot p n).rd j = s.rd j := by cases s; rfl
@[simp] theorem State.unallot_q (s : State) (p n : Nat) (j : Nat) : (s.unallot p n).q j = s.q j := by cases s; rfl

@[simp] theorem State.setLeg_pending (s : State) (l : Nat) (x : LegRt) : (s.setLeg l x).pending = s.pending := by cases s; rfl
@[simp] theorem State.setLeg_out (s : State) (l : Nat) (x : LegRt) : (s.setLeg l x).out = s.out := by cases s; rfl
@[simp] theorem State.setLeg_mono (s : State) (l : Nat) (x : LegRt) : (s.setLeg l x).mono = s.mono := by cases s; rfl
@[simp] theorem State.setLeg_tod (s : State) (l : Nat) (x : LegRt) : (s.setLeg l x).tod = s.tod := by cases s; rfl
@[simp] theorem State.setLeg_draws (s : State) (l : Nat) (x : LegRt) : (s.setLeg l x).draws = s.draws := by cases s; rfl
@[simp] theorem State.setLeg_season (s : State) (l : Nat) (x : LegRt) : (s.setLeg l x).season = s.season := by cases s; rfl
@[simp] theorem State.setLeg_dict (s : State) (l : Nat) (x : LegRt) : (s.setLeg l x).dict = s.dict := by cases s; rfl
@[simp] theorem State.setLeg_shadow (s : State) (l : Nat) (x : LegRt) : (s.setLeg l x).shadow = s.shadow := by cases s; rfl
@[simp] theorem State.setLeg_ev (s : State) (l : Nat) (x : LegRt) : (s.setLeg l x).ev = s.ev := by cases s; rfl
@[simp] theorem State.setLeg_hif (s : State) (l : Nat) (x : LegRt) : (s.setLeg l x).hif = s.hif := by cases s; rfl
@[simp] theorem State.setLeg_rings (s : State) (l : Nat) (x : LegRt) : (s.setLeg l x).rings = s.rings := by cases s; rfl
@[simp] theorem State.setLeg_queues (s : State) (l : Nat) (x : LegRt) : (s.setLeg l x).queues = s.queues := by cases s; rfl
@[simp] theorem State.setLeg_ctl (s : State) (l : Nat) (x : LegRt) : (s.setLeg l x).ctl = s.ctl := by cases s; rfl
@[simp] theorem State.setLeg_cip (s : State) (l : Nat) (x : LegRt) : (s.setLeg l x).cip = s.cip := by cases s; rfl
@[simp] theorem State.setLeg_pw (s : State) (l : Nat) (x : LegRt) : (s.setLeg l x).pw = s.pw := by cases s; rfl
@[simp] theorem State.setLeg_mem (s : State) (l : Nat) (x : LegRt) : (s.setLeg l x).mem = s.mem := by cases s; rfl
@[simp] theorem State.setLeg_disp (s : State) (l : Nat) (x : LegRt) : (s.setLeg l x).disp = s.disp := by cases s; rfl
@[simp] theorem State.setLeg_mt (s : State) (l : Nat) (x : LegRt) : (s.setLeg l x).mt = s.mt := by cases s; rfl
@[simp] theorem State.setLeg_sec (s : State) (l : Nat) (x : LegRt) : (s.setLeg l x).sec = s.sec := by cases s; rfl
@[simp] theorem State.setLeg_conf (s : State) (l : Nat) (x : LegRt) : (s.setLeg l x).conf = s.conf := by cases s; rfl
@[simp] theorem State.setLeg_ad (s : State) (l : Nat) (x : LegRt) : (s.setLeg l x).ad = s.ad := by cases s; rfl
@[simp] theorem State.setLeg_mm (s : State) (l : Nat) (x : LegRt) : (s.setLeg l x).mm = s.mm := by cases s; rfl
@[simp] theorem State.setLeg_tw (s : State) (l : Nat) (x : LegRt) : (s.setLeg l x).tw = s.tw := by cases s; rfl
@[simp] theorem State.setLeg_fb (s : State) (l : Nat) (x : LegRt) : (s.setLeg l x).fb = s.fb := by cases s; rfl
@[simp] theorem State.setLeg_speech (s : State) (l : Nat) (x : LegRt) : (s.setLeg l x).speech = s.speech := by cases s; rfl
@[simp] theorem State.setLeg_vd (s : State) (l : Nat) (x : LegRt) : (s.setLeg l x).vd = s.vd := by cases s; rfl
@[simp] theorem State.setLeg_cp (s : State) (l : Nat) (x : LegRt) : (s.setLeg l x).cp = s.cp := by cases s; rfl
@[simp] theorem State.setLeg_en (s : State) (l : Nat) (x : LegRt) : (s.setLeg l x).en = s.en := by cases s; rfl
@[simp] theorem State.setLeg_tm (s : State) (l : Nat) (x : LegRt) : (s.setLeg l x).tm = s.tm := by cases s; rfl
@[simp] theorem State.setLeg_ig (s : State) (l : Nat) (x : LegRt) : (s.setLeg l x).ig = s.ig := by cases s; rfl
@[simp] theorem State.setLeg_le_rx (s : State) (l : Nat) (x : LegRt) : (s.setLeg l x).le.rx = s.le.rx := by cases s; rfl
@[simp] theorem State.setLeg_le_tx (s : State) (l : Nat) (x : LegRt) : (s.setLeg l x).le.tx = s.le.tx := by cases s; rfl
@[simp] theorem State.setLeg_le_table (s : State) (l : Nat) (x : LegRt) : (s.setLeg l x).le.table = s.le.table := by cases s; rfl
@[simp] theorem State.setLeg_le_fifo (s : State) (l : Nat) (x : LegRt) : (s.setLeg l x).le.fifo = s.le.fifo := by cases s; rfl
@[simp] theorem State.setLeg_le_fifoOctets (s : State) (l : Nat) (x : LegRt) : (s.setLeg l x).le.fifoOctets = s.le.fifoOctets := by cases s; rfl
@[simp] theorem State.setLeg_le_shipped (s : State) (l : Nat) (x : LegRt) : (s.setLeg l x).le.shipped = s.le.shipped := by cases s; rfl
@[simp] theorem State.setLeg_le_classifier (s : State) (l : Nat) (x : LegRt) : (s.setLeg l x).le.classifier = s.le.classifier := by cases s; rfl
@[simp] theorem State.setLeg_le_exceptionTokens (s : State) (l : Nat) (x : LegRt) : (s.setLeg l x).le.exceptionTokens = s.le.exceptionTokens := by cases s; rfl
@[simp] theorem State.setLeg_le_exceptionAt (s : State) (l : Nat) (x : LegRt) : (s.setLeg l x).le.exceptionAt = s.le.exceptionAt := by cases s; rfl
@[simp] theorem State.setLeg_le_clips (s : State) (l : Nat) (x : LegRt) : (s.setLeg l x).le.clips = s.le.clips := by cases s; rfl
@[simp] theorem State.setLeg_le_seed (s : State) (l : Nat) (x : LegRt) : (s.setLeg l x).le.seed = s.le.seed := by cases s; rfl
@[simp] theorem State.setLeg_le_frame (s : State) (l : Nat) (x : LegRt) : (s.setLeg l x).le.frame = s.le.frame := by cases s; rfl
@[simp] theorem State.setLeg_rd (s : State) (l : Nat) (x : LegRt) (j : Nat) : (s.setLeg l x).rd j = s.rd j := by cases s; rfl
@[simp] theorem State.setLeg_q (s : State) (l : Nat) (x : LegRt) (j : Nat) : (s.setLeg l x).q j = s.q j := by cases s; rfl
@[simp] theorem State.setLeg_same (s : State) (l : Nat) (x : LegRt) : (s.setLeg l x).leg l = x := AMap.get_put_same ..

@[simp] theorem State.setRxE_pending (s : State) (l e : Nat) (x : RxEntry) : (s.setRxE l e x).pending = s.pending := by cases s; rfl
@[simp] theorem State.setRxE_out (s : State) (l e : Nat) (x : RxEntry) : (s.setRxE l e x).out = s.out := by cases s; rfl
@[simp] theorem State.setRxE_mono (s : State) (l e : Nat) (x : RxEntry) : (s.setRxE l e x).mono = s.mono := by cases s; rfl
@[simp] theorem State.setRxE_tod (s : State) (l e : Nat) (x : RxEntry) : (s.setRxE l e x).tod = s.tod := by cases s; rfl
@[simp] theorem State.setRxE_draws (s : State) (l e : Nat) (x : RxEntry) : (s.setRxE l e x).draws = s.draws := by cases s; rfl
@[simp] theorem State.setRxE_season (s : State) (l e : Nat) (x : RxEntry) : (s.setRxE l e x).season = s.season := by cases s; rfl
@[simp] theorem State.setRxE_dict (s : State) (l e : Nat) (x : RxEntry) : (s.setRxE l e x).dict = s.dict := by cases s; rfl
@[simp] theorem State.setRxE_shadow (s : State) (l e : Nat) (x : RxEntry) : (s.setRxE l e x).shadow = s.shadow := by cases s; rfl
@[simp] theorem State.setRxE_ev (s : State) (l e : Nat) (x : RxEntry) : (s.setRxE l e x).ev = s.ev := by cases s; rfl
@[simp] theorem State.setRxE_hif (s : State) (l e : Nat) (x : RxEntry) : (s.setRxE l e x).hif = s.hif := by cases s; rfl
@[simp] theorem State.setRxE_rings (s : State) (l e : Nat) (x : RxEntry) : (s.setRxE l e x).rings = s.rings := by cases s; rfl
@[simp] theorem State.setRxE_queues (s : State) (l e : Nat) (x : RxEntry) : (s.setRxE l e x).queues = s.queues := by cases s; rfl
@[simp] theorem State.setRxE_ctl (s : State) (l e : Nat) (x : RxEntry) : (s.setRxE l e x).ctl = s.ctl := by cases s; rfl
@[simp] theorem State.setRxE_cip (s : State) (l e : Nat) (x : RxEntry) : (s.setRxE l e x).cip = s.cip := by cases s; rfl
@[simp] theorem State.setRxE_pw (s : State) (l e : Nat) (x : RxEntry) : (s.setRxE l e x).pw = s.pw := by cases s; rfl
@[simp] theorem State.setRxE_mem (s : State) (l e : Nat) (x : RxEntry) : (s.setRxE l e x).mem = s.mem := by cases s; rfl
@[simp] theorem State.setRxE_disp (s : State) (l e : Nat) (x : RxEntry) : (s.setRxE l e x).disp = s.disp := by cases s; rfl
@[simp] theorem State.setRxE_mt (s : State) (l e : Nat) (x : RxEntry) : (s.setRxE l e x).mt = s.mt := by cases s; rfl
@[simp] theorem State.setRxE_sec (s : State) (l e : Nat) (x : RxEntry) : (s.setRxE l e x).sec = s.sec := by cases s; rfl
@[simp] theorem State.setRxE_conf (s : State) (l e : Nat) (x : RxEntry) : (s.setRxE l e x).conf = s.conf := by cases s; rfl
@[simp] theorem State.setRxE_ad (s : State) (l e : Nat) (x : RxEntry) : (s.setRxE l e x).ad = s.ad := by cases s; rfl
@[simp] theorem State.setRxE_mm (s : State) (l e : Nat) (x : RxEntry) : (s.setRxE l e x).mm = s.mm := by cases s; rfl
@[simp] theorem State.setRxE_tw (s : State) (l e : Nat) (x : RxEntry) : (s.setRxE l e x).tw = s.tw := by cases s; rfl
@[simp] theorem State.setRxE_fb (s : State) (l e : Nat) (x : RxEntry) : (s.setRxE l e x).fb = s.fb := by cases s; rfl
@[simp] theorem State.setRxE_speech (s : State) (l e : Nat) (x : RxEntry) : (s.setRxE l e x).speech = s.speech := by cases s; rfl
@[simp] theorem State.setRxE_vd (s : State) (l e : Nat) (x : RxEntry) : (s.setRxE l e x).vd = s.vd := by cases s; rfl
@[simp] theorem State.setRxE_cp (s : State) (l e : Nat) (x : RxEntry) : (s.setRxE l e x).cp = s.cp := by cases s; rfl
@[simp] theorem State.setRxE_en (s : State) (l e : Nat) (x : RxEntry) : (s.setRxE l e x).en = s.en := by cases s; rfl
@[simp] theorem State.setRxE_tm (s : State) (l e : Nat) (x : RxEntry) : (s.setRxE l e x).tm = s.tm := by cases s; rfl
@[simp] theorem State.setRxE_ig (s : State) (l e : Nat) (x : RxEntry) : (s.setRxE l e x).ig = s.ig := by cases s; rfl
@[simp] theorem State.setRxE_le_legs (s : State) (l e : Nat) (x : RxEntry) : (s.setRxE l e x).le.legs = s.le.legs := by cases s; rfl
@[simp] theorem State.setRxE_le_tx (s : State) (l e : Nat) (x : RxEntry) : (s.setRxE l e x).le.tx = s.le.tx := by cases s; rfl
@[simp] theorem State.setRxE_le_table (s : State) (l e : Nat) (x : RxEntry) : (s.setRxE l e x).le.table = s.le.table := by cases s; rfl
@[simp] theorem State.setRxE_le_fifo (s : State) (l e : Nat) (x : RxEntry) : (s.setRxE l e x).le.fifo = s.le.fifo := by cases s; rfl
@[simp] theorem State.setRxE_le_fifoOctets (s : State) (l e : Nat) (x : RxEntry) : (s.setRxE l e x).le.fifoOctets = s.le.fifoOctets := by cases s; rfl
@[simp] theorem State.setRxE_le_shipped (s : State) (l e : Nat) (x : RxEntry) : (s.setRxE l e x).le.shipped = s.le.shipped := by cases s; rfl
@[simp] theorem State.setRxE_le_classifier (s : State) (l e : Nat) (x : RxEntry) : (s.setRxE l e x).le.classifier = s.le.classifier := by cases s; rfl
@[simp] theorem State.setRxE_le_exceptionTokens (s : State) (l e : Nat) (x : RxEntry) : (s.setRxE l e x).le.exceptionTokens = s.le.exceptionTokens := by cases s; rfl
@[simp] theorem State.setRxE_le_exceptionAt (s : State) (l e : Nat) (x : RxEntry) : (s.setRxE l e x).le.exceptionAt = s.le.exceptionAt := by cases s; rfl
@[simp] theorem State.setRxE_le_clips (s : State) (l e : Nat) (x : RxEntry) : (s.setRxE l e x).le.clips = s.le.clips := by cases s; rfl
@[simp] theorem State.setRxE_le_seed (s : State) (l e : Nat) (x : RxEntry) : (s.setRxE l e x).le.seed = s.le.seed := by cases s; rfl
@[simp] theorem State.setRxE_le_frame (s : State) (l e : Nat) (x : RxEntry) : (s.setRxE l e x).le.frame = s.le.frame := by cases s; rfl
@[simp] theorem State.setRxE_rd (s : State) (l e : Nat) (x : RxEntry) (j : Nat) : (s.setRxE l e x).rd j = s.rd j := by cases s; rfl
@[simp] theorem State.setRxE_q (s : State) (l e : Nat) (x : RxEntry) (j : Nat) : (s.setRxE l e x).q j = s.q j := by cases s; rfl
@[simp] theorem State.setRxE_same (s : State) (l e : Nat) (x : RxEntry) : (s.setRxE l e x).rxE l e = x := AMap.get_put_same ..

@[simp] theorem State.setTxE_pending (s : State) (l e : Nat) (x : TxEntry) : (s.setTxE l e x).pending = s.pending := by cases s; rfl
@[simp] theorem State.setTxE_out (s : State) (l e : Nat) (x : TxEntry) : (s.setTxE l e x).out = s.out := by cases s; rfl
@[simp] theorem State.setTxE_mono (s : State) (l e : Nat) (x : TxEntry) : (s.setTxE l e x).mono = s.mono := by cases s; rfl
@[simp] theorem State.setTxE_tod (s : State) (l e : Nat) (x : TxEntry) : (s.setTxE l e x).tod = s.tod := by cases s; rfl
@[simp] theorem State.setTxE_draws (s : State) (l e : Nat) (x : TxEntry) : (s.setTxE l e x).draws = s.draws := by cases s; rfl
@[simp] theorem State.setTxE_season (s : State) (l e : Nat) (x : TxEntry) : (s.setTxE l e x).season = s.season := by cases s; rfl
@[simp] theorem State.setTxE_dict (s : State) (l e : Nat) (x : TxEntry) : (s.setTxE l e x).dict = s.dict := by cases s; rfl
@[simp] theorem State.setTxE_shadow (s : State) (l e : Nat) (x : TxEntry) : (s.setTxE l e x).shadow = s.shadow := by cases s; rfl
@[simp] theorem State.setTxE_ev (s : State) (l e : Nat) (x : TxEntry) : (s.setTxE l e x).ev = s.ev := by cases s; rfl
@[simp] theorem State.setTxE_hif (s : State) (l e : Nat) (x : TxEntry) : (s.setTxE l e x).hif = s.hif := by cases s; rfl
@[simp] theorem State.setTxE_rings (s : State) (l e : Nat) (x : TxEntry) : (s.setTxE l e x).rings = s.rings := by cases s; rfl
@[simp] theorem State.setTxE_queues (s : State) (l e : Nat) (x : TxEntry) : (s.setTxE l e x).queues = s.queues := by cases s; rfl
@[simp] theorem State.setTxE_ctl (s : State) (l e : Nat) (x : TxEntry) : (s.setTxE l e x).ctl = s.ctl := by cases s; rfl
@[simp] theorem State.setTxE_cip (s : State) (l e : Nat) (x : TxEntry) : (s.setTxE l e x).cip = s.cip := by cases s; rfl
@[simp] theorem State.setTxE_pw (s : State) (l e : Nat) (x : TxEntry) : (s.setTxE l e x).pw = s.pw := by cases s; rfl
@[simp] theorem State.setTxE_mem (s : State) (l e : Nat) (x : TxEntry) : (s.setTxE l e x).mem = s.mem := by cases s; rfl
@[simp] theorem State.setTxE_disp (s : State) (l e : Nat) (x : TxEntry) : (s.setTxE l e x).disp = s.disp := by cases s; rfl
@[simp] theorem State.setTxE_mt (s : State) (l e : Nat) (x : TxEntry) : (s.setTxE l e x).mt = s.mt := by cases s; rfl
@[simp] theorem State.setTxE_sec (s : State) (l e : Nat) (x : TxEntry) : (s.setTxE l e x).sec = s.sec := by cases s; rfl
@[simp] theorem State.setTxE_conf (s : State) (l e : Nat) (x : TxEntry) : (s.setTxE l e x).conf = s.conf := by cases s; rfl
@[simp] theorem State.setTxE_ad (s : State) (l e : Nat) (x : TxEntry) : (s.setTxE l e x).ad = s.ad := by cases s; rfl
@[simp] theorem State.setTxE_mm (s : State) (l e : Nat) (x : TxEntry) : (s.setTxE l e x).mm = s.mm := by cases s; rfl
@[simp] theorem State.setTxE_tw (s : State) (l e : Nat) (x : TxEntry) : (s.setTxE l e x).tw = s.tw := by cases s; rfl
@[simp] theorem State.setTxE_fb (s : State) (l e : Nat) (x : TxEntry) : (s.setTxE l e x).fb = s.fb := by cases s; rfl
@[simp] theorem State.setTxE_speech (s : State) (l e : Nat) (x : TxEntry) : (s.setTxE l e x).speech = s.speech := by cases s; rfl
@[simp] theorem State.setTxE_vd (s : State) (l e : Nat) (x : TxEntry) : (s.setTxE l e x).vd = s.vd := by cases s; rfl
@[simp] theorem State.setTxE_cp (s : State) (l e : Nat) (x : TxEntry) : (s.setTxE l e x).cp = s.cp := by cases s; rfl
@[simp] theorem State.setTxE_en (s : State) (l e : Nat) (x : TxEntry) : (s.setTxE l e x).en = s.en := by cases s; rfl
@[simp] theorem State.setTxE_tm (s : State) (l e : Nat) (x : TxEntry) : (s.setTxE l e x).tm = s.tm := by cases s; rfl
@[simp] theorem State.setTxE_ig (s : State) (l e : Nat) (x : TxEntry) : (s.setTxE l e x).ig = s.ig := by cases s; rfl
@[simp] theorem State.setTxE_le_legs (s : State) (l e : Nat) (x : TxEntry) : (s.setTxE l e x).le.legs = s.le.legs := by cases s; rfl
@[simp] theorem State.setTxE_le_rx (s : State) (l e : Nat) (x : TxEntry) : (s.setTxE l e x).le.rx = s.le.rx := by cases s; rfl
@[simp] theorem State.setTxE_le_table (s : State) (l e : Nat) (x : TxEntry) : (s.setTxE l e x).le.table = s.le.table := by cases s; rfl
@[simp] theorem State.setTxE_le_fifo (s : State) (l e : Nat) (x : TxEntry) : (s.setTxE l e x).le.fifo = s.le.fifo := by cases s; rfl
@[simp] theorem State.setTxE_le_fifoOctets (s : State) (l e : Nat) (x : TxEntry) : (s.setTxE l e x).le.fifoOctets = s.le.fifoOctets := by cases s; rfl
@[simp] theorem State.setTxE_le_shipped (s : State) (l e : Nat) (x : TxEntry) : (s.setTxE l e x).le.shipped = s.le.shipped := by cases s; rfl
@[simp] theorem State.setTxE_le_classifier (s : State) (l e : Nat) (x : TxEntry) : (s.setTxE l e x).le.classifier = s.le.classifier := by cases s; rfl
@[simp] theorem State.setTxE_le_exceptionTokens (s : State) (l e : Nat) (x : TxEntry) : (s.setTxE l e x).le.exceptionTokens = s.le.exceptionTokens := by cases s; rfl
@[simp] theorem State.setTxE_le_exceptionAt (s : State) (l e : Nat) (x : TxEntry) : (s.setTxE l e x).le.exceptionAt = s.le.exceptionAt := by cases s; rfl
@[simp] theorem State.setTxE_le_clips (s : State) (l e : Nat) (x : TxEntry) : (s.setTxE l e x).le.clips = s.le.clips := by cases s; rfl
@[simp] theorem State.setTxE_le_seed (s : State) (l e : Nat) (x : TxEntry) : (s.setTxE l e x).le.seed = s.le.seed := by cases s; rfl
@[simp] theorem State.setTxE_le_frame (s : State) (l e : Nat) (x : TxEntry) : (s.setTxE l e x).le.frame = s.le.frame := by cases s; rfl
@[simp] theorem State.setTxE_rd (s : State) (l e : Nat) (x : TxEntry) (j : Nat) : (s.setTxE l e x).rd j = s.rd j := by cases s; rfl
@[simp] theorem State.setTxE_q (s : State) (l e : Nat) (x : TxEntry) (j : Nat) : (s.setTxE l e x).q j = s.q j := by cases s; rfl
@[simp] theorem State.setTxE_same (s : State) (l e : Nat) (x : TxEntry) : (s.setTxE l e x).txE l e = x := AMap.get_put_same ..

@[simp] theorem State.setCore_pending (s : State) (c : Nat) (x : MatenCore) : (s.setCore c x).pending = s.pending := by cases s; rfl
@[simp] theorem State.setCore_out (s : State) (c : Nat) (x : MatenCore) : (s.setCore c x).out = s.out := by cases s; rfl
@[simp] theorem State.setCore_mono (s : State) (c : Nat) (x : MatenCore) : (s.setCore c x).mono = s.mono := by cases s; rfl
@[simp] theorem State.setCore_tod (s : State) (c : Nat) (x : MatenCore) : (s.setCore c x).tod = s.tod := by cases s; rfl
@[simp] theorem State.setCore_draws (s : State) (c : Nat) (x : MatenCore) : (s.setCore c x).draws = s.draws := by cases s; rfl
@[simp] theorem State.setCore_season (s : State) (c : Nat) (x : MatenCore) : (s.setCore c x).season = s.season := by cases s; rfl
@[simp] theorem State.setCore_dict (s : State) (c : Nat) (x : MatenCore) : (s.setCore c x).dict = s.dict := by cases s; rfl
@[simp] theorem State.setCore_shadow (s : State) (c : Nat) (x : MatenCore) : (s.setCore c x).shadow = s.shadow := by cases s; rfl
@[simp] theorem State.setCore_ev (s : State) (c : Nat) (x : MatenCore) : (s.setCore c x).ev = s.ev := by cases s; rfl
@[simp] theorem State.setCore_hif (s : State) (c : Nat) (x : MatenCore) : (s.setCore c x).hif = s.hif := by cases s; rfl
@[simp] theorem State.setCore_rings (s : State) (c : Nat) (x : MatenCore) : (s.setCore c x).rings = s.rings := by cases s; rfl
@[simp] theorem State.setCore_queues (s : State) (c : Nat) (x : MatenCore) : (s.setCore c x).queues = s.queues := by cases s; rfl
@[simp] theorem State.setCore_ctl (s : State) (c : Nat) (x : MatenCore) : (s.setCore c x).ctl = s.ctl := by cases s; rfl
@[simp] theorem State.setCore_le (s : State) (c : Nat) (x : MatenCore) : (s.setCore c x).le = s.le := by cases s; rfl
@[simp] theorem State.setCore_cip (s : State) (c : Nat) (x : MatenCore) : (s.setCore c x).cip = s.cip := by cases s; rfl
@[simp] theorem State.setCore_pw (s : State) (c : Nat) (x : MatenCore) : (s.setCore c x).pw = s.pw := by cases s; rfl
@[simp] theorem State.setCore_mem (s : State) (c : Nat) (x : MatenCore) : (s.setCore c x).mem = s.mem := by cases s; rfl
@[simp] theorem State.setCore_disp (s : State) (c : Nat) (x : MatenCore) : (s.setCore c x).disp = s.disp := by cases s; rfl
@[simp] theorem State.setCore_sec (s : State) (c : Nat) (x : MatenCore) : (s.setCore c x).sec = s.sec := by cases s; rfl
@[simp] theorem State.setCore_conf (s : State) (c : Nat) (x : MatenCore) : (s.setCore c x).conf = s.conf := by cases s; rfl
@[simp] theorem State.setCore_ad (s : State) (c : Nat) (x : MatenCore) : (s.setCore c x).ad = s.ad := by cases s; rfl
@[simp] theorem State.setCore_mm (s : State) (c : Nat) (x : MatenCore) : (s.setCore c x).mm = s.mm := by cases s; rfl
@[simp] theorem State.setCore_tw (s : State) (c : Nat) (x : MatenCore) : (s.setCore c x).tw = s.tw := by cases s; rfl
@[simp] theorem State.setCore_fb (s : State) (c : Nat) (x : MatenCore) : (s.setCore c x).fb = s.fb := by cases s; rfl
@[simp] theorem State.setCore_speech (s : State) (c : Nat) (x : MatenCore) : (s.setCore c x).speech = s.speech := by cases s; rfl
@[simp] theorem State.setCore_vd (s : State) (c : Nat) (x : MatenCore) : (s.setCore c x).vd = s.vd := by cases s; rfl
@[simp] theorem State.setCore_cp (s : State) (c : Nat) (x : MatenCore) : (s.setCore c x).cp = s.cp := by cases s; rfl
@[simp] theorem State.setCore_en (s : State) (c : Nat) (x : MatenCore) : (s.setCore c x).en = s.en := by cases s; rfl
@[simp] theorem State.setCore_tm (s : State) (c : Nat) (x : MatenCore) : (s.setCore c x).tm = s.tm := by cases s; rfl
@[simp] theorem State.setCore_ig (s : State) (c : Nat) (x : MatenCore) : (s.setCore c x).ig = s.ig := by cases s; rfl
@[simp] theorem State.setCore_mt_cluster (s : State) (c : Nat) (x : MatenCore) : (s.setCore c x).mt.cluster = s.mt.cluster := by cases s; rfl
@[simp] theorem State.setCore_mt_programs (s : State) (c : Nat) (x : MatenCore) : (s.setCore c x).mt.programs = s.mt.programs := by cases s; rfl
@[simp] theorem State.setCore_mt_retiring (s : State) (c : Nat) (x : MatenCore) : (s.setCore c x).mt.retiring = s.mt.retiring := by cases s; rfl
@[simp] theorem State.setCore_rd (s : State) (c : Nat) (x : MatenCore) (j : Nat) : (s.setCore c x).rd j = s.rd j := by cases s; rfl
@[simp] theorem State.setCore_q (s : State) (c : Nat) (x : MatenCore) (j : Nat) : (s.setCore c x).q j = s.q j := by cases s; rfl
@[simp] theorem State.setCore_same (s : State) (c : Nat) (x : MatenCore) : (s.setCore c x).core c = x := AMap.get_put_same ..

@[simp] theorem State.wrByte_pending (s : State) (a : Nat) (v : BitVec 8) : (s.wrByte a v).pending = s.pending := by cases s; rfl
@[simp] theorem State.wrByte_out (s : State) (a : Nat) (v : BitVec 8) : (s.wrByte a v).out = s.out := by cases s; rfl
@[simp] theorem State.wrByte_mono (s : State) (a : Nat) (v : BitVec 8) : (s.wrByte a v).mono = s.mono := by cases s; rfl
@[simp] theorem State.wrByte_tod (s : State) (a : Nat) (v : BitVec 8) : (s.wrByte a v).tod = s.tod := by cases s; rfl
@[simp] theorem State.wrByte_draws (s : State) (a : Nat) (v : BitVec 8) : (s.wrByte a v).draws = s.draws := by cases s; rfl
@[simp] theorem State.wrByte_season (s : State) (a : Nat) (v : BitVec 8) : (s.wrByte a v).season = s.season := by cases s; rfl
@[simp] theorem State.wrByte_dict (s : State) (a : Nat) (v : BitVec 8) : (s.wrByte a v).dict = s.dict := by cases s; rfl
@[simp] theorem State.wrByte_shadow (s : State) (a : Nat) (v : BitVec 8) : (s.wrByte a v).shadow = s.shadow := by cases s; rfl
@[simp] theorem State.wrByte_ev (s : State) (a : Nat) (v : BitVec 8) : (s.wrByte a v).ev = s.ev := by cases s; rfl
@[simp] theorem State.wrByte_hif (s : State) (a : Nat) (v : BitVec 8) : (s.wrByte a v).hif = s.hif := by cases s; rfl
@[simp] theorem State.wrByte_rings (s : State) (a : Nat) (v : BitVec 8) : (s.wrByte a v).rings = s.rings := by cases s; rfl
@[simp] theorem State.wrByte_queues (s : State) (a : Nat) (v : BitVec 8) : (s.wrByte a v).queues = s.queues := by cases s; rfl
@[simp] theorem State.wrByte_ctl (s : State) (a : Nat) (v : BitVec 8) : (s.wrByte a v).ctl = s.ctl := by cases s; rfl
@[simp] theorem State.wrByte_le (s : State) (a : Nat) (v : BitVec 8) : (s.wrByte a v).le = s.le := by cases s; rfl
@[simp] theorem State.wrByte_cip (s : State) (a : Nat) (v : BitVec 8) : (s.wrByte a v).cip = s.cip := by cases s; rfl
@[simp] theorem State.wrByte_pw (s : State) (a : Nat) (v : BitVec 8) : (s.wrByte a v).pw = s.pw := by cases s; rfl
@[simp] theorem State.wrByte_disp (s : State) (a : Nat) (v : BitVec 8) : (s.wrByte a v).disp = s.disp := by cases s; rfl
@[simp] theorem State.wrByte_mt (s : State) (a : Nat) (v : BitVec 8) : (s.wrByte a v).mt = s.mt := by cases s; rfl
@[simp] theorem State.wrByte_sec (s : State) (a : Nat) (v : BitVec 8) : (s.wrByte a v).sec = s.sec := by cases s; rfl
@[simp] theorem State.wrByte_conf (s : State) (a : Nat) (v : BitVec 8) : (s.wrByte a v).conf = s.conf := by cases s; rfl
@[simp] theorem State.wrByte_ad (s : State) (a : Nat) (v : BitVec 8) : (s.wrByte a v).ad = s.ad := by cases s; rfl
@[simp] theorem State.wrByte_mm (s : State) (a : Nat) (v : BitVec 8) : (s.wrByte a v).mm = s.mm := by cases s; rfl
@[simp] theorem State.wrByte_tw (s : State) (a : Nat) (v : BitVec 8) : (s.wrByte a v).tw = s.tw := by cases s; rfl
@[simp] theorem State.wrByte_fb (s : State) (a : Nat) (v : BitVec 8) : (s.wrByte a v).fb = s.fb := by cases s; rfl
@[simp] theorem State.wrByte_speech (s : State) (a : Nat) (v : BitVec 8) : (s.wrByte a v).speech = s.speech := by cases s; rfl
@[simp] theorem State.wrByte_vd (s : State) (a : Nat) (v : BitVec 8) : (s.wrByte a v).vd = s.vd := by cases s; rfl
@[simp] theorem State.wrByte_cp (s : State) (a : Nat) (v : BitVec 8) : (s.wrByte a v).cp = s.cp := by cases s; rfl
@[simp] theorem State.wrByte_en (s : State) (a : Nat) (v : BitVec 8) : (s.wrByte a v).en = s.en := by cases s; rfl
@[simp] theorem State.wrByte_tm (s : State) (a : Nat) (v : BitVec 8) : (s.wrByte a v).tm = s.tm := by cases s; rfl
@[simp] theorem State.wrByte_ig (s : State) (a : Nat) (v : BitVec 8) : (s.wrByte a v).ig = s.ig := by cases s; rfl
@[simp] theorem State.wrByte_rd (s : State) (a : Nat) (v : BitVec 8) (j : Nat) : (s.wrByte a v).rd j = s.rd j := by cases s; rfl
@[simp] theorem State.wrByte_q (s : State) (a : Nat) (v : BitVec 8) (j : Nat) : (s.wrByte a v).q j = s.q j := by cases s; rfl

@[simp] theorem State.heal_pending (s : State) (a n : Nat) : (s.heal a n).pending = s.pending := by cases s; rfl
@[simp] theorem State.heal_out (s : State) (a n : Nat) : (s.heal a n).out = s.out := by cases s; rfl
@[simp] theorem State.heal_mono (s : State) (a n : Nat) : (s.heal a n).mono = s.mono := by cases s; rfl
@[simp] theorem State.heal_tod (s : State) (a n : Nat) : (s.heal a n).tod = s.tod := by cases s; rfl
@[simp] theorem State.heal_draws (s : State) (a n : Nat) : (s.heal a n).draws = s.draws := by cases s; rfl
@[simp] theorem State.heal_season (s : State) (a n : Nat) : (s.heal a n).season = s.season := by cases s; rfl
@[simp] theorem State.heal_dict (s : State) (a n : Nat) : (s.heal a n).dict = s.dict := by cases s; rfl
@[simp] theorem State.heal_shadow (s : State) (a n : Nat) : (s.heal a n).shadow = s.shadow := by cases s; rfl
@[simp] theorem State.heal_ev (s : State) (a n : Nat) : (s.heal a n).ev = s.ev := by cases s; rfl
@[simp] theorem State.heal_hif (s : State) (a n : Nat) : (s.heal a n).hif = s.hif := by cases s; rfl
@[simp] theorem State.heal_rings (s : State) (a n : Nat) : (s.heal a n).rings = s.rings := by cases s; rfl
@[simp] theorem State.heal_queues (s : State) (a n : Nat) : (s.heal a n).queues = s.queues := by cases s; rfl
@[simp] theorem State.heal_ctl (s : State) (a n : Nat) : (s.heal a n).ctl = s.ctl := by cases s; rfl
@[simp] theorem State.heal_le (s : State) (a n : Nat) : (s.heal a n).le = s.le := by cases s; rfl
@[simp] theorem State.heal_cip (s : State) (a n : Nat) : (s.heal a n).cip = s.cip := by cases s; rfl
@[simp] theorem State.heal_pw (s : State) (a n : Nat) : (s.heal a n).pw = s.pw := by cases s; rfl
@[simp] theorem State.heal_mem (s : State) (a n : Nat) : (s.heal a n).mem = s.mem := by cases s; rfl
@[simp] theorem State.heal_disp (s : State) (a n : Nat) : (s.heal a n).disp = s.disp := by cases s; rfl
@[simp] theorem State.heal_mt (s : State) (a n : Nat) : (s.heal a n).mt = s.mt := by cases s; rfl
@[simp] theorem State.heal_sec (s : State) (a n : Nat) : (s.heal a n).sec = s.sec := by cases s; rfl
@[simp] theorem State.heal_conf (s : State) (a n : Nat) : (s.heal a n).conf = s.conf := by cases s; rfl
@[simp] theorem State.heal_ad (s : State) (a n : Nat) : (s.heal a n).ad = s.ad := by cases s; rfl
@[simp] theorem State.heal_tw (s : State) (a n : Nat) : (s.heal a n).tw = s.tw := by cases s; rfl
@[simp] theorem State.heal_fb (s : State) (a n : Nat) : (s.heal a n).fb = s.fb := by cases s; rfl
@[simp] theorem State.heal_speech (s : State) (a n : Nat) : (s.heal a n).speech = s.speech := by cases s; rfl
@[simp] theorem State.heal_vd (s : State) (a n : Nat) : (s.heal a n).vd = s.vd := by cases s; rfl
@[simp] theorem State.heal_cp (s : State) (a n : Nat) : (s.heal a n).cp = s.cp := by cases s; rfl
@[simp] theorem State.heal_en (s : State) (a n : Nat) : (s.heal a n).en = s.en := by cases s; rfl
@[simp] theorem State.heal_tm (s : State) (a n : Nat) : (s.heal a n).tm = s.tm := by cases s; rfl
@[simp] theorem State.heal_ig (s : State) (a n : Nat) : (s.heal a n).ig = s.ig := by cases s; rfl
@[simp] theorem State.heal_mm_sizes (s : State) (a n : Nat) : (s.heal a n).mm.sizes = s.mm.sizes := by cases s; rfl
@[simp] theorem State.heal_mm_used (s : State) (a n : Nat) : (s.heal a n).mm.used = s.mm.used := by cases s; rfl
@[simp] theorem State.heal_mm_pcs (s : State) (a n : Nat) : (s.heal a n).mm.pcs = s.mm.pcs := by cases s; rfl
@[simp] theorem State.heal_mm_training (s : State) (a n : Nat) : (s.heal a n).mm.training = s.mm.training := by cases s; rfl
@[simp] theorem State.heal_mm_updateAt (s : State) (a n : Nat) : (s.heal a n).mm.updateAt = s.mm.updateAt := by cases s; rfl
@[simp] theorem State.heal_mm_scrub (s : State) (a n : Nat) : (s.heal a n).mm.scrub = s.mm.scrub := by cases s; rfl
@[simp] theorem State.heal_mm_hot (s : State) (a n : Nat) : (s.heal a n).mm.hot = s.mm.hot := by cases s; rfl
@[simp] theorem State.heal_mm_traffic (s : State) (a n : Nat) : (s.heal a n).mm.traffic = s.mm.traffic := by cases s; rfl
@[simp] theorem State.heal_mm_nextId (s : State) (a n : Nat) : (s.heal a n).mm.nextId = s.mm.nextId := by cases s; rfl
@[simp] theorem State.heal_rd (s : State) (a n : Nat) (j : Nat) : (s.heal a n).rd j = s.rd j := by cases s; rfl
@[simp] theorem State.heal_q (s : State) (a n : Nat) (j : Nat) : (s.heal a n).q j = s.q j := by cases s; rfl

@[simp] theorem State.spoil_pending (s : State) (a : Nat) : (s.spoil a).pending = s.pending := by cases s; rfl
@[simp] theorem State.spoil_out (s : State) (a : Nat) : (s.spoil a).out = s.out := by cases s; rfl
@[simp] theorem State.spoil_mono (s : State) (a : Nat) : (s.spoil a).mono = s.mono := by cases s; rfl
@[simp] theorem State.spoil_tod (s : State) (a : Nat) : (s.spoil a).tod = s.tod := by cases s; rfl
@[simp] theorem State.spoil_draws (s : State) (a : Nat) : (s.spoil a).draws = s.draws := by cases s; rfl
@[simp] theorem State.spoil_season (s : State) (a : Nat) : (s.spoil a).season = s.season := by cases s; rfl
@[simp] theorem State.spoil_dict (s : State) (a : Nat) : (s.spoil a).dict = s.dict := by cases s; rfl
@[simp] theorem State.spoil_shadow (s : State) (a : Nat) : (s.spoil a).shadow = s.shadow := by cases s; rfl
@[simp] theorem State.spoil_ev (s : State) (a : Nat) : (s.spoil a).ev = s.ev := by cases s; rfl
@[simp] theorem State.spoil_hif (s : State) (a : Nat) : (s.spoil a).hif = s.hif := by cases s; rfl
@[simp] theorem State.spoil_rings (s : State) (a : Nat) : (s.spoil a).rings = s.rings := by cases s; rfl
@[simp] theorem State.spoil_queues (s : State) (a : Nat) : (s.spoil a).queues = s.queues := by cases s; rfl
@[simp] theorem State.spoil_ctl (s : State) (a : Nat) : (s.spoil a).ctl = s.ctl := by cases s; rfl
@[simp] theorem State.spoil_le (s : State) (a : Nat) : (s.spoil a).le = s.le := by cases s; rfl
@[simp] theorem State.spoil_cip (s : State) (a : Nat) : (s.spoil a).cip = s.cip := by cases s; rfl
@[simp] theorem State.spoil_pw (s : State) (a : Nat) : (s.spoil a).pw = s.pw := by cases s; rfl
@[simp] theorem State.spoil_mem (s : State) (a : Nat) : (s.spoil a).mem = s.mem := by cases s; rfl
@[simp] theorem State.spoil_disp (s : State) (a : Nat) : (s.spoil a).disp = s.disp := by cases s; rfl
@[simp] theorem State.spoil_mt (s : State) (a : Nat) : (s.spoil a).mt = s.mt := by cases s; rfl
@[simp] theorem State.spoil_sec (s : State) (a : Nat) : (s.spoil a).sec = s.sec := by cases s; rfl
@[simp] theorem State.spoil_conf (s : State) (a : Nat) : (s.spoil a).conf = s.conf := by cases s; rfl
@[simp] theorem State.spoil_ad (s : State) (a : Nat) : (s.spoil a).ad = s.ad := by cases s; rfl
@[simp] theorem State.spoil_tw (s : State) (a : Nat) : (s.spoil a).tw = s.tw := by cases s; rfl
@[simp] theorem State.spoil_fb (s : State) (a : Nat) : (s.spoil a).fb = s.fb := by cases s; rfl
@[simp] theorem State.spoil_speech (s : State) (a : Nat) : (s.spoil a).speech = s.speech := by cases s; rfl
@[simp] theorem State.spoil_vd (s : State) (a : Nat) : (s.spoil a).vd = s.vd := by cases s; rfl
@[simp] theorem State.spoil_cp (s : State) (a : Nat) : (s.spoil a).cp = s.cp := by cases s; rfl
@[simp] theorem State.spoil_en (s : State) (a : Nat) : (s.spoil a).en = s.en := by cases s; rfl
@[simp] theorem State.spoil_tm (s : State) (a : Nat) : (s.spoil a).tm = s.tm := by cases s; rfl
@[simp] theorem State.spoil_ig (s : State) (a : Nat) : (s.spoil a).ig = s.ig := by cases s; rfl
@[simp] theorem State.spoil_mm_sizes (s : State) (a : Nat) : (s.spoil a).mm.sizes = s.mm.sizes := by cases s; rfl
@[simp] theorem State.spoil_mm_used (s : State) (a : Nat) : (s.spoil a).mm.used = s.mm.used := by cases s; rfl
@[simp] theorem State.spoil_mm_pcs (s : State) (a : Nat) : (s.spoil a).mm.pcs = s.mm.pcs := by cases s; rfl
@[simp] theorem State.spoil_mm_training (s : State) (a : Nat) : (s.spoil a).mm.training = s.mm.training := by cases s; rfl
@[simp] theorem State.spoil_mm_updateAt (s : State) (a : Nat) : (s.spoil a).mm.updateAt = s.mm.updateAt := by cases s; rfl
@[simp] theorem State.spoil_mm_scrub (s : State) (a : Nat) : (s.spoil a).mm.scrub = s.mm.scrub := by cases s; rfl
@[simp] theorem State.spoil_mm_hot (s : State) (a : Nat) : (s.spoil a).mm.hot = s.mm.hot := by cases s; rfl
@[simp] theorem State.spoil_mm_traffic (s : State) (a : Nat) : (s.spoil a).mm.traffic = s.mm.traffic := by cases s; rfl
@[simp] theorem State.spoil_mm_nextId (s : State) (a : Nat) : (s.spoil a).mm.nextId = s.mm.nextId := by cases s; rfl
@[simp] theorem State.spoil_rd (s : State) (a : Nat) (j : Nat) : (s.spoil a).rd j = s.rd j := by cases s; rfl
@[simp] theorem State.spoil_q (s : State) (a : Nat) (j : Nat) : (s.spoil a).q j = s.q j := by cases s; rfl

@[simp] theorem State.setPc_pending (s : State) (p : Nat) (x : PcCtl) : (s.setPc p x).pending = s.pending := by cases s; rfl
@[simp] theorem State.setPc_out (s : State) (p : Nat) (x : PcCtl) : (s.setPc p x).out = s.out := by cases s; rfl
@[simp] theorem State.setPc_mono (s : State) (p : Nat) (x : PcCtl) : (s.setPc p x).mono = s.mono := by cases s; rfl
@[simp] theorem State.setPc_tod (s : State) (p : Nat) (x : PcCtl) : (s.setPc p x).tod = s.tod := by cases s; rfl
@[simp] theorem State.setPc_draws (s : State) (p : Nat) (x : PcCtl) : (s.setPc p x).draws = s.draws := by cases s; rfl
@[simp] theorem State.setPc_season (s : State) (p : Nat) (x : PcCtl) : (s.setPc p x).season = s.season := by cases s; rfl
@[simp] theorem State.setPc_dict (s : State) (p : Nat) (x : PcCtl) : (s.setPc p x).dict = s.dict := by cases s; rfl
@[simp] theorem State.setPc_shadow (s : State) (p : Nat) (x : PcCtl) : (s.setPc p x).shadow = s.shadow := by cases s; rfl
@[simp] theorem State.setPc_ev (s : State) (p : Nat) (x : PcCtl) : (s.setPc p x).ev = s.ev := by cases s; rfl
@[simp] theorem State.setPc_hif (s : State) (p : Nat) (x : PcCtl) : (s.setPc p x).hif = s.hif := by cases s; rfl
@[simp] theorem State.setPc_rings (s : State) (p : Nat) (x : PcCtl) : (s.setPc p x).rings = s.rings := by cases s; rfl
@[simp] theorem State.setPc_queues (s : State) (p : Nat) (x : PcCtl) : (s.setPc p x).queues = s.queues := by cases s; rfl
@[simp] theorem State.setPc_ctl (s : State) (p : Nat) (x : PcCtl) : (s.setPc p x).ctl = s.ctl := by cases s; rfl
@[simp] theorem State.setPc_le (s : State) (p : Nat) (x : PcCtl) : (s.setPc p x).le = s.le := by cases s; rfl
@[simp] theorem State.setPc_cip (s : State) (p : Nat) (x : PcCtl) : (s.setPc p x).cip = s.cip := by cases s; rfl
@[simp] theorem State.setPc_pw (s : State) (p : Nat) (x : PcCtl) : (s.setPc p x).pw = s.pw := by cases s; rfl
@[simp] theorem State.setPc_mem (s : State) (p : Nat) (x : PcCtl) : (s.setPc p x).mem = s.mem := by cases s; rfl
@[simp] theorem State.setPc_disp (s : State) (p : Nat) (x : PcCtl) : (s.setPc p x).disp = s.disp := by cases s; rfl
@[simp] theorem State.setPc_mt (s : State) (p : Nat) (x : PcCtl) : (s.setPc p x).mt = s.mt := by cases s; rfl
@[simp] theorem State.setPc_sec (s : State) (p : Nat) (x : PcCtl) : (s.setPc p x).sec = s.sec := by cases s; rfl
@[simp] theorem State.setPc_conf (s : State) (p : Nat) (x : PcCtl) : (s.setPc p x).conf = s.conf := by cases s; rfl
@[simp] theorem State.setPc_ad (s : State) (p : Nat) (x : PcCtl) : (s.setPc p x).ad = s.ad := by cases s; rfl
@[simp] theorem State.setPc_tw (s : State) (p : Nat) (x : PcCtl) : (s.setPc p x).tw = s.tw := by cases s; rfl
@[simp] theorem State.setPc_fb (s : State) (p : Nat) (x : PcCtl) : (s.setPc p x).fb = s.fb := by cases s; rfl
@[simp] theorem State.setPc_speech (s : State) (p : Nat) (x : PcCtl) : (s.setPc p x).speech = s.speech := by cases s; rfl
@[simp] theorem State.setPc_vd (s : State) (p : Nat) (x : PcCtl) : (s.setPc p x).vd = s.vd := by cases s; rfl
@[simp] theorem State.setPc_cp (s : State) (p : Nat) (x : PcCtl) : (s.setPc p x).cp = s.cp := by cases s; rfl
@[simp] theorem State.setPc_en (s : State) (p : Nat) (x : PcCtl) : (s.setPc p x).en = s.en := by cases s; rfl
@[simp] theorem State.setPc_tm (s : State) (p : Nat) (x : PcCtl) : (s.setPc p x).tm = s.tm := by cases s; rfl
@[simp] theorem State.setPc_ig (s : State) (p : Nat) (x : PcCtl) : (s.setPc p x).ig = s.ig := by cases s; rfl
@[simp] theorem State.setPc_mm_sizes (s : State) (p : Nat) (x : PcCtl) : (s.setPc p x).mm.sizes = s.mm.sizes := by cases s; rfl
@[simp] theorem State.setPc_mm_used (s : State) (p : Nat) (x : PcCtl) : (s.setPc p x).mm.used = s.mm.used := by cases s; rfl
@[simp] theorem State.setPc_mm_poison (s : State) (p : Nat) (x : PcCtl) : (s.setPc p x).mm.poison = s.mm.poison := by cases s; rfl
@[simp] theorem State.setPc_mm_training (s : State) (p : Nat) (x : PcCtl) : (s.setPc p x).mm.training = s.mm.training := by cases s; rfl
@[simp] theorem State.setPc_mm_updateAt (s : State) (p : Nat) (x : PcCtl) : (s.setPc p x).mm.updateAt = s.mm.updateAt := by cases s; rfl
@[simp] theorem State.setPc_mm_scrub (s : State) (p : Nat) (x : PcCtl) : (s.setPc p x).mm.scrub = s.mm.scrub := by cases s; rfl
@[simp] theorem State.setPc_mm_hot (s : State) (p : Nat) (x : PcCtl) : (s.setPc p x).mm.hot = s.mm.hot := by cases s; rfl
@[simp] theorem State.setPc_mm_traffic (s : State) (p : Nat) (x : PcCtl) : (s.setPc p x).mm.traffic = s.mm.traffic := by cases s; rfl
@[simp] theorem State.setPc_mm_nextId (s : State) (p : Nat) (x : PcCtl) : (s.setPc p x).mm.nextId = s.mm.nextId := by cases s; rfl
@[simp] theorem State.setPc_rd (s : State) (p : Nat) (x : PcCtl) (j : Nat) : (s.setPc p x).rd j = s.rd j := by cases s; rfl
@[simp] theorem State.setPc_q (s : State) (p : Nat) (x : PcCtl) (j : Nat) : (s.setPc p x).q j = s.q j := by cases s; rfl
@[simp] theorem State.setPc_same (s : State) (p : Nat) (x : PcCtl) : (s.setPc p x).pc p = x := AMap.get_put_same ..

@[simp] theorem State.moved_pending (s : State) (c n : Nat) : (s.moved c n).pending = s.pending := by cases s; rfl
@[simp] theorem State.moved_out (s : State) (c n : Nat) : (s.moved c n).out = s.out := by cases s; rfl
@[simp] theorem State.moved_mono (s : State) (c n : Nat) : (s.moved c n).mono = s.mono := by cases s; rfl
@[simp] theorem State.moved_tod (s : State) (c n : Nat) : (s.moved c n).tod = s.tod := by cases s; rfl
@[simp] theorem State.moved_draws (s : State) (c n : Nat) : (s.moved c n).draws = s.draws := by cases s; rfl
@[simp] theorem State.moved_season (s : State) (c n : Nat) : (s.moved c n).season = s.season := by cases s; rfl
@[simp] theorem State.moved_dict (s : State) (c n : Nat) : (s.moved c n).dict = s.dict := by cases s; rfl
@[simp] theorem State.moved_shadow (s : State) (c n : Nat) : (s.moved c n).shadow = s.shadow := by cases s; rfl
@[simp] theorem State.moved_ev (s : State) (c n : Nat) : (s.moved c n).ev = s.ev := by cases s; rfl
@[simp] theorem State.moved_hif (s : State) (c n : Nat) : (s.moved c n).hif = s.hif := by cases s; rfl
@[simp] theorem State.moved_rings (s : State) (c n : Nat) : (s.moved c n).rings = s.rings := by cases s; rfl
@[simp] theorem State.moved_queues (s : State) (c n : Nat) : (s.moved c n).queues = s.queues := by cases s; rfl
@[simp] theorem State.moved_ctl (s : State) (c n : Nat) : (s.moved c n).ctl = s.ctl := by cases s; rfl
@[simp] theorem State.moved_le (s : State) (c n : Nat) : (s.moved c n).le = s.le := by cases s; rfl
@[simp] theorem State.moved_cip (s : State) (c n : Nat) : (s.moved c n).cip = s.cip := by cases s; rfl
@[simp] theorem State.moved_pw (s : State) (c n : Nat) : (s.moved c n).pw = s.pw := by cases s; rfl
@[simp] theorem State.moved_mem (s : State) (c n : Nat) : (s.moved c n).mem = s.mem := by cases s; rfl
@[simp] theorem State.moved_disp (s : State) (c n : Nat) : (s.moved c n).disp = s.disp := by cases s; rfl
@[simp] theorem State.moved_mt (s : State) (c n : Nat) : (s.moved c n).mt = s.mt := by cases s; rfl
@[simp] theorem State.moved_sec (s : State) (c n : Nat) : (s.moved c n).sec = s.sec := by cases s; rfl
@[simp] theorem State.moved_conf (s : State) (c n : Nat) : (s.moved c n).conf = s.conf := by cases s; rfl
@[simp] theorem State.moved_ad (s : State) (c n : Nat) : (s.moved c n).ad = s.ad := by cases s; rfl
@[simp] theorem State.moved_tw (s : State) (c n : Nat) : (s.moved c n).tw = s.tw := by cases s; rfl
@[simp] theorem State.moved_fb (s : State) (c n : Nat) : (s.moved c n).fb = s.fb := by cases s; rfl
@[simp] theorem State.moved_speech (s : State) (c n : Nat) : (s.moved c n).speech = s.speech := by cases s; rfl
@[simp] theorem State.moved_vd (s : State) (c n : Nat) : (s.moved c n).vd = s.vd := by cases s; rfl
@[simp] theorem State.moved_cp (s : State) (c n : Nat) : (s.moved c n).cp = s.cp := by cases s; rfl
@[simp] theorem State.moved_en (s : State) (c n : Nat) : (s.moved c n).en = s.en := by cases s; rfl
@[simp] theorem State.moved_tm (s : State) (c n : Nat) : (s.moved c n).tm = s.tm := by cases s; rfl
@[simp] theorem State.moved_ig (s : State) (c n : Nat) : (s.moved c n).ig = s.ig := by cases s; rfl
@[simp] theorem State.moved_mm_sizes (s : State) (c n : Nat) : (s.moved c n).mm.sizes = s.mm.sizes := by cases s; rfl
@[simp] theorem State.moved_mm_used (s : State) (c n : Nat) : (s.moved c n).mm.used = s.mm.used := by cases s; rfl
@[simp] theorem State.moved_mm_pcs (s : State) (c n : Nat) : (s.moved c n).mm.pcs = s.mm.pcs := by cases s; rfl
@[simp] theorem State.moved_mm_poison (s : State) (c n : Nat) : (s.moved c n).mm.poison = s.mm.poison := by cases s; rfl
@[simp] theorem State.moved_mm_training (s : State) (c n : Nat) : (s.moved c n).mm.training = s.mm.training := by cases s; rfl
@[simp] theorem State.moved_mm_updateAt (s : State) (c n : Nat) : (s.moved c n).mm.updateAt = s.mm.updateAt := by cases s; rfl
@[simp] theorem State.moved_mm_scrub (s : State) (c n : Nat) : (s.moved c n).mm.scrub = s.mm.scrub := by cases s; rfl
@[simp] theorem State.moved_mm_hot (s : State) (c n : Nat) : (s.moved c n).mm.hot = s.mm.hot := by cases s; rfl
@[simp] theorem State.moved_mm_nextId (s : State) (c n : Nat) : (s.moved c n).mm.nextId = s.mm.nextId := by cases s; rfl
@[simp] theorem State.moved_rd (s : State) (c n : Nat) (j : Nat) : (s.moved c n).rd j = s.rd j := by cases s; rfl
@[simp] theorem State.moved_q (s : State) (c n : Nat) (j : Nat) : (s.moved c n).q j = s.q j := by cases s; rfl

@[simp] theorem State.setCf_pending (s : State) (c : Nat) (x : ConfRt) : (s.setCf c x).pending = s.pending := by cases s; rfl
@[simp] theorem State.setCf_out (s : State) (c : Nat) (x : ConfRt) : (s.setCf c x).out = s.out := by cases s; rfl
@[simp] theorem State.setCf_mono (s : State) (c : Nat) (x : ConfRt) : (s.setCf c x).mono = s.mono := by cases s; rfl
@[simp] theorem State.setCf_tod (s : State) (c : Nat) (x : ConfRt) : (s.setCf c x).tod = s.tod := by cases s; rfl
@[simp] theorem State.setCf_draws (s : State) (c : Nat) (x : ConfRt) : (s.setCf c x).draws = s.draws := by cases s; rfl
@[simp] theorem State.setCf_season (s : State) (c : Nat) (x : ConfRt) : (s.setCf c x).season = s.season := by cases s; rfl
@[simp] theorem State.setCf_dict (s : State) (c : Nat) (x : ConfRt) : (s.setCf c x).dict = s.dict := by cases s; rfl
@[simp] theorem State.setCf_shadow (s : State) (c : Nat) (x : ConfRt) : (s.setCf c x).shadow = s.shadow := by cases s; rfl
@[simp] theorem State.setCf_ev (s : State) (c : Nat) (x : ConfRt) : (s.setCf c x).ev = s.ev := by cases s; rfl
@[simp] theorem State.setCf_hif (s : State) (c : Nat) (x : ConfRt) : (s.setCf c x).hif = s.hif := by cases s; rfl
@[simp] theorem State.setCf_rings (s : State) (c : Nat) (x : ConfRt) : (s.setCf c x).rings = s.rings := by cases s; rfl
@[simp] theorem State.setCf_queues (s : State) (c : Nat) (x : ConfRt) : (s.setCf c x).queues = s.queues := by cases s; rfl
@[simp] theorem State.setCf_ctl (s : State) (c : Nat) (x : ConfRt) : (s.setCf c x).ctl = s.ctl := by cases s; rfl
@[simp] theorem State.setCf_le (s : State) (c : Nat) (x : ConfRt) : (s.setCf c x).le = s.le := by cases s; rfl
@[simp] theorem State.setCf_cip (s : State) (c : Nat) (x : ConfRt) : (s.setCf c x).cip = s.cip := by cases s; rfl
@[simp] theorem State.setCf_pw (s : State) (c : Nat) (x : ConfRt) : (s.setCf c x).pw = s.pw := by cases s; rfl
@[simp] theorem State.setCf_mem (s : State) (c : Nat) (x : ConfRt) : (s.setCf c x).mem = s.mem := by cases s; rfl
@[simp] theorem State.setCf_disp (s : State) (c : Nat) (x : ConfRt) : (s.setCf c x).disp = s.disp := by cases s; rfl
@[simp] theorem State.setCf_mt (s : State) (c : Nat) (x : ConfRt) : (s.setCf c x).mt = s.mt := by cases s; rfl
@[simp] theorem State.setCf_sec (s : State) (c : Nat) (x : ConfRt) : (s.setCf c x).sec = s.sec := by cases s; rfl
@[simp] theorem State.setCf_ad (s : State) (c : Nat) (x : ConfRt) : (s.setCf c x).ad = s.ad := by cases s; rfl
@[simp] theorem State.setCf_mm (s : State) (c : Nat) (x : ConfRt) : (s.setCf c x).mm = s.mm := by cases s; rfl
@[simp] theorem State.setCf_tw (s : State) (c : Nat) (x : ConfRt) : (s.setCf c x).tw = s.tw := by cases s; rfl
@[simp] theorem State.setCf_fb (s : State) (c : Nat) (x : ConfRt) : (s.setCf c x).fb = s.fb := by cases s; rfl
@[simp] theorem State.setCf_speech (s : State) (c : Nat) (x : ConfRt) : (s.setCf c x).speech = s.speech := by cases s; rfl
@[simp] theorem State.setCf_vd (s : State) (c : Nat) (x : ConfRt) : (s.setCf c x).vd = s.vd := by cases s; rfl
@[simp] theorem State.setCf_cp (s : State) (c : Nat) (x : ConfRt) : (s.setCf c x).cp = s.cp := by cases s; rfl
@[simp] theorem State.setCf_en (s : State) (c : Nat) (x : ConfRt) : (s.setCf c x).en = s.en := by cases s; rfl
@[simp] theorem State.setCf_tm (s : State) (c : Nat) (x : ConfRt) : (s.setCf c x).tm = s.tm := by cases s; rfl
@[simp] theorem State.setCf_ig (s : State) (c : Nat) (x : ConfRt) : (s.setCf c x).ig = s.ig := by cases s; rfl
@[simp] theorem State.setCf_rd (s : State) (c : Nat) (x : ConfRt) (j : Nat) : (s.setCf c x).rd j = s.rd j := by cases s; rfl
@[simp] theorem State.setCf_q (s : State) (c : Nat) (x : ConfRt) (j : Nat) : (s.setCf c x).q j = s.q j := by cases s; rfl
@[simp] theorem State.setCf_same (s : State) (c : Nat) (x : ConfRt) : (s.setCf c x).cf c = x := AMap.get_put_same ..

@[simp] theorem State.setPulse_pending (s : State) (n : Nat) (x : PulseRt) : (s.setPulse n x).pending = s.pending := by cases s; rfl
@[simp] theorem State.setPulse_out (s : State) (n : Nat) (x : PulseRt) : (s.setPulse n x).out = s.out := by cases s; rfl
@[simp] theorem State.setPulse_mono (s : State) (n : Nat) (x : PulseRt) : (s.setPulse n x).mono = s.mono := by cases s; rfl
@[simp] theorem State.setPulse_tod (s : State) (n : Nat) (x : PulseRt) : (s.setPulse n x).tod = s.tod := by cases s; rfl
@[simp] theorem State.setPulse_draws (s : State) (n : Nat) (x : PulseRt) : (s.setPulse n x).draws = s.draws := by cases s; rfl
@[simp] theorem State.setPulse_season (s : State) (n : Nat) (x : PulseRt) : (s.setPulse n x).season = s.season := by cases s; rfl
@[simp] theorem State.setPulse_dict (s : State) (n : Nat) (x : PulseRt) : (s.setPulse n x).dict = s.dict := by cases s; rfl
@[simp] theorem State.setPulse_shadow (s : State) (n : Nat) (x : PulseRt) : (s.setPulse n x).shadow = s.shadow := by cases s; rfl
@[simp] theorem State.setPulse_ev (s : State) (n : Nat) (x : PulseRt) : (s.setPulse n x).ev = s.ev := by cases s; rfl
@[simp] theorem State.setPulse_hif (s : State) (n : Nat) (x : PulseRt) : (s.setPulse n x).hif = s.hif := by cases s; rfl
@[simp] theorem State.setPulse_rings (s : State) (n : Nat) (x : PulseRt) : (s.setPulse n x).rings = s.rings := by cases s; rfl
@[simp] theorem State.setPulse_queues (s : State) (n : Nat) (x : PulseRt) : (s.setPulse n x).queues = s.queues := by cases s; rfl
@[simp] theorem State.setPulse_ctl (s : State) (n : Nat) (x : PulseRt) : (s.setPulse n x).ctl = s.ctl := by cases s; rfl
@[simp] theorem State.setPulse_le (s : State) (n : Nat) (x : PulseRt) : (s.setPulse n x).le = s.le := by cases s; rfl
@[simp] theorem State.setPulse_cip (s : State) (n : Nat) (x : PulseRt) : (s.setPulse n x).cip = s.cip := by cases s; rfl
@[simp] theorem State.setPulse_pw (s : State) (n : Nat) (x : PulseRt) : (s.setPulse n x).pw = s.pw := by cases s; rfl
@[simp] theorem State.setPulse_mem (s : State) (n : Nat) (x : PulseRt) : (s.setPulse n x).mem = s.mem := by cases s; rfl
@[simp] theorem State.setPulse_disp (s : State) (n : Nat) (x : PulseRt) : (s.setPulse n x).disp = s.disp := by cases s; rfl
@[simp] theorem State.setPulse_mt (s : State) (n : Nat) (x : PulseRt) : (s.setPulse n x).mt = s.mt := by cases s; rfl
@[simp] theorem State.setPulse_sec (s : State) (n : Nat) (x : PulseRt) : (s.setPulse n x).sec = s.sec := by cases s; rfl
@[simp] theorem State.setPulse_conf (s : State) (n : Nat) (x : PulseRt) : (s.setPulse n x).conf = s.conf := by cases s; rfl
@[simp] theorem State.setPulse_ad (s : State) (n : Nat) (x : PulseRt) : (s.setPulse n x).ad = s.ad := by cases s; rfl
@[simp] theorem State.setPulse_mm (s : State) (n : Nat) (x : PulseRt) : (s.setPulse n x).mm = s.mm := by cases s; rfl
@[simp] theorem State.setPulse_tw (s : State) (n : Nat) (x : PulseRt) : (s.setPulse n x).tw = s.tw := by cases s; rfl
@[simp] theorem State.setPulse_fb (s : State) (n : Nat) (x : PulseRt) : (s.setPulse n x).fb = s.fb := by cases s; rfl
@[simp] theorem State.setPulse_speech (s : State) (n : Nat) (x : PulseRt) : (s.setPulse n x).speech = s.speech := by cases s; rfl
@[simp] theorem State.setPulse_vd (s : State) (n : Nat) (x : PulseRt) : (s.setPulse n x).vd = s.vd := by cases s; rfl
@[simp] theorem State.setPulse_cp (s : State) (n : Nat) (x : PulseRt) : (s.setPulse n x).cp = s.cp := by cases s; rfl
@[simp] theorem State.setPulse_en (s : State) (n : Nat) (x : PulseRt) : (s.setPulse n x).en = s.en := by cases s; rfl
@[simp] theorem State.setPulse_ig (s : State) (n : Nat) (x : PulseRt) : (s.setPulse n x).ig = s.ig := by cases s; rfl
@[simp] theorem State.setPulse_tm_hold (s : State) (n : Nat) (x : PulseRt) : (s.setPulse n x).tm.hold = s.tm.hold := by cases s; rfl
@[simp] theorem State.setPulse_tm_seqs (s : State) (n : Nat) (x : PulseRt) : (s.setPulse n x).tm.seqs = s.tm.seqs := by cases s; rfl
@[simp] theorem State.setPulse_tm_masters (s : State) (n : Nat) (x : PulseRt) : (s.setPulse n x).tm.masters = s.tm.masters := by cases s; rfl
@[simp] theorem State.setPulse_tm_announceAt (s : State) (n : Nat) (x : PulseRt) : (s.setPulse n x).tm.announceAt = s.tm.announceAt := by cases s; rfl
@[simp] theorem State.setPulse_tm_syncAt (s : State) (n : Nat) (x : PulseRt) : (s.setPulse n x).tm.syncAt = s.tm.syncAt := by cases s; rfl
@[simp] theorem State.setPulse_tm_ppsAt (s : State) (n : Nat) (x : PulseRt) : (s.setPulse n x).tm.ppsAt = s.tm.ppsAt := by cases s; rfl
@[simp] theorem State.setPulse_tm_delayReq (s : State) (n : Nat) (x : PulseRt) : (s.setPulse n x).tm.delayReq = s.tm.delayReq := by cases s; rfl
@[simp] theorem State.setPulse_tm_delayAt (s : State) (n : Nat) (x : PulseRt) : (s.setPulse n x).tm.delayAt = s.tm.delayAt := by cases s; rfl
@[simp] theorem State.setPulse_tm_delaySeq (s : State) (n : Nat) (x : PulseRt) : (s.setPulse n x).tm.delaySeq = s.tm.delaySeq := by cases s; rfl
@[simp] theorem State.setPulse_tm_syncDiff (s : State) (n : Nat) (x : PulseRt) : (s.setPulse n x).tm.syncDiff = s.tm.syncDiff := by cases s; rfl
@[simp] theorem State.setPulse_tm_pathDelay (s : State) (n : Nat) (x : PulseRt) : (s.setPulse n x).tm.pathDelay = s.tm.pathDelay := by cases s; rfl
@[simp] theorem State.setPulse_tm_smallRun (s : State) (n : Nat) (x : PulseRt) : (s.setPulse n x).tm.smallRun = s.tm.smallRun := by cases s; rfl
@[simp] theorem State.setPulse_tm_slew (s : State) (n : Nat) (x : PulseRt) : (s.setPulse n x).tm.slew = s.tm.slew := by cases s; rfl
@[simp] theorem State.setPulse_tm_frac (s : State) (n : Nat) (x : PulseRt) : (s.setPulse n x).tm.frac = s.tm.frac := by cases s; rfl
@[simp] theorem State.setPulse_tm_hostSec (s : State) (n : Nat) (x : PulseRt) : (s.setPulse n x).tm.hostSec = s.tm.hostSec := by cases s; rfl
@[simp] theorem State.setPulse_tm_syncLost (s : State) (n : Nat) (x : PulseRt) : (s.setPulse n x).tm.syncLost = s.tm.syncLost := by cases s; rfl
@[simp] theorem State.setPulse_tm_syncSince (s : State) (n : Nat) (x : PulseRt) : (s.setPulse n x).tm.syncSince = s.tm.syncSince := by cases s; rfl
@[simp] theorem State.setPulse_rd (s : State) (n : Nat) (x : PulseRt) (j : Nat) : (s.setPulse n x).rd j = s.rd j := by cases s; rfl
@[simp] theorem State.setPulse_q (s : State) (n : Nat) (x : PulseRt) (j : Nat) : (s.setPulse n x).q j = s.q j := by cases s; rfl
@[simp] theorem State.setPulse_same (s : State) (n : Nat) (x : PulseRt) : (s.setPulse n x).pulse n = x := AMap.get_put_same ..

@[simp] theorem State.inc_pending (s : State) (k : Nat) : (s.inc k).pending = s.pending := by cases s; rfl
@[simp] theorem State.inc_out (s : State) (k : Nat) : (s.inc k).out = s.out := by cases s; rfl
@[simp] theorem State.inc_mono (s : State) (k : Nat) : (s.inc k).mono = s.mono := by cases s; rfl
@[simp] theorem State.inc_tod (s : State) (k : Nat) : (s.inc k).tod = s.tod := by cases s; rfl
@[simp] theorem State.inc_draws (s : State) (k : Nat) : (s.inc k).draws = s.draws := by cases s; rfl
@[simp] theorem State.inc_season (s : State) (k : Nat) : (s.inc k).season = s.season := by cases s; rfl
@[simp] theorem State.inc_shadow (s : State) (k : Nat) : (s.inc k).shadow = s.shadow := by cases s; rfl
@[simp] theorem State.inc_ev (s : State) (k : Nat) : (s.inc k).ev = s.ev := by cases s; rfl
@[simp] theorem State.inc_hif (s : State) (k : Nat) : (s.inc k).hif = s.hif := by cases s; rfl
@[simp] theorem State.inc_rings (s : State) (k : Nat) : (s.inc k).rings = s.rings := by cases s; rfl
@[simp] theorem State.inc_queues (s : State) (k : Nat) : (s.inc k).queues = s.queues := by cases s; rfl
@[simp] theorem State.inc_ctl (s : State) (k : Nat) : (s.inc k).ctl = s.ctl := by cases s; rfl
@[simp] theorem State.inc_le (s : State) (k : Nat) : (s.inc k).le = s.le := by cases s; rfl
@[simp] theorem State.inc_cip (s : State) (k : Nat) : (s.inc k).cip = s.cip := by cases s; rfl
@[simp] theorem State.inc_pw (s : State) (k : Nat) : (s.inc k).pw = s.pw := by cases s; rfl
@[simp] theorem State.inc_mem (s : State) (k : Nat) : (s.inc k).mem = s.mem := by cases s; rfl
@[simp] theorem State.inc_disp (s : State) (k : Nat) : (s.inc k).disp = s.disp := by cases s; rfl
@[simp] theorem State.inc_mt (s : State) (k : Nat) : (s.inc k).mt = s.mt := by cases s; rfl
@[simp] theorem State.inc_sec (s : State) (k : Nat) : (s.inc k).sec = s.sec := by cases s; rfl
@[simp] theorem State.inc_conf (s : State) (k : Nat) : (s.inc k).conf = s.conf := by cases s; rfl
@[simp] theorem State.inc_ad (s : State) (k : Nat) : (s.inc k).ad = s.ad := by cases s; rfl
@[simp] theorem State.inc_mm (s : State) (k : Nat) : (s.inc k).mm = s.mm := by cases s; rfl
@[simp] theorem State.inc_tw (s : State) (k : Nat) : (s.inc k).tw = s.tw := by cases s; rfl
@[simp] theorem State.inc_fb (s : State) (k : Nat) : (s.inc k).fb = s.fb := by cases s; rfl
@[simp] theorem State.inc_speech (s : State) (k : Nat) : (s.inc k).speech = s.speech := by cases s; rfl
@[simp] theorem State.inc_vd (s : State) (k : Nat) : (s.inc k).vd = s.vd := by cases s; rfl
@[simp] theorem State.inc_cp (s : State) (k : Nat) : (s.inc k).cp = s.cp := by cases s; rfl
@[simp] theorem State.inc_en (s : State) (k : Nat) : (s.inc k).en = s.en := by cases s; rfl
@[simp] theorem State.inc_tm (s : State) (k : Nat) : (s.inc k).tm = s.tm := by cases s; rfl
@[simp] theorem State.inc_ig (s : State) (k : Nat) : (s.inc k).ig = s.ig := by cases s; rfl
@[simp] theorem State.inc_q (s : State) (k : Nat) (j : Nat) : (s.inc k).q j = s.q j := by cases s; rfl

@[simp] theorem State.count_pending (s : State) (k n : Nat) : (s.count k n).pending = s.pending := by cases s; rfl
@[simp] theorem State.count_out (s : State) (k n : Nat) : (s.count k n).out = s.out := by cases s; rfl
@[simp] theorem State.count_mono (s : State) (k n : Nat) : (s.count k n).mono = s.mono := by cases s; rfl
@[simp] theorem State.count_tod (s : State) (k n : Nat) : (s.count k n).tod = s.tod := by cases s; rfl
@[simp] theorem State.count_draws (s : State) (k n : Nat) : (s.count k n).draws = s.draws := by cases s; rfl
@[simp] theorem State.count_season (s : State) (k n : Nat) : (s.count k n).season = s.season := by cases s; rfl
@[simp] theorem State.count_shadow (s : State) (k n : Nat) : (s.count k n).shadow = s.shadow := by cases s; rfl
@[simp] theorem State.count_ev (s : State) (k n : Nat) : (s.count k n).ev = s.ev := by cases s; rfl
@[simp] theorem State.count_hif (s : State) (k n : Nat) : (s.count k n).hif = s.hif := by cases s; rfl
@[simp] theorem State.count_rings (s : State) (k n : Nat) : (s.count k n).rings = s.rings := by cases s; rfl
@[simp] theorem State.count_queues (s : State) (k n : Nat) : (s.count k n).queues = s.queues := by cases s; rfl
@[simp] theorem State.count_ctl (s : State) (k n : Nat) : (s.count k n).ctl = s.ctl := by cases s; rfl
@[simp] theorem State.count_le (s : State) (k n : Nat) : (s.count k n).le = s.le := by cases s; rfl
@[simp] theorem State.count_cip (s : State) (k n : Nat) : (s.count k n).cip = s.cip := by cases s; rfl
@[simp] theorem State.count_pw (s : State) (k n : Nat) : (s.count k n).pw = s.pw := by cases s; rfl
@[simp] theorem State.count_mem (s : State) (k n : Nat) : (s.count k n).mem = s.mem := by cases s; rfl
@[simp] theorem State.count_disp (s : State) (k n : Nat) : (s.count k n).disp = s.disp := by cases s; rfl
@[simp] theorem State.count_mt (s : State) (k n : Nat) : (s.count k n).mt = s.mt := by cases s; rfl
@[simp] theorem State.count_sec (s : State) (k n : Nat) : (s.count k n).sec = s.sec := by cases s; rfl
@[simp] theorem State.count_conf (s : State) (k n : Nat) : (s.count k n).conf = s.conf := by cases s; rfl
@[simp] theorem State.count_ad (s : State) (k n : Nat) : (s.count k n).ad = s.ad := by cases s; rfl
@[simp] theorem State.count_mm (s : State) (k n : Nat) : (s.count k n).mm = s.mm := by cases s; rfl
@[simp] theorem State.count_tw (s : State) (k n : Nat) : (s.count k n).tw = s.tw := by cases s; rfl
@[simp] theorem State.count_fb (s : State) (k n : Nat) : (s.count k n).fb = s.fb := by cases s; rfl
@[simp] theorem State.count_speech (s : State) (k n : Nat) : (s.count k n).speech = s.speech := by cases s; rfl
@[simp] theorem State.count_vd (s : State) (k n : Nat) : (s.count k n).vd = s.vd := by cases s; rfl
@[simp] theorem State.count_cp (s : State) (k n : Nat) : (s.count k n).cp = s.cp := by cases s; rfl
@[simp] theorem State.count_en (s : State) (k n : Nat) : (s.count k n).en = s.en := by cases s; rfl
@[simp] theorem State.count_tm (s : State) (k n : Nat) : (s.count k n).tm = s.tm := by cases s; rfl
@[simp] theorem State.count_ig (s : State) (k n : Nat) : (s.count k n).ig = s.ig := by cases s; rfl
@[simp] theorem State.count_q (s : State) (k n : Nat) (j : Nat) : (s.count k n).q j = s.q j := by cases s; rfl

@[simp] theorem State.setDx_pending (s : State) (d : Nat) (x : DctxRt) : (s.setDx d x).pending = s.pending := by cases s; rfl
@[simp] theorem State.setDx_out (s : State) (d : Nat) (x : DctxRt) : (s.setDx d x).out = s.out := by cases s; rfl
@[simp] theorem State.setDx_mono (s : State) (d : Nat) (x : DctxRt) : (s.setDx d x).mono = s.mono := by cases s; rfl
@[simp] theorem State.setDx_tod (s : State) (d : Nat) (x : DctxRt) : (s.setDx d x).tod = s.tod := by cases s; rfl
@[simp] theorem State.setDx_draws (s : State) (d : Nat) (x : DctxRt) : (s.setDx d x).draws = s.draws := by cases s; rfl
@[simp] theorem State.setDx_season (s : State) (d : Nat) (x : DctxRt) : (s.setDx d x).season = s.season := by cases s; rfl
@[simp] theorem State.setDx_dict (s : State) (d : Nat) (x : DctxRt) : (s.setDx d x).dict = s.dict := by cases s; rfl
@[simp] theorem State.setDx_shadow (s : State) (d : Nat) (x : DctxRt) : (s.setDx d x).shadow = s.shadow := by cases s; rfl
@[simp] theorem State.setDx_ev (s : State) (d : Nat) (x : DctxRt) : (s.setDx d x).ev = s.ev := by cases s; rfl
@[simp] theorem State.setDx_hif (s : State) (d : Nat) (x : DctxRt) : (s.setDx d x).hif = s.hif := by cases s; rfl
@[simp] theorem State.setDx_rings (s : State) (d : Nat) (x : DctxRt) : (s.setDx d x).rings = s.rings := by cases s; rfl
@[simp] theorem State.setDx_queues (s : State) (d : Nat) (x : DctxRt) : (s.setDx d x).queues = s.queues := by cases s; rfl
@[simp] theorem State.setDx_ctl (s : State) (d : Nat) (x : DctxRt) : (s.setDx d x).ctl = s.ctl := by cases s; rfl
@[simp] theorem State.setDx_le (s : State) (d : Nat) (x : DctxRt) : (s.setDx d x).le = s.le := by cases s; rfl
@[simp] theorem State.setDx_cip (s : State) (d : Nat) (x : DctxRt) : (s.setDx d x).cip = s.cip := by cases s; rfl
@[simp] theorem State.setDx_pw (s : State) (d : Nat) (x : DctxRt) : (s.setDx d x).pw = s.pw := by cases s; rfl
@[simp] theorem State.setDx_mem (s : State) (d : Nat) (x : DctxRt) : (s.setDx d x).mem = s.mem := by cases s; rfl
@[simp] theorem State.setDx_disp (s : State) (d : Nat) (x : DctxRt) : (s.setDx d x).disp = s.disp := by cases s; rfl
@[simp] theorem State.setDx_mt (s : State) (d : Nat) (x : DctxRt) : (s.setDx d x).mt = s.mt := by cases s; rfl
@[simp] theorem State.setDx_sec (s : State) (d : Nat) (x : DctxRt) : (s.setDx d x).sec = s.sec := by cases s; rfl
@[simp] theorem State.setDx_conf (s : State) (d : Nat) (x : DctxRt) : (s.setDx d x).conf = s.conf := by cases s; rfl
@[simp] theorem State.setDx_ad (s : State) (d : Nat) (x : DctxRt) : (s.setDx d x).ad = s.ad := by cases s; rfl
@[simp] theorem State.setDx_mm (s : State) (d : Nat) (x : DctxRt) : (s.setDx d x).mm = s.mm := by cases s; rfl
@[simp] theorem State.setDx_tw (s : State) (d : Nat) (x : DctxRt) : (s.setDx d x).tw = s.tw := by cases s; rfl
@[simp] theorem State.setDx_fb (s : State) (d : Nat) (x : DctxRt) : (s.setDx d x).fb = s.fb := by cases s; rfl
@[simp] theorem State.setDx_speech (s : State) (d : Nat) (x : DctxRt) : (s.setDx d x).speech = s.speech := by cases s; rfl
@[simp] theorem State.setDx_cp (s : State) (d : Nat) (x : DctxRt) : (s.setDx d x).cp = s.cp := by cases s; rfl
@[simp] theorem State.setDx_en (s : State) (d : Nat) (x : DctxRt) : (s.setDx d x).en = s.en := by cases s; rfl
@[simp] theorem State.setDx_tm (s : State) (d : Nat) (x : DctxRt) : (s.setDx d x).tm = s.tm := by cases s; rfl
@[simp] theorem State.setDx_ig (s : State) (d : Nat) (x : DctxRt) : (s.setDx d x).ig = s.ig := by cases s; rfl
@[simp] theorem State.setDx_vd_pipes (s : State) (d : Nat) (x : DctxRt) : (s.setDx d x).vd.pipes = s.vd.pipes := by cases s; rfl
@[simp] theorem State.setDx_rd (s : State) (d : Nat) (x : DctxRt) (j : Nat) : (s.setDx d x).rd j = s.rd j := by cases s; rfl
@[simp] theorem State.setDx_q (s : State) (d : Nat) (x : DctxRt) (j : Nat) : (s.setDx d x).q j = s.q j := by cases s; rfl
@[simp] theorem State.setDx_same (s : State) (d : Nat) (x : DctxRt) : (s.setDx d x).dx d = x := AMap.get_put_same ..

end Sys2Proof.Machine
end

