-- ==== Sys2Proof/Laws/Getters.lean ====
section
/-! SUPPORT. Reading an engine's records after an update of something else. -/

namespace Sys2Proof.Machine

@[simp] theorem State.cCore_wr (s : State) (k v : Nat) (j' : Nat) : (s.wr k v).cCore j' = s.cCore j' := by cases s; rfl
@[simp] theorem State.cCore_wrShadow (s : State) (k v : Nat) (j' : Nat) : (s.wrShadow k v).cCore j' = s.cCore j' := by cases s; rfl
@[simp] theorem State.cCore_emit (s : State) (o : Out) (j' : Nat) : (s.emit o).cCore j' = s.cCore j' := by cases s; rfl
@[simp] theorem State.cCore_setQ (s : State) (n : Nat) (q : Queue) (j' : Nat) : (s.setQ n q).cCore j' = s.cCore j' := by cases s; rfl
@[simp] theorem State.cCore_inc (s : State) (k : Nat) (j' : Nat) : (s.inc k).cCore j' = s.cCore j' := by cases s; rfl
@[simp] theorem State.cCore_count (s : State) (k n : Nat) (j' : Nat) : (s.count k n).cCore j' = s.cCore j' := by cases s; rfl
@[simp] theorem State.cCore_event (s : State) (c a b : Nat) (j' : Nat) : (s.event c a b).cCore j' = s.cCore j' := by unfold State.cCore; simp
@[simp] theorem State.cs_setLay (s : State) (v z : Nat) (x : LayRt) (j' : Nat) : (s.setLay v z x).cs j' = s.cs j' := by cases s; rfl
@[simp] theorem State.cs_wr (s : State) (k v : Nat) (j' : Nat) : (s.wr k v).cs j' = s.cs j' := by cases s; rfl
@[simp] theorem State.cs_wrShadow (s : State) (k v : Nat) (j' : Nat) : (s.wrShadow k v).cs j' = s.cs j' := by cases s; rfl
@[simp] theorem State.cs_emit (s : State) (o : Out) (j' : Nat) : (s.emit o).cs j' = s.cs j' := by cases s; rfl
@[simp] theorem State.cs_setQ (s : State) (n : Nat) (q : Queue) (j' : Nat) : (s.setQ n q).cs j' = s.cs j' := by cases s; rfl
@[simp] theorem State.cs_inc (s : State) (k : Nat) (j' : Nat) : (s.inc k).cs j' = s.cs j' := by cases s; rfl
@[simp] theorem State.cs_count (s : State) (k n : Nat) (j' : Nat) : (s.count k n).cs j' = s.cs j' := by cases s; rfl
@[simp] theorem State.cs_event (s : State) (c a b : Nat) (j' : Nat) : (s.event c a b).cs j' = s.cs j' := by unfold State.cs; simp
@[simp] theorem State.lay_setCs (s : State) (c : Nat) (x : CsetRt) (i' j' : Nat) : (s.setCs c x).lay i' j' = s.lay i' j' := by cases s; rfl
@[simp] theorem State.lay_wr (s : State) (k v : Nat) (i' j' : Nat) : (s.wr k v).lay i' j' = s.lay i' j' := by cases s; rfl
@[simp] theorem State.lay_wrShadow (s : State) (k v : Nat) (i' j' : Nat) : (s.wrShadow k v).lay i' j' = s.lay i' j' := by cases s; rfl
@[simp] theorem State.lay_emit (s : State) (o : Out) (i' j' : Nat) : (s.emit o).lay i' j' = s.lay i' j' := by cases s; rfl
@[simp] theorem State.lay_setQ (s : State) (n : Nat) (q : Queue) (i' j' : Nat) : (s.setQ n q).lay i' j' = s.lay i' j' := by cases s; rfl
@[simp] theorem State.lay_inc (s : State) (k : Nat) (i' j' : Nat) : (s.inc k).lay i' j' = s.lay i' j' := by cases s; rfl
@[simp] theorem State.lay_count (s : State) (k n : Nat) (i' j' : Nat) : (s.count k n).lay i' j' = s.lay i' j' := by cases s; rfl
@[simp] theorem State.lay_event (s : State) (c a b : Nat) (i' j' : Nat) : (s.event c a b).lay i' j' = s.lay i' j' := by unfold State.lay; simp
@[simp] theorem State.ax_setRx (s : State) (r : Nat) (x : RctxRt) (j' : Nat) : (s.setRx r x).ax j' = s.ax j' := by cases s; rfl
@[simp] theorem State.ax_setBack (s : State) (b : Nat) (x : BeJob) (j' : Nat) : (s.setBack b x).ax j' = s.ax j' := by cases s; rfl
@[simp] theorem State.ax_wr (s : State) (k v : Nat) (j' : Nat) : (s.wr k v).ax j' = s.ax j' := by cases s; rfl
@[simp] theorem State.ax_wrShadow (s : State) (k v : Nat) (j' : Nat) : (s.wrShadow k v).ax j' = s.ax j' := by cases s; rfl
@[simp] theorem State.ax_emit (s : State) (o : Out) (j' : Nat) : (s.emit o).ax j' = s.ax j' := by cases s; rfl
@[simp] theorem State.ax_setQ (s : State) (n : Nat) (q : Queue) (j' : Nat) : (s.setQ n q).ax j' = s.ax j' := by cases s; rfl
@[simp] theorem State.ax_inc (s : State) (k : Nat) (j' : Nat) : (s.inc k).ax j' = s.ax j' := by cases s; rfl
@[simp] theorem State.ax_count (s : State) (k n : Nat) (j' : Nat) : (s.count k n).ax j' = s.ax j' := by cases s; rfl
@[simp] theorem State.ax_event (s : State) (c a b : Nat) (j' : Nat) : (s.event c a b).ax j' = s.ax j' := by unfold State.ax; simp
@[simp] theorem State.rx_setAx (s : State) (a : Nat) (x : ActxRt) (j' : Nat) : (s.setAx a x).rx j' = s.rx j' := by cases s; rfl
@[simp] theorem State.rx_setBack (s : State) (b : Nat) (x : BeJob) (j' : Nat) : (s.setBack b x).rx j' = s.rx j' := by cases s; rfl
@[simp] theorem State.rx_wr (s : State) (k v : Nat) (j' : Nat) : (s.wr k v).rx j' = s.rx j' := by cases s; rfl
@[simp] theorem State.rx_wrShadow (s : State) (k v : Nat) (j' : Nat) : (s.wrShadow k v).rx j' = s.rx j' := by cases s; rfl
@[simp] theorem State.rx_emit (s : State) (o : Out) (j' : Nat) : (s.emit o).rx j' = s.rx j' := by cases s; rfl
@[simp] theorem State.rx_setQ (s : State) (n : Nat) (q : Queue) (j' : Nat) : (s.setQ n q).rx j' = s.rx j' := by cases s; rfl
@[simp] theorem State.rx_inc (s : State) (k : Nat) (j' : Nat) : (s.inc k).rx j' = s.rx j' := by cases s; rfl
@[simp] theorem State.rx_count (s : State) (k n : Nat) (j' : Nat) : (s.count k n).rx j' = s.rx j' := by cases s; rfl
@[simp] theorem State.rx_event (s : State) (c a b : Nat) (j' : Nat) : (s.event c a b).rx j' = s.rx j' := by unfold State.rx; simp
@[simp] theorem State.adapt_setFeed (s : State) (l f : Nat) (x : FeedRt) (j' : Nat) : (s.setFeed l f x).adapt j' = s.adapt j' := by cases s; rfl
@[simp] theorem State.adapt_setShaper (s : State) (l : Nat) (x : Shaper) (j' : Nat) : (s.setShaper l x).adapt j' = s.adapt j' := by cases s; rfl
@[simp] theorem State.adapt_wr (s : State) (k v : Nat) (j' : Nat) : (s.wr k v).adapt j' = s.adapt j' := by cases s; rfl
@[simp] theorem State.adapt_wrShadow (s : State) (k v : Nat) (j' : Nat) : (s.wrShadow k v).adapt j' = s.adapt j' := by cases s; rfl
@[simp] theorem State.adapt_emit (s : State) (o : Out) (j' : Nat) : (s.emit o).adapt j' = s.adapt j' := by cases s; rfl
@[simp] theorem State.adapt_setQ (s : State) (n : Nat) (q : Queue) (j' : Nat) : (s.setQ n q).adapt j' = s.adapt j' := by cases s; rfl
@[simp] theorem State.adapt_inc (s : State) (k : Nat) (j' : Nat) : (s.inc k).adapt j' = s.adapt j' := by cases s; rfl
@[simp] theorem State.adapt_count (s : State) (k n : Nat) (j' : Nat) : (s.count k n).adapt j' = s.adapt j' := by cases s; rfl
@[simp] theorem State.adapt_event (s : State) (c a b : Nat) (j' : Nat) : (s.event c a b).adapt j' = s.adapt j' := by unfold State.adapt; simp
@[simp] theorem State.nq_setLane (s : State) (l : Nat) (x : LaneRt) (j' : Nat) : (s.setLane l x).nq j' = s.nq j' := by cases s; rfl
@[simp] theorem State.nq_tally (s : State) (k n : Nat) (j' : Nat) : (s.tally k n).nq j' = s.nq j' := by cases s; rfl
@[simp] theorem State.nq_setSecond (s : State) (p : Nat) (x : PmSecond) (j' : Nat) : (s.setSecond p x).nq j' = s.nq j' := by cases s; rfl
@[simp] theorem State.nq_lsdbChanged (s : State) (j' : Nat) : (s.lsdbChanged).nq j' = s.nq j' := by cases s; rfl
@[simp] theorem State.nq_wr (s : State) (k v : Nat) (j' : Nat) : (s.wr k v).nq j' = s.nq j' := by cases s; rfl
@[simp] theorem State.nq_wrShadow (s : State) (k v : Nat) (j' : Nat) : (s.wrShadow k v).nq j' = s.nq j' := by cases s; rfl
@[simp] theorem State.nq_emit (s : State) (o : Out) (j' : Nat) : (s.emit o).nq j' = s.nq j' := by cases s; rfl
@[simp] theorem State.nq_setQ (s : State) (n : Nat) (q : Queue) (j' : Nat) : (s.setQ n q).nq j' = s.nq j' := by cases s; rfl
@[simp] theorem State.nq_inc (s : State) (k : Nat) (j' : Nat) : (s.inc k).nq j' = s.nq j' := by cases s; rfl
@[simp] theorem State.nq_count (s : State) (k n : Nat) (j' : Nat) : (s.count k n).nq j' = s.nq j' := by cases s; rfl
@[simp] theorem State.nq_event (s : State) (c a b : Nat) (j' : Nat) : (s.event c a b).nq j' = s.nq j' := by unfold State.nq; simp
@[simp] theorem State.lane_setNq (s : State) (p : Nat) (x : NqPort) (j' : Nat) : (s.setNq p x).lane j' = s.lane j' := by cases s; rfl
@[simp] theorem State.lane_tally (s : State) (k n : Nat) (j' : Nat) : (s.tally k n).lane j' = s.lane j' := by cases s; rfl
@[simp] theorem State.lane_setSecond (s : State) (p : Nat) (x : PmSecond) (j' : Nat) : (s.setSecond p x).lane j' = s.lane j' := by cases s; rfl
@[simp] theorem State.lane_lsdbChanged (s : State) (j' : Nat) : (s.lsdbChanged).lane j' = s.lane j' := by cases s; rfl
@[simp] theorem State.lane_wr (s : State) (k v : Nat) (j' : Nat) : (s.wr k v).lane j' = s.lane j' := by cases s; rfl
@[simp] theorem State.lane_wrShadow (s : State) (k v : Nat) (j' : Nat) : (s.wrShadow k v).lane j' = s.lane j' := by cases s; rfl
@[simp] theorem State.lane_emit (s : State) (o : Out) (j' : Nat) : (s.emit o).lane j' = s.lane j' := by cases s; rfl
@[simp] theorem State.lane_setQ (s : State) (n : Nat) (q : Queue) (j' : Nat) : (s.setQ n q).lane j' = s.lane j' := by cases s; rfl
@[simp] theorem State.lane_inc (s : State) (k : Nat) (j' : Nat) : (s.inc k).lane j' = s.lane j' := by cases s; rfl
@[simp] theorem State.lane_count (s : State) (k n : Nat) (j' : Nat) : (s.count k n).lane j' = s.lane j' := by cases s; rfl
@[simp] theorem State.lane_event (s : State) (c a b : Nat) (j' : Nat) : (s.event c a b).lane j' = s.lane j' := by unfold State.lane; simp
@[simp] theorem State.second_setNq (s : State) (p : Nat) (x : NqPort) (j' : Nat) : (s.setNq p x).second j' = s.second j' := by cases s; rfl
@[simp] theorem State.second_setLane (s : State) (l : Nat) (x : LaneRt) (j' : Nat) : (s.setLane l x).second j' = s.second j' := by cases s; rfl
@[simp] theorem State.second_tally (s : State) (k n : Nat) (j' : Nat) : (s.tally k n).second j' = s.second j' := by cases s; rfl
@[simp] theorem State.second_lsdbChanged (s : State) (j' : Nat) : (s.lsdbChanged).second j' = s.second j' := by cases s; rfl
@[simp] theorem State.second_wr (s : State) (k v : Nat) (j' : Nat) : (s.wr k v).second j' = s.second j' := by cases s; rfl
@[simp] theorem State.second_wrShadow (s : State) (k v : Nat) (j' : Nat) : (s.wrShadow k v).second j' = s.second j' := by cases s; rfl
@[simp] theorem State.second_emit (s : State) (o : Out) (j' : Nat) : (s.emit o).second j' = s.second j' := by cases s; rfl
@[simp] theorem State.second_setQ (s : State) (n : Nat) (q : Queue) (j' : Nat) : (s.setQ n q).second j' = s.second j' := by cases s; rfl
@[simp] theorem State.second_inc (s : State) (k : Nat) (j' : Nat) : (s.inc k).second j' = s.second j' := by cases s; rfl
@[simp] theorem State.second_count (s : State) (k n : Nat) (j' : Nat) : (s.count k n).second j' = s.second j' := by cases s; rfl
@[simp] theorem State.second_event (s : State) (c a b : Nat) (j' : Nat) : (s.event c a b).second j' = s.second j' := by unfold State.second; simp
@[simp] theorem State.leg_setRxE (s : State) (l e : Nat) (x : RxEntry) (j' : Nat) : (s.setRxE l e x).leg j' = s.leg j' := by cases s; rfl
@[simp] theorem State.leg_setTxE (s : State) (l e : Nat) (x : TxEntry) (j' : Nat) : (s.setTxE l e x).leg j' = s.leg j' := by cases s; rfl
@[simp] theorem State.leg_wr (s : State) (k v : Nat) (j' : Nat) : (s.wr k v).leg j' = s.leg j' := by cases s; rfl
@[simp] theorem State.leg_wrShadow (s : State) (k v : Nat) (j' : Nat) : (s.wrShadow k v).leg j' = s.leg j' := by cases s; rfl
@[simp] theorem State.leg_emit (s : State) (o : Out) (j' : Nat) : (s.emit o).leg j' = s.leg j' := by cases s; rfl
@[simp] theorem State.leg_setQ (s : State) (n : Nat) (q : Queue) (j' : Nat) : (s.setQ n q).leg j' = s.leg j' := by cases s; rfl
@[simp] theorem State.leg_inc (s : State) (k : Nat) (j' : Nat) : (s.inc k).leg j' = s.leg j' := by cases s; rfl
@[simp] theorem State.leg_count (s : State) (k n : Nat) (j' : Nat) : (s.count k n).leg j' = s.leg j' := by cases s; rfl
@[simp] theorem State.leg_event (s : State) (c a b : Nat) (j' : Nat) : (s.event c a b).leg j' = s.leg j' := by unfold State.leg; simp
@[simp] theorem State.rxE_setLeg (s : State) (l : Nat) (x : LegRt) (i' j' : Nat) : (s.setLeg l x).rxE i' j' = s.rxE i' j' := by cases s; rfl
@[simp] theorem State.rxE_setTxE (s : State) (l e : Nat) (x : TxEntry) (i' j' : Nat) : (s.setTxE l e x).rxE i' j' = s.rxE i' j' := by cases s; rfl
@[simp] theorem State.rxE_wr (s : State) (k v : Nat) (i' j' : Nat) : (s.wr k v).rxE i' j' = s.rxE i' j' := by cases s; rfl
@[simp] theorem State.rxE_wrShadow (s : State) (k v : Nat) (i' j' : Nat) : (s.wrShadow k v).rxE i' j' = s.rxE i' j' := by cases s; rfl
@[simp] theorem State.rxE_emit (s : State) (o : Out) (i' j' : Nat) : (s.emit o).rxE i' j' = s.rxE i' j' := by cases s; rfl
@[simp] theorem State.rxE_setQ (s : State) (n : Nat) (q : Queue) (i' j' : Nat) : (s.setQ n q).rxE i' j' = s.rxE i' j' := by cases s; rfl
@[simp] theorem State.rxE_inc (s : State) (k : Nat) (i' j' : Nat) : (s.inc k).rxE i' j' = s.rxE i' j' := by cases s; rfl
@[simp] theorem State.rxE_count (s : State) (k n : Nat) (i' j' : Nat) : (s.count k n).rxE i' j' = s.rxE i' j' := by cases s; rfl
@[simp] theorem State.rxE_event (s : State) (c a b : Nat) (i' j' : Nat) : (s.event c a b).rxE i' j' = s.rxE i' j' := by unfold State.rxE; simp
@[simp] theorem State.txE_setLeg (s : State) (l : Nat) (x : LegRt) (i' j' : Nat) : (s.setLeg l x).txE i' j' = s.txE i' j' := by cases s; rfl
@[simp] theorem State.txE_setRxE (s : State) (l e : Nat) (x : RxEntry) (i' j' : Nat) : (s.setRxE l e x).txE i' j' = s.txE i' j' := by cases s; rfl
@[simp] theorem State.txE_wr (s : State) (k v : Nat) (i' j' : Nat) : (s.wr k v).txE i' j' = s.txE i' j' := by cases s; rfl
@[simp] theorem State.txE_wrShadow (s : State) (k v : Nat) (i' j' : Nat) : (s.wrShadow k v).txE i' j' = s.txE i' j' := by cases s; rfl
@[simp] theorem State.txE_emit (s : State) (o : Out) (i' j' : Nat) : (s.emit o).txE i' j' = s.txE i' j' := by cases s; rfl
@[simp] theorem State.txE_setQ (s : State) (n : Nat) (q : Queue) (i' j' : Nat) : (s.setQ n q).txE i' j' = s.txE i' j' := by cases s; rfl
@[simp] theorem State.txE_inc (s : State) (k : Nat) (i' j' : Nat) : (s.inc k).txE i' j' = s.txE i' j' := by cases s; rfl
@[simp] theorem State.txE_count (s : State) (k n : Nat) (i' j' : Nat) : (s.count k n).txE i' j' = s.txE i' j' := by cases s; rfl
@[simp] theorem State.txE_event (s : State) (c a b : Nat) (i' j' : Nat) : (s.event c a b).txE i' j' = s.txE i' j' := by unfold State.txE; simp
@[simp] theorem State.core_wr (s : State) (k v : Nat) (j' : Nat) : (s.wr k v).core j' = s.core j' := by cases s; rfl
@[simp] theorem State.core_wrShadow (s : State) (k v : Nat) (j' : Nat) : (s.wrShadow k v).core j' = s.core j' := by cases s; rfl
@[simp] theorem State.core_emit (s : State) (o : Out) (j' : Nat) : (s.emit o).core j' = s.core j' := by cases s; rfl
@[simp] theorem State.core_setQ (s : State) (n : Nat) (q : Queue) (j' : Nat) : (s.setQ n q).core j' = s.core j' := by cases s; rfl
@[simp] theorem State.core_inc (s : State) (k : Nat) (j' : Nat) : (s.inc k).core j' = s.core j' := by cases s; rfl
@[simp] theorem State.core_count (s : State) (k n : Nat) (j' : Nat) : (s.count k n).core j' = s.core j' := by cases s; rfl
@[simp] theorem State.core_event (s : State) (c a b : Nat) (j' : Nat) : (s.event c a b).core j' = s.core j' := by unfold State.core; simp
@[simp] theorem State.pc_allot (s : State) (p n : Nat) (j' : Nat) : (s.allot p n).pc j' = s.pc j' := by cases s; rfl
@[simp] theorem State.pc_unallot (s : State) (p n : Nat) (j' : Nat) : (s.unallot p n).pc j' = s.pc j' := by cases s; rfl
@[simp] theorem State.pc_heal (s : State) (a n : Nat) (j' : Nat) : (s.heal a n).pc j' = s.pc j' := by cases s; rfl
@[simp] theorem State.pc_spoil (s : State) (a : Nat) (j' : Nat) : (s.spoil a).pc j' = s.pc j' := by cases s; rfl
@[simp] theorem State.pc_moved (s : State) (c n : Nat) (j' : Nat) : (s.moved c n).pc j' = s.pc j' := by cases s; rfl
@[simp] theorem State.pc_wr (s : State) (k v : Nat) (j' : Nat) : (s.wr k v).pc j' = s.pc j' := by cases s; rfl
@[simp] theorem State.pc_wrShadow (s : State) (k v : Nat) (j' : Nat) : (s.wrShadow k v).pc j' = s.pc j' := by cases s; rfl
@[simp] theorem State.pc_emit (s : State) (o : Out) (j' : Nat) : (s.emit o).pc j' = s.pc j' := by cases s; rfl
@[simp] theorem State.pc_setQ (s : State) (n : Nat) (q : Queue) (j' : Nat) : (s.setQ n q).pc j' = s.pc j' := by cases s; rfl
@[simp] theorem State.pc_inc (s : State) (k : Nat) (j' : Nat) : (s.inc k).pc j' = s.pc j' := by cases s; rfl
@[simp] theorem State.pc_count (s : State) (k n : Nat) (j' : Nat) : (s.count k n).pc j' = s.pc j' := by cases s; rfl
@[simp] theorem State.pc_event (s : State) (c a b : Nat) (j' : Nat) : (s.event c a b).pc j' = s.pc j' := by unfold State.pc; simp
@[simp] theorem State.cf_wr (s : State) (k v : Nat) (j' : Nat) : (s.wr k v).cf j' = s.cf j' := by cases s; rfl
@[simp] theorem State.cf_wrShadow (s : State) (k v : Nat) (j' : Nat) : (s.wrShadow k v).cf j' = s.cf j' := by cases s; rfl
@[simp] theorem State.cf_emit (s : State) (o : Out) (j' : Nat) : (s.emit o).cf j' = s.cf j' := by cases s; rfl
@[simp] theorem State.cf_setQ (s : State) (n : Nat) (q : Queue) (j' : Nat) : (s.setQ n q).cf j' = s.cf j' := by cases s; rfl
@[simp] theorem State.cf_inc (s : State) (k : Nat) (j' : Nat) : (s.inc k).cf j' = s.cf j' := by cases s; rfl
@[simp] theorem State.cf_count (s : State) (k n : Nat) (j' : Nat) : (s.count k n).cf j' = s.cf j' := by cases s; rfl
@[simp] theorem State.cf_event (s : State) (c a b : Nat) (j' : Nat) : (s.event c a b).cf j' = s.cf j' := by unfold State.cf; simp
@[simp] theorem State.pulse_wr (s : State) (k v : Nat) (j' : Nat) : (s.wr k v).pulse j' = s.pulse j' := by cases s; rfl
@[simp] theorem State.pulse_wrShadow (s : State) (k v : Nat) (j' : Nat) : (s.wrShadow k v).pulse j' = s.pulse j' := by cases s; rfl
@[simp] theorem State.pulse_emit (s : State) (o : Out) (j' : Nat) : (s.emit o).pulse j' = s.pulse j' := by cases s; rfl
@[simp] theorem State.pulse_setQ (s : State) (n : Nat) (q : Queue) (j' : Nat) : (s.setQ n q).pulse j' = s.pulse j' := by cases s; rfl
@[simp] theorem State.pulse_inc (s : State) (k : Nat) (j' : Nat) : (s.inc k).pulse j' = s.pulse j' := by cases s; rfl
@[simp] theorem State.pulse_count (s : State) (k n : Nat) (j' : Nat) : (s.count k n).pulse j' = s.pulse j' := by cases s; rfl
@[simp] theorem State.pulse_event (s : State) (c a b : Nat) (j' : Nat) : (s.event c a b).pulse j' = s.pulse j' := by unfold State.pulse; simp
@[simp] theorem State.dx_wr (s : State) (k v : Nat) (j' : Nat) : (s.wr k v).dx j' = s.dx j' := by cases s; rfl
@[simp] theorem State.dx_wrShadow (s : State) (k v : Nat) (j' : Nat) : (s.wrShadow k v).dx j' = s.dx j' := by cases s; rfl
@[simp] theorem State.dx_emit (s : State) (o : Out) (j' : Nat) : (s.emit o).dx j' = s.dx j' := by cases s; rfl
@[simp] theorem State.dx_setQ (s : State) (n : Nat) (q : Queue) (j' : Nat) : (s.setQ n q).dx j' = s.dx j' := by cases s; rfl
@[simp] theorem State.dx_inc (s : State) (k : Nat) (j' : Nat) : (s.inc k).dx j' = s.dx j' := by cases s; rfl
@[simp] theorem State.dx_count (s : State) (k n : Nat) (j' : Nat) : (s.count k n).dx j' = s.dx j' := by cases s; rfl
@[simp] theorem State.dx_event (s : State) (c a b : Nat) (j' : Nat) : (s.event c a b).dx j' = s.dx j' := by unfold State.dx; simp

end Sys2Proof.Machine
end

