-- ==== Sys2Proof/Laws/Keeps.lean ====
section
/-! SUPPORT. What no operation of the block breaks, as one relation between the state before and after: the queue of commands and the
clock alone, free values only drawn further, fuses only blown, output only added to, canonical data kept. -/

namespace Sys2Proof.Machine

set_option linter.unusedTactic false
set_option linter.unreachableTactic false
set_option linter.unusedSimpArgs false
set_option linter.unusedVariables false

/-- From `s` to `t` by operations of the block. -/
structure Keeps (s t : State) : Prop where
  pending : t.pending = s.pending
  mono : t.mono = s.mono
  draws : s.draws ≤ t.draws
  fuses : Fuses.grown s.sec.fuses t.sec.fuses = true
  out : s.out <:+ t.out
  dict : AMap.wf dfltOf s.dict = true → AMap.wf dfltOf s.shadow = true → AMap.wf dfltOf t.dict = true
  shadow : AMap.wf dfltOf s.dict = true → AMap.wf dfltOf s.shadow = true → AMap.wf dfltOf t.shadow = true
  mem : Memory.wf s.mem = true → Memory.wf t.mem = true

theorem Fuses.grown_refl (f : Fuses) : Fuses.grown f f = true := by simp [Fuses.grown]

theorem Fuses.grown_trans {f g h : Fuses} (a : Fuses.grown f g = true) (b : Fuses.grown g h = true) : Fuses.grown f h = true := by
  have key : ∀ x y z : Nat, x ||| y = y → y ||| z = z → x ||| z = z := by
    intro x y z h1 h2
    rw [← h2, ← Nat.or_assoc, h1]
  simp only [Fuses.grown, Bool.and_eq_true, Bool.or_eq_true, decide_eq_true_eq] at a b ⊢
  obtain ⟨⟨⟨⟨⟨⟨⟨⟨⟨⟨⟨a1, a2⟩, a3⟩, a4⟩, a5⟩, a6⟩, a7⟩, a8⟩, a9⟩, a10⟩, a11⟩, a12⟩ := a
  obtain ⟨⟨⟨⟨⟨⟨⟨⟨⟨⟨⟨b1, b2⟩, b3⟩, b4⟩, b5⟩, b6⟩, b7⟩, b8⟩, b9⟩, b10⟩, b11⟩, b12⟩ := b
  refine ⟨⟨⟨⟨⟨⟨⟨⟨⟨⟨⟨by omega, by omega⟩, by omega⟩, by omega⟩, key _ _ _ a5 b5⟩, key _ _ _ a6 b6⟩, key _ _ _ a7 b7⟩, key _ _ _ a8 b8⟩, ?_⟩,
    ?_⟩, ?_⟩, ?_⟩ <;> omega

theorem Keeps.refl (s : State) : Keeps s s :=
  ⟨rfl, rfl, Nat.le_refl _, Fuses.grown_refl _, List.suffix_refl _, fun a _ => a, fun _ b => b, id⟩

theorem Keeps.trans {s t u : State} (a : Keeps s t) (b : Keeps t u) : Keeps s u :=
  ⟨b.pending.trans a.pending, b.mono.trans a.mono, Nat.le_trans a.draws b.draws, Fuses.grown_trans a.fuses b.fuses,
    a.out.trans b.out, fun x y => b.dict (a.dict x y) (a.shadow x y), fun x y => b.shadow (a.dict x y) (a.shadow x y),
    fun x => b.mem (a.mem x)⟩

/-- An update of other fields. -/
theorem Keeps.upd {s t : State} (h : Keeps s t) {tod : Nat} {season : Season} {ev : Events} {hif : HostIf} {rings : List (Nat × Ring)}
    {queues : List (Nat × Queue)} {ctl : Control} {le : LegEngine} {cip : Cipher} {pw : Power} {disp : Dispatcher} {mt : Maten}
    {sec : Security} {conf : List (Nat × ConfRt)} {ad : Adaptation} {mm : MemCtl} {tw : Twin} {fb : Fabric}
    {speech : List (Nat × SpeakerRec)} {vd : VideoDecode} {cp : Composition} {en : Encoder} {tm : TimeUnit} {ig : Integrity}
    (e : sec.fuses = t.sec.fuses) :
    Keeps s ⟨t.pending, t.out, t.mono, tod, t.draws, season, t.dict, t.shadow, ev, hif, rings, queues, ctl, le, cip, pw, t.mem, disp, mt,
      sec, conf, ad, mm, tw, fb, speech, vd, cp, en, tm, ig⟩ :=
  h.trans ⟨rfl, rfl, Nat.le_refl _, by rw [← e]; exact Fuses.grown_refl _, List.suffix_refl _, fun a _ => a, fun _ b => b, id⟩

theorem Keeps.foldl {α : Type} {s t : State} {f : State → α → State} {l : List α} (h : Keeps s t)
    (hf : ∀ u a, Keeps s u → Keeps s (f u a)) : Keeps s (l.foldl f t) := by
  induction l generalizing t with
  | nil => exact h
  | cons a r ih => exact ih (hf t a h)

theorem Keeps.foldl_snd {α β : Type} {s : State} {p : β × State} {f : β × State → α → β × State} {l : List α} (h : Keeps s p.2)
    (hf : ∀ q a, Keeps s q.2 → Keeps s (f q a).2) : Keeps s (l.foldl f p).2 := by
  induction l generalizing p with
  | nil => exact h
  | cons a r ih => exact ih (hf p a h)

theorem Keeps.foldl_fst {α β : Type} {s : State} {p : State × β} {f : State × β → α → State × β} {l : List α} (h : Keeps s p.1)
    (hf : ∀ q a, Keeps s q.1 → Keeps s (f q a).1) : Keeps s (l.foldl f p).1 := by
  induction l generalizing p with
  | nil => exact h
  | cons a r ih => exact ih (hf p a h)

theorem Keeps.foldl_snd2 {α β γ : Type} {s : State} {p : β × γ × State} {f : β × γ × State → α → β × γ × State} {l : List α}
    (h : Keeps s p.2.2) (hf : ∀ q a, Keeps s q.2.2 → Keeps s (f q a).2.2) : Keeps s (l.foldl f p).2.2 := by
  induction l generalizing p with
  | nil => exact h
  | cons a r ih => exact ih (hf p a h)

theorem Keeps.snd {α : Type} {s t : State} {p : α × State} {a : α} (e : p = (a, t)) (h : Keeps s p.2) : Keeps s t := by
  subst e; exact h

theorem Keeps.fst {α : Type} {s t : State} {p : State × α} {a : α} (e : p = (t, a)) (h : Keeps s p.1) : Keeps s t := by
  subst e; exact h

theorem Keeps.snd3 {α β : Type} {s t : State} {p : α × β × State} {a : α} {b : β} (e : p = (a, b, t)) (h : Keeps s p.2.2) :
    Keeps s t := by
  subst e; exact h

theorem Keeps.mid3 {α β : Type} {s t : State} {p : α × State × β} {a : α} {b : β} (e : p = (a, t, b)) (h : Keeps s p.2.1) :
    Keeps s t := by
  subst e; exact h

theorem Keeps.mid4 {α β γ : Type} {s t : State} {p : α × β × State × γ} {a : α} {b : β} {c : γ} (e : p = (a, b, t, c))
    (h : Keeps s p.2.2.1) : Keeps s t := by
  subst e; exact h

theorem Keeps.snd4 {α β γ : Type} {s t : State} {p : α × β × γ × State} {a : α} {b : β} {c : γ} (e : p = (a, b, c, t))
    (h : Keeps s p.2.2.2) : Keeps s t := by
  subst e; exact h

/-- What an operation that may give no state leaves. -/
def Keeps.opt (s : State) : Option State → Prop
  | some t => Keeps s t
  | none => True

theorem Keeps.opt_some {s t : State} (h : Keeps s t) : Keeps.opt s (some t) := h

theorem Keeps.ofSome {s t : State} {o : Option State} (e : o = some t) (h : Keeps.opt s o) : Keeps s t := by
  subst e; exact h

theorem Keeps.opt_map {s : State} {o : Option State} {f : State → State} (h : Keeps.opt s o) (k : ∀ t, Keeps s t → Keeps s (f t)) :
    Keeps.opt s (o.map f) := by
  cases o with
  | none => exact trivial
  | some t => exact k t h

theorem Keeps.getD {s t : State} {o : Option State} (h : Keeps.opt s o) (k : Keeps s t) : Keeps s (o.getD t) := by
  cases o with
  | none => exact k
  | some u => exact h

theorem Keeps.ite {c : Prop} [Decidable c] {s t u : State} (h : Keeps s t) (k : Keeps s u) : Keeps s (if c then t else u) := by
  split <;> assumption

theorem Keeps.ite_snd {α : Type} {c : Prop} [Decidable c] {s : State} {p q : α × State} (h : Keeps s p.2) (k : Keeps s q.2) :
    Keeps s (if c then p else q).2 := by
  split <;> assumption

/-- What a command leaves. -/
def Keeps.outcome (s : State) : Host.Outcome State Fault Refusal → Prop
  | .next t => Keeps s t
  | .fault _ => True
  | .refused _ => True

theorem Keeps.outcome_next {s t : State} (h : Keeps s t) : Keeps.outcome s (.next t) := h

/-- What an instruction of a core leaves when it has a result. -/
def IRes.keeps (s : State) : IRes → Prop
  | .ok _ t => Keeps s t
  | .fault _ _ => True
  | .none => True

theorem IRes.keeps_ok {s t : State} {k : MatenCore} (h : Keeps s t) : IRes.keeps s (.ok k t) := h

/-! ### The operations that write those fields -/

theorem Keeps.setDict {s t : State} (h : Keeps s t) (d : List (Nat × Nat))
    (k : AMap.wf dfltOf t.dict = true → AMap.wf dfltOf t.shadow = true → AMap.wf dfltOf d = true) : Keeps s { t with dict := d } :=
  h.trans ⟨rfl, rfl, Nat.le_refl _, Fuses.grown_refl _, List.suffix_refl _, k, fun _ b => b, id⟩

theorem Keeps.setShadow {s t : State} (h : Keeps s t) (d : List (Nat × Nat))
    (k : AMap.wf dfltOf t.dict = true → AMap.wf dfltOf t.shadow = true → AMap.wf dfltOf d = true) : Keeps s { t with shadow := d } :=
  h.trans ⟨rfl, rfl, Nat.le_refl _, Fuses.grown_refl _, List.suffix_refl _, fun a _ => a, k, id⟩

theorem Keeps.setMem {s t : State} (h : Keeps s t) (d : List Host.Cell) (k : Memory.wf t.mem = true → Memory.wf d = true) :
    Keeps s { t with mem := d } :=
  h.trans ⟨rfl, rfl, Nat.le_refl _, Fuses.grown_refl _, List.suffix_refl _, fun a _ => a, fun _ b => b, k⟩

theorem Keeps.draw {s t : State} (h : Keeps s t) : Keeps s { t with draws := t.draws + 1 } :=
  h.trans ⟨rfl, rfl, Nat.le_succ _, Fuses.grown_refl _, List.suffix_refl _, fun a _ => a, fun _ b => b, id⟩

theorem Keeps.setFuses {s t : State} (h : Keeps s t) (f : Fuses) (k : Fuses.grown t.sec.fuses f = true) :
    Keeps s { t with sec := { t.sec with fuses := f } } :=
  h.trans ⟨rfl, rfl, Nat.le_refl _, k, List.suffix_refl _, fun a _ => a, fun _ b => b, id⟩

theorem Keeps.sent {s t : State} (h : Keeps s t) (o : Out) : Keeps s { t with out := o :: t.out } :=
  h.trans ⟨rfl, rfl, Nat.le_refl _, Fuses.grown_refl _, List.suffix_cons _ _, fun a _ => a, fun _ b => b, id⟩

end Sys2Proof.Machine
end

