-- ==== Sys2Proof/Laws/Keeps/Ops.lean ====
section
/-! SUPPORT. What the operations of Machine/Ops.lean keep: the invariants of Keeps, one lemma per definition. -/

namespace Sys2Proof.Machine

set_option linter.unusedTactic false
set_option linter.unreachableTactic false
set_option linter.unusedSimpArgs false
set_option linter.unusedVariables false

theorem keeps_State_wr {s0 : State} (s : State) (k v : Nat) (h_s : Keeps s0 s) : Keeps s0 (s.wr k v) :=
  Keeps.setDict h_s _ (fun a _ => AMap.wf_put a)

theorem keeps_State_wrShadow {s0 : State} (s : State) (k v : Nat) (h_s : Keeps s0 s) : Keeps s0 (s.wrShadow k v) :=
  Keeps.setShadow h_s _ (fun _ b => AMap.wf_put b)

theorem keeps_State_count {σ : State} (s : State) (k n : Nat) (h_s : Keeps σ s) :
    Keeps σ (State.count s k n) := by
  unfold State.count
  repeat' (first | with_reducible assumption | with_reducible apply keeps_State_wr | refine Keeps.snd (by assumption) ?_)

theorem keeps_State_inc {σ : State} (s : State) (k : Nat) (h_s : Keeps σ s) :
    Keeps σ (State.inc s k) := by
  unfold State.inc
  repeat' (first | with_reducible assumption | with_reducible apply keeps_State_count | refine Keeps.snd (by assumption) ?_)

theorem keeps_State_random {s0 : State} (s : State) (n : Nat) (h_s : Keeps s0 s) : Keeps s0 (s.random n).2 := Keeps.draw h_s

theorem keeps_State_choose {s0 : State} (s : State) (n : Nat) (h_s : Keeps s0 s) : Keeps s0 (s.choose n).2 := Keeps.draw h_s

theorem keeps_State_free {s0 : State} (s : State) (n : Nat) (h_s : Keeps s0 s) : Keeps s0 (s.free n).2 := Keeps.draw h_s

theorem keeps_State_emit {s0 : State} (s : State) (o : Out) (h_s : Keeps s0 s) : Keeps s0 (s.emit o) := Keeps.sent h_s o

theorem keeps_State_setQ {σ : State} (s : State) (n : Nat) (q : Queue) (h_s : Keeps σ s) :
    Keeps σ (State.setQ s n q) := by
  unfold State.setQ
  repeat' (first | with_reducible assumption | refine Keeps.mid4 (by assumption) ?_ | (fail_if_no_progress refine Keeps.upd ?_ rfl))

theorem keeps_State_setRing {σ : State} (s : State) (r : Nat) (x : Ring) (h_s : Keeps σ s) :
    Keeps σ (State.setRing s r x) := by
  unfold State.setRing
  repeat' (first | with_reducible assumption | refine Keeps.mid4 (by assumption) ?_ | (fail_if_no_progress refine Keeps.upd ?_ rfl))

theorem keeps_State_setH2d {σ : State} (s : State) (n : Nat) (m : Mailbox) (h_s : Keeps σ s) :
    Keeps σ (State.setH2d s n m) := by
  unfold State.setH2d
  repeat' (first | with_reducible assumption | refine Keeps.mid4 (by assumption) ?_ | (fail_if_no_progress refine Keeps.upd ?_ rfl))

theorem keeps_State_setD2h {σ : State} (s : State) (n : Nat) (m : Mailbox) (h_s : Keeps σ s) :
    Keeps σ (State.setD2h s n m) := by
  unfold State.setD2h
  repeat' (first | with_reducible assumption | refine Keeps.mid4 (by assumption) ?_ | (fail_if_no_progress refine Keeps.upd ?_ rfl))

theorem keeps_State_setVec {σ : State} (s : State) (v : Nat) (e : MsixEntry) (h_s : Keeps σ s) :
    Keeps σ (State.setVec s v e) := by
  unfold State.setVec
  repeat' (first | with_reducible assumption | refine Keeps.mid4 (by assumption) ?_ | (fail_if_no_progress refine Keeps.upd ?_ rfl))

theorem keeps_State_sendMsix {σ : State} (s : State) (v : Nat) (h_s : Keeps σ s) :
    Keeps σ (State.sendMsix s v) := by
  unfold State.sendMsix
  repeat' (first
    | with_reducible assumption
    | with_reducible apply Keeps.ite
    | with_reducible apply keeps_State_emit
    | refine Keeps.snd (by assumption) ?_)

theorem keeps_State_signal {σ : State} (s : State) (v code : Nat) (h_s : Keeps σ s) :
    Keeps σ (State.signal s v code) := by
  unfold State.signal
  repeat' (first
    | with_reducible assumption
    | with_reducible apply Keeps.ite
    | with_reducible apply keeps_State_setVec
    | with_reducible apply keeps_State_sendMsix
    | ((try lift_lets); intro x; try unfold x))

theorem keeps_irqEdge {σ : State} (src : IrqSource) (before : State) (after : State) (h_before : Keeps σ before) (h_after : Keeps σ after) :
    Keeps σ (irqEdge src before after) := by
  unfold irqEdge
  repeat' (first
    | with_reducible assumption
    | with_reducible apply Keeps.ite
    | with_reducible apply keeps_State_setVec
    | with_reducible apply keeps_State_signal
    | ((try lift_lets); intro x; try unfold x))

theorem keeps_withIrq {σ : State} (src : IrqSource) (f : State → State) (s : State) (h_f : ∀ x0, Keeps σ x0 → Keeps σ (f x0)) (h_s : Keeps σ s) :
    Keeps σ (withIrq src f s) := by
  unfold withIrq
  repeat' (first
    | with_reducible assumption
    | with_reducible apply h_f
    | with_reducible apply keeps_irqEdge
    | ((try lift_lets); intro x; try unfold x))

theorem keeps_State_raiseCause {σ : State} (s : State) (b : Nat) (h_s : Keeps σ s) :
    Keeps σ (State.raiseCause s b) := by
  unfold State.raiseCause
  repeat' (first
    | with_reducible assumption
    | with_reducible apply keeps_withIrq
    | refine fun _ => ?_
    | refine Keeps.snd (by assumption) ?_
    | (fail_if_no_progress refine Keeps.upd ?_ rfl))

theorem keeps_State_updQ {σ : State} (s : State) (n : Nat) (q : Queue) (h_s : Keeps σ s) :
    Keeps σ (State.updQ s n q) := by
  unfold State.updQ
  repeat' (first
    | with_reducible assumption
    | with_reducible apply Keeps.ite
    | with_reducible apply keeps_State_setQ
    | with_reducible apply keeps_withIrq
    | with_reducible apply keeps_State_raiseCause
    | refine fun _ => ?_
    | ((try lift_lets); intro x; refine (have hx : Keeps σ x := ?a; ?b); case' a => unfold x; case' b => clear_value x))

theorem keeps_State_ringPost {σ : State} (s : State) (r len : Nat) (body : Item) (h_s : Keeps σ s) :
    Keeps σ (State.ringPost s r len body).2 := by
  unfold State.ringPost
  repeat' (first
    | with_reducible assumption
    | with_reducible apply Keeps.ite_snd
    | with_reducible apply keeps_State_setQ
    | with_reducible apply keeps_State_setRing
    | with_reducible apply keeps_withIrq
    | refine fun _ => ?_
    | split)

theorem keeps_State_ringPostLost {σ : State} (s : State) (r len : Nat) (body : Item) (h_s : Keeps σ s) :
    Keeps σ (State.ringPostLost s r len body) := by
  unfold State.ringPostLost
  repeat' (first
    | with_reducible assumption
    | with_reducible apply keeps_State_ringPost
    | ((try lift_lets); intro x; try unfold x)
    | refine Keeps.snd (by assumption) ?_
    | split
    | (fail_if_no_progress refine Keeps.upd ?_ rfl))

theorem keeps_State_stampWrite {σ : State} (s : State) (h : HeldItem) (h_s : Keeps σ s) :
    Keeps σ (State.stampWrite s h).2 := by
  unfold State.stampWrite
  repeat' (first
    | with_reducible assumption
    | with_reducible apply keeps_State_raiseCause
    | with_reducible apply keeps_State_ringPost
    | ((try lift_lets); intro x; refine (have hx : Keeps σ x := ?a; ?b); case' a => unfold x; case' b => clear_value x)
    | refine Keeps.snd (by assumption) ?_
    | split)

theorem keeps_State_stampDrop {σ : State} (s : State) (h : HeldItem) (h_s : Keeps σ s) :
    Keeps σ (State.stampDrop s h) := by
  unfold State.stampDrop
  repeat' (first | with_reducible assumption | with_reducible apply keeps_State_inc | refine Keeps.snd (by assumption) ?_ | split)

theorem keeps_State_stampPost {σ : State} (s : State) (h : HeldItem) (h_s : Keeps σ s) :
    Keeps σ (State.stampPost s h) := by
  unfold State.stampPost
  repeat' (first
    | with_reducible assumption
    | with_reducible apply keeps_State_stampWrite
    | with_reducible apply keeps_State_stampDrop
    | ((try lift_lets); intro x; try unfold x)
    | refine Keeps.snd (by assumption) ?_
    | split
    | (fail_if_no_progress refine Keeps.upd ?_ rfl))

theorem keeps_releaseHold {s0 : State} (r n : Nat) (s : State) (h_s : Keeps s0 s) : Keeps s0 (releaseHold r n s) := by
  induction n generalizing s with
  | zero => exact h_s
  | succ n ih =>
    unfold releaseHold
    split
    · exact h_s
    · split
      · rename_i e
        exact ih _ ((Keeps.snd e (keeps_State_stampWrite s _ h_s)).upd rfl)
      · exact h_s

theorem keeps_releaseRing {s0 : State} (r n : Nat) (s : State) (h_s : Keeps s0 s) : Keeps s0 (releaseRing r n s) := by
  induction n generalizing s with
  | zero => exact h_s
  | succ n ih =>
    unfold releaseRing
    split
    · exact h_s
    · split
      · rename_i e
        exact ih _ ((Keeps.snd e (keeps_State_ringPost s _ _ _ h_s)).upd rfl)
      · exact h_s

theorem keeps_State_ringFreed {σ : State} (s : State) (r : Nat) (h_s : Keeps σ s) :
    Keeps σ (State.ringFreed s r) := by
  unfold State.ringFreed
  repeat' (first
    | with_reducible assumption
    | with_reducible apply keeps_releaseHold
    | with_reducible apply keeps_releaseRing
    | ((try lift_lets); intro x; try unfold x))

theorem keeps_State_push {σ : State} (s : State) (n len : Nat) (body : Item) (h_s : Keeps σ s) :
    Keeps σ (State.push s n len body).2 := by
  unfold State.push
  repeat' (first | with_reducible assumption | with_reducible apply keeps_State_updQ | ((try lift_lets); intro x; try unfold x))

theorem keeps_State_event {σ : State} (s : State) (code a0 a1 : Nat) (h_s : Keeps σ s) :
    Keeps σ (State.event s code a0 a1) := by
  unfold State.event
  repeat' (first
    | with_reducible assumption
    | with_reducible apply Keeps.ite
    | with_reducible apply keeps_State_inc
    | with_reducible apply keeps_State_raiseCause
    | with_reducible apply keeps_State_ringPostLost
    | ((try lift_lets); intro x; refine (have hx : Keeps σ x := ?a; ?b); case' a => unfold x; case' b => clear_value x)
    | split
    | (fail_if_no_progress refine Keeps.upd ?_ rfl))

theorem keeps_State_eventRated {σ : State} (s : State) (code scope a0 a1 : Nat) (h_s : Keeps σ s) :
    Keeps σ (State.eventRated s code scope a0 a1) := by
  unfold State.eventRated
  repeat' (first
    | with_reducible assumption
    | with_reducible apply Keeps.ite
    | with_reducible apply keeps_State_event
    | refine Keeps.snd (by assumption) ?_
    | (fail_if_no_progress refine Keeps.upd ?_ rfl))

theorem keeps_State_dropGroups {σ : State} (s : State) (p : Group → Bool) (h_s : Keeps σ s) :
    Keeps σ (State.dropGroups s p) := by
  unfold State.dropGroups
  repeat' (first | with_reducible assumption | refine Keeps.mid4 (by assumption) ?_ | (fail_if_no_progress refine Keeps.upd ?_ rfl))

theorem keeps_State_dropSessions {σ : State} (s : State) (h_s : Keeps σ s) :
    Keeps σ (State.dropSessions s) := by
  unfold State.dropSessions
  repeat' (first | with_reducible assumption | refine Keeps.snd (by assumption) ?_ | (fail_if_no_progress refine Keeps.upd ?_ rfl))

theorem keeps_State_dspRebase {σ : State} (s : State) (h_s : Keeps σ s) :
    Keeps σ (State.dspRebase s) := by
  unfold State.dspRebase
  repeat' (first | with_reducible assumption | refine Keeps.mid4 (by assumption) ?_ | (fail_if_no_progress refine Keeps.upd ?_ rfl))

theorem keeps_State_enterSeason {σ : State} (s0 : State) (t : Season) (h_s0 : Keeps σ s0) :
    Keeps σ (State.enterSeason s0 t) := by
  unfold State.enterSeason
  repeat' (first
    | with_reducible assumption
    | with_reducible apply keeps_State_wr
    | with_reducible apply keeps_State_event
    | ((try lift_lets); intro x; refine (have hx : Keeps σ x := ?a; ?b); case' a => unfold x; case' b => clear_value x)
    | (fail_if_no_progress refine Keeps.upd ?_ rfl))

theorem keeps_State_wake {σ : State} (s : State) (w : Wake) (h_s : Keeps σ s) :
    Keeps σ (State.wake s w) := by
  unfold State.wake
  repeat' (first
    | with_reducible assumption
    | with_reducible apply Keeps.ite
    | with_reducible apply keeps_State_wr
    | refine Keeps.snd (by assumption) ?_
    | (fail_if_no_progress refine Keeps.upd ?_ rfl))

theorem keeps_State_demand {σ : State} (s : State) (h_s : Keeps σ s) :
    Keeps σ (State.demand s) := by
  unfold State.demand
  repeat' (first
    | with_reducible assumption
    | with_reducible apply Keeps.ite
    | with_reducible apply keeps_State_wr
    | refine Keeps.snd (by assumption) ?_
    | (fail_if_no_progress refine Keeps.upd ?_ rfl))

end Sys2Proof.Machine
end

