-- ==== Sys2Proof/Laws/Keeps/Host.lean ====
section
/-! SUPPORT. What the operations of Machine/Host.lean keep: the invariants of Keeps, one lemma per definition. -/

namespace Sys2Proof.Machine

set_option linter.unusedTactic false
set_option linter.unreachableTactic false
set_option linter.unusedSimpArgs false
set_option linter.unusedVariables false

theorem keeps_tlpHeader {σ : State} (s : State) (write : Bool) (addr n : Nat) (h_s : Keeps σ s) :
    Keeps σ (tlpHeader s write addr n).2 := by
  unfold tlpHeader
  repeat' (first | with_reducible assumption | with_reducible apply keeps_State_free)

theorem keeps_State_aer {σ : State} (s : State) (write : Bool) (addr n : Nat) (h_s : Keeps σ s) :
    Keeps σ (State.aer s write addr n) := by
  unfold State.aer
  repeat' (first
    | with_reducible assumption
    | with_reducible apply Keeps.ite
    | with_reducible apply keeps_State_emit
    | with_reducible apply keeps_tlpHeader
    | (fail_if_no_progress refine Keeps.upd ?_ rfl))

theorem keeps_State_unmappedWrite {σ : State} (s : State) (h_s : Keeps σ s) :
    Keeps σ (State.unmappedWrite s) := by
  unfold State.unmappedWrite
  repeat' (first | with_reducible assumption | (fail_if_no_progress refine Keeps.upd ?_ rfl))

theorem keeps_State_fillD2h {σ : State} (s : State) (n : Nat) (r : Resp) (h_s : Keeps σ s) :
    Keeps σ (State.fillD2h s n r) := by
  unfold State.fillD2h
  repeat' (first
    | with_reducible assumption
    | with_reducible apply keeps_State_setD2h
    | with_reducible apply keeps_withIrq
    | refine fun _ => ?_)

theorem keeps_State_mailRefused {σ : State} (s : State) (n : Nat) (m : Mailbox) (h_s : Keeps σ s) :
    Keeps σ (State.mailRefused s n m) := by
  unfold State.mailRefused
  repeat' (first | with_reducible assumption | with_reducible apply keeps_State_emit | with_reducible apply keeps_State_setD2h)

theorem keeps_State_mailResponse {σ : State} (s : State) (n : Nat) (r : Resp) (h_s : Keeps σ s) :
    Keeps σ (State.mailResponse s n r) := by
  unfold State.mailResponse
  repeat' (first
    | with_reducible assumption
    | with_reducible apply Keeps.ite
    | with_reducible apply keeps_State_fillD2h
    | with_reducible apply keeps_State_mailRefused)

theorem keeps_State_mailNotify {σ : State} (s : State) (n : Nat) (r : Resp) (h_s : Keeps σ s) :
    Keeps σ (State.mailNotify s n r) := by
  unfold State.mailNotify
  repeat' (first
    | with_reducible assumption
    | with_reducible apply Keeps.ite
    | with_reducible apply keeps_State_event
    | with_reducible apply keeps_State_fillD2h
    | with_reducible apply keeps_State_mailRefused)

theorem keeps_mailNext {σ : State} (s : State) (n : Nat) (h_s : Keeps σ s) :
    Keeps σ (mailNext s n) := by
  unfold mailNext
  repeat' (first
    | with_reducible assumption
    | with_reducible apply Keeps.ite
    | with_reducible apply keeps_State_setD2h
    | with_reducible apply keeps_State_fillD2h
    | split)

theorem keeps_mbxResponseTaken {σ : State} (s : State) (n : Nat) (h_s : Keeps σ s) :
    Keeps σ (mbxResponseTaken s n) := by
  unfold mbxResponseTaken
  repeat' (first
    | with_reducible assumption
    | with_reducible apply Keeps.ite
    | with_reducible apply keeps_State_setD2h
    | with_reducible apply keeps_withIrq
    | with_reducible apply keeps_mailNext
    | refine fun _ => ?_)

theorem keeps_mailThaw {σ : State} (s : State) (h_s : Keeps σ s) :
    Keeps σ (mailThaw s) := by
  unfold mailThaw
  repeat' (first
    | with_reducible assumption
    | with_reducible apply keeps_mailNext
    | with_reducible refine Keeps.foldl ?_ (fun u a hu => ?_))

theorem keeps_mbxReject {σ : State} (s : State) (n off : Nat) (h_s : Keeps σ s) :
    Keeps σ (mbxReject s n off) := by
  unfold mbxReject
  repeat' (first | with_reducible assumption | with_reducible apply keeps_State_setH2d | with_reducible apply keeps_State_aer)

theorem keeps_mbxWriteWord {σ : State} (s : State) (n i : Nat) (v : Word) (h_s : Keeps σ s) :
    Keeps σ (mbxWriteWord s n i v) := by
  unfold mbxWriteWord
  repeat' (first
    | with_reducible assumption
    | with_reducible apply Keeps.ite
    | with_reducible apply keeps_State_setH2d
    | with_reducible apply keeps_mbxReject)

theorem keeps_mbxWriteGo {σ : State} (s : State) (n : Nat) (v : Word) (h_s : Keeps σ s) :
    Keeps σ (mbxWriteGo s n v) := by
  unfold mbxWriteGo
  repeat' (first
    | with_reducible assumption
    | with_reducible apply Keeps.ite
    | with_reducible apply keeps_State_setH2d
    | with_reducible apply keeps_State_wake
    | with_reducible apply keeps_mbxReject)

theorem keeps_mbxReadDrop {σ : State} (s : State) (isD2h : Bool) (n : Nat) (h_s : Keeps σ s) :
    Keeps σ (mbxReadDrop s isD2h n).2 := by
  unfold mbxReadDrop
  repeat' (first
    | with_reducible assumption
    | with_reducible apply Keeps.ite_snd
    | with_reducible apply keeps_State_setH2d
    | with_reducible apply keeps_State_setD2h)

theorem keeps_mbxRead {σ : State} (s : State) (isD2h : Bool) (n reg : Nat) (h_s : Keeps σ s) :
    Keeps σ (mbxRead s isD2h n reg).2 := by
  unfold mbxRead
  repeat' (first | with_reducible assumption | with_reducible apply Keeps.ite_snd | with_reducible apply keeps_mbxReadDrop)

theorem keeps_irqCauseClear {σ : State} (s : State) (v : Word) (h_s : Keeps σ s) :
    Keeps σ (irqCauseClear s v) := by
  unfold irqCauseClear
  repeat' (first
    | with_reducible assumption
    | with_reducible apply keeps_irqEdge
    | with_reducible refine Keeps.foldl ?_ (fun u a hu => ?_)
    | (fail_if_no_progress refine Keeps.upd ?_ rfl))

theorem keeps_irqEnableWrite {σ : State} (s : State) (v : Word) (h_s : Keeps σ s) :
    Keeps σ (irqEnableWrite s v) := by
  unfold irqEnableWrite
  repeat' (first
    | with_reducible assumption
    | with_reducible apply keeps_irqEdge
    | with_reducible refine Keeps.foldl ?_ (fun u a hu => ?_)
    | (fail_if_no_progress refine Keeps.upd ?_ rfl))

theorem keeps_dmaErrClear {σ : State} (s : State) (v : Word) (h_s : Keeps σ s) :
    Keeps σ (dmaErrClear s v) := by
  unfold dmaErrClear
  repeat' (first | with_reducible assumption | (fail_if_no_progress refine Keeps.upd ?_ rfl))

theorem keeps_State_dmaFault {σ : State} (s : State) (addr causeBit : Nat) (h_s : Keeps σ s) :
    Keeps σ (State.dmaFault s addr causeBit) := by
  unfold State.dmaFault
  repeat' (first
    | with_reducible assumption
    | with_reducible apply keeps_State_raiseCause
    | with_reducible apply keeps_State_event
    | (fail_if_no_progress refine Keeps.upd ?_ rfl))

theorem keeps_sendOwed {σ : State} (s : State) (v : Nat) (h_s : Keeps σ s) :
    Keeps σ (sendOwed s v) := by
  unfold sendOwed
  repeat' (first
    | with_reducible assumption
    | with_reducible apply Keeps.ite
    | with_reducible apply keeps_State_setVec
    | with_reducible apply keeps_State_sendMsix)

theorem keeps_msixWrite {σ : State} (s : State) (v word : Nat) (x : Word) (h_s : Keeps σ s) :
    Keeps σ (msixWrite s v word x) := by
  unfold msixWrite
  repeat' (first | with_reducible assumption | with_reducible apply keeps_State_setVec | with_reducible apply keeps_sendOwed | split)

theorem keeps_ringEnable {σ : State} (s : State) (r v : Nat) (h_s : Keeps σ s) :
    Keeps σ (ringEnable s r v) := by
  unfold ringEnable
  repeat' (first
    | with_reducible assumption
    | with_reducible apply Keeps.ite
    | with_reducible apply keeps_State_setQ
    | with_reducible apply keeps_State_setRing
    | with_reducible apply keeps_withIrq
    | refine fun _ => ?_)

theorem keeps_ringDisable {σ : State} (s : State) (r v : Nat) (h_s : Keeps σ s) :
    Keeps σ (ringDisable s r v) := by
  unfold ringDisable
  repeat' (first
    | with_reducible assumption
    | with_reducible apply keeps_State_setRing
    | with_reducible apply keeps_withIrq
    | refine fun _ => ?_)

theorem keeps_ringCtrlWrite {σ : State} (s : State) (r v : Nat) (h_s : Keeps σ s) :
    Keeps σ (ringCtrlWrite s r v) := by
  unfold ringCtrlWrite
  repeat' (first
    | with_reducible assumption
    | with_reducible apply Keeps.ite
    | with_reducible apply keeps_State_setRing
    | with_reducible apply keeps_withIrq
    | with_reducible apply keeps_ringEnable
    | with_reducible apply keeps_ringDisable
    | refine fun _ => ?_)

theorem keeps_ringBaseWrite {σ : State} (s : State) (r : Nat) (hi : Bool) (v : Word) (h_s : Keeps σ s) :
    Keeps σ (ringBaseWrite s r hi v) := by
  unfold ringBaseWrite
  repeat' (first | with_reducible assumption | with_reducible apply Keeps.ite | with_reducible apply keeps_State_setRing)

theorem keeps_ringCrossedClear {σ : State} (s : State) (r : Nat) (h_s : Keeps σ s) :
    Keeps σ (ringCrossedClear s r) := by
  unfold ringCrossedClear
  repeat' (first
    | with_reducible assumption
    | with_reducible apply keeps_State_setQ
    | with_reducible apply keeps_withIrq
    | refine fun _ => ?_)

theorem keeps_ringWmWrite {σ : State} (s : State) (r v : Nat) (h_s : Keeps σ s) :
    Keeps σ (ringWmWrite s r v) := by
  unfold ringWmWrite
  repeat' (first
    | with_reducible assumption
    | with_reducible apply keeps_State_setQ
    | with_reducible apply keeps_State_setRing
    | with_reducible apply keeps_withIrq
    | refine fun _ => ?_)

theorem keeps_ringMalformed {σ : State} (s : State) (r : Nat) (h_s : Keeps σ s) :
    Keeps σ (ringMalformed s r) := by
  unfold ringMalformed
  repeat' (first
    | with_reducible assumption
    | with_reducible apply keeps_State_setRing
    | with_reducible apply keeps_withIrq
    | with_reducible apply keeps_State_event
    | refine fun _ => ?_)

theorem keeps_doorbellH2d {σ : State} (s : State) (r v : Nat) (h_s : Keeps σ s) :
    Keeps σ (doorbellH2d s r v) := by
  unfold doorbellH2d
  repeat' (first
    | with_reducible assumption
    | with_reducible apply Keeps.ite
    | with_reducible apply keeps_State_setQ
    | with_reducible apply keeps_State_setRing
    | with_reducible apply keeps_withIrq
    | with_reducible apply keeps_ringMalformed
    | refine fun _ => ?_)

theorem keeps_doorbellD2h {σ : State} (s : State) (r v : Nat) (h_s : Keeps σ s) :
    Keeps σ (doorbellD2h s r v) := by
  unfold doorbellD2h
  repeat' (first
    | with_reducible assumption
    | with_reducible apply Keeps.ite
    | with_reducible apply keeps_State_setQ
    | with_reducible apply keeps_State_setRing
    | with_reducible apply keeps_withIrq
    | with_reducible apply keeps_ringMalformed
    | refine fun _ => ?_)

theorem keeps_doorbellWrite {σ : State} (s : State) (r v : Nat) (h_s : Keeps σ s) :
    Keeps σ (doorbellWrite s r v) := by
  unfold doorbellWrite
  repeat' (first
    | with_reducible assumption
    | with_reducible apply Keeps.ite
    | with_reducible apply keeps_State_setRing
    | with_reducible apply keeps_State_ringFreed
    | with_reducible apply keeps_State_wake
    | with_reducible apply keeps_doorbellH2d
    | with_reducible apply keeps_doorbellD2h)

theorem keeps_doorbellsThaw {σ : State} (s : State) (h_s : Keeps σ s) :
    Keeps σ (doorbellsThaw s) := by
  unfold doorbellsThaw
  repeat' (first
    | with_reducible assumption
    | with_reducible apply keeps_State_setRing
    | with_reducible apply keeps_doorbellWrite
    | with_reducible refine Keeps.foldl ?_ (fun u a hu => ?_)
    | split)

theorem keeps_ringFlush {σ : State} (s : State) (r : Nat) (h_s : Keeps σ s) :
    Keeps σ (ringFlush s r) := by
  unfold ringFlush
  repeat' (first
    | with_reducible assumption
    | with_reducible apply keeps_State_setQ
    | with_reducible apply keeps_State_setRing
    | with_reducible apply keeps_withIrq
    | refine fun _ => ?_)

theorem keeps_ringPast {σ : State} (s : State) (r : Nat) (q : Queue) (h_s : Keeps σ s) :
    Keeps σ (ringPast s r q) := by
  unfold ringPast
  repeat' (first
    | with_reducible assumption
    | with_reducible apply Keeps.ite
    | with_reducible apply keeps_State_setQ
    | with_reducible apply keeps_State_setRing
    | with_reducible apply keeps_withIrq
    | with_reducible apply keeps_ringMalformed
    | refine fun _ => ?_)

theorem keeps_ringFetch {σ : State} (s : State) (r w : Nat) (h_s : Keeps σ s) :
    Keeps σ (ringFetch s r w).2 := by
  unfold ringFetch
  repeat' (first
    | with_reducible assumption
    | with_reducible apply Keeps.ite_snd
    | with_reducible apply keeps_ringMalformed
    | with_reducible apply keeps_ringPast
    | split)

theorem keeps_h2dWrite {σ : State} (s : State) (n reg : Nat) (v : Word) (h_s : Keeps σ s) :
    Keeps σ (h2dWrite s n reg v) := by
  unfold h2dWrite
  repeat' (first
    | with_reducible assumption
    | with_reducible apply Keeps.ite
    | with_reducible apply keeps_mbxReject
    | with_reducible apply keeps_mbxWriteWord
    | with_reducible apply keeps_mbxWriteGo)

theorem keeps_ringWrite {σ : State} (s : State) (r reg : Nat) (v : Word) (h_s : Keeps σ s) :
    Keeps σ (ringWrite s r reg v) := by
  unfold ringWrite
  repeat' (first
    | with_reducible assumption
    | with_reducible apply keeps_ringCtrlWrite
    | with_reducible apply keeps_ringBaseWrite
    | with_reducible apply keeps_ringWmWrite
    | with_reducible apply keeps_ringFlush
    | split)

theorem keeps_ringRead {σ : State} (s : State) (r reg : Nat) (h_s : Keeps σ s) :
    Keeps σ (ringRead s r reg).2 := by
  unfold ringRead
  repeat' (first | with_reducible assumption | with_reducible apply keeps_State_setQ | split)

theorem keeps_bar0Write {σ : State} (s : State) (off : Nat) (v : Word) (h_s : Keeps σ s) :
    Keeps σ (bar0Write s off v) := by
  unfold bar0Write
  repeat' (first
    | with_reducible assumption
    | with_reducible apply Keeps.ite
    | with_reducible apply keeps_mbxResponseTaken
    | with_reducible apply keeps_irqCauseClear
    | with_reducible apply keeps_irqEnableWrite
    | with_reducible apply keeps_msixWrite
    | with_reducible apply keeps_doorbellWrite
    | with_reducible apply keeps_h2dWrite
    | with_reducible apply keeps_ringWrite
    | (fail_if_no_progress refine Keeps.upd ?_ rfl))

theorem keeps_bar0Read {σ : State} (s : State) (off : Nat) (h_s : Keeps σ s) :
    Keeps σ (bar0Read s off).2 := by
  unfold bar0Read
  repeat' (first
    | with_reducible assumption
    | with_reducible apply Keeps.ite_snd
    | with_reducible apply keeps_mbxRead
    | with_reducible apply keeps_ringRead
    | (fail_if_no_progress refine Keeps.upd ?_ rfl))

theorem keeps_hostRead {σ : State} (s : State) (off : Nat) (h_s : Keeps σ s) :
    Keeps σ (hostRead s off) := by
  unfold hostRead
  repeat' (first | with_reducible assumption | with_reducible apply keeps_State_emit | with_reducible apply keeps_bar0Read)

theorem keeps_msixControlWrite {σ : State} (s : State) (v : Word) (h_s : Keeps σ s) :
    Keeps σ (msixControlWrite s v) := by
  unfold msixControlWrite
  repeat' (first
    | with_reducible assumption
    | with_reducible apply keeps_sendOwed
    | with_reducible refine Keeps.foldl ?_ (fun u a hu => ?_)
    | (fail_if_no_progress refine Keeps.upd ?_ rfl))

theorem keeps_cfgWrite {σ : State} (s : State) (r : CfgReg) (v : Word) (h_s : Keeps σ s) :
    Keeps σ (cfgWrite s r v) := by
  unfold cfgWrite
  repeat' (first
    | with_reducible assumption
    | with_reducible apply keeps_msixControlWrite
    | split
    | (fail_if_no_progress refine Keeps.upd ?_ rfl))

theorem keeps_execRegisterWrite {σ : State} (r : HostReg) (isRead : Bool) (v : Word) (s : State) (h_s : Keeps σ s) :
    Keeps.outcome σ (execRegisterWrite r isRead v s) := by
  unfold execRegisterWrite
  repeat' (first
    | with_reducible assumption
    | with_reducible apply keeps_State_emit
    | with_reducible apply keeps_bar0Write
    | with_reducible apply keeps_hostRead
    | with_reducible apply keeps_cfgWrite
    | with_reducible apply Keeps.outcome_next
    | split)

theorem keeps_execMbxMsgWrite {σ : State} (n i : Nat) (v : Word) (s : State) (h_s : Keeps σ s) :
    Keeps.outcome σ (execMbxMsgWrite n i v s) := by
  unfold execMbxMsgWrite
  repeat' (first
    | with_reducible assumption
    | with_reducible apply Keeps.ite
    | with_reducible apply keeps_mbxWriteWord
    | with_reducible apply Keeps.outcome_next)

theorem keeps_execMbxGoSet {σ : State} (n : Nat) (v : Word) (s : State) (h_s : Keeps σ s) :
    Keeps.outcome σ (execMbxGoSet n v s) := by
  unfold execMbxGoSet
  repeat' (first
    | with_reducible assumption
    | with_reducible apply Keeps.ite
    | with_reducible apply keeps_mbxWriteGo
    | with_reducible apply Keeps.outcome_next)

theorem keeps_execMbxResponseTaken {σ : State} (n : Nat) (s : State) (h_s : Keeps σ s) :
    Keeps.outcome σ (execMbxResponseTaken n s) := by
  unfold execMbxResponseTaken
  repeat' (first
    | with_reducible assumption
    | with_reducible apply Keeps.ite
    | with_reducible apply keeps_mbxResponseTaken
    | with_reducible apply Keeps.outcome_next)

theorem keeps_execMbxDropRead {σ : State} (isD2h : Bool) (n : Nat) (s : State) (h_s : Keeps σ s) :
    Keeps.outcome σ (execMbxDropRead isD2h n s) := by
  unfold execMbxDropRead
  repeat' (first
    | with_reducible assumption
    | with_reducible apply Keeps.ite
    | with_reducible apply keeps_State_emit
    | with_reducible apply keeps_mbxReadDrop
    | with_reducible apply Keeps.outcome_next)

theorem keeps_execDevUnmappedRead {σ : State} (s : State) (h_s : Keeps σ s) :
    Keeps.outcome σ (execDevUnmappedRead s) := by
  unfold execDevUnmappedRead
  repeat' (first
    | with_reducible assumption
    | with_reducible apply Keeps.ite
    | with_reducible apply keeps_hostRead
    | with_reducible apply Keeps.outcome_next)

theorem keeps_execDevBar2DeniedRead {σ : State} (s : State) (h_s : Keeps σ s) :
    Keeps.outcome σ (execDevBar2DeniedRead s) := by
  unfold execDevBar2DeniedRead
  repeat' (first
    | with_reducible assumption
    | with_reducible apply Keeps.ite
    | with_reducible apply keeps_hostRead
    | with_reducible apply Keeps.outcome_next)

theorem keeps_execIrqCauseClear {σ : State} (v : Word) (s : State) (h_s : Keeps σ s) :
    Keeps.outcome σ (execIrqCauseClear v s) := by
  unfold execIrqCauseClear
  repeat' (first
    | with_reducible assumption
    | with_reducible apply Keeps.ite
    | with_reducible apply keeps_irqCauseClear
    | with_reducible apply Keeps.outcome_next)

theorem keeps_execDmaErrCauseClear {σ : State} (v : Word) (s : State) (h_s : Keeps σ s) :
    Keeps.outcome σ (execDmaErrCauseClear v s) := by
  unfold execDmaErrCauseClear
  repeat' (first
    | with_reducible assumption
    | with_reducible apply Keeps.ite
    | with_reducible apply keeps_dmaErrClear
    | with_reducible apply Keeps.outcome_next)

theorem keeps_execMsixVectorUnmask {σ : State} (v : Nat) (s : State) (h_s : Keeps σ s) :
    Keeps.outcome σ (execMsixVectorUnmask v s) := by
  unfold execMsixVectorUnmask
  repeat' (first
    | with_reducible assumption
    | with_reducible apply Keeps.ite
    | with_reducible apply keeps_msixWrite
    | with_reducible apply Keeps.outcome_next)

theorem keeps_execRingEnable {σ : State} (r : Nat) (ctrl : Word) (s : State) (h_s : Keeps σ s) :
    Keeps.outcome σ (execRingEnable r ctrl s) := by
  unfold execRingEnable
  repeat' (first
    | with_reducible assumption
    | with_reducible apply Keeps.ite
    | with_reducible apply keeps_ringEnable
    | with_reducible apply Keeps.outcome_next)

theorem keeps_execRingDisable {σ : State} (r : Nat) (ctrl : Word) (s : State) (h_s : Keeps σ s) :
    Keeps.outcome σ (execRingDisable r ctrl s) := by
  unfold execRingDisable
  repeat' (first
    | with_reducible assumption
    | with_reducible apply Keeps.ite
    | with_reducible apply keeps_ringDisable
    | with_reducible apply Keeps.outcome_next)

theorem keeps_execDoorbellH2d {σ : State} (r v : Nat) (s : State) (h_s : Keeps σ s) :
    Keeps.outcome σ (execDoorbellH2d r v s) := by
  unfold execDoorbellH2d
  repeat' (first
    | with_reducible assumption
    | with_reducible apply Keeps.ite
    | with_reducible apply keeps_doorbellWrite
    | with_reducible apply Keeps.outcome_next)

theorem keeps_execDoorbellD2h {σ : State} (r v : Nat) (s : State) (h_s : Keeps σ s) :
    Keeps.outcome σ (execDoorbellD2h r v s) := by
  unfold execDoorbellD2h
  repeat' (first
    | with_reducible assumption
    | with_reducible apply Keeps.ite
    | with_reducible apply keeps_doorbellWrite
    | with_reducible apply Keeps.outcome_next)

theorem keeps_execRingFlush {σ : State} (r : Nat) (s : State) (h_s : Keeps σ s) :
    Keeps.outcome σ (execRingFlush r s) := by
  unfold execRingFlush
  repeat' (first
    | with_reducible assumption
    | with_reducible apply Keeps.ite
    | with_reducible apply keeps_ringFlush
    | with_reducible apply Keeps.outcome_next)

theorem keeps_execRingWmcntRead {σ : State} (r : Nat) (s : State) (h_s : Keeps σ s) :
    Keeps.outcome σ (execRingWmcntRead r s) := by
  unfold execRingWmcntRead
  repeat' (first
    | with_reducible assumption
    | with_reducible apply Keeps.ite
    | with_reducible apply keeps_State_emit
    | with_reducible apply keeps_ringRead
    | with_reducible apply Keeps.outcome_next)

theorem keeps_execWmCrossedClear {σ : State} (n : Nat) (s : State) (h_s : Keeps σ s) :
    Keeps.outcome σ (execWmCrossedClear n s) := by
  unfold execWmCrossedClear
  repeat' (first
    | with_reducible assumption
    | with_reducible apply Keeps.ite
    | with_reducible apply keeps_State_setQ
    | with_reducible apply keeps_ringCrossedClear
    | with_reducible apply Keeps.outcome_next)

theorem keeps_execRingItemFetch {σ : State} (r : Nat) (w : Word) (s : State) (h_s : Keeps σ s) :
    Keeps.outcome σ (execRingItemFetch r w s) := by
  unfold execRingItemFetch
  repeat' (first
    | with_reducible assumption
    | with_reducible apply Keeps.ite
    | with_reducible apply keeps_ringFetch
    | with_reducible apply Keeps.outcome_next)

theorem keeps_poolAct {σ : State} (s : State) (n : Nat) (a : PoolAct) (h_s : Keeps σ s) :
    Keeps σ (poolAct s n a) := by
  unfold poolAct
  repeat' (first | with_reducible assumption | with_reducible apply keeps_State_setQ | split)

theorem keeps_execQueueReserve {σ : State} (n : Nat) (a : Reservation) (s : State) (h_s : Keeps σ s) :
    Keeps.outcome σ (execQueueReserve n a s) := by
  unfold execQueueReserve
  repeat' (first
    | with_reducible assumption
    | with_reducible apply Keeps.ite
    | with_reducible apply keeps_State_emit
    | with_reducible apply keeps_State_updQ
    | with_reducible apply keeps_poolAct
    | with_reducible apply Keeps.outcome_next)

theorem keeps_execQueueClose {σ : State} (n : Nat) (body : Item) (s : State) (h_s : Keeps σ s) :
    Keeps.outcome σ (execQueueClose n body s) := by
  unfold execQueueClose
  repeat' (first
    | with_reducible assumption
    | with_reducible apply keeps_State_emit
    | with_reducible apply keeps_State_setQ
    | with_reducible apply keeps_State_setRing
    | with_reducible apply keeps_withIrq
    | with_reducible apply keeps_State_updQ
    | with_reducible apply Keeps.outcome_next
    | refine fun _ => ?_
    | split)

end Sys2Proof.Machine
end

