-- ==== Sys2Proof/Laws/Keeps/Jitter.lean ====
section
/-! SUPPORT. What the operations of Machine/Jitter.lean keep: the invariants of Keeps, one lemma per definition. -/

namespace Sys2Proof.Machine

set_option linter.unusedTactic false
set_option linter.unreachableTactic false
set_option linter.unusedSimpArgs false
set_option linter.unusedVariables false

theorem keeps_State_setLeg {σ : State} (s : State) (l : Nat) (x : LegRt) (h_s : Keeps σ s) :
    Keeps σ (State.setLeg s l x) := by
  unfold State.setLeg
  repeat' (first | with_reducible assumption | (fail_if_no_progress refine Keeps.upd ?_ rfl))

theorem keeps_State_setRxE {σ : State} (s : State) (l e : Nat) (x : RxEntry) (h_s : Keeps σ s) :
    Keeps σ (State.setRxE s l e x) := by
  unfold State.setRxE
  repeat' (first | with_reducible assumption | (fail_if_no_progress refine Keeps.upd ?_ rfl))

theorem keeps_State_setTxE {σ : State} (s : State) (l e : Nat) (x : TxEntry) (h_s : Keeps σ s) :
    Keeps σ (State.setTxE s l e x) := by
  unfold State.setTxE
  repeat' (first | with_reducible assumption | (fail_if_no_progress refine Keeps.upd ?_ rfl))

theorem keeps_State_clearLegObjects {s0 : State} (s : State) (l : Nat) (h_s : Keeps s0 s) : Keeps s0 (s.clearLegObjects l) :=
  Keeps.setDict h_s _ (fun a _ => AMap.wf_filter a)

theorem keeps_silentMove {σ : State} (s : State) (l : Nat) (h_s : Keeps σ s) :
    Keeps σ (silentMove s l) := by
  unfold silentMove
  repeat' (first | with_reducible assumption | with_reducible apply Keeps.ite | with_reducible apply keeps_State_setLeg)

theorem keeps_emptyHand {σ : State} (s : State) (l n : Nat) (slots : List (Nat × JbSlot)) (h_s : Keeps σ s) :
    Keeps σ (emptyHand s l n slots) := by
  unfold emptyHand
  repeat' (first
    | with_reducible assumption
    | with_reducible apply Keeps.ite
    | with_reducible apply keeps_State_inc
    | with_reducible apply keeps_State_setLeg
    | (fail_if_no_progress dsimp only))

theorem keeps_handOut {σ : State} (s0 : State) (l n : Nat) (h_s0 : Keeps σ s0) :
    Keeps σ (handOut s0 l n).2 := by
  unfold handOut
  repeat' (first
    | with_reducible assumption
    | with_reducible apply keeps_State_count
    | with_reducible apply keeps_silentMove
    | with_reducible apply keeps_emptyHand
    | ((try lift_lets); intro x; try unfold x)
    | split
    | (fail_if_no_progress refine Keeps.upd ?_ rfl))

end Sys2Proof.Machine
end

