-- ==== Sys2Proof/Laws/Keeps/Dispatcher.lean ====
section
/-! SUPPORT. What the operations of Machine/Dispatcher.lean keep: the invariants of Keeps, one lemma per definition. -/

namespace Sys2Proof.Machine

set_option linter.unusedTactic false
set_option linter.unreachableTactic false
set_option linter.unusedSimpArgs false
set_option linter.unusedVariables false

theorem keeps_State_setCore {σ : State} (s : State) (c : Nat) (k : MatenCore) (h_s : Keeps σ s) :
    Keeps σ (State.setCore s c k) := by
  unfold State.setCore
  repeat' (first | with_reducible assumption | refine Keeps.fst (by assumption) ?_ | (fail_if_no_progress refine Keeps.upd ?_ rfl))

theorem keeps_State_dispStatus {σ : State} (s : State) (h_s : Keeps σ s) :
    Keeps σ (State.dispStatus s) := by
  unfold State.dispStatus
  repeat' (first
    | with_reducible assumption
    | with_reducible apply Keeps.ite
    | with_reducible apply keeps_State_wr
    | with_reducible apply keeps_State_inc
    | with_reducible apply keeps_State_event
    | with_reducible refine Keeps.foldl ?_ (fun u a hu => ?_)
    | ((try lift_lets); intro x; refine (have hx : Keeps σ x := ?a; ?b); case' a => unfold x; case' b => clear_value x))

theorem keeps_State_stage {σ : State} (s : State) (w : WorkItem) (c : Nat) (h_s : Keeps σ s) :
    Keeps σ (State.stage s w c) := by
  unfold State.stage
  repeat' (first | with_reducible assumption | refine Keeps.mid3 (by assumption) ?_ | (fail_if_no_progress refine Keeps.upd ?_ rfl))

theorem keeps_headReady {σ : State} (s : State) (w : WorkItem) (h_s : Keeps σ s) :
    Keeps σ (headReady s w) := by
  unfold headReady
  repeat' (first
    | with_reducible assumption
    | with_reducible apply Keeps.ite
    | with_reducible apply keeps_State_inc
    | refine Keeps.snd3 (by assumption) ?_
    | (fail_if_no_progress refine Keeps.upd ?_ rfl))

theorem keeps_slotFree {σ : State} (s : State) (c : Nat) (h_s : Keeps σ s) :
    Keeps σ (slotFree s c) := by
  unfold slotFree
  repeat' (first | with_reducible assumption | with_reducible apply keeps_State_stage | refine Keeps.mid3 (by assumption) ?_ | split)

theorem keeps_fillOne {σ : State} (s : State) (n : Nat) (h_s : Keeps σ s) : Keeps.opt σ (fillOne s n) := by
  unfold fillOne
  generalize List.find? _ _ = o
  cases o with
  | none => exact trivial
  | some c => exact Keeps.opt_some (keeps_slotFree s c h_s)

theorem keeps_fillSlots {s0 : State} (n : Nat) (s : State) (h_s : Keeps s0 s) : Keeps s0 (fillSlots n s) := by
  induction n generalizing s with
  | zero => exact h_s
  | succ n ih =>
    unfold fillSlots
    split
    · split
      · rename_i e
        exact ih _ (Keeps.ofSome e (keeps_fillOne s _ h_s))
      · exact h_s
    · exact h_s

theorem keeps_noCoreCheck {σ : State} (s : State) (h_s : Keeps σ s) :
    Keeps σ (noCoreCheck s) := by
  unfold noCoreCheck
  repeat' (first
    | with_reducible assumption
    | with_reducible apply keeps_State_event
    | with_reducible refine Keeps.foldl ?_ (fun u a hu => ?_)
    | refine Keeps.snd (by assumption) ?_
    | (fail_if_no_progress refine Keeps.upd ?_ rfl))

theorem keeps_State_settle {σ : State} (s : State) (h_s : Keeps σ s) :
    Keeps σ (State.settle s) := by
  unfold State.settle
  repeat' (first
    | with_reducible assumption
    | with_reducible apply keeps_State_dispStatus
    | with_reducible apply keeps_fillSlots
    | with_reducible apply keeps_noCoreCheck
    | refine Keeps.mid4 (by assumption) ?_)

theorem keeps_State_pushRecord {σ : State} (s : State) (cq w0 w1 cycles result : Nat) (h_s : Keeps σ s) :
    Keeps.opt σ (State.pushRecord s cq w0 w1 cycles result) := by
  unfold State.pushRecord
  repeat' (first
    | with_reducible assumption
    | with_reducible apply keeps_State_push
    | exact trivial
    | refine Keeps.snd (by assumption) ?_
    | refine Keeps.mid4 (by assumption) ?_
    | split)

theorem keeps_refusePost {σ : State} (s : State) (src : Nat) (d : Descriptor) (h_s : Keeps σ s) :
    Keeps σ (refusePost s src d) := by
  unfold refusePost
  repeat' (first
    | with_reducible assumption
    | with_reducible apply Keeps.ite
    | with_reducible apply keeps_State_inc
    | with_reducible apply keeps_State_emit
    | with_reducible apply keeps_State_pushRecord
    | refine Keeps.mid4 (by assumption) ?_
    | refine Keeps.ofSome (by assumption) ?_
    | split
    | (fail_if_no_progress refine Keeps.upd ?_ rfl))

theorem keeps_acceptJob {σ : State} (s : State) (d : Descriptor) (j : Job) (h_s : Keeps σ s) : Keeps σ (acceptJob s d j).2 := by
  unfold acceptJob
  split
  · exact keeps_handOut _ _ _ h_s
  · exact h_s

theorem keeps_tryPost {σ : State} (s : State) (src : Nat) (d : Descriptor) (job : Job) (h_s : Keeps σ s) :
    Keeps σ (tryPost s src d job).2 := by
  unfold tryPost
  repeat' (first
    | with_reducible assumption
    | with_reducible apply Keeps.ite
    | with_reducible apply Keeps.ite_snd
    | with_reducible apply keeps_State_choose
    | with_reducible apply keeps_State_demand
    | with_reducible apply keeps_headReady
    | with_reducible apply keeps_State_settle
    | with_reducible apply keeps_refusePost
    | with_reducible apply keeps_acceptJob
    | refine fun _ => ?_
    | (fail_if_no_progress refine Keeps.upd ?_ rfl))

theorem keeps_State_post {σ : State} (s : State) (src : Nat) (d : Descriptor) (job : Job) (h_s : Keeps σ s) :
    Keeps σ (State.post s src d job) := by
  unfold State.post
  repeat' (first
    | with_reducible assumption
    | with_reducible apply keeps_State_inc
    | with_reducible apply keeps_tryPost
    | refine Keeps.snd (by assumption) ?_
    | refine Keeps.snd3 (by assumption) ?_
    | split
    | (fail_if_no_progress refine Keeps.upd ?_ rfl))

theorem keeps_retryHeld {s0 : State} (s : State) (h_s : Keeps s0 s) : Keeps s0 (retryHeld s) := by
  unfold retryHeld
  refine Keeps.upd ?_ rfl
  refine Keeps.foldl_snd2 h_s (fun acc h ha => ?_)
  split
  · exact ha
  · split
    · rename_i e
      exact Keeps.snd e (keeps_tryPost _ _ _ _ ha)
    · rename_i e
      exact Keeps.snd e (keeps_tryPost _ _ _ _ ha)

theorem keeps_State_dropItem {σ : State} (s : State) (w : WorkItem) (h_s : Keeps σ s) :
    Keeps σ (State.dropItem s w) := by
  unfold State.dropItem
  repeat' (first
    | with_reducible assumption
    | with_reducible apply keeps_headReady
    | with_reducible apply keeps_State_settle
    | with_reducible apply keeps_retryHeld
    | refine Keeps.mid4 (by assumption) ?_
    | split
    | (fail_if_no_progress refine Keeps.upd ?_ rfl))

theorem keeps_State_spend {σ : State} (s : State) (w : WorkItem) (h_s : Keeps σ s) :
    Keeps σ (State.spend s w) := by
  unfold State.spend
  repeat' (first | with_reducible assumption | refine Keeps.fst (by assumption) ?_ | split | (fail_if_no_progress refine Keeps.upd ?_ rfl))

theorem keeps_State_complete {σ : State} (s0 : State) (w : WorkItem) (status cycles result : Nat) (h_s0 : Keeps σ s0) :
    Keeps σ (State.complete s0 w status cycles result) := by
  unfold State.complete
  repeat' (first
    | with_reducible assumption
    | with_reducible apply keeps_State_emit
    | with_reducible apply keeps_headReady
    | with_reducible apply keeps_State_settle
    | with_reducible apply keeps_State_pushRecord
    | with_reducible apply keeps_State_dropItem
    | ((try lift_lets); intro x; refine (have hx : Keeps σ x := ?a; ?b); case' a => unfold x; case' b => clear_value x)
    | ((try lift_lets); intro x; try unfold x)
    | refine Keeps.ofSome (by assumption) ?_
    | split
    | (fail_if_no_progress refine Keeps.upd ?_ rfl))

theorem keeps_State_withdraw {σ : State} (s : State) (src group seq : Nat) (h_s : Keeps σ s) :
    Keeps σ (State.withdraw s src group seq) := by
  unfold State.withdraw
  repeat' (first
    | with_reducible assumption
    | with_reducible apply keeps_State_inc
    | with_reducible apply keeps_State_complete
    | with_reducible refine Keeps.foldl ?_ (fun u a hu => ?_)
    | ((try lift_lets); intro x; try unfold x))

theorem keeps_State_enterService {σ : State} (s : State) (w : WorkItem) (c : Nat) (h_s : Keeps σ s) :
    Keeps σ (State.enterService s w c) := by
  unfold State.enterService
  repeat' (first | with_reducible assumption | refine Keeps.fst (by assumption) ?_ | (fail_if_no_progress refine Keeps.upd ?_ rfl))

theorem keeps_execWorkItemPost {σ : State} (src : Nat) (ws : List Word) (s : State) (h_s : Keeps σ s) :
    Keeps.outcome σ (execWorkItemPost src ws s) := by
  unfold execWorkItemPost
  repeat' (first
    | with_reducible assumption
    | with_reducible apply Keeps.ite
    | with_reducible apply keeps_State_post
    | with_reducible apply Keeps.outcome_next
    | refine Keeps.snd3 (by assumption) ?_)

theorem keeps_giveOwed {σ : State} (s : State) (h_s : Keeps σ s) :
    Keeps σ (giveOwed s) := by
  unfold giveOwed
  repeat' (first
    | with_reducible assumption
    | with_reducible apply keeps_State_pushRecord
    | with_reducible refine Keeps.foldl_snd ?_ (fun u a hu => ?_)
    | refine Keeps.snd (by assumption) ?_
    | refine Keeps.ofSome (by assumption) ?_
    | split
    | (fail_if_no_progress refine Keeps.upd ?_ rfl))

theorem keeps_giveRecord {σ : State} (s : State) (w : WorkItem) (h_s : Keeps σ s) :
    Keeps σ (giveRecord s w) := by
  unfold giveRecord
  repeat' (first
    | with_reducible assumption
    | with_reducible apply keeps_State_pushRecord
    | with_reducible apply keeps_State_dropItem
    | with_reducible apply Keeps.getD
    | with_reducible refine Keeps.opt_map ?_ (fun u hu => ?_)
    | refine Keeps.snd (by assumption) ?_
    | split)

theorem keeps_execCompletionRecordRoom {σ : State} (wi : Nat) (s : State) (h_s : Keeps σ s) :
    Keeps.outcome σ (execCompletionRecordRoom wi s) := by
  unfold execCompletionRecordRoom
  repeat' (first
    | with_reducible assumption
    | with_reducible apply keeps_giveOwed
    | with_reducible apply keeps_giveRecord
    | with_reducible apply Keeps.outcome_next
    | refine Keeps.mid4 (by assumption) ?_
    | split)

theorem keeps_execWaitLimitExpiry {σ : State} (wi : Nat) (s : State) (h_s : Keeps σ s) :
    Keeps.outcome σ (execWaitLimitExpiry wi s) := by
  unfold execWaitLimitExpiry
  repeat' (first
    | with_reducible assumption
    | with_reducible apply keeps_State_inc
    | with_reducible apply keeps_State_eventRated
    | with_reducible apply keeps_State_complete
    | with_reducible apply Keeps.outcome_next
    | refine Keeps.snd (by assumption) ?_
    | split)

theorem keeps_coreOnlineWrite {σ : State} (s : State) (j v : Nat) (h_s : Keeps σ s) :
    Keeps σ (coreOnlineWrite s j v) := by
  unfold coreOnlineWrite
  repeat' (first
    | with_reducible assumption
    | with_reducible apply keeps_State_wr
    | with_reducible apply keeps_State_settle
    | refine Keeps.snd3 (by assumption) ?_
    | (fail_if_no_progress refine Keeps.upd ?_ rfl))

end Sys2Proof.Machine
end

