-- ==== Sys2Proof/Laws/Dispatcher.lean ====
section
/-! SUPPORT. The dispatcher: items change places, are accepted, end and go; what each of those leaves alone. -/

namespace Sys2Proof.Machine

set_option linter.unusedTactic false
set_option linter.unreachableTactic false
set_option linter.unusedSimpArgs false
set_option linter.unusedVariables false

theorem State.setCore_other {j c : Nat} (s : State) (k : MatenCore) (h : j ≠ c) : (s.setCore c k).core j = s.core j :=
  AMap.get_put_other _ _ _ _ h

/-- What names a work item, whatever its place. -/
def itemMark (w : WorkItem) : Nat × Nat × Descriptor := (w.wi, w.src, w.desc)

/-- From `s` to `t` items only change places; of a core only its memory changes, as data is prefetched into it. -/
structure Placed (s t : State) : Prop where
  items : t.disp.items.map itemMark = s.disp.items.map itemMark
  held : t.disp.held = s.disp.held
  flows : t.disp.flows = s.disp.flows
  core : ∀ c, ∃ m, t.core c = { s.core c with mem := m }

theorem Placed.refl (s : State) : Placed s s := ⟨rfl, rfl, rfl, fun c => ⟨(s.core c).mem, rfl⟩⟩

theorem Placed.trans {s t u : State} (a : Placed s t) (b : Placed t u) : Placed s u :=
  ⟨b.items.trans a.items, b.held.trans a.held, b.flows.trans a.flows, fun c => by
    obtain ⟨m, e⟩ := a.core c
    obtain ⟨n, f⟩ := b.core c
    exact ⟨n, by rw [f, e]⟩⟩

theorem Placed.of_eq {s t u : State} (h : Placed s t) (e : u.disp = t.disp) (e2 : u.mt = t.mt) : Placed s u :=
  ⟨by rw [e]; exact h.items, by rw [e]; exact h.held, by rw [e]; exact h.flows, fun c => by
    obtain ⟨m, k⟩ := h.core c
    exact ⟨m, by unfold State.core at k ⊢; rw [e2, k]⟩⟩

theorem Placed.wr {s t : State} (h : Placed s t) (k v : Nat) : Placed s (t.wr k v) := h.of_eq (by simp) (by simp)
theorem Placed.inc {s t : State} (h : Placed s t) (k : Nat) : Placed s (t.inc k) := h.of_eq (by simp) (by simp)
theorem Placed.event {s t : State} (h : Placed s t) (c a b : Nat) : Placed s (t.event c a b) := h.of_eq (by simp) (by simp)

theorem map_itemMark (l : List WorkItem) (f : WorkItem → WorkItem) (h : ∀ w, itemMark (f w) = itemMark w) :
    (l.map f).map itemMark = l.map itemMark := by
  induction l with
  | nil => rfl
  | cons a r ih => simp only [List.map_cons, h, ih]

theorem placeItem_mark (l : List WorkItem) (n : Nat) (p : ItemPlace) : (placeItem l n p).map itemMark = l.map itemMark :=
  map_itemMark _ _ fun w => by split <;> rfl

theorem Placed.place {s t : State} (h : Placed s t) (n : Nat) (p : ItemPlace) :
    Placed s { t with disp := { t.disp with items := placeItem t.disp.items n p } } :=
  ⟨(placeItem_mark _ _ _).trans h.items, h.held, h.flows, h.core⟩

theorem Placed.stage {s t : State} (h : Placed s t) (w : WorkItem) (c : Nat) : Placed s (t.stage w c) :=
  ⟨(map_itemMark _ _ fun w => by split <;> rfl).trans h.items, h.held, h.flows, fun j => by
    obtain ⟨m, e⟩ := h.core j
    unfold State.stage
    dsimp only
    generalize bufFill _ _ _ _ _ _ = n
    by_cases hj : j = c
    · subst hj
      refine ⟨n, ?_⟩
      show (State.setCore t j { t.core j with mem := n }).core j = _
      rw [State.setCore_same, e]
    · refine ⟨m, ?_⟩
      show (State.setCore t c { t.core c with mem := n }).core j = _
      rw [State.setCore_other _ _ hj, e]⟩

theorem Placed.headReady {s t : State} (h : Placed s t) (w : WorkItem) : Placed s (headReady t w) := by
  unfold Sys2Proof.Machine.headReady
  dsimp only
  repeat' split
  all_goals first
    | exact (h.stage _ _).inc _
    | exact h.place _ _

theorem Placed.slotFree {s t : State} (h : Placed s t) (c : Nat) : Placed s (slotFree t c) := by
  unfold Sys2Proof.Machine.slotFree
  repeat' split
  all_goals first
    | exact h.stage _ _
    | exact h

theorem Placed.fillSlots {s : State} : ∀ (n : Nat) (t : State), Placed s t → Placed s (fillSlots n t)
  | 0, _, h => h
  | n + 1, t, h => by
    unfold Sys2Proof.Machine.fillSlots
    split
    · split
      · rename_i u e
        refine Placed.fillSlots n u ?_
        unfold fillOne at e
        rw [Option.map_eq_some_iff] at e
        obtain ⟨c, -, rfl⟩ := e
        exact h.slotFree c
      · exact h
    · exact h

theorem Placed.noCore {s t : State} (h : Placed s t) : Placed s (noCoreCheck t) := by
  unfold noCoreCheck
  dsimp only
  have key : ∀ (l : List Nat) (u : State), Placed s u → Placed s (l.foldl (fun t f => t.event Ev.dispatchNoCore f 0) u) := by
    intro l
    induction l with
    | nil => exact fun _ hu => hu
    | cons a r ih => exact fun u hu => ih _ (hu.event _ _ _)
  exact key _ _ ⟨h.items, h.held, h.flows, h.core⟩

theorem Placed.status {s t : State} (h : Placed s t) : Placed s t.dispStatus := by
  unfold State.dispStatus
  dsimp only
  have key : ∀ (l : List Nat) (u : State) (f : Nat → Nat), Placed s u →
      Placed s (l.foldl (fun t k => t.wr (Obj.sourceInUse k) (f k)) u) := by
    intro l
    induction l with
    | nil => exact fun _ _ hu => hu
    | cons a r ih => exact fun u f hu => ih _ f (hu.wr _ _)
  have k0 := (key [0, 1, 2, 3] _ (fun k => (t.disp.items.filter (fun w => decide (w.src = k))).length)
    (((h.wr Obj.handlesInUse t.disp.items.length).wr Obj.readyDepth (t.disp.items.filter (fun w => decide (w.place = .ready))).length).wr
      Obj.parkedDepth (t.disp.items.filter (fun w => decide (w.place = .parked))).length)).wr Obj.flowsActive
    ((t.disp.items.map (fun w => w.desc.flow)).eraseDups).length
  generalize State.wr (List.foldl _ _ _) _ _ = u at k0 ⊢
  repeat' split
  all_goals first
    | exact (k0.wr _ _).inc _
    | exact ((k0.wr _ _).inc _).event _ _ _
    | exact k0.wr _ _

theorem Placed.settle {s t : State} (h : Placed s t) : Placed s t.settle := ((Placed.fillSlots _ _ h).noCore).status

theorem retryHeld_none {s : State} (h : s.disp.held = []) : (retryHeld s).disp = s.disp ∧ (retryHeld s).mt = s.mt := by
  unfold retryHeld
  rw [h]
  refine ⟨?_, rfl⟩
  show { s.disp with held := [] } = s.disp
  rw [← h]

theorem Placed.fresh {a b : State} {n : Nat} (p : Placed a b) (ha : ∀ x ∈ a.disp.items, x.wi ≠ n) : ∀ x ∈ b.disp.items, x.wi ≠ n := by
  intro x hx e
  have : itemMark x ∈ a.disp.items.map itemMark := by rw [← p.items]; exact List.mem_map_of_mem hx
  obtain ⟨y, hy, e2⟩ := List.mem_map.1 this
  exact ha y hy ((congrArg Prod.fst e2).trans e)

theorem placed_next (u : State) (g : Bool) (f : Nat) : Placed u (if g = true then
      match flowHead u.disp.items f with
      | some h => if h.place = .parked then headReady u h else u
      | none => u
    else u) := by
  repeat' split
  all_goals first
    | exact (Placed.refl u).headReady _
    | exact Placed.refl u

/-- The state without one item. -/
def withoutItem (s : State) (n : Nat) : State :=
  { s with disp := { s.disp with items := s.disp.items.filter (fun x => decide (x.wi ≠ n)) } }

theorem withoutItem_items (s : State) (n : Nat) : ∀ x ∈ (withoutItem s n).disp.items, x.wi ≠ n := by
  intro x hx
  have h := (List.mem_filter.1 hx).2
  simpa using h

theorem dropItem_eq (s : State) (w : WorkItem) : ∃ v, Placed (withoutItem s w.wi) v ∧ s.dropItem w = (retryHeld v.settle).settle :=
  ⟨_, placed_next (withoutItem s w.wi) _ w.desc.flow, rfl⟩

theorem dropItem_items {s : State} (h : s.disp.held = []) (w : WorkItem) :
    ∀ x ∈ (s.dropItem w).disp.items, x.wi ≠ w.wi := by
  obtain ⟨v, p, e⟩ := dropItem_eq s w
  rw [e]
  have ps := p.settle
  have := retryHeld_none (ps.held.trans h)
  exact ((ps.of_eq this.1 this.2).settle).fresh (withoutItem_items s w.wi)

theorem spend_same (s : State) (w : WorkItem) : (s.spend w).out = s.out ∧ (s.spend w).disp.held = s.disp.held := by
  unfold State.spend
  split <;> exact ⟨rfl, rfl⟩

theorem complete_port {s : State} (w : WorkItem) (a b c : Nat) (h : w.src ≠ 3) (hh : s.disp.held = []) :
    .completion w.src (recordW0 w.wi a) (w.desc.flow * 0x1000) b c ∈ (s.complete w a b c).out ∧
    ∀ x ∈ (s.complete w a b c).disp.items, x.wi ≠ w.wi := by
  unfold State.complete
  dsimp only
  rw [if_neg h]
  have hs := (spend_same s w).2
  generalize s.spend w = s at hs
  refine ⟨?_, dropItem_items (by simpa using hs.trans hh) w⟩
  have := (keeps_State_dropItem _ w (Keeps.refl (s.emit (.completion w.src (recordW0 w.wi a) (w.desc.flow * 0x1000) b c)))).out
  exact this.subset (List.mem_cons_self ..)

/-- The record of an item whose writes are acknowledged, and its handle (R168). -/
theorem finishItem_port {s : State} (c : Nat) (w : WorkItem) (a r : Nat) (h : w.src ≠ 3) (hh : s.disp.held = []) :
    .completion w.src (recordW0 w.wi a) (w.desc.flow * 0x1000) (s.core c).cyc r ∈ (finishItem s c w a r).out ∧
    ∀ x ∈ (finishItem s c w a r).disp.items, x.wi ≠ w.wi := by
  unfold finishItem
  refine complete_port w a (s.core c).cyc r h ?_
  have : (flagItem s c).disp = s.disp := by unfold flagItem; dsimp only; split <;> simp
  simpa [this] using hh

/-- An item its core stops ends at once where no write of it is outstanding (R184). -/
theorem endItem_port {s : State} (c : Nat) (w : WorkItem) (a : Nat) (h : w.src ≠ 3) (hh : s.disp.held = []) (h1 : (s.core c).start = none)
    (h2 : (s.core c).writing = false) :
    .completion w.src (recordW0 w.wi a) (w.desc.flow * 0x1000) (s.core c).cyc 0 ∈ (endItem s c w a).out ∧
    ∀ x ∈ (endItem s c w a).disp.items, x.wi ≠ w.wi := by
  have hd : dropBundle (s.core c) = s.core c := by unfold dropBundle; rw [h1]
  unfold endItem
  dsimp only
  rw [hd, if_neg (by simp only [MatenCore.writing] at h2 ⊢; rw [h2]; simp)]
  have := finishItem_port (s := s.setCore c { s.core c with
    faulted := false
    handlers := []
    stall := none
    waitAt := none
    since := s.dspUnits }) c w a 0 h hh
  rw [State.setCore_same] at this
  exact this

/-- With a write outstanding it waits, ended, for the acknowledgement. -/
theorem endItem_waits {s : State} (c : Nat) (w : WorkItem) (a : Nat) (h1 : (s.core c).start = none) (h2 : (s.core c).writing = true) :
    (endItem s c w a).out = s.out ∧ ∀ x ∈ (endItem s c w a).disp.items, x.wi = w.wi → x.ended = some (a, 0) := by
  have hd : dropBundle (s.core c) = s.core c := by unfold dropBundle; rw [h1]
  unfold endItem
  dsimp only
  rw [hd, if_pos (by simp only [MatenCore.writing] at h2 ⊢; rw [h2])]
  refine ⟨rfl, fun x hx e => ?_⟩
  obtain ⟨y, hy, rfl⟩ := List.mem_map.1 hx
  split
  · rfl
  · rename_i k
    rw [if_neg k] at e
    exact absurd e k

theorem post_free {s : State} {src : Nat} (d : Descriptor) (job : Job) (h : ∀ h ∈ s.disp.held, h.src ≠ src) :
    s.post src d job = match tryPost s src d job with
      | (.full, t) =>
        ({ t with disp := { t.disp with held := t.disp.held ++ [HeldPost.mk src d job] } }).inc (Obj.dispatchCounter 3)
      | (_, t) => t := by
  unfold State.post
  refine (if_neg (by simpa using h)).trans ?_
  rfl

theorem tryPost_full {s : State} {src : Nat} {d : Descriptor} (job : Job) (h : postRefused s src d = false)
    (hq : s.rd (Obj.handleQuota src) ≤ (s.disp.items.filter (fun w => decide (w.src = src))).length ∨ 65536 ≤ s.disp.items.length) :
    tryPost s src d job = (.full, s) := by
  unfold tryPost
  rw [h]
  simp only [Bool.false_eq_true, if_false]
  rw [if_pos hq]

theorem Placed.demand {s t : State} (h : Placed s t) : Placed s t.demand := by
  unfold State.demand
  dsimp only
  repeat' split
  all_goals exact h.of_eq (by simp) (by simp)

theorem choose_disp (s : State) (n : Nat) : (s.choose n).2.disp = s.disp := rfl
theorem choose_mt (s : State) (n : Nat) : (s.choose n).2.mt = s.mt := rfl

theorem settle_placed (s : State) : Placed s s.settle.demand := (Placed.refl s).settle.demand

theorem headReady_placed (s : State) (w : WorkItem) : Placed s (headReady s w).settle.demand := ((Placed.refl s).headReady w).settle.demand

theorem emptyHand_disp (s : State) (l n : Nat) (k : List (Nat × JbSlot)) : (emptyHand s l n k).disp = s.disp := by
  unfold emptyHand
  dsimp only
  split <;> simp

theorem silentMove_disp (s : State) (l : Nat) : (silentMove s l).disp = s.disp := by
  unfold silentMove
  dsimp only
  split <;> simp

theorem handOut_disp (s : State) (l n : Nat) : (handOut s l n).2.disp = s.disp := by
  unfold handOut
  split
  · rfl
  · dsimp only
    split
    · exact silentMove_disp s l
    · split
      · simp [silentMove_disp]
      · exact (emptyHand_disp _ _ _ _).trans (silentMove_disp s l)

theorem acceptJob_disp (s : State) (d : Descriptor) (j : Job) : (acceptJob s d j).2.disp = s.disp := by
  unfold acceptJob
  split
  · exact handOut_disp _ _ _
  · rfl

theorem tryPost_accepted {s : State} {src : Nat} {d : Descriptor} (job : Job) (h : postRefused s src d = false)
    (hq : ¬ (s.rd (Obj.handleQuota src) ≤ (s.disp.items.filter (fun w => decide (w.src = src))).length ∨ 65536 ≤ s.disp.items.length)) :
    ∃ h t, tryPost s src d job = (.accepted h, t) ∧ t.disp.held = s.disp.held ∧
      t.disp.items.map itemMark = s.disp.items.map itemMark ++ [(h, src, d)] := by
  unfold tryPost
  rw [h]
  simp only [Bool.false_eq_true, if_false]
  rw [if_neg hq]
  have hj := acceptJob_disp s d job
  generalize acceptJob s d job = q at hj ⊢
  obtain ⟨jb, s00⟩ := q
  have hd := (choose_disp s00 65536).trans hj
  dsimp only
  generalize s00.choose 65536 = p at hd ⊢
  obtain ⟨c, s0⟩ := p
  dsimp only at hd ⊢
  generalize freeHandle s0.disp.items s0.disp.items.length c = n
  refine ⟨n, _, rfl, ?_⟩
  rw [← hd]
  split
  · rw [(headReady_placed _ _).held, (headReady_placed _ _).items]
    simp only [List.map_append, List.map_cons, List.map_nil, itemMark, and_self]
  · rw [(settle_placed _).held, (settle_placed _).items]
    simp only [List.map_append, List.map_cons, List.map_nil, itemMark, and_self]

theorem marks_last {l m : List WorkItem} {n src : Nat} {d : Descriptor} (h : l.map itemMark = m.map itemMark ++ [(n, src, d)]) :
    ∃ w ∈ l, w.src = src ∧ w.desc = d ∧ l.map WorkItem.wi = m.map WorkItem.wi ++ [w.wi] := by
  have h1 : (n, src, d) ∈ l.map itemMark := by rw [h]; simp
  obtain ⟨w, hw, e⟩ := List.mem_map.1 h1
  have e1 : w.wi = n := congrArg Prod.fst e
  have h2 := congrArg (List.map Prod.fst) h
  simp only [List.map_map, List.map_append, List.map_cons, List.map_nil] at h2
  refine ⟨w, hw, congrArg (fun x => x.2.1) e, congrArg (fun x => x.2.2) e, ?_⟩
  rw [e1]
  exact h2

theorem startItem_ok {s : State} {c : Nat} {w : WorkItem} {i : Image} (h2 : s.engines = true) (h3 : s.itemOn c = none)
    (h4 : (stagedList s.disp.items c).head? = some w) (h6 : inService s.disp.items w.desc.flow = none)
    (h5 : s.program w.desc.program = some i) :
    (∃ m, (startItem s c).core c = { startCore (s.core c) w i.entry with mem := m }) ∧
      lastCore (startItem s c).disp.flows w.desc.flow = c + 1 := by
  have p : Placed ((s.enterService w c).setCore c (startCore (s.core c) w i.entry)) (startItem s c) := by
    unfold startItem
    rw [h3, h2, h4]
    simp only [Option.isSome_none, Bool.not_true, Bool.or_self, Bool.false_eq_true, if_false, h5, h6, Option.map_some, Option.getD_some]
    generalize (s.enterService w c).setCore c (startCore (s.core c) w i.entry) = u
    split
    · split
      · exact ((Placed.refl u).headReady _).settle
      · exact (Placed.refl u).settle
    · exact (Placed.refl u).settle
  obtain ⟨m, e⟩ := p.core c
  rw [State.setCore_same] at e
  refine ⟨⟨m, e⟩, ?_⟩
  rw [p.flows]
  show lastCore (useFlow _ _ _ _) _ = _
  unfold lastCore useFlow
  dsimp only
  rw [List.find?_cons_of_pos (by simp)]
  rfl

theorem pushRecord_told {s u : State} {cq a b c r : Nat} (h : s.pushRecord cq a b c r = some u) : Told s u := by
  unfold State.pushRecord at h
  split at h
  · have k := (Told.refl s).push cq 20 (.record a b c r)
    split at h
    · rename_i e
      cases h
      rw [e] at k
      exact k
    · cases h
  · cases h

theorem recordRoom_ok {s u : State} {n : Nat} {w : WorkItem} {w0 w1 cy res : Nat} (h0 : n ≠ 65536)
    (h1 : s.disp.items.find? (fun w => decide (w.wi = n)) = some w) (h2 : w.place = .record w0 w1 cy res)
    (h4 : s.pushRecord w.desc.cq w0 w1 cy res = some u) : exec (.completionRecordRoom n) s = .next (u.dropItem w) := by
  have e : giveRecord s w = u.dropItem w := by
    unfold giveRecord
    rw [h2]
    dsimp only
    simp only [h4, Option.map_some, Option.getD_some]
  have k : execCompletionRecordRoom n s = .next (giveRecord s w) := by
    unfold execCompletionRecordRoom
    simp only [h0, if_false, h1]
  have x : exec (.completionRecordRoom n) s = execCompletionRecordRoom n s := by simp only [exec]
  exact x.trans (k.trans (congrArg _ e))

theorem eventRated_disp (s : State) (c k a b : Nat) : (s.eventRated c k a b).disp = s.disp :=
  ((Told.refl s).eventRated c k a b).disp

theorem bits_flow (f : Nat) (h : f < 2 ^ 20) : flowType f = f / 131072 ∧ flowId f = f % 131072 := by
  unfold flowType flowId bits
  omega

end Sys2Proof.Machine
end

