-- ==== Sys2Proof/Laws/Fabric.lean ====
section
/-! SUPPORT. What the fabric's operations change and leave alone, said once. -/

namespace Sys2Proof.Machine

set_option linter.unusedTactic false
set_option linter.unreachableTactic false
set_option linter.unusedSimpArgs false
set_option linter.unusedVariables false

theorem fabricFrameRx_hop (s : State) (p : Nat) (f : FabFrame) (idle : Nat) (h1 : p < 6) (h3 : 1 ≤ f.kind) (h4 : f.kind ≤ 3) :
    fabricFrameRx s p f true idle = deliver (((s.tally (Obj.fpIdleDeleted p) idle).setNq p { s.nq p with
      freed := bump (s.nq p).freed f.vc (frameCost f)
      sinceCredit := (s.nq p).sinceCredit + frameCost f }).tally (Obj.fpFramesRx p) 1) p f := by
  unfold fabricFrameRx
  have ho : oneHop f = true := by simp [oneHop, h4]
  simp only [Bool.not_true, Bool.false_eq_true, if_false, ho, if_true]
  rw [if_neg (by omega), if_neg (by omega)]

theorem deliver_inbox (s : State) (p : Nat) (f : FabFrame) (h : f.kind ≠ 0x0D) : (deliver s p f).fb.inbox = s.fb.inbox ++ [(p, s.tod, f)] := by
  unfold deliver; rw [if_neg h]

theorem deliver_nq (s : State) (p : Nat) (f : FabFrame) (j : Nat) : (deliver s p f).nq j = s.nq j := by
  unfold deliver; split <;> rfl

theorem takeFrame_eq {s u : State} {sel : FabFrame → Bool} {x : Nat × Nat × FabFrame} (h : s.takeFrame sel = (some x, u)) :
    u = { s with fb := { s.fb with inbox := s.fb.inbox.erase x } } := by
  unfold State.takeFrame at h
  split at h
  · cases h
  · injection h with e1 e2; injection e1 with e1; rw [← e2, e1]

theorem hopSend_fb (s : State) (p d : Nat) (m : FabMsg) : ∃ h, s.hopSend p d m = { s with fb := { s.fb with hop := h } } := ⟨_, rfl⟩

/-- What flooding leaves as it is. -/
theorem flood_fb (s : State) (a : Lsa) (e : Nat) : ∃ h l, flood s a e = { s with fb := { s.fb with hop := h, lsaSent := l } } := by
  have hf : ∀ (ps : List Nat) (t : State), (∃ h l, t = { s with fb := { s.fb with hop := h, lsaSent := l } }) →
      ∃ h l, ps.foldl (fun t p =>
        let dst := ((t.nq p).neighbour.map (fun n => n.2.1 % 512)).getD 0x1FF
        let t1 := t.hopSend p dst (.lsa a)
        { t1 with fb := { t1.fb with
          lsaSent := (t1.fb.lsaSent.filter (fun x => !(decide (x.port = p) && decide (x.lsa.origin = a.origin) &&
            decide (x.lsa.serial = a.serial)))) ++ [⟨p, a, t1.mono⟩] } }) t = { s with fb := { s.fb with hop := h, lsaSent := l } } := by
    intro ps
    induction ps with
    | nil => intro t h; exact h
    | cons p r ih =>
      intro t ⟨h, l, ht⟩
      refine ih _ ?_
      rw [ht]
      exact ⟨_, _, rfl⟩
  exact hf _ s ⟨s.fb.hop, s.fb.lsaSent, rfl⟩

theorem originate_fb (s : State) : ∃ b, originate s = { s with fb := b } ∧ b.ports = s.fb.ports ∧ b.lsaAt = s.mono ∧
    b.lsaSeq = (if s.named then (s.fb.lsaSeq + 1) % 2 ^ 32 else s.fb.lsaSeq) := by
  unfold originate
  split
  · obtain ⟨h, l, e⟩ := flood_fb (State.lsdbChanged { s with fb := { s.fb with
        lsaSeq := (s.fb.lsaSeq + 1) % 2 ^ 32
        lsaAt := s.mono
        lsdb := lsdbPut s.fb.lsdb ⟨⟨s.ownFdev, ownSerial, (s.fb.lsaSeq + 1) % 2 ^ 32, ownLinks s⟩, s.mono⟩ } })
        ⟨s.ownFdev, ownSerial, (s.fb.lsaSeq + 1) % 2 ^ 32, ownLinks s⟩ 99
    refine ⟨_, e, rfl, rfl, rfl⟩
  · exact ⟨_, rfl, rfl, rfl, rfl⟩

theorem helloTx_eq (s : State) (p : Nat) (h2 : 2 ≤ (s.nq p).stage)
    (h3 : (s.nq p).helloSent = 0 ∨ (s.nq p).helloSent + s.rd Obj.helloInterval * 1000 ≤ s.mono) :
    ∃ d x y, helloTx s p = (s.setNq p { s.nq p with helloSent := s.mono }).hopSend p d (.hello ownSerial s.ownFdev p x y) := by
  unfold helloTx
  dsimp only
  rw [if_pos ⟨h2, h3⟩]
  exact ⟨_, _, _, rfl⟩

theorem hopSend_nq (s : State) (p d : Nat) (m : FabMsg) (j : Nat) : (s.hopSend p d m).nq j = s.nq j := rfl

theorem setStage_nq (s : State) (p k : Nat) : (s.setStage p k).nq p = { s.nq p with stage := k } := by
  unfold State.setStage
  dsimp only
  split <;> simp

theorem originate_nq (s : State) (p : Nat) : (originate s).nq p = s.nq p := by
  obtain ⟨b, e, e1, -⟩ := originate_fb s
  rw [e]
  unfold State.nq
  rw [e1]

/-- A port whose adjacency ends keeps everything but its state. -/
theorem adjacencyDown_nq (s : State) (p k : Nat) : (adjacencyDown s p k).nq p = { s.nq p with stage := k } := by
  have hs := setStage_nq s p k
  unfold adjacencyDown
  dsimp only
  generalize s.setStage p k = u at *
  split
  · rw [State.nq_event, originate_nq]
    exact hs
  · exact hs

theorem forgetNeighbour_nq (s : State) (p : Nat) : (forgetNeighbour s p).nq p = { s.nq p with neighbour := none } := by
  unfold forgetNeighbour
  dsimp only
  split <;> simp

theorem forgetNeighbour_rd (s : State) (p : Nat) (h : p < 6) : (forgetNeighbour s p).rd (Obj.nqNeighbour p) = 0xFFFF := by
  unfold forgetNeighbour
  dsimp only
  rw [if_pos h, State.rd_wr_other _ _ (by unfold Obj.nqNeighbour Obj.nqNeighbourPort key; omega), State.rd_wr_same]

theorem fabSend_fb (s : State) (d : Nat) (m : FabMsg) : ∃ q u, (s.fabSend d m).fb = { s.fb with seqs := q, unacked := u } := by
  unfold State.fabSend
  split
  · exact ⟨s.fb.seqs, s.fb.unacked, rfl⟩
  · dsimp only
    rw [((Told.refl _).fabQueuePush _).fb]
    split
    · exact ⟨_, _, rfl⟩
    · exact ⟨s.fb.seqs, s.fb.unacked, rfl⟩

theorem fabSend_routes (s : State) (d : Nat) (m : FabMsg) : (s.fabSend d m).fb.routes = s.fb.routes ∧ (s.fabSend d m).fb.changed = s.fb.changed := by
  obtain ⟨q, u, e⟩ := fabSend_fb s d m
  rw [e]; exact ⟨rfl, rfl⟩

theorem sendJoin_routes (s : State) (c : Nat) : (sendJoin s c).fb.routes = s.fb.routes ∧ (sendJoin s c).fb.changed = s.fb.changed := by
  unfold sendJoin
  dsimp only
  split
  · have := fabSend_routes ((s.setCf c { s.cf c with joinAt := some s.mono }).wr (Obj.joinState c) 1) (s.rd (Obj.anchorFdev c))
      (.join (s.rd (Obj.anchorConf c)) c)
    simpa using this
  · simp

theorem remoteRoutes_routes (s : State) (c : Nat) : (remoteRoutes s c).fb.routes = s.fb.routes ∧ (remoteRoutes s c).fb.changed = s.fb.changed := by
  unfold remoteRoutes
  dsimp only
  split
  · exact ⟨rfl, rfl⟩
  · split
    · simp
    · split
      · exact sendJoin_routes s c
      · exact ⟨rfl, rfl⟩

theorem feedRoutes_routes (s : State) (l : Nat) : (feedRoutes s l).fb.routes = s.fb.routes ∧ (feedRoutes s l).fb.changed = s.fb.changed := by
  unfold feedRoutes
  dsimp only
  split
  · exact ⟨rfl, rfl⟩
  · split
    · simp
    · split
      · unfold sendSubscribe
        have := fabSend_routes (s.wr (Obj.feedState l) 1) ((s.wr (Obj.feedState l) 1).rd (Obj.srcFdev l))
          (.subscribe 0 l ((s.wr (Obj.feedState l) 1).rd (Obj.srcKind l)) ((s.wr (Obj.feedState l) 1).rd (Obj.srcId l))
            ((s.wr (Obj.feedState l) 1).rd (Obj.srcEntry l)))
        simpa using this
      · exact ⟨rfl, rfl⟩

theorem foldl_routes {f : State → Nat → State} (h : ∀ s c, (f s c).fb.routes = s.fb.routes ∧ (f s c).fb.changed = s.fb.changed)
    (l : List Nat) (s : State) : (l.foldl f s).fb.routes = s.fb.routes ∧ (l.foldl f s).fb.changed = s.fb.changed := by
  induction l generalizing s with
  | nil => exact ⟨rfl, rfl⟩
  | cons a r ih => exact ⟨(ih _).1.trans (h s a).1, (ih _).2.trans (h s a).2⟩

theorem foldl_fb {α : Type} {f : State → α → State} (h : ∀ s c, (f s c).fb = s.fb) (l : List α) (s : State) : (l.foldl f s).fb = s.fb := by
  induction l generalizing s with
  | nil => rfl
  | cons a r ih => exact (ih _).trans (h s a)

theorem putRoute_fb (s : State) (a b c : Nat) (d : List Nat) : (putRoute s a b c d).fb = s.fb := by unfold putRoute; simp

theorem lane_setLane_other (s : State) {j l : Nat} (x : LaneRt) (h : j ≠ l) : (s.setLane l x).lane j = s.lane j :=
  AMap.get_put_other _ _ _ _ h

theorem nq_setNq_other (s : State) {j p : Nat} (x : NqPort) (h : j ≠ p) : (s.setNq p x).nq j = s.nq j :=
  AMap.get_put_other _ _ _ _ h

theorem defectEvent_lane (s : State) (w b l : Nat) : (defectEvent s w b).lane l = s.lane l := by
  unfold defectEvent; split <;> [skip; split] <;> simp

theorem defectEvent_nq (s : State) (w b p : Nat) : (defectEvent s w b).nq p = s.nq p := by
  unfold defectEvent; split <;> [skip; split] <;> simp

theorem defectEvent_mono (s : State) (w b : Nat) : (defectEvent s w b).mono = s.mono := by
  unfold defectEvent; split <;> [skip; split] <;> simp

theorem reportLane_nq (s : State) (l p : Nat) : (reportLane s l).nq p = s.nq p := by
  unfold reportLane
  dsimp only
  split
  · simp
  · split
    · rw [defectEvent_nq]; simp
    · simp

theorem reportLane_mono (s : State) (l : Nat) : (reportLane s l).mono = s.mono := by
  unfold reportLane
  dsimp only
  split
  · simp
  · split
    · rw [defectEvent_mono]; simp
    · simp

theorem reportLane_lane (s : State) (l j : Nat) : (reportLane s l).lane j =
    if j = l then { s.lane l with defects := { (s.lane l).defects with reported := topDefect (s.lane l).defects.counted } } else s.lane j := by
  have h : ((s.setLane l { s.lane l with defects := { (s.lane l).defects with reported := topDefect (s.lane l).defects.counted } }).wr
      (Obj.lnDefects l) (s.lane l).defects.counted).lane j =
      if j = l then { s.lane l with defects := { (s.lane l).defects with reported := topDefect (s.lane l).defects.counted } } else s.lane j := by
    rw [State.lane_wr]
    split
    · rename_i h; rw [h, State.setLane_same]
    · rename_i h; exact lane_setLane_other s _ h
  unfold reportLane
  dsimp only
  split
  · exact h
  · split
    · rw [defectEvent_lane]; exact h
    · exact h

theorem reportPort_lane (s : State) (p l : Nat) : (reportPort s p).lane l = s.lane l := by
  unfold reportPort
  dsimp only
  split
  · split <;> simp
  · split
    · rw [defectEvent_lane]; split <;> simp
    · split <;> simp

theorem reportPort_nq (s : State) (p j : Nat) : (reportPort s p).nq j =
    if j = p then { s.nq p with defects := { (s.nq p).defects with reported := topDefect (portMask s p) } } else s.nq j := by
  have h : (s.setNq p { s.nq p with defects := { (s.nq p).defects with reported := topDefect (portMask s p) } }).nq j =
      if j = p then { s.nq p with defects := { (s.nq p).defects with reported := topDefect (portMask s p) } } else s.nq j := by
    split
    · rename_i h; rw [h, State.setNq_same]
    · rename_i h; exact nq_setNq_other s _ h
  unfold reportPort
  dsimp only
  split
  · split
    · rw [State.nq_setSecond, State.nq_wr, h]
    · rw [State.nq_setSecond, h]
  · split
    · rw [defectEvent_nq]
      split
      · rw [State.nq_setSecond, State.nq_wr, h]
      · rw [State.nq_setSecond, h]
    · split
      · rw [State.nq_setSecond, State.nq_wr, h]
      · rw [State.nq_setSecond, h]

theorem adjacencyDown_other (s : State) {p j : Nat} (k : Nat) (h : j ≠ p) : (adjacencyDown s p k).nq j = s.nq j := by
  have hs : (s.setStage p k).nq j = s.nq j := by
    unfold State.setStage
    dsimp only
    split
    · rw [State.nq_wr, nq_setNq_other s _ h]
    · exact nq_setNq_other s _ h
  unfold adjacencyDown
  dsimp only
  generalize s.setStage p k = u at *
  split
  · rw [State.nq_event, originate_nq]
    exact hs
  · exact hs

theorem originate_lanes (s : State) (l : Nat) : (originate s).lane l = s.lane l := by
  have hf : ∀ (u : State) (a : Lsa), (flood u a 99).lane l = u.lane l := by
    intro u a
    obtain ⟨h, q, e⟩ := flood_fb u a 99
    rw [e]
    rfl
  unfold originate
  split
  · dsimp only
    rw [hf]
    rfl
  · rfl

theorem portCheck_lane (s : State) (p l : Nat) : (portCheck s p).lane l = s.lane l := by
  have hs : ∀ k, (s.setStage p k).lane l = s.lane l := by
    intro k
    unfold State.setStage
    dsimp only
    split <;> simp
  unfold portCheck
  split
  · have hf : ∀ u : State, (forgetNeighbour u p).lane l = u.lane l := by
      intro u
      unfold forgetNeighbour
      dsimp only
      split <;> simp
    rw [hf]
    unfold adjacencyDown
    dsimp only
    have h1 := hs 1
    generalize s.setStage p 1 = u at *
    split
    · rw [State.lane_event, originate_lanes]
      exact h1
    · exact h1
  · rfl

theorem portCheck_nq (s : State) (p j : Nat) : ((portCheck s p).nq j).link = (s.nq j).link := by
  unfold portCheck
  split
  · by_cases h : j = p
    · rw [h, forgetNeighbour_nq, adjacencyDown_nq]
      rfl
    · have : ∀ u : State, (forgetNeighbour u p).nq j = u.nq j := by
        intro u
        unfold forgetNeighbour
        dsimp only
        split
        · simp [nq_setNq_other _ _ h]
        · exact nq_setNq_other _ _ h
      rw [this, adjacencyDown_other s 1 h]
  · rfl

/-- A pass over lanes that each step changes one lane of. -/
theorem foldl_lane {f : State → Nat → State} {g : State → LaneRt → LaneRt}
    (hf : ∀ t l j, (f t l).lane j = if j = l then g t (t.lane l) else t.lane j) (hg : ∀ t l x, g (f t l) x = g t x)
    (ls : List Nat) (hn : ls.Nodup) (s : State) (j : Nat) :
    (ls.foldl f s).lane j = if j ∈ ls then g s (s.lane j) else s.lane j := by
  induction ls generalizing s with
  | nil => rfl
  | cons a r ih =>
    rw [List.nodup_cons] at hn
    rw [List.foldl_cons, ih hn.2]
    by_cases h : j = a
    · subst h
      simp [hn.1, hf]
    · simp [h, hf, hg]

theorem lanesOf_nodup (p : Nat) : (lanesOf p).Nodup := by
  unfold lanesOf
  split
  · simp
  · decide

/-- Judging the defects anew leaves the receivers, credits and skew alone (R338). -/
theorem refreshDefects_keeps (s : State) (p : Nat) : (∀ l, ((refreshDefects s p).lane l).receiver = (s.lane l).receiver) ∧
    (∀ j, ((refreshDefects s p).nq j).link = (s.nq j).link) := by
  unfold refreshDefects
  split
  · exact ⟨fun _ => rfl, fun _ => rfl⟩
  · dsimp only
    have h1 := foldl_lane (f := fun t l => reportLane (t.setLane l { t.lane l with defects := (t.lane l).defects.set (laneRaw (t.lane l)) t.mono }) l)
      (g := fun t x => { x with defects := { x.defects.set (laneRaw x) t.mono with reported := topDefect (x.defects.set (laneRaw x) t.mono).counted } })
      (by
        intro t l j
        rw [reportLane_lane]
        split
        · rw [State.setLane_same]
        · rename_i h; exact lane_setLane_other _ _ h)
      (by
        intro t l x
        dsimp only
        rw [reportLane_mono, State.setLane_mono])
      (lanesOf p) (lanesOf_nodup p) s
    have h2 : ∀ (ls : List Nat) (u : State) j, (ls.foldl (fun t l => reportLane (t.setLane l
        { t.lane l with defects := (t.lane l).defects.set (laneRaw (t.lane l)) t.mono }) l) u).nq j = u.nq j := by
      intro ls
      induction ls with
      | nil => intro u j; rfl
      | cons a r ih => intro u j; rw [List.foldl_cons, ih, reportLane_nq, State.nq_setLane]
    generalize hv : List.foldl _ s (lanesOf p) = v
    have h3 := fun j => h1 j
    have h4 := fun j => h2 (lanesOf p) s j
    rw [hv] at h3 h4
    refine ⟨fun l => ?_, fun j => ?_⟩
    · rw [portCheck_lane, reportPort_lane, State.lane_setNq, h3]
      split <;> rfl
    · rw [portCheck_nq, reportPort_nq]
      by_cases hj : j = p
      · rw [if_pos hj, hj, State.setNq_same, h4]
        rfl
      · rw [if_neg hj, nq_setNq_other _ _ hj, h4]

theorem foldl_mem_congr {α β : Type} {f g : β → α → β} {ls : List α} (h : ∀ a ∈ ls, ∀ b, f b a = g b a) (b : β) : ls.foldl f b = ls.foldl g b := by
  induction ls generalizing b with
  | nil => rfl
  | cons a r ih =>
    rw [List.foldl_cons, List.foldl_cons, h a List.mem_cons_self]
    exact ih (fun x hx => h x (List.mem_cons_of_mem _ hx)) _

theorem phyLane_receiver (s : State) (l : Nat) (f : LaneRt → LaneRt) : ((phyLane s l f).lane l).receiver = (f (s.lane l)).receiver := by
  unfold phyLane
  rw [(refreshDefects_keeps _ _).1, State.setLane_same]

theorem Told.bump {s t u : State} (h : Told s t) (e : t = u) : Told s u := e ▸ h

/-- A frame put on the fabric changes the fabric's own record, beside what telling changes. -/
theorem fabSend_told (s : State) (d : Nat) (m : FabMsg) : Told { s with fb := (s.fabSend d m).fb } (s.fabSend d m) := by
  obtain ⟨b, hb⟩ : ∃ b, Told { s with fb := b } (s.fabSend d m) := by
    unfold State.fabSend
    split
    · exact ⟨s.fb, Told.refl s⟩
    · dsimp only
      split
      · exact ⟨_, (Told.refl _).fabQueuePush _⟩
      · exact ⟨s.fb, (Told.refl _).fabQueuePush _⟩
  have := hb.fb
  rw [this]
  exact hb

theorem fabSend_subs (s : State) (d : Nat) (m : FabMsg) : (s.fabSend d m).fb.subs = s.fb.subs := by
  obtain ⟨q, u, e⟩ := fabSend_fb s d m
  rw [e]

theorem fabSend_cf (s : State) (d : Nat) (m : FabMsg) (c : Nat) : (s.fabSend d m).cf c = s.cf c := by
  unfold State.cf
  rw [(fabSend_told s d m).conf]

theorem fabSend_rd (s : State) (d : Nat) (m : FabMsg) (k : Nat) (h : k / 0x100000000 ≠ 0xE010) : (s.fabSend d m).rd k = s.rd k :=
  (fabSend_told s d m).rd k h

theorem sendJoin_facts (s : State) (c : Nat) (h : c < 16384) :
    ((sendJoin s c).cf c).joinAt = some s.mono ∧ (sendJoin s c).rd (Obj.joinState c) = 1 := by
  have hk : Obj.joinState c / 0x100000000 ≠ 0xE010 := by unfold Obj.joinState key; omega
  unfold sendJoin
  dsimp only
  split
  · rw [fabSend_cf, fabSend_rd _ _ _ _ hk]
    simp
  · simp

theorem foldl_copy_rd (a b k : Nat) (is : List Nat) (h : ∀ i ∈ is, k ≠ recKey b i) (s : State) :
    (is.foldl (fun t i => t.wr (recKey b i) (s.rd (recKey a i))) s).rd k = s.rd k := by
  have : ∀ t : State, (is.foldl (fun t i => t.wr (recKey b i) (s.rd (recKey a i))) t).rd k = t.rd k := by
    induction is with
    | nil => intro t; rfl
    | cons j r ih =>
      intro t
      rw [List.foldl_cons, ih (fun i hi => h i (List.mem_cons_of_mem _ hi)), State.rd_wr_other _ _ (h j List.mem_cons_self)]
  exact this s

theorem recKey_ne (a b i k : Nat) (h : k / 0x100000000 ≠ b) (hi : i ≤ 8) : k ≠ recKey b i := by
  intro e
  apply h
  rw [e]
  unfold recKey key
  omega

theorem copyRec_rd (s : State) (a b k : Nat) (h : k / 0x100000000 ≠ b) : (copyRec s a b).rd k = s.rd k := by
  refine foldl_copy_rd a b k _ (fun i hi => recKey_ne a b i k h ?_) s
  simp at hi
  omega

theorem foldl_copy_same (a b i : Nat) (f : Nat → Nat) (is : List Nat) (hn : is.Nodup) (hi : i ∈ is) (s : State) :
    (is.foldl (fun t i => t.wr (recKey b i) (f i)) s).rd (recKey b i) = f i := by
  induction is generalizing s with
  | nil => cases hi
  | cons j r ih =>
    rw [List.nodup_cons] at hn
    rw [List.foldl_cons]
    by_cases hj : i ∈ r
    · exact ih hn.2 hj _
    · have e : i = j := by
        rcases List.mem_cons.mp hi with e | e
        · exact e
        · exact absurd e hj
      subst e
      have : ∀ (r : List Nat) (t : State), i ∉ r → (r.foldl (fun t i => t.wr (recKey b i) (f i)) t).rd (recKey b i) = t.rd (recKey b i) := by
        intro r
        induction r with
        | nil => intro t _; rfl
        | cons x q ih2 =>
          intro t hx
          rw [List.foldl_cons, ih2 _ (fun h => hx (List.mem_cons_of_mem _ h)), State.rd_wr_other]
          intro e
          unfold recKey key at e
          exact hx (List.mem_cons.mpr (Or.inl (by omega)))
      rw [this r _ hj, State.rd_wr_same]

theorem copyRec_copied (s : State) (a b i : Nat) (h1 : 1 ≤ i) (h2 : i ≤ 8) : (copyRec s a b).rd (recKey b i) = s.rd (recKey a i) := by
  refine foldl_copy_same a b i (fun i => s.rd (recKey a i)) _ (by decide) ?_ s
  simp
  omega

theorem freshRec_rd (s : State) (a t k : Nat) (h : k / 0x100000000 ≠ a) : (freshRec s a t).rd k = s.rd k := by
  have hf : ∀ (is : List Nat) (u : State), (∀ i ∈ is, i ≤ 8) → (is.foldl (fun u i => u.wr (recKey a i) 0) u).rd k = u.rd k := by
    intro is
    induction is with
    | nil => intro u _; rfl
    | cons x q ih =>
      intro u hx
      rw [List.foldl_cons, ih _ (fun i hi => hx i (List.mem_cons_of_mem _ hi)), State.rd_wr_other _ _ (recKey_ne a a x k h (hx x List.mem_cons_self))]
  unfold freshRec
  rw [hf _ _ (by simp), State.rd_wr_other _ _ (recKey_ne a a 1 k h (by omega))]

theorem freshRec_zero (s : State) (a t i : Nat) (h1 : 2 ≤ i) (h2 : i ≤ 8) : (freshRec s a t).rd (recKey a i) = 0 := by
  refine foldl_copy_same a a i (fun _ => 0) _ (by decide) ?_ _
  simp
  omega

theorem freshRec_start (s : State) (a t : Nat) : (freshRec s a t).rd (recKey a 1) = time80 t := by
  have hf : ∀ (is : List Nat) (u : State), (∀ i ∈ is, 2 ≤ i ∧ i ≤ 8) → (is.foldl (fun u i => u.wr (recKey a i) 0) u).rd (recKey a 1) = u.rd (recKey a 1) := by
    intro is
    induction is with
    | nil => intro u _; rfl
    | cons x q ih =>
      intro u hx
      have := hx x List.mem_cons_self
      rw [List.foldl_cons, ih _ (fun i hi => hx i (List.mem_cons_of_mem _ hi)), State.rd_wr_other _ _ (by unfold recKey key; omega)]
  unfold freshRec
  rw [hf _ _ (by simp), State.rd_wr_same]

theorem suspectIf_rd (s : State) (a : Nat) (b : Bool) (k : Nat) (h : k ≠ recKey a 8) : (suspectIf s a b).rd k = s.rd k := by
  unfold suspectIf
  split
  · exact State.rd_wr_other _ _ h
  · rfl

theorem recKey_index (a i : Nat) (h : i ≤ 8) : recKey a i / 0x100000000 = a := by unfold recKey key; omega

end Sys2Proof.Machine
end

