-- ==== Sys2Proof/Laws/Host.lean ====
section
/-! SUPPORT. What the host's registers, rings and windows do, said once. -/

namespace Sys2Proof.Machine

set_option linter.unusedTactic false
set_option linter.unreachableTactic false
set_option linter.unusedSimpArgs false
set_option linter.unusedVariables false

theorem rewm_same (q : Queue) : q.rewm.wptr = q.wptr ∧ q.rewm.rptr = q.rptr ∧ q.rewm.gen = q.gen ∧ q.rewm.items = q.items ∧ q.rewm.cap = q.cap := by
  unfold Queue.rewm; dsimp only; split <;> exact ⟨rfl, rfl, rfl, rfl, rfl⟩

theorem aer_count (s : State) (w : Bool) (a n : Nat) : (s.aer w a n).hif.aerCompleterAborts = s.hif.aerCompleterAborts + 1 := by
  unfold State.aer tlpHeader State.free
  dsimp only
  split <;> rfl

theorem aer_h2d (s : State) (w : Bool) (a n m : Nat) : (s.aer w a n).h2d m = s.h2d m := by
  unfold State.aer tlpHeader State.free
  dsimp only
  split <;> rfl

theorem aer_denied (s : State) (w : Bool) (a n : Nat) : (s.aer w a n).hif.bar2Denied = s.hif.bar2Denied := by
  unfold State.aer tlpHeader State.free
  dsimp only
  split <;> rfl

theorem aer_mem (s : State) (w : Bool) (a n : Nat) : (s.aer w a n).mem = s.mem := by
  unfold State.aer tlpHeader State.free
  dsimp only
  split <;> rfl

theorem taken_running (s : State) (n : Nat) (m : Mailbox) :
    (withIrq (.mailbox n) (fun t => t.setD2h n m) s).running = s.running := by
  unfold State.running
  simp

theorem setD2h_keeps (s : State) (n : Nat) (m : Mailbox) : (s.setD2h n m).season = s.season ∧ (∀ k, (s.setD2h n m).rd k = s.rd k) ∧
    (s.setD2h n m).pw = s.pw ∧ (s.setD2h n m).mem = s.mem :=
  ⟨State.setD2h_season .., fun k => State.rd_congr (State.setD2h_dict ..) k, State.setD2h_pw .., State.setD2h_mem ..⟩

theorem fillD2h_facts (s : State) (n : Nat) (r : Resp) : (s.fillD2h n r).season = s.season ∧ (∀ k, (s.fillD2h n r).rd k = s.rd k) ∧
    (s.fillD2h n r).pw = s.pw ∧ (s.fillD2h n r).mem = s.mem := by
  unfold State.fillD2h
  rw [withIrq_season, withIrq_pw, withIrq_mem]
  refine ⟨State.setD2h_season .., fun k => ?_, State.setD2h_pw .., State.setD2h_mem ..⟩
  rw [withIrq_rd]
  exact State.rd_congr (State.setD2h_dict ..) k

theorem refillD2h_facts (s : State) (n : Nat) (m : Mailbox) (r : Resp) : ((s.setD2h n m).fillD2h n r).season = s.season ∧
    (∀ k, ((s.setD2h n m).fillD2h n r).rd k = s.rd k) ∧ ((s.setD2h n m).fillD2h n r).pw = s.pw ∧
    ((s.setD2h n m).fillD2h n r).mem = s.mem := by
  have h := fillD2h_facts (s.setD2h n m) n r
  have k := setD2h_keeps s n m
  exact ⟨h.1.trans k.1, fun j => (h.2.1 j).trans (k.2.1 j), h.2.2.1.trans k.2.2.1, h.2.2.2.trans k.2.2.2⟩

theorem mailNext_facts (s : State) (n : Nat) : (mailNext s n).season = s.season ∧ (∀ k, (mailNext s n).rd k = s.rd k) ∧
    (mailNext s n).pw = s.pw ∧ (mailNext s n).mem = s.mem := by
  unfold mailNext
  dsimp only
  split
  · exact ⟨rfl, fun _ => rfl, rfl, rfl⟩
  · split
    · exact refillD2h_facts s n _ _
    · split
      · exact refillD2h_facts s n _ _
      · exact ⟨rfl, fun _ => rfl, rfl, rfl⟩

theorem mailThaw_facts (s : State) : (mailThaw s).season = s.season ∧ (∀ k, (mailThaw s).rd k = s.rd k) ∧
    (mailThaw s).pw = s.pw ∧ (mailThaw s).mem = s.mem := by
  unfold mailThaw
  generalize s.hif.d2h = l
  induction l generalizing s with
  | nil => exact ⟨rfl, fun _ => rfl, rfl, rfl⟩
  | cons a r ih =>
    have h := mailNext_facts s a.1
    have k := ih (mailNext s a.1)
    rw [List.foldl_cons]
    exact ⟨k.1.trans h.1, fun j => (k.2.1 j).trans (h.2.1 j), k.2.2.1.trans h.2.2.1, k.2.2.2.trans h.2.2.2⟩

theorem raiseCause_q (s : State) (b n : Nat) : (s.raiseCause b).q n = s.q n := by unfold State.raiseCause; simp; rfl

theorem pageGate_eq (s : State) (p lo : Nat) : ∃ d, (pageGate s p lo).2 = { s with draws := d } := by
  unfold pageGate opPages State.choose
  dsimp only
  repeat' split
  all_goals exact ⟨_, rfl⟩

theorem bar2Gate_eq (s : State) (a : Nat) : ∃ d, (bar2Gate s a).2 = { s with draws := d } := by
  unfold bar2Gate
  split
  · exact ⟨_, rfl⟩
  · exact pageGate_eq _ _ _

theorem rdByte_wrByte (s : State) (a x : Nat) (v : BitVec 8) : (s.wrByte a v).rdByte x = if x = a then v else s.rdByte x := by
  unfold State.wrByte State.rdByte
  split
  · rename_i h; subst h; exact AMap.get_put_same ..
  · exact AMap.get_put_other _ _ _ _ (by assumption)

theorem writeOctets_rd (l : List (BitVec 8)) (s : State) (a i x : Nat) :
    ((l.zipIdx i).foldl (fun (u : State) e => u.wrByte (a + e.2) e.1) s).rdByte x =
      if a + i ≤ x ∧ x < a + i + l.length then l.getD (x - a - i) 0 else s.rdByte x := by
  induction l generalizing s i with
  | nil =>
    have : ¬ (a + i ≤ x ∧ x < a + i + 0) := by omega
    simp
  | cons b r ih =>
    simp only [List.zipIdx_cons, List.foldl_cons, ih, rdByte_wrByte, List.length_cons]
    by_cases h : x = a + i
    · subst h
      have h1 : ¬ (a + (i + 1) ≤ a + i ∧ a + i < a + (i + 1) + r.length) := by omega
      have h2 : a + i ≤ a + i ∧ a + i < a + i + (r.length + 1) := by omega
      rw [if_neg h1, if_pos rfl, if_pos h2]
      simp
    · by_cases h1 : a + (i + 1) ≤ x ∧ x < a + (i + 1) + r.length
      · have h2 : a + i ≤ x ∧ x < a + i + (r.length + 1) := by omega
        rw [if_pos h1, if_pos h2]
        have : x - a - i = (x - a - (i + 1)) + 1 := by omega
        rw [this]; simp
      · have h2 : ¬ (a + i ≤ x ∧ x < a + i + (r.length + 1)) := by omega
        rw [if_neg h1, if_neg h2, if_neg h]

end Sys2Proof.Machine
end

