-- ==== Sys2Proof/Laws/Maten.lean ====
section
/-! SUPPORT. What issuing an instruction on a Maten core comes to, said once. -/

namespace Sys2Proof.Machine

set_option linter.unusedTactic false
set_option linter.unreachableTactic false
set_option linter.unusedSimpArgs false
set_option linter.unusedVariables false

/-- The cycles an instruction waits for its code (R174). -/
def codeWait (s : State) : Nat := Config.coreWait 0 s.draws % 41

/-- An instruction that completes: its effect on the core, and the bundle's end unless another instruction joins it. -/
theorem issue_ok {s s1 : State} {c : Nat} {k1 : MatenCore} {f : State → MatenCore → Regs → IRes} (h : Issues s c) (p : Bool)
    (hf : f s (bundleCore s c) (bundleRegs s c) = .ok k1 s1) :
    issue s c p f =
      if p then ({ s1 with draws := s1.draws + 1 } : State).setCore c (k1.spend (codeWait s))
      else (commitBundle { s1 with draws := s1.draws + 1 } c (openBundle (k1.spend (codeWait s)))).setCore c
        (endBundle s.dspUnits (k1.spend (codeWait s))) := by
  have h1 := h.item; have h2 := h.going; have h3 := h.faulted; have h4 := h.halted; have h5 := h.stall; have h6 := h.waits
  unfold issue
  dsimp only
  rw [if_neg (by simp [h3, h4, h5, h6]; intro e; rw [e] at h1; cases h1), if_neg (by simp [h2])]
  unfold bundleCore bundleRegs at hf
  rw [hf]
  rfl

/-- An instruction that faults leaves its bundle without effect and the core with the cause (R191). -/
theorem issue_fault {s : State} {c cause addr : Nat} {f : State → MatenCore → Regs → IRes} (h : Issues s c) (p : Bool)
    (hf : f s (bundleCore s c) (bundleRegs s c) = .fault cause addr) :
    issue s c p f = s.setCore c { dropBundle (s.core c) with fcause := cause, faddr := addr, faulted := true } := by
  have h1 := h.item; have h2 := h.going; have h3 := h.faulted; have h4 := h.halted; have h5 := h.stall; have h6 := h.waits
  unfold issue
  dsimp only
  rw [if_neg (by simp [h3, h4, h5, h6]; intro e; rw [e] at h1; cases h1), if_neg (by simp [h2])]
  unfold bundleCore bundleRegs at hf
  rw [hf]

/-- A core that reads as one with other cycles. -/
theorem openBundle_spend {k : MatenCore} (n : Nat) (h : k.start.isSome = true) : openBundle (k.spend n) = openBundle k := by
  unfold openBundle MatenCore.spend
  dsimp only
  cases e : k.start with
  | none => rw [e] at h; cases h
  | some b => rfl

theorem startDma_frame (now : Nat) (k : MatenCore) (d : CoreDma) : (startDma now k d).regs = k.regs ∧ (startDma now k d).mem = k.mem ∧
    (startDma now k d).pc = k.pc ∧ (startDma now k d).waitAt = k.waitAt ∧ (startDma now k d).handlers = k.handlers ∧
    ((startDma now k d).dma, (startDma now k d).stall) = if k.dma.length < 8 then (k.dma ++ [d], k.stall) else (k.dma, some d) := by
  unfold startDma
  split <;> exact ⟨rfl, rfl, rfl, rfl, rfl, rfl⟩

theorem loopEnd_frame (n : Nat) (r : Regs) (pc : BitVec 20) : (loopEnd n r pc).1.d = r.d ∧ (loopEnd n r pc).1.ac = r.ac ∧
    (loopEnd n r pc).1.p = r.p ∧ (loopEnd n r pc).1.dr = r.dr := by
  induction n generalizing r pc with
  | zero => exact ⟨rfl, rfl, rfl, rfl⟩
  | succ n ih =>
    unfold loopEnd
    dsimp only
    split
    · exact ⟨rfl, rfl, rfl, rfl⟩
    · split
      · exact ⟨rfl, rfl, rfl, rfl⟩
      · exact ih _ _

/-- What the end of a bundle leaves: registers that no loop end touches, the bundle's stores, its transfer. -/
theorem endBundle_frame (now : Nat) (k : MatenCore) : (endBundle now k).regs.d = k.regs.d ∧ (endBundle now k).regs.ac = k.regs.ac ∧
    (endBundle now k).regs.p = k.regs.p ∧ (endBundle now k).regs.dr = k.regs.dr ∧
    (endBundle now k).mem = localStores k (openBundle k).stores ∧
    ((endBundle now k).dma, (endBundle now k).stall) =
      (match (openBundle k).dma with
        | some d => if k.dma.length < 8 then (k.dma ++ [d], k.stall) else (k.dma, some d)
        | none => (k.dma, k.stall)) ∧
    (endBundle now k).waitAt = k.waitAt ∧ (endBundle now k).handlers = k.handlers ∧
    (k.branched = true → (endBundle now k).pc = k.pc ∧ (endBundle now k).regs.status = k.regs.status) := by
  have h := loopEnd_frame 4 k.regs k.pc
  unfold endBundle
  generalize e : (if k.branched then (k.regs, k.pc) else loopEnd 4 k.regs k.pc) = x
  have hx : x.1.d = k.regs.d ∧ x.1.ac = k.regs.ac ∧ x.1.p = k.regs.p ∧ x.1.dr = k.regs.dr := by
    rw [← e]
    split
    · exact ⟨rfl, rfl, rfl, rfl⟩
    · exact h
  have hb : k.branched = true → x.2 = k.pc ∧ x.1.status = k.regs.status := by
    intro hb
    rw [← e, if_pos hb]
    exact ⟨rfl, rfl⟩
  obtain ⟨r, pc⟩ := x
  dsimp only at hx hb ⊢
  generalize (openBundle k).dma = od
  cases od with
  | some d =>
    obtain ⟨a1, a2, a3, a4, a5, a6⟩ := startDma_frame now { k with
      regs := { r with late := r.late.filter (fun e => decide (k.bundle + 1 < e.2.1)) }
      mem := localStores k (openBundle k).stores
      pc := pc
      start := none
      branched := false
      bundle := k.bundle + 1
      cyc := satAdd k.cyc 1 0xFFFFFFFF } d
    rw [a1, a2, a3, a4, a5, a6]
    exact ⟨hx.1, hx.2.1, hx.2.2.1, hx.2.2.2, rfl, rfl, rfl, rfl, hb⟩
  | none =>
    dsimp only
    split
    · exact ⟨hx.1, hx.2.1, hx.2.2.1, hx.2.2.2, rfl, rfl, rfl, rfl, hb⟩
    · exact ⟨hx.1, hx.2.1, hx.2.2.1, hx.2.2.2, rfl, rfl, rfl, rfl, hb⟩

@[simp] theorem commitBundle_core (s : State) (c : Nat) (b : Bundle) (n : Nat) : (commitBundle s c b).core n = s.core n := by
  unfold commitBundle
  dsimp only
  generalize hu : (if b.stores.isEmpty then s else _ : State) = u
  have h : u.core n = s.core n := by rw [← hu]; split <;> rfl
  cases b.result <;> exact h

theorem commitBundle_items (s : State) (c : Nat) (b : Bundle) : (commitBundle s c b).disp.items =
    match b.result with
    | some r => s.disp.items.map (fun (w : WorkItem) => if w.core = some c then { w with ended := some (0, r) } else w)
    | none => s.disp.items := by
  unfold commitBundle
  dsimp only
  generalize hu : (if b.stores.isEmpty then s else _ : State) = u
  have h : u.disp.items = s.disp.items := by rw [← hu]; split <;> rfl
  cases b.result with
  | none => exact h
  | some r => dsimp only; rw [h]

theorem getAc_congr {a b : Regs} (h : a.ac = b.ac) (i : Nat) : a.getAc i = b.getAc i := by unfold Regs.getAc; rw [h]
theorem getD_congr {a b : Regs} (h : a.d = b.d) (i : Nat) : a.getD i = b.getD i := by unfold Regs.getD; rw [h]

/-- What an issued instruction leaves in the core's registers. -/
theorem issue_core {s s1 : State} {c : Nat} {k1 : MatenCore} {f : State → MatenCore → Regs → IRes} (h : Issues s c) (p : Bool)
    (hf : f s (bundleCore s c) (bundleRegs s c) = .ok k1 s1) :
    ((issue s c p f).core c).regs.d = k1.regs.d ∧ ((issue s c p f).core c).regs.ac = k1.regs.ac ∧
    ((issue s c p f).core c).regs.p = k1.regs.p ∧ ((issue s c p f).core c).regs.dr = k1.regs.dr ∧
    ((issue s c p f).core c).waitAt = k1.waitAt ∧ ((issue s c p f).core c).handlers = k1.handlers := by
  rw [issue_ok h p hf]
  cases p
  · have e := endBundle_frame s.dspUnits (k1.spend (codeWait s))
    simp only [Bool.false_eq_true, if_false, State.setCore_same]
    exact ⟨e.1, e.2.1, e.2.2.1, e.2.2.2.1, e.2.2.2.2.2.2.1, e.2.2.2.2.2.2.2.1⟩
  · simp only [if_true, State.setCore_same]
    exact ⟨rfl, rfl, rfl, rfl, rfl, rfl⟩

/-- A store issued as its bundle's last instruction is made; before that it waits in the bundle. -/
theorem issue_stores {s s1 : State} {c : Nat} {k1 : MatenCore} {f : State → MatenCore → Regs → IRes} (h : Issues s c) (p : Bool)
    (hf : f s (bundleCore s c) (bundleRegs s c) = .ok k1 s1) (hs : k1.start.isSome = true) :
    if p then (openBundle ((issue s c p f).core c)).stores = (openBundle k1).stores
    else ((issue s c p f).core c).mem = localStores k1 (openBundle k1).stores := by
  rw [issue_ok h p hf]
  cases p
  · have e := endBundle_frame s.dspUnits (k1.spend (codeWait s))
    simp only [Bool.false_eq_true, if_false, State.setCore_same]
    rw [e.2.2.2.2.1, openBundle_spend _ hs]
    rfl
  · simp only [if_true, State.setCore_same]
    rw [openBundle_spend _ hs]

/-- A transfer issued as its bundle's last instruction starts; before that it waits in the bundle. -/
theorem issue_dma {s s1 : State} {c : Nat} {k1 : MatenCore} {f : State → MatenCore → Regs → IRes} {d : CoreDma} (h : Issues s c) (p : Bool)
    (hf : f s (bundleCore s c) (bundleRegs s c) = .ok k1 s1) (hs : k1.start.isSome = true) (hd : (openBundle k1).dma = some d) :
    if p then (openBundle ((issue s c p f).core c)).dma = some d
    else (((issue s c p f).core c).dma, ((issue s c p f).core c).stall) =
      if k1.dma.length < 8 then (k1.dma ++ [d], k1.stall) else (k1.dma, some d) := by
  rw [issue_ok h p hf]
  cases p
  · have e := (endBundle_frame s.dspUnits (k1.spend (codeWait s))).2.2.2.2.2.1
    simp only [Bool.false_eq_true, if_false, State.setCore_same]
    rw [e, openBundle_spend _ hs, hd]
    rfl
  · simp only [if_true, State.setCore_same]
    rw [openBundle_spend _ hs, hd]

/-- The last of a bundle's stores to a local word is what the word holds. -/
theorem localStores_append (k : MatenCore) (l : List (Nat × BitVec 32)) (e : Nat × BitVec 32) : localStores k (l ++ [e]) =
    if e.1 < 0x100000 then AMap.put 0 (localWord k e.1) e.2 (localStores k l) else localStores k l := by
  unfold localStores
  rw [List.foldl_append]
  rfl

theorem localWord_inj {k : MatenCore} {a b : Nat} (h : a ≠ b) : localWord k a ≠ localWord k b := by
  unfold localWord
  split <;> split <;> omega

theorem setFlag_ac (r : Regs) (i : Nat) (b : Bool) : (r.setFlag i b).ac = r.ac := rfl
theorem addLate_ac (r : Regs) (a b d : Nat) : (r.addLate a b d).ac = r.ac := rfl
theorem getAc_setAc (r : Regs) (i : Nat) (v : BitVec 56) : (r.setAc i v).getAc i = v := AMap.get_put_same ..
theorem getAc_setFlag (r : Regs) (i : Nat) (b : Bool) (n : Nat) : (r.setFlag i b).getAc n = r.getAc n := rfl

/-- The accumulator a lane of the MAC group leaves, one lane alone or the first of two. -/
theorem macInstr_single {w : Nat} {s : State} {k : MatenCore} {src : Regs} (hl : macLegal w = true) (hd : bit w 23 = false) :
    ∃ k1, macInstr w s k src = .ok k1 s ∧ k1.regs.ac = (macLane (bits w 24 3) (bit (Config.choice s.draws) 80) src k.regs (bits w 18 3)
      (macProduct (bits w 6 2) (bit w 5) (bit w 22) (rdD s k src (bits w 13 5)) (rdD s k src (bits w 8 5)))).ac := by
  unfold macInstr
  rw [if_neg (by simp [hl])]
  dsimp only
  simp only [hd, Bool.false_eq_true, if_false]
  exact ⟨_, rfl, rfl⟩

theorem macInstr_dual {w : Nat} {s : State} {k : MatenCore} {src : Regs} (hl : macLegal w = true) (hd : bit w 23 = true) :
    ∃ k1 r1, macInstr w s k src = .ok k1 s ∧ k1.regs.ac = (macLane (bits w 24 3) (bit (Config.choice s.draws) 80) src r1 (bits w 18 3 + 1)
      (macProduct (bits w 6 2) (bit w 5) (bit w 22) (rdD s k src (if bit w 21 then bits w 13 5 else bits w 13 5 + 1))
        (rdD s k src (bits w 8 5 + 1)))).ac := by
  unfold macInstr
  rw [if_neg (by simp [hl])]
  dsimp only
  simp only [hd, if_true]
  refine ⟨_, macLane (bits w 24 3) (bit (Config.choice s.draws) 80) src k.regs (bits w 18 3)
    (macProduct (bits w 6 2) (bit w 5) (bit w 22) (rdD s k src (bits w 13 5)) (rdD s k src (bits w 8 5))), rfl, ?_⟩
  rw [addLate_ac, addLate_ac, setFlag_ac, setFlag_ac]

theorem macIssue_eq {s : State} {c op w : Nat} (h : Issues s c) (h1 : bits w 27 4 = 4) (h2 : bits w 24 3 = op) :
    macIssue s c op w = issue s c (bit w 31) (macInstr w) := by
  unfold macIssue
  rw [if_pos ⟨h.number, h1, Or.inl h2⟩]

theorem getAc_accumulate (r : Regs) (n : Nat) (v : Int) : (accumulate r n v).getAc n =
    if -(2 ^ 55) ≤ v ∧ v ≤ 2 ^ 55 - 1 then BitVec.ofInt 56 v
    else if r.mode.getLsbD 0 then BitVec.ofInt 56 v
    else BitVec.ofInt 56 (if v < -(2 ^ 55) then -(2 ^ 55) else 2 ^ 55 - 1) := by
  unfold accumulate
  dsimp only
  split
  · exact getAc_setAc ..
  · split
    · rw [getAc_setFlag, getAc_setAc]
    · rw [getAc_setFlag, getAc_setFlag, getAc_setAc]

theorem macLane_mpy (o : Bool) (src r : Regs) (n : Nat) (p : Int) : macLane 0 o src r n p = startAcc r n p := rfl
theorem macLane_mac (o : Bool) (src r : Regs) (n : Nat) (p : Int) : macLane 1 o src r n p = accumulate r n ((src.getAc n).toInt + p) := rfl
theorem macLane_macsh (o : Bool) (src r : Regs) (n : Nat) (p : Int) :
    macLane 2 o src r n p = accumulate r n ((src.getAc n).toInt / 16777216 + p) := rfl
theorem macLane_rnda (o : Bool) (src r : Regs) (n : Nat) (p : Int) :
    macLane 3 o src r n p = accumulate r n (roundAt24 src.rnd o (src.getAc n).toInt * 16777216) := rfl
theorem macLane_clr (o : Bool) (src r : Regs) (n : Nat) (p : Int) : macLane 4 o src r n p = startAcc r n 0 := rfl
theorem getAc_startAcc (r : Regs) (n : Nat) (v : Int) : (startAcc r n v).getAc n = BitVec.ofInt 56 v := by
  unfold startAcc; rw [getAc_setFlag, getAc_setAc]

theorem getD_setD (r : Regs) (i : Nat) (v : BitVec 24) : (r.setD i v).getD i = v := AMap.get_put_same ..

/-- A narrow compare-select of one lane. -/
theorem acsInstr_single {w : Nat} {s : State} {k : MatenCore} {src : Regs} (hl : acsLegal w = true) (hw : bit w 26 = false) (hd : bit w 25 = false) :
    ∃ k1, acsInstr w s k src = .ok k1 s ∧ k1.regs.d = ((k.regs.setD (bits w 19 5) (BitVec.ofNat 24 (acsSelect (bit w 24) (2 ^ 24 - 1)
      ((rdD s k src (bits w 14 5)).toNat + (rdD s k src (bits w 4 5)).toNat)
      ((rdD s k src (bits w 9 5)).toNat + (rdD s k src ((bits w 4 5 + 1) % 32)).toNat)).1))).d := by
  unfold acsInstr
  rw [if_neg (by simp [hl])]
  dsimp only
  simp only [hw, hd, Bool.false_eq_true, if_false, acsRead, acsWrite]
  generalize acsSelect _ _ _ _ = x
  obtain ⟨v, d, t⟩ := x
  exact ⟨_, rfl, rfl⟩

/-- The core right after an instruction that another one joins. -/
theorem issue_joined {s s1 : State} {c : Nat} {k1 : MatenCore} {f : State → MatenCore → Regs → IRes} (h : Issues s c)
    (hf : f s (bundleCore s c) (bundleRegs s c) = .ok k1 s1) : (issue s c true f).core c = k1.spend (codeWait s) := by
  rw [issue_ok h true hf]
  simp only [if_true, State.setCore_same]

/-- A branch taken in a bundle stands at its end (R188). -/
theorem issue_branched {s s1 : State} {c : Nat} {k1 : MatenCore} {f : State → MatenCore → Regs → IRes} (h : Issues s c) (p : Bool)
    (hf : f s (bundleCore s c) (bundleRegs s c) = .ok k1 s1) (hb : k1.branched = true) :
    ((issue s c p f).core c).pc = k1.pc ∧ ((issue s c p f).core c).regs.status = k1.regs.status := by
  rw [issue_ok h p hf]
  cases p
  · simp only [Bool.false_eq_true, if_false, State.setCore_same]
    exact (endBundle_frame s.dspUnits (k1.spend (codeWait s))).2.2.2.2.2.2.2.2 hb
  · simp only [if_true, State.setCore_same]
    exact ⟨rfl, rfl⟩

/-- The items after an instruction (R193): an END's result stands with its bundle's end. -/
theorem issue_items {s s1 : State} {c : Nat} {k1 : MatenCore} {f : State → MatenCore → Regs → IRes} (h : Issues s c)
    (hf : f s (bundleCore s c) (bundleRegs s c) = .ok k1 s1) (hs : k1.start.isSome = true) : (issue s c false f).disp.items =
    match (openBundle k1).result with
    | some r => s1.disp.items.map (fun (w : WorkItem) => if w.core = some c then { w with ended := some (0, r) } else w)
    | none => s1.disp.items := by
  rw [issue_ok h false hf]
  simp only [Bool.false_eq_true, if_false]
  rw [openBundle_spend _ hs]
  show (commitBundle _ c _).disp.items = _
  rw [commitBundle_items]

theorem getD_setD_other (r : Regs) {i j : Nat} (v : BitVec 24) (h : j ≠ i) : (r.setD i v).getD j = r.getD j := AMap.get_put_other _ _ _ _ h

theorem dmaInstr_ok {s : State} {k : MatenCore} {src : Regs} {write : Bool} {loc r words a : Nat} (h1 : 1 ≤ words) (h2 : words ≤ 2048) (h3 : r % 2 = 0)
    (h4 : loc + words ≤ 0x8800) (ha : a = (rdD s k src (r + 1)).toNat * 0x1000000 + (rdD s k src r).toNat) (h5 : a + 4 * words ≤ s.capacity) :
    dmaInstr write loc r words s k src =
      .ok { k with start := k.start.map (fun b => { b with dma := some ⟨loc, a, words, write, regionClass (partOf s a)⟩ }) } s := by
  unfold dmaInstr
  dsimp only
  rw [if_neg (by omega), if_neg (by omega), ← ha, if_neg (by omega)]

/-- The words a read transfer brings in (R184). -/
theorem dmaMove_read (d : CoreDma) (hd : d.write = false) (n i : Nat) (k : MatenCore) (s : State) :
    (dmaMove d n i (k, s)).2 = s ∧ ∃ m, (dmaMove d n i (k, s)).1 = { k with mem := m } ∧
    (∀ a, (∀ j, i ≤ j → j < i + n → a ≠ localWord k (d.loc + j)) → AMap.get 0 a m = AMap.get 0 a k.mem) ∧
    ∀ j, i ≤ j → j < i + n → AMap.get 0 (localWord k (d.loc + j)) m = s.rdWord32 (d.hbm + 4 * j) := by
  induction n generalizing i k with
  | zero => exact ⟨rfl, k.mem, rfl, fun _ _ => rfl, fun j h1 h2 => absurd h2 (by omega)⟩
  | succ n ih =>
    have e : dmaMove d (n + 1) i (k, s) =
        dmaMove d n (i + 1) ({ k with mem := AMap.put 0 (localWord k (d.loc + i)) (s.rdWord32 (d.hbm + 4 * i)) k.mem }, s) := by
      conv_lhs => unfold dmaMove
      rw [hd]; rfl
    obtain ⟨a1, m, a2, a3, a4⟩ := ih (i + 1) { k with mem := AMap.put 0 (localWord k (d.loc + i)) (s.rdWord32 (d.hbm + 4 * i)) k.mem }
    have hl : ∀ x, localWord { k with mem := AMap.put 0 (localWord k (d.loc + i)) (s.rdWord32 (d.hbm + 4 * i)) k.mem } x = localWord k x :=
      fun x => rfl
    simp only [hl] at a3 a4
    rw [e]
    refine ⟨a1, m, a2, fun a ha => ?_, fun j h1 h2 => ?_⟩
    · rw [a3 a (fun j h1 h2 => ha j (by omega) (by omega))]
      exact AMap.get_put_other _ _ _ _ (ha i (Nat.le_refl i) (by omega))
    · by_cases hj : j = i
      · subst hj
        rw [a3 _ (fun x h1 h2 => localWord_inj (by omega))]
        exact AMap.get_put_same ..
      · exact a4 j (by omega) (by omega)

theorem dmaMove_write (d : CoreDma) (hd : d.write = true) (n i : Nat) (k : MatenCore) (s : State) : (dmaMove d n i (k, s)).1 = k := by
  induction n generalizing i s with
  | zero => rfl
  | succ n ih =>
    have e : dmaMove d (n + 1) i (k, s) = dmaMove d n (i + 1) (k, s.wrWord32 (d.hbm + 4 * i) (AMap.get 0 (localWord k (d.loc + i)) k.mem)) := by
      conv_lhs => unfold dmaMove
      rw [hd]; rfl
    rw [e, ih]

theorem dropBundle_shut {k : MatenCore} (h : k.start = none) : dropBundle k = k := by unfold dropBundle; rw [h]

theorem dropBundle_handlers (k : MatenCore) : (dropBundle k).handlers = k.handlers := by unfold dropBundle; split <;> rfl

theorem dropBundle_fcause (k : MatenCore) : (dropBundle k).fcause = k.fcause := by unfold dropBundle; split <;> rfl

theorem dropBundle_start (k : MatenCore) : (dropBundle k).start = none := by
  unfold dropBundle
  split
  · rfl
  · assumption

theorem enterHandler_core (s : State) (c : Nat) (src : IntSource) (v : Nat) : ∃ r, (enterHandler s c src v).core c =
      { dropBundle (s.core c) with
        regs := r, pc := BitVec.ofNat 20 v, faulted := false, handlers := src :: (s.core c).handlers
        tmrPending := (s.core c).tmrPending && decide (src ≠ .tmr) } ∧
      r.ira = (dropBundle (s.core c)).pc ∧ r.istat = (dropBundle (s.core c)).regs.status := by
  unfold enterHandler
  dsimp only
  rw [State.setCore_same]
  have ht : (dropBundle (s.core c)).tmrPending = (s.core c).tmrPending := by unfold dropBundle; split <;> rfl
  rw [ht, dropBundle_handlers]
  exact ⟨_, rfl, rfl, rfl⟩

theorem faultEntry_handled {s : State} {c : Nat} {w : WorkItem} {i : Image} (h1 : s.itemOn c = some w) (h2 : s.program w.desc.program = some i)
    (h3 : i.faultVector ≠ 0) (h4 : (s.core c).handlers = []) : faultEntry s c = enterHandler s c .fault i.faultVector := by
  unfold faultEntry
  dsimp only
  rw [h1]
  simp [h2, h3, h4]

theorem putD_same (k : MatenCore) (d : Nat) (v : BitVec 24) : (putD k d v).regs.getD d = v := getD_setD ..

theorem putD_other (k : MatenCore) {d e : Nat} (v : BitVec 24) (h : e ≠ d) : (putD k d v).regs.getD e = k.regs.getD e := by
  unfold putD
  dsimp only
  rw [getD_setD_other _ _ h]
  rfl

theorem wrWord32_rd (s : State) (a x : Nat) (v : BitVec 32) : (s.wrWord32 a v).rdByte x =
    if a ≤ x ∧ x < a + 4 then v.extractLsb' (8 * (x - a)) 8 else s.rdByte x := by
  unfold State.wrWord32
  simp only [rdByte_wrByte]
  by_cases h : a ≤ x ∧ x < a + 4
  · rw [if_pos h]
    obtain ⟨n, rfl⟩ := Nat.exists_eq_add_of_le h.1
    have hn : n < 4 := by omega
    rw [Nat.add_sub_cancel_left]
    interval_cases n <;> simp
  · rw [if_neg h, if_neg (by omega), if_neg (by omega), if_neg (by omega), if_neg (by omega)]

/-- The octets a write transfer puts into HBM (R184). -/
theorem dmaMove_out (d : CoreDma) (hd : d.write = true) (n i : Nat) (k : MatenCore) (s : State) (x : Nat) :
    (dmaMove d n i (k, s)).2.rdByte x = if d.hbm + 4 * i ≤ x ∧ x < d.hbm + 4 * (i + n) then
      (AMap.get 0 (localWord k (d.loc + (x - d.hbm) / 4)) k.mem).extractLsb' (8 * ((x - d.hbm) % 4)) 8 else s.rdByte x := by
  induction n generalizing i s with
  | zero =>
    rw [if_neg (by omega)]
    rfl
  | succ n ih =>
    have e : dmaMove d (n + 1) i (k, s) =
        dmaMove d n (i + 1) (k, s.wrWord32 (d.hbm + 4 * i) (AMap.get 0 (localWord k (d.loc + i)) k.mem)) := by
      conv_lhs => unfold dmaMove
      rw [hd]; rfl
    rw [e, ih, wrWord32_rd]
    by_cases h1 : d.hbm + 4 * (i + 1) ≤ x ∧ x < d.hbm + 4 * (i + 1 + n)
    · rw [if_pos h1, if_pos (by omega)]
    · rw [if_neg h1]
      by_cases h2 : d.hbm + 4 * i ≤ x ∧ x < d.hbm + 4 * i + 4
      · rw [if_pos h2, if_pos (by omega)]
        have h3 : (x - d.hbm) / 4 = i := by omega
        have h4 : (x - d.hbm) % 4 = x - (d.hbm + 4 * i) := by omega
        rw [h3, h4]
      · rw [if_neg h2, if_neg (by omega)]

/-- A core's transfers and waits after one has ended, with nothing stalled. -/
theorem dmaNext_free {now i : Nat} {ended : Bool} {k : MatenCore} (h1 : k.stall = none) (h2 : k.waitAt = none) :
    (dmaNext now i ended k).dma = k.dma.eraseIdx i ∧ (dmaNext now i ended k).mem = k.mem := by
  unfold dmaNext
  dsimp only
  rw [h1, h2]
  split <;> exact ⟨by simp [MatenCore.spend], rfl⟩

theorem dmaNext_frame (now i : Nat) (ended : Bool) (k : MatenCore) : (dmaNext now i ended k).start = k.start ∧
    (dmaNext now i ended k).pc = k.pc ∧ (dmaNext now i ended k).handlers = k.handlers := by
  unfold dmaNext
  dsimp only
  split <;> exact ⟨rfl, rfl, rfl⟩

theorem dropBundle_pc {k j : MatenCore} (h1 : k.start = j.start) (h2 : k.pc = j.pc) : (dropBundle k).pc = (dropBundle j).pc := by
  unfold dropBundle
  rw [h1]
  cases j.start with
  | none => exact h2
  | some b => rfl

/-- A core in a bundle as an issuing core opened it, as far as its stores go. -/
def Opened (s : State) (c : Nat) (k : MatenCore) : Prop :=
  (∃ b, k.start = some b ∧ b.stores = (openBundle (s.core c)).stores) ∧ k.mem = (s.core c).mem ∧ k.win = (s.core c).win

theorem withSv_opened {s : State} {c : Nat} {k : MatenCore} (b : Bool) (h : Opened s c k) : Opened s c (withSv b k) := by
  unfold withSv
  split
  · exact h
  · exact h

theorem access_opened {s : State} {c : Nat} {k : MatenCore} (l : List Nat) (h : Opened s c k) : Opened s c (access k l) := by
  obtain ⟨⟨b, h1, h2⟩, h3, h4⟩ := h
  unfold access
  dsimp only
  split
  · exact ⟨⟨{ b with banks := l.filterMap bankOf ++ b.banks }, by simp [MatenCore.spend, h1], h2⟩, h3, h4⟩
  · exact ⟨⟨{ b with banks := l.filterMap bankOf ++ b.banks }, by simp [h1], h2⟩, h3, h4⟩

theorem memWrite_stores {k : MatenCore} {b : Bundle} (h : k.start = some b) (a : Nat) (v : BitVec 32) :
    (memWrite k a v).start = some { b with stores := b.stores ++ [(a, v)] } := by
  unfold memWrite
  rw [h]
  rfl

theorem localStores_congr {k j : MatenCore} (hm : k.mem = j.mem) (hw : k.win = j.win) (l : List (Nat × BitVec 32)) :
    localStores k l = localStores j l := by
  have hl : ∀ a, localWord k a = localWord j a := fun a => by unfold localWord; rw [hw]
  unfold localStores
  simp only [hm, hl]

theorem issue_stored {s : State} {c : Nat} {k : MatenCore} {b : Bundle} {f : State → MatenCore → Regs → IRes} {l : List (Nat × BitVec 32)}
    (h : Issues s c) (p : Bool) (hf : f s (bundleCore s c) (bundleRegs s c) = .ok k s) (hb : k.start = some b)
    (hs : b.stores = (openBundle (s.core c)).stores ++ l) (hm : k.mem = (s.core c).mem) (hw : k.win = (s.core c).win) :
    Stored s (issue s c p f) c p l := by
  have e := issue_stores h p hf (by rw [hb]; rfl)
  have ho : openBundle k = b := by unfold openBundle; rw [hb]; rfl
  rw [ho, hs] at e
  unfold Stored
  cases p
  · simp only [Bool.false_eq_true, if_false] at e ⊢
    exact e.trans (localStores_congr hm hw _)
  · simp only [if_true] at e ⊢
    exact e

/-- An instruction that stores one word. -/
theorem issue_stored1 {s : State} {c : Nat} {k : MatenCore} {x : Nat} {v : BitVec 32} {f : State → MatenCore → Regs → IRes}
    (h : Issues s c) (p : Bool) (hf : f s (bundleCore s c) (bundleRegs s c) = .ok (memWrite k x v) s) (ho : Opened s c k) :
    Stored s (issue s c p f) c p [(x, v)] := by
  obtain ⟨⟨b, h1, h2⟩, h3, h4⟩ := ho
  exact issue_stored h p hf (memWrite_stores h1 x v) (by rw [h2]) h3 h4

/-- An instruction that stores two words. -/
theorem issue_stored2 {s : State} {c : Nat} {k : MatenCore} {x y : Nat} {v w : BitVec 32} {f : State → MatenCore → Regs → IRes}
    (h : Issues s c) (p : Bool) (hf : f s (bundleCore s c) (bundleRegs s c) = .ok (memWrite (memWrite k x v) y w) s) (ho : Opened s c k) :
    Stored s (issue s c p f) c p [(x, v), (y, w)] := by
  obtain ⟨⟨b, h1, h2⟩, h3, h4⟩ := ho
  exact issue_stored h p hf (memWrite_stores (memWrite_stores h1 x v) y w) (by dsimp only; rw [h2, List.append_assoc]; rfl) h3 h4

/-- A fault whose handler the program has: the core is at the handler with the cause it was given (R189). -/
theorem fault_taken {s : State} {c : Nat} {w : WorkItem} {i : Image} {k : MatenCore} (h1 : s.itemOn c = some w)
    (h2 : s.program w.desc.program = some i) (h3 : i.faultVector ≠ 0) (h4 : k.handlers = []) :
    ((faultEntry (s.setCore c k) c).core c).pc = BitVec.ofNat 20 i.faultVector ∧
    ((faultEntry (s.setCore c k) c).core c).regs.ira = (dropBundle k).pc ∧
    ((faultEntry (s.setCore c k) c).core c).handlers = [.fault] ∧ ((faultEntry (s.setCore c k) c).core c).fcause = k.fcause ∧
    ((faultEntry (s.setCore c k) c).core c).faddr = k.faddr := by
  have b1 : (s.setCore c k).itemOn c = some w := h1
  have b2 : (s.setCore c k).program w.desc.program = some i := h2
  have b3 : ((s.setCore c k).core c).handlers = [] := by rw [State.setCore_same]; exact h4
  obtain ⟨r, e2, e3, e4⟩ := enterHandler_core (s.setCore c k) c .fault i.faultVector
  rw [State.setCore_same] at e2 e3
  rw [faultEntry_handled b1 b2 h3 b3, e2]
  have ha : (dropBundle k).faddr = k.faddr := by unfold dropBundle; split <;> rfl
  exact ⟨rfl, e3, by rw [h4], dropBundle_fcause k, ha⟩

end Sys2Proof.Machine
end

