-- ==== Sys2Proof/Laws/Power.lean ====
section
/-! SUPPORT. Resets, boot and seasons: what each operation does, said once. -/

namespace Sys2Proof.Machine

set_option linter.unusedTactic false
set_option linter.unreachableTactic false
set_option linter.unusedSimpArgs false
set_option linter.unusedVariables false

theorem enterSpring_season (u : State) : (enterSpring u).season = .spring := by simp [enterSpring]
theorem enterSpring_now (u : State) : (enterSpring u).rd Obj.seasonNow = 2 := State.enterSeason_seasonNow u .spring

theorem fabricUp_idle (s : State) (h1 : s.paired = false) (h2 : ∀ p, p < 6 → s.rd (Obj.nqEnable p) ≠ 1) : fabricUp s = s := by
  have : (List.range 6).foldl (fun t p => if t.rd (Obj.nqEnable p) = 1 then portUp t p else t) s = s := by
    simp [List.range, List.range.loop, h2]
  unfold fabricUp
  rw [this]
  simp [h1]

theorem get_filter_out {α : Type} (d : α) (k : Nat) (p : Nat → Bool) (hp : p k = false) (m : List (Nat × α)) :
    AMap.get d k (m.filter (fun e => p e.1)) = d := by
  induction m with
  | nil => rfl
  | cons e r ih =>
    by_cases h : p e.1 = true
    · rw [List.filter_cons_of_pos (by exact h)]
      have : e.1 ≠ k := by intro hk; rw [hk] at h; rw [h] at hp; cases hp
      unfold AMap.get
      split
      · rfl
      · first | exact ih | (rw [if_neg this]; exact ih)
    · rw [List.filter_cons_of_neg (by simpa using h)]; exact ih

theorem mainReset_rd (s : State) (k : Nat) (h : aonKey k = false) : (mainReset s).rd k = dfltOf k :=
  get_filter_out _ k aonKey h s.dict

theorem recordCause_rd (s : State) (a b c k : Nat) (h : k / 0x100000000 ≠ 0xE030) : (recordCause s a b c).rd k = s.rd k := by
  have h1 : k ≠ Obj.resetKind ∧ k ≠ Obj.resetCode ∧ k ≠ Obj.resetNested ∧ k ≠ Obj.resetTime := by
    refine ⟨?_, ?_, ?_, ?_⟩ <;> (intro e; subst e; exact h (by decide))
  unfold recordCause
  dsimp only
  rw [State.rd_wr_other _ _ h1.2.2.2, State.rd_wr_other _ _ h1.2.2.1, State.rd_wr_other _ _ h1.2.1, State.rd_wr_other _ _ h1.1]
  rfl

theorem recordCause_kind (s : State) (a b c : Nat) : (recordCause s a b c).rd Obj.resetKind = a := by
  unfold recordCause
  dsimp only
  rw [State.rd_wr_other _ _ (by decide), State.rd_wr_other _ _ (by decide), State.rd_wr_other _ _ (by decide), State.rd_wr_same]

theorem recordCause_code (s : State) (a b c : Nat) : (recordCause s a b c).rd Obj.resetCode = b := by
  unfold recordCause
  dsimp only
  rw [State.rd_wr_other _ _ (by decide), State.rd_wr_other _ _ (by decide), State.rd_wr_same]

theorem aonKey_index (k : Nat) (h : aonKey k = false) : k / 0x100000000 ≠ 0xE030 := by
  intro e
  unfold aonKey at h
  simp [e] at h

theorem bootNeed_told (s : State) (a b : Nat) : Told s (bootNeed s a b) := (Told.refl s).mailResponse _ _

theorem bootFlow_rom (s : State) (h1 : s.pw.pwrOk = true) (h2 : s.pw.refclk = true) (h3 : testMode s = false)
    (h4 : s.pw.resetCause / 2 ^ 28 ≠ 3) :
    ∃ n, (bootFlow s true).pw = { s.pw with boot := .rom, wakeN := n } := by
  unfold bootFlow
  rw [if_neg (by simp [h1, h2, h3])]
  simp only [Bool.not_true, Bool.false_eq_true, if_false]
  rw [if_neg (by intro h; exact h4 h.1)]
  exact ⟨_, (bootNeed_told _ 1 0).pw⟩

theorem recordCause_eq (s : State) (a b c : Nat) : ∃ f r n, recordCause s a b c =
    (((({ s with pw := { s.pw with fatalTimes := f, resetCause := r } } : State).wr Obj.resetKind a).wr Obj.resetCode b).wr Obj.resetNested c).wr
      Obj.resetTime n := by
  unfold recordCause
  exact ⟨_, _, _, rfl⟩

theorem recordCause_frame (s : State) (a b c : Nat) : (recordCause s a b c).mem = s.mem ∧ (recordCause s a b c).tw = s.tw ∧
    (recordCause s a b c).mono = s.mono ∧ (recordCause s a b c).pw.refclk = s.pw.refclk := by
  obtain ⟨f, r, n, h⟩ := recordCause_eq s a b c
  rw [h]
  exact ⟨rfl, rfl, rfl, rfl⟩

theorem recordCause_pins (s : State) (a b c : Nat) : (recordCause s a b c).pw.pwrOk = s.pw.pwrOk ∧
    (recordCause s a b c).pw.straps = s.pw.straps := by
  obtain ⟨f, r, n, h⟩ := recordCause_eq s a b c
  rw [h]
  exact ⟨rfl, rfl⟩

theorem powerLost_facts (s : State) : (powerLost s).pw.boot = .waitPwrOk ∧ (powerLost s).pw.mainPwrEn = false ∧
    (powerLost s).pw.lossAt = some s.mono ∧ (powerLost s).mem = [] ∧ (powerLost s).tw.failReport = (s.paired || s.tw.failReport) ∧
    (powerLost s).pw.refclk = s.pw.refclk := by
  have hm : (mainReset s).mem = [] := rfl
  have ht : (mainReset s).tw.failReport = s.tw.failReport := rfl
  have hr : (mainReset s).pw.refclk = s.pw.refclk := rfl
  unfold powerLost
  generalize mainReset s = u at *
  have hf := recordCause_frame u 0 0 0
  generalize recordCause u 0 0 0 = v at *
  dsimp only
  refine ⟨rfl, rfl, rfl, hf.1.trans hm, ?_, hf.2.2.2.trans hr⟩
  show (s.paired || v.tw.failReport) = _
  rw [hf.2.1, ht]

theorem bootReady_facts (s : State) (i : Image) : (bootReady s i).pw.boot = .running ∧ (bootReady s i).pw.firmware = some i ∧
    (bootReady s i).season = .spring ∧ (bootReady s i).rd Obj.firmwareVersion = i.version ∧
    (bootReady s i).rd Obj.frost = bits s.sec.fuses.bootPolicy 10 6 ∧ (bootReady s i).ig.wdAt = some s.mono := by
  unfold bootReady
  dsimp only
  generalize s.pw.scripts.getD _ = sc
  generalize hv : ({ s with pw := { s.pw with scripts := some sc } } : State) = v
  have hm : v.mono = s.mono := by rw [← hv]
  generalize hu : ((v.wr Obj.scriptVersion sc.version).wr Obj.firmwareVersion i.version).wr Obj.frost (bits s.sec.fuses.bootPolicy 10 6) = w
  have hw1 : w.rd Obj.firmwareVersion = i.version := by
    rw [← hu, State.rd_wr_other _ _ (by decide), State.rd_wr_same]
  have hw2 : w.rd Obj.frost = bits s.sec.fuses.bootPolicy 10 6 := by rw [← hu, State.rd_wr_same]
  have hw3 : w.mono = s.mono := by rw [← hu]; exact hm
  clear hu hv
  generalize hx : (if s.pw.thawFrom.isSome = true then w.wr Obj.lastThaw (min 0xFFFFFFFF ((s.mono - s.pw.wakeAt) / 1000)) else w) = x
  have hx1 : x.rd Obj.firmwareVersion = i.version := by
    rw [← hx]; split
    · rw [State.rd_wr_other _ _ (by decide), hw1]
    · exact hw1
  have hx2 : x.rd Obj.frost = bits s.sec.fuses.bootPolicy 10 6 := by
    rw [← hx]; split
    · rw [State.rd_wr_other _ _ (by decide), hw2]
    · exact hw2
  have hx3 : x.mono = s.mono := by
    rw [← hx]; split
    · exact hw3
    · exact hw3
  refine ⟨?_, ?_, ?_, ?_, ?_, ?_⟩
  · rw [State.enterSeason_pw]; rfl
  · rw [State.enterSeason_pw]; rfl
  · exact State.enterSeason_season _ _
  · rw [State.enterSeason_rd _ _ _ (by decide) (by decide), State.rd_wr_other _ _ (by decide)]
    exact hx1
  · rw [State.enterSeason_rd _ _ _ (by decide) (by decide), State.rd_wr_other _ _ (by decide)]
    exact hx2
  · rw [(State.enterSeason_told _ _).ig]
    show some x.mono = _
    rw [hx3]

theorem bootFlow_rd (s : State) (h1 : s.pw.pwrOk = true) (h2 : s.pw.refclk = true) (h3 : testMode s = false) (k : Nat)
    (hk : k / 0x100000000 ≠ 0xE010) (hd : k ≠ Obj.debugOpen) : (bootFlow s true).rd k = s.rd k ∧ (bootFlow s true).mem = s.mem := by
  unfold bootFlow
  rw [if_neg (by simp [h1, h2, h3])]
  simp only [Bool.not_true, Bool.false_eq_true, if_false]
  have hr : ∀ (u : State) (p : Power), ({ u with pw := p } : State).rd k = u.rd k ∧ ({ u with pw := p } : State).mem = u.mem :=
    fun u p => ⟨rfl, rfl⟩
  split
  · rw [(hr _ _).1, State.rd_wr_other _ _ hd]
    exact ⟨rfl, rfl⟩
  · rw [(bootNeed_told _ 1 0).rd k hk, (bootNeed_told _ 1 0).mem, (hr _ _).1, State.rd_wr_other _ _ hd]
    exact ⟨rfl, rfl⟩

theorem fence_pw (s : State) : (fence s).pw = s.pw := by unfold fence; split <;> simp

theorem trainingAll_facts (s : State) (x : TrainEnd) : (trainingAll s x).pw.hbmReady = true ∧ (trainingAll s x).mm.training = [] := by
  unfold trainingAll
  dsimp only
  generalize trained _ _ _ = u
  exact ⟨rfl, rfl⟩

end Sys2Proof.Machine
end

