-- ==== Sys2Proof/Laws/Requests.lean ====
section
/-! SUPPORT. A row of the table that writes an object: from the request to the object's own write and the answer. -/

namespace Sys2Proof.Machine

set_option linter.unusedTactic false
set_option linter.unreachableTactic false
set_option linter.unusedSimpArgs false
set_option linter.unusedVariables false
set_option linter.unnecessarySeqFocus false

theorem rowReq_group0 (b tag ix sub el len : Nat) (table : Bool) : (rowReq (.mbx b) tag 0 ix sub el len table).group = 0 := rfl

theorem finish_plain {s : State} {b : Nat} {r : Req} {d : Payload} {u : State} {p : Principal} (hs : s.season ≠ .spring) (h0 : s.role = 0)
    (hop : r.op = 2) (hg : r.group = 0) {i : Option Nat}
    (hw : writePlain (ctxAt s (.mbx b) p r 0 s.tod) s r d (roomOf (.mbx b) r) = (0, 0, u, i)) :
    finish s (.mbx b) p r d 0 = reply u (.mbx b) 0 (respond r 0 (instantData i).1 (instantData i).2) := by
  have hc : carryOut s (.mbx b) p r d 0 s.tod (roomOf (.mbx b) r) =
      ⟨respond r 0 (instantData i).1 (instantData i).2, u, [⟨r, d⟩], i⟩ := by
    unfold carryOut
    simp only [hop, hg, hw]
    rfl
  unfold finish
  rw [hc]
  simp [hs, h0]

theorem rowReq_flags (b tag ix sub el len : Nat) (table : Bool) :
    (rowReq (.mbx b) tag 0 ix sub el len table).whole = false ∧ (rowReq (.mbx b) tag 0 ix sub el len table).shadow = false := by
  unfold rowReq Req.whole Req.shadow
  dsimp only
  split <;> decide

theorem rowReq_count (b tag ix sub el len : Nat) (table : Bool) : (rowReq (.mbx b) tag 0 ix sub el len table).count ≤ 1 := by
  cases table
  · exact Nat.zero_le 1
  · exact Nat.le_refl 1

theorem rowWrites {s : State} {p : Principal} {b tag ix sub el len : Nat} {table : Bool} {a : Attr} {d : Payload} (ha : attrOf ix sub = some a) :
    elementWrites s p (rowReq (.mbx b) tag 0 ix sub el len table) d 0 = [rowField ix sub el len a d] := by
  have hc := rowReq_count b tag ix sub el len table
  have h2 : attrOf (rowReq (.mbx b) tag 0 ix sub el len table).index (rowReq (.mbx b) tag 0 ix sub el len table).sub = some a := ha
  unfold elementWrites
  simp only [h2, hc, if_true]
  rfl

theorem firstAbort_zeros : firstAbort [0] = 0 ∧ firstAbort [0, 0] = 0 := by decide

theorem writePlain_row {s : State} {b tag ix sub el len : Nat} {table : Bool} {a : Attr} {d : Payload} {t u : State}
    (h : Admits s b (rowReq (.mbx b) tag 0 ix sub el len table) d) (ha : attrOf ix sub = some a) (hix : ix ≠ 0x1030)
    (ho : objectWrite (rowCtx s b (rowReq (.mbx b) tag 0 ix sub el len table)) s (rowField ix sub el len a d) = (0, t))
    (hr : recordCheck s t ix el [sub] = (0, u)) :
    ∃ i, writePlain (ctxAt s (.mbx b) (s.principal (.mbx b)) (rowReq (.mbx b) tag 0 ix sub el len table) 0 s.tod) s
      (rowReq (.mbx b) tag 0 ix sub el len table) d (roomOf (.mbx b) (rowReq (.mbx b) tag 0 ix sub el len table)) = (0, 0, u, i) := by
  have hp := h.prelim
  have hf := h.fields _ (by rw [rowWrites ha]; exact List.mem_singleton.mpr rfl)
  have hw : ∀ p, elementWrites s p (rowReq (.mbx b) tag 0 ix sub el len table) d 0 = [rowField ix sub el len a d] := fun p => rowWrites ha
  have hg := h.range
  rw [hw] at hg
  have hot := h.waits
  have hfl := rowReq_flags b tag ix sub el len table
  have hcnt := rowReq_count b tag ix sub el len table
  have hi : (rowReq (.mbx b) tag 0 ix sub el len table).index = ix := rfl
  generalize rowReq (.mbx b) tag 0 ix sub el len table = r at *
  have hm : max 1 r.count = 1 := by omega
  have hfs : objectWrites (rowCtx s b r) [rowField ix sub el len a d] s = (0, t) := by
    unfold objectWrites
    rw [ho]
    rfl
  have hnow : writeNow (rowCtx s b r) s [rowField ix sub el len a d] = (0, u) := by
    unfold writeNow
    simp only [List.map_cons, List.map_nil, hf, hg, firstAbort_zeros]
    rw [if_neg (by simp), hfs]
    show (match recordChecks s [(ix, el, [sub])] t with
      | (0, u) => (0, u)
      | (a, _) => (a, s) : Nat × State) = (0, u)
    unfold recordChecks
    rw [hr]
    rfl
  have hall : writeAll (rowCtx s b r) s [rowField ix sub el len a d] = (0, u) := by
    unfold writeAll
    rw [hnow]
    simp only [hot, Bool.false_and, Bool.false_eq_true, if_false, ne_eq, not_true_eq_false]
  have hrun : writeRun (rowCtx s b r) r d [0] s = (0, 0, u) := by
    unfold writeRun
    rw [hw, hall]
    rfl
  unfold writePlain
  simp only [wholeMix, hfl.1, Bool.false_and, Bool.false_eq_true, and_false, if_false]
  change ∃ i, (if writePrelim s (rowCtx s b r) r d (roomOf (.mbx b) r) ≠ 0 then (_, 0, s, none)
    else if r.index = 0x1030 then _
    else match writeRun (rowCtx s b r) r d (List.range (max 1 r.count)) s with
      | (b1, i, t) => (b1, i, t, writeInstant s (rowCtx s b r) r) : Nat × Nat × State × Option Nat) = (0, 0, u, i)
  rw [hp, hm, hi, if_neg (by decide), if_neg hix, show List.range 1 = [0] from rfl, hrun]
  exact ⟨_, rfl⟩

theorem writeRow_enter {s : State} {b : Nat} {r : Req} {d : Payload} (h : Admits s b r d) (hop : r.op = 2) :
    writeRow s (.mbx b) r d = finish s (.mbx b) (s.principal (.mbx b)) r d 0 := by
  have hv : chanValid s (.mbx b) = true := by simp [chanValid, h.box]
  have he : enter s (.mbx b) (s.principal (.mbx b)) r d 0 = finish s (.mbx b) (s.principal (.mbx b)) r d 0 := by
    unfold enter
    have : s.isProtected = false := by simp [State.isProtected, h.solo]
    simp [this, h.free, h.behind]
  unfold writeRow
  simp only [chanIsDtp, hv, Bool.not_true, Bool.or_self, Bool.false_eq_true, false_or, if_false]
  split
  · simp [h.runs, h.message, he]
  · rename_i hi
    unfold dictDeliver takeRequest
    simp [hv, h.runs, h.message, dtpClosed, hi, he]

/-- A row's WRITE that passes its checks (R37, R49): the object's own write, what the record as a whole sets off, and the answer. -/
theorem writeRow_accepted {s : State} {b tag ix sub el len : Nat} {table : Bool} {a : Attr} {d : Payload} {t u : State}
    (h : Admits s b (rowReq (.mbx b) tag 0 ix sub el len table) d) (ha : attrOf ix sub = some a) (hix : ix ≠ 0x1030)
    (ho : objectWrite (rowCtx s b (rowReq (.mbx b) tag 0 ix sub el len table)) s (rowField ix sub el len a d) = (0, t))
    (hr : recordCheck s t ix el [sub] = (0, u)) :
    ∃ x, writeRow s (.mbx b) (rowReq (.mbx b) tag 0 ix sub el len table) d = reply u (.mbx b) 0 x := by
  obtain ⟨i, hw⟩ := writePlain_row h ha hix ho hr
  rw [writeRow_enter h rfl]
  exact ⟨_, finish_plain h.season h.solo rfl rfl hw⟩

theorem Told.replyBox (u : State) (b q : Nat) (x : Resp) : Told u (reply u (.mbx b) q x) := by
  unfold reply
  exact Told.ite (Told.refl u) ((Told.refl u).mailResponse _ _)

theorem writePlain_refused {s : State} {b tag ix sub el len : Nat} {table : Bool} {a : Attr} {d : Payload} {e : Nat} {t : State}
    (h : Admits s b (rowReq (.mbx b) tag 0 ix sub el len table) d) (ha : attrOf ix sub = some a) (hix : ix ≠ 0x1030) (he : e ≠ 0)
    (ho : objectWrite (rowCtx s b (rowReq (.mbx b) tag 0 ix sub el len table)) s (rowField ix sub el len a d) = (e, t)) :
    ∃ i, writePlain (ctxAt s (.mbx b) (s.principal (.mbx b)) (rowReq (.mbx b) tag 0 ix sub el len table) 0 s.tod) s
      (rowReq (.mbx b) tag 0 ix sub el len table) d (roomOf (.mbx b) (rowReq (.mbx b) tag 0 ix sub el len table)) = (e, 0, t, i) := by
  have hp := h.prelim
  have hf := h.fields _ (by rw [rowWrites ha]; exact List.mem_singleton.mpr rfl)
  have hw : ∀ p, elementWrites s p (rowReq (.mbx b) tag 0 ix sub el len table) d 0 = [rowField ix sub el len a d] := fun p => rowWrites ha
  have hg := h.range
  rw [hw] at hg
  have hot := h.waits
  have hfl := rowReq_flags b tag ix sub el len table
  have hcnt := rowReq_count b tag ix sub el len table
  have hi : (rowReq (.mbx b) tag 0 ix sub el len table).index = ix := rfl
  generalize rowReq (.mbx b) tag 0 ix sub el len table = r at *
  have hm : max 1 r.count = 1 := by omega
  obtain ⟨e, rfl⟩ : ∃ n, e = n + 1 := ⟨e - 1, by omega⟩
  have hfs : objectWrites (rowCtx s b r) [rowField ix sub el len a d] s = (e + 1, t) := by
    unfold objectWrites
    rw [ho] <;> rfl
  have hnow : writeNow (rowCtx s b r) s [rowField ix sub el len a d] = (e + 1, t) := by
    unfold writeNow
    simp only [List.map_cons, List.map_nil, hf, hg, firstAbort_zeros]
    rw [if_neg (by simp), hfs]
    rfl
  have hall : writeAll (rowCtx s b r) s [rowField ix sub el len a d] = (e + 1, t) := by
    unfold writeAll
    rw [hnow]
    rfl
  have hrun : writeRun (rowCtx s b r) r d [0] s = (e + 1, 0, t) := by
    unfold writeRun
    rw [hw, hall] <;> rfl
  unfold writePlain
  simp only [wholeMix, hfl.1, Bool.false_and, Bool.false_eq_true, and_false, if_false]
  change ∃ i, (if writePrelim s (rowCtx s b r) r d (roomOf (.mbx b) r) ≠ 0 then (_, 0, s, none)
    else if r.index = 0x1030 then _
    else match writeRun (rowCtx s b r) r d (List.range (max 1 r.count)) s with
      | (b1, i, t) => (b1, i, t, writeInstant s (rowCtx s b r) r) : Nat × Nat × State × Option Nat) = (e + 1, 0, t, i)
  rw [hp, hm, hi, if_neg (by decide), if_neg hix, show List.range 1 = [0] from rfl, hrun]
  exact ⟨_, rfl⟩

theorem finish_refusedRow {s : State} {b : Nat} {r : Req} {d : Payload} {t : State} {e : Nat} (he : e ≠ 0) (hr : r.count ≤ 1) (h0 : s.role = 0)
    (hop : r.op = 2) (hg : r.group = 0) {p : Principal} {i : Option Nat}
    (hw : writePlain (ctxAt s (.mbx b) p r 0 s.tod) s r d (roomOf (.mbx b) r) = (e, 0, t, i)) :
    finish s (.mbx b) p r d 0 = reply t (.mbx b) 0 (respond r e 0 0) := by
  have hc : carryOut s (.mbx b) p r d 0 s.tod (roomOf (.mbx b) r) = ⟨respond r e 0 0, t, [], i⟩ := by
    unfold carryOut
    simp only [hop, hg, hw]
    rw [if_neg (by simp), if_neg he, if_neg (by omega)]
    simp
  unfold finish
  rw [hc]
  have : (respond r e 0 0).abort = e := rfl
  dsimp only
  rw [if_neg (by rw [this]; tauto), if_neg (by rw [h0]; decide)]

/-- A row's WRITE that the object itself refuses (R37, R49): the answer carries the abort, and only what the refusal itself does remains. -/
theorem writeRow_refused {s : State} {b tag ix sub el len : Nat} {table : Bool} {a : Attr} {d : Payload} {e : Nat} {t : State}
    (h : Admits s b (rowReq (.mbx b) tag 0 ix sub el len table) d) (ha : attrOf ix sub = some a) (hix : ix ≠ 0x1030) (he : e ≠ 0)
    (ho : objectWrite (rowCtx s b (rowReq (.mbx b) tag 0 ix sub el len table)) s (rowField ix sub el len a d) = (e, t)) :
    writeRow s (.mbx b) (rowReq (.mbx b) tag 0 ix sub el len table) d =
      reply t (.mbx b) 0 (respond (rowReq (.mbx b) tag 0 ix sub el len table) e 0 0) := by
  obtain ⟨i, hw⟩ := writePlain_refused h ha hix he ho
  rw [writeRow_enter h rfl]
  exact finish_refusedRow he (rowReq_count b tag ix sub el len table) h.solo rfl rfl hw

theorem attr_facts {ix sub : Nat} {x : Bool × Bool × EffectClass} (h : (attrOf ix sub).map (fun a => (a.counter, a.amark, a.effect)) = some x) :
    ∃ a, attrOf ix sub = some a ∧ a.counter = x.1 ∧ a.amark = x.2.1 ∧ a.effect = x.2.2 := by
  obtain ⟨a, h1, h2⟩ := Option.map_eq_some_iff.1 h
  exact ⟨a, h1, by rw [← h2], by rw [← h2], by rw [← h2]⟩

theorem attr_2101 : (attrOf 0x2101 0).map (fun a => (a.counter, a.amark, a.effect)) = some (false, false, .mixFrame) := by decide +kernel
theorem attr_2200_1 : (attrOf 0x2200 1).map (fun a => (a.counter, a.amark, a.effect)) = some (false, false, .immediate) := by decide +kernel

theorem objectWrite_2 {c : WCtx} {s : State} {w : FieldWrite} (h : w.ix / 4096 = 2) : objectWrite c s w = write2 c s w := by
  simp only [objectWrite, h]

theorem slice_num {v len : Nat} (h : v < 256 ^ min len 4096) : slice (.num v) 0 (min len 4096) = .num v := by
  simp only [slice, pow_zero, Nat.div_one]
  rw [Nat.mod_eq_of_lt h]

theorem legState_refused {s : State} {b tag l v e : Nat} (h : Admits s b (rowReq (.mbx b) tag 0 0x2101 0 l 1 true) (.num v)) (hv : v < 256)
    (hst : (s.leg l).stage ≠ .releasing) (he : e ≠ 0) (hw : legStateWrite s l v = (e, s)) :
    writeElement s (.mbx b) tag 0 0x2101 0 l 1 (.num v) =
      reply s (.mbx b) 0 (respond (rowReq (.mbx b) tag 0 0x2101 0 l 1 true) e 0 0) := by
  obtain ⟨a, ha, hc, hm, -⟩ := attr_facts attr_2101
  refine writeRow_refused h ha (by decide) he ?_
  unfold rowField
  rw [slice_num (by simpa using hv), objectWrite_2]
  · unfold write2
    have hp : legPre s 0x2101 l a.amark a.counter = 0 := by
      unfold legPre
      rw [hc, hm]
      simp [hst]
    simp only [hp, Payload.value]
    show legStateAt _ s l v = (e, s)
    unfold legStateAt
    rw [hw]
    simp [he]
  · norm_num

theorem exists_none {ix sub : Nat} (h : 0xF000 ≤ ix ∨ rowsOf ix = []) : existsAbort ix sub = 0x01010001 := by
  unfold existsAbort
  rw [if_pos (by simpa using h)]
  rfl

theorem readServe_none (s : State) (ch : Chan) (p : Principal) {r : Req} (h : 0xF000 ≤ r.index ∨ rowsOf r.index = []) :
    readServe s ch p r = (respond r 0x01010001 0 0, s) := by
  unfold readServe readAbort
  rw [exists_none h]
  rfl

theorem finish_refused {s : State} {ch : Chan} {p : Principal} {r : Req} {d : Payload} {seq a v n : Nat} (ha : a ≠ 0)
    (hc : carryOut s ch p r d seq s.tod (roomOf ch r) = ⟨respond r a v n, s, [], none⟩) :
    finish s ch p r d seq = reply s ch seq (respond r a v n) := by
  unfold finish
  rw [hc]
  have : (respond r a v n).abort = a := rfl
  dsimp only
  rw [if_neg (by rw [this]; tauto)]
  have hd : doneBodies s ⟨respond r a v n, s, [], none⟩ = [] := rfl
  rw [hd]
  congr 1
  split <;> rfl

theorem writePlain_none (c : WCtx) (s : State) {r : Req} (d : Payload) (room : Nat) (h : 0xF000 ≤ r.index ∨ rowsOf r.index = []) :
    writePlain c s r d room = (0x01010001, 0, s, none) := by
  have : ∀ c, writePrelim s c r d room = 0x01010001 := by
    intro c
    unfold writePrelim
    rw [exists_none h]
    rfl
  unfold writePlain
  simp only [this]
  rfl

theorem carryOut_none (s : State) (ch : Chan) (p : Principal) {r : Req} (d : Payload) (seq acc room : Nat)
    (h : 0xF000 ≤ r.index ∨ rowsOf r.index = []) (ho : r.op = 1 ∨ r.op = 3 ∨ (r.op = 2 ∧ r.group = 0 ∧ r.indirect = false)) :
    carryOut s ch p r d seq acc room = ⟨respond r 0x01010001 0 (if r.op = 2 ∧ 1 < r.count then 4 else 0), s, [], none⟩ := by
  unfold carryOut
  rcases ho with ho | ho | ⟨ho, hg, -⟩
  · simp only [ho, readServe_none s ch p h]
    rfl
  · simp only [ho, describeServe, exists_none h]
    rfl
  · simp only [ho, hg, writePlain_none _ s d room h]
    by_cases hc : 1 < r.count <;> simp [hc]

theorem reply_mbx_seq {ch : Chan} (h : (chanMailbox ch).isSome = true) (s : State) (q q' : Nat) (x : Resp) : reply s ch q x = reply s ch q' x := by
  cases ch
  · rfl
  · cases h
  · rfl
  · rfl

theorem indirect_mbx {ch : Chan} {r : Req} (h : messageAbort ch r = 0) (hi : r.indirect = true) :
    (chanMailbox ch).isSome = true ∧ r.op ≤ 2 := by
  unfold messageAbort at h
  simp only [hi] at h
  by_contra hn
  split at h
  · cases h
  split at h
  · cases h
  split at h
  · cases h
  split at h
  · cases h
  split at h
  · cases h
  split at h
  · cases h
  rename_i a b
  apply hn
  constructor
  · cases hm : chanMailbox ch
    · simp [hm] at b
    · rfl
  · simp at a
    omega

theorem take_none {s : State} {ch : Chan} {r : Req} (h3 : s.isProtected = false) (h4 : s.tw.requests = []) (h6 : heldBehind s ch = false)
    (h5 : 0xF000 ≤ r.index ∨ rowsOf r.index = []) (p : Principal) (d : Payload) (seq : Nat) (hm : messageAbort ch r = 0)
    (hd : dtpClosed s ch r = false) (ho : r.op = 1 ∨ r.op = 3 ∨ (r.op = 2 ∧ r.group = 0 ∧ r.indirect = false)) :
    takeRequest s ch p r d seq = reply s ch seq (respond r 0x01010001 0 (if r.op = 2 ∧ 1 < r.count then 4 else 0)) := by
  have he : enter s ch p r d seq = reply s ch seq (respond r 0x01010001 0 (if r.op = 2 ∧ 1 < r.count then 4 else 0)) := by
    unfold enter
    simp only [h3, h4, h6]
    exact finish_refused (by decide) (carryOut_none s ch p d seq s.tod _ h5 ho)
  unfold takeRequest
  simp only [hm, hd, he]
  simp only [ne_eq, not_true_eq_false, if_false, Bool.false_eq_true]
  split
  · rename_i hi
    obtain ⟨hb, hop⟩ := indirect_mbx hm hi
    unfold startTransfer
    rcases ho with ho | ho | ⟨ho, -, hn⟩
    · simp only [ho, readServe_none s ch p h5, h6, Bool.false_eq_true, and_false, if_false, if_true]
      rw [reply_mbx_seq hb s seq 0]
      rfl
    · omega
    · simp [hn] at hi
  · rfl

theorem row_none {s : State} {ch : Chan} {r : Req} {d : Payload} (h1 : s.running = true) (h2 : chanValid s ch = true) (h3 : s.isProtected = false)
    (h4 : s.tw.requests = []) (h6 : heldBehind s ch = false) (h5 : 0xF000 ≤ r.index ∨ rowsOf r.index = []) (hc : chanIsDtp ch = false) (hm : messageAbort ch r = 0)
    (ho : r.op = 1 ∨ r.op = 3 ∨ (r.op = 2 ∧ r.group = 0 ∧ r.indirect = false)) :
    rowDeliver s ch r d = reply s ch 0 (respond r 0x01010001 0 (if r.op = 2 ∧ 1 < r.count then 4 else 0)) := by
  have hd : dtpClosed s ch r = false := by
    cases ch
    · rfl
    · cases hc
    · rfl
    · rfl
  unfold rowDeliver dictDeliver
  simp only [hc, h2, h1, take_none h3 h4 h6 h5 (s.principal ch) d 0 hm hd ho]
  rfl

theorem row_told {s : State} {b tag ix sub el len : Nat} {table : Bool} {a : Attr} {d : Payload} {t u : State}
    (h : Admits s b (rowReq (.mbx b) tag 0 ix sub el len table) d) (ha : attrOf ix sub = some a) (hix : ix ≠ 0x1030)
    (ho : objectWrite (rowCtx s b (rowReq (.mbx b) tag 0 ix sub el len table)) s (rowField ix sub el len a d) = (0, t))
    (hr : recordCheck s t ix el [sub] = (0, u)) :
    Told u (writeRow s (.mbx b) (rowReq (.mbx b) tag 0 ix sub el len table) d) := by
  obtain ⟨x, e⟩ := writeRow_accepted h ha hix ho hr
  rw [e]
  exact Told.replyBox _ _ _ _

theorem objectWrite_3 {c : WCtx} {s : State} {w : FieldWrite} (h : w.ix / 4096 = 3) : objectWrite c s w = write3 c s w := by
  simp only [objectWrite, h]

theorem objectWrite_4 {c : WCtx} {s : State} {w : FieldWrite} (h : w.ix / 4096 = 4) : objectWrite c s w = write4 c s w := by
  simp only [objectWrite, h]

theorem objectWrite_5 {c : WCtx} {s : State} {w : FieldWrite} (h : w.ix / 4096 = 5) : objectWrite c s w = write5 c s w := by
  simp only [objectWrite, h]

theorem objectWrite_6 {c : WCtx} {s : State} {w : FieldWrite} (h : w.ix / 4096 = 6) : objectWrite c s w = write6 c s w := by
  simp only [objectWrite, h]

theorem objectWrite_7 {c : WCtx} {s : State} {w : FieldWrite} (h : w.ix / 4096 = 7) : objectWrite c s w = write7 c s w := by
  simp only [objectWrite, h]

theorem objectWrite_8 {c : WCtx} {s : State} {w : FieldWrite} (h : w.ix / 4096 = 8) : objectWrite c s w = write8 c s w := by
  simp only [objectWrite, h]

theorem objectWrite_A {c : WCtx} {s : State} {w : FieldWrite} (h : w.ix / 4096 = 10) : objectWrite c s w = writeA c s w := by
  simp only [objectWrite, h]

theorem objectWrite_B {c : WCtx} {s : State} {w : FieldWrite} (h : w.ix / 4096 = 11) : objectWrite c s w = writeB c s w := by
  simp only [objectWrite, h]

theorem objectWrite_C {c : WCtx} {s : State} {w : FieldWrite} (h : w.ix / 4096 = 12) : objectWrite c s w = writeC c s w := by
  simp only [objectWrite, h]

theorem objectWrite_D {c : WCtx} {s : State} {w : FieldWrite} (h : w.ix / 4096 = 13) : objectWrite c s w = writeD c s w := by
  simp only [objectWrite, h]

theorem objectWrite_E {c : WCtx} {s : State} {w : FieldWrite} (h : w.ix / 4096 = 14) : objectWrite c s w = writeE c s w := by
  simp only [objectWrite, h]

theorem legStateAt_ok {c : WCtx} {s t : State} {l v x : Nat} {st : LegStage} {base : List (Nat × LegStage)} (hn : c.now = false)
    (hw : legStateWrite s l v = (0, t)) (ht : (t.leg l).turn = base ++ [(x, st)]) :
    ∃ u, legStateAt c s l v = (0, u) ∧ u.leg l = { t.leg l with turn := base ++ [(c.mixDue, st)] } ∧ u.le.table = t.le.table := by
  unfold legStateAt
  rw [hw]
  simp only [ne_eq, not_true_eq_false, if_false, hn, Bool.false_eq_true]
  refine ⟨_, rfl, ?_, rfl⟩
  rw [State.setLeg_same, ht]
  simp

theorem attr_2200_3 : (attrOf 0x2200 3).map (fun a => (a.counter, a.amark, a.effect)) = some (false, false, .immediate) := by decide +kernel

theorem attr_2030 : (attrOf 0x2030 0).map (fun a => (a.counter, a.amark, a.effect)) = some (false, false, .immediate) := by decide +kernel

theorem attr_2310 : (attrOf 0x2310 1).map (fun a => (a.counter, a.amark, a.effect)) = some (false, false, .immediate) := by decide +kernel

theorem attr_2311 : (attrOf 0x2311 1).map (fun a => (a.counter, a.amark, a.effect)) = some (false, false, .immediate) := by decide +kernel

/-- A write of LegState that takes place: the leg's transition waits for the boundary. -/
theorem legState_row {s t : State} {b tag l v x : Nat} {st : LegStage} {base : List (Nat × LegStage)}
    (h : Admits s b (rowReq (.mbx b) tag 0 0x2101 0 l 1 true) (.num v)) (hv : v < 256) (hst : (s.leg l).stage ≠ .releasing)
    (hw : legStateWrite s l v = (0, t)) (ht : (t.leg l).turn = base ++ [(x, st)]) :
    (writeElement s (.mbx b) tag 0 0x2101 0 l 1 (.num v)).leg l = { t.leg l with turn := base ++ [(mixBoundary s.tod, st)] } ∧
      (writeElement s (.mbx b) tag 0 0x2101 0 l 1 (.num v)).le.table = t.le.table := by
  obtain ⟨a, ha, hc, hm, -⟩ := attr_facts attr_2101
  obtain ⟨u, e1, e2, e3⟩ := legStateAt_ok (c := rowCtx s b (rowReq (.mbx b) tag 0 0x2101 0 l 1 true)) rfl hw ht
  have hd : slice (.num v) 0 (min 1 4096) = .num v := by
    simp only [slice, pow_zero, Nat.div_one]
    rw [Nat.mod_eq_of_lt (by simpa using hv)]
  have ho : objectWrite (rowCtx s b (rowReq (.mbx b) tag 0 0x2101 0 l 1 true)) s (rowField 0x2101 0 l 1 a (.num v)) = (0, u) := by
    unfold rowField
    rw [hd]
    rw [objectWrite_2]
    · unfold write2
      have hp : legPre s 0x2101 l a.amark a.counter = 0 := by
        unfold legPre
        rw [hc, hm]
        simp [hst]
      simp only [hp, Payload.value]
      exact e1
    · norm_num
  have hr : recordCheck s u 0x2101 l [0] = (0, u) := by
    unfold recordCheck
    simp only [List.all_cons, List.all_nil, ha, Option.any_some, hc]
    simp [legPost]
  have k := row_told h ha (by decide) ho hr
  unfold writeElement
  constructor
  · unfold State.leg
    rw [k.le]
    exact e2
  · rw [k.le]
    exact e3

theorem turnLeg_leg (s : State) (l : Nat) (t : LegStage) :
    (s.turnLeg l t).leg l = { s.leg l with turn := (s.leg l).turn ++ [(mixBoundary s.tod, t)] } := by
  unfold State.turnLeg
  rw [State.setLeg_same]

theorem clsReserve_leg {s t : State} {l : Nat} (h : clsReserve s l = (0, t)) : t.leg l = s.leg l := by
  unfold clsReserve at h
  dsimp only at h
  generalize clsInsert s.le.seed l (s.leg l).live _ _ = p at h
  obtain ⟨a, x⟩ := p
  dsimp only at h
  split at h
  · cases h; rfl
  · cases h; rfl

/-- A row that writes an object runs its WRITE. -/
theorem exec_rowWrite {c : Instr} {s : State} {w : RowWrite} (h : rowWrite c = some w) :
    exec c s = .next (w.done (writeRow (w.start s) w.ch w.req w.data)) := by
  cases c <;> first
    | (cases h <;> rfl)
    | (simp only [rowWrite] at h
       split at h
       · rename_i k
         cases h
         show Host.Outcome.next (if _ then _ else _) = _
         rw [if_pos k] <;> rfl
       · cases h)
    | (simp only [rowWrite] at h
       split at h
       · rename_i k
         split at h
         · rename_i k2
           cases h
           show Host.Outcome.next (if _ then (if _ then _ else _) else _) = _
           rw [if_pos k, if_pos k2] <;> rfl
         · cases h
       · rename_i k
         split at h
         · rename_i k2
           cases h
           show Host.Outcome.next (if _ then (if _ then _ else _) else (if _ then _ else _)) = _
           rw [if_neg k, if_pos k2] <;> rfl
         · cases h)

theorem writeRow_answer {s : State} {b tag ix sub el len : Nat} {table : Bool} {a : Attr} {d : Payload} {t u : State}
    (h : Admits s b (rowReq (.mbx b) tag 0 ix sub el len table) d) (ha : attrOf ix sub = some a) (hix : ix ≠ 0x1030)
    (ho : objectWrite (rowCtx s b (rowReq (.mbx b) tag 0 ix sub el len table)) s (rowField ix sub el len a d) = (0, t))
    (hr : recordCheck s t ix el [sub] = (0, u)) :
    ∃ v n, writeRow s (.mbx b) (rowReq (.mbx b) tag 0 ix sub el len table) d =
      reply u (.mbx b) 0 (respond (rowReq (.mbx b) tag 0 ix sub el len table) 0 v n) := by
  obtain ⟨i, hw⟩ := writePlain_row h ha hix ho hr
  rw [writeRow_enter h rfl]
  exact ⟨_, _, finish_plain h.season h.solo rfl rfl hw⟩

theorem cf_told {s t : State} (k : Told s t) (c : Nat) : t.cf c = s.cf c := by
  unfold State.cf
  rw [k.conf]

theorem confState_row {s t : State} {b tag c v : Nat} (h : Admits s b (rowReq (.mbx b) tag 0 0x2200 1 c 1 true) (.num v)) (hv : v < 256)
    (hw : confStateWrite s c v = (0, t)) : Told t (writeElement s (.mbx b) tag 0 0x2200 1 c 1 (.num v)) := by
  obtain ⟨a, ha, hc, hm, -⟩ := attr_facts attr_2200_1
  refine row_told h ha (by decide) (t := t) ?_ ?_
  · unfold rowField
    rw [slice_num (by simpa using hv), objectWrite_2]
    · unfold write2
      simp only [isLegIndex, Payload.value, hw]
      rfl
    · norm_num
  · unfold recordCheck
    simp [ha, hc]

theorem confActivate_ok {s : State} {c : Nat} (h2 : s.rd (Obj.confState c) = 0) (h3 : (s.cf c).releasing = false)
    (h4 : s.rd (Obj.confRole c) ≠ 2) : confActivate s c = (0, ((s.setCf c ConfRt.idle).wr (Obj.confState c) 1).wr (Obj.devices c) 1) := by
  unfold confActivate
  rw [if_neg (by rw [h2]; decide), if_neg (by rw [h3]; simp), if_neg (by tauto)]
  dsimp only
  rw [if_neg h4]

theorem confFree_ok {s : State} {c : Nat} (h1 : s.rd (Obj.confState c) = 1) (h2 : s.members c = []) (h3 : s.isRemote c = false) :
    ∃ u : State, confFree s c = (0, (((u.setCf c { ConfRt.idle with releasing := true }).wr (Obj.confState c) 0).wr (Obj.joinState c) 0).wr
      (Obj.devices c) 1) := by
  unfold confFree
  rw [if_neg (by rw [h2]; simp), if_neg (by rw [h1]; decide)]
  exact ⟨_, rfl⟩

/-- A mailbox request on a device that is no twin and holds none behind goes to its operation. -/
theorem rowDeliver_mbx {s : State} {b : Nat} {r : Req} {d : Payload} (h1 : s.running = true) (h2 : b < 64) (h3 : s.role = 0)
    (h4 : s.tw.requests = []) (h5 : heldBehind s (.mbx b) = false) (hm : messageAbort (.mbx b) r = 0) (hi : r.indirect = false) :
    rowDeliver s (.mbx b) r d = finish s (.mbx b) (s.principal (.mbx b)) r d 0 := by
  have hp : s.isProtected = false := by simp [State.isProtected, h3]
  unfold rowDeliver dictDeliver takeRequest enter
  simp [chanIsDtp, chanValid, h2, h1, hm, dtpClosed, hi, h5, hp, h4]

/-- What is always carried out at once is answered at once on a device that is no twin's active. -/
theorem finish_now {s : State} {ch : Chan} {p : Principal} {r : Req} {d : Payload} {q : Nat} (h : s.role = 0)
    (hs : s.season ≠ .spring ∨ immediate r = true) :
    finish s ch p r d q = reply (carryOut s ch p r d q s.tod (roomOf ch r)).st ch q (carryOut s ch p r d q s.tod (roomOf ch r)).resp := by
  unfold finish
  dsimp only
  rw [if_neg, if_neg (by rw [h]; decide)]
  rintro ⟨a, -, -, c⟩
  rcases hs with k | k
  · exact k a
  · exact c k

/-- The messages of the group requests are sound. -/
theorem bareReq_message {b op tag g : Nat} (h : op = 4 ∧ g = 0 ∨ (op = 5 ∨ op = 6) ∧ g ≤ 64) : messageAbort (.mbx b) (bareReq op tag g) = 0 := by
  unfold messageAbort bareReq Req.shadow Req.view Req.whole Req.indirect
  dsimp only
  rcases h with ⟨rfl, rfl⟩ | ⟨rfl | rfl, h⟩
  · simp [bit]
  · simp [bit]; omega
  · simp [bit]; omega

theorem bareReq_indirect (op tag g : Nat) : (bareReq op tag g).indirect = false := by simp [bareReq, Req.indirect, bit]

/-- DESCRIBE is carried out. -/
theorem carryOut_describe {s : State} {ch : Chan} {p : Principal} {r : Req} {d : Payload} {q a room : Nat} (h : r.op = 3) :
    carryOut s ch p r d q a room = ⟨describeServe r, s, [], none⟩ := by
  simp only [carryOut, h]

/-- READ is carried out. -/
theorem carryOut_read {s : State} {ch : Chan} {p : Principal} {r : Req} {d : Payload} {q a room : Nat} (h : r.op = 1) :
    carryOut s ch p r d q a room = ⟨(readServe s ch p r).1, (readServe s ch p r).2, [], none⟩ := by
  simp only [carryOut, h]

/-- A WRITE that names a group is staged. -/
theorem carryOut_stage {s : State} {ch : Chan} {p : Principal} {r : Req} {d : Payload} {q a room : Nat} (h : r.op = 2) (hg : r.group ≠ 0) :
    carryOut s ch p r d q a room = ⟨respond r (stage s ch r d room).1 0 0, (stage s ch r d room).2, [], none⟩ := by
  simp only [carryOut, h]; rw [if_pos hg]

/-- GROUP_COMMIT of an open group. -/
theorem carryOut_commit {s : State} {ch : Chan} {p : Principal} {r : Req} {d : Payload} {q a room : Nat} {g : Group} {e n : Nat} {t : State}
    {i : Option Nat} (h : r.op = 5) (hg : groupOf s ch r.group = some g) (ha : groupApply (ctxAt s ch p r q a) s g.writes = (e, n, t, i)) :
    carryOut s ch p r d q a room = if e = 0 then ⟨respond r 0 (instantData i).1 (instantData i).2, groupClose t r.group, g.writes, i⟩
      else ⟨respond r e n 4, groupClose s r.group, [], none⟩ := by
  simp only [carryOut, h, hg, ha]

/-- GROUP_DISCARD of an open group. -/
theorem carryOut_discard {s : State} {ch : Chan} {p : Principal} {r : Req} {d : Payload} {q a room : Nat} {g : Group}
    (h : r.op = 6) (hg : groupOf s ch r.group = some g) :
    carryOut s ch p r d q a room = ⟨respond r 0 0 0, groupClose s r.group, [], none⟩ := by
  simp only [carryOut, h, hg]

/-- A READ of one value of an object that is no table, by who may read it, with room for it. -/
theorem readServe_scalar {s t : State} {ch : Chan} {p : Principal} {r : Req} {a : Attr} {v : Nat} (hp : p ≠ .peer) (h1 : r.index ≠ 0x1030)
    (h2 : r.index ≠ 0x2030) (hs : r.shadow = false) (hv : r.view = false) (hw : r.whole = false) (hc : r.count = 0) (he : r.element = 0)
    (hn : tableCount r.index = 0) (ha : attrOf r.index r.sub = some a) (hr : a.access.readable = true) (hx : existsAbort r.index r.sub = 0)
    (ho : readOne s ch r.index r.sub 0 = (v, t)) (hm : r.indirect = true ∨ a.len ≤ inlineRoom ch 8) :
    readServe s ch p r = (respond r 0 (v % 256 ^ a.len) a.len, t) := by
  have hq : a.access ≠ .rwsw := by
    intro h
    rw [h] at hr
    exact absurd hr (by decide)
  have h0 : readAbort p r = 0 := by
    unfold readAbort addressAbort mayRead
    rw [hx]
    simp [hn, hc, he, hw, hs, ha, hp, hq]
  have hd : readData s ch r = ((v % 256 ^ a.len, a.len), t) := by
    unfold readData
    rw [if_neg (by tauto), if_neg (by tauto), ha]
    simp [Req.elems, hc, readField, hv, hr, hs, ho, appendValue]
  unfold readServe
  simp only [h0, hd]
  rcases hm with h | h
  · simp [h]
  · simp [Nat.not_lt.2 h]

end Sys2Proof.Machine
end

