-- ==== Sys2Proof/Laws/Facts.lean ====
section
/-! SUPPORT. Counters, folds and conditional rows: what the statements on timed commands rest on. -/

namespace Sys2Proof.Machine

set_option linter.unusedTactic false
set_option linter.unreachableTactic false
set_option linter.unusedSimpArgs false
set_option linter.unusedVariables false
set_option linter.unnecessarySeqFocus false

theorem next_if {p : Prop} [Decidable p] {a b : State} (h : p) :
    (Host.Outcome.next (if p then a else b) : Host.Outcome State Fault Refusal) = .next a := by rw [if_pos h]

theorem rd_inc_same (s : State) (k : Nat) : (s.inc k).rd k = satAdd (s.rd k) 1 (maxOf k) := by
  unfold State.inc State.count
  rw [State.rd_wr_same]

theorem rd_inc_other (s : State) {j k : Nat} (h : j ≠ k) : (s.inc k).rd j = s.rd j := by
  unfold State.inc State.count
  rw [State.rd_wr_other _ _ h]

theorem raiseCause_ev (s : State) (b : Nat) : (s.raiseCause b).ev = s.ev := by unfold State.raiseCause withIrq; simp

theorem ringPost_ev (s : State) (r len : Nat) (i : Item) : (s.ringPost r len i).2.ev = s.ev := by
  unfold State.ringPost
  dsimp only
  split
  · rfl
  · split
    · unfold withIrq; simp
    · rfl
    · rfl

theorem ringPostLost_ev (s : State) (r len : Nat) (i : Item) : (s.ringPostLost r len i).ev = s.ev := by
  have h := ringPost_ev s r len i
  unfold State.ringPostLost
  split
  · rfl
  · split
    · simp
    · dsimp only
      split
      · rfl
      · split
        · rename_i e
          rw [e] at h
          exact h
        · rfl

theorem event_fatal (s : State) {c : Nat} (a b : Nat) (h : severityOf c = 4) : (s.event c a b).ev.fatal = some c := by
  unfold State.event
  rw [h]
  dsimp only
  generalize logStore s.ev.log _ = p
  generalize handlersRaise _ _ _ _ _ _ = q
  obtain ⟨log, d⟩ := p
  obtain ⟨r, q, w⟩ := q
  dsimp only
  have k : ∀ (t : State), t.ev.fatal = some c → ∀ (p1 p2 p3 : Prop) [Decidable p1] [Decidable p2] [Decidable p3] (r : Nat) (i : Item),
      (if p1 then t else if p2 then (if p3 then t.ringPostLost r 36 i else t).raiseCause 0 else (if p3 then t.ringPostLost r 36 i else t)).ev.fatal
        = some c := by
    intro t ht p1 p2 p3 _ _ _ r i
    split
    · exact ht
    · split
      · rw [raiseCause_ev]
        split
        · rw [ringPostLost_ev]; exact ht
        · exact ht
      · split
        · rw [ringPostLost_ev]; exact ht
        · exact ht
  apply k
  have h2 : ∀ (t : State) (b : Bool), t.ev.fatal = some c → (if b = true then t.inc Obj.nested else t).ev.fatal = some c := by
    intro t b ht
    split
    · rw [State.inc_ev]; exact ht
    · exact ht
  apply h2
  cases d
  · rfl
  · rw [State.inc_ev]; rfl

theorem foldl_field {α β : Type} (f : State → β) (g : State → α → State) (h : ∀ t a, f (g t a) = f t) (l : List α) (s : State) :
    f (l.foldl g s) = f s := by
  induction l generalizing s with
  | nil => rfl
  | cons a r ih => rw [List.foldl_cons, ih, h]

theorem coreLatch_frame (s : State) : (coreLatch s).mm = s.mm ∧ (coreLatch s).fb = s.fb := by
  unfold coreLatch
  dsimp only
  exact ⟨foldl_field State.mm _ (fun t c => by simp) _ _, foldl_field State.fb _ (fun t c => by simp) _ _⟩

theorem unitLatch_frame (s : State) : (unitLatch s).mm = s.mm ∧ (unitLatch s).fb = s.fb := by
  unfold unitLatch State.free
  exact ⟨by simp, by simp⟩

theorem mediaLatch_frame (s : State) : (mediaLatch s).mm = s.mm ∧ (mediaLatch s).fb = s.fb := by
  unfold mediaLatch
  split
  · dsimp only
    rw [(unitLatch_frame _).1, (unitLatch_frame _).2, (coreLatch_frame _).1, (coreLatch_frame _).2]
    exact ⟨foldl_field State.mm _ (fun t a => by simp) _ _, foldl_field State.fb _ (fun t a => by simp) _ _⟩
  · exact ⟨rfl, rfl⟩

theorem imageHeld_ig (s : State) (x : Integrity) (c n : Nat) : imageHeld { s with ig := x } c n = imageHeld s c n := rfl

theorem pageLatch_fb (t : State) (a : Nat) : (pageLatch t a).fb = t.fb := by
  unfold pageLatch
  simp

theorem trafficLatch_fb (t : State) (a : Nat) : (trafficLatch t a).fb = t.fb := by
  unfold trafficLatch
  simp

theorem latched_seconds (s : State) (l l2 : List Nat) :
    (List.foldl trafficLatch (List.foldl pageLatch (fabricLatch s) l) l2).fb.seconds = [] := by
  rw [foldl_field State.fb trafficLatch trafficLatch_fb, foldl_field State.fb pageLatch pageLatch_fb]
  rfl

structure Relayed (s t : State) : Prop where
  tm : t.tm = s.tm
  mono : t.mono = s.mono
  tod : t.tod = s.tod
  rd : ∀ k, k ≠ Obj.timeCounter 3 → t.rd k = s.rd k

theorem relayPtp_relayed (s : State) (p k : Nat) (b : Bool) : Relayed s (relayPtp s p k b) := by
  unfold relayPtp
  split
  · cases b
    · refine ⟨by simp, by simp, by simp, fun k hk => ?_⟩
      simp only [Bool.false_eq_true, if_false, State.rd_emit]
      exact rd_inc_other _ hk
    · refine ⟨by simp [State.free], by simp [State.free], by simp [State.free], fun k hk => ?_⟩
      simp only [if_true, State.rd_emit]
      exact rd_inc_other _ hk
  · exact ⟨rfl, rfl, rfl, fun _ _ => rfl⟩

theorem fromMaster_congr {s t : State} (m : PtpMsg) (h : t.tm.masters = s.tm.masters) (h2 : t.mono = s.mono) : fromMaster t m = fromMaster s m := by
  unfold fromMaster bestMaster
  rw [h, h2]

theorem toHoldover_facts (s : State) (e : Nat) : (toHoldover s e).rd Obj.servoState = 3 ∧ (toHoldover s e).tm.slew = 0 ∧
    (toHoldover s e).rd Obj.freqAdj = s.rd Obj.freqAdj ∧ (toHoldover s e).tm.masters = s.tm.masters ∧ (toHoldover s e).tod = s.tod := by
  unfold toHoldover
  dsimp only
  refine ⟨?_, by simp, ?_, by simp [State.setServo], by simp [State.setServo]⟩
  · rw [State.event_rd _ _ _ _ _ (by decide)]
    exact (State.rd_congr (s := s.setServo 3) rfl _).trans (State.rd_wr_same s Obj.servoState 3)
  · rw [State.event_rd _ _ _ _ _ (by decide)]
    exact (State.rd_congr (s := s.setServo 3) rfl _).trans (State.rd_wr_other s (j := Obj.freqAdj) (k := Obj.servoState) 3 (by decide))

theorem followMaster_facts (s : State) : (followMaster s).tm.masters = s.tm.masters ∧ (followMaster s).tod = s.tod := by
  unfold followMaster
  split
  · exact ⟨rfl, rfl⟩
  · dsimp only
    split
    · exact ⟨by simp, by simp⟩
    · split
      · exact ⟨(toHoldover_facts _ _).2.2.2.1.trans (by simp), (toHoldover_facts _ _).2.2.2.2.trans (by simp)⟩
      · exact ⟨by simp, by simp⟩

theorem servoRate_facts (s : State) : (servoRate s).tm = s.tm ∧ (servoRate s).tod = s.tod ∧ ∀ k, k ≠ Obj.freqAdj → (servoRate s).rd k = s.rd k := by
  unfold servoRate State.free
  dsimp only
  refine ⟨by simp, by simp, fun k hk => ?_⟩
  rw [State.rd_wr_other _ _ hk]
  rfl

theorem measured_locked {s : State} (off : Int) (h : s.servo = 2) :
    measured s off = servoRate (s.wr Obj.tmOffset (uns 32 (clip (-2147483648) 2147483647 off))) := by
  unfold measured
  simp only [h]

theorem stampDrops_hold (l : List HeldItem) (s : State) : (l.foldl (fun t h => t.stampDrop h) s).tm = s.tm :=
  foldl_field State.tm _ (fun t h => by unfold State.stampDrop; split <;> simp) l s

theorem pc_setPc (s : State) (p : Nat) (x : PcCtl) : (s.setPc p x).pc p = x := AMap.get_put_same ..

theorem pc_congr {s t : State} (h : t.mm = s.mm) (p : Nat) : t.pc p = s.pc p := by unfold State.pc; rw [h]

theorem writeUnit_list (a mask data : Nat) (l : List Nat) (hl : l.Nodup) (s : State) (x : Nat) :
    (l.foldl (fun t i => if bit mask i then t.wrByte (a + i) (BitVec.ofNat 8 (octet data i)) else t) s).rdByte x =
      if a ≤ x ∧ x - a ∈ l ∧ bit mask (x - a) then BitVec.ofNat 8 (octet data (x - a)) else s.rdByte x := by
  induction l generalizing s with
  | nil => simp
  | cons i r ih =>
    obtain ⟨hi, hr⟩ := List.nodup_cons.1 hl
    rw [List.foldl_cons, ih hr]
    by_cases hx : a ≤ x ∧ x - a ∈ r ∧ bit mask (x - a) = true
    · rw [if_pos hx, if_pos ⟨hx.1, List.mem_cons_of_mem _ hx.2.1, hx.2.2⟩]
    · rw [if_neg hx]
      by_cases hb : bit mask i = true
      · rw [if_pos hb, rdByte_wrByte]
        by_cases he : x = a + i
        · subst he
          rw [if_pos rfl, Nat.add_sub_cancel_left, if_pos ⟨by omega, List.mem_cons_self, hb⟩]
        · rw [if_neg he, if_neg]
          rintro ⟨h1, h2, h3⟩
          rcases List.mem_cons.1 h2 with h2 | h2
          · omega
          · exact hx ⟨h1, h2, h3⟩
      · rw [if_neg hb, if_neg]
        rintro ⟨h1, h2, h3⟩
        rcases List.mem_cons.1 h2 with h2 | h2
        · rw [h2] at h3; exact hb h3
        · exact hx ⟨h1, h2, h3⟩

theorem countCe_frame (s : State) (p : Nat) (b : Bool) : (countCe s p b).mm.scrub = s.mm.scrub ∧ (countCe s p b).mem = s.mem := by
  unfold countCe
  split
  · simp
  · dsimp only
    refine ⟨?_, by simp⟩
    rw [State.inc_mm]
    rfl

theorem countUe_frame (s : State) (p : Nat) : (countUe s p).mm.scrub = s.mm.scrub ∧ (countUe s p).mem = s.mem := by
  unfold countUe
  dsimp only
  refine ⟨?_, by simp⟩
  rw [State.inc_mm]
  rfl

theorem eventRated_frame (s : State) (c k a b : Nat) : (s.eventRated c k a b).mm = s.mm ∧ (s.eventRated c k a b).mem = s.mem :=
  ⟨((Told.refl s).eventRated c k a b).mm, ((Told.refl s).eventRated c k a b).mem⟩

theorem eccAt_frame (s : State) (p a : Nat) (r : EccResult) : (eccAt s p a r).mm.scrub = s.mm.scrub ∧ (eccAt s p a r).mem = s.mem := by
  unfold eccAt
  cases r
  · exact ⟨rfl, rfl⟩
  · exact countCe_frame s p false
  · exact countCe_frame s p true
  · dsimp only
    split
    · exact countUe_frame s p
    · rw [(eventRated_frame _ _ _ _ _).1, (eventRated_frame _ _ _ _ _).2]
      exact countUe_frame s p
  · dsimp only
    split
    · rw [State.event_mm, State.event_mem]
      exact countUe_frame s p
    · exact ⟨rfl, rfl⟩

theorem event_training (s u : State) (h : u.mm = s.mm) (l : List (Nat × Bool)) (c a b : Nat) :
    ((({ u with mm := { u.mm with training := l } }).event c a b).mm.training = l) ∧
      (({ u with mm := { u.mm with training := l } }).event c a b).mm.updateAt = s.mm.updateAt := by
  simp only [State.event_mm, h, and_self]

theorem retrainPc_mm (t : State) (p : Nat) :
    (if t.pcOnline p = true then (t.wr (Obj.pcState p) 1).inc (Obj.pcRetrains p) else t).mm = t.mm := by
  split
  · rw [State.inc_mm, State.wr_mm]
  · rfl

theorem retrainPcs_mm (s : State) (l : List Nat) :
    (l.foldl (fun t p => if t.pcOnline p then (t.wr (Obj.pcState p) 1).inc (Obj.pcRetrains p) else t) s).mm = s.mm :=
  foldl_field State.mm _ retrainPc_mm l s

theorem startTraining_mm (s : State) (ch : Nat) (full : Bool) :
    (startTraining s ch full).mm.training = s.mm.training ++ [(ch, full)] ∧ (startTraining s ch full).mm.updateAt = s.mm.updateAt := by
  have h := retrainPcs_mm s (channelPcs ch)
  unfold startTraining
  generalize (channelPcs ch).foldl _ s = u at h ⊢
  rw [← h]
  exact event_training u u rfl _ _ _ _

theorem stackSample_frame (s : State) (k : Nat) (x : Int) (hk : k < 2) : (stackSample s k x).rd (Obj.stackTemp k) = uns 16 x ∧
    (∀ j, j < 2 → j ≠ k → (stackSample s k x).rd (Obj.stackTemp j) = s.rd (Obj.stackTemp j)) ∧ (stackSample s k x).mem = s.mem ∧
    (100 ≤ x → k ∈ (stackSample s k x).mm.hot) ∧ (x < 100 → k ∉ (stackSample s k x).mm.hot) := by
  have kt : ∀ j, j < 2 → Obj.stackTemp j ≠ Obj.refreshDouble ∧ Obj.stackTemp j / 0x100000000 ≠ 0xE010 := by
    intro j hj
    rcases j with _ | _ | j
    · decide
    · decide
    · omega
  unfold stackSample
  dsimp only
  have h1 : ∀ j, j < 2 → (s.wr (Obj.stackTemp k) (uns 16 x)).rd (Obj.stackTemp j) = if j = k then uns 16 x else s.rd (Obj.stackTemp j) := by
    intro j hj
    split
    · rename_i e; rw [e, State.rd_wr_same]
    · rename_i e
      exact State.rd_wr_other _ _ (by unfold Obj.stackTemp key; omega)
  generalize hu : s.wr (Obj.stackTemp k) (uns 16 x) = u at h1 ⊢
  have hm : u.mem = s.mem := by rw [← hu]; simp
  clear hu
  have h2 : ∀ (p q : Prop) [Decidable p] [Decidable q] (a b : Nat), ∀ v, v = (if p then (u.wr Obj.refreshDouble a).event Ev.hbmRefreshDouble k 0
      else if q then u.wr Obj.refreshDouble b else u) → (∀ j, j < 2 → v.rd (Obj.stackTemp j) = u.rd (Obj.stackTemp j)) ∧ v.mem = u.mem := by
    intro p q _ _ a b v hv
    subst hv
    split
    · refine ⟨fun j hj => ?_, by simp⟩
      rw [State.event_rd _ _ _ _ _ (kt j hj).2, State.rd_wr_other _ _ (kt j hj).1]
    · split
      · refine ⟨fun j hj => State.rd_wr_other _ _ (kt j hj).1, by simp⟩
      · exact ⟨fun _ _ => rfl, rfl⟩
  have h3 := h2 (85 < x ∧ ¬ bit (u.rd Obj.refreshDouble) k = true) (x ≤ 83 ∧ bit (u.rd Obj.refreshDouble) k = true)
    (setBit (u.rd Obj.refreshDouble) k) (clrBit (u.rd Obj.refreshDouble) k) _ rfl
  generalize (if 85 < x ∧ ¬ bit (u.rd Obj.refreshDouble) k = true then (u.wr Obj.refreshDouble (setBit (u.rd Obj.refreshDouble) k)).event
      Ev.hbmRefreshDouble k 0 else if x ≤ 83 ∧ bit (u.rd Obj.refreshDouble) k = true then u.wr Obj.refreshDouble
      (clrBit (u.rd Obj.refreshDouble) k) else u) = v at h3 ⊢
  have fin : ∀ w : State, (∀ j, j < 2 → w.rd (Obj.stackTemp j) = v.rd (Obj.stackTemp j)) → w.mem = v.mem →
      w.rd (Obj.stackTemp k) = uns 16 x ∧ (∀ j, j < 2 → j ≠ k → w.rd (Obj.stackTemp j) = s.rd (Obj.stackTemp j)) ∧ w.mem = s.mem := by
    intro w a b
    refine ⟨?_, fun j hj hn => ?_, ?_⟩
    · rw [a k hk, h3.1 k hk, h1 k hk, if_pos rfl]
    · rw [a j hj, h3.1 j hj, h1 j hj, if_neg hn]
    · rw [b, h3.2, hm]
  split
  · rename_i hx
    split
    · rename_i hc
      obtain ⟨a, b, c⟩ := fin v (fun _ _ => rfl) rfl
      exact ⟨a, b, c, fun _ => by simpa using hc, fun h => by omega⟩
    · obtain ⟨a, b, c⟩ := fin (State.event { v with mm := { v.mm with hot := k :: v.mm.hot } } Ev.hbmHot k 0)
        (fun j hj => State.event_rd _ _ _ _ _ (kt j hj).2) (by simp)
      exact ⟨a, b, c, fun _ => by rw [State.event_mm]; exact List.mem_cons_self, fun h => by omega⟩
  · rename_i hx
    obtain ⟨a, b, c⟩ := fin { v with mm := { v.mm with hot := v.mm.hot.filter (fun j => decide (j ≠ k)) } } (fun _ _ => rfl) rfl
    exact ⟨a, b, c, fun h => by omega, fun _ hm => by simpa using (List.mem_filter.1 hm).2⟩

/-- An object the dispatcher's own work, its events and the demand it makes do not write. -/
def quietKey (k : Nat) : Prop := k / 0x10000000000 ≠ 0x75 ∧ k / 0x100000000 ≠ 0xE010 ∧ k ≠ Obj.target

/-- From `s` to `t` only the dispatcher, its objects, data prefetched into cores, the log and the season's demand change. -/
structure Kept (s t : State) : Prop where
  mono : t.mono = s.mono
  tod : t.tod = s.tod
  season : t.season = s.season
  shadow : t.shadow = s.shadow
  le : t.le = s.le
  cip : t.cip = s.cip
  conf : t.conf = s.conf
  ad : t.ad = s.ad
  vd : t.vd = s.vd
  cp : t.cp = s.cp
  en : t.en = s.en
  mm : t.mm = s.mm
  mem : t.mem = s.mem
  fb : t.fb = s.fb
  tw : t.tw = s.tw
  tm : t.tm = s.tm
  core : ∀ c, ∃ m, t.core c = { s.core c with mem := m }
  rd : ∀ k, quietKey k → t.rd k = s.rd k

theorem core_refl (s : State) : ∀ c, ∃ m, s.core c = { s.core c with mem := m } := fun c => ⟨(s.core c).mem, rfl⟩

theorem core_mt {s t : State} (h : t.mt = s.mt) : ∀ c, ∃ m, t.core c = { s.core c with mem := m } := fun c =>
  ⟨(s.core c).mem, by unfold State.core; rw [h]⟩

theorem Kept.refl (s : State) : Kept s s := by constructor <;> first | rfl | exact core_refl s | exact fun _ _ => rfl

theorem Kept.trans {s t u : State} (a : Kept s t) (b : Kept t u) : Kept s u :=
  ⟨b.mono.trans a.mono, b.tod.trans a.tod, b.season.trans a.season, b.shadow.trans a.shadow, b.le.trans a.le, b.cip.trans a.cip,
    b.conf.trans a.conf, b.ad.trans a.ad, b.vd.trans a.vd, b.cp.trans a.cp, b.en.trans a.en, b.mm.trans a.mm, b.mem.trans a.mem,
    b.fb.trans a.fb, b.tw.trans a.tw, b.tm.trans a.tm, fun c => by
      obtain ⟨m, e⟩ := a.core c
      obtain ⟨n, f⟩ := b.core c
      exact ⟨n, by rw [f, e]⟩, fun k h => (b.rd k h).trans (a.rd k h)⟩

theorem Kept.told {s t u : State} (h : Kept s t) (k : Told t u) : Kept s u :=
  h.trans ⟨k.mono, k.tod, k.season, k.shadow, k.le, k.cip, k.conf, k.ad, k.vd, k.cp, k.en, k.mm, k.mem, k.fb, k.tw, k.tm, core_mt k.mt,
    fun j hj => k.rd j hj.2.1⟩

theorem Kept.disp {s t : State} (h : Kept s t) (d : Dispatcher) : Kept s { t with disp := d } := h.trans ⟨rfl, rfl, rfl, rfl, rfl, rfl, rfl, rfl, rfl,
  rfl, rfl, rfl, rfl, rfl, rfl, rfl, core_mt rfl, fun _ _ => rfl⟩

theorem Kept.pw {s t : State} (h : Kept s t) (p : Power) : Kept s { t with pw := p } := h.trans ⟨rfl, rfl, rfl, rfl, rfl, rfl, rfl, rfl, rfl,
  rfl, rfl, rfl, rfl, rfl, rfl, rfl, core_mt rfl, fun _ _ => rfl⟩

theorem Kept.draws {s t : State} (h : Kept s t) (n : Nat) : Kept s { t with draws := n } := h.trans ⟨rfl, rfl, rfl, rfl, rfl, rfl, rfl, rfl, rfl,
  rfl, rfl, rfl, rfl, rfl, rfl, rfl, core_mt rfl, fun _ _ => rfl⟩

theorem Kept.emit {s t : State} (h : Kept s t) (o : Out) : Kept s (t.emit o) := h.trans ⟨rfl, rfl, rfl, rfl, rfl, rfl, rfl, rfl, rfl,
  rfl, rfl, rfl, rfl, rfl, rfl, rfl, core_mt rfl, fun _ _ => rfl⟩

theorem Kept.wr {s t : State} (h : Kept s t) {k : Nat} (v : Nat) (hk : ¬ quietKey k) : Kept s (t.wr k v) := h.trans (by
  constructor <;> first | exact core_mt (State.wr_mt ..) | simp | skip
  intro j hj
  exact State.rd_wr_other _ _ (fun e => hk (e ▸ hj)))

theorem Kept.inc {s t : State} (h : Kept s t) {k : Nat} (hk : ¬ quietKey k) : Kept s (t.inc k) := h.wr _ hk

theorem Kept.event {s t : State} (h : Kept s t) (c a b : Nat) : Kept s (t.event c a b) := h.told ((Told.refl t).event c a b)

theorem Kept.stage {s t : State} (h : Kept s t) (w : WorkItem) (c : Nat) : Kept s (t.stage w c) := by
  unfold State.stage
  dsimp only
  generalize bufFill _ _ _ _ _ _ = n
  refine Kept.disp ?_ _
  refine h.trans ?_
  refine ⟨rfl, rfl, rfl, rfl, rfl, rfl, rfl, rfl, rfl, rfl, rfl, rfl, rfl, rfl, rfl, rfl, fun j => ?_, fun _ _ => State.setCore_rd ..⟩
  by_cases hj : j = c
  · subst hj
    exact ⟨n, State.setCore_same ..⟩
  · exact ⟨(t.core j).mem, State.setCore_other _ _ hj⟩

theorem not_quiet_75 {k : Nat} (h : k / 0x10000000000 = 0x75) : ¬ quietKey k := fun q => q.1 h

theorem Kept.headReady {s t : State} (h : Kept s t) (w : WorkItem) : Kept s (headReady t w) := by
  unfold Sys2Proof.Machine.headReady
  dsimp only
  repeat' split
  all_goals first
    | exact (h.stage _ _).inc (not_quiet_75 (by decide))
    | exact h.disp _

theorem Kept.slotFree {s t : State} (h : Kept s t) (c : Nat) : Kept s (slotFree t c) := by
  unfold Sys2Proof.Machine.slotFree
  repeat' split
  all_goals first
    | exact h.stage _ _
    | exact h

theorem Kept.fillSlots {s : State} : ∀ (n : Nat) (t : State), Kept s t → Kept s (fillSlots n t)
  | 0, _, h => h
  | n + 1, t, h => by
    unfold Sys2Proof.Machine.fillSlots
    split
    · split
      · rename_i u e
        refine Kept.fillSlots n u ?_
        unfold fillOne at e
        rw [Option.map_eq_some_iff] at e
        obtain ⟨c, -, rfl⟩ := e
        exact h.slotFree c
      · exact h
    · exact h

theorem Kept.foldl {α : Type} {s : State} (g : State → α → State) (hg : ∀ t a, Kept s t → Kept s (g t a)) : ∀ (l : List α) (t : State),
    Kept s t → Kept s (l.foldl g t)
  | [], _, h => h
  | a :: r, t, h => Kept.foldl g hg r (g t a) (hg t a h)

theorem Kept.noCore {s t : State} (h : Kept s t) : Kept s (noCoreCheck t) := by
  unfold noCoreCheck
  exact Kept.foldl _ (fun t a ht => ht.event _ _ _) _ _ (h.disp _)

theorem Kept.status {s t : State} (h : Kept s t) : Kept s t.dispStatus := by
  unfold State.dispStatus
  dsimp only
  have k0 : Kept s (List.foldl (fun t_1 k => t_1.wr (Obj.sourceInUse k) (List.filter (fun w => decide (w.src = k)) t.disp.items).length)
      (((t.wr Obj.handlesInUse t.disp.items.length).wr Obj.readyDepth (t.disp.items.filter (fun w => decide (w.place = .ready))).length).wr
        Obj.parkedDepth (t.disp.items.filter (fun w => decide (w.place = .parked))).length) [0, 1, 2, 3]) := by
    refine (((((((h.wr _ (not_quiet_75 (by decide))).wr _ (not_quiet_75 (by decide))).wr _ (not_quiet_75 (by decide))).wr _
      (not_quiet_75 (by decide))).wr _ (not_quiet_75 (by decide))).wr _ (not_quiet_75 (by decide))).wr _ (not_quiet_75 (by decide)))
  have k1 := k0.wr (k := Obj.flowsActive) ((t.disp.items.map (fun w => w.desc.flow)).eraseDups).length (not_quiet_75 (by decide))
  generalize State.wr (List.foldl _ _ _) _ _ = u at k1 ⊢
  repeat' split
  all_goals first
    | exact (k1.wr _ (not_quiet_75 (by decide))).inc (not_quiet_75 (by decide))
    | exact ((k1.wr _ (not_quiet_75 (by decide))).inc (not_quiet_75 (by decide))).event _ _ _
    | exact k1.wr _ (not_quiet_75 (by decide))

theorem Kept.settle {s t : State} (h : Kept s t) : Kept s t.settle := ((Kept.fillSlots _ _ h).noCore).status

theorem Kept.demand {s t : State} (h : Kept s t) : Kept s t.demand := by
  have ht : ¬ quietKey Obj.target := fun q => q.2.2 rfl
  unfold State.demand
  dsimp only
  repeat' split
  all_goals first
    | exact (h.wr _ ht).pw _
    | exact h.pw _
    | exact h.wr _ ht
    | exact h

theorem Kept.refusePost {s t : State} (h : Kept s t) (src : Nat) (d : Descriptor) : Kept s (refusePost t src d) := by
  have k := h.inc (k := Obj.dispatchCounter 0) (not_quiet_75 (by decide))
  unfold Sys2Proof.Machine.refusePost
  dsimp only
  split
  · split
    · rename_i e
      exact k.told (pushRecord_told e)
    · exact k.disp _
  · exact k.emit _

/-- A job whose acceptance hands nothing out. -/
def plainJob (j : Job) : Prop := ∀ s d, acceptJob s d j = (j, s)

theorem Kept.tryPost {s t : State} (h : Kept s t) (src : Nat) (d : Descriptor) {job : Job} (hj : plainJob job) :
    Kept s (tryPost t src d job).2 := by
  unfold Sys2Proof.Machine.tryPost
  split
  · exact h.refusePost src d
  · split
    · exact h
    · rw [hj t d]
      have hd : Kept s (t.choose 65536).2 := h.draws _
      dsimp only
      generalize t.choose 65536 = p at hd ⊢
      obtain ⟨c, s0⟩ := p
      dsimp only at hd ⊢
      split
      · exact ((hd.disp _).headReady _).settle.demand
      · exact (hd.disp _).settle.demand

theorem Kept.post {s t : State} (h : Kept s t) (src : Nat) (d : Descriptor) {job : Job} (hj : plainJob job) : Kept s (t.post src d job) := by
  unfold State.post
  split
  · exact h.disp _
  · have k := h.tryPost src d hj
    split
    · rename_i e
      rw [e] at k
      exact (k.disp _).inc (not_quiet_75 (by decide))
    · rename_i e
      rw [e] at k
      exact k

theorem cf_conf {s t : State} (h : t.conf = s.conf) (c : Nat) : t.cf c = s.cf c := by unfold State.cf; rw [h]

theorem leg_le {s t : State} (h : t.le = s.le) (l : Nat) : t.leg l = s.leg l := by unfold State.leg; rw [h]

theorem postEncodes_kept (s : State) (c n : Nat) : Kept s (postEncodes s c n) := by
  unfold postEncodes
  exact Kept.foldl _ (fun t l h => h.post _ _ (fun _ _ => rfl)) _ _ (Kept.refl s)

theorem tapFeed_conf (s : State) (b : Bool) (i j n : Nat) (x : List Int) (v : Bool) :
    (tapFeed s b i j n x v).conf = s.conf ∧ (tapFeed s b i j n x v).le = s.le ∧ (tapFeed s b i j n x v).mem = s.mem := ⟨rfl, rfl, rfl⟩

theorem eventRated_conf (s : State) (c k a b : Nat) : (s.eventRated c k a b).conf = s.conf ∧ (s.eventRated c k a b).le = s.le :=
  ⟨((Told.refl s).eventRated c k a b).conf, ((Told.refl s).eventRated c k a b).le⟩

theorem markSv_conf (s : State) (f : Nat) : (s.markSv f).conf = s.conf ∧ (s.markSv f).le = s.le ∧ (s.markSv f).mem = s.mem := by
  unfold State.markSv
  split <;> simp

theorem memberMix_conf (s : State) (c n : Nat) (v : Bool) (m g : Gain) (a p o : List Int) (l : Nat) :
    (memberMix s c n v m g a p o l).conf = s.conf := by
  unfold memberMix
  dsimp only
  split <;> simp

/-- A conference's record as forming a mix leaves it. -/
def mixedCf (s : State) (c n : Nat) (viaReturn : Bool) (sum p : List Int) : ConfRt :=
  let f := s.cf c
  let master := f.master.aim (s.rd (Obj.masterGain c) * 1024) (s.rampSamples c)
  let g := (if viaReturn then f.g else f.gLocal).aim (s.gTarget c n) (s.rampSamples c)
  let f1 := { f with master := master.step frameSamples, clipped := (mixOut master g sum p).2 }
  if viaReturn then { f1 with g := g.step frameSamples, common := (mixOut master g sum p).1 }
    else { f1 with gLocal := g.step frameSamples, localCommon := (mixOut master g sum p).1 }

theorem formMix_conf (s : State) (c n : Nat) (v : Bool) (a p : List Int) :
    (formMix s c n v a p).conf = (s.setCf c (mixedCf s c n v a p)).conf := by
  unfold formMix
  dsimp only
  refine (apply_ite State.conf _ _ _).trans ?_
  rw [(markSv_conf _ _).1, (eventRated_conf _ _ _ _ _).1, ite_self]
  refine (foldl_field State.conf _ (fun t l => by split <;> simp) _ _).trans ?_
  refine (apply_ite State.conf _ _ _).trans ?_
  rw [State.inc_conf, ite_self]
  refine (foldl_field State.conf _ (fun t l => memberMix_conf ..) _ _).trans ?_
  rfl

/-- What forming a mix leaves of a conference's record. -/
theorem formMix_cf (s : State) (c n : Nat) (v : Bool) (a p : List Int) :
    ((formMix s c n v a p).cf c).lateRun = (s.cf c).lateRun ∧ ((formMix s c n v a p).cf c).waiting = (s.cf c).waiting ∧
    ((formMix s c n v a p).cf c).frame = (s.cf c).frame ∧ ((formMix s c n v a p).cf c).n = (s.cf c).n ∧
    ((formMix s c n v a p).cf c).ownN = (s.cf c).ownN := by
  rw [cf_conf (formMix_conf s c n v a p), State.setCf_same]
  unfold mixedCf
  cases v <;> exact ⟨rfl, rfl, rfl, rfl, rfl⟩

theorem mixSelect_frame (s : State) (c n : Nat) : ((mixSelect s c n).2.cf c).frame = n + 1 := by
  unfold mixSelect
  dsimp only
  have hp : ∀ (u : State) (sel : List Cand) (a b : Bool), (publishSpeaker u c n sel a b).conf = u.conf := by
    intro u sel a b
    unfold publishSpeaker
    dsimp only
    split
    · rw [((Told.refl _).ringPostLost _ _ _).conf]
      simp
    · simp
  rw [cf_conf (State.count_conf _ _ _), cf_conf (hp _ _ _ _), State.cf_wr, State.setCf_same]

theorem routeTo_conf (s : State) (l : Nat) (x : PathSrc) : (routeTo s l x).conf = s.conf := by
  unfold routeTo
  dsimp only
  split <;> simp

theorem setLocalMix_cf (s : State) (c : Nat) (on : Bool) : (setLocalMix s c on).cf c = { s.cf c with localMix := on } := by
  unfold setLocalMix
  split
  · rename_i h
    rw [← h]
  · dsimp only
    rw [cf_conf (foldl_field State.conf _ (fun t l => by unfold followRoute; split; exact routeTo_conf ..; rfl) _ _), State.setCf_same]

theorem remoteLocal_cf (s : State) (c n : Nat) (p : List Int) :
    ((remoteLocal s c n p).cf c).lateRun = (s.cf c).lateRun ∧ ((remoteLocal s c n p).cf c).waiting = none := by
  unfold remoteLocal
  dsimp only
  rw [cf_conf (postEncodes_kept _ c n).conf, (formMix_cf _ _ _ _ _ _).1, (formMix_cf _ _ _ _ _ _).2.1, State.cf_wr, State.setCf_same]
  refine ⟨?_, rfl⟩
  rw [setLocalMix_cf]

theorem formOutput_leg (s : State) (l n : Nat) : ((formOutput s l n).leg l).outHold = (s.leg l).outHold ∧ (formOutput s l n).mem = s.mem := by
  unfold formOutput
  dsimp only
  have hs : ∀ (b : Bool) (v : State) (k e c f : Nat), (if b = true then ((v.inc k).eventRated e c c 0).markSv f else v).le = v.le ∧
      (if b = true then ((v.inc k).eventRated e c c 0).markSv f else v).mem = v.mem := by
    intro b v k e c f
    cases b
    · exact ⟨rfl, rfl⟩
    · exact ⟨(markSv_conf _ _).2.1.trans (((Told.refl _).eventRated _ _ _ _).le.trans (State.inc_le ..)),
        (markSv_conf _ _).2.2.trans (((Told.refl _).eventRated _ _ _ _).mem.trans (State.inc_mem ..))⟩
  constructor
  · rw [leg_le (tapFeed_conf _ _ _ _ _ _ _).2.1, leg_le (hs _ _ _ _ _ _).1, leg_le (State.count_le _ _ _), State.setLeg_same]
  · rw [(tapFeed_conf _ _ _ _ _ _ _).2.2, (hs _ _ _ _ _ _).2, State.count_mem, State.setLeg_mem]

theorem setRxE_idle_list (l : Nat) (es : List Nat) : ∀ (s : State) (e : Nat), e ∈ es ∨ s.rxE l e = RxEntry.idle →
    (es.foldl (fun t e => t.setRxE l e RxEntry.idle) s).rxE l e = RxEntry.idle := by
  induction es with
  | nil => intro s e h; simpa using h
  | cons a r ih =>
    intro s e h
    refine ih _ e ?_
    by_cases ha : e = a
    · right
      subst ha
      exact State.setRxE_same ..
    · rcases h with h | h
      · left
        exact (List.mem_cons.1 h).resolve_left ha
      · right
        refine Eq.trans ?_ h
        show AMap.get RxEntry.idle _ (AMap.put RxEntry.idle _ RxEntry.idle s.le.rx) = _
        exact AMap.get_put_other _ _ _ _ (by omega)

theorem protect_rd (s : State) (p : OutPkt) {k : Nat} (h : k / 0x100000000 ≠ 0xE010) : (s.protect p).rd k = s.rd k := by
  unfold State.protect
  split
  · exact State.rd_congr rfl _
  · split
    · unfold State.enqueue
      split
      · rfl
      · exact ((Told.refl s).push _ _ _).rd k h
    · exact State.rd_congr rfl _

theorem sendRtcp_rd (s : State) (l : Nat) (ps : List RtcpPart) (n : Nat) {k : Nat} (h : k / 0x100000000 ≠ 0xE010)
    (h1 : k ≠ Obj.exhausted l) (h2 : k ≠ Obj.rtcpTx l) : (s.sendRtcp l ps n).rd k = s.rd k := by
  unfold State.sendRtcp
  dsimp only
  split
  · rfl
  · split
    · rfl
    · rw [protect_rd _ _ h, rd_inc_other _ h2]
      split
      · rw [State.event_rd _ _ _ _ _ h, State.rd_wr_other _ _ h1]
        rfl
      · rfl

theorem sendReport_rd (s : State) (l : Nat) {k : Nat} (h : k / 0x100000000 ≠ 0xE010)
    (h1 : k ≠ Obj.exhausted l) (h2 : k ≠ Obj.rtcpTx l) : (s.sendReport l).rd k = s.rd k := by
  unfold State.sendReport
  rw [foldl_field (fun t => t.rd k) (fun t e => markReported t l e) (fun t e => rfl)]
  exact sendRtcp_rd _ _ _ _ h h1 h2

theorem newEpoch_facts (s : State) (k : Nat) : (newEpoch s k).rd (Obj.kGen k) = (s.rd (Obj.kGen k) + 1) % 65536 ∧
    (newEpoch s k).mem = s.mem ∧ (newEpoch s k).cip.material = s.cip.material := by
  unfold newEpoch
  refine ⟨?_, by simp, by simp⟩
  dsimp only
  refine (State.rd_congr (s := s.wr (Obj.kGen k) ((s.rd (Obj.kGen k) + 1) % 65536)) rfl _).trans ?_
  exact State.rd_wr_same ..

theorem keyPresent_facts (s : State) (j : CipherJob) : (keyPresent s j).dict = s.dict ∧ (keyPresent s j).cip = s.cip := by
  unfold keyPresent
  split
  · exact ⟨rfl, rfl⟩
  · dsimp only
    split <;> split <;> simp

theorem coreRetire_facts (s : State) (k : Nat) : (coreRetire s k).cCore k = ⟨true, none⟩ ∧ (coreRetire s k).cip.waiting = s.cip.waiting ∧
    (coreRetire s k).rd Obj.coresRetired = setBit (s.rd Obj.coresRetired) k := by
  unfold coreRetire
  dsimp only
  have e : ∀ (u : State) (p : Prop) [Decidable p], (if p then u.event Ev.cipherUnavailable 0 0 else u).cCore k = u.cCore k ∧
      (if p then u.event Ev.cipherUnavailable 0 0 else u).cip.waiting = u.cip.waiting ∧
      (if p then u.event Ev.cipherUnavailable 0 0 else u).rd Obj.coresRetired = u.rd Obj.coresRetired := by
    intro u p _
    split
    · exact ⟨by simp, by simp, State.event_rd _ _ _ _ _ (by decide)⟩
    · exact ⟨rfl, rfl, rfl⟩
  refine ⟨(e _ _).1.trans (by simp), (e _ _).2.1.trans (by simp), (e _ _).2.2.trans ?_⟩
  rw [State.event_rd _ _ _ _ _ (by decide), State.rd_wr_other _ _ (by decide), State.rd_wr_same]

end Sys2Proof.Machine
end

