-- ==== Sys2Proof/Laws/Keeps/Maten.lean ====
section
/-! SUPPORT. What the operations of Machine/Maten.lean keep: the invariants of Keeps, one lemma per definition. -/

namespace Sys2Proof.Machine

set_option linter.unusedTactic false
set_option linter.unreachableTactic false
set_option linter.unusedSimpArgs false
set_option linter.unusedVariables false

theorem keeps_commitBundle {σ : State} (s : State) (c : Nat) (b : Bundle) (h_s : Keeps σ s) :
    Keeps σ (commitBundle s c b) := by
  unfold commitBundle
  repeat' (first | with_reducible assumption | split | (fail_if_no_progress refine Keeps.upd ?_ rfl))

theorem keeps_issue {s0 : State} (s : State) (c : Nat) (p : Bool) (f : State → MatenCore → Regs → IRes)
    (h_f : ∀ t k r, Keeps s0 t → IRes.keeps s0 (f t k r)) (h_s : Keeps s0 s) : Keeps s0 (issue s c p f) := by
  unfold issue
  simp only []
  split
  · exact h_s
  · split
    · exact h_s
    · split
      · rename_i e
        have h2 := Keeps.draw ((congrArg (IRes.keeps s0) e).mp (h_f s _ _ h_s))
        exact Keeps.ite (keeps_State_setCore _ _ _ h2) (keeps_State_setCore _ _ _ (keeps_commitBundle _ _ _ h2))
      · exact keeps_State_setCore _ _ _ h_s
      · exact h_s

theorem keeps_macInstr {σ : State} (w : Nat) (s : State) (k : MatenCore) (src : Regs) (h_s : Keeps σ s) :
    IRes.keeps σ (macInstr w s k src) := by
  unfold macInstr
  repeat' (first | with_reducible assumption | exact trivial | with_reducible apply IRes.keeps_ok | split)

theorem keeps_macIssue {σ : State} (s : State) (c op w : Nat) (h_s : Keeps σ s) :
    Keeps σ (macIssue s c op w) := by
  unfold macIssue
  repeat' (first
    | with_reducible assumption
    | with_reducible apply Keeps.ite
    | with_reducible apply keeps_issue
    | with_reducible apply keeps_macInstr)

theorem keeps_acsInstr {σ : State} (w : Nat) (s : State) (k : MatenCore) (src : Regs) (h_s : Keeps σ s) :
    IRes.keeps σ (acsInstr w s k src) := by
  unfold acsInstr
  repeat' (first | with_reducible assumption | exact trivial | with_reducible apply IRes.keeps_ok | split)

theorem keeps_staInstr {σ : State} (n : Nat) (form : StaForm) (s : State) (k : MatenCore) (src : Regs) (h_s : Keeps σ s) :
    IRes.keeps σ (staInstr n form s k src) := by
  unfold staInstr
  repeat' (first | with_reducible assumption | exact trivial | with_reducible apply IRes.keeps_ok | split)

theorem keeps_ldInstr {σ : State} (c : Nat) (form : LdForm) (s : State) (k : MatenCore) (src : Regs) (h_s : Keeps σ s) :
    IRes.keeps σ (ldInstr c form s k src) := by
  unfold ldInstr
  repeat' (first | with_reducible assumption | exact trivial | with_reducible apply IRes.keeps_ok | split)

theorem keeps_stInstr {σ : State} (form : StForm) (s : State) (k : MatenCore) (src : Regs) (h_s : Keeps σ s) :
    IRes.keeps σ (stInstr form s k src) := by
  unfold stInstr
  repeat' (first | with_reducible assumption | exact trivial | with_reducible apply IRes.keeps_ok | split)

theorem keeps_loopInstr {σ : State} (lvl : Nat) (count : BitVec 24) (stop : BitVec 20) (s : State) (k : MatenCore) (_src : Regs) (h_s : Keeps σ s) :
    IRes.keeps σ (loopInstr lvl count stop s k _src) := by
  unfold loopInstr
  repeat' (first
    | with_reducible assumption
    | exact trivial
    | with_reducible apply IRes.keeps_ok
    | ((try lift_lets); intro x; try unfold x)
    | split)

theorem keeps_breakInstr {σ : State} (s : State) (k : MatenCore) (_src : Regs) (h_s : Keeps σ s) :
    IRes.keeps σ (breakInstr s k _src) := by
  unfold breakInstr
  repeat' (first | with_reducible assumption | with_reducible apply IRes.keeps_ok)

theorem keeps_branchInstr {σ : State} (form : BranchForm) (target : BitVec 20) (s : State) (k : MatenCore) (_src : Regs) (h_s : Keeps σ s) :
    IRes.keeps σ (branchInstr form target s k _src) := by
  unfold branchInstr
  repeat' (first | with_reducible assumption | with_reducible apply IRes.keeps_ok | ((try lift_lets); intro x; try unfold x) | split)

theorem keeps_retiInstr {σ : State} (s : State) (k : MatenCore) (_src : Regs) (h_s : Keeps σ s) :
    IRes.keeps σ (retiInstr s k _src) := by
  unfold retiInstr
  repeat' (first | with_reducible assumption | with_reducible apply IRes.keeps_ok)

theorem keeps_State_wrByte {s0 : State} (s : State) (a : Nat) (v : BitVec 8) (h_s : Keeps s0 s) : Keeps s0 (s.wrByte a v) :=
  Keeps.setMem h_s _ (fun h => AMap.wf_put (f := fun _ => (0 : BitVec 8)) h)

theorem keeps_State_wrWord32 {σ : State} (s : State) (a : Nat) (v : BitVec 32) (h_s : Keeps σ s) :
    Keeps σ (State.wrWord32 s a v) := by
  unfold State.wrWord32
  repeat' (first | with_reducible assumption | with_reducible apply keeps_State_wrByte)

theorem keeps_State_heal {σ : State} (s : State) (a n : Nat) (h_s : Keeps σ s) :
    Keeps σ (State.heal s a n) := by
  unfold State.heal
  repeat' (first | with_reducible assumption | (fail_if_no_progress refine Keeps.upd ?_ rfl))

theorem keeps_dmaInstr {σ : State} (write : Bool) (loc pairReg words : Nat) (s : State) (k : MatenCore) (src : Regs) (h_s : Keeps σ s) :
    IRes.keeps σ (dmaInstr write loc pairReg words s k src) := by
  unfold dmaInstr
  repeat' (first
    | with_reducible assumption
    | exact trivial
    | with_reducible apply IRes.keeps_ok
    | ((try lift_lets); intro x; try unfold x)
    | split)

theorem keeps_dmaWaitInstr {σ : State} (n : Nat) (s : State) (k : MatenCore) (_src : Regs) (h_s : Keeps σ s) :
    IRes.keeps σ (dmaWaitInstr n s k _src) := by
  unfold dmaWaitInstr
  repeat' (first | with_reducible assumption | with_reducible apply IRes.keeps_ok | split)

theorem keeps_dmaMove {s0 : State} (d : CoreDma) (n i : Nat) (ks : MatenCore × State) (h : Keeps s0 ks.2) :
    Keeps s0 (dmaMove d n i ks).2 := by
  induction n generalizing i ks with
  | zero => exact h
  | succ n ih =>
    obtain ⟨k, s⟩ := ks
    unfold dmaMove
    split
    · exact ih _ _ (keeps_State_wrWord32 _ _ _ h)
    · exact ih _ _ h

theorem keeps_dmaDone {σ : State} (s : State) (c i : Nat) (h_s : Keeps σ s) :
    Keeps σ (dmaDone s c i) := by
  unfold dmaDone
  repeat' (first
    | with_reducible assumption
    | with_reducible apply keeps_State_setCore
    | with_reducible apply keeps_State_heal
    | with_reducible apply keeps_dmaMove
    | ((try lift_lets); intro x; try unfold x)
    | split)

theorem keeps_startItem {σ : State} (s : State) (c : Nat) (h_s : Keeps σ s) :
    Keeps σ (startItem s c) := by
  unfold startItem
  repeat' (first
    | with_reducible assumption
    | with_reducible apply keeps_State_setCore
    | with_reducible apply keeps_headReady
    | with_reducible apply keeps_State_settle
    | with_reducible apply keeps_State_enterService
    | ((try lift_lets); intro x; try unfold x)
    | split)

theorem keeps_flagItem {σ : State} (s : State) (c : Nat) (h_s : Keeps σ s) :
    Keeps σ (flagItem s c) := by
  unfold flagItem
  repeat' (first | with_reducible assumption | with_reducible apply Keeps.ite | with_reducible apply keeps_State_inc)

theorem keeps_finishItem {σ : State} (s : State) (c : Nat) (w : WorkItem) (status result : Nat) (h_s : Keeps σ s) :
    Keeps σ (finishItem s c w status result) := by
  unfold finishItem
  repeat' (first | with_reducible assumption | with_reducible apply keeps_State_complete | with_reducible apply keeps_flagItem)

theorem keeps_endItem {σ : State} (s : State) (c : Nat) (w : WorkItem) (status : Nat) (h_s : Keeps σ s) :
    Keeps σ (endItem s c w status) := by
  unfold endItem
  repeat' (first
    | with_reducible assumption
    | with_reducible apply Keeps.ite
    | with_reducible apply keeps_finishItem
    | (fail_if_no_progress refine Keeps.upd ?_ rfl))

theorem keeps_faultItem {σ : State} (s : State) (c : Nat) (h_s : Keeps σ s) :
    Keeps σ (faultItem s c) := by
  unfold faultItem
  repeat' (first
    | with_reducible assumption
    | with_reducible apply keeps_State_inc
    | with_reducible apply keeps_State_eventRated
    | with_reducible apply keeps_endItem
    | split)

theorem keeps_enterHandler {σ : State} (s : State) (c : Nat) (src : IntSource) (vector : Nat) (h_s : Keeps σ s) :
    Keeps σ (enterHandler s c src vector) := by
  unfold enterHandler
  repeat' (first | with_reducible assumption | with_reducible apply keeps_State_setCore)

theorem keeps_retireCore {σ : State} (s : State) (c : Nat) (h_s : Keeps σ s) :
    Keeps σ (retireCore s c) := by
  unfold retireCore
  repeat' (first
    | with_reducible assumption
    | with_reducible apply keeps_State_inc
    | with_reducible apply keeps_State_event
    | with_reducible apply keeps_coreOnlineWrite
    | with_reducible apply keeps_endItem
    | split
    | (fail_if_no_progress refine Keeps.upd ?_ rfl))

theorem keeps_faultEntry {σ : State} (s : State) (c : Nat) (h_s : Keeps σ s) :
    Keeps σ (faultEntry s c) := by
  unfold faultEntry
  repeat' (first
    | with_reducible assumption
    | with_reducible apply Keeps.ite
    | with_reducible apply keeps_faultItem
    | with_reducible apply keeps_enterHandler)

theorem keeps_interruptEntry {σ : State} (s : State) (c : Nat) (src : IntSource) (h_s : Keeps σ s) :
    Keeps σ (interruptEntry s c src) := by
  unfold interruptEntry
  repeat' (first
    | with_reducible assumption
    | with_reducible apply keeps_State_setCore
    | with_reducible apply keeps_enterHandler
    | with_reducible apply keeps_retireCore
    | with_reducible apply keeps_faultEntry
    | ((try lift_lets); intro x; try unfold x)
    | split)

theorem keeps_execWorkItemStart {σ : State} (c : Nat) (s : State) (h_s : Keeps σ s) :
    Keeps.outcome σ (execWorkItemStart c s) := by
  unfold execWorkItemStart
  repeat' (first
    | with_reducible assumption
    | with_reducible apply Keeps.ite
    | with_reducible apply keeps_startItem
    | with_reducible apply Keeps.outcome_next)

theorem keeps_execWorkItemComplete {σ : State} (c cycles result : Nat) (s : State) (h_s : Keeps σ s) :
    Keeps.outcome σ (execWorkItemComplete c cycles result s) := by
  unfold execWorkItemComplete
  repeat' (first
    | with_reducible assumption
    | with_reducible apply Keeps.ite
    | with_reducible apply keeps_State_setCore
    | with_reducible apply keeps_finishItem
    | with_reducible apply Keeps.outcome_next
    | split)

theorem keeps_execRunLimitExpiry {σ : State} (c : Nat) (s : State) (h_s : Keeps σ s) :
    Keeps.outcome σ (execRunLimitExpiry c s) := by
  unfold execRunLimitExpiry
  repeat' (first
    | with_reducible assumption
    | with_reducible apply keeps_State_inc
    | with_reducible apply keeps_State_event
    | with_reducible apply keeps_State_setCore
    | with_reducible apply keeps_endItem
    | with_reducible apply Keeps.outcome_next
    | split)

theorem keeps_execMpy {σ : State} (c : Nat) (w : Word) (s : State) (h_s : Keeps σ s) :
    Keeps.outcome σ (execMpy c w s) := by
  unfold execMpy
  repeat' (first | with_reducible assumption | with_reducible apply keeps_macIssue | with_reducible apply Keeps.outcome_next)

theorem keeps_execMac {σ : State} (c : Nat) (w : Word) (s : State) (h_s : Keeps σ s) :
    Keeps.outcome σ (execMac c w s) := by
  unfold execMac
  repeat' (first | with_reducible assumption | with_reducible apply keeps_macIssue | with_reducible apply Keeps.outcome_next)

theorem keeps_execMacsh {σ : State} (c : Nat) (w : Word) (s : State) (h_s : Keeps σ s) :
    Keeps.outcome σ (execMacsh c w s) := by
  unfold execMacsh
  repeat' (first | with_reducible assumption | with_reducible apply keeps_macIssue | with_reducible apply Keeps.outcome_next)

theorem keeps_execRnda {σ : State} (c : Nat) (w : Word) (s : State) (h_s : Keeps σ s) :
    Keeps.outcome σ (execRnda c w s) := by
  unfold execRnda
  repeat' (first | with_reducible assumption | with_reducible apply keeps_macIssue | with_reducible apply Keeps.outcome_next)

theorem keeps_execClr {σ : State} (c : Nat) (w : Word) (s : State) (h_s : Keeps σ s) :
    Keeps.outcome σ (execClr c w s) := by
  unfold execClr
  repeat' (first | with_reducible assumption | with_reducible apply keeps_macIssue | with_reducible apply Keeps.outcome_next)

theorem keeps_execAcs {σ : State} (c : Nat) (w : Word) (s : State) (h_s : Keeps σ s) :
    Keeps.outcome σ (execAcs c w s) := by
  unfold execAcs
  repeat' (first
    | with_reducible assumption
    | with_reducible apply Keeps.ite
    | with_reducible apply keeps_issue
    | with_reducible apply keeps_acsInstr
    | with_reducible apply Keeps.outcome_next)

theorem keeps_execLoopOp {σ : State} (c : Nat) (p : Bool) (lvl : Nat) (count : BitVec 24) (stop : BitVec 20) (s : State) (h_s : Keeps σ s) :
    Keeps.outcome σ (execLoopOp c p lvl count stop s) := by
  unfold execLoopOp
  repeat' (first
    | with_reducible assumption
    | with_reducible apply Keeps.ite
    | with_reducible apply keeps_issue
    | with_reducible apply keeps_loopInstr
    | with_reducible apply Keeps.outcome_next)

theorem keeps_execBreakOp {σ : State} (c : Nat) (p : Bool) (s : State) (h_s : Keeps σ s) :
    Keeps.outcome σ (execBreakOp c p s) := by
  unfold execBreakOp
  repeat' (first
    | with_reducible assumption
    | with_reducible apply Keeps.ite
    | with_reducible apply keeps_issue
    | with_reducible apply keeps_breakInstr
    | with_reducible apply Keeps.outcome_next)

theorem keeps_execReti {σ : State} (c : Nat) (s : State) (h_s : Keeps σ s) :
    Keeps.outcome σ (execReti c s) := by
  unfold execReti
  repeat' (first
    | with_reducible assumption
    | with_reducible apply Keeps.ite
    | with_reducible apply keeps_issue
    | with_reducible apply keeps_retiInstr
    | with_reducible apply Keeps.outcome_next)

theorem keeps_execEndOp {σ : State} (c : Nat) (s : State) (h_s : Keeps σ s) :
    Keeps.outcome σ (execEndOp c s) := by
  unfold execEndOp
  repeat' (first
    | with_reducible assumption
    | with_reducible apply Keeps.ite
    | with_reducible apply keeps_issue
    | with_reducible apply Keeps.outcome_next
    | refine fun _ => ?_
    | (fail_if_no_progress refine Keeps.upd ?_ rfl))

theorem keeps_execDmar {σ : State} (c : Nat) (p : Bool) (loc r words : Nat) (s : State) (h_s : Keeps σ s) :
    Keeps.outcome σ (execDmar c p loc r words s) := by
  unfold execDmar
  repeat' (first
    | with_reducible assumption
    | with_reducible apply Keeps.ite
    | with_reducible apply keeps_issue
    | with_reducible apply keeps_dmaInstr
    | with_reducible apply Keeps.outcome_next)

theorem keeps_execDmaw {σ : State} (c : Nat) (p : Bool) (loc r words : Nat) (s : State) (h_s : Keeps σ s) :
    Keeps.outcome σ (execDmaw c p loc r words s) := by
  unfold execDmaw
  repeat' (first
    | with_reducible assumption
    | with_reducible apply Keeps.ite
    | with_reducible apply keeps_issue
    | with_reducible apply keeps_dmaInstr
    | with_reducible apply Keeps.outcome_next)

theorem keeps_execDmawait {σ : State} (c : Nat) (p : Bool) (n : Nat) (s : State) (h_s : Keeps σ s) :
    Keeps.outcome σ (execDmawait c p n s) := by
  unfold execDmawait
  repeat' (first
    | with_reducible assumption
    | with_reducible apply Keeps.ite
    | with_reducible apply keeps_issue
    | with_reducible apply keeps_dmaWaitInstr
    | with_reducible apply Keeps.outcome_next)

theorem keeps_execDmaTransferComplete {σ : State} (c i : Nat) (s : State) (h_s : Keeps σ s) :
    Keeps.outcome σ (execDmaTransferComplete c i s) := by
  unfold execDmaTransferComplete
  repeat' (first
    | with_reducible assumption
    | with_reducible apply Keeps.ite
    | with_reducible apply keeps_dmaDone
    | with_reducible apply Keeps.outcome_next)

theorem keeps_execInterruptEntry {σ : State} (c : Nat) (src : IntSource) (s : State) (h_s : Keeps σ s) :
    Keeps.outcome σ (execInterruptEntry c src s) := by
  unfold execInterruptEntry
  repeat' (first
    | with_reducible assumption
    | with_reducible apply Keeps.ite
    | with_reducible apply keeps_interruptEntry
    | with_reducible apply Keeps.outcome_next)

theorem keeps_execTmrMatch {σ : State} (c : Nat) (s : State) (h_s : Keeps σ s) :
    Keeps.outcome σ (execTmrMatch c s) := by
  unfold execTmrMatch
  repeat' (first
    | with_reducible assumption
    | with_reducible apply Keeps.ite
    | with_reducible apply keeps_State_setCore
    | with_reducible apply Keeps.outcome_next)

theorem keeps_execSta {σ : State} (c : Nat) (p : Bool) (ac : Nat) (form : StaForm) (s : State) (h_s : Keeps σ s) :
    Keeps.outcome σ (execSta c p ac form s) := by
  unfold execSta
  repeat' (first
    | with_reducible assumption
    | with_reducible apply Keeps.ite
    | with_reducible apply keeps_issue
    | with_reducible apply keeps_staInstr
    | with_reducible apply Keeps.outcome_next)

theorem keeps_execLd {σ : State} (c : Nat) (p : Bool) (form : LdForm) (s : State) (h_s : Keeps σ s) :
    Keeps.outcome σ (execLd c p form s) := by
  unfold execLd
  repeat' (first
    | with_reducible assumption
    | with_reducible apply Keeps.ite
    | with_reducible apply keeps_issue
    | with_reducible apply keeps_ldInstr
    | with_reducible apply Keeps.outcome_next)

theorem keeps_execSt {σ : State} (c : Nat) (p : Bool) (form : StForm) (s : State) (h_s : Keeps σ s) :
    Keeps.outcome σ (execSt c p form s) := by
  unfold execSt
  repeat' (first
    | with_reducible assumption
    | with_reducible apply Keeps.ite
    | with_reducible apply keeps_issue
    | with_reducible apply keeps_stInstr
    | with_reducible apply Keeps.outcome_next)

theorem keeps_execB {σ : State} (c : Nat) (p : Bool) (form : BranchForm) (target : BitVec 20) (s : State) (h_s : Keeps σ s) :
    Keeps.outcome σ (execB c p form target s) := by
  unfold execB
  repeat' (first
    | with_reducible assumption
    | with_reducible apply Keeps.ite
    | with_reducible apply keeps_issue
    | with_reducible apply keeps_branchInstr
    | with_reducible apply Keeps.outcome_next)

end Sys2Proof.Machine
end

