-- ==== Sys2Proof/Laws/Keeps/FabricCore.lean ====
section
/-! SUPPORT. What the operations of Machine/FabricCore.lean keep: the invariants of Keeps, one lemma per definition. -/

namespace Sys2Proof.Machine

set_option linter.unusedTactic false
set_option linter.unreachableTactic false
set_option linter.unusedSimpArgs false
set_option linter.unusedVariables false

theorem keeps_State_fabQueuePush {σ : State} (s : State) (f : FabFrame) (h_s : Keeps σ s) :
    Keeps σ (State.fabQueuePush s f).2 := by
  unfold State.fabQueuePush
  repeat' (first
    | with_reducible assumption
    | with_reducible apply keeps_State_setQ
    | with_reducible apply keeps_State_push
    | ((try lift_lets); intro x; try unfold x)
    | refine Keeps.snd (by assumption) ?_
    | split)

theorem keeps_State_fabSend {σ : State} (s : State) (dst : Nat) (m : FabMsg) (h_s : Keeps σ s) :
    Keeps σ (State.fabSend s dst m) := by
  unfold State.fabSend
  repeat' (first
    | with_reducible assumption
    | with_reducible apply Keeps.ite
    | with_reducible apply keeps_State_fabQueuePush
    | (fail_if_no_progress refine Keeps.upd ?_ rfl))

theorem keeps_State_hopSend {σ : State} (s : State) (p dst : Nat) (m : FabMsg) (h_s : Keeps σ s) :
    Keeps σ (State.hopSend s p dst m) := by
  unfold State.hopSend
  repeat' (first | with_reducible assumption | (fail_if_no_progress refine Keeps.upd ?_ rfl))

theorem keeps_State_twSend {σ : State} (s : State) (m : TwinMsg) (h_s : Keeps σ s) :
    Keeps σ (State.twSend s m) := by
  unfold State.twSend
  repeat' (first | with_reducible assumption | (fail_if_no_progress refine Keeps.upd ?_ rfl))

theorem keeps_State_takeFrame {σ : State} (s : State) (sel : FabFrame → Bool) (h_s : Keeps σ s) :
    Keeps σ (State.takeFrame s sel).2 := by
  unfold State.takeFrame
  repeat' (first | with_reducible assumption | split | (fail_if_no_progress refine Keeps.upd ?_ rfl))

end Sys2Proof.Machine
end

