-- ==== Sys2Proof/Laws/Keeps/TwinCore.lean ====
section
/-! SUPPORT. What the operations of Machine/TwinCore.lean keep: the invariants of Keeps, one lemma per definition. -/

namespace Sys2Proof.Machine

set_option linter.unusedTactic false
set_option linter.unreachableTactic false
set_option linter.unusedSimpArgs false
set_option linter.unusedVariables false

theorem keeps_State_journal {σ : State} (s : State) (b : JBody) (h_s : Keeps σ s) :
    Keeps σ (State.journal s b) := by
  unfold State.journal
  repeat' (first
    | with_reducible assumption
    | with_reducible apply Keeps.ite
    | with_reducible apply keeps_State_wr
    | with_reducible apply keeps_State_count
    | (fail_if_no_progress refine Keeps.upd ?_ rfl))

theorem keeps_relayPtp {σ : State} (s : State) (port kind : Nat) (timed : Bool) (h_s : Keeps σ s) :
    Keeps σ (relayPtp s port kind timed) := by
  unfold relayPtp
  repeat' (first
    | with_reducible assumption
    | with_reducible apply keeps_State_inc
    | with_reducible apply keeps_State_free
    | with_reducible apply keeps_State_emit
    | split)

theorem keeps_ptpOther {σ : State} (s : State) (port kind : Nat) (h_s : Keeps σ s) :
    Keeps σ (ptpOther s port kind) := by
  unfold ptpOther
  repeat' (first
    | with_reducible assumption
    | with_reducible apply Keeps.ite
    | with_reducible apply keeps_State_inc
    | with_reducible apply keeps_relayPtp)

theorem keeps_fence {σ : State} (s : State) (h_s : Keeps σ s) :
    Keeps σ (fence s) := by
  unfold fence
  repeat' (first
    | with_reducible assumption
    | with_reducible apply Keeps.ite
    | with_reducible apply keeps_State_event
    | (fail_if_no_progress refine Keeps.upd ?_ rfl))

end Sys2Proof.Machine
end

