-- ==== Sys2Proof/Laws/Keeps/LegCore.lean ====
section
/-! SUPPORT. What the operations of Machine/LegCore.lean keep: the invariants of Keeps, one lemma per definition. -/

namespace Sys2Proof.Machine

set_option linter.unusedTactic false
set_option linter.unreachableTactic false
set_option linter.unusedSimpArgs false
set_option linter.unusedVariables false

theorem keeps_State_allot {σ : State} (s : State) (p n : Nat) (h_s : Keeps σ s) :
    Keeps σ (State.allot s p n) := by
  unfold State.allot
  repeat' (first | with_reducible assumption | (fail_if_no_progress refine Keeps.upd ?_ rfl))

theorem keeps_State_unallot {σ : State} (s : State) (p n : Nat) (h_s : Keeps σ s) :
    Keeps σ (State.unallot s p n) := by
  unfold State.unallot
  repeat' (first | with_reducible assumption | (fail_if_no_progress refine Keeps.upd ?_ rfl))

theorem keeps_clsReserve {σ : State} (s : State) (l : Nat) (h_s : Keeps σ s) :
    Keeps σ (clsReserve s l).2 := by
  unfold clsReserve
  repeat' (first | with_reducible assumption | with_reducible apply Keeps.ite_snd | (fail_if_no_progress refine Keeps.upd ?_ rfl))

theorem keeps_clsLive {σ : State} (s : State) (l : Nat) (live : Bool) (h_s : Keeps σ s) :
    Keeps σ (clsLive s l live) := by
  unfold clsLive
  repeat' (first | with_reducible assumption | (fail_if_no_progress refine Keeps.upd ?_ rfl))

theorem keeps_State_enqueue {σ : State} (s : State) (p : OutPkt) (h_s : Keeps σ s) :
    Keeps σ (State.enqueue s p) := by
  unfold State.enqueue
  repeat' (first | with_reducible assumption | with_reducible apply keeps_State_push | split)

theorem keeps_State_stampTwcc {σ : State} (s : State) (p : OutPkt) (h_s : Keeps σ s) :
    Keeps σ (State.stampTwcc s p).2 := by
  unfold State.stampTwcc
  repeat' (first | with_reducible assumption | with_reducible apply Keeps.ite_snd | with_reducible apply keeps_State_setLeg)

theorem keeps_State_cipherAsk {σ : State} (s : State) (cls ctx : Nat) (j : CipherJob) (h_s : Keeps σ s) :
    Keeps σ (State.cipherAsk s cls ctx j) := by
  unfold State.cipherAsk
  repeat' (first | with_reducible assumption | (fail_if_no_progress refine Keeps.upd ?_ rfl))

theorem keeps_State_protect {σ : State} (s : State) (p : OutPkt) (h_s : Keeps σ s) :
    Keeps σ (State.protect s p) := by
  unfold State.protect
  repeat' (first
    | with_reducible assumption
    | with_reducible apply Keeps.ite
    | with_reducible apply keeps_State_enqueue
    | (fail_if_no_progress refine Keeps.upd ?_ rfl))

theorem keeps_packetiserResume {s0 : State} (l : List OutPkt) (s : State) (h_s : Keeps s0 s) : Keeps s0 (packetiserResume l s) := by
  induction l generalizing s with
  | nil => exact h_s.upd rfl
  | cons p r ih =>
    unfold packetiserResume
    split
    · exact h_s.upd rfl
    · exact ih _ (keeps_State_protect _ _ (h_s.upd rfl))

theorem keeps_State_sendOne {σ : State} (s : State) (p0 : OutPkt) (h_s : Keeps σ s) :
    Keeps σ (State.sendOne s p0) := by
  unfold State.sendOne
  repeat' (first
    | with_reducible assumption
    | with_reducible apply Keeps.ite
    | with_reducible apply keeps_State_wr
    | with_reducible apply keeps_State_event
    | with_reducible apply keeps_State_journal
    | with_reducible apply keeps_State_setTxE
    | with_reducible apply keeps_State_stampTwcc
    | with_reducible apply keeps_State_protect)

theorem keeps_State_sendRtp {σ : State} (s : State) (p : OutPkt) (h_s : Keeps σ s) :
    Keeps σ (State.sendRtp s p) := by
  unfold State.sendRtp
  repeat' (first
    | with_reducible assumption
    | with_reducible apply keeps_State_sendOne
    | with_reducible refine Keeps.foldl ?_ (fun u a hu => ?_))

theorem keeps_State_sendRtcp {σ : State} (s : State) (l : Nat) (parts : List RtcpPart) (octets : Nat) (h_s : Keeps σ s) :
    Keeps σ (State.sendRtcp s l parts octets) := by
  unfold State.sendRtcp
  repeat' (first
    | with_reducible assumption
    | with_reducible apply Keeps.ite
    | with_reducible apply keeps_State_wr
    | with_reducible apply keeps_State_inc
    | with_reducible apply keeps_State_event
    | with_reducible apply keeps_State_setTxE
    | with_reducible apply keeps_State_protect)

end Sys2Proof.Machine
end

