-- ==== Sys2Proof/Laws/Keeps/LegRtcp.lean ====
section
/-! SUPPORT. What the operations of Machine/LegRtcp.lean keep: the invariants of Keeps, one lemma per definition. -/

namespace Sys2Proof.Machine

set_option linter.unusedTactic false
set_option linter.unreachableTactic false
set_option linter.unusedSimpArgs false
set_option linter.unusedVariables false

theorem keeps_markReported {σ : State} (s : State) (l e : Nat) (h_s : Keeps σ s) :
    Keeps σ (markReported s l e) := by
  unfold markReported
  repeat' (first | with_reducible assumption | with_reducible apply keeps_State_setRxE)

theorem keeps_State_sendReport {σ : State} (s : State) (l : Nat) (h_s : Keeps σ s) :
    Keeps σ (State.sendReport s l) := by
  unfold State.sendReport
  repeat' (first
    | with_reducible assumption
    | with_reducible apply keeps_State_sendRtcp
    | with_reducible apply keeps_markReported
    | with_reducible refine Keeps.foldl ?_ (fun u a hu => ?_))

theorem keeps_State_sendFeedback {σ : State} (s : State) (l : Nat) (p : RtcpPart) (h_s : Keeps σ s) :
    Keeps σ (State.sendFeedback s l p) := by
  unfold State.sendFeedback
  repeat' (first | with_reducible assumption | with_reducible apply keeps_State_sendRtcp)

theorem keeps_State_askKey {σ : State} (s : State) (l e : Nat) (h_s : Keeps σ s) :
    Keeps σ (State.askKey s l e).2 := by
  unfold State.askKey
  repeat' (first
    | with_reducible assumption
    | with_reducible apply Keeps.ite_snd
    | with_reducible apply keeps_State_fabSend
    | with_reducible apply keeps_State_sendFeedback
    | (fail_if_no_progress refine Keeps.upd ?_ rfl))

end Sys2Proof.Machine
end

