-- ==== Sys2Proof/Laws/Keeps/LegObj.lean ====
section
/-! SUPPORT. What the operations of Machine/LegObj.lean keep: the invariants of Keeps, one lemma per definition. -/

namespace Sys2Proof.Machine

set_option linter.unusedTactic false
set_option linter.unreachableTactic false
set_option linter.unusedSimpArgs false
set_option linter.unusedVariables false

theorem keeps_legPost {σ : State} (s : State) (ix l : Nat) (h_s : Keeps σ s) :
    Keeps σ (legPost s ix l).2 := by
  unfold legPost
  repeat' (first
    | with_reducible assumption
    | with_reducible apply Keeps.ite_snd
    | with_reducible apply keeps_clsReserve
    | refine Keeps.mid3 (by assumption) ?_)

theorem keeps_activateMemory {σ : State} (s : State) (l : Nat) (h_s : Keeps σ s) :
    Keeps σ (activateMemory s l).2 := by
  unfold activateMemory
  repeat' (first
    | with_reducible assumption
    | with_reducible apply keeps_State_choose
    | with_reducible apply keeps_State_setQ
    | with_reducible apply keeps_State_setLeg
    | with_reducible apply keeps_State_allot
    | with_reducible apply keeps_State_unallot
    | ((try lift_lets); intro x; try unfold x)
    | refine Keeps.snd (by assumption) ?_
    | split)

theorem keeps_State_turnLeg {σ : State} (s : State) (l : Nat) (t : LegStage) (h_s : Keeps σ s) :
    Keeps σ (State.turnLeg s l t) := by
  unfold State.turnLeg
  repeat' (first | with_reducible assumption | with_reducible apply keeps_State_setLeg | refine Keeps.fst (by assumption) ?_)

theorem keeps_legRegister {σ : State} (s : State) (l : Nat) (h_s : Keeps σ s) :
    Keeps σ (legRegister s l).2 := by
  unfold legRegister
  repeat' (first
    | with_reducible assumption
    | with_reducible apply Keeps.ite_snd
    | with_reducible apply keeps_clsReserve
    | with_reducible apply keeps_State_turnLeg
    | refine Keeps.snd (by assumption) ?_
    | refine Keeps.mid4 (by assumption) ?_
    | split)

theorem keeps_legActivate {σ : State} (s : State) (l : Nat) (h_s : Keeps σ s) :
    Keeps σ (legActivate s l).2 := by
  unfold legActivate
  repeat' (first
    | with_reducible assumption
    | with_reducible apply Keeps.ite_snd
    | with_reducible apply keeps_State_setLeg
    | with_reducible apply keeps_activateMemory
    | with_reducible apply keeps_State_turnLeg
    | refine Keeps.snd (by assumption) ?_
    | refine Keeps.mid4 (by assumption) ?_
    | split)

theorem keeps_legDeactivate {σ : State} (s : State) (l : Nat) (h_s : Keeps σ s) :
    Keeps σ (legDeactivate s l).2 := by
  unfold legDeactivate
  repeat' (first
    | with_reducible assumption
    | with_reducible apply Keeps.ite_snd
    | with_reducible apply keeps_State_turnLeg
    | refine Keeps.mid3 (by assumption) ?_)

theorem keeps_legFree {σ : State} (s : State) (l : Nat) (h_s : Keeps σ s) :
    Keeps σ (legFree s l).2 := by
  unfold legFree
  repeat' (first
    | with_reducible assumption
    | with_reducible apply Keeps.ite_snd
    | with_reducible apply keeps_State_turnLeg
    | refine Keeps.mid3 (by assumption) ?_)

theorem keeps_legStateWrite {σ : State} (s : State) (l v : Nat) (h_s : Keeps σ s) :
    Keeps σ (legStateWrite s l v).2 := by
  unfold legStateWrite
  repeat' (first
    | with_reducible assumption
    | with_reducible apply keeps_legRegister
    | with_reducible apply keeps_legActivate
    | with_reducible apply keeps_legDeactivate
    | with_reducible apply keeps_legFree
    | refine Keeps.snd (by assumption) ?_
    | split)

theorem keeps_startTx {σ : State} (s : State) (l e : Nat) (h_s : Keeps σ s) :
    Keeps σ (startTx s l e) := by
  unfold startTx
  repeat' (first
    | with_reducible assumption
    | with_reducible apply keeps_State_random
    | with_reducible apply keeps_State_setTxE
    | refine Keeps.mid3 (by assumption) ?_)

theorem keeps_State_nextReport {σ : State} (s : State) (l : Nat) (h_s : Keeps σ s) :
    Keeps σ (State.nextReport s l) := by
  unfold State.nextReport
  repeat' (first
    | with_reducible assumption
    | with_reducible apply keeps_State_random
    | with_reducible apply keeps_State_setLeg
    | refine Keeps.mid3 (by assumption) ?_)

theorem keeps_legGoActive {σ : State} (s : State) (l : Nat) (h_s : Keeps σ s) :
    Keeps σ (legGoActive s l) := by
  unfold legGoActive
  repeat' (first
    | with_reducible assumption
    | with_reducible apply Keeps.ite
    | with_reducible apply keeps_State_wr
    | with_reducible apply keeps_State_fabSend
    | with_reducible apply keeps_State_setLeg
    | with_reducible apply keeps_State_setRxE
    | with_reducible apply keeps_clsLive
    | with_reducible apply keeps_startTx
    | with_reducible apply keeps_State_nextReport
    | with_reducible refine Keeps.foldl ?_ (fun u a hu => ?_))

theorem keeps_legGoInactive {σ : State} (s : State) (l : Nat) (h_s : Keeps σ s) :
    Keeps σ (legGoInactive s l) := by
  unfold legGoInactive
  repeat' (first
    | with_reducible assumption
    | with_reducible apply Keeps.ite
    | with_reducible apply keeps_State_wr
    | with_reducible apply keeps_State_fabSend
    | with_reducible apply keeps_State_sendRtcp
    | ((try lift_lets); intro x; try unfold x)
    | (fail_if_no_progress refine Keeps.upd ?_ rfl))

theorem keeps_legGo {σ : State} (s : State) (l : Nat) (t : LegStage) (h_s : Keeps σ s) :
    Keeps σ (legGo s l t) := by
  unfold legGo
  repeat' (first
    | with_reducible assumption
    | with_reducible apply keeps_State_wr
    | with_reducible apply keeps_legGoActive
    | with_reducible apply keeps_legGoInactive
    | ((try lift_lets); intro x; try unfold x)
    | split
    | (fail_if_no_progress refine Keeps.upd ?_ rfl))

theorem keeps_legTurns {σ : State} (s : State) (l : Nat) (h_s : Keeps σ s) :
    Keeps σ (legTurns s l) := by
  unfold legTurns
  repeat' (first
    | with_reducible assumption
    | with_reducible apply keeps_State_setLeg
    | with_reducible apply keeps_legGo
    | with_reducible refine Keeps.foldl ?_ (fun u a hu => ?_)
    | refine Keeps.snd (by assumption) ?_)

theorem keeps_legQuiescent {σ : State} (s : State) (l : Nat) (h_s : Keeps σ s) :
    Keeps σ (legQuiescent s l) := by
  unfold legQuiescent
  repeat' (first
    | with_reducible assumption
    | with_reducible apply Keeps.ite
    | with_reducible apply keeps_State_clearLegObjects
    | with_reducible refine Keeps.foldl_fst ?_ (fun u a hu => ?_)
    | (fail_if_no_progress refine Keeps.upd ?_ rfl))

theorem keeps_egressRelease {σ : State} (s : State) (l : Nat) (h_s : Keeps σ s) :
    Keeps σ (egressRelease s l) := by
  unfold egressRelease
  repeat' (first
    | with_reducible assumption
    | with_reducible apply keeps_State_setQ
    | with_reducible apply keeps_State_setLeg
    | with_reducible apply keeps_State_unallot
    | ((try lift_lets); intro x; try unfold x)
    | refine Keeps.mid4 (by assumption) ?_
    | split)

theorem keeps_legRxTimeout {σ : State} (s : State) (l : Nat) (h_s : Keeps σ s) :
    Keeps σ (legRxTimeout s l) := by
  unfold legRxTimeout
  repeat' (first
    | with_reducible assumption
    | with_reducible apply Keeps.ite
    | with_reducible apply keeps_State_event
    | with_reducible apply keeps_State_setLeg
    | refine Keeps.snd3 (by assumption) ?_)

theorem keeps_confPost {σ : State} (s : State) (ix c : Nat) (h_s : Keeps σ s) :
    Keeps σ (confPost s ix c).2 := by
  unfold confPost
  repeat' (first | with_reducible assumption | with_reducible apply Keeps.ite_snd | refine Keeps.fst (by assumption) ?_)

theorem keeps_execLegQuiescent {σ : State} (l : Nat) (s : State) (h_s : Keeps σ s) :
    Keeps.outcome σ (execLegQuiescent l s) := by
  unfold execLegQuiescent
  repeat' (first
    | with_reducible assumption
    | with_reducible apply keeps_legQuiescent
    | with_reducible apply Keeps.outcome_next
    | refine Keeps.mid3 (by assumption) ?_)

theorem keeps_execEgressQueueRelease {σ : State} (l : Nat) (s : State) (h_s : Keeps σ s) :
    Keeps.outcome σ (execEgressQueueRelease l s) := by
  unfold execEgressQueueRelease
  repeat' (first
    | with_reducible assumption
    | with_reducible apply keeps_egressRelease
    | with_reducible apply Keeps.outcome_next
    | refine Keeps.mid3 (by assumption) ?_)

theorem keeps_execLegRxTimeout {σ : State} (l : Nat) (s : State) (h_s : Keeps σ s) :
    Keeps.outcome σ (execLegRxTimeout l s) := by
  unfold execLegRxTimeout
  repeat' (first
    | with_reducible assumption
    | with_reducible apply keeps_legRxTimeout
    | with_reducible apply Keeps.outcome_next
    | refine Keeps.mid3 (by assumption) ?_)

theorem keeps_execRtcpReportTimer {σ : State} (l : Nat) (s : State) (h_s : Keeps σ s) :
    Keeps.outcome σ (execRtcpReportTimer l s) := by
  unfold execRtcpReportTimer
  repeat' (first
    | with_reducible assumption
    | with_reducible apply Keeps.ite
    | with_reducible apply keeps_State_sendReport
    | with_reducible apply keeps_State_nextReport
    | with_reducible apply Keeps.outcome_next
    | refine Keeps.snd3 (by assumption) ?_)

end Sys2Proof.Machine
end

