-- ==== Sys2Proof/Laws/Keeps/Keys.lean ====
section
/-! SUPPORT. What the operations of Machine/Keys.lean keep: the invariants of Keeps, one lemma per definition. -/

namespace Sys2Proof.Machine

set_option linter.unusedTactic false
set_option linter.unreachableTactic false
set_option linter.unusedSimpArgs false
set_option linter.unusedVariables false

theorem keeps_newEpoch {σ : State} (s : State) (k : Nat) (h_s : Keeps σ s) :
    Keeps σ (newEpoch s k) := by
  unfold newEpoch
  repeat' (first
    | with_reducible assumption
    | with_reducible apply Keeps.ite
    | with_reducible apply keeps_State_wr
    | (fail_if_no_progress refine Keeps.upd ?_ rfl))

theorem keeps_resumeLeg {σ : State} (s : State) (k l : Nat) (h_s : Keeps σ s) :
    Keeps σ (resumeLeg s k l) := by
  unfold resumeLeg
  repeat' (first
    | with_reducible assumption
    | with_reducible apply Keeps.ite
    | with_reducible apply keeps_State_wr
    | with_reducible apply keeps_State_setRxE
    | with_reducible apply keeps_State_setTxE
    | with_reducible refine Keeps.foldl ?_ (fun u a hu => ?_))

theorem keeps_storeKey {σ : State} (s : State) (k m : Nat) (h_s : Keeps σ s) :
    Keeps σ (storeKey s k m) := by
  unfold storeKey
  repeat' (first
    | with_reducible assumption
    | with_reducible apply Keeps.ite
    | with_reducible apply keeps_State_wr
    | with_reducible apply keeps_resumeLeg
    | with_reducible refine Keeps.foldl ?_ (fun u a hu => ?_)
    | (fail_if_no_progress refine Keeps.upd ?_ rfl))

theorem keeps_zeroise {σ : State} (s : State) (k : Nat) (h_s : Keeps σ s) :
    Keeps σ (zeroise s k) := by
  unfold zeroise
  repeat' (first
    | with_reducible assumption
    | with_reducible apply Keeps.ite
    | with_reducible apply keeps_State_wr
    | (fail_if_no_progress refine Keeps.upd ?_ rfl))

theorem keeps_keySuiteWrite {σ : State} (s : State) (k v : Nat) (withKey : Bool) (h_s : Keeps σ s) :
    Keeps σ (keySuiteWrite s k v withKey).2 := by
  unfold keySuiteWrite
  repeat' (first | with_reducible assumption | with_reducible apply Keeps.ite | with_reducible apply keeps_State_wr | split)

theorem keeps_keyLoad {σ : State} (s : State) (k suite len m : Nat) (h_s : Keeps σ s) :
    Keeps σ (keyLoad s k suite len m).2 := by
  unfold keyLoad
  repeat' (first
    | with_reducible assumption
    | with_reducible apply Keeps.ite
    | with_reducible apply Keeps.ite_snd
    | with_reducible apply keeps_storeKey)

theorem keeps_keyWrappedLoad {σ : State} (s : State) (k suite len : Nat) (w : Wrapped) (h_s : Keeps σ s) :
    Keeps σ (keyWrappedLoad s k suite len w).2 := by
  unfold keyWrappedLoad
  repeat' (first
    | with_reducible assumption
    | with_reducible apply Keeps.ite
    | with_reducible apply Keeps.ite_snd
    | with_reducible apply keeps_storeKey
    | split)

theorem keeps_keyErase {σ : State} (s : State) (k : Nat) (h_s : Keeps σ s) :
    Keeps σ (keyErase s k).2 := by
  unfold keyErase
  repeat' (first
    | with_reducible assumption
    | with_reducible apply Keeps.ite
    | with_reducible apply Keeps.ite_snd
    | with_reducible apply keeps_State_wr
    | with_reducible apply keeps_zeroise)

theorem keeps_keyEraseComplete {σ : State} (s : State) (k : Nat) (h_s : Keeps σ s) :
    Keeps σ (keyEraseComplete s k) := by
  unfold keyEraseComplete
  repeat' (first | with_reducible assumption | with_reducible apply Keeps.ite | with_reducible apply keeps_zeroise)

theorem keeps_tapEnable {σ : State} (s : State) (isLeg : Bool) (id : Nat) (h_s : Keeps σ s) : Keeps σ (tapEnable s isLeg id).2 := by
  unfold tapEnable
  obtain ⟨ke, kr, kk, kb⟩ := tapKeys isLeg id
  dsimp only
  repeat' (first
    | with_reducible assumption
    | with_reducible apply keeps_State_wr
    | split
    | (refine Keeps.upd ?_ rfl))

theorem keeps_tapStop {σ : State} (s : State) (isLeg : Bool) (id : Nat) (h_s : Keeps σ s) :
    Keeps σ (tapStop s isLeg id) := by
  unfold tapStop
  repeat' (first
    | with_reducible assumption
    | with_reducible apply Keeps.ite
    | with_reducible apply keeps_State_wr
    | (fail_if_no_progress refine Keeps.upd ?_ rfl))

theorem keeps_tapWrite {σ : State} (s : State) (isLeg : Bool) (id v : Nat) (h_s : Keeps σ s) :
    Keeps σ (tapWrite s isLeg id v).2 := by
  unfold tapWrite
  repeat' (first
    | with_reducible assumption
    | with_reducible apply Keeps.ite
    | with_reducible apply Keeps.ite_snd
    | with_reducible apply keeps_tapEnable
    | with_reducible apply keeps_tapStop)

theorem keeps_tapFeed {σ : State} (s : State) (isLeg : Bool) (id source frame : Nat) (x : List Int) (clipped : Bool) (h_s : Keeps σ s) :
    Keeps σ (tapFeed s isLeg id source frame x clipped) := by
  unfold tapFeed
  repeat' (first | with_reducible assumption | with_reducible apply Keeps.ite | (fail_if_no_progress refine Keeps.upd ?_ rfl))

theorem keeps_tapSector {σ : State} (s : State) (isLeg : Bool) (id : Nat) (h_s : Keeps σ s) :
    Keeps σ (tapSector s isLeg id) := by
  unfold tapSector
  repeat' (first
    | with_reducible assumption
    | with_reducible apply Keeps.ite
    | with_reducible apply keeps_State_event
    | with_reducible apply keeps_tapStop
    | split
    | (fail_if_no_progress refine Keeps.upd ?_ rfl))

theorem keeps_execKeyEraseComplete {σ : State} (k : Nat) (s : State) (h_s : Keeps σ s) :
    Keeps.outcome σ (execKeyEraseComplete k s) := by
  unfold execKeyEraseComplete
  repeat' (first
    | with_reducible assumption
    | with_reducible apply Keeps.ite
    | with_reducible apply keeps_keyEraseComplete
    | with_reducible apply Keeps.outcome_next)

theorem keeps_execTapSectorWrite {σ : State} (isLeg : Bool) (id : Nat) (s : State) (h_s : Keeps σ s) :
    Keeps.outcome σ (execTapSectorWrite isLeg id s) := by
  unfold execTapSectorWrite
  repeat' (first
    | with_reducible assumption
    | with_reducible apply Keeps.ite
    | with_reducible apply keeps_tapSector
    | with_reducible apply Keeps.outcome_next)

end Sys2Proof.Machine
end

