-- ==== Sys2Proof/Laws/Keeps/Mixing.lean ====
section
/-! SUPPORT. What the operations of Machine/Mixing.lean keep: the invariants of Keeps, one lemma per definition. -/

namespace Sys2Proof.Machine

set_option linter.unusedTactic false
set_option linter.unreachableTactic false
set_option linter.unusedSimpArgs false
set_option linter.unusedVariables false

theorem keeps_State_setCf {σ : State} (s : State) (c : Nat) (x : ConfRt) (h_s : Keeps σ s) :
    Keeps σ (State.setCf s c x) := by
  unfold State.setCf
  repeat' (first | with_reducible assumption | (fail_if_no_progress refine Keeps.upd ?_ rfl))

end Sys2Proof.Machine
end

