-- ==== Sys2Proof/Laws/Keeps/Audio.lean ====
section
/-! SUPPORT. What the operations of Machine/Audio.lean keep: the invariants of Keeps, one lemma per definition. -/

namespace Sys2Proof.Machine

set_option linter.unusedTactic false
set_option linter.unreachableTactic false
set_option linter.unusedSimpArgs false
set_option linter.unusedVariables false

theorem keeps_withdrawEncodes {σ : State} (s : State) (c q : Nat) (h_s : Keeps σ s) :
    Keeps σ (withdrawEncodes s c q) := by
  unfold withdrawEncodes
  repeat' (first
    | with_reducible assumption
    | with_reducible apply keeps_State_inc
    | with_reducible apply keeps_State_withdraw
    | with_reducible refine Keeps.foldl ?_ (fun u a hu => ?_)
    | (fail_if_no_progress refine Keeps.upd ?_ rfl))

theorem keeps_postMix {σ : State} (s : State) (c n : Nat) (h_s : Keeps σ s) :
    Keeps σ (postMix s c n) := by
  unfold postMix
  repeat' (first
    | with_reducible assumption
    | with_reducible apply keeps_State_post
    | with_reducible apply keeps_State_setCf
    | with_reducible apply keeps_withdrawEncodes)

theorem keeps_postEncodes {σ : State} (s : State) (c n : Nat) (h_s : Keeps σ s) :
    Keeps σ (postEncodes s c n) := by
  unfold postEncodes
  repeat' (first
    | with_reducible assumption
    | with_reducible apply keeps_State_post
    | with_reducible refine Keeps.foldl ?_ (fun u a hu => ?_))

theorem keeps_State_markSv {σ : State} (s : State) (f : Nat) (h_s : Keeps σ s) :
    Keeps σ (State.markSv s f) := by
  unfold State.markSv
  repeat' (first | with_reducible assumption | with_reducible apply keeps_State_setCore | split)

theorem keeps_decodeFrame {σ : State} (s : State) (l : Nat) (h : Hand) (h_s : Keeps σ s) : Keeps σ (decodeFrame s l h).2.2.2 := by
  unfold decodeFrame
  dsimp only
  split
  · exact h_s
  · split
    · exact h_s
    · exact h_s
    all_goals
      split
      · exact Keeps.draw h_s
      · exact h_s

theorem keeps_legDecode {σ : State} (s : State) (l n : Nat) (h : Hand) (h_s : Keeps σ s) :
    Keeps σ (legDecode s l n h) := by
  unfold legDecode
  repeat' (first
    | with_reducible assumption
    | with_reducible apply Keeps.ite
    | with_reducible apply keeps_State_inc
    | with_reducible apply keeps_State_setLeg
    | with_reducible apply keeps_tapFeed
    | with_reducible apply keeps_decodeFrame)

theorem keeps_voice {σ : State} (s : State) (c n l : Nat) (h_s : Keeps σ s) :
    Keeps σ (voice s c n l) := by
  unfold voice
  repeat' (first | with_reducible assumption | with_reducible apply keeps_State_wr | with_reducible apply keeps_State_setLeg)

theorem keeps_weigh {σ : State} (s : State) (c n : Nat) (legsIn : List Nat) (cuts : List Nat) (l : Nat) (h_s : Keeps σ s) :
    Keeps σ (weigh s c n legsIn cuts l) := by
  unfold weigh
  repeat' (first | with_reducible assumption | with_reducible apply keeps_State_setLeg)

theorem keeps_memberMix {σ : State} (s : State) (c n : Nat) (viaReturn : Bool) (master common : Gain) (sum p cOut : List Int) (l : Nat) (h_s : Keeps σ s) :
    Keeps σ (memberMix s c n viaReturn master common sum p cOut l) := by
  unfold memberMix
  repeat' (first | with_reducible assumption | with_reducible apply Keeps.ite | with_reducible apply keeps_State_setLeg)

theorem keeps_formMix {σ : State} (s : State) (c n : Nat) (viaReturn : Bool) (sum p : List Int) (h_s : Keeps σ s) :
    Keeps σ (formMix s c n viaReturn sum p) := by
  unfold formMix
  repeat' (first
    | with_reducible assumption
    | with_reducible apply Keeps.ite
    | with_reducible apply keeps_State_inc
    | with_reducible apply keeps_State_eventRated
    | with_reducible apply keeps_State_setCf
    | with_reducible apply keeps_State_markSv
    | with_reducible apply keeps_memberMix
    | with_reducible refine Keeps.foldl ?_ (fun u a hu => ?_))

theorem keeps_publishSpeaker {σ : State} (s : State) (c n : Nat) (sel : List Cand) (speakerChanged setChanged : Bool) (h_s : Keeps σ s) :
    Keeps σ (publishSpeaker s c n sel speakerChanged setChanged) := by
  unfold publishSpeaker
  repeat' (first
    | with_reducible assumption
    | with_reducible apply Keeps.ite
    | with_reducible apply keeps_State_wr
    | with_reducible apply keeps_State_ringPostLost
    | (fail_if_no_progress refine Keeps.upd ?_ rfl))

theorem keeps_routeTo {σ : State} (s : State) (l : Nat) (src : PathSrc) (h_s : Keeps σ s) :
    Keeps σ (routeTo s l src) := by
  unfold routeTo
  repeat' (first
    | with_reducible assumption
    | with_reducible apply Keeps.ite
    | with_reducible apply keeps_State_inc
    | with_reducible apply keeps_State_setLeg)

theorem keeps_followRoute {σ : State} (s : State) (l : Nat) (h_s : Keeps σ s) :
    Keeps σ (followRoute s l) := by
  unfold followRoute
  repeat' (first | with_reducible assumption | with_reducible apply Keeps.ite | with_reducible apply keeps_routeTo)

theorem keeps_setLocalMix {σ : State} (s : State) (c : Nat) (on : Bool) (h_s : Keeps σ s) :
    Keeps σ (setLocalMix s c on) := by
  unfold setLocalMix
  repeat' (first
    | with_reducible assumption
    | with_reducible apply Keeps.ite
    | with_reducible apply keeps_State_setCf
    | with_reducible apply keeps_followRoute
    | with_reducible refine Keeps.foldl ?_ (fun u a hu => ?_))

theorem keeps_confPrompts {σ : State} (s : State) (c n : Nat) (h_s : Keeps σ s) :
    Keeps σ (confPrompts s c n).2 := by
  unfold confPrompts
  repeat' (first | with_reducible assumption | (fail_if_no_progress refine Keeps.upd ?_ rfl))

theorem keeps_mixSelect {σ : State} (s : State) (c n : Nat) (h_s : Keeps σ s) :
    Keeps σ (mixSelect s c n).2 := by
  unfold mixSelect
  repeat' (first
    | with_reducible assumption
    | with_reducible apply keeps_State_wr
    | with_reducible apply keeps_State_count
    | with_reducible apply keeps_State_setCf
    | with_reducible apply keeps_voice
    | with_reducible apply keeps_weigh
    | with_reducible apply keeps_publishSpeaker
    | with_reducible refine Keeps.foldl ?_ (fun u a hu => ?_))

theorem keeps_anchorMix {σ : State} (s : State) (c n : Nat) (sel : List Cand) (p : List Int) (h_s : Keeps σ s) :
    Keeps σ (anchorMix s c n sel p) := by
  unfold anchorMix
  repeat' (first
    | with_reducible assumption
    | with_reducible apply Keeps.ite
    | with_reducible apply keeps_State_wr
    | with_reducible apply keeps_State_count
    | with_reducible apply keeps_State_inc
    | with_reducible apply keeps_State_eventRated
    | with_reducible apply keeps_State_fabSend
    | with_reducible apply keeps_State_setCf
    | with_reducible apply keeps_State_markSv
    | with_reducible apply keeps_formMix
    | with_reducible refine Keeps.foldl ?_ (fun u a hu => ?_))

theorem keeps_remoteLocal {σ : State} (s : State) (c n : Nat) (p : List Int) (h_s : Keeps σ s) :
    Keeps σ (remoteLocal s c n p) := by
  unfold remoteLocal
  repeat' (first
    | with_reducible assumption
    | with_reducible apply keeps_State_wr
    | with_reducible apply keeps_State_setCf
    | with_reducible apply keeps_postEncodes
    | with_reducible apply keeps_formMix
    | with_reducible apply keeps_setLocalMix)

theorem keeps_confMix {σ : State} (s : State) (c n : Nat) (h_s : Keeps σ s) :
    Keeps σ (confMix s c n) := by
  unfold confMix
  repeat' (first
    | with_reducible assumption
    | with_reducible apply keeps_State_wr
    | with_reducible apply keeps_State_inc
    | with_reducible apply keeps_State_fabSend
    | with_reducible apply keeps_tapFeed
    | with_reducible apply keeps_State_setCf
    | with_reducible apply keeps_postEncodes
    | with_reducible apply keeps_State_markSv
    | with_reducible apply keeps_formMix
    | with_reducible apply keeps_confPrompts
    | with_reducible apply keeps_mixSelect
    | with_reducible apply keeps_anchorMix
    | with_reducible apply keeps_remoteLocal
    | refine Keeps.snd (by assumption) ?_
    | split)

theorem keeps_useReturn {σ : State} (s : State) (c n : Nat) (r : ReturnMix) (h_s : Keeps σ s) :
    Keeps σ (useReturn s c n r) := by
  unfold useReturn
  repeat' (first
    | with_reducible assumption
    | with_reducible apply keeps_State_wr
    | with_reducible apply keeps_tapFeed
    | with_reducible apply keeps_State_setCf
    | with_reducible apply keeps_postEncodes
    | with_reducible apply keeps_formMix
    | with_reducible apply keeps_setLocalMix)

theorem keeps_returnRx {σ : State} (s : State) (r : ReturnMix) (h_s : Keeps σ s) :
    Keeps σ (returnRx s r) := by
  unfold returnRx
  repeat' (first
    | with_reducible assumption
    | with_reducible apply Keeps.ite
    | with_reducible apply keeps_State_setCf
    | with_reducible apply keeps_useReturn
    | split)

theorem keeps_returnLate {σ : State} (s : State) (c : Nat) (h_s : Keeps σ s) :
    Keeps σ (returnLate s c) := by
  unfold returnLate
  repeat' (first
    | with_reducible assumption
    | with_reducible apply keeps_State_inc
    | with_reducible apply keeps_State_event
    | with_reducible apply keeps_tapFeed
    | with_reducible apply keeps_State_setCf
    | with_reducible apply keeps_remoteLocal
    | ((try lift_lets); intro x; try unfold x)
    | split)

theorem keeps_partialRx {σ : State} (s : State) (p : PartialMix) (h_s : Keeps σ s) :
    Keeps σ (partialRx s p) := by
  unfold partialRx
  repeat' (first
    | with_reducible assumption
    | with_reducible apply Keeps.ite
    | with_reducible apply keeps_State_fabSend
    | with_reducible apply keeps_State_setCf)

theorem keeps_formOutput {σ : State} (s : State) (l n : Nat) (h_s : Keeps σ s) :
    Keeps σ (formOutput s l n) := by
  unfold formOutput
  repeat' (first
    | with_reducible assumption
    | with_reducible apply Keeps.ite
    | with_reducible apply keeps_State_count
    | with_reducible apply keeps_State_inc
    | with_reducible apply keeps_State_eventRated
    | with_reducible apply keeps_State_markSv
    | (fail_if_no_progress refine Keeps.upd ?_ rfl))

theorem keeps_audioPacket {σ : State} (s : State) (l e first : Nat) (x : List Int) (h_s : Keeps σ s) :
    Keeps σ (audioPacket s l e first x) := by
  unfold audioPacket
  repeat' (first
    | with_reducible assumption
    | with_reducible apply Keeps.ite
    | with_reducible apply keeps_State_choose
    | with_reducible apply keeps_State_setTxE
    | with_reducible apply keeps_State_sendRtp
    | split)

theorem keeps_legEncode {σ : State} (s : State) (l n : Nat) (h_s : Keeps σ s) :
    Keeps σ (legEncode s l n) := by
  unfold legEncode
  repeat' (first
    | with_reducible assumption
    | with_reducible apply Keeps.ite
    | with_reducible apply keeps_State_setLeg
    | with_reducible apply keeps_formOutput
    | with_reducible apply keeps_audioPacket
    | split)

theorem keeps_promptItem {σ : State} (s : State) (j : Nat) (p : PromptItem) (h_s : Keeps σ s) :
    Keeps σ (promptItem s j p) := by
  unfold promptItem
  repeat' (first
    | with_reducible assumption
    | with_reducible apply Keeps.ite
    | with_reducible apply keeps_State_inc
    | (fail_if_no_progress refine Keeps.upd ?_ rfl))

theorem keeps_promptFetch {σ : State} (s : State) (j w : Nat) (p : PromptItem) (h_s : Keeps σ s) :
    Keeps σ (promptFetch s j w p) := by
  unfold promptFetch
  repeat' (first
    | with_reducible assumption
    | with_reducible apply Keeps.ite
    | with_reducible apply keeps_ringFetch
    | with_reducible apply keeps_promptItem
    | refine Keeps.snd (by assumption) ?_
    | split)

theorem keeps_itemDone {σ : State} (s : State) (w : WorkItem) (h_s : Keeps σ s) :
    Keeps σ (itemDone s w) := by
  unfold itemDone
  repeat' (first | with_reducible assumption | (fail_if_no_progress refine Keeps.upd ?_ rfl))

theorem keeps_execLegAudioDecode {σ : State} (c : Nat) (s : State) (h_s : Keeps σ s) :
    Keeps.outcome σ (execLegAudioDecode c s) := by
  unfold execLegAudioDecode
  repeat' (first
    | with_reducible assumption
    | with_reducible apply keeps_legDecode
    | with_reducible apply keeps_itemDone
    | with_reducible apply Keeps.outcome_next
    | split)

theorem keeps_execMixPhaseTimer {σ : State} (c : Nat) (s : State) (h_s : Keeps σ s) :
    Keeps.outcome σ (execMixPhaseTimer c s) := by
  unfold execMixPhaseTimer
  repeat' (first
    | with_reducible assumption
    | with_reducible apply Keeps.ite
    | with_reducible apply keeps_postMix
    | with_reducible apply Keeps.outcome_next)

theorem keeps_execConfMix {σ : State} (c : Nat) (s : State) (h_s : Keeps σ s) :
    Keeps.outcome σ (execConfMix c s) := by
  unfold execConfMix
  repeat' (first
    | with_reducible assumption
    | with_reducible apply keeps_confMix
    | with_reducible apply keeps_itemDone
    | with_reducible apply Keeps.outcome_next
    | split)

theorem keeps_execLegAudioEncode {σ : State} (c : Nat) (s : State) (h_s : Keeps σ s) :
    Keeps.outcome σ (execLegAudioEncode c s) := by
  unfold execLegAudioEncode
  repeat' (first
    | with_reducible assumption
    | with_reducible apply keeps_legEncode
    | with_reducible apply keeps_itemDone
    | with_reducible apply Keeps.outcome_next
    | split)

theorem keeps_execPartialRx {σ : State} (s : State) (h_s : Keeps σ s) :
    Keeps.outcome σ (execPartialRx s) := by
  unfold execPartialRx
  repeat' (first
    | with_reducible assumption
    | with_reducible apply keeps_State_takeFrame
    | with_reducible apply keeps_partialRx
    | with_reducible apply Keeps.outcome_next
    | refine Keeps.snd (by assumption) ?_
    | split)

theorem keeps_execReturnRx {σ : State} (s : State) (h_s : Keeps σ s) :
    Keeps.outcome σ (execReturnRx s) := by
  unfold execReturnRx
  repeat' (first
    | with_reducible assumption
    | with_reducible apply keeps_State_takeFrame
    | with_reducible apply keeps_returnRx
    | with_reducible apply Keeps.outcome_next
    | refine Keeps.snd (by assumption) ?_
    | split)

theorem keeps_execReturnWaitExpiry {σ : State} (c : Nat) (s : State) (h_s : Keeps σ s) :
    Keeps.outcome σ (execReturnWaitExpiry c s) := by
  unfold execReturnWaitExpiry
  repeat' (first
    | with_reducible assumption
    | with_reducible apply Keeps.ite
    | with_reducible apply keeps_returnLate
    | with_reducible apply Keeps.outcome_next)

theorem keeps_execPromptItemFetch {σ : State} (j : Nat) (w : Word) (p : PromptItem) (s : State) (h_s : Keeps σ s) :
    Keeps.outcome σ (execPromptItemFetch j w p s) := by
  unfold execPromptItemFetch
  repeat' (first
    | with_reducible assumption
    | with_reducible apply Keeps.ite
    | with_reducible apply keeps_promptFetch
    | with_reducible apply Keeps.outcome_next)

end Sys2Proof.Machine
end

