-- ==== Sys2Proof/Laws/Keeps/VideoDecode.lean ====
section
/-! SUPPORT. What the operations of Machine/VideoDecode.lean keep: the invariants of Keeps, one lemma per definition. -/

namespace Sys2Proof.Machine

set_option linter.unusedTactic false
set_option linter.unreachableTactic false
set_option linter.unusedSimpArgs false
set_option linter.unusedVariables false

theorem keeps_State_setDx {σ : State} (s : State) (d : Nat) (x : DctxRt) (h_s : Keeps σ s) :
    Keeps σ (State.setDx s d x) := by
  unfold State.setDx
  repeat' (first | with_reducible assumption | (fail_if_no_progress refine Keeps.upd ?_ rfl))

theorem keeps_dctxAsk {σ : State} (s : State) (d : Nat) (h_s : Keeps σ s) :
    Keeps σ (dctxAsk s d) := by
  unfold dctxAsk
  repeat' (first
    | with_reducible assumption
    | with_reducible apply Keeps.ite
    | with_reducible apply keeps_State_inc
    | with_reducible apply keeps_State_askKey
    | with_reducible apply keeps_State_setDx
    | refine Keeps.snd (by assumption) ?_
    | split)

theorem keeps_dropOld {σ : State} (s : State) (d k : Nat) (h_s : Keeps σ s) :
    Keeps σ (dropOld s d k) := by
  unfold dropOld
  repeat' (first | with_reducible assumption | with_reducible apply keeps_State_unallot | with_reducible apply keeps_State_setDx)

theorem keeps_releaseOuts {σ : State} (s : State) (d k : Nat) (h_s : Keeps σ s) :
    Keeps σ (releaseOuts s d k) := by
  unfold releaseOuts
  repeat' (first | with_reducible assumption | with_reducible apply keeps_State_setDx | with_reducible apply keeps_dropOld)

theorem keeps_outActivate {σ : State} (s : State) (d k : Nat) (h_s : Keeps σ s) :
    Keeps σ (outActivate s d k) := by
  unfold outActivate
  repeat' (first | with_reducible assumption | with_reducible apply keeps_State_setDx | with_reducible apply keeps_releaseOuts)

theorem keeps_outRead {σ : State} (s : State) (d p : Nat) (begin_ : Bool) (h_s : Keeps σ s) :
    Keeps σ (outRead s d p begin_) := by
  unfold outRead
  repeat' (first
    | with_reducible assumption
    | with_reducible apply Keeps.ite
    | with_reducible apply keeps_State_setDx
    | with_reducible apply keeps_releaseOuts)

theorem keeps_dctxEnable {σ : State} (s : State) (d : Nat) (h_s : Keeps σ s) :
    Keeps σ (dctxEnable s d).2 := by
  unfold dctxEnable
  repeat' (first
    | with_reducible assumption
    | with_reducible apply keeps_State_wr
    | with_reducible apply keeps_State_setQ
    | with_reducible apply keeps_State_allot
    | with_reducible apply keeps_State_setDx
    | with_reducible apply keeps_dctxAsk
    | ((try lift_lets); intro x; try unfold x)
    | split)

theorem keeps_dctxDisable {σ : State} (s : State) (d : Nat) (h_s : Keeps σ s) :
    Keeps σ (dctxDisable s d) := by
  unfold dctxDisable
  repeat' (first
    | with_reducible assumption
    | with_reducible apply Keeps.ite
    | with_reducible apply keeps_State_wr
    | with_reducible apply keeps_State_updQ
    | with_reducible apply keeps_State_setDx)

theorem keeps_dctxStateWrite {σ : State} (s : State) (d v : Nat) (h_s : Keeps σ s) :
    Keeps σ (dctxStateWrite s d v).2 := by
  unfold dctxStateWrite
  repeat' (first
    | with_reducible assumption
    | with_reducible apply Keeps.ite_snd
    | with_reducible apply keeps_dctxEnable
    | with_reducible apply keeps_dctxDisable)

theorem keeps_dctxQuiescent {σ : State} (s : State) (d : Nat) (h_s : Keeps σ s) :
    Keeps σ (dctxQuiescent s d) := by
  unfold dctxQuiescent
  repeat' (first
    | with_reducible assumption
    | with_reducible apply Keeps.ite
    | with_reducible apply keeps_State_wr
    | with_reducible apply keeps_State_setQ
    | with_reducible apply keeps_State_unallot
    | with_reducible apply keeps_State_setDx)

theorem keeps_dropWaiting {σ : State} (s : State) (d : Nat) (later : List Nat) (h_s : Keeps σ s) :
    Keeps σ (dropWaiting s d later) := by
  unfold dropWaiting
  repeat' (first | with_reducible assumption | with_reducible apply keeps_State_setDx)

theorem keeps_dctxLost {σ : State} (s : State) (d : Nat) (h_s : Keeps σ s) :
    Keeps σ (dctxLost s d) := by
  unfold dctxLost
  repeat' (first
    | with_reducible assumption
    | with_reducible apply Keeps.ite
    | with_reducible apply keeps_State_wr
    | with_reducible apply keeps_State_setDx
    | with_reducible apply keeps_dctxAsk
    | with_reducible apply keeps_dropWaiting)

theorem keeps_targetSpatialWrite {σ : State} (s : State) (d v : Nat) (h_s : Keeps σ s) :
    Keeps σ (targetSpatialWrite s d v) := by
  unfold targetSpatialWrite
  repeat' (first
    | with_reducible assumption
    | with_reducible apply Keeps.ite
    | with_reducible apply keeps_State_wr
    | with_reducible apply keeps_dctxAsk)

theorem keeps_shed {σ : State} (s : State) (d : Nat) (h_s : Keeps σ s) :
    Keeps σ (shed s d) := by
  unfold shed
  repeat' (first
    | with_reducible assumption
    | with_reducible apply Keeps.ite
    | with_reducible apply keeps_State_count
    | with_reducible apply keeps_State_setQ)

theorem keeps_startOut {σ : State} (d : Nat) (u : AccessUnit) (flags : Nat) (acc : State × List (Nat × Nat) × Bool) (k : Nat)
    (h_acc : Keeps σ acc.1) : Keeps σ (startOut d u flags acc k).1 := by
  obtain ⟨s9, ws, st⟩ := acc
  unfold startOut
  dsimp only at h_acc ⊢
  replace h_acc := keeps_releaseOuts s9 d k h_acc
  generalize releaseOuts s9 d k = s at h_acc
  have hm : ∀ t : State, Keeps σ t → Keeps σ ((t.wr Obj.stripOutputs (t.rd Obj.stripOutputs + 1)).event Ev.scalerStrip d k) :=
    fun t ht => keeps_State_event _ _ _ _ (keeps_State_wr _ _ _ ht)
  split
  · split
    · exact keeps_State_wr _ _ _ (keeps_State_wr _ _ _ h_acc)
    · exact h_acc
  · split
    · exact keeps_State_inc _ _ h_acc
    · generalize decide (4096 < decimated _ _) = strip
      generalize hs1 : s.wr (Obj.dsStripMask d) _ = s1
      have h1 : Keeps σ s1 := hs1 ▸ keeps_State_wr _ _ _ h_acc
      generalize hs2 : (if (strip && !bit (s.rd (Obj.dsStripMask d)) k) = true then _ else _ : State) = s2
      have h2 : Keeps σ s2 := by
        rw [← hs2]
        split
        · exact hm _ h1
        · split
          · exact keeps_State_wr _ _ _ h1
          · exact h1
      split
      · exact keeps_State_inc _ _ h2
      · exact keeps_State_setDx _ _ _ h2

theorem keeps_startPicture {σ : State} (s : State) (p d : Nat) (u : AccessUnit) (h_s : Keeps σ s) :
    Keeps σ (startPicture s p d u) := by
  unfold startPicture
  repeat' (first
    | with_reducible assumption
    | with_reducible apply Keeps.ite
    | with_reducible apply keeps_State_wr
    | with_reducible apply keeps_State_count
    | with_reducible apply keeps_State_inc
    | with_reducible apply keeps_State_post
    | with_reducible apply keeps_dctxAsk
    | with_reducible apply keeps_startOut
    | with_reducible refine Keeps.foldl_fst ?_ (fun u a hu => ?_)
    | (fail_if_no_progress refine Keeps.upd ?_ rfl))

theorem keeps_refuseUnit {σ : State} (s : State) (d : Nat) (unsupported : Bool) (h_s : Keeps σ s) :
    Keeps σ (refuseUnit s d unsupported) := by
  unfold refuseUnit
  repeat' (first
    | with_reducible assumption
    | with_reducible apply Keeps.ite
    | with_reducible apply keeps_State_inc
    | with_reducible apply keeps_State_eventRated
    | with_reducible apply keeps_dctxLost)

theorem keeps_takeUnit {σ : State} (s : State) (p d : Nat) (u : AccessUnit) (h_s : Keeps σ s) :
    Keeps σ (takeUnit s p d u) := by
  unfold takeUnit
  repeat' (first
    | with_reducible assumption
    | with_reducible apply keeps_State_inc
    | with_reducible apply keeps_State_setDx
    | with_reducible apply keeps_startPicture
    | with_reducible apply keeps_refuseUnit
    | ((try lift_lets); intro x; try unfold x)
    | split)

theorem keeps_pipeStart {σ : State} (s : State) (p : Nat) (h_s : Keeps σ s) :
    Keeps σ (pipeStart s p) := by
  unfold pipeStart
  repeat' (first
    | with_reducible assumption
    | with_reducible apply keeps_State_updQ
    | with_reducible apply keeps_shed
    | with_reducible apply keeps_takeUnit
    | ((try lift_lets); intro x; try unfold x)
    | split)

theorem keeps_bumpOne {σ : State} (d now : Nat) (s : State) (order : Nat) (h_s : Keeps σ s) :
    Keeps σ (bumpOne d now s order) := by
  unfold bumpOne
  repeat' (first
    | with_reducible assumption
    | with_reducible apply keeps_State_setDx
    | with_reducible apply keeps_releaseOuts
    | with_reducible refine Keeps.foldl ?_ (fun u a hu => ?_))

theorem keeps_finishPicture {σ : State} (s : State) (p : Nat) (j : PicJob) (h_s : Keeps σ s) :
    Keeps σ (finishPicture s p j) := by
  unfold finishPicture
  repeat' (first
    | with_reducible assumption
    | with_reducible apply keeps_State_wr
    | with_reducible apply keeps_State_inc
    | with_reducible apply keeps_State_choose
    | with_reducible apply keeps_State_post
    | with_reducible apply keeps_dctxAsk
    | with_reducible refine Keeps.foldl ?_ (fun u a hu => ?_)
    | split
    | (fail_if_no_progress refine Keeps.upd ?_ rfl))

theorem keeps_pictureDone {σ : State} (s : State) (p : Nat) (h_s : Keeps σ s) :
    Keeps σ (pictureDone s p) := by
  unfold pictureDone
  repeat' (first | with_reducible assumption | with_reducible apply keeps_finishPicture | split)

theorem keeps_keyPacing {σ : State} (s : State) (d : Nat) (h_s : Keeps σ s) :
    Keeps σ (keyPacing s d) := by
  unfold keyPacing
  repeat' (first | with_reducible assumption | with_reducible apply Keeps.ite | with_reducible apply keeps_dctxAsk)

theorem keeps_pipeRetire {σ : State} (s : State) (p : Nat) (h_s : Keeps σ s) :
    Keeps σ (pipeRetire s p) := by
  unfold pipeRetire
  repeat' (first
    | with_reducible assumption
    | with_reducible apply Keeps.ite
    | with_reducible apply keeps_State_wr
    | with_reducible apply keeps_State_event
    | with_reducible apply keeps_finishPicture
    | split)

theorem keeps_execDctxQuiescent {σ : State} (d : Nat) (s : State) (h_s : Keeps σ s) :
    Keeps.outcome σ (execDctxQuiescent d s) := by
  unfold execDctxQuiescent
  repeat' (first
    | with_reducible assumption
    | with_reducible apply Keeps.ite
    | with_reducible apply keeps_dctxQuiescent
    | with_reducible apply Keeps.outcome_next)

theorem keeps_execPipePictureStart {σ : State} (p : Nat) (s : State) (h_s : Keeps σ s) :
    Keeps.outcome σ (execPipePictureStart p s) := by
  unfold execPipePictureStart
  repeat' (first | with_reducible assumption | with_reducible apply keeps_pipeStart | with_reducible apply Keeps.outcome_next)

theorem keeps_execPictureDecodeComplete {σ : State} (p : Nat) (s : State) (h_s : Keeps σ s) :
    Keeps.outcome σ (execPictureDecodeComplete p s) := by
  unfold execPictureDecodeComplete
  repeat' (first | with_reducible assumption | with_reducible apply keeps_pictureDone | with_reducible apply Keeps.outcome_next)

theorem keeps_execKeyRequestPacing {σ : State} (d : Nat) (s : State) (h_s : Keeps σ s) :
    Keeps.outcome σ (execKeyRequestPacing d s) := by
  unfold execKeyRequestPacing
  repeat' (first
    | with_reducible assumption
    | with_reducible apply Keeps.ite
    | with_reducible apply keeps_keyPacing
    | with_reducible apply Keeps.outcome_next)

theorem keeps_execDecodePipeEccError {σ : State} (p : Nat) (s : State) (h_s : Keeps σ s) :
    Keeps.outcome σ (execDecodePipeEccError p s) := by
  unfold execDecodePipeEccError
  repeat' (first
    | with_reducible assumption
    | with_reducible apply Keeps.ite
    | with_reducible apply keeps_pipeRetire
    | with_reducible apply Keeps.outcome_next)

end Sys2Proof.Machine
end

