-- ==== Sys2Proof/Laws/Keeps/Compose.lean ====
section
/-! SUPPORT. What the operations of Machine/Compose.lean keep: the invariants of Keeps, one lemma per definition. -/

namespace Sys2Proof.Machine

set_option linter.unusedTactic false
set_option linter.unreachableTactic false
set_option linter.unusedSimpArgs false
set_option linter.unusedVariables false

theorem keeps_State_setCs {σ : State} (s : State) (c : Nat) (x : CsetRt) (h_s : Keeps σ s) :
    Keeps σ (State.setCs s c x) := by
  unfold State.setCs
  repeat' (first | with_reducible assumption | with_reducible apply Keeps.ite | (fail_if_no_progress refine Keeps.upd ?_ rfl))

theorem keeps_State_setLay {σ : State} (s : State) (v z : Nat) (x : LayRt) (h_s : Keeps σ s) :
    Keeps σ (State.setLay s v z x) := by
  unfold State.setLay
  repeat' (first | with_reducible assumption | with_reducible apply Keeps.ite | (fail_if_no_progress refine Keeps.upd ?_ rfl))

theorem keeps_withWrites {σ : State} (s : State) (ws : List (Nat × Payload)) (h_s : Keeps σ s) :
    Keeps σ (withWrites s ws) := by
  unfold withWrites
  repeat' (first
    | with_reducible assumption
    | with_reducible apply Keeps.ite
    | with_reducible apply keeps_State_wr
    | with_reducible refine Keeps.foldl ?_ (fun u a hu => ?_)
    | split)

theorem keeps_shadowView {s0 : State} (s : State) (h_s : Keeps s0 s) : Keeps s0 (shadowView s) :=
  Keeps.setDict h_s _ (fun _ b => b)

theorem keeps_tickCommit {σ : State} (s : State) (csets : List Nat) (extra : Nat → Bool) (direct : List (Nat × Payload)) (due : Nat) (notify : Option (Chan × Req × Nat)) (h_s : Keeps σ s) :
    Keeps σ (tickCommit s csets extra direct due notify).2.2 := by
  unfold tickCommit
  repeat' (first
    | with_reducible assumption
    | with_reducible apply Keeps.ite
    | with_reducible apply keeps_State_allot
    | ((try lift_lets); intro x; try unfold x)
    | split)

theorem keeps_dropDeferred {σ : State} (s : State) (d : Deferred) (h_s : Keeps σ s) :
    Keeps σ (dropDeferred s d) := by
  unfold dropDeferred
  repeat' (first
    | with_reducible assumption
    | with_reducible apply Keeps.ite
    | with_reducible refine Keeps.foldl ?_ (fun u a hu => ?_)
    | (fail_if_no_progress refine Keeps.upd ?_ rfl))

theorem keeps_operatorImageWrite {σ : State} (s : State) (i : Nat) (img : OpImage) (h_s : Keeps σ s) :
    Keeps σ (operatorImageWrite s i img).2 := by
  unfold operatorImageWrite
  repeat' (first
    | with_reducible assumption
    | with_reducible apply Keeps.ite
    | with_reducible apply Keeps.ite_snd
    | with_reducible apply keeps_State_wr
    | (fail_if_no_progress refine Keeps.upd ?_ rfl))

theorem keeps_releaseLayer {σ : State} (s : State) (v z : Nat) (h_s : Keeps σ s) :
    Keeps σ (releaseLayer s v z) := by
  unfold releaseLayer
  repeat' (first
    | with_reducible assumption
    | with_reducible apply Keeps.ite
    | with_reducible apply keeps_outRead
    | with_reducible apply keeps_State_setLay
    | split)

theorem keeps_cleanSet {σ : State} (s : State) (c : Nat) (h_s : Keeps σ s) :
    Keeps σ (cleanSet s c) := by
  unfold cleanSet
  repeat' (first
    | with_reducible assumption
    | with_reducible apply Keeps.ite
    | with_reducible apply keeps_State_unallot
    | with_reducible apply keeps_State_setCs)

theorem keeps_activateLayer {σ : State} (k : Nat) (s : State) (vz : Nat × Nat) (h_s : Keeps σ s) :
    Keeps σ (activateLayer k s vz) := by
  unfold activateLayer
  repeat' (first
    | with_reducible assumption
    | with_reducible apply Keeps.ite
    | with_reducible apply keeps_State_setLay
    | with_reducible apply keeps_releaseLayer)

theorem keeps_activateSet {σ : State} (before s : State) (c k due : Nat) (imgs : List ImgCopy) (h_before : Keeps σ before) (h_s : Keeps σ s) :
    Keeps σ (activateSet before s c k due imgs) := by
  unfold activateSet
  repeat' (first
    | with_reducible assumption
    | with_reducible apply Keeps.ite
    | with_reducible apply keeps_State_wr
    | with_reducible apply keeps_State_setCs
    | with_reducible apply keeps_State_setLay
    | with_reducible apply keeps_releaseLayer
    | with_reducible apply keeps_cleanSet
    | with_reducible apply keeps_activateLayer
    | with_reducible refine Keeps.foldl ?_ (fun u a hu => ?_))

theorem keeps_activateCommit {σ : State} (s : State) (k : Nat) (d : Deferred) (h_s : Keeps σ s) :
    Keeps σ (activateCommit s k d) := by
  unfold activateCommit
  repeat' (first
    | with_reducible assumption
    | with_reducible apply Keeps.ite
    | with_reducible apply keeps_outActivate
    | with_reducible apply keeps_withWrites
    | with_reducible apply keeps_activateSet
    | with_reducible refine Keeps.foldl ?_ (fun u a hu => ?_))

theorem keeps_evalVideo {σ : State} (s : State) (hidden : Bool) (v z k instant : Nat) (h_s : Keeps σ s) :
    Keeps σ (evalVideo s hidden v z k instant).2 := by
  unfold evalVideo
  dsimp only
  split
  · exact keeps_State_wr _ _ _ (keeps_releaseLayer _ _ _ h_s)
  · split
    · exact keeps_State_wr _ _ _ (keeps_State_wr _ _ _ (keeps_State_setLay _ _ _ _ (keeps_outRead _ _ _ _ (keeps_releaseLayer _ _ _ h_s))))
    · generalize min 255 _ = stale
      split
      · exact keeps_State_wr _ _ _ (keeps_State_inc _ _ (keeps_State_wr _ _ _ (keeps_State_setLay _ _ _ _ h_s)))
      · exact keeps_State_eventRated _ _ _ _ _ (keeps_State_inc _ _ (keeps_State_wr _ _ _ (keeps_State_inc _ _ (keeps_State_wr _ _ _ (keeps_State_setLay _ _ _ _ h_s)))))

theorem keeps_evalLayer {σ : State} (x : CsetRt) (k instant : Nat) (acc : List (Nat × LayerPix) × State) (vz : Nat × Nat) (h_acc : Keeps σ acc.2) :
    Keeps σ (evalLayer x k instant acc vz).2 := by
  unfold evalLayer
  repeat' (first | with_reducible assumption | with_reducible apply Keeps.ite | with_reducible apply keeps_evalVideo | split)

theorem keeps_tickSet {σ : State} (k instant : Nat) (s : State) (c : Nat) (h_s : Keeps σ s) : Keeps σ (tickSet k instant s c) := by
  unfold tickSet
  dsimp only
  generalize hf : List.foldl (evalLayer (s.cs c) k instant) ([], s) _ = r
  have h1 : Keeps σ r.2 := by
    rw [← hf]
    exact Keeps.foldl_snd h_s (fun q a hq => keeps_evalLayer _ _ _ _ _ hq)
  generalize hs2 : (if opPassed s (s.rd (Obj.csetBase c)) k = true then r.2 else _ : State) = s2
  have h2 : Keeps σ s2 := by
    rw [← hs2]
    split
    · exact h1
    · split
      · exact keeps_State_inc _ _ h1
      · exact keeps_State_event _ _ _ _ (keeps_State_inc _ _ h1)
  have h3 := keeps_State_setCs s2 c { s2.cs c with failing := !opPassed s (s.rd (Obj.csetBase c)) k } h2
  split
  · exact Keeps.foldl h3 (fun u a hu => keeps_State_eventRated _ _ _ _ _ (keeps_State_inc _ _ hu))
  · repeat' (first
      | with_reducible assumption
      | with_reducible apply keeps_State_setCs
      | with_reducible apply keeps_State_wr
      | with_reducible apply keeps_outRead
      | with_reducible refine Keeps.foldl ?_ (fun u a hu => ?_)
      | split
      | (refine Keeps.upd ?_ rfl))

theorem keeps_composeTick {σ : State} (s : State) (k instant : Nat) (h_s : Keeps σ s) :
    Keeps σ (composeTick s k instant) := by
  unfold composeTick
  repeat' (first
    | with_reducible assumption
    | with_reducible apply Keeps.ite
    | with_reducible apply keeps_tickSet
    | with_reducible refine Keeps.foldl ?_ (fun u a hu => ?_)
    | (fail_if_no_progress refine Keeps.upd ?_ rfl))

theorem keeps_bandDone {σ : State} (s : State) (m : Nat) (h_s : Keeps σ s) :
    Keeps σ (bandDone s m) := by
  unfold bandDone
  repeat' (first
    | with_reducible assumption
    | with_reducible apply Keeps.ite
    | with_reducible apply keeps_State_wr
    | with_reducible apply keeps_State_inc
    | with_reducible apply keeps_State_eventRated
    | with_reducible apply keeps_outRead
    | with_reducible refine Keeps.foldl ?_ (fun u a hu => ?_)
    | split
    | (fail_if_no_progress refine Keeps.upd ?_ rfl))

theorem keeps_checkStart {σ : State} (s : State) (h_s : Keeps σ s) :
    Keeps σ (checkStart s) := by
  unfold checkStart
  repeat' (first | with_reducible assumption | with_reducible apply Keeps.ite | (fail_if_no_progress refine Keeps.upd ?_ rfl))

theorem keeps_checkDone {σ : State} (s : State) (i : Nat) (h_s : Keeps σ s) :
    Keeps σ (checkDone s i) := by
  unfold checkDone
  repeat' (first | with_reducible assumption | with_reducible apply Keeps.ite | (fail_if_no_progress refine Keeps.upd ?_ rfl))

theorem keeps_layoutLoad {σ : State} (s : State) (i : Image) (h_s : Keeps σ s) :
    Keeps σ (layoutLoad s i).2 := by
  unfold layoutLoad
  repeat' (first | with_reducible assumption | with_reducible apply Keeps.ite | (fail_if_no_progress refine Keeps.upd ?_ rfl))

theorem keeps_layoutUnload {σ : State} (s : State) (n : Nat) (h_s : Keeps σ s) :
    Keeps σ (layoutUnload s n).2 := by
  unfold layoutUnload
  repeat' (first
    | with_reducible assumption
    | with_reducible apply Keeps.ite
    | with_reducible apply Keeps.ite_snd
    | (fail_if_no_progress refine Keeps.upd ?_ rfl))

theorem keeps_layoutRun {σ : State} (s : State) (c : Nat) (h_s : Keeps σ s) :
    Keeps σ (layoutRun s c) := by
  unfold layoutRun
  repeat' (first
    | with_reducible assumption
    | with_reducible apply Keeps.ite
    | with_reducible apply keeps_State_inc
    | with_reducible apply keeps_State_setCs
    | ((try lift_lets); intro x; try unfold x)
    | split)

theorem keeps_layoutLimit {σ : State} (s : State) (c : Nat) (h_s : Keeps σ s) :
    Keeps σ (layoutLimit s c) := by
  unfold layoutLimit
  repeat' (first
    | with_reducible assumption
    | with_reducible apply Keeps.ite
    | with_reducible apply keeps_State_event
    | with_reducible apply keeps_State_setCs
    | ((try lift_lets); intro x; try unfold x)
    | split)

theorem keeps_execOplayerCheckStart {σ : State} (s : State) (h_s : Keeps σ s) :
    Keeps.outcome σ (execOplayerCheckStart s) := by
  unfold execOplayerCheckStart
  repeat' (first
    | with_reducible assumption
    | with_reducible apply Keeps.ite
    | with_reducible apply keeps_checkStart
    | with_reducible apply Keeps.outcome_next)

theorem keeps_execOplayerCheckDone {σ : State} (i : Nat) (s : State) (h_s : Keeps σ s) :
    Keeps.outcome σ (execOplayerCheckDone i s) := by
  unfold execOplayerCheckDone
  repeat' (first
    | with_reducible assumption
    | with_reducible apply Keeps.ite
    | with_reducible apply keeps_checkDone
    | with_reducible apply Keeps.outcome_next)

theorem keeps_execComposeBandDone {σ : State} (m : Nat) (s : State) (h_s : Keeps σ s) :
    Keeps.outcome σ (execComposeBandDone m s) := by
  unfold execComposeBandDone
  repeat' (first
    | with_reducible assumption
    | with_reducible apply Keeps.ite
    | with_reducible apply keeps_bandDone
    | with_reducible apply Keeps.outcome_next)

theorem keeps_execLayoutRun {σ : State} (c : Nat) (s : State) (h_s : Keeps σ s) :
    Keeps.outcome σ (execLayoutRun c s) := by
  unfold execLayoutRun
  repeat' (first
    | with_reducible assumption
    | with_reducible apply Keeps.ite
    | with_reducible apply keeps_layoutRun
    | with_reducible apply Keeps.outcome_next)

theorem keeps_execLayoutRunLimit {σ : State} (c : Nat) (s : State) (h_s : Keeps σ s) :
    Keeps.outcome σ (execLayoutRunLimit c s) := by
  unfold execLayoutRunLimit
  repeat' (first
    | with_reducible assumption
    | with_reducible apply Keeps.ite
    | with_reducible apply keeps_layoutLimit
    | with_reducible apply Keeps.outcome_next)

end Sys2Proof.Machine
end

