-- ==== Sys2Proof/Laws/Keeps/Encode.lean ====
section
/-! SUPPORT. What the operations of Machine/Encode.lean keep: the invariants of Keeps, one lemma per definition. -/

namespace Sys2Proof.Machine

set_option linter.unusedTactic false
set_option linter.unreachableTactic false
set_option linter.unusedSimpArgs false
set_option linter.unusedVariables false

theorem keeps_State_setAx {σ : State} (s : State) (a : Nat) (x : ActxRt) (h_s : Keeps σ s) :
    Keeps σ (State.setAx s a x) := by
  unfold State.setAx
  repeat' (first | with_reducible assumption | with_reducible apply Keeps.ite | (fail_if_no_progress refine Keeps.upd ?_ rfl))

theorem keeps_State_setRx {σ : State} (s : State) (r : Nat) (x : RctxRt) (h_s : Keeps σ s) :
    Keeps σ (State.setRx s r x) := by
  unfold State.setRx
  repeat' (first | with_reducible assumption | with_reducible apply Keeps.ite | (fail_if_no_progress refine Keeps.upd ?_ rfl))

theorem keeps_holdBuf {σ : State} (s : State) (c b : Nat) (take : Bool) (h_s : Keeps σ s) :
    Keeps σ (holdBuf s c b take) := by
  unfold holdBuf
  repeat' (first
    | with_reducible assumption
    | with_reducible apply Keeps.ite
    | with_reducible apply keeps_State_setCs
    | with_reducible apply keeps_cleanSet)

theorem keeps_actxQuiesce {σ : State} (s : State) (a : Nat) (h_s : Keeps σ s) :
    Keeps σ (actxQuiesce s a) := by
  unfold actxQuiesce
  repeat' (first
    | with_reducible assumption
    | with_reducible apply Keeps.ite
    | with_reducible apply keeps_State_unallot
    | with_reducible apply keeps_State_setAx)

theorem keeps_actxEnable {σ : State} (s0 : State) (a : Nat) (h_s0 : Keeps σ s0) :
    Keeps σ (actxEnable s0 a).2 := by
  unfold actxEnable
  repeat' (first
    | with_reducible assumption
    | with_reducible apply Keeps.ite
    | with_reducible apply Keeps.ite_snd
    | with_reducible apply keeps_State_wr
    | with_reducible apply keeps_State_setQ
    | with_reducible apply keeps_State_allot
    | with_reducible apply keeps_State_setAx
    | with_reducible apply keeps_actxQuiesce
    | split)

theorem keeps_actxDisable {σ : State} (s : State) (a : Nat) (h_s : Keeps σ s) :
    Keeps σ (actxDisable s a).2 := by
  unfold actxDisable
  repeat' (first
    | with_reducible assumption
    | with_reducible apply Keeps.ite
    | with_reducible apply keeps_State_wr
    | with_reducible apply keeps_actxQuiesce
    | with_reducible refine Keeps.foldl ?_ (fun u a hu => ?_)
    | split
    | (fail_if_no_progress refine Keeps.upd ?_ rfl))

theorem keeps_actxStateWrite {σ : State} (s : State) (a v : Nat) (h_s : Keeps σ s) :
    Keeps σ (actxStateWrite s a v).2 := by
  unfold actxStateWrite
  repeat' (first
    | with_reducible assumption
    | with_reducible apply Keeps.ite
    | with_reducible apply Keeps.ite_snd
    | with_reducible apply keeps_actxEnable
    | with_reducible apply keeps_actxDisable)

theorem keeps_analysisActivate {σ : State} (s : State) (c : Nat) (h_s : Keeps σ s) :
    Keeps σ (analysisActivate s c) := by
  unfold analysisActivate
  repeat' (first
    | with_reducible assumption
    | with_reducible apply Keeps.ite
    | with_reducible apply keeps_State_unallot
    | with_reducible apply keeps_State_setAx
    | split)

theorem keeps_activateTick {σ : State} (s : State) (k : Nat) (d : Deferred) (h_s : Keeps σ s) :
    Keeps σ (activateTick s k d) := by
  unfold activateTick
  repeat' (first
    | with_reducible assumption
    | with_reducible apply Keeps.ite
    | with_reducible apply keeps_activateCommit
    | with_reducible apply keeps_analysisActivate
    | with_reducible refine Keeps.foldl ?_ (fun u a hu => ?_))

theorem keeps_rctxQuiesce {σ : State} (s : State) (r : Nat) (h_s : Keeps σ s) :
    Keeps σ (rctxQuiesce s r) := by
  unfold rctxQuiesce
  repeat' (first
    | with_reducible assumption
    | with_reducible apply Keeps.ite
    | with_reducible apply keeps_State_setQ
    | with_reducible apply keeps_State_unallot
    | with_reducible apply keeps_State_setRx)

theorem keeps_rctxEnable {σ : State} (s0 : State) (r : Nat) (h_s0 : Keeps σ s0) : Keeps σ (rctxEnable s0 r).2 := by
  unfold rctxEnable
  have hq := keeps_rctxQuiesce s0 r h_s0
  generalize rctxQuiesce s0 r = s at hq
  dsimp only
  repeat' (first
    | with_reducible assumption
    | with_reducible apply keeps_State_wr
    | with_reducible apply keeps_State_setRx
    | with_reducible apply keeps_State_allot
    | with_reducible apply keeps_State_setQ
    | with_reducible apply Keeps.ite_snd)

theorem keeps_dropTodo {σ : State} (s : State) (r : Nat) (h_s : Keeps σ s) :
    Keeps σ (dropTodo s r) := by
  unfold dropTodo
  repeat' (first
    | with_reducible assumption
    | with_reducible apply Keeps.ite
    | with_reducible apply keeps_State_setRx
    | with_reducible apply keeps_holdBuf
    | with_reducible refine Keeps.foldl ?_ (fun u a hu => ?_))

theorem keeps_rctxDisable {σ : State} (s : State) (r : Nat) (h_s : Keeps σ s) :
    Keeps σ (rctxDisable s r) := by
  unfold rctxDisable
  repeat' (first
    | with_reducible assumption
    | with_reducible apply Keeps.ite
    | with_reducible apply keeps_State_wr
    | with_reducible apply keeps_State_setRx
    | with_reducible apply keeps_rctxQuiesce
    | with_reducible apply keeps_dropTodo)

theorem keeps_rctxStateWrite {σ : State} (s : State) (r v : Nat) (h_s : Keeps σ s) :
    Keeps σ (rctxStateWrite s r v).2 := by
  unfold rctxStateWrite
  repeat' (first
    | with_reducible assumption
    | with_reducible apply Keeps.ite
    | with_reducible apply Keeps.ite_snd
    | with_reducible apply keeps_rctxEnable
    | with_reducible apply keeps_rctxDisable)

theorem keeps_State_setAdapt {σ : State} (s : State) (l : Nat) (x : AdaptRt) (h_s : Keeps σ s) :
    Keeps σ (State.setAdapt s l x) := by
  unfold State.setAdapt
  repeat' (first | with_reducible assumption | with_reducible apply Keeps.ite | (fail_if_no_progress refine Keeps.upd ?_ rfl))

theorem keeps_raiseKey {σ : State} (s : State) (r : Nat) (pli : Bool) (h_s : Keeps σ s) :
    Keeps σ (raiseKey s r pli) := by
  unfold raiseKey
  repeat' (first
    | with_reducible assumption
    | with_reducible apply Keeps.ite
    | with_reducible apply keeps_State_inc
    | with_reducible apply keeps_State_setRx)

theorem keeps_periodicKey {σ : State} (s : State) (r : Nat) (h_s : Keeps σ s) :
    Keeps σ (periodicKey s r) := by
  unfold periodicKey
  repeat' (first
    | with_reducible assumption
    | with_reducible apply Keeps.ite
    | with_reducible apply keeps_State_setRx
    | with_reducible apply keeps_raiseKey
    | ((try lift_lets); intro x; try unfold x)
    | split)

theorem keeps_ltrExpiry {σ : State} (s : State) (r : Nat) (h_s : Keeps σ s) :
    Keeps σ (ltrExpiry s r) := by
  unfold ltrExpiry
  repeat' (first | with_reducible assumption | with_reducible apply Keeps.ite | with_reducible apply keeps_State_setRx)

theorem keeps_rctxLost {σ : State} (s : State) (r : Nat) (h_s : Keeps σ s) :
    Keeps σ (rctxLost s r) := by
  unfold rctxLost
  repeat' (first | with_reducible assumption | with_reducible apply Keeps.ite | with_reducible apply keeps_State_setRx)

theorem keeps_rctxRestart {σ : State} (s : State) (r : Nat) (h_s : Keeps σ s) :
    Keeps σ (rctxRestart s r) := by
  unfold rctxRestart
  repeat' (first
    | with_reducible assumption
    | with_reducible apply Keeps.ite
    | with_reducible apply keeps_State_wr
    | with_reducible apply keeps_State_setRx)

theorem keeps_encodeTick {σ : State} (s : State) (k : Nat) (h_s : Keeps σ s) :
    Keeps σ (encodeTick s k) := by
  unfold encodeTick
  repeat' (first
    | with_reducible assumption
    | with_reducible apply Keeps.ite
    | with_reducible apply keeps_State_wr
    | with_reducible apply keeps_State_inc
    | with_reducible apply keeps_State_push
    | with_reducible apply keeps_holdBuf
    | with_reducible refine Keeps.foldl ?_ (fun u a hu => ?_)
    | ((try lift_lets); intro x; try unfold x)
    | refine Keeps.snd (by assumption) ?_
    | split)

theorem keeps_beginRec {σ : State} (s : State) (a k : Nat) (content : List Composed) (h_s : Keeps σ s) :
    Keeps σ (beginRec s a k content) := by
  unfold beginRec
  repeat' (first | with_reducible assumption | with_reducible apply Keeps.ite | with_reducible apply keeps_State_setAx)

theorem keeps_startPass {σ : State} (s : State) (a : Nat) (h_s : Keeps σ s) :
    Keeps σ (startPass s a) := by
  unfold startPass
  repeat' (first
    | with_reducible assumption
    | with_reducible apply Keeps.ite
    | with_reducible apply keeps_State_updQ
    | split
    | (fail_if_no_progress refine Keeps.upd ?_ rfl))

theorem keeps_readyPictures {σ : State} (s : State) (p : Pass) (h_s : Keeps σ s) :
    Keeps σ (readyPictures s p) := by
  unfold readyPictures
  repeat' (first
    | with_reducible assumption
    | with_reducible apply Keeps.ite
    | with_reducible apply keeps_State_setRx
    | with_reducible apply keeps_holdBuf
    | with_reducible refine Keeps.foldl ?_ (fun u a hu => ?_))

theorem keeps_analysisBand {σ : State} (s0 : State) (f : Nat) (h_s0 : Keeps σ s0) :
    Keeps σ (analysisBand s0 f) := by
  unfold analysisBand
  repeat' (first
    | with_reducible assumption
    | with_reducible apply Keeps.ite
    | with_reducible apply keeps_State_count
    | with_reducible apply keeps_startPass
    | with_reducible apply keeps_readyPictures
    | ((try lift_lets); intro x; try unfold x)
    | split
    | (fail_if_no_progress refine Keeps.upd ?_ rfl))

theorem keeps_codePicture {σ : State} (s : State) (b r k c buf f60 : Nat) (kind : PicKind) (late : Bool) (h_s : Keeps σ s) :
    Keeps σ (codePicture s b r k c buf f60 kind late) := by
  unfold codePicture
  dsimp only
  refine Keeps.upd (keeps_State_wr _ _ _ (Keeps.upd ?_ rfl)) rfl
  split
  · exact keeps_State_inc _ _ h_s
  · exact h_s

theorem keeps_backStart {σ : State} (s : State) (b : Nat) (h_s : Keeps σ s) :
    Keeps σ (backStart s b) := by
  unfold backStart skipPicture
  repeat' (first
    | with_reducible assumption
    | with_reducible apply Keeps.ite
    | with_reducible apply keeps_State_inc
    | with_reducible apply keeps_holdBuf
    | with_reducible apply keeps_codePicture
    | split
    | (fail_if_no_progress refine Keeps.upd ?_ rfl))

theorem keeps_State_setBack {σ : State} (s : State) (b : Nat) (j : BeJob) (h_s : Keeps σ s) :
    Keeps σ (State.setBack s b j) := by
  unfold State.setBack
  repeat' (first | with_reducible assumption | with_reducible apply Keeps.ite | (fail_if_no_progress refine Keeps.upd ?_ rfl))

theorem keeps_rcStart {σ : State} (s : State) (b t qp : Nat) (h_s : Keeps σ s) :
    Keeps σ (rcStart s b t qp) := by
  unfold rcStart
  repeat' (first | with_reducible assumption | with_reducible apply Keeps.ite | with_reducible apply keeps_State_setBack | split)

theorem keeps_rcBand {σ : State} (s : State) (b qp : Nat) (h_s : Keeps σ s) :
    Keeps σ (rcBand s b qp) := by
  unfold rcBand
  repeat' (first | with_reducible assumption | with_reducible apply Keeps.ite | with_reducible apply keeps_State_setBack | split)

theorem keeps_rcLimit {σ : State} (s : State) (b : Nat) (h_s : Keeps σ s) :
    Keeps σ (rcLimit s b) := by
  unfold rcLimit
  repeat' (first
    | with_reducible assumption
    | with_reducible apply Keeps.ite
    | with_reducible apply keeps_State_inc
    | with_reducible apply keeps_State_eventRated
    | with_reducible apply keeps_State_setBack
    | split)

theorem keeps_codeBand {σ : State} (s : State) (b : Nat) (j : BeJob) (bb : BandBits) (h_s : Keeps σ s) :
    Keeps σ (codeBand s b j bb) := by
  unfold codeBand
  repeat' (first
    | with_reducible assumption
    | with_reducible apply Keeps.ite
    | with_reducible apply keeps_State_wr
    | with_reducible apply keeps_State_count
    | with_reducible apply keeps_State_inc
    | with_reducible apply keeps_State_eventRated
    | with_reducible apply keeps_State_setBack)

theorem keeps_bandCode {σ : State} (s : State) (b : Nat) (bb : BandBits) (h_s : Keeps σ s) :
    Keeps σ (bandCode s b bb) := by
  unfold bandCode
  repeat' (first
    | with_reducible assumption
    | with_reducible apply Keeps.ite
    | with_reducible apply keeps_State_post
    | with_reducible apply keeps_State_setBack
    | with_reducible apply keeps_codeBand
    | split)

theorem keeps_trellisFallback {σ : State} (s : State) (b : Nat) (j : BeJob) (bb : BandBits) (h_s : Keeps σ s) :
    Keeps σ (trellisFallback s b j bb) := by
  unfold trellisFallback
  repeat' (first
    | with_reducible assumption
    | with_reducible apply Keeps.ite
    | with_reducible apply keeps_State_inc
    | with_reducible apply keeps_codeBand)

theorem keeps_trellisResult {σ : State} (s : State) (b status : Nat) (h_s : Keeps σ s) :
    Keeps σ (trellisResult s b status) := by
  unfold trellisResult
  repeat' (first
    | with_reducible assumption
    | with_reducible apply Keeps.ite
    | with_reducible apply keeps_codeBand
    | with_reducible apply keeps_trellisFallback
    | split)

theorem keeps_trellisExpiry {σ : State} (s : State) (b : Nat) (h_s : Keeps σ s) :
    Keeps σ (trellisExpiry s b) := by
  unfold trellisExpiry
  repeat' (first
    | with_reducible assumption
    | with_reducible apply Keeps.ite
    | with_reducible apply keeps_State_withdraw
    | with_reducible apply keeps_trellisFallback
    | split
    | (fail_if_no_progress refine Keeps.upd ?_ rfl))

theorem keeps_backDone {σ : State} (s : State) (b : Nat) (h_s : Keeps σ s) :
    Keeps σ (backDone s b) := by
  unfold backDone
  repeat' (first
    | with_reducible assumption
    | with_reducible apply Keeps.ite
    | with_reducible apply keeps_holdBuf
    | with_reducible apply keeps_State_wr
    | with_reducible apply keeps_State_inc
    | with_reducible apply keeps_State_push
    | with_reducible apply keeps_rctxQuiesce
    | split
    | (fail_if_no_progress refine Keeps.upd ?_ rfl))

theorem keeps_rcLoad {σ : State} (s : State) (i : Image) (h_s : Keeps σ s) :
    Keeps σ (rcLoad s i).2 := by
  unfold rcLoad
  repeat' (first | with_reducible assumption | with_reducible apply Keeps.ite | (fail_if_no_progress refine Keeps.upd ?_ rfl))

theorem keeps_rcUnload {σ : State} (s : State) (n : Nat) (h_s : Keeps σ s) :
    Keeps σ (rcUnload s n).2 := by
  unfold rcUnload
  repeat' (first
    | with_reducible assumption
    | with_reducible apply Keeps.ite
    | with_reducible apply Keeps.ite_snd
    | (fail_if_no_progress refine Keeps.upd ?_ rfl))

theorem keeps_encodeRetire {σ : State} (s : State) (front : Bool) (n : Nat) (h_s : Keeps σ s) :
    Keeps σ (encodeRetire s front n) := by
  unfold encodeRetire
  repeat' (first
    | with_reducible assumption
    | with_reducible apply Keeps.ite
    | with_reducible apply keeps_State_wr
    | with_reducible apply keeps_State_event
    | with_reducible apply keeps_State_withdraw
    | with_reducible refine Keeps.foldl ?_ (fun u a hu => ?_)
    | split
    | (fail_if_no_progress refine Keeps.upd ?_ rfl))

theorem keeps_execAnalysisBandDone {σ : State} (f : Nat) (s : State) (h_s : Keeps σ s) :
    Keeps.outcome σ (execAnalysisBandDone f s) := by
  unfold execAnalysisBandDone
  repeat' (first
    | with_reducible assumption
    | with_reducible apply Keeps.ite
    | with_reducible apply keeps_analysisBand
    | with_reducible apply Keeps.outcome_next)

theorem keeps_execRenditionPictureStart {σ : State} (b : Nat) (s : State) (h_s : Keeps σ s) :
    Keeps.outcome σ (execRenditionPictureStart b s) := by
  unfold execRenditionPictureStart
  repeat' (first
    | with_reducible assumption
    | with_reducible apply Keeps.ite
    | with_reducible apply keeps_backStart
    | with_reducible apply Keeps.outcome_next)

theorem keeps_execRenditionBandCode {σ : State} (b program maxQp minimal : Nat) (s : State) (h_s : Keeps σ s) :
    Keeps.outcome σ (execRenditionBandCode b program maxQp minimal s) := by
  unfold execRenditionBandCode
  repeat' (first
    | with_reducible assumption
    | with_reducible apply Keeps.ite
    | with_reducible apply keeps_bandCode
    | with_reducible apply Keeps.outcome_next)

theorem keeps_execRcPictureStart {σ : State} (b t qp : Nat) (s : State) (h_s : Keeps σ s) :
    Keeps.outcome σ (execRcPictureStart b t qp s) := by
  unfold execRcPictureStart
  repeat' (first
    | with_reducible assumption
    | with_reducible apply Keeps.ite
    | with_reducible apply keeps_rcStart
    | with_reducible apply Keeps.outcome_next)

theorem keeps_execRcBandEnd {σ : State} (b qp : Nat) (s : State) (h_s : Keeps σ s) :
    Keeps.outcome σ (execRcBandEnd b qp s) := by
  unfold execRcBandEnd
  repeat' (first
    | with_reducible assumption
    | with_reducible apply Keeps.ite
    | with_reducible apply keeps_rcBand
    | with_reducible apply Keeps.outcome_next)

theorem keeps_execRcCallLimit {σ : State} (b : Nat) (s : State) (h_s : Keeps σ s) :
    Keeps.outcome σ (execRcCallLimit b s) := by
  unfold execRcCallLimit
  repeat' (first
    | with_reducible assumption
    | with_reducible apply Keeps.ite
    | with_reducible apply keeps_rcLimit
    | with_reducible apply Keeps.outcome_next)

theorem keeps_execPeriodicKeyExpiry {σ : State} (r : Nat) (s : State) (h_s : Keeps σ s) :
    Keeps.outcome σ (execPeriodicKeyExpiry r s) := by
  unfold execPeriodicKeyExpiry
  repeat' (first
    | with_reducible assumption
    | with_reducible apply Keeps.ite
    | with_reducible apply keeps_periodicKey
    | with_reducible apply Keeps.outcome_next)

theorem keeps_execLtrIntervalExpiry {σ : State} (r : Nat) (s : State) (h_s : Keeps σ s) :
    Keeps.outcome σ (execLtrIntervalExpiry r s) := by
  unfold execLtrIntervalExpiry
  repeat' (first
    | with_reducible assumption
    | with_reducible apply Keeps.ite
    | with_reducible apply keeps_ltrExpiry
    | with_reducible apply Keeps.outcome_next)

theorem keeps_execTrellisResult {σ : State} (b status : Nat) (s : State) (h_s : Keeps σ s) :
    Keeps.outcome σ (execTrellisResult b status s) := by
  unfold execTrellisResult
  repeat' (first
    | with_reducible assumption
    | with_reducible apply Keeps.ite
    | with_reducible apply keeps_trellisResult
    | with_reducible apply Keeps.outcome_next)

theorem keeps_execTrellisWaitExpiry {σ : State} (b : Nat) (s : State) (h_s : Keeps σ s) :
    Keeps.outcome σ (execTrellisWaitExpiry b s) := by
  unfold execTrellisWaitExpiry
  repeat' (first
    | with_reducible assumption
    | with_reducible apply Keeps.ite
    | with_reducible apply keeps_trellisExpiry
    | with_reducible apply Keeps.outcome_next)

theorem keeps_execEncodeUnitEccError {σ : State} (front : Bool) (n : Nat) (s : State) (h_s : Keeps σ s) :
    Keeps.outcome σ (execEncodeUnitEccError front n s) := by
  unfold execEncodeUnitEccError
  repeat' (first
    | with_reducible assumption
    | with_reducible apply Keeps.ite
    | with_reducible apply keeps_encodeRetire
    | with_reducible apply Keeps.outcome_next)

end Sys2Proof.Machine
end

