-- ==== Sys2Proof/Laws/Keeps/Adapt.lean ====
section
/-! SUPPORT. What the operations of Machine/Adapt.lean keep: the invariants of Keeps, one lemma per definition. -/

namespace Sys2Proof.Machine

set_option linter.unusedTactic false
set_option linter.unreachableTactic false
set_option linter.unusedSimpArgs false
set_option linter.unusedVariables false

theorem keeps_State_setFeed {σ : State} (s : State) (l f : Nat) (x : FeedRt) (h_s : Keeps σ s) :
    Keeps σ (State.setFeed s l f x) := by
  unfold State.setFeed
  repeat' (first | with_reducible assumption | with_reducible apply Keeps.ite | (fail_if_no_progress refine Keeps.upd ?_ rfl))

theorem keeps_selectCand {σ : State} (s : State) (l f i : Nat) (h_s : Keeps σ s) :
    Keeps σ (selectCand s l f i) := by
  unfold selectCand
  repeat' (first
    | with_reducible assumption
    | with_reducible apply Keeps.ite
    | with_reducible apply keeps_State_wr
    | with_reducible apply keeps_State_setFeed)

theorem keeps_countFeeds {σ : State} (s : State) (h_s : Keeps σ s) :
    Keeps σ (countFeeds s) := by
  unfold countFeeds
  repeat' (first | with_reducible assumption | with_reducible apply Keeps.ite | with_reducible apply keeps_State_wr)

theorem keeps_feedModeWrite {σ : State} (s : State) (l f v : Nat) (h_s : Keeps σ s) :
    Keeps σ (feedModeWrite s l f v).2 := by
  unfold feedModeWrite
  repeat' (first
    | with_reducible assumption
    | with_reducible apply Keeps.ite
    | with_reducible apply Keeps.ite_snd
    | with_reducible apply keeps_State_wr
    | with_reducible apply keeps_countFeeds
    | (fail_if_no_progress refine Keeps.upd ?_ rfl))

theorem keeps_feedFixedWrite {σ : State} (s : State) (l f i : Nat) (h_s : Keeps σ s) :
    Keeps σ (feedFixedWrite s l f i) := by
  unfold feedFixedWrite
  repeat' (first
    | with_reducible assumption
    | with_reducible apply Keeps.ite
    | with_reducible apply keeps_State_wr
    | with_reducible apply keeps_selectCand)

theorem keeps_askStream {σ : State} (s : State) (st : Stream) (pli : Bool) (h_s : Keeps σ s) :
    Keeps σ (askStream s st pli) := by
  unfold askStream
  repeat' (first
    | with_reducible assumption
    | with_reducible apply Keeps.ite
    | with_reducible apply keeps_State_askKey
    | with_reducible apply keeps_raiseKey
    | split)

theorem keeps_switchExpiry {σ : State} (s : State) (l f : Nat) (h_s : Keeps σ s) :
    Keeps σ (switchExpiry s l f) := by
  unfold switchExpiry
  repeat' (first
    | with_reducible assumption
    | with_reducible apply Keeps.ite
    | with_reducible apply keeps_State_inc
    | with_reducible apply keeps_State_setFeed
    | with_reducible apply keeps_askStream)

theorem keeps_routeKey {σ : State} (s : State) (l ssrc : Nat) (pli : Bool) (h_s : Keeps σ s) :
    Keeps σ (routeKey s l ssrc pli) := by
  unfold routeKey
  repeat' (first | with_reducible assumption | with_reducible apply Keeps.ite | with_reducible apply keeps_askStream | split)

theorem keeps_makeCurrent {σ : State} (s : State) (l f i : Nat) (x : FeedRt) (h_s : Keeps σ s) :
    Keeps σ (makeCurrent s l f i x) := by
  unfold makeCurrent
  repeat' (first
    | with_reducible assumption
    | with_reducible apply Keeps.ite
    | with_reducible apply keeps_State_wr
    | with_reducible apply keeps_State_inc
    | with_reducible apply keeps_State_setFeed)

theorem keeps_feedSend {σ : State} (s : State) (l f : Nat) (p : Rtp) (arrival srcLeg srcEntry srcSeq : Nat) (h_s : Keeps σ s) :
    Keeps σ (feedSend s l f p arrival srcLeg srcEntry srcSeq) := by
  unfold feedSend
  repeat' (first
    | with_reducible assumption
    | with_reducible apply Keeps.ite
    | with_reducible apply keeps_State_sendRtp
    | with_reducible apply keeps_State_setFeed)

theorem keeps_forwardTo {σ : State} (s : State) (l f : Nat) (st : Stream) (p : Rtp) (start : Bool) (arrival srcLeg srcEntry srcSeq : Nat) (h_s : Keeps σ s) :
    Keeps σ (forwardTo s l f st p start arrival srcLeg srcEntry srcSeq) := by
  unfold forwardTo
  repeat' (first
    | with_reducible assumption
    | with_reducible apply Keeps.ite
    | with_reducible apply keeps_State_wr
    | with_reducible apply keeps_makeCurrent
    | with_reducible apply keeps_feedSend
    | (fail_if_no_progress refine Keeps.upd ?_ rfl))

theorem keeps_forwardAll {σ : State} (s : State) (m e : Nat) (p : Rtp) (start : Bool) (arrival : Nat) (h_s : Keeps σ s) :
    Keeps σ (forwardAll s m e p start arrival) := by
  unfold forwardAll
  repeat' (first
    | with_reducible assumption
    | with_reducible apply Keeps.ite
    | with_reducible apply keeps_forwardTo
    | with_reducible refine Keeps.foldl ?_ (fun u a hu => ?_))

theorem keeps_mediaCopies {σ : State} (s : State) (kind id entry : Nat) (m : MediaPkt) (h_s : Keeps σ s) :
    Keeps σ (mediaCopies s kind id entry m) := by
  unfold mediaCopies
  repeat' (first
    | with_reducible assumption
    | with_reducible apply Keeps.ite
    | with_reducible apply keeps_State_fabSend
    | with_reducible refine Keeps.foldl ?_ (fun u a hu => ?_))

theorem keeps_noteLtr {σ : State} (s : State) (l f : Nat) (b : BitPic) (n : Nat) (h_s : Keeps σ s) :
    Keeps σ (noteLtr s l f b n) := by
  unfold noteLtr
  repeat' (first | with_reducible assumption | with_reducible apply Keeps.ite | with_reducible apply keeps_State_setAdapt)

theorem keeps_packetiseFor {σ : State} (b : BitPic) (s : State) (k : Nat) (h_s : Keeps σ s) :
    Keeps σ (packetiseFor b s k) := by
  unfold packetiseFor
  repeat' (first
    | with_reducible assumption
    | with_reducible apply Keeps.ite
    | with_reducible apply keeps_forwardTo
    | with_reducible apply keeps_noteLtr
    | with_reducible refine Keeps.foldl ?_ (fun u a hu => ?_))

theorem keeps_packetise {σ : State} (s : State) (r n : Nat) (h_s : Keeps σ s) : Keeps σ (packetise s r n) := by
  induction n generalizing s with
  | zero => exact h_s
  | succ n ih =>
    unfold packetise
    split
    · split
      · refine ih _ (Keeps.upd ?_ rfl)
        exact Keeps.foldl (Keeps.foldl (keeps_State_updQ _ _ _ h_s) (fun u a hu => keeps_packetiseFor _ _ _ hu))
          (fun u a hu => keeps_mediaCopies _ _ _ _ _ hu)
      · exact ih _ (keeps_State_updQ _ _ _ h_s)
    · exact h_s

theorem keeps_takeItems {σ : State} (s : State) (r : Nat) (h_s : Keeps σ s) :
    Keeps σ (takeItems s r) := by
  unfold takeItems
  repeat' (first
    | with_reducible assumption
    | with_reducible apply Keeps.ite
    | with_reducible apply keeps_rctxQuiesce
    | with_reducible apply keeps_raiseKey
    | with_reducible apply keeps_packetise
    | (fail_if_no_progress refine Keeps.upd ?_ rfl))

theorem keeps_pictureDoneAll {σ : State} (s : State) (b : Nat) (h_s : Keeps σ s) :
    Keeps σ (pictureDoneAll s b) := by
  unfold pictureDoneAll
  repeat' (first
    | with_reducible assumption
    | with_reducible apply Keeps.ite
    | with_reducible apply keeps_backDone
    | with_reducible apply keeps_takeItems
    | split)

theorem keeps_forwardPacket {σ : State} (s : State) (h_s : Keeps σ s) : Keeps σ (forwardPacket s) := by
  unfold forwardPacket
  dsimp only
  split
  · exact h_s
  · exact keeps_forwardAll _ _ _ _ _ _ (keeps_mediaCopies _ _ _ _ _ (Keeps.upd h_s rfl))

theorem keeps_resendPkt {σ : State} (s : State) (l e : Nat) (p : OutPkt) (h_s : Keeps σ s) :
    Keeps σ (resendPkt s l e p) := by
  unfold resendPkt
  repeat' (first
    | with_reducible assumption
    | with_reducible apply Keeps.ite
    | with_reducible apply keeps_State_stampTwcc
    | with_reducible apply keeps_State_protect
    | with_reducible apply keeps_State_sendRtp
    | split)

theorem keeps_nackOne {σ : State} (s : State) (l f e seq : Nat) (h_s : Keeps σ s) :
    Keeps σ (nackOne s l f e seq) := by
  unfold nackOne
  repeat' (first
    | with_reducible assumption
    | with_reducible apply Keeps.ite
    | with_reducible apply keeps_State_inc
    | with_reducible apply keeps_State_setTxE
    | with_reducible apply keeps_resendPkt
    | ((try lift_lets); intro x; try unfold x)
    | split)

theorem keeps_nackResend {σ : State} (s : State) (l media : Nat) (seqs : List Nat) (h_s : Keeps σ s) :
    Keeps σ (nackResend s l media seqs) := by
  unfold nackResend
  repeat' (first
    | with_reducible assumption
    | with_reducible apply Keeps.ite
    | with_reducible apply keeps_State_setAdapt
    | with_reducible apply keeps_nackOne
    | with_reducible refine Keeps.foldl ?_ (fun u a hu => ?_)
    | split)

theorem keeps_reportFeedback {σ : State} (s : State) (l : Nat) (b : ReportBlock) (h_s : Keeps σ s) :
    Keeps σ (reportFeedback s l b) := by
  unfold reportFeedback
  repeat' (first | with_reducible assumption | with_reducible apply Keeps.ite | with_reducible apply keeps_State_setAdapt)

theorem keeps_twccFeedback {σ : State} (s : State) (l : Nat) (arrivals : List (Nat × Nat)) (h_s : Keeps σ s) :
    Keeps σ (twccFeedback s l arrivals) := by
  unfold twccFeedback
  repeat' (first | with_reducible assumption | with_reducible apply Keeps.ite | with_reducible apply keeps_State_setAdapt)

theorem keeps_feedbackPart {σ : State} (l : Nat) (s : State) (p : RtcpPart) (h_s : Keeps σ s) :
    Keeps σ (feedbackPart l s p) := by
  unfold feedbackPart
  repeat' (first
    | with_reducible assumption
    | with_reducible apply Keeps.ite
    | with_reducible apply keeps_State_setLeg
    | with_reducible apply keeps_routeKey
    | with_reducible apply keeps_nackResend
    | with_reducible apply keeps_reportFeedback
    | with_reducible apply keeps_twccFeedback
    | with_reducible refine Keeps.foldl ?_ (fun u a hu => ?_)
    | split)

theorem keeps_feedbackDue {σ : State} (s : State) (l : Nat) (h_s : Keeps σ s) :
    Keeps σ (feedbackDue s l) := by
  unfold feedbackDue
  repeat' (first
    | with_reducible assumption
    | with_reducible apply Keeps.ite
    | with_reducible apply keeps_State_setFeed
    | with_reducible refine Keeps.foldl ?_ (fun u a hu => ?_))

theorem keeps_adaptLoad {σ : State} (s : State) (i : Image) (h_s : Keeps σ s) :
    Keeps σ (adaptLoad s i).2 := by
  unfold adaptLoad
  repeat' (first | with_reducible assumption | with_reducible apply Keeps.ite | (fail_if_no_progress refine Keeps.upd ?_ rfl))

theorem keeps_adaptUnload {σ : State} (s : State) (n : Nat) (h_s : Keeps σ s) :
    Keeps σ (adaptUnload s n).2 := by
  unfold adaptUnload
  repeat' (first
    | with_reducible assumption
    | with_reducible apply Keeps.ite
    | with_reducible apply Keeps.ite_snd
    | (fail_if_no_progress refine Keeps.upd ?_ rfl))

theorem keeps_probePadding {σ : State} (s : State) (l f : Nat) (h_s : Keeps σ s) :
    Keeps σ (probePadding s l f) := by
  unfold probePadding
  repeat' (first
    | with_reducible assumption
    | with_reducible apply Keeps.ite
    | with_reducible apply keeps_State_sendRtp
    | with_reducible refine Keeps.foldl ?_ (fun u a hu => ?_))

theorem keeps_applyTick {σ : State} (s : State) (l f : Nat) (r : AdaptAnswer) (h_s : Keeps σ s) :
    Keeps σ (applyTick s l f r) := by
  unfold applyTick
  repeat' (first
    | with_reducible assumption
    | with_reducible apply Keeps.ite
    | with_reducible apply keeps_State_wr
    | with_reducible apply keeps_State_setFeed
    | with_reducible apply keeps_selectCand
    | with_reducible apply keeps_probePadding
    | split)

theorem keeps_backlogCheck {σ : State} (s : State) (due : Nat) (h_s : Keeps σ s) :
    Keeps σ (backlogCheck s due) := by
  unfold backlogCheck
  repeat' (first
    | with_reducible assumption
    | with_reducible apply Keeps.ite
    | with_reducible apply keeps_State_event
    | (fail_if_no_progress refine Keeps.upd ?_ rfl))

theorem keeps_adaptTick {σ : State} (s : State) (l f a sel probe : Nat) (h_s : Keeps σ s) :
    Keeps σ (adaptTick s l f a sel probe) := by
  unfold adaptTick
  repeat' (first
    | with_reducible assumption
    | with_reducible apply Keeps.ite
    | with_reducible apply keeps_State_setFeed
    | with_reducible apply keeps_applyTick
    | with_reducible apply keeps_backlogCheck)

theorem keeps_adaptFeedback {σ : State} (s : State) (l f : Nat) (h_s : Keeps σ s) :
    Keeps σ (adaptFeedback s l f) := by
  unfold adaptFeedback
  repeat' (first | with_reducible assumption | with_reducible apply Keeps.ite | with_reducible apply keeps_State_setFeed)

theorem keeps_adaptLimit {σ : State} (s : State) (l f : Nat) (tick : Bool) (h_s : Keeps σ s) :
    Keeps σ (adaptLimit s l f tick) := by
  unfold adaptLimit
  repeat' (first
    | with_reducible assumption
    | with_reducible apply Keeps.ite
    | with_reducible apply keeps_State_inc
    | with_reducible apply keeps_State_eventRated
    | with_reducible apply keeps_State_setFeed)

theorem keeps_State_setShaper {σ : State} (s : State) (l : Nat) (x : Shaper) (h_s : Keeps σ s) :
    Keeps σ (State.setShaper s l x) := by
  unfold State.setShaper
  repeat' (first | with_reducible assumption | with_reducible apply Keeps.ite | (fail_if_no_progress refine Keeps.upd ?_ rfl))

theorem keeps_shaperReset {σ : State} (s : State) (l : Nat) (h_s : Keeps σ s) :
    Keeps σ (shaperReset s l) := by
  unfold shaperReset
  repeat' (first | with_reducible assumption | with_reducible apply Keeps.ite | with_reducible apply keeps_State_setShaper)

theorem keeps_groupReset {σ : State} (s : State) (g : Nat) (h_s : Keeps σ s) :
    Keeps σ (groupReset s g) := by
  unfold groupReset
  repeat' (first | with_reducible assumption | with_reducible apply Keeps.ite | (fail_if_no_progress refine Keeps.upd ?_ rfl))

theorem keeps_portReset {σ : State} (s : State) (p : Nat) (h_s : Keeps σ s) :
    Keeps σ (portReset s p) := by
  unfold portReset
  repeat' (first | with_reducible assumption | with_reducible apply Keeps.ite | (fail_if_no_progress refine Keeps.upd ?_ rfl))

theorem keeps_releaseHead {σ : State} (s : State) (port l g : Nat) (h_s : Keeps σ s) : Keeps σ (releaseHead s port l g) := by
  unfold releaseHead
  split
  · dsimp only
    refine keeps_State_emit _ _ (keeps_State_count _ _ _ (keeps_State_inc _ _ (keeps_State_setLeg _ _ _ (Keeps.upd ?_ rfl))))
    exact keeps_State_setShaper _ _ _ (keeps_State_updQ _ _ _ h_s)
  · exact h_s

theorem keeps_markHeld {σ : State} (s : State) (port : Nat) (h_s : Keeps σ s) :
    Keeps σ (markHeld s port) := by
  unfold markHeld
  repeat' (first
    | with_reducible assumption
    | with_reducible apply Keeps.ite
    | with_reducible apply keeps_State_inc
    | with_reducible apply keeps_State_setShaper
    | with_reducible refine Keeps.foldl ?_ (fun u a hu => ?_))

theorem keeps_dropDeficits {σ : State} (s : State) (port : Nat) (h_s : Keeps σ s) :
    Keeps σ (dropDeficits s port) := by
  unfold dropDeficits
  repeat' (first | with_reducible assumption | with_reducible apply Keeps.ite | (fail_if_no_progress refine Keeps.upd ?_ rfl))

theorem keeps_shaperRelease {σ : State} (s0 : State) (port : Nat) (h_s0 : Keeps σ s0) : Keeps σ (shaperRelease s0 port) := by
  unfold shaperRelease
  have hm := keeps_dropDeficits _ port (keeps_markHeld s0 port h_s0)
  generalize dropDeficits (markHeld s0 port) port = s at hm
  dsimp only
  split
  · exact hm
  · exact keeps_releaseHead _ _ _ _ (Keeps.upd (Keeps.foldl hm (fun u a hu => keeps_State_setShaper _ _ _ hu)) rfl)

theorem keeps_shaperAge {σ : State} (s : State) (l : Nat) (h_s : Keeps σ s) : Keeps σ (shaperAge s l) := by
  unfold shaperAge
  split
  · dsimp only
    split
    · exact keeps_State_eventRated _ _ _ _ _ (keeps_State_inc _ _ (keeps_State_setShaper _ _ _ (keeps_State_updQ _ _ _ h_s)))
    · exact h_s
  · exact h_s

theorem keeps_execRenditionPictureDone {σ : State} (b : Nat) (s : State) (h_s : Keeps σ s) :
    Keeps.outcome σ (execRenditionPictureDone b s) := by
  unfold execRenditionPictureDone
  repeat' (first
    | with_reducible assumption
    | with_reducible apply Keeps.ite
    | with_reducible apply keeps_pictureDoneAll
    | with_reducible apply Keeps.outcome_next)

theorem keeps_execAdaptFeedbackCall {σ : State} (l f : Nat) (s : State) (h_s : Keeps σ s) :
    Keeps.outcome σ (execAdaptFeedbackCall l f s) := by
  unfold execAdaptFeedbackCall
  repeat' (first
    | with_reducible assumption
    | with_reducible apply Keeps.ite
    | with_reducible apply keeps_adaptFeedback
    | with_reducible apply Keeps.outcome_next)

theorem keeps_execAdaptTick {σ : State} (l f a sel probe : Nat) (s : State) (h_s : Keeps σ s) :
    Keeps.outcome σ (execAdaptTick l f a sel probe s) := by
  unfold execAdaptTick
  repeat' (first
    | with_reducible assumption
    | with_reducible apply Keeps.ite
    | with_reducible apply keeps_adaptTick
    | with_reducible apply Keeps.outcome_next)

theorem keeps_execAdaptCallLimit {σ : State} (l f : Nat) (tick : Bool) (s : State) (h_s : Keeps σ s) :
    Keeps.outcome σ (execAdaptCallLimit l f tick s) := by
  unfold execAdaptCallLimit
  repeat' (first
    | with_reducible assumption
    | with_reducible apply Keeps.ite
    | with_reducible apply keeps_adaptLimit
    | with_reducible apply Keeps.outcome_next)

theorem keeps_execForwardPacket {σ : State} (s : State) (h_s : Keeps σ s) :
    Keeps.outcome σ (execForwardPacket s) := by
  unfold execForwardPacket
  repeat' (first
    | with_reducible assumption
    | with_reducible apply Keeps.ite
    | with_reducible apply keeps_forwardPacket
    | with_reducible apply Keeps.outcome_next)

theorem keeps_execSwitchKeyWaitExpiry {σ : State} (l f : Nat) (s : State) (h_s : Keeps σ s) :
    Keeps.outcome σ (execSwitchKeyWaitExpiry l f s) := by
  unfold execSwitchKeyWaitExpiry
  repeat' (first
    | with_reducible assumption
    | with_reducible apply Keeps.ite
    | with_reducible apply keeps_switchExpiry
    | with_reducible apply Keeps.outcome_next)

theorem keeps_execShaperRelease {σ : State} (port : Nat) (s : State) (h_s : Keeps σ s) :
    Keeps.outcome σ (execShaperRelease port s) := by
  unfold execShaperRelease
  repeat' (first
    | with_reducible assumption
    | with_reducible apply Keeps.ite
    | with_reducible apply keeps_shaperRelease
    | with_reducible apply Keeps.outcome_next)

theorem keeps_execShaperAgeOut {σ : State} (l : Nat) (s : State) (h_s : Keeps σ s) :
    Keeps.outcome σ (execShaperAgeOut l s) := by
  unfold execShaperAgeOut
  repeat' (first
    | with_reducible assumption
    | with_reducible apply Keeps.ite
    | with_reducible apply keeps_shaperAge
    | with_reducible apply Keeps.outcome_next)

end Sys2Proof.Machine
end

