-- ==== Sys2Proof/Laws/Keeps/LegRx.lean ====
section
/-! SUPPORT. What the operations of Machine/LegRx.lean keep: the invariants of Keeps, one lemma per definition. -/

namespace Sys2Proof.Machine

set_option linter.unusedTactic false
set_option linter.unreachableTactic false
set_option linter.unusedSimpArgs false
set_option linter.unusedVariables false

theorem keeps_setMapping {σ : State} (s : State) (l ts seq arrivalTod depth : Nat) (h_s : Keeps σ s) :
    Keeps σ (setMapping s l ts seq arrivalTod depth) := by
  unfold setMapping
  repeat' (first | with_reducible assumption | with_reducible apply keeps_State_setLeg | refine fun _ => ?_)

theorem keeps_passLost {σ : State} (s : State) (l p : Nat) (h_s : Keeps σ s) :
    Keeps σ (passLost s l p) := by
  unfold passLost
  repeat' (first | with_reducible assumption | with_reducible apply keeps_State_count | with_reducible apply keeps_State_setLeg)

theorem keeps_placeAudio {σ : State} (s : State) (l e seq : Nat) (p : Rtp) (arrival : Nat) (h_s : Keeps σ s) :
    Keeps σ (placeAudio s l e seq p arrival) := by
  unfold placeAudio
  repeat' (first
    | with_reducible assumption
    | with_reducible apply Keeps.ite
    | with_reducible apply keeps_State_inc
    | with_reducible apply keeps_State_setRxE
    | with_reducible apply keeps_setMapping
    | with_reducible apply keeps_passLost)

theorem keeps_depthAdjust {σ : State} (s : State) (l : Nat) (h_s : Keeps σ s) :
    Keeps σ (depthAdjust s l) := by
  unfold depthAdjust
  repeat' (first
    | with_reducible assumption
    | with_reducible apply Keeps.ite
    | with_reducible apply keeps_State_wr
    | with_reducible apply keeps_State_setLeg)

theorem keeps_postUnit {σ : State} (s : State) (l e ts : Nat) (missing : Bool) (h_s : Keeps σ s) :
    Keeps σ (postUnit s l e ts missing).2 := by
  unfold postUnit
  repeat' (first
    | with_reducible assumption
    | with_reducible apply keeps_State_setQ
    | with_reducible apply keeps_State_push
    | with_reducible apply keeps_State_setRxE
    | ((try lift_lets); intro x; try unfold x)
    | refine Keeps.snd (by assumption) ?_
    | split)

theorem keeps_postComplete {σ : State} (l e n : Nat) (s : State) (h_s : Keeps σ s) : Keeps σ (postComplete l e n s) := by
  induction n generalizing s with
  | zero => exact h_s
  | succ n ih =>
    unfold postComplete
    dsimp only
    split
    · exact h_s
    · split
      · have hp := fun t => keeps_postUnit s l e t false h_s
        split
        · rename_i e
          exact ih _ (Keeps.snd e (hp _))
        · exact h_s
      · exact h_s

theorem keeps_ringRoom {σ : State} (l e need cap n : Nat) (s : State) (h_s : Keeps σ s) : Keeps σ (ringRoom l e need cap n s) := by
  induction n generalizing s with
  | zero => exact h_s
  | succ n ih =>
    unfold ringRoom
    dsimp only
    split
    · exact h_s
    · split
      · exact h_s
      · split
        · exact ih _ (keeps_State_setRxE _ _ _ _ h_s)
        · exact ih _ (keeps_State_inc _ _ (keeps_State_setRxE _ _ _ _ h_s))

theorem keeps_placeVideo {σ : State} (s : State) (l e seq : Nat) (p : Rtp) (arrival : Nat) (h_s : Keeps σ s) :
    Keeps σ (placeVideo s l e seq p arrival) := by
  unfold placeVideo
  dsimp only
  split
  · exact Keeps.upd h_s rfl
  · exact keeps_postComplete _ _ _ _ (keeps_State_setRxE _ _ _ _ (keeps_ringRoom _ _ _ _ _ _ (Keeps.upd h_s rfl)))

theorem keeps_videoWait {σ : State} (s : State) (l e : Nat) (h_s : Keeps σ s) : Keeps σ (videoWait s l e) := by
  unfold videoWait
  dsimp only
  split
  · exact h_s
  · split
    · have hp := fun t => keeps_postUnit s l e t true h_s
      split
      · rename_i e
        exact keeps_postComplete _ _ _ _ (Keeps.snd e (hp _))
      · exact h_s
    · exact h_s

theorem keeps_askGaps {σ : State} (s : State) (l e : Nat) (due : Gap → Bool) (h_s : Keeps σ s) :
    Keeps σ (askGaps s l e due) := by
  unfold askGaps
  repeat' (first
    | with_reducible assumption
    | with_reducible apply Keeps.ite
    | with_reducible apply keeps_State_setRxE
    | with_reducible apply keeps_State_sendFeedback)

theorem keeps_nackSend {σ : State} (s : State) (l e : Nat) (h_s : Keeps σ s) :
    Keeps σ (nackSend s l e) := by
  unfold nackSend
  repeat' (first | with_reducible assumption | with_reducible apply keeps_askGaps | refine fun _ => ?_)

theorem keeps_nackRetry {σ : State} (s : State) (l e : Nat) (h_s : Keeps σ s) :
    Keeps σ (nackRetry s l e) := by
  unfold nackRetry
  repeat' (first | with_reducible assumption | with_reducible apply keeps_askGaps | refine fun _ => ?_)

theorem keeps_deliverRtp {σ : State} (s : State) (l e ext : Nat) (p : Rtp) (arrival : Nat) (h_s : Keeps σ s) :
    Keeps σ (deliverRtp s l e ext p arrival) := by
  unfold deliverRtp
  repeat' (first
    | with_reducible assumption
    | with_reducible apply keeps_State_inc
    | with_reducible apply keeps_State_setRxE
    | with_reducible apply keeps_placeAudio
    | with_reducible apply keeps_placeVideo
    | ((try lift_lets); intro x; try unfold x)
    | split)

theorem keeps_storeBlock {σ : State} (s : State) (l reporter : Nat) (b : ReportBlock) (h_s : Keeps σ s) :
    Keeps σ (storeBlock s l reporter b) := by
  unfold storeBlock
  repeat' (first | with_reducible assumption | with_reducible apply keeps_State_setLeg | refine fun _ => ?_)

theorem keeps_useBlocks {σ : State} (s : State) (l reporter : Nat) (bs : List ReportBlock) (h_s : Keeps σ s) :
    Keeps σ (useBlocks s l reporter bs) := by
  unfold useBlocks
  repeat' (first
    | with_reducible assumption
    | with_reducible apply keeps_State_wr
    | with_reducible apply keeps_storeBlock
    | with_reducible refine Keeps.foldl ?_ (fun u a hu => ?_)
    | ((try lift_lets); intro x; try unfold x)
    | split)

theorem keeps_useSr {σ : State} (s : State) (l ssrc ntp rtp arrival : Nat) (h_s : Keeps σ s) :
    Keeps σ (useSr s l ssrc ntp rtp arrival) := by
  unfold useSr
  repeat' (first | with_reducible assumption | with_reducible apply keeps_State_setRxE | refine fun _ => ?_ | split)

theorem keeps_useRtcp {σ : State} (l arrival : Nat) (ps : List RtcpPart) (s : State) (h_s : Keeps σ s) :
    Keeps σ (useRtcp l arrival ps s) := by
  induction ps generalizing s with
  | nil => exact h_s
  | cons p r ih =>
    unfold useRtcp
    split
    · exact h_s
    · exact keeps_State_inc _ _ h_s
    · rename_i e
      cases e
      split
      · exact ih _ (keeps_feedbackPart _ _ _ (keeps_useBlocks _ _ _ _ (keeps_useSr _ _ _ _ _ _ h_s)))
      · exact keeps_State_inc _ _ h_s
    · rename_i e
      cases e
      split
      · exact ih _ (keeps_feedbackPart _ _ _ (keeps_useBlocks _ _ _ _ h_s))
      · exact keeps_State_inc _ _ h_s
    · rename_i e
      cases e
      exact ih _ (keeps_feedbackPart _ _ _ h_s)

theorem keeps_deliverRtcp {σ : State} (s : State) (l : Nat) (p : Rtcp) (arrival : Nat) (h_s : Keeps σ s) :
    Keeps σ (deliverRtcp s l p arrival) := by
  unfold deliverRtcp
  repeat' (first
    | with_reducible assumption
    | with_reducible apply Keeps.ite
    | with_reducible apply keeps_State_inc
    | with_reducible apply keeps_feedbackDue
    | with_reducible apply keeps_useRtcp)

theorem keeps_frameRx {σ : State} (s : State) (port : Nat) (f : Frame) (h_s : Keeps σ s) :
    Keeps σ (frameRx s port f) := by
  unfold frameRx
  repeat' (first
    | with_reducible assumption
    | with_reducible apply Keeps.ite
    | with_reducible apply keeps_State_inc
    | with_reducible apply keeps_ptpOther
    | (fail_if_no_progress refine Keeps.upd ?_ rfl))

theorem keeps_exceptionPost {σ : State} (s : State) (w : Waiting) (reason : Nat) (h_s : Keeps σ s) :
    Keeps σ (exceptionPost s w reason) := by
  unfold exceptionPost
  repeat' (first
    | with_reducible assumption
    | with_reducible apply Keeps.ite
    | with_reducible apply keeps_State_inc
    | with_reducible apply keeps_State_stampPost
    | (fail_if_no_progress refine Keeps.upd ?_ rfl))

theorem keeps_learnedSsrc {σ : State} (l e ssrc : Nat) (r : Nat × State) (h : Keeps σ r.2) : Keeps.opt σ (learnedSsrc l e ssrc r) := by
  unfold learnedSsrc
  split
  · exact Keeps.opt_some (keeps_State_event _ _ _ _ (keeps_State_journal _ _ h))
  · exact trivial

theorem keeps_learnSsrc {σ : State} (s : State) (l e ssrc : Nat) (h_s : Keeps σ s) :
    Keeps.opt σ (learnSsrc s l e ssrc) := by
  unfold learnSsrc
  repeat' (first
    | with_reducible assumption
    | with_reducible apply keeps_State_wr
    | with_reducible apply keeps_clsReserve
    | with_reducible apply keeps_learnedSsrc)

theorem keeps_learnFate {σ : State} (s : State) (l e : Nat) (o : Option State) (h_s : Keeps σ s) (h : Keeps.opt σ o) :
    Keeps σ (learnFate s l e o).2 := by
  cases o with
  | none => exact h_s
  | some t => exact h

theorem keeps_shippedFate {σ : State} (s : State) (f : Frame) (h_s : Keeps σ s) :
    Keeps σ (shippedFate s f).2 := by
  unfold shippedFate
  repeat' (first | with_reducible assumption | with_reducible apply keeps_learnSsrc | with_reducible apply keeps_learnFate | split)

theorem keeps_legFrame {σ : State} (s : State) (l e : Nat) (w : Waiting) (h_s : Keeps σ s) :
    Keeps σ (legFrame s l e w) := by
  unfold legFrame
  repeat' (first
    | with_reducible assumption
    | with_reducible apply Keeps.ite
    | with_reducible apply keeps_State_count
    | with_reducible apply keeps_State_inc
    | with_reducible apply keeps_State_setLeg
    | with_reducible apply keeps_State_cipherAsk
    | with_reducible apply keeps_deliverRtp
    | with_reducible apply keeps_deliverRtcp
    | split)

theorem keeps_classify {σ : State} (s : State) (v : Verdict) (overrun : Bool) (h_s : Keeps σ s) :
    Keeps σ (classify s v overrun) := by
  unfold classify
  repeat' (first
    | with_reducible assumption
    | with_reducible apply Keeps.ite
    | with_reducible apply keeps_State_inc
    | with_reducible apply keeps_exceptionPost
    | with_reducible apply keeps_shippedFate
    | with_reducible apply keeps_legFrame
    | refine Keeps.snd (by assumption) ?_
    | split
    | (fail_if_no_progress refine Keeps.upd ?_ rfl))

theorem keeps_classifierWrite {σ : State} (s : State) (i : Image) (h_s : Keeps σ s) :
    Keeps σ (classifierWrite s i).2 := by
  unfold classifierWrite
  repeat' (first
    | with_reducible assumption
    | with_reducible apply Keeps.ite_snd
    | refine fun _ => ?_
    | (fail_if_no_progress refine Keeps.upd ?_ rfl))

theorem keeps_execEthFrameRx {σ : State} (port : Nat) (f : Frame) (s : State) (h_s : Keeps σ s) :
    Keeps.outcome σ (execEthFrameRx port f s) := by
  unfold execEthFrameRx
  repeat' (first
    | with_reducible assumption
    | with_reducible apply Keeps.ite
    | with_reducible apply keeps_State_inc
    | with_reducible apply keeps_frameRx
    | with_reducible apply Keeps.outcome_next)

theorem keeps_execFrameClassify {σ : State} (v : Verdict) (overrun : Bool) (s : State) (h_s : Keeps σ s) :
    Keeps.outcome σ (execFrameClassify v overrun s) := by
  unfold execFrameClassify
  repeat' (first
    | with_reducible assumption
    | with_reducible apply Keeps.ite
    | with_reducible apply keeps_classify
    | with_reducible apply Keeps.outcome_next)

theorem keeps_execJitterDepthAdjust {σ : State} (l : Nat) (s : State) (h_s : Keeps σ s) :
    Keeps.outcome σ (execJitterDepthAdjust l s) := by
  unfold execJitterDepthAdjust
  repeat' (first | with_reducible assumption | with_reducible apply keeps_depthAdjust | with_reducible apply Keeps.outcome_next)

theorem keeps_execVideoWaitExpiry {σ : State} (l e : Nat) (s : State) (h_s : Keeps σ s) :
    Keeps.outcome σ (execVideoWaitExpiry l e s) := by
  unfold execVideoWaitExpiry
  repeat' (first
    | with_reducible assumption
    | with_reducible apply Keeps.ite
    | with_reducible apply keeps_videoWait
    | with_reducible apply Keeps.outcome_next)

theorem keeps_execNackSend {σ : State} (l e : Nat) (s : State) (h_s : Keeps σ s) :
    Keeps.outcome σ (execNackSend l e s) := by
  unfold execNackSend
  repeat' (first
    | with_reducible assumption
    | with_reducible apply Keeps.ite
    | with_reducible apply keeps_nackSend
    | with_reducible apply Keeps.outcome_next)

theorem keeps_execNackRetry {σ : State} (l e : Nat) (s : State) (h_s : Keeps σ s) :
    Keeps.outcome σ (execNackRetry l e s) := by
  unfold execNackRetry
  repeat' (first
    | with_reducible assumption
    | with_reducible apply Keeps.ite
    | with_reducible apply keeps_nackRetry
    | with_reducible apply Keeps.outcome_next)

end Sys2Proof.Machine
end

