-- ==== Sys2Proof/Laws/Keeps/Cipher.lean ====
section
/-! SUPPORT. What the operations of Machine/Cipher.lean keep: the invariants of Keeps, one lemma per definition. -/

namespace Sys2Proof.Machine

set_option linter.unusedTactic false
set_option linter.unreachableTactic false
set_option linter.unusedSimpArgs false
set_option linter.unusedVariables false

theorem keeps_State_setCCore {σ : State} (s : State) (k : Nat) (x : CipherCore) (h_s : Keeps σ s) :
    Keeps σ (State.setCCore s k x) := by
  unfold State.setCCore
  repeat' (first | with_reducible assumption | (fail_if_no_progress refine Keeps.upd ?_ rfl))

theorem keeps_keyMissing {σ : State} (s : State) (j : CipherJob) (h_s : Keeps σ s) :
    Keeps σ (keyMissing s j) := by
  unfold keyMissing
  repeat' (first
    | with_reducible assumption
    | with_reducible apply Keeps.ite
    | with_reducible apply keeps_State_inc
    | with_reducible apply keeps_State_event
    | with_reducible apply keeps_State_setLeg
    | split)

theorem keeps_keyPresent {σ : State} (s : State) (j : CipherJob) (h_s : Keeps σ s) :
    Keeps σ (keyPresent s j) := by
  unfold keyPresent
  repeat' (first | with_reducible assumption | with_reducible apply Keeps.ite | with_reducible apply keeps_State_setLeg | split)

theorem keeps_requestFails {σ : State} (s : State) (j : CipherJob) (h_s : Keeps σ s) :
    Keeps σ (requestFails s j) := by
  unfold requestFails
  repeat' (first
    | with_reducible assumption
    | with_reducible apply keeps_State_inc
    | with_reducible apply keeps_State_event
    | with_reducible apply keeps_tapStop
    | split)

theorem keeps_authFails {σ : State} (s : State) (l : Nat) (h_s : Keeps σ s) :
    Keeps σ (authFails s l) := by
  unfold authFails
  repeat' (first | with_reducible assumption | with_reducible apply keeps_State_inc | with_reducible apply keeps_State_eventRated)

theorem keeps_slotFails {σ : State} (s : State) (r : CipherReq) (h_s : Keeps σ s) :
    Keeps σ (slotFails s r) := by
  unfold slotFails
  repeat' (first | with_reducible assumption | with_reducible apply keeps_keyMissing | with_reducible apply keeps_authFails | split)

theorem keeps_cipherTake {σ : State} (s : State) (r : CipherReq) (h_s : Keeps σ s) :
    Keeps σ (cipherTake s r) := by
  unfold cipherTake
  repeat' (first | with_reducible assumption | (fail_if_no_progress refine Keeps.upd ?_ rfl))

theorem keeps_cipherDispatch {σ : State} (s : State) (k : Nat) (h_s : Keeps σ s) :
    Keeps σ (cipherDispatch s k) := by
  unfold cipherDispatch
  repeat' (first
    | with_reducible assumption
    | with_reducible apply Keeps.ite
    | with_reducible apply keeps_State_wr
    | with_reducible apply keeps_packetiserResume
    | with_reducible apply keeps_State_setCCore
    | with_reducible apply keeps_keyPresent
    | with_reducible apply keeps_requestFails
    | with_reducible apply keeps_slotFails
    | with_reducible apply keeps_cipherTake
    | split)

theorem keeps_notAuthentic {σ : State} (s : State) (l : Nat) (j : CipherRun) (h_s : Keeps σ s) :
    Keeps σ (notAuthentic s l j) := by
  unfold notAuthentic
  repeat' (first
    | with_reducible assumption
    | with_reducible apply Keeps.ite
    | with_reducible apply keeps_authFails
    | (fail_if_no_progress refine Keeps.upd ?_ rfl))

theorem keeps_noteWindow {σ : State} (s : State) (l e i : Nat) (h_s : Keeps σ s) :
    Keeps σ (noteWindow s l e i) := by
  unfold noteWindow
  repeat' (first
    | with_reducible assumption
    | with_reducible apply Keeps.ite
    | with_reducible apply keeps_State_journal
    | with_reducible apply keeps_State_setRxE)

theorem keeps_srtpReceive {σ : State} (s : State) (l e : Nat) (p : Rtp) (arrival : Nat) (j : CipherRun) (h_s : Keeps σ s) :
    Keeps σ (srtpReceive s l e p arrival j) := by
  unfold srtpReceive
  repeat' (first
    | with_reducible assumption
    | with_reducible apply Keeps.ite
    | with_reducible apply keeps_State_wr
    | with_reducible apply keeps_State_inc
    | with_reducible apply keeps_State_event
    | with_reducible apply keeps_State_setRxE
    | with_reducible apply keeps_deliverRtp
    | with_reducible apply keeps_authFails
    | with_reducible apply keeps_notAuthentic
    | with_reducible apply keeps_noteWindow
    | split)

theorem keeps_srtcpReceive {σ : State} (s : State) (l e : Nat) (p : Rtcp) (arrival : Nat) (j : CipherRun) (h_s : Keeps σ s) :
    Keeps σ (srtcpReceive s l e p arrival j) := by
  unfold srtcpReceive
  repeat' (first
    | with_reducible assumption
    | with_reducible apply Keeps.ite
    | with_reducible apply keeps_State_wr
    | with_reducible apply keeps_State_inc
    | with_reducible apply keeps_State_event
    | with_reducible apply keeps_State_setRxE
    | with_reducible apply keeps_deliverRtcp
    | with_reducible apply keeps_authFails
    | with_reducible apply keeps_notAuthentic
    | split)

theorem keeps_sectorWritten {σ : State} (s : State) (j : CipherRun) (r : Sector) (h_s : Keeps σ s) :
    Keeps σ (sectorWritten s j r) := by
  unfold sectorWritten
  repeat' (first
    | with_reducible assumption
    | with_reducible apply Keeps.ite
    | with_reducible apply keeps_State_inc
    | (fail_if_no_progress refine Keeps.upd ?_ rfl))

theorem keeps_releaseJob {σ : State} (s : State) (j : CipherRun) (h_s : Keeps σ s) :
    Keeps σ (releaseJob s j) := by
  unfold releaseJob
  repeat' (first
    | with_reducible assumption
    | with_reducible apply keeps_State_inc
    | with_reducible apply keeps_State_ringPost
    | with_reducible apply keeps_State_enqueue
    | with_reducible apply keeps_srtpReceive
    | with_reducible apply keeps_srtcpReceive
    | with_reducible apply keeps_sectorWritten
    | refine Keeps.snd (by assumption) ?_
    | split)

theorem keeps_coreRetire {σ : State} (s : State) (k : Nat) (h_s : Keeps σ s) :
    Keeps σ (coreRetire s k) := by
  unfold coreRetire
  repeat' (first
    | with_reducible assumption
    | with_reducible apply Keeps.ite
    | with_reducible apply keeps_State_wr
    | with_reducible apply keeps_State_event
    | with_reducible apply keeps_State_setCCore)

theorem keeps_resultRelease {σ : State} (s : State) (k : Nat) (mismatch : Bool) (h_s : Keeps σ s) :
    Keeps σ (resultRelease s k mismatch) := by
  unfold resultRelease
  dsimp only
  split
  · exact h_s
  · repeat' (first
      | with_reducible assumption
      | with_reducible apply Keeps.ite
      | with_reducible apply keeps_State_wr
      | with_reducible apply keeps_State_setCCore
      | with_reducible apply keeps_coreRetire
      | with_reducible apply keeps_requestFails
      | with_reducible apply keeps_releaseJob
      | (fail_if_no_progress refine Keeps.upd ?_ rfl))

theorem keeps_releaseHeld {σ : State} (l e : Nat) (ps : List OutPkt) (s : State) (h_s : Keeps σ s) : Keeps σ (releaseHeld l e ps s) := by
  induction ps generalizing s with
  | nil => exact h_s
  | cons p r ih =>
    unfold releaseHeld
    dsimp only
    split
    · exact ih _ (keeps_State_protect _ _ h_s)
    · split
      · exact ih _ (keeps_State_setTxE _ _ _ _ h_s)
      · exact ih _ (keeps_State_setTxE _ _ _ _ (keeps_State_journal _ _ h_s))

theorem keeps_windowRelease {σ : State} (s : State) (l e : Nat) (h_s : Keeps σ s) :
    Keeps σ (windowRelease s l e) := by
  unfold windowRelease
  repeat' (first
    | with_reducible assumption
    | with_reducible apply keeps_State_setTxE
    | with_reducible apply keeps_releaseHeld
    | ((try lift_lets); intro x; try unfold x)
    | split)

theorem keeps_execCipherDispatch {σ : State} (k : Nat) (s : State) (h_s : Keeps σ s) :
    Keeps.outcome σ (execCipherDispatch k s) := by
  unfold execCipherDispatch
  repeat' (first
    | with_reducible assumption
    | with_reducible apply Keeps.ite
    | with_reducible apply keeps_cipherDispatch
    | with_reducible apply Keeps.outcome_next)

theorem keeps_execCipherResultRelease {σ : State} (k : Nat) (mismatch : Bool) (s : State) (h_s : Keeps σ s) :
    Keeps.outcome σ (execCipherResultRelease k mismatch s) := by
  unfold execCipherResultRelease
  repeat' (first
    | with_reducible assumption
    | with_reducible apply Keeps.ite
    | with_reducible apply keeps_resultRelease
    | with_reducible apply Keeps.outcome_next)

theorem keeps_execWindowCommitRelease {σ : State} (l e : Nat) (s : State) (h_s : Keeps σ s) :
    Keeps.outcome σ (execWindowCommitRelease l e s) := by
  unfold execWindowCommitRelease
  repeat' (first
    | with_reducible assumption
    | with_reducible apply Keeps.ite
    | with_reducible apply keeps_windowRelease
    | with_reducible apply Keeps.outcome_next)

end Sys2Proof.Machine
end

