-- ==== Sys2Proof/Laws/Keeps/Memory.lean ====
section
/-! SUPPORT. What the operations of Machine/Memory.lean keep: the invariants of Keeps, one lemma per definition. -/

namespace Sys2Proof.Machine

set_option linter.unusedTactic false
set_option linter.unreachableTactic false
set_option linter.unusedSimpArgs false
set_option linter.unusedVariables false

theorem Memory.wfFrom_shift {lo b base : Nat} {m : List Host.Cell} (w : AMap.wfFrom (fun _ => (0 : BitVec 8)) lo m = true) (hb : b ≤ lo) :
    AMap.wfFrom (fun _ => (0 : BitVec 8)) (lo - b + base) (m.map (fun c => (c.1 - b + base, c.2))) = true := by
  induction m generalizing lo with
  | nil => rfl
  | cons e r ih =>
    simp only [AMap.wfFrom, Bool.and_eq_true, decide_eq_true_eq, List.map] at w ⊢
    refine ⟨⟨by omega, w.1.2⟩, ?_⟩
    have := ih w.2 (by omega)
    rwa [show e.1 + 1 - b + base = e.1 - b + base + 1 by omega] at this

theorem Memory.wfFrom_raise {b lo : Nat} {m : List Host.Cell} (w : AMap.wfFrom (fun _ => (0 : BitVec 8)) lo m = true)
    (h : ∀ c ∈ m, b ≤ c.1) : AMap.wfFrom (fun _ => (0 : BitVec 8)) b m = true := by
  cases m with
  | nil => rfl
  | cons e r =>
    simp only [AMap.wfFrom, Bool.and_eq_true, decide_eq_true_eq] at w ⊢
    exact ⟨⟨h e (List.mem_cons_self ..), w.1.2⟩, w.2⟩

theorem Memory.wfFrom_append {lo hi : Nat} {m n : List Host.Cell} (w : AMap.wfFrom (fun _ => (0 : BitVec 8)) lo m = true)
    (v : AMap.wfFrom (fun _ => (0 : BitVec 8)) hi n = true) (hl : lo ≤ hi) (h : ∀ c ∈ m, c.1 < hi) :
    AMap.wfFrom (fun _ => (0 : BitVec 8)) lo (m ++ n) = true := by
  induction m generalizing lo with
  | nil => exact AMap.wfFrom_mono hl v
  | cons e r ih =>
    simp only [AMap.wfFrom, Bool.and_eq_true, decide_eq_true_eq, List.cons_append] at w ⊢
    have he := h e (List.mem_cons_self ..)
    exact ⟨w.1, ih w.2 (by omega) (fun c hc => h c (List.mem_cons_of_mem _ hc))⟩

theorem Memory.wfFrom_run {b len base : Nat} {m : List Host.Cell} (w : Memory.wf m = true) :
    AMap.wfFrom (fun _ => (0 : BitVec 8)) base
      ((m.filter (fun c => decide (b ≤ c.1) && decide (c.1 < b + len))).map (fun c => (c.1 - b + base, c.2))) = true := by
  have h := Memory.wfFrom_raise (b := b) (AMap.wfFrom_filter (p := fun c => decide (b ≤ c.1) && decide (c.1 < b + len)) w)
    (fun c hc => by simp at hc; exact hc.2.1)
  have := Memory.wfFrom_shift (base := base) h (Nat.le_refl b)
  simpa using this

theorem Memory.wf_moveProtected {s : State} {base2 len2 base3 len3 : Nat} (w : Memory.wf s.mem = true) (h : base2 + len2 ≤ base3) :
    Memory.wf (moveProtected s base2 len2 base3 len3) = true := by
  refine AMap.wfFrom_mono (Nat.zero_le base2) (Memory.wfFrom_append (Memory.wfFrom_run w) (Memory.wfFrom_run w) (by omega) ?_)
  intro c hc
  simp only [List.mem_map, List.mem_filter, Bool.and_eq_true, decide_eq_true_eq] at hc
  obtain ⟨d, ⟨_, hd⟩, rfl⟩ := hc
  dsimp only
  omega

theorem keeps_State_setPc {σ : State} (s : State) (p : Nat) (x : PcCtl) (h_s : Keeps σ s) :
    Keeps σ (State.setPc s p x) := by
  unfold State.setPc
  repeat' (first | with_reducible assumption | (fail_if_no_progress refine Keeps.upd ?_ rfl))

theorem keeps_writeUnit {σ : State} (s : State) (a mask data : Nat) (h_s : Keeps σ s) :
    Keeps σ (writeUnit s a mask data) := by
  unfold writeUnit
  repeat' (first
    | with_reducible assumption
    | with_reducible apply Keeps.ite
    | with_reducible apply keeps_State_wrByte
    | with_reducible refine Keeps.foldl ?_ (fun u a hu => ?_))

theorem keeps_acceptReq {σ : State} (s : State) (p : Nat) (r0 : MemReq) (h_s : Keeps σ s) :
    Keeps σ (acceptReq s p r0) := by
  unfold acceptReq
  repeat' (first
    | with_reducible assumption
    | with_reducible apply Keeps.ite
    | with_reducible apply keeps_writeUnit
    | (fail_if_no_progress refine Keeps.upd ?_ rfl))

theorem keeps_letIn {σ : State} (s : State) (p n : Nat) (h_s : Keeps σ s) : Keeps σ (letIn s p n) := by
  induction n generalizing s with
  | zero => exact h_s
  | succ n ih =>
    unfold letIn
    dsimp only
    split
    · exact h_s
    · exact ih _ (keeps_acceptReq _ _ _ (keeps_State_setPc _ _ _ h_s))

theorem keeps_arriveReq {σ : State} (s : State) (o : MemOp) (h_s : Keeps σ s) :
    Keeps σ (arriveReq s o) := by
  unfold arriveReq
  repeat' (first | with_reducible assumption | with_reducible apply keeps_letIn | split | (fail_if_no_progress refine Keeps.upd ?_ rfl))

theorem keeps_beginRead {σ : State} (s : State) (o : MemOp) (h_s : Keeps σ s) :
    Keeps σ (beginRead s o) := by
  unfold beginRead
  repeat' (first | with_reducible assumption | with_reducible apply keeps_State_updQ | split)

theorem keeps_memAccept {σ : State} (s : State) (op : MemOp) (h_s : Keeps σ s) :
    Keeps σ (memAccept s op) := by
  unfold memAccept
  repeat' (first | with_reducible assumption | with_reducible apply keeps_arriveReq | with_reducible apply keeps_beginRead)

theorem keeps_layerPoisoned {σ : State} (s : State) (v z : Nat) (h_s : Keeps σ s) : Keeps σ (layerPoisoned s v z) := by
  unfold layerPoisoned
  dsimp only
  split
  · have h := fun a b c d e f => keeps_State_wr _ e f (keeps_State_inc _ (Obj.lsStaleTicks z v) (keeps_State_wr _ (Obj.lsStale z v) d
      (keeps_State_setLay _ v z c (keeps_State_setCs s a b h_s))))
    refine Keeps.ite (keeps_State_eventRated _ _ _ _ _ (keeps_State_inc _ _ (h _ _ _ _ _ _))) (h _ _ _ _ _ _)
  · exact h_s

theorem keeps_poisonRead {σ : State} (s : State) (r : Reader) (addr : Nat) (h_s : Keeps σ s) :
    Keeps σ (poisonRead s r addr) := by
  unfold poisonRead
  repeat' (first
    | with_reducible assumption
    | with_reducible apply Keeps.ite
    | with_reducible apply keeps_State_inc
    | with_reducible apply keeps_State_emit
    | with_reducible apply keeps_State_updQ
    | with_reducible apply keeps_layerPoisoned
    | with_reducible refine Keeps.foldl ?_ (fun u a hu => ?_)
    | split
    | (fail_if_no_progress refine Keeps.upd ?_ rfl))

theorem keeps_countCe {σ : State} (s : State) (p : Nat) (onDie : Bool) (h_s : Keeps σ s) :
    Keeps σ (countCe s p onDie) := by
  unfold countCe
  repeat' (first
    | with_reducible assumption
    | with_reducible apply Keeps.ite
    | with_reducible apply keeps_State_inc
    | with_reducible apply keeps_State_setPc)

theorem keeps_countUe {σ : State} (s : State) (p : Nat) (h_s : Keeps σ s) :
    Keeps σ (countUe s p) := by
  unfold countUe
  repeat' (first | with_reducible assumption | with_reducible apply keeps_State_inc | with_reducible apply keeps_State_setPc)

theorem keeps_State_spoil {σ : State} (s : State) (a : Nat) (h_s : Keeps σ s) :
    Keeps σ (State.spoil s a) := by
  unfold State.spoil
  repeat' (first | with_reducible assumption | (fail_if_no_progress refine Keeps.upd ?_ rfl))

theorem keeps_eccAt {σ : State} (s : State) (p a : Nat) (r : EccResult) (h_s : Keeps σ s) : Keeps σ (eccAt s p a r) := by
  cases r with
  | clean => exact h_s
  | corrected => exact keeps_countCe _ _ _ h_s
  | onDie => exact keeps_countCe _ _ _ h_s
  | uncorrectable =>
    have h := keeps_countUe s p h_s
    unfold eccAt
    generalize countUe s p = s1 at h
    dsimp only
    exact Keeps.ite h (keeps_State_eventRated _ _ _ _ _ (keeps_State_spoil _ _ h))
  | stripeLost => exact Keeps.ite (keeps_State_event _ _ _ _ (keeps_countUe s p h_s)) h_s

theorem keeps_State_moved {σ : State} (s : State) (cls n : Nat) (h_s : Keeps σ s) :
    Keeps σ (State.moved s cls n) := by
  unfold State.moved
  repeat' (first | with_reducible assumption | (fail_if_no_progress refine Keeps.upd ?_ rfl))

theorem keeps_memServe {σ : State} (s : State) (p : Nat) (r : EccResult) (h_s : Keeps σ s) : Keeps σ (memServe s p r) := by
  unfold memServe
  dsimp only
  generalize hw : ((s.pc p).draining || (s.pc p).reads.isEmpty) = wr
  refine Keeps.ite h_s ?_
  split
  · exact h_s
  · have h1 := fun x c => keeps_letIn _ p 64 (keeps_State_moved _ c 32 (keeps_State_setPc s p x h_s))
    have h2 := fun (b : Bool) x c a => Keeps.ite (c := b = true) (keeps_eccAt _ p a r (h1 x c)) (h1 x c)
    refine Keeps.ite (h1 _ _) (Keeps.ite ?_ ?_)
    · exact keeps_poisonRead _ _ _ (keeps_State_emit _ _ (h2 _ _ _ _))
    · exact keeps_State_emit _ _ (h2 _ _ _ _)

/-! The protected partitions moved: two runs of octets, each at a new base. -/

theorem keeps_agePromote {σ : State} (s : State) (p : Nat) (h_s : Keeps σ s) :
    Keeps σ (agePromote s p) := by
  unfold agePromote
  repeat' (first
    | with_reducible assumption
    | with_reducible apply keeps_State_inc
    | with_reducible apply keeps_State_setPc
    | with_reducible refine Keeps.foldl ?_ (fun u a hu => ?_))

theorem keeps_rowClose {σ : State} (s : State) (p b : Nat) (h_s : Keeps σ s) :
    Keeps σ (rowClose s p b) := by
  unfold rowClose
  repeat' (first | with_reducible assumption | with_reducible apply Keeps.ite | with_reducible apply keeps_State_setPc)

theorem keeps_stackSample {σ : State} (s : State) (k : Nat) (t : Int) (h_s : Keeps σ s) :
    Keeps σ (stackSample s k t) := by
  unfold stackSample
  repeat' (first
    | with_reducible assumption
    | with_reducible apply Keeps.ite
    | with_reducible apply keeps_State_wr
    | with_reducible apply keeps_State_event
    | (fail_if_no_progress refine Keeps.upd ?_ rfl))

theorem keeps_patrolScrub {σ : State} (s : State) (r : EccResult) (h_s : Keeps σ s) :
    Keeps σ (patrolScrub s r) := by
  unfold patrolScrub
  repeat' (first
    | with_reducible assumption
    | with_reducible apply keeps_eccAt
    | ((try lift_lets); intro x; try unfold x)
    | split
    | (fail_if_no_progress refine Keeps.upd ?_ rfl))

theorem keeps_partApply {σ : State} (s : State) (v : Nat) (h_s : Keeps σ s) : Keeps σ (partApply s v).2 := by
  unfold partApply
  dsimp only
  repeat' (refine Keeps.ite_snd h_s ?_)
  refine keeps_State_wr _ _ _ (Keeps.upd (Keeps.setMem h_s _ (fun w => Memory.wf_moveProtected w ?_)) rfl)
  have h := Nat.mul_le_mul_right mib (Nat.min_le_right (s.partSize 2) (s.partStored.getD (2 - 1) 0))
  rw [Nat.add_mul]
  exact Nat.add_le_add_left h _

theorem keeps_startTraining {σ : State} (s : State) (ch : Nat) (full : Bool) (h_s : Keeps σ s) :
    Keeps σ (startTraining s ch full) := by
  unfold startTraining
  repeat' (first
    | with_reducible assumption
    | with_reducible apply Keeps.ite
    | with_reducible apply keeps_State_wr
    | with_reducible apply keeps_State_inc
    | with_reducible apply keeps_State_event
    | with_reducible refine Keeps.foldl ?_ (fun u a hu => ?_)
    | (fail_if_no_progress refine Keeps.upd ?_ rfl))

theorem keeps_updateRetrain {σ : State} (s : State) (ch : Nat) (h_s : Keeps σ s) :
    Keeps σ (updateRetrain s ch) := by
  unfold updateRetrain
  repeat' (first
    | with_reducible assumption
    | with_reducible apply Keeps.ite
    | with_reducible apply keeps_startTraining
    | (fail_if_no_progress refine Keeps.upd ?_ rfl))

theorem keeps_fullRetrain {σ : State} (s : State) (ch : Nat) (h_s : Keeps σ s) :
    Keeps σ (fullRetrain s ch) := by
  unfold fullRetrain
  repeat' (first | with_reducible assumption | with_reducible apply Keeps.ite | with_reducible apply keeps_startTraining)

theorem keeps_repairLanes {σ : State} (s : State) (t : TrainEnd) (h_s : Keeps σ s) :
    Keeps σ (repairLanes s t) := by
  unfold repairLanes
  repeat' (first
    | with_reducible assumption
    | with_reducible apply Keeps.ite
    | with_reducible apply keeps_State_wr
    | with_reducible apply keeps_State_event
    | with_reducible refine Keeps.foldl ?_ (fun u a hu => ?_))

theorem keeps_pcOff {σ : State} (s : State) (p : Nat) (h_s : Keeps σ s) :
    Keeps σ (pcOff s p) := by
  unfold pcOff
  repeat' (first | with_reducible assumption | with_reducible apply keeps_State_wr)

theorem keeps_cutPartition {σ : State} (s : State) (p : Nat) (h_s : Keeps σ s) :
    Keeps σ (cutPartition s p) := by
  unfold cutPartition
  repeat' (first
    | with_reducible assumption
    | with_reducible apply Keeps.ite
    | with_reducible apply keeps_State_wrShadow
    | with_reducible apply keeps_State_choose
    | with_reducible apply keeps_State_event
    | with_reducible apply keeps_dctxDisable
    | with_reducible apply keeps_actxDisable
    | with_reducible apply keeps_activateTick
    | with_reducible apply keeps_rctxDisable
    | with_reducible refine Keeps.foldl ?_ (fun u a hu => ?_))

theorem keeps_rehome {σ : State} (s : State) (h_s : Keeps σ s) :
    Keeps σ (rehome s) := by
  unfold rehome
  repeat' (first
    | with_reducible assumption
    | with_reducible apply keeps_arriveReq
    | with_reducible refine Keeps.foldl ?_ (fun u a hu => ?_)
    | (fail_if_no_progress refine Keeps.upd ?_ rfl))

theorem keeps_quarantine {σ : State} (s : State) (pcs : List Nat) (h_s : Keeps σ s) : Keeps σ (quarantine s pcs) := by
  unfold quarantine
  refine Keeps.ite h_s ?_
  dsimp only
  have h0 : Keeps σ (if decide (s.rd Obj.paused = 1) = true then s.choose 2 else (0, s)).2 :=
    Keeps.ite_snd (keeps_State_choose _ _ h_s) h_s
  generalize (if decide (s.rd Obj.paused = 1) = true then s.choose 2 else (0, s)) = r at h0 ⊢
  obtain ⟨c, s0⟩ := r
  have h1 := Keeps.foldl (l := pcs) (f := fun t p => (pcOff t p).event Ev.hbmPcQuarantine p 0)
    (keeps_State_wr s0.dspRebase Obj.paused 1 (keeps_State_dspRebase _ h0))
    (fun u a hu => keeps_State_event _ _ _ _ (keeps_pcOff _ _ hu))
  dsimp only
  generalize List.foldl _ (s0.dspRebase.wr Obj.paused 1) pcs = s1 at h1 ⊢
  refine Keeps.ite (keeps_State_event _ _ _ _ h1) ?_
  refine Keeps.foldl (keeps_rehome _ (keeps_State_wr _ _ _ (Keeps.upd (Keeps.setMem h1 _ (fun w => Memory.wf_moveProtected w ?_)) rfl)))
    (fun u a hu => Keeps.ite (keeps_cutPartition _ _ hu) hu)
  unfold State.partBase State.partSize
  rcases s1.mm.sizes with _ | ⟨a, _ | ⟨b, l⟩⟩ <;> simp [Nat.add_mul]

theorem keeps_trained {σ : State} (s : State) (pcs dead : List Nat) (h_s : Keeps σ s) :
    Keeps σ (trained s pcs dead) := by
  unfold trained
  repeat' (first
    | with_reducible assumption
    | with_reducible apply Keeps.ite
    | with_reducible apply keeps_State_wr
    | with_reducible apply keeps_State_setPc
    | with_reducible refine Keeps.foldl ?_ (fun u a hu => ?_))

theorem keeps_trainingEnd {σ : State} (s : State) (ch : Nat) (t : TrainEnd) (h_s : Keeps σ s) :
    Keeps σ (trainingEnd s ch t) := by
  unfold trainingEnd
  repeat' (first
    | with_reducible assumption
    | with_reducible apply Keeps.ite
    | with_reducible apply keeps_repairLanes
    | with_reducible apply keeps_quarantine
    | with_reducible apply keeps_trained
    | (fail_if_no_progress refine Keeps.upd ?_ rfl))

theorem keeps_trainingAll {σ : State} (s : State) (t : TrainEnd) (h_s : Keeps σ s) :
    Keeps σ (trainingAll s t) := by
  unfold trainingAll
  repeat' (first
    | with_reducible assumption
    | with_reducible apply keeps_State_wr
    | with_reducible apply keeps_repairLanes
    | with_reducible apply keeps_pcOff
    | with_reducible apply keeps_trained
    | with_reducible refine Keeps.foldl ?_ (fun u a hu => ?_)
    | (fail_if_no_progress refine Keeps.upd ?_ rfl))

theorem keeps_jitterRestart {σ : State} (s : State) (l : Nat) (h_s : Keeps σ s) :
    Keeps σ (jitterRestart s l) := by
  unfold jitterRestart
  repeat' (first
    | with_reducible assumption
    | with_reducible apply keeps_State_wr
    | with_reducible apply keeps_State_setLeg
    | with_reducible apply keeps_State_setRxE
    | with_reducible refine Keeps.foldl ?_ (fun u a hu => ?_))

theorem keeps_resumeService {σ : State} (s : State) (h_s : Keeps σ s) :
    Keeps σ (resumeService s) := by
  unfold resumeService
  repeat' (first
    | with_reducible assumption
    | with_reducible apply Keeps.ite
    | with_reducible apply keeps_State_wr
    | with_reducible apply keeps_State_updQ
    | with_reducible apply keeps_outRead
    | with_reducible apply keeps_dctxLost
    | with_reducible apply keeps_rctxLost
    | with_reducible refine Keeps.foldl ?_ (fun u a hu => ?_)
    | (fail_if_no_progress refine Keeps.upd ?_ rfl))

theorem keeps_execMemRequestAccept {σ : State} (op : MemOp) (s : State) (h_s : Keeps σ s) :
    Keeps.outcome σ (execMemRequestAccept op s) := by
  unfold execMemRequestAccept
  repeat' (first
    | with_reducible assumption
    | with_reducible apply Keeps.ite
    | with_reducible apply keeps_memAccept
    | with_reducible apply Keeps.outcome_next)

theorem keeps_execMemRequestServe {σ : State} (p : Nat) (r : EccResult) (s : State) (h_s : Keeps σ s) :
    Keeps.outcome σ (execMemRequestServe p r s) := by
  unfold execMemRequestServe
  repeat' (first
    | with_reducible assumption
    | with_reducible apply Keeps.ite
    | with_reducible apply keeps_memServe
    | with_reducible apply Keeps.outcome_next)

theorem keeps_execAgePromotion {σ : State} (p : Nat) (s : State) (h_s : Keeps σ s) :
    Keeps.outcome σ (execAgePromotion p s) := by
  unfold execAgePromotion
  repeat' (first
    | with_reducible assumption
    | with_reducible apply Keeps.ite
    | with_reducible apply keeps_agePromote
    | with_reducible apply Keeps.outcome_next)

theorem keeps_execRowIdleClose {σ : State} (p b : Nat) (s : State) (h_s : Keeps σ s) :
    Keeps.outcome σ (execRowIdleClose p b s) := by
  unfold execRowIdleClose
  repeat' (first
    | with_reducible assumption
    | with_reducible apply Keeps.ite
    | with_reducible apply keeps_rowClose
    | with_reducible apply Keeps.outcome_next)

theorem keeps_execStackTempSample {σ : State} (t0 t1 : Int) (s : State) (h_s : Keeps σ s) :
    Keeps.outcome σ (execStackTempSample t0 t1 s) := by
  unfold execStackTempSample
  repeat' (first
    | with_reducible assumption
    | with_reducible apply Keeps.ite
    | with_reducible apply keeps_stackSample
    | with_reducible apply Keeps.outcome_next)

theorem keeps_execPatrolScrub {σ : State} (r : EccResult) (s : State) (h_s : Keeps σ s) :
    Keeps.outcome σ (execPatrolScrub r s) := by
  unfold execPatrolScrub
  repeat' (first
    | with_reducible assumption
    | with_reducible apply Keeps.ite
    | with_reducible apply keeps_patrolScrub
    | with_reducible apply Keeps.outcome_next)

theorem keeps_execUpdateRetrain {σ : State} (ch : Nat) (s : State) (h_s : Keeps σ s) :
    Keeps.outcome σ (execUpdateRetrain ch s) := by
  unfold execUpdateRetrain
  repeat' (first
    | with_reducible assumption
    | with_reducible apply Keeps.ite
    | with_reducible apply keeps_updateRetrain
    | with_reducible apply Keeps.outcome_next)

theorem keeps_execFullRetrain {σ : State} (ch : Nat) (s : State) (h_s : Keeps σ s) :
    Keeps.outcome σ (execFullRetrain ch s) := by
  unfold execFullRetrain
  repeat' (first
    | with_reducible assumption
    | with_reducible apply Keeps.ite
    | with_reducible apply keeps_fullRetrain
    | with_reducible apply Keeps.outcome_next)

theorem keeps_execQuarantineResume {σ : State} (s : State) (h_s : Keeps σ s) :
    Keeps.outcome σ (execQuarantineResume s) := by
  unfold execQuarantineResume
  repeat' (first | with_reducible assumption | with_reducible apply keeps_resumeService | with_reducible apply Keeps.outcome_next)

end Sys2Proof.Machine
end

