-- ==== Sys2Proof/Laws/Keeps/Fabric.lean ====
section
/-! SUPPORT. What the operations of Machine/Fabric.lean keep: the invariants of Keeps, one lemma per definition. -/

namespace Sys2Proof.Machine

set_option linter.unusedTactic false
set_option linter.unreachableTactic false
set_option linter.unusedSimpArgs false
set_option linter.unusedVariables false

theorem keeps_State_setNq {σ : State} (s : State) (p : Nat) (x : NqPort) (h_s : Keeps σ s) :
    Keeps σ (State.setNq s p x) := by
  unfold State.setNq
  repeat' (first | with_reducible assumption | (fail_if_no_progress refine Keeps.upd ?_ rfl))

theorem keeps_State_setLane {σ : State} (s : State) (l : Nat) (x : LaneRt) (h_s : Keeps σ s) :
    Keeps σ (State.setLane s l x) := by
  unfold State.setLane
  repeat' (first | with_reducible assumption | (fail_if_no_progress refine Keeps.upd ?_ rfl))

theorem keeps_State_tally {σ : State} (s : State) (k n : Nat) (h_s : Keeps σ s) :
    Keeps σ (State.tally s k n) := by
  unfold State.tally
  repeat' (first | with_reducible assumption | (fail_if_no_progress refine Keeps.upd ?_ rfl))

theorem keeps_State_setSecond {σ : State} (s : State) (p : Nat) (x : PmSecond) (h_s : Keeps σ s) :
    Keeps σ (State.setSecond s p x) := by
  unfold State.setSecond
  repeat' (first | with_reducible assumption | (fail_if_no_progress refine Keeps.upd ?_ rfl))

theorem keeps_State_setStage {σ : State} (s : State) (p k : Nat) (h_s : Keeps σ s) :
    Keeps σ (State.setStage s p k) := by
  unfold State.setStage
  repeat' (first
    | with_reducible assumption
    | with_reducible apply Keeps.ite
    | with_reducible apply keeps_State_wr
    | with_reducible apply keeps_State_setNq)

theorem keeps_defectEvent {σ : State} (s : State) (who b : Nat) (h_s : Keeps σ s) :
    Keeps σ (defectEvent s who b) := by
  unfold defectEvent
  repeat' (first | with_reducible assumption | with_reducible apply Keeps.ite | with_reducible apply keeps_State_event)

theorem keeps_reportLane {σ : State} (s : State) (l : Nat) (h_s : Keeps σ s) :
    Keeps σ (reportLane s l) := by
  unfold reportLane
  repeat' (first
    | with_reducible assumption
    | with_reducible apply Keeps.ite
    | with_reducible apply keeps_State_wr
    | with_reducible apply keeps_State_setLane
    | with_reducible apply keeps_defectEvent
    | split)

theorem keeps_reportPort {σ : State} (s : State) (p : Nat) (h_s : Keeps σ s) :
    Keeps σ (reportPort s p) := by
  unfold reportPort
  repeat' (first
    | with_reducible assumption
    | with_reducible apply Keeps.ite
    | with_reducible apply keeps_State_wr
    | with_reducible apply keeps_State_setNq
    | with_reducible apply keeps_State_setSecond
    | with_reducible apply keeps_defectEvent
    | split)

theorem keeps_State_lsdbChanged {σ : State} (s : State) (h_s : Keeps σ s) :
    Keeps σ (State.lsdbChanged s) := by
  unfold State.lsdbChanged
  repeat' (first | with_reducible assumption | (fail_if_no_progress refine Keeps.upd ?_ rfl))

theorem keeps_flood {σ : State} (s : State) (a : Lsa) (except : Nat) (h_s : Keeps σ s) :
    Keeps σ (flood s a except) := by
  unfold flood
  repeat' (first
    | with_reducible assumption
    | with_reducible refine Keeps.foldl ?_ (fun u a hu => ?_)
    | (fail_if_no_progress refine Keeps.upd ?_ rfl))

theorem keeps_originate {σ : State} (s : State) (h_s : Keeps σ s) :
    Keeps σ (originate s) := by
  unfold originate
  repeat' (first
    | with_reducible assumption
    | with_reducible apply Keeps.ite
    | with_reducible apply keeps_flood
    | (fail_if_no_progress refine Keeps.upd ?_ rfl))

theorem keeps_adjacencyDown {σ : State} (s : State) (p k : Nat) (h_s : Keeps σ s) :
    Keeps σ (adjacencyDown s p k) := by
  unfold adjacencyDown
  repeat' (first
    | with_reducible assumption
    | with_reducible apply Keeps.ite
    | with_reducible apply keeps_State_event
    | with_reducible apply keeps_State_setStage
    | with_reducible apply keeps_originate
    | (fail_if_no_progress refine Keeps.upd ?_ rfl))

theorem keeps_forgetNeighbour {σ : State} (s : State) (p : Nat) (h_s : Keeps σ s) :
    Keeps σ (forgetNeighbour s p) := by
  unfold forgetNeighbour
  repeat' (first
    | with_reducible assumption
    | with_reducible apply Keeps.ite
    | with_reducible apply keeps_State_wr
    | with_reducible apply keeps_State_setNq)

theorem keeps_portCheck {σ : State} (s : State) (p : Nat) (h_s : Keeps σ s) :
    Keeps σ (portCheck s p) := by
  unfold portCheck
  repeat' (first
    | with_reducible assumption
    | with_reducible apply Keeps.ite
    | with_reducible apply keeps_adjacencyDown
    | with_reducible apply keeps_forgetNeighbour)

theorem keeps_refreshDefects {σ : State} (s : State) (p : Nat) (h_s : Keeps σ s) :
    Keeps σ (refreshDefects s p) := by
  unfold refreshDefects
  repeat' (first
    | with_reducible assumption
    | with_reducible apply Keeps.ite
    | with_reducible apply keeps_State_setNq
    | with_reducible apply keeps_State_setLane
    | with_reducible apply keeps_reportLane
    | with_reducible apply keeps_reportPort
    | with_reducible apply keeps_portCheck
    | with_reducible refine Keeps.foldl ?_ (fun u a hu => ?_))

theorem keeps_portUp {σ : State} (s : State) (p : Nat) (h_s : Keeps σ s) :
    Keeps σ (portUp s p) := by
  unfold portUp
  repeat' (first
    | with_reducible assumption
    | with_reducible apply Keeps.ite
    | with_reducible apply keeps_State_setNq
    | with_reducible apply keeps_State_setLane
    | with_reducible apply keeps_State_setStage
    | with_reducible apply keeps_refreshDefects
    | with_reducible refine Keeps.foldl ?_ (fun u a hu => ?_))

theorem keeps_portDown {σ : State} (s : State) (p : Nat) (h_s : Keeps σ s) :
    Keeps σ (portDown s p) := by
  unfold portDown
  repeat' (first
    | with_reducible assumption
    | with_reducible apply Keeps.ite
    | with_reducible apply keeps_State_wr
    | with_reducible apply keeps_State_setStage
    | with_reducible apply keeps_adjacencyDown
    | with_reducible apply keeps_forgetNeighbour
    | with_reducible refine Keeps.foldl ?_ (fun u a hu => ?_)
    | (fail_if_no_progress refine Keeps.upd ?_ rfl))

theorem keeps_portLinked {σ : State} (s : State) (p : Nat) (h_s : Keeps σ s) :
    Keeps σ (portLinked s p) := by
  unfold portLinked
  repeat' (first | with_reducible assumption | with_reducible apply keeps_State_setNq | with_reducible apply keeps_State_setStage)

theorem keeps_defectHold {σ : State} (s : State) (p : Nat) (h_s : Keeps σ s) :
    Keeps σ (defectHold s p) := by
  unfold defectHold
  repeat' (first
    | with_reducible assumption
    | with_reducible apply Keeps.ite
    | with_reducible apply keeps_State_setNq
    | with_reducible apply keeps_State_setLane
    | with_reducible apply keeps_reportLane
    | with_reducible apply keeps_reportPort
    | with_reducible apply keeps_portLinked
    | with_reducible refine Keeps.foldl ?_ (fun u a hu => ?_))

theorem keeps_laneWord {σ : State} (s : State) (l : Nat) (symbols : List Nat) (h_s : Keeps σ s) :
    Keeps σ (laneWord s l symbols) := by
  unfold laneWord
  repeat' (first
    | with_reducible assumption
    | with_reducible apply keeps_State_setLane
    | with_reducible apply keeps_State_tally
    | with_reducible apply keeps_State_setSecond
    | split)

theorem keeps_phyLane {σ : State} (s : State) (l : Nat) (f : LaneRt → LaneRt) (h_s : Keeps σ s) :
    Keeps σ (phyLane s l f) := by
  unfold phyLane
  repeat' (first | with_reducible assumption | with_reducible apply keeps_State_setLane | with_reducible apply keeps_refreshDefects)

theorem keeps_phyEvent {σ : State} (s : State) (e : PhyEvent) (h_s : Keeps σ s) :
    Keeps σ (phyEvent s e) := by
  unfold phyEvent
  repeat' (first
    | with_reducible assumption
    | with_reducible apply Keeps.ite
    | with_reducible apply keeps_State_wr
    | with_reducible apply keeps_State_setNq
    | with_reducible apply keeps_State_tally
    | with_reducible apply keeps_State_setSecond
    | with_reducible apply keeps_refreshDefects
    | with_reducible apply keeps_laneWord
    | with_reducible apply keeps_phyLane
    | split)

theorem keeps_deliver {σ : State} (s : State) (p : Nat) (f : FabFrame) (h_s : Keeps σ s) :
    Keeps σ (deliver s p f) := by
  unfold deliver
  repeat' (first | with_reducible assumption | with_reducible apply Keeps.ite | (fail_if_no_progress refine Keeps.upd ?_ rfl))

theorem keeps_deliverHeld {σ : State} (p src vc n : Nat) (s : State) (h_s : Keeps σ s) : Keeps σ (deliverHeld p src vc n s) := by
  induction n generalizing s with
  | zero => exact h_s
  | succ n ih =>
    unfold deliverHeld
    split
    · exact h_s
    · exact ih _ (keeps_deliver _ _ _ (Keeps.upd h_s rfl))

theorem keeps_reliableRx {σ : State} (s : State) (p : Nat) (f : FabFrame) (h_s : Keeps σ s) :
    Keeps σ (reliableRx s p f) := by
  unfold reliableRx
  repeat' (first
    | with_reducible assumption
    | with_reducible apply Keeps.ite
    | with_reducible apply keeps_State_fabSend
    | with_reducible apply keeps_deliver
    | with_reducible apply keeps_deliverHeld
    | (fail_if_no_progress refine Keeps.upd ?_ rfl))

theorem keeps_fabricFrameRx {σ : State} (s : State) (p : Nat) (f : FabFrame) (good : Bool) (idle : Nat) (h_s : Keeps σ s) :
    Keeps σ (fabricFrameRx s p f good idle) := by
  unfold fabricFrameRx
  repeat' (first
    | with_reducible assumption
    | with_reducible apply Keeps.ite
    | with_reducible apply keeps_State_setNq
    | with_reducible apply keeps_State_tally
    | with_reducible apply keeps_State_setSecond
    | with_reducible apply keeps_deliver
    | with_reducible apply keeps_reliableRx)

theorem keeps_frameRelay {σ : State} (s : State) (h_s : Keeps σ s) :
    Keeps σ (frameRelay s) := by
  unfold frameRelay
  repeat' (first
    | with_reducible assumption
    | with_reducible apply Keeps.ite
    | with_reducible apply keeps_State_fabQueuePush
    | refine Keeps.snd (by assumption) ?_
    | split
    | (fail_if_no_progress refine Keeps.upd ?_ rfl))

theorem keeps_creditRx {σ : State} (s : State) (p : Nat) (counts : List Nat) (rdi : Bool) (h_s : Keeps σ s) :
    Keeps σ (creditRx s p counts rdi) := by
  unfold creditRx
  repeat' (first | with_reducible assumption | with_reducible apply keeps_State_setNq | with_reducible apply keeps_refreshDefects)

theorem keeps_sendBlocks {σ : State} (s : State) (p : Nat) (bs : List Block) (h_s : Keeps σ s) :
    Keeps σ (sendBlocks s p bs) := by
  unfold sendBlocks
  repeat' (first | with_reducible assumption | with_reducible apply keeps_State_setNq)

theorem keeps_creditTx {σ : State} (s : State) (p : Nat) (h_s : Keeps σ s) :
    Keeps σ (creditTx s p) := by
  unfold creditTx
  repeat' (first
    | with_reducible assumption
    | with_reducible apply Keeps.ite
    | with_reducible apply keeps_State_emit
    | with_reducible apply keeps_State_setNq
    | with_reducible apply keeps_sendBlocks)

theorem keeps_pickWait {σ : State} (s : State) (p vc : Nat) (h_s : Keeps σ s) :
    Keeps σ (pickWait s p vc).2 := by
  unfold pickWait
  repeat' (first | with_reducible assumption | with_reducible apply keeps_State_choose | split)

theorem keeps_startFrame {σ : State} (s : State) (p : Nat) (w : Waits) (h_s : Keeps σ s) :
    Keeps σ (startFrame s p w) := by
  unfold startFrame
  repeat' (first
    | with_reducible assumption
    | with_reducible apply keeps_State_emit
    | with_reducible apply keeps_State_updQ
    | split
    | (fail_if_no_progress refine Keeps.upd ?_ rfl))

theorem keeps_stall {σ : State} (s : State) (p vc : Nat) (h_s : Keeps σ s) :
    Keeps σ (stall s p vc) := by
  unfold stall
  repeat' (first
    | with_reducible assumption
    | with_reducible apply Keeps.ite
    | with_reducible apply keeps_State_setNq
    | with_reducible apply keeps_State_tally)

theorem keeps_readyWait {σ : State} (s : State) (p vc : Nat) (h_s : Keeps σ s) :
    Keeps σ (readyWait s p vc).2 := by
  unfold readyWait
  repeat' (first
    | with_reducible assumption
    | with_reducible apply keeps_pickWait
    | with_reducible apply keeps_stall
    | refine Keeps.snd (by assumption) ?_
    | split)

theorem keeps_frameTx {σ : State} (s : State) (p : Nat) (h_s : Keeps σ s) :
    Keeps σ (frameTx s p) := by
  unfold frameTx
  repeat' (first
    | with_reducible assumption
    | with_reducible apply keeps_State_setNq
    | with_reducible apply keeps_startFrame
    | with_reducible apply keeps_readyWait
    | ((try lift_lets); intro x; try unfold x)
    | refine Keeps.snd (by assumption) ?_
    | split)

theorem keeps_ackRx {σ : State} (s : State) (h_s : Keeps σ s) :
    Keeps σ (ackRx s) := by
  unfold ackRx
  repeat' (first
    | with_reducible assumption
    | with_reducible apply keeps_State_takeFrame
    | refine Keeps.snd (by assumption) ?_
    | split
    | (fail_if_no_progress refine Keeps.upd ?_ rfl))

theorem keeps_ctrlRetransmit {σ : State} (s : State) (h_s : Keeps σ s) :
    Keeps σ (ctrlRetransmit s) := by
  unfold ctrlRetransmit
  repeat' (first
    | with_reducible assumption
    | with_reducible apply keeps_State_event
    | with_reducible apply keeps_State_fabQueuePush
    | ((try lift_lets); intro x; try unfold x)
    | split
    | (fail_if_no_progress refine Keeps.upd ?_ rfl))

theorem keeps_helloTx {σ : State} (s : State) (p : Nat) (h_s : Keeps σ s) :
    Keeps σ (helloTx s p) := by
  unfold helloTx
  repeat' (first
    | with_reducible assumption
    | with_reducible apply Keeps.ite
    | with_reducible apply keeps_State_hopSend
    | with_reducible apply keeps_State_setNq)

theorem keeps_helloRx {σ : State} (s : State) (h_s : Keeps σ s) : Keeps σ (helloRx s) := by
  unfold helloRx
  have ht := keeps_State_takeFrame s (fun f => decide (f.kind = 0x01)) h_s
  split
  · rename_i e
    have ht := Keeps.snd e ht
    split
    · dsimp only
      split
      · exact ht
      · rename_i p _ f t _ serial fdev port hs hp _ _
        generalize (decide ((t.nq p).stage = 3) && (t.nq p).neighbour.any _) = other
        have h1 : Keeps σ (if other = true then adjacencyDown t p 2 else t) := Keeps.ite (keeps_adjacencyDown _ _ _ ht) ht
        generalize (if other = true then adjacencyDown t p 2 else t) = t1 at h1 ⊢
        have h3 := fun x v w => keeps_State_wr _ (Obj.nqNeighbourPort p) w (keeps_State_wr _ (Obj.nqNeighbour p) v (keeps_State_setNq t1 p x h1))
        refine Keeps.ite ?_ ?_
        · exact keeps_State_event _ _ _ _ (keeps_originate _ (keeps_State_lsdbChanged _ (keeps_State_setStage _ _ _ (h3 _ _ _))))
        · exact h3 _ _ _
    · exact ht
  · rename_i e
    exact Keeps.snd e ht

theorem keeps_deadInterval {σ : State} (s : State) (p : Nat) (h_s : Keeps σ s) :
    Keeps σ (deadInterval s p) := by
  unfold deadInterval
  repeat' (first
    | with_reducible assumption
    | with_reducible apply Keeps.ite
    | with_reducible apply keeps_adjacencyDown
    | with_reducible apply keeps_forgetNeighbour)

theorem keeps_lsaRefresh {σ : State} (s : State) (h_s : Keeps σ s) :
    Keeps σ (lsaRefresh s) := by
  unfold lsaRefresh
  repeat' (first | with_reducible assumption | with_reducible apply Keeps.ite | with_reducible apply keeps_originate)

theorem keeps_fdevConflict {σ : State} (s : State) (a : Lsa) (h_s : Keeps σ s) :
    Keeps σ (fdevConflict s a) := by
  unfold fdevConflict
  repeat' (first
    | with_reducible assumption
    | with_reducible apply Keeps.ite
    | with_reducible apply keeps_State_event
    | (fail_if_no_progress refine Keeps.upd ?_ rfl))

theorem keeps_lsaRx {σ : State} (s : State) (h_s : Keeps σ s) :
    Keeps σ (lsaRx s) := by
  unfold lsaRx
  repeat' (first
    | with_reducible assumption
    | with_reducible apply Keeps.ite
    | with_reducible apply keeps_State_takeFrame
    | with_reducible apply keeps_flood
    | with_reducible apply keeps_fdevConflict
    | refine Keeps.snd (by assumption) ?_
    | split
    | (fail_if_no_progress refine Keeps.upd ?_ rfl))

theorem keeps_lsackRx {σ : State} (s : State) (h_s : Keeps σ s) :
    Keeps σ (lsackRx s) := by
  unfold lsackRx
  repeat' (first
    | with_reducible assumption
    | with_reducible apply keeps_State_takeFrame
    | refine Keeps.snd (by assumption) ?_
    | split
    | (fail_if_no_progress refine Keeps.upd ?_ rfl))

theorem keeps_lsaExpiry {σ : State} (s : State) (h_s : Keeps σ s) :
    Keeps σ (lsaExpiry s) := by
  unfold lsaExpiry
  repeat' (first | with_reducible assumption | with_reducible apply Keeps.ite | (fail_if_no_progress refine Keeps.upd ?_ rfl))

theorem keeps_putRoute {σ : State} (s : State) (d state dist : Nat) (ports : List Nat) (h_s : Keeps σ s) :
    Keeps σ (putRoute s d state dist ports) := by
  unfold putRoute
  repeat' (first | with_reducible assumption | with_reducible apply keeps_State_wr)

theorem keeps_sendJoin {σ : State} (s : State) (c : Nat) (h_s : Keeps σ s) :
    Keeps σ (sendJoin s c) := by
  unfold sendJoin
  repeat' (first
    | with_reducible assumption
    | with_reducible apply Keeps.ite
    | with_reducible apply keeps_State_wr
    | with_reducible apply keeps_State_fabSend
    | with_reducible apply keeps_State_setCf)

theorem keeps_remoteRoutes {σ : State} (s : State) (c : Nat) (h_s : Keeps σ s) :
    Keeps σ (remoteRoutes s c) := by
  unfold remoteRoutes
  repeat' (first
    | with_reducible assumption
    | with_reducible apply Keeps.ite
    | with_reducible apply keeps_State_wr
    | with_reducible apply keeps_State_event
    | with_reducible apply keeps_sendJoin)

theorem keeps_sendSubscribe {σ : State} (s : State) (l what : Nat) (h_s : Keeps σ s) :
    Keeps σ (sendSubscribe s l what) := by
  unfold sendSubscribe
  repeat' (first | with_reducible assumption | with_reducible apply keeps_State_fabSend)

theorem keeps_feedRoutes {σ : State} (s : State) (l : Nat) (h_s : Keeps σ s) :
    Keeps σ (feedRoutes s l) := by
  unfold feedRoutes
  repeat' (first
    | with_reducible assumption
    | with_reducible apply Keeps.ite
    | with_reducible apply keeps_State_wr
    | with_reducible apply keeps_sendSubscribe)

theorem keeps_spfRun {σ : State} (s : State) (h_s : Keeps σ s) :
    Keeps σ (spfRun s) := by
  unfold spfRun
  repeat' (first
    | with_reducible assumption
    | with_reducible apply keeps_State_wr
    | with_reducible apply keeps_State_inc
    | with_reducible apply keeps_putRoute
    | with_reducible apply keeps_remoteRoutes
    | with_reducible apply keeps_feedRoutes
    | with_reducible refine Keeps.foldl ?_ (fun u a hu => ?_)
    | split
    | (fail_if_no_progress refine Keeps.upd ?_ rfl))

theorem keeps_nqEnableWrite {σ : State} (s : State) (p v : Nat) (h_s : Keeps σ s) :
    Keeps σ (nqEnableWrite s p v) := by
  unfold nqEnableWrite
  repeat' (first
    | with_reducible assumption
    | with_reducible apply Keeps.ite
    | with_reducible apply keeps_portUp
    | with_reducible apply keeps_portDown)

theorem keeps_fdevPost {σ : State} (s : State) (old : Nat) (h_s : Keeps σ s) :
    Keeps σ (fdevPost s old) := by
  unfold fdevPost
  repeat' (first | with_reducible assumption | with_reducible apply keeps_originate | (fail_if_no_progress refine Keeps.upd ?_ rfl))

theorem keeps_sendLeave {σ : State} (s : State) (c fdev conf : Nat) (h_s : Keeps σ s) :
    Keeps σ (sendLeave s c fdev conf) := by
  unfold sendLeave
  repeat' (first | with_reducible assumption | with_reducible apply Keeps.ite | with_reducible apply keeps_State_fabSend)

theorem keeps_confActivate {σ : State} (s : State) (c : Nat) (h_s : Keeps σ s) :
    Keeps σ (confActivate s c).2 := by
  unfold confActivate
  repeat' (first
    | with_reducible assumption
    | with_reducible apply Keeps.ite
    | with_reducible apply Keeps.ite_snd
    | with_reducible apply keeps_State_wr
    | with_reducible apply keeps_State_setCf
    | with_reducible apply keeps_sendJoin)

theorem keeps_confFree {σ : State} (s : State) (c : Nat) (h_s : Keeps σ s) :
    Keeps σ (confFree s c).2 := by
  unfold confFree
  repeat' (first
    | with_reducible assumption
    | with_reducible apply Keeps.ite
    | with_reducible apply Keeps.ite_snd
    | with_reducible apply keeps_State_wr
    | with_reducible apply keeps_sendLeave
    | (fail_if_no_progress refine Keeps.upd ?_ rfl))

theorem keeps_anchorRepoint {σ : State} (s : State) (c oldFdev oldConf : Nat) (h_s : Keeps σ s) :
    Keeps σ (anchorRepoint s c oldFdev oldConf) := by
  unfold anchorRepoint
  repeat' (first
    | with_reducible assumption
    | with_reducible apply Keeps.ite
    | with_reducible apply keeps_sendJoin
    | with_reducible apply keeps_sendLeave)

theorem keeps_setRemotes {σ : State} (s : State) (c : Nat) (rs : List Remote) (h_s : Keeps σ s) :
    Keeps σ (setRemotes s c rs) := by
  unfold setRemotes
  repeat' (first | with_reducible assumption | with_reducible apply keeps_State_wr | with_reducible apply keeps_State_setCf)

theorem keeps_joinRx {σ : State} (s : State) (h_s : Keeps σ s) :
    Keeps σ (joinRx s) := by
  unfold joinRx
  repeat' (first
    | with_reducible assumption
    | with_reducible apply Keeps.ite
    | with_reducible apply keeps_State_fabSend
    | with_reducible apply keeps_State_takeFrame
    | with_reducible apply keeps_setRemotes
    | refine Keeps.snd (by assumption) ?_
    | split)

theorem keeps_joinRefused {σ : State} (s : State) (c : Nat) (h_s : Keeps σ s) :
    Keeps σ (joinRefused s c) := by
  unfold joinRefused
  repeat' (first
    | with_reducible assumption
    | with_reducible apply Keeps.ite
    | with_reducible apply keeps_State_wr
    | with_reducible apply keeps_State_inc
    | with_reducible apply keeps_State_event
    | with_reducible apply keeps_State_setCf
    | with_reducible apply keeps_sendJoin)

theorem keeps_joinReplyRx {σ : State} (s : State) (h_s : Keeps σ s) :
    Keeps σ (joinReplyRx s) := by
  unfold joinReplyRx
  repeat' (first
    | with_reducible assumption
    | with_reducible apply keeps_State_wr
    | with_reducible apply keeps_State_takeFrame
    | with_reducible apply keeps_State_setCf
    | with_reducible apply keeps_joinRefused
    | refine Keeps.snd (by assumption) ?_
    | split)

theorem keeps_joinRetry {σ : State} (s : State) (c : Nat) (h_s : Keeps σ s) :
    Keeps σ (joinRetry s c) := by
  unfold joinRetry
  repeat' (first | with_reducible assumption | with_reducible apply Keeps.ite | with_reducible apply keeps_sendJoin)

theorem keeps_leaveRx {σ : State} (s : State) (h_s : Keeps σ s) :
    Keeps σ (leaveRx s) := by
  unfold leaveRx
  repeat' (first
    | with_reducible assumption
    | with_reducible apply Keeps.ite
    | with_reducible apply keeps_State_takeFrame
    | with_reducible apply keeps_setRemotes
    | refine Keeps.snd (by assumption) ?_
    | split)

theorem keeps_partialTimeout {σ : State} (s : State) (c fdev : Nat) (h_s : Keeps σ s) :
    Keeps σ (partialTimeout s c fdev) := by
  unfold partialTimeout
  repeat' (first | with_reducible assumption | with_reducible apply Keeps.ite | with_reducible apply keeps_setRemotes)

theorem keeps_subscribedKey {σ : State} (s : State) (kind id entry : Nat) (h_s : Keeps σ s) :
    Keeps σ (subscribedKey s kind id entry) := by
  unfold subscribedKey
  repeat' (first
    | with_reducible assumption
    | with_reducible apply Keeps.ite
    | with_reducible apply keeps_State_askKey
    | with_reducible apply keeps_raiseKey)

theorem keeps_subscriptionAnswer {σ : State} (s : State) (l src state : Nat) (h_s : Keeps σ s) :
    Keeps σ (subscriptionAnswer s l src state) := by
  unfold subscriptionAnswer
  repeat' (first | with_reducible assumption | with_reducible apply Keeps.ite | with_reducible apply keeps_State_wr)

theorem keeps_subscribeRx {σ : State} (s : State) (h_s : Keeps σ s) :
    Keeps σ (subscribeRx s) := by
  unfold subscribeRx
  repeat' (first
    | with_reducible assumption
    | with_reducible apply Keeps.ite
    | with_reducible apply keeps_State_fabSend
    | with_reducible apply keeps_State_takeFrame
    | with_reducible apply keeps_subscribedKey
    | with_reducible apply keeps_subscriptionAnswer
    | refine Keeps.snd (by assumption) ?_
    | split
    | (fail_if_no_progress refine Keeps.upd ?_ rfl))

theorem keeps_endSubscriptions {σ : State} (s : State) (h_s : Keeps σ s) :
    Keeps σ (endSubscriptions s) := by
  unfold endSubscriptions
  repeat' (first | with_reducible assumption | (fail_if_no_progress refine Keeps.upd ?_ rfl))

theorem keeps_feedPlace {σ : State} (s : State) (l : Nat) (p : Rtp) (h_s : Keeps σ s) :
    Keeps σ (feedPlace s l p) := by
  unfold feedPlace
  repeat' (first | with_reducible assumption | with_reducible apply keeps_deliverRtp | split)

theorem keeps_mediaRx {σ : State} (s : State) (h_s : Keeps σ s) :
    Keeps σ (mediaRx s) := by
  unfold mediaRx
  repeat' (first
    | with_reducible assumption
    | with_reducible apply keeps_State_wr
    | with_reducible apply keeps_State_takeFrame
    | with_reducible apply keeps_State_setLeg
    | with_reducible apply keeps_feedPlace
    | refine Keeps.snd (by assumption) ?_
    | split)

theorem keeps_State_addRec {σ : State} (s : State) (ix sub : Nat) (d : Int) (h_s : Keeps σ s) :
    Keeps σ (State.addRec s ix sub d) := by
  unfold State.addRec
  repeat' (first | with_reducible assumption | with_reducible apply keeps_State_wr)

theorem keeps_pmClass {σ : State} (s : State) (k start : Nat) (es ses uas : Int) (h_s : Keeps σ s) :
    Keeps σ (pmClass s k start es ses uas) := by
  unfold pmClass
  repeat' (first | with_reducible assumption | with_reducible apply keeps_State_addRec)

theorem keeps_pmSecond {σ : State} (s : State) (k start : Nat) (es ses : Bool) (h_s : Keeps σ s) :
    Keeps σ (pmSecond s k start es ses) := by
  unfold pmSecond
  repeat' (first
    | with_reducible assumption
    | with_reducible apply Keeps.ite
    | with_reducible apply keeps_pmClass
    | with_reducible refine Keeps.foldl ?_ (fun u a hu => ?_)
    | (fail_if_no_progress refine Keeps.upd ?_ rfl))

theorem keeps_pmStart {σ : State} (s : State) (ix : Nat) (h_s : Keeps σ s) :
    Keeps σ (pmStart s ix) := by
  unfold pmStart
  repeat' (first | with_reducible assumption | with_reducible apply Keeps.ite | with_reducible apply keeps_State_wr)

theorem keeps_pmLatch {σ : State} (s : State) (k : Nat) (h_s : Keeps σ s) :
    Keeps σ (pmLatch s k) := by
  unfold pmLatch
  repeat' (first
    | with_reducible assumption
    | with_reducible apply keeps_State_addRec
    | with_reducible apply keeps_pmSecond
    | with_reducible apply keeps_pmStart
    | split)

theorem keeps_degLatch {σ : State} (s : State) (p : Nat) (h_s : Keeps σ s) :
    Keeps σ (degLatch s p) := by
  unfold degLatch
  repeat' (first
    | with_reducible assumption
    | with_reducible apply Keeps.ite
    | with_reducible apply keeps_State_setNq
    | with_reducible apply keeps_reportPort)

theorem keeps_fabricLatch {σ : State} (s : State) (h_s : Keeps σ s) :
    Keeps σ (fabricLatch s) := by
  unfold fabricLatch
  repeat' (first
    | with_reducible assumption
    | with_reducible apply keeps_State_wr
    | with_reducible apply keeps_pmLatch
    | with_reducible apply keeps_degLatch
    | with_reducible refine Keeps.foldl ?_ (fun u a hu => ?_)
    | (fail_if_no_progress refine Keeps.upd ?_ rfl))

theorem keeps_clearLive {σ : State} (s : State) (k : Nat) (h_s : Keeps σ s) :
    Keeps σ (clearLive s k) := by
  unfold clearLive
  repeat' (first | with_reducible assumption | (fail_if_no_progress refine Keeps.upd ?_ rfl))

theorem keeps_copyRec {σ : State} (s : State) (from_ to_ : Nat) (h_s : Keeps σ s) :
    Keeps σ (copyRec s from_ to_) := by
  unfold copyRec
  repeat' (first
    | with_reducible assumption
    | with_reducible apply keeps_State_wr
    | with_reducible refine Keeps.foldl ?_ (fun u a hu => ?_))

theorem keeps_freshRec {σ : State} (s : State) (ix t : Nat) (h_s : Keeps σ s) :
    Keeps σ (freshRec s ix t) := by
  unfold freshRec
  repeat' (first
    | with_reducible assumption
    | with_reducible apply keeps_State_wr
    | with_reducible refine Keeps.foldl ?_ (fun u a hu => ?_))

theorem keeps_suspectIf {σ : State} (s : State) (ix : Nat) (b : Bool) (h_s : Keeps σ s) :
    Keeps σ (suspectIf s ix b) := by
  unfold suspectIf
  repeat' (first | with_reducible assumption | with_reducible apply Keeps.ite | with_reducible apply keeps_State_wr)

theorem keeps_pmRollover {σ : State} (s : State) (k : Nat) (day : Bool) (h_s : Keeps σ s) :
    Keeps σ (pmRollover s k day) := by
  unfold pmRollover
  repeat' (first
    | with_reducible assumption
    | with_reducible apply Keeps.ite
    | with_reducible apply keeps_copyRec
    | with_reducible apply keeps_freshRec
    | with_reducible apply keeps_suspectIf
    | with_reducible refine Keeps.foldl ?_ (fun u a hu => ?_))

theorem keeps_pmSuspect {σ : State} (s : State) (k : Nat) (h_s : Keeps σ s) :
    Keeps σ (pmSuspect s k) := by
  unfold pmSuspect
  repeat' (first | with_reducible assumption | with_reducible apply keeps_suspectIf)

theorem keeps_withFabric {σ : State} (s t : State) (h_s : Keeps σ s) (h_t : Keeps σ t) :
    Keeps.outcome σ (withFabric s t) := by
  unfold withFabric
  repeat' (first | with_reducible assumption | with_reducible apply Keeps.ite | with_reducible apply Keeps.outcome_next)

theorem keeps_execFabricFrameRx {σ : State} (p : Nat) (f : FabFrame) (good : Bool) (idle : Nat) (s : State) (h_s : Keeps σ s) :
    Keeps.outcome σ (execFabricFrameRx p f good idle s) := by
  unfold execFabricFrameRx
  repeat' (first
    | with_reducible assumption
    | with_reducible apply Keeps.ite
    | with_reducible apply keeps_fabricFrameRx
    | with_reducible apply keeps_withFabric)

theorem keeps_execFrameRelay {σ : State} (s : State) (h_s : Keeps σ s) :
    Keeps.outcome σ (execFrameRelay s) := by
  unfold execFrameRelay
  repeat' (first | with_reducible assumption | with_reducible apply keeps_frameRelay | with_reducible apply keeps_withFabric)

theorem keeps_execCreditBlockRx {σ : State} (p : Nat) (counts : List Nat) (rdi : Bool) (s : State) (h_s : Keeps σ s) :
    Keeps.outcome σ (execCreditBlockRx p counts rdi s) := by
  unfold execCreditBlockRx
  repeat' (first
    | with_reducible assumption
    | with_reducible apply Keeps.ite
    | with_reducible apply keeps_creditRx
    | with_reducible apply keeps_withFabric)

theorem keeps_execCreditBlockTx {σ : State} (p : Nat) (s : State) (h_s : Keeps σ s) :
    Keeps.outcome σ (execCreditBlockTx p s) := by
  unfold execCreditBlockTx
  repeat' (first
    | with_reducible assumption
    | with_reducible apply Keeps.ite
    | with_reducible apply keeps_creditTx
    | with_reducible apply keeps_withFabric)

theorem keeps_execFabricFrameTx {σ : State} (p : Nat) (s : State) (h_s : Keeps σ s) :
    Keeps.outcome σ (execFabricFrameTx p s) := by
  unfold execFabricFrameTx
  repeat' (first
    | with_reducible assumption
    | with_reducible apply Keeps.ite
    | with_reducible apply keeps_frameTx
    | with_reducible apply keeps_withFabric)

theorem keeps_execAckRx {σ : State} (s : State) (h_s : Keeps σ s) :
    Keeps.outcome σ (execAckRx s) := by
  unfold execAckRx
  repeat' (first | with_reducible assumption | with_reducible apply keeps_ackRx | with_reducible apply keeps_withFabric)

theorem keeps_execCtrlRetransmitExpiry {σ : State} (s : State) (h_s : Keeps σ s) :
    Keeps.outcome σ (execCtrlRetransmitExpiry s) := by
  unfold execCtrlRetransmitExpiry
  repeat' (first | with_reducible assumption | with_reducible apply keeps_ctrlRetransmit | with_reducible apply keeps_withFabric)

theorem keeps_execHelloTx {σ : State} (p : Nat) (s : State) (h_s : Keeps σ s) :
    Keeps.outcome σ (execHelloTx p s) := by
  unfold execHelloTx
  repeat' (first
    | with_reducible assumption
    | with_reducible apply Keeps.ite
    | with_reducible apply keeps_helloTx
    | with_reducible apply keeps_withFabric)

theorem keeps_execHelloRx {σ : State} (s : State) (h_s : Keeps σ s) :
    Keeps.outcome σ (execHelloRx s) := by
  unfold execHelloRx
  repeat' (first | with_reducible assumption | with_reducible apply keeps_helloRx | with_reducible apply keeps_withFabric)

theorem keeps_execDeadIntervalExpiry {σ : State} (p : Nat) (s : State) (h_s : Keeps σ s) :
    Keeps.outcome σ (execDeadIntervalExpiry p s) := by
  unfold execDeadIntervalExpiry
  repeat' (first
    | with_reducible assumption
    | with_reducible apply Keeps.ite
    | with_reducible apply keeps_deadInterval
    | with_reducible apply keeps_withFabric)

theorem keeps_execLsaRefresh {σ : State} (s : State) (h_s : Keeps σ s) :
    Keeps.outcome σ (execLsaRefresh s) := by
  unfold execLsaRefresh
  repeat' (first | with_reducible assumption | with_reducible apply keeps_lsaRefresh | with_reducible apply keeps_withFabric)

theorem keeps_execLsaRx {σ : State} (s : State) (h_s : Keeps σ s) :
    Keeps.outcome σ (execLsaRx s) := by
  unfold execLsaRx
  repeat' (first | with_reducible assumption | with_reducible apply keeps_lsaRx | with_reducible apply keeps_withFabric)

theorem keeps_execLsackRx {σ : State} (s : State) (h_s : Keeps σ s) :
    Keeps.outcome σ (execLsackRx s) := by
  unfold execLsackRx
  repeat' (first | with_reducible assumption | with_reducible apply keeps_lsackRx | with_reducible apply keeps_withFabric)

theorem keeps_execLsaExpiry {σ : State} (s : State) (h_s : Keeps σ s) :
    Keeps.outcome σ (execLsaExpiry s) := by
  unfold execLsaExpiry
  repeat' (first | with_reducible assumption | with_reducible apply keeps_lsaExpiry | with_reducible apply keeps_withFabric)

theorem keeps_execSpfRun {σ : State} (s : State) (h_s : Keeps σ s) :
    Keeps.outcome σ (execSpfRun s) := by
  unfold execSpfRun
  repeat' (first
    | with_reducible assumption
    | with_reducible apply keeps_spfRun
    | with_reducible apply keeps_withFabric
    | ((try lift_lets); intro x; try unfold x))

theorem keeps_execLaneDefectChange {σ : State} (e : PhyEvent) (s : State) (h_s : Keeps σ s) :
    Keeps.outcome σ (execLaneDefectChange e s) := by
  unfold execLaneDefectChange
  repeat' (first | with_reducible assumption | with_reducible apply keeps_phyEvent | with_reducible apply keeps_withFabric)

theorem keeps_execDefectHoldExpiry {σ : State} (p : Nat) (s : State) (h_s : Keeps σ s) :
    Keeps.outcome σ (execDefectHoldExpiry p s) := by
  unfold execDefectHoldExpiry
  repeat' (first
    | with_reducible assumption
    | with_reducible apply Keeps.ite
    | with_reducible apply keeps_defectHold
    | with_reducible apply keeps_withFabric)

theorem keeps_execJoinRx {σ : State} (s : State) (h_s : Keeps σ s) :
    Keeps.outcome σ (execJoinRx s) := by
  unfold execJoinRx
  repeat' (first | with_reducible assumption | with_reducible apply keeps_joinRx | with_reducible apply keeps_withFabric)

theorem keeps_execJoinReplyRx {σ : State} (s : State) (h_s : Keeps σ s) :
    Keeps.outcome σ (execJoinReplyRx s) := by
  unfold execJoinReplyRx
  repeat' (first | with_reducible assumption | with_reducible apply keeps_joinReplyRx | with_reducible apply keeps_withFabric)

theorem keeps_execJoinRetryExpiry {σ : State} (c : Nat) (s : State) (h_s : Keeps σ s) :
    Keeps.outcome σ (execJoinRetryExpiry c s) := by
  unfold execJoinRetryExpiry
  repeat' (first
    | with_reducible assumption
    | with_reducible exact Keeps.refl _
    | with_reducible apply Keeps.ite
    | with_reducible apply keeps_joinRetry
    | with_reducible apply keeps_withFabric
    | with_reducible apply Keeps.outcome_next
    | refine fun _ => ?_
    | ((try lift_lets); intro x; refine (have hx : Keeps σ x := ?a; ?b); case' a => unfold x; case' b => clear_value x)
    | ((try lift_lets); intro x; try unfold x)
    | refine Keeps.snd (by assumption) ?_
    | refine Keeps.mid4 (by assumption) ?_
    | refine Keeps.snd3 (by assumption) ?_
    | refine Keeps.mid3 (by assumption) ?_
    | refine Keeps.fst (by assumption) ?_
    | refine Keeps.ofSome (by assumption) ?_
    | split
    | (fail_if_no_progress refine Keeps.upd ?_ rfl)
    | (fail_if_no_progress dsimp only))

theorem keeps_execLeaveRx {σ : State} (s : State) (h_s : Keeps σ s) :
    Keeps.outcome σ (execLeaveRx s) := by
  unfold execLeaveRx
  repeat' (first
    | with_reducible assumption
    | with_reducible exact Keeps.refl _
    | with_reducible apply Keeps.ite
    | with_reducible apply keeps_leaveRx
    | with_reducible apply keeps_withFabric
    | with_reducible apply Keeps.outcome_next
    | refine fun _ => ?_
    | ((try lift_lets); intro x; refine (have hx : Keeps σ x := ?a; ?b); case' a => unfold x; case' b => clear_value x)
    | ((try lift_lets); intro x; try unfold x)
    | refine Keeps.snd (by assumption) ?_
    | refine Keeps.mid4 (by assumption) ?_
    | refine Keeps.snd3 (by assumption) ?_
    | refine Keeps.mid3 (by assumption) ?_
    | refine Keeps.fst (by assumption) ?_
    | refine Keeps.ofSome (by assumption) ?_
    | split
    | (fail_if_no_progress refine Keeps.upd ?_ rfl)
    | (fail_if_no_progress dsimp only))

theorem keeps_execRemotePartialTimeout {σ : State} (c fdev : Nat) (s : State) (h_s : Keeps σ s) :
    Keeps.outcome σ (execRemotePartialTimeout c fdev s) := by
  unfold execRemotePartialTimeout
  repeat' (first
    | with_reducible assumption
    | with_reducible exact Keeps.refl _
    | with_reducible apply Keeps.ite
    | with_reducible apply keeps_partialTimeout
    | with_reducible apply keeps_withFabric
    | with_reducible apply Keeps.outcome_next
    | refine fun _ => ?_
    | ((try lift_lets); intro x; refine (have hx : Keeps σ x := ?a; ?b); case' a => unfold x; case' b => clear_value x)
    | ((try lift_lets); intro x; try unfold x)
    | refine Keeps.snd (by assumption) ?_
    | refine Keeps.mid4 (by assumption) ?_
    | refine Keeps.snd3 (by assumption) ?_
    | refine Keeps.mid3 (by assumption) ?_
    | refine Keeps.fst (by assumption) ?_
    | refine Keeps.ofSome (by assumption) ?_
    | split
    | (fail_if_no_progress refine Keeps.upd ?_ rfl)
    | (fail_if_no_progress dsimp only))

theorem keeps_execSubscribeRx {σ : State} (s : State) (h_s : Keeps σ s) :
    Keeps.outcome σ (execSubscribeRx s) := by
  unfold execSubscribeRx
  repeat' (first
    | with_reducible assumption
    | with_reducible exact Keeps.refl _
    | with_reducible apply Keeps.ite
    | with_reducible apply keeps_subscribeRx
    | with_reducible apply keeps_withFabric
    | with_reducible apply Keeps.outcome_next
    | refine fun _ => ?_
    | ((try lift_lets); intro x; refine (have hx : Keeps σ x := ?a; ?b); case' a => unfold x; case' b => clear_value x)
    | ((try lift_lets); intro x; try unfold x)
    | refine Keeps.snd (by assumption) ?_
    | refine Keeps.mid4 (by assumption) ?_
    | refine Keeps.snd3 (by assumption) ?_
    | refine Keeps.mid3 (by assumption) ?_
    | refine Keeps.fst (by assumption) ?_
    | refine Keeps.ofSome (by assumption) ?_
    | split
    | (fail_if_no_progress refine Keeps.upd ?_ rfl)
    | (fail_if_no_progress dsimp only))

theorem keeps_execMediaRx {σ : State} (s : State) (h_s : Keeps σ s) :
    Keeps.outcome σ (execMediaRx s) := by
  unfold execMediaRx
  repeat' (first
    | with_reducible assumption
    | with_reducible exact Keeps.refl _
    | with_reducible apply Keeps.ite
    | with_reducible apply keeps_mediaRx
    | with_reducible apply keeps_withFabric
    | with_reducible apply Keeps.outcome_next
    | refine fun _ => ?_
    | ((try lift_lets); intro x; refine (have hx : Keeps σ x := ?a; ?b); case' a => unfold x; case' b => clear_value x)
    | ((try lift_lets); intro x; try unfold x)
    | refine Keeps.snd (by assumption) ?_
    | refine Keeps.mid4 (by assumption) ?_
    | refine Keeps.snd3 (by assumption) ?_
    | refine Keeps.mid3 (by assumption) ?_
    | refine Keeps.fst (by assumption) ?_
    | refine Keeps.ofSome (by assumption) ?_
    | split
    | (fail_if_no_progress refine Keeps.upd ?_ rfl)
    | (fail_if_no_progress dsimp only))

theorem keeps_execPmBinRollover {σ : State} (p : Nat) (day : Bool) (s : State) (h_s : Keeps σ s) :
    Keeps.outcome σ (execPmBinRollover p day s) := by
  unfold execPmBinRollover
  repeat' (first
    | with_reducible assumption
    | with_reducible exact Keeps.refl _
    | with_reducible apply Keeps.ite
    | with_reducible apply keeps_pmRollover
    | with_reducible apply keeps_withFabric
    | with_reducible apply Keeps.outcome_next
    | refine fun _ => ?_
    | ((try lift_lets); intro x; refine (have hx : Keeps σ x := ?a; ?b); case' a => unfold x; case' b => clear_value x)
    | ((try lift_lets); intro x; try unfold x)
    | refine Keeps.snd (by assumption) ?_
    | refine Keeps.mid4 (by assumption) ?_
    | refine Keeps.snd3 (by assumption) ?_
    | refine Keeps.mid3 (by assumption) ?_
    | refine Keeps.fst (by assumption) ?_
    | refine Keeps.ofSome (by assumption) ?_
    | split
    | (fail_if_no_progress refine Keeps.upd ?_ rfl)
    | (fail_if_no_progress dsimp only))

end Sys2Proof.Machine
end

