-- ==== Sys2Proof/Laws/Keeps/Time.lean ====
section
/-! SUPPORT. What the operations of Machine/Time.lean keep: the invariants of Keeps, one lemma per definition. -/

namespace Sys2Proof.Machine

set_option linter.unusedTactic false
set_option linter.unreachableTactic false
set_option linter.unusedSimpArgs false
set_option linter.unusedVariables false

theorem keeps_State_setPulse {σ : State} (s : State) (n : Nat) (x : PulseRt) (h_s : Keeps σ s) :
    Keeps σ (State.setPulse s n x) := by
  unfold State.setPulse
  repeat' (first | with_reducible assumption | (fail_if_no_progress refine Keeps.upd ?_ rfl))

theorem keeps_skipEdges {σ : State} (s : State) (before after : Nat) (n : Nat) (h_s : Keeps σ s) :
    Keeps σ (skipEdges s before after n) := by
  unfold skipEdges
  repeat' (first
    | with_reducible assumption
    | with_reducible apply Keeps.ite
    | with_reducible apply keeps_State_count
    | with_reducible apply keeps_State_setPulse)

theorem keeps_timeStep {σ : State} (s : State) (d : Int) (first : Bool) (h_s : Keeps σ s) :
    Keeps σ (timeStep s d first) := by
  unfold timeStep
  repeat' (first
    | with_reducible assumption
    | with_reducible apply Keeps.ite
    | with_reducible apply keeps_State_inc
    | with_reducible apply keeps_State_event
    | with_reducible apply keeps_pmSuspect
    | with_reducible apply keeps_skipEdges
    | with_reducible refine Keeps.foldl ?_ (fun u a hu => ?_)
    | (fail_if_no_progress refine Keeps.upd ?_ rfl))

theorem keeps_State_setServo {σ : State} (s : State) (k : Nat) (h_s : Keeps σ s) :
    Keeps σ (State.setServo s k) := by
  unfold State.setServo
  repeat' (first | with_reducible assumption | with_reducible apply keeps_State_wr)

theorem keeps_toHoldover {σ : State} (s : State) (ev : Nat) (h_s : Keeps σ s) :
    Keeps σ (toHoldover s ev) := by
  unfold toHoldover
  repeat' (first
    | with_reducible assumption
    | with_reducible apply keeps_State_event
    | with_reducible apply keeps_State_setServo
    | (fail_if_no_progress refine Keeps.upd ?_ rfl))

theorem keeps_servoRate {σ : State} (s : State) (h_s : Keeps σ s) :
    Keeps σ (servoRate s) := by
  unfold servoRate
  repeat' (first | with_reducible assumption | with_reducible apply keeps_State_wr | with_reducible apply keeps_State_free)

theorem keeps_correct {σ : State} (s : State) (off : Int) (first : Bool) (h_s : Keeps σ s) :
    Keeps σ (correct s off first) := by
  unfold correct
  repeat' (first
    | with_reducible assumption
    | with_reducible apply Keeps.ite
    | with_reducible apply keeps_timeStep
    | (fail_if_no_progress refine Keeps.upd ?_ rfl))

theorem keeps_measured {σ : State} (s : State) (off : Int) (h_s : Keeps σ s) :
    Keeps σ (measured s off) := by
  unfold measured
  repeat' (first
    | with_reducible assumption
    | with_reducible apply Keeps.ite
    | with_reducible apply keeps_State_wr
    | with_reducible apply keeps_State_event
    | with_reducible apply keeps_State_setServo
    | with_reducible apply keeps_servoRate
    | with_reducible apply keeps_correct
    | split
    | (fail_if_no_progress refine Keeps.upd ?_ rfl))

theorem keeps_followMaster {σ : State} (s : State) (h_s : Keeps σ s) :
    Keeps σ (followMaster s) := by
  unfold followMaster
  repeat' (first
    | with_reducible assumption
    | with_reducible apply keeps_State_wr
    | with_reducible apply keeps_toHoldover
    | split
    | (fail_if_no_progress refine Keeps.upd ?_ rfl))

theorem keeps_ptpAnnounce {σ : State} (s : State) (m : PtpMsg) (rank utc : Nat) (h_s : Keeps σ s) :
    Keeps σ (ptpAnnounce s m rank utc) := by
  unfold ptpAnnounce
  repeat' (first
    | with_reducible assumption
    | with_reducible apply Keeps.ite
    | with_reducible apply keeps_relayPtp
    | with_reducible apply keeps_followMaster
    | (fail_if_no_progress refine Keeps.upd ?_ rfl))

theorem keeps_ptpSync {σ : State} (s : State) (m : PtpMsg) (origin : Nat) (corr : Int) (twoStep : Bool) (h_s : Keeps σ s) :
    Keeps σ (ptpSync s m origin corr twoStep) := by
  unfold ptpSync
  repeat' (first
    | with_reducible assumption
    | with_reducible apply Keeps.ite
    | with_reducible apply keeps_State_inc
    | with_reducible apply keeps_relayPtp
    | with_reducible apply keeps_measured
    | (fail_if_no_progress refine Keeps.upd ?_ rfl))

theorem keeps_ptpDelayResp {σ : State} (s : State) (m : PtpMsg) (received : Nat) (corr : Int) (h_s : Keeps σ s) :
    Keeps σ (ptpDelayResp s m received corr) := by
  unfold ptpDelayResp
  repeat' (first
    | with_reducible assumption
    | with_reducible apply Keeps.ite
    | with_reducible apply keeps_relayPtp
    | split
    | (fail_if_no_progress refine Keeps.upd ?_ rfl))

theorem keeps_ptpDelayReq {σ : State} (s : State) (h_s : Keeps σ s) :
    Keeps σ (ptpDelayReq s) := by
  unfold ptpDelayReq
  repeat' (first
    | with_reducible assumption
    | with_reducible apply Keeps.ite
    | with_reducible apply keeps_State_emit
    | (fail_if_no_progress refine Keeps.upd ?_ rfl))

theorem keeps_announceTimeout {σ : State} (s : State) (h_s : Keeps σ s) :
    Keeps σ (announceTimeout s) := by
  unfold announceTimeout
  repeat' (first | with_reducible assumption | with_reducible apply Keeps.ite | with_reducible apply keeps_toHoldover)

theorem keeps_ptpChanged {σ : State} (s : State) (h_s : Keeps σ s) :
    Keeps σ (ptpChanged s) := by
  unfold ptpChanged
  repeat' (first
    | with_reducible assumption
    | with_reducible apply Keeps.ite
    | with_reducible apply keeps_toHoldover
    | (fail_if_no_progress refine Keeps.upd ?_ rfl))

theorem keeps_servoTwin {σ : State} (s : State) (h_s : Keeps σ s) :
    Keeps σ (servoTwin s) := by
  unfold servoTwin
  repeat' (first | with_reducible assumption | with_reducible apply keeps_State_setServo | (fail_if_no_progress refine Keeps.upd ?_ rfl))

theorem keeps_servoLeavesTwin {σ : State} (s : State) (h_s : Keeps σ s) :
    Keeps σ (servoLeavesTwin s) := by
  unfold servoLeavesTwin
  repeat' (first | with_reducible assumption | with_reducible apply Keeps.ite | with_reducible apply keeps_toHoldover)

theorem keeps_twinSteer {σ : State} (s : State) (off : Int) (h_s : Keeps σ s) :
    Keeps σ (twinSteer s off) := by
  unfold twinSteer
  repeat' (first
    | with_reducible assumption
    | with_reducible apply Keeps.ite
    | with_reducible apply keeps_State_wr
    | with_reducible apply keeps_timeStep
    | (fail_if_no_progress refine Keeps.upd ?_ rfl))

theorem keeps_stampRecord {σ : State} (s : State) (source at_ : Nat) (h_s : Keeps σ s) :
    Keeps σ (stampRecord s source at_) := by
  unfold stampRecord
  repeat' (first
    | with_reducible assumption
    | with_reducible apply Keeps.ite
    | with_reducible apply keeps_State_stampPost
    | (fail_if_no_progress refine Keeps.upd ?_ rfl))

theorem keeps_ppsEdge {σ : State} (s : State) (h_s : Keeps σ s) :
    Keeps σ (ppsEdge s) := by
  unfold ppsEdge
  repeat' (first
    | with_reducible assumption
    | with_reducible apply Keeps.ite
    | with_reducible apply keeps_State_inc
    | with_reducible apply keeps_measured
    | with_reducible apply keeps_stampRecord
    | split
    | (fail_if_no_progress refine Keeps.upd ?_ rfl))

theorem keeps_ppsMissing {σ : State} (s : State) (h_s : Keeps σ s) :
    Keeps σ (ppsMissing s) := by
  unfold ppsMissing
  repeat' (first | with_reducible assumption | with_reducible apply Keeps.ite | with_reducible apply keeps_toHoldover)

theorem keeps_pulseEdge {σ : State} (s : State) (n : Nat) (h_s : Keeps σ s) :
    Keeps σ (pulseEdge s n) := by
  unfold pulseEdge
  repeat' (first
    | with_reducible assumption
    | with_reducible apply Keeps.ite
    | with_reducible apply keeps_State_inc
    | with_reducible apply keeps_State_emit
    | with_reducible apply keeps_State_setPulse
    | with_reducible apply keeps_stampRecord
    | split)

theorem keeps_pulseWrite {σ : State} (s : State) (n : Nat) (h_s : Keeps σ s) :
    Keeps σ (pulseWrite s n).2 := by
  unfold pulseWrite
  repeat' (first | with_reducible assumption | with_reducible apply Keeps.ite_snd | with_reducible apply keeps_State_setPulse)

theorem keeps_hostTodWrite {σ : State} (s : State) (v : Nat) (h_s : Keeps σ s) :
    Keeps σ (hostTodWrite s v).2 := by
  unfold hostTodWrite
  repeat' (first | with_reducible assumption | with_reducible apply Keeps.ite_snd | (fail_if_no_progress refine Keeps.upd ?_ rfl))

theorem keeps_holdExpiry {σ : State} (s : State) (h_s : Keeps σ s) :
    Keeps σ (holdExpiry s) := by
  unfold holdExpiry
  repeat' (first
    | with_reducible assumption
    | with_reducible apply keeps_State_stampDrop
    | with_reducible refine Keeps.foldl ?_ (fun u a hu => ?_)
    | (fail_if_no_progress refine Keeps.upd ?_ rfl))

theorem keeps_syncIn {σ : State} (s : State) (back : Bool) (h_s : Keeps σ s) :
    Keeps σ (syncIn s back) := by
  unfold syncIn
  repeat' (first | with_reducible assumption | with_reducible apply keeps_servoRate | split | (fail_if_no_progress refine Keeps.upd ?_ rfl))

theorem keeps_execPtpAnnounceRx {σ : State} (m : PtpMsg) (rank utc : Nat) (s : State) (h_s : Keeps σ s) :
    Keeps.outcome σ (execPtpAnnounceRx m rank utc s) := by
  unfold execPtpAnnounceRx
  repeat' (first | with_reducible assumption | with_reducible apply keeps_withFabric | with_reducible apply keeps_ptpAnnounce)

theorem keeps_execPtpSyncRx {σ : State} (m : PtpMsg) (origin : Nat) (corr : Int) (twoStep : Bool) (s : State) (h_s : Keeps σ s) :
    Keeps.outcome σ (execPtpSyncRx m origin corr twoStep s) := by
  unfold execPtpSyncRx
  repeat' (first | with_reducible assumption | with_reducible apply keeps_withFabric | with_reducible apply keeps_ptpSync)

theorem keeps_execPtpDelayRespRx {σ : State} (m : PtpMsg) (received : Nat) (corr : Int) (s : State) (h_s : Keeps σ s) :
    Keeps.outcome σ (execPtpDelayRespRx m received corr s) := by
  unfold execPtpDelayRespRx
  repeat' (first | with_reducible assumption | with_reducible apply keeps_withFabric | with_reducible apply keeps_ptpDelayResp)

theorem keeps_execPtpDelayReqTx {σ : State} (s : State) (h_s : Keeps σ s) :
    Keeps.outcome σ (execPtpDelayReqTx s) := by
  unfold execPtpDelayReqTx
  repeat' (first | with_reducible assumption | with_reducible apply keeps_withFabric | with_reducible apply keeps_ptpDelayReq)

theorem keeps_execAnnounceTimeout {σ : State} (s : State) (h_s : Keeps σ s) :
    Keeps.outcome σ (execAnnounceTimeout s) := by
  unfold execAnnounceTimeout
  repeat' (first | with_reducible assumption | with_reducible apply keeps_withFabric | with_reducible apply keeps_announceTimeout)

theorem keeps_withTime {σ : State} (s t : State) (h_s : Keeps σ s) (h_t : Keeps σ t) :
    Keeps.outcome σ (withTime s t) := by
  unfold withTime
  repeat' (first | with_reducible assumption | with_reducible apply Keeps.ite | with_reducible apply Keeps.outcome_next)

theorem keeps_execPpsEdge {σ : State} (s : State) (h_s : Keeps σ s) :
    Keeps.outcome σ (execPpsEdge s) := by
  unfold execPpsEdge
  repeat' (first | with_reducible assumption | with_reducible apply keeps_ppsEdge | with_reducible apply keeps_withTime)

theorem keeps_execPpsMissingExpiry {σ : State} (s : State) (h_s : Keeps σ s) :
    Keeps.outcome σ (execPpsMissingExpiry s) := by
  unfold execPpsMissingExpiry
  repeat' (first | with_reducible assumption | with_reducible apply keeps_ppsMissing | with_reducible apply keeps_withTime)

theorem keeps_execPulseEdge {σ : State} (n : Nat) (s : State) (h_s : Keeps σ s) :
    Keeps.outcome σ (execPulseEdge n s) := by
  unfold execPulseEdge
  repeat' (first
    | with_reducible assumption
    | with_reducible apply Keeps.ite
    | with_reducible apply keeps_pulseEdge
    | with_reducible apply keeps_withTime)

theorem keeps_execTimestampHoldExpiry {σ : State} (s : State) (h_s : Keeps σ s) :
    Keeps.outcome σ (execTimestampHoldExpiry s) := by
  unfold execTimestampHoldExpiry
  repeat' (first | with_reducible assumption | with_reducible apply keeps_holdExpiry | with_reducible apply keeps_withTime)

theorem keeps_execSyncInLoss {σ : State} (back : Bool) (s : State) (h_s : Keeps σ s) :
    Keeps.outcome σ (execSyncInLoss back s) := by
  unfold execSyncInLoss
  repeat' (first | with_reducible assumption | with_reducible apply keeps_syncIn | with_reducible apply keeps_withTime)

end Sys2Proof.Machine
end

