-- ==== Sys2Proof/Laws/Keeps/Power.lean ====
section
/-! SUPPORT. What the operations of Machine/Power.lean keep: the invariants of Keeps, one lemma per definition. -/

namespace Sys2Proof.Machine

set_option linter.unusedTactic false
set_option linter.unreachableTactic false
set_option linter.unusedSimpArgs false
set_option linter.unusedVariables false

theorem keeps_mainReset {σ : State} (s : State) (h_s : Keeps σ s) : Keeps σ (mainReset s) :=
  h_s.trans ⟨rfl, rfl, Nat.le_refl _, Fuses.grown_refl _, List.suffix_refl _, fun a _ => AMap.wf_filter a, fun _ _ => rfl, fun _ => rfl⟩

theorem keeps_recordCause {σ : State} (s : State) (kind code nested : Nat) (h_s : Keeps σ s) :
    Keeps σ (recordCause s kind code nested) := by
  unfold recordCause
  repeat' (first
    | with_reducible assumption
    | with_reducible apply Keeps.ite
    | with_reducible apply keeps_State_wr
    | (fail_if_no_progress refine Keeps.upd ?_ rfl))

theorem keeps_bootNeed {σ : State} (s : State) (cls abort : Nat) (h_s : Keeps σ s) :
    Keeps σ (bootNeed s cls abort) := by
  unfold bootNeed
  repeat' (first | with_reducible assumption | with_reducible apply Keeps.ite | with_reducible apply keeps_State_mailResponse)

theorem keeps_bootFlow {σ : State} (s : State) (fuses : Bool) (h_s : Keeps σ s) :
    Keeps σ (bootFlow s fuses) := by
  unfold bootFlow
  repeat' (first
    | with_reducible assumption
    | with_reducible apply Keeps.ite
    | with_reducible apply keeps_State_wr
    | with_reducible apply keeps_State_random
    | with_reducible apply keeps_State_event
    | with_reducible apply keeps_recordCause
    | with_reducible apply keeps_bootNeed
    | (fail_if_no_progress refine Keeps.upd ?_ rfl))

theorem keeps_bootOffer {σ : State} (s : State) (i : Image) (h_s : Keeps σ s) :
    Keeps σ (bootOffer s i) := by
  unfold bootOffer
  repeat' (first | with_reducible assumption | with_reducible apply Keeps.ite | (fail_if_no_progress refine Keeps.upd ?_ rfl))

theorem keeps_bootReady {σ : State} (s : State) (i : Image) (h_s : Keeps σ s) :
    Keeps σ (bootReady s i) := by
  unfold bootReady
  repeat' (first
    | with_reducible assumption
    | with_reducible apply Keeps.ite
    | with_reducible apply keeps_State_wr
    | with_reducible apply keeps_State_enterSeason
    | (fail_if_no_progress refine Keeps.upd ?_ rfl))

theorem keeps_bootVerified {σ : State} (s : State) (h_s : Keeps σ s) :
    Keeps σ (bootVerified s) := by
  unfold bootVerified
  repeat' (first
    | with_reducible assumption
    | with_reducible apply Keeps.ite
    | with_reducible apply keeps_State_event
    | with_reducible apply keeps_bootNeed
    | with_reducible apply keeps_bootReady
    | split
    | (fail_if_no_progress refine Keeps.upd ?_ rfl))

theorem keeps_enterSpring {σ : State} (s : State) (h_s : Keeps σ s) :
    Keeps σ (enterSpring s) := by
  unfold enterSpring
  repeat' (first
    | with_reducible assumption
    | with_reducible apply Keeps.ite
    | with_reducible apply keeps_State_enterSeason
    | (fail_if_no_progress refine Keeps.upd ?_ rfl))

theorem keeps_targetWrite {σ : State} (s : State) (v : Nat) (h_s : Keeps σ s) :
    Keeps σ (targetWrite s v) := by
  unfold targetWrite
  repeat' (first
    | with_reducible assumption
    | with_reducible apply Keeps.ite
    | with_reducible apply keeps_State_enterSeason
    | with_reducible apply keeps_State_demand
    | (fail_if_no_progress refine Keeps.upd ?_ rfl))

theorem keeps_summerHold {σ : State} (s : State) (h_s : Keeps σ s) :
    Keeps σ (summerHold s) := by
  unfold summerHold
  repeat' (first | with_reducible assumption | with_reducible apply Keeps.ite | with_reducible apply keeps_enterSpring)

theorem keeps_autumnDrained {σ : State} (s : State) (h_s : Keeps σ s) :
    Keeps σ (autumnDrained s) := by
  unfold autumnDrained
  repeat' (first | with_reducible assumption | with_reducible apply Keeps.ite | with_reducible apply keeps_enterSpring)

theorem keeps_closeSessions {σ : State} (s : State) (h_s : Keeps σ s) :
    Keeps σ (closeSessions s) := by
  unfold closeSessions
  repeat' (first
    | with_reducible assumption
    | with_reducible apply Keeps.ite
    | with_reducible apply keeps_State_wr
    | with_reducible apply keeps_State_dropSessions)

theorem keeps_zeroiseAll {σ : State} (s : State) (keep : Option Nat) (h_s : Keeps σ s) :
    Keeps σ (zeroiseAll s keep) := by
  unfold zeroiseAll
  repeat' (first
    | with_reducible assumption
    | with_reducible apply Keeps.ite
    | with_reducible apply keeps_zeroise
    | with_reducible refine Keeps.foldl ?_ (fun u a hu => ?_))

theorem keeps_fabricDown {σ : State} (s : State) (h_s : Keeps σ s) :
    Keeps σ (fabricDown s) := by
  unfold fabricDown
  repeat' (first
    | with_reducible assumption
    | with_reducible apply Keeps.ite
    | with_reducible apply keeps_portDown
    | with_reducible refine Keeps.foldl ?_ (fun u a hu => ?_))

theorem keeps_fabricUp {σ : State} (s : State) (h_s : Keeps σ s) :
    Keeps σ (fabricUp s) := by
  unfold fabricUp
  repeat' (first
    | with_reducible assumption
    | with_reducible apply Keeps.ite
    | with_reducible apply keeps_portUp
    | with_reducible refine Keeps.foldl ?_ (fun u a hu => ?_))

theorem keeps_winterEntry {σ : State} (s : State) (h_s : Keeps σ s) :
    Keeps σ (winterEntry s) := by
  unfold winterEntry
  repeat' (first
    | with_reducible assumption
    | with_reducible apply Keeps.ite
    | with_reducible apply keeps_State_enterSeason
    | with_reducible apply keeps_closeSessions
    | with_reducible apply keeps_zeroiseAll
    | with_reducible apply keeps_fabricDown
    | (fail_if_no_progress refine Keeps.upd ?_ rfl))

theorem keeps_pmeTurnOff {σ : State} (s : State) (h_s : Keeps σ s) :
    Keeps σ (pmeTurnOff s) := by
  unfold pmeTurnOff
  repeat' (first
    | with_reducible assumption
    | with_reducible apply Keeps.ite
    | with_reducible apply keeps_State_emit
    | (fail_if_no_progress refine Keeps.upd ?_ rfl))

theorem keeps_powerOff {σ : State} (s : State) (h_s : Keeps σ s) :
    Keeps σ (powerOff s) := by
  unfold powerOff
  repeat' (first
    | with_reducible assumption
    | with_reducible apply Keeps.ite
    | with_reducible apply keeps_State_enterSeason
    | with_reducible apply keeps_mainReset
    | (fail_if_no_progress refine Keeps.upd ?_ rfl))

theorem keeps_midwinterEntry {σ : State} (s : State) (h_s : Keeps σ s) :
    Keeps σ (midwinterEntry s) := by
  unfold midwinterEntry
  repeat' (first | with_reducible assumption | with_reducible apply Keeps.ite | with_reducible apply keeps_powerOff)

theorem keeps_wakeEvent {σ : State} (s : State) (b p : Nat) (h_s : Keeps σ s) :
    Keeps σ (wakeEvent s b p) := by
  unfold wakeEvent
  repeat' (first | with_reducible assumption | with_reducible apply Keeps.ite | with_reducible apply keeps_State_wake | split)

theorem keeps_thawComplete {σ : State} (s : State) (h_s : Keeps σ s) :
    Keeps σ (thawComplete s) := by
  unfold thawComplete
  repeat' (first
    | with_reducible assumption
    | with_reducible apply Keeps.ite
    | with_reducible apply keeps_State_wr
    | with_reducible apply keeps_State_enterSeason
    | with_reducible apply keeps_doorbellsThaw
    | with_reducible apply keeps_fabricUp
    | (fail_if_no_progress refine Keeps.upd ?_ rfl))

theorem keeps_perstAssert {σ : State} (s : State) (h_s : Keeps σ s) :
    Keeps σ (perstAssert s) := by
  unfold perstAssert
  repeat' (first
    | with_reducible assumption
    | with_reducible apply Keeps.ite
    | with_reducible apply keeps_mainReset
    | with_reducible apply keeps_recordCause
    | (fail_if_no_progress refine Keeps.upd ?_ rfl))

theorem keeps_perstRelease {σ : State} (s : State) (fuses : Bool) (h_s : Keeps σ s) :
    Keeps σ (perstRelease s fuses) := by
  unfold perstRelease
  repeat' (first
    | with_reducible assumption
    | with_reducible apply Keeps.ite
    | with_reducible apply keeps_State_wake
    | with_reducible apply keeps_bootFlow
    | (fail_if_no_progress refine Keeps.upd ?_ rfl))

theorem keeps_sysReset {σ : State} (s : State) (h_s : Keeps σ s) : Keeps σ (sysReset s) := by
  unfold sysReset
  refine Keeps.ite h_s ?_
  dsimp only
  have h := keeps_mainReset s h_s
  generalize mainReset s = t at h
  refine keeps_recordCause _ _ _ _ ?_
  exact Keeps.upd (Keeps.setDict h [] (fun _ _ => rfl)) rfl

theorem keeps_likeSysReset {σ : State} (s : State) (kind : Nat) (h_s : Keeps σ s) :
    Keeps σ (likeSysReset s kind) := by
  unfold likeSysReset
  repeat' (first
    | with_reducible assumption
    | with_reducible apply Keeps.ite
    | with_reducible apply keeps_mainReset
    | with_reducible apply keeps_recordCause
    | (fail_if_no_progress refine Keeps.upd ?_ rfl))

theorem keeps_aonLoss {σ : State} (s : State) (h_s : Keeps σ s) : Keeps σ (aonLoss s) :=
  h_s.trans ⟨rfl, rfl, Nat.le_refl _, Fuses.grown_refl _, List.suffix_refl _, fun _ _ => rfl, fun _ _ => rfl, fun _ => rfl⟩

theorem keeps_aonPowerOn {σ : State} (s : State) (h_s : Keeps σ s) :
    Keeps σ (aonPowerOn s) := by
  unfold aonPowerOn
  repeat' (first
    | with_reducible assumption
    | with_reducible apply Keeps.ite
    | with_reducible apply keeps_recordCause
    | (fail_if_no_progress refine Keeps.upd ?_ rfl))

theorem keeps_pwrOkRise {σ : State} (s : State) (sample : Nat) (h_s : Keeps σ s) :
    Keeps σ (pwrOkRise s sample) := by
  unfold pwrOkRise
  repeat' (first | with_reducible assumption | with_reducible apply Keeps.ite | (fail_if_no_progress refine Keeps.upd ?_ rfl))

theorem keeps_strapResample {σ : State} (s : State) (sample : Nat) (fuses : Bool) (h_s : Keeps σ s) :
    Keeps σ (strapResample s sample fuses) := by
  unfold strapResample
  repeat' (first
    | with_reducible assumption
    | with_reducible apply Keeps.ite
    | with_reducible apply keeps_bootFlow
    | (fail_if_no_progress refine Keeps.upd ?_ rfl))

theorem keeps_powerLost {σ : State} (s : State) (h_s : Keeps σ s) :
    Keeps σ (powerLost s) := by
  unfold powerLost
  repeat' (first
    | with_reducible assumption
    | with_reducible apply Keeps.ite
    | with_reducible apply keeps_State_wr
    | with_reducible apply keeps_mainReset
    | with_reducible apply keeps_recordCause
    | (fail_if_no_progress refine Keeps.upd ?_ rfl))

theorem keeps_pwrOkFall {σ : State} (s : State) (h_s : Keeps σ s) :
    Keeps σ (pwrOkFall s) := by
  unfold pwrOkFall
  repeat' (first
    | with_reducible assumption
    | with_reducible apply Keeps.ite
    | with_reducible apply keeps_powerLost
    | (fail_if_no_progress refine Keeps.upd ?_ rfl))

theorem keeps_powerRestart {σ : State} (s : State) (h_s : Keeps σ s) :
    Keeps σ (powerRestart s) := by
  unfold powerRestart
  repeat' (first | with_reducible assumption | with_reducible apply Keeps.ite | split | (fail_if_no_progress refine Keeps.upd ?_ rfl))

theorem keeps_refclkLoss {σ : State} (s : State) (h_s : Keeps σ s) :
    Keeps σ (refclkLoss s) := by
  unfold refclkLoss
  repeat' (first
    | with_reducible assumption
    | with_reducible apply Keeps.ite
    | with_reducible apply keeps_powerLost
    | (fail_if_no_progress refine Keeps.upd ?_ rfl))

theorem keeps_refclkReturn {σ : State} (s : State) (fuses : Bool) (h_s : Keeps σ s) :
    Keeps σ (refclkReturn s fuses) := by
  unfold refclkReturn
  repeat' (first
    | with_reducible assumption
    | with_reducible apply Keeps.ite
    | with_reducible apply keeps_bootFlow
    | (fail_if_no_progress refine Keeps.upd ?_ rfl))

theorem keeps_fatalReset {σ : State} (s : State) (fuses : Bool) (h_s : Keeps σ s) :
    Keeps σ (fatalReset s fuses) := by
  unfold fatalReset
  repeat' (first
    | with_reducible assumption
    | with_reducible apply Keeps.ite
    | with_reducible apply keeps_fence
    | with_reducible apply keeps_mainReset
    | with_reducible apply keeps_recordCause
    | with_reducible apply keeps_bootFlow
    | split
    | (fail_if_no_progress refine Keeps.upd ?_ rfl))

theorem keeps_throttleTime {σ : State} (s0 : State) (h_s0 : Keeps σ s0) :
    Keeps σ (throttleTime s0) := by
  unfold throttleTime
  repeat' (first
    | with_reducible assumption
    | with_reducible apply Keeps.ite
    | with_reducible apply keeps_State_count
    | (fail_if_no_progress refine Keeps.upd ?_ rfl))

theorem keeps_thermalShutdown {σ : State} (s : State) (h_s : Keeps σ s) :
    Keeps σ (thermalShutdown s) := by
  unfold thermalShutdown
  repeat' (first
    | with_reducible assumption
    | with_reducible apply Keeps.ite
    | with_reducible apply keeps_State_event
    | with_reducible apply keeps_fence
    | with_reducible apply keeps_recordCause
    | with_reducible apply keeps_powerOff
    | (fail_if_no_progress refine Keeps.upd ?_ rfl))

theorem keeps_junctionSample {σ : State} (s : State) (t : Int) (h_s : Keeps σ s) :
    Keeps σ (junctionSample s t) := by
  unfold junctionSample
  repeat' (first
    | with_reducible assumption
    | with_reducible apply Keeps.ite
    | with_reducible apply keeps_State_wr
    | with_reducible apply keeps_throttleTime
    | with_reducible apply keeps_thermalShutdown
    | (fail_if_no_progress refine Keeps.upd ?_ rfl))

theorem keeps_throttleStep {σ : State} (s : State) (up : Bool) (h_s : Keeps σ s) :
    Keeps σ (throttleStep s up) := by
  unfold throttleStep
  repeat' (first
    | with_reducible assumption
    | with_reducible apply Keeps.ite
    | with_reducible apply keeps_State_wr
    | with_reducible apply keeps_State_event
    | with_reducible apply keeps_throttleTime
    | split
    | (fail_if_no_progress refine Keeps.upd ?_ rfl))

theorem keeps_thermalHold {σ : State} (s : State) (h_s : Keeps σ s) :
    Keeps σ (thermalHold s) := by
  unfold thermalHold
  repeat' (first | with_reducible assumption | with_reducible apply Keeps.ite | split | (fail_if_no_progress refine Keeps.upd ?_ rfl))

theorem keeps_scriptsWrite {σ : State} (s : State) (i : Image) (h_s : Keeps σ s) :
    Keeps σ (scriptsWrite s i).2 := by
  unfold scriptsWrite
  repeat' (first
    | with_reducible assumption
    | with_reducible apply Keeps.ite
    | with_reducible apply Keeps.ite_snd
    | with_reducible apply keeps_State_wr
    | (fail_if_no_progress refine Keeps.upd ?_ rfl))

theorem keeps_scriptTimeout {σ : State} (s : State) (h_s : Keeps σ s) :
    Keeps σ (scriptTimeout s) := by
  unfold scriptTimeout
  repeat' (first
    | with_reducible assumption
    | with_reducible apply Keeps.ite
    | with_reducible apply keeps_State_event
    | with_reducible apply keeps_likeSysReset
    | (fail_if_no_progress refine Keeps.upd ?_ rfl))

theorem keeps_laneSignal {σ : State} (s : State) (l : Nat) (above : Bool) (h_s : Keeps σ s) :
    Keeps σ (laneSignal s l above) := by
  unfold laneSignal
  repeat' (first
    | with_reducible assumption
    | with_reducible apply Keeps.ite
    | with_reducible apply keeps_phyEvent
    | with_reducible apply keeps_wakeEvent
    | (fail_if_no_progress refine Keeps.upd ?_ rfl))

theorem keeps_presetTimeout {σ : State} (s : State) (p : Nat) (h_s : Keeps σ s) :
    Keeps σ (presetTimeout s p) := by
  unfold presetTimeout
  repeat' (first | with_reducible assumption | with_reducible apply Keeps.ite | (fail_if_no_progress refine Keeps.upd ?_ rfl))

theorem keeps_execSummerHoldExpiry {σ : State} (s : State) (h_s : Keeps σ s) :
    Keeps.outcome σ (execSummerHoldExpiry s) := by
  unfold execSummerHoldExpiry
  repeat' (first
    | with_reducible assumption
    | with_reducible apply Keeps.ite
    | with_reducible apply keeps_summerHold
    | with_reducible apply Keeps.outcome_next)

theorem keeps_execAutumnDrained {σ : State} (s : State) (h_s : Keeps σ s) :
    Keeps.outcome σ (execAutumnDrained s) := by
  unfold execAutumnDrained
  repeat' (first
    | with_reducible assumption
    | with_reducible apply Keeps.ite
    | with_reducible apply keeps_autumnDrained
    | with_reducible apply Keeps.outcome_next)

theorem keeps_execWinterEntry {σ : State} (s : State) (h_s : Keeps σ s) :
    Keeps.outcome σ (execWinterEntry s) := by
  unfold execWinterEntry
  repeat' (first
    | with_reducible assumption
    | with_reducible apply Keeps.ite
    | with_reducible apply keeps_winterEntry
    | with_reducible apply Keeps.outcome_next)

theorem keeps_execPmeTurnOff {σ : State} (s : State) (h_s : Keeps σ s) :
    Keeps.outcome σ (execPmeTurnOff s) := by
  unfold execPmeTurnOff
  repeat' (first
    | with_reducible assumption
    | with_reducible apply Keeps.ite
    | with_reducible apply keeps_pmeTurnOff
    | with_reducible apply Keeps.outcome_next)

theorem keeps_execMidwinterEntry {σ : State} (s : State) (h_s : Keeps σ s) :
    Keeps.outcome σ (execMidwinterEntry s) := by
  unfold execMidwinterEntry
  repeat' (first
    | with_reducible assumption
    | with_reducible apply Keeps.ite
    | with_reducible apply keeps_midwinterEntry
    | with_reducible apply Keeps.outcome_next)

theorem keeps_execWakeEvent {σ : State} (b p : Nat) (s : State) (h_s : Keeps σ s) :
    Keeps.outcome σ (execWakeEvent b p s) := by
  unfold execWakeEvent
  repeat' (first
    | with_reducible assumption
    | with_reducible apply Keeps.ite
    | with_reducible apply keeps_wakeEvent
    | with_reducible apply Keeps.outcome_next)

theorem keeps_execPerstAssert {σ : State} (s : State) (h_s : Keeps σ s) :
    Keeps.outcome σ (execPerstAssert s) := by
  unfold execPerstAssert
  repeat' (first
    | with_reducible assumption
    | with_reducible apply Keeps.ite
    | with_reducible apply keeps_perstAssert
    | with_reducible apply Keeps.outcome_next)

theorem keeps_execPerstRelease {σ : State} (fuses : Bool) (s : State) (h_s : Keeps σ s) :
    Keeps.outcome σ (execPerstRelease fuses s) := by
  unfold execPerstRelease
  repeat' (first
    | with_reducible assumption
    | with_reducible apply Keeps.ite
    | with_reducible apply keeps_perstRelease
    | with_reducible apply Keeps.outcome_next)

theorem keeps_execSysReset {σ : State} (s : State) (h_s : Keeps σ s) :
    Keeps.outcome σ (execSysReset s) := by
  unfold execSysReset
  repeat' (first
    | with_reducible assumption
    | with_reducible apply Keeps.ite
    | with_reducible apply keeps_sysReset
    | with_reducible apply Keeps.outcome_next)

theorem keeps_execJunctionSample {σ : State} (t : Int) (s : State) (h_s : Keeps σ s) :
    Keeps.outcome σ (execJunctionSample t s) := by
  unfold execJunctionSample
  repeat' (first
    | with_reducible assumption
    | with_reducible apply Keeps.ite
    | with_reducible apply keeps_junctionSample
    | with_reducible apply Keeps.outcome_next)

theorem keeps_execThrottleStep {σ : State} (up : Bool) (s : State) (h_s : Keeps σ s) :
    Keeps.outcome σ (execThrottleStep up s) := by
  unfold execThrottleStep
  repeat' (first
    | with_reducible assumption
    | with_reducible apply Keeps.ite
    | with_reducible apply keeps_throttleStep
    | with_reducible apply Keeps.outcome_next)

theorem keeps_execThermalHoldExpiry {σ : State} (s : State) (h_s : Keeps σ s) :
    Keeps.outcome σ (execThermalHoldExpiry s) := by
  unfold execThermalHoldExpiry
  repeat' (first
    | with_reducible assumption
    | with_reducible apply Keeps.ite
    | with_reducible apply keeps_thermalHold
    | with_reducible apply Keeps.outcome_next)

theorem keeps_execScriptTimeout {σ : State} (s : State) (h_s : Keeps σ s) :
    Keeps.outcome σ (execScriptTimeout s) := by
  unfold execScriptTimeout
  repeat' (first
    | with_reducible assumption
    | with_reducible apply Keeps.ite
    | with_reducible apply keeps_scriptTimeout
    | with_reducible apply Keeps.outcome_next)

theorem keeps_execBootOffer {σ : State} (i : Image) (s : State) (h_s : Keeps σ s) :
    Keeps.outcome σ (execBootOffer i s) := by
  unfold execBootOffer
  repeat' (first
    | with_reducible assumption
    | with_reducible apply Keeps.ite
    | with_reducible apply keeps_bootOffer
    | with_reducible apply Keeps.outcome_next)

theorem keeps_execBootImageVerified {σ : State} (s : State) (h_s : Keeps σ s) :
    Keeps.outcome σ (execBootImageVerified s) := by
  unfold execBootImageVerified
  repeat' (first
    | with_reducible assumption
    | with_reducible apply Keeps.ite
    | with_reducible apply keeps_bootVerified
    | with_reducible apply Keeps.outcome_next)

theorem keeps_execFatalReset {σ : State} (fuses : Bool) (s : State) (h_s : Keeps σ s) :
    Keeps.outcome σ (execFatalReset fuses s) := by
  unfold execFatalReset
  repeat' (first
    | with_reducible assumption
    | with_reducible apply Keeps.ite
    | with_reducible apply keeps_fatalReset
    | with_reducible apply Keeps.outcome_next)

theorem keeps_execAonPowerOn {σ : State} (s : State) (h_s : Keeps σ s) :
    Keeps.outcome σ (execAonPowerOn s) := by
  unfold execAonPowerOn
  repeat' (first
    | with_reducible assumption
    | with_reducible apply Keeps.ite
    | with_reducible apply keeps_aonPowerOn
    | with_reducible apply Keeps.outcome_next)

theorem keeps_execPwrOkRise {σ : State} (sample : Nat) (s : State) (h_s : Keeps σ s) :
    Keeps.outcome σ (execPwrOkRise sample s) := by
  unfold execPwrOkRise
  repeat' (first
    | with_reducible assumption
    | with_reducible apply Keeps.ite
    | with_reducible apply keeps_pwrOkRise
    | with_reducible apply Keeps.outcome_next)

theorem keeps_execStrapResample {σ : State} (sample : Nat) (fuses : Bool) (s : State) (h_s : Keeps σ s) :
    Keeps.outcome σ (execStrapResample sample fuses s) := by
  unfold execStrapResample
  repeat' (first
    | with_reducible assumption
    | with_reducible apply Keeps.ite
    | with_reducible apply keeps_strapResample
    | with_reducible apply Keeps.outcome_next)

theorem keeps_execPwrOkFall {σ : State} (s : State) (h_s : Keeps σ s) :
    Keeps.outcome σ (execPwrOkFall s) := by
  unfold execPwrOkFall
  repeat' (first
    | with_reducible assumption
    | with_reducible apply Keeps.ite
    | with_reducible apply keeps_pwrOkFall
    | with_reducible apply Keeps.outcome_next)

theorem keeps_execPowerLossRestart {σ : State} (s : State) (h_s : Keeps σ s) :
    Keeps.outcome σ (execPowerLossRestart s) := by
  unfold execPowerLossRestart
  repeat' (first
    | with_reducible assumption
    | with_reducible apply Keeps.ite
    | with_reducible apply keeps_powerRestart
    | with_reducible apply Keeps.outcome_next)

theorem keeps_execRefclkLoss {σ : State} (s : State) (h_s : Keeps σ s) :
    Keeps.outcome σ (execRefclkLoss s) := by
  unfold execRefclkLoss
  repeat' (first
    | with_reducible assumption
    | with_reducible apply Keeps.ite
    | with_reducible apply keeps_refclkLoss
    | with_reducible apply Keeps.outcome_next)

theorem keeps_execRefclkReturn {σ : State} (fuses : Bool) (s : State) (h_s : Keeps σ s) :
    Keeps.outcome σ (execRefclkReturn fuses s) := by
  unfold execRefclkReturn
  repeat' (first
    | with_reducible assumption
    | with_reducible apply Keeps.ite
    | with_reducible apply keeps_refclkReturn
    | with_reducible apply Keeps.outcome_next)

theorem keeps_execXtalLoss {σ : State} (s : State) (h_s : Keeps σ s) :
    Keeps.outcome σ (execXtalLoss s) := by
  unfold execXtalLoss
  repeat' (first | with_reducible assumption | with_reducible apply Keeps.ite | (fail_if_no_progress refine Keeps.upd ?_ rfl))

theorem keeps_execLaneSignalChange {σ : State} (l : Nat) (above : Bool) (s : State) (h_s : Keeps σ s) :
    Keeps.outcome σ (execLaneSignalChange l above s) := by
  unfold execLaneSignalChange
  repeat' (first
    | with_reducible assumption
    | with_reducible apply Keeps.ite
    | with_reducible apply keeps_laneSignal
    | with_reducible apply Keeps.outcome_next)

theorem keeps_execTransmitterPresetTimeout {σ : State} (p : Nat) (s : State) (h_s : Keeps σ s) :
    Keeps.outcome σ (execTransmitterPresetTimeout p s) := by
  unfold execTransmitterPresetTimeout
  repeat' (first
    | with_reducible assumption
    | with_reducible apply Keeps.ite
    | with_reducible apply keeps_presetTimeout
    | with_reducible apply Keeps.outcome_next)

theorem keeps_execAonPowerLoss {σ : State} (s : State) (h_s : Keeps σ s) :
    Keeps.outcome σ (execAonPowerLoss s) := by
  unfold execAonPowerLoss
  repeat' (first
    | with_reducible assumption
    | with_reducible apply Keeps.ite
    | with_reducible apply keeps_aonLoss
    | with_reducible apply Keeps.outcome_next)

theorem keeps_execTrainingComplete {σ : State} (ch : Nat) (t : TrainEnd) (s : State) (h_s : Keeps σ s) :
    Keeps.outcome σ (execTrainingComplete ch t s) := by
  unfold execTrainingComplete
  repeat' (first
    | with_reducible assumption
    | with_reducible apply Keeps.ite
    | with_reducible apply keeps_trainingEnd
    | with_reducible apply keeps_trainingAll
    | with_reducible apply Keeps.outcome_next)

end Sys2Proof.Machine
end

