-- ==== Sys2Proof/Laws/Keeps/Security.lean ====
section
/-! SUPPORT. What the operations of Machine/Security.lean keep: the invariants of Keeps, one lemma per definition. -/

namespace Sys2Proof.Machine

set_option linter.unusedTactic false
set_option linter.unreachableTactic false
set_option linter.unusedSimpArgs false
set_option linter.unusedVariables false

theorem or_idem_left (v x : Nat) : v ||| (v ||| x) = v ||| x := by rw [← Nat.or_assoc, Nat.or_self]

theorem keeps_blow {σ : State} (s : State) (f : Fuses) (h_s : Keeps σ s) (hf : Fuses.grown s.sec.fuses f = true) :
    Keeps σ (blow s f).2 := by
  unfold blow
  exact Keeps.ite_snd h_s (Keeps.setFuses h_s f hf)

theorem keeps_minVersionCommit {σ : State} (s : State) (g : Nat) (h_s : Keeps σ s) : Keeps σ (minVersionCommit s g).2 := by
  have hr : ∀ a b, a ≤ raiseVersion a b := fun a b => Nat.le_max_left _ _
  unfold minVersionCommit
  split
  · split
    · exact h_s
    · refine Keeps.ite_snd h_s (keeps_blow _ _ h_s ?_)
      simp [Fuses.grown, hr]
  · refine keeps_blow _ _ h_s ?_
    simp [Fuses.grown, hr]
  · split
    · exact h_s
    · refine keeps_blow _ _ h_s ?_
      simp [Fuses.grown, hr]

theorem keeps_identityGenerate {σ : State} (s : State) (h_s : Keeps σ s) : Keeps σ (identityGenerate s).2 := by
  unfold identityGenerate
  split
  · exact h_s
  · split
    · exact h_s
    · rename_i h
      refine keeps_blow _ _ (keeps_State_random s 256 h_s) ?_
      have h0 : s.sec.fuses.seed = 0 := Decidable.not_not.mp h
      simp [Fuses.grown, State.random, h0]

theorem keeps_advanced {σ : State} (v : Nat) (r : Nat × State) (h_r : Keeps σ r.2) : Keeps σ (advanced v r).2 := by
  unfold advanced
  exact Keeps.ite_snd (keeps_likeSysReset _ _ (keeps_State_event _ _ _ _ (Keeps.ite (keeps_zeroiseAll _ _ h_r) h_r))) h_r

theorem keeps_lifecycleAdvance {σ : State} (s : State) (v : Nat) (operator : Bool) (h_s : Keeps σ s) :
    Keeps σ (lifecycleAdvance s v operator).2 := by
  unfold lifecycleAdvance
  dsimp only
  refine Keeps.ite_snd h_s (Keeps.ite_snd h_s (Keeps.ite_snd h_s (Keeps.ite_snd h_s ?_)))
  refine keeps_advanced v _ (keeps_blow _ _ h_s ?_)
  split
  · simp [Fuses.grown, setBit]
  · split
    · simp [Fuses.grown, setBit]
    · simp [Fuses.grown, setBit, allOnes]

theorem keeps_ownerHashWrite {σ : State} (s : State) (slot v : Nat) (h_s : Keeps σ s) : Keeps σ (ownerHashWrite s slot v).2 := by
  unfold ownerHashWrite
  split
  · exact h_s
  · rename_i h
    refine keeps_blow _ _ h_s ?_
    split
    · rename_i h1
      simp [State.ownerHash, h1] at h
      simp [Fuses.grown, h]
    · split
      · rename_i h1
        simp [State.ownerHash, h1] at h
        simp [Fuses.grown, h]
      · exact Fuses.grown_refl _

theorem keeps_ownerKekWrite {σ : State} (s : State) (v : Nat) (h_s : Keeps σ s) : Keeps σ (ownerKekWrite s v).2 := by
  unfold ownerKekWrite
  split
  · exact h_s
  · split
    · exact h_s
    · rename_i h
      refine keeps_blow _ _ h_s ?_
      simp at h
      simp [Fuses.grown, h]

theorem keeps_ownerRevokeWrite {σ : State} (s : State) (v : Nat) (h_s : Keeps σ s) : Keeps σ (ownerRevokeWrite s v).2 := by
  unfold ownerRevokeWrite
  refine keeps_blow _ _ h_s ?_
  simp [Fuses.grown, or_idem_left]

theorem keeps_bootPolicyWrite {σ : State} (s : State) (v : Nat) (h_s : Keeps σ s) : Keeps σ (bootPolicyWrite s v).2 := by
  unfold bootPolicyWrite
  refine keeps_blow _ _ h_s ?_
  simp [Fuses.grown, or_idem_left]

theorem keeps_frostWrite {σ : State} (s : State) (v : Nat) (operator : Bool) (h_s : Keeps σ s) :
    Keeps σ (frostWrite s v operator).2 := by
  unfold frostWrite
  repeat' (first | with_reducible assumption | with_reducible apply Keeps.ite_snd | with_reducible apply keeps_State_wr)

theorem keeps_newNonce {σ : State} (s : State) (h_s : Keeps σ s) :
    Keeps σ (newNonce s).2 := by
  unfold newNonce
  repeat' (first | with_reducible assumption | with_reducible apply keeps_State_random | (fail_if_no_progress refine Keeps.upd ?_ rfl))

theorem keeps_nonceExpiry {σ : State} (s : State) (h_s : Keeps σ s) :
    Keeps σ (nonceExpiry s) := by
  unfold nonceExpiry
  repeat' (first | with_reducible assumption | (fail_if_no_progress refine Keeps.upd ?_ rfl))

theorem keeps_setSig {σ : State} (s : State) (ch : Chan) (g : Option TokenSig) (h_s : Keeps σ s) :
    Keeps σ (setSig s ch g) := by
  unfold setSig
  repeat' (first | with_reducible assumption | (fail_if_no_progress refine Keeps.upd ?_ rfl))

theorem keeps_consumeNonce {σ : State} (s : State) (n : Nat) (h_s : Keeps σ s) :
    Keeps σ (consumeNonce s n) := by
  unfold consumeNonce
  repeat' (first | with_reducible assumption | (fail_if_no_progress refine Keeps.upd ?_ rfl))

theorem keeps_tokenAnswer {σ : State} (s : State) (a : Nat) (h_s : Keeps σ s) :
    Keeps σ (tokenAnswer s a).2 := by
  unfold tokenAnswer
  repeat' (first | with_reducible assumption | with_reducible apply Keeps.ite_snd | with_reducible apply keeps_State_event)

theorem keeps_dtpKey {σ : State} (s : State) (ch : Chan) (k : Nat) (h_s : Keeps σ s) :
    Keeps σ (dtpKey s ch k) := by
  unfold dtpKey
  repeat' (first | with_reducible assumption | split | (fail_if_no_progress refine Keeps.upd ?_ rfl))

theorem keeps_sessionOpen {σ : State} (s : State) (ch : Chan) (t : Token) (h_s : Keeps σ s) :
    Keeps σ (sessionOpen s ch t).2 := by
  unfold sessionOpen
  repeat' (first
    | with_reducible assumption
    | with_reducible apply Keeps.ite_snd
    | with_reducible apply keeps_State_event
    | with_reducible apply keeps_tokenAnswer
    | with_reducible apply keeps_dtpKey
    | (fail_if_no_progress refine Keeps.upd ?_ rfl))

theorem keeps_sessionClose {σ : State} (s : State) (ch : Chan) (h_s : Keeps σ s) :
    Keeps σ (sessionClose s ch) := by
  unfold sessionClose
  repeat' (first | with_reducible assumption | split | (fail_if_no_progress refine Keeps.upd ?_ rfl))

theorem keeps_dtpEnd {σ : State} (s : State) (n : Nat) (h_s : Keeps σ s) :
    Keeps σ (dtpEnd s n) := by
  unfold dtpEnd
  repeat' (first | with_reducible assumption | with_reducible apply keeps_sessionClose | (fail_if_no_progress refine Keeps.upd ?_ rfl))

theorem keeps_operatorSessionWrite {σ : State} (s : State) (ch : Chan) (len : Nat) (d : Payload) (h_s : Keeps σ s) :
    Keeps σ (operatorSessionWrite s ch len d).2 := by
  unfold operatorSessionWrite
  repeat' (first | with_reducible assumption | with_reducible apply keeps_sessionOpen | with_reducible apply keeps_sessionClose | split)

theorem keeps_tokenSignatureWrite {σ : State} (s : State) (ch : Chan) (len : Nat) (g : TokenSig) (h_s : Keeps σ s) :
    Keeps σ (tokenSignatureWrite s ch len g).2 := by
  unfold tokenSignatureWrite
  repeat' (first | with_reducible assumption | with_reducible apply Keeps.ite_snd | with_reducible apply keeps_setSig)

theorem keeps_failInFlight {σ : State} (s : State) (h_s : Keeps σ s) :
    Keeps σ (failInFlight s) := by
  unfold failInFlight
  repeat' (first
    | with_reducible assumption
    | with_reducible apply keeps_State_wr
    | with_reducible apply keeps_requestFails
    | with_reducible refine Keeps.foldl ?_ (fun u a hu => ?_)
    | split
    | (fail_if_no_progress refine Keeps.upd ?_ rfl))

theorem keeps_openDebug {σ : State} (s : State) (grant : Nat) (h_s : Keeps σ s) : Keeps σ (openDebug s grant) := by
  unfold openDebug
  dsimp only
  have h1 : Keeps σ (zeroiseAll (failInFlight s) none).dropSessions :=
    keeps_State_dropSessions _ (keeps_zeroiseAll _ _ (keeps_failInFlight _ h_s))
  generalize (zeroiseAll (failInFlight s) none).dropSessions = t at h1 ⊢
  have h2 : Keeps σ (if grant / 2 ≠ 0 then { t with sec := { t.sec with debugEver := true } } else s) :=
    Keeps.ite (Keeps.upd h1 rfl) h_s
  generalize (if grant / 2 ≠ 0 then { t with sec := { t.sec with debugEver := true } } else s) = u at h2 ⊢
  exact Keeps.ite h2 (keeps_State_event _ _ _ _ (keeps_State_wr _ _ _ h2))

theorem keeps_debugToken {σ : State} (s : State) (dtp : Option Nat) (sig : Option TokenSig) (t : Token) (h_s : Keeps σ s) :
    Keeps σ (debugToken s dtp sig t).2 := by
  unfold debugToken
  repeat' (first
    | with_reducible assumption
    | with_reducible apply Keeps.ite_snd
    | with_reducible apply keeps_consumeNonce
    | with_reducible apply keeps_tokenAnswer
    | with_reducible apply keeps_openDebug)

theorem keeps_debugClose {σ : State} (s : State) (h_s : Keeps σ s) :
    Keeps σ (debugClose s) := by
  unfold debugClose
  repeat' (first
    | with_reducible assumption
    | with_reducible apply Keeps.ite
    | with_reducible apply keeps_State_wr
    | (fail_if_no_progress refine Keeps.upd ?_ rfl))

theorem keeps_debugUnlockWrite {σ : State} (s : State) (ch : Chan) (len : Nat) (d : Payload) (h_s : Keeps σ s) :
    Keeps σ (debugUnlockWrite s ch len d).2 := by
  unfold debugUnlockWrite
  repeat' (first
    | with_reducible assumption
    | with_reducible apply keeps_setSig
    | with_reducible apply keeps_debugToken
    | with_reducible apply keeps_debugClose
    | split)

theorem keeps_reserveBlock {σ : State} (s : State) (h_s : Keeps σ s) : Keeps σ (reserveBlock s).2 := by
  unfold reserveBlock
  dsimp only
  refine Keeps.ite_snd h_s (Keeps.ite_snd (keeps_State_event _ _ _ _ h_s) (Keeps.ite_snd h_s ?_))
  generalize hs : ({ s with sec := { s.sec with
        fuses := { s.sec.fuses with attestBlocks := s.sec.fuses.attestBlocks + 1 }
        block := some s.sec.fuses.attestBlocks
        leaf := 0 } } : State) = s1
  have h1 : Keeps σ s1 := by
    subst hs
    exact h_s.trans ⟨rfl, rfl, Nat.le_refl _, by simp [Fuses.grown], List.suffix_refl _, fun a _ => a, fun _ b => b, id⟩
  exact Keeps.ite (keeps_State_event _ _ _ _ h1) h1

theorem keeps_attest {σ : State} (s : State) (ch : Chan) (nonce : Nat) (h_s : Keeps σ s) :
    Keeps σ (attest s ch nonce).2 := by
  unfold attest
  repeat' (first
    | with_reducible assumption
    | with_reducible apply keeps_reserveBlock
    | refine Keeps.snd (by assumption) ?_
    | split
    | (fail_if_no_progress refine Keeps.upd ?_ rfl))

theorem keeps_attestReport {σ : State} (s : State) (ch : Chan) (h_s : Keeps σ s) :
    Keeps σ (attestReport s ch).2 := by
  unfold attestReport
  repeat' (first | with_reducible assumption | with_reducible apply keeps_State_free | split)

theorem keeps_execNonceExpiry {σ : State} (s : State) (h_s : Keeps σ s) :
    Keeps.outcome σ (execNonceExpiry s) := by
  unfold execNonceExpiry
  repeat' (first
    | with_reducible assumption
    | with_reducible apply Keeps.ite
    | with_reducible apply keeps_nonceExpiry
    | with_reducible apply Keeps.outcome_next)

theorem keeps_execJtagDbgchal {σ : State} (s : State) (h_s : Keeps σ s) :
    Keeps.outcome σ (execJtagDbgchal s) := by
  unfold execJtagDbgchal
  repeat' (first
    | with_reducible assumption
    | with_reducible apply Keeps.ite
    | with_reducible apply keeps_State_emit
    | with_reducible apply keeps_newNonce
    | with_reducible apply Keeps.outcome_next)

theorem keeps_execJtagDbgauth {σ : State} (g : TokenSig) (t : Token) (s : State) (h_s : Keeps σ s) :
    Keeps.outcome σ (execJtagDbgauth g t s) := by
  unfold execJtagDbgauth
  repeat' (first
    | with_reducible assumption
    | with_reducible apply Keeps.ite
    | with_reducible apply keeps_State_emit
    | with_reducible apply keeps_debugToken
    | with_reducible apply Keeps.outcome_next)

end Sys2Proof.Machine
end

