-- ==== Sys2Proof/Laws/Keeps/Events.lean ====
section
/-! SUPPORT. What the operations of Machine/Events.lean keep: the invariants of Keeps, one lemma per definition. -/

namespace Sys2Proof.Machine

set_option linter.unusedTactic false
set_option linter.unreachableTactic false
set_option linter.unusedSimpArgs false
set_option linter.unusedVariables false

theorem keeps_handlerRun {σ : State} (s : State) (h_s : Keeps σ s) :
    Keeps σ (handlerRun s) := by
  unfold handlerRun
  repeat' (first | with_reducible assumption | with_reducible apply Keeps.ite | (fail_if_no_progress refine Keeps.upd ?_ rfl))

theorem keeps_watchdogKick {σ : State} (s : State) (h_s : Keeps σ s) :
    Keeps σ (watchdogKick s) := by
  unfold watchdogKick
  repeat' (first | with_reducible assumption | with_reducible apply Keeps.ite | (fail_if_no_progress refine Keeps.upd ?_ rfl))

theorem keeps_watchdogWarn {σ : State} (s : State) (h_s : Keeps σ s) :
    Keeps σ (watchdogWarn s) := by
  unfold watchdogWarn
  repeat' (first
    | with_reducible assumption
    | with_reducible apply Keeps.ite
    | with_reducible apply keeps_State_inc
    | with_reducible apply keeps_State_event
    | (fail_if_no_progress refine Keeps.upd ?_ rfl))

theorem keeps_watchdogReset {σ : State} (s : State) (h_s : Keeps σ s) :
    Keeps σ (watchdogReset s) := by
  unfold watchdogReset
  repeat' (first
    | with_reducible assumption
    | with_reducible apply Keeps.ite
    | with_reducible apply keeps_State_event
    | (fail_if_no_progress refine Keeps.upd ?_ rfl))

theorem keeps_opPages {σ : State} (s : State) (lo len : Nat) (h_s : Keeps σ s) :
    Keeps σ (opPages s lo len).2 := by
  unfold opPages
  repeat' (first | with_reducible assumption | with_reducible apply Keeps.ite_snd | with_reducible apply keeps_State_choose)

theorem keeps_scanStart {σ : State} (s : State) (h_s : Keeps σ s) :
    Keeps σ (scanStart s).2 := by
  unfold scanStart
  repeat' (first
    | with_reducible assumption
    | with_reducible apply Keeps.ite_snd
    | with_reducible apply keeps_State_wr
    | with_reducible apply keeps_opPages
    | (fail_if_no_progress refine Keeps.upd ?_ rfl))

theorem keeps_scanDone {σ : State} (s : State) (h_s : Keeps σ s) :
    Keeps σ (scanDone s) := by
  unfold scanDone
  repeat' (first | with_reducible assumption | with_reducible apply keeps_State_wr | split | (fail_if_no_progress refine Keeps.upd ?_ rfl))

theorem keeps_imageBad {σ : State} (s : State) (cls n : Nat) (h_s : Keeps σ s) :
    Keeps σ (imageBad s cls n) := by
  unfold imageBad
  repeat' (first
    | with_reducible assumption
    | with_reducible apply Keeps.ite
    | with_reducible apply keeps_State_inc
    | with_reducible apply keeps_State_event
    | (fail_if_no_progress refine Keeps.upd ?_ rfl))

theorem keeps_imageScrub {σ : State} (s : State) (bad : List (Nat × Nat)) (h_s : Keeps σ s) :
    Keeps σ (imageScrub s bad) := by
  unfold imageScrub
  repeat' (first
    | with_reducible assumption
    | with_reducible apply Keeps.ite
    | with_reducible apply keeps_imageBad
    | with_reducible refine Keeps.foldl ?_ (fun u a hu => ?_)
    | (fail_if_no_progress refine Keeps.upd ?_ rfl))

theorem keeps_pageLatch {σ : State} (s : State) (p : Nat) (h_s : Keeps σ s) :
    Keeps σ (pageLatch s p) := by
  unfold pageLatch
  repeat' (first | with_reducible assumption | with_reducible apply keeps_State_wr | with_reducible apply keeps_State_setPc)

theorem keeps_trafficLatch {σ : State} (s : State) (c : Nat) (h_s : Keeps σ s) :
    Keeps σ (trafficLatch s c) := by
  unfold trafficLatch
  repeat' (first | with_reducible assumption | with_reducible apply keeps_State_wr)

theorem keeps_coreLatch {σ : State} (s : State) (h_s : Keeps σ s) :
    Keeps σ (coreLatch s) := by
  unfold coreLatch
  repeat' (first
    | with_reducible assumption
    | with_reducible apply keeps_State_wr
    | with_reducible refine Keeps.foldl ?_ (fun u a hu => ?_)
    | (fail_if_no_progress refine Keeps.upd ?_ rfl))

theorem keeps_unitLatch {σ : State} (s : State) (h_s : Keeps σ s) :
    Keeps σ (unitLatch s) := by
  unfold unitLatch
  repeat' (first | with_reducible assumption | with_reducible apply keeps_State_wr | with_reducible apply keeps_State_free)

theorem keeps_mediaLatch {σ : State} (s : State) (h_s : Keeps σ s) :
    Keeps σ (mediaLatch s) := by
  unfold mediaLatch
  repeat' (first
    | with_reducible assumption
    | with_reducible apply Keeps.ite
    | with_reducible apply keeps_State_wr
    | with_reducible apply keeps_coreLatch
    | with_reducible apply keeps_unitLatch
    | with_reducible refine Keeps.foldl ?_ (fun u a hu => ?_))

theorem keeps_counterLatch {σ : State} (s : State) (h_s : Keeps σ s) :
    Keeps σ (counterLatch s) := by
  unfold counterLatch
  repeat' (first
    | with_reducible assumption
    | with_reducible apply keeps_fabricLatch
    | with_reducible apply keeps_pageLatch
    | with_reducible apply keeps_trafficLatch
    | with_reducible apply keeps_mediaLatch
    | with_reducible refine Keeps.foldl ?_ (fun u a hu => ?_)
    | (fail_if_no_progress refine Keeps.upd ?_ rfl))

theorem keeps_execHandlerRun {σ : State} (s : State) (h_s : Keeps σ s) :
    Keeps.outcome σ (execHandlerRun s) := by
  unfold execHandlerRun
  repeat' (first
    | with_reducible assumption
    | with_reducible apply Keeps.ite
    | with_reducible apply keeps_handlerRun
    | with_reducible apply Keeps.outcome_next)

theorem keeps_execWatchdogKick {σ : State} (s : State) (h_s : Keeps σ s) :
    Keeps.outcome σ (execWatchdogKick s) := by
  unfold execWatchdogKick
  repeat' (first
    | with_reducible assumption
    | with_reducible apply Keeps.ite
    | with_reducible apply keeps_watchdogKick
    | with_reducible apply Keeps.outcome_next)

theorem keeps_execWatchdogWarnExpiry {σ : State} (s : State) (h_s : Keeps σ s) :
    Keeps.outcome σ (execWatchdogWarnExpiry s) := by
  unfold execWatchdogWarnExpiry
  repeat' (first
    | with_reducible assumption
    | with_reducible apply Keeps.ite
    | with_reducible apply keeps_watchdogWarn
    | with_reducible apply Keeps.outcome_next)

theorem keeps_execWatchdogResetExpiry {σ : State} (s : State) (h_s : Keeps σ s) :
    Keeps.outcome σ (execWatchdogResetExpiry s) := by
  unfold execWatchdogResetExpiry
  repeat' (first
    | with_reducible assumption
    | with_reducible apply Keeps.ite
    | with_reducible apply keeps_watchdogReset
    | with_reducible apply Keeps.outcome_next)

theorem keeps_execScanDone {σ : State} (s : State) (h_s : Keeps σ s) :
    Keeps.outcome σ (execScanDone s) := by
  unfold execScanDone
  repeat' (first
    | with_reducible assumption
    | with_reducible apply Keeps.ite
    | with_reducible apply keeps_scanDone
    | with_reducible apply Keeps.outcome_next)

theorem keeps_execImageScrubCheck {σ : State} (bad : List (Nat × Nat)) (s : State) (h_s : Keeps σ s) :
    Keeps.outcome σ (execImageScrubCheck bad s) := by
  unfold execImageScrubCheck
  repeat' (first
    | with_reducible assumption
    | with_reducible apply Keeps.ite
    | with_reducible apply keeps_imageScrub
    | with_reducible apply Keeps.outcome_next)

theorem keeps_execCounterLatch {σ : State} (s : State) (h_s : Keeps σ s) :
    Keeps.outcome σ (execCounterLatch s) := by
  unfold execCounterLatch
  repeat' (first
    | with_reducible assumption
    | with_reducible apply Keeps.ite
    | with_reducible apply keeps_counterLatch
    | with_reducible apply Keeps.outcome_next)

end Sys2Proof.Machine
end

