-- ==== Sys2Proof/Laws/Keeps/DictRead.lean ====
section
/-! SUPPORT. What the operations of Machine/DictRead.lean keep: the invariants of Keeps, one lemma per definition. -/

namespace Sys2Proof.Machine

set_option linter.unusedTactic false
set_option linter.unreachableTactic false
set_option linter.unusedSimpArgs false
set_option linter.unusedVariables false

theorem keeps_readOne {σ : State} (s : State) (ch : Chan) (ix sub el : Nat) (h_s : Keeps σ s) :
    Keeps σ (readOne s ch ix sub el).2 := by
  unfold readOne
  repeat' (first | with_reducible assumption | with_reducible apply keeps_newNonce | with_reducible apply keeps_attestReport | split)

theorem keeps_readField {σ : State} (r : Req) (ch : Chan) (sub el : Nat) (a : Attr) (acc : (Nat × Nat) × State) (h_acc : Keeps σ acc.2) :
    Keeps σ (readField r ch sub el a acc).2 := by
  unfold readField
  repeat' (first | with_reducible assumption | with_reducible apply Keeps.ite_snd | with_reducible apply keeps_readOne)

theorem keeps_readData {σ : State} (s : State) (ch : Chan) (r : Req) (h_s : Keeps σ s) :
    Keeps σ (readData s ch r).2 := by
  unfold readData
  repeat' (first
    | with_reducible assumption
    | with_reducible apply keeps_readField
    | with_reducible refine Keeps.foldl_snd ?_ (fun u a hu => ?_)
    | split)

theorem keeps_readServe {σ : State} (s : State) (ch : Chan) (p : Principal) (r : Req) (h_s : Keeps σ s) :
    Keeps σ (readServe s ch p r).2 := by
  unfold readServe
  repeat' (first | with_reducible assumption | with_reducible apply Keeps.ite_snd | with_reducible apply keeps_readData)

end Sys2Proof.Machine
end

