-- ==== Sys2Proof/Laws/Keeps/TwinRole.lean ====
section
/-! SUPPORT. What the operations of Machine/TwinRole.lean keep: the invariants of Keeps, one lemma per definition. -/

namespace Sys2Proof.Machine

set_option linter.unusedTactic false
set_option linter.unreachableTactic false
set_option linter.unusedSimpArgs false
set_option linter.unusedVariables false

theorem keeps_twinReset {σ : State} (s : State) (h_s : Keeps σ s) : Keeps σ (twinReset s) := by
  unfold twinReset
  dsimp only
  have h : Keeps σ ((zeroiseAll (failInFlight s) s.kekSlot).dropGroups (fun _ => true)) :=
    keeps_State_dropGroups _ _ (keeps_zeroiseAll _ _ (keeps_failInFlight _ h_s))
  generalize (zeroiseAll (failInFlight s) s.kekSlot).dropGroups (fun _ => true) = t at h
  exact Keeps.upd (Keeps.setShadow (Keeps.setDict h (t.dict.filter (fun e => twinKeeps t e.1)) (fun a _ => AMap.wf_filter a)) []
    (fun _ _ => rfl)) rfl

theorem keeps_setRole {σ : State} (s : State) (r : Nat) (h_s : Keeps σ s) :
    Keeps σ (setRole s r) := by
  unfold setRole
  repeat' (first
    | with_reducible assumption
    | with_reducible apply Keeps.ite
    | with_reducible apply keeps_State_wr
    | with_reducible apply keeps_servoTwin
    | with_reducible apply keeps_servoLeavesTwin
    | (fail_if_no_progress refine Keeps.upd ?_ rfl))

theorem keeps_askSnapshot {σ : State} (s : State) (h_s : Keeps σ s) :
    Keeps σ (askSnapshot s) := by
  unfold askSnapshot
  repeat' (first | with_reducible assumption | with_reducible apply keeps_State_wr | (fail_if_no_progress refine Keeps.upd ?_ rfl))

theorem keeps_dropJournal {σ : State} (s : State) (h_s : Keeps σ s) :
    Keeps σ (dropJournal s) := by
  unfold dropJournal
  repeat' (first | with_reducible assumption | (fail_if_no_progress refine Keeps.upd ?_ rfl))

theorem keeps_coldFor {σ : State} (s : State) (reason : Nat) (h_s : Keeps σ s) :
    Keeps σ (coldFor s reason) := by
  unfold coldFor
  repeat' (first
    | with_reducible assumption
    | with_reducible apply keeps_State_wr
    | with_reducible apply keeps_State_event
    | with_reducible apply keeps_setRole)

theorem keeps_loseContest {σ : State} (s : State) (h_s : Keeps σ s) :
    Keeps σ (loseContest s) := by
  unfold loseContest
  repeat' (first
    | with_reducible assumption
    | with_reducible apply keeps_State_wr
    | with_reducible apply keeps_fence
    | with_reducible apply keeps_twinReset
    | with_reducible apply keeps_setRole
    | with_reducible apply keeps_askSnapshot
    | with_reducible apply keeps_dropJournal)

theorem keeps_detach {σ : State} (s : State) (h_s : Keeps σ s) :
    Keeps σ (detach s) := by
  unfold detach
  repeat' (first
    | with_reducible assumption
    | with_reducible apply Keeps.ite
    | with_reducible apply keeps_State_wr
    | with_reducible apply keeps_twinReset
    | with_reducible apply keeps_setRole
    | (fail_if_no_progress refine Keeps.upd ?_ rfl))

theorem keeps_sendDetach {σ : State} (s : State) (h_s : Keeps σ s) :
    Keeps σ (sendDetach s) := by
  unfold sendDetach
  repeat' (first | with_reducible assumption | with_reducible apply Keeps.ite | with_reducible apply keeps_State_emit)

theorem keeps_twinModeWrite {σ : State} (s : State) (v : Nat) (h_s : Keeps σ s) :
    Keeps σ (twinModeWrite s v) := by
  unfold twinModeWrite
  repeat' (first
    | with_reducible assumption
    | with_reducible apply Keeps.ite
    | with_reducible apply keeps_State_wr
    | with_reducible apply keeps_State_demand
    | with_reducible apply keeps_portUp
    | with_reducible apply keeps_portDown
    | with_reducible apply keeps_detach
    | with_reducible apply keeps_sendDetach
    | (fail_if_no_progress refine Keeps.upd ?_ rfl))

theorem keeps_twinHandover {σ : State} (s : State) (h_s : Keeps σ s) :
    Keeps σ (twinHandover s).2 := by
  unfold twinHandover
  repeat' (first
    | with_reducible assumption
    | with_reducible apply Keeps.ite_snd
    | with_reducible apply keeps_State_wr
    | with_reducible apply keeps_fence
    | with_reducible apply keeps_twinReset
    | with_reducible apply keeps_setRole
    | (fail_if_no_progress refine Keeps.upd ?_ rfl))

theorem keeps_twinResync {σ : State} (s : State) (h_s : Keeps σ s) :
    Keeps σ (twinResync s).2 := by
  unfold twinResync
  repeat' (first
    | with_reducible assumption
    | with_reducible apply Keeps.ite_snd
    | with_reducible apply keeps_State_wr
    | with_reducible apply keeps_askSnapshot)

end Sys2Proof.Machine
end

