-- ==== Sys2Proof/Laws/Keeps/DictWrite.lean ====
section
/-! SUPPORT. What the operations of Machine/DictWrite.lean keep: the invariants of Keeps, one lemma per definition. -/

namespace Sys2Proof.Machine

set_option linter.unusedTactic false
set_option linter.unreachableTactic false
set_option linter.unusedSimpArgs false
set_option linter.unusedVariables false

theorem keeps_notifySend {σ : State} (s : State) (n : Option (Chan × Req × Nat)) (code instant : Nat) (h_s : Keeps σ s) :
    Keeps σ (notifySend s n code instant) := by
  unfold notifySend
  repeat' (first | with_reducible assumption | with_reducible apply keeps_State_emit | with_reducible apply keeps_State_mailNotify | split)

theorem keeps_deferMix {σ : State} (s : State) (due k v : Nat) (h_s : Keeps σ s) :
    Keeps σ (deferMix s due k v) := by
  unfold deferMix
  repeat' (first | with_reducible assumption | (fail_if_no_progress refine Keeps.upd ?_ rfl))

theorem keeps_store {σ : State} (c : WCtx) (s : State) (w : FieldWrite) (h_s : Keeps σ s) :
    Keeps σ (store c s w).2 := by
  unfold store
  repeat' (first
    | with_reducible assumption
    | with_reducible apply Keeps.ite_snd
    | with_reducible apply keeps_State_wr
    | with_reducible apply keeps_State_wrShadow
    | with_reducible apply keeps_deferMix)

theorem keeps_mixView {σ : State} (s : State) (h_s : Keeps σ s) :
    Keeps σ (mixView s) := by
  unfold mixView
  repeat' (first
    | with_reducible assumption
    | with_reducible apply keeps_withWrites
    | with_reducible refine Keeps.foldl ?_ (fun u a hu => ?_))

theorem keeps_guarded {σ : State} (a : Nat) (c : WCtx) (s : State) (w : FieldWrite) (h_s : Keeps σ s) :
    Keeps σ (guarded a c s w).2 := by
  unfold guarded
  repeat' (first | with_reducible assumption | with_reducible apply Keeps.ite_snd | with_reducible apply keeps_store)

theorem keeps_legStateAt {σ : State} (c : WCtx) (s : State) (l v : Nat) (h_s : Keeps σ s) :
    Keeps σ (legStateAt c s l v).2 := by
  unfold legStateAt
  repeat' (first
    | with_reducible assumption
    | with_reducible apply Keeps.ite
    | with_reducible apply Keeps.ite_snd
    | with_reducible apply keeps_State_setLeg
    | with_reducible apply keeps_legStateWrite
    | with_reducible apply keeps_legTurns)

theorem keeps_confStateWrite {σ : State} (s : State) (c v : Nat) (h_s : Keeps σ s) :
    Keeps σ (confStateWrite s c v).2 := by
  unfold confStateWrite
  repeat' (first
    | with_reducible assumption
    | with_reducible apply Keeps.ite_snd
    | with_reducible apply keeps_confActivate
    | with_reducible apply keeps_confFree)

theorem keeps_write2 {σ : State} (c : WCtx) (s : State) (w : FieldWrite) (h_s : Keeps σ s) :
    Keeps σ (write2 c s w).2 := by
  unfold write2
  repeat' (first
    | with_reducible assumption
    | with_reducible apply Keeps.ite_snd
    | with_reducible apply keeps_tapWrite
    | with_reducible apply keeps_classifierWrite
    | with_reducible apply keeps_store
    | with_reducible apply keeps_guarded
    | with_reducible apply keeps_legStateAt
    | with_reducible apply keeps_confStateWrite)

theorem keeps_matenLoad {σ : State} (s : State) (i : Image) (h_s : Keeps σ s) :
    Keeps σ (matenLoad s i).2 := by
  unfold matenLoad
  repeat' (first | with_reducible assumption | with_reducible apply Keeps.ite_snd | (fail_if_no_progress refine Keeps.upd ?_ rfl))

theorem keeps_matenUnload {σ : State} (s : State) (n : Nat) (h_s : Keeps σ s) :
    Keeps σ (matenUnload s n).2 := by
  unfold matenUnload
  repeat' (first | with_reducible assumption | with_reducible apply Keeps.ite_snd | (fail_if_no_progress refine Keeps.upd ?_ rfl))

theorem keeps_write3 {σ : State} (c : WCtx) (s : State) (w : FieldWrite) (h_s : Keeps σ s) :
    Keeps σ (write3 c s w).2 := by
  unfold write3
  repeat' (first
    | with_reducible assumption
    | with_reducible apply Keeps.ite_snd
    | with_reducible apply keeps_store
    | with_reducible apply keeps_guarded
    | with_reducible apply keeps_matenLoad
    | with_reducible apply keeps_matenUnload)

theorem keeps_write4 {σ : State} (c : WCtx) (s : State) (w : FieldWrite) (h_s : Keeps σ s) :
    Keeps σ (write4 c s w).2 := by
  unfold write4
  repeat' (first
    | with_reducible assumption
    | with_reducible apply Keeps.ite_snd
    | with_reducible apply keeps_dctxStateWrite
    | with_reducible apply keeps_targetSpatialWrite
    | with_reducible apply keeps_store)

theorem keeps_acceptCommit {σ : State} (s : State) (d : Deferred) (h_s : Keeps σ s) :
    Keeps σ (acceptCommit s d) := by
  unfold acceptCommit
  repeat' (first
    | with_reducible assumption
    | with_reducible apply keeps_notifySend
    | with_reducible refine Keeps.foldl ?_ (fun u a hu => ?_)
    | (fail_if_no_progress refine Keeps.upd ?_ rfl))

theorem keeps_commit {σ : State} (s : State) (csets : List Nat) (extra : Nat → Bool) (others : List (Nat × Nat × Payload)) (due : Nat) (notify : Option (Chan × Req × Nat)) (h_s : Keeps σ s) :
    Keeps σ (commit s csets extra others due notify).2 := by
  unfold commit
  repeat' (first
    | with_reducible assumption
    | with_reducible apply keeps_tickCommit
    | with_reducible apply keeps_acceptCommit
    | refine Keeps.snd3 (by assumption) ?_
    | split)

theorem keeps_write5 {σ : State} (c : WCtx) (s : State) (w : FieldWrite) (h_s : Keeps σ s) :
    Keeps σ (write5 c s w).2 := by
  unfold write5
  repeat' (first
    | with_reducible assumption
    | with_reducible apply Keeps.ite_snd
    | with_reducible apply keeps_operatorImageWrite
    | with_reducible apply keeps_layoutLoad
    | with_reducible apply keeps_layoutUnload
    | with_reducible apply keeps_store
    | with_reducible apply keeps_commit)

theorem keeps_write6 {σ : State} (c : WCtx) (s : State) (w : FieldWrite) (h_s : Keeps σ s) :
    Keeps σ (write6 c s w).2 := by
  unfold write6
  repeat' (first
    | with_reducible assumption
    | with_reducible apply Keeps.ite_snd
    | with_reducible apply keeps_actxStateWrite
    | with_reducible apply keeps_rctxStateWrite
    | with_reducible apply keeps_raiseKey
    | with_reducible apply keeps_rcLoad
    | with_reducible apply keeps_rcUnload
    | with_reducible apply keeps_store)

theorem keeps_queueFlush {σ : State} (s : State) (q : Nat) (h_s : Keeps σ s) :
    Keeps σ (queueFlush s q).2 := by
  unfold queueFlush
  repeat' (first
    | with_reducible assumption
    | with_reducible apply Keeps.ite_snd
    | with_reducible apply keeps_State_updQ
    | with_reducible apply keeps_ringFlush)

theorem keeps_queueWrite {σ : State} (s : State) (sub q v : Nat) (h_s : Keeps σ s) :
    Keeps σ (queueWrite s sub q v).2 := by
  unfold queueWrite
  repeat' (first
    | with_reducible assumption
    | with_reducible apply keeps_State_setQ
    | with_reducible apply keeps_State_updQ
    | with_reducible apply keeps_ringCrossedClear
    | with_reducible apply keeps_queueFlush
    | split)

theorem keeps_write7 {σ : State} (c : WCtx) (s : State) (w : FieldWrite) (h_s : Keeps σ s) :
    Keeps σ (write7 c s w).2 := by
  unfold write7
  repeat' (first
    | with_reducible assumption
    | with_reducible apply Keeps.ite_snd
    | with_reducible apply keeps_State_wr
    | with_reducible apply keeps_State_dispStatus
    | with_reducible apply keeps_State_settle
    | with_reducible apply keeps_retryHeld
    | with_reducible apply keeps_coreOnlineWrite
    | with_reducible apply keeps_feedModeWrite
    | with_reducible apply keeps_feedFixedWrite
    | with_reducible apply keeps_adaptLoad
    | with_reducible apply keeps_adaptUnload
    | with_reducible apply keeps_store
    | with_reducible apply keeps_queueWrite
    | refine Keeps.snd (by assumption) ?_
    | split)

theorem keeps_keyWrite {σ : State} (c : WCtx) (s : State) (w : FieldWrite) (h_s : Keeps σ s) :
    Keeps σ (keyWrite c s w).2 := by
  unfold keyWrite
  repeat' (first
    | with_reducible assumption
    | with_reducible apply keeps_keySuiteWrite
    | with_reducible apply keeps_keyLoad
    | with_reducible apply keeps_keyWrappedLoad
    | with_reducible apply keeps_keyErase
    | with_reducible apply keeps_store
    | with_reducible apply keeps_guarded
    | split)

theorem keeps_write8 {σ : State} (c : WCtx) (s : State) (w : FieldWrite) (h_s : Keeps σ s) :
    Keeps σ (write8 c s w).2 := by
  unfold write8
  repeat' (first
    | with_reducible assumption
    | with_reducible apply keeps_minVersionCommit
    | with_reducible apply keeps_identityGenerate
    | with_reducible apply keeps_lifecycleAdvance
    | with_reducible apply keeps_ownerHashWrite
    | with_reducible apply keeps_ownerKekWrite
    | with_reducible apply keeps_ownerRevokeWrite
    | with_reducible apply keeps_bootPolicyWrite
    | with_reducible apply keeps_frostWrite
    | with_reducible apply keeps_tokenSignatureWrite
    | with_reducible apply keeps_debugUnlockWrite
    | with_reducible apply keeps_attest
    | with_reducible apply keeps_store
    | with_reducible apply keeps_guarded
    | with_reducible apply keeps_keyWrite
    | split)

theorem keeps_fabricCounter {σ : State} (s : State) (w : FieldWrite) (h_s : Keeps σ s) :
    Keeps σ (fabricCounter s w) := by
  unfold fabricCounter
  repeat' (first | with_reducible assumption | with_reducible apply keeps_State_wr | with_reducible apply keeps_clearLive)

theorem keeps_writeA {σ : State} (c : WCtx) (s : State) (w : FieldWrite) (h_s : Keeps σ s) :
    Keeps σ (writeA c s w).2 := by
  unfold writeA
  repeat' (first
    | with_reducible assumption
    | with_reducible apply Keeps.ite
    | with_reducible apply Keeps.ite_snd
    | with_reducible apply keeps_State_wr
    | with_reducible apply keeps_State_lsdbChanged
    | with_reducible apply keeps_originate
    | with_reducible apply keeps_nqEnableWrite
    | with_reducible apply keeps_fdevPost
    | with_reducible apply keeps_pmSuspect
    | with_reducible apply keeps_store
    | with_reducible apply keeps_guarded
    | with_reducible apply keeps_fabricCounter)

theorem keeps_writeB {σ : State} (c : WCtx) (s : State) (w : FieldWrite) (h_s : Keeps σ s) :
    Keeps σ (writeB c s w).2 := by
  unfold writeB
  repeat' (first
    | with_reducible assumption
    | with_reducible apply Keeps.ite_snd
    | with_reducible apply keeps_twinModeWrite
    | with_reducible apply keeps_twinHandover
    | with_reducible apply keeps_twinResync
    | with_reducible apply keeps_store)

theorem keeps_writeC {σ : State} (c : WCtx) (s : State) (w : FieldWrite) (h_s : Keeps σ s) :
    Keeps σ (writeC c s w).2 := by
  unfold writeC
  repeat' (first
    | with_reducible assumption
    | with_reducible apply Keeps.ite_snd
    | with_reducible apply keeps_State_wr
    | with_reducible apply keeps_servoRate
    | with_reducible apply keeps_ptpChanged
    | with_reducible apply keeps_hostTodWrite
    | with_reducible apply keeps_store
    | (fail_if_no_progress refine Keeps.upd ?_ rfl))

theorem keeps_writeD {σ : State} (c : WCtx) (s : State) (w : FieldWrite) (h_s : Keeps σ s) :
    Keeps σ (writeD c s w).2 := by
  unfold writeD
  repeat' (first
    | with_reducible assumption
    | with_reducible apply Keeps.ite_snd
    | with_reducible apply keeps_State_wr
    | with_reducible apply keeps_targetWrite
    | with_reducible apply keeps_scriptsWrite
    | with_reducible apply keeps_store)

theorem keeps_writeE {σ : State} (c : WCtx) (s : State) (w : FieldWrite) (h_s : Keeps σ s) :
    Keeps σ (writeE c s w).2 := by
  unfold writeE
  repeat' (first
    | with_reducible assumption
    | with_reducible apply Keeps.ite_snd
    | with_reducible apply keeps_watchdogKick
    | with_reducible apply keeps_scanStart
    | with_reducible apply keeps_store)

theorem keeps_objectWrite {σ : State} (c : WCtx) (s : State) (w : FieldWrite) (h_s : Keeps σ s) :
    Keeps σ (objectWrite c s w).2 := by
  unfold objectWrite
  repeat' (first
    | with_reducible assumption
    | with_reducible apply Keeps.ite_snd
    | with_reducible apply keeps_partApply
    | with_reducible apply keeps_operatorSessionWrite
    | with_reducible apply keeps_store
    | with_reducible apply keeps_write2
    | with_reducible apply keeps_write3
    | with_reducible apply keeps_write4
    | with_reducible apply keeps_write5
    | with_reducible apply keeps_write6
    | with_reducible apply keeps_write7
    | with_reducible apply keeps_write8
    | with_reducible apply keeps_writeA
    | with_reducible apply keeps_writeB
    | with_reducible apply keeps_writeC
    | with_reducible apply keeps_writeD
    | with_reducible apply keeps_writeE
    | split)

theorem keeps_objectWrites {σ : State} (c : WCtx) (ws : List FieldWrite) (s : State) (h_s : Keeps σ s) :
    Keeps σ (objectWrites c ws s).2 := by
  induction ws generalizing s with
  | nil => exact h_s
  | cons w r ih =>
    unfold objectWrites
    have h := keeps_objectWrite c s w h_s
    split
    · rename_i e
      exact ih _ (Keeps.snd e h)
    · exact h

theorem keeps_writeFields {σ : State} (c : WCtx) (ws : List FieldWrite) (s : State) (h_s : Keeps σ s) :
    Keeps σ (writeFields c ws s).2 := by
  unfold writeFields
  repeat' (first | with_reducible assumption | with_reducible apply Keeps.ite_snd | with_reducible apply keeps_objectWrites)

theorem keeps_repointed {σ : State} (before s : State) (c : Nat) (subs : List Nat) (h_before : Keeps σ before) (h_s : Keeps σ s) :
    Keeps σ (repointed before s c subs) := by
  unfold repointed
  repeat' (first | with_reducible assumption | with_reducible apply Keeps.ite | with_reducible apply keeps_anchorRepoint)

theorem keeps_recordCheck {σ : State} (before : State) (s : State) (ix el : Nat) (subs : List Nat) (h_before : Keeps σ before) (h_s : Keeps σ s) :
    Keeps σ (recordCheck before s ix el subs).2 := by
  unfold recordCheck
  repeat' (first
    | with_reducible assumption
    | with_reducible apply Keeps.ite_snd
    | with_reducible apply keeps_legPost
    | with_reducible apply keeps_shaperReset
    | with_reducible apply keeps_groupReset
    | with_reducible apply keeps_portReset
    | with_reducible apply keeps_pulseWrite
    | with_reducible apply keeps_repointed)

theorem keeps_recordChecks {σ : State} (before : State) (xs : List (Nat × Nat × List Nat)) (s : State) (h_b : Keeps σ before)
    (h_s : Keeps σ s) : Keeps σ (recordChecks before xs s).2 := by
  induction xs generalizing s with
  | nil => exact h_s
  | cons x r ih =>
    unfold recordChecks
    have h := keeps_recordCheck before s x.1 x.2.1 x.2.2 h_b h_s
    split
    · rename_i e
      exact ih _ (Keeps.snd e h)
    · exact h

theorem keeps_writeNow {σ : State} (c : WCtx) (s : State) (ws : List FieldWrite) (h_s : Keeps σ s) :
    Keeps σ (writeNow c s ws).2 := by
  unfold writeNow
  refine Keeps.ite_snd h_s ?_
  have h := keeps_objectWrites c ws s h_s
  split
  · rename_i t e
    have h1 := keeps_recordChecks s (touched ws) t h_s (Keeps.snd e h)
    split
    · rename_i e1
      exact Keeps.snd e1 h1
    · exact h_s
  · rename_i e
    exact Keeps.ite (Keeps.snd e h) h_s

theorem keeps_lateFields {σ : State} (c : WCtx) (ws : List FieldWrite) (s : State) (h_s : Keeps σ s) :
    Keeps σ (lateFields c ws s) := by
  induction ws generalizing s with
  | nil => exact h_s
  | cons w r ih =>
    unfold lateFields
    have h := keeps_objectWrite c s w h_s
    split
    · rename_i e
      exact ih _ (Keeps.snd e h)
    · exact ih _ h_s

theorem keeps_lateRecords {σ : State} (before : State) (xs : List (Nat × Nat × List Nat)) (s : State) (h_b : Keeps σ before)
    (h_s : Keeps σ s) : Keeps σ (lateRecords before xs s) := by
  induction xs generalizing s with
  | nil => exact h_s
  | cons x r ih =>
    unfold lateRecords
    have h := keeps_recordCheck before s x.1 x.2.1 x.2.2 h_b h_s
    split
    · rename_i e
      exact ih _ (Keeps.snd e h)
    · exact ih _ h_s

theorem keeps_applyOthers {σ : State} (s : State) (d : Deferred) (h_s : Keeps σ s) :
    Keeps σ (applyOthers s d) := by
  unfold applyOthers
  repeat' (first | with_reducible assumption | with_reducible apply keeps_lateFields | with_reducible apply keeps_lateRecords)

theorem keeps_laterView {σ : State} (s : State) (h_s : Keeps σ s) :
    Keeps σ (laterView s) := by
  unfold laterView
  repeat' (first
    | with_reducible assumption
    | with_reducible apply keeps_applyOthers
    | with_reducible refine Keeps.foldl ?_ (fun u a hu => ?_)
    | (fail_if_no_progress refine Keeps.upd ?_ rfl))

theorem keeps_writeAll {σ : State} (c : WCtx) (s : State) (ws : List FieldWrite) (h_s : Keeps σ s) :
    Keeps σ (writeAll c s ws).2 := by
  unfold writeAll
  have h := keeps_writeNow c s ws h_s
  split
  · rename_i e
    exact Keeps.ite_snd h_s (Keeps.snd e h)
  · exact h

end Sys2Proof.Machine
end

