-- ==== Sys2Proof/Laws/Keeps/Dict.lean ====
section
/-! SUPPORT. What the operations of Machine/Dict.lean keep: the invariants of Keeps, one lemma per definition. -/

namespace Sys2Proof.Machine

set_option linter.unusedTactic false
set_option linter.unreachableTactic false
set_option linter.unusedSimpArgs false
set_option linter.unusedVariables false

theorem Keeps.withShadow {s t u : State} (h : Keeps s t) (k : Keeps s u) : Keeps s { t with shadow := u.shadow } :=
  ⟨h.pending, h.mono, h.draws, h.fuses, h.out, h.dict, k.shadow, h.mem⟩

theorem keeps_dtpReply {σ : State} (s : State) (d seq : Nat) (r : Resp) (h_s : Keeps σ s) :
    Keeps σ (dtpReply s d seq r) := by
  unfold dtpReply
  repeat' (first
    | with_reducible assumption
    | with_reducible apply keeps_State_emit
    | split
    | (fail_if_no_progress refine Keeps.upd ?_ rfl))

theorem keeps_reply {σ : State} (s : State) (ch : Chan) (seq : Nat) (r : Resp) (h_s : Keeps σ s) :
    Keeps σ (reply s ch seq r) := by
  unfold reply
  repeat' (first
    | with_reducible assumption
    | with_reducible apply keeps_State_fabSend
    | with_reducible apply keeps_State_mailResponse
    | with_reducible apply keeps_dtpReply
    | split)

theorem keeps_writeRun {σ : State} (c : WCtx) (r : Req) (d : Payload) (is : List Nat) (s : State) (h_s : Keeps σ s) :
    Keeps σ (writeRun c r d is s).2.2 := by
  induction is generalizing s with
  | nil => exact h_s
  | cons i rest ih =>
    unfold writeRun
    have h := keeps_writeAll c s (elementWrites s c.prin r d i) h_s
    split
    · rename_i e
      exact ih _ (Keeps.snd e h)
    · rename_i e
      exact Keeps.snd e h

theorem keeps_persistWrite {σ : State} (c : WCtx) (s : State) (d : Payload) (h_s : Keeps σ s) :
    Keeps σ (persistWrite c s d).2 := by
  unfold persistWrite
  repeat' (first | with_reducible assumption | with_reducible apply keeps_writeAll | refine Keeps.snd (by assumption) ?_ | split)

theorem keeps_writePlain {σ : State} (c0 : WCtx) (s : State) (r : Req) (d : Payload) (room : Nat) (h_s : Keeps σ s) :
    Keeps σ (writePlain c0 s r d room).2.2.1 := by
  unfold writePlain
  repeat' (first
    | with_reducible assumption
    | with_reducible apply keeps_writeRun
    | with_reducible apply keeps_persistWrite
    | ((try lift_lets); intro x; try unfold x)
    | split)

theorem keeps_setGroup {σ : State} (s : State) (g : Group) (h_s : Keeps σ s) :
    Keeps σ (setGroup s g) := by
  unfold setGroup
  repeat' (first | with_reducible assumption | (fail_if_no_progress refine Keeps.upd ?_ rfl))

theorem keeps_groupOpen {σ : State} (s : State) (ch : Chan) (h_s : Keeps σ s) : Keeps σ (groupOpen s ch).2.2 := by
  unfold groupOpen
  generalize s.ctl.freeGroups = fs
  cases fs with
  | nil => exact h_s
  | cons n r => exact Keeps.upd h_s rfl

theorem keeps_stage {σ : State} (s : State) (ch : Chan) (r : Req) (d : Payload) (room : Nat) (h_s : Keeps σ s) :
    Keeps σ (stage s ch r d room).2 := by
  unfold stage
  repeat' (first | with_reducible assumption | with_reducible apply keeps_setGroup | split)

theorem keeps_groupClose {σ : State} (s : State) (n : Nat) (h_s : Keeps σ s) :
    Keeps σ (groupClose s n) := by
  unfold groupClose
  repeat' (first | with_reducible assumption | with_reducible apply keeps_State_dropGroups)

theorem keeps_stagedWrite {σ : State} (c0 : WCtx) (s : State) (w : Staged) (h_s : Keeps σ s) :
    Keeps σ (stagedWrite c0 s w).2.1 := by
  unfold stagedWrite
  repeat' (first
    | with_reducible assumption
    | with_reducible apply keeps_writeFields
    | with_reducible apply keeps_persistWrite
    | ((try lift_lets); intro x; try unfold x)
    | split)

theorem keeps_trial {σ : State} (c : WCtx) (b : State) (recs : List (Nat × Nat × List Nat)) (ws : List Staged) (n : Nat) (s : State)
    (h_b : Keeps σ b) (h_s : Keeps σ s) : Keeps σ (trial c b recs ws n s).2.2.1 := by
  induction ws generalizing s n with
  | nil => exact h_s
  | cons w r ih =>
    unfold trial
    have h := keeps_stagedWrite c s w h_s
    split
    · rename_i t fs e
      dsimp only
      have h1 := keeps_recordChecks b (recs.filter (fun x => inRecord fs x && !inRecord (r.flatMap (stagedFields c b)) x)) t h_b
        (Keeps.mid3 e h)
      split
      · rename_i e1
        exact ih _ _ (Keeps.snd e1 h1)
      · exact h_s
    · exact h_s

theorem keeps_groupTry {σ : State} (c0 : WCtx) (s : State) (ws : List Staged) (h_s : Keeps σ s) :
    Keeps σ (groupTry c0 s ws).2.2.1 := by
  unfold groupTry
  dsimp only
  have h := fun c => keeps_trial c s (touched (ws.flatMap (stagedFields c s))) ws 0 s h_s h_s
  split
  · rename_i u fs e
    have hu := Keeps.mid4 e (h _)
    split
    · have hc := fun l (x : Nat → Bool) o k n => keeps_commit { s with shadow := u.shadow } l x o k n (Keeps.withShadow h_s hu)
      split
      · rename_i e2
        exact Keeps.snd e2 (hc _ _ _ _ _)
      · exact h_s
    · split
      · exact Keeps.upd h_s rfl
      · exact hu
  · exact h_s

theorem keeps_groupApply {σ : State} (c : WCtx) (s : State) (ws : List Staged) (h_s : Keeps σ s) :
    Keeps σ (groupApply c s ws).2.2.1 := by
  unfold groupApply
  have h := keeps_groupTry c s ws h_s
  split
  · rename_i e
    have ht := Keeps.mid4 e h
    split
    · split
      · exact ht
      · exact h_s
    · exact ht
  · exact h

theorem keeps_carryOut {σ : State} (s : State) (ch : Chan) (p : Principal) (r : Req) (d : Payload) (seq accept room : Nat)
    (h_s : Keeps σ s) : Keeps σ (carryOut s ch p r d seq accept room).st := by
  unfold carryOut
  dsimp only
  split
  · exact keeps_readServe _ _ _ _ h_s
  · split
    · exact keeps_stage _ _ _ _ _ h_s
    · have h := keeps_writePlain (ctxAt s ch p r seq accept) s r d room h_s
      split
      · exact h
      · exact h
  · exact h_s
  · exact keeps_groupOpen _ _ h_s
  · split
    · exact h_s
    · rename_i g _
      have h := keeps_groupApply (ctxAt s ch p r seq accept) s g.writes h_s
      split
      · exact keeps_groupClose _ _ h
      · exact keeps_groupClose _ _ h_s
  · split
    · exact h_s
    · exact keeps_groupClose _ _ h_s

theorem keeps_journalAll {σ : State} (s : State) (bodies : List JBody) (instant : Option Nat) (p : Principal) (h_s : Keeps σ s) :
    Keeps σ (journalAll s bodies instant p) := by
  unfold journalAll
  repeat' (first
    | with_reducible assumption
    | with_reducible apply Keeps.ite
    | with_reducible apply keeps_State_journal
    | with_reducible refine Keeps.foldl ?_ (fun u a hu => ?_))

theorem keeps_hold {σ : State} (s : State) (q : HeldReq) (h_s : Keeps σ s) :
    Keeps σ (hold s q) := by
  unfold hold
  repeat' (first | with_reducible assumption | (fail_if_no_progress refine Keeps.upd ?_ rfl))

theorem keeps_finish {σ : State} (s : State) (ch : Chan) (p : Principal) (r : Req) (d : Payload) (seq : Nat) (h_s : Keeps σ s) :
    Keeps σ (finish s ch p r d seq) := by
  unfold finish
  have h := keeps_carryOut s ch p r d seq s.tod (roomOf ch r) h_s
  generalize carryOut s ch p r d seq s.tod (roomOf ch r) = x at h
  dsimp only
  exact Keeps.ite (keeps_State_demand _ (Keeps.upd h_s rfl)) (keeps_reply _ _ _ _ (Keeps.ite (keeps_journalAll _ _ _ _ h) h))

theorem keeps_drainRequests {σ : State} (n : Nat) (s : State) (h_s : Keeps σ s) : Keeps σ (drainRequests n s) := by
  induction n generalizing s with
  | zero => exact h_s
  | succ n ih =>
    unfold drainRequests
    split
    · exact h_s
    · rename_i q rest _
      dsimp only
      have hp : Keeps σ { s with tw := { s.tw with requests := rest } } := Keeps.upd h_s rfl
      generalize ({ s with tw := { s.tw with requests := rest } } : State) = popped at hp ⊢
      split
      · refine Keeps.ite (ih _ ?_) h_s
        exact keeps_reply _ _ _ _ (keeps_carryOut _ _ _ _ _ _ _ _ hp)
      · refine Keeps.ite (ih _ ?_) (ih _ ?_)
        · exact keeps_reply _ _ _ _ (keeps_carryOut _ _ _ _ _ _ _ _ hp)
        · exact Keeps.upd (keeps_journalAll _ _ _ _ hp) rfl

theorem keeps_drain {σ : State} (s : State) (h_s : Keeps σ s) : Keeps σ (drain s) := keeps_drainRequests _ _ h_s

theorem keeps_enter {σ : State} (s : State) (ch : Chan) (p : Principal) (r : Req) (d : Payload) (seq : Nat) (h_s : Keeps σ s) :
    Keeps σ (enter s ch p r d seq) := by
  unfold enter
  repeat' (first
    | with_reducible assumption
    | with_reducible apply Keeps.ite
    | with_reducible apply keeps_finish
    | with_reducible apply keeps_drain
    | (fail_if_no_progress refine Keeps.upd ?_ rfl))

theorem keeps_startTransfer {σ : State} (s : State) (ch : Chan) (p : Principal) (r : Req) (addr : Nat) (h_s : Keeps σ s) :
    Keeps σ (startTransfer s ch p r addr) := by
  unfold startTransfer
  repeat' (first
    | with_reducible assumption
    | with_reducible apply Keeps.ite
    | with_reducible apply keeps_readServe
    | with_reducible apply keeps_reply
    | (fail_if_no_progress refine Keeps.upd ?_ rfl))

theorem keeps_takeRequest {σ : State} (s : State) (ch : Chan) (p : Principal) (r : Req) (d : Payload) (seq : Nat) (h_s : Keeps σ s) :
    Keeps σ (takeRequest s ch p r d seq) := by
  unfold takeRequest
  repeat' (first
    | with_reducible assumption
    | with_reducible apply Keeps.ite
    | with_reducible apply keeps_reply
    | with_reducible apply keeps_enter
    | with_reducible apply keeps_startTransfer)

theorem keeps_dictDeliver {σ : State} (s : State) (ch : Chan) (r : Req) (d : Payload) (seq : Nat) (h_s : Keeps σ s) :
    Keeps σ (dictDeliver s ch r d seq) := by
  unfold dictDeliver
  repeat' (first
    | with_reducible assumption
    | with_reducible apply Keeps.ite
    | with_reducible apply keeps_State_wake
    | with_reducible apply keeps_hold
    | with_reducible apply keeps_takeRequest)

theorem keeps_releaseTaken {σ : State} (s : State) (h_s : Keeps σ s) :
    Keeps σ (releaseTaken s) := by
  unfold releaseTaken
  repeat' (first
    | with_reducible assumption
    | with_reducible apply keeps_takeRequest
    | with_reducible refine Keeps.foldl ?_ (fun u a hu => ?_)
    | (fail_if_no_progress refine Keeps.upd ?_ rfl))

theorem keeps_resumeHeld {σ : State} (s : State) (q : HeldReq) (h_s : Keeps σ s) :
    Keeps σ (resumeHeld s q) := by
  unfold resumeHeld
  repeat' (first
    | with_reducible assumption
    | with_reducible apply Keeps.ite
    | with_reducible apply keeps_enter
    | with_reducible apply keeps_startTransfer)

theorem keeps_releaseSummer {σ : State} (s : State) (h_s : Keeps σ s) :
    Keeps σ (releaseSummer s) := by
  unfold releaseSummer
  repeat' (first
    | with_reducible assumption
    | with_reducible apply keeps_resumeHeld
    | with_reducible refine Keeps.foldl ?_ (fun u a hu => ?_)
    | (fail_if_no_progress refine Keeps.upd ?_ rfl))

theorem keeps_transferDone {σ : State} (s : State) (n : Nat) (d : Payload) (h_s : Keeps σ s) :
    Keeps σ (transferDone s n d) := by
  unfold transferDone
  repeat' (first
    | with_reducible assumption
    | with_reducible apply keeps_State_emit
    | with_reducible apply keeps_reply
    | with_reducible apply keeps_enter
    | split
    | (fail_if_no_progress refine Keeps.upd ?_ rfl))

theorem keeps_transferFails {σ : State} (s : State) (n addr causeBit : Nat) (h_s : Keeps σ s) :
    Keeps σ (transferFails s n addr causeBit) := by
  unfold transferFails
  repeat' (first
    | with_reducible assumption
    | with_reducible apply keeps_State_dmaFault
    | with_reducible apply keeps_reply
    | split
    | (fail_if_no_progress refine Keeps.upd ?_ rfl))

theorem keeps_writeRow {σ : State} (s : State) (ch : Chan) (r : Req) (d : Payload) (h_s : Keeps σ s) :
    Keeps σ (writeRow s ch r d) := by
  unfold writeRow
  repeat' (first
    | with_reducible assumption
    | with_reducible apply Keeps.ite
    | with_reducible apply keeps_reply
    | with_reducible apply keeps_enter
    | with_reducible apply keeps_dictDeliver)

theorem keeps_writeScalar {σ : State} (s : State) (ch : Chan) (tag g ix sub len : Nat) (d : Payload) (h_s : Keeps σ s) :
    Keeps σ (writeScalar s ch tag g ix sub len d) := by
  unfold writeScalar
  repeat' (first | with_reducible assumption | with_reducible apply keeps_writeRow)

theorem keeps_writeElement {σ : State} (s : State) (ch : Chan) (tag g ix sub el len : Nat) (d : Payload) (h_s : Keeps σ s) :
    Keeps σ (writeElement s ch tag g ix sub el len d) := by
  unfold writeElement
  repeat' (first | with_reducible assumption | with_reducible apply keeps_writeRow)

end Sys2Proof.Machine
end

