-- ==== Sys2Proof/Laws/Keeps/Dtp.lean ====
section
/-! SUPPORT. What the operations of Machine/Dtp.lean keep: the invariants of Keeps, one lemma per definition. -/

namespace Sys2Proof.Machine

set_option linter.unusedTactic false
set_option linter.unreachableTactic false
set_option linter.unusedSimpArgs false
set_option linter.unusedVariables false

theorem keeps_dtpDrop {σ : State} (s : State) (h_s : Keeps σ s) :
    Keeps σ (dtpDrop s) := by
  unfold dtpDrop
  repeat' (first | with_reducible assumption | with_reducible apply keeps_State_inc)

theorem keeps_dtpPut {σ : State} (s : State) (x : DtpSession) (h_s : Keeps σ s) :
    Keeps σ (dtpPut s x) := by
  unfold dtpPut
  repeat' (first | with_reducible assumption | (fail_if_no_progress refine Keeps.upd ?_ rfl))

theorem keeps_dtpOpen {σ : State} (s : State) (intact : Bool) (h_s : Keeps σ s) :
    Keeps σ (dtpOpen s intact) := by
  unfold dtpOpen
  repeat' (first
    | with_reducible assumption
    | with_reducible apply Keeps.ite
    | with_reducible apply keeps_State_emit
    | with_reducible apply keeps_newNonce
    | with_reducible apply keeps_dtpDrop
    | (fail_if_no_progress refine Keeps.upd ?_ rfl))

theorem keeps_dtpFrag {σ : State} (s : State) (intact : Bool) (session fragment fragments : Nat) (octs : List Nat) (h_s : Keeps σ s) :
    Keeps σ (dtpFrag s intact session fragment fragments octs) := by
  unfold dtpFrag
  repeat' (first
    | with_reducible assumption
    | with_reducible apply keeps_State_emit
    | with_reducible apply keeps_setSig
    | with_reducible apply keeps_dtpDrop
    | with_reducible apply keeps_dtpPut
    | split)

theorem keeps_dtpRequest {σ : State} (s : State) (d : Datagram) (h_s : Keeps σ s) :
    Keeps σ (dtpRequest s d) := by
  unfold dtpRequest
  repeat' (first
    | with_reducible assumption
    | with_reducible apply Keeps.ite
    | with_reducible apply keeps_State_inc
    | with_reducible apply keeps_State_emit
    | with_reducible apply keeps_takeRequest
    | with_reducible apply keeps_dtpDrop
    | with_reducible apply keeps_dtpPut
    | split)

theorem keeps_dtpTake {σ : State} (s : State) (i : DtpIn) (h_s : Keeps σ s) :
    Keeps σ (dtpTake s i) := by
  unfold dtpTake
  repeat' (first
    | with_reducible assumption
    | with_reducible apply keeps_dtpOpen
    | with_reducible apply keeps_dtpFrag
    | with_reducible apply keeps_dtpRequest
    | split)

theorem keeps_dtpArrive {σ : State} (s : State) (i : DtpIn) (h_s : Keeps σ s) :
    Keeps σ (dtpArrive s i) := by
  unfold dtpArrive
  repeat' (first
    | with_reducible assumption
    | with_reducible apply Keeps.ite
    | with_reducible apply keeps_State_wake
    | with_reducible apply keeps_dtpTake
    | (fail_if_no_progress refine Keeps.upd ?_ rfl))

theorem keeps_releaseKept {σ : State} (s : State) (h_s : Keeps σ s) :
    Keeps σ (releaseKept s) := by
  unfold releaseKept
  repeat' (first | with_reducible assumption | with_reducible apply keeps_dtpTake | split | (fail_if_no_progress refine Keeps.upd ?_ rfl))

theorem keeps_dtpOpenTimeout {σ : State} (s : State) (n : Nat) (h_s : Keeps σ s) :
    Keeps σ (dtpOpenTimeout s n) := by
  unfold dtpOpenTimeout
  repeat' (first | with_reducible assumption | with_reducible apply keeps_dtpEnd | split)

theorem keeps_execDtpDatagramRx {σ : State} (d : Datagram) (s : State) (h_s : Keeps σ s) :
    Keeps.outcome σ (execDtpDatagramRx d s) := by
  unfold execDtpDatagramRx
  repeat' (first | with_reducible assumption | with_reducible apply keeps_dtpArrive | with_reducible apply Keeps.outcome_next)

theorem keeps_execDtpOpen {σ : State} (intact : Bool) (s : State) (h_s : Keeps σ s) :
    Keeps.outcome σ (execDtpOpen intact s) := by
  unfold execDtpOpen
  repeat' (first | with_reducible assumption | with_reducible apply keeps_dtpArrive | with_reducible apply Keeps.outcome_next)

theorem keeps_execDtpSigfrag {σ : State} (intact : Bool) (session fragment fragments len : Nat) (g : TokenSig) (s : State) (h_s : Keeps σ s) :
    Keeps.outcome σ (execDtpSigfrag intact session fragment fragments len g s) := by
  unfold execDtpSigfrag
  repeat' (first | with_reducible assumption | with_reducible apply keeps_dtpArrive | with_reducible apply Keeps.outcome_next)

theorem keeps_execDtpSessionOpenTimeout {σ : State} (session : Nat) (s : State) (h_s : Keeps σ s) :
    Keeps.outcome σ (execDtpSessionOpenTimeout session s) := by
  unfold execDtpSessionOpenTimeout
  repeat' (first | with_reducible assumption | with_reducible apply keeps_dtpOpenTimeout | with_reducible apply Keeps.outcome_next)

end Sys2Proof.Machine
end

