-- ==== Sys2Proof/Laws/Keeps/Requests.lean ====
section
/-! SUPPORT. What the operations of Machine/Requests.lean keep: the invariants of Keeps, one lemma per definition. -/

namespace Sys2Proof.Machine

set_option linter.unusedTactic false
set_option linter.unreachableTactic false
set_option linter.unusedSimpArgs false
set_option linter.unusedVariables false

theorem keeps_rowDeliver {σ : State} (s : State) (ch : Chan) (r : Req) (d : Payload) (h_s : Keeps σ s) :
    Keeps σ (rowDeliver s ch r d) := by
  unfold rowDeliver
  repeat' (first | with_reducible assumption | with_reducible apply Keeps.ite | with_reducible apply keeps_dictDeliver)

theorem keeps_execDictRead {σ : State} (ch : Chan) (r : Req) (addr : Nat) (s : State) (h_s : Keeps σ s) :
    Keeps.outcome σ (execDictRead ch r addr s) := by
  unfold execDictRead
  repeat' (first | with_reducible assumption | with_reducible apply keeps_rowDeliver | with_reducible apply Keeps.outcome_next)

theorem keeps_execDictWrite {σ : State} (ch : Chan) (r : Req) (d : Payload) (s : State) (h_s : Keeps σ s) :
    Keeps.outcome σ (execDictWrite ch r d s) := by
  unfold execDictWrite
  repeat' (first | with_reducible assumption | with_reducible apply keeps_rowDeliver | with_reducible apply Keeps.outcome_next)

theorem keeps_execDescribe {σ : State} (ch : Chan) (r : Req) (s : State) (h_s : Keeps σ s) :
    Keeps.outcome σ (execDescribe ch r s) := by
  unfold execDescribe
  repeat' (first | with_reducible assumption | with_reducible apply keeps_rowDeliver | with_reducible apply Keeps.outcome_next)

theorem keeps_execGroupOpen {σ : State} (ch : Chan) (tag : Nat) (s : State) (h_s : Keeps σ s) :
    Keeps.outcome σ (execGroupOpen ch tag s) := by
  unfold execGroupOpen
  repeat' (first | with_reducible assumption | with_reducible apply keeps_rowDeliver | with_reducible apply Keeps.outcome_next)

theorem keeps_execGroupCommit {σ : State} (ch : Chan) (tag g : Nat) (s : State) (h_s : Keeps σ s) :
    Keeps.outcome σ (execGroupCommit ch tag g s) := by
  unfold execGroupCommit
  repeat' (first | with_reducible assumption | with_reducible apply keeps_rowDeliver | with_reducible apply Keeps.outcome_next)

theorem keeps_execGroupDiscard {σ : State} (ch : Chan) (tag g : Nat) (s : State) (h_s : Keeps σ s) :
    Keeps.outcome σ (execGroupDiscard ch tag g s) := by
  unfold execGroupDiscard
  repeat' (first | with_reducible assumption | with_reducible apply keeps_rowDeliver | with_reducible apply Keeps.outcome_next)

theorem keeps_groupTimeout {σ : State} (s : State) (g : Nat) (h_s : Keeps σ s) :
    Keeps σ (groupTimeout s g) := by
  unfold groupTimeout
  repeat' (first | with_reducible assumption | with_reducible apply keeps_groupClose | split)

theorem keeps_execGroupTimeoutExpiry {σ : State} (g : Nat) (s : State) (h_s : Keeps σ s) :
    Keeps.outcome σ (execGroupTimeoutExpiry g s) := by
  unfold execGroupTimeoutExpiry
  repeat' (first | with_reducible assumption | with_reducible apply keeps_groupTimeout | with_reducible apply Keeps.outcome_next)

theorem keeps_execPersistImageWrite {σ : State} (ch : Chan) (tag : Nat) (d : Payload) (s : State) (h_s : Keeps σ s) :
    Keeps.outcome σ (execPersistImageWrite ch tag d s) := by
  unfold execPersistImageWrite
  repeat' (first | with_reducible assumption | with_reducible apply keeps_writeScalar | with_reducible apply Keeps.outcome_next)

theorem keeps_execOperatorSessionOpen {σ : State} (ch : Chan) (tag : Nat) (t : Token) (s : State) (h_s : Keeps σ s) :
    Keeps.outcome σ (execOperatorSessionOpen ch tag t s) := by
  unfold execOperatorSessionOpen
  repeat' (first | with_reducible assumption | with_reducible apply keeps_writeScalar | with_reducible apply Keeps.outcome_next)

theorem keeps_execOperatorSessionClose {σ : State} (ch : Chan) (tag : Nat) (s : State) (h_s : Keeps σ s) :
    Keeps.outcome σ (execOperatorSessionClose ch tag s) := by
  unfold execOperatorSessionClose
  repeat' (first | with_reducible assumption | with_reducible apply keeps_writeScalar | with_reducible apply Keeps.outcome_next)

theorem keeps_mbxTake {σ : State} (s : State) (n : Nat) (h_s : Keeps σ s) :
    Keeps σ (mbxTake s n) := by
  unfold mbxTake
  repeat' (first
    | with_reducible assumption
    | with_reducible apply Keeps.ite
    | with_reducible apply keeps_State_setH2d
    | with_reducible apply keeps_takeRequest)

theorem keeps_execMbxTake {σ : State} (n : Nat) (s : State) (h_s : Keeps σ s) :
    Keeps.outcome σ (execMbxTake n s) := by
  unfold execMbxTake
  repeat' (first | with_reducible assumption | with_reducible apply keeps_mbxTake | with_reducible apply Keeps.outcome_next)

theorem keeps_peerDict {σ : State} (s : State) (h_s : Keeps σ s) :
    Keeps σ (peerDict s) := by
  unfold peerDict
  repeat' (first
    | with_reducible assumption
    | with_reducible apply keeps_State_takeFrame
    | with_reducible apply keeps_dictDeliver
    | refine Keeps.snd (by assumption) ?_
    | split)

theorem keeps_execPeerDictMessage {σ : State} (s : State) (h_s : Keeps σ s) :
    Keeps.outcome σ (execPeerDictMessage s) := by
  unfold execPeerDictMessage
  repeat' (first
    | with_reducible assumption
    | with_reducible apply Keeps.ite
    | with_reducible apply keeps_peerDict
    | with_reducible apply Keeps.outcome_next)

theorem keeps_execIndirectTransferDone {σ : State} (n : Nat) (d : Payload) (s : State) (h_s : Keeps σ s) :
    Keeps.outcome σ (execIndirectTransferDone n d s) := by
  unfold execIndirectTransferDone
  repeat' (first
    | with_reducible assumption
    | with_reducible apply Keeps.ite
    | with_reducible apply keeps_transferDone
    | with_reducible apply Keeps.outcome_next)

theorem keeps_ringReadFails {σ : State} (s : State) (n addr causeBit : Nat) (h_s : Keeps σ s) :
    Keeps σ (ringReadFails s n addr causeBit) := by
  unfold ringReadFails
  repeat' (first
    | with_reducible assumption
    | with_reducible apply Keeps.ite
    | with_reducible apply keeps_State_setRing
    | with_reducible apply keeps_withIrq
    | with_reducible apply keeps_State_dmaFault
    | refine fun _ => ?_)

theorem keeps_hostReadFails {σ : State} (s : State) (isRing : Bool) (n addr causeBit : Nat) (h_s : Keeps σ s) :
    Keeps σ (hostReadFails s isRing n addr causeBit) := by
  unfold hostReadFails
  repeat' (first
    | with_reducible assumption
    | with_reducible apply Keeps.ite
    | with_reducible apply keeps_transferFails
    | with_reducible apply keeps_ringReadFails)

theorem keeps_execHostReadCompletionTimeout {σ : State} (isRing : Bool) (n addr : Nat) (s : State) (h_s : Keeps σ s) :
    Keeps.outcome σ (execHostReadCompletionTimeout isRing n addr s) := by
  unfold execHostReadCompletionTimeout
  repeat' (first
    | with_reducible assumption
    | with_reducible apply Keeps.ite
    | with_reducible apply keeps_hostReadFails
    | with_reducible apply Keeps.outcome_next)

theorem keeps_execHostReadErrorCompletion {σ : State} (isRing : Bool) (n addr : Nat) (s : State) (h_s : Keeps σ s) :
    Keeps.outcome σ (execHostReadErrorCompletion isRing n addr s) := by
  unfold execHostReadErrorCompletion
  repeat' (first
    | with_reducible assumption
    | with_reducible apply Keeps.ite
    | with_reducible apply keeps_hostReadFails
    | with_reducible apply Keeps.outcome_next)

theorem keeps_execQueueFlush {σ : State} (ch : Chan) (tag g q : Nat) (s : State) (h_s : Keeps σ s) :
    Keeps.outcome σ (execQueueFlush ch tag g q s) := by
  unfold execQueueFlush
  repeat' (first | with_reducible assumption | with_reducible apply keeps_writeElement | with_reducible apply Keeps.outcome_next)

theorem keeps_execLegRegister {σ : State} (ch : Chan) (tag g l : Nat) (s : State) (h_s : Keeps σ s) :
    Keeps.outcome σ (execLegRegister ch tag g l s) := by
  unfold execLegRegister
  repeat' (first | with_reducible assumption | with_reducible apply keeps_writeElement | with_reducible apply Keeps.outcome_next)

theorem keeps_execLegActivate {σ : State} (ch : Chan) (tag g l : Nat) (s : State) (h_s : Keeps σ s) :
    Keeps.outcome σ (execLegActivate ch tag g l s) := by
  unfold execLegActivate
  repeat' (first | with_reducible assumption | with_reducible apply keeps_writeElement | with_reducible apply Keeps.outcome_next)

theorem keeps_execLegDeactivate {σ : State} (ch : Chan) (tag g l : Nat) (s : State) (h_s : Keeps σ s) :
    Keeps.outcome σ (execLegDeactivate ch tag g l s) := by
  unfold execLegDeactivate
  repeat' (first | with_reducible assumption | with_reducible apply keeps_writeElement | with_reducible apply Keeps.outcome_next)

theorem keeps_execLegFree {σ : State} (ch : Chan) (tag g l : Nat) (s : State) (h_s : Keeps σ s) :
    Keeps.outcome σ (execLegFree ch tag g l s) := by
  unfold execLegFree
  repeat' (first | with_reducible assumption | with_reducible apply keeps_writeElement | with_reducible apply Keeps.outcome_next)

theorem keeps_execConfActivate {σ : State} (ch : Chan) (tag g c : Nat) (s : State) (h_s : Keeps σ s) :
    Keeps.outcome σ (execConfActivate ch tag g c s) := by
  unfold execConfActivate
  repeat' (first | with_reducible assumption | with_reducible apply keeps_writeElement | with_reducible apply Keeps.outcome_next)

theorem keeps_execConfFree {σ : State} (ch : Chan) (tag g c : Nat) (s : State) (h_s : Keeps σ s) :
    Keeps.outcome σ (execConfFree ch tag g c s) := by
  unfold execConfFree
  repeat' (first | with_reducible assumption | with_reducible apply keeps_writeElement | with_reducible apply Keeps.outcome_next)

theorem keeps_execAnchorRepoint {σ : State} (ch : Chan) (tag g c : Nat) (isConf : Bool) (v : Nat) (s : State) (h_s : Keeps σ s) :
    Keeps.outcome σ (execAnchorRepoint ch tag g c isConf v s) := by
  unfold execAnchorRepoint
  repeat' (first | with_reducible assumption | with_reducible apply keeps_writeElement | with_reducible apply Keeps.outcome_next)

theorem keeps_execClassifierImageWrite {σ : State} (ch : Chan) (tag g : Nat) (i : Image) (s : State) (h_s : Keeps σ s) :
    Keeps.outcome σ (execClassifierImageWrite ch tag g i s) := by
  unfold execClassifierImageWrite
  repeat' (first | with_reducible assumption | with_reducible apply keeps_writeScalar | with_reducible apply Keeps.outcome_next)

theorem keeps_execTapEnable {σ : State} (ch : Chan) (tag g : Nat) (isLeg : Bool) (id : Nat) (s : State) (h_s : Keeps σ s) :
    Keeps.outcome σ (execTapEnable ch tag g isLeg id s) := by
  unfold execTapEnable
  repeat' (first | with_reducible assumption | with_reducible apply keeps_writeElement | with_reducible apply Keeps.outcome_next)

theorem keeps_execKeySuiteWrite {σ : State} (ch : Chan) (tag g k v : Nat) (s : State) (h_s : Keeps σ s) :
    Keeps.outcome σ (execKeySuiteWrite ch tag g k v s) := by
  unfold execKeySuiteWrite
  repeat' (first | with_reducible assumption | with_reducible apply keeps_writeElement | with_reducible apply Keeps.outcome_next)

theorem keeps_execKeyLoad {σ : State} (ch : Chan) (tag g k len m : Nat) (s : State) (h_s : Keeps σ s) :
    Keeps.outcome σ (execKeyLoad ch tag g k len m s) := by
  unfold execKeyLoad
  repeat' (first | with_reducible assumption | with_reducible apply keeps_writeElement | with_reducible apply Keeps.outcome_next)

theorem keeps_execKeyWrappedLoad {σ : State} (ch : Chan) (tag g k len : Nat) (w : Wrapped) (s : State) (h_s : Keeps σ s) :
    Keeps.outcome σ (execKeyWrappedLoad ch tag g k len w s) := by
  unfold execKeyWrappedLoad
  repeat' (first | with_reducible assumption | with_reducible apply keeps_writeElement | with_reducible apply Keeps.outcome_next)

theorem keeps_execKeyErase {σ : State} (ch : Chan) (tag g k : Nat) (s : State) (h_s : Keeps σ s) :
    Keeps.outcome σ (execKeyErase ch tag g k s) := by
  unfold execKeyErase
  repeat' (first | with_reducible assumption | with_reducible apply keeps_writeElement | with_reducible apply Keeps.outcome_next)

theorem keeps_execCoreOnlineClear {σ : State} (ch : Chan) (tag g j v : Nat) (s : State) (h_s : Keeps σ s) :
    Keeps.outcome σ (execCoreOnlineClear ch tag g j v s) := by
  unfold execCoreOnlineClear
  repeat' (first
    | with_reducible assumption
    | with_reducible apply Keeps.ite
    | with_reducible apply keeps_writeScalar
    | with_reducible apply Keeps.outcome_next)

theorem keeps_execMatenLoad {σ : State} (ch : Chan) (tag g : Nat) (i : Image) (s : State) (h_s : Keeps σ s) :
    Keeps.outcome σ (execMatenLoad ch tag g i s) := by
  unfold execMatenLoad
  repeat' (first | with_reducible assumption | with_reducible apply keeps_writeScalar | with_reducible apply Keeps.outcome_next)

theorem keeps_execMatenUnload {σ : State} (ch : Chan) (tag g n : Nat) (s : State) (h_s : Keeps σ s) :
    Keeps.outcome σ (execMatenUnload ch tag g n s) := by
  unfold execMatenUnload
  repeat' (first | with_reducible assumption | with_reducible apply keeps_writeScalar | with_reducible apply Keeps.outcome_next)

theorem keeps_execDctxEnable {σ : State} (ch : Chan) (tag g d : Nat) (s : State) (h_s : Keeps σ s) :
    Keeps.outcome σ (execDctxEnable ch tag g d s) := by
  unfold execDctxEnable
  repeat' (first | with_reducible assumption | with_reducible apply keeps_writeElement | with_reducible apply Keeps.outcome_next)

theorem keeps_execDctxDisable {σ : State} (ch : Chan) (tag g d : Nat) (s : State) (h_s : Keeps σ s) :
    Keeps.outcome σ (execDctxDisable ch tag g d s) := by
  unfold execDctxDisable
  repeat' (first | with_reducible assumption | with_reducible apply keeps_writeElement | with_reducible apply Keeps.outcome_next)

theorem keeps_execCanvasSetCommit {σ : State} (ch : Chan) (tag g c : Nat) (s : State) (h_s : Keeps σ s) :
    Keeps.outcome σ (execCanvasSetCommit ch tag g c s) := by
  unfold execCanvasSetCommit
  repeat' (first | with_reducible assumption | with_reducible apply keeps_writeElement | with_reducible apply Keeps.outcome_next)

theorem keeps_execOperatorCommit {σ : State} (ch : Chan) (tag g v : Nat) (s : State) (h_s : Keeps σ s) :
    Keeps.outcome σ (execOperatorCommit ch tag g v s) := by
  unfold execOperatorCommit
  repeat' (first | with_reducible assumption | with_reducible apply keeps_writeElement | with_reducible apply Keeps.outcome_next)

theorem keeps_execOperatorImageWrite {σ : State} (ch : Chan) (tag g i : Nat) (img : OpImage) (s : State) (h_s : Keeps σ s) :
    Keeps.outcome σ (execOperatorImageWrite ch tag g i img s) := by
  unfold execOperatorImageWrite
  repeat' (first
    | with_reducible assumption
    | with_reducible apply Keeps.ite
    | with_reducible apply keeps_writeScalar
    | with_reducible apply Keeps.outcome_next)

theorem keeps_execLayoutLoad {σ : State} (ch : Chan) (tag g : Nat) (i : Image) (s : State) (h_s : Keeps σ s) :
    Keeps.outcome σ (execLayoutLoad ch tag g i s) := by
  unfold execLayoutLoad
  repeat' (first | with_reducible assumption | with_reducible apply keeps_writeScalar | with_reducible apply Keeps.outcome_next)

theorem keeps_execLayoutUnload {σ : State} (ch : Chan) (tag g n : Nat) (s : State) (h_s : Keeps σ s) :
    Keeps.outcome σ (execLayoutUnload ch tag g n s) := by
  unfold execLayoutUnload
  repeat' (first | with_reducible assumption | with_reducible apply keeps_writeScalar | with_reducible apply Keeps.outcome_next)

theorem keeps_execActxEnable {σ : State} (ch : Chan) (tag g a : Nat) (s : State) (h_s : Keeps σ s) :
    Keeps.outcome σ (execActxEnable ch tag g a s) := by
  unfold execActxEnable
  repeat' (first | with_reducible assumption | with_reducible apply keeps_writeElement | with_reducible apply Keeps.outcome_next)

theorem keeps_execActxDisable {σ : State} (ch : Chan) (tag g a : Nat) (s : State) (h_s : Keeps σ s) :
    Keeps.outcome σ (execActxDisable ch tag g a s) := by
  unfold execActxDisable
  repeat' (first | with_reducible assumption | with_reducible apply keeps_writeElement | with_reducible apply Keeps.outcome_next)

theorem keeps_execRctxEnable {σ : State} (ch : Chan) (tag g r : Nat) (s : State) (h_s : Keeps σ s) :
    Keeps.outcome σ (execRctxEnable ch tag g r s) := by
  unfold execRctxEnable
  repeat' (first | with_reducible assumption | with_reducible apply keeps_writeElement | with_reducible apply Keeps.outcome_next)

theorem keeps_execRctxDisable {σ : State} (ch : Chan) (tag g r : Nat) (s : State) (h_s : Keeps σ s) :
    Keeps.outcome σ (execRctxDisable ch tag g r s) := by
  unfold execRctxDisable
  repeat' (first | with_reducible assumption | with_reducible apply keeps_writeElement | with_reducible apply Keeps.outcome_next)

theorem keeps_execRcLoad {σ : State} (ch : Chan) (tag g : Nat) (i : Image) (s : State) (h_s : Keeps σ s) :
    Keeps.outcome σ (execRcLoad ch tag g i s) := by
  unfold execRcLoad
  repeat' (first | with_reducible assumption | with_reducible apply keeps_writeScalar | with_reducible apply Keeps.outcome_next)

theorem keeps_execRcUnload {σ : State} (ch : Chan) (tag g n : Nat) (s : State) (h_s : Keeps σ s) :
    Keeps.outcome σ (execRcUnload ch tag g n s) := by
  unfold execRcUnload
  repeat' (first | with_reducible assumption | with_reducible apply keeps_writeScalar | with_reducible apply Keeps.outcome_next)

theorem keeps_execRctxKeyRequest {σ : State} (ch : Chan) (tag g r : Nat) (s : State) (h_s : Keeps σ s) :
    Keeps.outcome σ (execRctxKeyRequest ch tag g r s) := by
  unfold execRctxKeyRequest
  repeat' (first | with_reducible assumption | with_reducible apply keeps_writeElement | with_reducible apply Keeps.outcome_next)

theorem keeps_execFeedModeWrite {σ : State} (ch : Chan) (tag g l f v : Nat) (s : State) (h_s : Keeps σ s) :
    Keeps.outcome σ (execFeedModeWrite ch tag g l f v s) := by
  unfold execFeedModeWrite
  repeat' (first
    | with_reducible assumption
    | with_reducible apply Keeps.ite
    | with_reducible apply keeps_writeElement
    | with_reducible apply Keeps.outcome_next)

theorem keeps_execFeedFixedSelect {σ : State} (ch : Chan) (tag g l f v : Nat) (s : State) (h_s : Keeps σ s) :
    Keeps.outcome σ (execFeedFixedSelect ch tag g l f v s) := by
  unfold execFeedFixedSelect
  repeat' (first
    | with_reducible assumption
    | with_reducible apply Keeps.ite
    | with_reducible apply keeps_writeElement
    | with_reducible apply Keeps.outcome_next)

theorem keeps_execAdaptLoad {σ : State} (ch : Chan) (tag g : Nat) (i : Image) (s : State) (h_s : Keeps σ s) :
    Keeps.outcome σ (execAdaptLoad ch tag g i s) := by
  unfold execAdaptLoad
  repeat' (first | with_reducible assumption | with_reducible apply keeps_writeScalar | with_reducible apply Keeps.outcome_next)

theorem keeps_execAdaptUnload {σ : State} (ch : Chan) (tag g n : Nat) (s : State) (h_s : Keeps σ s) :
    Keeps.outcome σ (execAdaptUnload ch tag g n s) := by
  unfold execAdaptUnload
  repeat' (first | with_reducible assumption | with_reducible apply keeps_writeScalar | with_reducible apply Keeps.outcome_next)

theorem keeps_execLegShaperWrite {σ : State} (ch : Chan) (tag g l sub v : Nat) (s : State) (h_s : Keeps σ s) :
    Keeps.outcome σ (execLegShaperWrite ch tag g l sub v s) := by
  unfold execLegShaperWrite
  repeat' (first | with_reducible assumption | with_reducible apply keeps_writeElement | with_reducible apply Keeps.outcome_next)

theorem keeps_execGroupShaperWrite {σ : State} (ch : Chan) (tag g : Nat) (isPort : Bool) (k sub v : Nat) (s : State) (h_s : Keeps σ s) :
    Keeps.outcome σ (execGroupShaperWrite ch tag g isPort k sub v s) := by
  unfold execGroupShaperWrite
  repeat' (first
    | with_reducible assumption
    | with_reducible apply Keeps.ite
    | with_reducible apply keeps_writeScalar
    | with_reducible apply Keeps.outcome_next)

theorem keeps_execPartApply {σ : State} (ch : Chan) (tag g : Nat) (s : State) (h_s : Keeps σ s) :
    Keeps.outcome σ (execPartApply ch tag g s) := by
  unfold execPartApply
  repeat' (first | with_reducible assumption | with_reducible apply keeps_writeScalar | with_reducible apply Keeps.outcome_next)

theorem keeps_execHostReadWindowsWrite {σ : State} (ch : Chan) (tag g v : Nat) (s : State) (h_s : Keeps σ s) :
    Keeps.outcome σ (execHostReadWindowsWrite ch tag g v s) := by
  unfold execHostReadWindowsWrite
  repeat' (first | with_reducible assumption | with_reducible apply keeps_writeScalar | with_reducible apply Keeps.outcome_next)

theorem keeps_execNqPortEnable {σ : State} (ch : Chan) (tag g p : Nat) (s : State) (h_s : Keeps σ s) :
    Keeps.outcome σ (execNqPortEnable ch tag g p s) := by
  unfold execNqPortEnable
  repeat' (first
    | with_reducible assumption
    | with_reducible apply Keeps.ite
    | with_reducible apply keeps_writeScalar
    | with_reducible apply Keeps.outcome_next)

theorem keeps_execNqPortDisable {σ : State} (ch : Chan) (tag g p : Nat) (s : State) (h_s : Keeps σ s) :
    Keeps.outcome σ (execNqPortDisable ch tag g p s) := by
  unfold execNqPortDisable
  repeat' (first
    | with_reducible assumption
    | with_reducible apply Keeps.ite
    | with_reducible apply keeps_writeScalar
    | with_reducible apply Keeps.outcome_next)

theorem keeps_execFdevWrite {σ : State} (ch : Chan) (tag g v : Nat) (s : State) (h_s : Keeps σ s) :
    Keeps.outcome σ (execFdevWrite ch tag g v s) := by
  unfold execFdevWrite
  repeat' (first | with_reducible assumption | with_reducible apply keeps_writeScalar | with_reducible apply Keeps.outcome_next)

theorem keeps_execTwinModePair {σ : State} (ch : Chan) (tag g : Nat) (s : State) (h_s : Keeps σ s) :
    Keeps.outcome σ (execTwinModePair ch tag g s) := by
  unfold execTwinModePair
  repeat' (first | with_reducible assumption | with_reducible apply keeps_writeScalar | with_reducible apply Keeps.outcome_next)

theorem keeps_execTwinModeSolo {σ : State} (ch : Chan) (tag g : Nat) (s : State) (h_s : Keeps σ s) :
    Keeps.outcome σ (execTwinModeSolo ch tag g s) := by
  unfold execTwinModeSolo
  repeat' (first | with_reducible assumption | with_reducible apply keeps_writeScalar | with_reducible apply Keeps.outcome_next)

theorem keeps_execTwinHandover {σ : State} (ch : Chan) (tag g : Nat) (s : State) (h_s : Keeps σ s) :
    Keeps.outcome σ (execTwinHandover ch tag g s) := by
  unfold execTwinHandover
  repeat' (first | with_reducible assumption | with_reducible apply keeps_writeScalar | with_reducible apply Keeps.outcome_next)

theorem keeps_execTwinResync {σ : State} (ch : Chan) (tag g : Nat) (s : State) (h_s : Keeps σ s) :
    Keeps.outcome σ (execTwinResync ch tag g s) := by
  unfold execTwinResync
  repeat' (first | with_reducible assumption | with_reducible apply keeps_writeScalar | with_reducible apply Keeps.outcome_next)

theorem keeps_execPulseWrite {σ : State} (ch : Chan) (tag g n sub v : Nat) (s : State) (h_s : Keeps σ s) :
    Keeps.outcome σ (execPulseWrite ch tag g n sub v s) := by
  unfold execPulseWrite
  repeat' (first
    | with_reducible assumption
    | with_reducible apply Keeps.ite
    | with_reducible apply keeps_writeScalar
    | with_reducible apply Keeps.outcome_next)

theorem keeps_execHostTodWrite {σ : State} (ch : Chan) (tag g v : Nat) (s : State) (h_s : Keeps σ s) :
    Keeps.outcome σ (execHostTodWrite ch tag g v s) := by
  unfold execHostTodWrite
  repeat' (first | with_reducible assumption | with_reducible apply keeps_writeScalar | with_reducible apply Keeps.outcome_next)

theorem keeps_execTargetWrite {σ : State} (ch : Chan) (tag g v : Nat) (s : State) (h_s : Keeps σ s) :
    Keeps.outcome σ (execTargetWrite ch tag g v s) := by
  unfold execTargetWrite
  repeat' (first | with_reducible assumption | with_reducible apply keeps_writeScalar | with_reducible apply Keeps.outcome_next)

theorem keeps_execSeasonScriptsWrite {σ : State} (ch : Chan) (tag g : Nat) (i : Image) (s : State) (h_s : Keeps σ s) :
    Keeps.outcome σ (execSeasonScriptsWrite ch tag g i s) := by
  unfold execSeasonScriptsWrite
  repeat' (first | with_reducible assumption | with_reducible apply keeps_writeScalar | with_reducible apply Keeps.outcome_next)

theorem keeps_withBlow {σ : State} (blown : Bool) (f : State → State) (s : State) (h_f : ∀ x0, Keeps σ x0 → Keeps σ (f x0)) (h_s : Keeps σ s) :
    Keeps σ (withBlow blown f s) := by
  unfold withBlow
  repeat' (first | with_reducible assumption | with_reducible apply h_f | (fail_if_no_progress refine Keeps.upd ?_ rfl))

theorem keeps_execLifecycleAdvance {σ : State} (ch : Chan) (tag g v : Nat) (blown : Bool) (s : State) (h_s : Keeps σ s) :
    Keeps.outcome σ (execLifecycleAdvance ch tag g v blown s) := by
  unfold execLifecycleAdvance
  repeat' (first
    | with_reducible assumption
    | with_reducible apply keeps_writeScalar
    | with_reducible apply keeps_withBlow
    | with_reducible apply Keeps.outcome_next
    | refine fun _ => ?_)

theorem keeps_execIdentityGenerate {σ : State} (ch : Chan) (tag g : Nat) (blown : Bool) (s : State) (h_s : Keeps σ s) :
    Keeps.outcome σ (execIdentityGenerate ch tag g blown s) := by
  unfold execIdentityGenerate
  repeat' (first
    | with_reducible assumption
    | with_reducible apply keeps_writeScalar
    | with_reducible apply keeps_withBlow
    | with_reducible apply Keeps.outcome_next
    | refine fun _ => ?_)

theorem keeps_execOwnerHashWrite {σ : State} (ch : Chan) (tag g slot v : Nat) (blown : Bool) (s : State) (h_s : Keeps σ s) :
    Keeps.outcome σ (execOwnerHashWrite ch tag g slot v blown s) := by
  unfold execOwnerHashWrite
  repeat' (first
    | with_reducible assumption
    | with_reducible apply Keeps.ite
    | with_reducible apply keeps_writeScalar
    | with_reducible apply keeps_withBlow
    | with_reducible apply Keeps.outcome_next
    | refine fun _ => ?_)

theorem keeps_execOwnerKekWrite {σ : State} (ch : Chan) (tag g v : Nat) (blown : Bool) (s : State) (h_s : Keeps σ s) :
    Keeps.outcome σ (execOwnerKekWrite ch tag g v blown s) := by
  unfold execOwnerKekWrite
  repeat' (first
    | with_reducible assumption
    | with_reducible apply keeps_writeScalar
    | with_reducible apply keeps_withBlow
    | with_reducible apply Keeps.outcome_next
    | refine fun _ => ?_)

theorem keeps_execOwnerRevokeWrite {σ : State} (ch : Chan) (tag g v : Nat) (blown : Bool) (s : State) (h_s : Keeps σ s) :
    Keeps.outcome σ (execOwnerRevokeWrite ch tag g v blown s) := by
  unfold execOwnerRevokeWrite
  repeat' (first
    | with_reducible assumption
    | with_reducible apply keeps_writeScalar
    | with_reducible apply keeps_withBlow
    | with_reducible apply Keeps.outcome_next
    | refine fun _ => ?_)

theorem keeps_execBootPolicyWrite {σ : State} (ch : Chan) (tag g v : Nat) (blown : Bool) (s : State) (h_s : Keeps σ s) :
    Keeps.outcome σ (execBootPolicyWrite ch tag g v blown s) := by
  unfold execBootPolicyWrite
  repeat' (first
    | with_reducible assumption
    | with_reducible apply keeps_writeScalar
    | with_reducible apply keeps_withBlow
    | with_reducible apply Keeps.outcome_next
    | refine fun _ => ?_)

theorem keeps_execMinVersionCommit {σ : State} (ch : Chan) (tag g v : Nat) (blown : Bool) (s : State) (h_s : Keeps σ s) :
    Keeps.outcome σ (execMinVersionCommit ch tag g v blown s) := by
  unfold execMinVersionCommit
  repeat' (first
    | with_reducible assumption
    | with_reducible apply keeps_writeScalar
    | with_reducible apply keeps_withBlow
    | with_reducible apply Keeps.outcome_next
    | refine fun _ => ?_)

theorem keeps_execFrostWrite {σ : State} (ch : Chan) (tag g v : Nat) (s : State) (h_s : Keeps σ s) :
    Keeps.outcome σ (execFrostWrite ch tag g v s) := by
  unfold execFrostWrite
  repeat' (first | with_reducible assumption | with_reducible apply keeps_writeScalar | with_reducible apply Keeps.outcome_next)

theorem keeps_execTokenSignatureWrite {σ : State} (ch : Chan) (tag g : Nat) (sig : TokenSig) (s : State) (h_s : Keeps σ s) :
    Keeps.outcome σ (execTokenSignatureWrite ch tag g sig s) := by
  unfold execTokenSignatureWrite
  repeat' (first | with_reducible assumption | with_reducible apply keeps_writeScalar | with_reducible apply Keeps.outcome_next)

theorem keeps_execDebugUnlock {σ : State} (ch : Chan) (tag g : Nat) (t : Token) (s : State) (h_s : Keeps σ s) :
    Keeps.outcome σ (execDebugUnlock ch tag g t s) := by
  unfold execDebugUnlock
  repeat' (first | with_reducible assumption | with_reducible apply keeps_writeScalar | with_reducible apply Keeps.outcome_next)

theorem keeps_execDebugClose {σ : State} (ch : Chan) (tag g : Nat) (s : State) (h_s : Keeps σ s) :
    Keeps.outcome σ (execDebugClose ch tag g s) := by
  unfold execDebugClose
  repeat' (first | with_reducible assumption | with_reducible apply keeps_writeScalar | with_reducible apply Keeps.outcome_next)

theorem keeps_execAttestRequest {σ : State} (ch : Chan) (tag g nonce : Nat) (blown : Bool) (s : State) (h_s : Keeps σ s) :
    Keeps.outcome σ (execAttestRequest ch tag g nonce blown s) := by
  unfold execAttestRequest
  repeat' (first
    | with_reducible assumption
    | with_reducible apply keeps_writeScalar
    | with_reducible apply keeps_withBlow
    | with_reducible apply Keeps.outcome_next
    | refine fun _ => ?_)

theorem keeps_execChallengeRead {σ : State} (ch : Chan) (tag : Nat) (s : State) (h_s : Keeps σ s) :
    Keeps.outcome σ (execChallengeRead ch tag s) := by
  unfold execChallengeRead
  repeat' (first | with_reducible assumption | with_reducible apply keeps_rowDeliver | with_reducible apply Keeps.outcome_next)

theorem keeps_execAttestReportRead {σ : State} (ch : Chan) (tag addr : Nat) (s : State) (h_s : Keeps σ s) :
    Keeps.outcome σ (execAttestReportRead ch tag addr s) := by
  unfold execAttestReportRead
  repeat' (first | with_reducible assumption | with_reducible apply keeps_rowDeliver | with_reducible apply Keeps.outcome_next)

theorem keeps_execLogSelectWrite {σ : State} (ch : Chan) (tag g v : Nat) (s : State) (h_s : Keeps σ s) :
    Keeps.outcome σ (execLogSelectWrite ch tag g v s) := by
  unfold execLogSelectWrite
  repeat' (first | with_reducible assumption | with_reducible apply keeps_writeScalar | with_reducible apply Keeps.outcome_next)

theorem keeps_execScanGo {σ : State} (ch : Chan) (tag g : Nat) (s : State) (h_s : Keeps σ s) :
    Keeps.outcome σ (execScanGo ch tag g s) := by
  unfold execScanGo
  repeat' (first | with_reducible assumption | with_reducible apply keeps_writeScalar | with_reducible apply Keeps.outcome_next)

end Sys2Proof.Machine
end

