-- ==== Sys2Proof/Laws/Keeps/Boundary.lean ====
section
/-! SUPPORT. What the operations of Machine/Boundary.lean keep: the invariants of Keeps, one lemma per definition. -/

namespace Sys2Proof.Machine

set_option linter.unusedTactic false
set_option linter.unreachableTactic false
set_option linter.unusedSimpArgs false
set_option linter.unusedVariables false

theorem keeps_postDecode {σ : State} (n : Nat) (s : State) (l : Nat) (h_s : Keeps σ s) :
    Keeps σ (postDecode n s l) := by
  unfold postDecode
  repeat' (first | with_reducible assumption | with_reducible apply Keeps.ite | with_reducible apply keeps_State_post)

theorem keeps_dueEffect {σ : State} (k : Nat) (s : State) (d : Deferred) (h_s : Keeps σ s) :
    Keeps σ (dueEffect k s d) := by
  unfold dueEffect
  repeat' (first
    | with_reducible assumption
    | with_reducible apply Keeps.ite
    | with_reducible apply keeps_withWrites
    | with_reducible apply keeps_activateTick
    | with_reducible apply keeps_notifySend
    | with_reducible apply keeps_applyOthers)

theorem keeps_dueEffects {σ : State} (s : State) (isTick : Bool) (k : Nat) (h_s : Keeps σ s) :
    Keeps σ (dueEffects s isTick k) := by
  unfold dueEffects
  repeat' (first
    | with_reducible assumption
    | with_reducible apply Keeps.ite
    | with_reducible apply keeps_dueEffect
    | with_reducible refine Keeps.foldl ?_ (fun u a hu => ?_)
    | (fail_if_no_progress refine Keeps.upd ?_ rfl))

theorem keeps_mixFrame {σ : State} (s : State) (h_s : Keeps σ s) :
    Keeps σ (mixFrame s) := by
  unfold mixFrame
  repeat' (first
    | with_reducible assumption
    | with_reducible apply Keeps.ite
    | with_reducible apply keeps_legTurns
    | with_reducible apply keeps_followRoute
    | with_reducible apply keeps_postDecode
    | with_reducible apply keeps_dueEffects
    | with_reducible refine Keeps.foldl ?_ (fun u a hu => ?_)
    | (fail_if_no_progress refine Keeps.upd ?_ rfl))

theorem keeps_execMixFrameBoundary {σ : State} (s : State) (h_s : Keeps σ s) :
    Keeps.outcome σ (execMixFrameBoundary s) := by
  unfold execMixFrameBoundary
  repeat' (first
    | with_reducible assumption
    | with_reducible apply Keeps.ite
    | with_reducible apply keeps_mixFrame
    | with_reducible apply Keeps.outcome_next)

theorem keeps_solsticeTick {σ : State} (s : State) (h_s : Keeps σ s) :
    Keeps σ (solsticeTick s) := by
  unfold solsticeTick
  repeat' (first
    | with_reducible assumption
    | with_reducible apply Keeps.ite
    | with_reducible apply keeps_composeTick
    | with_reducible apply keeps_encodeTick
    | with_reducible apply keeps_dueEffects
    | (fail_if_no_progress refine Keeps.upd ?_ rfl))

theorem keeps_execSolsticeTick {σ : State} (s : State) (h_s : Keeps σ s) :
    Keeps.outcome σ (execSolsticeTick s) := by
  unfold execSolsticeTick
  repeat' (first
    | with_reducible assumption
    | with_reducible apply Keeps.ite
    | with_reducible apply keeps_solsticeTick
    | with_reducible apply Keeps.outcome_next)

theorem keeps_layoutGroup {σ : State} (s : State) (c : Nat) (writes : List (Nat × Nat × Nat × Nat)) (doCommit : Bool)
    (h_s : Keeps σ s) : Keeps σ (layoutGroup s c writes doCommit).2 := by
  unfold layoutGroup
  generalize ctxAt s .fw .firmware (layoutCommitReq c) 0 s.tod = x0
  dsimp only
  refine Keeps.ite_snd h_s ?_
  generalize List.filterMap _ writes = fs
  have h := keeps_writeFields { x0 with inGroup := true, shadow := true } fs s h_s
  split
  · rename_i t e
    have ht := Keeps.snd e h
    split
    · have hc := keeps_commit t [c] (fun _ => false) [] x0.tickDue none ht
      split
      · rename_i e1
        exact Keeps.snd e1 hc
      · exact h_s
    · exact ht
  · exact h_s

theorem keeps_layoutEnd {σ : State} (s : State) (c : Nat) (writes : List (Nat × Nat × Nat × Nat)) (doCommit : Bool) (h_s : Keeps σ s) :
    Keeps σ (layoutEnd s c writes doCommit) := by
  unfold layoutEnd
  repeat' (first
    | with_reducible assumption
    | with_reducible apply Keeps.ite
    | with_reducible apply keeps_State_inc
    | with_reducible apply keeps_State_event
    | with_reducible apply keeps_State_setCs
    | with_reducible apply keeps_journalAll
    | with_reducible apply keeps_layoutGroup
    | ((try lift_lets); intro x; try unfold x)
    | refine Keeps.snd (by assumption) ?_
    | split)

theorem keeps_execLayoutRunEnd {σ : State} (c : Nat) (writes : List (Nat × Nat × Nat × Nat)) (doCommit : Bool) (s : State) (h_s : Keeps σ s) :
    Keeps.outcome σ (execLayoutRunEnd c writes doCommit s) := by
  unfold execLayoutRunEnd
  repeat' (first
    | with_reducible assumption
    | with_reducible apply Keeps.ite
    | with_reducible apply keeps_layoutEnd
    | with_reducible apply Keeps.outcome_next)

theorem keeps_retireComplete {σ : State} (s : State) (n : Nat) (h_s : Keeps σ s) :
    Keeps σ (retireComplete s n) := by
  unfold retireComplete
  repeat' (first | with_reducible assumption | with_reducible apply Keeps.ite | (fail_if_no_progress refine Keeps.upd ?_ rfl))

theorem keeps_execProgramRetireComplete {σ : State} (n : Nat) (s : State) (h_s : Keeps σ s) :
    Keeps.outcome σ (execProgramRetireComplete n s) := by
  unfold execProgramRetireComplete
  repeat' (first
    | with_reducible assumption
    | with_reducible apply Keeps.ite
    | with_reducible apply keeps_retireComplete
    | with_reducible apply Keeps.outcome_next)

theorem keeps_summerReached {σ : State} (s : State) (h_s : Keeps σ s) :
    Keeps σ (summerReached s) := by
  unfold summerReached
  repeat' (first
    | with_reducible assumption
    | with_reducible apply Keeps.ite
    | with_reducible apply keeps_State_enterSeason
    | with_reducible apply keeps_releaseSummer
    | (fail_if_no_progress refine Keeps.upd ?_ rfl))

theorem keeps_execSummerReached {σ : State} (s : State) (h_s : Keeps σ s) :
    Keeps.outcome σ (execSummerReached s) := by
  unfold execSummerReached
  repeat' (first
    | with_reducible assumption
    | with_reducible apply Keeps.ite
    | with_reducible apply keeps_summerReached
    | with_reducible apply Keeps.outcome_next)

theorem keeps_fwWrite {σ : State} (ix sub v : Nat) (s : State) (el : Nat) (h_s : Keeps σ s) :
    Keeps σ (fwWrite ix sub v s el) := by
  unfold fwWrite
  repeat' (first | with_reducible assumption | with_reducible apply Keeps.ite | with_reducible apply keeps_enter)

theorem keeps_fwDisableSet {σ : State} (s : State) (c : Nat) (h_s : Keeps σ s) :
    Keeps σ (fwDisableSet s c) := by
  unfold fwDisableSet
  repeat' (first | with_reducible assumption | with_reducible apply Keeps.ite | with_reducible apply keeps_enter)

theorem keeps_autumnLimit {σ : State} (s : State) (h_s : Keeps σ s) :
    Keeps σ (autumnLimit s) := by
  unfold autumnLimit
  repeat' (first
    | with_reducible assumption
    | with_reducible apply Keeps.ite
    | with_reducible apply keeps_State_event
    | with_reducible apply keeps_fwWrite
    | with_reducible apply keeps_fwDisableSet
    | with_reducible refine Keeps.foldl ?_ (fun u a hu => ?_)
    | (fail_if_no_progress refine Keeps.upd ?_ rfl))

theorem keeps_execAutumnLimitExpiry {σ : State} (s : State) (h_s : Keeps σ s) :
    Keeps.outcome σ (execAutumnLimitExpiry s) := by
  unfold execAutumnLimitExpiry
  repeat' (first
    | with_reducible assumption
    | with_reducible apply Keeps.ite
    | with_reducible apply keeps_autumnLimit
    | with_reducible apply Keeps.outcome_next)

theorem keeps_thawEnd {σ : State} (s : State) (h_s : Keeps σ s) :
    Keeps σ (thawEnd s) := by
  unfold thawEnd
  repeat' (first
    | with_reducible assumption
    | with_reducible apply Keeps.ite
    | with_reducible apply keeps_mailThaw
    | with_reducible apply keeps_thawComplete
    | with_reducible apply keeps_releaseTaken
    | with_reducible apply keeps_releaseKept)

theorem keeps_execThawComplete {σ : State} (s : State) (h_s : Keeps σ s) :
    Keeps.outcome σ (execThawComplete s) := by
  unfold execThawComplete
  repeat' (first
    | with_reducible assumption
    | with_reducible apply Keeps.ite
    | with_reducible apply keeps_thawEnd
    | with_reducible apply Keeps.outcome_next)

theorem keeps_functionReset {σ : State} (s : State) (h_s : Keeps σ s) :
    Keeps σ (functionReset s) := by
  unfold functionReset
  repeat' (first
    | with_reducible assumption
    | with_reducible apply Keeps.ite
    | with_reducible apply keeps_sessionClose
    | with_reducible refine Keeps.foldl ?_ (fun u a hu => ?_)
    | (fail_if_no_progress refine Keeps.upd ?_ rfl))

theorem keeps_execFunctionLevelReset {σ : State} (s : State) (h_s : Keeps σ s) :
    Keeps.outcome σ (execFunctionLevelReset s) := by
  unfold execFunctionLevelReset
  repeat' (first
    | with_reducible assumption
    | with_reducible apply Keeps.ite
    | with_reducible apply keeps_functionReset
    | with_reducible apply Keeps.outcome_next)

theorem keeps_pageGate {σ : State} (s : State) (p lo : Nat) (h_s : Keeps σ s) : Keeps σ (pageGate s p lo).2 := by
  unfold pageGate
  have h := keeps_opPages s lo pageOctets h_s
  generalize opPages s lo pageOctets = r at h ⊢
  exact Keeps.ite_snd h_s (Keeps.ite_snd (Keeps.ite_snd h h_s) h_s)

theorem keeps_bar2Gate {σ : State} (s : State) (a : Nat) (h_s : Keeps σ s) : Keeps σ (bar2Gate s a).2 := by
  unfold bar2Gate
  exact Keeps.ite_snd h_s (keeps_pageGate _ _ _ h_s)

theorem keeps_bar2Denied {σ : State} (s : State) (write : Bool) (a n : Nat) (h_s : Keeps σ s) :
    Keeps σ (bar2Denied s write a n) := by
  unfold bar2Denied
  repeat' (first
    | with_reducible assumption
    | with_reducible apply Keeps.ite
    | with_reducible apply keeps_State_aer
    | (fail_if_no_progress refine Keeps.upd ?_ rfl))

theorem keeps_bar2Read {σ : State} (s : State) (a n : Nat) (h_s : Keeps σ s) :
    Keeps σ (bar2Read s a n) := by
  unfold bar2Read
  repeat' (first
    | with_reducible assumption
    | with_reducible apply Keeps.ite
    | with_reducible apply keeps_State_emit
    | with_reducible apply keeps_State_moved
    | with_reducible apply keeps_bar2Gate
    | with_reducible apply keeps_bar2Denied
    | refine Keeps.snd (by assumption) ?_
    | split)

theorem keeps_bar2Write {σ : State} (s : State) (a : Nat) (octets : List Byte) (h_s : Keeps σ s) :
    Keeps σ (bar2Write s a octets) := by
  unfold bar2Write
  repeat' (first
    | with_reducible assumption
    | with_reducible apply Keeps.ite
    | with_reducible apply keeps_State_wrByte
    | with_reducible apply keeps_State_heal
    | with_reducible apply keeps_State_moved
    | with_reducible apply keeps_bar2Gate
    | with_reducible apply keeps_bar2Denied
    | with_reducible refine Keeps.foldl ?_ (fun u a hu => ?_)
    | refine Keeps.snd (by assumption) ?_
    | split)

theorem keeps_execBar2Read {σ : State} (a n : Nat) (s : State) (h_s : Keeps σ s) :
    Keeps.outcome σ (execBar2Read a n s) := by
  unfold execBar2Read
  repeat' (first
    | with_reducible assumption
    | with_reducible apply Keeps.ite
    | with_reducible apply keeps_bar2Read
    | with_reducible apply Keeps.outcome_next)

theorem keeps_execBar2Write {σ : State} (a : Nat) (octets : List Byte) (s : State) (h_s : Keeps σ s) :
    Keeps.outcome σ (execBar2Write a octets s) := by
  unfold execBar2Write
  repeat' (first
    | with_reducible assumption
    | with_reducible apply Keeps.ite
    | with_reducible apply keeps_bar2Write
    | with_reducible apply Keeps.outcome_next)

end Sys2Proof.Machine
end

