-- ==== Sys2Proof/Laws/Keeps/Journal.lean ====
section
/-! SUPPORT. What the operations of Machine/Journal.lean keep: the invariants of Keeps, one lemma per definition. -/

namespace Sys2Proof.Machine

set_option linter.unusedTactic false
set_option linter.unreachableTactic false
set_option linter.unusedSimpArgs false
set_option linter.unusedVariables false

theorem keeps_twinPlain {σ : State} (p : Principal) (instant : Nat) (ws : List Staged) (s : State) (h_s : Keeps σ s) :
    Keeps σ (twinPlain p instant ws s).2 := by
  induction ws generalizing s with
  | nil => exact h_s
  | cons w r ih =>
    unfold twinPlain
    have h := keeps_writePlain (twinCtx s p instant w.req) s w.req w.data w.req.length h_s
    split
    · rename_i e
      exact ih _ (Keeps.mid4 e h)
    · exact h_s

theorem keeps_twinWrites {σ : State} (s : State) (p : Principal) (instant : Nat) (ws : List Staged) (h_s : Keeps σ s) :
    Keeps σ (twinWrites s p instant ws).2 := by
  unfold twinWrites
  repeat' (first
    | with_reducible assumption
    | with_reducible apply Keeps.ite_snd
    | with_reducible apply keeps_groupApply
    | with_reducible apply keeps_twinPlain
    | refine fun _ => ?_)

theorem keeps_twinKey {σ : State} (s : State) (k suite gen : Nat) (w : Wrapped) (h_s : Keeps σ s) :
    Keeps.opt σ (twinKey s k suite gen w) := by
  unfold twinKey
  generalize twinMaterial s suite w = o
  cases o with
  | none => exact trivial
  | some m => exact keeps_State_wr _ _ _ (keeps_storeKey _ _ _ (keeps_State_wr _ _ _ h_s))

theorem keeps_twinKeys {σ : State} (bs : List JBody) (s : State) (h_s : Keeps σ s) : Keeps.opt σ (twinKeys bs s) := by
  induction bs generalizing s with
  | nil => exact h_s
  | cons b r ih =>
    cases b with
    | key k suite gen w =>
      show Keeps.opt σ ((twinKey s k suite gen w).bind (twinKeys r))
      have h := keeps_twinKey s k suite gen w h_s
      generalize twinKey s k suite gen w = o at h ⊢
      cases o with
      | none => exact trivial
      | some t => exact ih _ h
    | _ => exact ih _ h_s

theorem keeps_twinRequest {σ : State} (s : State) (p instant : Nat) (bs : List JBody) (h_s : Keeps σ s) :
    Keeps.opt σ (twinRequest s p instant bs) := by
  have h0 : ∀ t ws, (if instant = 0 then (twinKeys bs s).map (fun t => (t, stagedOf bs)) else (stagedKeys s bs).map (fun ws => (s, ws)))
      = some (t, ws) → Keeps σ t := by
    intro t ws e
    split at e
    · have h := keeps_twinKeys bs s h_s
      generalize twinKeys bs s = o at h e
      cases o with
      | none => cases e
      | some u => cases e; exact h
    · generalize stagedKeys s bs = o at e
      cases o with
      | none => cases e
      | some u => cases e; exact h_s
  unfold twinRequest
  split
  · exact trivial
  · rename_i t ws e
    have h := keeps_twinWrites t (principalOf p) instant ws (h0 t ws e)
    split
    · rename_i e1
      exact Keeps.opt_some (Keeps.ite (keeps_dueEffects _ _ _ (keeps_dueEffects _ _ _ (Keeps.snd e1 h))) (Keeps.snd e1 h))
    · exact trivial

theorem keeps_twinWindow {σ : State} (s : State) (l : Nat) (send : Bool) (e w : Nat) (h_s : Keeps σ s) :
    Keeps σ (twinWindow s l send e w) := by
  unfold twinWindow
  repeat' (first
    | with_reducible assumption
    | with_reducible apply Keeps.ite
    | with_reducible apply keeps_State_setRxE
    | with_reducible apply keeps_State_setTxE
    | ((try lift_lets); intro x; refine (have hx : Keeps σ x := ?a; ?b); case' a => unfold x; case' b => clear_value x))

theorem keeps_acceptedOr {σ : State} (r : Nat × State) (s : State) (h_r : Keeps σ r.2) (h_s : Keeps σ s) :
    Keeps σ (acceptedOr r s) := by
  unfold acceptedOr
  repeat' (first | with_reducible assumption | with_reducible apply Keeps.ite | refine Keeps.snd (by assumption) ?_)

theorem keeps_twinLearn {σ : State} (s : State) (l e ssrc : Nat) (h_s : Keeps σ s) :
    Keeps σ (twinLearn s l e ssrc) := by
  unfold twinLearn
  repeat' (first
    | with_reducible assumption
    | with_reducible apply Keeps.ite
    | with_reducible apply keeps_State_wr
    | with_reducible apply keeps_clsReserve
    | with_reducible apply keeps_acceptedOr
    | refine fun _ => ?_)

theorem keeps_noteSum {σ : State} (s : State) (j : Nat) (h_s : Keeps σ s) :
    Keeps σ (noteSum s j) := by
  unfold noteSum
  repeat' (first | with_reducible assumption | refine Keeps.snd (by assumption) ?_ | (fail_if_no_progress refine Keeps.upd ?_ rfl))

theorem keeps_applyEntries {σ : State} (es acc : List JEntry) (s : State) (h_s : Keeps σ s) :
    Keeps σ (applyEntries es acc s).2.1 := by
  induction es generalizing acc s with
  | nil => exact h_s
  | cons e r ih =>
    unfold applyEntries
    split
    · rename_i instant p _ _
      have h := keeps_twinRequest s p instant (acc.map JEntry.body) h_s
      split
      · rename_i e1
        exact ih _ _ (keeps_noteSum _ _ (Keeps.ofSome e1 h))
      · exact h_s
    · exact ih _ _ (keeps_noteSum _ _ (keeps_twinWindow _ _ _ _ _ h_s))
    · exact ih _ _ (keeps_noteSum _ _ (keeps_twinLearn _ _ _ _ h_s))
    · exact ih _ _ h_s
    · exact ih _ _ h_s
    · exact ih _ _ h_s

theorem keeps_applySnapshot {σ : State} (es acc : List JEntry) (s : State) (h_s : Keeps σ s) :
    Keeps σ (applySnapshot es acc s) := by
  induction es generalizing acc s with
  | nil => exact h_s
  | cons e r ih =>
    unfold applySnapshot
    split
    · rename_i instant p _ _
      have h := keeps_twinRequest s p instant (acc.map JEntry.body) h_s
      generalize twinRequest s p instant (acc.map JEntry.body) = o at h ⊢
      cases o with
      | none => exact ih _ _ h_s
      | some t => exact ih _ _ h
    · exact ih _ _ (keeps_twinWindow _ _ _ _ _ h_s)
    · exact ih _ _ (keeps_twinLearn _ _ _ _ h_s)
    · exact ih _ _ h_s
    · exact ih _ _ h_s
    · exact ih _ _ h_s

theorem keeps_sendSnapshot {σ : State} (s : State) (h_s : Keeps σ s) :
    Keeps σ (sendSnapshot s) := by
  unfold sendSnapshot
  repeat' (first
    | with_reducible assumption
    | with_reducible apply Keeps.ite
    | with_reducible apply keeps_State_inc
    | with_reducible apply keeps_State_twSend
    | with_reducible refine Keeps.foldl ?_ (fun u a hu => ?_)
    | with_reducible refine Keeps.foldl_snd ?_ (fun u a hu => ?_))

end Sys2Proof.Machine
end

