-- ==== Sys2Proof/Laws/Keeps/Twin.lean ====
section
/-! SUPPORT. What the operations of Machine/Twin.lean keep: the invariants of Keeps, one lemma per definition. -/

namespace Sys2Proof.Machine

set_option linter.unusedTactic false
set_option linter.unreachableTactic false
set_option linter.unusedSimpArgs false
set_option linter.unusedVariables false

theorem keeps_unprotect {σ : State} (s : State) (h_s : Keeps σ s) :
    Keeps σ (unprotect s) := by
  unfold unprotect
  repeat' (first
    | with_reducible assumption
    | with_reducible apply keeps_State_wr
    | with_reducible apply keeps_State_event
    | with_reducible apply keeps_drain
    | (fail_if_no_progress refine Keeps.upd ?_ rfl))

theorem keeps_firstHeard {σ : State} (s : State) (h : Heartbeat) (h_s : Keeps σ s) :
    Keeps σ (firstHeard s h) := by
  unfold firstHeard
  repeat' (first
    | with_reducible assumption
    | with_reducible apply Keeps.ite
    | with_reducible apply keeps_State_wr
    | with_reducible apply keeps_State_event
    | with_reducible apply keeps_setRole
    | with_reducible apply keeps_loseContest
    | (fail_if_no_progress refine Keeps.upd ?_ rfl))

theorem keeps_dualActive {σ : State} (s : State) (h : Heartbeat) (h_s : Keeps σ s) :
    Keeps σ (dualActive s h) := by
  unfold dualActive
  repeat' (first
    | with_reducible assumption
    | with_reducible apply Keeps.ite
    | with_reducible apply keeps_State_event
    | with_reducible apply keeps_loseContest
    | (fail_if_no_progress refine Keeps.upd ?_ rfl))

theorem keeps_takeTx {σ : State} (s : State) (e : Nat × TxEntry) (h_s : Keeps σ s) : Keeps σ (takeTx s e) := by
  unfold takeTx
  exact Keeps.upd (keeps_State_random s 32 h_s) rfl

theorem keeps_takeRx {σ : State} (s : State) (e : Nat × RxEntry) (h_s : Keeps σ s) :
    Keeps σ (takeRx s e) := by
  unfold takeRx
  repeat' (first | with_reducible assumption | split | (fail_if_no_progress refine Keeps.upd ?_ rfl))

theorem keeps_takeLeg {σ : State} (s : State) (l : Nat) (h_s : Keeps σ s) :
    Keeps σ (takeLeg s l) := by
  unfold takeLeg
  repeat' (first
    | with_reducible assumption
    | with_reducible apply keeps_State_setLeg
    | with_reducible apply keeps_clsLive
    | with_reducible apply keeps_State_askKey
    | with_reducible apply keeps_followRoute
    | with_reducible apply keeps_jitterRestart
    | with_reducible refine Keeps.foldl ?_ (fun u a hu => ?_))

theorem keeps_takeFeeds {σ : State} (s : State) (l : Nat) (h_s : Keeps σ s) :
    Keeps σ (takeFeeds s l) := by
  unfold takeFeeds
  repeat' (first
    | with_reducible assumption
    | with_reducible apply Keeps.ite
    | with_reducible apply keeps_State_wr
    | with_reducible apply keeps_State_setFeed
    | with_reducible apply keeps_shaperReset
    | with_reducible refine Keeps.foldl ?_ (fun u a hu => ?_))

theorem keeps_takeCounters {σ : State} (s : State) (h_s : Keeps σ s) : Keeps σ (takeCounters s) :=
  Keeps.setDict h_s _ (fun a _ => AMap.wf_filter a)

theorem keeps_takeMedia {σ : State} (s : State) (h_s : Keeps σ s) :
    Keeps σ (takeMedia s) := by
  unfold takeMedia
  repeat' (first
    | with_reducible assumption
    | with_reducible apply keeps_dctxLost
    | with_reducible apply keeps_rctxRestart
    | with_reducible apply keeps_takeTx
    | with_reducible apply keeps_takeRx
    | with_reducible apply keeps_takeLeg
    | with_reducible apply keeps_takeFeeds
    | with_reducible apply keeps_takeCounters
    | with_reducible refine Keeps.foldl ?_ (fun u a hu => ?_))

theorem keeps_equinox {σ : State} (s : State) (h_s : Keeps σ s) :
    Keeps σ (equinox s) := by
  unfold equinox
  repeat' (first
    | with_reducible assumption
    | with_reducible apply Keeps.ite
    | with_reducible apply keeps_State_wr
    | with_reducible apply keeps_State_inc
    | with_reducible apply keeps_State_event
    | with_reducible apply keeps_setRole
    | with_reducible apply keeps_takeMedia
    | (fail_if_no_progress refine Keeps.upd ?_ rfl))

theorem keeps_stayCold {σ : State} (s : State) (reason : Nat) (h_s : Keeps σ s) :
    Keeps σ (stayCold s reason) := by
  unfold stayCold
  repeat' (first | with_reducible assumption | with_reducible apply Keeps.ite | with_reducible apply keeps_coldFor)

theorem keeps_armCheck {σ : State} (s : State) (h_s : Keeps σ s) :
    Keeps σ (armCheck s) := by
  unfold armCheck
  repeat' (first
    | with_reducible assumption
    | with_reducible apply keeps_State_wr
    | with_reducible apply keeps_State_event
    | with_reducible apply keeps_setRole
    | with_reducible apply keeps_stayCold
    | split
    | (fail_if_no_progress refine Keeps.upd ?_ rfl))

theorem keeps_snapshotApplied {σ : State} (s : State) (h_s : Keeps σ s) : Keeps σ (snapshotApplied s) := by
  unfold snapshotApplied
  split
  · refine Keeps.ite h_s ?_
    have h1 := keeps_applySnapshot s.tw.snapStored [] (twinReset s) (keeps_twinReset s h_s)
    generalize applySnapshot s.tw.snapStored [] (twinReset s) = s1 at h1 ⊢
    dsimp only
    refine Keeps.ite (Keeps.ite (keeps_stayCold _ _ (Keeps.upd h1 rfl)) (keeps_askSnapshot _ (Keeps.upd h1 rfl))) ?_
    have h2 := fun t j => keeps_applyEntries s.tw.stored [] (noteSum { s1 with tw := t } j) (keeps_noteSum _ _ (Keeps.upd h1 rfl))
    split
    · rename_i e
      exact keeps_armCheck _ (keeps_State_wr _ _ _ (Keeps.upd (Keeps.mid3 e (h2 _ _)) rfl))
    · rename_i e
      exact keeps_State_event _ _ _ _ (keeps_stayCold _ _ (Keeps.upd (Keeps.mid3 e (h2 _ _)) rfl))
  · exact h_s

theorem keeps_timeRecheck {σ : State} (s : State) (h_s : Keeps σ s) :
    Keeps σ (timeRecheck s) := by
  unfold timeRecheck
  repeat' (first
    | with_reducible assumption
    | with_reducible apply Keeps.ite
    | with_reducible apply keeps_armCheck
    | (fail_if_no_progress refine Keeps.upd ?_ rfl))

theorem keeps_hbTx {σ : State} (s : State) (h_s : Keeps σ s) :
    Keeps σ (hbTx s) := by
  unfold hbTx
  repeat' (first | with_reducible assumption | with_reducible apply Keeps.ite | (fail_if_no_progress refine Keeps.upd ?_ rfl))

theorem keeps_noteOffset {σ : State} (s : State) (o : Option Int) (h_s : Keeps σ s) :
    Keeps σ (noteOffset s o) := by
  unfold noteOffset
  repeat' (first
    | with_reducible assumption
    | with_reducible apply Keeps.ite
    | with_reducible apply keeps_State_wr
    | with_reducible apply keeps_twinSteer
    | split
    | (fail_if_no_progress refine Keeps.upd ?_ rfl))

theorem keeps_hbRole {σ : State} (s : State) (h : Heartbeat) (h_s : Keeps σ s) :
    Keeps σ (hbRole s h) := by
  unfold hbRole
  repeat' (first
    | with_reducible assumption
    | with_reducible apply Keeps.ite
    | with_reducible apply keeps_State_wr
    | with_reducible apply keeps_fence
    | with_reducible apply keeps_coldFor
    | with_reducible apply keeps_unprotect
    | with_reducible apply keeps_firstHeard
    | with_reducible apply keeps_dualActive
    | with_reducible apply keeps_equinox
    | with_reducible apply keeps_armCheck
    | split
    | (fail_if_no_progress refine Keeps.upd ?_ rfl))

theorem keeps_hbTake {σ : State} (s : State) (h : Heartbeat) (arrival : Nat) (h_s : Keeps σ s) :
    Keeps σ (hbTake s h arrival) := by
  unfold hbTake
  repeat' (first
    | with_reducible assumption
    | with_reducible apply Keeps.ite
    | with_reducible apply keeps_State_wr
    | with_reducible apply keeps_State_event
    | with_reducible apply keeps_noteOffset
    | with_reducible apply keeps_hbRole
    | refine fun _ => ?_
    | (fail_if_no_progress refine Keeps.upd ?_ rfl))

theorem keeps_hbRx {σ : State} (s : State) (h_s : Keeps σ s) :
    Keeps σ (hbRx s) := by
  unfold hbRx
  repeat' (first
    | with_reducible assumption
    | with_reducible apply keeps_State_takeFrame
    | with_reducible apply keeps_hbTake
    | refine Keeps.snd (by assumption) ?_
    | split)

theorem keeps_hbSymbolTx {σ : State} (s0 : State) (h_s0 : Keeps σ s0) :
    Keeps σ (hbSymbolTx s0) := by
  unfold hbSymbolTx
  repeat' (first
    | with_reducible assumption
    | with_reducible apply Keeps.ite
    | with_reducible apply keeps_State_emit
    | (fail_if_no_progress refine Keeps.upd ?_ rfl))

theorem keeps_disarmed {σ : State} (s : State) (h_s : Keeps σ s) :
    Keeps σ (disarmed s) := by
  unfold disarmed
  repeat' (first
    | with_reducible assumption
    | with_reducible apply Keeps.ite
    | with_reducible apply keeps_askSnapshot
    | with_reducible apply keeps_coldFor)

theorem keeps_hbSymbolRx {σ : State} (s0 : State) (code : Nat) (parityOk : Bool) (h_s0 : Keeps σ s0) :
    Keeps σ (hbSymbolRx s0 code parityOk) := by
  unfold hbSymbolRx
  repeat' (first
    | with_reducible assumption
    | with_reducible apply Keeps.ite
    | with_reducible apply keeps_State_wake
    | with_reducible apply keeps_fence
    | with_reducible apply keeps_equinox
    | with_reducible apply keeps_disarmed
    | split
    | (fail_if_no_progress refine Keeps.upd ?_ rfl))

theorem keeps_livenessTimeout {σ : State} (s : State) (h_s : Keeps σ s) :
    Keeps σ (livenessTimeout s) := by
  unfold livenessTimeout
  repeat' (first
    | with_reducible assumption
    | with_reducible apply Keeps.ite
    | with_reducible apply keeps_fence
    | (fail_if_no_progress refine Keeps.upd ?_ rfl))

theorem keeps_peerSilence {σ : State} (s : State) (h_s : Keeps σ s) :
    Keeps σ (peerSilence s) := by
  unfold peerSilence
  repeat' (first
    | with_reducible assumption
    | with_reducible apply Keeps.ite
    | with_reducible apply keeps_State_inc
    | with_reducible apply keeps_State_event
    | with_reducible apply keeps_equinox
    | (fail_if_no_progress refine Keeps.upd ?_ rfl))

theorem keeps_storeEntry {σ : State} (acc : State × Bool) (e : JEntry) (h_acc : Keeps σ acc.1) :
    Keeps σ (storeEntry acc e).1 := by
  unfold storeEntry
  repeat' (first
    | with_reducible assumption
    | ((try lift_lets); intro x; try unfold x)
    | split
    | (fail_if_no_progress refine Keeps.upd ?_ rfl))

theorem keeps_applyStored {σ : State} (s : State) (h_s : Keeps σ s) :
    Keeps σ (applyStored s) := by
  unfold applyStored
  repeat' (first
    | with_reducible assumption
    | with_reducible apply keeps_State_wr
    | with_reducible apply keeps_State_event
    | with_reducible apply keeps_coldFor
    | with_reducible apply keeps_applyEntries
    | refine Keeps.mid3 (by assumption) ?_
    | split
    | (fail_if_no_progress refine Keeps.upd ?_ rfl))

theorem keeps_journalTake {σ : State} (s : State) (es : List JEntry) (h_s : Keeps σ s) :
    Keeps σ (journalTake s es) := by
  unfold journalTake
  repeat' (first
    | with_reducible assumption
    | with_reducible apply Keeps.ite
    | with_reducible apply keeps_State_twSend
    | with_reducible apply keeps_askSnapshot
    | with_reducible apply keeps_storeEntry
    | with_reducible apply keeps_applyStored
    | with_reducible refine Keeps.foldl_fst ?_ (fun u a hu => ?_))

theorem keeps_journalRx {σ : State} (s : State) (h_s : Keeps σ s) :
    Keeps σ (journalRx s) := by
  unfold journalRx
  repeat' (first
    | with_reducible assumption
    | with_reducible apply keeps_State_takeFrame
    | with_reducible apply keeps_journalTake
    | refine Keeps.snd (by assumption) ?_
    | split)

theorem keeps_ackTake {σ : State} (s : State) (j : Nat) (h_s : Keeps σ s) :
    Keeps σ (ackTake s j) := by
  unfold ackTake
  repeat' (first
    | with_reducible assumption
    | with_reducible apply Keeps.ite
    | with_reducible apply keeps_State_wr
    | with_reducible apply keeps_drain
    | (fail_if_no_progress refine Keeps.upd ?_ rfl))

theorem keeps_journalAckRx {σ : State} (s : State) (h_s : Keeps σ s) :
    Keeps σ (journalAckRx s) := by
  unfold journalAckRx
  repeat' (first
    | with_reducible assumption
    | with_reducible apply keeps_State_takeFrame
    | with_reducible apply keeps_ackTake
    | refine Keeps.snd (by assumption) ?_
    | split)

theorem keeps_resend {σ : State} (s : State) (p : JSent → Bool) (h_s : Keeps σ s) :
    Keeps σ (resend s p) := by
  unfold resend
  repeat' (first
    | with_reducible assumption
    | with_reducible apply Keeps.ite
    | with_reducible apply keeps_State_count
    | (fail_if_no_progress refine Keeps.upd ?_ rfl))

theorem keeps_resendExpiry {σ : State} (s : State) (h_s : Keeps σ s) :
    Keeps σ (resendExpiry s) := by
  unfold resendExpiry
  repeat' (first | with_reducible assumption | with_reducible apply Keeps.ite | with_reducible apply keeps_resend)

theorem keeps_standbyLost {σ : State} (s : State) (h_s : Keeps σ s) :
    Keeps σ (standbyLost s) := by
  unfold standbyLost
  repeat' (first
    | with_reducible assumption
    | with_reducible apply Keeps.ite
    | with_reducible apply keeps_unprotect
    | (fail_if_no_progress refine Keeps.upd ?_ rfl))

theorem keeps_takeCtrl {σ : State} (s : State) (sel : TwinCtrl → Bool) (h_s : Keeps σ s) :
    Keeps σ (takeCtrl s sel).2 := by
  unfold takeCtrl
  repeat' (first | with_reducible assumption | with_reducible apply keeps_State_takeFrame | refine Keeps.snd (by assumption) ?_ | split)

theorem keeps_ctrlDetach {σ : State} (s : State) (h_s : Keeps σ s) :
    Keeps σ (ctrlDetach s) := by
  unfold ctrlDetach
  repeat' (first
    | with_reducible assumption
    | with_reducible apply keeps_detach
    | with_reducible apply keeps_takeCtrl
    | refine Keeps.snd (by assumption) ?_
    | split)

theorem keeps_ctrlDisarm {σ : State} (s : State) (h_s : Keeps σ s) :
    Keeps σ (ctrlDisarm s) := by
  unfold ctrlDisarm
  repeat' (first
    | with_reducible assumption
    | with_reducible apply keeps_disarmed
    | with_reducible apply keeps_takeCtrl
    | refine Keeps.snd (by assumption) ?_
    | split)

theorem keeps_ctrlProof {σ : State} (s : State) (h_s : Keeps σ s) :
    Keeps σ (ctrlProof s) := by
  unfold ctrlProof
  repeat' (first
    | with_reducible assumption
    | with_reducible apply keeps_takeCtrl
    | refine Keeps.snd (by assumption) ?_
    | split
    | (fail_if_no_progress refine Keeps.upd ?_ rfl))

theorem keeps_ctrlResend {σ : State} (s : State) (h_s : Keeps σ s) :
    Keeps σ (ctrlResend s) := by
  unfold ctrlResend
  repeat' (first
    | with_reducible assumption
    | with_reducible apply keeps_sendSnapshot
    | with_reducible apply keeps_resend
    | with_reducible apply keeps_takeCtrl
    | refine Keeps.snd (by assumption) ?_
    | split)

theorem keeps_snapEntry {σ : State} (s : State) (e : JEntry) (h_s : Keeps σ s) :
    Keeps σ (snapEntry s e) := by
  unfold snapEntry
  repeat' (first | with_reducible assumption | with_reducible apply keeps_State_inc | split | (fail_if_no_progress refine Keeps.upd ?_ rfl))

theorem keeps_snapshotTake {σ : State} (s : State) (es : List JEntry) (h_s : Keeps σ s) :
    Keeps σ (snapshotTake s es) := by
  unfold snapshotTake
  repeat' (first
    | with_reducible assumption
    | with_reducible apply Keeps.ite
    | with_reducible apply keeps_askSnapshot
    | with_reducible apply keeps_snapEntry
    | with_reducible refine Keeps.foldl ?_ (fun u a hu => ?_))

theorem keeps_snapshotRx {σ : State} (s : State) (h_s : Keeps σ s) :
    Keeps σ (snapshotRx s) := by
  unfold snapshotRx
  repeat' (first
    | with_reducible assumption
    | with_reducible apply keeps_State_takeFrame
    | with_reducible apply keeps_snapshotTake
    | refine Keeps.snd (by assumption) ?_
    | split)

theorem keeps_execTwinHbTx {σ : State} (s : State) (h_s : Keeps σ s) :
    Keeps.outcome σ (execTwinHbTx s) := by
  unfold execTwinHbTx
  repeat' (first
    | with_reducible assumption
    | with_reducible apply Keeps.ite
    | with_reducible apply keeps_hbTx
    | with_reducible apply Keeps.outcome_next)

theorem keeps_execTwinHbRx {σ : State} (s : State) (h_s : Keeps σ s) :
    Keeps.outcome σ (execTwinHbRx s) := by
  unfold execTwinHbRx
  repeat' (first
    | with_reducible assumption
    | with_reducible apply Keeps.ite
    | with_reducible apply keeps_hbRx
    | with_reducible apply Keeps.outcome_next)

theorem keeps_execHbSymbolTx {σ : State} (s : State) (h_s : Keeps σ s) :
    Keeps.outcome σ (execHbSymbolTx s) := by
  unfold execHbSymbolTx
  repeat' (first | with_reducible assumption | with_reducible apply keeps_hbSymbolTx | with_reducible apply Keeps.outcome_next)

theorem keeps_execHbSymbolRx {σ : State} (code : Nat) (_act _armed parityOk : Bool) (s : State) (h_s : Keeps σ s) :
    Keeps.outcome σ (execHbSymbolRx code _act _armed parityOk s) := by
  unfold execHbSymbolRx
  repeat' (first | with_reducible assumption | with_reducible apply keeps_hbSymbolRx | with_reducible apply Keeps.outcome_next)

theorem keeps_execLivenessTimeout {σ : State} (s : State) (h_s : Keeps σ s) :
    Keeps.outcome σ (execLivenessTimeout s) := by
  unfold execLivenessTimeout
  repeat' (first | with_reducible assumption | with_reducible apply keeps_livenessTimeout | with_reducible apply Keeps.outcome_next)

theorem keeps_execPeerSilenceTimeout {σ : State} (s : State) (h_s : Keeps σ s) :
    Keeps.outcome σ (execPeerSilenceTimeout s) := by
  unfold execPeerSilenceTimeout
  repeat' (first
    | with_reducible assumption
    | with_reducible apply Keeps.ite
    | with_reducible apply keeps_peerSilence
    | with_reducible apply Keeps.outcome_next)

theorem keeps_execJournalRx {σ : State} (s : State) (h_s : Keeps σ s) :
    Keeps.outcome σ (execJournalRx s) := by
  unfold execJournalRx
  repeat' (first
    | with_reducible assumption
    | with_reducible apply Keeps.ite
    | with_reducible apply keeps_journalRx
    | with_reducible apply Keeps.outcome_next)

theorem keeps_execJournalAckRx {σ : State} (s : State) (h_s : Keeps σ s) :
    Keeps.outcome σ (execJournalAckRx s) := by
  unfold execJournalAckRx
  repeat' (first
    | with_reducible assumption
    | with_reducible apply Keeps.ite
    | with_reducible apply keeps_journalAckRx
    | with_reducible apply Keeps.outcome_next)

theorem keeps_execJournalResendExpiry {σ : State} (s : State) (h_s : Keeps σ s) :
    Keeps.outcome σ (execJournalResendExpiry s) := by
  unfold execJournalResendExpiry
  repeat' (first
    | with_reducible assumption
    | with_reducible apply Keeps.ite
    | with_reducible apply keeps_resendExpiry
    | with_reducible apply Keeps.outcome_next)

theorem keeps_execStandbyLostExpiry {σ : State} (s : State) (h_s : Keeps σ s) :
    Keeps.outcome σ (execStandbyLostExpiry s) := by
  unfold execStandbyLostExpiry
  repeat' (first
    | with_reducible assumption
    | with_reducible apply Keeps.ite
    | with_reducible apply keeps_standbyLost
    | with_reducible apply Keeps.outcome_next)

theorem keeps_execTwinCtrlDetach {σ : State} (s : State) (h_s : Keeps σ s) :
    Keeps.outcome σ (execTwinCtrlDetach s) := by
  unfold execTwinCtrlDetach
  repeat' (first
    | with_reducible assumption
    | with_reducible apply Keeps.ite
    | with_reducible apply keeps_ctrlDetach
    | with_reducible apply Keeps.outcome_next)

theorem keeps_execTwinCtrlDisarm {σ : State} (s : State) (h_s : Keeps σ s) :
    Keeps.outcome σ (execTwinCtrlDisarm s) := by
  unfold execTwinCtrlDisarm
  repeat' (first
    | with_reducible assumption
    | with_reducible apply Keeps.ite
    | with_reducible apply keeps_ctrlDisarm
    | with_reducible apply Keeps.outcome_next)

theorem keeps_execTwinCtrlKekProof {σ : State} (s : State) (h_s : Keeps σ s) :
    Keeps.outcome σ (execTwinCtrlKekProof s) := by
  unfold execTwinCtrlKekProof
  repeat' (first
    | with_reducible assumption
    | with_reducible apply Keeps.ite
    | with_reducible apply keeps_ctrlProof
    | with_reducible apply Keeps.outcome_next)

theorem keeps_execTwinCtrlResendRequest {σ : State} (s : State) (h_s : Keeps σ s) :
    Keeps.outcome σ (execTwinCtrlResendRequest s) := by
  unfold execTwinCtrlResendRequest
  repeat' (first
    | with_reducible assumption
    | with_reducible apply Keeps.ite
    | with_reducible apply keeps_ctrlResend
    | with_reducible apply Keeps.outcome_next)

theorem keeps_execSnapshotRx {σ : State} (s : State) (h_s : Keeps σ s) :
    Keeps.outcome σ (execSnapshotRx s) := by
  unfold execSnapshotRx
  repeat' (first
    | with_reducible assumption
    | with_reducible apply Keeps.ite
    | with_reducible apply keeps_snapshotRx
    | with_reducible apply Keeps.outcome_next)

theorem keeps_execSnapshotApplied {σ : State} (s : State) (h_s : Keeps σ s) :
    Keeps.outcome σ (execSnapshotApplied s) := by
  unfold execSnapshotApplied
  repeat' (first
    | with_reducible assumption
    | with_reducible apply Keeps.ite
    | with_reducible apply keeps_snapshotApplied
    | with_reducible apply Keeps.outcome_next)

theorem keeps_execTimeRecheckExpiry {σ : State} (s : State) (h_s : Keeps σ s) :
    Keeps.outcome σ (execTimeRecheckExpiry s) := by
  unfold execTimeRecheckExpiry
  repeat' (first
    | with_reducible assumption
    | with_reducible apply Keeps.ite
    | with_reducible apply keeps_timeRecheck
    | with_reducible apply Keeps.outcome_next)

end Sys2Proof.Machine
end

