-- ==== Sys2Proof/Laws/Keeps/Exec.lean ====
section
/-! SUPPORT. What executing any command keeps: the invariants of Keeps, one arm per constructor. -/

namespace Sys2Proof.Machine

set_option linter.unusedTactic false
set_option linter.unreachableTactic false
set_option linter.unusedSimpArgs false
set_option linter.unusedVariables false

theorem keeps_exec {σ : State} (i : Instr) (s : State) (h_s : Keeps σ s) : Keeps.outcome σ (exec i s) := by
  cases i with
  | dictRead _ _ _ => exact keeps_execDictRead _ _ _ s h_s
  | dictWrite _ _ _ => exact keeps_execDictWrite _ _ _ s h_s
  | describe _ _ => exact keeps_execDescribe _ _ s h_s
  | groupOpen _ _ => exact keeps_execGroupOpen _ _ s h_s
  | groupCommit _ _ _ => exact keeps_execGroupCommit _ _ _ s h_s
  | groupDiscard _ _ _ => exact keeps_execGroupDiscard _ _ _ s h_s
  | groupTimeoutExpiry _ => exact keeps_execGroupTimeoutExpiry _ s h_s
  | persistImageWrite _ _ _ => exact keeps_execPersistImageWrite _ _ _ s h_s
  | operatorSessionOpen _ _ _ => exact keeps_execOperatorSessionOpen _ _ _ s h_s
  | operatorSessionClose _ _ => exact keeps_execOperatorSessionClose _ _ s h_s
  | indirectTransferDone _ _ => exact keeps_execIndirectTransferDone _ _ s h_s
  | hostReadCompletionTimeout _ _ _ => exact keeps_execHostReadCompletionTimeout _ _ _ s h_s
  | hostReadErrorCompletion _ _ _ => exact keeps_execHostReadErrorCompletion _ _ _ s h_s
  | dtpDatagramRx _ => exact keeps_execDtpDatagramRx _ s h_s
  | dtpOpen _ => exact keeps_execDtpOpen _ s h_s
  | dtpSigfrag _ _ _ _ _ _ => exact keeps_execDtpSigfrag _ _ _ _ _ _ s h_s
  | dtpSessionOpenTimeout _ => exact keeps_execDtpSessionOpenTimeout _ s h_s
  | peerDictMessage => exact keeps_execPeerDictMessage s h_s
  | mixFrameBoundary => exact keeps_execMixFrameBoundary s h_s
  | functionLevelReset => exact keeps_execFunctionLevelReset s h_s
  | registerWrite _ _ _ => exact keeps_execRegisterWrite _ _ _ s h_s
  | bar2Read _ _ => exact keeps_execBar2Read _ _ s h_s
  | bar2Write _ _ => exact keeps_execBar2Write _ _ s h_s
  | mbxMsgWrite _ _ _ => exact keeps_execMbxMsgWrite _ _ _ s h_s
  | mbxGoSet _ _ => exact keeps_execMbxGoSet _ _ s h_s
  | mbxTake _ => exact keeps_execMbxTake _ s h_s
  | mbxResponseTaken _ => exact keeps_execMbxResponseTaken _ s h_s
  | mbxDropRead _ _ => exact keeps_execMbxDropRead _ _ s h_s
  | devUnmappedRead => exact keeps_execDevUnmappedRead s h_s
  | devBar2DeniedRead => exact keeps_execDevBar2DeniedRead s h_s
  | irqCauseClear _ => exact keeps_execIrqCauseClear _ s h_s
  | dmaErrCauseClear _ => exact keeps_execDmaErrCauseClear _ s h_s
  | msixVectorUnmask _ => exact keeps_execMsixVectorUnmask _ s h_s
  | ringEnable _ _ => exact keeps_execRingEnable _ _ s h_s
  | ringDisable _ _ => exact keeps_execRingDisable _ _ s h_s
  | doorbellH2d _ _ => exact keeps_execDoorbellH2d _ _ s h_s
  | doorbellD2h _ _ => exact keeps_execDoorbellD2h _ _ s h_s
  | ringFlush _ => exact keeps_execRingFlush _ s h_s
  | ringWmcntRead _ => exact keeps_execRingWmcntRead _ s h_s
  | wmCrossedClear _ => exact keeps_execWmCrossedClear _ s h_s
  | ringItemFetch _ _ => exact keeps_execRingItemFetch _ _ s h_s
  | queueReserve _ _ => exact keeps_execQueueReserve _ _ s h_s
  | queueClose _ _ => exact keeps_execQueueClose _ _ s h_s
  | queueFlush _ _ _ _ => exact keeps_execQueueFlush _ _ _ _ s h_s
  | legRegister _ _ _ _ => exact keeps_execLegRegister _ _ _ _ s h_s
  | legActivate _ _ _ _ => exact keeps_execLegActivate _ _ _ _ s h_s
  | legDeactivate _ _ _ _ => exact keeps_execLegDeactivate _ _ _ _ s h_s
  | legFree _ _ _ _ => exact keeps_execLegFree _ _ _ _ s h_s
  | legQuiescent _ => exact keeps_execLegQuiescent _ s h_s
  | egressQueueRelease _ => exact keeps_execEgressQueueRelease _ s h_s
  | legRxTimeout _ => exact keeps_execLegRxTimeout _ s h_s
  | confActivate _ _ _ _ => exact keeps_execConfActivate _ _ _ _ s h_s
  | confFree _ _ _ _ => exact keeps_execConfFree _ _ _ _ s h_s
  | anchorRepoint _ _ _ _ _ _ => exact keeps_execAnchorRepoint _ _ _ _ _ _ s h_s
  | ethFrameRx _ _ => exact keeps_execEthFrameRx _ _ s h_s
  | frameClassify _ _ => exact keeps_execFrameClassify _ _ s h_s
  | classifierImageWrite _ _ _ _ => exact keeps_execClassifierImageWrite _ _ _ _ s h_s
  | cipherDispatch _ => exact keeps_execCipherDispatch _ s h_s
  | cipherResultRelease _ _ => exact keeps_execCipherResultRelease _ _ s h_s
  | jitterDepthAdjust _ => exact keeps_execJitterDepthAdjust _ s h_s
  | videoWaitExpiry _ _ => exact keeps_execVideoWaitExpiry _ _ s h_s
  | nackSend _ _ => exact keeps_execNackSend _ _ s h_s
  | nackRetry _ _ => exact keeps_execNackRetry _ _ s h_s
  | rtcpReportTimer _ => exact keeps_execRtcpReportTimer _ s h_s
  | promptItemFetch _ _ _ => exact keeps_execPromptItemFetch _ _ _ s h_s
  | tapEnable _ _ _ _ _ => exact keeps_execTapEnable _ _ _ _ _ s h_s
  | tapSectorWrite _ _ => exact keeps_execTapSectorWrite _ _ s h_s
  | keySuiteWrite _ _ _ _ _ => exact keeps_execKeySuiteWrite _ _ _ _ _ s h_s
  | keyLoad _ _ _ _ _ _ => exact keeps_execKeyLoad _ _ _ _ _ _ s h_s
  | keyWrappedLoad _ _ _ _ _ _ => exact keeps_execKeyWrappedLoad _ _ _ _ _ _ s h_s
  | keyErase _ _ _ _ => exact keeps_execKeyErase _ _ _ _ s h_s
  | keyEraseComplete _ => exact keeps_execKeyEraseComplete _ s h_s
  | windowCommitRelease _ _ => exact keeps_execWindowCommitRelease _ _ s h_s
  | workItemPost _ _ => exact keeps_execWorkItemPost _ _ s h_s
  | workItemStart _ => exact keeps_execWorkItemStart _ s h_s
  | workItemComplete _ _ _ => exact keeps_execWorkItemComplete _ _ _ s h_s
  | completionRecordRoom _ => exact keeps_execCompletionRecordRoom _ s h_s
  | waitLimitExpiry _ => exact keeps_execWaitLimitExpiry _ s h_s
  | runLimitExpiry _ => exact keeps_execRunLimitExpiry _ s h_s
  | coreOnlineClear _ _ _ _ _ => exact keeps_execCoreOnlineClear _ _ _ _ _ s h_s
  | counterLatch => exact keeps_execCounterLatch s h_s
  | mpy _ _ => exact keeps_execMpy _ _ s h_s
  | mac _ _ => exact keeps_execMac _ _ s h_s
  | macsh _ _ => exact keeps_execMacsh _ _ s h_s
  | rnda _ _ => exact keeps_execRnda _ _ s h_s
  | clr _ _ => exact keeps_execClr _ _ s h_s
  | acs _ _ => exact keeps_execAcs _ _ s h_s
  | loopOp _ _ _ _ _ => exact keeps_execLoopOp _ _ _ _ _ s h_s
  | breakOp _ _ => exact keeps_execBreakOp _ _ s h_s
  | reti _ => exact keeps_execReti _ s h_s
  | endOp _ => exact keeps_execEndOp _ s h_s
  | dmar _ _ _ _ _ => exact keeps_execDmar _ _ _ _ _ s h_s
  | dmaw _ _ _ _ _ => exact keeps_execDmaw _ _ _ _ _ s h_s
  | dmawait _ _ _ => exact keeps_execDmawait _ _ _ s h_s
  | dmaTransferComplete _ _ => exact keeps_execDmaTransferComplete _ _ s h_s
  | interruptEntry _ _ => exact keeps_execInterruptEntry _ _ s h_s
  | tmrMatch _ => exact keeps_execTmrMatch _ s h_s
  | matenLoad _ _ _ _ => exact keeps_execMatenLoad _ _ _ _ s h_s
  | matenUnload _ _ _ _ => exact keeps_execMatenUnload _ _ _ _ s h_s
  | programRetireComplete _ => exact keeps_execProgramRetireComplete _ s h_s
  | legAudioDecode _ => exact keeps_execLegAudioDecode _ s h_s
  | mixPhaseTimer _ => exact keeps_execMixPhaseTimer _ s h_s
  | confMix _ => exact keeps_execConfMix _ s h_s
  | legAudioEncode _ => exact keeps_execLegAudioEncode _ s h_s
  | partialRx => exact keeps_execPartialRx s h_s
  | returnRx => exact keeps_execReturnRx s h_s
  | returnWaitExpiry _ => exact keeps_execReturnWaitExpiry _ s h_s
  | dctxEnable _ _ _ _ => exact keeps_execDctxEnable _ _ _ _ s h_s
  | dctxDisable _ _ _ _ => exact keeps_execDctxDisable _ _ _ _ s h_s
  | dctxQuiescent _ => exact keeps_execDctxQuiescent _ s h_s
  | pipePictureStart _ => exact keeps_execPipePictureStart _ s h_s
  | pictureDecodeComplete _ => exact keeps_execPictureDecodeComplete _ s h_s
  | keyRequestPacing _ => exact keeps_execKeyRequestPacing _ s h_s
  | decodePipeEccError _ => exact keeps_execDecodePipeEccError _ s h_s
  | canvasSetCommit _ _ _ _ => exact keeps_execCanvasSetCommit _ _ _ _ s h_s
  | operatorCommit _ _ _ _ => exact keeps_execOperatorCommit _ _ _ _ s h_s
  | operatorImageWrite _ _ _ _ _ => exact keeps_execOperatorImageWrite _ _ _ _ _ s h_s
  | solsticeTick => exact keeps_execSolsticeTick s h_s
  | oplayerCheckStart => exact keeps_execOplayerCheckStart s h_s
  | oplayerCheckDone _ => exact keeps_execOplayerCheckDone _ s h_s
  | composeBandDone _ => exact keeps_execComposeBandDone _ s h_s
  | layoutRun _ => exact keeps_execLayoutRun _ s h_s
  | layoutRunEnd _ _ _ => exact keeps_execLayoutRunEnd _ _ _ s h_s
  | layoutRunLimit _ => exact keeps_execLayoutRunLimit _ s h_s
  | layoutLoad _ _ _ _ => exact keeps_execLayoutLoad _ _ _ _ s h_s
  | layoutUnload _ _ _ _ => exact keeps_execLayoutUnload _ _ _ _ s h_s
  | actxEnable _ _ _ _ => exact keeps_execActxEnable _ _ _ _ s h_s
  | actxDisable _ _ _ _ => exact keeps_execActxDisable _ _ _ _ s h_s
  | analysisBandDone _ => exact keeps_execAnalysisBandDone _ s h_s
  | rctxEnable _ _ _ _ => exact keeps_execRctxEnable _ _ _ _ s h_s
  | rctxDisable _ _ _ _ => exact keeps_execRctxDisable _ _ _ _ s h_s
  | renditionPictureStart _ => exact keeps_execRenditionPictureStart _ s h_s
  | renditionBandCode _ _ _ _ => exact keeps_execRenditionBandCode _ _ _ _ s h_s
  | renditionPictureDone _ => exact keeps_execRenditionPictureDone _ s h_s
  | rcPictureStart _ _ _ => exact keeps_execRcPictureStart _ _ _ s h_s
  | rcBandEnd _ _ => exact keeps_execRcBandEnd _ _ s h_s
  | rcCallLimit _ => exact keeps_execRcCallLimit _ s h_s
  | rcLoad _ _ _ _ => exact keeps_execRcLoad _ _ _ _ s h_s
  | rcUnload _ _ _ _ => exact keeps_execRcUnload _ _ _ _ s h_s
  | rctxKeyRequest _ _ _ _ => exact keeps_execRctxKeyRequest _ _ _ _ s h_s
  | periodicKeyExpiry _ => exact keeps_execPeriodicKeyExpiry _ s h_s
  | ltrIntervalExpiry _ => exact keeps_execLtrIntervalExpiry _ s h_s
  | trellisResult _ _ => exact keeps_execTrellisResult _ _ s h_s
  | trellisWaitExpiry _ => exact keeps_execTrellisWaitExpiry _ s h_s
  | encodeUnitEccError _ _ => exact keeps_execEncodeUnitEccError _ _ s h_s
  | feedModeWrite _ _ _ _ _ _ => exact keeps_execFeedModeWrite _ _ _ _ _ _ s h_s
  | feedFixedSelect _ _ _ _ _ _ => exact keeps_execFeedFixedSelect _ _ _ _ _ _ s h_s
  | adaptFeedbackCall _ _ => exact keeps_execAdaptFeedbackCall _ _ s h_s
  | adaptTick _ _ _ _ _ => exact keeps_execAdaptTick _ _ _ _ _ s h_s
  | adaptCallLimit _ _ _ => exact keeps_execAdaptCallLimit _ _ _ s h_s
  | adaptLoad _ _ _ _ => exact keeps_execAdaptLoad _ _ _ _ s h_s
  | adaptUnload _ _ _ _ => exact keeps_execAdaptUnload _ _ _ _ s h_s
  | forwardPacket => exact keeps_execForwardPacket s h_s
  | switchKeyWaitExpiry _ _ => exact keeps_execSwitchKeyWaitExpiry _ _ s h_s
  | shaperRelease _ => exact keeps_execShaperRelease _ s h_s
  | shaperAgeOut _ => exact keeps_execShaperAgeOut _ s h_s
  | legShaperWrite _ _ _ _ _ _ => exact keeps_execLegShaperWrite _ _ _ _ _ _ s h_s
  | groupShaperWrite _ _ _ _ _ _ _ => exact keeps_execGroupShaperWrite _ _ _ _ _ _ _ s h_s
  | partApply _ _ _ => exact keeps_execPartApply _ _ _ s h_s
  | memRequestAccept _ => exact keeps_execMemRequestAccept _ s h_s
  | memRequestServe _ _ => exact keeps_execMemRequestServe _ _ s h_s
  | agePromotion _ => exact keeps_execAgePromotion _ s h_s
  | rowIdleClose _ _ => exact keeps_execRowIdleClose _ _ s h_s
  | stackTempSample _ _ => exact keeps_execStackTempSample _ _ s h_s
  | patrolScrub _ => exact keeps_execPatrolScrub _ s h_s
  | updateRetrain _ => exact keeps_execUpdateRetrain _ s h_s
  | fullRetrain _ => exact keeps_execFullRetrain _ s h_s
  | trainingComplete _ _ => exact keeps_execTrainingComplete _ _ s h_s
  | quarantineResume => exact keeps_execQuarantineResume s h_s
  | hostReadWindowsWrite _ _ _ _ => exact keeps_execHostReadWindowsWrite _ _ _ _ s h_s
  | fabricFrameRx _ _ _ _ => exact keeps_execFabricFrameRx _ _ _ _ s h_s
  | frameRelay => exact keeps_execFrameRelay s h_s
  | creditBlockRx _ _ _ => exact keeps_execCreditBlockRx _ _ _ s h_s
  | creditBlockTx _ => exact keeps_execCreditBlockTx _ s h_s
  | fabricFrameTx _ => exact keeps_execFabricFrameTx _ s h_s
  | ackRx => exact keeps_execAckRx s h_s
  | ctrlRetransmitExpiry => exact keeps_execCtrlRetransmitExpiry s h_s
  | helloTx _ => exact keeps_execHelloTx _ s h_s
  | helloRx => exact keeps_execHelloRx s h_s
  | deadIntervalExpiry _ => exact keeps_execDeadIntervalExpiry _ s h_s
  | lsaRefresh => exact keeps_execLsaRefresh s h_s
  | lsaRx => exact keeps_execLsaRx s h_s
  | lsackRx => exact keeps_execLsackRx s h_s
  | lsaExpiry => exact keeps_execLsaExpiry s h_s
  | spfRun => exact keeps_execSpfRun s h_s
  | nqPortEnable _ _ _ _ => exact keeps_execNqPortEnable _ _ _ _ s h_s
  | nqPortDisable _ _ _ _ => exact keeps_execNqPortDisable _ _ _ _ s h_s
  | laneDefectChange _ => exact keeps_execLaneDefectChange _ s h_s
  | defectHoldExpiry _ => exact keeps_execDefectHoldExpiry _ s h_s
  | fdevWrite _ _ _ _ => exact keeps_execFdevWrite _ _ _ _ s h_s
  | joinRx => exact keeps_execJoinRx s h_s
  | joinReplyRx => exact keeps_execJoinReplyRx s h_s
  | joinRetryExpiry _ => exact keeps_execJoinRetryExpiry _ s h_s
  | leaveRx => exact keeps_execLeaveRx s h_s
  | remotePartialTimeout _ _ => exact keeps_execRemotePartialTimeout _ _ s h_s
  | subscribeRx => exact keeps_execSubscribeRx s h_s
  | mediaRx => exact keeps_execMediaRx s h_s
  | pmBinRollover _ _ => exact keeps_execPmBinRollover _ _ s h_s
  | twinModePair _ _ _ => exact keeps_execTwinModePair _ _ _ s h_s
  | twinModeSolo _ _ _ => exact keeps_execTwinModeSolo _ _ _ s h_s
  | twinHandover _ _ _ => exact keeps_execTwinHandover _ _ _ s h_s
  | twinResync _ _ _ => exact keeps_execTwinResync _ _ _ s h_s
  | twinHbTx => exact keeps_execTwinHbTx s h_s
  | twinHbRx => exact keeps_execTwinHbRx s h_s
  | hbSymbolTx => exact keeps_execHbSymbolTx s h_s
  | hbSymbolRx a b c d => exact keeps_execHbSymbolRx a b c d s h_s
  | livenessTimeout => exact keeps_execLivenessTimeout s h_s
  | peerSilenceTimeout => exact keeps_execPeerSilenceTimeout s h_s
  | journalRx => exact keeps_execJournalRx s h_s
  | journalAckRx => exact keeps_execJournalAckRx s h_s
  | journalResendExpiry => exact keeps_execJournalResendExpiry s h_s
  | standbyLostExpiry => exact keeps_execStandbyLostExpiry s h_s
  | twinCtrlDetach => exact keeps_execTwinCtrlDetach s h_s
  | twinCtrlDisarm => exact keeps_execTwinCtrlDisarm s h_s
  | twinCtrlKekProof => exact keeps_execTwinCtrlKekProof s h_s
  | twinCtrlResendRequest => exact keeps_execTwinCtrlResendRequest s h_s
  | snapshotRx => exact keeps_execSnapshotRx s h_s
  | snapshotApplied => exact keeps_execSnapshotApplied s h_s
  | timeRecheckExpiry => exact keeps_execTimeRecheckExpiry s h_s
  | ptpAnnounceRx _ _ _ => exact keeps_execPtpAnnounceRx _ _ _ s h_s
  | ptpSyncRx _ _ _ _ => exact keeps_execPtpSyncRx _ _ _ _ s h_s
  | ptpDelayRespRx _ _ _ => exact keeps_execPtpDelayRespRx _ _ _ s h_s
  | ptpDelayReqTx => exact keeps_execPtpDelayReqTx s h_s
  | announceTimeout => exact keeps_execAnnounceTimeout s h_s
  | ppsEdge => exact keeps_execPpsEdge s h_s
  | ppsMissingExpiry => exact keeps_execPpsMissingExpiry s h_s
  | pulseEdge _ => exact keeps_execPulseEdge _ s h_s
  | pulseWrite _ _ _ _ _ _ => exact keeps_execPulseWrite _ _ _ _ _ _ s h_s
  | hostTodWrite _ _ _ _ => exact keeps_execHostTodWrite _ _ _ _ s h_s
  | timestampHoldExpiry => exact keeps_execTimestampHoldExpiry s h_s
  | syncInLoss _ => exact keeps_execSyncInLoss _ s h_s
  | targetWrite _ _ _ _ => exact keeps_execTargetWrite _ _ _ _ s h_s
  | summerReached => exact keeps_execSummerReached s h_s
  | summerHoldExpiry => exact keeps_execSummerHoldExpiry s h_s
  | autumnDrained => exact keeps_execAutumnDrained s h_s
  | autumnLimitExpiry => exact keeps_execAutumnLimitExpiry s h_s
  | winterEntry => exact keeps_execWinterEntry s h_s
  | pmeTurnOff => exact keeps_execPmeTurnOff s h_s
  | midwinterEntry => exact keeps_execMidwinterEntry s h_s
  | wakeEvent _ _ => exact keeps_execWakeEvent _ _ s h_s
  | thawComplete => exact keeps_execThawComplete s h_s
  | perstAssert => exact keeps_execPerstAssert s h_s
  | perstRelease _ => exact keeps_execPerstRelease _ s h_s
  | sysReset => exact keeps_execSysReset s h_s
  | junctionSample _ => exact keeps_execJunctionSample _ s h_s
  | throttleStep _ => exact keeps_execThrottleStep _ s h_s
  | thermalHoldExpiry => exact keeps_execThermalHoldExpiry s h_s
  | seasonScriptsWrite _ _ _ _ => exact keeps_execSeasonScriptsWrite _ _ _ _ s h_s
  | scriptTimeout => exact keeps_execScriptTimeout s h_s
  | bootOffer _ => exact keeps_execBootOffer _ s h_s
  | bootImageVerified => exact keeps_execBootImageVerified s h_s
  | lifecycleAdvance _ _ _ _ _ => exact keeps_execLifecycleAdvance _ _ _ _ _ s h_s
  | identityGenerate _ _ _ _ => exact keeps_execIdentityGenerate _ _ _ _ s h_s
  | ownerHashWrite _ _ _ _ _ _ => exact keeps_execOwnerHashWrite _ _ _ _ _ _ s h_s
  | ownerKekWrite _ _ _ _ _ => exact keeps_execOwnerKekWrite _ _ _ _ _ s h_s
  | ownerRevokeWrite _ _ _ _ _ => exact keeps_execOwnerRevokeWrite _ _ _ _ _ s h_s
  | bootPolicyWrite _ _ _ _ _ => exact keeps_execBootPolicyWrite _ _ _ _ _ s h_s
  | minVersionCommit _ _ _ _ _ => exact keeps_execMinVersionCommit _ _ _ _ _ s h_s
  | frostWrite _ _ _ _ => exact keeps_execFrostWrite _ _ _ _ s h_s
  | challengeRead _ _ => exact keeps_execChallengeRead _ _ s h_s
  | nonceExpiry => exact keeps_execNonceExpiry s h_s
  | tokenSignatureWrite _ _ _ _ => exact keeps_execTokenSignatureWrite _ _ _ _ s h_s
  | debugUnlock _ _ _ _ => exact keeps_execDebugUnlock _ _ _ _ s h_s
  | debugClose _ _ _ => exact keeps_execDebugClose _ _ _ s h_s
  | jtagDbgchal => exact keeps_execJtagDbgchal s h_s
  | jtagDbgauth _ _ => exact keeps_execJtagDbgauth _ _ s h_s
  | attestRequest _ _ _ _ _ => exact keeps_execAttestRequest _ _ _ _ _ s h_s
  | attestReportRead _ _ _ => exact keeps_execAttestReportRead _ _ _ s h_s
  | handlerRun => exact keeps_execHandlerRun s h_s
  | fatalReset _ => exact keeps_execFatalReset _ s h_s
  | logSelectWrite _ _ _ _ => exact keeps_execLogSelectWrite _ _ _ _ s h_s
  | watchdogKick => exact keeps_execWatchdogKick s h_s
  | watchdogWarnExpiry => exact keeps_execWatchdogWarnExpiry s h_s
  | watchdogResetExpiry => exact keeps_execWatchdogResetExpiry s h_s
  | scanGo _ _ _ => exact keeps_execScanGo _ _ _ s h_s
  | scanDone => exact keeps_execScanDone s h_s
  | imageScrubCheck _ => exact keeps_execImageScrubCheck _ s h_s
  | aonPowerOn => exact keeps_execAonPowerOn s h_s
  | pwrOkRise _ => exact keeps_execPwrOkRise _ s h_s
  | strapResample _ _ => exact keeps_execStrapResample _ _ s h_s
  | pwrOkFall => exact keeps_execPwrOkFall s h_s
  | powerLossRestart => exact keeps_execPowerLossRestart s h_s
  | refclkLoss => exact keeps_execRefclkLoss s h_s
  | xtalLoss => exact keeps_execXtalLoss s h_s
  | laneSignalChange _ _ => exact keeps_execLaneSignalChange _ _ s h_s
  | sta _ _ _ _ => exact keeps_execSta _ _ _ _ s h_s
  | ld _ _ _ => exact keeps_execLd _ _ _ s h_s
  | st _ _ _ => exact keeps_execSt _ _ _ s h_s
  | b _ _ _ _ => exact keeps_execB _ _ _ _ s h_s
  | refclkReturn _ => exact keeps_execRefclkReturn _ s h_s
  | aonPowerLoss => exact keeps_execAonPowerLoss s h_s
  | transmitterPresetTimeout _ => exact keeps_execTransmitterPresetTimeout _ s h_s

end Sys2Proof.Machine
end

