-- ==== Sys2Proof/Laws/Memory.lean ====
section
/-! SUPPORT. What the HBM controllers' admission can do: a request that arrives at a controller whose router holds nothing is accepted when
the controller has room and waits otherwise, and an admission with an empty router does nothing. Also what
a packet into an egress queue leaves alone. -/

namespace Sys2Proof.Machine

/-- The begin of a copy touches the hardware queues only. -/
theorem beginRead_facts (s : State) (o : MemOp) :
    (beginRead s o).mem = s.mem ∧ (beginRead s o).mm = s.mm := by
  unfold beginRead
  split
  · split
    · unfold State.updQ
      split
      · exact ⟨by rw [withIrq_mem]; rfl, by rw [withIrq_mm]; rfl⟩
      · dsimp only
        split
        · exact ⟨by unfold State.raiseCause; rw [withIrq_mem]; rfl, by unfold State.raiseCause; rw [withIrq_mm]; rfl⟩
        · exact ⟨rfl, rfl⟩
    · exact ⟨rfl, rfl⟩
  · exact ⟨rfl, rfl⟩

/-- An octet of HBM depends on the memory alone. -/
theorem rdByte_congr {s t : State} (h : t.mem = s.mem) (x : Nat) : t.rdByte x = s.rdByte x := by unfold State.rdByte; rw [h]

theorem unitAt_congr {s t : State} (h : t.mem = s.mem) (a : Nat) : unitAt t a = unitAt s a := by
  unfold unitAt
  simp only [rdByte_congr h]

theorem regionClass_le (p : Nat) : regionClass p ≤ 3 := by
  unfold regionClass
  split
  · omega
  · split
    · omega
    · split <;> omega

theorem reqClass_le (s : State) (o : MemOp) : reqClass s o ≤ 3 := by
  unfold reqClass
  split
  · omega
  · omega
  · omega
  · omega
  · exact regionClass_le _

theorem channelHeads_nil : channelHeads [] = [] := rfl

theorem channelHeads_one {r : MemReq} (h : r.cls ≤ 3) : channelHeads [r] = [r] := by
  unfold channelHeads
  have : r.cls = 0 ∨ r.cls = 1 ∨ r.cls = 2 ∨ r.cls = 3 := by omega
  rcases this with e | e | e | e <;> simp [List.filterMap, e]

/-- A controller whose router holds nothing takes nothing. -/
theorem letIn_idle {s : State} {p : Nat} (h : (s.pc p).stalled = []) (n : Nat) : letIn s p n = s := by
  cases n with
  | zero => rfl
  | succ n =>
    unfold letIn
    dsimp only
    rw [h, channelHeads_nil]
    rfl

/-- The request an arrival makes, and the state in which its controller judges it. -/
def arrival (s : State) (o : MemOp) : MemReq := ⟨o, reqClass s o, s.mm.nextId, s.mono, false, 0, 0, false⟩
def arrived (s : State) (p : Nat) (l : List MemReq) : State :=
  { s with mm := { s.mm with nextId := s.mm.nextId + 1 } }.setPc p { s.pc p with stalled := l }

theorem arrived_pc (s : State) (p : Nat) (l : List MemReq) : (arrived s p l).pc p = { s.pc p with stalled := l } := pc_setPc ..
theorem arrived_mem (s : State) (p : Nat) (l : List MemReq) : (arrived s p l).mem = s.mem := rfl

/-- An arrival at a controller with an empty router and room is accepted (R308). -/
theorem arrive_room {s : State} {o : MemOp} {p : Nat} (hp : s.pcOf o.addr = some p) (h : (s.pc p).stalled = [])
    (hr : { s.pc p with stalled := [arrival s o] }.hasRoom (arrival s o) = true) :
    arriveReq s o = acceptReq ((arrived s p [arrival s o]).setPc p { s.pc p with stalled := [] }) p (arrival s o) := by
  unfold arriveReq
  rw [hp]
  dsimp only
  rw [h]
  change letIn (arrived s p [arrival s o]) p 1 = _
  unfold letIn
  dsimp only
  rw [arrived_pc, channelHeads_one (reqClass_le _ _), List.find?_cons_of_pos hr]
  dsimp only
  unfold letIn
  simp

/-- An arrival at a controller with an empty router and no room waits in its router (R19). -/
theorem arrive_full {s : State} {o : MemOp} {p : Nat} (hp : s.pcOf o.addr = some p) (h : (s.pc p).stalled = [])
    (hr : { s.pc p with stalled := [arrival s o] }.hasRoom (arrival s o) = false) :
    arriveReq s o = arrived s p [arrival s o] := by
  unfold arriveReq
  rw [hp]
  dsimp only
  rw [h]
  change letIn (arrived s p [arrival s o]) p 1 = _
  unfold letIn
  dsimp only
  rw [arrived_pc, channelHeads_one (reqClass_le _ _)]
  have : List.find? (fun r => PcCtl.hasRoom { s.pc p with stalled := [arrival s o] } r) [arrival s o] = none := by
    simp [hr]
  rw [this]

/-- A masked write of a unit changes exactly the octets its mask selects. -/
theorem rdByte_writeUnit (s : State) (a mask data x : Nat) : (writeUnit s a mask data).rdByte x =
    if a ≤ x ∧ x < a + 32 ∧ bit mask (x - a) then BitVec.ofNat 8 (octet data (x - a)) else s.rdByte x := by
  unfold writeUnit
  rw [writeUnit_list _ _ _ _ List.nodup_range]
  have e : (a ≤ x ∧ x - a ∈ List.range 32 ∧ bit mask (x - a) = true) ↔ (a ≤ x ∧ x < a + 32 ∧ bit mask (x - a) = true) := by
    rw [List.mem_range]
    constructor <;> (rintro ⟨a, b, c⟩; exact ⟨a, by omega, c⟩)
  simp only [e]

/-- What an accepted write does to memory. -/
theorem acceptReq_write {s : State} {p : Nat} {r : MemReq} (h : r.op.write = true) (x : Nat) : (acceptReq s p r).rdByte x =
    if r.op.addr ≤ x ∧ x < r.op.addr + 32 ∧ bit r.op.mask (x - r.op.addr) then BitVec.ofNat 8 (octet r.op.data (x - r.op.addr)) else s.rdByte x := by
  unfold acceptReq
  dsimp only
  rw [if_pos h]
  refine Eq.trans ?_ (rdByte_writeUnit { s with mm := { s.mm with nextId := s.mm.nextId + 1 } } r.op.addr r.op.mask r.op.data x)
  refine rdByte_congr ?_ x
  have hm : ∀ (u : State) (q : Prop) [Decidable q] (a n : Nat), (if q then u.heal a n else u).mem = u.mem := by
    intro u q _ a n
    split <;> rfl
  rw [show ∀ (u : State) (x : PcCtl), (u.setPc p x).mem = u.mem from fun _ _ => rfl, hm]

/-- A packet into an egress queue tells the queue and its record's neighbours only. -/
theorem enqueue_told (s : State) (p : OutPkt) : Told s (s.enqueue p) := by
  unfold State.enqueue
  split
  · exact Told.refl s
  · exact (Told.refl s).push _ _ _

end Sys2Proof.Machine
end

