-- ==== Sys2Proof/Laws/Step.lean ====
section
/-! SUPPORT. What one step of the block keeps: a command's exec, or the clocks alone. -/

namespace Sys2Proof.Machine

set_option linter.unusedTactic false
set_option linter.unreachableTactic false
set_option linter.unusedSimpArgs false
set_option linter.unusedVariables false

/-- A step on an empty queue moves the clocks, and the beginning of SUMMER's hold. -/
theorem idle_eq (s : State) : ∃ tod tm pw, idle s = { s with mono := s.mono + 1, tod := tod, tm := tm, pw := pw } := by
  unfold idle
  have hc : ∃ tod tm, clockTick s = { s with mono := s.mono + 1, tod := tod, tm := tm } := by
    unfold clockTick
    dsimp only
    split
    · exact ⟨s.tod, s.tm, rfl⟩
    · exact ⟨_, _, rfl⟩
  obtain ⟨a, b, h⟩ := hc
  rw [h]
  dsimp only
  split
  · exact ⟨a, b, _, rfl⟩
  · exact ⟨a, b, s.pw, rfl⟩

theorem keeps_next {σ i s t} (h : Keeps.outcome σ (exec i s)) (e : exec i s = .next t) : Keeps σ t := by
  rw [e] at h
  exact h

end Sys2Proof.Machine
end

