-- ==== Sys2Proof/Machine/Package.lean ====
section
/-! DEFINITION. The package (spec/21, R438): the voltage a VID code names, the names of the balls, the ball of every lane pin and of every
other signal, the rail of every power ball. -/

namespace Sys2Proof.Machine

/-! ### Voltage (R438) -/

/-- V_VID in millivolts of a VID code; a reserved code names none. -/
def vidMillivolts (vid : Nat) : Option Nat :=
  if vid = 0 then some 750 else if vid ≤ 33 then some (665 + 5 * vid) else none

/-! ### The grid (R455, Table 21.3) -/

/-- A ball by its row and column number, each 1 to 61. -/
structure Ball where
  row : Nat
  col : Nat
deriving DecidableEq, Repr

/-- The last letters of row names. -/
def rowLetters : List String :=
  ["A", "B", "C", "D", "E", "F", "G", "H", "J", "K", "L", "M", "N", "P", "T", "U", "V", "W", "Y"]

/-- The letters that name a row. -/
def rowName (r : Nat) : String := ["", "A", "B", "C"].getD ((r - 1) / 19) "" ++ rowLetters.getD ((r - 1) % 19) ""

/-- A ball's name: its row letters followed by its column number. -/
def Ball.name (b : Ball) : String := rowName b.row ++ toString b.col

/-! ### Lanes (R456, Table 21.4) -/

/-- A high-speed lane by its port. -/
inductive PortLane
  | nq (p l : Nat)
  | tw (l : Nat)
  | eth (p l : Nat)
  | mg0
  | pcie (l : Nat)
deriving DecidableEq, Repr

/-- The ball of a lane's pin: receive or transmit, N or P. -/
def laneBall (x : PortLane) (rx n : Bool) : Ball :=
  let d := if n then 1 else 0
  let north := fun (k : Nat) => Ball.mk (if rx then 5 else 2) (6 + 3 * k + d)
  let south := fun (k : Nat) => Ball.mk (if rx then 57 else 60) (6 + 3 * k + d)
  let west := fun (k : Nat) => Ball.mk (14 + 3 * k + d) (if rx then 5 else 2)
  let east := fun (k : Nat) => Ball.mk (14 + 3 * k + d) (if rx then 57 else 60)
  match x with
  | .nq p l => if p < 3 then north (4 * p + l) else south (4 * (p - 3) + l)
  | .tw l => north (12 + l)
  | .eth p l => west (4 * p + l)
  | .mg0 => west 8
  | .pcie l => east l

/-- The lanes of the part. -/
def partLanes : List PortLane :=
  (List.range 24).map (fun i => .nq (i / 4) (i % 4)) ++ [.tw 0, .tw 1] ++ (List.range 8).map (fun i => .eth (i / 4) (i % 4)) ++ [.mg0] ++
    (List.range 8).map .pcie

/-- Balls of the lanes. -/
def laneBalls : List Ball :=
  partLanes.flatMap (fun x => [laneBall x false false, laneBall x false true, laneBall x true false, laneBall x true true])

/-! ### The other signals (R457, Table 21.5) -/

/-- The reserved balls, which stay open (Table 21.7). -/
def reservedBalls : List Ball := [⟨44, 2⟩, ⟨44, 3⟩, ⟨44, 4⟩, ⟨44, 5⟩]

/-- The pins of Table 21.5 with their balls. -/
def otherSignals : List (String × Ball) :=
  [("PCIE_REFCLK_P", ⟨38, 60⟩), ("HB_TX_N", ⟨43, 3⟩), ("TP3", ⟨46, 5⟩), ("PCIE_REFCLK_N", ⟨39, 60⟩), ("HB_RX_P", ⟨43, 5⟩),
    ("PPS_IN", ⟨46, 6⟩), ("PERST_N", ⟨38, 57⟩), ("HB_RX_N", ⟨43, 6⟩), ("SYNC_IN", ⟨47, 2⟩), ("WAKE_N", ⟨39, 57⟩),
    ("TCK", ⟨45, 2⟩), ("REFCLK_SYS_P", ⟨47, 4⟩), ("XTAL32_IN", ⟨41, 2⟩), ("TMS", ⟨45, 3⟩), ("REFCLK_SYS_N", ⟨47, 5⟩),
    ("XTAL32_OUT", ⟨41, 4⟩), ("TDI", ⟨45, 4⟩), ("STRAP_MG0_SEL", ⟨48, 2⟩), ("SYS_RST_N", ⟨42, 2⟩), ("TDO", ⟨45, 5⟩),
    ("STRAP_PCIE_SRIS", ⟨48, 3⟩), ("PWR_OK", ⟨42, 3⟩), ("TRST_N", ⟨45, 6⟩), ("STRAP_TESTEN", ⟨48, 4⟩), ("MAIN_PWR_EN", ⟨42, 4⟩),
    ("TP0", ⟨46, 2⟩), ("VDD_CORE_SENSE_P", ⟨25, 30⟩), ("HB_TX_P", ⟨43, 2⟩), ("TP1", ⟨46, 3⟩), ("VDD_CORE_SENSE_N", ⟨25, 32⟩),
    ("TP2", ⟨46, 4⟩), ("VDD_SRAM_SENSE_P", ⟨25, 34⟩), ("VDD_SRAM_SENSE_N", ⟨25, 36⟩)]

/-! ### Power and ground (R458, Table 21.6) -/

/-- What a ball carries. -/
inductive Rail
  | core | sram | vddqHbm | vddHbm | vppHbm | serdes | serdesH | io | ioAon | aon | signal | rsvd | vss
deriving DecidableEq, Repr

/-- The region a ball lies in, where it lies in one. -/
def regionRail (b : Ball) : Option Rail :=
  let inRow := fun (lo hi : Nat) => decide (lo ≤ b.row) && decide (b.row ≤ hi)
  let inCol := fun (lo hi : Nat) => decide (lo ≤ b.col) && decide (b.col ≤ hi)
  if inRow 14 48 && inCol 14 48 then some .core
  else if (inRow 12 13 || inRow 49 50) && inCol 14 48 then some .sram
  else if (inRow 11 11 || inRow 51 51) && inCol 14 48 then some .vddqHbm
  else if (inRow 10 10 || inRow 52 52) && inCol 14 48 then some .vddHbm
  else if (inRow 9 9 || inRow 53 53) && inCol 28 34 then some .vppHbm
  else if (inRow 7 7 || inRow 55 55) && inCol 6 46 || inRow 14 39 && (inCol 7 7 || inCol 55 55) then some .serdes
  else if (inRow 8 8 || inRow 54 54) && inCol 6 46 || inRow 14 39 && (inCol 8 8 || inCol 54 54) then some .serdesH
  else if inRow 41 48 && inCol 8 8 then some .io
  else if inRow 41 44 && inCol 7 7 then some .ioAon
  else if inRow 45 48 && inCol 7 7 then some .aon
  else none

/-- What a ball of the part carries: a named signal, the rail of its region where row plus column is even, else ground. -/
def ballRail (b : Ball) : Rail :=
  if laneBalls.contains b || (otherSignals.map Prod.snd).contains b then .signal
  else if reservedBalls.contains b then .rsvd
  else if (b.row + b.col) % 2 = 0 then (regionRail b).getD .vss
  else .vss

end Sys2Proof.Machine
end

