-- ==== Sys2Proof/Tests/Slice0.lean ====
section
/-! SUPPORT. Tests of this model: ill-formed commands that the checks refuse, words of small commands against the spec, and for every statement
with hypotheses a state and operands that meet them. -/

open Sys2Proof Sys2Proof.Machine

namespace Sys2Proof.Tests

/-! ### Ill-formed commands -/

def blankImage : Image := ⟨[]⟩
def blankToken : Token := ⟨[]⟩
def blankReq : Req := ⟨0, 0, 0, 0, 0, 0, 0, 0, 0, 0⟩
def blankFrame : Frame := ⟨64, [], 0x0800, true, 5, 0, false, true, true, false, true, 0, 0, 0, 0, .raw 0 0⟩
def blankFab : FabFrame := ⟨0, 0, 0, 0, 0, 0, 0, 0, .ack 0 0⟩
def blankDatagram : Datagram := ⟨0, 0, 0, 0, 0, 0, 0, true, blankReq, .num 0⟩

theorem test_ill_formed_operands : ([
    (.ld 0 false (.ld 0 (.offset 0 32))),
    (.ld 0 false (.ld 0 (.offset 0 (-33)))),
    (.ld 0 false (.ld2 0 (.indirect 0) 32 (.indirect 0))),
    (.st 0 false (.stp 0 (.postMod 0 16))),
    (.sta 0 false 0 (.mov (.pair 1) .cyc)),
    (.sta 0 false 0 (.mov (.p 16) .cyc)),
    (.sta 0 false 0 (.mov .mode (.reg (.lc 4)))),
    (.sta 0 false 0 (.setG 32))] : List Instr).all (fun i => !i.ok) = true := by decide

theorem test_ill_formed_1 : ([
    (.dictRead .fw { blankReq with op := 256 } 0),
    (.dictWrite .fw { blankReq with op := 256 } (.num 0)),
    (.describe .fw { blankReq with op := 256 }),
    (.groupOpen (.mbx 64) 0),
    (.groupOpen .fw 65536),
    (.groupCommit .fw 0 65536),
    (.groupDiscard .fw 0 65536),
    (.groupTimeoutExpiry 0),
    (.operatorSessionOpen .fw 0 ⟨[256]⟩),
    (.indirectTransferDone 64 (.num 0)),
    (.hostReadCompletionTimeout true 2048 0),
    (.hostReadErrorCompletion true 2048 0),
    (.dtpDatagramRx { blankDatagram with datalen := 1025 }),
    (.dtpSigfrag false 0 1 1 0 ⟨[]⟩),
    (.dtpSigfrag false 0 0 65536 0 ⟨[]⟩),
    (.dtpSigfrag false 0 0 1 1 ⟨[]⟩),
    (.dtpSigfrag false 0 0 0 0 ⟨[256]⟩),
    (.registerWrite (.bar0 2) false 0),
    (.bar2Read 4095 2),
    (.bar2Write 0 []),
    (.mbxMsgWrite 64 0 0),
    (.mbxMsgWrite 0 16 0),
    (.mbxGoSet 64 0),
    (.mbxTake 64)] : List Instr).all (fun i => !i.ok) = true := by decide

theorem test_ill_formed_2 : ([
    (.mbxResponseTaken 64),
    (.mbxDropRead false 64),
    (.msixVectorUnmask 2048),
    (.ringEnable 2048 0),
    (.ringDisable 2048 0),
    (.doorbellH2d 2048 0),
    (.doorbellH2d 0 4294967296),
    (.doorbellD2h 2048 0),
    (.doorbellD2h 0 4294967296),
    (.ringFlush 2048),
    (.ringWmcntRead 2048),
    (.wmCrossedClear 65536),
    (.ringItemFetch 2048 0),
    (.queueReserve 65536 ⟨64, .none⟩),
    (.queueReserve 0 ⟨64, .allocate false 0⟩),
    (.queueClose 65536 .blank),
    (.queueFlush .fw 0 65536 0),
    (.queueFlush .fw 0 0 65536),
    (.legRegister (.mbx 64) 0 0 0),
    (.legRegister .fw 65536 0 0),
    (.legRegister .fw 0 65536 0),
    (.legRegister .fw 0 0 131072),
    (.legActivate .fw 0 65536 0),
    (.legActivate .fw 0 0 131072)] : List Instr).all (fun i => !i.ok) = true := by decide

theorem test_ill_formed_3 : ([
    (.legDeactivate .fw 0 65536 0),
    (.legDeactivate .fw 0 0 131072),
    (.legFree .fw 0 65536 0),
    (.legFree .fw 0 0 131072),
    (.legQuiescent 131072),
    (.egressQueueRelease 131072),
    (.legRxTimeout 131072),
    (.confActivate (.mbx 64) 0 0 0),
    (.confActivate .fw 65536 0 0),
    (.confActivate .fw 0 65536 0),
    (.confActivate .fw 0 0 16384),
    (.confFree .fw 0 65536 0),
    (.confFree .fw 0 0 16384),
    (.anchorRepoint .fw 0 65536 0 false 0),
    (.anchorRepoint .fw 0 0 16384 false 0),
    (.ethFrameRx 2 blankFrame),
    (.ethFrameRx 0 { blankFrame with etherType := 65536 }),
    (.classifierImageWrite .fw 0 65536 blankImage),
    (.classifierImageWrite .fw 0 0 ⟨[256]⟩),
    (.cipherDispatch 8),
    (.cipherResultRelease 8 false),
    (.jitterDepthAdjust 131072),
    (.videoWaitExpiry 131072 0),
    (.videoWaitExpiry 0 8)] : List Instr).all (fun i => !i.ok) = true := by decide

theorem test_ill_formed_4 : ([
    (.nackSend 131072 0),
    (.nackSend 0 8),
    (.nackRetry 131072 0),
    (.nackRetry 0 8),
    (.rtcpReportTimer 131072),
    (.promptItemFetch 32 0 ⟨false, 0, 0, 0, 0, 0, 0, 0, false, false, []⟩),
    (.tapEnable .fw 0 65536 false 0),
    (.keySuiteWrite .fw 0 65536 0 0),
    (.keySuiteWrite .fw 0 0 65536 0),
    (.keyLoad (.mbx 64) 0 0 0 0 0),
    (.keyLoad .fw 65536 0 0 0 0),
    (.keyLoad .fw 0 65536 0 0 0),
    (.keyLoad .fw 0 0 65536 0 0),
    (.keyWrappedLoad .fw 0 65536 0 0 ⟨[]⟩),
    (.keyWrappedLoad .fw 0 0 65536 0 ⟨[]⟩),
    (.keyErase .fw 0 65536 0),
    (.keyErase .fw 0 0 65536),
    (.keyEraseComplete 65536),
    (.windowCommitRelease 131072 0),
    (.windowCommitRelease 0 4),
    (.workItemPost 4 [0, 0, 0, 0, 0, 0, 0, 0]),
    (.workItemPost 0 []),
    (.workItemStart 128),
    (.workItemComplete 128 0 0)] : List Instr).all (fun i => !i.ok) = true := by decide

theorem test_ill_formed_5 : ([
    (.completionRecordRoom 65537),
    (.waitLimitExpiry 65536),
    (.runLimitExpiry 128),
    (.coreOnlineClear .fw 0 65536 0 0),
    (.coreOnlineClear .fw 0 0 4 0),
    (.mpy 128 0),
    (.mac 128 0),
    (.macsh 128 0),
    (.rnda 128 0),
    (.clr 128 0),
    (.acs 128 0),
    (.loopOp 128 false 0 0 0),
    (.loopOp 0 false 4 0 0),
    (.breakOp 128 false),
    (.reti 128),
    (.endOp 128),
    (.dmar 128 false 0 0 0),
    (.dmar 0 false 0 32 0),
    (.dmaw 128 false 0 0 0),
    (.dmaw 0 false 0 32 0),
    (.dmawait 128 false 0),
    (.dmaTransferComplete 128 0),
    (.interruptEntry 128 .tmr),
    (.tmrMatch 128)] : List Instr).all (fun i => !i.ok) = true := by decide

theorem test_ill_formed_6 : ([
    (.matenLoad .fw 0 65536 blankImage),
    (.matenLoad .fw 0 0 ⟨[256]⟩),
    (.matenUnload .fw 0 65536 0),
    (.legAudioDecode 128),
    (.mixPhaseTimer 16384),
    (.confMix 128),
    (.legAudioEncode 128),
    (.returnWaitExpiry 16384),
    (.dctxEnable (.mbx 64) 0 0 0),
    (.dctxEnable .fw 65536 0 0),
    (.dctxEnable .fw 0 65536 0),
    (.dctxEnable .fw 0 0 4096),
    (.dctxDisable .fw 0 65536 0),
    (.dctxDisable .fw 0 0 4096),
    (.dctxQuiescent 4096),
    (.pipePictureStart 8),
    (.pictureDecodeComplete 8),
    (.keyRequestPacing 4096),
    (.decodePipeEccError 8),
    (.canvasSetCommit .fw 0 65536 0),
    (.canvasSetCommit .fw 0 0 1024),
    (.operatorCommit .fw 0 65536 0),
    (.operatorImageWrite .fw 0 65536 0 ⟨true, 0, 0, false, []⟩),
    (.composeBandDone 4)] : List Instr).all (fun i => !i.ok) = true := by decide

theorem test_ill_formed_7 : ([
    (.layoutRun 1024),
    (.layoutRunEnd 1024 [] false),
    (.layoutRunLimit 1024),
    (.layoutLoad .fw 0 65536 blankImage),
    (.layoutLoad .fw 0 0 ⟨[256]⟩),
    (.layoutUnload .fw 0 65536 0),
    (.actxEnable (.mbx 64) 0 0 0),
    (.actxEnable .fw 65536 0 0),
    (.actxEnable .fw 0 65536 0),
    (.actxEnable .fw 0 0 1024),
    (.actxDisable .fw 0 65536 0),
    (.actxDisable .fw 0 0 1024),
    (.analysisBandDone 6),
    (.rctxEnable .fw 0 65536 0),
    (.rctxEnable .fw 0 0 4096),
    (.rctxDisable .fw 0 65536 0),
    (.rctxDisable .fw 0 0 4096),
    (.renditionPictureStart 16),
    (.renditionBandCode 16 0 0 0),
    (.renditionPictureDone 16),
    (.rcPictureStart 16 0 0),
    (.rcBandEnd 16 0),
    (.rcCallLimit 16),
    (.rcLoad .fw 0 65536 blankImage)] : List Instr).all (fun i => !i.ok) = true := by decide

theorem test_ill_formed_8 : ([
    (.rcLoad .fw 0 0 ⟨[256]⟩),
    (.rcUnload .fw 0 65536 0),
    (.rctxKeyRequest .fw 0 65536 0),
    (.rctxKeyRequest .fw 0 0 4096),
    (.periodicKeyExpiry 4096),
    (.ltrIntervalExpiry 4096),
    (.trellisResult 16 0),
    (.trellisWaitExpiry 16),
    (.encodeUnitEccError true 6),
    (.feedModeWrite (.mbx 64) 0 0 0 0 0),
    (.feedModeWrite .fw 65536 0 0 0 0),
    (.feedModeWrite .fw 0 65536 0 0 0),
    (.feedModeWrite .fw 0 0 131072 0 0),
    (.feedModeWrite .fw 0 0 0 4 0),
    (.feedFixedSelect .fw 0 65536 0 0 0),
    (.feedFixedSelect .fw 0 0 131072 0 0),
    (.feedFixedSelect .fw 0 0 0 4 0),
    (.adaptFeedbackCall 131072 0),
    (.adaptFeedbackCall 0 4),
    (.adaptTick 131072 0 0 0 0),
    (.adaptTick 0 4 0 0 0),
    (.adaptCallLimit 131072 0 false),
    (.adaptCallLimit 0 4 false),
    (.adaptLoad .fw 0 65536 blankImage)] : List Instr).all (fun i => !i.ok) = true := by decide

theorem test_ill_formed_9 : ([
    (.adaptLoad .fw 0 0 ⟨[256]⟩),
    (.adaptUnload .fw 0 65536 0),
    (.switchKeyWaitExpiry 131072 0),
    (.switchKeyWaitExpiry 0 4),
    (.shaperRelease 2),
    (.shaperAgeOut 131072),
    (.legShaperWrite .fw 0 65536 0 0 0),
    (.legShaperWrite .fw 0 0 131072 0 0),
    (.groupShaperWrite .fw 0 65536 false 0 0 0),
    (.partApply (.mbx 64) 0 0),
    (.partApply .fw 65536 0),
    (.partApply .fw 0 65536),
    (.memRequestServe 64 .clean),
    (.agePromotion 64),
    (.rowIdleClose 64 0),
    (.hostReadWindowsWrite .fw 0 65536 0),
    (.fabricFrameRx 7 blankFab false 0),
    (.fabricFrameRx 0 { blankFab with vc := 4 } false 0),
    (.creditBlockRx 7 [] false),
    (.creditBlockTx 7),
    (.fabricFrameTx 7),
    (.helloTx 7),
    (.deadIntervalExpiry 7),
    (.nqPortEnable .fw 0 65536 0)] : List Instr).all (fun i => !i.ok) = true := by decide

theorem test_ill_formed_10 : ([
    (.nqPortEnable .fw 0 0 6),
    (.nqPortDisable .fw 0 65536 0),
    (.nqPortDisable .fw 0 0 6),
    (.defectHoldExpiry 7),
    (.fdevWrite (.mbx 64) 0 0 0),
    (.fdevWrite .fw 65536 0 0),
    (.fdevWrite .fw 0 65536 0),
    (.joinRetryExpiry 16384),
    (.remotePartialTimeout 16384 0),
    (.remotePartialTimeout 0 512),
    (.pmBinRollover 3 false),
    (.twinModePair (.mbx 64) 0 0),
    (.twinModePair .fw 65536 0),
    (.twinModePair .fw 0 65536),
    (.twinModeSolo .fw 0 65536),
    (.twinHandover .fw 0 65536),
    (.twinResync .fw 0 65536),
    (.pulseEdge 4),
    (.pulseWrite .fw 0 65536 0 0 0),
    (.pulseWrite .fw 0 0 4 0 0),
    (.hostTodWrite (.mbx 64) 0 0 0),
    (.hostTodWrite .fw 65536 0 0),
    (.hostTodWrite .fw 0 65536 0),
    (.targetWrite (.mbx 64) 0 0 0)] : List Instr).all (fun i => !i.ok) = true := by decide

theorem test_ill_formed_11 : ([
    (.targetWrite .fw 65536 0 0),
    (.targetWrite .fw 0 65536 0),
    (.wakeEvent 8 0),
    (.wakeEvent 0 6),
    (.seasonScriptsWrite .fw 0 65536 blankImage),
    (.seasonScriptsWrite .fw 0 0 ⟨[256]⟩),
    (.bootOffer ⟨[256]⟩),
    (.lifecycleAdvance .fw 0 65536 0 false),
    (.identityGenerate .fw 0 65536 false),
    (.ownerHashWrite .fw 0 65536 0 0 false),
    (.ownerKekWrite .fw 0 65536 0 false),
    (.ownerRevokeWrite .fw 0 65536 0 false),
    (.bootPolicyWrite .fw 0 65536 0 false),
    (.minVersionCommit .fw 0 65536 0 false),
    (.frostWrite (.mbx 64) 0 0 0),
    (.frostWrite .fw 65536 0 0),
    (.frostWrite .fw 0 65536 0),
    (.challengeRead (.mbx 64) 0),
    (.challengeRead .fw 65536),
    (.tokenSignatureWrite .fw 0 65536 ⟨[]⟩),
    (.tokenSignatureWrite .fw 0 0 ⟨[256]⟩),
    (.debugUnlock .fw 0 65536 blankToken),
    (.debugUnlock .fw 0 0 ⟨[256]⟩),
    (.debugClose .fw 0 65536)] : List Instr).all (fun i => !i.ok) = true := by decide

theorem test_ill_formed_12 : ([
    (.jtagDbgauth ⟨[256]⟩ blankToken),
    (.jtagDbgauth ⟨[]⟩ ⟨[256]⟩),
    (.attestRequest .fw 0 65536 0 false),
    (.logSelectWrite .fw 0 65536 0),
    (.scanGo (.mbx 64) 0 0),
    (.scanGo .fw 65536 0),
    (.scanGo .fw 0 65536),
    (.laneSignalChange 34 false),
    (.sta 128 false 0 (.movaD 0)),
    (.sta 0 false 8 (.movaD 0)),
    (.sta 0 false 0 (.movaD 32)),
    (.ld 128 false (.ld 0 (.indirect 0))),
    (.ld 0 false (.ld 32 (.indirect 0))),
    (.st 128 false (.st 0 (.indirect 0))),
    (.st 0 false (.st 0 (.indirect 16))),
    (.b 128 false .always 0),
    (.transmitterPresetTimeout 2)] : List Instr).all (fun i => !i.ok) = true := by decide

end Sys2Proof.Tests
end

section
/-! PROOFS. The hardware queues (R85 to R98): reservation, the general pool, close and the watermark's crossing. -/

namespace Sys2Proof.Machine

/-- A queue set through its watermark's interrupt is the queue read back. -/
@[simp] theorem State.updQ_q_same (s : State) (n : Nat) (q : Queue) : (s.updQ n q).q n = q := by
  unfold State.updQ
  split
  · rw [withIrq_q, State.q_setQ_same]
  · dsimp only
    split
    · rw [raiseCause_q, State.q_setQ_same]
    · rw [State.q_setQ_same]

/-- A reservation in an allocated queue: the queue as the reservation leaves it, and the answer sent. -/
theorem exec_queueReserve_allocated {s : State} {n len : Nat} {a : PoolAct} (hn : n < 65536)
    (ha : ((poolAct s n a).q n).allocated = true) : ∃ t, exec (.queueReserve n ⟨len, a⟩) s = .next t ∧
      t.q n = (((poolAct s n a).q n).reserve len).2 ∧ .reserve n (((poolAct s n a).q n).reserve len).1 ∈ t.out := by
  refine ⟨_, next_if ⟨hn, ha⟩, ?_, ?_⟩
  · rw [State.q_emit, State.updQ_q_same]
  · exact List.mem_cons_self

/-- A queue of no one takes no reservation: what the firmware did with it is all that happens. -/
theorem exec_queueReserve_free {s : State} {n len : Nat} {a : PoolAct} (ha : ((poolAct s n a).q n).allocated = false) :
    exec (.queueReserve n ⟨len, a⟩) s = .next (poolAct s n a) := by
  have h : ¬ (n < 65536 ∧ ((poolAct s n a).q n).allocated = true) := by simp [ha]
  exact congrArg Host.Outcome.next (if_neg h)

@[simp] theorem poolAct_none (s : State) (n : Nat) : poolAct s n .none = s := by
  unfold poolAct
  split <;> rfl

theorem poolAct_allocate {s : State} {n cap : Nat} (ow : Bool) (h1 : 46080 ≤ n) (h2 : n < 65536) (hf : (s.q n).allocated = false)
    (hc : 0 < cap) (hm : cap ≤ 65536) :
    poolAct s n (.allocate ow cap) = s.setQ n (Queue.fresh (if ow then .overwriteOldest else .backPressure) cap) := by
  have h : ¬ ((s.q n).allocated = true ∨ cap = 0 ∨ 65536 < cap) := by rw [hf]; simp; omega
  unfold poolAct
  rw [if_pos ⟨h1, h2⟩]
  exact if_neg h

theorem poolAct_release {s : State} {n : Nat} (h1 : 46080 ≤ n) (h2 : n < 65536) : poolAct s n .release = s.setQ n Queue.empty := by
  unfold poolAct
  rw [if_pos ⟨h1, h2⟩]

/-- The close of an item in an allocated queue that is no device-to-host ring. -/
theorem exec_queueClose_queue {s : State} {n : Nat} {body : Item} {q : Queue} (hn : n < 65536) (ha : (s.q n).allocated = true)
    (hc : (s.q n).close body = (.ok, q)) (hr : ¬ (44032 ≤ n ∧ n < 46080 ∧ (s.ring (n - 44032)).dirD2h = true)) :
    exec (.queueClose n body) s = .next (s.updQ n q) := by
  refine (next_if (p := n < 65536 ∧ (s.q n).allocated = true) ⟨hn, ha⟩).trans ?_
  rw [hc]
  exact congrArg Host.Outcome.next (if_neg hr)

/-- The close of an item in a device-to-host ring. -/
theorem exec_queueClose_ring {s : State} {n : Nat} {body : Item} {q : Queue} (ha : (s.q n).allocated = true)
    (hc : (s.q n).close body = (.ok, q)) (h1 : 44032 ≤ n) (h2 : n < 46080) (hr : (s.ring (n - 44032)).dirD2h = true) :
    exec (.queueClose n body) s = .next (withIrq (.ring (n - 44032)) (fun t => (t.setQ n q).setRing (n - 44032)
      { t.ring (n - 44032) with unreported := (t.ring (n - 44032)).unreported + 1 }) s) := by
  refine (next_if (p := n < 65536 ∧ (s.q n).allocated = true) ⟨by omega, ha⟩).trans ?_
  rw [hc]
  exact next_if ⟨h1, h2, hr⟩

/-- CROSSED is cleared through the ring's register, or through the WmState of a queue that is no host ring. -/
theorem exec_wmCrossedClear_q {s : State} {n : Nat} (hn : n < 65536)
    (h : if 44032 ≤ n ∧ n < 46080 then s.bar0Up = true ∧ s.season ≠ .winter else s.running = true) :
    ∃ t, exec (.wmCrossedClear n) s = .next t ∧ t.q n = { s.q n with crossed := false } := by
  by_cases hr : 44032 ≤ n ∧ n < 46080
  · rw [if_pos hr] at h
    have hq : ringQ (n - 44032) = n := by unfold ringQ; omega
    refine ⟨ringCrossedClear s (n - 44032), (next_if hr).trans (next_if (by simpa using h)), ?_⟩
    unfold ringCrossedClear
    rw [withIrq_q, hq, State.q_setQ_same]
  · rw [if_neg hr] at h
    refine ⟨_, (congrArg Host.Outcome.next (if_neg hr)).trans (next_if ⟨hn, h⟩), ?_⟩
    rw [State.q_setQ_same]

end Sys2Proof.Machine

open Sys2Proof Sys2Proof.Machine

/-- Settles O11: each row's own equation, by the queue it names. -/
theorem hardwareQueues : Obligations.hardware_queues := by
  unfold Obligations.hardware_queues
  intro s n hn
  refine ⟨fun len a _ ha => exec_queueReserve_allocated hn ha, fun len ha => ?_, fun len ow cap h1 ha hc hm => ?_, fun len h1 => ?_,
    fun body q hr ha hc => ?_, fun body q h1 h2 hd ha hc => ?_, exec_wmCrossedClear_q hn⟩
  · have h := exec_queueReserve_free (s := s) (n := n) (len := len) (a := .none) (by rw [poolAct_none]; exact ha)
    rwa [poolAct_none] at h
  · have hp := poolAct_allocate ow h1 hn ha hc hm
    obtain ⟨t, he, hq, -⟩ := exec_queueReserve_allocated (len := len) (a := .allocate ow cap) hn (by rw [hp, State.q_setQ_same]; rfl)
    exact ⟨t, he, by rw [hq, hp, State.q_setQ_same]⟩
  · have hp := poolAct_release (s := s) h1 hn
    exact ⟨_, exec_queueReserve_free (by rw [hp, State.q_setQ_same]; rfl), by rw [hp, State.q_setQ_same]⟩
  · exact ⟨_, exec_queueClose_queue hn ha hc (fun h => hr ⟨h.1, h.2.1⟩), State.updQ_q_same ..⟩
  · refine ⟨_, exec_queueClose_ring ha hc h1 h2 hd, ?_, ?_⟩
    · rw [withIrq_q, State.q_setRing, State.q_setQ_same]
    · rw [withIrq_ring, State.ring_setRing_same]
end

section
/-! PROOFS. A post with a reserved TYPE or an ID out of its range (R26). -/

namespace Sys2Proof.Machine

/-- The flow tag a descriptor's word 0 carries is its upper 20 bits (Table 6.2). -/
theorem ofWords_flow (ws : List Word) : (Descriptor.ofWords ws).flow = (ws.getD 0 0).toNat / 4096 := by
  have h : (ws.getD 0 0).toNat < 2 ^ 32 := (ws.getD 0 0).isLt
  show (ws.getD 0 0).toNat / 2 ^ 12 % 2 ^ 20 = _
  omega

/-- TYPE 0b111 and the identifiers past the ranges of Table 1.6 make no valid flow tag. -/
theorem flowValid_of_outOfRange {f : Nat} (hf : f < 2 ^ 20)
    (h : f / 131072 = 7 ∨ (f / 131072 = 1 ∧ 16384 ≤ f % 131072) ∨ (f / 131072 = 3 ∧ 4096 ≤ f % 131072) ∨
      (f / 131072 = 4 ∧ 1024 ≤ f % 131072) ∨ (f / 131072 = 5 ∧ 4096 ≤ f % 131072)) : flowValid f = false := by
  obtain ⟨ht, hi⟩ := bits_flow f hf
  unfold flowValid
  rw [ht, hi]
  rcases h with h | ⟨h, r⟩ | ⟨h, r⟩ | ⟨h, r⟩ | ⟨h, r⟩ <;> rw [h]
  case inl => rfl
  all_goals exact decide_eq_false (Nat.not_lt.2 r)

/-- A post that may not be made, by a source that holds none, comes to its refusal (R26, R158). -/
theorem post_refused {s : State} {src : Nat} {d : Descriptor} (job : Job) (hh : ∀ h ∈ s.disp.held, h.src ≠ src)
    (hr : postRefused s src d = true) : s.post src d job = refusePost s src d := by
  have ht : tryPost s src d job = (.refused, refusePost s src d) := if_pos hr
  rw [post_free d job hh, ht]

theorem postRefused_of_flow {s : State} {src : Nat} {d : Descriptor} (h : flowValid d.flow = false) : postRefused s src d = true := by
  unfold postRefused
  rw [h]
  rfl

/-- The engines' ports are answered by a completion (R158). -/
theorem refusePost_port {s : State} {src : Nat} (d : Descriptor) (h : src ≠ 3) :
    refusePost s src d = (s.inc (Obj.dispatchCounter 0)).emit (.completion src refusedW0 (d.flow * 0x1000) 0 0) := if_neg h

theorem core_of_mt {s t : State} (h : t.mt = s.mt) (c : Nat) : t.core c = s.core c := by
  unfold State.core
  rw [h]

/-- A refusal counts in Refused; items, held posts and cores are as they were. -/
theorem refusePost_facts (s : State) (src : Nat) (d : Descriptor) :
    (refusePost s src d).rd (Obj.dispatchCounter 0) = satAdd (s.rd (Obj.dispatchCounter 0)) 1 (maxOf (Obj.dispatchCounter 0)) ∧
    (refusePost s src d).disp.items = s.disp.items ∧ (refusePost s src d).disp.held = s.disp.held ∧
    ∀ c, (refusePost s src d).core c = s.core c := by
  have hi := rd_inc_same s (Obj.dispatchCounter 0)
  unfold refusePost
  dsimp only
  split
  · split
    · rename_i t ht
      have k := pushRecord_told ht
      exact ⟨(k.rd _ (by decide)).trans hi, congrArg Dispatcher.items k.disp, congrArg Dispatcher.held k.disp, core_of_mt k.mt⟩
    · exact ⟨hi, rfl, rfl, core_of_mt rfl⟩
  · exact ⟨hi, rfl, rfl, core_of_mt rfl⟩

end Sys2Proof.Machine

open Sys2Proof Sys2Proof.Machine

/-- Settles O27: the flow tag is not valid, so the post comes to its refusal. -/
theorem invalidFlowIsRefused : Obligations.invalid_flow_is_refused := by
  unfold Obligations.invalid_flow_is_refused
  intro s src ws hs hrun hheld hflow
  have hf : (ws.getD 0 0).toNat / 4096 < 2 ^ 20 := by
    have := (ws.getD 0 0).isLt
    omega
  have hv : flowValid (Descriptor.ofWords ws).flow = false := by
    rw [ofWords_flow]
    exact flowValid_of_outOfRange hf hflow
  have hp := post_refused (d := Descriptor.ofWords ws) .other hheld (postRefused_of_flow hv)
  obtain ⟨hcount, hitems, hkept, hcores⟩ := refusePost_facts s src (Descriptor.ofWords ws)
  refine ⟨refusePost s src (Descriptor.ofWords ws), (next_if ⟨hs, hrun⟩).trans (congrArg _ hp), fun h3 => ?_, hcount, hitems, hkept, hcores⟩
  rw [refusePost_port _ h3, ofWords_flow]
  rfl
end

section
/-! PROOFS. The HBM controller (spec/13): acceptance, service, ageing, banks, temperature, patrol, training, and the end of a quarantine's
pause. -/

namespace Sys2Proof.Machine

/-- A request as MEM_REQUEST_ACCEPT takes it: its unit's address and a mask of 32 bits. -/
def unitOp (op : MemOp) : MemOp := { op with addr := op.addr / 32 * 32, mask := op.mask % 2 ^ 32 }

theorem exec_memRequestAccept {s : State} (op : MemOp) (h1 : s.pw.hbmReady = true) (h2 : s.rd Obj.paused = 0) :
    exec (.memRequestAccept op) s = .next (beginRead (arriveReq s (unitOp op)) (unitOp op)) := next_if ⟨h1, h2⟩

/-- An accepted read is the last of its controller's reads, with the value its unit has. -/
theorem acceptReq_read {s : State} {p : Nat} {r : MemReq} (h : r.op.write = false) : (acceptReq s p r).mem = s.mem ∧
    ∃ x, ((acceptReq s p r).pc p).reads = (s.pc p).reads ++ [x] ∧ x.op = r.op ∧ x.value = unitAt s r.op.addr ∧ x.accepted = s.mono ∧
      x.cls = r.cls := by
  unfold acceptReq
  dsimp only
  rw [h, if_neg Bool.false_ne_true]
  refine ⟨rfl, ?_⟩
  rw [pc_setPc]
  exact ⟨_, rfl, rfl, rfl, rfl, rfl⟩

theorem memRequestAccept_read {s : State} {op : MemOp} {p : Nat} (h1 : s.pw.hbmReady = true) (h2 : s.rd Obj.paused = 0)
    (hw : op.write = false) (hp : s.pcOf (op.addr / 32 * 32) = some p) (hn : (s.pc p).reads.length < 64) (hs : (s.pc p).stalled = []) :
    ∃ t, exec (.memRequestAccept op) s = .next t ∧ t.mem = s.mem ∧ ∃ r,
        (t.pc p).reads = (s.pc p).reads ++ [r] ∧ r.op.src = op.src ∧ r.op.addr = op.addr / 32 * 32 ∧
        r.value = unitAt s (op.addr / 32 * 32) ∧
        r.accepted = s.mono ∧ r.cls = reqClass s { op with addr := op.addr / 32 * 32 } := by
  have hroom : PcCtl.hasRoom { s.pc p with stalled := [arrival s (unitOp op)] } (arrival s (unitOp op)) = true :=
    (if_neg (by show ¬ op.write = true; rw [hw]; exact Bool.false_ne_true)).trans (decide_eq_true hn)
  obtain ⟨hmem, hmm⟩ := beginRead_facts (arriveReq s (unitOp op)) (unitOp op)
  rw [arrive_room hp hs hroom] at hmem hmm
  obtain ⟨ha, x, hreads, hop, hv, hacc, hcls⟩ := acceptReq_read (s := (arrived s p [arrival s (unitOp op)]).setPc p { s.pc p with stalled := [] })
    (p := p) (r := arrival s (unitOp op)) hw
  refine ⟨_, (exec_memRequestAccept op h1 h2).trans (by rw [arrive_room hp hs hroom]), hmem.trans ha, x, ?_, by rw [hop]; rfl, by rw [hop]; rfl,
    hv.trans (unitAt_congr rfl _), hacc, hcls⟩
  rw [pc_congr hmm, hreads, pc_setPc]

theorem memRequestAccept_noRoom {s : State} {op : MemOp} {p : Nat} (h1 : s.pw.hbmReady = true) (h2 : s.rd Obj.paused = 0)
    (hw : op.write = false) (hp : s.pcOf (op.addr / 32 * 32) = some p) (hn : 64 ≤ (s.pc p).reads.length) (hs : (s.pc p).stalled = []) :
    ∃ t, exec (.memRequestAccept op) s = .next t ∧ t.mem = s.mem ∧
        (t.pc p).reads = (s.pc p).reads ∧ ∃ r, (t.pc p).stalled = [r] ∧ r.op.src = op.src := by
  have hfull : PcCtl.hasRoom { s.pc p with stalled := [arrival s (unitOp op)] } (arrival s (unitOp op)) = false :=
    (if_neg (by show ¬ op.write = true; rw [hw]; exact Bool.false_ne_true)).trans (decide_eq_false (Nat.not_lt.2 hn))
  obtain ⟨hmem, hmm⟩ := beginRead_facts (arriveReq s (unitOp op)) (unitOp op)
  rw [arrive_full hp hs hfull] at hmem hmm
  refine ⟨_, (exec_memRequestAccept op h1 h2).trans (by rw [arrive_full hp hs hfull]), hmem, ?_, arrival s (unitOp op), ?_, rfl⟩
  all_goals rw [pc_congr hmm, arrived_pc]

theorem memRequestAccept_write {s : State} {op : MemOp} {p : Nat} (h1 : s.pw.hbmReady = true) (h2 : s.rd Obj.paused = 0)
    (hw : op.write = true) (hp : s.pcOf (op.addr / 32 * 32) = some p) (hn : (s.pc p).writes.length < 64) (hs : (s.pc p).stalled = []) :
    ∃ t, exec (.memRequestAccept op) s = .next t ∧
        ∀ x, t.rdByte x = if op.addr / 32 * 32 ≤ x ∧ x < op.addr / 32 * 32 + 32 ∧ bit (op.mask % 2 ^ 32) (x - op.addr / 32 * 32) then
          BitVec.ofNat 8 (octet op.data (x - op.addr / 32 * 32)) else s.rdByte x := by
  have hroom : PcCtl.hasRoom { s.pc p with stalled := [arrival s (unitOp op)] } (arrival s (unitOp op)) = true :=
    (if_pos hw).trans (by rw [decide_eq_true hn, Bool.or_true])
  obtain ⟨hmem, -⟩ := beginRead_facts (arriveReq s (unitOp op)) (unitOp op)
  refine ⟨_, exec_memRequestAccept op h1 h2, fun x => ?_⟩
  rw [rdByte_congr hmem, arrive_room hp hs hroom]
  exact acceptReq_write hw x

/-- No entry of a list is of a number that none of its entries has. -/
theorem not_any_fst {α : Type} {l : List (Nat × α)} {c : Nat} (h : ∀ x ∈ l, x.1 ≠ c) : ¬ l.any (fun x => decide (x.1 = c)) = true := by
  intro ha
  obtain ⟨x, hx, he⟩ := List.any_eq_true.1 ha
  exact h x hx (of_decide_eq_true he)

/-- A controller with reads waiting serves the read it picks; none waits in its router, so none is let in. -/
theorem memServe_read {s : State} {p : Nat} {y : MemReq} (hon : s.pcOnline p = true) (ht : ∀ t ∈ s.mm.training, t.1 ≠ channelOf p)
    (hd : (s.pc p).draining = false) (hr : (s.pc p).reads ≠ []) (hy : pickServe (s.pc p) (s.pc p).reads = some (y, none))
    (hc : y.op.addr ∉ s.mm.poison) (hs : (s.pc p).stalled = []) :
    (memServe s p .clean).out = .memData y.op.src y.op.addr y.value false :: s.out ∧
    ((memServe s p .clean).pc p).reads = (s.pc p).reads.filter (fun z => decide (z.id ≠ y.id)) ∧
    ((memServe s p .clean).pc p).writes = (s.pc p).writes ∧ (memServe s p .clean).mem = s.mem := by
  have hidle : ¬ (¬ s.pcOnline p = true ∨ s.mm.training.any (fun t => decide (t.1 = channelOf p)) = true) := by
    rw [hon]
    exact not_or.2 ⟨fun h => h rfl, not_any_fst ht⟩
  have hwr : ((s.pc p).draining || (s.pc p).reads.isEmpty) = false := by simpa [hd] using hr
  unfold memServe
  dsimp only
  rw [if_neg hidle, hwr]
  simp only [Bool.false_eq_true, if_false, hy]
  rw [letIn_idle (by rw [State.pc_moved, pc_setPc]; exact hs)]
  simp [eccAt, hc]

theorem memRequestServe_read {s : State} {p : Nat} {y : MemReq} (hp : p < 64) (h1 : s.pw.hbmReady = true) (hon : s.pcOnline p = true)
    (ht : ∀ t ∈ s.mm.training, t.1 ≠ channelOf p) (hd : (s.pc p).draining = false) (hr : (s.pc p).reads ≠ [])
    (hy : pickServe (s.pc p) (s.pc p).reads = some (y, none)) (hc : y.op.addr ∉ s.mm.poison) (hs : (s.pc p).stalled = []) :
    ∃ t, exec (.memRequestServe p .clean) s = .next t ∧ t.out = .memData y.op.src y.op.addr y.value false :: s.out ∧
        (t.pc p).reads = (s.pc p).reads.filter (fun z => decide (z.id ≠ y.id)) ∧ (t.pc p).writes = (s.pc p).writes ∧ t.mem = s.mem :=
  ⟨_, next_if ⟨hp, h1⟩, memServe_read hon ht hd hr hy hc hs⟩

/-- A request past its class's AgeLimit that is not promoted yet (R307). -/
def MemReq.aged (s : State) (r : MemReq) : Bool :=
  !r.promoted && decide (r.cls ≠ 0) && decide (ageLimit s r.cls ≠ 0) && decide (r.accepted + ageLimit s r.cls < s.mono)

/-- A request after its controller's promotion. -/
def MemReq.raised (s : State) (r : MemReq) : MemReq := if r.aged s then { r with promoted := true } else r

theorem MemReq.raised_id (s : State) (r : MemReq) : (r.raised s).id = r.id := by
  unfold MemReq.raised
  split <;> rfl

theorem MemReq.raised_promoted {s : State} {r : MemReq} (h0 : (r.raised s).cls ≠ 0) (h1 : ageLimit s (r.raised s).cls ≠ 0)
    (h2 : (r.raised s).accepted + ageLimit s (r.raised s).cls < s.mono) : (r.raised s).promoted = true := by
  by_cases ha : r.aged s = true
  · have he : r.raised s = { r with promoted := true } := if_pos ha
    rw [he]
  · have he : r.raised s = r := if_neg ha
    rw [he] at h0 h1 h2 ⊢
    simpa [MemReq.aged, h0, h1, h2] using ha

/-- AGE_PROMOTION raises the controller's requests and counts them. -/
theorem agePromote_facts (s : State) (p : Nat) : (agePromote s p).mem = s.mem ∧
    (agePromote s p).pc p = { s.pc p with
      reads := (s.pc p).reads.map (MemReq.raised s)
      writes := (s.pc p).writes.map (MemReq.raised s) } := by
  unfold agePromote
  dsimp only
  constructor
  · rw [foldl_field State.mem _ (fun t r => State.inc_mem ..)]
    rfl
  · rw [pc_congr (foldl_field State.mm _ (fun t r => State.inc_mm ..) _ _), pc_setPc]
    rfl

theorem exec_agePromotion {s : State} {p : Nat} (hp : p < 64) :
    ∃ t, exec (.agePromotion p) s = .next t ∧ t.mem = s.mem ∧ (t.pc p).reads.map MemReq.id = (s.pc p).reads.map MemReq.id ∧
      ∀ r ∈ (t.pc p).reads ++ (t.pc p).writes, r.cls ≠ 0 → ageLimit s r.cls ≠ 0 → r.accepted + ageLimit s r.cls < s.mono →
        r.promoted = true := by
  obtain ⟨hmem, hpc⟩ := agePromote_facts s p
  refine ⟨_, next_if hp, hmem, ?_, fun r hr => ?_⟩
  · rw [hpc, List.map_map]
    exact List.map_congr_left (fun r _ => MemReq.raised_id s r)
  · rw [hpc, ← List.map_append] at hr
    obtain ⟨r0, -, rfl⟩ := List.mem_map.1 hr
    exact MemReq.raised_promoted

theorem exec_rowIdleClose {s : State} {p b : Nat} (hp : p < 64) (ho : (AMap.get Bank.idle b (s.pc p).banks).isOpen = true)
    (ha : (AMap.get Bank.idle b (s.pc p).banks).at_ + 2000 ≤ s.mono) :
    ∃ t, exec (.rowIdleClose p b) s = .next t ∧ (AMap.get Bank.idle b (t.pc p).banks).isOpen = false ∧ t.mem = s.mem := by
  refine ⟨_, (next_if hp).trans (next_if ⟨ho, ha⟩), ?_, rfl⟩
  rw [pc_setPc, AMap.get_put_same]

theorem exec_stackTempSample {s : State} (t0 t1 : Int) (h : s.pw.hbmReady = true) :
    ∃ t, exec (.stackTempSample t0 t1) s = .next t ∧ t.rd (Obj.stackTemp 0) = uns 16 t0 ∧
      t.rd (Obj.stackTemp 1) = uns 16 t1 ∧ (100 ≤ t1 → 1 ∈ t.mm.hot) ∧ (t1 < 100 → 1 ∉ t.mm.hot) ∧ t.mem = s.mem := by
  obtain ⟨hfirst, -, hmem0, -⟩ := stackSample_frame s 0 t0 (by decide)
  obtain ⟨hsecond, hother, hmem1, hhot, hcold⟩ := stackSample_frame (stackSample s 0 t0) 1 t1 (by decide)
  exact ⟨_, next_if h, (hother 0 (by decide) (by decide)).trans hfirst, hsecond, hhot, hcold, hmem1.trans hmem0⟩

theorem exec_patrolScrub {s : State} (r : EccResult) (h : s.pw.hbmReady = true) (hp : s.rd Obj.scrubPeriod ≠ 0) (hc : s.capacity ≠ 0) :
    ∃ t, exec (.patrolScrub r) s = .next t ∧ t.mm.scrub = (s.mm.scrub % s.capacity + 32) % s.capacity ∧ t.mem = s.mem := by
  refine ⟨patrolScrub s r, next_if h, ?_⟩
  unfold patrolScrub
  rw [if_neg (not_or.2 ⟨hp, hc⟩)]
  dsimp only
  split
  · obtain ⟨hscrub, hmem⟩ := eccAt_frame { s with mm := { s.mm with scrub := (s.mm.scrub % s.capacity + 32) % s.capacity } } _
      (s.mm.scrub % s.capacity) r
    exact ⟨hscrub, hmem⟩
  · exact ⟨rfl, rfl⟩

/-- An update training begins where a pseudo-channel has drifted by 10 degrees, no other is under way and 1 ms has passed (R314). -/
theorem exec_updateRetrain {s : State} {ch p : Nat} (hch : ch < 32) (h : s.pw.hbmReady = true) (hp : p ∈ channelPcs ch)
    (hon : s.pcOnline p = true) (hd : 10 ≤ (s.stackTemp (ch / 16) - s.rdI16 (Obj.pcTrainTemp p)).natAbs)
    (ht : ∀ x ∈ s.mm.training, x.2 = true ∧ x.1 ≠ ch) (hm : s.mm.updateAt + 1000000 ≤ s.mono) :
    ∃ t, exec (.updateRetrain ch) s = .next t ∧ (ch, false) ∈ t.mm.training ∧ t.mm.updateAt = s.mono := by
  have hdrift : (channelPcs ch).any (fun p => s.pcOnline p && decide (10 ≤ (s.stackTemp (ch / 16) - s.rdI16 (Obj.pcTrainTemp p)).natAbs)) =
      true := List.any_eq_true.2 ⟨p, hp, by rw [hon, decide_eq_true hd]; rfl⟩
  have hnone : ¬ s.mm.training.any (fun x => !x.2 || decide (x.1 = ch)) = true := by simpa using ht
  obtain ⟨htrain, hat⟩ := startTraining_mm { s with mm := { s.mm with updateAt := s.mono } } ch false
  refine ⟨_, (next_if ⟨hch, h⟩).trans (next_if ⟨hdrift, hnone, hm⟩), ?_, hat⟩
  rw [htrain]
  exact List.mem_append_right _ List.mem_cons_self

/-- A full training begins where a pseudo-channel's errors have reached their threshold and the channel is in no training (R314). -/
theorem exec_fullRetrain {s : State} {ch p : Nat} (hch : ch < 32) (h : s.pw.hbmReady = true) (hp : p ∈ channelPcs ch)
    (hon : s.pcOnline p = true) (hd : (s.pc p).due = true) (ht : ∀ x ∈ s.mm.training, x.1 ≠ ch) :
    ∃ t, exec (.fullRetrain ch) s = .next t ∧ (ch, true) ∈ t.mm.training := by
  have hdue : (channelPcs ch).any (fun p => s.pcOnline p && (s.pc p).due) = true :=
    List.any_eq_true.2 ⟨p, hp, by rw [hon, hd]; rfl⟩
  refine ⟨_, (next_if ⟨hch, h⟩).trans (next_if ⟨hdue, not_any_fst ht⟩), ?_⟩
  rw [(startTraining_mm s ch true).1]
  exact List.mem_append_right _ List.mem_cons_self

/-- The resume after a quarantine ends with the composer's jobs and the adaptation unit's packets dropped (R316). -/
theorem exec_quarantineResume {s : State} (h : s.rd Obj.paused ≠ 0) :
    ∃ t, exec .quarantineResume s = .next t ∧ t.cp.jobs = [] ∧ t.ad.inbox = [] ∧ t.ad.kept = [] := by
  refine ⟨resumeService s, rfl, ?_⟩
  unfold resumeService
  rw [if_neg h]
  exact ⟨rfl, rfl, rfl⟩

end Sys2Proof.Machine

open Sys2Proof Sys2Proof.Machine

/-- Settles O33: one lemma per row, each from what the row's own operation does. -/
theorem hbmController : Obligations.hbm_controller := by
  unfold Obligations.hbm_controller
  intro s
  exact ⟨fun _ _ => memRequestAccept_read, fun _ _ => memRequestAccept_noRoom, fun _ _ => memRequestAccept_write,
    fun _ _ => memRequestServe_read, fun _ => exec_agePromotion, fun _ _ => exec_rowIdleClose, exec_stackTempSample, exec_patrolScrub,
    fun _ _ => exec_updateRetrain, fun _ _ => exec_fullRetrain, exec_quarantineResume⟩
end

section
/-! PROOFS. The audio path (spec/08, spec/01): decode, mix, encode, partial mixes and returns, prompts. -/

namespace Sys2Proof.Machine

/-! ### Decode and encode items -/

theorem exec_legAudioDecode {s : State} {c n : Nat} {w : WorkItem} {h : Hand} (hw : s.itemOn c = some w) (hj : w.job = .decode n h) :
    exec (.legAudioDecode c) s = .next (legDecode (itemDone s w) (flowId w.desc.flow) n h) := by
  show execLegAudioDecode c s = _
  unfold execLegAudioDecode
  rw [hw]
  dsimp only
  rw [hj]

/-- A decode in time: the samples, their level and the frame are in the leg's input slot (R27, R199). -/
theorem legDecode_inTime {s : State} {l n : Nat} {h : Hand} (hn : (s.cf (s.rd (Obj.legConf l))).frame ≤ n) :
    ((legDecode s l n h).leg l).input = (decodeFrame s l h).1 ∧ ((legDecode s l n h).leg l).inputFrame = n + 1 ∧
    ((legDecode s l n h).leg l).inputLevel = frameLevel (decodeFrame s l h).1 := by
  unfold legDecode
  dsimp only
  rw [if_neg (Nat.not_lt.2 hn), State.setLeg_same]
  exact ⟨rfl, rfl, rfl⟩

theorem exec_legAudioEncode {s : State} {c n : Nat} {w : WorkItem} (hw : s.itemOn c = some w) (hj : w.job = .encode n) :
    exec (.legAudioEncode c) s = .next (legEncode (itemDone s w) (flowId w.desc.flow) n) := by
  show execLegAudioEncode c s = _
  unfold execLegAudioEncode
  rw [hw]
  dsimp only
  rw [hj]

/-- The first frame of a 20 ms packet is held until the second completes it (R209). -/
theorem legEncode_holds {s : State} {l n e : Nat} (he : s.txAudio l = some e) (hc : s.rd (Obj.txCodec l) ≠ 0) (hp : s.rd (Obj.ptime l) ≠ 0)
    (hh : (s.leg l).outHold = []) :
    ((legEncode s l n).leg l).outHold = ((legEncode s l n).leg l).output ∧ (legEncode s l n).mem = s.mem := by
  obtain ⟨hout, hmem⟩ := formOutput_leg s l n
  unfold legEncode
  dsimp only
  rw [he]
  dsimp only
  rw [if_neg hc, if_neg hp, hout, hh, if_pos List.isEmpty_nil, State.setLeg_same, State.setLeg_mem]
  exact ⟨rfl, hmem⟩

/-! ### The mix of a frame -/

/-- The mix-phase timer of a conference posts the mix of the present frame and notes it (R27). -/
theorem postMix_posted (s : State) (c n : Nat) : ((postMix s c n).cf c).posted = n + 1 := by
  unfold postMix
  dsimp only
  rw [cf_conf ((Kept.refl _).post 0 _ (job := .mix n) (fun _ _ => rfl)).conf, State.setCf_same]

theorem exec_mixPhaseTimer {s : State} {c : Nat} (h1 : s.engines = true) (h2 : s.running = true) (h3 : s.serves = true)
    (h4 : s.rd (Obj.confState c) = 1) (h5 : (s.cf c).posted ≤ s.mixFrame)
    (h6 : s.mixFrame * mixNs + s.rd (Obj.mixPhase c) * 1000 ≤ s.tod) :
    ∃ t, exec (.mixPhaseTimer c) s = .next t ∧ (t.cf c).posted = s.mixFrame + 1 :=
  ⟨_, next_if ⟨h1, h2, h3, h4, h5, h6⟩, postMix_posted s c s.mixFrame⟩

theorem exec_confMix {s : State} {c n : Nat} {w : WorkItem} (hw : s.itemOn c = some w) (hj : w.job = .mix n) :
    exec (.confMix c) s = .next (confMix (itemDone s w) (flowId w.desc.flow) n) := by
  show execConfMix c s = _
  unfold execConfMix
  rw [hw]
  dsimp only
  rw [hj]

theorem confPrompts_conf (s : State) (c n : Nat) : (confPrompts s c n).2.conf = s.conf := rfl

/-- The state in which a mix is formed: members selected, prompts taken. -/
def mixReady (s : State) (c n : Nat) : State :=
  let s1p := (confPrompts (mixSelect s c n).2 c n).2
  s1p.setCf c { s1p.cf c with prompt := (confPrompts (mixSelect s c n).2 c n).1 }

theorem mixReady_frame (s : State) (c n : Nat) : ((mixReady s c n).cf c).frame = n + 1 := by
  unfold mixReady
  dsimp only
  rw [State.setCf_same, cf_conf (confPrompts_conf ..)]
  dsimp only
  exact mixSelect_frame s c n

/-- The state in which a LOCAL conference's mix is formed: N is the number of its own voices. -/
def localReady (s : State) (c n : Nat) : State :=
  ((mixReady s c n).setCf c { (mixReady s c n).cf c with n := ((mixReady s c n).cf c).ownN }).wr (Obj.mixN c) ((mixReady s c n).cf c).ownN

theorem localReady_cf (s : State) (c n : Nat) :
    ((localReady s c n).cf c).frame = n + 1 ∧ ((localReady s c n).cf c).n = ((localReady s c n).cf c).ownN := by
  unfold localReady
  rw [State.cf_wr, State.setCf_same]
  dsimp only
  exact ⟨mixReady_frame s c n, rfl⟩

/-- The mix of a LOCAL conference as it is formed (R204). -/
def localFormed (s : State) (c n : Nat) : State :=
  formMix (localReady s c n) c ((mixReady s c n).cf c).ownN true (sumTerms (localReady s c n) c) (confPrompts (mixSelect s c n).2 c n).1

theorem confMix_local {s : State} {c : Nat} (n : Nat) (h1 : s.rd (Obj.confRole c) ≠ 1) (h2 : s.rd (Obj.confRole c) ≠ 2) :
    confMix s c n =
      postEncodes (tapFeed (localFormed s c n) false c 0 n ((localFormed s c n).cf c).common ((localFormed s c n).cf c).clipped) c n := by
  unfold confMix
  dsimp only
  split
  · exact absurd (by assumption) h1
  · exact absurd (by assumption) h2
  · rfl

theorem confMix_local_cf {s : State} {c : Nat} (n : Nat) (h1 : s.rd (Obj.confRole c) ≠ 1) (h2 : s.rd (Obj.confRole c) ≠ 2) :
    ((confMix s c n).cf c).frame = n + 1 ∧ ((confMix s c n).cf c).n = ((confMix s c n).cf c).ownN := by
  rw [confMix_local n h1 h2, cf_conf (postEncodes_kept _ c n).conf, cf_conf (tapFeed_conf ..).1]
  unfold localFormed
  obtain ⟨-, -, hframe, hn, hown⟩ := formMix_cf (localReady s c n) c ((mixReady s c n).cf c).ownN true (sumTerms (localReady s c n) c)
    (confPrompts (mixSelect s c n).2 c n).1
  rw [hframe, hn, hown]
  exact localReady_cf s c n

/-- A REMOTE's state with its own partial mix. -/
def partialReady (s : State) (c n : Nat) : State :=
  (mixReady s c n).setCf c { (mixReady s c n).cf c with ownPartial := sumTerms (mixReady s c n) c }

/-- The same with the clipping of the partial marked. -/
def partialClipped (s : State) (c n : Nat) : State :=
  if (toWire (sumTerms (mixReady s c n) c)).2 then ((partialReady s c n).inc (Obj.cmClipped c)).markSv (flowTag 1 c) else partialReady s c n

theorem partialClipped_frame (s : State) (c n : Nat) : ((partialClipped s c n).cf c).frame = n + 1 := by
  have hready : ((partialReady s c n).cf c).frame = n + 1 := by
    unfold partialReady
    rw [State.setCf_same]
    dsimp only
    exact mixReady_frame s c n
  unfold partialClipped
  split
  · rw [cf_conf ((markSv_conf _ _).1.trans (State.inc_conf ..))]
    exact hready
  · exact hready

/-- A REMOTE that is JOINED waits for the return of the frame and sends its partial mix to the anchor (R213). -/
theorem confMix_joined {s : State} {c : Nat} (n : Nat) (h1 : s.rd (Obj.confRole c) = 2) (h2 : s.rd (Obj.joinState c) = 2) : ∃ m,
    confMix s c n = ((partialClipped s c n).setCf c { (partialClipped s c n).cf c with waiting := some n }).fabSend (s.rd (Obj.anchorFdev c)) m := by
  unfold confMix
  dsimp only
  split
  · rename_i h
    rw [h1] at h
    exact absurd h (by decide)
  · rw [if_pos h2]
    exact ⟨_, rfl⟩
  · rename_i h
    exact absurd h1 h

theorem confMix_joined_cf {s : State} {c : Nat} (n : Nat) (h1 : s.rd (Obj.confRole c) = 2) (h2 : s.rd (Obj.joinState c) = 2) :
    ((confMix s c n).cf c).frame = n + 1 ∧ ((confMix s c n).cf c).waiting = some n := by
  obtain ⟨m, hm⟩ := confMix_joined n h1 h2
  rw [hm, fabSend_cf, State.setCf_same]
  dsimp only
  exact ⟨partialClipped_frame s c n, rfl⟩

/-! ### Partial mixes and returns -/

/-- A partial in time of a remote the anchor holds is kept for its frame (R214). -/
theorem partialRx_kept {s : State} {p : PartialMix} (h1 : s.serves = true) (h2 : s.rd (Obj.confRole p.conf) = 1)
    (h3 : (s.cf p.conf).remotes.any (fun r => decide (r.fdev = p.fdev)) = true)
    (h4 : (p.frame + 0x100000000 - (s.cf p.conf).frame % 0x100000000) % 0x100000000 < 0x80000000)
    (h5 : (s.cf p.conf).partials.any (fun x => decide (x.fdev = p.fdev) && decide (x.frame = p.frame)) = false) :
    ((partialRx s p).cf p.conf).partials = (s.cf p.conf).partials ++ [p] ∧ (partialRx s p).le = s.le := by
  unfold partialRx
  dsimp only
  rw [if_neg (by simp [h1, h2, h3]), if_pos ⟨h4, by rw [h5]; exact Bool.false_ne_true⟩, State.setCf_same, State.setCf_same]
  exact ⟨rfl, by rw [State.setCf_le, State.setCf_le]⟩

theorem exec_partialRx {s u : State} {a b : Nat} {f : FabFrame} {p : PartialMix} (h1 : s.engines = true)
    (ht : s.takeFrame (fun f => decide (f.kind = 0x09)) = (some (a, b, f), u)) (hm : f.msg = .partialMix p) (hc : p.conf < 16384) :
    exec .partialRx s = .next (partialRx u p) := by
  refine (next_if h1).trans ?_
  rw [ht]
  dsimp only
  rw [hm]
  exact next_if hc

/-- A return while the remote waits for no frame brings only the selection (R215). -/
theorem returnRx_selection {s : State} {r : ReturnMix} (h1 : s.rd (Obj.confRole r.conf) = 2) (h2 : s.rd (Obj.confState r.conf) = 1)
    (h3 : r.anchor = s.rd (Obj.anchorFdev r.conf)) (h4 : (s.cf r.conf).waiting = none) :
    returnRx s r = s.setCf r.conf { s.cf r.conf with returnSel := r.selected.map (fun e => e / 64) } := by
  unfold returnRx
  dsimp only
  rw [if_neg (by simp [h1, h2, h3]), h4]

theorem exec_returnRx {s u : State} {a b : Nat} {f : FabFrame} {r : ReturnMix} (h1 : s.engines = true)
    (ht : s.takeFrame (fun f => decide (f.kind = 0x0A)) = (some (a, b, f), u)) (hm : f.msg = .returnMix r) (hc : r.conf < 16384) :
    exec .returnRx s = .next (returnRx u r) := by
  refine (next_if h1).trans ?_
  rw [ht]
  dsimp only
  rw [hm]
  exact next_if hc

/-- A return that has not come by T + ReturnWait counts, and the remote mixes for itself (R215). -/
theorem returnLate_cf {s : State} {c m : Nat} (hw : (s.cf c).waiting = some m) (ht : m * mixNs + s.rd (Obj.returnWait c) * 1000 ≤ s.tod) :
    ((returnLate s c).cf c).lateRun = (s.cf c).lateRun + 1 ∧ ((returnLate s c).cf c).waiting = none := by
  unfold returnLate
  dsimp only
  rw [hw]
  dsimp only
  rw [if_pos ht, cf_conf (tapFeed_conf ..).1]
  rw [(remoteLocal_cf _ c m _).1, (remoteLocal_cf _ c m _).2]
  refine ⟨?_, rfl⟩
  rw [apply_ite (fun t : State => t.cf c), State.cf_event, ite_self, State.cf_inc, State.setCf_same]

/-! ### Prompts -/

/-- The first item of a prompt begins its clip (R125). -/
theorem promptItem_begins {s : State} {j : Nat} {p : PromptItem} (h1 : p.startNs ≤ 999999999) (h2 : p.isConf = true) (h3 : p.target < 16384)
    (h4 : s.rd (Obj.confState p.target) = 1) (h5 : p.stop = false)
    (h6 : (s.le.clips.any (fun c => decide (c.isConf = p.isConf) && decide (c.target = p.target) && decide (c.clip = p.clip) && !c.complete)) =
      false) :
    ∃ x, (promptItem s j p).le.clips = s.le.clips ++ [x] ∧ x.clip = p.clip ∧ x.target = p.target ∧ x.isConf = true := by
  unfold promptItem
  dsimp only
  rw [if_neg (by simp [h1, h2, h3, h4]), h5, if_neg Bool.false_ne_true, h6, if_neg Bool.false_ne_true]
  exact ⟨_, rfl, rfl, rfl, h2⟩

theorem exec_promptItemFetch {s u : State} {j len : Nat} {w : Word} (p : PromptItem) (h1 : s.engines = true) (h2 : s.serves = true) (hj : j < 4)
    (hr : s.rd (Obj.promptRing j) < 2048) (hf : ringFetch s (s.rd (Obj.promptRing j)) w.toNat = (some len, u)) :
    exec (.promptItemFetch j w p) s = .next (promptItem u j p) := by
  refine (next_if ⟨h1, h2⟩).trans (congrArg Host.Outcome.next ?_)
  unfold promptFetch
  dsimp only
  rw [if_neg (by omega), hf]

end Sys2Proof.Machine

open Sys2Proof Sys2Proof.Machine

/-- Settles O34: each row's equation, and what its operation leaves of the leg or the conference. -/
theorem audioPath : Obligations.audio_path := by
  unfold Obligations.audio_path
  intro s c n
  refine ⟨fun w h hw hj hn => ⟨_, exec_legAudioDecode hw hj, legDecode_inTime hn⟩, exec_mixPhaseTimer,
    fun w hw hj h1 h2 => ⟨_, exec_confMix hw hj, confMix_local_cf n h1 h2⟩,
    fun w hw hj h1 h2 => ⟨_, exec_confMix hw hj, confMix_joined_cf n h1 h2⟩,
    fun w e hw hj he hc hp hh => ⟨_, exec_legAudioEncode hw hj, legEncode_holds (s := itemDone s w) he hc hp hh⟩,
    fun a b f p u h1 ht hm hc h2 h3 h4 h5 h6 => ⟨_, exec_partialRx h1 ht hm hc, ?_⟩,
    fun a b f r u h1 ht hm hc h2 h3 h4 h5 => ⟨_, exec_returnRx h1 ht hm hc, ?_⟩,
    fun m h1 hc hw ht => ⟨_, next_if ⟨h1, hc⟩, returnLate_cf hw ht⟩,
    fun j w p len u h1 h2 hj hr hf h3 h4 h5 h6 h7 h8 => ?_⟩
  · rw [takeFrame_eq ht]
    exact partialRx_kept (s := { s with fb := { s.fb with inbox := s.fb.inbox.erase (a, b, f) } }) h2 h3 h4 h5 h6
  · rw [takeFrame_eq ht, returnRx_selection (s := { s with fb := { s.fb with inbox := s.fb.inbox.erase (a, b, f) } }) h2 h3 h4 h5,
      State.setCf_same, State.setCf_le]
    exact ⟨rfl, rfl⟩
  · obtain ⟨x, hclips, hclip, htarget, hconf⟩ := promptItem_begins (j := j) h3 h4 h5 h6 h7 h8
    exact ⟨_, x, exec_promptItemFetch p h1 h2 hj hr hf, hclips, hclip, htarget, hconf⟩
end

section
/-! PROOFS. A leg's end and its timers (spec/04), and requests on the cipher cores (spec/05). -/

namespace Sys2Proof.Machine

/-! ### The end of a leg -/

/-- A leg whose run-time state and entries are idle again, its jitter memory given back. -/
def legIdled (s : State) (l : Nat) : State :=
  (List.range 4).foldl (fun t e => t.setTxE l e TxEntry.idle)
    ((List.range 8).foldl (fun t e => t.setRxE l e RxEntry.idle) ((s.unallot 1 (s.leg l).jbOctets).setLeg l LegRt.idle))

theorem legIdled_leg (s : State) (l : Nat) : (legIdled s l).leg l = LegRt.idle := by
  unfold legIdled
  rw [foldl_field (fun t => t.leg l) _ (fun t e => State.leg_setTxE ..), foldl_field (fun t => t.leg l) _ (fun t e => State.leg_setRxE ..),
    State.setLeg_same]

theorem legIdled_rxE (s : State) (l : Nat) {e : Nat} (he : e < 8) : (legIdled s l).rxE l e = RxEntry.idle := by
  unfold legIdled
  rw [foldl_field (fun t => t.rxE l e) _ (fun t i => State.rxE_setTxE ..)]
  exact setRxE_idle_list l _ _ e (.inl (List.mem_range.2 he))

theorem legIdled_frame (s : State) (l : Nat) : (legIdled s l).mem = s.mem ∧ (legIdled s l).cip = s.cip := by
  unfold legIdled
  constructor
  · rw [foldl_field State.mem _ (fun t e => State.setTxE_mem ..), foldl_field State.mem _ (fun t e => State.setRxE_mem ..)]
    rfl
  · rw [foldl_field State.cip _ (fun t e => State.setTxE_cip ..), foldl_field State.cip _ (fun t e => State.setRxE_cip ..)]
    rfl

theorem rxE_le {s t : State} (h : t.le = s.le) (l e : Nat) : t.rxE l e = s.rxE l e := by
  unfold State.rxE
  rw [h]

theorem clearLegObjects_frame (s : State) (a : Adaptation) (l : Nat) : ({ s with ad := a }.clearLegObjects l).le = s.le ∧
    ({ s with ad := a }.clearLegObjects l).mem = s.mem ∧ ({ s with ad := a }.clearLegObjects l).cip = s.cip := ⟨rfl, rfl, rfl⟩

/-- Beside that, LEG_QUIESCENT changes adaptation state and clears the leg's objects (R24). -/
theorem legQuiescent_idled {s : State} {l : Nat} (h1 : (s.leg l).stage = .releasing) (h2 : legReferred s l = false) :
    ∃ a, legQuiescent s l = { legIdled s l with ad := a }.clearLegObjects l :=
  ⟨_, if_pos ⟨h1, by rw [h2]; exact Bool.false_ne_true⟩⟩

theorem legQuiescent_facts {s : State} {l : Nat} (h1 : (s.leg l).stage = .releasing) (h2 : legReferred s l = false) :
    (legQuiescent s l).leg l = LegRt.idle ∧ (∀ e, e < 8 → (legQuiescent s l).rxE l e = RxEntry.idle) ∧
    (legQuiescent s l).mem = s.mem ∧ (legQuiescent s l).cip = s.cip := by
  obtain ⟨a, hq⟩ := legQuiescent_idled h1 h2
  obtain ⟨hle, hmem, hcip⟩ := clearLegObjects_frame (legIdled s l) a l
  obtain ⟨hm, hc⟩ := legIdled_frame s l
  rw [hq]
  refine ⟨(leg_le hle l).trans (legIdled_leg s l), fun e he => ?_, hmem.trans hm, hcip.trans hc⟩
  rw [rxE_le hle]
  exact legIdled_rxE s l he

/-- The egress queue of a leg that sends no more, once it is empty, returns to the pool (R22). -/
theorem egressRelease_eq {s : State} {l q : Nat} (hq : (s.leg l).egressQ = some q) (h1 : (s.leg l).stage ≠ .active)
    (h2 : ∀ x ∈ (s.leg l).turn, x.2 ≠ .active) (h3 : (s.q q).head = none) (h4 : (s.q q).copying = none)
    (h5 : ∀ p ∈ s.cip.formed, p.leg ≠ l) (h6 : ∀ e ∈ s.txUsed l, (s.txE l e).held = []) :
    egressRelease s l = ((s.setQ q Queue.empty).unallot 1 ((s.q q).cap * 64)).setLeg l { s.leg l with egressQ := none } := by
  unfold egressRelease
  dsimp only
  rw [hq]
  refine if_pos ⟨h1, List.all_eq_true.2 (fun x hx => decide_eq_true (h2 x hx)), by rw [h3]; rfl, by rw [h4]; rfl,
    List.all_eq_true.2 (fun e he => by rw [h6 e he]; rfl), List.all_eq_true.2 (fun p hp => decide_eq_true (h5 p hp))⟩

/-! ### Timers -/

theorem exec_legRxTimeout {s : State} {l : Nat} (h1 : (s.leg l).stage = .active) (h2 : s.rd (Obj.rxTimeout l) ≠ 0)
    (h3 : (s.leg l).lastRx + s.rd (Obj.rxTimeout l) * 1000000 ≤ s.mono) (h4 : (s.leg l).live = true) (h5 : s.serves = true) :
    exec (.legRxTimeout l) s = .next ((s.setLeg l { s.leg l with lastRx := s.mono }).event Ev.legRxTimeout l 0) :=
  next_if ⟨h1, h2, h3, h4, h5⟩

/-- A report timer is set anew between half and one and a half intervals from now (R122). -/
theorem nextReport_due (s : State) (l : Nat) :
    s.mono + s.rd (Obj.rtcpInterval l) * 1000000 / 2 ≤ ((s.nextReport l).leg l).rtcpDue ∧
    ((s.nextReport l).leg l).rtcpDue ≤ s.mono + s.rd (Obj.rtcpInterval l) * 1000000 / 2 + s.rd (Obj.rtcpInterval l) * 1000000 := by
  have hr : (s.random 20).1 ≤ 1048576 := Nat.le_of_lt (Nat.mod_lt _ (by decide))
  have hq : s.rd (Obj.rtcpInterval l) * ms * (s.random 20).1 / 1048576 ≤ s.rd (Obj.rtcpInterval l) * ms :=
    Nat.div_le_of_le_mul (by rw [Nat.mul_comm 1048576]; exact Nat.mul_le_mul_left _ hr)
  unfold State.nextReport
  dsimp only
  rw [State.setLeg_same]
  exact ⟨Nat.le_add_right _ _, Nat.add_le_add_left hq _⟩

theorem sendReport_interval (s : State) {l : Nat} (h : l < 0x1000000) :
    (s.sendReport l).rd (Obj.rtcpInterval l) = s.rd (Obj.rtcpInterval l) := by
  have hx : Obj.rtcpInterval l / 0x100000000 = 0x2140 := by unfold Obj.rtcpInterval key; omega
  refine sendReport_rd s l (by rw [hx]; decide) ?_ ?_
  · unfold Obj.rtcpInterval Obj.exhausted key; omega
  · unfold Obj.rtcpInterval Obj.rtcpTx key; omega

theorem exec_rtcpReportTimer {s : State} {l : Nat} (hl : l < 0x1000000) (h1 : (s.leg l).stage = .active) (h2 : (s.leg l).rtcpDue ≤ s.mono) :
    ∃ t, exec (.rtcpReportTimer l) s = .next t ∧
      s.mono + s.rd (Obj.rtcpInterval l) * 1000000 / 2 ≤ (t.leg l).rtcpDue ∧
      (t.leg l).rtcpDue ≤ s.mono + s.rd (Obj.rtcpInterval l) * 1000000 / 2 + s.rd (Obj.rtcpInterval l) * 1000000 := by
  have hmono : (s.sendReport l).mono = s.mono := (keeps_State_sendReport s l (Keeps.refl s)).mono
  have hdue := nextReport_due (s.sendReport l) l
  rw [hmono, sendReport_interval s hl] at hdue
  exact ⟨_, next_if ⟨decide_eq_true h1, h2⟩, hdue⟩

/-! ### The cipher cores -/

/-- A core's dispatch: the request leaves the scheduler and is on the core with copies of its slot's values (R132, R142, R151). -/
theorem cipherDispatch_eq {s : State} {k : Nat} {r : CipherReq} (hr : pickRequest s.cip = some r) (ha : s.rd Obj.coresActive ≠ 0)
    (h1 : (s.cCore k).retired = false) (h2 : (s.cCore k).job = none) (h3 : jobSlotOk s (r.slot s) r.job = true) :
    cipherDispatch s k =
      let t := ((keyPresent (cipherTake s r) r.job).setCCore k { s.cCore k with job := some (runOf s r) }).wr
        (Obj.kInFlight (r.slot s)) (s.rd (Obj.kInFlight (r.slot s)) + 1)
      packetiserResume t.cip.formed t := by
  have hfree : ¬ (s.rd Obj.coresActive ≠ 0 ∧ ((s.cCore k).retired = true ∨ (s.cCore k).job.isSome = true)) := by
    rw [h1, h2]
    simp
  unfold cipherDispatch
  dsimp only
  rw [hr]
  dsimp only
  rw [if_neg hfree, if_neg ha, h3]
  rfl

/-- With no packet formed the packetiser has nothing to resume. -/
theorem packetiserResume_nil {t : State} (h : t.cip.formed = []) : packetiserResume t.cip.formed t = t := by
  rw [h]
  unfold packetiserResume
  rw [← h]

theorem cipherDispatch_facts {s : State} {k : Nat} {r : CipherReq} (hr : pickRequest s.cip = some r) (ha : s.rd Obj.coresActive ≠ 0)
    (h1 : (s.cCore k).retired = false) (h2 : (s.cCore k).job = none) (h3 : jobSlotOk s (r.slot s) r.job = true) (h4 : s.cip.formed = []) :
    ((cipherDispatch s k).cCore k).job = some (runOf s r) ∧
    (cipherDispatch s k).rd (Obj.kInFlight (r.slot s)) = s.rd (Obj.kInFlight (r.slot s)) + 1 ∧
    (cipherDispatch s k).cip.waiting = s.cip.waiting.erase r := by
  obtain ⟨-, hcip⟩ := keyPresent_facts (cipherTake s r) r.job
  rw [cipherDispatch_eq hr ha h1 h2 h3]
  dsimp only
  rw [packetiserResume_nil (by rw [State.wr_cip, State.setCCore_cip_formed, hcip]; exact h4)]
  refine ⟨by rw [State.cCore_wr, State.setCCore_same], State.rd_wr_same .., ?_⟩
  rw [State.wr_cip, State.setCCore_cip_waiting, hcip]
  rfl

/-- The count of a slot's operations in flight is none of the objects of the cores. -/
theorem coresRetired_ne_kInFlight (n : Nat) : Obj.coresRetired ≠ Obj.kInFlight n := by
  unfold Obj.coresRetired Obj.kInFlight key
  omega

/-- A core whose check mismatches is retired, and the request goes back to the front once (R152). -/
theorem resultRelease_mismatch {s : State} {k : Nat} {j : CipherRun} (hj : (s.cCore k).job = some j) (hr : j.req.retried = false) :
    (resultRelease s k true).cCore k = ⟨true, none⟩ ∧
    (resultRelease s k true).cip.waiting = { j.req with retried := true } :: s.cip.waiting ∧
    (resultRelease s k true).rd Obj.coresRetired = setBit (s.rd Obj.coresRetired) k := by
  obtain ⟨hcore, hwaiting, hretired⟩ := coreRetire_facts s k
  unfold resultRelease
  rw [hj]
  dsimp only
  rw [if_pos rfl, hr, if_neg Bool.false_ne_true]
  refine ⟨(State.cCore_wr ..).trans hcore, ?_, ?_⟩
  · rw [State.wr_cip, hwaiting]
  · exact (State.rd_wr_other _ _ (coresRetired_ne_kInFlight _)).trans hretired

/-- A packet's result frees its core and leaves for the egress queue (R133, R142). -/
theorem resultRelease_tx {s : State} {k : Nat} {j : CipherRun} {p : OutPkt} (hj : (s.cCore k).job = some j)
    (ho : earlierOpen s j.req = false) (hp : j.req.job = .tx p) :
    resultRelease s k false = ((s.setCCore k { s.cCore k with job := none }).wr (Obj.kInFlight j.slot)
      (s.rd (Obj.kInFlight j.slot) - 1)).enqueue { p with prot := some (protOf j p) } := by
  unfold resultRelease
  rw [hj]
  dsimp only
  rw [if_neg Bool.false_ne_true, ho, if_neg Bool.false_ne_true]
  unfold releaseJob
  rw [hp]

theorem cCore_cip {s t : State} (h : t.cip = s.cip) (k : Nat) : t.cCore k = s.cCore k := by
  unfold State.cCore
  rw [h]

theorem resultRelease_tx_facts {s : State} {k : Nat} {j : CipherRun} {p : OutPkt} (hj : (s.cCore k).job = some j)
    (ho : earlierOpen s j.req = false) (hp : j.req.job = .tx p) (hs : j.slot < 0x1000000) :
    ((resultRelease s k false).cCore k).job = none ∧ (resultRelease s k false).cip.waiting = s.cip.waiting ∧
    (resultRelease s k false).rd (Obj.kInFlight j.slot) = s.rd (Obj.kInFlight j.slot) - 1 := by
  have hx : Obj.kInFlight j.slot / 0x100000000 ≠ 0xE010 := by unfold Obj.kInFlight key; omega
  rw [resultRelease_tx hj ho hp]
  have ht := enqueue_told ((s.setCCore k { s.cCore k with job := none }).wr (Obj.kInFlight j.slot) (s.rd (Obj.kInFlight j.slot) - 1))
    { p with prot := some (protOf j p) }
  refine ⟨?_, ?_, (ht.rd _ hx).trans (State.rd_wr_same ..)⟩
  · rw [cCore_cip ht.cip, State.cCore_wr, State.setCCore_same]
  · rw [ht.cip, State.wr_cip, State.setCCore_cip_waiting]

/-- A committed reservation is the entry's window; nothing was held for it (R147). -/
theorem windowRelease_empty {s : State} {l e w j : Nat} (hr : (s.txE l e).reserving = some (w, j)) (hc : s.committed j = true)
    (hh : (s.txE l e).held = []) :
    windowRelease s l e = s.setTxE l e { s.txE l e with window := some w, reserving := none } := by
  unfold windowRelease
  dsimp only
  rw [hr]
  dsimp only
  rw [hc, hh]
  exact congrArg (s.setTxE l e) (by rw [← hh])

/-- Zeroisation leaves a slot EMPTY, without material or suite, in a new recording epoch (R141, R142). -/
theorem zeroise_facts (s : State) (k : Nat) : (zeroise s k).material k = none ∧ (zeroise s k).rd (Obj.kState k) = 0 ∧
    (zeroise s k).rd (Obj.kSuite k) = 0 ∧ (zeroise s k).rd (Obj.kGen k) = (s.rd (Obj.kGen k) + 1) % 65536 ∧ (zeroise s k).mem = s.mem := by
  have h1 : Obj.kSuite k ≠ Obj.kState k := by unfold Obj.kSuite Obj.kState key; omega
  have h2 : Obj.kGen k ≠ Obj.kState k := by unfold Obj.kGen Obj.kState key; omega
  have h3 : Obj.kGen k ≠ Obj.kSuite k := by unfold Obj.kGen Obj.kSuite key; omega
  obtain ⟨hgen, hmem, hmaterial⟩ := newEpoch_facts { s with cip := { s.cip with material := AMap.del k s.cip.material } } k
  unfold zeroise
  refine ⟨?_, State.rd_wr_same .., ?_, ?_, ?_⟩
  · unfold State.material
    rw [State.wr_cip, State.wr_cip, hmaterial]
    exact if_pos (AMap.get_del_same ..)
  · rw [State.rd_wr_other _ _ h1, State.rd_wr_same]
  · rw [State.rd_wr_other _ _ h2, State.rd_wr_other _ _ h3, hgen]
    rfl
  · rw [State.wr_mem, State.wr_mem, hmem]

end Sys2Proof.Machine

open Sys2Proof Sys2Proof.Machine

/-- Settles O35: each row's own equation, and what its operation leaves. -/
theorem legTeardownTimersAndCipher : Obligations.leg_teardown_timers_and_cipher := by
  unfold Obligations.leg_teardown_timers_and_cipher
  intro s l k
  refine ⟨fun h1 h2 => ⟨_, rfl, legQuiescent_facts h1 h2⟩,
    fun q hq h1 h2 h3 h4 h5 h6 => ⟨_, congrArg Host.Outcome.next (egressRelease_eq hq h1 h2 h3 h4 h5 h6), ?_⟩,
    fun h1 h2 h3 h4 h5 => ⟨_, exec_legRxTimeout h1 h2 h3 h4 h5, ?_⟩,
    exec_rtcpReportTimer,
    fun r hk he hr ha h1 h2 h3 h4 => ?_,
    fun j hk hj hr => ⟨_, next_if hk, resultRelease_mismatch hj hr⟩,
    fun j p hk hj ho hp hs => ⟨_, next_if hk, resultRelease_tx_facts hj ho hp hs⟩,
    fun w j e he hr hc hh => ⟨_, (next_if he).trans (congrArg _ (windowRelease_empty hr hc hh)), ?_⟩,
    fun hk h1 h2 => ⟨_, (next_if hk).trans (next_if ⟨h1, h2⟩), zeroise_facts s k⟩⟩
  · refine ⟨State.setLeg_same .., ?_, rfl, rfl⟩
    exact State.q_setQ_same s q Queue.empty
  · refine ⟨by rw [State.leg_event, State.setLeg_same], fun i hi => State.event_rd _ _ _ _ _ hi, by rw [State.event_mem, State.setLeg_mem]⟩
  · obtain ⟨hjob, hflight, hwaiting⟩ := cipherDispatch_facts hr ha h1 h2 h3 h4
    exact ⟨_, runOf s r, next_if ⟨hk, he⟩, hjob, rfl, rfl, rfl, rfl, rfl, rfl, hflight, hwaiting⟩
  · exact ⟨State.setTxE_same .., State.setTxE_cip .., State.setTxE_dict ..⟩
end

section
/-! PROOFS. Video decode (spec/09): quiescence, the pipes, key requests, pipe errors. -/

namespace Sys2Proof.Machine

/-! ### Quiescence (R24, Table 9.3) -/

/-- A context's decode status at 0. -/
def statusCleared (s : State) (d : Nat) : State :=
  ((((((s.wr (Obj.dsStripMask d) 0).wr (Obj.dsWidth d) 0).wr (Obj.dsHeight d) 0).wr (Obj.dsBitDepth d) 0).wr
    (Obj.dsProfile d) 0).wr (Obj.dsLevel d) 0).wr (Obj.dsLastKey d) 0

theorem statusCleared_rd (s : State) (d : Nat) : (statusCleared s d).rd (Obj.dsWidth d) = 0 ∧ (statusCleared s d).rd (Obj.dsHeight d) = 0 ∧
    (statusCleared s d).rd (Obj.dsStripMask d) = 0 := by
  unfold statusCleared
  refine ⟨?_, ?_, ?_⟩ <;>
    simp [State.rd_wr_other, Obj.dsWidth, Obj.dsHeight, Obj.dsStripMask, Obj.dsBitDepth, Obj.dsProfile, Obj.dsLevel, Obj.dsLastKey, key]

/-- A context's memory given back, its state idle but for the count of its output settings, its queue gone. -/
def contextFreed (s : State) (d : Nat) : State :=
  ((s.unallot 4 ((s.dx d).poolOctets + ((s.dx d).outs.map (fun b => b.2.octets)).sum)).setDx d
    { DctxRt.idle with outGen := (s.dx d).outGen }).setQ (decodeQ d) Queue.empty

theorem dctxQuiescent_freed {s : State} {d : Nat} (h1 : (s.dx d).stage = .closing) (h2 : s.pipeOf d = none) (h3 : assistHeld s d = false)
    (h4 : ∀ w ∈ s.disp.items, w.desc.flow ≠ flowTag 3 d) (h5 : ∀ b ∈ (s.dx d).outs, b.2.readers = 0) :
    ∃ n, dctxQuiescent s d = statusCleared ((contextFreed s d).wr Obj.stripOutputs n) d :=
  ⟨_, if_pos ⟨h1, by rw [h2]; rfl, by rw [h3]; exact Bool.false_ne_true, by simpa using h4,
    List.all_eq_true.2 (fun b hb => decide_eq_true (h5 b hb))⟩⟩

theorem contextFreed_facts (s : State) (d : Nat) : (contextFreed s d).dx d = { DctxRt.idle with outGen := (s.dx d).outGen } ∧
    (contextFreed s d).q (decodeQ d) = Queue.empty ∧
    (contextFreed s d).partUsed 4 = s.partUsed 4 - ((s.dx d).poolOctets + ((s.dx d).outs.map (fun b => b.2.octets)).sum) := by
  unfold contextFreed
  refine ⟨?_, State.q_setQ_same .., AMap.get_put_same ..⟩
  rw [State.dx_setQ, State.setDx_same]

theorem statusCleared_frame (s : State) (d n : Nat) : (statusCleared (s.wr Obj.stripOutputs n) d).vd = s.vd ∧
    (statusCleared (s.wr Obj.stripOutputs n) d).queues = s.queues ∧ (statusCleared (s.wr Obj.stripOutputs n) d).mm = s.mm := by
  unfold statusCleared
  simp only [State.wr_vd, State.wr_queues, State.wr_mm, and_self]

theorem exec_dctxQuiescent {s : State} {d : Nat} (hd : d < 4096) (h1 : (s.dx d).stage = .closing) (h2 : s.pipeOf d = none)
    (h3 : assistHeld s d = false) (h4 : ∀ w ∈ s.disp.items, w.desc.flow ≠ flowTag 3 d) (h5 : ∀ b ∈ (s.dx d).outs, b.2.readers = 0) :
    ∃ t, exec (.dctxQuiescent d) s = .next t ∧
        t.dx d = { DctxRt.idle with outGen := (s.dx d).outGen } ∧ t.q (decodeQ d) = Queue.empty ∧
        t.partUsed 4 = s.partUsed 4 - ((s.dx d).poolOctets + ((s.dx d).outs.map (fun b => b.2.octets)).sum) ∧
        t.rd (Obj.dsWidth d) = 0 ∧ t.rd (Obj.dsHeight d) = 0 ∧ t.rd (Obj.dsStripMask d) = 0 := by
  obtain ⟨n, hq⟩ := dctxQuiescent_freed h1 h2 h3 h4 h5
  obtain ⟨hdx, hqueue, hused⟩ := contextFreed_facts s d
  obtain ⟨hvd, hqueues, hmm⟩ := statusCleared_frame (contextFreed s d) d n
  refine ⟨_, (next_if hd).trans (congrArg Host.Outcome.next hq), ?_, ?_, ?_, statusCleared_rd _ d⟩
  · rw [← hdx]
    unfold State.dx
    rw [hvd]
  · rw [← hqueue]
    unfold State.q
    rw [hqueues]
  · rw [← hused]
    unfold State.partUsed
    rw [hmm]

/-! ### The pipes (R220 to R223, R226, R233) -/

/-- A free pipe takes the head unit of the context it picks, once that context has shed what it may. -/
theorem exec_pipePictureStart {s : State} {d p : Nat} {i : QItem} {q : Queue} {u : AccessUnit} (hp : p < 8) (h1 : s.engines = true)
    (h2 : bit (s.rd Obj.pipesOnline) p = true) (h3 : ∀ j ∈ s.vd.pipes, j.1 ≠ p) (h4 : pipePick s = some d)
    (h5 : ((shed s d).q (decodeQ d)).pop = (some i, q)) (h6 : unitOf i = some u) :
    exec (.pipePictureStart p) s = .next (takeUnit ((shed s d).updQ (decodeQ d) q) p d u) := by
  refine (next_if ⟨hp, h1, h2, not_any_fst h3⟩).trans (congrArg Host.Outcome.next ?_)
  rw [h4]
  dsimp only
  rw [h5]
  dsimp only
  rw [h6]

theorem takeUnit_unsupported {s : State} {p d : Nat} {u : AccessUnit} (h : u.facts.supported = false) :
    takeUnit s p d u = refuseUnit s d true := if_pos (by rw [h]; rfl)

/-- A unit of a supported sequence is judged by its size next (R223). -/
theorem takeUnit_oversize {s : State} {p d : Nat} {u : AccessUnit} (h : u.facts.supported = true)
    (ho : s.rd (Obj.maxWidth d) < u.facts.width ∨ s.rd (Obj.maxHeight d) < u.facts.height ∨ s.rd (Obj.maxBitDepth d) < u.facts.depth) :
    takeUnit s p d u = refuseUnit s d false := by
  unfold takeUnit
  dsimp only
  rw [h, if_neg (by decide), if_pos ho]

/-- A unit within the context's limits is discarded while a key picture is awaited and it brings none (R226). -/
theorem takeUnit_waits {s : State} {p d : Nat} {u : AccessUnit} (h : u.facts.supported = true) (hw : u.facts.width ≤ s.rd (Obj.maxWidth d))
    (hh : u.facts.height ≤ s.rd (Obj.maxHeight d)) (hb : u.facts.depth ≤ s.rd (Obj.maxBitDepth d)) (hs : (s.dx d).stage = .waitKey)
    (hk : u.facts.key = false ∨ u.missing = true) : takeUnit s p d u = s.inc (Obj.dcWaitDiscard d) := by
  unfold takeUnit
  dsimp only
  rw [h, if_neg (by decide), if_neg (by omega)]
  exact if_pos ⟨hs, hk.imp_left (fun h => by rw [h]; exact Bool.false_ne_true)⟩

/-- Any other unit whose layers the targets let through starts its picture under those targets (R233). -/
theorem takeUnit_starts {s : State} {p d : Nat} {u : AccessUnit} {g : PicFacts} (h : u.facts.supported = true)
    (hw : u.facts.width ≤ s.rd (Obj.maxWidth d)) (hh : u.facts.height ≤ s.rd (Obj.maxHeight d))
    (hb : u.facts.depth ≤ s.rd (Obj.maxBitDepth d)) (hs : (s.dx d).stage ≠ .waitKey ∨ u.facts.key = true ∧ u.missing = false)
    (hr : u.facts.rasl = false) (hg : targetUnit s d u.facts (layerTargets s d u.facts) = some g) :
    takeUnit s p d u = startPicture (s.setDx d { s.dx d with
      spatial := (layerTargets s d u.facts).1
      temporal := (layerTargets s d u.facts).2 }) p d { u with facts := g } := by
  have hgo : ¬ ((s.dx d).stage = .waitKey ∧ (¬ u.facts.key = true ∨ u.missing = true)) := by
    rintro ⟨hw, hk⟩
    rcases hs with hs | ⟨hkey, hm⟩
    · exact hs hw
    · rw [hkey, hm] at hk
      exact hk.elim (fun h => h rfl) Bool.false_ne_true
  unfold takeUnit
  dsimp only
  rw [h, if_neg (by decide), if_neg (by omega), if_neg hgo, hr, if_neg Bool.false_ne_true, hg]

/-! ### The end of a picture, key requests, pipe errors -/

theorem exec_pictureDecodeComplete {s : State} {p : Nat} {j : PicJob} (hj : s.vd.pipes.find? (fun j => decide (j.1 = p)) = some (p, j))
    (he : j.ends ≤ s.mono) : exec (.pictureDecodeComplete p) s = .next (finishPicture s p j) := by
  show Host.Outcome.next (pictureDone s p) = _
  unfold pictureDone
  rw [hj]
  exact next_if he

theorem exec_keyRequestPacing {s : State} {d : Nat} (hd : d < 4096) (h1 : (s.dx d).stage = .waitKey ∨ (s.dx d).stage = .decoding)
    (h2 : (s.dx d).needKey = true) (h3 : (s.dx d).askAt ≠ 0) (h4 : (s.dx d).askAt + 200000000 ≤ s.mono + 1) :
    exec (.keyRequestPacing d) s = .next (dctxAsk s d) := (next_if hd).trans (next_if ⟨h1, h2, h3, h4⟩)

/-- A request whose pacing is over, of a context no leg is bound to, is noted as made and stays needed (R229). -/
theorem dctxAsk_unbound {s : State} {d : Nat} (h1 : (s.dx d).askAt + 200000000 ≤ s.mono + 1) (h2 : s.boundTo d = none) :
    ((dctxAsk s d).dx d).needKey = true ∧ ((dctxAsk s d).dx d).askAt = s.mono + 1 := by
  have hdue : ¬ ((s.dx d).askAt ≠ 0 ∧ s.mono + 1 < (s.dx d).askAt + keyPace) := fun h => Nat.not_lt.2 h1 h.2
  unfold dctxAsk
  dsimp only
  rw [if_neg hdue, h2]
  dsimp only
  rw [State.setDx_same]
  exact ⟨rfl, rfl⟩

/-- A pipe out of service, and decoding unavailable with the last one gone (R232). -/
def pipeGone (s : State) (p : Nat) : State :=
  let v := (s.wr Obj.pipesOnline (clrBit (s.rd Obj.pipesOnline) p)).event Ev.decodePipeRetired p 0
  if v.rd Obj.pipesOnline = 0 then v.event Ev.decodeUnavailable 0 0 else v

/-- An error retires its pipe once the picture on it has ended as broken. -/
theorem exec_decodePipeEccError {s s1 : State} {p : Nat} (hp : p < 8) (h1 : s.engines = true) (h2 : bit (s.rd Obj.pipesOnline) p = true)
    (h3 : s1 = s ∧ s.vd.pipes.find? (fun j => decide (j.1 = p)) = none ∨
      ∃ j, s.vd.pipes.find? (fun j => decide (j.1 = p)) = some (p, j) ∧ s1 = finishPicture s p { j with broken := true }) :
    exec (.decodePipeEccError p) s = .next (pipeGone s1 p) := by
  refine (next_if h1).trans ((next_if ⟨hp, h2⟩).trans (congrArg Host.Outcome.next ?_))
  rcases h3 with ⟨rfl, hn⟩ | ⟨j, hj, rfl⟩
  · rw [hn]
    rfl
  · rw [hj]
    rfl

end Sys2Proof.Machine

open Sys2Proof Sys2Proof.Machine

/-- Settles O43: a pipe's start goes by what `takeUnit` makes of the head unit, the other rows by their own equation. -/
theorem videoDecodeSteps : Obligations.video_decode_steps := by
  unfold Obligations.video_decode_steps
  intro s d hd
  refine ⟨exec_dctxQuiescent hd, fun p i q u x hp h1 h2 h3 h4 h5 h6 hx => ?_, fun p j => exec_pictureDecodeComplete,
    fun h1 h2 h3 h4 => ⟨_, exec_keyRequestPacing hd h1 h2 h3 h4, rfl, dctxAsk_unbound h4⟩, fun p v s1 hp h1 h2 h3 hv => ?_⟩
  · have hexec := exec_pipePictureStart hp h1 h2 h3 h4 h5 h6
    rw [← hx] at hexec
    rw [hexec]
    exact ⟨fun h => congrArg _ (takeUnit_unsupported h), fun h ho => congrArg _ (takeUnit_oversize h ho), fun h hw hh hb =>
      ⟨fun hs hk => congrArg _ (takeUnit_waits h hw hh hb hs hk), fun hs hr g hg => congrArg _ (takeUnit_starts h hw hh hb hs hr hg)⟩⟩
  · subst hv
    exact exec_decodePipeEccError hp h1 h2 h3
end

section
/-! PROOFS. Canonical data (R34, R302): every step keeps the dictionary, the shadow and the memory in their one form. -/

namespace Sys2Proof.Machine

theorem State.canon_iff {s : State} :
    s.canon = true ↔ AMap.wf dfltOf s.dict = true ∧ AMap.wf dfltOf s.shadow = true ∧ Memory.wf s.mem = true := by
  simp only [State.canon, Bool.and_eq_true, and_assoc]

/-- What `Keeps` says of the three canonical maps, taken together. -/
theorem Keeps.canon {s t : State} (k : Keeps s t) (h : s.canon = true) : t.canon = true := by
  obtain ⟨hd, hs, hm⟩ := State.canon_iff.1 h
  exact State.canon_iff.2 ⟨k.dict hd hs, k.shadow hd hs, k.mem hm⟩

theorem exec_keeps_canon {c : Instr} {s t : State} (h : s.canon = true) (e : exec c s = .next t) : t.canon = true :=
  (keeps_next (keeps_exec c s (Keeps.refl s)) e).canon h

/-- The clocks are no part of the canonical data. -/
theorem idle_canon (s : State) : (idle s).canon = s.canon := by
  obtain ⟨tod, tm, pw, h⟩ := idle_eq s
  rw [h]
  rfl

theorem step_nil {s : State} (h : s.pending = []) : step s = .next (idle s) := by
  unfold step
  rw [h]

theorem step_cons {c : Instr} {r : List Instr} {s : State} (h : s.pending = c :: r) : step s = exec c { s with pending := r } := by
  unfold step
  rw [h]

end Sys2Proof.Machine

open Sys2Proof Sys2Proof.Machine

/-- Settles O4: time that passes moves the clocks alone, and every command `Keeps` what is canonical. -/
theorem canonicalDataIsKept : Obligations.canonical_data_is_kept := by
  unfold Obligations.canonical_data_is_kept
  intro s t h e
  cases hp : s.pending with
  | nil =>
    rw [step_nil hp] at e
    cases e
    rw [idle_canon]
    exact h
  | cons c r =>
    rw [step_cons hp] at e
    exact exec_keeps_canon (s := { s with pending := r }) h e
end

section
/-! PROOFS. Requests that write an object, and requests that are refused (R37, R40, R41, R49, R59). -/

namespace Sys2Proof.Machine

/-! ### AUTUMN refuses new work (R59) -/

theorem legRegister_autumn {s : State} {l : Nat} (hs : s.season = .autumn) (h : (s.leg l).future = .free) :
    legRegister s l = (0x02030010, s) := by
  unfold legRegister
  rw [h, if_neg (by decide), if_neg (by simp), if_pos hs]
  rfl

theorem legActivate_autumn {s : State} {l : Nat} (hs : s.season = .autumn) (h : (s.leg l).future = .registered) :
    legActivate s l = (0x02030010, s) := by
  unfold legActivate
  rw [h, if_neg (by simp), if_pos hs]
  rfl

/-- A write of 1 to LegState registers a leg that will not be active. -/
theorem legStateWrite_register {s : State} {l : Nat} (h : (s.leg l).future ≠ .active) : legStateWrite s l 1 = legRegister s l := if_neg h

theorem legStateWrite_autumn_register {s : State} {l : Nat} (hs : s.season = .autumn) (h : (s.leg l).future = .free) :
    legStateWrite s l 1 = (0x02030010, s) := (legStateWrite_register (by rw [h]; decide)).trans (legRegister_autumn hs h)

theorem legStateWrite_autumn_activate {s : State} {l : Nat} (hs : s.season = .autumn) (h : (s.leg l).future = .registered) :
    legStateWrite s l 2 = (0x02030010, s) := legActivate_autumn hs h

theorem confStateWrite_autumn {s : State} {c : Nat} (hs : s.season = .autumn) (h : s.rd (Obj.confState c) = 0) :
    confStateWrite s c 1 = (0x02030010, s) := by
  unfold confStateWrite
  rw [if_pos rfl, if_pos ⟨hs, by rw [h]; decide⟩]
  rfl

/-- The write of the field ConfState is the conference's own write. -/
theorem objectWrite_confState {x : WCtx} {s : State} {a : Attr} {c v : Nat} (hv : v < 256) :
    objectWrite x s (rowField 0x2200 1 c 1 a (.num v)) = confStateWrite s c v := by
  unfold rowField
  rw [slice_num (by simpa using hv), objectWrite_2 (by norm_num)]
  rfl

theorem confState_refused {s : State} {b tag c v e : Nat} (h : Admits s b (rowReq (.mbx b) tag 0 0x2200 1 c 1 true) (.num v)) (hv : v < 256)
    (he : e ≠ 0) (hw : confStateWrite s c v = (e, s)) :
    writeElement s (.mbx b) tag 0 0x2200 1 c 1 (.num v) =
      reply s (.mbx b) 0 (respond (rowReq (.mbx b) tag 0 0x2200 1 c 1 true) e 0 0) := by
  obtain ⟨a, ha, -⟩ := attr_facts attr_2200_1
  exact writeRow_refused h ha (by decide) he ((objectWrite_confState hv).trans hw)

/-! ### The rows READ, WRITE and DESCRIBE -/

theorem exec_dictRead (s : State) (ch : Chan) (r : Req) (a : Nat) :
    exec (.dictRead ch r a) s = .next (rowDeliver s ch { r with op := 1 } (.num a)) := rfl

theorem exec_dictWrite (s : State) (ch : Chan) (r : Req) (d : Payload) :
    exec (.dictWrite ch r d) s = .next (rowDeliver s ch { r with op := 2 } d) := rfl

theorem exec_describe (s : State) (ch : Chan) (r : Req) :
    exec (.describe ch r) s = .next (rowDeliver s ch { r with op := 3 } (.num 0)) := rfl

end Sys2Proof.Machine

open Sys2Proof Sys2Proof.Machine

/-- Settles O26: a row runs its WRITE, which is the object's own write and its answer, or the object's refusal. -/
theorem requestRowsComplete : Obligations.request_rows_complete := by
  unfold Obligations.request_rows_complete
  intro c s b w a hw hch hg h ha hix
  obtain ⟨ch, tag, group, ix, sub, el, len, table, d, blown⟩ := w
  subst hch hg
  rw [exec_rowWrite hw]
  refine ⟨fun t u ho hr => ?_, fun e t he ho => ?_⟩
  · obtain ⟨v, n, e⟩ := writeRow_answer h ha hix ho hr
    exact ⟨v, n, congrArg (fun x => Host.Outcome.next (RowWrite.done _ x)) e⟩
  · exact congrArg (fun x => Host.Outcome.next (RowWrite.done _ x)) (writeRow_refused h ha hix he ho)

/-- Settles O28: the legs' and conferences' own writes meet the season first, and a row answers their abort. -/
theorem autumnRefusesNewWork : Obligations.autumn_refuses_new_work := by
  unfold Obligations.autumn_refuses_new_work
  intro s hs
  refine ⟨fun l => legStateWrite_autumn_register hs, fun l => legStateWrite_autumn_activate hs, fun c => confStateWrite_autumn hs,
    fun b tag l h hst hf => ?_, fun b tag l h hst hf => ?_, fun b tag c h h0 => ?_⟩
  · exact congrArg Host.Outcome.next (legState_refused h (by decide) hst (by decide) (legStateWrite_autumn_register hs hf))
  · exact congrArg Host.Outcome.next (legState_refused h (by decide) hst (by decide) (legStateWrite_autumn_activate hs hf))
  · exact congrArg Host.Outcome.next (confState_refused h (by decide) (by decide) (confStateWrite_autumn hs h0))

/-- Settles O29: existence comes before everything a request of any operation would do. -/
theorem absentObjectIsRefused : Obligations.absent_object_is_refused := by
  unfold Obligations.absent_object_is_refused
  intro s ch r hrun hval hprot hreq hbeh hix
  refine ⟨fun p d seq hm hd ho => take_none hprot hreq hbeh hix p d seq hm hd ho, fun a hc hm => ?_, fun d hc hm hg hi => ?_, fun hc hm => ?_⟩
  · rw [exec_dictRead, row_none (r := { r with op := 1 }) hrun hval hprot hreq hbeh hix hc hm (.inl rfl)]
    rfl
  · rw [exec_dictWrite, row_none (r := { r with op := 2 }) hrun hval hprot hreq hbeh hix hc hm (.inr (.inr ⟨rfl, hg, hi⟩))]
    simp only [true_and]
  · rw [exec_describe, row_none (r := { r with op := 3 }) hrun hval hprot hreq hbeh hix hc hm (.inr (.inl rfl))]
    rfl
end

section
/-! PROOFS. Requests on legs, conferences, the classifier and taps (R53, R100, R101, R108, R149, R150, R465). -/

namespace Sys2Proof.Machine

/-! ### Legs (R100, R101) -/

@[simp] theorem turnLeg_table (s : State) (l : Nat) (t : LegStage) : (s.turnLeg l t).le.table = s.le.table := State.setLeg_le_table ..

theorem legRegister_ok {s t : State} {l : Nat} (hf : (s.leg l).future = .free) (hs : s.season ≠ .autumn) (hc : registerCheck s l = 0)
    (hr : clsReserve s l = (0, t)) : legRegister s l = (0, t.turnLeg l .registered) := by
  unfold legRegister
  rw [hf, if_neg (by decide), if_neg (by simp), if_neg hs, hc, hr]
  rfl

theorem legActivate_ok {s t : State} {l : Nat} (hf : (s.leg l).future = .registered) (hs : s.season ≠ .autumn) (hc : activateCheck s l = 0)
    (hm : activateMemory s l = (0, t)) :
    legActivate s l = (0, (t.setLeg l { t.leg l with charge := legCharge s l }).turnLeg l .active) := by
  unfold legActivate
  rw [hf, if_neg (by simp), if_neg hs, hc, hm]
  rfl

theorem legStateWrite_deactivate {s : State} {l : Nat} (h : (s.leg l).future = .active) :
    legStateWrite s l 1 = (0, s.turnLeg l .registered) := by
  show (if (s.leg l).future = .active then legDeactivate s l else legRegister s l) = _
  unfold legDeactivate
  rw [if_pos h, if_neg (by simp [h])]

theorem legStateWrite_free {s : State} {l : Nat} (h : (s.leg l).future = .registered) :
    legStateWrite s l 0 = (0, s.turnLeg l .releasing) := by
  show legFree s l = _
  unfold legFree
  rw [if_neg (by simp [h])]

/-- A write of LegState that only turns the leg of `t`: the transition waits in the leg for the boundary. -/
theorem legState_turned {s t : State} {b tag l v : Nat} {st : LegStage}
    (h : Admits s b (rowReq (.mbx b) tag 0 0x2101 0 l 1 true) (.num v)) (hv : v < 256) (hst : (s.leg l).stage ≠ .releasing)
    (hw : legStateWrite s l v = (0, t.turnLeg l st)) :
    (writeElement s (.mbx b) tag 0 0x2101 0 l 1 (.num v)).leg l = { t.leg l with turn := (t.leg l).turn ++ [(mixBoundary s.tod, st)] } ∧
      (writeElement s (.mbx b) tag 0 0x2101 0 l 1 (.num v)).le.table = t.le.table := by
  obtain ⟨hl, ht⟩ := legState_row h hv hst hw (by rw [turnLeg_leg])
  rw [turnLeg_leg] at hl
  exact ⟨hl, ht.trans (turnLeg_table ..)⟩

/-! ### Conferences (R108, R465) -/

theorem confStateWrite_activate {s : State} {c : Nat} (hs : s.season ≠ .autumn) (h2 : s.rd (Obj.confState c) = 0)
    (h3 : (s.cf c).releasing = false) (h4 : s.rd (Obj.confRole c) ≠ 2) :
    confStateWrite s c 1 = (0, ((s.setCf c ConfRt.idle).wr (Obj.confState c) 1).wr (Obj.devices c) 1) := by
  unfold confStateWrite
  rw [if_pos rfl, if_neg (fun h => hs h.1), confActivate_ok h2 h3 h4]

/-- A freed conference's state reads 0 behind the writes that follow it. -/
theorem confFree_rd (u : State) (c : Nat) :
    (((u.wr (Obj.confState c) 0).wr (Obj.joinState c) 0).wr (Obj.devices c) 1).rd (Obj.confState c) = 0 := by
  have hd : Obj.confState c ≠ Obj.devices c := by unfold Obj.confState Obj.devices key; omega
  have hj : Obj.confState c ≠ Obj.joinState c := by unfold Obj.confState Obj.joinState key; omega
  rw [State.rd_wr_other _ _ hd, State.rd_wr_other _ _ hj, State.rd_wr_same]

theorem Told.rd_conf {s t : State} (k : Told s t) {sub c : Nat} (_ : sub < 256) (_ : c < 16384) :
    t.rd (key 0x2200 sub c) = s.rd (key 0x2200 sub c) := k.rd _ (by unfold key; omega)

/-- A write of AnchorFdev on a conference that is not active takes the device and tells no anchor. -/
theorem anchorFdev_told {s : State} {b tag c v : Nat} (h : Admits s b (rowReq (.mbx b) tag 0 0x2200 3 c 2 true) (.num v))
    (h0 : s.rd (Obj.confState c) = 0) (hv : v ≠ 0xFFFF) (ha : s.rd (Obj.anchorConf c) ≠ 0xFFFF) (hl : v < 65536) :
    Told (s.wr (Obj.anchorFdev c) v) (writeElement s (.mbx b) tag 0 0x2200 3 c 2 (.num v)) := by
  obtain ⟨a, hat, hc, -, he⟩ := attr_facts attr_2200_3
  have hs : (s.wr (Obj.anchorFdev c) v).rd (Obj.confState c) = 0 := by
    rw [State.rd_wr_other _ _ (by unfold Obj.confState Obj.anchorFdev key; omega), h0]
  have hk : (s.wr (Obj.anchorFdev c) v).rd (Obj.anchorConf c) ≠ 0xFFFF := by
    rwa [State.rd_wr_other _ _ (by unfold Obj.anchorConf Obj.anchorFdev key; omega)]
  refine row_told h hat (by decide) (t := s.wr (Obj.anchorFdev c) v) ?_ ?_
  · unfold rowField
    rw [slice_num (by simpa using hl), objectWrite_2 (by norm_num)]
    show store _ s _ = _
    simp [store, he, rowCtx, ctxAt, Payload.value, Obj.anchorFdev]
  · have hp : (confPost (s.wr (Obj.anchorFdev c) v) 0x2200 c).1 = 0 := by
      unfold confPost
      rw [if_neg (by rw [State.rd_wr_same]; tauto)]
    have hr : repointed s (s.wr (Obj.anchorFdev c) v) c [3] = s.wr (Obj.anchorFdev c) v := by
      unfold repointed anchorRepoint State.isRemote
      simp [hs]
    unfold recordCheck
    simp [hat, hc, hp, hr]

/-! ### The classifier image (R114) and the taps (R149, R150) -/

theorem classifierImage_told {s : State} {b tag : Nat} {i : Image}
    (h : Admits s b (rowReq (.mbx b) tag 0 0x2030 0 0 i.octs.length false) (.image i)) (hv : verifyImage s 0x11 i = 0) :
    Told { s with le := { s.le with classifier := some i, shipped := false } }
      (writeScalar s (.mbx b) tag 0 0x2030 0 i.octs.length (.image i)) := by
  obtain ⟨a, ha, hc, -⟩ := attr_facts attr_2030
  refine row_told h ha (by decide) (t := { s with le := { s.le with classifier := some i, shipped := false } }) ?_ ?_
  · rw [objectWrite_2 (by norm_num [rowField])]
    show classifierWrite s i = _
    unfold classifierWrite
    rw [hv]
    rfl
  · unfold recordCheck
    simp [ha, hc]

theorem attr_tap (isLeg : Bool) :
    (attrOf (if isLeg then 0x2311 else 0x2310) 1).map (fun a => (a.counter, a.amark, a.effect)) = some (false, false, .immediate) := by
  cases isLeg
  · exact attr_2310
  · exact attr_2311

/-- The write of 1 to a tap's Enable is the tap's own start. -/
theorem objectWrite_tapEnable {x : WCtx} {s : State} {a : Attr} {isLeg : Bool} {id : Nat} (hm : a.amark = false)
    (hst : isLeg = true → (s.leg id).stage ≠ .releasing) :
    objectWrite x s (rowField (if isLeg then 0x2311 else 0x2310) 1 id 1 a (.num 1)) = tapEnable s isLeg id := by
  unfold rowField
  rw [slice_num (by norm_num), objectWrite_2 (by cases isLeg <;> norm_num)]
  cases isLeg with
  | false => rfl
  | true =>
    have hp : legPre s 0x2311 id a.amark a.counter = 0 := by
      unfold legPre
      simp [hm, hst rfl]
    unfold write2
    simp [isLegIndex, hp, tapWrite, Payload.value]

theorem tapEnable_told {s : State} {b tag id : Nat} {isLeg : Bool}
    (h : Admits s b (rowReq (.mbx b) tag 0 (if isLeg then 0x2311 else 0x2310) 1 id 1 true) (.num 1))
    (hst : isLeg = true → (s.leg id).stage ≠ .releasing) (hok : (tapEnable s isLeg id).1 = 0) :
    Told (tapEnable s isLeg id).2 (writeElement s (.mbx b) tag 0 (if isLeg then 0x2311 else 0x2310) 1 id 1 (.num 1)) := by
  obtain ⟨a, ha, hc, hm, -⟩ := attr_facts (attr_tap isLeg)
  refine row_told h ha (by cases isLeg <;> decide) ((objectWrite_tapEnable hm hst).trans (Prod.ext hok rfl)) ?_
  unfold recordCheck
  simp only [List.all_cons, List.all_nil, ha, Option.any_some, hc]
  cases isLeg <;> rfl

end Sys2Proof.Machine

open Sys2Proof Sys2Proof.Machine

/-- Settles O25: the object's own write of each row, carried through the answer by `Told`. -/
theorem legAndConferenceRequests : Obligations.leg_and_conference_requests := by
  unfold Obligations.leg_and_conference_requests
  intro s b tag
  refine ⟨fun l t h hst hf hs hc hr => ⟨_, rfl, ?_⟩, fun l t h hst hf hs hc hm => ⟨_, rfl, ?_⟩, fun l h hst hf => ⟨_, rfl, ?_⟩,
    fun l h hst hf => ⟨_, rfl, ?_⟩, fun c h hs h0 hr hro hc => ⟨_, rfl, ?_⟩, fun c h h1 hm hro hc => ⟨_, rfl, ?_⟩,
    fun c v h h0 hv ha hl hc => ⟨_, rfl, ?_⟩, fun i h hv => ⟨_, rfl, ?_⟩, fun isLeg id h hst hok => ⟨_, rfl, ?_⟩⟩
  · obtain ⟨hl, ht⟩ := legState_turned h (by decide) hst
      ((legStateWrite_register (by rw [hf]; decide)).trans (legRegister_ok hf hs hc hr))
    rw [hl, clsReserve_leg hr]
    exact ⟨rfl, ht⟩
  · obtain ⟨hl, -⟩ := legState_turned h (by decide) hst (legActivate_ok hf hs hc hm)
    rw [State.setLeg_same] at hl
    rw [hl]
    exact ⟨rfl, rfl, rfl⟩
  · obtain ⟨hl, -⟩ := legState_turned h (by decide) hst (legStateWrite_deactivate hf)
    rw [hl]
    exact ⟨rfl, rfl⟩
  · obtain ⟨hl, -⟩ := legState_turned h (by decide) hst (legStateWrite_free hf)
    rw [hl]
    exact ⟨rfl, rfl⟩
  · have k := confState_row h (by decide) (confStateWrite_activate hs h0 hr hro)
    refine ⟨(k.rd_conf (by decide) hc).trans ?_, (k.rd_conf (by decide) hc).trans ?_, (cf_told k c).trans ?_⟩
    · exact (State.rd_wr_other _ _ (by unfold Obj.devices key; omega)).trans (State.rd_wr_same ..)
    · exact State.rd_wr_same ..
    · rw [State.cf_wr, State.cf_wr, State.setCf_same]
  · have hrem : s.isRemote c = false := by simp [State.isRemote, hro]
    obtain ⟨u, hu⟩ := confFree_ok h1 hm hrem
    have k := confState_row (t := _) h (by decide) hu
    refine ⟨(k.rd_conf (by decide) hc).trans (confFree_rd u c), (congrArg ConfRt.releasing (cf_told k c)).trans ?_⟩
    rw [State.cf_wr, State.cf_wr, State.cf_wr, State.setCf_same]
  · exact ((anchorFdev_told h h0 hv ha hl).rd_conf (by decide) hc).trans (State.rd_wr_same ..)
  · have k := classifierImage_told h hv
    exact ⟨congrArg LegEngine.classifier k.le, congrArg LegEngine.shipped k.le⟩
  · have k := tapEnable_told h hst hok
    exact ⟨congrArg Cipher.taps k.cip, congrArg Cipher.ranges k.cip⟩
end

section
/-! PROOFS. Requests by message, and groups (R34 to R38, R49 to R52). -/

namespace Sys2Proof.Machine

/-- A request other than a plain WRITE or a commit is carried out at once in every season. -/
theorem immediate_of_op {r : Req} (n : Nat) (h : r.op = n) (hn : n ≠ 2 ∧ n ≠ 5) : immediate r = true := by
  unfold immediate
  rw [h, decide_eq_true hn, Bool.true_or]

theorem immediate_of_group {r : Req} (h : r.op = 2) (hg : r.group ≠ 0) : immediate r = true := by
  unfold immediate
  rw [decide_eq_true h, decide_eq_true hg, Bool.true_and, Bool.or_true]

/-- Only a READ or a WRITE may be INDIRECT (R43). -/
theorem messageAbort_inline {ch : Chan} {r : Req} (h : messageAbort ch r = 0) (hop : 2 < r.op) : r.indirect = false := by
  cases hi : r.indirect with
  | false => rfl
  | true => exact absurd (indirect_mbx h hi).2 (by omega)

/-- A mailbox's request with no others in its way, of a device that is no twin, is answered with what carrying it out gives. -/
theorem rowDeliver_answered {s : State} {b : Nat} {r : Req} {d : Payload} (hrun : s.running = true) (hb : b < 64) (hrole : s.role = 0)
    (hreq : s.tw.requests = []) (hbeh : heldBehind s (.mbx b) = false) (hm : messageAbort (.mbx b) r = 0) (hi : r.indirect = false)
    (hs : s.season ≠ .spring ∨ immediate r = true) {x : Done}
    (hx : carryOut s (.mbx b) (s.principal (.mbx b)) r d 0 s.tod (inlineRoom (.mbx b) r.words) = x) :
    rowDeliver s (.mbx b) r d = reply x.st (.mbx b) 0 x.resp := by
  have hroom : roomOf (.mbx b) r = inlineRoom (.mbx b) r.words := if_neg (by simp [hi])
  rw [rowDeliver_mbx hrun hb hrole hreq hbeh hm hi, finish_now hrole hs, hroom, hx]

theorem describeServe_field {r : Req} {a : Attr} (he : existsAbort r.index r.sub = 0) (ha : attrOf r.index r.sub = some a)
    (hr : isRec r.index = false) : describeServe r = respond r 0 (describeField a) 16 := by
  unfold describeServe
  simp [he, ha, hr]

theorem readServe_value {s t : State} {ch : Chan} {p : Principal} {r : Req} {v n : Nat} (ha : readAbort p r = 0)
    (hd : readData s ch r = ((v, n), t)) (hn : n ≤ inlineRoom ch 8) : readServe s ch p r = (respond r 0 v n, t) := by
  unfold readServe
  rw [ha, hd]
  exact (if_neg (by decide)).trans (if_neg (fun h => Nat.not_lt.2 hn h.2))

/-- A WRITE taken into its group (R51). -/
theorem stage_ok {s : State} {ch : Chan} {r : Req} {d : Payload} {room : Nat} {g : Group} (hg : groupOf s ch r.group = some g)
    (hx : existsAbort r.index r.sub ≠ 0x01010001) (ht : tokenIndex r.index = false) (hl : r.length ≤ room) (hw : g.writes.length < 1024)
    (ho : g.octets + r.length ≤ 262144) :
    stage s ch r d room = (0, setGroup s { g with
      lastUse := s.mono
      writes := g.writes ++ [⟨r, d⟩]
      octets := g.octets + r.length }) := by
  unfold stage
  rw [hg]
  exact (if_neg hx).trans ((if_neg (by simp [ht])).trans ((if_neg (fun h => Nat.not_lt.2 hl h.2)).trans (if_neg (by omega))))

/-- GROUP_OPEN while a number is free. -/
theorem carryOut_open {s : State} {ch : Chan} {p : Principal} {r : Req} {d : Payload} {q a room n : Nat} {l : List Nat} (h : r.op = 4)
    (hf : s.ctl.freeGroups = n :: l) :
    carryOut s ch p r d q a room = ⟨respond r 0 n 4, { s with ctl := { s.ctl with
      groups := s.ctl.groups ++ [⟨n, ch, (s.sessionOf ch).map OpSession.id, [], 0, s.mono⟩]
      freeGroups := l } }, [], none⟩ := by
  simp only [carryOut, h, groupOpen, hf]
  rfl

/-- A closed group is gone, and its number is free again. -/
theorem groupClose_facts {s : State} {g : Nat} {x : Group} (hx : s.ctl.groups.find? (fun y => decide (y.num = g)) = some x) :
    (∀ y ∈ (groupClose s g).ctl.groups, y.num ≠ g) ∧ g ∈ (groupClose s g).ctl.freeGroups := by
  have hn : x.num = g := of_decide_eq_true (List.find?_some (p := fun y : Group => decide (y.num = g)) hx)
  refine ⟨fun y hy hg => ?_, List.mem_append_right _ (List.mem_map.2 ⟨x, ?_, hn⟩)⟩
  · have := (List.mem_filter.1 hy).2
    simp [hg] at this
  · exact List.mem_filter.2 ⟨List.mem_of_find?_eq_some hx, by simpa using hn⟩

theorem exec_groupTimeoutExpiry {s : State} {g : Nat} {x : Group} (hx : s.ctl.groups.find? (fun y => decide (y.num = g)) = some x)
    (hd : x.lastUse + s.rd Obj.groupTimeout * 1000000 ≤ s.mono) : exec (.groupTimeoutExpiry g) s = .next (groupClose s g) := by
  show Host.Outcome.next (groupTimeout s g) = _
  unfold groupTimeout
  rw [hx]
  exact next_if hd

/-- A WRITE that names its octets inline runs as the row's WRITE would. -/
theorem exec_dictWrite_row {s : State} {b : Nat} {r : Req} {d : Payload} (hb : b < 64) (hop : r.op = 2) (hi : r.indirect = false) :
    exec (.dictWrite (.mbx b) r d) s = .next (writeRow s (.mbx b) r d) := by
  have hr : { r with op := 2 } = r := by cases r; cases hop; rfl
  rw [exec_dictWrite, hr]
  simp [rowDeliver, writeRow, chanIsDtp, chanValid, hb, hi]

theorem exec_groupOpen {s : State} {ch : Chan} {tag : Nat} : exec (.groupOpen ch tag) s = .next (rowDeliver s ch (bareReq 4 tag 0) (.num 0)) := rfl

theorem exec_groupCommit {s : State} {ch : Chan} {tag g : Nat} :
    exec (.groupCommit ch tag g) s = .next (rowDeliver s ch (bareReq 5 tag g) (.num 0)) := rfl

theorem exec_groupDiscard {s : State} {ch : Chan} {tag g : Nat} :
    exec (.groupDiscard ch tag g) s = .next (rowDeliver s ch (bareReq 6 tag g) (.num 0)) := rfl

end Sys2Proof.Machine

open Sys2Proof Sys2Proof.Machine

/-- Settles O37: each message is answered at once with what carrying it out gives. -/
theorem generalRequests : Obligations.general_requests := by
  unfold Obligations.general_requests
  intro s b hrun hb hrole hreq hbeh
  have answered : ∀ {r d x}, messageAbort (.mbx b) r = 0 → r.indirect = false → s.season ≠ .spring ∨ immediate r = true →
      carryOut s (.mbx b) (s.principal (.mbx b)) r d 0 s.tod (inlineRoom (.mbx b) r.words) = x →
      Host.Outcome.next (rowDeliver s (.mbx b) r d) = (.next (reply x.st (.mbx b) 0 x.resp) : Host.Outcome State Fault Refusal) :=
    fun hm hi hs hx => congrArg _ (rowDeliver_answered hrun hb hrole hreq hbeh hm hi hs hx)
  refine ⟨fun r a hm he ha hr => ?_, fun r x v n t hm hi ha hd hn => ?_, fun tag ix sub el len table d a t u hi h ha hix ho hr => ?_,
    fun r d g hm hi hg0 hg hx ht hl hw ho => ?_, fun tag n r hf => ?_, fun tag g x n t i h64 hs hg ha => ?_,
    fun tag g x a n t i h64 hs hg ha0 ha => ?_, fun tag g x h64 hg => ?_, fun g x hx hd => ?_⟩
  · refine (answered hm (messageAbort_inline hm (Nat.lt_succ_self 2)) (.inr (immediate_of_op 3 rfl (by decide))) (carryOut_describe rfl)).trans ?_
    rw [describeServe_field (r := { r with op := 3 }) he ha hr]
  · refine (answered hm hi (.inr (immediate_of_op 1 rfl (by decide))) (carryOut_read rfl)).trans ?_
    rw [readServe_value ha hd hn]
  · obtain ⟨v, n, e⟩ := writeRow_answer h ha hix ho hr
    exact ⟨v, n, (exec_dictWrite_row hb rfl hi).trans (congrArg _ e)⟩
  · refine (answered hm hi (.inr (immediate_of_group rfl hg0)) (carryOut_stage rfl hg0)).trans ?_
    rw [stage_ok (r := { r with op := 2 }) hg hx ht hl hw ho]
  · exact answered (bareReq_message (.inl ⟨rfl, rfl⟩)) (bareReq_indirect ..) (.inr (immediate_of_op 4 rfl (by decide))) (carryOut_open rfl hf)
  · exact answered (bareReq_message (.inr ⟨.inl rfl, h64⟩)) (bareReq_indirect ..) (.inl hs) ((carryOut_commit rfl hg ha).trans (if_pos rfl))
  · exact answered (bareReq_message (.inr ⟨.inl rfl, h64⟩)) (bareReq_indirect ..) (.inl hs) ((carryOut_commit rfl hg ha).trans (if_neg ha0))
  · exact answered (bareReq_message (.inr ⟨.inr rfl, h64⟩)) (bareReq_indirect ..) (.inr (immediate_of_op 6 rfl (by decide)))
      (carryOut_discard rfl hg)
  · obtain ⟨hgone, hfree⟩ := groupClose_facts hx
    exact ⟨_, exec_groupTimeoutExpiry hx hd, hgone, hfree, rfl, rfl⟩
end

section
/-! PROOFS. INDIRECT transfers, failed host reads, fabric requests, challenge and report reads, ring fetches (R43, R47, R70, R90, R407, R416). -/

namespace Sys2Proof.Machine

/-! ### INDIRECT transfers (R43, R70) -/

theorem exec_indirectTransferDone {s : State} {n : Nat} {d : Payload} (hrun : s.running = true) :
    exec (.indirectTransferDone n d) s = .next (transferDone s n d) := next_if hrun

theorem transferDone_read {s : State} {n : Nat} {d : Payload} {x : Xfer} (hx : s.hif.xfers[n]? = some x) (hr : x.isRead = true) :
    transferDone s n d = reply
      (({ s with hif := { s.hif with xfers := s.hif.xfers.eraseIdx n } }.moved 3 x.octets).emit (.hostWrite x.addr x.data)) x.chan 0
      { respond x.req 0 0 0 with element := x.octets } := by
  unfold transferDone
  rw [hx]
  exact if_pos hr

theorem transferDone_write {s : State} {n : Nat} {d : Payload} {x : Xfer} (hx : s.hif.xfers[n]? = some x) (hr : x.isRead = false) :
    transferDone s n d = enter
      ({ s with hif := { s.hif with xfers := s.hif.xfers.eraseIdx n } }.moved 3 x.octets) x.chan x.principal x.req d 0 := by
  unfold transferDone
  rw [hx]
  exact if_neg (by simp [hr])

theorem transferFails_write {s : State} {n addr c : Nat} {x : Xfer} (hx : s.hif.xfers[n]? = some x) (hr : x.isRead = false) :
    transferFails s n addr c = reply
      ({ s with hif := { s.hif with xfers := s.hif.xfers.eraseIdx n } }.dmaFault addr c) x.chan 0 (respond x.req 0x02040013 0 0) := by
  unfold transferFails
  rw [hx]
  exact if_neg (by simp [hr])

theorem ringReadFails_stops {s : State} {n addr c : Nat} (hn : n < 2048) (he : (s.ring n).enable = true) (hd : (s.ring n).dirD2h = false)
    (hr : (s.ring n).error = false) :
    ringReadFails s n addr c = (withIrq (.ring n) (fun t => t.setRing n { t.ring n with error := true }) s).dmaFault addr c :=
  if_pos ⟨hn, he, by simp [hd], by simp [hr]⟩

theorem exec_hostReadErrorCompletion {s : State} {isRing : Bool} {n addr : Nat} (hrun : s.running = true) :
    exec (.hostReadErrorCompletion isRing n addr) s = .next (hostReadFails s isRing n addr 1) := next_if hrun

theorem exec_hostReadCompletionTimeout {s : State} {isRing : Bool} {n addr : Nat} (hrun : s.running = true)
    (ho : hostReadOverdue s isRing n = true) :
    exec (.hostReadCompletionTimeout isRing n addr) s = .next (hostReadFails s isRing n addr 0) := next_if (by rw [hrun, ho]; rfl)

theorem hostReadOverdue_ring {s : State} {n : Nat} (hq : (s.q (ringQ n)).depth ≠ 0) (ht : (s.ring n).readAt + 50 * ms ≤ s.mono) :
    hostReadOverdue s true n = true := by
  simp only [hostReadOverdue, if_true, Bool.and_eq_true, decide_eq_true_eq]
  exact ⟨hq, ht⟩

theorem hostReadOverdue_xfer {s : State} {n : Nat} {x : Xfer} (hx : s.hif.xfers[n]? = some x) (ht : x.since + 50 * ms ≤ s.mono) :
    hostReadOverdue s false n = true := by
  simp only [hostReadOverdue, Bool.false_eq_true, if_false, hx, decide_eq_true_eq]
  exact ht

/-! ### Requests of the fabric (R47) -/

theorem exec_peerDictMessage {s t : State} {p q : Nat} {f : FabFrame} {r : Req} {d : Payload} (hrun : s.running = true)
    (hf : s.takeFrame dictFrame = (some (p, q, f), t)) (hm : f.msg = .dict r d) :
    exec .peerDictMessage s = .next (dictDeliver t (.peer f.src) r d 0) := by
  refine (next_if hrun).trans ?_
  unfold peerDict
  rw [hf]
  dsimp only
  rw [hm]

/-! ### Challenge and report (R407, R416) -/

theorem principal_mbx (s : State) (b : Nat) : s.principal (.mbx b) ≠ .peer := by
  unfold State.principal
  dsimp only
  split <;> decide

theorem attr_8400 : (attrOf 0x8400 0).map (fun a => (a.access.readable, a.len)) = some (true, 32) := by decide +kernel

theorem attr_8361 : (attrOf 0x8361 0).map (fun a => (a.access.readable, a.len)) = some (true, 2860) := by decide +kernel

/-- Challenge and AttestReport exist and are no tables, so a READ names no element of them (R33). -/
theorem scalar_8400 : existsAbort 0x8400 0 = 0 ∧ tableCount 0x8400 = 0 := by decide +kernel

theorem scalar_8361 : existsAbort 0x8361 0 = 0 ∧ tableCount 0x8361 = 0 := by decide +kernel

theorem attr_readable {ix sub n : Nat} (h : (attrOf ix sub).map (fun a => (a.access.readable, a.len)) = some (true, n)) :
    ∃ a, attrOf ix sub = some a ∧ a.access.readable = true ∧ a.len = n := by
  obtain ⟨a, ha, he⟩ := Option.map_eq_some_iff.1 h
  exact ⟨a, ha, congrArg Prod.fst he, congrArg Prod.snd he⟩

theorem Req.flags_none {r : Req} (h : r.flags = 0) : r.shadow = false ∧ r.view = false ∧ r.whole = false ∧ r.indirect = false := by
  simp [Req.shadow, Req.view, Req.whole, Req.indirect, h, bit]

theorem Req.flags_indirect {r : Req} (h : r.flags = 8) : r.shadow = false ∧ r.view = false ∧ r.whole = false ∧ r.indirect = true := by
  simp [Req.shadow, Req.view, Req.whole, Req.indirect, h, bit]

/-- The READ a row makes of a scalar at sub-index 0. -/
def scalarRead (flags tag ix : Nat) : Req := ⟨1, 0, flags, tag, ix, 0, 0, 0, 0, 0⟩

/-- A READ of a Challenge hands out a fresh nonce. -/
theorem readServe_challenge (s : State) (b tag : Nat) :
    readServe s (.mbx b) (s.principal (.mbx b)) (scalarRead 0 tag 0x8400) =
      (respond (scalarRead 0 tag 0x8400) 0 (Config.trng s.draws % 2 ^ 256) 32, (newNonce s).2) := by
  obtain ⟨a, ha, hr, hl⟩ := attr_readable attr_8400
  obtain ⟨he, ht⟩ := scalar_8400
  obtain ⟨hs, hv, hw, -⟩ := Req.flags_none (r := scalarRead 0 tag 0x8400) rfl
  have ho : readOne s (.mbx b) 0x8400 0 0 = (Config.trng s.draws % 2 ^ 256, (newNonce s).2) := rfl
  have hroom : a.len ≤ inlineRoom (.mbx b) 8 := by simp [hl, inlineRoom, chanMailbox]
  rw [readServe_scalar (principal_mbx s b) (Nat.ne_of_beq_eq_false rfl) (Nat.ne_of_beq_eq_false rfl) hs hv hw rfl rfl ht ha hr he ho (.inr hroom),
    hl, show (256 : Nat) ^ 32 = 2 ^ 256 by norm_num, Nat.mod_mod]

theorem readServe_report {s t : State} {b tag v : Nat} (h : attestReport s (.mbx b) = (v, t)) :
    readServe s (.mbx b) (s.principal (.mbx b)) (scalarRead 8 tag 0x8361) =
      (respond (scalarRead 8 tag 0x8361) 0 (v % 2 ^ (8 * 2860)) 2860, t) := by
  obtain ⟨a, ha, hr, hl⟩ := attr_readable attr_8361
  obtain ⟨he, ht⟩ := scalar_8361
  obtain ⟨hs, hv, hw, hi⟩ := Req.flags_indirect (r := scalarRead 8 tag 0x8361) rfl
  rw [readServe_scalar (principal_mbx s b) (Nat.ne_of_beq_eq_false rfl) (Nat.ne_of_beq_eq_false rfl) hs hv hw rfl rfl ht ha hr he h (.inl hi),
    hl, Nat.pow_mul]

theorem scalarRead_message {b flags tag ix : Nat} (h : flags = 0 ∨ flags = 8) : messageAbort (.mbx b) (scalarRead flags tag ix) = 0 := by
  rcases h with rfl | rfl <;> simp [messageAbort, scalarRead, Req.shadow, Req.view, Req.whole, Req.indirect, bit, chanMailbox]

theorem exec_challengeRead {s : State} {b tag : Nat} (hrun : s.running = true) (hb : b < 64) (hrole : s.role = 0)
    (hreq : s.tw.requests = []) (hbeh : heldBehind s (.mbx b) = false) : exec (.challengeRead (.mbx b) tag) s =
      .next (reply (newNonce s).2 (.mbx b) 0 (respond (scalarRead 0 tag 0x8400) 0 (Config.trng s.draws % 2 ^ 256) 32)) := by
  obtain ⟨-, -, -, hi⟩ := Req.flags_none (r := scalarRead 0 tag 0x8400) rfl
  refine (congrArg Host.Outcome.next (rowDeliver_answered hrun hb hrole hreq hbeh (scalarRead_message (.inl rfl)) hi
    (.inr (immediate_of_op 1 rfl (by decide))) (carryOut_read rfl))).trans ?_
  rw [readServe_challenge]

/-- An INDIRECT READ that may be served joins the transfers with its value as of now (R43, R48). -/
theorem startTransfer_read {s t : State} {ch : Chan} {p : Principal} {r : Req} {addr : Nat} {x : Resp} (hop : r.op = 1)
    (hbeh : heldBehind s ch = false) (hr : readServe s ch p r = (x, t)) (hx : x.abort = 0) :
    startTransfer s ch p r addr =
      { t with hif := { t.hif with xfers := t.hif.xfers ++ [⟨ch, r, p, true, addr, .num x.data, x.element, t.mono⟩] } } := by
  unfold startTransfer
  rw [if_neg (by simp [hbeh]), if_pos hop, hr]
  exact if_neg (by simp [hx])

theorem exec_attestReportRead {s : State} {b tag addr : Nat} (hrun : s.running = true) (hb : b < 64) :
    exec (.attestReportRead (.mbx b) tag addr) s =
      .next (startTransfer s (.mbx b) (s.principal (.mbx b)) (scalarRead 8 tag 0x8361) (addr % 2 ^ 64)) := by
  obtain ⟨-, -, -, hi⟩ := Req.flags_indirect (r := scalarRead 8 tag 0x8361) rfl
  show Host.Outcome.next (rowDeliver s (.mbx b) (scalarRead 8 tag 0x8361) (.num addr)) = _
  simp [rowDeliver, dictDeliver, takeRequest, chanIsDtp, chanValid, hb, hrun, scalarRead_message, dtpClosed, hi, Payload.value]

/-! ### The fetch of a ring's items (R90) -/

theorem exec_ringItemFetch {s : State} {r : Nat} {w : Word} (hrun : s.running = true) (hr : r < 2048) :
    exec (.ringItemFetch r w) s = .next (ringFetch s r w.toNat).2 := next_if (by rw [hrun, decide_eq_true hr]; rfl)

section
variable {s : State} {r w : Nat} (he : (s.ring r).enable = true) (hd : (s.ring r).dirD2h = false) (hx : (s.ring r).error = false)
include he hd hx

/-- An enabled host-to-device ring that has not stopped does with its next item what `ringJudge` finds it to be. -/
theorem ringFetch_malformed (h : ringJudge (s.q (ringQ r)) w = .malformed) : ringFetch s r w = (none, ringMalformed s r) := by
  unfold ringFetch
  exact (if_neg (by simp [he, hd, hx])).trans (by rw [h])

theorem ringFetch_pad {g : Nat} (h : ringJudge (s.q (ringQ r)) w = .pad g) : ringFetch s r w = (none, ringPast s r
    { s.q (ringQ r) with rptr := ((s.q (ringQ r)).rptr + g) % (2 * (s.q (ringQ r)).cap) }) := by
  unfold ringFetch
  exact (if_neg (by simp [he, hd, hx])).trans (by rw [h])

theorem ringFetch_item {n g : Nat} (h : ringJudge (s.q (ringQ r)) w = .item n g) : ringFetch s r w = (some n, ringPast s r { s.q (ringQ r) with
    rptr := ((s.q (ringQ r)).rptr + g) % (2 * (s.q (ringQ r)).cap)
    gen := ((s.q (ringQ r)).gen + 1) % 4096 }) := by
  unfold ringFetch
  exact (if_neg (by simp [he, hd, hx])).trans (by rw [h])

end

end Sys2Proof.Machine

open Sys2Proof Sys2Proof.Machine

/-- Settles O38: one lemma per row, by what it finds: the transfer, the ring, the frame, the object read or the head item. -/
theorem transfersAndReads : Obligations.transfers_and_reads := by
  unfold Obligations.transfers_and_reads
  intro s hrun
  refine ⟨fun n d x hx hr => ?_, fun n d x hx hr => ?_, fun n addr hn he hd hr => ⟨fun hq ht => ?_, ?_⟩,
    fun n addr x hx hr => ⟨fun ht => ?_, ?_⟩, fun p q f t r d hf hm => exec_peerDictMessage hrun hf hm,
    fun b tag hb hrole hreq hbeh => exec_challengeRead hrun hb hrole hreq hbeh,
    fun b tag addr v t hb hbeh hv => ?_, fun r w q hr he hd hx hq => ?_, fun b tag i img a t u len hi hl h ha ho hr => ?_,
    fun b tag port k ix sub v a t u hp len hl h ha ho hr => ?_⟩
  · rw [exec_indirectTransferDone hrun, transferDone_read hx hr]
  · rw [exec_indirectTransferDone hrun, transferDone_write hx hr]
  · exact (exec_hostReadCompletionTimeout hrun (hostReadOverdue_ring hq ht)).trans (congrArg _ (ringReadFails_stops hn he hd hr))
  · exact (exec_hostReadErrorCompletion hrun).trans (congrArg _ (ringReadFails_stops hn he hd hr))
  · exact (exec_hostReadCompletionTimeout hrun (hostReadOverdue_xfer hx ht)).trans (congrArg _ (transferFails_write hx hr))
  · exact (exec_hostReadErrorCompletion hrun).trans (congrArg _ (transferFails_write hx hr))
  · refine ⟨_, (exec_attestReportRead hrun hb).trans (congrArg _ (startTransfer_read rfl hbeh (readServe_report hv) rfl)), rfl, rfl, rfl, rfl, rfl⟩
  · subst hq
    rw [exec_ringItemFetch hrun hr]
    exact ⟨fun h => by rw [ringFetch_malformed he hd hx h], fun g h => by rw [ringFetch_pad he hd hx h],
      fun n g h => by rw [ringFetch_item he hd hx h]⟩
  · subst hl
    obtain ⟨v, n, e⟩ := writeRow_answer h ha (by decide) ho hr
    exact ⟨v, n, (next_if hi).trans (congrArg _ e)⟩
  · obtain ⟨x, n, e⟩ := writeRow_answer h ha (by omega) ho hr
    subst hl
    rcases hp with ⟨rfl, hk, rfl⟩ | ⟨rfl, hk, rfl⟩
    · exact ⟨x, n, (next_if hk).trans (congrArg _ e)⟩
    · exact ⟨x, n, (next_if hk).trans (congrArg _ e)⟩
end

section
/-! PROOFS. Nonces, JTAG DEBUG tokens and DTP sessions (R45, R46, R407 to R410). -/

namespace Sys2Proof.Machine

/-! ### Nonces and the JTAG port (R407, R410) -/

theorem exec_nonceExpiry {s : State} (hrun : s.running = true) : exec .nonceExpiry s = .next (nonceExpiry s) := next_if hrun

theorem exec_jtagDbgchal {s : State} (hrun : s.running = true) :
    exec .jtagDbgchal s = .next ((newNonce s).2.emit (.jtagNonce (newNonce s).1)) := next_if hrun

/-- With DebugUnlock not frosted and 128 octets shifted in, the JTAG port presents the token and tells what became of it. -/
theorem exec_jtagDbgauth {s : State} {g : TokenSig} {t : Token} (hrun : s.running = true) (hf : bit (s.rd Obj.frost) 2 = false)
    (hl : t.octs.length = 128) :
    exec (.jtagDbgauth g t) s = .next ((debugToken s none (some g) t).2.emit (.jtagResult (debugToken s none (some g) t).1)) := by
  refine (next_if hrun).trans (congrArg _ ?_)
  rw [if_neg (by simp [hf]), if_neg (by simp [hl])]

theorem debugToken_ok {s : State} {dtp : Option Nat} {sig : Option TokenSig} {t : Token} (ha : tokenAbort s 2 dtp sig t = 0)
    (hl : debugLimits s t = 0) : debugToken s dtp sig t = (0, openDebug (consumeNonce s (tokenNonce t)) (tokenGrant t)) := by
  unfold debugToken
  simp [ha, hl]

theorem debugToken_refused {s : State} {dtp : Option Nat} {sig : Option TokenSig} {t : Token} {a : Nat} (ha : tokenAbort s 2 dtp sig t = a)
    (h0 : a ≠ 0) : debugToken s dtp sig t = (a, (consumeNonce s (tokenNonce t)).event Ev.tokenRejected 0 0) := by
  unfold debugToken tokenAnswer
  simp [ha, h0]

/-! ### DTP sessions (R45, R46, R409) -/

/-- The running control cluster takes a datagram at once while no entry of WINTER is under way. -/
theorem dtpArrive_taken {s : State} {i : DtpIn} (hrun : s.running = true) (hw : s.pw.winterEntry = false) :
    dtpArrive s i = dtpTake s i := by
  unfold dtpArrive
  rw [if_pos hrun, if_neg (by simp [hw])]

/-- The state after a CHALLENGE: a session more, not opened, under the nonce handed out. -/
theorem dtpOpen_challenge {s : State} (hb : s.bootPolicy 8 = false) (he : s.rd Obj.dtpEnable ≠ 0)
    (hm : s.ctl.dtp.length < s.rd Obj.dtpSessionsMax) :
    dtpOpen s true = ({ s with
        draws := s.draws + 1
        ctl := { s.ctl with
          nonces := ((Config.trng s.draws % 2 ^ 256, s.mono) :: s.ctl.nonces).take 8
          dtp := s.ctl.dtp ++ [DtpSession.mk s.ctl.nextDtp (Config.trng s.draws % 2 ^ 256) 0 false s.mono [] [] 0]
          nextDtp := s.ctl.nextDtp + 1 } }.emit (.dtpChallenge s.ctl.nextDtp (Config.trng s.draws % 2 ^ 256))) := by
  have h : ¬ (s.bootPolicy 8 = true ∨ s.rd Obj.dtpEnable = 0 ∨ s.rd Obj.dtpSessionsMax ≤ s.ctl.dtp.length) := by
    rw [hb]
    simp [he, hm]
  exact if_neg h

theorem dtpOpen_refuse {s : State} (h : s.bootPolicy 8 = true ∨ s.rd Obj.dtpEnable = 0 ∨ s.rd Obj.dtpSessionsMax ≤ s.ctl.dtp.length) :
    dtpOpen s true = s.emit .dtpRefuse := if_pos h

/-- The fragments of the numbers below `k` are all held. -/
theorem allHeld_iff {k : Nat} {held : List (Nat × List Nat)} :
    (List.range k).all (fun i => held.any (fun e => decide (e.1 = i))) = true ↔ ∀ i < k, ∃ e ∈ held, e.1 = i := by
  simp only [List.all_eq_true, List.mem_range, List.any_eq_true, decide_eq_true_eq]

section
variable {s : State} {n f k : Nat} {octs : List Nat} {x : DtpSession} {held : List (Nat × List Nat)} (hx : dtpFind s n = some x) (hk : k ≤ 3)
  (hf : f < k) (hl : octs.length ≤ 1024) (hh : held = AMap.put [] f octs (x.frags.filter (fun e => decide (e.1 < k))))
include hx hk hf hl hh

/-- A fragment that leaves another missing is held. -/
theorem dtpFrag_held (hm : ∃ i < k, ∀ e ∈ held, e.1 ≠ i) :
    dtpFrag s true n f k octs = (dtpPut s { x with frags := held }).emit (.dtpSigAck n f) := by
  have hw : ¬ (List.range k).all (fun i => held.any (fun e => decide (e.1 = i))) = true := by
    rw [allHeld_iff]
    obtain ⟨i, hi, he⟩ := hm
    exact fun h => (h i hi).elim fun e h => he e h.1 h.2
  subst hh
  unfold dtpFrag
  rw [hx]
  refine (if_neg (by simp; omega)).trans ?_
  dsimp only
  rw [if_neg hw, if_neg (fun h => hw h.1)]

/-- With the last fragment the session holds the signature. -/
theorem dtpFrag_whole (hm : ∀ i < k, ∃ e ∈ held, e.1 = i) (h1 : 2564 ≤ (held.flatMap Prod.snd).length)
    (h2 : (held.flatMap Prod.snd).length ≤ 2884) : dtpFrag s true n f k octs =
      (setSig (dtpPut s { x with frags := [] }) (.dtp n) (some ⟨held.flatMap Prod.snd⟩)).emit (.dtpSigAck n f) := by
  have hw := allHeld_iff.2 hm
  subst hh
  unfold dtpFrag
  rw [hx]
  refine (if_neg (by simp; omega)).trans ?_
  dsimp only
  rw [if_pos hw, if_pos ⟨hw, h1, h2⟩]

end

section
variable {s : State} {d : Datagram} {x : DtpSession} (hx : dtpFind s d.session = some x) (hm : d.magic = 0x53445450) (hv : d.version = 1)
  (hi : d.intact = true) (ht : tokenKey s d = none) (ho : x.opened = true) (hk : d.key = x.key)
include hx hm hv hi ht ho hk

/-- A sound datagram of an open session whose response is kept brings that response again. -/
theorem dtpRequest_kept {r : Nat × Resp} (hr : x.kept.find? (fun e => decide (e.1 = d.seq)) = some r) :
    dtpRequest s d = (s.inc Obj.dtpResent).emit (.dtp x.id d.seq 3 r.2.element r.2 d.key) := by
  unfold dtpRequest
  rw [hx]
  dsimp only
  rw [ht]
  simp [hm, hv, hi, ho, hk, hr]

/-- One that is new, in a session with room, is taken as a request. -/
theorem dtpRequest_new (hr : x.kept.find? (fun e => decide (e.1 = d.seq)) = none) (hold : dtpOld x d.seq = false)
    (hex : dtpExecutes s x.id d.seq = false) (hn : x.executing < 32) :
    dtpRequest s d = takeRequest ((dtpPut s { x with executing := x.executing + 1 }).inc Obj.dtpRequests) (.dtp x.id)
      (s.principal (.dtp x.id)) d.req d.data d.seq := by
  unfold dtpRequest
  rw [hx]
  dsimp only
  rw [ht]
  simp [hm, hv, hi, ho, hk, hr, hold, hex, Nat.not_le.2 hn]

end

/-- A session that ends is gone. -/
theorem dtpEnd_gone (s : State) (n : Nat) : ∀ y ∈ (dtpEnd s n).ctl.dtp, y.id ≠ n := fun _ hy =>
  of_decide_eq_true (List.mem_filter.1 hy).2

theorem exec_dtpSessionOpenTimeout {s : State} {n : Nat} {x : DtpSession} (hx : dtpFind s n = some x) (ho : x.opened = false)
    (ht : x.since + 10000000000 ≤ s.mono) : exec (.dtpSessionOpenTimeout n) s = .next (dtpEnd s n) := by
  show Host.Outcome.next (dtpOpenTimeout s n) = _
  unfold dtpOpenTimeout
  rw [hx]
  simp [ho, ht]

end Sys2Proof.Machine

open Sys2Proof Sys2Proof.Machine

/-- Settles O39: the JTAG rows by what the token's checks say, the datagrams by what the running cluster makes of each kind. -/
theorem tokensAndDtp : Obligations.tokens_and_dtp := by
  unfold Obligations.tokens_and_dtp
  intro s hrun hw
  have arrives : ∀ {i t}, dtpTake s i = t → Host.Outcome.next (dtpArrive s i) = (.next t : Host.Outcome State Fault Refusal) :=
    fun h => congrArg _ ((dtpArrive_taken hrun hw).trans h)
  refine ⟨exec_nonceExpiry hrun, exec_jtagDbgchal hrun, fun g t hf hl ha hd => ?_, fun g t a hf hl ha h0 => ?_,
    fun hb he hm => arrives (dtpOpen_challenge hb he hm), fun h => arrives (dtpOpen_refuse h), fun n f k len g x held hx hk hf hl hh => ?_,
    fun d x hx hm hv hi ht ho hk => ?_, fun n x hx ho ht => ⟨_, exec_dtpSessionOpenTimeout hx ho ht, dtpEnd_gone s n⟩⟩
  · rw [exec_jtagDbgauth hrun hf hl, debugToken_ok ha hd]
  · rw [exec_jtagDbgauth hrun hf hl, debugToken_refused ha h0]
  · exact ⟨fun h => arrives (dtpFrag_held hx hk hf hl hh h), fun h h1 h2 => arrives (dtpFrag_whole hx hk hf hl hh h h1 h2)⟩
  · exact ⟨fun r hr => arrives (dtpRequest_kept hx hm hv hi ht ho hk hr),
      fun hr hold hex hn => arrives (dtpRequest_new hx hm hv hi ht ho hk hr hold hex hn)⟩
end

section
/-! PROOFS. Boundaries, ticks, Function Level Reset and the AUTUMN limit (R53 to R57, R69, R119, R255, R265, R382, R392). -/

namespace Sys2Proof.Machine

/-! ### Deferred effects (R53 to R57) -/

/-- With nothing deferred a boundary brings no effect. -/
theorem dueEffects_none {s : State} {tick : Bool} {k : Nat} (h : s.ctl.deferred = []) : dueEffects s tick k = s := by
  unfold dueEffects
  rw [h]
  show { s with ctl := { s.ctl with deferred := [] } } = s
  rw [← h]

/-- The one deferred effect, of this kind and due, takes effect and waits no more. -/
theorem dueEffects_one {s : State} {tick : Bool} {k : Nat} {d : Deferred} (h : s.ctl.deferred = [d]) (ht : d.isTick = tick) (hd : d.due ≤ s.tod) :
    dueEffects s tick k = dueEffect k { s with ctl := { s.ctl with deferred := [] } } d := by
  unfold dueEffects
  simp [h, ht, hd]

theorem dueEffect_mix {s : State} {k : Nat} {d : Deferred} (h : d.isTick = false) :
    dueEffect k s d = notifySend (applyOthers (withWrites s d.writes) d) d.notify 1 d.due := by
  unfold dueEffect
  rw [if_neg (by simp [h])]

theorem dueEffect_tick {s : State} {k : Nat} {d : Deferred} (h : d.isTick = true) :
    dueEffect k s d = notifySend (applyOthers (activateTick s k d) d) d.notify 1 d.due := by
  unfold dueEffect
  rw [if_pos h]

/-! ### Mix-frame boundaries (R53, R119) -/

theorem not_served {u : State} (h : u.engines = false ∨ u.serves = false) : ¬ (u.engines = true ∧ u.serves = true) := by
  rcases h with h | h <;> simp [h]

/-- A frame that has begun begins no more. -/
theorem mixFrame_over {s : State} (h : s.tod / mixNs < s.le.frame) : mixFrame s = s := if_pos h

/-- The state with the frame of TimeOfDay counted as begun. -/
def frameBegun (s : State) : State := { s with le := { s.le with frame := s.tod / mixNs + 1 } }

/-- The state at a boundary once the effects due at it have been carried out. -/
def mixDueState (s : State) : State := dueEffects (frameBegun s) false 0

/-- The decode items of a frame: each ACTIVE leg follows its route, then its item is posted. -/
def decodePosts (n : Nat) (u : State) : State :=
  (legsWhere u (fun x => decide (x.stage = .active))).foldl (postDecode n)
    ((legsWhere u (fun x => decide (x.stage = .active))).foldl followRoute u)

/-- The legs' turns that are due. -/
def legsTurned (u : State) : State := (legsWhere u (fun x => !x.turn.isEmpty)).foldl legTurns u

theorem legsTurned_nil {u : State} (h : legsWhere u (fun x => !x.turn.isEmpty) = []) : legsTurned u = u := by
  unfold legsTurned
  rw [h, List.foldl_nil]

theorem legsTurned_one {u : State} {l : Nat} (h : legsWhere u (fun x => !x.turn.isEmpty) = [l]) : legsTurned u = legTurns u l := by
  unfold legsTurned
  rw [h, List.foldl_cons, List.foldl_nil]

/-- A frame that begins: the effects, the legs' turns, and with the engines serving the decode items. -/
theorem mixFrame_serving {s : State} (h : s.le.frame ≤ s.tod / mixNs) (he : (legsTurned (mixDueState s)).engines = true)
    (hs : (legsTurned (mixDueState s)).serves = true) : mixFrame s = decodePosts (s.tod / mixNs) (legsTurned (mixDueState s)) :=
  (if_neg (Nat.not_lt.2 h)).trans (if_pos ⟨he, hs⟩)

theorem mixFrame_idle {s : State} (h : s.le.frame ≤ s.tod / mixNs)
    (hoff : (legsTurned (mixDueState s)).engines = false ∨ (legsTurned (mixDueState s)).serves = false) :
    mixFrame s = legsTurned (mixDueState s) :=
  (if_neg (Nat.not_lt.2 h)).trans (if_neg (not_served hoff))

/-! ### Solstice ticks (R54 to R57, R255, R265) -/

theorem solsticeTick_over {s : State} (h : nextTick (s.tod + 1) - 1 < s.cp.tick) : solsticeTick s = s := if_pos h

theorem solsticeTick_begins {s : State} {k : Nat} (hk : k = nextTick (s.tod + 1) - 1) (h : s.cp.tick ≤ k) :
    solsticeTick s = if (dueEffects s true k).engines ∧ (dueEffects s true k).serves then
        encodeTick (composeTick (dueEffects s true k) k (tickTime k)) k
      else { dueEffects s true k with cp := { (dueEffects s true k).cp with tick := k + 1 } } := by
  rw [hk] at h ⊢
  exact if_neg (Nat.not_lt.2 h)

/-! ### Function Level Reset (R69) -/

/-- Of the queues only those of the rings go. -/
theorem functionReset_queues {s : State} (h : s.ctl.sessions.filter (fun x => (chanMailbox x.chan).isSome) = []) {e : Nat × Queue}
    (he : e.1 < 44032 ∨ 46080 ≤ e.1) (hm : e ∈ s.queues) : e ∈ (functionReset s).queues := by
  unfold functionReset
  rw [h]
  exact List.mem_filter.2 ⟨hm, by simp; omega⟩

/-- With no OPERATOR session on a mailbox the reset is the PCI Express function's alone. -/
theorem functionReset_frame {s : State} (h : s.ctl.sessions.filter (fun x => (chanMailbox x.chan).isSome) = []) :
    { functionReset s with hif := s.hif, rings := s.rings, queues := s.queues } = s := by
  unfold functionReset
  rw [h]
  rfl

/-! ### The AUTUMN limit (R392) -/

theorem exec_autumnLimitExpiry {s : State} (hrun : s.running = true) (hs : s.season = .autumn) (hn : s.rd Obj.autumnLimit ≠ 0)
    (hf : s.pw.autumnForced = false) (ht : s.pw.autumnSince + s.rd Obj.autumnLimit * 1000000000 ≤ s.mono) {a b c d e : State}
    (ha : a = (legsWhere s (fun x => decide (x.stage = .active))).foldl (fwWrite 0x2101 0 1) { s with pw := { s.pw with autumnForced := true } })
    (hb : b = (onElements a 0x4200).foldl (fwWrite 0x4200 1 0) a) (hc : c = (onElements b 0x6300).foldl (fwWrite 0x6300 1 0) b)
    (hd : d = (onElements c 0x6200).foldl (fwWrite 0x6200 1 0) c) (he : e = (enabledSets d).foldl fwDisableSet d) :
    exec .autumnLimitExpiry s = .next (e.event Ev.seasonAutumnForced 0 0) := by
  rw [he, hd, hc, hb, ha]
  exact (next_if hrun).trans (next_if ⟨hs, hn, by simp [hf], ht⟩)

end Sys2Proof.Machine

open Sys2Proof Sys2Proof.Machine

/-- Settles O49: the effects due come first, alone or before what the frame or the tick does; the reset and the limit by their own equation. -/
theorem boundaries : Obligations.boundaries := by
  unfold Obligations.boundaries
  intro s
  have mix : ∀ {t}, s.running = true → mixFrame s = t → exec .mixFrameBoundary s = .next t := fun hrun h =>
    (next_if hrun).trans (congrArg _ h)
  have tick : ∀ {t}, s.running = true → solsticeTick s = t → exec .solsticeTick s = .next t := fun hrun h =>
    (next_if hrun).trans (congrArg _ h)
  refine ⟨fun hrun h => mix hrun (mixFrame_over h), fun n u hn hrun h hu => ?_, fun hrun h => tick hrun (solsticeTick_over h),
    fun k u hk hrun h hu => ?_, fun hup => ?_, fun hrun hs hn hf ht => ⟨fun a b c d e => exec_autumnLimitExpiry hrun hs hn hf ht,
      fun hl h1 h2 h3 h4 => ?_⟩⟩
  · rw [hn] at h hu ⊢
    obtain rfl : u = mixDueState s := hu
    refine ⟨fun h0 => dueEffects_none h0, fun d h1 ht hd => (dueEffects_one (s := frameBegun s) h1 ht hd).trans (dueEffect_mix ht),
      fun hl he hs => mix hrun ?_, fun hl hoff => mix hrun ?_, fun l hl hoff => mix hrun ?_⟩
    · rw [← legsTurned_nil hl] at he hs
      rw [mixFrame_serving h he hs, legsTurned_nil hl]
      rfl
    · rw [← legsTurned_nil hl] at hoff
      rw [mixFrame_idle h hoff, legsTurned_nil hl]
    · rw [← legsTurned_one hl] at hoff
      rw [mixFrame_idle h (.inl hoff), legsTurned_one hl]
  · rw [hu]
    exact ⟨fun h0 => dueEffects_none h0, fun d h1 ht hd => (dueEffects_one h1 ht hd).trans (dueEffect_tick ht),
      fun he hs => tick hrun ((solsticeTick_begins hk h).trans (if_pos ⟨he, hs⟩)),
      fun hoff => tick hrun ((solsticeTick_begins hk h).trans (if_neg (not_served hoff)))⟩
  · exact ⟨functionReset s, next_if hup, rfl, rfl, rfl, rfl, rfl, rfl, rfl, rfl, rfl, rfl, rfl, rfl, fun h =>
      ⟨functionReset_frame h, fun n hn hm => functionReset_queues h hn hm⟩⟩
  · exact exec_autumnLimitExpiry hrun hs hn hf ht (congrArg (List.foldl _ _) hl).symm (congrArg (List.foldl _ _) h1).symm
      (congrArg (List.foldl _ _) h2).symm (congrArg (List.foldl _ _) h3).symm (congrArg (List.foldl _ _) h4).symm
end

section
/-! PROOFS. The host's mailboxes (R78 to R82): message words, GO, drop counters, the responses and NOTIFYs taken, and the bridge's copy of
a posted message. -/

namespace Sys2Proof.Machine

/-! ### Messages to the device -/

/-- While GO is 0 a message word takes the host's write. -/
theorem mbxWriteWord_open {s : State} {n : Nat} (h : (s.h2d n).go = false) (j : Nat) (v : Word) :
    mbxWriteWord s n j v = s.setH2d n { s.h2d n with msg := (s.h2d n).msg.set j v } := if_neg (by simp [h])

/-- While GO is 1 a message word rejects it (R79). -/
theorem mbxWriteWord_full {s : State} {n : Nat} (h : (s.h2d n).go = true) (j : Nat) (v : Word) :
    mbxWriteWord s n j v = mbxReject s n (mbxOffset n (4 * j)) := if_pos h

/-- A rejected write counts in the mailbox's drop counter. -/
theorem mbxReject_h2d (s : State) (n off : Nat) :
    (mbxReject s n off).h2d n = { s.h2d n with drop := satAdd (s.h2d n).drop 1 0xFFFFFFFF } := by
  unfold mbxReject
  rw [aer_h2d, State.h2d_setH2d_same]

/-- A rejected write is recorded as a completer abort. -/
theorem mbxReject_aborts (s : State) (n off : Nat) :
    (mbxReject s n off).hif.aerCompleterAborts = s.hif.aerCompleterAborts + 1 := by
  unfold mbxReject
  rw [aer_count, State.setH2d_hif_aerCompleterAborts]

theorem mbxWriteGo_one {s : State} {n : Nat} {v : Word} (h : (s.h2d n).go = false) (hv : v.getLsbD 0 = true) :
    mbxWriteGo s n v = (s.setH2d n { s.h2d n with go := true }).wake .mailbox :=
  (if_neg (by simp [h])).trans (if_pos hv)

theorem mbxWriteGo_zero {s : State} {n : Nat} {v : Word} (h : (s.h2d n).go = false) (hv : v.getLsbD 0 = false) : mbxWriteGo s n v = s :=
  (if_neg (by simp [h])).trans (if_neg (ne_true_of_eq_false hv))

/-! ### Messages to the host -/

/-- A message written into a mailbox fills its words and sets GO. -/
theorem fillD2h_d2h (s : State) (n : Nat) (r : Resp) :
    (s.fillD2h n r).d2h n = { s.d2h n with msg := r.words16, go := true } := by
  unfold State.fillD2h
  rw [withIrq_d2h, State.d2h_setD2h_same]

/-- A device-to-host mailbox after the control cluster has posted what waits for it: the response, or else the oldest NOTIFY (R80). -/
def Mailbox.posted (m : Mailbox) : Mailbox :=
  match m.waiting, m.notify with
  | some r, _ => { m with msg := r.words16, go := true, waiting := none }
  | none, r :: rest => { m with msg := r.words16, go := true, notify := rest }
  | none, [] => m

theorem Mailbox.posted_response {m : Mailbox} {r : Resp} (h : m.waiting = some r) :
    m.posted = { m with msg := r.words16, go := true, waiting := none } := by
  unfold Mailbox.posted
  rw [h]

theorem Mailbox.posted_notify {m : Mailbox} {r : Resp} {rest : List Resp} (h : m.waiting = none) (hn : m.notify = r :: rest) :
    m.posted = { m with msg := r.words16, go := true, notify := rest } := by
  unfold Mailbox.posted
  rw [h, hn]

theorem Mailbox.posted_nothing {m : Mailbox} (h : m.waiting = none) (hn : m.notify = []) : m.posted = m := by
  unfold Mailbox.posted
  rw [h, hn]

theorem mailNext_d2h {s : State} {n : Nat} (h : (s.d2h n).go = false) : (mailNext s n).d2h n = (s.d2h n).posted := by
  unfold mailNext
  dsimp only
  rw [if_neg (by simp [h])]
  split
  · rename_i r hw
    rw [fillD2h_d2h, State.d2h_setD2h_same, Mailbox.posted_response hw]
  · rename_i hw
    split
    · rename_i r rest hn
      rw [fillD2h_d2h, State.d2h_setD2h_same, Mailbox.posted_notify hw hn]
    · rename_i hn
      rw [Mailbox.posted_nothing hw hn]

/-- Taking a response clears GO, and a running control cluster posts what waits (R80, R82). -/
theorem mbxResponseTaken_d2h {s : State} {n : Nat} (h : (s.d2h n).go = true) : (mbxResponseTaken s n).d2h n =
    if s.running then ({ s.d2h n with go := false } : Mailbox).posted else { s.d2h n with go := false } := by
  have hm : (withIrq (.mailbox n) (fun t => t.setD2h n { s.d2h n with go := false }) s).d2h n = { s.d2h n with go := false } := by
    rw [withIrq_d2h, State.d2h_setD2h_same]
  unfold mbxResponseTaken
  dsimp only
  rw [if_neg (by simp [h]), taken_running]
  split
  · rw [mailNext_d2h (by rw [hm]), hm]
  · exact hm

theorem mbxResponseTaken_nothing {s : State} {n : Nat} (h : (s.d2h n).go = false) : mbxResponseTaken s n = s := if_pos (by simp [h])

/-! ### The rows, where BAR0 is served -/

variable {s : State} {n : Nat}

theorem exec_mbxMsgWrite (hup : s.bar0Up = true) (hn : n < 64) {j : Nat} (hj : j < 16) (v : Word) :
    exec (.mbxMsgWrite n j v) s = .next (mbxWriteWord s n j v) := next_if (by simp [hup, hn, hj])

theorem exec_mbxGoSet (hup : s.bar0Up = true) (hn : n < 64) (v : Word) : exec (.mbxGoSet n v) s = .next (mbxWriteGo s n v) :=
  next_if (by simp [hup, hn])

theorem exec_mbxDropRead (hup : s.bar0Up = true) (hn : n < 64) (b : Bool) :
    exec (.mbxDropRead b n) s = .next ((mbxReadDrop s b n).2.emit (.hostRead (mbxReadDrop s b n).1)) := next_if (by simp [hup, hn])

theorem exec_mbxResponseTaken (hup : s.bar0Up = true) (hn : n < 64) : exec (.mbxResponseTaken n) s = .next (mbxResponseTaken s n) :=
  next_if (by simp [hup, hn])

/-- A posted message is taken with GO cleared (R78). -/
theorem exec_mbxTake_posted (hrun : s.running = true) (hn : n < 64) (hgo : (s.h2d n).go = true) :
    exec (.mbxTake n) s = .next (takeRequest (s.setH2d n { s.h2d n with go := false }) (.mbx n) (s.principal (.mbx n))
      (decodeReq (s.h2d n).msg) (.num (decodeData (s.h2d n).msg)) 0) := next_if ⟨hrun, hn, hgo⟩

theorem exec_mbxTake_empty (hgo : (s.h2d n).go = false) : exec (.mbxTake n) s = .next s :=
  congrArg Host.Outcome.next (if_neg (by simp [hgo]))

/-- A message of more than 8 further words is malformed, whatever its operation (R41). -/
theorem messageAbort_words {ch : Chan} {r : Req} (h1 : 1 ≤ r.op) (h6 : r.op ≤ 6) (hw : 8 < r.words) : messageAbort ch r = Abort.badMessage :=
  (if_neg (not_not.2 ⟨h1, h6⟩)).trans (if_pos (.inl hw))

/-- A request whose message is malformed is answered with its abort code (R37). -/
theorem takeRequest_malformed {ch : Chan} {r : Req} (h : messageAbort ch r ≠ 0) (p : Principal) (d : Payload) (seq : Nat) :
    takeRequest s ch p r d seq = reply s ch seq (respond r (messageAbort ch r) 0 0) := if_pos h

end Sys2Proof.Machine

open Sys2Proof Sys2Proof.Machine

/-- Settles O30: GO gates the copy, and WORDS is checked before anything the request names. -/
theorem postedMessageIsTaken : Obligations.posted_message_is_taken := by
  unfold Obligations.posted_message_is_taken
  intro s n
  refine ⟨exec_mbxTake_empty, fun hrun hn hgo => ⟨exec_mbxTake_posted hrun hn hgo, by rw [State.h2d_setH2d_same]⟩,
    fun hrun hn hgo h1 h6 hw => ?_, fun v hup hn hgo hv => ?_⟩
  · have hm := messageAbort_words (ch := .mbx n) h1 h6 hw
    rw [exec_mbxTake_posted hrun hn hgo, takeRequest_malformed (by rw [hm]; decide), hm]
    rfl
  · rw [exec_mbxGoSet hup hn, mbxWriteGo_zero hgo hv]

/-- Settles O8: a word's or GO's write goes by GO; the mailbox after a response is taken by what waits for it. -/
theorem mailboxRegisters : Obligations.mailbox_registers := by
  unfold Obligations.mailbox_registers
  intro s n hup hn
  have write := fun j v hj => exec_mbxMsgWrite hup hn (j := j) hj v
  have taken := exec_mbxResponseTaken hup hn
  refine ⟨fun j v hj hgo => ⟨_, write j v hj, ?_⟩, fun j v hj hgo => ⟨_, write j v hj, ?_⟩, fun v hgo hv => ⟨_, exec_mbxGoSet hup hn v, ?_⟩,
    fun v hgo hv => ?_, ⟨_, exec_mbxDropRead hup hn false, State.h2d_setH2d_same .., rfl⟩,
    ⟨_, exec_mbxDropRead hup hn true, State.d2h_setD2h_same .., rfl⟩, fun hgo hw => ⟨_, taken, ?_⟩, fun r hgo hrun hw => ⟨_, taken, ?_⟩,
    fun r rest hgo hrun hw hq => ⟨_, taken, ?_⟩, fun hgo => ?_⟩
  · rw [mbxWriteWord_open hgo, State.h2d_setH2d_same]
  · rw [mbxWriteWord_full hgo]
    exact ⟨mbxReject_h2d .., mbxReject_aborts ..⟩
  · rw [mbxWriteGo_one hgo hv, State.wake_h2d, State.h2d_setH2d_same]
  · rw [exec_mbxGoSet hup hn, mbxWriteGo_zero hgo hv]
  · rw [mbxResponseTaken_d2h hgo]
    obtain hrun | ⟨hw, hq⟩ := hw
    · exact if_neg (ne_true_of_eq_false hrun)
    · exact ite_eq_right_iff.2 fun _ => Mailbox.posted_nothing hw hq
  · rw [mbxResponseTaken_d2h hgo, if_pos hrun]
    exact Mailbox.posted_response hw
  · rw [mbxResponseTaken_d2h hgo, if_pos hrun]
    exact Mailbox.posted_notify hw hq
  · rw [taken, mbxResponseTaken_nothing hgo]
end

section
/-! PROOFS. The status registers of the host interface (R67, R68, R72, R84): causes, counters, SCRATCH, the configuration space, and the
unmasking of a vector. -/

namespace Sys2Proof.Machine

/-- The interrupts' edges send messages only: the host's registers stay as they are. -/
theorem irqEdges_causes (l : List Nat) (s t : State) :
    (l.foldl (fun u b => irqEdge (.cause b) s u) t).hif.irqCause = t.hif.irqCause ∧
    (l.foldl (fun u b => irqEdge (.cause b) s u) t).hif.irqEnable = t.hif.irqEnable := by
  induction l generalizing t with
  | nil => exact ⟨rfl, rfl⟩
  | cons b r ih =>
    obtain ⟨hc, he⟩ := ih (irqEdge (.cause b) s t)
    exact ⟨hc.trans (irqEdge_hif_irqCause ..), he.trans (irqEdge_hif_irqEnable ..)⟩

/-- A vector that is masked no more and owes a message sends it and owes nothing (R84). -/
theorem sendOwed_sends {s : State} {v : Nat} (hm : s.vecMasked v = false) (ho : (s.vec v).owed ≠ []) :
    sendOwed s v = (s.setVec v { s.vec v with owed := [] }).sendMsix v := if_neg (by simp [hm, ho])

/-- With MSI-X enabled a vector's message goes to its own address with its own data. -/
theorem sendMsix_enabled {s : State} (h : s.hif.msixEnable = true) (v : Nat) :
    s.sendMsix v = s.emit (.msix v ((s.vec v).addrHi.toNat * 0x100000000 + (s.vec v).addrLo.toNat) (s.vec v).data) := if_pos h

variable {s : State}

theorem exec_registerWrite_bar0 (hup : s.bar0Up = true) (off : Nat) (v : Word) :
    exec (.registerWrite (.bar0 off) false v) s = .next (bar0Write s (off / 4 * 4) v) := congrArg Host.Outcome.next (if_neg (by simp [hup]))

theorem bar0Write_scratch (hup : s.bar0Up = true) (v : Word) : bar0Write s 0x10 v = { s with hif := { s.hif with scratch := v } } :=
  if_neg (by simp [hup])

/-- A write past SCRATCH, where Table 3.3 names no register, counts (R68). -/
theorem bar0Write_unmapped (hup : s.bar0Up = true) (v : Word) : bar0Write s 0x14 v = s.unmappedWrite := if_neg (by simp [hup])

theorem exec_registerRead_bar0 (hup : s.bar0Up = true) (off : Nat) (v : Word) :
    exec (.registerWrite (.bar0 off) true v) s = .next (hostRead s (off / 4 * 4)) := congrArg Host.Outcome.next (if_neg (by simp [hup]))

theorem exec_registerWrite_cfg (hup : s.bar0Up = true) (r : CfgReg) (v : Word) :
    exec (.registerWrite (.cfg r) false v) s = .next (cfgWrite s r v) := congrArg Host.Outcome.next (if_neg (by simp [hup]))

theorem exec_registerRead_cfg (hup : s.bar0Up = true) (r : CfgReg) (v : Word) :
    exec (.registerWrite (.cfg r) true v) s = .next (s.emit (.hostRead (cfgRead s r))) := congrArg Host.Outcome.next (if_neg (by simp [hup]))

/-- The unmasking of a vector that owes a message sends it once. -/
theorem msixWrite_unmask_sends {v : Nat} (ho : (s.vec v).owed ≠ []) (he : s.hif.msixEnable = true) (hf : s.hif.cfg.functionMask = false) :
    msixWrite s v 3 0 = ((s.setVec v { s.vec v with masked := false }).setVec v { s.vec v with masked := false, owed := [] }).emit
      (.msix v ((s.vec v).addrHi.toNat * 0x100000000 + (s.vec v).addrLo.toNat) (s.vec v).data) := by
  have hv : (s.setVec v { s.vec v with masked := false }).vec v = { s.vec v with masked := false } := State.vec_setVec_same ..
  have hm : (s.setVec v { s.vec v with masked := false }).vecMasked v = false := by
    unfold State.vecMasked
    rw [hv, State.setVec_hif_cfg, hf]
    rfl
  refine (sendOwed_sends hm (by rw [hv]; exact ho)).trans ?_
  rw [hv, sendMsix_enabled (by rw [State.setVec_hif_msixEnable, State.setVec_hif_msixEnable]; exact he), State.vec_setVec_same]

end Sys2Proof.Machine

open Sys2Proof Sys2Proof.Machine

/-- Settles O9: each register by its own row; the edges of a cause's clearing leave the registers, and an unmasked vector sends what it
owes. -/
theorem hostStatusRegisters : Obligations.host_status_registers := by
  unfold Obligations.host_status_registers
  intro s hup
  refine ⟨fun v => ⟨_, next_if hup, irqEdges_causes [0, 1, 2, 3] s _⟩, fun v hs => ⟨_, next_if (by simp [hup, hs]), rfl, rfl⟩,
    ⟨_, next_if hup, rfl, rfl⟩, ⟨_, next_if hup, rfl, rfl⟩, fun v => (exec_registerWrite_bar0 hup 0x10 v).trans (congrArg _ (bar0Write_scratch hup v)),
    fun v => (exec_registerWrite_bar0 hup 0x14 v).trans (congrArg _ (bar0Write_unmapped hup v)),
    exec_registerRead_bar0 hup 0, exec_registerRead_bar0 hup 4, exec_registerRead_bar0 hup 0x10, exec_registerRead_bar0 hup 0x14,
    exec_registerRead_cfg hup .id, exec_registerWrite_cfg hup .aerMask, fun v hv _ ho he hf => ⟨_, next_if (by simp [hup, hv]), ?_⟩⟩
  rw [msixWrite_unmask_sends ho he hf, State.vec_emit, State.vec_setVec_same]
  exact ⟨rfl, rfl⟩
end

section
/-! PROOFS. The host rings' registers and doorbells (R88 to R90, R96, R97): enable, disable, flush, the watermark's count, and the pointers
the host moves. -/

namespace Sys2Proof.Machine

variable {s : State} {r : Nat}

/-! ### The rows outside WINTER, where BAR0 is served -/

theorem exec_ringEnable (hup : s.bar0Up = true) (hr : r < 2048) (hs : s.season ≠ .winter) (he : (s.ring r).enable = false) (ctrl : Word) :
    exec (.ringEnable r ctrl) s = .next (ringEnable s r ctrl.toNat) := next_if (by simp [hup, hr, hs, he])

theorem exec_ringDisable (hup : s.bar0Up = true) (hr : r < 2048) (hs : s.season ≠ .winter) (ctrl : Word) :
    exec (.ringDisable r ctrl) s = .next (ringDisable s r ctrl.toNat) := next_if (by simp [hup, hr, hs])

theorem exec_ringFlush (hup : s.bar0Up = true) (hr : r < 2048) (hs : s.season ≠ .winter) :
    exec (.ringFlush r) s = .next (ringFlush s r) := next_if (by simp [hup, hr, hs])

/-- The watermark's count is answered and cleared by its read (R97). -/
theorem exec_ringWmcntRead (hup : s.bar0Up = true) (hr : r < 2048) (hs : s.season ≠ .winter) : exec (.ringWmcntRead r) s =
    .next ((s.setQ (ringQ r) { s.q (ringQ r) with wmCount := 0 }).emit (.hostRead (BitVec.ofNat 32 (s.q (ringQ r)).wmCount))) := by
  have h : ringRead s r 0x14 = (BitVec.ofNat 32 (s.q (ringQ r)).wmCount, s.setQ (ringQ r) { s.q (ringQ r) with wmCount := 0 }) := if_neg hs
  refine (next_if (by simp [hup, hr])).trans ?_
  rw [h]

theorem exec_doorbellH2d (hup : s.bar0Up = true) (hr : r < 2048) (hs : s.season ≠ .winter) (he : (s.ring r).enable = true)
    (hd : (s.ring r).dirD2h = false) {v : Nat} (hv : v < 0x20000) : exec (.doorbellH2d r v) s = .next (doorbellH2d s r v) := by
  refine (next_if (by simp [hup, hr, hd])).trans (congrArg _ ?_)
  unfold doorbellWrite
  simp [hs, he, hd, Nat.mod_eq_of_lt hv]

theorem exec_doorbellD2h (hup : s.bar0Up = true) (hr : r < 2048) (hs : s.season ≠ .winter) (he : (s.ring r).enable = true)
    (hd : (s.ring r).dirD2h = true) {v : Nat} (hv : v < 0x20000) :
    exec (.doorbellD2h r v) s = .next ((doorbellD2h s r v).ringFreed r) := by
  refine (next_if (by simp [hup, hr, hd])).trans (congrArg _ ?_)
  unfold doorbellWrite
  simp [hs, he, hd, Nat.mod_eq_of_lt hv]

/-- A doorbell of a disabled ring is discarded (R89). -/
theorem doorbellWrite_disabled (hs : s.season ≠ .winter) (he : (s.ring r).enable = false) (v : Nat) : doorbellWrite s r v = s :=
  (if_neg hs).trans (if_pos (by simp [he]))

/-! ### RING_CTRL and RING_FLUSH -/

/-- The queue of a ring just enabled: empty, with its statistics kept (R89). -/
def Queue.restarted (q : Queue) (k : QKind) (cap : Nat) : Queue :=
  { Queue.fresh k cap with
    lost := q.lost, flushed := q.flushed, torn := q.torn, wmLevel := q.wmLevel, crossed := q.crossed, wmCount := q.wmCount }

theorem ringEnable_legal {v : Nat} (h : ringCtrlOk v = true) :
    (ringEnable s r v).ring r = { (s.ring r).take v with
      enable := true, error := false, doorbell := 0, latched := none, hostPtr := 0, unreported := 0, bad := false, readAt := s.mono } ∧
    (ringEnable s r v).q (ringQ r) =
      ((s.q (ringQ r)).restarted (if bit v 29 then .overwriteOldest else .backPressure) (ringSize (bits v 20 4))).rewm := by
  unfold ringEnable
  dsimp only
  rw [if_pos h, withIrq_ring, withIrq_q, State.ring_setRing_same, State.q_setRing, State.q_setQ_same]
  exact ⟨rfl, rfl⟩

theorem ringEnable_illegal {v : Nat} (h : ringCtrlOk v = false) :
    (ringEnable s r v).ring r = { (s.ring r).take v with enable := false, error := true } := by
  unfold ringEnable
  dsimp only
  rw [if_neg (ne_true_of_eq_false h), withIrq_ring, State.ring_setRing_same]

theorem ringDisable_ring (v : Nat) : (ringDisable s r v).ring r = { (s.ring r).take v with enable := false } := by
  unfold ringDisable
  rw [withIrq_ring, State.ring_setRing_same]

theorem ringDisable_q (v n : Nat) : (ringDisable s r v).q n = s.q n := by
  unfold ringDisable
  rw [withIrq_q, State.q_setRing]

theorem ringFlush_q : (ringFlush s r).q (ringQ r) = (s.q (ringQ r)).flush := by
  unfold ringFlush
  rw [withIrq_q, State.q_setRing, State.q_setQ_same]

theorem ringFlush_ring : (ringFlush s r).ring r = { s.ring r with unreported := 0, hostPtr := (s.q (ringQ r)).wptr } := by
  unfold ringFlush
  rw [withIrq_ring, State.ring_setRing_same]

/-! ### Doorbells (R90) -/

/-- A legal doorbell of a host-to-device ring: inside twice the size, no more than the size ahead of DEV_PTR, and not behind the last. -/
theorem doorbellH2d_legal {v : Nat} (herr : (s.ring r).error = false) (hbad : (s.ring r).bad = false) (hv : v < 2 * (s.q (ringQ r)).cap)
    (hcap : (v + 2 * (s.q (ringQ r)).cap - (s.q (ringQ r)).rptr) % (2 * (s.q (ringQ r)).cap) ≤ (s.q (ringQ r)).cap)
    (hfwd : (s.q (ringQ r)).depth ≤ (v + 2 * (s.q (ringQ r)).cap - (s.q (ringQ r)).rptr) % (2 * (s.q (ringQ r)).cap)) :
    ((doorbellH2d s r v).q (ringQ r)).wptr = v ∧ ((doorbellH2d s r v).ring r).doorbell = v ∧
    ((doorbellH2d s r v).ring r).error = false := by
  unfold doorbellH2d
  dsimp only
  rw [if_neg (by simp [herr, hbad]), if_neg (by omega), withIrq_q, withIrq_ring, State.q_setRing, State.q_setQ_same, State.ring_setRing_same]
  exact ⟨(rewm_same _).1, rfl, herr⟩

/-- A legal doorbell of a back-pressure ring to the host: the items up to the host's read pointer are consumed. -/
theorem doorbellD2h_legal {v : Nat} (herr : (s.ring r).error = false) (hk : (s.q (ringQ r)).kind = .backPressure)
    (hv : v < 2 * (s.q (ringQ r)).cap)
    (hheld : (v + 2 * (s.q (ringQ r)).cap - (s.ring r).hostPtr) % (2 * (s.q (ringQ r)).cap) ≤
      ((s.q (ringQ r)).wptr + 2 * (s.q (ringQ r)).cap - (s.ring r).hostPtr) % (2 * (s.q (ringQ r)).cap)) :
    doorbellD2h s r v = withIrq (.ring r) (fun t => (t.setQ (ringQ r) ((s.q (ringQ r)).consume
      ((v + 2 * (s.q (ringQ r)).cap - (s.ring r).hostPtr) % (2 * (s.q (ringQ r)).cap)))).setRing r
      { s.ring r with doorbell := v, hostPtr := v, unreported := 0 }) s := by
  unfold doorbellD2h
  dsimp only
  rw [if_neg (ne_true_of_eq_false herr), if_neg (Nat.not_le.2 hv), if_pos hk, if_neg (Nat.not_lt.2 hheld)]

/-- With nothing held for a ring, room freed in it releases nothing (R92, R368). -/
theorem ringFreed_nothing (h1 : s.tm.hold = []) (h2 : s.hif.held = []) (r : Nat) : s.ringFreed r = s := by
  unfold State.ringFreed
  simp [h1, h2, releaseHold, releaseRing]

end Sys2Proof.Machine

open Sys2Proof Sys2Proof.Machine

/-- Settles O10: RING_CTRL by its legality, a doorbell by its direction, and a disabled ring's before either. -/
theorem ringRegisters : Obligations.ring_registers := by
  unfold Obligations.ring_registers
  intro s r hup hr hs
  refine ⟨fun ctrl he hok => ⟨_, exec_ringEnable hup hr hs he ctrl, ?_⟩, fun ctrl he hok => ⟨_, exec_ringEnable hup hr hs he ctrl, ?_⟩,
    fun ctrl => ⟨_, exec_ringDisable hup hr hs ctrl, ?_, ringDisable_q ..⟩, ⟨_, exec_ringFlush hup hr hs, ringFlush_q, ?_⟩,
    ⟨_, exec_ringWmcntRead hup hr hs, State.q_setQ_same .., rfl⟩, fun v hv h17 hd he herr hbad hcap hfwd => ?_,
    fun v hv h17 hd he herr hk ht hh hheld => ?_, fun v he => ?_⟩
  · obtain ⟨hring, hq⟩ := ringEnable_legal (s := s) (r := r) hok
    obtain ⟨hw, hp, hg, hi, hc⟩ := rewm_same
      ((s.q (ringQ r)).restarted (if bit ctrl.toNat 29 then .overwriteOldest else .backPressure) (ringSize (bits ctrl.toNat 20 4)))
    rw [hring, hq]
    exact ⟨rfl, rfl, rfl, rfl, hp, hw, hg, hi, hc⟩
  · rw [ringEnable_illegal hok]
    exact ⟨rfl, rfl⟩
  · rw [ringDisable_ring]
  · rw [ringFlush_ring]
    exact ⟨rfl, rfl⟩
  · exact ⟨_, exec_doorbellH2d hup hr hs he hd (Nat.lt_of_lt_of_le hv h17), doorbellH2d_legal herr hbad hv hcap hfwd⟩
  · refine ⟨_, exec_doorbellD2h hup hr hs he hd (Nat.lt_of_lt_of_le hv h17), ?_⟩
    rw [doorbellD2h_legal herr hk hv hheld, ringFreed_nothing (by rw [withIrq_tm]; exact ht) (by rw [withIrq_hif_held]; exact hh),
      withIrq_ring, withIrq_q, State.ring_setRing_same, State.q_setRing, State.q_setQ_same]
    exact ⟨rfl, rfl, herr, rfl⟩
  · have h := doorbellWrite_disabled hs he (v % 0x20000)
    exact ⟨congrArg Host.Outcome.next (ite_eq_right_iff.2 fun _ => h), congrArg Host.Outcome.next (ite_eq_right_iff.2 fun _ => h)⟩
end

section
/-! PROOFS. BAR2 (R74, R75): the host's writes and reads of HBM through the gates of its pages. -/

namespace Sys2Proof.Machine

variable {s : State} {a : Nat}

theorem exec_bar2Write (hup : s.bar0Up = true) {octets : List Byte} (h : oneBlock a octets.length = true) :
    exec (.bar2Write a octets) s = .next (bar2Write s a octets) := next_if ⟨.inl hup, h⟩

theorem exec_bar2Read (hup : s.bar0Up = true) {n : Nat} (h : oneBlock a n = true) :
    exec (.bar2Read a n) s = .next (bar2Read s a n) := next_if ⟨.inl hup, h⟩

/-- A denied access counts, is recorded as a completer abort, and leaves memory alone (R75). -/
theorem bar2Denied_facts (s : State) (write : Bool) (a n : Nat) :
    (bar2Denied s write a n).hif.bar2Denied = satAdd s.hif.bar2Denied 1 0xFFFFFFFF ∧
    (bar2Denied s write a n).hif.aerCompleterAborts = s.hif.aerCompleterAborts + 1 ∧ (bar2Denied s write a n).mem = s.mem :=
  ⟨aer_denied .., aer_count .., aer_mem ..⟩

/-! ### Writes -/

/-- In a HOST_RW page a write stores its octets and no other (R74). -/
theorem rdByte_bar2Write_open (h : (bar2Gate s a).1 = 2) (octets : List Byte) (x : Nat) : (bar2Write s a octets).rdByte x =
    if a ≤ x ∧ x < a + octets.length then octets.getD (x - a) 0 else s.rdByte x := by
  obtain ⟨d, hd⟩ := bar2Gate_eq s a
  unfold bar2Write
  generalize bar2Gate s a = g at h hd
  obtain ⟨k, t⟩ := g
  obtain rfl : k = 2 := h
  obtain rfl : t = { s with draws := d } := hd
  exact writeOctets_rd octets { s with draws := d } a 0 x

theorem bar2Write_denied (h : (bar2Gate s a).1 ≠ 2) (octets : List Byte) :
    bar2Write s a octets = bar2Denied (bar2Gate s a).2 true a octets.length := by
  unfold bar2Write
  split
  · rename_i t ht
    exact absurd (congrArg Prod.fst ht) h
  · rename_i k t _ ht
    rw [ht]

/-! ### Reads -/

/-- A unit that is poisoned lies among the octets read. -/
def readsPoison (s : State) (a n : Nat) : Bool := s.mm.poison.any (fun u => decide (u < a + n) && decide (a < u + 32))

theorem readsPoison_iff (s : State) (a n : Nat) : readsPoison s a n = true ↔ ∃ u ∈ s.mm.poison, u < a + n ∧ a < u + 32 := by
  simp [readsPoison]

/-- In a page that is not CLOSED a read is answered with the octets of memory, or poisoned, and changes none (R74, Table 13.3). -/
theorem bar2Read_open (h : (bar2Gate s a).1 ≠ 0) (n : Nat) : (bar2Read s a n).mem = s.mem ∧
    (bar2Read s a n).out = (if readsPoison s a n then .hostPoisoned n
      else .hostReadOctets ((List.range n).map (fun i => s.rdByte (a + i)))) :: s.out := by
  obtain ⟨d, hd⟩ := bar2Gate_eq s a
  unfold bar2Read
  generalize bar2Gate s a = g at h hd
  obtain ⟨k, t⟩ := g
  obtain rfl : t = { s with draws := d } := hd
  cases k with
  | zero => exact absurd rfl h
  | succ k => exact ⟨rfl, rfl⟩

theorem bar2Read_denied (h : (bar2Gate s a).1 = 0) (n : Nat) :
    bar2Read s a n = (bar2Denied (bar2Gate s a).2 false a n).emit .completerAbort := by
  unfold bar2Read
  split
  · rename_i t ht
    rw [ht]
  · rename_i k t hk ht
    exact absurd ((congrArg Prod.fst ht).symm.trans h) hk

end Sys2Proof.Machine

open Sys2Proof Sys2Proof.Machine

/-- Settles O12: the gate decides between the octets and the denial; its own draw of a free value touches neither memory nor registers. -/
theorem bar2ReadsAndWritesHbm : Obligations.bar2_reads_and_writes_hbm := by
  unfold Obligations.bar2_reads_and_writes_hbm
  intro s a hup
  obtain ⟨d, hd⟩ := bar2Gate_eq s a
  refine ⟨fun octets hb hg => ⟨_, exec_bar2Write hup hb, rdByte_bar2Write_open hg octets⟩,
    fun octets hb hg => ⟨_, exec_bar2Write hup hb, ?_⟩, fun n hb hg hclean => ⟨_, exec_bar2Read hup hb, ?_⟩,
    fun n hb hg hbad => ⟨_, exec_bar2Read hup hb, ?_⟩, fun n hb hg => ⟨_, exec_bar2Read hup hb, ?_⟩⟩
  · rw [bar2Write_denied hg, hd]
    exact bar2Denied_facts ..
  · have hp : ¬ readsPoison s a n = true := fun hp => by
      obtain ⟨u, hu, hin⟩ := (readsPoison_iff s a n).1 hp
      exact hclean u hu hin
    have h := bar2Read_open hg n
    rwa [if_neg hp] at h
  · have h := bar2Read_open hg n
    rwa [if_pos ((readsPoison_iff s a n).2 hbad)] at h
  · rw [bar2Read_denied hg, hd]
    obtain ⟨hcount, -, hmem⟩ := bar2Denied_facts { s with draws := d } false a n
    exact ⟨hmem, rfl, hcount⟩
end

section
/-! PROOFS. The receive path (spec/04): frames, classification, the depth of the jitter buffer, the video ring, NACK requests; and the
sectors of a recording tap (spec/05). -/

namespace Sys2Proof.Machine

/-! ### Frames and their classification (R109, R110, R113) -/

theorem inOverflow_ne_inFrames (port : Nat) : Obj.inOverflow port ≠ Obj.inFrames port := by
  unfold Obj.inOverflow Obj.inFrames key
  omega

theorem rd_withLe (s : State) (x : LegEngine) (k : Nat) : ({ s with le := x } : State).rd k = s.rd k := rfl

theorem exec_ethFrameRx {s : State} {port : Nat} {f : Frame} (hp : port < 2) (he : s.engines = true) :
    exec (.ethFrameRx port f) s = .next (frameRx s port f) := next_if ⟨hp, .inl he⟩

/-- A frame that finds room in its port's FIFO waits there with its stamp, and counts. -/
theorem frameRx_waits {s : State} {port : Nat} {f : Frame} (ht : f.etherType ≠ 0x88F7) (h : fifoUsed s port + f.octets ≤ 0x200000) :
    (frameRx s port f).le.fifo =
      s.le.fifo ++ [⟨port, f, uns 32 ((s.tod : Int) + sgn 32 (s.rd (Obj.asymmetry port))), s.mono⟩] ∧
    (frameRx s port f).rd (Obj.inFrames port) = satAdd (s.rd (Obj.inFrames port)) 1 (maxOf (Obj.inFrames port)) := by
  unfold frameRx
  have hroom : ¬ fifoSize < fifoUsed s port + f.octets := by
    unfold fifoSize mib
    omega
  rw [if_neg ht, if_neg hroom]
  refine ⟨congrArg (fun e : LegEngine => e.fifo ++ _) (State.inc_le ..), ?_⟩
  exact (rd_withLe ..).trans (rd_inc_same ..)

/-- A frame that finds no room is dropped whole, and counts as an overflow. -/
theorem frameRx_overflows {s : State} {port : Nat} {f : Frame} (ht : f.etherType ≠ 0x88F7) (h : 0x200000 < fifoUsed s port + f.octets) :
    (frameRx s port f).le = s.le ∧
    (frameRx s port f).rd (Obj.inOverflow port) = satAdd (s.rd (Obj.inOverflow port)) 1 (maxOf (Obj.inOverflow port)) := by
  unfold frameRx
  rw [if_neg ht, if_pos (show fifoSize < _ from h), State.inc_le, State.inc_le, rd_inc_same, rd_inc_other _ (inOverflow_ne_inFrames port)]
  exact ⟨rfl, rfl⟩

section
variable {s : State} {w : Waiting} {rest : List Waiting}

/-- What a loaded classifier drops leaves the FIFO, and nothing else changes. -/
theorem classify_drop (hf : s.le.fifo = w :: rest) (ht : threadsHeld s = false) (hc : s.le.classifier.isSome = true) :
    classify s .drop false = { s with le := { s.le with fifo := rest } } := by
  unfold classify
  rw [hf, ht, Option.isNone_eq_false_iff.2 hc]
  rfl

/-- What a loaded classifier gives to an ACTIVE leg's entry goes on as that leg's frame. -/
theorem classify_leg {l e : Nat} (hf : s.le.fifo = w :: rest) (ht : threadsHeld s = false) (hc : s.le.classifier.isSome = true)
    (hl : s.legActive l = true) (hs : s.serves = true) (he : e < 8) :
    classify s (.leg l e) false = legFrame { s with le := { s.le with fifo := rest } } l e w := by
  have hserved : State.legActive { s with le := { s.le with fifo := rest } } l = true ∧
      State.serves { s with le := { s.le with fifo := rest } } = true ∧ e < 8 := ⟨hl, hs, he⟩
  unfold classify
  rw [hf, ht, Option.isNone_eq_false_iff.2 hc]
  dsimp only
  rw [if_neg Bool.false_ne_true, if_neg Bool.false_ne_true, if_neg Bool.false_ne_true, if_pos hserved]

/-- An RTP packet of a protected leg is counted, noted as the leg's last, and asked of the cipher complex (R113, R133). -/
theorem legFrame_protected {l e : Nat} {p : Rtp} (hk : s.rd (Obj.rxKslot l) ≠ 0xFFFFFFFF) (hd : w.frame.data = .rtp p) :
    legFrame s l e w = ((((s.inc (Obj.rxPackets l)).count (Obj.rxOctets l) w.frame.octets).setLeg l
      { s.leg l with lastRx := s.mono }).cipherAsk 0 (rxCtx l e) (.rxRtp l e p w.mono)) := by
  unfold legFrame
  dsimp only
  rw [hd]
  dsimp only
  rw [decide_eq_false hk, if_neg Bool.false_ne_true, State.leg_count, State.leg_inc]

theorem rxPackets_ne_rxOctets (l : Nat) : Obj.rxPackets l ≠ Obj.rxOctets l := by
  unfold Obj.rxPackets Obj.rxOctets key
  omega

theorem legFrame_protected_facts {l e : Nat} {p : Rtp} (hk : s.rd (Obj.rxKslot l) ≠ 0xFFFFFFFF) (hd : w.frame.data = .rtp p) :
    (legFrame s l e w).le.fifo = s.le.fifo ∧ ((legFrame s l e w).leg l).lastRx = s.mono ∧
    (legFrame s l e w).cip.waiting = s.cip.waiting ++ [⟨s.cip.nextId, 0, rxCtx l e, .rxRtp l e p w.mono, false, false⟩] ∧
    (legFrame s l e w).rd (Obj.rxPackets l) = satAdd (s.rd (Obj.rxPackets l)) 1 (maxOf (Obj.rxPackets l)) := by
  rw [legFrame_protected hk hd]
  refine ⟨rfl, congrArg LegRt.lastRx (State.setLeg_same ..), rfl, ?_⟩
  exact (State.rd_wr_other _ _ (rxPackets_ne_rxOctets l)).trans (rd_inc_same ..)

end

/-! ### The depth of the jitter buffer (R117, R119) -/

/-- The depth aimed at: MinDepth in the fixed mode, else what is wanted within MinDepth and MaxDepth. -/
def depthTarget (mode lo hi want : Nat) : Nat := if mode = 0 then lo else max lo (min hi want)

theorem depthTarget_bounds {mode : Nat} (h : mode ≠ 0) (lo hi want : Nat) :
    lo ≤ depthTarget mode lo hi want ∧ depthTarget mode lo hi want ≤ max lo hi := by
  unfold depthTarget
  rw [if_neg h]
  omega

/-- The depth after one adjustment towards a target: at most one frame of 10 ms nearer. -/
def depthTowards (depth target : Nat) : Nat :=
  if depth + 10 ≤ target then depth + 10 else if target + 10 ≤ depth then depth - 10 else target

theorem depthTowards_step (depth target : Nat) :
    depthTowards depth target ≤ depth + 10 ∧ depth ≤ depthTowards depth target + 10 := by
  unfold depthTowards
  split
  · omega
  · split <;> omega

theorem depthAdjust_due {s : State} {l : Nat} (hl : s.legActive l = true) (hd : (s.leg l).nextAdjust ≤ s.mono) : ∃ want,
    depthAdjust s l = (s.setLeg l { s.leg l with
        nextAdjust := (s.leg l).nextAdjust + 500 * ms
        nextDepth := if s.rd (Obj.jbMode l) = 0 then (s.leg l).depth else depthTowards (s.leg l).depth
          (depthTarget (s.rd (Obj.jbMode l)) (s.rd (Obj.jbMinDepth l)) (s.rd (Obj.jbMaxDepth l)) want)
        jbMode := s.rd (Obj.jbMode l) }).wr (Obj.jbDepth l)
      (depthTarget (s.rd (Obj.jbMode l)) (s.rd (Obj.jbMinDepth l)) (s.rd (Obj.jbMaxDepth l)) want) :=
  ⟨_, if_neg (not_or.2 ⟨not_not.2 hl, Nat.not_lt.2 hd⟩)⟩

theorem depthAdjust_facts {s : State} {l : Nat} (hl : s.legActive l = true) (hd : (s.leg l).nextAdjust ≤ s.mono) :
    ((depthAdjust s l).leg l).nextAdjust = (s.leg l).nextAdjust + 500000000 ∧
    (s.rd (Obj.jbMode l) = 0 →
      (depthAdjust s l).rd (Obj.jbDepth l) = s.rd (Obj.jbMinDepth l) ∧ ((depthAdjust s l).leg l).nextDepth = (s.leg l).depth) ∧
    (s.rd (Obj.jbMode l) ≠ 0 → s.rd (Obj.jbMinDepth l) ≤ (depthAdjust s l).rd (Obj.jbDepth l) ∧
      (depthAdjust s l).rd (Obj.jbDepth l) ≤ max (s.rd (Obj.jbMinDepth l)) (s.rd (Obj.jbMaxDepth l)) ∧
      ((depthAdjust s l).leg l).nextDepth ≤ (s.leg l).depth + 10 ∧ (s.leg l).depth ≤ ((depthAdjust s l).leg l).nextDepth + 10) := by
  obtain ⟨want, h⟩ := depthAdjust_due hl hd
  rw [h, State.rd_wr_same, State.leg_wr, State.setLeg_same]
  dsimp only
  refine ⟨rfl, fun hm => ⟨if_pos hm, if_pos hm⟩, fun hm => ?_⟩
  obtain ⟨hlo, hhi⟩ := depthTarget_bounds hm (s.rd (Obj.jbMinDepth l)) (s.rd (Obj.jbMaxDepth l)) want
  rw [if_neg hm]
  exact ⟨hlo, hhi, depthTowards_step ..⟩

/-! ### Access units (R120) -/

/-- An item pushed into a queue leaves the receive entries alone. -/
theorem push_rxE {s t : State} {n len : Nat} {body : Item} {r : Reserve} (h : s.push n len body = (r, t)) (l e : Nat) :
    t.rxE l e = s.rxE l e := by
  have htold := (Told.refl s).push n len body
  rw [h] at htold
  exact rxE_le htold.le l e

/-- A unit that is posted heads the list of the last 512. -/
theorem postUnit_posted {s t : State} {l e ts : Nat} {missing : Bool} (h : postUnit s l e ts missing = (true, t)) :
    (t.rxE l e).posted = (ts :: (s.rxE l e).posted).take 512 := by
  unfold postUnit at h
  dsimp only at h
  split at h
  · obtain ⟨-, rfl⟩ := Prod.mk.inj h
    rw [State.setRxE_same]
  · split at h
    next => exact absurd (Prod.mk.inj h).1 Bool.false_ne_true
    next hpush =>
      obtain ⟨-, rfl⟩ := Prod.mk.inj h
      rw [State.rxE_setQ, push_rxE hpush, State.setRxE_same]
    next hpush =>
      obtain ⟨-, rfl⟩ := Prod.mk.inj h
      rw [push_rxE hpush, State.setRxE_same]

/-- At most `n` further units are posted, so what is among the first 512 - n stays in the list. -/
theorem postComplete_keeps_posted (l e : Nat) {u : Nat} : ∀ (n k : Nat) (s : State), n + k = 512 → u ∈ (s.rxE l e).posted.take k →
    u ∈ ((postComplete l e n s).rxE l e).posted := by
  intro n
  induction n with
  | zero => exact fun k s _ h => List.mem_of_mem_take h
  | succ n ih =>
    intro k s hk h
    have hstay : u ∈ (s.rxE l e).posted := List.mem_of_mem_take h
    unfold postComplete
    dsimp only
    split
    next => exact hstay
    next ts _ =>
      split
      · split
        next t hpost =>
          refine ih (k + 1) t (by omega) ?_
          rw [postUnit_posted hpost, List.take_take, Nat.min_eq_left (by omega), List.take_succ_cons]
          exact List.mem_cons_of_mem _ h
        next => exact hstay
      · exact hstay

/-- Once VideoWait has passed since its last packet, the oldest unit, incomplete with a complete one after it, is posted. -/
theorem videoWait_posts {s : State} {l e u : Nat} {later : List Nat} (ho : openUnits (s.rxE l e) = u :: later) (hn : later.length < 512)
    (hu : unitComplete (s.rxE l e) u = false) (hv : ∃ v ∈ later, unitComplete (s.rxE l e) v = true)
    (ht : ((unitPkts (s.rxE l e) u).map (fun v => v.at_)).foldl max 0 + s.rd (Obj.videoWait l) * 1000000 ≤ s.mono)
    (hp : (postUnit s l e u true).1 = true) : u ∈ ((videoWait s l e).rxE l e).posted := by
  unfold videoWait
  dsimp only
  rw [ho]
  dsimp only
  rw [if_pos ⟨by rw [hu]; exact Bool.false_ne_true, List.any_eq_true.2 hv, ht⟩]
  split
  next t hpost =>
    refine postComplete_keeps_posted l e later.length (511 - later.length + 1) t (by omega) ?_
    rw [postUnit_posted hpost, List.take_take, Nat.min_eq_left (by omega), List.take_succ_cons]
    exact List.mem_cons_self
  next hpost => exact absurd ((congrArg Prod.fst hpost).symm.trans hp) Bool.false_ne_true

/-! ### NACK requests (R121) -/

theorem protect_le (s : State) (p : OutPkt) : (s.protect p).le = s.le := by
  unfold State.protect
  split
  · rfl
  · split
    · exact (enqueue_told s p).le
    · rfl

/-- A compound sent leaves the receive entries alone. -/
theorem sendRtcp_rxE (s : State) (l : Nat) (ps : List RtcpPart) (n i j : Nat) : (s.sendRtcp l ps n).rxE i j = s.rxE i j := by
  unfold State.sendRtcp
  dsimp only
  split
  · rfl
  · split
    · rfl
    · rw [rxE_le (protect_le ..), State.rxE_inc]
      split
      · rw [State.rxE_event, State.rxE_wr, State.rxE_setTxE]
      · rw [State.rxE_setTxE]

/-- A request for the gaps that are due, each asked for `k` times before, notes one time more. -/
theorem askGaps_gaps {s : State} {l e k : Nat} {due : Gap → Bool} {P : Gap → Prop} [DecidablePred P] (hdue : ∀ g, due g = true ↔ P g)
    (hk : ∀ g, P g → g.asked = k) (hl : s.legActive l = true) (hn : s.legFlag l 3 = true) (hf : s.fabricFed l = false)
    (hg : ∃ g ∈ (s.rxE l e).gaps, P g) : ((askGaps s l e due).rxE l e).gaps =
      (s.rxE l e).gaps.map (fun (g : Gap) => if P g then { g with asked := k + 1, last := s.mono } else g) := by
  obtain ⟨g, hmem, hP⟩ := hg
  have hasks : ¬ ((((s.rxE l e).gaps.filter due).map (fun g => g.seq % 65536)).isEmpty = true ∨ ¬ s.legActive l = true ∨
      ¬ s.legFlag l 3 = true ∨ s.fabricFed l = true) := by
    rw [hl, hn, hf, List.isEmpty_iff, List.map_eq_nil_iff, List.filter_eq_nil_iff]
    simpa using ⟨g, hmem, (hdue g).2 hP⟩
  unfold askGaps
  dsimp only
  rw [if_neg hasks]
  unfold State.sendFeedback
  rw [sendRtcp_rxE, State.setRxE_same]
  refine List.map_congr_left fun x _ => ?_
  by_cases hx : P x
  · rw [if_pos hx, if_pos ((hdue x).2 hx), hk x hx]
  · rw [if_neg hx, if_neg (fun h => hx ((hdue x).1 h))]

/-! ### Recording taps (R126, R150, R212) -/

/-- A tap whose frames are due writes its next sector, free in its epoch: the range grows and the cipher complex is asked. -/
theorem tapSector_writes {s : State} {b : Bool} {l : Nat} {x : Tap} (hx : s.cip.taps.find? (fun t => t.named b l) = some x)
    (ht : (x.startFrame + 2 * x.k + 3) * mixNs ≤ s.tod) (hn : x.base + x.k < 2 ^ 64)
    (hr : inRange s.cip.ranges x.slot (s.rd (Obj.kGen x.slot)) (x.base + x.k) = false) : ∃ r taps,
    tapSector s b l = State.cipherAsk { s with cip := { s.cip with
        ranges := extendRange s.cip.ranges x.slot (s.rd (Obj.kGen x.slot)) (tapName b l) (x.base + x.k)
        taps := taps } } 2 (bulkCtx (tapName b l)) (.sector x.ring r x.slot) ∧ r.isLeg = b ∧ r.id = l := by
  have hearlier : (x.startFrame + 2 * x.k + 2) * mixNs ≤ s.tod := Nat.le_trans (Nat.mul_le_mul_right _ (Nat.le_succ _)) ht
  unfold tapSector
  rw [hx]
  dsimp only
  rw [if_neg (not_not.2 ⟨hearlier, .inr ht⟩), hr, if_neg (by simpa using hn)]
  exact ⟨_, _, rfl, rfl, rfl⟩

end Sys2Proof.Machine

open Sys2Proof Sys2Proof.Machine

/-- Settles O36: each row's own equation, and what its operation leaves. A unit posted late stays in the list of 512, since fewer than
512 can follow it. -/
theorem receivePathAndTaps : Obligations.receive_path_and_taps := by
  unfold Obligations.receive_path_and_taps
  intro s l e
  refine ⟨fun port f hp he ht h => ?_,
    fun port f hp he ht h => ⟨_, exec_ethFrameRx hp he, frameRx_overflows ht h⟩,
    fun w rest he hf ht hc => ⟨_, (next_if he).trans (congrArg Host.Outcome.next (classify_drop hf ht hc)), rfl, rfl⟩,
    fun w rest p he hf ht hc hl hs h8 _ hk hd => ⟨_, (next_if he).trans (congrArg Host.Outcome.next (classify_leg hf ht hc hl hs h8)),
      legFrame_protected_facts (s := { s with le := { s.le with fifo := rest } }) hk hd⟩,
    fun hl hd => ⟨_, rfl, depthAdjust_facts hl hd⟩,
    fun u later h8 he ho hn hu hv ht hp => ⟨_, next_if ⟨h8, he⟩, videoWait_posts ho hn hu hv ht hp⟩,
    fun h8 he hl hn hf hg => ⟨_, next_if ⟨h8, he⟩, askGaps_gaps (fun g => ?_) (fun _ h => h.1) hl hn hf hg⟩,
    fun h8 he hl hn hf hg => ⟨_, next_if ⟨h8, he⟩, askGaps_gaps (fun g => ?_) (fun _ h => h.1) hl hn hf hg⟩,
    fun b x hx ht hn hr => ?_⟩
  · obtain ⟨hfifo, hcount⟩ := frameRx_waits ht h
    exact ⟨_, _, exec_ethFrameRx hp he, hfifo, rfl, rfl, rfl, hcount⟩
  · exact Bool.and_eq_true_iff.trans (and_congr decide_eq_true_iff decide_eq_true_iff)
  · exact Bool.and_eq_true_iff.trans (and_congr decide_eq_true_iff decide_eq_true_iff)
  · obtain ⟨r, taps, h, hleg, hid⟩ := tapSector_writes hx ht hn hr
    exact ⟨_, r, congrArg Host.Outcome.next h, rfl, rfl, hleg, hid⟩
end

section
/-! PROOFS. Work items: what a post, a start, an end and a record that waits for room leave (spec/06). -/

namespace Sys2Proof.Machine

theorem exec_workItemPost {s : State} {src : Nat} (ws : List Word) (hs : src < 4) (hr : s.running = true) :
    exec (.workItemPost src ws) s = .next (s.post src (Descriptor.ofWords ws) .other) := next_if ⟨hs, hr⟩

/-- A refused post of SRC 3 leaves its record in its CQ, or owed to it until there is room (R158, R168). -/
theorem refusePost_record (s : State) (d : Descriptor) :
    (∃ u, (s.inc (Obj.dispatchCounter 0)).pushRecord d.cq refusedW0 (d.flow * 0x1000) 0 0 = some u ∧ refusePost s 3 d = u) ∨
    (refusePost s 3 d).disp.owed = s.disp.owed ++ [(d.cq, d.flow)] := by
  unfold refusePost
  dsimp only
  rw [if_pos rfl]
  split
  · rename_i u hu
    exact .inl ⟨u, hu, rfl⟩
  · exact .inr rfl

/-- A post beyond the quota is held by its source (R156, R170). -/
theorem post_beyondQuota {s : State} {src : Nat} {d : Descriptor} (job : Job) (hh : ∀ h ∈ s.disp.held, h.src ≠ src)
    (hr : postRefused s src d = false)
    (hq : s.rd (Obj.handleQuota src) ≤ (s.disp.items.filter (fun w => decide (w.src = src))).length ∨ 65536 ≤ s.disp.items.length) :
    (s.post src d job).disp.held = s.disp.held ++ [⟨src, d, job⟩] ∧ (s.post src d job).disp.items = s.disp.items := by
  rw [post_free d job hh, tryPost_full job hr hq]
  exact ⟨rfl, rfl⟩

/-- A post within the quota is the last of the accepted items, and its source goes on (R155, R156). -/
theorem post_withinQuota {s : State} {src : Nat} {d : Descriptor} (job : Job) (hh : ∀ h ∈ s.disp.held, h.src ≠ src)
    (hr : postRefused s src d = false)
    (hq : ¬ (s.rd (Obj.handleQuota src) ≤ (s.disp.items.filter (fun w => decide (w.src = src))).length ∨ 65536 ≤ s.disp.items.length)) :
    (s.post src d job).disp.held = s.disp.held ∧ ∃ w ∈ (s.post src d job).disp.items, w.src = src ∧ w.desc = d ∧
      (s.post src d job).disp.items.map WorkItem.wi = s.disp.items.map WorkItem.wi ++ [w.wi] := by
  obtain ⟨n, t, ht, hheld, hitems⟩ := tryPost_accepted job hr hq
  rw [post_free d job hh, ht]
  exact ⟨hheld, marks_last hitems⟩

/-- What WORK_ITEM_COMPLETE needs of the core: no write outstanding (R184), no fault, no open bundle. -/
theorem execComplete_gate {k : MatenCore} (hw : k.writing = false) (hf : k.faulted = false) (hs : k.start = none) :
    ¬ (k.writing || k.faulted || k.start.isSome) = true := by
  rw [hw, hf, hs]
  exact Bool.false_ne_true

/-- An item that has ended on its core gets the record of its status and RESULT (R168, R193). -/
theorem exec_workItemComplete_ended {s : State} {c : Nat} {w : WorkItem} {st v : Nat} (cy r : Nat) (hi : s.itemOn c = some w)
    (hw : (s.core c).writing = false) (hf : (s.core c).faulted = false) (hs : (s.core c).start = none) (he : w.ended = some (st, v)) :
    exec (.workItemComplete c cy r) s = .next (finishItem s c w st v) := by
  show execWorkItemComplete c cy r s = _
  unfold execWorkItemComplete
  rw [hi]
  dsimp only
  rw [if_neg (execComplete_gate hw hf hs), he]

/-- An item whose instructions are not given one by one ends DONE with the cycles and result its program returns (R168). -/
theorem exec_workItemComplete_returns {s : State} {c : Nat} {w : WorkItem} (cy r : Nat) (hi : s.itemOn c = some w)
    (hw : (s.core c).writing = false) (hf : (s.core c).faulted = false) (hs : (s.core c).start = none) (he : w.ended = none) :
    exec (.workItemComplete c cy r) s =
      .next (finishItem (s.setCore c { s.core c with cyc := min cy 0xFFFFFFFF }) c w 0 (r % 2 ^ 32)) := by
  show execWorkItemComplete c cy r s = _
  unfold execWorkItemComplete
  rw [hi]
  dsimp only
  rw [if_neg (execComplete_gate hw hf hs), he]

/-- The state in which an item that has run for its RunLimit is trapped (R164). -/
def trapOverrun (s : State) (c : Nat) (w : WorkItem) : State :=
  let s1 := (s.inc (Obj.dispatchCounter 5)).event Ev.matenRunOverrun (flowType w.desc.flow) w.desc.flow
  s1.setCore c (overrunCore (s1.core c) w.runLimit)

theorem trapOverrun_core (s : State) (c : Nat) (w : WorkItem) : (trapOverrun s c w).core c = overrunCore (s.core c) w.runLimit := by
  unfold trapOverrun
  dsimp only
  rw [State.setCore_same, core_of_mt (State.event_mt ..)]
  rfl

theorem trapOverrun_disp (s : State) (c : Nat) (w : WorkItem) : (trapOverrun s c w).disp = s.disp := State.event_disp ..

theorem exec_runLimitExpiry {s : State} {c : Nat} {w : WorkItem} (hi : s.itemOn c = some w)
    (hl : w.runLimit * 32 ≤ s.dspUnits - w.started) (he : w.ended = none) (hs : (s.core c).start = none) :
    exec (.runLimitExpiry c) s = .next (endItem (trapOverrun s c w) c w 3) := by
  show execRunLimitExpiry c s = _
  unfold execRunLimitExpiry
  rw [hi]
  exact next_if ⟨hl, he, by rw [hs]; rfl⟩

/-- An overrun with a write outstanding waits, ended, for its acknowledgement; any other leaves its record at once (R164, R184). -/
theorem trapOverrun_ends {s : State} {c : Nat} {w : WorkItem} (hs : (s.core c).start = none) (h3 : w.src ≠ 3) (hh : s.disp.held = []) :
    if (s.core c).writing = true then
      ∀ x ∈ (endItem (trapOverrun s c w) c w 3).disp.items, x.wi = w.wi → x.ended = some (3, 0)
    else .completion w.src (recordW0 w.wi 3) (w.desc.flow * 0x1000) (min 0xFFFFFFFF (max (s.core c).cyc w.runLimit)) 0 ∈
          (endItem (trapOverrun s c w) c w 3).out ∧
        ∀ x ∈ (endItem (trapOverrun s c w) c w 3).disp.items, x.wi ≠ w.wi := by
  have hcore := trapOverrun_core s c w
  have hstart : ((trapOverrun s c w).core c).start = none := by rw [hcore]; exact hs
  have hwriting : ((trapOverrun s c w).core c).writing = (s.core c).writing := by rw [hcore]; rfl
  split
  · rename_i hw
    exact (endItem_waits c w 3 hstart (hwriting.trans hw)).2
  · rename_i hw
    have h := endItem_port c w 3 h3 ((congrArg Dispatcher.held (trapOverrun_disp s c w)).trans hh) hstart
      (hwriting.trans (Bool.eq_false_iff.2 hw))
    rwa [hcore] at h

theorem exec_waitLimitExpiry {s : State} {n : Nat} {w : WorkItem} (hi : s.disp.items.find? (fun w => decide (w.wi = n)) = some w)
    (hw : w.waiting = true) (hl : w.limit ≠ 0) (hm : w.accepted + w.limit ≤ s.mono) :
    exec (.waitLimitExpiry n) s = .next (((s.inc (Obj.dispatchCounter 1)).eventRated Ev.dispatchTimeout (flowType w.desc.flow)
      (flowType w.desc.flow) 0).complete w 2 0 0) := by
  show execWaitLimitExpiry n s = _
  unfold execWaitLimitExpiry
  rw [hi]
  exact next_if ⟨hw, hl, hm⟩

/-- The item found by its handle has that handle. -/
theorem wi_of_find {items : List WorkItem} {n : Nat} {w : WorkItem} (h : items.find? (fun w => decide (w.wi = n)) = some w) : w.wi = n := by
  simpa using List.find?_some h

/-- The oldest REFUSED record owed is written where its CQ has room, and no other at that time (R168). -/
theorem giveOwed_first {s u : State} {cq f : Nat} {r : List (Nat × Nat)} (ho : s.disp.owed = (cq, f) :: r)
    (hp : s.pushRecord cq refusedW0 (f * 0x1000) 0 0 = some u) :
    giveOwed s = { u with disp := { u.disp with owed := u.disp.owed.erase (cq, f) } } := by
  unfold giveOwed
  rw [ho, List.foldl_cons, if_neg Bool.false_ne_true]
  dsimp only
  rw [hp]
  refine congrArg Prod.snd (List.foldl_fixed' (fun _ => ?_) r)
  exact if_pos rfl

end Sys2Proof.Machine

open Sys2Proof Sys2Proof.Machine

/-- Settles O24: a post goes by its refusal and the quota, every other row by its own equation and what its operation leaves. -/
theorem dispatcherRows : Obligations.dispatcher_rows := by
  unfold Obligations.dispatcher_rows
  intro s
  refine ⟨fun src ws hs hr hh hp => ?_, fun ws hr hh hp => ?_, fun src ws hs hr hh hp => ⟨_, exec_workItemPost ws hs hr, ?_⟩,
    fun c w i hc he hn hst hfl hprog => ⟨_, next_if hc, startItem_ok he hn hst hfl hprog⟩,
    fun c cy r w hi hw hf hs h3 hh => ?_,
    fun c w hi hl he hs h3 hh => ⟨_, exec_runLimitExpiry hi hl he hs, trapOverrun_ends hs h3 hh⟩,
    fun n w hi hw hl hm h3 hh => ⟨_, exec_waitLimitExpiry hi hw hl hm, ?_⟩,
    fun n w w0 w1 cy res u hn hi hpl hh hp => ⟨_, recordRoom_ok hn hi hpl hp, ?_⟩,
    fun cq f r u ho hp => ⟨_, next_if rfl, giveOwed_first ho hp⟩⟩
  · have hpost := (exec_workItemPost ws (by omega) hr).trans (congrArg _ (post_refused .other hh hp))
    rw [refusePost_port _ (by omega)] at hpost
    exact ⟨_, hpost, rfl, rfl⟩
  · obtain ⟨-, hitems, -⟩ := refusePost_facts s 3 (Descriptor.ofWords ws)
    exact ⟨_, (exec_workItemPost ws (by omega) hr).trans (congrArg _ (post_refused .other hh hp)), hitems, refusePost_record s _⟩
  · split
    · rename_i hq
      exact post_beyondQuota .other hh hp hq
    · rename_i hq
      exact post_withinQuota .other hh hp hq
  · rcases he : w.ended with _ | ⟨st, v⟩
    · have h := finishItem_port (s := s.setCore c { s.core c with cyc := min cy 0xFFFFFFFF }) c w 0 (r % 2 ^ 32) h3 hh
      rw [State.setCore_same] at h
      exact ⟨_, exec_workItemComplete_returns cy r hi hw hf hs he, h⟩
    · exact ⟨_, exec_workItemComplete_ended cy r hi hw hf hs he, finishItem_port c w st v h3 hh⟩
  · obtain rfl := wi_of_find hi
    exact complete_port w 2 0 0 h3 (by rw [eventRated_disp]; exact hh)
  · obtain rfl := wi_of_find hi
    exact dropItem_items ((congrArg Dispatcher.held (pushRecord_told hp).disp).trans hh) w
end

section
/-! PROOFS. Maten arithmetic (R178, R179, R186, R187): the MAC group's lanes, ACS, and an accumulator's moves and stores. -/

namespace Sys2Proof.Machine

/-- The product of lane 0 of a MAC-group word (Table 7.8), of the registers as the bundle reads them. -/
def laneProduct (s : State) (c w : Nat) : Int :=
  macProduct (bits w 6 2) (bit w 5) (bit w 22) (rdD s (bundleCore s c) (bundleRegs s c) (bits w 13 5))
    (rdD s (bundleCore s c) (bundleRegs s c) (bits w 8 5))

/-- The product of lane 1, of the registers that follow lane 0's. -/
def laneProduct1 (s : State) (c w : Nat) : Int :=
  macProduct (bits w 6 2) (bit w 5) (bit w 22)
    (rdD s (bundleCore s c) (bundleRegs s c) (if bit w 21 then bits w 13 5 else bits w 13 5 + 1))
    (rdD s (bundleCore s c) (bundleRegs s c) (bits w 8 5 + 1))

/-- A MAC-group instruction of one lane leaves in its accumulator what its lane gives. -/
theorem macIssue_single {s : State} {c op w : Nat} (h : Issues s c) (h1 : bits w 27 4 = 4) (h2 : bits w 24 3 = op)
    (hl : macLegal w = true) (hd : bit w 23 = false) : ((macIssue s c op w).core c).regs.getAc (bits w 18 3) =
      (macLane op (bit (Config.choice s.draws) 80) (bundleRegs s c) (s.core c).regs (bits w 18 3) (laneProduct s c w)).getAc
        (bits w 18 3) := by
  obtain ⟨k1, hk, hac⟩ := macInstr_single (s := s) (k := bundleCore s c) (src := bundleRegs s c) hl hd
  obtain ⟨-, hcore, -⟩ := issue_core h (bit w 31) hk
  rw [h2] at hac
  rw [macIssue_eq h h1 h2]
  exact getAc_congr (hcore.trans hac) _

/-- An MPY of two lanes leaves the second product in the second accumulator. -/
theorem macIssue_mpy_second {s : State} {c w : Nat} (h : Issues s c) (h1 : bits w 27 4 = 4) (h2 : bits w 24 3 = 0)
    (hl : macLegal w = true) (hd : bit w 23 = true) :
    ((macIssue s c 0 w).core c).regs.getAc (bits w 18 3 + 1) = BitVec.ofInt 56 (laneProduct1 s c w) := by
  obtain ⟨k1, r1, hk, hac⟩ := macInstr_dual (s := s) (k := bundleCore s c) (src := bundleRegs s c) hl hd
  obtain ⟨-, hcore, -⟩ := issue_core h (bit w 31) hk
  rw [h2, macLane_mpy] at hac
  rw [macIssue_eq h h1 h2]
  exact (getAc_congr (hcore.trans hac) _).trans (getAc_startAcc ..)

/-- A sum that an accumulator holds is accumulated as it is. -/
theorem getAc_accumulate_inRange {r : Regs} {n : Nat} {v : Int} (h1 : -(2 ^ 55) ≤ v) (h2 : v ≤ 2 ^ 55 - 1) :
    (accumulate r n v).getAc n = BitVec.ofInt 56 v := (getAc_accumulate r n v).trans (if_pos ⟨h1, h2⟩)

/-- Truncation at bit 23 keeps an accumulator's value in its range. -/
theorem truncated_inRange (x : BitVec 56) :
    -(2 ^ 55) ≤ x.toInt / 16777216 * 16777216 ∧ x.toInt / 16777216 * 16777216 ≤ 2 ^ 55 - 1 := by
  have hlo := x.le_toInt
  have hhi := x.toInt_lt
  omega

/-- RNDA with MODE.RND = 0 truncates the accumulator at bit 23. -/
theorem getAc_macLane_rnda_truncates {src r : Regs} (o : Bool) (n : Nat) (p : Int) (h : src.rnd = 0) :
    (macLane 3 o src r n p).getAc n = BitVec.ofInt 56 ((src.getAc n).toInt / 16777216 * 16777216) := by
  obtain ⟨hlo, hhi⟩ := truncated_inRange (src.getAc n)
  rw [macLane_rnda, h]
  exact getAc_accumulate_inRange hlo hhi

/-- A narrow ACS of one lane leaves the selected sum in its destination. -/
theorem issue_acs_single {s : State} {c w : Nat} (h : Issues s c) (hl : acsLegal w = true) (hw : bit w 26 = false)
    (hd : bit w 25 = false) : ((issue s c (bit w 31) (acsInstr w)).core c).regs.getD (bits w 19 5) =
      BitVec.ofNat 24 (acsSelect (bit w 24) (2 ^ 24 - 1)
        ((rdD s (bundleCore s c) (bundleRegs s c) (bits w 14 5)).toNat + (rdD s (bundleCore s c) (bundleRegs s c) (bits w 4 5)).toNat)
        ((rdD s (bundleCore s c) (bundleRegs s c) (bits w 9 5)).toNat +
          (rdD s (bundleCore s c) (bundleRegs s c) ((bits w 4 5 + 1) % 32)).toNat)).1 := by
  obtain ⟨k1, hk, hregs⟩ := acsInstr_single (s := s) (k := bundleCore s c) (src := bundleRegs s c) hl hw hd
  obtain ⟨hcore, -⟩ := issue_core h (bit w 31) hk
  exact (getD_congr (hcore.trans hregs) _).trans (getD_setD ..)

/-- The core in the open bundle is one as the bundle opened it, whatever its registers have become. -/
theorem bundleCore_opened (s : State) (c : Nat) (r : Regs) : Opened s c { bundleCore s c with regs := r } :=
  ⟨⟨_, rfl, rfl⟩, rfl, rfl⟩

theorem withSv_d (b : Bool) (k : MatenCore) : (withSv b k).regs.d = k.regs.d := by
  unfold withSv
  split <;> rfl

/-- MOVA Dd moves the store form of the accumulator to D. -/
theorem issue_movaD {s : State} {c n : Nat} (h : Issues s c) (p : Bool) (d : Nat) (hn : n < 8) :
    ((issue s c p (staInstr n (.movaD d))).core c).regs.getD d =
      (store24 (bundleRegs s c).rnd (bit (Config.choice s.draws) 80) (rdAc s (bundleCore s c) (bundleRegs s c) n)).1 := by
  obtain ⟨hcore, -⟩ := issue_core h p (f := staInstr n (.movaD d)) (if_neg (Nat.not_le.2 hn))
  exact (getD_congr (hcore.trans (withSv_d ..)) _).trans (putD_same ..)

/-- STA.H stores the store form of the accumulator in its container. -/
theorem issue_staH {s : State} {c n x : Nat} {a : AddrMode} {r : Regs} (h : Issues s c) (p : Bool) (hn : n < 8)
    (ha : agu (bundleRegs s c) (bundleCore s c).regs a = some (x, r)) (hx : addrOk x = true) :
    Stored s (issue s c p (staInstr n (.staH a))) c p
      [(x, container (store24 (bundleRegs s c).rnd (bit (Config.choice s.draws) 80) (rdAc s (bundleCore s c) (bundleRegs s c) n)).1)] := by
  refine issue_stored1 h p ?_ (access_opened [x] (withSv_opened
    (store24 (bundleRegs s c).rnd (bit (Config.choice s.draws) 80) (rdAc s (bundleCore s c) (bundleRegs s c) n)).2
    (bundleCore_opened s c r)))
  unfold staInstr
  rw [if_neg (Nat.not_le.2 hn)]
  simp only [ha, hx, Bool.not_true, Bool.false_eq_true, if_false]

theorem addrOk_local {x : Nat} (h : x < 0x8800) : addrOk x = true := by
  unfold addrOk
  rw [decide_eq_true h, Bool.true_or]

end Sys2Proof.Machine

open Sys2Proof Sys2Proof.Machine

/-- Settles O21: a lane's accumulator is what `macLane` makes of its product, and ACS and STA write one register or container. -/
theorem matenArithmetic : Obligations.maten_arithmetic := by
  unfold Obligations.maten_arithmetic
  intro s c w h
  refine ⟨fun h1 h2 hl hd => ⟨_, rfl, ?mpy⟩, fun v h1 h2 hl hd hv => ⟨_, rfl, ?mac⟩, fun v h1 h2 hl hd hv hlo hhi => ⟨_, rfl, ?macsh⟩,
    fun v h1 h2 hl hd hv hr => ⟨_, rfl, ?rnda⟩, fun h1 h2 hl hd => ⟨_, rfl, ?clr⟩,
    fun h1 h2 hl hd => ⟨_, rfl, macIssue_mpy_second h h1 h2 hl hd⟩,
    fun h1 hl hw hd => ⟨_, next_if ⟨h.number, h1⟩, issue_acs_single h hl hw hd⟩,
    fun p n d hn hd => ⟨_, next_if ⟨h.number, decide_eq_true hd⟩, issue_movaD h p d hn⟩,
    fun p n a x r hn ha hagu hx => ⟨_, next_if ⟨h.number, ha⟩, issue_staH h p hn hagu (addrOk_local hx)⟩⟩
  case mpy => exact (macIssue_single h h1 h2 hl hd).trans (getAc_startAcc ..)
  case mac =>
    subst hv
    exact (macIssue_single h h1 h2 hl hd).trans (getAc_accumulate ..)
  case macsh =>
    subst hv
    exact (macIssue_single h h1 h2 hl hd).trans (getAc_accumulate_inRange hlo hhi)
  case rnda =>
    subst hv
    exact (macIssue_single h h1 h2 hl hd).trans (getAc_macLane_rnda_truncates _ _ _ hr)
  case clr => exact (macIssue_single h h1 h2 hl hd).trans (getAc_startAcc ..)
end

section
/-! PROOFS. Maten control, loads and stores (R174, R182, R183, R188, R190, R193). -/

namespace Sys2Proof.Machine

/-- A LOOP with a count at the level that LL gives: its registers take the bundle after it, the end and the count (R188). -/
theorem loopInstr_counted {lvl : Nat} {count : BitVec 24} {s : State} {k : MatenCore} (stop : BitVec 20) (src : Regs) (hl : lvl < 4)
    (hk : k.regs.ll = lvl) (hc : count ≠ 0) : ∃ r, loopInstr lvl count stop s k src = .ok { k with regs := r } s ∧
      AMap.get 0 lvl r.lc = count ∧ AMap.get 0 lvl r.le = stop ∧ AMap.get 0 lvl r.ls = k.pc + 1 := by
  have hlegal : ¬ (k.regs.ll ≠ lvl ∨ 4 ≤ k.regs.ll) := by omega
  unfold loopInstr
  dsimp only
  rw [if_neg hlegal, if_neg hc]
  exact ⟨_, rfl, AMap.get_put_same .., AMap.get_put_same .., AMap.get_put_same ..⟩

/-- A LOOP with the count 0 branches past its end (R188). -/
theorem loopInstr_zero {lvl : Nat} {s : State} {k : MatenCore} (stop : BitVec 20) (src : Regs) (hl : lvl < 4) (hk : k.regs.ll = lvl) :
    loopInstr lvl 0 stop s k src = .ok { k with pc := stop + 1, branched := true } s := by
  have hlegal : ¬ (k.regs.ll ≠ lvl ∨ 4 ≤ k.regs.ll) := by omega
  unfold loopInstr
  dsimp only
  rw [if_neg hlegal, if_pos rfl]

/-- A branch that is taken: any but a condition that does not hold (R188). -/
theorem branchInstr_taken {form : BranchForm} (target : BitVec 20) (s : State) (k : MatenCore) (src : Regs) (h : form ≠ .cond false) :
    branchInstr form target s k src = .ok { k with pc := target, branched := true, cyc := satAdd k.cyc 2 0xFFFFFFFF } s := by
  cases form with
  | cond t =>
    cases t with
    | true => rfl
    | false => exact absurd rfl h
  | _ => rfl

/-- RETI gives back the saved bits of STATUS, IE among them (R190). -/
theorem reti_flag_ie (status istat : BitVec 32) :
    ((0xFFC00000#32 &&& (status ||| istat)) ||| (0x78007#32 &&& istat) ||| (status &&& 0x387FF8#32 &&& ~~~(0x78007#32))).getLsbD fIE =
      istat.getLsbD fIE := by
  simp [fIE]

theorem issue_reti {s : State} {c : Nat} (h : Issues s c) : ((issue s c false retiInstr).core c).pc = (s.core c).regs.ira ∧
    ((issue s c false retiInstr).core c).handlers = (s.core c).handlers.tail ∧
    ((issue s c false retiInstr).core c).regs.flag fIE = (s.core c).regs.istat.getLsbD fIE := by
  obtain ⟨hpc, hstatus⟩ := issue_branched h false (f := retiInstr) rfl rfl
  obtain ⟨-, -, -, -, -, hhandlers⟩ := issue_core h false (f := retiInstr) rfl
  refine ⟨hpc, hhandlers, ?_⟩
  unfold Regs.flag
  rw [hstatus]
  exact reti_flag_ie _ _

/-- What END comes to: its bundle's last, with D1:D0 bits [31:0] as the bundle's RESULT (R193). -/
def endInstr (s : State) (k : MatenCore) (src : Regs) : IRes :=
  .ok { k with
    branched := true
    start := k.start.map (fun b => { b with result := some (movRead s k src (.pair 0) % 2 ^ 32) }) } s

theorem exec_endOp {s : State} {c : Nat} (h : c < 128) : exec (.endOp c) s = .next (issue s c false endInstr) := next_if h

theorem issue_endInstr {s : State} {c : Nat} (h : Issues s c) : (issue s c false endInstr).disp.items =
    s.disp.items.map (fun (w : WorkItem) => if w.core = some c then
      { w with ended := some (0, movRead s (bundleCore s c) (bundleRegs s c) (.pair 0) % 2 ^ 32) } else w) :=
  (issue_items h (f := endInstr) rfl rfl :)

/-- A load of one word, at an address its mode gives and the map has. -/
theorem ldInstr_ld {s : State} {c x : Nat} {a : AddrMode} {k : MatenCore} {src r : Regs} (d : Nat) (ha : agu src k.regs a = some (x, r))
    (hx : addrOk x = true) : ldInstr c (.ld d a) s k src =
      .ok (putD (loadAccess s { k with regs := r } [x]) d ((memRead s k c x).extractLsb' 0 24)) s := by
  simp only [ldInstr, ha, hx, Bool.not_true, Bool.false_eq_true, if_false]

theorem ldInstr_ldp {s : State} {c x d : Nat} {a : AddrMode} {k : MatenCore} {src r : Regs} (ha : agu src k.regs a = some (x, r))
    (hd : d % 2 = 0) (hx : addrOk x = true) (hx1 : addrOk (x + 1) = true) : ldInstr c (.ldp d a) s k src =
      .ok (putD (putD (loadAccess s { k with regs := r } [x, x + 1]) d ((memRead s k c x).extractLsb' 0 24)) (d + 1)
        ((memRead s k c (x + 1)).extractLsb' 0 24)) s := by
  simp [ldInstr, ha, hd, hx, hx1]

theorem ldInstr_ld2 {s : State} {c x y : Nat} {a b : AddrMode} {k : MatenCore} {src r q : Regs} (d e : Nat)
    (ha : agu src k.regs a = some (x, r)) (hb : agu src r b = some (y, q)) (hx : addrOk x = true) (hy : addrOk y = true) :
    ldInstr c (.ld2 d a e b) s k src =
      .ok (putD (putD (loadAccess s (loadAccess s { k with regs := q } [x]) [y]) d ((memRead s k c x).extractLsb' 0 24)) e
        ((memRead s k c y).extractLsb' 0 24)) s := by
  simp only [ldInstr, ha, hb, hx, hy, Bool.not_true, Bool.false_eq_true, if_false]

/-- An instruction that ends with the write of a data register leaves it there. -/
theorem issue_putD {s s1 : State} {c d : Nat} {k : MatenCore} {v : BitVec 24} {f : State → MatenCore → Regs → IRes} (h : Issues s c)
    (p : Bool) (hf : f s (bundleCore s c) (bundleRegs s c) = .ok (putD k d v) s1) : ((issue s c p f).core c).regs.getD d = v := by
  obtain ⟨hcore, -⟩ := issue_core h p hf
  exact (getD_congr hcore d).trans (putD_same k d v)

/-- An instruction that ends with the writes of two data registers leaves both there. -/
theorem issue_putD2 {s s1 : State} {c d e : Nat} {k : MatenCore} {v w : BitVec 24} {f : State → MatenCore → Regs → IRes} (h : Issues s c)
    (p : Bool) (hde : d ≠ e) (hf : f s (bundleCore s c) (bundleRegs s c) = .ok (putD (putD k d v) e w) s1) :
    ((issue s c p f).core c).regs.getD d = v ∧ ((issue s c p f).core c).regs.getD e = w := by
  obtain ⟨hcore, -⟩ := issue_core h p hf
  exact ⟨((getD_congr hcore d).trans (putD_other _ w hde)).trans (putD_same k d v), issue_putD h p hf⟩

theorem stInstr_st {s : State} {x : Nat} {a : AddrMode} {k : MatenCore} {src r : Regs} (d : Nat) (ha : agu src k.regs a = some (x, r))
    (hx : addrOk x = true) : stInstr (.st d a) s k src =
      .ok (memWrite (access { k with regs := r } [x]) x (container (rdD s k src d))) s := by
  simp only [stInstr, ha, hx, Bool.not_true, Bool.false_eq_true, if_false]

theorem stInstr_stp {s : State} {x d : Nat} {a : AddrMode} {k : MatenCore} {src r : Regs} (ha : agu src k.regs a = some (x, r))
    (hd : d % 2 = 0) (hx : addrOk x = true) (hx1 : addrOk (x + 1) = true) : stInstr (.stp d a) s k src =
      .ok (memWrite (memWrite (access { k with regs := r } [x, x + 1]) x (container (rdD s k src d))) (x + 1)
        (container (rdD s k src (d + 1)))) s := by
  simp [stInstr, ha, hd, hx, hx1]

end Sys2Proof.Machine

open Sys2Proof Sys2Proof.Machine

/-- Settles O22: a LOOP or branch is read off the core it leaves in or at the end of its bundle, a load off its registers, a store off its
bundle. -/
theorem matenControl : Obligations.maten_control := by
  unfold Obligations.maten_control
  intro s c h
  refine ⟨fun lvl count stop hl hk hc => ⟨_, next_if ⟨h.number, hl⟩, ?loop⟩, fun p lvl stop hl hk => ⟨_, next_if ⟨h.number, hl⟩, ?skip⟩,
    ⟨_, next_if h.number, ?brk⟩, ⟨_, next_if h.number, issue_reti h⟩, ⟨_, exec_endOp h.number, issue_endInstr h⟩,
    fun p form target hf => ⟨_, next_if h.number, (issue_branched h p (branchInstr_taken target s _ _ hf) rfl).1⟩,
    fun target => ⟨_, next_if h.number, ?untaken⟩,
    fun p d a x r hd ha hagu hx => ⟨_, next_if ⟨h.number, by simp [LdForm.ok, hd, ha]⟩, issue_putD h p (ldInstr_ld d hagu hx)⟩,
    fun p d a x r hd ha hagu he hx hx1 =>
      ⟨_, next_if ⟨h.number, by simp [LdForm.ok, hd, ha]⟩, issue_putD2 h p (by omega) (ldInstr_ldp hagu he hx hx1)⟩,
    fun p d a e b x y r q hd he ha hb hagu hbgu hde hx hy =>
      ⟨_, next_if ⟨h.number, by simp [LdForm.ok, hd, he, ha, hb]⟩, issue_putD2 h p hde (ldInstr_ld2 d e hagu hbgu hx hy)⟩,
    fun p d a x r hd ha hagu hx => ⟨_, next_if ⟨h.number, by simp [StForm.ok, hd, ha]⟩,
      issue_stored1 h p (stInstr_st d hagu hx) (access_opened [x] (bundleCore_opened s c r))⟩,
    fun p d a x r hd ha hagu he hx hx1 => ⟨_, next_if ⟨h.number, by simp [StForm.ok, hd, ha]⟩,
      issue_stored2 h p (stInstr_stp hagu he hx hx1) (access_opened [x, x + 1] (bundleCore_opened s c r))⟩⟩
  case loop =>
    obtain ⟨r, hr, hlc, hle, hls⟩ := loopInstr_counted (s := s) (k := bundleCore s c) stop (bundleRegs s c) hl hk hc
    rw [issue_joined h hr]
    exact ⟨hlc, hle, hls⟩
  case skip => exact (issue_branched h p (loopInstr_zero stop (bundleRegs s c) hl hk) rfl).1
  case brk =>
    rw [issue_joined h rfl]
    exact ⟨rfl, rfl⟩
  case untaken =>
    rw [issue_joined (f := branchInstr (.cond false) target) h rfl]
    exact ⟨rfl, rfl⟩
end

section
/-! PROOFS. Maten transfers and interrupts (R184, R189, R190, R191): DMA instructions, a transfer's end, and what enters a handler. -/

namespace Sys2Proof.Machine

/-- A legal DMA instruction has its transfer in the open bundle, or started, or stalled behind 8 others (R184). -/
theorem issue_dmaInstr {s : State} {c loc r words : Nat} {write : Bool} {d : CoreDma} (h : Issues s c) (p : Bool) (h1 : 1 ≤ words)
    (h2 : words ≤ 2048) (h3 : r % 2 = 0) (h4 : loc + words ≤ 0x8800) (h5 : hbmAddress s c r + 4 * words ≤ s.capacity)
    (hd : d = ⟨loc, hbmAddress s c r, words, write, regionClass (partOf s (hbmAddress s c r))⟩) :
    if p then (openBundle ((issue s c p (dmaInstr write loc r words)).core c)).dma = some d
    else (((issue s c p (dmaInstr write loc r words)).core c).dma, ((issue s c p (dmaInstr write loc r words)).core c).stall) =
      if (s.core c).dma.length < 8 then ((s.core c).dma ++ [d], none) else ((s.core c).dma, some d) := by
  have hi := issue_dma h p (dmaInstr_ok (write := write) h1 h2 h3 h4 rfl h5) rfl (congrArg some hd.symm)
  rw [← h.stall]
  exact hi

/-- DMAWAIT holds its core while more transfers than its count are outstanding (R184). -/
theorem issue_dmaWaitInstr {s : State} {c : Nat} (h : Issues s c) (p : Bool) (n : Nat) :
    ((issue s c p (dmaWaitInstr n)).core c).waitAt = if (s.core c).dma.length ≤ n then none else some n := by
  by_cases hn : (s.core c).dma.length ≤ n
  · obtain ⟨-, -, -, -, hwait, -⟩ := issue_core h p (f := dmaWaitInstr n) (if_pos hn)
    rw [if_pos hn, hwait]
    exact h.waits
  · obtain ⟨-, -, -, -, hwait, -⟩ := issue_core h p (f := dmaWaitInstr n) (if_neg hn)
    rw [if_neg hn, hwait]

/-- A transfer that completes in order and reads no poisoned unit: its words moved, then the core without it (R184). -/
theorem dmaDone_moves {s : State} {c i : Nat} {d : CoreDma} (hd : (s.core c).dma[i]? = some d)
    (ho : ¬ (d.write = true ∧ ((s.core c).dma.take i).any (fun x => x.write) = true))
    (hp : ¬ (¬ d.write = true ∧ s.poisoned d.hbm (4 * d.words) = true)) : dmaDone s c i =
      (if d.write then (dmaMove d d.words 0 (s.core c, s)).2.heal d.hbm (4 * d.words)
        else (dmaMove d d.words 0 (s.core c, s)).2).setCore c
      (dmaNext s.dspUnits i ((s.itemOn c).bind WorkItem.ended).isSome (dmaMove d d.words 0 (s.core c, s)).1) := by
  unfold dmaDone
  dsimp only
  rw [hd]
  dsimp only
  rw [if_neg ho, if_neg hp]

/-- A read transfer brings the words of HBM into local memory. -/
theorem dmaDone_read {s : State} {c i : Nat} {d : CoreDma} (hd : (s.core c).dma[i]? = some d) (hw : d.write = false)
    (hp : s.poisoned d.hbm (4 * d.words) = false) (hs : (s.core c).stall = none) (hwait : (s.core c).waitAt = none) :
    ((dmaDone s c i).core c).dma = (s.core c).dma.eraseIdx i ∧ (dmaDone s c i).mem = s.mem ∧
      ∀ j, j < d.words → AMap.get 0 (localWord (s.core c) (d.loc + j)) ((dmaDone s c i).core c).mem = s.rdWord32 (d.hbm + 4 * j) := by
  obtain ⟨hstate, m, hcore, -, hwords⟩ := dmaMove_read d hw d.words 0 (s.core c) s
  rw [dmaDone_moves hd (by simp [hw]) (by simp [hp]), hw, hstate, hcore, if_neg Bool.false_ne_true, State.setCore_same]
  obtain ⟨hdma, hmem⟩ := dmaNext_free (now := s.dspUnits) (i := i) (ended := ((s.itemOn c).bind WorkItem.ended).isSome)
    (k := { s.core c with mem := m }) hs hwait
  refine ⟨hdma, State.setCore_mem .., fun j hj => ?_⟩
  rw [hmem]
  exact hwords j (Nat.zero_le j) (by omega)

/-- A write transfer, no earlier one outstanding, puts the words of local memory into HBM. -/
theorem dmaDone_write {s : State} {c i : Nat} {d : CoreDma} (hd : (s.core c).dma[i]? = some d) (hw : d.write = true)
    (ho : ∀ x ∈ (s.core c).dma.take i, x.write = false) (hs : (s.core c).stall = none) (hwait : (s.core c).waitAt = none) :
    ((dmaDone s c i).core c).dma = (s.core c).dma.eraseIdx i ∧ ((dmaDone s c i).core c).mem = (s.core c).mem ∧
      ∀ x, (dmaDone s c i).rdByte x = if d.hbm ≤ x ∧ x < d.hbm + 4 * d.words then
        (AMap.get 0 (localWord (s.core c) (d.loc + (x - d.hbm) / 4)) (s.core c).mem).extractLsb' (8 * ((x - d.hbm) % 4)) 8
      else s.rdByte x := by
  have hfirst : ¬ ((s.core c).dma.take i).any (fun x => x.write) = true := by simpa using ho
  have hout := dmaMove_out d hw d.words 0 (s.core c) s
  rw [Nat.mul_zero, Nat.add_zero, Nat.zero_add] at hout
  rw [dmaDone_moves hd (fun h => hfirst h.2) (by simp [hw]), hw, dmaMove_write d hw, if_pos rfl, State.setCore_same]
  obtain ⟨hdma, hmem⟩ := dmaNext_free (now := s.dspUnits) (i := i) (ended := ((s.itemOn c).bind WorkItem.ended).isSome) hs hwait
  exact ⟨hdma, hmem, fun x => (rdByte_congr ((State.setCore_mem ..).trans (State.heal_mem ..)) x).trans (hout x)⟩

theorem runs_of_item {s : State} {c : Nat} {w : WorkItem} (h1 : s.itemOn c = some w) (h2 : w.ended = none)
    (h3 : (s.core c).faulted = false) : runs s c = true := by
  simp [runs, h1, h2, h3]

/-- TMR pending in a running program that has a vector for it and IE set enters its handler between bundles. -/
theorem interruptEntry_tmr {s : State} {c : Nat} {w : WorkItem} {i : Image} (h1 : s.itemOn c = some w) (h2 : w.ended = none)
    (hp : s.program w.desc.program = some i) (hv : i.tmrVector ≠ 0) (ht : (s.core c).tmrPending = true)
    (hie : (s.core c).regs.flag fIE = true) (hs : (s.core c).start = none) (hf : (s.core c).faulted = false) :
    interruptEntry s c .tmr = enterHandler s c .tmr i.tmrVector := by
  have hrun := runs_of_item h1 h2 hf
  unfold interruptEntry
  dsimp only
  rw [h1]
  simp [hp, hv, ht, hie, hs, hrun]

/-- A core whose open bundle a fault has dropped, with the fault's cause and address (R191). -/
def faultedCore (k : MatenCore) (cause addr : Nat) : MatenCore :=
  { dropBundle k with
    fcause := cause
    faddr := addr
    faulted := true }

theorem dropBundle_faultedCore (k : MatenCore) (cause addr : Nat) : dropBundle (faultedCore k cause addr) = faultedCore k cause addr :=
  dropBundle_shut (dropBundle_start k)

/-- A bus error of a running program is a fault with cause 4. -/
theorem interruptEntry_bus {s : State} {c : Nat} (h : runs s c = true) : interruptEntry s c .bus =
    faultEntry (s.setCore c (faultedCore (s.core c) 4 (dropBundle (s.core c)).pc.toNat)) c := if_pos h

/-- A failed transfer of a running program is a fault with cause 5 at the address of the oldest one. -/
theorem interruptEntry_dma {s : State} {c : Nat} {d : CoreDma} {r : List CoreDma} (h : runs s c = true) (hd : (s.core c).dma = d :: r) :
    interruptEntry s c .dma = faultEntry (s.setCore c (faultedCore (dmaNext s.dspUnits 0 false (s.core c)) 5 d.hbm)) c := by
  unfold interruptEntry
  dsimp only
  rw [hd]
  exact if_pos h

/-- A fault that the program handles leaves its core at the handler, with the bundle's address saved, the cause and the address (R189). -/
theorem faultEntry_faultedCore {s : State} {c : Nat} {w : WorkItem} {i : Image} {k : MatenCore} (cause addr : Nat) (h1 : s.itemOn c = some w)
    (hp : s.program w.desc.program = some i) (hv : i.faultVector ≠ 0) (hh : k.handlers = []) :
    ((faultEntry (s.setCore c (faultedCore k cause addr)) c).core c).pc = BitVec.ofNat 20 i.faultVector ∧
    ((faultEntry (s.setCore c (faultedCore k cause addr)) c).core c).regs.ira = (dropBundle k).pc ∧
    ((faultEntry (s.setCore c (faultedCore k cause addr)) c).core c).handlers = [.fault] ∧
    ((faultEntry (s.setCore c (faultedCore k cause addr)) c).core c).fcause = cause ∧
    ((faultEntry (s.setCore c (faultedCore k cause addr)) c).core c).faddr = addr := by
  have h := fault_taken (k := faultedCore k cause addr) h1 hp hv ((dropBundle_handlers k).trans hh)
  rw [dropBundle_faultedCore] at h
  exact h

end Sys2Proof.Machine

open Sys2Proof Sys2Proof.Machine

/-- Settles O23: a DMA instruction by its bundle's end, a transfer by the words `dmaMove` moves, an interrupt by the handler entered. -/
theorem matenTransfers : Obligations.maten_transfers := by
  unfold Obligations.maten_transfers
  intro s c
  refine ⟨fun p loc r words d h h1 h2 h3 h4 h5 hd => ⟨_, next_if h.number, issue_dmaInstr h p h1 h2 h3 h4 h5 hd⟩,
    fun p loc r words d h h1 h2 h3 h4 h5 hd => ⟨_, next_if h.number, issue_dmaInstr h p h1 h2 h3 h4 h5 hd⟩,
    fun p n h => ⟨_, next_if h.number, issue_dmaWaitInstr h p n⟩,
    fun i d hc hd hw hp hs hwait => ⟨_, next_if hc, dmaDone_read hd hw hp hs hwait⟩,
    fun i d hc hd hw ho hs hwait => ⟨_, next_if hc, dmaDone_write hd hw ho hs hwait⟩,
    fun v w i hc h1 h2 hp hi hv ht hie hs hf => ⟨_, next_if hc, ?tmr⟩,
    fun w i hc h1 h2 hp hv hh hf => ⟨_, next_if hc, ?bus⟩,
    fun w i d r hc h1 h2 hp hv hh hf hd => ⟨_, next_if hc, ?dma⟩,
    fun w i hc h1 hp hv hh hf => ⟨_, next_if hc, ?fault⟩,
    fun hc hb hs => ⟨_, next_if hc, ?dbg⟩,
    fun hc h1 hm hlo hhi => ⟨_, next_if ⟨hc, h1, hm, hlo, hhi⟩, by rw [State.setCore_same]⟩,
    fun n => ⟨_, rfl, rfl⟩⟩
  case tmr =>
    subst hi
    obtain ⟨r, hcore, hira, histat⟩ := enterHandler_core s c .tmr i.tmrVector
    rw [dropBundle_shut hs] at hira histat
    rw [interruptEntry_tmr h1 h2 hp hv ht hie hs hf, hcore]
    exact ⟨rfl, hira, histat, rfl, Bool.and_false _⟩
  case bus =>
    obtain ⟨hpc, hira, hhandlers, hcause, -⟩ := faultEntry_faultedCore 4 (dropBundle (s.core c)).pc.toNat h1 hp hv hh
    rw [interruptEntry_bus (runs_of_item h1 h2 hf)]
    exact ⟨hpc, hira, hhandlers, hcause⟩
  case dma =>
    obtain ⟨hstart, hat, hsame⟩ := dmaNext_frame s.dspUnits 0 false (s.core c)
    obtain ⟨hpc, hira, hhandlers, hcause, haddr⟩ := faultEntry_faultedCore 5 d.hbm h1 hp hv (hsame.trans hh)
    rw [interruptEntry_dma (runs_of_item h1 h2 hf) hd]
    exact ⟨hpc, hira.trans (dropBundle_pc hstart hat), hhandlers, hcause, haddr⟩
  case fault =>
    obtain ⟨r, hcore, hira, -⟩ := enterHandler_core s c .fault i.faultVector
    have he : interruptEntry s c .fault = enterHandler s c .fault i.faultVector := (if_pos hf).trans (faultEntry_handled h1 hp hv hh)
    rw [he, hcore]
    exact ⟨rfl, hira, by rw [hh], rfl⟩
  case dbg =>
    have he : interruptEntry s c .dbg = s.setCore c { s.core c with halted := true } := if_pos ⟨hb, by rw [hs]; rfl⟩
    rw [he, State.setCore_same]
end

section
/-! PROOFS. Composition (R244 to R261): the operator images' checks, a composer's bands, the layout runs. -/

namespace Sys2Proof.Machine

/-! ### Operator image checks (R260) -/

theorem checkStart_near {s : State} (h : tickTime (s.tod * 3 / 50000000 + 1) ≤ s.tod + 2000000) :
    checkStart s = { s with cp := { s.cp with checks := s.cp.checks ++ checksFor s (s.tod * 3 / 50000000 + 1) } } := if_pos h

theorem checksFor_pending {s : State} {k : Nat} {c : OpCheck} (h : c ∈ checksFor s k) : c.tick = k ∧ c.result = none := by
  obtain ⟨i, -, rfl⟩ := List.mem_map.mp h
  exact ⟨rfl, rfl⟩

/-- Without a tick commit that waits the settings at the tick are those of now: the image of a due set's protected layer gets its check,
unless one has begun for that tick. -/
theorem mem_checksFor {s : State} {k c i : Nat} (ht : tickCommits s = []) (hc : c ∈ enabledSets s) (hd : setDue s c k = true)
    (ho : s.rd (Obj.olEnable (s.rd (Obj.csetBase c))) = 1) (hi : i = s.rd (Obj.olImage (s.rd (Obj.csetBase c))) - 1)
    (hn : s.cp.checks.any (fun e => decide (e.image = i) && decide (e.tick = k)) = false) : ⟨i, k, none⟩ ∈ checksFor s k := by
  have hbase := List.mem_map_of_mem (f := fun c => s.rd (Obj.csetBase c)) (List.mem_filter (p := (setDue s · k)).mpr ⟨hc, hd⟩)
  have hused := List.mem_filter (p := fun b => decide (s.rd (Obj.olEnable b) = 1)).mpr ⟨hbase, decide_eq_true ho⟩
  have himg := List.mem_eraseDups.mpr (List.mem_map_of_mem (f := fun b => s.rd (Obj.olImage b) - 1) hused)
  subst hi
  unfold checksFor
  rw [ht]
  exact List.mem_map_of_mem (f := fun i => OpCheck.mk i k none) (List.mem_filter.mpr ⟨himg, by rw [hn]; rfl⟩)

/-- A check for the tick, of the image of a due set's protected layer, is among those begun or begins. -/
theorem check_of_due {s : State} {k c i : Nat} (ht : tickCommits s = []) (hc : c ∈ enabledSets s) (hd : setDue s c k = true)
    (ho : s.rd (Obj.olEnable (s.rd (Obj.csetBase c))) = 1) (hi : i = s.rd (Obj.olImage (s.rd (Obj.csetBase c))) - 1) :
    ∃ e ∈ s.cp.checks ++ checksFor s k, e.tick = k ∧ e.image = i := by
  cases hn : s.cp.checks.any (fun e => decide (e.image = i) && decide (e.tick = k)) with
  | false => exact ⟨_, List.mem_append_right _ (mem_checksFor ht hc hd ho hi hn), rfl, rfl⟩
  | true =>
    obtain ⟨e, he, h⟩ := List.any_eq_true.mp hn
    rw [Bool.and_eq_true, decide_eq_true_eq, decide_eq_true_eq] at h
    exact ⟨e, List.mem_append_left _ he, h.symm⟩

theorem opImageGood_missing {s : State} {i : Nat} (h : s.opImage i = none) : opImageGood s i = false := by
  unfold opImageGood
  rw [h]

theorem opImageGood_poisoned {s : State} {i : Nat} {img : OpImage} (h : s.opImage i = some (img, false)) :
    opImageGood s i = false := by
  unfold opImageGood
  rw [h]
  exact Bool.false_and _

theorem opImageGood_intact {s : State} {i : Nat} {img : OpImage} (h : s.opImage i = some (img, true)) :
    opImageGood s i = decide (crc crc32c (octets 4 0x53494D47 ++ octets 2 img.width ++ octets 2 img.height ++
      [b2n img.alpha] ++ List.replicate 55 0 ++ img.pixels) = s.rd (Obj.operatorImageCrc i)) := by
  unfold opImageGood
  rw [h]
  exact Bool.true_and _

/-! ### Bands (R31, R248, R252) -/

/-- The state in which a composer has written its job's next band to the job's buffer. -/
def writeBand (s : State) (j : CompJob) : State :=
  s.setCs j.cset { s.cs j.cset with bufs := (s.cs j.cset).bufs.map (fun (b : CanvBuf) => if b.id = j.buf then
    { b with bands := j.band + 1, units := b.units ++ bandUnits b.content j.band } else b) }

theorem bandDone_more {s : State} {m : Nat} {j : CompJob} {rest : List CompJob} (hj : AMap.get [] m s.cp.jobs = j :: rest)
    (hb : j.band + 1 < j.total) : bandDone s m = { writeBand s j with cp := { (writeBand s j).cp with
      jobs := AMap.put [] m ({ j with band := j.band + 1 } :: rest) (writeBand s j).cp.jobs } } := by
  unfold bandDone
  rw [hj]
  exact if_pos hb

/-- After the last band in time neither the late count nor its event is due. -/
theorem bandDone_last {s : State} {m : Nat} {j : CompJob} {rest : List CompJob} (hj : AMap.get [] m s.cp.jobs = j :: rest)
    (hb : j.total ≤ j.band + 1) (ht : s.tod < tickTime (j.tick + 1)) : bandDone s m =
      cleanSet (j.reads.foldl (fun t r => outRead t r.1 r.2 false)
        (j.fetched.foldl (fun t f => (t.wr (Obj.tilesFetched f.1) f.2.1).wr (Obj.tilesHidden f.1) f.2.2)
          (j.canvs.foldl (fun t v => t.inc (Obj.composed v)) { writeBand s j with cp := { (writeBand s j).cp with
            jobs := AMap.put [] m rest (writeBand s j).cp.jobs } }))) j.cset := by
  have hlate : decide (tickTime (j.tick + 1) ≤ s.tod) = false := decide_eq_false ht.not_ge
  unfold bandDone
  rw [hj]
  refine (if_neg hb.not_gt).trans ?_
  rw [hlate]
  rfl

/-! ### Layout runs (R261) -/

theorem layoutRun_starts {s : State} {c : Nat} {r : SpeakerRec}
    (hr : s.speech.find? (fun r => decide (r.1 = s.rd (Obj.lbConf c))) = some (s.rd (Obj.lbConf c), r))
    (hp : (AMap.get none (s.rd (Obj.lbProgram c)) s.cp.programs).isSome = true) (hx : r.speakerChanged = true ∨ r.setChanged = true)
    (hn : (s.cs c).run = none) (hf : (s.cs c).layoutFrame ≠ r.frame + 1) :
    layoutRun s c = (s.setCs c { s.cs c with run := some s.dspUnits, layoutFrame := r.frame + 1 }).inc (Obj.layoutRuns c) := by
  unfold layoutRun
  dsimp only
  rw [hr]
  exact if_pos ⟨hp, hx, by rw [hn]; rfl, hf⟩

theorem layoutLimit_over {s : State} {c start : Nat} (hr : (s.cs c).run = some start) (h : start + 6000000 ≤ s.dspUnits) :
    layoutLimit s c = (s.setCs c { s.cs c with run := none }).event Ev.layoutOverrun c 0 := by
  unfold layoutLimit
  dsimp only
  rw [hr]
  exact if_pos h

/-- A run's writes that are accepted are applied as one group; a device that is no protected active journals none of them. -/
theorem layoutEnd_applied {s t : State} {c start : Nat} {ws : List (Nat × Nat × Nat × Nat)} {b : Bool} (hr : (s.cs c).run = some start)
    (h : layoutGroup (s.setCs c { s.cs c with run := none }) c ws b = (0, t)) (hrole : s.role ≠ 1) : layoutEnd s c ws b = t := by
  unfold layoutEnd
  rw [hr]
  dsimp only
  rw [h]
  exact if_neg hrole

theorem layoutEnd_refused {s t : State} {c start a : Nat} {ws : List (Nat × Nat × Nat × Nat)} {b : Bool} (hr : (s.cs c).run = some start)
    (h : layoutGroup (s.setCs c { s.cs c with run := none }) c ws b = (a, t)) (ha : a ≠ 0) :
    layoutEnd s c ws b = ((s.setCs c { s.cs c with run := none }).inc (Obj.layoutRefused c)).event Ev.layoutCommitRefused c 0 := by
  obtain ⟨n, rfl⟩ := Nat.exists_eq_succ_of_ne_zero ha
  unfold layoutEnd
  rw [hr]
  dsimp only
  rw [h]
  rfl

end Sys2Proof.Machine

open Sys2Proof Sys2Proof.Machine

/-- Settles O45: each row's own equation, by the check, the job or the run it finds. -/
theorem compositionSteps : Obligations.composition_steps := by
  unfold Obligations.composition_steps
  intro s he
  refine ⟨fun k hk hnear => ⟨?start, fun _ => checksFor_pending, fun ht _ hc hd ho => check_of_due ht hc hd ho rfl⟩,
    fun i => ⟨rfl, opImageGood_missing, fun _ => opImageGood_poisoned, fun _ => opImageGood_intact⟩,
    fun m j rest hm hj hb => ⟨_, (next_if ⟨he, hm⟩).trans (congrArg Host.Outcome.next (bandDone_more hj hb)), rfl, ?bufs, rfl⟩,
    fun m j rest x hm hj hb ht hx => ?last,
    fun c r hc hr hp hx hn hf => (next_if ⟨he, hc⟩).trans (congrArg Host.Outcome.next (layoutRun_starts hr hp hx hn hf)),
    fun c start hc hr h => (next_if hc).trans (congrArg Host.Outcome.next (layoutLimit_over hr h)),
    fun c ws b start hs hr => ⟨fun t h hrole => ?applied, fun a t h ha => ?refused⟩⟩
  case start =>
    subst hk
    exact (next_if he).trans (congrArg Host.Outcome.next (checkStart_near hnear))
  case bufs => exact congrArg CsetRt.bufs (State.setCs_same s j.cset _)
  case last =>
    subst hx
    exact (next_if ⟨he, hm⟩).trans (congrArg Host.Outcome.next (bandDone_last hj hb ht))
  case applied => exact (next_if hs).trans (congrArg Host.Outcome.next (layoutEnd_applied hr h hrole))
  case refused => exact (next_if hs).trans (congrArg Host.Outcome.next (layoutEnd_refused hr h ha))
end

section
/-! PROOFS. Video encode (R269 to R280): a picture on its back-end, from its start over its rate-control calls and its bands to its end. -/

namespace Sys2Proof.Machine

/-! ### What the encoder keeps under operations of other units, and its back-ends' pictures -/

/-- A hold on a canvas buffer changes the sets and the memory given out, nothing of the encoder and no object. -/
@[simp] theorem holdBuf_en (s : State) (c b : Nat) (take : Bool) : (holdBuf s c b take).en = s.en := by
  cases take <;> rfl

@[simp] theorem holdBuf_dict (s : State) (c b : Nat) (take : Bool) : (holdBuf s c b take).dict = s.dict := by
  cases take <;> rfl

@[simp] theorem holdBuf_rd (s : State) (c b : Nat) (take : Bool) (k : Nat) : (holdBuf s c b take).rd k = s.rd k :=
  State.rd_congr (holdBuf_dict s c b take) k

theorem rx_of_en {s t : State} (h : t.en = s.en) (r : Nat) : t.rx r = s.rx r := by
  unfold State.rx
  rw [h]

@[simp] theorem State.push_en (s : State) (n len : Nat) (i : Item) : (s.push n len i).2.en = s.en := ((Told.refl s).push n len i).en

/-- Beside the queue a push touches interrupt state only, so no object. -/
@[simp] theorem State.updQ_dict (s : State) (n : Nat) (q : Queue) : (s.updQ n q).dict = s.dict := by
  unfold State.updQ State.raiseCause
  split
  · rw [withIrq_dict, State.setQ_dict]
  · dsimp only
    split
    · rw [withIrq_dict, State.setQ_dict]
    · rw [State.setQ_dict]

@[simp] theorem State.push_dict (s : State) (n len : Nat) (i : Item) : (s.push n len i).2.dict = s.dict := State.updQ_dict ..

@[simp] theorem AMap.find?_ins_same {α : Type} (k : Nat) (v : α) (m : List (Nat × α)) :
    (AMap.ins k v m).find? (fun e => decide (e.1 = k)) = some (k, v) := by
  induction m with
  | nil => simp [AMap.ins]
  | cons e r ih =>
    simp only [AMap.ins]
    split
    · simp
    · split
      · simp
      · rw [List.find?_cons_of_neg (by simpa using ‹¬ e.1 = k›), ih]

@[simp] theorem State.backJob_setBack_same (s : State) (b : Nat) (j : BeJob) : (s.setBack b j).backJob b = some j :=
  congrArg (Option.map Prod.snd) (AMap.find?_ins_same b j s.en.backs)

/-! ### The start of a picture (R269, R273) -/

/-- A free back-end takes the ready picture of the earliest tick, or drops it. -/
theorem backStart_takes {s : State} {b k r c z buf : Nat} {rest : List (Nat × Nat × Nat)} (hb : b < 16) (he : s.engines = true)
    (hon : bit (s.rd Obj.backEndsOnline) b = true) (hfree : s.en.backs.any (fun j => decide (j.1 = b)) = false)
    (hc : leastPair (backCands s) = some (k, r)) (ht : (s.rx r).todo = (c, z, buf) :: rest) : backStart s b =
      if (s.rx r).barred ∧ (pictureKind s r k (drainTo s r k)).1 ≠ .key then skipPicture s r k c buf (drainTo s r k) rest
      else codePicture s b r k c buf (drainTo s r k) (pictureKind s r k (drainTo s r k)).1 (pictureKind s r k (drainTo s r k)).2 := by
  unfold backStart
  rw [if_neg (by simp [hb, he, hon, hfree]), hc]
  dsimp only
  rw [ht]

/-- The temporal layer of a picture of a kind: a key or recovery picture begins the pattern anew (R272). -/
def startTid (s : State) (r : Nat) (kind : PicKind) : Nat :=
  if kind ≠ .inter then 0 else patternTid (temporalLayers s r) (s.rx r).pos

/-- The first deferral of a key or recovery picture counted. -/
def deferralCounted (s : State) (r : Nat) (late : Bool) : State :=
  if late && !(s.rx r).deferred then s.inc (Obj.rcKeyDeferred r) else s

theorem deferralCounted_backs (s : State) (r : Nat) (late : Bool) : (deferralCounted s r late).en.backs = s.en.backs := by
  unfold deferralCounted
  split
  · rw [State.inc_en]
  · rfl

theorem codePicture_backs (s : State) (b r k c buf f60 : Nat) (kind : PicKind) (late : Bool) :
    (codePicture s b r k c buf f60 kind late).en.backs =
      AMap.ins b (startedPicture s r k c buf f60 kind (refsFor s r (startTid s r kind) kind) (startTid s r kind)) s.en.backs :=
  congrArg (AMap.ins b _) (deferralCounted_backs s r late)

theorem codePicture_state (s : State) (b r k c buf f60 : Nat) (kind : PicKind) (late : Bool) :
    (codePicture s b r k c buf f60 kind late).rd (Obj.rctxState r) = 3 := State.rd_wr_same ..

theorem codePicture_f60 (s : State) (b r k c buf f60 : Nat) (kind : PicKind) (late : Bool) :
    ((codePicture s b r k c buf f60 kind late).rx r).f60 = f60 :=
  congrArg RctxRt.f60 (State.setRx_same (deferralCounted s r late) r
    (RctxRt.started { s.rx r with f60 := f60, drained := some k } kind late))

theorem skipPicture_facts (s : State) (r k c buf f60 : Nat) (rest : List (Nat × Nat × Nat)) :
    (skipPicture s r k c buf f60 rest).en.backs = s.en.backs ∧
    (skipPicture s r k c buf f60 rest).rd (Obj.rcNoPicture r) = satAdd (s.rd (Obj.rcNoPicture r)) 1 (maxOf (Obj.rcNoPicture r)) ∧
    ((skipPicture s r k c buf f60 rest).rx r).todo = rest := by
  unfold skipPicture
  refine ⟨?_, ?_, ?_⟩
  · rw [State.inc_en, holdBuf_en, State.setRx_en_backs]
  · rw [rd_inc_same, holdBuf_rd, State.setRx_rd]
  · rw [State.rx_inc, rx_of_en (holdBuf_en ..), State.setRx_same]

/-! ### Rate control (R277) -/

theorem rcStart_called {s : State} {b : Nat} {j : BeJob} (hj : s.backJob b = some j) (hc : j.call = .start) (target qp : Nat) :
    rcStart s b target qp = s.setBack b { j with target := target, qp := j.clampQp qp, call := .none } := by
  unfold rcStart
  rw [hj]
  exact if_pos hc

theorem rcBand_called {s : State} {b : Nat} {j : BeJob} (hj : s.backJob b = some j) (hc : j.call = .band) (qp : Nat) :
    rcBand s b qp = s.setBack b { j with qp := j.clampQp qp, call := .none } := by
  unfold rcBand
  rw [hj]
  exact if_pos hc

theorem rcLimit_called {s : State} {b : Nat} {j : BeJob} (hj : s.backJob b = some j) (hc : j.call ≠ .none) :
    rcLimit s b = ((s.inc (Obj.rcOverrun j.rctx)).eventRated Ev.rcOverrun j.rctx j.rctx 0).setBack b { j with
      target := if j.call = .start then s.rd (Obj.maxBitrate j.rctx) * rctxDivider s j.rctx / 60 else j.target
      qp := j.clampQp j.qp
      call := .none } := by
  unfold rcLimit
  rw [hj]
  exact if_neg hc

/-! ### Bands (R278 to R280) -/

theorem bandCode_codes {s : State} {b : Nat} {j : BeJob} (hj : s.backJob b = some j) (hc : j.call = .none) (ht : j.trellis = none)
    (ha : bandAnalysed s j = true) (hk : s.rd (Obj.rctxTier j.rctx) ≠ 1 ∨ j.kind = .key) (bb : BandBits) :
    bandCode s b bb = codeBand s b j bb := by
  unfold bandCode
  rw [hj]
  dsimp only
  rw [if_neg (by simp [hc, ht, ha]), if_neg (fun h => hk.elim (fun ht => ht h.1) h.2)]

/-- In the QUALITY tier a band of a picture that is no key picture is posted to the Maten cores (R279). -/
theorem bandCode_posts {s : State} {b : Nat} {j : BeJob} (hj : s.backJob b = some j) (hc : j.call = .none) (ht : j.trellis = none)
    (ha : bandAnalysed s j = true) (hq : s.rd (Obj.rctxTier j.rctx) = 1) (hk : j.kind ≠ .key) (bb : BandBits) :
    bandCode s b bb = (s.setBack b { j with trellis := some (s.mono, bb) }).post 2
      { engineDescriptor (trellisFlow j.rctx j.band) (s.rd Obj.trellisProgram) j.rctx j.band with
        arg0 := j.qp + 256 * (Config.rateMultiplier j.rctx j.qp % 0x1000000)
        arg1 := j.band } (.trellis j.rctx j.band) := by
  unfold bandCode
  rw [hj]
  dsimp only
  rw [if_neg (by simp [hc, ht, ha])]
  exact if_pos ⟨hq, hk⟩

/-- A band whose bits at the program's QP leave room for the least the later ones cost is coded once, at that QP. -/
theorem codeBand_fits {s : State} {b p : Nat} {j : BeJob} {x : Nat × Nat × Nat × Bool} {rest : List (Nat × Nat × Nat × Bool)}
    (hx : (bandsOf j.layers).drop j.band = x :: rest) (hs : j.spent < j.target) (hq : j.qp < j.qpHigh)
    (hr : 60 * (j.spent + p + (rest.map (bandMin j.kind)).sum) ≤ j.room60) (m n : Nat) :
    ∃ u, codeBand s b j ⟨p, m, n⟩ = ((s.count (Obj.rcRecodes j.rctx) 0).wr (Obj.rsLastQp j.rctx) j.qp).setBack b u ∧
      u.band = j.band + 1 ∧ u.spent = j.spent + p ∧ u.qp = j.qp ∧ u.minimal = j.minimal ∧
      u.call = if j.band + 1 < (bandsOf j.layers).length then .band else .none := by
  have hlater : (bandsOf j.layers).drop (j.band + 1) = rest := by rw [← List.tail_drop, hx, List.tail_cons]
  have hroom : ¬ j.room60 < 60 * (j.spent + p + (rest.map (bandMin j.kind)).sum) := hr.not_gt
  unfold codeBand
  simp only [hlater, hs.not_ge, hq.ne, hroom, if_false, decide_false, Bool.false_and, Bool.or_false, Bool.false_eq_true]
  exact ⟨_, rfl, rfl, rfl, rfl, rfl, rfl⟩

theorem trellisResult_arrives {s : State} {b start : Nat} {j : BeJob} {bb : BandBits} (hj : s.backJob b = some j)
    (ht : j.trellis = some (start, bb)) (ho : trellisOut s j.rctx j.band = false) (status : Nat) :
    trellisResult s b status = if status = 0 then codeBand s b j bb else trellisFallback s b j bb := by
  unfold trellisResult
  rw [hj]
  dsimp only
  rw [ht]
  dsimp only
  rw [ho]
  exact if_neg Bool.false_ne_true

theorem trellisExpiry_late {s : State} {b start : Nat} {j : BeJob} {bb : BandBits} (hj : s.backJob b = some j)
    (ht : j.trellis = some (start, bb)) (hl : start + j.wait * 1000 ≤ s.mono) : trellisExpiry s b =
      trellisFallback (({ s with disp := { s.disp with held := s.disp.held.filter (fun (h : HeldPost) =>
        decide (h.job ≠ Job.trellis j.rctx j.band)) } } : State).withdraw 2 j.rctx j.band) b j bb := by
  unfold trellisExpiry
  rw [hj]
  dsimp only
  rw [ht]
  exact if_pos hl

/-! ### The end of a picture (R271, R276) -/

/-- A finished picture leaves its back-end, its rendition goes on, and its access unit is in the bitstream queue. -/
def pictureQueued (s : State) (b : Nat) (j : BeJob) : State :=
  let t := s.setRx j.rctx (rctxAfter s j)
  (State.push { t with en := { t.en with backs := AMap.del b t.en.backs } } (bitQ j.rctx) (64 + ceilDiv (pictureBits s j) 8)
    (.stream (pictureItem s j))).2

/-- A finished picture counted, by its kind also. -/
def pictureCounted (s : State) (j : BeJob) : State :=
  match j.kind with
  | .key => (s.inc (Obj.rcPictures j.rctx)).inc (Obj.rcKeyPictures j.rctx)
  | .recovery => (s.inc (Obj.rcPictures j.rctx)).inc (Obj.rcRecoveries j.rctx)
  | .inter => s.inc (Obj.rcPictures j.rctx)

/-- The status of a rendition after a picture. -/
def pictureStatus (s : State) (r : Nat) (y : RctxRt) : State :=
  ((s.wr (Obj.rsFullness r) (y.f60 / 60)).wr (Obj.rsDebt r) (min y.debt 0xFFFFFFFF)).wr (Obj.rsLtrAcked r) ((ackedLong s r).getD 0xFFFFFFFF)

theorem pictureQueued_en (s : State) (b : Nat) (j : BeJob) : (pictureQueued s b j).en =
    { (s.setRx j.rctx (rctxAfter s j)).en with backs := AMap.del b s.en.backs } := State.push_en ..

theorem pictureQueued_rd (s : State) (b : Nat) (j : BeJob) (k : Nat) : (pictureQueued s b j).rd k = s.rd k :=
  State.rd_congr (State.push_dict ..) k

theorem pictureCounted_en (s : State) (j : BeJob) : (pictureCounted s j).en = s.en := by
  unfold pictureCounted
  split <;> simp only [State.inc_en]

theorem pictureCounted_rd (s : State) (j : BeJob) : (pictureCounted s j).rd (Obj.rcPictures j.rctx) =
    satAdd (s.rd (Obj.rcPictures j.rctx)) 1 (maxOf (Obj.rcPictures j.rctx)) := by
  unfold pictureCounted
  split
  · rw [rd_inc_other _ (by simp [Obj.rcPictures, Obj.rcKeyPictures, key]), rd_inc_same]
  · rw [rd_inc_other _ (by simp [Obj.rcPictures, Obj.rcRecoveries, key]), rd_inc_same]
  · rw [rd_inc_same]

theorem pictureStatus_facts (s : State) (r : Nat) (y : RctxRt) : (pictureStatus s r y).en = s.en ∧
    (pictureStatus s r y).rd (Obj.rsFullness r) = y.f60 / 60 ∧
    (pictureStatus s r y).rd (Obj.rcPictures r) = s.rd (Obj.rcPictures r) := by
  unfold pictureStatus
  refine ⟨rfl, ?_, ?_⟩ <;>
    simp [State.rd_wr_other, Obj.rsFullness, Obj.rsDebt, Obj.rsLtrAcked, Obj.rcPictures, key]

theorem rctxQuiesce_running {s : State} {r : Nat} (h : (s.rx r).stage = .running) : rctxQuiesce s r = s :=
  if_neg (by simp [h])

/-- The state that the end of a running rendition's picture leaves. -/
def pictureEnded (s : State) (b : Nat) (j : BeJob) : State :=
  holdBuf (pictureStatus (pictureCounted (pictureQueued s b j) j) j.rctx (rctxAfter s j)) j.cset j.buf false

theorem pictureEnded_en (s : State) (b : Nat) (j : BeJob) : (pictureEnded s b j).en =
    { (s.setRx j.rctx (rctxAfter s j)).en with backs := AMap.del b s.en.backs } := by
  obtain ⟨hen, -, -⟩ := pictureStatus_facts (pictureCounted (pictureQueued s b j) j) j.rctx (rctxAfter s j)
  exact (holdBuf_en ..).trans (hen.trans ((pictureCounted_en ..).trans (pictureQueued_en ..)))

theorem pictureEnded_rx (s : State) (b : Nat) (j : BeJob) : (pictureEnded s b j).rx j.rctx = rctxAfter s j := by
  unfold State.rx
  rw [pictureEnded_en]
  exact State.setRx_same ..

theorem pictureEnded_rd (s : State) (b : Nat) (j : BeJob) :
    (pictureEnded s b j).rd (Obj.rcPictures j.rctx) = satAdd (s.rd (Obj.rcPictures j.rctx)) 1 (maxOf (Obj.rcPictures j.rctx)) ∧
    (pictureEnded s b j).rd (Obj.rsFullness j.rctx) = (rctxAfter s j).f60 / 60 := by
  obtain ⟨-, hfull, hpics⟩ := pictureStatus_facts (pictureCounted (pictureQueued s b j) j) j.rctx (rctxAfter s j)
  unfold pictureEnded
  rw [holdBuf_rd, holdBuf_rd, hfull, hpics, pictureCounted_rd, pictureQueued_rd]
  exact ⟨rfl, rfl⟩

theorem backDone_ends {s : State} {b : Nat} {j : BeJob} (hj : s.backJob b = some j) (hb : j.band = (bandsOf j.layers).length)
    (ht : j.started + pictureNs j ≤ s.mono) (hr : (s.rx j.rctx).stage = .running) : backDone s b = pictureEnded s b j := by
  have hstage : ((pictureEnded s b j).rx j.rctx).stage = .running := by rw [pictureEnded_rx]; exact hr
  have hgo : ¬ (j.band ≠ (bandsOf j.layers).length ∨ s.mono < j.started + pictureNs j) := by omega
  rw [← rctxQuiesce_running hstage]
  unfold backDone
  rw [hj]
  refine (if_neg hgo).trans ?_
  unfold pictureEnded pictureCounted
  cases j.kind <;> rfl

theorem exec_renditionPictureDone {s : State} {b : Nat} {j : BeJob} (hj : s.backJob b = some j) :
    exec (.renditionPictureDone b) s = .next (takeItems (backDone s b) j.rctx) := by
  show Host.Outcome.next (pictureDoneAll s b) = _
  unfold pictureDoneAll
  rw [hj]

end Sys2Proof.Machine

open Sys2Proof Sys2Proof.Machine

/-- Settles O46: a start goes by whether the picture may be coded, a band by its tier and its bits, the other rows by their own equation. -/
theorem encodePictures : Obligations.encode_pictures := by
  unfold Obligations.encode_pictures
  intro s
  refine ⟨fun b k r c z buf rest hb he hon hfree hc ht hgo => ?start, fun b k r c z buf rest hb he hon hfree hc ht hbar hkey => ?skip,
    fun b j target qp hj hc => congrArg Host.Outcome.next (rcStart_called hj hc target qp),
    fun b j qp hj hc => congrArg Host.Outcome.next (rcBand_called hj hc qp),
    fun b j hj hc => congrArg Host.Outcome.next (rcLimit_called hj hc),
    fun b j p m n x rest hj hc ht ha hk hx hs hq hr => ?band,
    fun b j p m n hj hc ht ha hq hk => congrArg Host.Outcome.next (bandCode_posts hj hc ht ha hq hk ⟨p, m, n⟩),
    fun b j start bb hj ht ho => ⟨congrArg Host.Outcome.next (trellisResult_arrives hj ht ho 0),
      fun n hn => congrArg Host.Outcome.next ((trellisResult_arrives hj ht ho n).trans (if_neg hn))⟩,
    fun b j start bb hj ht hl => congrArg Host.Outcome.next (trellisExpiry_late hj ht hl),
    fun b j hj hb ht hr => ?done⟩
  case start =>
    have hcode : ¬ ((s.rx r).barred = true ∧ (pictureKind s r k (drainTo s r k)).1 ≠ .key) := fun h =>
      hgo.elim (fun hb => Bool.false_ne_true (hb.symm.trans h.1)) h.2
    exact ⟨_, _, congrArg Host.Outcome.next ((backStart_takes hb he hon hfree hc ht).trans (if_neg hcode)), codePicture_backs ..,
      codePicture_state .., rfl, rfl, rfl, rfl, rfl, rfl, rfl, rfl, rfl, rfl, codePicture_f60 ..⟩
  case skip =>
    exact ⟨_, congrArg Host.Outcome.next ((backStart_takes hb he hon hfree hc ht).trans (if_pos ⟨hbar, hkey⟩)), skipPicture_facts ..⟩
  case band =>
    obtain ⟨u, hcode, hband, hspent, hqp, hmin, hcall⟩ := codeBand_fits (s := s) (b := b) hx hs hq hr m n
    have hlen : (bandsOf j.layers).length - j.band = rest.length + 1 := by rw [← List.length_drop, hx, List.length_cons]
    refine ⟨_, u, congrArg Host.Outcome.next ((bandCode_codes hj hc ht ha hk ⟨p, m, n⟩).trans hcode), State.backJob_setBack_same .., hband,
      hspent, hqp, hmin, fun hn => ?_, fun hn => ?_, State.rd_wr_same ..⟩
    · have := List.length_pos_iff.mpr hn
      exact hcall.trans (if_pos (by omega))
    · subst hn
      exact hcall.trans (if_neg (by rw [List.length_nil] at hlen; omega))
  case done =>
    obtain ⟨hpics, hfull⟩ := pictureEnded_rd s b j
    refine ⟨pictureEnded s b j, (exec_renditionPictureDone hj).trans ?_, ?_, ?_, ?_, ?_, ?_, hpics, hfull⟩
    · rw [backDone_ends hj hb ht hr]
    · rw [pictureEnded_en]
    all_goals rw [pictureEnded_rx]; rfl
end

section
/-! PROOFS. Video encode (R265, R266, R273, R274, R282): analysis passes, the key and LTR timers, units that leave service. -/

namespace Sys2Proof.Machine

/-! ### Analysis passes (R265) -/

/-- A pass's next band marked as analysed in the buffer it reads. -/
def bandMarked (s : State) (p : Pass) : State :=
  s.setCs p.cset { s.cs p.cset with bufs := (s.cs p.cset).bufs.map (fun (b : CanvBuf) =>
    if b.id = p.buf then { b with analysed := p.band + 1 } else b) }

/-- The decisions of a pass's next band in the newest record of its context. -/
def bandRecorded (s : State) (a : Nat) (p : Pass) : State :=
  match (s.ax a).recs with
  | [] => s
  | cur :: older => s.setAx a { s.ax a with recs := analyseBand a older.head? p.band cur :: older }

theorem bandRecorded_frame (s : State) (a : Nat) (p : Pass) : (bandRecorded s a p).en.passes = s.en.passes ∧
    (bandRecorded s a p).cp = s.cp ∧ (bandRecorded s a p).dict = s.dict := by
  unfold bandRecorded
  split <;> exact ⟨rfl, rfl, rfl⟩

theorem bandRecorded_recs {s : State} {a : Nat} {p : Pass} {cur : PassRec} {older : List PassRec} (h : (s.ax a).recs = cur :: older) :
    ((bandRecorded s a p).ax a).recs = analyseBand a older.head? p.band cur :: older := by
  unfold bandRecorded
  rw [h]
  exact congrArg ActxRt.recs (State.setAx_same ..)

/-- A context that is at a pass begins no other. -/
theorem startPass_busy {s : State} {a : Nat} {p : Pass} (hp : s.en.passes.find? (fun q => decide (q.1 = a)) = some (a, p)) :
    startPass s a = s :=
  if_pos (List.any_eq_true.mpr ⟨_, List.mem_of_find?_eq_some hp, List.find?_some hp⟩)

/-- A band that the composer has not written holds its pass up. -/
theorem analysisBand_waits {s : State} {f k a : Nat} {p : Pass} (hc : leastPair (passCands s f) = some (k, a))
    (hp : s.en.passes.find? (fun q => decide (q.1 = a)) = some (a, p))
    (hw : ((s.cs p.cset).bufs.find? (fun b => decide (b.id = p.buf))).any (fun b => decide (p.band < b.bands)) = false) :
    analysisBand s f = s := by
  unfold analysisBand
  rw [hc]
  dsimp only
  rw [startPass_busy hp, hp]
  dsimp only
  rw [hw]
  rfl

/-- A written band that is neither its pass's first nor its last. -/
theorem analysisBand_goes {s : State} {f k a : Nat} {p : Pass} (hc : leastPair (passCands s f) = some (k, a))
    (hp : s.en.passes.find? (fun q => decide (q.1 = a)) = some (a, p)) (h0 : 0 < p.band) (hb : p.band + 1 < p.total)
    (hw : ((s.cs p.cset).bufs.find? (fun b => decide (b.id = p.buf))).any (fun b => decide (p.band < b.bands)) = true) :
    analysisBand s f = { bandRecorded (bandMarked s p) a p with en := { (bandRecorded (bandMarked s p) a p).en with
      passes := AMap.ins a { p with band := p.band + 1 } (bandRecorded (bandMarked s p) a p).en.passes } } := by
  unfold analysisBand
  rw [hc]
  dsimp only
  rw [startPass_busy hp, hp]
  dsimp only
  rw [hw, if_neg h0.ne', if_pos hb]
  rfl

theorem exec_analysisBandDone {s : State} {f : Nat} (hf : f < 6) (he : s.engines = true) (hon : bit (s.rd Obj.frontEndsOnline) f = true) :
    exec (.analysisBandDone f) s = .next (analysisBand s f) := next_if ⟨he, hf, hon⟩

/-! ### The key and LTR timers (R273, R274) -/

/-- A key request other than a PLI to a rendition that runs. -/
theorem raiseKey_running {s : State} {r : Nat} (h : (s.rx r).stage = .running) :
    raiseKey s r false = (s.inc (Obj.rcKeyRequests r)).setRx r { s.rx r with askKey := true } := if_pos (.inr h)

theorem periodicKey_due {s : State} {r k : Nat} (hk : (s.rx r).lastKey = some k) (hp : s.rd (Obj.periodicKey r) ≠ 0)
    (hr : (s.rx r).stage = .running) (hn : (s.rx r).periodic = false) (ht : k + s.rd (Obj.periodicKey r) * 1000000 ≤ s.tod) :
    periodicKey s r = ((s.setRx r { s.rx r with periodic := true }).inc (Obj.rcKeyRequests r)).setRx r
      { s.rx r with periodic := true, askKey := true } := by
  have hx : (s.setRx r { s.rx r with periodic := true }).rx r = { s.rx r with periodic := true } := State.setRx_same ..
  have hraise := raiseKey_running ((congrArg RctxRt.stage hx).trans hr)
  rw [hx] at hraise
  unfold periodicKey
  dsimp only
  split
  next t hl =>
    obtain rfl : t = k := Option.some.inj (hl.symm.trans hk)
    exact (if_pos ⟨hp, hr, by simp [hn], ht⟩).trans hraise
  next hl => exact absurd (hl.symm.trans hk) nofun

theorem ltrExpiry_due {s : State} {r : Nat} (hr : (s.rx r).stage = .running) (hm : s.rd (Obj.recovery r) = 1)
    (ht : (s.rx r).lastLtr + s.rd (Obj.ltrInterval r) * 1000000 ≤ s.mono) :
    ltrExpiry s r = s.setRx r { s.rx r with ltrNext := true, lastLtr := s.mono } := if_pos ⟨hr, hm, ht⟩

/-! ### Units that leave service (R282) -/

/-- The event that encoding is unavailable, raised with the last unit gone, writes no unit's status and nothing of the encoder. -/
theorem unavailable_frame (s : State) (p : Prop) [Decidable p] (a : Nat) {k : Nat} (hk : k / 0x100000000 ≠ 0xE010) :
    (if p then s.event Ev.encodeUnavailable a 0 else s).rd k = s.rd k ∧ (if p then s.event Ev.encodeUnavailable a 0 else s).en = s.en := by
  split
  · exact ⟨State.event_rd _ _ _ _ _ hk, State.event_en ..⟩
  · exact ⟨rfl, rfl⟩

/-- The contexts of a retired front-end are bound to none. -/
theorem unbound_rd (l : List Nat) (n : Nat) (s : State) :
    (l.foldl (fun t a => if t.rd (Obj.actxFrontEnd a) = n then t.wr (Obj.actxFrontEnd a) 255 else t) s).rd Obj.frontEndsOnline =
      s.rd Obj.frontEndsOnline := by
  refine foldl_field (fun t => t.rd Obj.frontEndsOnline) _ (fun t a => ?_) l s
  split
  · exact State.rd_wr_other _ _ (by unfold Obj.frontEndsOnline Obj.actxFrontEnd key; omega)
  · rfl

theorem encodeRetire_front {s : State} {n : Nat} (hn : n < 6) (hon : bit (s.rd Obj.frontEndsOnline) n = true) :
    (encodeRetire s true n).rd Obj.frontEndsOnline = clrBit (s.rd Obj.frontEndsOnline) n := by
  unfold encodeRetire
  rw [if_pos rfl, if_pos ⟨hn, hon⟩, (unavailable_frame _ _ 0 (by decide)).1, unbound_rd,
    State.event_rd _ _ _ _ _ (by decide), State.rd_wr_same]

/-- A back-end out of service, and encoding unavailable with the last one gone. -/
def backGone (s : State) (n : Nat) : State :=
  let v := (s.wr Obj.backEndsOnline (clrBit (s.rd Obj.backEndsOnline) n)).event Ev.encodeBeRetired n 0
  if v.rd Obj.backEndsOnline = 0 then v.event Ev.encodeUnavailable 1 0 else v

theorem backGone_facts (s : State) (n : Nat) :
    (backGone s n).rd Obj.backEndsOnline = clrBit (s.rd Obj.backEndsOnline) n ∧ (backGone s n).en = s.en := by
  obtain ⟨hrd, hen⟩ := unavailable_frame ((s.wr Obj.backEndsOnline (clrBit (s.rd Obj.backEndsOnline) n)).event Ev.encodeBeRetired n 0)
    (((s.wr Obj.backEndsOnline (clrBit (s.rd Obj.backEndsOnline) n)).event Ev.encodeBeRetired n 0).rd Obj.backEndsOnline = 0) 1
    (k := Obj.backEndsOnline) (by decide)
  refine ⟨hrd.trans ?_, hen.trans ?_⟩
  · rw [State.event_rd _ _ _ _ _ (by decide), State.rd_wr_same]
  · rw [State.event_en, State.wr_en]

/-- A back-end's picture given up: a key or recovery picture is asked for again. -/
def pictureGivenUp (s : State) (n : Nat) (j : BeJob) : State :=
  let t := s.setRx j.rctx { s.rx j.rctx with
    askKey := (s.rx j.rctx).askKey || decide (j.kind = PicKind.key)
    askPli := (s.rx j.rctx).askPli || decide (j.kind = PicKind.recovery) }
  { t with en := { t.en with backs := AMap.del n t.en.backs } }

theorem pictureGivenUp_rx (s : State) (n : Nat) (j : BeJob) : (pictureGivenUp s n j).rx j.rctx = { s.rx j.rctx with
    askKey := (s.rx j.rctx).askKey || decide (j.kind = PicKind.key)
    askPli := (s.rx j.rctx).askPli || decide (j.kind = PicKind.recovery) } := State.setRx_same s j.rctx _

/-- What a retired back-end leaves of the picture it coded, whose trellis item is withdrawn. -/
def backLeft (s : State) (n : Nat) : State :=
  match s.backJob n with
  | some j => if j.trellis.isSome then (pictureGivenUp s n j).withdraw 2 j.rctx j.band else pictureGivenUp s n j
  | none => s

theorem backLeft_idle {s : State} {n : Nat} (hj : s.backJob n = none) : backLeft s n = s := by
  unfold backLeft
  rw [hj]

theorem backLeft_coding {s : State} {n : Nat} {j : BeJob} (hj : s.backJob n = some j) (ht : j.trellis = none) :
    backLeft s n = pictureGivenUp s n j := by
  unfold backLeft
  rw [hj]
  exact if_neg (by simp [ht])

theorem encodeRetire_back {s : State} {n : Nat} (hn : n < 16) (hon : bit (s.rd Obj.backEndsOnline) n = true) :
    encodeRetire s false n = backGone (backLeft s n) n := (if_neg Bool.false_ne_true).trans (if_pos ⟨hn, hon⟩)

theorem exec_encodeUnitEccError {s : State} (front : Bool) (n : Nat) (he : s.engines = true) :
    exec (.encodeUnitEccError front n) s = .next (encodeRetire s front n) := next_if he

end Sys2Proof.Machine

open Sys2Proof Sys2Proof.Machine

/-- Settles O47: a pass goes by whether its next band is written, a retired back-end by the picture on it, the other rows by their own
equation. -/
theorem encodePasses : Obligations.encode_passes := by
  unfold Obligations.encode_passes
  intro s
  refine ⟨fun f k a p hf he hon hc hp h0 hb hw => ?band,
    fun f k a p hf he hon hc hp hw => (exec_analysisBandDone hf he hon).trans (congrArg Host.Outcome.next (analysisBand_waits hc hp hw)),
    fun r k hr hk hp hs hn ht => ?key,
    fun r hr hs hm ht => (next_if hr).trans (congrArg Host.Outcome.next (ltrExpiry_due hs hm ht)),
    fun n hn he hon => ⟨_, exec_encodeUnitEccError true n he, encodeRetire_front hn hon⟩,
    fun n hn he hon hj => ⟨_, exec_encodeUnitEccError false n he, ?idle⟩,
    fun n j hn he hon hj ht => ⟨_, exec_encodeUnitEccError false n he, ?coding⟩⟩
  case band =>
    obtain ⟨hpasses, hcp, hdict⟩ := bandRecorded_frame (bandMarked s p) a p
    refine ⟨_, (exec_analysisBandDone hf he hon).trans (congrArg Host.Outcome.next (analysisBand_goes hc hp h0 hb hw)),
      congrArg (AMap.ins a _) hpasses, ?_, fun cur older hr => bandRecorded_recs (s := bandMarked s p) hr, hdict⟩
    show (AMap.get _ _ (bandRecorded (bandMarked s p) a p).cp.sets).bufs = _
    rw [hcp]
    exact congrArg CsetRt.bufs (State.setCs_same s p.cset _)
  case key =>
    refine ⟨_, (next_if hr).trans (congrArg Host.Outcome.next (periodicKey_due hk hp hs hn ht)), ?_, ?_, ?_⟩
    · rw [State.setRx_same]
    · rw [State.setRx_same]
    · rw [State.setRx_rd, rd_inc_same, State.setRx_rd]
  case idle =>
    rw [encodeRetire_back hn hon, backLeft_idle hj]
    exact backGone_facts s n
  case coding =>
    obtain ⟨honline, hen⟩ := backGone_facts (pictureGivenUp s n j) n
    rw [encodeRetire_back hn hon, backLeft_coding hj ht]
    refine ⟨honline, congrArg Encoder.backs hen, fun hk => ?_, fun hk => ?_⟩
    all_goals rw [rx_of_en hen, pictureGivenUp_rx, hk]; simp
end

section
/-! PROOFS. Adaptation, forwarding and shaping (spec/12): the calls and ticks of the programs, the wait for a switch's key picture, the
forwarded packets, and the release and ageing of the shapers' heads. -/

namespace Sys2Proof.Machine

/-! ### The feeds -/

/-- Wrapping every entry of a map commutes with setting one. -/
theorem AMap.map_ins {α β : Type} (g : α → β) (k : Nat) (v : α) (m : List (Nat × α)) :
    (AMap.ins k v m).map (fun e => (e.1, g e.2)) = AMap.ins k (g v) (m.map (fun e => (e.1, g e.2))) := by
  induction m with
  | nil => rfl
  | cons e r ih =>
    simp only [AMap.ins, List.map_cons]
    split
    · rfl
    · split
      · rfl
      · rw [List.map_cons, ih]

@[simp] theorem State.feed_setFeed_same (s : State) (l f : Nat) (x : FeedRt) : (s.setFeed l f x).feed l f = x := by
  unfold State.feed State.setFeed
  dsimp only
  rw [AMap.map_ins, AMap.get_ins_same, Option.getD_some]

/-! ### Calls of a program (R292) -/

theorem exec_adaptFeedbackCall {s : State} {l f : Nat} (hf : f < 4) (hx : s.hasFeed l f = true) (hm : s.rd (Obj.feedMode f l) = 1)
    (hb : (s.feed l f).fb = true) (hn : ((s.feed l f).calls.filter (fun t => decide (s.mono < t + 1000000000))).length < 20) :
    exec (.adaptFeedbackCall l f) s = .next (s.setFeed l f { s.feed l f with
      fb := false
      calls := (s.feed l f).calls.filter (fun t => decide (s.mono < t + 1000000000)) ++ [s.mono] }) :=
  (next_if hf).trans (next_if ⟨hx, hm, hb, hn⟩)

/-- A tick that is due, begun: the backlog looked at, the next tick 100 ms on. -/
def tickBegun (s : State) (l f : Nat) : State :=
  (backlogCheck s (s.feed l f).nextTick).setFeed l f { s.feed l f with nextTick := (s.feed l f).nextTick + 100 * ms }

/-- A tick that is due goes by the program: none loaded, Pyward's program 0, or another. -/
theorem exec_adaptTick {s : State} {l f : Nat} (a sel probe : Nat) (hf : f < 4) (hx : s.hasFeed l f = true)
    (hm : s.rd (Obj.feedMode f l) = 1) (ht : (s.feed l f).nextTick ≤ s.mono) : exec (.adaptTick l f a sel probe) s = .next
      (if !adaptLoaded s (s.rd (Obj.feedProgram f l)) then tickBegun s l f
      else if s.rd (Obj.feedProgram f l) = 0 ∧ s.ad.shipped then applyTick (tickBegun s l f) l f (programZero (tickBegun s l f) l f)
      else applyTick (tickBegun s l f) l f ⟨a, if sel < 8 then some sel else none, probe, (tickBegun s l f).feed l f⟩) :=
  (next_if hf).trans (congrArg Host.Outcome.next (if_neg (not_not_intro ⟨hx, hm, ht⟩)))

section
variable {s : State} {l f : Nat} (a sel probe : Nat) (hf : f < 4) (hx : s.hasFeed l f = true) (hm : s.rd (Obj.feedMode f l) = 1)
  (ht : (s.feed l f).nextTick ≤ s.mono)
include hf hx hm ht

theorem exec_adaptTick_unloaded (hl : adaptLoaded s (s.rd (Obj.feedProgram f l)) = false) :
    exec (.adaptTick l f a sel probe) s = .next (tickBegun s l f) :=
  (exec_adaptTick a sel probe hf hx hm ht).trans (next_if (by rw [hl]; rfl))

theorem exec_adaptTick_shipped (hl : adaptLoaded s (s.rd (Obj.feedProgram f l)) = true) (hp : s.rd (Obj.feedProgram f l) = 0)
    (hs : s.ad.shipped = true) : exec (.adaptTick l f a sel probe) s =
      .next (applyTick (tickBegun s l f) l f (programZero (tickBegun s l f) l f)) :=
  (exec_adaptTick a sel probe hf hx hm ht).trans
    (congrArg Host.Outcome.next ((if_neg (by rw [hl]; exact Bool.false_ne_true)).trans (if_pos ⟨hp, hs⟩)))

theorem exec_adaptTick_loaded (hl : adaptLoaded s (s.rd (Obj.feedProgram f l)) = true)
    (hp : s.rd (Obj.feedProgram f l) ≠ 0 ∨ s.ad.shipped = false) : exec (.adaptTick l f a sel probe) s =
      .next (applyTick (tickBegun s l f) l f ⟨a, if sel < 8 then some sel else none, probe, (tickBegun s l f).feed l f⟩) := by
  have hzero : ¬ (s.rd (Obj.feedProgram f l) = 0 ∧ s.ad.shipped = true) := fun ⟨h0, h1⟩ =>
    hp.elim (fun h => h h0) (fun h => Bool.false_ne_true (h.symm.trans h1))
  exact (exec_adaptTick a sel probe hf hx hm ht).trans
    (congrArg Host.Outcome.next ((if_neg (by rw [hl]; exact Bool.false_ne_true)).trans (if_neg hzero)))
end

theorem probePadding_none {s : State} {l f : Nat} (h : (s.feed l f).probe = 0) : probePadding s l f = s := if_pos (.inl h)

/-- Without a REMB, A is clamped to MinRate and MaxRate alone. -/
theorem clampA_noRemb {s : State} {l : Nat} (a : Nat) (h : (s.leg l).remb = none) :
    clampA s l a = max (s.rd (Obj.minRate l)) (min (s.rd (Obj.maxRate l)) a) := by
  unfold clampA
  rw [h]

/-- An answer of the lead feed that neither selects nor probes sets the leg's estimate. -/
theorem applyTick_estimate {s : State} {l f : Nat} (a : Nat) (x : FeedRt) (h : leadFeed s l = some f) :
    (applyTick s l f ⟨a, none, 0, x⟩).rd (Obj.estimate l) = clampA s l a := by
  unfold applyTick
  dsimp only
  rw [probePadding_none (by rw [State.feed_setFeed_same]), State.setFeed_rd, if_pos h, State.rd_wr_same]

/-- A call of a TICK that is abandoned. -/
theorem exec_adaptCallLimit_tick {s : State} {l f : Nat} (hf : f < 4) (hx : s.hasFeed l f = true) (hm : s.rd (Obj.feedMode f l) = 1)
    (ht : (s.feed l f).nextTick ≤ s.mono) : exec (.adaptCallLimit l f true) s =
      .next (((s.setFeed l f { s.feed l f with nextTick := (s.feed l f).nextTick + 100 * ms }).inc
        (Obj.feedAdaptOverrun f l)).eventRated Ev.adaptOverrun l l 0) :=
  (next_if hf).trans (congrArg Host.Outcome.next (if_neg (by simp [hx, hm, ht])))

/-- A call of feedback that is abandoned counts among the calls of the second. -/
theorem exec_adaptCallLimit_feedback {s : State} {l f : Nat} (hf : f < 4) (hx : s.hasFeed l f = true)
    (hm : s.rd (Obj.feedMode f l) = 1) (hb : (s.feed l f).fb = true)
    (hn : ((s.feed l f).calls.filter (fun t => decide (s.mono < t + 1000000000))).length < 20) : exec (.adaptCallLimit l f false) s =
      .next (((s.setFeed l f { s.feed l f with
        fb := false
        calls := (s.feed l f).calls.filter (fun t => decide (s.mono < t + 1000000000)) ++ [s.mono] }).inc
          (Obj.feedAdaptOverrun f l)).eventRated Ev.adaptOverrun l l 0) :=
  (next_if hf).trans (congrArg Host.Outcome.next (if_neg (by simp [hx, hm, hb, hn])))

/-! ### A switch's wait (R289) -/

theorem exec_switchKeyWaitExpiry {s : State} {l f : Nat} (hf : f < 4) (hx : s.hasFeed l f = true) (hp : s.rd (Obj.feedPending f l) < 8)
    (ht : (s.feed l f).lastAsk + 500 * ms ≤ s.mono) : exec (.switchKeyWaitExpiry l f) s =
      .next (askStream ((s.inc (Obj.feedKeyWait f l)).setFeed l f { s.feed l f with lastAsk := s.mono })
        (candStream (candEntry s l f (s.rd (Obj.feedPending f l)))) false) :=
  (next_if hf).trans (next_if ⟨hx, hp, ht⟩)

/-! ### Forwarding (R291, R344) -/

/-- The oldest waiting packet taken, its timestamp the newest one seen of its stream. -/
def inboxTaken (s : State) (w : Fwd) (r : List Fwd) : State :=
  { s with ad := { s.ad with
    inbox := r
    seen := AMap.put [] (w.leg * 8 + w.entry) ((w.pkt.ts :: (AMap.get [] (w.leg * 8 + w.entry) s.ad.seen).filter
      (fun t => decide (t ≠ w.pkt.ts))).take 16) s.ad.seen } }

/-- The packet taken, and copied to the devices that subscribe to its stream. -/
def inboxCopied (s : State) (w : Fwd) (r : List Fwd) : State :=
  mediaCopies (inboxTaken s w r) 1 w.leg w.entry (.fromLeg w.leg w.entry w.pkt)

theorem mediaCopies_unsubscribed {s : State} (kind id entry : Nat) (m : MediaPkt) (h : s.fb.subs = []) :
    mediaCopies s kind id entry m = s := by
  unfold mediaCopies
  rw [h]
  rfl

theorem inboxCopied_unsubscribed {s : State} (w : Fwd) (r : List Fwd) (h : s.fb.subs = []) :
    inboxCopied s w r = inboxTaken s w r := mediaCopies_unsubscribed _ _ _ _ h

theorem forwardAll_noFeeds {s : State} (m e : Nat) (p : Rtp) (start : Bool) (arrival : Nat) (h : s.ad.feeds = []) :
    forwardAll s m e p start arrival = s := by
  unfold forwardAll
  rw [h]
  rfl

theorem exec_forwardPacket {s : State} {w : Fwd} {r : List Fwd} (he : s.engines = true) (hi : s.ad.inbox = w :: r) :
    exec .forwardPacket s = .next (forwardAll (inboxCopied s w r) w.leg w.entry w.pkt
      (!(AMap.get [] (w.leg * 8 + w.entry) s.ad.seen).contains w.pkt.ts) w.at_) := by
  refine (next_if he).trans (congrArg Host.Outcome.next ?_)
  unfold forwardPacket
  rw [hi]
  rfl

/-! ### Shapers (R296, R300) -/

/-- The head of an egress queue is read off the legs and the queues. -/
theorem State.egressHead_congr {s t : State} (hle : t.le = s.le) (hq : t.queues = s.queues) (l : Nat) :
    t.egressHead l = s.egressHead l := by
  unfold State.egressHead State.leg State.q
  rw [hle, hq]

/-- The frame in which a leg's head leaves: with the epoch of the twin where the tag is enabled (R128). -/
def releasedFrame (s : State) (port l : Nat) (p : OutPkt) : Out :=
  .frame port l (if s.rd Obj.epochTagEnable = 1 then some (s.rd Obj.twEpoch % 2 ^ 24) else none) p

theorem releaseHead_out {s : State} {l q at_ : Nat} {p : OutPkt} (port g : Nat) (hq : (s.leg l).egressQ = some q)
    (hh : s.egressHead l = some (p, at_)) : (releaseHead s port l g).out.head? = some (releasedFrame s port l p) := by
  unfold releaseHead
  rw [hq, hh]
  rfl

/-- The deficits of the legs among which a port chose. -/
def deficitsStored (s : State) (ds : List (Nat × Nat)) : State :=
  ds.foldl (fun t d => t.setShaper d.1 { t.shaper d.1 with deficit := d.2 }) s

/-- The choice of leg `l` in group `g` by the child `k` of the port noted: the legs' and children's deficits, the port's and the
group's turn. -/
def choiceNoted (s : State) (port l g : Nat) (legDs kidDs : List (Nat × Nat)) (k : Nat) : State :=
  let s1 := deficitsStored s legDs
  let turns := AMap.ins port k s1.ad.turns
  { s1 with ad := { s1.ad with
    groupDeficit := kidDs.foldl (fun m d => if d.1 < 64 then AMap.put 0 d.1 d.2 m else m) s1.ad.groupDeficit
    turns := if g < 64 then AMap.ins (2 + g) l turns else turns } }

/-- A choice noted is the adaptation unit's own: legs, queues and objects are as before. -/
theorem choiceNoted_frame (s : State) (port l g : Nat) (legDs kidDs : List (Nat × Nat)) (k : Nat) :
    (choiceNoted s port l g legDs kidDs k).le = s.le ∧ (choiceNoted s port l g legDs kidDs k).queues = s.queues ∧
    (choiceNoted s port l g legDs kidDs k).dict = s.dict := by
  unfold choiceNoted deficitsStored
  exact ⟨foldl_field State.le _ (fun _ _ => State.setShaper_le ..) _ _,
    foldl_field State.queues _ (fun _ _ => State.setShaper_queues ..) _ _,
    foldl_field State.dict _ (fun _ _ => State.setShaper_dict ..) _ _⟩

theorem shaperRelease_none {s : State} {port : Nat} (h : choosePort (dropDeficits (markHeld s port) port) port = none) :
    shaperRelease s port = dropDeficits (markHeld s port) port := by
  unfold shaperRelease
  dsimp only
  rw [h]

theorem shaperRelease_some {s : State} {port l g k : Nat} {legDs kidDs : List (Nat × Nat)}
    (h : choosePort (dropDeficits (markHeld s port) port) port = some (l, g, legDs, kidDs, k)) :
    shaperRelease s port = releaseHead (choiceNoted (dropDeficits (markHeld s port) port) port l g legDs kidDs k) port l g := by
  unfold shaperRelease
  dsimp only
  rw [h]
  rfl

/-- The chosen leg's head leaves, as the frame it was before the choice was noted. -/
theorem choiceNoted_release {s : State} {port l g k q at_ : Nat} {legDs kidDs : List (Nat × Nat)} {p : OutPkt}
    (hq : (s.leg l).egressQ = some q) (hh : s.egressHead l = some (p, at_)) :
    (releaseHead (choiceNoted s port l g legDs kidDs k) port l g).out.head? = some (releasedFrame s port l p) := by
  obtain ⟨hle, hqueues, hdict⟩ := choiceNoted_frame s port l g legDs kidDs k
  have hleg : ((choiceNoted s port l g legDs kidDs k).leg l).egressQ = some q := by
    unfold State.leg
    rw [hle]
    exact hq
  rw [releaseHead_out port g hleg ((State.egressHead_congr hle hqueues l).trans hh)]
  unfold releasedFrame
  rw [State.rd_congr hdict, State.rd_congr hdict]

theorem exec_shaperRelease {s : State} {port : Nat} (he : s.engines = true) (hs : s.serves = true) (hp : port < 2) :
    exec (.shaperRelease port) s = .next (shaperRelease s port) := next_if ⟨he, hs, hp⟩

theorem exec_shaperAgeOut {s : State} {l q at_ : Nat} {p : OutPkt} (he : s.engines = true) (hq : (s.leg l).egressQ = some q)
    (hh : s.egressHead l = some (p, at_)) (hm : s.rd (Obj.shMaxHold l) ≠ 0) (ht : at_ + s.rd (Obj.shMaxHold l) * 1000000 < s.mono) :
    exec (.shaperAgeOut l) s = .next ((((s.updQ q (s.q q).pop.2).setShaper l { shaperNow s l with waited := false }).inc
      (Obj.shAgedOut l)).eventRated Ev.shaperAged l l 0) := by
  refine (next_if he).trans (congrArg Host.Outcome.next ?_)
  unfold shaperAge
  rw [hq, hh]
  exact if_pos ⟨hm, ht⟩

end Sys2Proof.Machine

open Sys2Proof Sys2Proof.Machine

/-- Settles O48: each row's own equation; a tick goes by the feed's program, a port's release by what its levels choose. -/
theorem adaptationSteps : Obligations.adaptation_steps := by
  unfold Obligations.adaptation_steps
  intro s
  refine ⟨fun _ _ => exec_adaptFeedbackCall, fun l f a sel probe y hf hx hm ht hy => ?tick, fun _ _ => exec_adaptCallLimit_tick,
    fun _ _ => exec_adaptCallLimit_feedback, fun _ _ => exec_switchKeyWaitExpiry, fun w r old he hi ho => ?forward,
    fun port x he hs hp hx => ?release, fun _ _ _ _ => exec_shaperAgeOut⟩
  case tick =>
    obtain rfl : y = tickBegun s l f := hy
    refine ⟨exec_adaptTick_unloaded a sel probe hf hx hm ht, exec_adaptTick_shipped a sel probe hf hx hm ht,
      exec_adaptTick_loaded a sel probe hf hx hm ht, fun hl hp hlead hr => ?_⟩
    exact ⟨_, exec_adaptTick_loaded a 255 0 hf hx hm ht hl hp, (applyTick_estimate a _ hlead).trans (clampA_noRemb a hr)⟩
  case forward =>
    subst ho
    refine ⟨_, exec_forwardPacket he hi, inboxCopied_unsubscribed w r, fun hf hs => (exec_forwardPacket he hi).trans ?_⟩
    rw [inboxCopied_unsubscribed w r hs]
    exact congrArg Host.Outcome.next (forwardAll_noFeeds _ _ _ _ _ hf)
  case release =>
    subst hx
    refine ⟨fun hc => ?_, fun l g a b k q p at_ hc hq hh => ⟨_, exec_shaperRelease he hs hp, ?_⟩⟩
    · rw [exec_shaperRelease he hs hp, shaperRelease_none hc]
    · rw [shaperRelease_some hc]
      exact choiceNoted_release hq hh
end

section
/-! PROOFS. Fabric frames, credits and acknowledgements (R328 to R332): what a port receives and sends, and the wait for an ACK. -/

namespace Sys2Proof.Machine

/-- The fabric's rows take place while the main domain runs. -/
theorem withFabric_running {s : State} (hr : s.running = true) (t : State) : withFabric s t = .next t := next_if hr

theorem withFabric_if {s t : State} {c : Prop} [Decidable c] (hr : s.running = true) (h : c) :
    withFabric s (if c then t else s) = .next t := (withFabric_running hr _).trans (next_if h)

section
variable {s u : State} {sel : FabFrame → Bool} {x : Nat × Nat × FabFrame} (h : s.takeFrame sel = (some x, u))
include h

/-- A frame taken leaves the inbox; the rest of the state stays. -/
theorem takeFrame_fb : u.fb = { s.fb with inbox := s.fb.inbox.erase x } := by rw [takeFrame_eq h]

theorem takeFrame_lsdb : u.fb.lsdb = s.fb.lsdb := by rw [takeFrame_eq h]

theorem takeFrame_subs : u.fb.subs = s.fb.subs := by rw [takeFrame_eq h]

theorem takeFrame_nq (p : Nat) : u.nq p = s.nq p := by rw [takeFrame_eq h]; rfl

theorem takeFrame_dict : u.dict = s.dict := by rw [takeFrame_eq h]

theorem takeFrame_rd (k : Nat) : u.rd k = s.rd k := State.rd_congr (takeFrame_dict h) k

theorem takeFrame_ownFdev : u.ownFdev = s.ownFdev := takeFrame_rd h _

theorem takeFrame_mono : u.mono = s.mono := by rw [takeFrame_eq h]

theorem takeFrame_cf (c : Nat) : u.cf c = s.cf c := by rw [takeFrame_eq h]; rfl

theorem takeFrame_serves : u.serves = s.serves := by rw [takeFrame_eq h]; rfl
end

/-! ### Reception (R328, R329, R332) -/

theorem fabricFrameRx_hop_inbox {s : State} {p : Nat} {f : FabFrame} (idle : Nat) (hp : p < 6) (h1 : 1 ≤ f.kind) (h3 : f.kind ≤ 3) :
    (fabricFrameRx s p f true idle).fb.inbox = s.fb.inbox ++ [(p, s.tod, f)] := by
  rw [fabricFrameRx_hop s p f idle hp h1 h3, deliver_inbox _ _ _ (by omega)]
  simp only [State.tally_fb_inbox, State.setNq_fb_inbox, State.tally_tod, State.setNq_tod]

theorem fabricFrameRx_hop_freed {s : State} {p : Nat} {f : FabFrame} (idle : Nat) (hp : p < 6) (h1 : 1 ≤ f.kind) (h3 : f.kind ≤ 3) :
    ((fabricFrameRx s p f true idle).nq p).freed = bump (s.nq p).freed f.vc (frameCost f) := by
  rw [fabricFrameRx_hop s p f idle hp h1 h3, deliver_nq, State.nq_tally, State.setNq_same]

/-- A frame with a bad checksum is counted, its credits freed, and goes no further. -/
theorem fabricFrameRx_bad (s : State) (p : Nat) (f : FabFrame) (idle : Nat) :
    fabricFrameRx s p f false idle = ((((s.tally (Obj.fpIdleDeleted p) idle).setNq p { s.nq p with
      freed := bump (s.nq p).freed f.vc (frameCost f)
      sinceCredit := (s.nq p).sinceCredit + frameCost f }).tally (Obj.fpCrcErrors p) 1).setSecond p
        { s.second p with crc := (s.second p).crc + 1 }) := by
  unfold fabricFrameRx
  simp only [Bool.not_false, if_true, State.second_setNq, State.second_tally]

/-- A frame for another device with hops left and a route enters the egress queue of its destination, one hop the less. -/
theorem frameRelay_sent {s u : State} {p a : Nat} {f : FabFrame}
    (hf : s.fb.inbox.find? (fun x => decide (x.1 ≠ 6) && !oneHop x.2.2 && decide (x.2.2.dst ≠ s.ownFdev)) = some (p, a, f))
    (hn : s.named = true) (ht : 2 ≤ f.ttl) (hh : nextHop s f ≠ none)
    (hq : State.fabQueuePush { s with fb := { s.fb with inbox := s.fb.inbox.erase (p, a, f) } } { f with ttl := f.ttl - 1 } = (true, u)) :
    frameRelay s = u := by
  have hnamed : State.named { s with fb := { s.fb with inbox := s.fb.inbox.erase (p, a, f) } } = true := hn
  have hroute : nextHop { s with fb := { s.fb with inbox := s.fb.inbox.erase (p, a, f) } } f ≠ none := hh
  unfold frameRelay
  rw [hf]
  dsimp only
  rw [if_neg (by rw [hnamed]; exact Bool.false_ne_true), if_neg (by omega), if_neg (by simpa using hroute), hq]

/-! ### Transmission (R329, R330) -/

/-- A CREDIT block that is due: the port's record, and the block on its lanes. -/
theorem creditTx_due {s : State} {p : Nat} (hs : (s.nq p).stage ≠ 0)
    (hd : (s.nq p).creditAt + 1000 ≤ s.mono ∨ 16 ≤ (s.nq p).sinceCredit) :
    creditTx s p = (sendBlocks (s.setNq p { s.nq p with sinceCredit := 0, creditAt := s.mono }) p
      [creditBlock (creditCounts (s.nq p).freed (losLoa (portMask s p)))]).emit (.credit p (s.nq p).freed (losLoa (portMask s p))) :=
  if_pos ⟨hs, hd⟩

theorem sendBlocks_nq (s : State) (p : Nat) (bs : List Block) :
    (sendBlocks s p bs).nq p = { s.nq p with tx := putBlocks (s.nq p).tx bs } := State.setNq_same ..

theorem creditTx_nq {s : State} {p : Nat} (hs : (s.nq p).stage ≠ 0)
    (hd : (s.nq p).creditAt + 1000 ≤ s.mono ∨ 16 ≤ (s.nq p).sinceCredit) :
    (creditTx s p).nq p = { s.nq p with
      sinceCredit := 0
      creditAt := s.mono
      tx := putBlocks (s.nq p).tx [creditBlock (creditCounts (s.nq p).freed (losLoa (portMask s p)))] } := by
  rw [creditTx_due hs hd, State.nq_emit, sendBlocks_nq, State.setNq_same]

/-- A frame of one hop on CTRL that its credits cover goes before every other. -/
theorem frameTx_hop {s : State} {p : Nat} {f : FabFrame} {r : List (Nat × FabFrame)}
    (hw : s.fb.hop.filter (fun x => decide (x.1 = p) && decide (x.2.vc = 0)) = (p, f) :: r)
    (hc : frameCost f ≤ (s.nq p).credits 0) : frameTx s p = startFrame s p (.hop f) := by
  obtain ⟨ws, hws⟩ : ∃ ws, waitsFor s p 0 = .hop f :: ws := ⟨_, by unfold waitsFor; rw [hw]; rfl⟩
  have hpick : pickWait s p 0 = (some (.hop f), s) := by unfold pickWait; rw [hws]
  have hready : readyWait s p 0 = (some (.hop f), s) := by
    unfold readyWait
    rw [hpick]
    exact if_pos hc
  unfold frameTx
  rw [hready]

theorem startFrame_hop_nq (s : State) (p : Nat) (f : FabFrame) : (startFrame s p (.hop f)).nq p = { s.nq p with
    spent := bump (s.nq p).spent f.vc (frameCost f)
    stalled := (s.nq p).stalled.mapIdx (fun i b => if i = f.vc then false else b)
    tx := putBlocks (s.nq p).tx (frameBlocks (s.fb.sent + 1) f) } := by
  have hport : ∀ (t : State) (x : NqPort) (us : List Unacked) (n : Nat),
      State.nq { t.setNq p x with fb := { (t.setNq p x).fb with unacked := us, sent := n } } p = x := fun t x _ _ =>
    State.setNq_same t p x
  unfold startFrame
  rw [State.nq_emit, State.nq_tally, sendBlocks_nq, hport]
  rfl

theorem startFrame_hop_out (s : State) (p : Nat) (f : FabFrame) : (startFrame s p (.hop f)).out = Out.fabric p f :: s.out := by
  unfold startFrame sendBlocks
  simp only [State.emit_out, State.tally_out, State.setNq_out, Waits.frame]

theorem startFrame_hop_hop (s : State) (p : Nat) (f : FabFrame) : (startFrame s p (.hop f)).fb.hop = s.fb.hop.erase (p, f) := by
  unfold startFrame sendBlocks
  simp only [State.emit_fb, State.tally_fb_hop, State.setNq_fb_hop]

/-! ### Acknowledgement (R331) -/

/-- An ACK ends the wait of the frames it names. -/
theorem ackRx_ack {s u : State} {p a vc q : Nat} {f : FabFrame}
    (ht : s.takeFrame (fun f => decide (f.kind = 0x05)) = (some (p, a, f), u)) (hm : f.msg = .ack vc q) :
    ackRx s = { s with fb := { s.fb with
      inbox := s.fb.inbox.erase (p, a, f)
      unacked := s.fb.unacked.filter (fun x => !(decide (x.frame.dst = f.src) && decide (x.frame.vc = vc) &&
        decide (x.frame.seq = q))) } } := by
  unfold ackRx
  rw [ht]
  dsimp only
  rw [hm, takeFrame_eq ht]

/-- The frame that has waited longest is given up after its eighth copy, and else goes into its queue again. -/
theorem ctrlRetransmit_unacked {s : State} {u : Unacked}
    (hu : s.fb.unacked.find? (fun u => decide (u.sent + s.rd Obj.ctrlRetransmit * 1000 ≤ s.mono)) = some u) :
    (ctrlRetransmit s).fb.unacked = if 8 ≤ u.tries then s.fb.unacked.erase u else
      s.fb.unacked.erase u ++ [{ u with sent := s.mono, tries := u.tries + 1 }] := by
  unfold ctrlRetransmit
  dsimp only
  rw [hu]
  dsimp only
  by_cases h : 8 ≤ u.tries
  · rw [if_pos h, if_pos h, State.event_fb]
  · rw [if_neg h, if_neg h, ((Told.refl _).fabQueuePush _).fb]

end Sys2Proof.Machine

open Sys2Proof Sys2Proof.Machine

/-- Settles O17: each row's own equation, and what its operation leaves of the port and of the fabric's lists. -/
theorem fabricFrames : Obligations.fabric_frames := by
  unfold Obligations.fabric_frames
  intro s hr
  refine ⟨fun p f idle hp hs h1 h3 => ?good, fun p f idle hp hs => ?bad, fun p a f u hf hn ht hh hq => ?relay,
    fun p hp hs hd => ?credit, fun p f r hp hs hw hc => ?frame, fun p a f u vc q ht hm => ?ack, fun u hu => ?expiry,
    fun p counts rdi hp hs => withFabric_if hr ⟨hp, hs⟩⟩
  case good =>
    exact ⟨_, withFabric_if hr ⟨by omega, hs⟩, fabricFrameRx_hop_inbox idle hp h1 h3, fabricFrameRx_hop_freed idle hp h1 h3⟩
  case bad =>
    refine ⟨_, withFabric_if hr ⟨hp, hs⟩, ?_⟩
    rw [fabricFrameRx_bad]
    refine ⟨?_, by rw [State.setSecond_same], by rw [State.nq_setSecond, State.nq_tally, State.setNq_same]⟩
    simp only [State.setSecond_fb_inbox, State.tally_fb_inbox, State.setNq_fb_inbox]
  case relay => exact (withFabric_running hr _).trans (congrArg Host.Outcome.next (frameRelay_sent hf hn ht hh hq))
  case credit =>
    have hport := creditTx_nq hs hd
    refine ⟨_, withFabric_if hr hp, ?_, ?_, ?_, ?_⟩
    · rw [creditTx_due hs hd]
      rfl
    all_goals rw [hport]
  case frame =>
    refine ⟨_, withFabric_if hr ⟨hp, hs⟩, ?_⟩
    rw [frameTx_hop hw hc, startFrame_hop_nq]
    exact ⟨startFrame_hop_out s p f, startFrame_hop_hop s p f, rfl, rfl⟩
  case ack =>
    refine ⟨_, withFabric_running hr _, ?_⟩
    rw [ackRx_ack ht hm]
    exact ⟨rfl, rfl⟩
  case expiry => exact ⟨_, withFabric_running hr _, ctrlRetransmit_unacked hu⟩
end

section
/-! PROOFS. Neighbours, advertisements and routes of the fabric (R333 to R336). -/

namespace Sys2Proof.Machine

/-! ### Neighbours (R333) -/

/-- On a LINKED port a HELLO that has not heard this device names the neighbour, and the port stays LINKED. -/
theorem helloRx_linked {s u : State} {p a serial fdev port hs hp : Nat} {f : FabFrame}
    (ht : s.takeFrame (fun f => decide (f.kind = 0x01)) = (some (p, a, f), u)) (hm : f.msg = .hello serial fdev port hs hp)
    (h2 : (s.nq p).stage = 2) (hown : hs ≠ ownSerial) : helloRx s =
      ((u.setNq p { s.nq p with neighbour := some (serial, fdev, port), helloAt := s.mono }).wr (Obj.nqNeighbour p)
        (if fdev < 512 then fdev else 0xFFFF)).wr (Obj.nqNeighbourPort p) (port % 256) := by
  have hstage : (decide ((s.nq p).stage = 3) && (s.nq p).neighbour.any (fun n => decide (n.1 ≠ serial) || decide (n.2.2 ≠ port))) =
      false := by rw [h2]; rfl
  unfold helloRx
  rw [ht]
  dsimp only
  rw [hm]
  dsimp only
  rw [takeFrame_nq ht, hstage, if_neg (by omega), if_neg Bool.false_ne_true, takeFrame_nq ht, takeFrame_mono ht]
  exact if_neg (fun hc => hown hc.2.2.1)

theorem nqNeighbour_ne_port (p : Nat) : Obj.nqNeighbour p ≠ Obj.nqNeighbourPort p := by
  unfold Obj.nqNeighbour Obj.nqNeighbourPort key
  omega

/-! ### Advertisements (R334, R335) -/

/-- An advertisement of another FDEV is no conflict. -/
theorem fdevConflict_other {s : State} {l : Lsa} (h : l.origin ≠ s.ownFdev) : fdevConflict s l = s := if_neg (fun hc => h hc.1)

/-- No stored advertisement of a device is as new as one newer than all of them. -/
theorem held_older {d : List LsaRec} {l : Lsa}
    (h : ∀ r ∈ d, r.lsa.origin = l.origin → r.lsa.serial = l.serial → r.lsa.seq < l.seq) :
    ((d.find? (fun r => decide (r.lsa.origin = l.origin) && decide (r.lsa.serial = l.serial))).map (fun r => r.lsa.seq)).all
      (fun q => decide (q < l.seq)) = true := by
  cases hf : d.find? (fun r => decide (r.lsa.origin = l.origin) && decide (r.lsa.serial = l.serial)) with
  | none => rfl
  | some r =>
    obtain ⟨ho, hs⟩ : r.lsa.origin = l.origin ∧ r.lsa.serial = l.serial := by simpa using List.find?_some hf
    exact decide_eq_true (h r (List.mem_of_find?_eq_some hf) ho hs)

/-- The LSACK of a received advertisement, on the port it came on. -/
def lsaAcked (s : State) (p : Nat) (l : Lsa) : State :=
  s.hopSend p (((s.nq p).neighbour.map (fun n => n.2.1 % 512)).getD 0x1FF) (.lsack l.origin l.seq)

theorem lsaAcked_lsdb (s : State) (p : Nat) (l : Lsa) : (lsaAcked s p l).fb.lsdb = s.fb.lsdb := rfl

theorem lsaAcked_mono (s : State) (p : Nat) (l : Lsa) : (lsaAcked s p l).mono = s.mono := rfl

theorem lsaAcked_ownFdev (s : State) (p : Nat) (l : Lsa) : (lsaAcked s p l).ownFdev = s.ownFdev := rfl

/-- A newer advertisement of another device is acknowledged, stored, and flooded on every other adjacency. -/
theorem lsaRx_newer {s u : State} {p a : Nat} {f : FabFrame} {l : Lsa}
    (ht : s.takeFrame (fun f => decide (f.kind = 0x02)) = (some (p, a, f), u)) (hm : f.msg = .lsa l) (ho : l.origin ≠ s.ownFdev)
    (hnew : ∀ r ∈ s.fb.lsdb, r.lsa.origin = l.origin → r.lsa.serial = l.serial → r.lsa.seq < l.seq) :
    lsaRx s = flood (State.lsdbChanged { lsaAcked u p l with fb := { (lsaAcked u p l).fb with
      lsdb := lsdbPut s.fb.lsdb ⟨l, s.mono⟩ } }) l p := by
  have hdb : (lsaAcked u p l).fb.lsdb = s.fb.lsdb := (lsaAcked_lsdb u p l).trans (takeFrame_lsdb ht)
  have hmono : (lsaAcked u p l).mono = s.mono := (lsaAcked_mono u p l).trans (takeFrame_mono ht)
  have hown : (lsaAcked u p l).ownFdev = s.ownFdev := (lsaAcked_ownFdev u p l).trans (takeFrame_ownFdev ht)
  unfold lsaRx
  rw [ht]
  dsimp only
  rw [hm]
  dsimp only
  rw [← lsaAcked, if_neg (fun hc => ho hc.1), fdevConflict_other (by rw [hown]; exact ho), hdb, hmono, if_pos (held_older hnew)]

theorem flood_stored (s : State) (l : Lsa) (e : Nat) : (flood s l e).fb.lsdb = s.fb.lsdb ∧ (flood s l e).fb.changed = s.fb.changed := by
  obtain ⟨h, q, e⟩ := flood_fb s l e
  rw [e]
  exact ⟨rfl, rfl⟩

theorem lsackRx_lsack {s u : State} {p a o q : Nat} {f : FabFrame}
    (ht : s.takeFrame (fun f => decide (f.kind = 0x03)) = (some (p, a, f), u)) (hm : f.msg = .lsack o q) :
    (lsackRx s).fb.lsaSent = s.fb.lsaSent.filter (fun x => !(decide (x.port = p) && decide (x.lsa.origin = o) && decide (x.lsa.seq = q))) := by
  unfold lsackRx
  rw [ht]
  dsimp only
  rw [hm, takeFrame_fb ht]

/-- The advertisements that stay at LSA_EXPIRY: the device's own, and those refreshed in time. -/
def lsaStays (s : State) (r : LsaRec) : Bool :=
  (decide (r.lsa.origin = s.ownFdev) && decide (r.lsa.serial = ownSerial)) ||
    decide (s.mono < r.at_ + 3 * s.rd Obj.lsaRefresh * 1000000000)

theorem lsaExpiry_aged {s : State} {r : LsaRec} (hr : r ∈ s.fb.lsdb) (hx : lsaStays s r = false) :
    lsaExpiry s = State.lsdbChanged { s with fb := { s.fb with lsdb := s.fb.lsdb.filter (lsaStays s) } } := by
  have hlt : (s.fb.lsdb.filter (lsaStays s)).length < s.fb.lsdb.length :=
    List.length_filter_lt_length_iff_exists.mpr ⟨r, hr, by rw [hx]; exact Bool.false_ne_true⟩
  exact if_neg (Nat.ne_of_lt hlt)

/-! ### Routes (R336) -/

/-- A run due on a named device sets the routes; what the routes do to conferences and legs leaves them. -/
theorem spfRun_due {s : State} {x : Nat} (hx : s.fb.changed = some x) (hd : x + s.rd Obj.spfHold * 1000 ≤ s.mono) (hn : s.named = true) :
    (spfRun s).fb.changed = none ∧ (spfRun s).fb.routes =
      ((spf (countedLinks s.fb.lsdb) s.ownFdev (s.adjacentPorts.filterMap (fun p =>
        match (s.nq p).neighbour with
        | some (_, fdev, _) => some (p, fdev, s.rd (Obj.nqCost p))
        | none => none))).map (fun (r : Nat × Nat × List Nat) => (r.1, r.2.2))) ++ [(s.ownFdev, [])] := by
  have hown : s.ownFdev < 512 := by
    unfold State.named at hn
    simp only [Bool.and_eq_true, decide_eq_true_eq] at hn
    exact hn.1
  unfold spfRun
  rw [hx]
  dsimp only
  rw [if_neg (by omega), if_pos hn, if_pos hown, if_pos hown]
  constructor
  · rw [(foldl_routes feedRoutes_routes _ _).2, (foldl_routes remoteRoutes_routes _ _).2]
    rfl
  · rw [(foldl_routes feedRoutes_routes _ _).1, (foldl_routes remoteRoutes_routes _ _).1]
    rfl

end Sys2Proof.Machine

open Sys2Proof Sys2Proof.Machine

/-- Settles O18: a neighbour's rows by what they leave of its port, an advertisement's by the database, the run's by the routes it sets. -/
theorem fabricNeighbours : Obligations.fabric_neighbours := by
  unfold Obligations.fabric_neighbours
  intro s hr
  refine ⟨fun p hp h2 hd => ?helloTx, fun p a f u serial fdev port hs hp ht hm h2 hown hf => ?helloRx, fun p hp h3 hd => ?dead,
    fun hd => ?refresh, fun p a f u l ht hm ho hnew => ?lsa, fun p a f u o q ht hm => ⟨_, withFabric_running hr _, lsackRx_lsack ht hm⟩,
    fun r hm ho hd => ?aged, fun x hx hd hn => ?routes⟩
  case helloTx =>
    obtain ⟨d, x, y, he⟩ := helloTx_eq s p h2 hd
    refine ⟨_, _, x, y, (withFabric_if hr hp).trans (congrArg Host.Outcome.next he), rfl, rfl, ?_⟩
    rw [hopSend_nq, State.setNq_same]
  case helloRx =>
    refine ⟨_, withFabric_running hr _, ?_⟩
    rw [helloRx_linked ht hm h2 hown, State.nq_wr, State.nq_wr, State.setNq_same, State.rd_wr_other _ _ (nqNeighbour_ne_port p),
      State.rd_wr_same, if_pos hf]
    exact ⟨rfl, rfl, h2, rfl⟩
  case dead =>
    have hdown : deadInterval s p = forgetNeighbour (adjacencyDown s p 2) p := if_pos ⟨h3, hd⟩
    refine ⟨_, withFabric_if hr hp, ?_⟩
    rw [hdown, forgetNeighbour_nq, adjacencyDown_nq, forgetNeighbour_rd _ _ hp]
    exact ⟨rfl, rfl, rfl⟩
  case refresh =>
    obtain ⟨b, he, -, hat, hseq⟩ := originate_fb s
    refine ⟨_, (withFabric_if hr hd).trans (congrArg Host.Outcome.next he), hat, hseq⟩
  case lsa =>
    refine ⟨_, (withFabric_running hr _).trans (congrArg Host.Outcome.next (lsaRx_newer ht hm ho hnew)), (flood_stored _ _ _).1,
      (flood_stored _ _ _).2.trans ?_⟩
    exact congrArg some ((lsaAcked_mono u p l).trans (takeFrame_mono ht))
  case aged =>
    have hx : lsaStays s r = false := by
      unfold lsaStays
      rw [decide_eq_false ho, decide_eq_false (Nat.not_lt.mpr hd)]
      rfl
    refine ⟨_, (withFabric_running hr _).trans (congrArg Host.Outcome.next (lsaExpiry_aged hm hx)), fun hmem => ?_, rfl⟩
    exact Bool.false_ne_true (hx.symm.trans (List.mem_filter.mp hmem).2)
  case routes => exact ⟨_, withFabric_running hr _, spfRun_due hx hd hn⟩
end

section
/-! PROOFS. The fabric's ports (R322, R323, R325, R338, R339): the receivers of their lanes, CREDIT blocks with RDI, the end of a hold. -/

namespace Sys2Proof.Machine

/-! ### The receivers of the lanes -/

/-- A lane that is there, of a port that is powered. -/
theorem laneEvent_ok {s : State} {l : Nat} (hl : l < 26) (hs : (s.nq (l / 4)).stage ≠ 0) :
    (decide (l < 26) && decide ((s.nq (portOf l)).stage ≠ 0)) = true := Bool.and_eq_true_iff.mpr ⟨decide_eq_true hl, decide_eq_true hs⟩

/-- Counters leave the lanes, so an event noted after a count goes by the lane as it was. -/
theorem phyLane_receiver_counted {s t : State} (l : Nat) (f : LaneRt → LaneRt) (h : t.lane l = s.lane l) :
    ((phyLane t l f).lane l).receiver = (f (s.lane l)).receiver := (phyLane_receiver t l f).trans (congrArg (fun x => (f x).receiver) h)

/-- A codeword's count, in the lane's counter and in its port's second, leaves the lanes. -/
theorem lane_secondCounted (s : State) (k n p : Nat) (y : PmSecond) (l : Nat) : ((s.tally k n).setSecond p y).lane l = s.lane l :=
  (State.lane_setSecond ..).trans (State.lane_tally ..)

theorem State.liveCount_tally_same (s : State) (k n : Nat) : (s.tally k n).liveCount k = satAdd (s.liveCount k) n (maxOf k) :=
  AMap.get_put_same ..

/-- A CREDIT block's counts and RDI, kept through the defects judged anew. -/
theorem creditRx_link (s : State) (p : Nat) (counts : List Nat) (rdi : Bool) : ((creditRx s p counts rdi).nq p).link =
    NqPort.link { s.nq p with
      heard := if 2 ≤ (s.nq p).stage then (List.range 4).map (fun i => counts.getD i 0 % 2 ^ 24) else (s.nq p).heard
      farRdi := rdi } := ((refreshDefects_keeps _ _).2 p).trans (congrArg NqPort.link (State.setNq_same ..))

/-- A port's skew as it is measured. -/
theorem skew_nq (s : State) (p ns : Nat) : State.nq (if p < 6 then (s.setNq p { s.nq p with skew := ns }).wr (Obj.nqSkew p) (min ns 65535)
    else s.setNq p { s.nq p with skew := ns }) p = { s.nq p with skew := ns } := by
  split
  · rw [State.nq_wr, State.setNq_same]
  · exact State.setNq_same ..

/-! ### The hold of a defect (R338, R339) -/

/-- The hold in force, in nanoseconds. -/
def holdTime (s : State) : Nat := s.rd Obj.defectHold * ms

/-- The lanes of a port with the defects out of their hold cleared and what is left reported. -/
def lanesSettled (s : State) (p : Nat) : State :=
  (lanesOf p).foldl (fun t l =>
    reportLane (t.setLane l { t.lane l with defects := (t.lane l).defects.settle t.mono (holdTime s) }) l) s

theorem lanesSettled_mono (s : State) (p : Nat) : (lanesSettled s p).mono = s.mono :=
  foldl_field State.mono _ (fun t l => by rw [reportLane_mono, State.setLane_mono]) _ _

theorem lanesSettled_nq (s : State) (p j : Nat) : (lanesSettled s p).nq j = s.nq j :=
  foldl_field (fun t => t.nq j) _ (fun t l => by rw [reportLane_nq, State.nq_setLane]) _ _

theorem lanesSettled_counted {s : State} {p l : Nat} (h : l ∈ lanesOf p) :
    ((lanesSettled s p).lane l).defects.counted = ((s.lane l).defects.settle s.mono (holdTime s)).counted := by
  have hfold := foldl_lane
    (f := fun t l => reportLane (t.setLane l { t.lane l with defects := (t.lane l).defects.settle t.mono (holdTime s) }) l)
    (g := fun t x => { x with defects := { x.defects.settle t.mono (holdTime s) with
      reported := topDefect (x.defects.settle t.mono (holdTime s)).counted } })
    (fun t l j => by
      rw [reportLane_lane]
      split
      · rw [State.setLane_same]
      · exact lane_setLane_other _ _ ‹_›)
    (fun t l x => by
      dsimp only
      rw [reportLane_mono, State.setLane_mono])
    (lanesOf p) (lanesOf_nodup p) s l
  unfold lanesSettled
  rw [hfold, if_pos h]

/-- The lanes settled, then the port's own defects, and its report. -/
def portSettled (s : State) (p : Nat) : State :=
  reportPort ((lanesSettled s p).setNq p { s.nq p with defects := (s.nq p).defects.settle s.mono (holdTime s) }) p

theorem portSettled_nq (s : State) (p : Nat) : ∃ r, (portSettled s p).nq p =
    { s.nq p with defects := { (s.nq p).defects.settle s.mono (holdTime s) with reported := r } } :=
  ⟨_, by
    unfold portSettled
    rw [reportPort_nq, if_pos rfl, State.setNq_same]⟩

/-- The defects that count for a port once those out of their hold are cleared. -/
theorem portMask_portSettled (s : State) (p : Nat) : portMask (portSettled s p) p =
    (lanesOf p).foldl (fun m l => orMask m ((s.lane l).defects.settle s.mono (holdTime s)).counted)
      ((s.nq p).defects.settle s.mono (holdTime s)).counted := by
  obtain ⟨r, hport⟩ := portSettled_nq s p
  unfold portMask
  rw [hport]
  refine foldl_mem_congr (fun l hl m => ?_) _
  unfold portSettled
  rw [reportPort_lane, State.lane_setNq, lanesSettled_counted hl]

/-- At the end of a hold an ALIGNING port with no defect from LOS to LOA left becomes LINKED. -/
theorem defectHold_linked {s : State} {p : Nat} (h1 : (s.nq p).stage = 1) (hm : losLoa (portMask (portSettled s p) p) = false) :
    defectHold s p = portLinked (portSettled s p) p := by
  obtain ⟨r, hport⟩ := portSettled_nq s p
  have hset : defectHold s p = if ((portSettled s p).nq p).stage = 1 ∧ ¬ losLoa (portMask (portSettled s p) p) = true then
      portLinked (portSettled s p) p else portSettled s p := by
    unfold portSettled
    rw [← lanesSettled_nq s p p, ← lanesSettled_mono s p]
    rfl
  rw [hset, if_pos ⟨by rw [hport]; exact h1, by rw [hm]; exact Bool.false_ne_true⟩]

theorem portLinked_nq (s : State) (p : Nat) : ((portLinked s p).nq p).stage = 2 ∧ ((portLinked s p).nq p).spent = [0, 0, 0, 0] ∧
    ((portLinked s p).nq p).heard = [0, 0, 0, 0] := by
  unfold portLinked
  dsimp only
  rw [setStage_nq, State.setNq_same]
  exact ⟨rfl, rfl, rfl⟩

end Sys2Proof.Machine

open Sys2Proof Sys2Proof.Machine

/-- Settles O19: an event goes to its lane's receiver, which the defects judged after it leave; the hold's end by the defects then left. -/
theorem fabricPorts : Obligations.fabric_ports := by
  unfold Obligations.fabric_ports
  intro s hr
  refine ⟨fun p counts rdi hp hs => ?credit,
    fun l below hl hs => ⟨_, withFabric_if hr (laneEvent_ok hl hs), phyLane_receiver_counted l _ rfl⟩,
    fun l out hl hs => ⟨_, withFabric_if hr (laneEvent_ok hl hs), phyLane_receiver_counted l _ rfl⟩,
    fun l n c hl hs => ⟨_, withFabric_if hr (laneEvent_ok hl hs), phyLane_receiver_counted l _ (lane_secondCounted ..)⟩,
    fun l hl hs => ⟨_, withFabric_if hr (laneEvent_ok hl hs), phyLane_receiver_counted l _ (lane_secondCounted ..)⟩,
    fun l n hl hs => ⟨_, withFabric_if hr (laneEvent_ok hl hs), phyLane_receiver_counted l _ rfl⟩,
    fun l hl hs => ⟨_, withFabric_if hr (laneEvent_ok hl hs), phyLane_receiver_counted l _ (State.lane_tally ..)⟩,
    fun l hl hs => ⟨_, withFabric_if hr (laneEvent_ok hl hs), State.liveCount_tally_same .., State.tally_fb_lanes ..⟩,
    fun l d n sp hl hs => ⟨_, withFabric_if hr (laneEvent_ok hl hs),
      phyLane_receiver_counted l _ (by split <;> [exact State.lane_tally ..; rfl])⟩,
    fun l hl hs hk => ⟨_, (withFabric_if hr (laneEvent_ok hl hs)).trans (next_if hk),
      phyLane_receiver_counted l _ (State.lane_tally ..)⟩,
    fun p ns hp hs => ?skew, fun p hp h1 hm => ?hold⟩
  case credit =>
    have h := creditRx_link s p counts rdi
    exact ⟨creditRx s p counts rdi, withFabric_if hr ⟨hp, hs⟩, congrArg (fun x => x.farRdi) h, congrArg (fun x => x.spent) h,
      congrArg (fun x => x.heard) h⟩
  case skew =>
    refine ⟨_, withFabric_if hr ⟨hp, hs⟩, ?_⟩
    exact (congrArg NqPort.skew ((refreshDefects_keeps _ p).2 p)).trans (congrArg NqPort.skew (skew_nq s p ns))
  case hold =>
    have hlinked := defectHold_linked h1 ((congrArg losLoa (portMask_portSettled s p)).trans hm)
    exact ⟨_, (withFabric_if hr ⟨hp, by omega⟩).trans (congrArg Host.Outcome.next hlinked), portLinked_nq _ p⟩
end

section
/-! PROOFS. Conferences across devices, fabric-fed legs and performance bins (R341 to R344). -/

namespace Sys2Proof.Machine

/-! ### Anchors and remotes (R342, R343) -/

theorem setRemotes_remotes (s : State) (c : Nat) (rs : List Remote) : ((setRemotes s c rs).cf c).remotes = rs := by
  unfold setRemotes
  rw [State.cf_wr, State.setCf_same]

theorem setRemotes_devices (s : State) (c : Nat) (rs : List Remote) : (setRemotes s c rs).rd (Obj.devices c) = 1 + rs.length :=
  State.rd_wr_same ..

/-- Remotes dropped from a conference, which a drop of none leaves as it is. -/
theorem keptRemotes_remotes (s : State) (c : Nat) (keep : Remote → Bool) :
    ((if ((s.cf c).remotes.filter keep).length = (s.cf c).remotes.length then s else
      setRemotes s c ((s.cf c).remotes.filter keep)).cf c).remotes = (s.cf c).remotes.filter keep := by
  split
  · exact (List.length_filter_eq_length_iff.mp ‹_› |> List.filter_eq_self.mpr).symm
  · exact setRemotes_remotes ..

/-- A JOIN that an ACTIVE anchor has room for enters its record, and is accepted. -/
theorem joinRx_accepted {s u : State} {p a ac conf : Nat} {f : FabFrame}
    (ht : s.takeFrame (fun f => decide (f.kind = 0x06)) = (some (p, a, f), u)) (hm : f.msg = .join ac conf) (hs : s.serves = true)
    (hac : ac < 16384) (hst : s.rd (Obj.confState ac) = 1) (hro : s.rd (Obj.confRole ac) = 1)
    (hnew : ∀ r ∈ (s.cf ac).remotes, ¬ (r.fdev = f.src ∧ r.conf = conf)) (hroom : (s.cf ac).remotes.length < 63) :
    joinRx s = (setRemotes u ac ((s.cf ac).remotes ++ [⟨f.src, conf, s.mono⟩])).fabSend f.src (.joinReply ac conf 0) := by
  have hok : (s.serves && decide (ac < 16384) && decide (s.rd (Obj.confState ac) = 1) && decide (s.rd (Obj.confRole ac) = 1)) = true := by
    simp [hs, hac, hst, hro]
  have hknown : (s.cf ac).remotes.any (fun r => decide (r.fdev = f.src) && decide (r.conf = conf)) = false := by
    simpa using hnew
  unfold joinRx
  rw [ht]
  dsimp only
  rw [hm]
  dsimp only
  rw [takeFrame_serves ht, takeFrame_rd ht, takeFrame_rd ht, takeFrame_cf ht, takeFrame_mono ht, hok, hknown,
    if_neg (by decide), if_neg Bool.false_ne_true, if_neg (by omega)]

/-- An accepting reply makes the PENDING remote it concerns JOINED. -/
theorem joinReplyRx_accepted {s u : State} {p a ac conf c : Nat} {f : FabFrame}
    (ht : s.takeFrame (fun f => decide (f.kind = 0x07)) = (some (p, a, f), u)) (hm : f.msg = .joinReply ac conf 0)
    (hc : replyConf s f.src ac conf = some c) (hj : s.rd (Obj.joinState c) = 1) :
    joinReplyRx s = (u.setCf c { s.cf c with refusedRun := false, joinAt := none }).wr (Obj.joinState c) 2 := by
  have hconf : replyConf u f.src ac conf = some c := by rw [takeFrame_eq ht]; exact hc
  unfold joinReplyRx
  rw [ht]
  dsimp only
  rw [hm]
  dsimp only
  rw [hconf]
  dsimp only
  rw [takeFrame_rd ht, takeFrame_cf ht, if_neg (by decide), if_pos hj]

theorem joinRetry_due {s : State} {c x : Nat} (hr : s.isRemote c = true) (hj : s.rd (Obj.joinState c) = 1) (hx : (s.cf c).joinAt = some x)
    (ht : x + 1000000000 ≤ s.mono) : joinRetry s c = sendJoin s c := by
  have hdue : (s.cf c).joinAt.all (fun t => decide (t + 1000000000 ≤ s.mono)) = true := by rw [hx, Option.all_some, decide_eq_true ht]
  exact if_pos ⟨hr, hj, hdue⟩

theorem leaveRx_leave {s u : State} {p a ac conf : Nat} {f : FabFrame}
    (ht : s.takeFrame (fun f => decide (f.kind = 0x08)) = (some (p, a, f), u)) (hm : f.msg = .leave ac conf) :
    ((leaveRx s).cf ac).remotes = (s.cf ac).remotes.filter (fun r => !(decide (r.fdev = f.src) && decide (r.conf = conf))) := by
  unfold leaveRx
  rw [ht]
  dsimp only
  rw [hm, ← takeFrame_cf ht]
  exact keptRemotes_remotes _ ac _

/-! ### Fabric-fed legs (R344) -/

theorem raiseKey_fb (s : State) (r : Nat) (pli : Bool) : (raiseKey s r pli).fb = s.fb := by
  unfold raiseKey
  dsimp only
  split
  · split <;> rw [State.setRx_fb, State.inc_fb]
  · rfl

theorem subscribedKey_rctx_fb (s : State) (id entry : Nat) : (subscribedKey s 2 id entry).fb = s.fb := by
  unfold subscribedKey
  rw [if_pos rfl]
  split
  · exact raiseKey_fb ..
  · rfl

/-- A subscription to a rendition that has fewer than 64 enters the list. -/
theorem subscribeRx_subscribed {s u : State} {p a leg id entry : Nat} {f : FabFrame}
    (ht : s.takeFrame (fun f => decide (f.kind = 0x0B)) = (some (p, a, f), u)) (hm : f.msg = .subscribe 0 leg 2 id entry)
    (hs : s.serves = true) (hroom : (s.fb.subs.filter (fun x => decide (x.kind = 2) && decide (x.id = id))).length < 64) :
    (⟨2, id, entry, f.src, leg⟩ : Sub) ∈ (subscribeRx s).fb.subs := by
  have hsame : s.fb.subs.filter (fun x => decide (x.kind = 2) && decide (x.id = id) && (decide (2 = 2) || decide (x.entry = entry))) =
      s.fb.subs.filter (fun x => decide (x.kind = 2) && decide (x.id = id)) := by simp
  have hsubs : u.fb.subs = s.fb.subs := takeFrame_subs ht
  unfold subscribeRx
  rw [ht]
  dsimp only
  rw [hm]
  dsimp only
  rw [hsubs, hsame, takeFrame_serves ht, if_pos rfl, if_neg (by rw [hs]; simp; omega), subscribedKey_rctx_fb, fabSend_subs]
  split
  · rw [hsubs]
    exact (List.mem_filter.mp ‹_›).1
  · exact List.mem_append_right _ (List.mem_singleton.mpr rfl)

theorem subscribeRx_ended {s u : State} {p a leg kind id entry : Nat} {f : FabFrame}
    (ht : s.takeFrame (fun f => decide (f.kind = 0x0B)) = (some (p, a, f), u)) (hm : f.msg = .subscribe 1 leg kind id entry) :
    (subscribeRx s).fb.subs = s.fb.subs.filter (fun x => decide (x ≠ ⟨kind, id, entry, f.src, leg⟩)) := by
  unfold subscribeRx
  rw [ht]
  dsimp only
  rw [hm]
  dsimp only
  rw [if_neg (by decide), if_pos rfl, takeFrame_fb ht]

/-- A rendition's packet from the source of an ACTIVE fabric-fed leg is placed in it. -/
theorem mediaRx_rctx {s u : State} {p a l r : Nat} {f : FabFrame} {q : Rtp}
    (ht : s.takeFrame (fun f => decide (f.kind = 0x0C)) = (some (p, a, f), u)) (hm : f.msg = .media l (.fromRctx r q))
    (hl : s.legActive l = true) (hf : s.fabricFed l = true) (hsrc : s.rd (Obj.srcFdev l) = f.src) (hs : s.serves = true) :
    mediaRx s = feedPlace ((u.setLeg l { s.leg l with lastRx := s.mono }).wr (Obj.feedState l) 2) l q := by
  have hactive : u.legActive l = true := by rw [takeFrame_eq ht]; exact hl
  have hfed : u.fabricFed l = true := by rw [takeFrame_eq ht]; exact hf
  have hleg : u.leg l = s.leg l := by rw [takeFrame_eq ht]; rfl
  unfold mediaRx
  rw [ht]
  dsimp only
  rw [hm]
  dsimp only
  rw [hleg, takeFrame_mono ht]
  exact if_pos ⟨hactive, hfed, (takeFrame_rd ht _).trans hsrc, (takeFrame_serves ht).trans hs⟩

/-! ### Performance bins (R341) -/

/-- The recent bins of a quarter of an hour move up by one. -/
def recentsShifted (s : State) (k : Nat) : State :=
  ((List.range 31).map (fun i => 30 - i)).foldl (fun t i => copyRec t (pmRecent k i) (pmRecent k (i + 1))) s

theorem recentsShifted_rd (s : State) (k : Nat) {j : Nat} (h : ∀ n, j / 0x100000000 ≠ pmRecent k n) : (recentsShifted s k).rd j = s.rd j :=
  foldl_field (fun t => t.rd j) _ (fun t i => copyRec_rd t _ _ j (h (i + 1))) _ s

/-- A quarter of an hour that ends is closed, Suspect where it was not whole, into the newest recent bin, and begun anew. -/
theorem pmRollover_quarter {s : State} {k : Nat} (h : time80 (s.tod / 1000000000 / 900 * 900 * 1000000000) ≠ s.rd (recKey (pmCur15 k) 1)) :
    ∃ b, pmRollover s k false = freshRec (copyRec (recentsShifted (suspectIf s (pmCur15 k) b) k) (pmCur15 k) (pmRecent k 0)) (pmCur15 k)
      (s.tod / 1000000000 / 900 * 900 * 1000000000) := by
  unfold pmRollover recentsShifted
  simp only [Bool.false_eq_true, if_false]
  rw [if_neg h]
  exact ⟨_, rfl⟩

/-- A day that ends is closed likewise into the previous day's bin. -/
theorem pmRollover_day {s : State} {k : Nat} (h : time80 (s.tod / 1000000000 / 86400 * 86400 * 1000000000) ≠ s.rd (recKey (pmCurDay k) 1)) :
    ∃ b, pmRollover s k true = freshRec (copyRec (suspectIf s (pmCurDay k) b) (pmCurDay k) (pmPrevDay k)) (pmCurDay k)
      (s.tod / 1000000000 / 86400 * 86400 * 1000000000) := by
  unfold pmRollover
  simp only [if_true]
  rw [if_neg h]
  exact ⟨_, rfl⟩

/-- Suspect is the eighth field of a bin; the others stay. -/
theorem suspectIf_field (s : State) (a : Nat) (b : Bool) {i : Nat} (h : i ≤ 7) : (suspectIf s a b).rd (recKey a i) = s.rd (recKey a i) := by
  refine suspectIf_rd _ _ _ _ ?_
  unfold recKey key
  omega

end Sys2Proof.Machine

open Sys2Proof Sys2Proof.Machine

/-- Settles O20: each row's own equation, by the frame it takes; a bin's roll-over by the record copied and the fresh one in its place. -/
theorem fabricConferences : Obligations.fabric_conferences := by
  unfold Obligations.fabric_conferences
  intro s hr
  refine ⟨fun p a f u ac conf ht hm hs hac hst hro hnew hroom => ?join, fun p a f u ac conf c ht hm hc _ hj => ?reply,
    fun c x hc hre hj hx ht => ?retry, fun p a f u ac conf ht hm => ⟨_, withFabric_running hr _, leaveRx_leave ht hm⟩,
    fun c fdev => ⟨_, withFabric_running hr _, keptRemotes_remotes s c _⟩,
    fun p a f u leg id entry ht hm hs hroom => ⟨_, withFabric_running hr _, subscribeRx_subscribed ht hm hs hroom⟩,
    fun p a f u leg kind id entry ht hm => ⟨_, withFabric_running hr _, subscribeRx_ended ht hm⟩,
    fun p a f u l q ht ⟨r, hm⟩ hl hf hsrc hs =>
      (withFabric_running hr _).trans (congrArg Host.Outcome.next (mediaRx_rctx ht hm hl hf hsrc hs)),
    fun k hk h => ?quarter, fun k hk h => ?day⟩
  case join =>
    have hdev : Obj.devices ac / 0x100000000 ≠ 0xE010 := by
      unfold Obj.devices key
      omega
    refine ⟨_, (withFabric_running hr _).trans (congrArg Host.Outcome.next (joinRx_accepted ht hm hs hac hst hro hnew hroom)), ?_, ?_⟩
    · rw [fabSend_cf, setRemotes_remotes]
    · rw [fabSend_rd _ _ _ _ hdev, setRemotes_devices, List.length_append, List.length_singleton]
      omega
  case reply =>
    refine ⟨_, (withFabric_running hr _).trans (congrArg Host.Outcome.next (joinReplyRx_accepted ht hm hc hj)), State.rd_wr_same .., ?_⟩
    rw [State.cf_wr, State.setCf_same]
    exact ⟨rfl, rfl⟩
  case retry =>
    exact ⟨_, (withFabric_running hr _).trans (congrArg Host.Outcome.next (joinRetry_due hre hj hx ht)), sendJoin_facts s c hc⟩
  case quarter =>
    obtain ⟨b, he⟩ := pmRollover_quarter h
    refine ⟨_, (withFabric_if hr hk).trans (congrArg Host.Outcome.next he), freshRec_start .., freshRec_zero _ _ _, fun i h1 h7 => ?_⟩
    have hrecent : recKey (pmRecent k 0) i / 0x100000000 ≠ pmCur15 k := by
      rw [recKey_index _ _ (by omega)]
      unfold pmCur15 pmRecent
      omega
    have hcur : ∀ n, recKey (pmCur15 k) i / 0x100000000 ≠ pmRecent k n := fun n => by
      rw [recKey_index _ _ (by omega)]
      unfold pmCur15 pmRecent
      omega
    rw [freshRec_rd _ _ _ _ hrecent, copyRec_copied _ _ _ i h1 (by omega), recentsShifted_rd _ _ hcur, suspectIf_field _ _ _ h7]
  case day =>
    obtain ⟨b, he⟩ := pmRollover_day h
    refine ⟨_, (withFabric_if hr hk).trans (congrArg Host.Outcome.next he), freshRec_start .., freshRec_zero _ _ _, fun i h1 h7 => ?_⟩
    have hprev : recKey (pmPrevDay k) i / 0x100000000 ≠ pmCurDay k := by
      rw [recKey_index _ _ (by omega)]
      unfold pmCurDay pmPrevDay
      omega
    rw [freshRec_rd _ _ _ _ hprev, copyRec_copied _ _ _ i h1 (by omega), suspectIf_field _ _ _ h7]
end

section
/-! PROOFS. Heartbeats of the twins on both paths, the liveness pulse, silence and the arming checks in time (R350 to R352, R357, R359, R362). -/

namespace Sys2Proof.Machine

/-- The twin's rows take place while the main domain runs. -/
theorem next_running {s t u : State} (hr : s.running = true) (h : t = u) :
    (Host.Outcome.next (if s.running then t else s) : Host.Outcome State Fault Refusal) = .next u := by rw [if_pos hr, h]

/-! ### Frames the twin unit takes -/

section
variable {s u : State} {sel : FabFrame → Bool} {x : Nat × Nat × FabFrame} (h : s.takeFrame sel = (some x, u))
include h

theorem takeFrame_tw : u.tw = s.tw := by rw [takeFrame_eq h]

theorem takeFrame_role : u.role = s.role := takeFrame_rd h _

theorem takeFrame_paired : u.paired = s.paired := congrArg (fun v => decide (v = 1)) (takeFrame_rd h Obj.twMode)

theorem takeFrame_isProtected : u.isProtected = s.isProtected := by
  unfold State.isProtected
  rw [takeFrame_role h, takeFrame_rd h]
end

/-! ### Heartbeats in band (R350, R355) -/

theorem hbTx_due {s : State} (hp : s.paired = true) (hd : s.tw.hbSeq = 0 ∨ s.tw.pulse + 100000 ≤ s.mono) :
    hbTx s = if 2 ≤ (s.nq 6).stage then s.hbNoted.twSend (.hb s.heartbeat) else s.hbNoted := by
  have hwait : ¬ ((!s.paired) = true ∨ (s.tw.hbSeq ≠ 0 ∧ s.mono < s.tw.pulse + 100000)) := by
    rw [hp, Bool.not_true]
    rintro (hf | ⟨hseq, hlt⟩)
    · exact Bool.false_ne_true hf
    · exact hd.elim hseq (Nat.not_le.mpr hlt)
  exact if_neg hwait

theorem hbRx_hb {s u : State} {p a : Nat} {f : FabFrame} {h : Heartbeat} (ht : s.takeFrame hbFrame = (some (p, a, f), u))
    (hm : f.msg = .twin (.hb h)) : hbRx s = hbTake u h ((a : Int) + sgn 32 (u.rd (Obj.asymmetry 8))).toNat := by
  unfold hbRx
  rw [ht]
  dsimp only
  rw [hm]

/-- On a device that serves an exchange changes TimeOffset and the offsets it is the mean of, and steers nothing. -/
theorem noteOffset_serving {s : State} (hs : s.role < 2) (o : Option Int) : (noteOffset s o).mono = s.mono ∧
    (∃ os, (noteOffset s o).tw = { s.tw with offsets := os }) ∧ ∀ k, k ≠ Obj.timeOffset → (noteOffset s o).rd k = s.rd k := by
  cases o with
  | none => exact ⟨rfl, ⟨s.tw.offsets, rfl⟩, fun _ _ => rfl⟩
  | some v =>
    unfold noteOffset
    dsimp only
    rw [if_pos hs]
    exact ⟨rfl, ⟨_, rfl⟩, fun k hk => State.rd_wr_other _ _ hk⟩

/-- What a device keeps of a heartbeat of its peer, whatever their roles. -/
def hbKept (s : State) (h : Heartbeat) (arrival : Nat) : State :=
  let t := noteOffset s (exchange s h)
  { t with tw := { t.tw with
    peer := some h
    heardIn := t.mono
    silentIn := false
    mismatch := false
    rxSeq := h.hbSeq
    rxTime := arrival } }.wr Obj.twPeerSerial h.serial

theorem hbTake_named {s : State} {h : Heartbeat} (arrival : Nat) (hp : s.paired = true)
    (hn : s.rd Obj.twPeerSerialCfg = 0 ∨ s.rd Obj.twPeerSerialCfg = h.serial) : hbTake s h arrival = hbRole (hbKept s h arrival) h := by
  have hnamed : ¬ (s.rd Obj.twPeerSerialCfg ≠ 0 ∧ s.rd Obj.twPeerSerialCfg ≠ h.serial) := fun hc => hn.elim hc.1 hc.2
  unfold hbTake
  dsimp only
  rw [hp, if_neg hnamed]
  rfl

theorem hbKept_serving {s : State} (h : Heartbeat) (arrival : Nat) (hs : s.role < 2) : (hbKept s h arrival).role = s.role ∧
    (hbKept s h arrival).tw.ignoreAcks = s.tw.ignoreAcks ∧ (hbKept s h arrival).tw.heardIn = s.mono := by
  obtain ⟨hmono, ⟨os, htw⟩, hrd⟩ := noteOffset_serving hs (exchange s h)
  have hacks : (noteOffset s (exchange s h)).tw.ignoreAcks = s.tw.ignoreAcks := by rw [htw]
  refine ⟨?_, hacks, hmono⟩
  exact (State.rd_wr_other _ _ (by decide)).trans (hrd _ (by decide))

/-- To an ACTIVE that heeds acknowledgements a STANDBY's heartbeat means that it is protected. -/
theorem hbRole_armed {s : State} {h : Heartbeat} (hr : s.role = 1) (hi : s.tw.ignoreAcks = false) (h2 : h.role = 2)
    (ho : h.takeover = false) : hbRole s h = s.wr Obj.twProtected 1 := by
  have h1 : h.role ≠ 1 := by omega
  have h3 : h.role ≠ 3 := by omega
  unfold hbRole
  rw [hr]
  dsimp only
  rw [ho, if_neg Bool.false_ne_true, if_neg h1, if_neg h3, if_neg (fun hc => hc.2 h2)]
  exact if_pos ⟨h2, by rw [hi]; exact Bool.false_ne_true⟩

/-! ### Symbols out of band (R351, R352) -/

/-- A symbol of the present slot sent, with what it leaves pending. -/
def symbolSent (s : State) (y : Twin) (code : Nat) : State :=
  { s with tw := { y with hbSlot := s.mono / 250000 + 1 } }.emit (.hbSymbol code (decide (s.role = 1)) (decide (s.role = 2)))

/-- Once a slot, of what is pending the first in the order DISARM, TAKEOVER, FAIL, ALIVE. -/
theorem hbSymbolTx_due {s : State} (hp : s.paired = true) (hb : s.pw.boot ≠ .unpowered) (hs : s.tw.hbSlot < s.mono / 250000 + 1) :
    hbSymbolTx s = if s.tw.disarm then symbolSent s { s.tw with disarm := false } 3
      else if s.tw.takeover then symbolSent s { s.tw with takeover := false } 2
      else if s.tw.failReport then symbolSent s { s.tw with failReport := false, planned := false } 1
      else if s.tw.pulseLost then symbolSent s s.tw 1
      else if s.mono ≤ s.tw.pulse + s.thbNs then symbolSent s s.tw 0
      else s := by
  have hdue : ¬ (s.pw.boot = .unpowered ∨ s.mono / 250000 + 1 ≤ s.tw.hbSlot) := fun hc => hc.elim hb (Nat.not_le.mpr hs)
  unfold hbSymbolTx
  dsimp only
  rw [if_neg hdue, hp]
  rfl

theorem hbSymbolTx_alive {s : State} (hp : s.paired = true) (hb : s.pw.boot ≠ .unpowered) (hs : s.tw.hbSlot < s.mono / 250000 + 1)
    (hd : s.tw.disarm = false) (ht : s.tw.takeover = false) (hf : s.tw.failReport = false)
    (hl : s.tw.pulseLost = true ∨ s.mono ≤ s.tw.pulse + s.rd Obj.thb * 1000) :
    hbSymbolTx s = symbolSent s s.tw (if s.tw.pulseLost then 1 else 0) := by
  rw [hbSymbolTx_due hp hb hs, hd, ht, hf, if_neg Bool.false_ne_true, if_neg Bool.false_ne_true, if_neg Bool.false_ne_true]
  cases hlost : s.tw.pulseLost with
  | true => rfl
  | false => exact if_pos (hl.resolve_left (by rw [hlost]; exact Bool.false_ne_true))

/-- What a received symbol brings, by its code: ALIVE, FAIL, TAKEOVER, DISARM. -/
def symbolTaken (u : State) : Nat → State
  | 0 => { u with tw := { u.tw with heardOob := u.mono, silentOob := false } }
  | 1 => equinox u
  | 2 => fence u
  | _ => disarmed u

/-- A symbol of right parity on a paired device in operation, as the wake it is leaves that device. -/
theorem hbSymbolRx_paired {s u : State} (code : Nat) (hw : s.wake .hbRx = u) (hr : u.running = true) (hp : u.paired = true) :
    hbSymbolRx s code true = symbolTaken u code := by
  unfold hbSymbolRx
  dsimp only
  rw [hw, hr, hp]
  rfl

/-! ### Liveness and silence (R351, R352, R357) -/

theorem livenessTimeout_missed {s : State} (hp : s.paired = true) (hl : s.tw.pulseLost = false) (hd : s.tw.pulse + s.rd Obj.thb * 1000 ≤ s.mono) :
    livenessTimeout s = { fence s with tw := { (fence s).tw with pulseLost := true } } :=
  if_pos ⟨hp, by rw [hl]; exact Bool.false_ne_true, hd⟩

theorem fence_other {s : State} (h : s.role ≠ 1) : fence s = s := if_neg (fun hc => h hc.1)

theorem fence_active {s : State} (h : s.role = 1) :
    (fence s).tw.fenced = true ∧ (s.tw.fenced = false → (fence s).tw.fenceAt = s.mono) := by
  unfold fence
  by_cases hf : s.tw.fenced = true
  · rw [if_neg (fun hc => hc.2 hf)]
    exact ⟨hf, fun h0 => absurd (hf.symm.trans h0) Bool.noConfusion⟩
  · rw [if_pos ⟨h, hf⟩, State.event_tw]
    exact ⟨rfl, fun _ => rfl⟩

theorem inc_role (s : State) {k : Nat} (h : Obj.twRole ≠ k) : (s.inc k).role = s.role := rd_inc_other s h

/-- In-band silence newly met while the other path is heard: it counts, and is told. -/
theorem peerSilence_inBand {s : State} (hp : s.paired = true) (hs : s.tw.silentIn = false) (hi : s.tw.heardIn + s.rd Obj.thb * 1000 ≤ s.mono)
    (ho : s.mono < s.tw.heardOob + s.rd Obj.thb * 1000) :
    peerSilence s = ({ s with tw := { s.tw with silentIn := true } }.inc Obj.hbSilentInband).event Ev.twinHbPathLost 0 0 := by
  have hin : decide (s.tw.heardIn + s.thbNs ≤ s.mono) = true := decide_eq_true hi
  have hoob : decide (s.tw.heardOob + s.thbNs ≤ s.mono) = false := decide_eq_false (Nat.not_le.mpr ho)
  unfold peerSilence
  dsimp only
  rw [hp, hin, hoob, hs]
  rfl

/-- In-band silence newly met by a STANDBY that already knows the other path silent: it takes over. -/
theorem peerSilence_both {s : State} (hp : s.paired = true) (hr : s.role = 2) (hs : s.tw.silentIn = false) (hso : s.tw.silentOob = true)
    (hi : s.tw.heardIn + s.rd Obj.thb * 1000 ≤ s.mono) (ho : s.tw.heardOob + s.rd Obj.thb * 1000 ≤ s.mono) :
    peerSilence s = equinox ({ s with tw := { s.tw with silentIn := true } }.inc Obj.hbSilentInband) := by
  have hin : decide (s.tw.heardIn + s.thbNs ≤ s.mono) = true := decide_eq_true hi
  have hoob : decide (s.tw.heardOob + s.thbNs ≤ s.mono) = true := decide_eq_true ho
  have hrole : ({ s with tw := { s.tw with silentIn := true } }.inc Obj.hbSilentInband).role = 2 := (inc_role _ (by decide)).trans hr
  unfold peerSilence
  dsimp only
  rw [hp, hin, hoob, hs, hso]
  exact if_pos hrole

end Sys2Proof.Machine

open Sys2Proof Sys2Proof.Machine

/-- Settles O40: each row's own equation; an armed peer's heartbeat by what is kept of it, a symbol by the order of what is pending. -/
theorem twinHeartbeats : Obligations.twin_heartbeats := by
  unfold Obligations.twin_heartbeats
  intro s hr hp
  refine ⟨fun hd => ?send, fun p a f t h ht hm => next_running hr ((hbRx_hb ht hm)),
    fun p a f t h ht hm h1 h2 ho hi hn => ?armed, fun hb hs => ?symbols, fun act armed u hw hru hpu => ?received,
    fun hl hd => ?missed, fun hs hi ho => next_running hr ((peerSilence_inBand hp hs hi ho)),
    fun h2 hs hso hi ho => next_running hr ((peerSilence_both hp h2 hs hso hi ho)),
    fun hsync hc hd => (next_if hr).trans (next_if ⟨hsync, hc, hd⟩)⟩
  case send =>
    exact ⟨s.heartbeat, s.hbNoted, next_running hr ((hbTx_due hp hd)), rfl, rfl, rfl, rfl, rfl, rfl, rfl, rfl,
      rfl, rfl, rfl, rfl, rfl⟩
  case armed =>
    have hrole : t.role = 1 := (takeFrame_role ht).trans h1
    have hpaired : t.paired = true := (takeFrame_paired ht).trans hp
    have hnamed : t.rd Obj.twPeerSerialCfg = 0 ∨ t.rd Obj.twPeerSerialCfg = h.serial := by rwa [takeFrame_rd ht]
    obtain ⟨hkrole, hkacks, hkheard⟩ := hbKept_serving h ((a : Int) + sgn 32 (t.rd (Obj.asymmetry 8))).toNat (by rw [hrole]; decide)
    have hacks : t.tw.ignoreAcks = false := (congrArg Twin.ignoreAcks (takeFrame_tw ht)).trans hi
    have htake := (hbTake_named _ hpaired hnamed).trans (hbRole_armed (hkrole.trans hrole) (hkacks.trans hacks) h2 ho)
    refine ⟨_, next_running hr (((hbRx_hb ht hm).trans htake)), State.rd_wr_same .., rfl, ?_, rfl, rfl⟩
    exact hkheard.trans (takeFrame_mono ht)
  case symbols =>
    have hdue := hbSymbolTx_due hp hb hs
    refine ⟨fun hd => ?_, fun hd ht => ?_, fun hd ht hf => ?_,
      fun hd ht hf hl => congrArg Host.Outcome.next (hbSymbolTx_alive hp hb hs hd ht hf hl)⟩
    · rw [hd] at hdue
      exact congrArg Host.Outcome.next hdue
    · rw [hd, ht] at hdue
      exact congrArg Host.Outcome.next hdue
    · rw [hd, ht, hf] at hdue
      exact congrArg Host.Outcome.next hdue
  case received =>
    have hrx : ∀ code, exec (.hbSymbolRx code act armed true) s = .next (symbolTaken u code) := fun code =>
      congrArg Host.Outcome.next (hbSymbolRx_paired code hw hru hpu)
    exact ⟨hrx 0, hrx 1, hrx 2, fun h2 => (hrx 3).trans (congrArg Host.Outcome.next (if_neg h2)),
      fun h2 => (hrx 3).trans (congrArg Host.Outcome.next (if_pos h2))⟩
  case missed =>
    refine ⟨_, congrArg Host.Outcome.next (livenessTimeout_missed hp hl hd), rfl, fence_active, fun h1 => ?_⟩
    rw [fence_other h1]
end

section
/-! PROOFS. The journal between the twins, and what else a TWIN_CTRL frame asks (R349, R354, R355, R361, R362). -/

namespace Sys2Proof.Machine

/-! ### Entries received (R354, R355) -/

theorem journalRx_journal {s u : State} {p a : Nat} {f : FabFrame} {es : List JEntry}
    (ht : s.takeFrame journalFrame = (some (p, a, f), u)) (hm : f.msg = .twin (.journal es)) : journalRx s = journalTake u es := by
  unfold journalRx
  rw [ht]
  dsimp only
  rw [hm]

/-- A STANDBY acknowledges the entry before the next it expects, asks again at a gap, and applies. -/
def standbyAnswers (s : State) (gap : Bool) : State :=
  let t := s.twSend (.ack ((s.tw.rxNext + 0xFFFFFFFF) % 0x100000000))
  applyStored (if gap then t.twSend (.ctrl (.resend (some s.tw.rxNext))) else t)

theorem journalTake_standby {s t : State} {es : List JEntry} {gap : Bool} (h2 : s.role = 2) (he : es.foldl storeEntry (s, false) = (t, gap))
    (ht : t.role = 2) : journalTake s es = standbyAnswers t gap := by
  unfold journalTake
  rw [if_pos (Or.inl h2), he]
  exact if_pos ht

/-- A device that serves takes no entry. -/
theorem journalTake_serving {s : State} (es : List JEntry) (h : s.role < 2) : journalTake s es = s := if_neg (by omega)

theorem storeEntry_next {s : State} {e : JEntry} (hc : e.crcOk = true) (hf : e.first = s.tw.rxNext) :
    storeEntry (s, false) e = ({ s with tw := { s.tw with
      stored := s.tw.stored ++ [e]
      rxNext := (e.jseq + 1) % 0x100000000 } }, false) := by
  unfold storeEntry
  dsimp only
  rw [hc, if_pos hf]
  rfl

theorem storeEntry_damaged {s : State} {e : JEntry} (hc : e.crcOk = false) : storeEntry (s, false) e = (s, true) := by
  unfold storeEntry
  dsimp only
  rw [hc]
  rfl

/-! ### Acknowledgements and repetitions (R354, R355) -/

theorem role_of_isProtected {s : State} (h : s.isProtected = true) : s.role = 1 := of_decide_eq_true (Bool.and_eq_true_iff.mp h).1

theorem journalAckRx_ack {s u : State} {p a j : Nat} {f : FabFrame} (ht : s.takeFrame ackFrame = (some (p, a, f), u))
    (hm : f.msg = .twin (.ack j)) : journalAckRx s = ackTake u j := by
  unfold journalAckRx
  rw [ht]
  dsimp only
  rw [hm]

theorem ackTake_heeded {s : State} (j : Nat) (hp : s.isProtected = true) (hi : s.tw.ignoreAcks = false) :
    ackTake s j = drain ({ s with tw := { s.tw with sent := s.tw.sent.filter (fun e => jAfter e.entry.jseq j) } }.wr Obj.jseqCommitted j) := by
  have hheeded : ¬ (s.role ≠ 1 ∨ s.tw.ignoreAcks = true ∨ ¬ s.isProtected = true) := by
    rw [hi, hp, role_of_isProtected hp]
    decide
  exact if_neg hheeded

/-- An entry not yet sent again whose 200 µs are over. -/
def resendDue (s : State) (e : JSent) : Bool := !e.resent && decide (e.sent + 200000 ≤ s.mono)

theorem resendDue_iff (s : State) (e : JSent) : resendDue s e = true ↔ e.resent = false ∧ e.sent + 200000 ≤ s.mono := by
  simp [resendDue]

theorem resendExpiry_due {s : State} (hp : s.isProtected = true) (hne : s.tw.sent.filter (resendDue s) ≠ []) :
    resendExpiry s = ({ s with tw := { s.tw with sent := s.tw.sent.map (fun (x : JSent) =>
      if x.resent = false ∧ x.sent + 200000 ≤ s.mono then { x with sent := s.mono, resent := true } else x) } }.twSend
        (.journal ((s.tw.sent.filter (resendDue s)).map JSent.entry))).count Obj.journalResends (s.tw.sent.filter (resendDue s)).length := by
  have hsome : ¬ (s.tw.sent.filter (resendDue s)).isEmpty = true := fun h => hne (List.isEmpty_iff.mp h)
  have hresend : resendExpiry s = resend s (resendDue s) := if_pos hp
  rw [hresend]
  unfold resend
  dsimp only
  rw [if_neg hsome]
  simp only [resendDue_iff]

/-- An entry sent again and still unacknowledged after 200 µs more: DISARM in band at once and out of band with the next symbol. -/
theorem standbyLost_due {s : State} {e : JSent} (hm : e ∈ s.tw.sent) (hp : s.isProtected = true) (hr : e.resent = true)
    (hd : e.sent + 200000 ≤ s.mono) :
    standbyLost s = unprotect ({ s with tw := { s.tw with disarm := true } }.twSend (.ctrl .disarm)) := by
  have hlost : s.tw.sent.any (fun e => e.resent && decide (e.sent + 200000 ≤ s.mono)) = true :=
    List.any_eq_true.mpr ⟨e, hm, by rw [hr, decide_eq_true hd]; rfl⟩
  exact if_pos ⟨hp, hlost⟩

/-! ### TWIN_CTRL frames (R349, R355, R361, R362) -/

/-- A TWIN_CTRL frame taken leaves the fabric's inbox; the rest of the state stays. -/
theorem takeCtrl_eq {s u : State} {sel : TwinCtrl → Bool} {c : TwinCtrl} (h : takeCtrl s sel = (some c, u)) :
    ∃ b, u = { s with fb := b } := by
  unfold takeCtrl at h
  split at h
  · split at h
    · injection h with _ hu
      rw [← hu]
      exact ⟨_, takeFrame_eq ‹_›⟩
    · cases h
  · cases h

theorem takeCtrl_role {s u : State} {sel : TwinCtrl → Bool} {c : TwinCtrl} (h : takeCtrl s sel = (some c, u)) : u.role = s.role := by
  obtain ⟨b, rfl⟩ := takeCtrl_eq h
  rfl

theorem takeCtrl_paired {s u : State} {sel : TwinCtrl → Bool} {c : TwinCtrl} (h : takeCtrl s sel = (some c, u)) : u.paired = s.paired := by
  obtain ⟨b, rfl⟩ := takeCtrl_eq h
  rfl

/-- What the servo does as it leaves the twin's reference says nothing of the twin's role. -/
theorem servoLeavesTwin_role (s : State) : (servoLeavesTwin s).role = s.role := by
  unfold servoLeavesTwin
  split
  · unfold toHoldover State.role
    dsimp only
    rw [State.event_rd _ _ _ _ _ (by decide)]
    exact State.rd_wr_other s (j := Obj.twRole) (k := Obj.servoState) 3 (by decide)
  · rfl

theorem setRole_serving_role (s : State) {r : Nat} (h : r < 2) : (setRole s r).role = r := by
  have hset : setRole s r = servoLeavesTwin (s.wr Obj.twRole r) := if_neg (Nat.not_le.mpr h)
  rw [hset, servoLeavesTwin_role]
  exact State.rd_wr_same ..

theorem detach_rd {s : State} (h : s.role ≠ 0) (k : Nat) : (detach s).rd k =
    (((setRole (dropJournal (if s.role = 1 then s else twinReset s)) 0).wr Obj.twProtected 0).wr Obj.coldReason 0).rd k := by
  unfold detach
  rw [if_neg h]
  rfl

theorem detach_forgets {s : State} (h : s.role ≠ 0) :
    (detach s).tw.peer = none ∧ (detach s).tw.stored = [] ∧ (detach s).tw.snapAsked = false := by
  unfold detach
  rw [if_neg h]
  exact ⟨rfl, rfl, rfl⟩

/-- The pair parted, the device is SOLO, unprotected, with no peer and no snapshot. -/
theorem detach_solo {s : State} (h : s.role ≠ 0) : (detach s).role = 0 ∧ (detach s).rd Obj.twProtected = 0 ∧
    (detach s).rd Obj.coldReason = 0 ∧ (detach s).tw.peer = none ∧ (detach s).tw.stored = [] ∧ (detach s).tw.snapAsked = false := by
  refine ⟨(detach_rd h _).trans ?_, (detach_rd h _).trans ?_, (detach_rd h _).trans (State.rd_wr_same ..), detach_forgets h⟩
  · rw [State.rd_wr_other _ _ (by decide), State.rd_wr_other _ _ (by decide)]
    exact setRole_serving_role _ (by decide)
  · rw [State.rd_wr_other _ _ (by decide), State.rd_wr_same]

theorem ctrlDetach_paired {s u : State} {c : TwinCtrl} (h : takeCtrl s (fun c => decide (c = .detach)) = (some c, u))
    (hp : s.paired = true) : ctrlDetach s = detach u := by
  unfold ctrlDetach
  rw [h]
  exact if_pos ((takeCtrl_paired h).trans hp)

theorem ctrlDisarm_disarm {s u : State} {c : TwinCtrl} (h : takeCtrl s (fun c => decide (c = .disarm)) = (some c, u)) :
    ctrlDisarm s = disarmed u := by
  unfold ctrlDisarm
  rw [h]

theorem ctrlProof_kekProof {s u : State} {w : Wrapped} (h : takeCtrl s TwinCtrl.isProof = (some (.kekProof w), u)) :
    ctrlProof s = { u with tw := { u.tw with kekProof := (twinMaterial u 8 w).isSome } } := by
  unfold ctrlProof
  rw [h]

/-- An ACTIVE is asked for its entries from one on. -/
theorem ctrlResend_entries {s u : State} {n : Nat} (h : takeCtrl s TwinCtrl.isResend = (some (.resend (some n)), u)) (h1 : s.role = 1) :
    ctrlResend s = resend u (fun e => !jAfter n e.entry.jseq) := by
  unfold ctrlResend
  rw [h]
  exact if_pos ((takeCtrl_role h).trans h1)

theorem ctrlResend_snapshot {s u : State} (h : takeCtrl s TwinCtrl.isResend = (some (.resend none), u)) : ctrlResend s = sendSnapshot u := by
  unfold ctrlResend
  rw [h]

end Sys2Proof.Machine

open Sys2Proof Sys2Proof.Machine

/-- Settles O41: an entry by what the store makes of it and the STANDBY's answer, every other row by its own equation. -/
theorem twinJournalExchange : Obligations.twin_journal_exchange := by
  unfold Obligations.twin_journal_exchange
  intro s hr
  refine ⟨fun p a f t e ht hm h2 => ?entry, fun p a f t es ht hm hs => ?serving, fun p a f t j ht hm hp hi => ?ack,
    fun es hp he hne => ?again, fun e hm hp hre hd => ⟨_, next_running hr (standbyLost_due hm hp hre hd), rfl⟩,
    fun c t ht hp h0 => ?detach, fun c t ht => ?disarm, fun w t ht => next_running hr (ctrlProof_kekProof ht), fun r t ht h1 => ?resend⟩
  case entry =>
    have hrole : t.role = 2 := (takeFrame_role ht).trans h2
    have htw : s.tw = t.tw := (takeFrame_tw ht).symm
    have hrx := journalRx_journal ht hm
    rw [htw]
    exact ⟨fun hc hf => next_running hr (hrx.trans (journalTake_standby (es := [e]) hrole (storeEntry_next hc hf) hrole)),
      fun hc => next_running hr (hrx.trans (journalTake_standby (es := [e]) hrole (storeEntry_damaged hc) hrole))⟩
  case serving =>
    exact next_running hr ((journalRx_journal ht hm).trans (journalTake_serving es ((takeFrame_role ht).trans_lt hs)))
  case ack =>
    rw [← takeFrame_tw ht] at hi ⊢
    exact next_running hr ((journalAckRx_ack ht hm).trans (ackTake_heeded j ((takeFrame_isProtected ht).trans hp) hi))
  case again =>
    subst he
    exact next_running hr (resendExpiry_due hp hne)
  case detach => exact ⟨_, next_running hr (ctrlDetach_paired ht hp), detach_solo (by rwa [takeCtrl_role ht])⟩
  case disarm =>
    rw [← takeCtrl_role ht]
    exact ⟨fun h2 => next_running hr ((ctrlDisarm_disarm ht).trans (if_pos h2)),
      fun h2 => next_running hr ((ctrlDisarm_disarm ht).trans (if_neg h2))⟩
  case resend =>
    cases r with
    | some n => exact next_running hr (ctrlResend_entries ht h1)
    | none => exact next_running hr (ctrlResend_snapshot ht)
end

section
/-! PROOFS. The snapshot of a COLD device, from its frames to the arming checks (R361, R362). -/

namespace Sys2Proof.Machine

theorem snapshotRx_snapshot {s u : State} {p a : Nat} {f : FabFrame} {es : List JEntry}
    (ht : s.takeFrame snapshotFrame = (some (p, a, f), u)) (hm : f.msg = .twin (.snapshot es)) : snapshotRx s = snapshotTake u es := by
  unfold snapshotRx
  rw [ht]
  dsimp only
  rw [hm]

/-- A COLD device that asked for a snapshot stores the entries of a frame, unless they are damaged, leave a gap after J0 or overflow. -/
theorem snapshotTake_asked {s : State} (es : List JEntry) (h3 : s.role = 3) (ha : s.tw.snapAsked = true) :
    snapshotTake s es = if ∃ e ∈ es, e.crcOk = false then askSnapshot s
      else if storedFollows (es.foldl snapEntry s) = false ∨ 268435456 < storedOctets (es.foldl snapEntry s).tw.stored then
        askSnapshot (es.foldl snapEntry s)
      else es.foldl snapEntry s := by
  have hasked : ¬ (s.role ≠ 3 ∨ ¬ s.tw.snapAsked = true) := fun hc => hc.elim (fun h => h h3) (fun h => h ha)
  unfold snapshotTake
  dsimp only
  rw [if_neg hasked]
  simp only [List.any_eq_true, Bool.not_eq_true']

/-- Any entry of a snapshot that neither begins nor ends it is stored. -/
theorem snapEntry_stored (s : State) {e : JEntry} (hb : ∀ j, e.body ≠ .snapBegin j) (he : ∀ j d, e.body ≠ .snapEnd j d) :
    (snapEntry s e).tw.snapStored = s.tw.snapStored ++ [e] := by
  unfold snapEntry
  split
  · exact absurd ‹_› (hb _)
  · exact absurd ‹_› (he _ _)
  · rfl

section
variable {s : State} {j d : Nat} (hj : s.tw.snapStarted = some j) (hd : s.tw.snapEnd = some d) (h3 : s.role = 3)
include hj hd h3

/-- A configuration of another digest than the snapshot's: one more snapshot, and after that COLD with DIGEST. -/
theorem snapshotApplied_differs (h : pointDigest (applySnapshot s.tw.snapStored [] (twinReset s)) ≠ d) :
    snapshotApplied s =
      let u := applySnapshot s.tw.snapStored [] (twinReset s)
      if s.tw.snapRetried then stayCold { u with tw := { u.tw with
        snapAsked := false
        snapStarted := none
        snapStored := []
        snapEnd := none
        stored := [] } } 3
      else askSnapshot { u with tw := { u.tw with snapRetried := true } } := by
  unfold snapshotApplied
  rw [hj, hd]
  dsimp only
  rw [if_neg (not_not_intro h3), if_pos h]

/-- A configuration of the snapshot's digest takes the entries stored beyond it; where none is refused the arming checks follow. -/
theorem snapshotApplied_agrees {rest : List JEntry} {t : State} (h : pointDigest (applySnapshot s.tw.snapStored [] (twinReset s)) = d)
    (he : applyEntries s.tw.stored [] (
      let u := applySnapshot s.tw.snapStored [] (twinReset s)
      noteSum { u with tw := { u.tw with
        snapAsked := false
        snapStarted := none
        snapStored := []
        snapEnd := none
        snapRetried := false
        sums := [] } } j) = (rest, t, false)) :
    snapshotApplied s = armCheck ({ t with tw := { t.tw with stored := rest } }.wr Obj.syncProgress 1000) := by
  unfold snapshotApplied
  rw [hj, hd]
  dsimp only at he ⊢
  rw [if_neg (not_not_intro h3), if_neg (not_not_intro h), he]
end

end Sys2Proof.Machine

open Sys2Proof Sys2Proof.Machine

/-- Settles O42: a frame by the three ends that taking its entries can have, the snapshot's end by its digest. -/
theorem twinSnapshot : Obligations.twin_snapshot := by
  unfold Obligations.twin_snapshot
  intro s hr h3
  refine ⟨fun p a f t es ht hm ha => ?frame, fun t e => ⟨fun j hb => ?begins, fun j d hb => ?ends, snapEntry_stored t⟩,
    fun j d u hj hd hu => ?applied⟩
  case frame =>
    have htake := (snapshotRx_snapshot ht hm).trans
      (snapshotTake_asked es ((takeFrame_role ht).trans h3) ((congrArg Twin.snapAsked (takeFrame_tw ht)).trans ha))
    refine ⟨fun hbad => next_running hr (htake.trans (if_pos hbad)), fun hok hfollows hroom => ?_, fun hok hlost => ?_⟩
    all_goals
      have hgood : ¬ ∃ e ∈ es, e.crcOk = false := fun ⟨e, he, hc⟩ => Bool.false_ne_true (hc.symm.trans (hok e he))
    · have hkept : ¬ (storedFollows (es.foldl snapEntry t) = false ∨ 268435456 < storedOctets (es.foldl snapEntry t).tw.stored) := by
        rw [hfollows]
        exact fun hc => hc.elim Bool.noConfusion (Nat.not_lt.mpr hroom)
      exact next_running hr (htake.trans ((if_neg hgood).trans (if_neg hkept)))
    · exact next_running hr (htake.trans ((if_neg hgood).trans (if_pos hlost)))
  case begins =>
    unfold snapEntry
    rw [hb]
    exact ⟨rfl, rfl⟩
  case ends =>
    unfold snapEntry
    rw [hb]
    rfl
  case applied =>
    subst hu
    refine ⟨fun hne hret => ?_, fun hne hret => ?_, fun heq rest t he => next_running hr (snapshotApplied_agrees hj hd h3 heq he)⟩
    all_goals
      refine next_running hr ((snapshotApplied_differs hj hd h3 hne).trans ?_)
      rw [hret]
      rfl
end

section
/-! PROOFS. The step and reset: the command at the front, time on an empty queue, what no command touches, the fuses (R365, R382, R398, R402). -/

namespace Sys2Proof.Machine

/-! ### Every command -/

/-- Each arm of the dispatch ends in `.next`: none refuses its command and none faults. -/
theorem exec_next (c : Instr) (s : State) : ∃ t, exec c s = .next t := by
  cases c <;> exact ⟨_, rfl⟩

theorem exec_keeps {c : Instr} {s t : State} (e : exec c s = .next t) : Keeps s t :=
  keeps_next (keeps_exec c s (Keeps.refl s)) e

/-! ### Fuses (R398) -/

/-- Time blows no fuse. -/
theorem idle_sec (s : State) : (idle s).sec = s.sec := by
  obtain ⟨tod, tm, pw, h⟩ := idle_eq s
  rw [h]

theorem step_fuses_grown {s t : State} (e : step s = .next t) : Fuses.grown s.sec.fuses t.sec.fuses = true := by
  cases hp : s.pending with
  | nil =>
    rw [step_nil hp] at e
    cases e
    rw [idle_sec]
    exact Fuses.grown_refl _
  | cons c r =>
    rw [step_cons hp] at e
    exact (exec_keeps e).fuses

/-! ### Reset (R391, R402) -/

theorem reset_rd (k : Nat) : State.reset.rd k = dfltOf k := rfl

theorem reset_shadow (k : Nat) : AMap.get (dfltOf k) k State.reset.shadow = dfltOf k := rfl

theorem reset_q (n : Nat) : State.reset.q n = Queue.empty := rfl

theorem reset_ring (r : Nat) : State.reset.ring r = Ring.reset := rfl

theorem reset_mailboxes (n : Nat) : (State.reset.h2d n).go = false ∧ (State.reset.d2h n).go = false := ⟨rfl, rfl⟩

end Sys2Proof.Machine

open Sys2Proof Sys2Proof.Machine

/-- Settles O1, by the step's equation for a queue that holds a command. -/
theorem stepRunsFrontCommand : Obligations.step_runs_front_command := by
  unfold Obligations.step_runs_front_command
  intro c r s hp
  exact step_cons hp

/-- Settles O2: a nanosecond without a command writes the clocks, the time unit and the power state alone. -/
theorem idleStepMovesTheClocksAlone : Obligations.idle_step_moves_the_clocks_alone := by
  unfold Obligations.idle_step_moves_the_clocks_alone
  intro s hp
  obtain ⟨tod, tm, pw, h⟩ := idle_eq s
  refine ⟨idle s, step_nil hp, ?_⟩
  rw [h]
  exact ⟨rfl, hp, rfl, rfl, rfl, rfl, rfl, rfl, rfl, rfl, rfl, rfl, rfl, rfl, rfl⟩

/-- Settles O3: the lists of the reset state are empty, so that every read answers its default. -/
theorem resetState : Obligations.reset_state := by
  unfold Obligations.reset_state
  exact ⟨rfl, rfl, rfl, rfl, reset_rd, reset_shadow, reset_q, reset_ring, reset_mailboxes, rfl, rfl, rfl, rfl, rfl, rfl⟩

/-- Settles O5: time blows no fuse, and every command `Keeps` what is blown. -/
theorem fusesAreNeverUnblown : Obligations.fuses_are_never_unblown := by
  unfold Obligations.fuses_are_never_unblown
  exact fun s t e => step_fuses_grown e

/-- Settles O6: every command `Keeps` the queue and the clock, only draws further and only adds to what was sent. -/
theorem commandsLeaveQueueAndClock : Obligations.commands_leave_queue_and_clock := by
  unfold Obligations.commands_leave_queue_and_clock
  intro c s t e
  have k := exec_keeps e
  exact ⟨k.pending, k.mono, k.draws, k.out⟩

/-- Settles O7, arm by arm of the dispatch. -/
theorem noCommandIsRefused : Obligations.no_command_is_refused := by
  unfold Obligations.no_command_is_refused
  exact exec_next
end

section
/-! PROOFS. Season changes (R382, R383, R386, R387, R389, R390). -/

namespace Sys2Proof.Machine

/-! ### Into SPRING (R382, R383) -/

theorem summerHold_ends {s : State} (hs : s.season = .summer) (hd : hasDemand s = false)
    (h : s.rd Obj.target ≤ 1 ∨ (s.rd Obj.summerHold ≠ 0 ∧ s.pw.idleSince + s.rd Obj.summerHold * ms ≤ s.mono)) : summerHold s = enterSpring s :=
  if_pos ⟨hs, ne_true_of_eq_false hd, h⟩

theorem autumnDrained_idle {s : State} (hs : s.season = .autumn) (hb : seasonBusy s = false) : autumnDrained s = enterSpring s :=
  if_pos ⟨hs, ne_true_of_eq_false hb⟩

/-! ### WINTER and MIDWINTER (R386, R387) -/

/-- Whatever the sessions, keys and ports leave behind, the entry ends in WINTER with the watchdog stopped. -/
theorem winterEntry_enters {s : State} (hs : s.season = .spring) (hw : s.pw.winterEntry = true) (hd : hasDemand s = false) :
    (winterEntry s).season = .winter ∧ (winterEntry s).rd Obj.seasonNow = 1 ∧ (winterEntry s).pw.winterEntry = false ∧
    (winterEntry s).ig.wdAt = none := by
  unfold winterEntry
  rw [if_pos ⟨hs, hw, ne_true_of_eq_false hd⟩]
  dsimp only
  generalize fabricDown _ = u
  exact ⟨u.enterSeason_season .winter, u.enterSeason_seasonNow .winter, rfl, rfl⟩

theorem pmeTurnOff_winter {s : State} (hs : s.season = .winter) :
    pmeTurnOff s = { s with pw := { s.pw with linkL2 := true } }.emit .pmeToAck := if_pos hs

/-- The always-on domain alone stays on. -/
theorem powerOff_facts {s : State} (hs : s.season ≠ .midwinter) : (powerOff s).season = .midwinter ∧ (powerOff s).pw.mainPwrEn = false ∧
    (powerOff s).pw.boot = .waitPwrOk ∧ (powerOff s).mem = [] := by
  unfold powerOff
  dsimp only
  rw [if_neg hs, State.enterSeason_pw, State.enterSeason_mem]
  exact ⟨State.enterSeason_season _ _, rfl, rfl, rfl⟩

theorem midwinterEntry_enters {s : State} (hs : s.season = .winter) (hl : s.pw.linkL2 = true) (ht : s.rd Obj.target = 0)
    (hn : s.pw.thawFrom = none) : midwinterEntry s = powerOff s :=
  if_pos ⟨hs, hl, ht, by rw [hn]; rfl⟩

/-! ### The rise to SUMMER (R382) -/

/-- With no request waiting for SUMMER the rise changes the season and starts the hold. -/
theorem summerReached_rises {s : State} (hs : s.season = .spring) (hr : s.pw.rising = true) (hh : s.pw.held = []) :
    (summerReached s).season = .summer ∧ (summerReached s).rd Obj.seasonNow = 3 ∧ (summerReached s).pw.rising = false ∧
    (summerReached s).pw.idleSince = s.mono := by
  have hheld : (s.enterSeason .summer).pw.held = [] := by rw [State.enterSeason_pw]; exact hh
  unfold summerReached releaseSummer
  dsimp only
  rw [if_pos ⟨hs, hr⟩, hheld]
  exact ⟨State.enterSeason_season _ _, State.enterSeason_seasonNow _ .summer, rfl, State.enterSeason_mono _ _⟩

/-! ### The end of a thaw (R389) -/

/-- The device as a thaw leaves it just before it enters SPRING. -/
def thawed (s : State) : State :=
  let t := s.wr Obj.lastThaw (min 0xFFFFFFFF ((s.mono - s.pw.wakeAt) / 1000))
  { t with
    pw := { s.pw with thawFrom := none, linkL2 := false, idleSince := s.mono }
    ig := { s.ig with wdAt := some s.mono, wdWarned := false } }.wr Obj.debugOpen (openLevels s)

theorem thawComplete_winter {s : State} (hs : s.season = .winter) (ht : s.pw.thawFrom = some .winter) :
    thawComplete s = doorbellsThaw (fabricUp ((thawed s).enterSeason .spring)) := if_pos ⟨hs, ht⟩

theorem thawed_spring_rd (s : State) {k : Nat} (h : k / 0x100000000 ≠ 0xE010) (h1 : k ≠ Obj.seasonNow) (h2 : k ≠ Obj.debugOpen)
    (h3 : k ≠ Obj.lastThaw) : ((thawed s).enterSeason .spring).rd k = s.rd k := by
  rw [State.enterSeason_rd _ _ _ h h1]
  exact (State.rd_wr_other _ _ h2).trans (State.rd_wr_other s _ h3)

/-- No enabled port and no pair: nothing of the fabric comes up. -/
theorem fabricUp_thawed {s : State} (hp : s.paired = false) (hn : ∀ p, p < 6 → s.rd (Obj.nqEnable p) ≠ 1) :
    fabricUp ((thawed s).enterSeason .spring) = (thawed s).enterSeason .spring := by
  refine fabricUp_idle _ ?_ (fun p h => ?_)
  · refine Eq.trans ?_ hp
    unfold State.paired
    rw [thawed_spring_rd s (by decide) (by decide) (by decide) (by decide)]
  · have hk : Obj.nqEnable p / 0x100000000 ≠ 0xE010 ∧ Obj.nqEnable p ≠ Obj.seasonNow ∧ Obj.nqEnable p ≠ Obj.debugOpen ∧
        Obj.nqEnable p ≠ Obj.lastThaw := by
      unfold Obj.nqEnable Obj.seasonNow Obj.debugOpen Obj.lastThaw key
      omega
    obtain ⟨hlog, hnow, hdebug, hlast⟩ := hk
    rw [thawed_spring_rd s hlog hnow hdebug hlast]
    exact hn p h

theorem doorbellsThaw_noRing {s : State} (h : s.rings = []) : doorbellsThaw s = s := by
  unfold doorbellsThaw
  rw [h]
  rfl

theorem enterSeason_noRing {s : State} (h : s.rings = []) (x : Season) : (s.enterSeason x).rings = [] := by
  unfold State.enterSeason
  refine State.event_noRing ?_ _ _ _
  exact h

theorem releaseTaken_nothing {s : State} (h : s.pw.held = []) : releaseTaken s = s := by
  have hkeep : ({ s with pw := { s.pw with held := [] } } : State) = s := by rw [← h]
  unfold releaseTaken
  rw [hkeep, h]
  rfl

theorem releaseKept_nothing {s : State} (h : s.pw.kept = none) : releaseKept s = s := by
  unfold releaseKept
  rw [h]

/-- A thaw with nothing to bring up and nothing that waited ends in SPRING. -/
theorem thawEnd_spring {s : State} (hs : s.season = .winter) (ht : s.pw.thawFrom = some .winter) (hh : s.pw.held = [])
    (hk : s.pw.kept = none) (hr : s.rings = []) (hp : s.paired = false) (hn : ∀ p, p < 6 → s.rd (Obj.nqEnable p) ≠ 1) :
    (thawEnd s).season = .spring ∧ (thawEnd s).rd Obj.seasonNow = 2 := by
  have hthaw : thawComplete s = (thawed s).enterSeason .spring := by
    rw [thawComplete_winter hs ht, fabricUp_thawed hp hn, doorbellsThaw_noRing (enterSeason_noRing (s := thawed s) hr _)]
  obtain ⟨hseason, hrd, hpw, -⟩ := mailThaw_facts ((thawed s).enterSeason .spring)
  have hheld : (mailThaw ((thawed s).enterSeason .spring)).pw.held = [] := by rw [hpw, State.enterSeason_pw]; exact hh
  have hkept : (mailThaw ((thawed s).enterSeason .spring)).pw.kept = none := by rw [hpw, State.enterSeason_pw]; exact hk
  unfold thawEnd
  rw [if_pos ⟨hs, ht⟩, hthaw, releaseTaken_nothing hheld, releaseKept_nothing hkept]
  exact ⟨hseason.trans (State.enterSeason_season _ _), (hrd _).trans (State.enterSeason_seasonNow _ .spring)⟩

end Sys2Proof.Machine

open Sys2Proof Sys2Proof.Machine

/-- Settles O13: each row by its own equation, and the season and its object as `State.enterSeason` leaves them. -/
theorem seasonRows : Obligations.season_rows := by
  unfold Obligations.season_rows
  intro s
  refine ⟨fun hs hd h => ?_, fun hs hb => ?_, fun hs hw hd => ⟨_, rfl, winterEntry_enters hs hw hd⟩, fun hs => ?_, fun hs hl ht hn => ?_,
    fun hr hs hrise hh => ⟨_, next_if hr, summerReached_rises hs hrise hh⟩,
    fun hs ht hh hk hr hp hn => ⟨_, rfl, thawEnd_spring hs ht hh hk hr hp hn⟩⟩
  · exact ⟨_, congrArg Host.Outcome.next (summerHold_ends hs hd h), enterSpring_season s, enterSpring_now s⟩
  · exact ⟨_, congrArg Host.Outcome.next (autumnDrained_idle hs hb), enterSpring_season s, enterSpring_now s⟩
  · exact ⟨_, congrArg Host.Outcome.next (pmeTurnOff_winter hs), rfl, hs⟩
  · exact ⟨_, congrArg Host.Outcome.next (midwinterEntry_enters hs hl ht hn), powerOff_facts (by rw [hs]; decide)⟩
end

section
/-! PROOFS. Resets (R391, R443), power-up and the clocks (R402, R441, R442, R448, R460). -/

namespace Sys2Proof.Machine

/-! ### The cause record (R425) -/

theorem recordCause_keeps (s : State) (a b c : Nat) : (recordCause s a b c).ev = s.ev ∧ (recordCause s a b c).sec = s.sec := by
  obtain ⟨f, r, n, h⟩ := recordCause_eq s a b c
  rw [h]
  exact ⟨rfl, rfl⟩

/-! ### PERST_N, SYS_RST_N and the always-on rails (R391, R441, R443) -/

/-- In operation PERST_N holds the whole main domain in reset. -/
def perstHeld (s : State) : State :=
  let t := recordCause (mainReset s) 1 0 0
  { t with pw := { t.pw with boot := .heldReset, perst := true } }

theorem perstAssert_operating {s : State} (hb : s.pw.boot ≠ .unpowered) (hs : s.season ≠ .midwinter) : perstAssert s = perstHeld s := by
  have hpcie : ¬ perstPcieOnly s = true := by
    unfold perstPcieOnly
    rw [decide_eq_false hs]
    exact Bool.false_ne_true
  unfold perstAssert
  rw [if_neg hb, if_neg hpcie]
  rfl

theorem perstAssert_pcieOnly {s : State} (hb : s.pw.boot ≠ .unpowered) (h : perstPcieOnly s = true) :
    perstAssert s = { s with hif := State.reset.hif, rings := [], pw := { s.pw with perst := true } } := by
  unfold perstAssert
  rw [if_neg hb, if_pos h]

theorem perstHeld_mem (s : State) : (perstHeld s).mem = [] := (recordCause_frame (mainReset s) 1 0 0).1

theorem perstHeld_resetKind (s : State) : (perstHeld s).rd Obj.resetKind = 1 := recordCause_kind (mainReset s) 1 0 0

theorem perstHeld_log (s : State) : (perstHeld s).ev.log = s.ev.log := (congrArg Events.log (recordCause_keeps (mainReset s) 1 0 0).1 :)

theorem perstHeld_rd (s : State) {k : Nat} (h : aonKey k = false) : (perstHeld s).rd k = dfltOf k :=
  (recordCause_rd (mainReset s) 1 0 0 k (aonKey_index k h)).trans (mainReset_rd s k h)

/-- The device as SYS_RST_N leaves it, but for the cause record. -/
def sysCleared (s : State) : State :=
  let t := mainReset s
  { t with
    dict := []
    ev := { t.ev with nextSeq := 0, rate := [] }
    sec := { t.sec with block := none, leaf := 0 }
    pw := { t.pw with
      boot := .waitPwrOk
      mainPwrEn := true
      pwrOk := false
      straps := []
      scripts := none
      fatalTimes := []
      shutdownAt := none
      lossAt := none }
    tw := State.reset.tw }

theorem sysReset_powered {s : State} (hb : s.pw.boot ≠ .unpowered) : sysReset s = recordCause (sysCleared s) 2 0 0 := if_neg hb

theorem recordCause_boot (s : State) (a b c : Nat) : (recordCause s a b c).pw.boot = s.pw.boot := by
  obtain ⟨f, r, n, h⟩ := recordCause_eq s a b c
  rw [h]
  rfl

/-- Every object but those of the cause record reads its default after SYS_RST_N. -/
theorem sysReset_rd (s : State) {k : Nat} (h : k / 0x100000000 ≠ 0xE030) : (recordCause (sysCleared s) 2 0 0).rd k = dfltOf k :=
  recordCause_rd (sysCleared s) 2 0 0 k h

/-! ### The boot flow's start (R402, R460) -/

theorem aonPowerOn_unpowered {s : State} (h : s.pw.boot = .unpowered) : aonPowerOn s =
    { recordCause s 0 0 0 with pw := { (recordCause s 0 0 0).pw with
      boot := .waitPwrOk, mainPwrEn := true, seasonSince := (recordCause s 0 0 0).mono } } := if_pos h

theorem aonPowerOn_starts {s : State} (h : s.pw.boot = .unpowered) : (aonPowerOn s).pw.boot = .waitPwrOk ∧
    (aonPowerOn s).pw.mainPwrEn = true ∧ (aonPowerOn s).rd Obj.resetKind = 0 := by
  have hon := aonPowerOn_unpowered h
  have hdict : (aonPowerOn s).dict = (recordCause s 0 0 0).dict := by rw [hon]
  exact ⟨by rw [hon], by rw [hon], (State.rd_congr hdict _).trans (recordCause_kind s 0 0 0)⟩

theorem pwrOkRise_samples {s : State} (x : Nat) (hb : s.pw.boot = .waitPwrOk) (hm : s.pw.mainPwrEn = true) :
    pwrOkRise s x = { s with pw := { s.pw with boot := .straps, pwrOk := true, straps := [x % 8] } } := if_pos ⟨hb, hm⟩

theorem strapsAgreed_of {s : State} {a : Nat} {r : List Nat} (h : s.pw.straps = a :: a :: r) : strapsAgreed s = true := by
  unfold strapsAgreed
  rw [h]
  exact decide_eq_true rfl

theorem not_strapsAgreed {s : State} {a : Nat} {r : List Nat} (h : s.pw.straps = a :: r) (hr : r = [] ∨ ∃ c q, r = c :: q ∧ a ≠ c) :
    ¬ strapsAgreed s = true := by
  unfold strapsAgreed
  rw [h]
  obtain rfl | ⟨c, q, rfl, hne⟩ := hr
  · exact Bool.false_ne_true
  · exact fun h => hne (of_decide_eq_true h)

theorem testMode_of {s : State} {a : Nat} {r : List Nat} (h : s.pw.straps = a :: r) : testMode s = bit a 2 := by
  unfold testMode
  rw [h]
  rfl

/-- The second of two equal samples starts the boot flow. -/
theorem strapResample_agrees {s : State} {x a : Nat} {r : List Nat} (hb : s.pw.boot = .straps) (hs : s.pw.straps = a :: r)
    (hr : r = [] ∨ ∃ c q, r = c :: q ∧ a ≠ c) (hx : a = x % 8) (b : Bool) :
    strapResample s x b = bootFlow { s with pw := { s.pw with straps := a :: a :: r } } b := by
  unfold strapResample
  rw [if_pos ⟨hb, not_strapsAgreed hs hr⟩, ← hx, hs]
  exact if_pos (strapsAgreed_of rfl)

theorem refclkReturn_agreed {s : State} (b : Bool) (hb : s.pw.boot = .straps) (ha : strapsAgreed s = true) :
    refclkReturn s b = bootFlow { s with pw := { s.pw with refclk := true } } b := if_pos ⟨hb, ha⟩

theorem perstRelease_held {s : State} (b : Bool) (hb : s.pw.boot = .heldReset) :
    perstRelease s b = bootFlow { s with pw := { s.pw with perst := false } } b := if_pos hb

/-! ### The main rails and REFCLK (R442, R448) -/

theorem pwrOkFall_unplanned {s : State} (hp : s.pw.pwrOk = true) (hm : s.pw.mainPwrEn = true) : pwrOkFall s = powerLost s := by
  unfold pwrOkFall
  rw [if_neg (by rw [hp]; exact Bool.false_ne_true), if_pos hm]

theorem powerRestart_due {s : State} {x : Nat} (hl : s.pw.lossAt = some x) (hd : x + 100 * ms ≤ s.mono) (hb : s.pw.boot = .waitPwrOk) :
    powerRestart s = { s with pw := { s.pw with lossAt := none, mainPwrEn := true } } := by
  unfold powerRestart
  rw [hl]
  exact if_pos ⟨hd, hb⟩

theorem refclkLoss_powered {s : State} (hp : s.pw.pwrOk = true) (hm : s.pw.mainPwrEn = true) :
    refclkLoss s = powerLost { s with pw := { s.pw with refclk := false } } := if_pos ⟨hp, hm⟩

end Sys2Proof.Machine

open Sys2Proof Sys2Proof.Machine

/-- Settles O14: each reset by the state it leaves, and what the cause record adds to it. -/
theorem resetRows : Obligations.reset_rows := by
  unfold Obligations.reset_rows
  intro s hb
  refine ⟨fun hs => ⟨_, congrArg Host.Outcome.next (perstAssert_operating hb hs), rfl, rfl, perstHeld_mem s, perstHeld_resetKind s,
    perstHeld_log s, fun k => perstHeld_rd s⟩, fun h => ⟨_, congrArg Host.Outcome.next (perstAssert_pcieOnly hb h), rfl, rfl, rfl, rfl⟩, ?_,
    _, rfl, rfl, rfl, rfl, rfl, rfl, rfl⟩
  obtain ⟨hev, hsec⟩ := recordCause_keeps (sysCleared s) 2 0 0
  obtain ⟨hmem, -, -, -⟩ := recordCause_frame (sysCleared s) 2 0 0
  obtain ⟨hpwrOk, -⟩ := recordCause_pins (sysCleared s) 2 0 0
  exact ⟨_, congrArg Host.Outcome.next (sysReset_powered hb), recordCause_boot _ 2 0 0, hpwrOk, hmem, recordCause_kind _ 2 0 0,
    (congrArg Events.log hev :), (congrArg Security.fuses hsec :), fun k => sysReset_rd s⟩

/-- Settles O15: each row by its own equation; where it starts the boot flow, the boot ROM is what that flow comes to. -/
theorem powerUpRows : Obligations.power_up_rows := by
  unfold Obligations.power_up_rows
  intro s
  refine ⟨fun h => ⟨_, rfl, aonPowerOn_starts h⟩, fun x hb hm => ⟨_, congrArg Host.Outcome.next (pwrOkRise_samples x hb hm), rfl, rfl, rfl⟩,
    fun x a b r hb hs hr hx h1 hp hc ht h3 => ?straps, fun hp hm => ?fall,
    fun x hl hd hb => ⟨_, congrArg Host.Outcome.next (powerRestart_due hl hd hb), rfl⟩, fun hp hm => ?refclkLost,
    fun hb ha hp ht h3 => ?refclkBack, fun hb hp hc ht h3 => ?perst, rfl⟩
  case straps =>
    subst h1
    obtain ⟨n, hpw⟩ := bootFlow_rom { s with pw := { s.pw with straps := a :: a :: r } } hp hc ((testMode_of rfl).trans ht) h3
    refine ⟨_, congrArg Host.Outcome.next (strapResample_agrees hb hs hr hx true), ?_⟩
    rw [hpw]
    exact ⟨rfl, rfl⟩
  case fall =>
    obtain ⟨hboot, hen, hloss, hmem, hfail, -⟩ := powerLost_facts s
    exact ⟨_, congrArg Host.Outcome.next (pwrOkFall_unplanned hp hm), hboot, hen, hloss, hmem, hfail⟩
  case refclkLost =>
    obtain ⟨hboot, -, hloss, -, -, hclk⟩ := powerLost_facts { s with pw := { s.pw with refclk := false } }
    exact ⟨_, congrArg Host.Outcome.next (refclkLoss_powered hp hm), hclk, hboot, hloss⟩
  case refclkBack =>
    obtain ⟨n, hpw⟩ := bootFlow_rom { s with pw := { s.pw with refclk := true } } hp rfl ht h3
    refine ⟨_, congrArg Host.Outcome.next (refclkReturn_agreed true hb ha), ?_⟩
    rw [hpw]
    exact ⟨rfl, rfl⟩
  case perst =>
    obtain ⟨n, hpw⟩ := bootFlow_rom { s with pw := { s.pw with perst := false } } hp hc ht h3
    refine ⟨_, congrArg Host.Outcome.next (perstRelease_held true hb), ?_⟩
    rw [hpw]
    exact ⟨rfl, rfl⟩
end

section
/-! PROOFS. Boot images and training (R401 to R404, Table 18.4), and the FATAL reset (R425). -/

namespace Sys2Proof.Machine

/-! ### Boot images (R401 to R403) -/

theorem bootOffer_taken {s : State} (i : Image) (hb : s.pw.boot = .rom ∨ s.pw.boot = .bootstrap) (hg : (s.h2d 0).go = true)
    (hm : ((s.h2d 0).msg.headD 0).toNat / 0x1000000 = 0xB1) (hn : s.pw.booting = none) : bootOffer s i =
      { s.setH2d 0 { s.h2d 0 with go := false } with pw := { s.pw with booting := some ⟨i.octs.take ((s.h2d 0).msg.getD 3 0).toNat⟩ } } :=
  if_pos ⟨hb, hg, hm, by rw [hn]; rfl⟩

/-- An image that fails its checks is forgotten, and one of its class asked for again with the abort. -/
def imageRejected (s : State) (cls abort : Nat) : State :=
  bootNeed ({ s with pw := { s.pw with booting := none } }.event Ev.bootImageRejected 0 0) cls abort

/-- The bootstrap starts, and asks for the firmware. -/
def bootstrapStarted (s : State) (i : Image) : State :=
  bootNeed { s with pw := { s.pw with boot := .bootstrap, booting := none, bootstrapImage := some i } } 2 0

theorem bootVerified_rom {s : State} {i : Image} (hb : s.pw.boot = .rom) (hi : s.pw.booting = some i) : bootVerified s =
    if verifyImage s 1 i ≠ 0 then imageRejected s 1 (verifyImage s 1 i) else bootstrapStarted s i := by
  have hclass : bootClass s = 1 := if_pos hb
  unfold bootVerified
  rw [hi]
  dsimp only
  rw [hclass, if_neg (fun h => absurd h.1 (by decide))]
  rfl

theorem bootVerified_bootstrap {s : State} {i : Image} (hb : s.pw.boot = .bootstrap) (hi : s.pw.booting = some i) (hh : s.pw.hbmReady = true)
    (hv : verifyImage s 2 i = 0) : bootVerified s = bootReady s i := by
  have hclass : bootClass s = 2 := if_neg (by rw [hb]; decide)
  unfold bootVerified
  rw [hi]
  dsimp only
  rw [hclass, if_neg (fun h => h.2 hh), if_neg (not_not_intro hv), if_neg (by decide)]

theorem imageRejected_pw (s : State) (cls abort : Nat) : (imageRejected s cls abort).pw = { s.pw with booting := none } :=
  (bootNeed_told _ cls abort).pw.trans (State.event_pw _ _ _ _)

theorem bootstrapStarted_pw (s : State) (i : Image) :
    (bootstrapStarted s i).pw = { s.pw with boot := .bootstrap, booting := none, bootstrapImage := some i } := (bootNeed_told _ 2 0).pw

/-! ### Training at the boot (Table 18.4) -/

theorem exec_trainingComplete_boot {s : State} (x : TrainEnd) (hb : s.pw.boot = .rom ∨ s.pw.boot = .bootstrap) (hh : s.pw.hbmReady = false) :
    exec (.trainingComplete 32 x) s = .next (trainingAll s x) :=
  congrArg Host.Outcome.next ((if_neg (by decide)).trans (if_pos ⟨rfl, hb, ne_true_of_eq_false hh⟩))

/-! ### The FATAL reset (R425) -/

/-- The device fenced, and with a peer its failure to be told. -/
def fenceReported (s : State) : State :=
  let t := fence s
  if t.paired then { t with tw := { t.tw with failReport := true } } else t

theorem fenceReported_pw (s : State) : (fenceReported s).pw = s.pw := by
  unfold fenceReported
  dsimp only
  split
  · exact fence_pw s
  · exact fence_pw s

/-- The device as a FATAL event's reset hands it to the boot flow. -/
def fatalCleared (s : State) (code : Nat) : State :=
  let t := recordCause (mainReset (fenceReported s)) 3 code (interrupted s)
  { t with pw := { t.pw with boot := .straps } }

theorem fatalReset_boots {s : State} {code : Nat} (h : s.ev.fatal = some code) (b : Bool) :
    fatalReset s b = bootFlow (fatalCleared s code) b := by
  unfold fatalReset
  rw [h]
  rfl

/-- The pins and straps outlive the reset. -/
theorem fatalCleared_pins (s : State) (code : Nat) : (fatalCleared s code).pw.pwrOk = s.pw.pwrOk ∧
    (fatalCleared s code).pw.refclk = s.pw.refclk ∧ testMode (fatalCleared s code) = testMode s := by
  obtain ⟨hok, hstraps⟩ := recordCause_pins (mainReset (fenceReported s)) 3 code (interrupted s)
  obtain ⟨-, -, -, hclk⟩ := recordCause_frame (mainReset (fenceReported s)) 3 code (interrupted s)
  have hpw := fenceReported_pw s
  have hstrapsKept : (fatalCleared s code).pw.straps = s.pw.straps := hstraps.trans (congrArg Power.straps hpw :)
  refine ⟨hok.trans (congrArg Power.pwrOk hpw :), hclk.trans (congrArg Power.refclk hpw :), ?_⟩
  unfold testMode
  rw [hstrapsKept]

theorem fatalCleared_record (s : State) (code : Nat) : (fatalCleared s code).rd Obj.resetKind = 3 ∧
    (fatalCleared s code).rd Obj.resetCode = code ∧ (fatalCleared s code).mem = [] := by
  have hdict : (fatalCleared s code).dict = (recordCause (mainReset (fenceReported s)) 3 code (interrupted s)).dict := rfl
  obtain ⟨hmem, -⟩ := recordCause_frame (mainReset (fenceReported s)) 3 code (interrupted s)
  exact ⟨(State.rd_congr hdict _).trans (recordCause_kind ..), (State.rd_congr hdict _).trans (recordCause_code ..), hmem⟩

theorem fatalReset_record {s : State} {code : Nat} (h : s.ev.fatal = some code) (hp : s.pw.pwrOk = true) (hc : s.pw.refclk = true)
    (ht : testMode s = false) : (fatalReset s true).rd Obj.resetKind = 3 ∧ (fatalReset s true).rd Obj.resetCode = code ∧
    (fatalReset s true).mem = [] := by
  obtain ⟨hok, hclk, htest⟩ := fatalCleared_pins s code
  obtain ⟨hkind, hcode, hmem⟩ := fatalCleared_record s code
  have hboot := bootFlow_rd (fatalCleared s code) (hok.trans hp) (hclk.trans hc) (htest.trans ht)
  obtain ⟨hkindKept, hmemKept⟩ := hboot Obj.resetKind (by decide) (by decide)
  obtain ⟨hcodeKept, -⟩ := hboot Obj.resetCode (by decide) (by decide)
  rw [fatalReset_boots h]
  exact ⟨hkindKept.trans hkind, hcodeKept.trans hcode, hmemKept.trans hmem⟩

end Sys2Proof.Machine

open Sys2Proof Sys2Proof.Machine

/-- Settles O16: an image by the stage it is for and its checks, training and the FATAL reset each by what it leaves. -/
theorem bootRows : Obligations.boot_rows := by
  unfold Obligations.boot_rows
  intro s
  refine ⟨fun i hb hg hm hn => ?offer, fun i hb hi hv => ?starts, fun i hb hi hh hv => ?ready, fun i a hb hi ha hne => ?rejected,
    fun x hb hh => ⟨_, exec_trainingComplete_boot x hb hh, trainingAll_facts s x⟩,
    fun code h hp hc ht => ⟨_, rfl, fatalReset_record h hp hc ht⟩⟩
  case offer => exact ⟨_, congrArg Host.Outcome.next (bootOffer_taken i hb hg hm hn), rfl, congrArg Mailbox.go (AMap.get_put_same ..)⟩
  case starts =>
    refine ⟨_, congrArg Host.Outcome.next ((bootVerified_rom hb hi).trans (if_neg (not_not_intro hv))), ?_⟩
    rw [bootstrapStarted_pw]
    exact ⟨rfl, rfl, rfl⟩
  case ready => exact ⟨_, congrArg Host.Outcome.next (bootVerified_bootstrap hb hi hh hv), bootReady_facts s i⟩
  case rejected =>
    subst ha
    exact ⟨_, congrArg Host.Outcome.next ((bootVerified_rom hb hi).trans (if_pos hne)), imageRejected_pw s 1 _⟩
end

section
/-! PROOFS. Wake events (R388), temperature and throttling (R393, R394), scripts (R395), lanes (R449, R450). -/

namespace Sys2Proof.Machine

/-! ### Wake events (R388, Table 17.3) -/

/-- Each bit of Table 17.3 is its wake event, under the event's own condition. -/
theorem wakeEvent_eq_wake {s : State} {b p : Nat} {w : Wake}
    (h : b = 0 ∧ w = .mailbox ∨ b = 1 ∧ w = .doorbell ∨ b = 2 ∧ w = .dtp ∨ b = 3 ∧ w = .hbRx ∨
      b = 4 ∧ w = .alarm ∧ s.rd Obj.wakeAfter ≠ 0 ∧ s.pw.seasonSince + s.rd Obj.wakeAfter * 1000000000 ≤ s.mono ∨
      b = 5 ∧ w = .nqSignal ∧ p < 6 ∧ s.rd (Obj.nqEnable p) = 1 ∨ b = 6 ∧ w = .hostPerst) : wakeEvent s b p = s.wake w := by
  rcases h with ⟨rfl, rfl⟩ | ⟨rfl, rfl⟩ | ⟨rfl, rfl⟩ | ⟨rfl, rfl⟩ | ⟨rfl, rfl, hafter⟩ | ⟨rfl, rfl, hport⟩ | ⟨rfl, rfl⟩
  · rfl
  · rfl
  · rfl
  · rfl
  · exact if_pos hafter
  · exact if_pos hport
  · rfl

/-- Bit 7 of AON_WAKE_CAUSE as a thaw begins: TEMP, after a thermal shutdown. -/
def tempCause (s : State) : Nat :=
  if s.pw.shutdownAt.isSome ∨ (s.season = .midwinter ∧ s.pw.resetCause % 0x10000 = Ev.thermalShutdown) then 0x80 else 0

theorem wake_thaws {s : State} {w : Wake} (ht : s.pw.thawFrom = none) (ha : wakeActs s w = true)
    (hm : s.season = .midwinter → w = .hostPerst ∨ s.pw.shutdownAt = none) (hw : s.pw.winterEntry = false) : s.wake w =
    (({ s with pw := { s.pw with thawFrom := some s.season, wakeAt := s.mono, scriptSince := s.mono, mainPwrEn := true } }.wr
      Obj.wakeCause (2 ^ w.bit + tempCause s)).wr Obj.target 2) := by
  have hshut : ¬ (s.season = .midwinter ∧ w ≠ .hostPerst ∧ s.pw.shutdownAt.isSome = true) := by
    rintro ⟨hs, hne, hsome⟩
    rw [(hm hs).resolve_left hne] at hsome
    cases hsome
  unfold State.wake
  rw [if_neg (by rw [ht]; exact Bool.false_ne_true), if_neg (by rw [ha]; exact Bool.false_ne_true), if_neg hshut,
    if_neg (by rw [hw]; exact Bool.false_ne_true)]
  rfl

theorem tempCause_cases (s : State) : tempCause s = 0 ∨ tempCause s = 0x80 := by
  unfold tempCause
  split
  · exact .inr rfl
  · exact .inl rfl

/-! ### Temperature (R393, R394) -/

/-- The power state holds no object. -/
theorem rd_withPw (s : State) (p : Power) (k : Nat) : ({ s with pw := p } : State).rd k = s.rd k := rfl

/-- Throttled time taken into ThrottleMs. -/
def throttleCounted (s : State) : State := s.dspRebase.count Obj.throttleMs (throttleDue s)

theorem throttleCounted_rd (s : State) {k : Nat} (h : k ≠ Obj.throttleMs) : (throttleCounted s).rd k = s.rd k := by
  have hcount : (throttleCounted s).rd k = s.dspRebase.rd k := State.rd_wr_other _ _ h
  rw [hcount]
  exact State.rd_congr rfl k

theorem throttleTime_zero {s : State} (h : s.rd Obj.throttleLevel = 0) :
    throttleTime s = { s.dspRebase with pw := { s.pw with throttleAt := s.mono } } := if_pos h

theorem throttleTime_counts {s : State} (h : s.rd Obj.throttleLevel ≠ 0) :
    throttleTime s = { throttleCounted s with pw := { s.pw with throttleAt := s.pw.throttleAt + throttleDue s * ms } } := if_neg h

theorem throttleTime_pw (s : State) : ∃ at_, (throttleTime s).pw = { s.pw with throttleAt := at_ } := by
  by_cases h : s.rd Obj.throttleLevel = 0
  · exact ⟨_, by rw [throttleTime_zero h]⟩
  · exact ⟨_, by rw [throttleTime_counts h]⟩

theorem throttleTime_mono (s : State) : (throttleTime s).mono = s.mono := by
  by_cases h : s.rd Obj.throttleLevel = 0
  · rw [throttleTime_zero h]
    rfl
  · rw [throttleTime_counts h]
    rfl

theorem throttleTime_rd (s : State) {k : Nat} (hk : k ≠ Obj.throttleMs) : (throttleTime s).rd k = s.rd k := by
  by_cases h : s.rd Obj.throttleLevel = 0
  · rw [throttleTime_zero h, rd_withPw]
    exact State.rd_congr rfl k
  · rw [throttleTime_counts h, rd_withPw, throttleCounted_rd s hk]

/-- The junction or a stack is at or above where throttling starts. -/
def junctionHot (s : State) (x : Int) : Bool :=
  decide (s.rdI16 Obj.throttleStart ≤ x) || decide (100 ≤ s.stackTemp 0) || decide (100 ≤ s.stackTemp 1)

/-- Junction and stacks are below where throttling stops. -/
def junctionCool (s : State) (x : Int) : Bool :=
  decide (x < s.rdI16 Obj.throttleStop) && decide (s.stackTemp 0 < 98) && decide (s.stackTemp 1 < 98)

theorem junctionHot_iff (s : State) (x : Int) :
    junctionHot s x = true ↔ s.rdI16 Obj.throttleStart ≤ x ∨ 100 ≤ s.stackTemp 0 ∨ 100 ≤ s.stackTemp 1 := by
  simp only [junctionHot, Bool.or_eq_true, decide_eq_true_eq, or_assoc]

theorem junctionCool_iff (s : State) (x : Int) :
    junctionCool s x = true ↔ x < s.rdI16 Obj.throttleStop ∧ s.stackTemp 0 < 98 ∧ s.stackTemp 1 < 98 := by
  simp only [junctionCool, Bool.and_eq_true, decide_eq_true_eq, and_assoc]

/-- The times a sample below the shutdown limit starts or ends. -/
def samplePower (p : Power) (hot cool : Bool) (now : Nat) : Power :=
  { p with
    hotSince := if hot then some (p.hotSince.getD now) else none
    coolSince := if cool then some (p.coolSince.getD now) else none }

theorem junctionSample_below {s : State} {x : Int} (h : x < 120) : (junctionSample s x).rd Obj.junction = uns 16 x ∧
    ∃ at_, (junctionSample s x).pw = samplePower { s.pw with throttleAt := at_ } (junctionHot s x) (junctionCool s x) s.mono := by
  obtain ⟨at_, hpw⟩ := throttleTime_pw s
  unfold junctionSample
  dsimp only
  rw [if_neg (by omega)]
  generalize hu : (throttleTime s).wr Obj.junction (uns 16 x) = u
  have hkeep : ∀ k, k ≠ Obj.throttleMs → k ≠ Obj.junction → u.rd k = s.rd k := fun k h1 h2 => by
    rw [← hu, State.rd_wr_other _ _ h2, throttleTime_rd s h1]
  have hsigned : ∀ k, k ≠ Obj.throttleMs → k ≠ Obj.junction → u.rdI16 k = s.rdI16 k := fun k h1 h2 => congrArg (sgn 16) (hkeep k h1 h2)
  have hstack : ∀ k, k < 2 → u.stackTemp k = s.stackTemp k := fun k hk =>
    hsigned _ (by unfold Obj.stackTemp Obj.throttleMs key; omega) (by unfold Obj.stackTemp Obj.junction key; omega)
  have hhot : junctionHot u x = junctionHot s x := by
    unfold junctionHot
    rw [hsigned Obj.throttleStart (by decide) (by decide), hstack 0 (by decide), hstack 1 (by decide)]
  have hcool : junctionCool u x = junctionCool s x := by
    unfold junctionCool
    rw [hsigned Obj.throttleStop (by decide) (by decide), hstack 0 (by decide), hstack 1 (by decide)]
  have hupw : u.pw = { s.pw with throttleAt := at_ } := by rw [← hu]; exact hpw
  have humono : u.mono = s.mono := by rw [← hu]; exact throttleTime_mono s
  refine ⟨?_, at_, ?_⟩
  · rw [← hu]
    exact State.rd_wr_same ..
  · rw [← hhot, ← hcool, ← hupw, ← humono]
    rfl

/-! ### Throttle level (R393) -/

section
variable {s : State} {x : Nat}

/-- One level up, hot anew from the end of the millisecond counted. -/
def throttleUp (s : State) (x : Nat) : State :=
  let t := (throttleTime s).wr Obj.throttleLevel (s.rd Obj.throttleLevel + 1)
  { t with pw := { t.pw with hotSince := some (x + ms) } }

/-- One level down, cool anew from the end of the 10 ms counted. -/
def throttleDown (s : State) (x : Nat) : State :=
  let t := (throttleTime s).wr Obj.throttleLevel (s.rd Obj.throttleLevel - 1)
  { t with pw := { t.pw with coolSince := some (x + 10 * ms) } }

theorem throttleUp_level (s : State) (x : Nat) : (throttleUp s x).rd Obj.throttleLevel = s.rd Obj.throttleLevel + 1 :=
  (rd_withPw ((throttleTime s).wr Obj.throttleLevel _) _ _).trans (State.rd_wr_same ..)

theorem throttleDown_level (s : State) (x : Nat) : (throttleDown s x).rd Obj.throttleLevel = s.rd Obj.throttleLevel - 1 :=
  (rd_withPw ((throttleTime s).wr Obj.throttleLevel _) _ _).trans (State.rd_wr_same ..)

theorem throttleStep_up (hh : s.pw.hotSince = some x) (hd : x + ms ≤ s.mono) (hl : s.rd Obj.throttleLevel < 12) : throttleStep s true =
    if s.rd Obj.throttleLevel = 0 then (throttleUp s x).event Ev.thermalThrottle 0 0 else throttleUp s x := by
  unfold throttleStep
  rw [if_pos rfl, hh]
  dsimp only
  rw [if_pos ⟨hd, hl⟩]
  rfl

theorem throttleStep_down (hc : s.pw.coolSince = some x) (hd : x + 10 * ms ≤ s.mono) (hl : 0 < s.rd Obj.throttleLevel) : throttleStep s false =
    if s.rd Obj.throttleLevel = 1 then (throttleDown s x).event Ev.thermalNormal 0 0 else throttleDown s x := by
  unfold throttleStep
  rw [if_neg Bool.false_ne_true, hc]
  dsimp only
  rw [if_pos ⟨hd, hl⟩]
  rfl

/-- The event of the first or last level says nothing of level and times. -/
theorem event_ite_frame (p : Prop) [Decidable p] (t : State) (code : Nat) :
    (if p then t.event code 0 0 else t).rd Obj.throttleLevel = t.rd Obj.throttleLevel ∧ (if p then t.event code 0 0 else t).pw = t.pw := by
  split
  · exact ⟨State.event_rd _ _ _ _ _ (by decide), State.event_pw ..⟩
  · exact ⟨rfl, rfl⟩
end

/-! ### The shutdown's hold, scripts and lanes (R394, R395, R449, R450) -/

theorem thermalHold_over {s : State} {x : Nat} (h : s.pw.shutdownAt = some x) (hd : x + 10000000000 ≤ s.mono) :
    thermalHold s = { s with pw := { s.pw with shutdownAt := none } } := by
  unfold thermalHold
  rw [h]
  exact if_pos hd

theorem scriptLate_of {s : State} {max n : Nat} (hn : 2 * max = n) (h : s.pw.scriptSince + n < s.mono) : scriptLate s max = true := by
  subst hn
  exact decide_eq_true h

theorem scriptTimeout_rise {s : State} (hr : s.pw.rising = true) (h : s.pw.scriptSince + 10000000 < s.mono) :
    scriptTimeout s = { s with pw := { s.pw with rising := false } }.event Ev.seasonScriptFail 0 0 := if_pos ⟨hr, scriptLate_of rfl h⟩

theorem scriptTimeout_winter {s : State} (hr : s.pw.rising = false) (hw : s.pw.winterEntry = true) (h : s.pw.scriptSince + 6000000 < s.mono) :
    scriptTimeout s = { s with pw := { s.pw with winterEntry := false } }.event Ev.seasonScriptFail 0 0 :=
  (if_neg (fun hc => Bool.false_ne_true (hr.symm.trans hc.1))).trans (if_pos ⟨hw, scriptLate_of rfl h⟩)

theorem laneSignal_eth {s : State} {l : Nat} (above : Bool) (h1 : 26 ≤ l) (h2 : l < 34) :
    laneSignal s l above = { s with pw := { s.pw with ethLos := putBit s.pw.ethLos (l - 26) (!above) } } := if_pos ⟨h1, h2⟩

theorem laneSignal_port {s : State} {l : Nat} (above : Bool) (h : l < 26) (hs : s.season ≠ .winter) (hr : s.running = true) :
    laneSignal s l above = phyEvent s (.signal l (!above)) := by
  unfold laneSignal
  rw [if_neg (by omega), if_pos h, if_neg hs, if_pos hr]

theorem presetTimeout_marks {s : State} {p : Nat} (hp : p < 2) (hr : s.running = true) :
    presetTimeout s p = { s with pw := { s.pw with ethPreset := setBit s.pw.ethPreset p } } := if_pos ⟨hp, hr⟩

end Sys2Proof.Machine

open Sys2Proof Sys2Proof.Machine

/-- Settles O44: a wake event by the thaw it starts, a sample by the times it starts or ends, every other row by its own equation. -/
theorem powerAndThermal : Obligations.power_and_thermal := by
  unfold Obligations.power_and_thermal
  intro s
  refine ⟨fun b p w hb ht ha hm hw => ?wake, fun x hr hx => ?sample, fun h hr hh hd hl => ?up, fun c hr hc hd hl => ?down,
    fun x h hd => congrArg Host.Outcome.next (thermalHold_over h hd), fun hr h => congrArg Host.Outcome.next (scriptTimeout_rise hr h),
    fun hr hw h => congrArg Host.Outcome.next (scriptTimeout_winter hr hw h),
    fun l above h1 h2 => congrArg Host.Outcome.next (laneSignal_eth above h1 h2),
    fun l above h hs hr => congrArg Host.Outcome.next (laneSignal_port above h hs hr),
    fun p hp hr => congrArg Host.Outcome.next (presetTimeout_marks hp hr)⟩
  case wake =>
    have hcause := State.rd_wr_same { s with pw := { s.pw with
      thawFrom := some s.season, wakeAt := s.mono, scriptSince := s.mono, mainPwrEn := true } } Obj.wakeCause (2 ^ w.bit + tempCause s)
    refine ⟨_, congrArg Host.Outcome.next ((wakeEvent_eq_wake hb).trans (wake_thaws ht ha hm hw)), rfl, rfl, rfl, State.rd_wr_same .., ?_⟩
    rw [State.rd_wr_other _ _ (by decide), hcause]
    exact (tempCause_cases s).imp (fun h0 => by rw [h0]; rfl) (fun h8 => by rw [h8])
  case sample =>
    obtain ⟨hrd, at_, hpw⟩ := junctionSample_below (s := s) hx
    refine ⟨_, next_if hr, hrd, fun hhot => ?_, fun h1 h2 h3 => ?_, fun h1 h2 h3 => ?_, fun hwarm => ?_⟩
    all_goals rw [hpw]
    · exact if_pos ((junctionHot_iff s x).mpr hhot)
    · exact if_neg (fun hhot => ((junctionHot_iff s x).mp hhot).elim (by omega) (by omega))
    · exact if_pos ((junctionCool_iff s x).mpr ⟨h1, h2, h3⟩)
    · exact if_neg (fun hcool => by have := (junctionCool_iff s x).mp hcool; omega)
  case up =>
    obtain ⟨hlevel, hpw⟩ := event_ite_frame (s.rd Obj.throttleLevel = 0) (throttleUp s h) Ev.thermalThrottle
    refine ⟨_, (next_if hr).trans (congrArg Host.Outcome.next (throttleStep_up hh hd hl)), hlevel.trans (throttleUp_level s h),
      congrArg Power.hotSince hpw⟩
  case down =>
    obtain ⟨hlevel, hpw⟩ := event_ite_frame (s.rd Obj.throttleLevel = 1) (throttleDown s c) Ev.thermalNormal
    refine ⟨_, (next_if hr).trans (congrArg Host.Outcome.next (throttleStep_down hc hd hl)), hlevel.trans (throttleDown_level s c),
      congrArg Power.coolSince hpw⟩
end

section
/-! PROOFS. Event handlers (R424), the watchdog (R426), scans (R429, R430), image checks (R431) and the counter latch (R427). -/

namespace Sys2Proof.Machine

/-! ### Handlers (R424) -/

theorem handlerRun_next {s : State} (hf : s.ev.fatal = none) : handlerRun s = { s with ev := { s.ev with
    running := (nextHandler s.ev.running.tail s.ev.queued).1
    queued := (nextHandler s.ev.running.tail s.ev.queued).2 } } := by
  unfold handlerRun
  rw [if_neg (by rw [hf]; exact Bool.false_ne_true)]

theorem nextHandler_none_queued (paused : List Handler) : nextHandler paused [] = (paused, []) := rfl

theorem nextHandler_preempts {paused queued : List Handler} {h : Handler} (ht : topHandler queued = some h)
    (hp : ∀ g ∈ paused.head?, g.severity < h.severity) (h0 : 0 < h.severity) : nextHandler paused queued = (h :: paused, queued.erase h) := by
  have hlow : (paused.head?.map Handler.severity).getD 0 < h.severity := by
    cases hc : paused.head? with
    | none => exact h0
    | some g => exact hp g hc
  unfold nextHandler
  rw [ht]
  exact if_pos hlow

/-! ### The watchdog (R426) -/

section
variable {s : State} {w : Nat}

theorem watchdogKick_running (hw : s.ig.wdAt = some w) :
    watchdogKick s = { s with ig := { s.ig with wdAt := some s.mono, wdWarned := false } } := if_pos (by rw [hw]; rfl)

theorem watchdogAt_reached (n : Nat) (hw : s.ig.wdAt = some w) (hd : w + n * s.rd Obj.watchdogPeriod * 1000000 ≤ s.mono) :
    watchdogAt s n = true := by
  unfold watchdogAt
  rw [hw]
  exact decide_eq_true hd

theorem watchdogWarn_due (hw : s.ig.wdAt = some w) (hd : w + s.rd Obj.watchdogPeriod * 1000000 ≤ s.mono) (hn : s.ig.wdWarned = false) :
    watchdogWarn s = ({ s with ig := { s.ig with wdWarned := true } }.inc Obj.watchdogWarnings).event Ev.watchdogWarn 0 0 :=
  if_pos ⟨watchdogAt_reached 1 hw (by rwa [Nat.one_mul]), ne_true_of_eq_false hn⟩

theorem watchdogReset_due (hw : s.ig.wdAt = some w) (hd : w + 2 * s.rd Obj.watchdogPeriod * 1000000 ≤ s.mono) :
    watchdogReset s = { s with ig := { s.ig with wdAt := none } }.event Ev.watchdogReset 0 0 := if_pos (watchdogAt_reached 2 hw hd)
end

/-! ### Scans (R429, R430) -/

/-- The Result of a scan. -/
def scanValue (s : State) (x : ScanRun) : Nat :=
  let r := crcMem s ⟨x.width, x.poly, x.init, x.refIn, x.refOut, x.xorOut⟩ x.length x.start (x.init % 2 ^ x.width)
  (if x.refOut then revBits x.width r else r) ^^^ x.xorOut

theorem scanDone_runs {s : State} {x : ScanRun} (hx : s.ig.scan = some x) :
    scanDone s = ({ s with ig := { s.ig with scan := none } }.wr Obj.scanState 2).wr Obj.scanResult (scanValue s x) := by
  unfold scanDone
  rw [hx]
  rfl

/-! ### Image checks (R431) -/

theorem imageScrub_due {s : State} (bad : List (Nat × Nat)) (hp : s.rd Obj.scrubPeriod ≠ 0)
    (hd : s.ig.scrubAt + s.rd Obj.scrubPeriod * 3600000000000 ≤ s.mono) : imageScrub s bad =
    bad.foldl (fun t b => imageBad t b.1 b.2) { s with ig := { s.ig with scrubAt := s.mono } } := if_pos ⟨hp, hd⟩

/-- A Maten program whose image fails its check is noted, and the failure counted. -/
theorem imageBad_maten {s : State} {n : Nat} (h : imageHeld s 0x10 n = true) : n ∈ (imageBad s 0x10 n).ig.corrupt ∧
    (imageBad s 0x10 n).rd Obj.imageChecksFailed = satAdd (s.rd Obj.imageChecksFailed) 1 (maxOf Obj.imageChecksFailed) := by
  unfold imageBad
  dsimp only
  rw [if_neg (by rw [h]; exact Bool.false_ne_true), if_neg (by decide), if_pos rfl, State.event_ig, State.event_rd _ _ _ _ _ (by decide)]
  exact ⟨List.mem_cons_self, (State.rd_congr rfl _).trans (rd_inc_same s _)⟩

/-! ### The counter latch (R172, R313, R340, R427) -/

theorem counterLatch_empties (s : State) : (counterLatch s).mm.traffic = [] ∧ (counterLatch s).fb.seconds = [] := by
  unfold counterLatch
  have hseconds := latched_seconds s (List.range 64) (List.range 4)
  dsimp only
  generalize List.foldl trafficLatch _ _ = t at hseconds ⊢
  obtain ⟨hmm, hfb⟩ := mediaLatch_frame { t with mm := { t.mm with traffic := [] } }
  rw [hmm, hfb]
  exact ⟨rfl, hseconds⟩

end Sys2Proof.Machine

open Sys2Proof Sys2Proof.Machine

/-- Settles O31: each row by its own equation, while the control cluster runs. -/
theorem handlersWatchdogScans : Obligations.handlers_watchdog_scans := by
  unfold Obligations.handlers_watchdog_scans
  intro s hr
  refine ⟨fun hf hq => ?goesOn, fun h hf ht hp h0 => ?preempts, fun w hc hw => ?kick, fun w hc hw hd hn => ?warn, fun w hc hw hd => ?reset,
    fun x hx => ?scan, fun hp hd => ⟨?clean, fun n hn => ?corrupt⟩, ⟨_, next_if hr, counterLatch_empties s⟩⟩
  case goesOn =>
    refine ⟨_, next_running hr (handlerRun_next hf), ?_⟩
    rw [hq, nextHandler_none_queued]
    exact ⟨rfl, rfl, rfl⟩
  case preempts =>
    refine ⟨_, next_running hr (handlerRun_next hf), ?_⟩
    rw [nextHandler_preempts ht hp h0]
    exact ⟨rfl, rfl, rfl⟩
  case kick => exact ⟨_, (next_if hc).trans (congrArg Host.Outcome.next (watchdogKick_running hw)), rfl, rfl, rfl, rfl⟩
  case warn =>
    refine ⟨_, (next_if hc).trans (congrArg Host.Outcome.next (watchdogWarn_due hw hd hn)), ?_⟩
    rw [State.event_ig, State.event_rd _ _ _ _ _ (by decide), rd_inc_same]
    exact ⟨hw, rfl, rfl⟩
  case reset =>
    refine ⟨_, (next_if hc).trans (congrArg Host.Outcome.next (watchdogReset_due hw hd)), ?_, event_fatal _ 0 0 rfl, State.event_mem ..⟩
    rw [State.event_ig]
  case scan =>
    refine ⟨_, next_running hr (scanDone_runs hx), rfl, ?_, rfl, _, rfl, State.rd_wr_same ..⟩
    rw [State.rd_wr_other _ _ (by decide), State.rd_wr_same]
  case clean => exact ⟨_, next_running hr (imageScrub_due [] hp hd), rfl, rfl⟩
  case corrupt => exact ⟨_, next_running hr (imageScrub_due [(0x10, n)] hp hd), imageBad_maten hn⟩
end

section
/-! PROOFS. The time unit (R367 to R377, R448): PTP messages, PPS, pulses, held timestamps, SYNC_IN. -/

namespace Sys2Proof.Machine

/-- The time unit's rows take place in every season but MIDWINTER. -/
theorem withTime_powered {s t u : State} (hs : s.season ≠ .midwinter) (h : t = u) : withTime s t = .next u :=
  (next_if hs).trans (congrArg Host.Outcome.next h)

/-! ### PTP messages (R370 to R373) -/

theorem Relayed.trans {s t u : State} (a : Relayed s t) (b : Relayed t u) : Relayed s u :=
  ⟨b.tm.trans a.tm, b.mono.trans a.mono, b.tod.trans a.tod, fun k hk => (b.rd k hk).trans (a.rd k hk)⟩

theorem Relayed.fromMaster {s t : State} (h : Relayed s t) (m : PtpMsg) : Machine.fromMaster t m = Machine.fromMaster s m :=
  fromMaster_congr m (congrArg TimeUnit.masters h.tm) h.mono

/-- Of a Sync, and of its Follow_Up, the relay sends what R371 asks. -/
def syncRelayed (s : State) (port : Nat) (two : Bool) : State :=
  let t := relayPtp s port 0 (!two)
  if two then relayPtp t port 8 true else t

theorem syncRelayed_relayed (s : State) (port : Nat) (two : Bool) : Relayed s (syncRelayed s port two) := by
  cases two with
  | false => exact relayPtp_relayed s port 0 true
  | true => exact (relayPtp_relayed s port 0 false).trans (relayPtp_relayed _ port 8 true)

theorem bnot_ne_true {b : Bool} (h : b = true) : ¬ (!b) = true := by
  rw [h]
  exact Bool.false_ne_true

theorem ptpAnnounce_notes {s : State} {m : PtpMsg} (rank utc : Nat) (ho : ownMessage s m = true) :
    (ptpAnnounce s m rank utc).tm.masters = noteAnnounce s.tm.masters m.identity rank utc s.mono ∧
    (ptpAnnounce s m rank utc).tod = s.tod := by
  have hrelay := relayPtp_relayed s m.port 0xB false
  unfold ptpAnnounce
  dsimp only
  rw [if_neg (bnot_ne_true ho)]
  generalize relayPtp s m.port 0xB false = t at hrelay ⊢
  obtain ⟨hmasters, htod⟩ := followMaster_facts
    { t with tm := { t.tm with masters := noteAnnounce t.tm.masters m.identity rank utc s.mono } }
  rw [hmasters, htod, ← hrelay.tm]
  exact ⟨rfl, hrelay.tod⟩

/-- A SYNC of the locked master: its difference noted, and the offset it gives measured. -/
theorem ptpSync_measured {s : State} {m : PtpMsg} (origin : Nat) (corr : Int) (two : Bool) (ho : ownMessage s m = true)
    (hm : fromMaster s m = true) : ∃ u : State, ptpSync s m origin corr two =
      measured { u with tm := { s.tm with syncAt := s.mono, syncDiff := rxTime s m.port - (origin : Int) - corr } }
        (rxTime s m.port - (origin : Int) - corr - s.tm.pathDelay) ∧
      u.rd Obj.servoState = s.rd Obj.servoState ∧ u.tod = s.tod := by
  have hrelay := syncRelayed_relayed s m.port two
  have htm : ((syncRelayed s m.port two).inc (Obj.timeCounter 0)).tm = s.tm := hrelay.tm
  have hsel : fromMaster ((syncRelayed s m.port two).inc (Obj.timeCounter 0)) m = true :=
    (fromMaster_congr (s := syncRelayed s m.port two) m rfl rfl).trans ((hrelay.fromMaster m).trans hm)
  refine ⟨(syncRelayed s m.port two).inc (Obj.timeCounter 0), ?_, ?_, hrelay.tod⟩
  · unfold ptpSync
    dsimp only
    rw [if_neg (bnot_ne_true ho)]
    rw [← htm]
    exact if_neg (bnot_ne_true hsel)
  · rw [rd_inc_other _ (by decide)]
    exact hrelay.rd _ (by decide)

/-- What a locked servo makes of an offset: it is shown, and the rate chosen anew. -/
theorem measured_locked_facts {s : State} (off : Int) (h : s.rd Obj.servoState = 2) : (measured s off).tm = s.tm ∧
    (measured s off).tod = s.tod ∧ (measured s off).rd Obj.tmOffset = uns 32 (clip (-2147483648) 2147483647 off) := by
  rw [measured_locked off h]
  obtain ⟨htm, htod, hrd⟩ := servoRate_facts (s.wr Obj.tmOffset (uns 32 (clip (-2147483648) 2147483647 off)))
  exact ⟨htm, htod, (hrd _ (by decide)).trans (State.rd_wr_same ..)⟩

theorem ptpDelayResp_answers {s : State} {m : PtpMsg} {t3 : Nat} (received : Nat) (corr : Int) (ho : ownMessage s m = true)
    (hm : fromMaster s m = true) (hq : s.tm.delayReq = some (m.seq, t3)) : (ptpDelayResp s m received corr).tm =
      { s.tm with delayReq := none, pathDelay := (s.tm.syncDiff + ((received : Int) - (t3 : Int) - corr)) / 2 } := by
  have hrelay := relayPtp_relayed s m.port 9 false
  unfold ptpDelayResp
  dsimp only
  rw [if_neg (bnot_ne_true (by rw [ho, hm]; rfl)), hrelay.tm, hq]
  exact congrArg State.tm (if_pos rfl)

theorem ptpDelayReq_due {s : State} (hon : s.ptpOn = true) (he : s.ethOut = true) (hb : (bestMaster s).isSome = true)
    (hd : s.tm.delayAt + 62500000 ≤ s.mono) : ptpDelayReq s = { s with tm := { s.tm with
      delayReq := some (s.tm.delaySeq, s.tod)
      delayAt := s.mono
      delaySeq := (s.tm.delaySeq + 1) % 65536 } }.emit
        (.ptpDelayReq (s.rd Obj.ptpPort) (ptpDest s) (s.rd Obj.ptpDomain) s.tm.delaySeq s.epochTag) :=
  if_pos ⟨hon, he, hb, .inr hd⟩

theorem announceTimeout_silent {s : State} (hst : s.steered = true) (hp : s.rd Obj.ptpSource = 0)
    (h : s.tm.announceAt + 375000000 ≤ s.mono ∨ s.tm.syncAt + 1000000000 ≤ s.mono) : announceTimeout s = toHoldover s Ev.timeHoldover :=
  if_pos ⟨hst, hp, h⟩

/-! ### PPS, pulses and held timestamps (R368, R369, R372, R376) -/

/-- Without a timestamp ring the record of an edge counts, and is written nowhere. -/
theorem stampRecord_noRing {s : State} (source at_ : Nat) (h : 2048 ≤ s.rd Obj.timestampRing) : stampRecord s source at_ =
    { s with tm := { s.tm with seqs := AMap.put 0 source ((AMap.get 0 source s.tm.seqs + 1) % 65536) s.tm.seqs } } := if_pos h

theorem stampRecord_noRing_rd {s : State} (source at_ k : Nat) (h : 2048 ≤ s.rd Obj.timestampRing) : (stampRecord s source at_).rd k = s.rd k := by
  rw [stampRecord_noRing source at_ h]
  exact State.rd_congr rfl k

/-- An edge of PPS_IN stamped and counted. -/
def ppsStamped (s : State) : State :=
  let t := (stampRecord s 0 s.tod).inc (Obj.timeCounter 5)
  { t with tm := { t.tm with ppsAt := s.mono } }

theorem ppsStamped_rd (s : State) (k : Nat) : (ppsStamped s).rd k = ((stampRecord s 0 s.tod).inc (Obj.timeCounter 5)).rd k :=
  State.rd_congr rfl k

/-- With another source than PPS an edge steers nothing. -/
theorem ppsEdge_unsteered {s : State} (hp : s.rd Obj.ptpSource ≠ 1) (hr : 2048 ≤ s.rd Obj.timestampRing) : ppsEdge s = ppsStamped s := by
  have hsource : (ppsStamped s).rd Obj.ptpSource ≠ 1 := by
    rwa [ppsStamped_rd, rd_inc_other _ (by decide), stampRecord_noRing_rd _ _ _ hr]
  exact if_neg hsource

theorem ppsEdge_counted {s : State} (hp : s.rd Obj.ptpSource ≠ 1) (hr : 2048 ≤ s.rd Obj.timestampRing) : (ppsEdge s).tm.ppsAt = s.mono ∧
    (ppsEdge s).rd (Obj.timeCounter 5) = satAdd (s.rd (Obj.timeCounter 5)) 1 (maxOf (Obj.timeCounter 5)) ∧ (ppsEdge s).tod = s.tod := by
  rw [ppsEdge_unsteered hp hr, ppsStamped_rd, rd_inc_same, stampRecord_noRing_rd _ _ _ hr]
  refine ⟨rfl, rfl, ?_⟩
  unfold ppsStamped
  rw [stampRecord_noRing 0 s.tod hr]
  rfl

theorem ppsMissing_silent {s : State} (hst : s.steered = true) (hp : s.rd Obj.ptpSource = 1) (h : s.tm.ppsAt + 1500000000 ≤ s.mono) :
    ppsMissing s = toHoldover s Ev.timePpsMissing := if_pos ⟨hst, hp, h⟩

/-- The pulse of an edge that is due. -/
def pulseSent (s : State) (n e : Nat) (q : PulseSet) : State :=
  ((s.setPulse n { s.pulse n with last := e + 1, ends := e + q.width, low := decide (q.polarity = 1) }).inc (Obj.pulseEmitted n)).emit
    (.pulse n e q.polarity q.width)

theorem pulseEdge_due {s : State} {n k e : Nat} {q : PulseSet} (he : (s.pulse n).edges (s.pulse n).last (s.tod + 1) = (k, e)) (hk : k ≠ 0)
    (hq : (s.pulse n).at_ e = some q) (hr : q.report ≠ 1) : pulseEdge s n = pulseSent s n e q := by
  unfold pulseEdge
  dsimp only
  rw [he]
  dsimp only
  rw [if_neg hk, hq]
  exact if_neg hr

theorem pulseSent_pulse (s : State) (n e : Nat) (q : PulseSet) : (pulseSent s n e q).pulse n =
    { s.pulse n with last := e + 1, ends := e + q.width, low := decide (q.polarity = 1) } := AMap.get_put_same ..

theorem pulseSent_out (s : State) (n e : Nat) (q : PulseSet) :
    (pulseSent s n e q).out = .pulse n e q.polarity q.width :: s.out := congrArg (List.cons _) (State.inc_out _ _)

theorem pulseSent_emitted (s : State) (n e : Nat) (q : PulseSet) : (pulseSent s n e q).rd (Obj.pulseEmitted n) =
    satAdd (s.rd (Obj.pulseEmitted n)) 1 (maxOf (Obj.pulseEmitted n)) := by
  unfold pulseSent
  rw [State.rd_emit, rd_inc_same]
  rfl

theorem holdExpiry_hold (s : State) :
    (holdExpiry s).tm.hold = s.tm.hold.filter (fun h => decide (s.mono < h.at_ + 1000000000)) := by
  unfold holdExpiry
  dsimp only
  rw [stampDrops_hold]

/-! ### SYNC_IN (R448) -/

theorem syncIn_absent {s : State} (hs : s.rd Obj.syncIn = 1) (hl : s.tm.syncLost = false) :
    syncIn s false = servoRate { s with tm := { s.tm with syncLost := true, syncSince := none } } := by
  unfold syncIn
  rw [if_neg (not_not_intro hs), Bool.not_false, if_pos rfl, if_neg (ne_true_of_eq_false hl)]

theorem syncIn_returned {s : State} {w : Nat} (hs : s.rd Obj.syncIn = 1) (hl : s.tm.syncLost = true) (hw : s.tm.syncSince = some w)
    (hd : w + 1000000000 ≤ s.mono) : syncIn s true = servoRate { s with tm := { s.tm with syncLost := false, syncSince := none } } := by
  unfold syncIn
  rw [if_neg (not_not_intro hs), if_neg (bnot_ne_true rfl), if_neg (bnot_ne_true hl), hw]
  exact if_pos hd

end Sys2Proof.Machine

open Sys2Proof Sys2Proof.Machine

/-- Settles O32: each row by its own equation; what is relayed of a message says nothing of the clock, and the servo writes its objects alone. -/
theorem timeUnit : Obligations.time_unit := by
  unfold Obligations.time_unit
  intro s
  refine ⟨fun m rank utc hr ho => ⟨_, withFabric_running hr _, ptpAnnounce_notes rank utc ho⟩, fun m origin corr two hr ho hm hl => ?sync,
    fun m received corr t3 hr ho hm hq => ?delay, fun hr hon he hb hd => ?request, fun hr hst hp h => ?silent, fun hs hp hr =>
    ⟨_, withTime_powered hs rfl, ppsEdge_counted hp hr⟩, fun hs hst hp h => ?missing, fun n k e q hs hn he hk hq hrep => ?pulse,
    fun hs => ?hold, fun hs hi hl => ?absent, fun w hs hi hl hw hd => ?returned⟩
  case sync =>
    obtain ⟨u, hsync, hservo, htod⟩ := ptpSync_measured origin corr two ho hm
    refine ⟨_, (withFabric_running hr _).trans (congrArg Host.Outcome.next hsync), ?_⟩
    obtain ⟨htm, htodKept, hoffset⟩ := measured_locked_facts (s := { u with tm := { s.tm with
      syncAt := s.mono, syncDiff := rxTime s m.port - (origin : Int) - corr } }) (rxTime s m.port - (origin : Int) - corr - s.tm.pathDelay)
      (hservo.trans hl)
    rw [htm, hoffset]
    exact ⟨rfl, rfl, rfl, htodKept.trans htod⟩
  case delay =>
    refine ⟨_, withFabric_running hr _, ?_⟩
    rw [ptpDelayResp_answers received corr ho hm hq]
    exact ⟨rfl, rfl⟩
  case request =>
    exact ⟨_, (withFabric_running hr _).trans (congrArg Host.Outcome.next (ptpDelayReq_due hon he hb hd)), rfl, rfl, rfl⟩
  case silent =>
    obtain ⟨hservo, hslew, hrate, -⟩ := toHoldover_facts s Ev.timeHoldover
    exact ⟨_, (withFabric_running hr _).trans (congrArg Host.Outcome.next (announceTimeout_silent hst hp h)), hservo, hslew, hrate⟩
  case missing =>
    obtain ⟨hservo, hslew, hrate, -⟩ := toHoldover_facts s Ev.timePpsMissing
    exact ⟨_, withTime_powered hs (ppsMissing_silent hst hp h), hservo, hslew, hrate⟩
  case pulse =>
    refine ⟨_, withTime_powered hs ((if_pos hn).trans (pulseEdge_due he hk hq hrep)), pulseSent_out s n e q, ?_, ?_, pulseSent_emitted s n e q⟩
    all_goals rw [pulseSent_pulse]
  case hold =>
    refine ⟨_, withTime_powered hs rfl, ?_⟩
    rw [holdExpiry_hold]
    exact ⟨fun h hm => of_decide_eq_true (List.mem_filter.mp hm).2, fun h hm hlt => List.mem_filter.mpr ⟨hm, decide_eq_true hlt⟩⟩
  case absent =>
    obtain ⟨htm, -⟩ := servoRate_facts { s with tm := { s.tm with syncLost := true, syncSince := none } }
    refine ⟨_, withTime_powered hs (syncIn_absent hi hl), ?_⟩
    rw [htm]
    exact ⟨rfl, rfl⟩
  case returned =>
    obtain ⟨htm, -⟩ := servoRate_facts { s with tm := { s.tm with syncLost := false, syncSince := none } }
    refine ⟨_, withTime_powered hs (syncIn_returned hi hl hw hd), ?_⟩
    rw [htm]
end
